-- ==== Sys2Proof/Word.lean ====
section
/-! DEFINITION. The word types of the Evovia 7200 (R7, R8) and the records that travel as operands of the device's own
steps: a wire transaction (R115) and a firmware image (R411). -/

namespace Sys2Proof

/-- A byte of memory (R7). -/
abbrev Byte := BitVec 8
/-- A word, 32 bits (R7). -/
abbrev Word := BitVec 32
/-- A double word, 64 bits (R7). -/
abbrev DWord := BitVec 64
/-- A handle, 256 bits (R225). -/
abbrev Handle := BitVec 256
/-- The 64 data bytes of one line, the byte at the lowest address in the low bits (R7, R41). -/
abbrev Line := BitVec 512

/-- A wire transaction: the four dwords of its header and its data units (R115, R116). -/
structure Txn where
  d0 : DWord
  d1 : DWord
  d2 : DWord
  d3 : DWord
  data : List Byte
deriving DecidableEq, Repr, Inhabited

/-- A firmware image as the board's flash holds it: header, payload, signature block (R411). -/
structure FwImage where
  header : List Byte
  payload : List Byte
  sigs : List Byte
deriving DecidableEq, Repr, Inhabited

end Sys2Proof
end

