-- ==== Sys2Proof/Syntax.lean ====
section
/-! DEFINITION. The syntax of the Evovia 7200: one constructor for each row of the opcode table, first the slot
instructions and steps with operands (R277 to R280), then those without. A step that acts on one unit finds its number in
State.subj. -/

namespace Sys2Proof

/-- One constructor for each row of spec/opcode_table.json. -/
inductive Instr where
  /-- s[d] := a + b, in 64-bit or, with W, 32-bit form (R285). -/
  | add (d a b : BitVec 6) (w : Bool)
  /-- s[d] := a − b (R285). -/
  | sub (d a b : BitVec 6) (w : Bool)
  /-- s[d] := the low 64 bits of a × b (R285). -/
  | mul (d a b : BitVec 6) (w : Bool)
  /-- s[d] := the high bits of the signed product (R285). -/
  | mulh (d a b : BitVec 6) (w : Bool)
  /-- s[d] := the high bits of the unsigned product (R285). -/
  | mulhu (d a b : BitVec 6) (w : Bool)
  /-- s[d] := the signed quotient, with the border cases fixed and no trap (R287). -/
  | div (d a b : BitVec 6) (w : Bool)
  /-- s[d] := the unsigned quotient (R287). -/
  | divu (d a b : BitVec 6) (w : Bool)
  /-- s[d] := the signed remainder, with the sign of a (R287). -/
  | rem (d a b : BitVec 6) (w : Bool)
  /-- s[d] := the unsigned remainder (R287). -/
  | remu (d a b : BitVec 6) (w : Bool)
  /-- s[d] := a shifted left by b (R285). -/
  | shl (d a b : BitVec 6) (w : Bool)
  /-- s[d] := a shifted right logically by b (R285). -/
  | shr (d a b : BitVec 6) (w : Bool)
  /-- s[d] := a shifted right arithmetically by b (R285). -/
  | sra (d a b : BitVec 6) (w : Bool)
  /-- s[d] := a rotated right by b (R285). -/
  | ror (d a b : BitVec 6) (w : Bool)
  /-- s[d] := the signed minimum of a and b (R285). -/
  | min (d a b : BitVec 6) (w : Bool)
  /-- s[d] := the signed maximum of a and b (R285). -/
  | max (d a b : BitVec 6) (w : Bool)
  /-- s[d] := the unsigned minimum of a and b (R285). -/
  | minu (d a b : BitVec 6) (w : Bool)
  /-- s[d] := the unsigned maximum of a and b (R285). -/
  | maxu (d a b : BitVec 6) (w : Bool)
  /-- s[d] := 1 when a = b, else 0 (R285). -/
  | seq (d a b : BitVec 6) (w : Bool)
  /-- s[d] := 1 when a ≠ b, else 0 (R285). -/
  | sne (d a b : BitVec 6) (w : Bool)
  /-- s[d] := 1 when a < b signed, else 0 (R285). -/
  | slt (d a b : BitVec 6) (w : Bool)
  /-- s[d] := 1 when a < b unsigned, else 0 (R285). -/
  | sltu (d a b : BitVec 6) (w : Bool)
  /-- s[d] := a and b (R285). -/
  | and (d a b : BitVec 6)
  /-- s[d] := a or b (R285). -/
  | or (d a b : BitVec 6)
  /-- s[d] := a xor b (R285). -/
  | xor (d a b : BitVec 6)
  /-- s[d] := a and not b (R285). -/
  | andn (d a b : BitVec 6)
  /-- s[d] := a with bit b set (R285). -/
  | bset (d a b : BitVec 6)
  /-- s[d] := a with bit b cleared (R285). -/
  | bclr (d a b : BitVec 6)
  /-- s[d] := a + the sign-extended immediate (R285). -/
  | addi (d a : BitVec 6) (imm : BitVec 31)
  /-- s[d] := a and the immediate (R285). -/
  | andi (d a : BitVec 6) (imm : BitVec 31)
  /-- s[d] := a or the immediate (R285). -/
  | ori (d a : BitVec 6) (imm : BitVec 31)
  /-- s[d] := a xor the immediate (R285). -/
  | xori (d a : BitVec 6) (imm : BitVec 31)
  /-- s[d] := 1 when a < the immediate, signed, else 0 (R285). -/
  | slti (d a : BitVec 6) (imm : BitVec 31)
  /-- s[d] := a shifted left by an immediate count (R285). -/
  | shli (d a n : BitVec 6) (w : Bool)
  /-- s[d] := a shifted right logically by an immediate count (R285). -/
  | shri (d a n : BitVec 6) (w : Bool)
  /-- s[d] := a shifted right arithmetically by an immediate count (R285). -/
  | srai (d a n : BitVec 6) (w : Bool)
  /-- s[d] := the number of leading zero bits of a (R285). -/
  | clz (d a : BitVec 6) (w : Bool)
  /-- s[d] := the number of trailing zero bits of a (R285). -/
  | ctz (d a : BitVec 6) (w : Bool)
  /-- s[d] := the number of bits set in a (R285). -/
  | popc (d a : BitVec 6) (w : Bool)
  /-- s[d] := a × b + c (R285). -/
  | madd (d a b c : BitVec 6)
  /-- s[d] := a when c[0] = 1, else b (R285). -/
  | sel (d a b c : BitVec 6)
  /-- s[d] := the bit field of a, sign-extended (R285). -/
  | ext (d a pos lenM1 : BitVec 6)
  /-- s[d] := the bit field of a, zero-extended (R285). -/
  | extu (d a pos lenM1 : BitVec 6)
  /-- The low bits of a are inserted into a field of s[d] (R285). -/
  | ins (d a pos lenM1 : BitVec 6)
  /-- s[d] := the sign-extended immediate (R285). -/
  | movi (d : BitVec 6) (imm : BitVec 37)
  /-- 16 bits of s[d] at position k are replaced by the immediate (R285). -/
  | movk (d : BitVec 6) (k : BitVec 2) (imm : BitVec 16)
  /-- s[d] := a + (b shifted left by n) (R285). -/
  | lea (d a b : BitVec 6) (n : BitVec 3)
  /-- Scalar floating addition, rounded once, setting the FPCTL flags (R288). -/
  | fadd (d a b : BitVec 6) (fmt : BitVec 2) (rc : BitVec 3)
  /-- Scalar floating subtraction (R288). -/
  | fsub (d a b : BitVec 6) (fmt : BitVec 2) (rc : BitVec 3)
  /-- Scalar floating multiplication (R288). -/
  | fmul (d a b : BitVec 6) (fmt : BitVec 2) (rc : BitVec 3)
  /-- Scalar fused a × b + s[d], rounded once (R288). -/
  | ffma (d a b : BitVec 6) (fmt : BitVec 2) (rc : BitVec 3)
  /-- Scalar floating minimum under R167 (R288). -/
  | fmin (d a b : BitVec 6) (fmt : BitVec 2)
  /-- Scalar floating maximum under R167 (R288). -/
  | fmax (d a b : BitVec 6) (fmt : BitVec 2)
  /-- Scalar floating equality test (R288). -/
  | feq (d a b : BitVec 6) (fmt : BitVec 2)
  /-- Scalar floating less-than test, setting NV on a NaN operand (R288). -/
  | flt (d a b : BitVec 6) (fmt : BitVec 2)
  /-- Scalar floating less-or-equal test, setting NV on a NaN operand (R288). -/
  | fle (d a b : BitVec 6) (fmt : BitVec 2)
  /-- Scalar conversion between floating formats (R288). -/
  | fcvt (d a : BitVec 6) (dst fmt : BitVec 2) (rc : BitVec 3)
  /-- Scalar conversion from float to integer, with saturation (R288). -/
  | ftoi (d a : BitVec 6) (u w : Bool) (fmt : BitVec 2) (rc : BitVec 3)
  /-- Scalar conversion from integer to float (R288). -/
  | itof (d a : BitVec 6) (u w : Bool) (fmt : BitVec 2) (rc : BitVec 3)
  /-- The sign bit is replaced by copying, negating or xoring a sign (R288). -/
  | fsgn (d a b : BitVec 6) (fmt : BitVec 2) (op : BitVec 3)
  /-- s[d] := the class mask of a (R288). -/
  | fclass (d a : BitVec 6) (fmt : BitVec 2)
  /-- A scalar load with a base and offset is translated at issue and reads from the window, the snapshot or its home (R292). -/
  | ld (d a : BitVec 6) (size : BitVec 2) (u : Bool) (off : BitVec 28)
  /-- A scalar store with a base and offset is translated at issue and merged into the store window (R293). -/
  | st (b a : BitVec 6) (size : BitVec 2) (off : BitVec 28)
  /-- A scalar load with a base and a shifted index (R292). -/
  | ldx (d a b : BitVec 6) (size : BitVec 2) (u : Bool) (n : BitVec 3)
  /-- A scalar store with a base and a shifted index (R293). -/
  | stx (c a b : BitVec 6) (size : BitVec 2) (n : BitVec 3)
  /-- An atomic add is performed at the home after the wait of R99, and the old value is returned (R295). -/
  | amoadd (d a b : BitVec 6) (sc : BitVec 3) (dw : Bool)
  /-- An atomic and (R295). -/
  | amoand (d a b : BitVec 6) (sc : BitVec 3) (dw : Bool)
  /-- An atomic or (R295). -/
  | amoor (d a b : BitVec 6) (sc : BitVec 3) (dw : Bool)
  /-- An atomic xor (R295). -/
  | amoxor (d a b : BitVec 6) (sc : BitVec 3) (dw : Bool)
  /-- An atomic swap (R295). -/
  | amoswap (d a b : BitVec 6) (sc : BitVec 3) (dw : Bool)
  /-- An atomic compare-and-swap against s[d] (R295). -/
  | amocas (d a b : BitVec 6) (sc : BitVec 3) (dw : Bool)
  /-- An atomic minimum, signed or unsigned (R295). -/
  | amomin (d a b : BitVec 6) (sc : BitVec 3) (dw u : Bool)
  /-- An atomic maximum, signed or unsigned (R295). -/
  | amomax (d a b : BitVec 6) (sc : BitVec 3) (dw u : Bool)
  /-- An atomic FP32 maximum (R295). -/
  | amofmax (d a b : BitVec 6) (sc : BitVec 3)
  /-- An atomic FP32 add, with FTZ taken at issue (R295). -/
  | amofadd (d a b : BitVec 6) (sc : BitVec 3)
  /-- A field of a handle register is set from a scalar register (R296). -/
  | hset (hd : BitVec 5) (a f : BitVec 6)
  /-- A handle field is read into a scalar register (R296). -/
  | hget (d : BitVec 6) (ha : BitVec 5) (f : BitVec 6)
  /-- A handle is copied, with its BASE advanced by s[b] (R296). -/
  | hadv (hd ha : BitVec 5) (b : BitVec 6)
  /-- An extent and a stride of a handle are set (R296). -/
  | hdim (hd : BitVec 5) (a b : BitVec 6) (k : BitVec 2)
  /-- A conditional branch relative to PC (R298). -/
  | br (cond : BitVec 3) (a b : BitVec 6) (off : BitVec 28)
  /-- A jump relative to PC (R298). -/
  | jmp (off : BitVec 43)
  /-- A jump to the address in s[a] (R298). -/
  | jr (a : BitVec 6)
  /-- A relative call, which writes s1 (R298). -/
  | call (off : BitVec 43)
  /-- A call through a register, which writes s1 (R298). -/
  | callr (a : BitVec 6)
  /-- A loop level is opened with a count from a register, optionally staged (R253). -/
  | loop (a sreg : BitVec 6) (nM1 : BitVec 3) (endOff : BitVec 28)
  /-- A loop level is opened with an immediate count (R253). -/
  | loopi (cnt : BitVec 16) (endOff : BitVec 27)
  /-- The k innermost loop levels are closed (R301). -/
  | lbrk (kM1 : BitVec 2)
  /-- The bundle stalls until the OPCNT classes are at or below the given limits (R249). -/
  | waitc (nl ns nx nm : BitVec 4)
  /-- The bundle stalls until batch n has no pending steps (R250). -/
  | waitb (n : BitVec 3)
  /-- After step 1's wait, the PHASE sends the store-window lines and starts the release of scope S (R86). -/
  | phase (sc : BitVec 3) (m p : BitVec 6)
  /-- Younger command writes are held until older covered writes in V(S) have been performed, or until a pod release completes (R98). -/
  | fence (sc : BitVec 3)
  /-- A barrier count is lowered, then checked for firing (R305). -/
  | bar (n : BitVec 8) (v : BitVec 6)
  /-- A barrier is armed with a count and an optional node, then checked for firing (R305). -/
  | arm (n : BitVec 8) (c : BitVec 6) (nv : Bool) (node : BitVec 16)
  /-- The bundle stalls until the barrier has fired, then FIRED is consumed (R305). -/
  | bwait (n : BitVec 8)
  /-- FIRED is consumed if it is set, and a result word is returned without stalling (R305). -/
  | bwaitTry (n : BitVec 8) (d : BitVec 6)
  /-- One index with an argument is appended to an open grid, or a node is decremented (R204). -/
  | spawn (d t g : BitVec 6)
  /-- k indices are added to the task's own open grid (R204). -/
  | grow (d k : BitVec 6)
  /-- An open grid is moved to CLOSED (R204). -/
  | close (d g : BitVec 6)
  /-- A value is enqueued indivisibly into a scratchpad queue (R205). -/
  | enq (d q v : BitVec 6)
  /-- A value is dequeued indivisibly from a scratchpad queue (R205). -/
  | deq (d q e : BitVec 6)
  /-- A precise TRAP is taken after the bundle has acted (R307). -/
  | trap (code : BitVec 16)
  /-- A precise SYS trap is taken after the bundle has acted (R307). -/
  | sys (code : BitVec 16)
  /-- A control register is read into s[d] (R308). -/
  | crr (d : BitVec 6) (num : BitVec 12)
  /-- s[a] is written to a control register, taking effect for younger bundles (R308). -/
  | crw (a : BitVec 6) (num : BitVec 12)
  /-- A CRW of FQPOP removes the head record of the fault queue (R387). -/
  | fqpop (a : BitVec 6)
  /-- With a debugger armed, the task halts with cause BREAK; otherwise nothing happens (R307). -/
  | bkpt (code : BitVec 16)
  /-- A step register is set from s[a] (R308). -/
  | setstep (slot k : BitVec 2) (a : BitVec 6)
  /-- Leaves for one virtual address and ASN are invalidated (R309). -/
  | tlbiPage (a b : BitVec 6)
  /-- Every leaf and walk-cache entry of one ASN is invalidated (R309). -/
  | tlbiAsn (a b : BitVec 6)
  /-- One window-table entry of the context is invalidated (R309). -/
  | tlbiWindow (a : BitVec 6)
  /-- Host translations over an address range are invalidated (R309). -/
  | tlbiHost (a b : BitVec 6)
  /-- A matrix step adds A × B into a sum-mode tile, issued into the matrix stream (R315). -/
  | mma (t : BitVec 4) (ha hb : BitVec 5) (fp : BitVec 4) (ka kb : Bool) (row0 col0 : BitVec 7)
  /-- A matrix step that first zeroes its rectangle of the tile (R315). -/
  | mmax (t : BitVec 4) (ha hb : BitVec 5) (fp : BitVec 4) (ka kb : Bool) (row0 col0 : BitVec 7)
  /-- An INT8 matrix step with zero points (R317). -/
  | mmaq (t : BitVec 4) (ha hb : BitVec 5) (z : BitVec 6) (ka kb : Bool) (row0 col0 : BitVec 7)
  /-- The named tiles are set to sum mode with every element +0 (R318). -/
  | mzero (mask : BitVec 16)
  /-- A tile is set to ranked mode with K and DIR, and every row is emptied (R318). -/
  | mrank (t : BitVec 4) (k : BitVec 6) (dir : Bool)
  /-- A known-answer step is run, and its checksum is checked at retirement (R319). -/
  | mkat (q : BitVec 8) (sum : BitVec 16)
  /-- n ring slots are consumed and popped without a step (R320). -/
  | mpop (b : BitVec 6) (n : BitVec 8)
  /-- Tile b is added into tile a, or its pairs are merged into a ranked tile (R322). -/
  | maddt (t u : BitVec 4) (i : Bool)
  /-- Tile b is copied to tile a, contents and descriptor (R322). -/
  | mcopy (t u : BitVec 4)
  /-- s[d] := the worst K-th value over a range of ranked rows (R323). -/
  | mthr (d : BitVec 6) (t : BitVec 4) (first cntM1 : BitVec 7)
  /-- Elementwise add (R330). -/
  | vadd (hd ha : BitVec 5) (b : BitVec 6) (rc : BitVec 3) (bs : Bool)
  /-- Elementwise subtract (R330). -/
  | vsub (hd ha : BitVec 5) (b : BitVec 6) (rc : BitVec 3) (bs : Bool)
  /-- Elementwise multiply (R330). -/
  | vmul (hd ha : BitVec 5) (b : BitVec 6) (rc : BitVec 3) (bs : Bool)
  /-- Elementwise fused multiply-add into d (R330). -/
  | vfma (hd ha : BitVec 5) (b : BitVec 6) (rc : BitVec 3) (bs : Bool)
  /-- Elementwise minimum (R330). -/
  | vmin (hd ha : BitVec 5) (b : BitVec 6) (rc : BitVec 3) (bs : Bool)
  /-- Elementwise maximum (R330). -/
  | vmax (hd ha : BitVec 5) (b : BitVec 6) (rc : BitVec 3) (bs : Bool)
  /-- Elementwise absolute value (R330). -/
  | vabs (hd ha : BitVec 5) (rc : BitVec 3)
  /-- Elementwise negation (R330). -/
  | vneg (hd ha : BitVec 5) (rc : BitVec 3)
  /-- Elementwise reciprocal, rounded once (R331). -/
  | vrcp (hd ha : BitVec 5) (rc : BitVec 3)
  /-- Elementwise reciprocal square root (R331). -/
  | vrsq (hd ha : BitVec 5) (rc : BitVec 3)
  /-- Elementwise base-2 logarithm (R331). -/
  | vlog2 (hd ha : BitVec 5) (rc : BitVec 3)
  /-- Elementwise exponential, base e or 2 (R331). -/
  | vexp (hd ha : BitVec 5) (rc : BitVec 3) (base2 : Bool)
  /-- An interpolation table is loaded from scratchpad (R336). -/
  | vtblLoad (ha : BitVec 5) (t : BitVec 2)
  /-- Elementwise piecewise-linear interpolation through a table (R336). -/
  | vtbl (hd ha : BitVec 5) (t : BitVec 2) (rc : BitVec 3)
  /-- Elementwise comparison yielding 0 or 1 (R332). -/
  | vcmp (hd ha hb : BitVec 5) (cond : BitVec 3)
  /-- Elementwise selection by a mask (R332). -/
  | vsel (hd ha hb : BitVec 5) (rc : BitVec 3) (hm : BitVec 5)
  /-- Elementwise format conversion (R333). -/
  | vcvt (hd ha : BitVec 5) (rc : BitVec 3) (sat : Bool)
  /-- A row-wise reduction: sum, maximum or minimum (R334). -/
  | vred (hd ha : BitVec 5) (rc : BitVec 3) (op : BitVec 2)
  /-- The row-wise maximum of absolute values (R334). -/
  | vamax (hd ha : BitVec 5)
  /-- A row-wise prefix sum, inclusive or exclusive (R334). -/
  | vscan (hd ha : BitVec 5) (rc : BitVec 3) (ex : Bool)
  /-- Masked rows are pushed as records into a conditional stream (R340). -/
  | vpush (hd ha hb : BitVec 5) (sc : BitVec 3)
  /-- Records are popped from a stream into rows, writing a mask (R340). -/
  | vpop (hd ha hb : BitVec 5) (sc : BitVec 3)
  /-- Values are counted into bins (R338). -/
  | vhist (hd ha : BitVec 5) (clr : Bool)
  /-- d[e] := s[B] + e (R337). -/
  | viota (hd : BitVec 5) (b : BitVec 6) (rc : BitVec 3)
  /-- Elements are copied bit for bit from A to D (R337). -/
  | vmov (hd ha : BitVec 5)
  /-- A scalar is broadcast bit for bit to every element of D (R337). -/
  | vmovScalar (hd : BitVec 5) (b : BitVec 6)
  /-- d[e] := a[b[e]], or 0 when out of range (R337). -/
  | vshuf (hd ha hb : BitVec 5)
  /-- A block is packed to FP8, FP4 or INT8 (R343). -/
  | ppack (hd ha : BitVec 5) (rc : BitVec 3) (sat : Bool)
  /-- A narrow block is unpacked to FP32, BF16 or FP16 exactly (R343). -/
  | punpk (hd ha : BitVec 5)
  /-- A block is multiplied by a power-of-two scale (R343). -/
  | pscale (hd ha : BitVec 5) (s : BitVec 6) (rc : BitVec 3)
  /-- A block is quantised to one MX block, with its scale (R343). -/
  | pqnt (hd ha : BitVec 5) (s : BitVec 6) (rc : BitVec 3) (sat : Bool)
  /-- An MX block or SX4 segment is dequantised (R343). -/
  | pdq (hd ha : BitVec 5) (rc : BitVec 3)
  /-- A 16 × 16 or 8 × 8 square is transposed (R343). -/
  | ptrn (hd ha : BitVec 5) (w32 : Bool)
  /-- One element is broadcast to 32 (R343). -/
  | pbcast (hd ha : BitVec 5)
  /-- 16 elements are permuted by a register of nibbles (R343). -/
  | pperm (hd ha : BitVec 5) (s : BitVec 6)
  /-- The SX4 table is loaded from 16 slice bytes (R345). -/
  | sldt (a : BitVec 6)
  /-- The four band registers are loaded from s[a] (R345). -/
  | sldb (a : BitVec 6)
  /-- One SX4 table entry is set to an immediate byte (R345). -/
  | sseti (t : BitVec 4) (byte : BitVec 8)
  /-- BSRC is set (R345). -/
  | smode (m : Bool)
  /-- A copy is issued with optional conversion and transposition, logged and counted in XF (R357). -/
  | cpy (hd ha : BitVec 5) (c : BitVec 6) (sc : BitVec 3) (ct : BitVec 2) (tgt : BitVec 16)
  /-- A copy is issued together with a follow-on matrix step that enters the stream (R360). -/
  | cpym (hd ha : BitVec 5) (c : BitVec 6) (sc : BitVec 3) (ct : BitVec 2) (tgt : BitVec 16)
  /-- A copy with 2:4 expansion (R358). -/
  | cpys (hd ha : BitVec 5) (c : BitVec 6) (sc : BitVec 3) (ct : BitVec 2) (tgt : BitVec 16)
  /-- Rows are gathered by an index handle (R359). -/
  | gath (hd ha : BitVec 5) (c : BitVec 6) (sc : BitVec 3) (ct : BitVec 2) (tgt : BitVec 16)
  /-- Rows are scattered by an index handle (R359). -/
  | scat (hd ha : BitVec 5) (c : BitVec 6) (sc : BitVec 3) (ct : BitVec 2) (tgt : BitVec 16)
  /-- A rectangle of a tile is converted or quantised into memory, with an optional absolute-maximum atomic (R361). -/
  | drain (hd : BitVec 5) (t : BitVec 4) (c : BitVec 6) (sc : BitVec 3) (ct : BitVec 2) (tgt : BitVec 16)
  /-- The top k of each row of a sum-mode tile are selected into pairs in memory (R363). -/
  | drainkSel (hd : BitVec 5) (t : BitVec 4) (c : BitVec 6) (sc : BitVec 3) (ct : BitVec 2) (tgt : BitVec 16)
  /-- The same selection is merged into a ranked tile through the matrix stream (R364). -/
  | drainkMerge (u t : BitVec 4) (c : BitVec 6) (sc : BitVec 3)
  /-- Bytes are stored to window space as WRREQ transactions (R365). -/
  | rst (hd ha : BitVec 5) (c : BitVec 6) (sc : BitVec 3) (ct : BitVec 2) (tgt : BitVec 16)
  /-- Bytes are loaded from window space by RDREQ transactions (R365). -/
  | rld (hd ha : BitVec 5) (c : BitVec 6) (sc : BitVec 3) (ct : BitVec 2) (tgt : BitVec 16)
  /-- One remote atomic is sent as an AMOREQ (R366). -/
  | ramo (hd ha : BitVec 5) (c : BitVec 6) (sc : BitVec 3) (ct : BitVec 2) (tgt : BitVec 16)
  /-- One reduction contribution is sent, from a record (R367). -/
  | rred (hd ha : BitVec 5) (c : BitVec 6) (sc : BitVec 3) (ct : BitVec 2) (tgt : BitVec 16)
  /-- Bytes are multicast to a group through the source's Midfield die (R371). -/
  | rmcast (hd ha : BitVec 5) (c : BitVec 6) (sc : BitVec 3) (ct : BitVec 2) (tgt : BitVec 16)
  /-- Ranked rows are merged into row images in a slice of the same cluster (R369). -/
  | rmergeCx (hd : BitVec 5) (t : BitVec 4) (c : BitVec 6) (sc : BitVec 3) (ct : BitVec 2) (tgt : BitVec 16)
  /-- Ranked rows are sent as MERGEREQ contributions, entering the matrix stream (R370). -/
  | rmergeSw (hd : BitVec 5) (t : BitVec 4) (c : BitVec 6) (sc : BitVec 3)
  /-- INT32 counts are exchanged among the members of a group (R372). -/
  | cntx (hd ha : BitVec 5) (c : BitVec 6) (sc : BitVec 3) (ct : BitVec 2) (tgt : BitVec 16)
  /-- Token rows with trailers are delivered to expert buffers by a route list, merging duplicates if asked (R373). -/
  | disp (hd ha : BitVec 5) (c : BitVec 6) (sc : BitVec 3) (ct : BitVec 2) (tgt : BitVec 16)
  /-- A command record is attached to a barrier, to be issued when it fires (R376). -/
  | post (n : BitVec 8) (a : BitVec 6)
  /-- One running or faulted command is cancelled (R356). -/
  | xcanCancel (d a : BitVec 6)
  /-- A faulted command is replayed from its log entry (R356). -/
  | xcanReplay (d a : BitVec 6)
  /-- Every running and faulted command of the task is cancelled (R356). -/
  | xcanAll (d : BitVec 6)
  /-- The status word of a command is returned by its id (R355). -/
  | xstatId (d a : BitVec 6)
  /-- The id of the youngest command the task has issued is returned (R355). -/
  | xstatLast (d a : BitVec 6)
  /-- A command aimed at a ring claims a free slot, waiting in issue order until one is free (R54). -/
  | ringClaim (ctx buf : Nat)
  /-- A ring slot's data have wholly landed, and FILLED advances over contiguous landed slots (R55). -/
  | ringSlotLanded (ctx buf ringSlot : Nat)
  /-- A command access meets a failure: a fault record is posted, or held when the queue is full, and the command becomes FAULTED (R386). -/
  | commandFault (ctx entry : Nat)
  /-- A command's writes have been performed and its transactions resolved, so its log entry is freed and its completion target is decremented (R353). -/
  | commandComplete (ctx entry : Nat)
  /-- After at least 1,024 idle cycles, the power manager makes a bank DROWSY (R43). -/
  | bankDrowsy (core bank : Nat)
  /-- An access to a drowsy bank wakes it, and the access is served 12 cycles later (R43). -/
  | bankWake (core bank : Nat)
  /-- The dispatcher gates an unused quadrant of a core (R44). -/
  | quadrantGate (core quad : Nat)
  /-- An ungated quadrant finishes being zeroed over 4,096 cycles, after which permission may be granted (R44). -/
  | quadrantClear (core quad : Nat)
  /-- An ATS Translation Completion arrives from the host and is cached (R24). -/
  | atsCompletion (die pasid addr out sizeLog : Nat) (r w : Bool)
  /-- An ATS Invalidate Request from the host starts a HOST invalidation (R24). -/
  | atsInvalidate (addr len tag : Nat)
  /-- The wait of attempt n expires, so the next attempt is sent on the next port, or the request enters EXPIRING (R124). -/
  | remoteRetryTimeout (req attempt : Nat)
  /-- A completion for a sent request arrives, is delivered, and restores the credit and OUTST (R125). -/
  | remoteCompletionReceive (pkg : Nat) (t : Txn)
  /-- The responder die judges a request against BASE and SEEN, and accepts, discards or answers it (R126). -/
  | remoteRequestReceive (port : Nat) (t : Txn)
  /-- An accepted request, once its ordered predecessors are done, is checked on every line and performed at its home; a completion is sent (R129). -/
  | remotePerform (conn seq : Nat)
  /-- No completion has come from a rank for DESTTO while OUTST > 0, so the rank entry is fenced (R132). -/
  | destTimeout (job rank : Nat)
  /-- The hypervisor writes a rank-table entry, changing its state and releasing or failing queued requests (R35). -/
  | rankEntryWrite (job rank : Nat) (d0 d1 : BitVec 64)
  /-- A CONNOPEN arrives at a responder, which grants a context with CONNACK or refuses with CONNNAK (R119). -/
  | connopen (port pkg : Nat) (t : Txn)
  /-- A CONNACK arrives at the requester, opening the connection, or is answered by CONNCLOSE if the open had failed (R119). -/
  | connack (pkg : Nat) (t : Txn)
  /-- A refused open completes every queued request CONN-REFUSED (R119). -/
  | connnak (pkg : Nat) (t : Txn)
  /-- A CONNCLOSE arrives and the connection context is released, answered with CONNACK (R119). -/
  | connclose (pkg : Nat) (t : Txn)
  /-- A CONNOPEN wait expires: it is resent, or after the last wait and LIFETIME the open fails (R119). -/
  | connopenTimeout (conn attempt : Nat)
  /-- A DATA or IDLE flit arrives: CRC and window are checked, and it is delivered in LSEQ order, relayed, or discarded (R113). -/
  | flitReceive (port : Nat) (bytes : List (BitVec 8))
  /-- An ACK flit arrives, acknowledging flits and triggering selective re-sends (R112). -/
  | ackFlit (port : Nat) (bytes : List (BitVec 8))
  /-- A port's lanes have trained, so it begins sending LINKCAP every 1 µs (R137). -/
  | laneTrained (port : Nat) (lanes : BitVec 4)
  /-- A LINKCAP arrives, and the port's mode and peer are negotiated (R137). -/
  | linkcap (port : Nat) (bytes : List (BitVec 8))
  /-- A REDREQ or MERGEREQ arrives at its home, is checked, and is accepted with an acceptance REDRSP or answered EXPIRED (R145). -/
  | contributionReceive (conn seq : Nat)
  /-- A level-0 entry in FORWARD receives its parent's notice and passes it to its contributors (R155). -/
  | parentNotice (key : Nat) (t : Txn)
  /-- A final notice reaches the contributor: the status unit is written at RESADDR and the RRED or RMERGE completes (R368). -/
  | noticeReceive (conn : Nat) (t : Txn)
  /-- A launch packet is submitted: it is checked and refused with an event, or the grid is written (R199). -/
  | launch (src : Nat) (packet : List (BitVec 8))
  /-- A fatal task fault counts in FAULTS, writes an event and may stop the fault domain (R217). -/
  | taskFault (ctx cause detail : Nat)
  /-- A decrement of a work node is counted or rejected at the package arbiter (R208). -/
  | nodeDecrement (region node : Nat)
  /-- A switch of a context is requested and taken at a chosen bundle boundary (R391). -/
  | switchRequest (core why : Nat)
  /-- A context is restored: core state first, then blocks in order, then re-entry, posted records, rollback and events (R404). -/
  | resume (ctx core : Nat)
  /-- A task consumes an uncorrectable error: it rolls back, or posts DATA-ERROR for an older command (R405). -/
  | ueAbortReceive (ctx entry : Nat)
  /-- A frame starts: the owning world's tasks may run, or the core idles (R418). -/
  | frameEdge (core frame : Nat)
  /-- A 64-byte HBM read is decoded under the erasure entries, corrected and counted, or aborted (R426). -/
  | hbmRead (line rq core : Nat)
  /-- The DRBG reseeds after 2^20 requests or a failure, leaving FAILED when the tests pass (R422). -/
  | entropyReseed (ok : Bool)
  /-- A command-ring doorbell sets TAIL, and the Gecko pair handles the slots in order (R444). -/
  | crDoorbell (tail : BitVec 32)
  /-- A launch-queue doorbell sets TAIL, and packets from HEAD are submitted in order, or ERR is set (R443). -/
  | lqDoorbell (q : Nat) (tail : BitVec 32)
  /-- Writing EN := 0 stops a launch queue and resets HEAD, TAIL and ERR (R443). -/
  | lqctlWrite (q : Nat) (v : BitVec 64)
  /-- A write to MIDX with WR = 0 reads one part of an internal object into MDATA (R442). -/
  | midxRead (v : BitVec 64)
  /-- A write to MIDX with WR = 1 stages a part, or writes the whole entry atomically with its last part (R442). -/
  | midxWrite (v : BitVec 64)
  /-- A write of DIEEN returns a die to service, or is refused (R441). -/
  | dieenWrite (die : Nat) (v : BitVec 64)
  /-- A write of FWDBASE makes the die discard the forwarding entries it holds (R462). -/
  | fwdbaseWrite (v : BitVec 64)
  /-- A PORTCFG write enables or disables a port, starting training (R135). -/
  | portcfgWrite (port : Nat) (v : BitVec 32)
  /-- A management register write with no behaviour of its own stores its value, clamped where a range applies (R441). -/
  | registerWrite (off : Nat) (v : BitVec 64)
  /-- The ALU slot does nothing (R277). -/
  | nopAlu
  /-- The CTL slot does nothing (R278). -/
  | nopCtl
  /-- A return to s1 (R298). -/
  | ret
  /-- Steps 2 and 4 of a pod-scope PHASE are performed, then the task waits for all of its commands and releases (R91). -/
  | done
  /-- The trap state is restored and execution resumes at TPC with TRPTC (R384). -/
  | eret
  /-- The task requests its own pre-emption when equal or higher-ranked work is ready (R307). -/
  | yield
  /-- Every entry of the issuing task's world is invalidated (R309). -/
  | tlbiWorld
  /-- Every window-table entry of the context is invalidated (R309). -/
  | tlbiWindows
  /-- The task halts for a debugger, or otherwise ends with the fatal fault HALT (R307). -/
  | halt
  /-- The MAT slot's last operation becomes NOP, which stops the slot (R238). -/
  | nopMat
  /-- The open batch is closed and CUR advances, stalling if the new batch is still pending (R250). -/
  | mcommit
  /-- The VEC slot's last operation becomes NOP, which stops the slot (R238). -/
  | nopVec
  /-- The PRM slot's last operation becomes NOP, which stops the slot (R238). -/
  | nopPrm
  /-- The SCL slot does nothing (R280). -/
  | nopScl
  /-- The XFR slot's last operation becomes NOP, which stops the slot (R238). -/
  | nopXfr
  /-- Power is applied (R6). -/
  | powerUp
  /-- The lock-step cores of the Gecko pair disagree on a bus write, so both stop and every other die is held in reset until power is removed (R410). -/
  | geckoMismatch
  /-- A bundle issues, including a header-only bundle (R237); State.subj is the core. -/
  | bundleIssue
  /-- At a bundle boundary while IN = 0 and the fault queue holds a record, the ENGINE-FAULT event enters the handler (R383); State.subj is the core. -/
  | engineFault
  /-- A scalar load's value returns from its home, or from a remote RDRSP, and is written to s[d]; a failed remote completion traps (R78); State.subj is the context. -/
  | loadReturn
  /-- A scalar atomic whose wait (older covered writes, or a pod release) is satisfied is performed at its home, and its value or window-space completion returns (R99); State.subj is the context. -/
  | atomicComplete
  /-- Once the writes in V(S) have been performed (and a pod release accepted), the pair-table entries and buffers are published, lines are unpinned and the checkpoint is taken (R86); State.subj is the context. -/
  | phaseReleaseDone
  /-- The older writes a FENCE waits for have been performed, so the held younger writes go ahead and the FENCE leaves the ST class (R98); State.subj is the context. -/
  | fenceSatisfied
  /-- All commands and releases of a task that has issued DONE have ended, so the task counts as finished for its grid and successors (R91); State.subj is the context. -/
  | taskFinish
  /-- The drain of an invalidation ends, so completion is reported: the ST class falls, or an Invalidation Completion is sent (R30); State.subj is the invalidation. -/
  | invalidationComplete
  /-- A matrix-stream operation acts on its tiles in its turn once its operands are available, and retires in order, popping consumed ring slots and clearing batch bits (R310); State.subj is the context. -/
  | matrixRetire
  /-- A vector operation finishes writing, releasing its ranges to younger waiting operations and to fences (R327); State.subj is the context. -/
  | vecComplete
  /-- At the end of cycle t + 2, a permute operation's results are written (R342); State.subj is the context. -/
  | prmWrite
  /-- At the end of cycle t + 3, a scale-unit operation writes its table or registers (R246); State.subj is the context. -/
  | scaleWrite
  /-- A transfer command starts in issue order: it is checked, reads its records and begins its accesses (R351); State.subj is the context. -/
  | commandStart
  /-- The die walker takes a new walk from a requester's miss queue in round-robin order (R27); State.subj is the die. -/
  | walkStart
  /-- A page walk ends: it succeeds and sets A and D by atomic OR, fails with a status, or restarts on a changed leaf (R22); State.subj is the die. -/
  | walkComplete
  /-- The Midfield die accepts a release, taking fence-counter entries, and the calling PHASE or FENCE step ends (R102); State.subj is the context. -/
  | releaseAccepted
  /-- Every counted write of a release has resolved: the entries are freed, the ST class falls, held writes leave and any fault record is posted (R104); State.subj is the context. -/
  | releaseComplete
  /-- A queued request with a valid rank, a credit and sequence room takes SEQ and sends attempt 0 (R125); State.subj is the connection. -/
  | remoteRequestSend
  /-- LIFETIME has passed since the last send in EXPIRING, so the request completes INDETERMINATE (R125); State.subj is the remote request. -/
  | lifetimeExpiry
  /-- A connection idle for CONNIDLE is closed (R119); State.subj is the connection. -/
  | connIdleClose
  /-- A spilled connection context has been fetched from HBM, and the requests waiting on it proceed (R120); State.subj is the connection. -/
  | contextFetch
  /-- The 0.2 µs interval expires while flits are held, so an ACK flit is sent (R113); State.subj is the port. -/
  | ackSendTimer
  /-- A flit unacknowledged for 0.5 µs since its last send is re-sent (R112); State.subj is the port. -/
  | replayTimeout
  /-- A flit unacknowledged for 4 µs makes the port drop its replay buffer, send RETRAIN and train again (R114); State.subj is the port. -/
  | linkUnackTimeout
  /-- A RETRAIN flit arrives, and both ends enter link training (R111); State.subj is the port. -/
  | retrain
  /-- No LINKCAP has arrived within 10 ms, so the port becomes UALink or DOWN (R137); State.subj is the port. -/
  | linkcapTimeout
  /-- A port has failed to train within 100 ms, so it reports DOWN and tries again (R114); State.subj is the port. -/
  | portTrainTimeout
  /-- The scrum unit takes a held contribution: it opens the entry, applies or stages it, or marks it for EXPIRED (R146); State.subj is the scrum unit. -/
  | contributionApply
  /-- A combining entry's timer expires while OPEN, so collection ends with PARTIAL or EXPIRED (R153); State.subj is the combining entry. -/
  | reductionTimeout
  /-- The final value has been formed: it is written at TADDR, or forwarded to the parent, before notices are sent (R155); State.subj is the combining entry. -/
  | combineDone
  /-- The result write has been performed or has failed, so notices are sent and the entry enters NOTIFY (R155); State.subj is the combining entry. -/
  | resultWriteDone
  /-- The last notice has been acknowledged or ended, so the entry enters TOMB (R155); State.subj is the combining entry. -/
  | noticeAcked
  /-- No parent notice has arrived within TOUT plus DESTTO, so contributors receive INDETERMINATE (R156); State.subj is the combining entry. -/
  | forwardNoticeTimeout
  /-- TOMBTIME passes and a tomb entry becomes FREE (R157); State.subj is the combining entry. -/
  | tombExpire
  /-- No notice has arrived within 2 × TOUT + DESTTO, so the contribution ends INDETERMINATE (R158); State.subj is the contribution record. -/
  | contributionTimeout
  /-- For a free core the arbiter chooses work by pass, priority and pointer, and places a resume or a start (R212). -/
  | arbiterChoice
  /-- The context engine starts a task from its template image: it checks the image and grants slice permission (R201); State.subj is the context. -/
  | taskStart
  /-- A funded region lacks a core, so the arbiter requests pre-emption of a lower-ranked task that has run 4 µs (R214). -/
  | preemptRequest
  /-- Every 8 µs, pool tokens are refilled with carried debt and the RCB fields are written back (R210). -/
  | budgetPeriod
  /-- A die link fails after retries and retrainings: tasks are killed and the link is fenced (R218); State.subj is the die link. -/
  | dieLinkFail
  /-- Loads, VEC, PRM and SCL operations have finished, so the diversion entries are installed and saving begins (R392); State.subj is the core. -/
  | quiesceDone
  /-- The last block of a context has been saved: the entries become ABSENT, permissions are removed and the core is free (R392); State.subj is the core. -/
  | saveDone
  /-- A slice block has been saved to the image, and accesses waiting on it proceed on the image (R400); State.subj is the core. -/
  | blockSaved
  /-- An access matching a diversion entry is served from the image, the slice or the forwarded core, or waits (R400); State.subj is the die. -/
  | divertedAccess
  /-- A spilled diversion entry has been fetched, and the matching access proceeds (R399); State.subj is the die. -/
  | diversionFetch
  /-- A slice block has been restored, and accesses waiting on it are served from the slice (R400); State.subj is the core. -/
  | blockRestored
  /-- The last block has been restored, so the entries become FREE or FORWARD and the task runs (R404); State.subj is the core. -/
  | restoreDone
  /-- A task halts for the debugger on HALTREQ, BKPT or the end of a step (R389); State.subj is the core. -/
  | debugHalt
  /-- A step-issue or step-settle ends, and the task is halted again (R390); State.subj is the core. -/
  | debugStepEnd
  /-- Each 1 ms frame cycle starts, and pending FRAMETAB and FLEAD changes take effect (R417). -/
  | frameCycleBoundary
  /-- FLEAD × 1,024 cycles before an edge to another world, a switch is requested (R418); State.subj is the core. -/
  | frameSwitchRequest
  /-- The clear of a core after a world switch ends, and the incoming frame starts, counting an overrun if late (R419); State.subj is the core. -/
  | coreClearDone
  /-- The scrubber reads a line within its budget, and writes back a corrected line unless it has been written since (R432); State.subj is the pseudo-channel. -/
  | scrubRead
  /-- Once the fenced core is free and gated, an MKAT self-test runs for q from 0 to 255 (R433); State.subj is the core. -/
  | selftestRun
  /-- The self-test ends: the core returns to service, or stays fenced with a record (R433); State.subj is the core. -/
  | selftestDone
  /-- A health test of the generator fails, so it enters FAILED until a reseed passes (R422). -/
  | entropyFailure
  /-- An ML-KEM ciphertext is decapsulated, the ring key is derived and set, and E := 0 (R425). -/
  | keyex
  /-- A halted ring is reopened at SEQ + 1 (R425). -/
  | resync
  /-- The ring key is replaced by the unwrapped key, and E := 0 (R425). -/
  | rekey
  /-- A signed attestation report is returned for the device or a world (R414). -/
  | attest
  /-- Further thermometer fuses are burnt, raising a kind's minimum SVN (R412). -/
  | svnraise
  /-- A world is created, generating its XTS key and ML-KEM key pair (R423). -/
  | createworld
  /-- A world is destroyed: slots are disabled, tasks killed, ranges zeroed and keys erased (R423). -/
  | destroyworld
  /-- A protected range of a world is set and pushed to every memory controller (R415). -/
  | setrange
  /-- New FRAMETAB and FLEAD values are staged for the next frame-cycle boundary (R417). -/
  | setframes
  /-- A wrapped key is unwrapped and installed for a world (R423). -/
  | keyimport
  /-- A link key is installed for a job slot of a non-zero world (R421). -/
  | jobkey
  /-- A region's RCB is read and the region created, or refused with RCB-FORMAT (R194). -/
  | regionCreate
  /-- A region's RCB is re-read, and its changes take effect at the next period boundary (R194). -/
  | regionRefresh
  /-- A region table entry is cleared once no task or grid of it is live (R445). -/
  | regionDestroy
  /-- The host starts an invalidation, answered at its completion (R445). -/
  | inval
  /-- The host requests a switch of the task on a core (R445). -/
  | preempt
  /-- Software writes FENCED := 1, fencing a core and requesting a switch of its task (R433); State.subj is the core. -/
  | corestatFenceWrite
  /-- Software writes FREQ := 1 on a fenced core, requesting a self-test (R433); State.subj is the core. -/
  | corestatFreqWrite
  /-- A masked vector that is pending is sent once when it is unmasked (R440); State.subj is the vector. -/
  | msixUnmask
  /-- Power is removed from the package: nothing runs, all scratchpad, accumulator, register and HBM contents are lost, and only fuse values survive (R6). -/
  | powerRemoved
  /-- Every 1 µs until it receives a LINKCAP, a port whose lanes have trained sends another LINKCAP flit (R137); State.subj is the port. -/
  | linkcapResend
  /-- A refresh falls due at a pseudo-channel: it is charged to the REF budget, and at the HBM4E postponement limit it is issued whatever its tokens, with the excess carried as debt (R437); State.subj is the pseudo-channel. -/
  | hbmRefresh
  /-- Gecko firmware retrains a failed die-to-die link, so that the die's cores can be self-tested and DIEEN can be set (R435); State.subj is the die link. -/
  | dieLinkRetrain
  /-- Gecko firmware sets a pseudo-channel's PCFAIL bit after failed retraining or repair, after which every access to it aborts and a PC-FAIL record is written (R434); State.subj is the pseudo-channel. -/
  | pseudoChannelFail
deriving DecidableEq, Repr

end Sys2Proof
end

