-- ==== Sys2Proof/WellFormed.lean ====
section
/-! DEFINITION. Well-formed slot instructions and bundles: the encoding rules of R234 and R281 that a decoded instruction or
bundle must meet. -/

namespace Sys2Proof

/-- The opcode spaces (R276). -/
inductive Space where
  | alu | ctl | mat | vec | prm | scl | xfr
deriving DecidableEq, Repr

/-- A guard: register 0 means unguarded (R232, R236). -/
structure Guard where
  reg : BitVec 6
  bit : BitVec 6
  pol : Bool
deriving DecidableEq, Repr

/-- A slot instruction as a bundle holds it: whether it has an extension word, its guard, the instruction (R232). -/
structure SlotOp where
  x : Bool
  guard : Guard
  instr : Instr
deriving DecidableEq, Repr

/-- A decoded bundle: REPEAT, GRANT, the slot instructions with their slot numbers (ALU0 = 0 to XFR = 7), its length (R231, R232). -/
structure Bundle where
  reps : BitVec 4
  grants : BitVec 16
  ops : List (Nat × SlotOp)
  bytes : Nat
deriving DecidableEq, Repr

/-- No guard. -/
def Guard.none : Guard := { reg := 0, bit := 0, pol := false }

/-- A slot instruction without extension word. -/
def SlotOp.plain (i : Instr) : SlotOp := { x := false, guard := Guard.none, instr := i }

/-- The control-register numbers that CRR and CRW accept (R229, R381). -/
def crNumberOk (n : Nat) : Bool :=
  n ≤ 0x00B || (0x010 ≤ n && n ≤ 0x019) || (0x01C ≤ n && n ≤ 0x027) || (0x030 ≤ n && n ≤ 0x034)
    || (0x038 ≤ n && n ≤ 0x03B) || (0x040 ≤ n && n ≤ 0x04B) || (0x080 ≤ n && n ≤ 0x086) || (0x088 ≤ n && n ≤ 0x08D)
    || (0x090 ≤ n && n ≤ 0x093) || (0x098 ≤ n && n ≤ 0x09B) || (0x0A0 ≤ n && n ≤ 0x0AD) || (0x0B0 ≤ n && n ≤ 0x0BB)

/-- A rounding code that is not reserved (R174). -/
def rcOk (rc : BitVec 3) : Bool := rc.toNat ≤ 5
/-- A scalar rounding code and format: SR only for results of 16 bits (R174, R288). -/
def fpOk (fmt : BitVec 2) (rc : BitVec 3) (wide : Bool) : Bool := fmt != 3 && rcOk rc && !(rc == 4 && wide)
/-- A scope that PHASE, FENCE and atomics accept (R79). -/
def scopeOk (sc : BitVec 3) : Bool := sc.toNat ≤ 4
/-- A scope that a command accepts (R79, R346). -/
def cmdScopeOk (sc : BitVec 3) : Bool := sc.toNat ≤ 4 || sc == 7
/-- A completion target that a command other than RST, RMCAST, CNTX and DISP accepts (R347). -/
def targetOk (remote : Bool) (ct : BitVec 2) (tgt : BitVec 16) : Bool :=
  match ct.toNat with
  | 0 => tgt == 0
  | 1 => tgt.toNat < 256
  | 2 => true
  | _ => remote && tgt.toNat < 256

/-- The field rules of each slot instruction beyond its reserved bits: reserved codes and illegal combinations (R234, R281 and
the rule named with each). Steps that are no slot instruction have none. -/
def Instr.wf : Instr → Bool
  | .shli _ _ n w | .shri _ _ n w | .srai _ _ n w => !(w && 32 ≤ n.toNat)          -- R285
  | .ext _ _ pos l | .extu _ _ pos l | .ins _ _ pos l => pos.toNat + l.toNat + 1 ≤ 64   -- R285
  | .fadd _ _ _ f rc | .fsub _ _ _ f rc | .fmul _ _ _ f rc | .ffma _ _ _ f rc => fpOk f rc (f == 0)   -- R288
  | .fmin _ _ _ f | .fmax _ _ _ f | .feq _ _ _ f | .flt _ _ _ f | .fle _ _ _ f | .fclass _ _ f => f != 3  -- R288
  | .fcvt _ _ dst f rc => dst != 3 && fpOk f rc (dst == 0)
  | .ftoi _ _ _ _ f rc => fpOk f rc true
  | .itof _ _ _ _ f rc => fpOk f rc (f == 0)
  | .fsgn _ _ _ f op => f != 3 && op.toNat ≤ 2
  | .ld _ _ size u _ => !(u && size == 3)                                            -- R290
  | .ldx _ _ _ size u _ => !(u && size == 3)
  | .amoadd _ _ _ sc _ | .amoand _ _ _ sc _ | .amoor _ _ _ sc _ | .amoxor _ _ _ sc _ | .amoswap _ _ _ sc _
  | .amocas _ _ _ sc _ => scopeOk sc                                                 -- R294
  | .amomin _ _ _ sc _ _ | .amomax _ _ _ sc _ _ => scopeOk sc
  | .amofmax _ _ _ sc | .amofadd _ _ _ sc => scopeOk sc
  | .hset _ _ f | .hget _ _ f => f.toNat ≤ 16                                        -- R296
  | .hdim _ _ b k => !(k == 0 && b != 0)                                             -- R296
  | .br c _ _ _ => c.toNat ≤ 5                                                       -- R298
  | .loop _ sreg nM1 _ => !(sreg == 0 && nM1 != 0)                                   -- R300
  | .phase sc _ _ => scopeOk sc                                                      -- R302
  | .fence sc => scopeOk sc
  | .deq d _ e => !(d == e && d != 0)                                                -- R306
  | .crr _ n => crNumberOk n.toNat                                                   -- R308
  | .crw _ n => crNumberOk n.toNat && n != 0x08D                                     -- FQPOP is a constructor of its own
  | .setstep _ k _ => k != 3                                                         -- R308
  | .mma _ _ _ fp _ _ _ _ | .mmax _ _ _ fp _ _ _ _ => fp.toNat ≤ 9                  -- R313
  | .mrank _ k _ => 1 ≤ k.toNat && k.toNat ≤ 32                                      -- R318
  | .mpop b n => b != 0 && n != 0                                                    -- R320
  | .mthr _ _ first c => first.toNat + c.toNat + 1 ≤ 128                             -- R323
  | .vadd _ _ b rc bs | .vsub _ _ b rc bs | .vmul _ _ b rc bs | .vfma _ _ b rc bs | .vmin _ _ b rc bs
  | .vmax _ _ b rc bs => rcOk rc && (bs || b.toNat < 32)                             -- R283, R326
  | .vabs _ _ rc | .vneg _ _ rc | .vrcp _ _ rc | .vrsq _ _ rc | .vlog2 _ _ rc => rcOk rc
  | .vexp _ _ rc _ | .vcvt _ _ rc _ | .vscan _ _ rc _ => rcOk rc
  | .vtbl _ _ _ rc => rcOk rc
  | .vcmp _ _ _ c => c.toNat ≤ 5                                                     -- R332
  | .vsel _ _ _ rc _ => rcOk rc
  | .vred _ _ rc op => rcOk rc && op != 3                                            -- R334
  | .vpush _ _ _ sc | .vpop _ _ _ sc => sc.toNat ≤ 1                                 -- R340
  | .viota _ _ rc => rcOk rc
  | .ppack _ _ rc _ | .pqnt _ _ _ rc _ => rcOk rc
  | .pscale _ _ _ rc => rcOk rc
  | .pdq _ _ rc => rcOk rc
  | .cpy _ _ _ sc ct t | .cpym _ _ _ sc ct t | .cpys _ _ _ sc ct t | .gath _ _ _ sc ct t | .scat _ _ _ sc ct t
  | .rld _ _ _ sc ct t | .ramo _ _ _ sc ct t | .rred _ _ _ sc ct t => cmdScopeOk sc && targetOk false ct t   -- R346, R347
  | .drain _ _ _ sc ct t | .drainkSel _ _ _ sc ct t | .rmergeCx _ _ _ sc ct t => cmdScopeOk sc && targetOk false ct t
  | .rst _ _ _ sc ct t | .rmcast _ _ _ sc ct t | .cntx _ _ _ sc ct t | .disp _ _ _ sc ct t =>
    cmdScopeOk sc && targetOk true ct t
  | .drainkMerge _ _ _ sc | .rmergeSw _ _ _ sc => cmdScopeOk sc
  | _ => true

/-- NOP in any slot: it takes no extension word (R234, R281). -/
def Instr.isNop : Instr → Bool
  | .nopAlu | .nopCtl | .nopMat | .nopVec | .nopPrm | .nopScl | .nopXfr => true
  | _ => false

/-- VSEL needs its extension word (R332). -/
def Instr.needsExt : Instr → Bool
  | .vsel .. => true
  | _ => false

/-- Memory, atomic and handle instructions, which only ALU0 takes (R277). -/
def Instr.alu0Only : Instr → Bool
  | .ld .. | .st .. | .ldx .. | .stx .. | .amoadd .. | .amomin .. | .amomax .. | .amoand .. | .amoor .. | .amoxor ..
  | .amoswap .. | .amocas .. | .amofmax .. | .amofadd .. | .hset .. | .hget .. | .hadv .. | .hdim .. => true
  | _ => false

/-- The CTL operations a repeated bundle may hold (R234, R278). -/
def Instr.repeatable : Instr → Bool
  | .nopCtl | .waitc .. | .waitb .. | .setstep .. => true
  | _ => false

/-- The scalar sources of a slot instruction, in field order; a source named s0 counts (R233, R283, and the Src columns). -/
def Instr.sources : Instr → List (BitVec 6)
  | .add _ a b _ => [a, b]
  | .sub _ a b _ => [a, b]
  | .mul _ a b _ => [a, b]
  | .mulh _ a b _ => [a, b]
  | .mulhu _ a b _ => [a, b]
  | .div _ a b _ => [a, b]
  | .divu _ a b _ => [a, b]
  | .rem _ a b _ => [a, b]
  | .remu _ a b _ => [a, b]
  | .shl _ a b _ => [a, b]
  | .shr _ a b _ => [a, b]
  | .sra _ a b _ => [a, b]
  | .ror _ a b _ => [a, b]
  | .min _ a b _ => [a, b]
  | .max _ a b _ => [a, b]
  | .minu _ a b _ => [a, b]
  | .maxu _ a b _ => [a, b]
  | .seq _ a b _ => [a, b]
  | .sne _ a b _ => [a, b]
  | .slt _ a b _ => [a, b]
  | .sltu _ a b _ => [a, b]
  | .and _ a b => [a, b]
  | .or _ a b => [a, b]
  | .xor _ a b => [a, b]
  | .andn _ a b => [a, b]
  | .bset _ a b => [a, b]
  | .bclr _ a b => [a, b]
  | .addi _ a _ => [a]
  | .andi _ a _ => [a]
  | .ori _ a _ => [a]
  | .xori _ a _ => [a]
  | .slti _ a _ => [a]
  | .shli _ a _ _ => [a]
  | .shri _ a _ _ => [a]
  | .srai _ a _ _ => [a]
  | .clz _ a _ => [a]
  | .ctz _ a _ => [a]
  | .popc _ a _ => [a]
  | .madd _ a b c => [a, b, c]
  | .sel _ a b c => [a, b, c]
  | .ext _ a _ _ => [a]
  | .extu _ a _ _ => [a]
  | .ins d a _ _ => [d, a]
  | .movk d _ _ => [d]
  | .lea _ a b _ => [a, b]
  | .fadd _ a b _ _ => [a, b]
  | .fsub _ a b _ _ => [a, b]
  | .fmul _ a b _ _ => [a, b]
  | .ffma d a b _ _ => [a, b, d]
  | .fmin _ a b _ => [a, b]
  | .fmax _ a b _ => [a, b]
  | .feq _ a b _ => [a, b]
  | .flt _ a b _ => [a, b]
  | .fle _ a b _ => [a, b]
  | .fcvt _ a _ _ _ => [a]
  | .ftoi _ a _ _ _ _ => [a]
  | .itof _ a _ _ _ _ => [a]
  | .fsgn _ a b _ _ => [a, b]
  | .fclass _ a _ => [a]
  | .ld _ a _ _ _ => [a]
  | .st b a _ _ => [b, a]
  | .ldx _ a b _ _ _ => [a, b]
  | .stx c a b _ _ => [c, a, b]
  | .amoadd _ a b _ _ => [a, b]
  | .amoand _ a b _ _ => [a, b]
  | .amoor _ a b _ _ => [a, b]
  | .amoxor _ a b _ _ => [a, b]
  | .amoswap _ a b _ _ => [a, b]
  | .amocas d a b _ _ => [a, b, d]
  | .amomin _ a b _ _ _ => [a, b]
  | .amomax _ a b _ _ _ => [a, b]
  | .amofmax _ a b _ => [a, b]
  | .amofadd _ a b _ => [a, b]
  | .hset _ a _ => [a]
  | .hadv _ _ b => [b]
  | .hdim _ a b _ => [a, b]
  | .br _ a b _ => [a, b]
  | .jr a => [a]
  | .callr a => [a]
  | .ret => [1]
  | .loop a _ _ _ => [a]
  | .phase _ m p => [m, p]
  | .bar _ v => [v]
  | .arm _ c _ _ => [c]
  | .spawn _ t g => [t, g]
  | .grow _ k => [k]
  | .close _ g => [g]
  | .enq _ q v => [q, v]
  | .deq _ q _ => [q]
  | .crw a _ => [a]
  | .fqpop a => [a]
  | .setstep _ _ a => [a]
  | .tlbiPage a b => [a, b]
  | .tlbiAsn a b => [a, b]
  | .tlbiWorld => [0, 0]
  | .tlbiWindow a => [a, 0]
  | .tlbiWindows => [0, 0]
  | .tlbiHost a b => [a, b]
  | .mmaq _ _ _ z _ _ _ _ => [z]
  | .vadd _ _ b _ bs => if bs then [b] else []
  | .vsub _ _ b _ bs => if bs then [b] else []
  | .vmul _ _ b _ bs => if bs then [b] else []
  | .vfma _ _ b _ bs => if bs then [b] else []
  | .vmin _ _ b _ bs => if bs then [b] else []
  | .vmax _ _ b _ bs => if bs then [b] else []
  | .viota _ b _ => [b]
  | .vmovScalar _ b => [b]
  | .pscale _ _ s _ => [s]
  | .pqnt _ _ s _ _ => [s]
  | .pperm _ _ s => [s]
  | .sldt a => [a]
  | .sldb a => [a]
  | .cpy _ _ c _ _ _ => [c]
  | .cpym _ _ c _ _ _ => [c]
  | .cpys _ _ c _ _ _ => [c]
  | .gath _ _ c _ _ _ => [c]
  | .scat _ _ c _ _ _ => [c]
  | .drain _ _ c _ _ _ => [c]
  | .drainkSel _ _ c _ _ _ => [c]
  | .drainkMerge _ _ c _ => [c]
  | .rst _ _ c _ _ _ => [c]
  | .rld _ _ c _ _ _ => [c]
  | .ramo _ _ c _ _ _ => [c]
  | .rred _ _ c _ _ _ => [c]
  | .rmcast _ _ c _ _ _ => [c]
  | .rmergeCx _ _ c _ _ _ => [c]
  | .rmergeSw _ _ c _ => [c]
  | .cntx _ _ c _ _ _ => [c]
  | .disp _ _ c _ _ _ => [c]
  | .post _ a => [a]
  | .xcanCancel _ a => [a]
  | .xcanReplay _ a => [a]
  | .xcanAll _ => [0]
  | .xstatId _ a => [a]
  | .xstatLast _ a => [a]
  | _ => []

/-- The scalar destinations of a slot instruction (R234, R298, R300, R306). -/
def Instr.dests : Instr → List (BitVec 6)
  | .add d _ _ _ => [d]
  | .sub d _ _ _ => [d]
  | .mul d _ _ _ => [d]
  | .mulh d _ _ _ => [d]
  | .mulhu d _ _ _ => [d]
  | .div d _ _ _ => [d]
  | .divu d _ _ _ => [d]
  | .rem d _ _ _ => [d]
  | .remu d _ _ _ => [d]
  | .shl d _ _ _ => [d]
  | .shr d _ _ _ => [d]
  | .sra d _ _ _ => [d]
  | .ror d _ _ _ => [d]
  | .min d _ _ _ => [d]
  | .max d _ _ _ => [d]
  | .minu d _ _ _ => [d]
  | .maxu d _ _ _ => [d]
  | .seq d _ _ _ => [d]
  | .sne d _ _ _ => [d]
  | .slt d _ _ _ => [d]
  | .sltu d _ _ _ => [d]
  | .and d _ _ => [d]
  | .or d _ _ => [d]
  | .xor d _ _ => [d]
  | .andn d _ _ => [d]
  | .bset d _ _ => [d]
  | .bclr d _ _ => [d]
  | .addi d _ _ => [d]
  | .andi d _ _ => [d]
  | .ori d _ _ => [d]
  | .xori d _ _ => [d]
  | .slti d _ _ => [d]
  | .shli d _ _ _ => [d]
  | .shri d _ _ _ => [d]
  | .srai d _ _ _ => [d]
  | .clz d _ _ => [d]
  | .ctz d _ _ => [d]
  | .popc d _ _ => [d]
  | .madd d _ _ _ => [d]
  | .sel d _ _ _ => [d]
  | .ext d _ _ _ => [d]
  | .extu d _ _ _ => [d]
  | .ins d _ _ _ => [d]
  | .movi d _ => [d]
  | .movk d _ _ => [d]
  | .lea d _ _ _ => [d]
  | .fadd d _ _ _ _ => [d]
  | .fsub d _ _ _ _ => [d]
  | .fmul d _ _ _ _ => [d]
  | .ffma d _ _ _ _ => [d]
  | .fmin d _ _ _ => [d]
  | .fmax d _ _ _ => [d]
  | .feq d _ _ _ => [d]
  | .flt d _ _ _ => [d]
  | .fle d _ _ _ => [d]
  | .fcvt d _ _ _ _ => [d]
  | .ftoi d _ _ _ _ _ => [d]
  | .itof d _ _ _ _ _ => [d]
  | .fsgn d _ _ _ _ => [d]
  | .fclass d _ _ => [d]
  | .ld d _ _ _ _ => [d]
  | .ldx d _ _ _ _ _ => [d]
  | .amoadd d _ _ _ _ => [d]
  | .amoand d _ _ _ _ => [d]
  | .amoor d _ _ _ _ => [d]
  | .amoxor d _ _ _ _ => [d]
  | .amoswap d _ _ _ _ => [d]
  | .amocas d _ _ _ _ => [d]
  | .amomin d _ _ _ _ _ => [d]
  | .amomax d _ _ _ _ _ => [d]
  | .amofmax d _ _ _ => [d]
  | .amofadd d _ _ _ => [d]
  | .hget d _ _ => [d]
  | .call _ => [1]
  | .callr _ => [1]
  | .loop _ sreg _ _ => [sreg]
  | .bwaitTry _ d => [d]
  | .spawn d _ _ => [d]
  | .grow d _ => [d]
  | .close d _ => [d]
  | .enq d _ _ => [d]
  | .deq d _ e => [d, e]
  | .crr d _ => [d]
  | .mthr d _ _ _ => [d]
  | .xcanCancel d _ => [d]
  | .xcanReplay d _ => [d]
  | .xcanAll d => [d]
  | .xstatId d _ => [d]
  | .xstatLast d _ => [d]
  | _ => []

/-- The handle destination of a handle instruction (R234, R296). -/
def Instr.handleDests : Instr → List (BitVec 5)
  | .hset hd _ _ => [hd]
  | .hadv hd _ _ => [hd]
  | .hdim hd _ _ _ => [hd]
  | _ => []

/-- The operand positions of a sticky-slot instruction that name a handle, with the handle (R240, R324, R326, R336, R342,
R348). The third handle of a command is named in its control word and is added there. -/
def Instr.stepPositions : Instr → List (Nat × Nat)
  | .mma _ ha hb _ _ _ _ _ => [(1, ha.toNat), (2, hb.toNat)]
  | .mmax _ ha hb _ _ _ _ _ => [(1, ha.toNat), (2, hb.toNat)]
  | .mmaq _ ha hb _ _ _ _ _ => [(1, ha.toNat), (2, hb.toNat)]
  | .vadd hd ha b _ bs => [(0, hd.toNat), (1, ha.toNat)] ++ (if bs then [] else [(2, b.toNat)])
  | .vsub hd ha b _ bs => [(0, hd.toNat), (1, ha.toNat)] ++ (if bs then [] else [(2, b.toNat)])
  | .vmul hd ha b _ bs => [(0, hd.toNat), (1, ha.toNat)] ++ (if bs then [] else [(2, b.toNat)])
  | .vfma hd ha b _ bs => [(0, hd.toNat), (1, ha.toNat)] ++ (if bs then [] else [(2, b.toNat)])
  | .vmin hd ha b _ bs => [(0, hd.toNat), (1, ha.toNat)] ++ (if bs then [] else [(2, b.toNat)])
  | .vmax hd ha b _ bs => [(0, hd.toNat), (1, ha.toNat)] ++ (if bs then [] else [(2, b.toNat)])
  | .vabs hd ha _ => [(0, hd.toNat), (1, ha.toNat)]
  | .vneg hd ha _ => [(0, hd.toNat), (1, ha.toNat)]
  | .vrcp hd ha _ => [(0, hd.toNat), (1, ha.toNat)]
  | .vrsq hd ha _ => [(0, hd.toNat), (1, ha.toNat)]
  | .vlog2 hd ha _ => [(0, hd.toNat), (1, ha.toNat)]
  | .vexp hd ha _ _ => [(0, hd.toNat), (1, ha.toNat)]
  | .vtblLoad ha _ => [(1, ha.toNat)]
  | .vtbl hd ha _ _ => [(0, hd.toNat), (1, ha.toNat)]
  | .vcmp hd ha hb _ => [(0, hd.toNat), (1, ha.toNat), (2, hb.toNat)]
  | .vsel hd ha hb _ _ => [(0, hd.toNat), (1, ha.toNat), (2, hb.toNat)]
  | .vcvt hd ha _ _ => [(0, hd.toNat), (1, ha.toNat)]
  | .vred hd ha _ _ => [(0, hd.toNat), (1, ha.toNat)]
  | .vamax hd ha => [(0, hd.toNat), (1, ha.toNat)]
  | .vscan hd ha _ _ => [(0, hd.toNat), (1, ha.toNat)]
  | .vpush hd ha hb _ => [(0, hd.toNat), (1, ha.toNat), (2, hb.toNat)]
  | .vpop hd ha hb _ => [(0, hd.toNat), (1, ha.toNat), (2, hb.toNat)]
  | .vhist hd ha _ => [(0, hd.toNat), (1, ha.toNat)]
  | .viota hd _ _ => [(0, hd.toNat)]
  | .vmov hd ha => [(0, hd.toNat), (1, ha.toNat)]
  | .vmovScalar hd _ => [(0, hd.toNat)]
  | .vshuf hd ha hb => [(0, hd.toNat), (1, ha.toNat), (2, hb.toNat)]
  | .ppack hd ha _ _ => [(0, hd.toNat), (1, ha.toNat)]
  | .punpk hd ha => [(0, hd.toNat), (1, ha.toNat)]
  | .pscale hd ha _ _ => [(0, hd.toNat), (1, ha.toNat)]
  | .pqnt hd ha _ _ _ => [(0, hd.toNat), (1, ha.toNat)]
  | .pdq hd ha _ => [(0, hd.toNat), (1, ha.toNat)]
  | .ptrn hd ha _ => [(0, hd.toNat), (1, ha.toNat)]
  | .pbcast hd ha => [(0, hd.toNat), (1, ha.toNat)]
  | .pperm hd ha _ => [(0, hd.toNat), (1, ha.toNat)]
  | .cpy hd ha _ _ _ _ => [(0, hd.toNat), (1, ha.toNat)]
  | .cpym hd ha _ _ _ _ => [(0, hd.toNat), (1, ha.toNat)]
  | .cpys hd ha _ _ _ _ => [(0, hd.toNat), (1, ha.toNat)]
  | .gath hd ha _ _ _ _ => [(0, hd.toNat), (1, ha.toNat)]
  | .scat hd ha _ _ _ _ => [(0, hd.toNat), (1, ha.toNat)]
  | .drain hd _ _ _ _ _ => [(0, hd.toNat)]
  | .drainkSel hd _ _ _ _ _ => [(0, hd.toNat)]
  | .rst hd ha _ _ _ _ => [(0, hd.toNat), (1, ha.toNat)]
  | .rld hd ha _ _ _ _ => [(0, hd.toNat), (1, ha.toNat)]
  | .ramo hd ha _ _ _ _ => [(0, hd.toNat), (1, ha.toNat)]
  | .rred hd ha _ _ _ _ => [(0, hd.toNat), (1, ha.toNat)]
  | .rmcast hd ha _ _ _ _ => [(0, hd.toNat), (1, ha.toNat)]
  | .rmergeCx hd _ _ _ _ _ => [(0, hd.toNat)]
  | .rmergeSw hd _ _ _ => [(0, hd.toNat)]
  | .cntx hd ha _ _ _ _ => [(0, hd.toNat), (1, ha.toNat)]
  | .disp hd ha _ _ _ _ => [(0, hd.toNat), (1, ha.toNat)]
  | _ => []

/-- The encoding rules of one slot instruction (R234, R281): its field rules, no guard fields without a guard register, no
extension word on NOP, and what its slot word alone must give when there is no extension word. -/
def SlotOp.wf (op : SlotOp) : Bool :=
  op.instr.wf
    && (op.guard.reg != 0 || (op.guard.bit == 0 && !op.guard.pol))
    && (op.x || op.guard.reg == 0)
    && !(op.instr.isNop && op.x)
    && (op.x || !op.instr.needsExt)

/-- The scalar read-port grant of a slot (R231). -/
def Bundle.grant (b : Bundle) (slot : Nat) : Nat := b.grants.toNat / 4 ^ (7 - slot) % 4

/-- No value other than the first is repeated. -/
def noRepeats {α : Type} [DecidableEq α] : List α → Bool
  | [] => true
  | x :: l => !(l.contains x) && noRepeats l

/-- The bundle-level encoding rules (R234): grants, destinations, ALU0-only opcodes, what may repeat. -/
def Bundle.legal (b : Bundle) : Bool :=
  let dests := (b.ops.flatMap (fun p => p.2.instr.dests)).filter (· != 0)
  let hdests := b.ops.flatMap (fun p => p.2.instr.handleDests)
  ((List.range 8).map b.grant).sum ≤ 6
    && b.ops.all (fun p => p.2.instr.sources.length ≤ b.grant p.1)
    && (List.range 8).all (fun k => b.grant k == 0 || b.ops.any (fun p => p.1 == k))
    && noRepeats dests && noRepeats hdests
    && b.ops.all (fun p => !(p.1 == 1 && p.2.instr.alu0Only))
    && (b.reps == 0 || b.ops.all (fun p => p.1 != 2 || p.2.instr.repeatable))

end Sys2Proof
end

