-- ==== Sys2Proof/Decode.lean ====
section
/-! DEFINITION. The decoder of slot words and bundles, total on any bytes (R231 to R234, R276 to R281), and after it the
encoder written from the same encoding tables. -/

namespace Sys2Proof

/-! ### Bit fields of a word -/

/-- Bits [lo + n - 1 : lo] of a word. -/
def bf (n w lo : Nat) : BitVec n := BitVec.ofNat n (w / 2 ^ lo)
/-- Bit lo of a word. -/
def bb (w lo : Nat) : Bool := w / 2 ^ lo % 2 == 1
/-- Bits [lo + n - 1 : lo] of a word equal v. -/
def zfe (w lo n v : Nat) : Bool := w / 2 ^ lo % 2 ^ n == v
/-- An immediate of n bits at lo, extended above by the 19 extension bits when there is an extension word, and
sign-extended to m bits (R285, R290, R298). -/
def sxf (n m : Nat) (x : Bool) (w lo e : Nat) : BitVec m :=
  if x then (BitVec.ofNat (n + 19) (w / 2 ^ lo % 2 ^ n + e % 524288 * 2 ^ n)).signExtend m
  else (BitVec.ofNat n (w / 2 ^ lo)).signExtend m
/-- As `sxf`, zero-extended (R300). -/
def uxf (n m : Nat) (x : Bool) (w lo e : Nat) : BitVec m :=
  if x then (BitVec.ofNat (n + 19) (w / 2 ^ lo % 2 ^ n + e % 524288 * 2 ^ n)).setWidth m
  else (BitVec.ofNat n (w / 2 ^ lo)).setWidth m

/-- The operand fields of the ALU space (chapters 10 to 12), by opcode (R277 to R280). `w` is the slot word, `e` the extension
word, `x` whether there is one. Reserved operand bits must be zero (R281). -/
def parseAlu (x : Bool) (w e : Nat) : Nat → Option Instr
  | 0x00 => if zfe w 0 24 0 && zfe e 0 19 0 then some (.nopAlu) else none
  | 0x01 => if zfe w 1 5 0 && zfe e 0 19 0 then some (.add (bf 6 w 18) (bf 6 w 12) (bf 6 w 6) (bb w 0)) else none
  | 0x02 => if zfe w 1 5 0 && zfe e 0 19 0 then some (.sub (bf 6 w 18) (bf 6 w 12) (bf 6 w 6) (bb w 0)) else none
  | 0x03 => some (.addi (bf 6 w 18) (bf 6 w 12) (sxf 12 31 x w 0 e))
  | 0x04 => if zfe w 1 5 0 && zfe e 0 19 0 then some (.mul (bf 6 w 18) (bf 6 w 12) (bf 6 w 6) (bb w 0)) else none
  | 0x05 => if zfe w 1 5 0 && zfe e 0 19 0 then some (.mulh (bf 6 w 18) (bf 6 w 12) (bf 6 w 6) (bb w 0)) else none
  | 0x06 => if zfe w 1 5 0 && zfe e 0 19 0 then some (.mulhu (bf 6 w 18) (bf 6 w 12) (bf 6 w 6) (bb w 0)) else none
  | 0x07 => if zfe e 0 19 0 then some (.madd (bf 6 w 18) (bf 6 w 12) (bf 6 w 6) (bf 6 w 0)) else none
  | 0x08 => if zfe w 1 5 0 && zfe e 0 19 0 then some (.div (bf 6 w 18) (bf 6 w 12) (bf 6 w 6) (bb w 0)) else none
  | 0x09 => if zfe w 1 5 0 && zfe e 0 19 0 then some (.divu (bf 6 w 18) (bf 6 w 12) (bf 6 w 6) (bb w 0)) else none
  | 0x0a => if zfe w 1 5 0 && zfe e 0 19 0 then some (.rem (bf 6 w 18) (bf 6 w 12) (bf 6 w 6) (bb w 0)) else none
  | 0x0b => if zfe w 1 5 0 && zfe e 0 19 0 then some (.remu (bf 6 w 18) (bf 6 w 12) (bf 6 w 6) (bb w 0)) else none
  | 0x0c => if zfe w 0 6 0 && zfe e 0 19 0 then some (.and (bf 6 w 18) (bf 6 w 12) (bf 6 w 6)) else none
  | 0x0d => if zfe w 0 6 0 && zfe e 0 19 0 then some (.or (bf 6 w 18) (bf 6 w 12) (bf 6 w 6)) else none
  | 0x0e => if zfe w 0 6 0 && zfe e 0 19 0 then some (.xor (bf 6 w 18) (bf 6 w 12) (bf 6 w 6)) else none
  | 0x0f => if zfe w 0 6 0 && zfe e 0 19 0 then some (.andn (bf 6 w 18) (bf 6 w 12) (bf 6 w 6)) else none
  | 0x10 => some (.andi (bf 6 w 18) (bf 6 w 12) (sxf 12 31 x w 0 e))
  | 0x11 => some (.ori (bf 6 w 18) (bf 6 w 12) (sxf 12 31 x w 0 e))
  | 0x12 => some (.xori (bf 6 w 18) (bf 6 w 12) (sxf 12 31 x w 0 e))
  | 0x13 => if zfe w 1 5 0 && zfe e 0 19 0 then some (.shl (bf 6 w 18) (bf 6 w 12) (bf 6 w 6) (bb w 0)) else none
  | 0x14 => if zfe w 1 5 0 && zfe e 0 19 0 then some (.shr (bf 6 w 18) (bf 6 w 12) (bf 6 w 6) (bb w 0)) else none
  | 0x15 => if zfe w 1 5 0 && zfe e 0 19 0 then some (.sra (bf 6 w 18) (bf 6 w 12) (bf 6 w 6) (bb w 0)) else none
  | 0x16 => if zfe w 7 5 0 && zfe e 0 19 0 then some (.shli (bf 6 w 18) (bf 6 w 12) (bf 6 w 0) (bb w 6)) else none
  | 0x17 => if zfe w 7 5 0 && zfe e 0 19 0 then some (.shri (bf 6 w 18) (bf 6 w 12) (bf 6 w 0) (bb w 6)) else none
  | 0x18 => if zfe w 7 5 0 && zfe e 0 19 0 then some (.srai (bf 6 w 18) (bf 6 w 12) (bf 6 w 0) (bb w 6)) else none
  | 0x19 => if zfe w 1 5 0 && zfe e 0 19 0 then some (.ror (bf 6 w 18) (bf 6 w 12) (bf 6 w 6) (bb w 0)) else none
  | 0x1a => if zfe w 1 11 0 && zfe e 0 19 0 then some (.clz (bf 6 w 18) (bf 6 w 12) (bb w 0)) else none
  | 0x1b => if zfe w 1 11 0 && zfe e 0 19 0 then some (.ctz (bf 6 w 18) (bf 6 w 12) (bb w 0)) else none
  | 0x1c => if zfe w 1 11 0 && zfe e 0 19 0 then some (.popc (bf 6 w 18) (bf 6 w 12) (bb w 0)) else none
  | 0x1d => if zfe w 1 5 0 && zfe e 0 19 0 then some (.min (bf 6 w 18) (bf 6 w 12) (bf 6 w 6) (bb w 0)) else none
  | 0x1e => if zfe w 1 5 0 && zfe e 0 19 0 then some (.max (bf 6 w 18) (bf 6 w 12) (bf 6 w 6) (bb w 0)) else none
  | 0x1f => if zfe w 1 5 0 && zfe e 0 19 0 then some (.minu (bf 6 w 18) (bf 6 w 12) (bf 6 w 6) (bb w 0)) else none
  | 0x20 => if zfe w 1 5 0 && zfe e 0 19 0 then some (.maxu (bf 6 w 18) (bf 6 w 12) (bf 6 w 6) (bb w 0)) else none
  | 0x21 => if zfe w 1 5 0 && zfe e 0 19 0 then some (.seq (bf 6 w 18) (bf 6 w 12) (bf 6 w 6) (bb w 0)) else none
  | 0x22 => if zfe w 1 5 0 && zfe e 0 19 0 then some (.sne (bf 6 w 18) (bf 6 w 12) (bf 6 w 6) (bb w 0)) else none
  | 0x23 => if zfe w 1 5 0 && zfe e 0 19 0 then some (.slt (bf 6 w 18) (bf 6 w 12) (bf 6 w 6) (bb w 0)) else none
  | 0x24 => if zfe w 1 5 0 && zfe e 0 19 0 then some (.sltu (bf 6 w 18) (bf 6 w 12) (bf 6 w 6) (bb w 0)) else none
  | 0x25 => some (.slti (bf 6 w 18) (bf 6 w 12) (sxf 12 31 x w 0 e))
  | 0x26 => if zfe e 0 19 0 then some (.sel (bf 6 w 18) (bf 6 w 12) (bf 6 w 6) (bf 6 w 0)) else none
  | 0x27 => if zfe e 0 19 0 then some (.ext (bf 6 w 18) (bf 6 w 12) (bf 6 w 6) (bf 6 w 0)) else none
  | 0x28 => if zfe e 0 19 0 then some (.extu (bf 6 w 18) (bf 6 w 12) (bf 6 w 6) (bf 6 w 0)) else none
  | 0x29 => if zfe e 0 19 0 then some (.ins (bf 6 w 18) (bf 6 w 12) (bf 6 w 6) (bf 6 w 0)) else none
  | 0x2a => if zfe w 0 6 0 && zfe e 0 19 0 then some (.bset (bf 6 w 18) (bf 6 w 12) (bf 6 w 6)) else none
  | 0x2b => if zfe w 0 6 0 && zfe e 0 19 0 then some (.bclr (bf 6 w 18) (bf 6 w 12) (bf 6 w 6)) else none
  | 0x2c => some (.movi (bf 6 w 18) (sxf 18 37 x w 0 e))
  | 0x2d => if zfe e 0 19 0 then some (.movk (bf 6 w 18) (bf 2 w 16) (bf 16 w 0)) else none
  | 0x2e => if zfe w 3 3 0 && zfe e 0 19 0 then some (.lea (bf 6 w 18) (bf 6 w 12) (bf 6 w 6) (bf 3 w 0)) else none
  | 0x30 => if zfe w 0 1 0 && zfe e 0 19 0 then some (.fadd (bf 6 w 18) (bf 6 w 12) (bf 6 w 6) (bf 2 w 4) (bf 3 w 1)) else none
  | 0x31 => if zfe w 0 1 0 && zfe e 0 19 0 then some (.fsub (bf 6 w 18) (bf 6 w 12) (bf 6 w 6) (bf 2 w 4) (bf 3 w 1)) else none
  | 0x32 => if zfe w 0 1 0 && zfe e 0 19 0 then some (.fmul (bf 6 w 18) (bf 6 w 12) (bf 6 w 6) (bf 2 w 4) (bf 3 w 1)) else none
  | 0x33 => if zfe w 0 1 0 && zfe e 0 19 0 then some (.ffma (bf 6 w 18) (bf 6 w 12) (bf 6 w 6) (bf 2 w 4) (bf 3 w 1)) else none
  | 0x34 => if zfe w 0 4 0 && zfe e 0 19 0 then some (.fmin (bf 6 w 18) (bf 6 w 12) (bf 6 w 6) (bf 2 w 4)) else none
  | 0x35 => if zfe w 0 4 0 && zfe e 0 19 0 then some (.fmax (bf 6 w 18) (bf 6 w 12) (bf 6 w 6) (bf 2 w 4)) else none
  | 0x36 => if zfe w 0 4 0 && zfe e 0 19 0 then some (.feq (bf 6 w 18) (bf 6 w 12) (bf 6 w 6) (bf 2 w 4)) else none
  | 0x37 => if zfe w 0 4 0 && zfe e 0 19 0 then some (.flt (bf 6 w 18) (bf 6 w 12) (bf 6 w 6) (bf 2 w 4)) else none
  | 0x38 => if zfe w 0 4 0 && zfe e 0 19 0 then some (.fle (bf 6 w 18) (bf 6 w 12) (bf 6 w 6) (bf 2 w 4)) else none
  | 0x39 => if zfe w 0 1 0 && zfe w 8 4 0 && zfe e 0 19 0 then some (.fcvt (bf 6 w 18) (bf 6 w 12) (bf 2 w 6) (bf 2 w 4) (bf 3 w 1)) else none
  | 0x3a => if zfe w 0 1 0 && zfe w 8 4 0 && zfe e 0 19 0 then some (.ftoi (bf 6 w 18) (bf 6 w 12) (bb w 6) (bb w 7) (bf 2 w 4) (bf 3 w 1)) else none
  | 0x3b => if zfe w 0 1 0 && zfe w 8 4 0 && zfe e 0 19 0 then some (.itof (bf 6 w 18) (bf 6 w 12) (bb w 6) (bb w 7) (bf 2 w 4) (bf 3 w 1)) else none
  | 0x3c => if zfe w 0 1 0 && zfe e 0 19 0 then some (.fsgn (bf 6 w 18) (bf 6 w 12) (bf 6 w 6) (bf 2 w 4) (bf 3 w 1)) else none
  | 0x3d => if zfe w 0 4 0 && zfe w 6 6 0 && zfe e 0 19 0 then some (.fclass (bf 6 w 18) (bf 6 w 12) (bf 2 w 4)) else none
  | 0x40 => some (.ld (bf 6 w 18) (bf 6 w 12) (bf 2 w 10) (bb w 9) (sxf 9 28 x w 0 e))
  | 0x41 => if zfe w 9 1 0 then some (.st (bf 6 w 18) (bf 6 w 12) (bf 2 w 10) (sxf 9 28 x w 0 e)) else none
  | 0x42 => if zfe e 0 19 0 then some (.ldx (bf 6 w 18) (bf 6 w 12) (bf 6 w 6) (bf 2 w 4) (bb w 3) (bf 3 w 0)) else none
  | 0x43 => if zfe w 3 1 0 && zfe e 0 19 0 then some (.stx (bf 6 w 18) (bf 6 w 12) (bf 6 w 6) (bf 2 w 4) (bf 3 w 0)) else none
  | 0x48 => if zfe w 0 2 0 && zfe e 0 19 0 then some (.amoadd (bf 6 w 18) (bf 6 w 12) (bf 6 w 6) (bf 3 w 3) (bb w 2)) else none
  | 0x49 => if zfe w 0 1 0 && zfe e 0 19 0 then some (.amomin (bf 6 w 18) (bf 6 w 12) (bf 6 w 6) (bf 3 w 3) (bb w 2) (bb w 1)) else none
  | 0x4a => if zfe w 0 1 0 && zfe e 0 19 0 then some (.amomax (bf 6 w 18) (bf 6 w 12) (bf 6 w 6) (bf 3 w 3) (bb w 2) (bb w 1)) else none
  | 0x4b => if zfe w 0 2 0 && zfe e 0 19 0 then some (.amoand (bf 6 w 18) (bf 6 w 12) (bf 6 w 6) (bf 3 w 3) (bb w 2)) else none
  | 0x4c => if zfe w 0 2 0 && zfe e 0 19 0 then some (.amoor (bf 6 w 18) (bf 6 w 12) (bf 6 w 6) (bf 3 w 3) (bb w 2)) else none
  | 0x4d => if zfe w 0 2 0 && zfe e 0 19 0 then some (.amoxor (bf 6 w 18) (bf 6 w 12) (bf 6 w 6) (bf 3 w 3) (bb w 2)) else none
  | 0x4e => if zfe w 0 2 0 && zfe e 0 19 0 then some (.amoswap (bf 6 w 18) (bf 6 w 12) (bf 6 w 6) (bf 3 w 3) (bb w 2)) else none
  | 0x4f => if zfe w 0 2 0 && zfe e 0 19 0 then some (.amocas (bf 6 w 18) (bf 6 w 12) (bf 6 w 6) (bf 3 w 3) (bb w 2)) else none
  | 0x50 => if zfe w 0 3 0 && zfe e 0 19 0 then some (.amofmax (bf 6 w 18) (bf 6 w 12) (bf 6 w 6) (bf 3 w 3)) else none
  | 0x51 => if zfe w 0 3 0 && zfe e 0 19 0 then some (.amofadd (bf 6 w 18) (bf 6 w 12) (bf 6 w 6) (bf 3 w 3)) else none
  | 0x58 => if zfe w 6 6 0 && zfe w 23 1 0 && zfe e 0 19 0 then some (.hset (bf 5 w 18) (bf 6 w 12) (bf 6 w 0)) else none
  | 0x59 => if zfe w 6 6 0 && zfe w 17 1 0 && zfe e 0 19 0 then some (.hget (bf 6 w 18) (bf 5 w 12) (bf 6 w 0)) else none
  | 0x5a => if zfe w 0 6 0 && zfe w 17 1 0 && zfe w 23 1 0 && zfe e 0 19 0 then some (.hadv (bf 5 w 18) (bf 5 w 12) (bf 6 w 6)) else none
  | 0x5b => if zfe w 2 4 0 && zfe w 23 1 0 && zfe e 0 19 0 then some (.hdim (bf 5 w 18) (bf 6 w 12) (bf 6 w 6) (bf 2 w 0)) else none
  | _ => none

/-- The operand fields of the CTL space (chapters 10 to 12), by opcode (R277 to R280). `w` is the slot word, `e` the extension
word, `x` whether there is one. Reserved operand bits must be zero (R281). -/
def parseCtl (x : Bool) (w e : Nat) : Nat → Option Instr
  | 0x00 => if zfe w 0 24 0 && zfe e 0 19 0 then some (.nopCtl) else none
  | 0x01 => some (.br (bf 3 w 21) (bf 6 w 15) (bf 6 w 9) (sxf 9 28 x w 0 e))
  | 0x02 => some (.jmp (sxf 24 43 x w 0 e))
  | 0x03 => if zfe w 0 12 0 && zfe w 18 6 0 && zfe e 0 19 0 then some (.jr (bf 6 w 12)) else none
  | 0x04 => some (.call (sxf 24 43 x w 0 e))
  | 0x05 => if zfe w 0 12 0 && zfe w 18 6 0 && zfe e 0 19 0 then some (.callr (bf 6 w 12)) else none
  | 0x06 => if zfe w 0 24 0 && zfe e 0 19 0 then some (.ret) else none
  | 0x07 => some (.loop (bf 6 w 18) (bf 6 w 12) (bf 3 w 9) (uxf 9 28 x w 0 e))
  | 0x08 => some (.loopi (bf 16 w 8) (uxf 8 27 x w 0 e))
  | 0x09 => if zfe w 2 22 0 && zfe e 0 19 0 then some (.lbrk (bf 2 w 0)) else none
  | 0x0a => if zfe w 16 8 0 && zfe e 0 19 0 then some (.waitc (bf 4 w 12) (bf 4 w 8) (bf 4 w 4) (bf 4 w 0)) else none
  | 0x0b => if zfe w 3 21 0 && zfe e 0 19 0 then some (.waitb (bf 3 w 0)) else none
  | 0x0c => if zfe w 0 9 0 && zfe e 0 19 0 then some (.phase (bf 3 w 21) (bf 6 w 15) (bf 6 w 9)) else none
  | 0x0d => if zfe w 0 21 0 && zfe e 0 19 0 then some (.fence (bf 3 w 21)) else none
  | 0x0e => if zfe w 0 10 0 && zfe e 0 19 0 then some (.bar (bf 8 w 16) (bf 6 w 10)) else none
  | 0x0f => if zfe w 0 10 0 && zfe e 17 2 0 then some (.arm (bf 8 w 16) (bf 6 w 10) (bb e 16) (bf 16 e 0)) else none
  | 0x10 => if zfe w 9 1 0 && zfe w 0 9 0 && zfe w 10 6 0 && zfe e 0 19 0 then some (.bwait (bf 8 w 16)) else if zfe w 9 1 1 && zfe w 0 9 0 && zfe e 0 19 0 then some (.bwaitTry (bf 8 w 16) (bf 6 w 10)) else none
  | 0x11 => if zfe w 0 6 0 && zfe e 0 19 0 then some (.spawn (bf 6 w 18) (bf 6 w 12) (bf 6 w 6)) else none
  | 0x12 => if zfe w 0 12 0 && zfe e 0 19 0 then some (.grow (bf 6 w 18) (bf 6 w 12)) else none
  | 0x13 => if zfe w 0 12 0 && zfe e 0 19 0 then some (.close (bf 6 w 18) (bf 6 w 12)) else none
  | 0x14 => if zfe w 0 6 0 && zfe e 0 19 0 then some (.enq (bf 6 w 18) (bf 6 w 12) (bf 6 w 6)) else none
  | 0x15 => if zfe w 0 6 0 && zfe e 0 19 0 then some (.deq (bf 6 w 18) (bf 6 w 12) (bf 6 w 6)) else none
  | 0x16 => if zfe w 0 24 0 && zfe e 0 19 0 then some (.done) else none
  | 0x17 => if zfe w 16 8 0 && zfe e 0 19 0 then some (.trap (bf 16 w 0)) else none
  | 0x18 => if zfe w 16 8 0 && zfe e 0 19 0 then some (.sys (bf 16 w 0)) else none
  | 0x19 => if zfe w 0 24 0 && zfe e 0 19 0 then some (.eret) else none
  | 0x1a => if zfe w 12 6 0 && zfe e 0 19 0 then some (.crr (bf 6 w 18) (bf 12 w 0)) else none
  | 0x1b => if zfe w 0 12 141 && zfe w 18 6 0 && zfe e 0 19 0 then some (.fqpop (bf 6 w 12)) else if zfe w 18 6 0 && zfe e 0 19 0 then some (.crw (bf 6 w 12) (bf 12 w 0)) else none
  | 0x1c => if zfe w 16 8 0 && zfe e 0 19 0 then some (.bkpt (bf 16 w 0)) else none
  | 0x1d => if zfe w 0 12 0 && zfe w 18 2 0 && zfe e 0 19 0 then some (.setstep (bf 2 w 22) (bf 2 w 20) (bf 6 w 12)) else none
  | 0x1e => if zfe w 0 24 0 && zfe e 0 19 0 then some (.yield) else none
  | 0x1f => if zfe w 21 3 0 && zfe w 0 9 0 && zfe e 0 19 0 then some (.tlbiPage (bf 6 w 15) (bf 6 w 9)) else if zfe w 21 3 1 && zfe w 0 9 0 && zfe e 0 19 0 then some (.tlbiAsn (bf 6 w 15) (bf 6 w 9)) else if zfe w 21 3 2 && zfe w 0 21 0 && zfe e 0 19 0 then some (.tlbiWorld) else if zfe w 21 3 3 && zfe w 0 15 0 && zfe e 0 19 0 then some (.tlbiWindow (bf 6 w 15)) else if zfe w 21 3 4 && zfe w 0 21 0 && zfe e 0 19 0 then some (.tlbiWindows) else if zfe w 21 3 5 && zfe w 0 9 0 && zfe e 0 19 0 then some (.tlbiHost (bf 6 w 15) (bf 6 w 9)) else none
  | 0x20 => if zfe w 0 24 0 && zfe e 0 19 0 then some (.halt) else none
  | _ => none

/-- The operand fields of the MAT space (chapters 10 to 12), by opcode (R277 to R280). `w` is the slot word, `e` the extension
word, `x` whether there is one. Reserved operand bits must be zero (R281). -/
def parseMat (_x : Bool) (w e : Nat) : Nat → Option Instr
  | 0x00 => if zfe w 0 24 0 && zfe e 0 19 0 then some (.nopMat) else none
  | 0x01 => if zfe w 0 2 0 && zfe w 13 1 0 && zfe w 19 1 0 && zfe e 14 5 0 then some (.mma (bf 4 w 20) (bf 5 w 14) (bf 5 w 8) (bf 4 w 4) (bb w 3) (bb w 2) (bf 7 e 7) (bf 7 e 0)) else none
  | 0x02 => if zfe w 0 2 0 && zfe w 13 1 0 && zfe w 19 1 0 && zfe e 14 5 0 then some (.mmax (bf 4 w 20) (bf 5 w 14) (bf 5 w 8) (bf 4 w 4) (bb w 3) (bb w 2) (bf 7 e 7) (bf 7 e 0)) else none
  | 0x03 => if zfe w 13 1 0 && zfe w 19 1 0 && zfe e 14 5 0 then some (.mmaq (bf 4 w 20) (bf 5 w 14) (bf 5 w 8) (bf 6 w 2) (bb w 1) (bb w 0) (bf 7 e 7) (bf 7 e 0)) else none
  | 0x04 => if zfe w 0 8 0 && zfe e 0 19 0 then some (.mzero (bf 16 w 8)) else none
  | 0x05 => if zfe w 0 24 0 && zfe e 0 19 0 then some (.mcommit) else none
  | 0x06 => if zfe w 0 13 0 && zfe e 0 19 0 then some (.mrank (bf 4 w 20) (bf 6 w 14) (bb w 13)) else none
  | 0x07 => if zfe e 0 19 0 then some (.mkat (bf 8 w 16) (bf 16 w 0)) else none
  | 0x08 => if zfe w 0 10 0 && zfe e 0 19 0 then some (.mpop (bf 6 w 18) (bf 8 w 10)) else none
  | 0x09 => if zfe w 0 15 0 && zfe e 0 19 0 then some (.maddt (bf 4 w 20) (bf 4 w 16) (bb w 15)) else none
  | 0x0a => if zfe w 0 16 0 && zfe e 0 19 0 then some (.mcopy (bf 4 w 20) (bf 4 w 16)) else none
  | 0x0b => if zfe e 0 19 0 then some (.mthr (bf 6 w 18) (bf 4 w 14) (bf 7 w 7) (bf 7 w 0)) else none
  | _ => none

/-- The operand fields of the VEC space (chapters 10 to 12), by opcode (R277 to R280). `w` is the slot word, `e` the extension
word, `x` whether there is one. Reserved operand bits must be zero (R281). -/
def parseVec (_x : Bool) (w e : Nat) : Nat → Option Instr
  | 0x00 => if zfe w 0 24 0 && zfe e 0 19 0 then some (.nopVec) else none
  | 0x01 => if zfe w 0 2 0 && zfe w 17 1 0 && zfe w 23 1 0 && zfe e 0 19 0 then some (.vadd (bf 5 w 18) (bf 5 w 12) (bf 6 w 6) (bf 3 w 3) (bb w 2)) else none
  | 0x02 => if zfe w 0 2 0 && zfe w 17 1 0 && zfe w 23 1 0 && zfe e 0 19 0 then some (.vsub (bf 5 w 18) (bf 5 w 12) (bf 6 w 6) (bf 3 w 3) (bb w 2)) else none
  | 0x03 => if zfe w 0 2 0 && zfe w 17 1 0 && zfe w 23 1 0 && zfe e 0 19 0 then some (.vmul (bf 5 w 18) (bf 5 w 12) (bf 6 w 6) (bf 3 w 3) (bb w 2)) else none
  | 0x04 => if zfe w 0 2 0 && zfe w 17 1 0 && zfe w 23 1 0 && zfe e 0 19 0 then some (.vfma (bf 5 w 18) (bf 5 w 12) (bf 6 w 6) (bf 3 w 3) (bb w 2)) else none
  | 0x05 => if zfe w 0 2 0 && zfe w 17 1 0 && zfe w 23 1 0 && zfe e 0 19 0 then some (.vmin (bf 5 w 18) (bf 5 w 12) (bf 6 w 6) (bf 3 w 3) (bb w 2)) else none
  | 0x06 => if zfe w 0 2 0 && zfe w 17 1 0 && zfe w 23 1 0 && zfe e 0 19 0 then some (.vmax (bf 5 w 18) (bf 5 w 12) (bf 6 w 6) (bf 3 w 3) (bb w 2)) else none
  | 0x07 => if zfe w 0 3 0 && zfe w 6 6 0 && zfe w 17 1 0 && zfe w 23 1 0 && zfe e 0 19 0 then some (.vabs (bf 5 w 18) (bf 5 w 12) (bf 3 w 3)) else none
  | 0x08 => if zfe w 0 3 0 && zfe w 6 6 0 && zfe w 17 1 0 && zfe w 23 1 0 && zfe e 0 19 0 then some (.vneg (bf 5 w 18) (bf 5 w 12) (bf 3 w 3)) else none
  | 0x09 => if zfe w 0 3 0 && zfe w 6 6 0 && zfe w 17 1 0 && zfe w 23 1 0 && zfe e 0 19 0 then some (.vrcp (bf 5 w 18) (bf 5 w 12) (bf 3 w 3)) else none
  | 0x0a => if zfe w 0 3 0 && zfe w 6 6 0 && zfe w 17 1 0 && zfe w 23 1 0 && zfe e 0 19 0 then some (.vrsq (bf 5 w 18) (bf 5 w 12) (bf 3 w 3)) else none
  | 0x0b => if zfe w 1 2 0 && zfe w 6 6 0 && zfe w 17 1 0 && zfe w 23 1 0 && zfe e 0 19 0 then some (.vexp (bf 5 w 18) (bf 5 w 12) (bf 3 w 3) (bb w 0)) else none
  | 0x0c => if zfe w 0 3 0 && zfe w 6 6 0 && zfe w 17 1 0 && zfe w 23 1 0 && zfe e 0 19 0 then some (.vlog2 (bf 5 w 18) (bf 5 w 12) (bf 3 w 3)) else none
  | 0x0d => if zfe w 0 1 1 && zfe w 1 5 0 && zfe w 8 4 0 && zfe w 17 7 0 && zfe e 0 19 0 then some (.vtblLoad (bf 5 w 12) (bf 2 w 6)) else if zfe w 0 1 0 && zfe w 1 2 0 && zfe w 8 4 0 && zfe w 17 1 0 && zfe w 23 1 0 && zfe e 0 19 0 then some (.vtbl (bf 5 w 18) (bf 5 w 12) (bf 2 w 6) (bf 3 w 3)) else none
  | 0x0e => if zfe w 0 3 0 && zfe w 11 1 0 && zfe w 17 1 0 && zfe w 23 1 0 && zfe e 0 19 0 then some (.vcmp (bf 5 w 18) (bf 5 w 12) (bf 5 w 6) (bf 3 w 3)) else none
  | 0x0f => if zfe w 0 3 0 && zfe w 11 1 0 && zfe w 17 1 0 && zfe w 23 1 0 && zfe e 5 14 0 then some (.vsel (bf 5 w 18) (bf 5 w 12) (bf 5 w 6) (bf 3 w 3) (bf 5 e 0)) else none
  | 0x10 => if zfe w 1 2 0 && zfe w 6 6 0 && zfe w 17 1 0 && zfe w 23 1 0 && zfe e 0 19 0 then some (.vcvt (bf 5 w 18) (bf 5 w 12) (bf 3 w 3) (bb w 0)) else none
  | 0x11 => if zfe w 2 1 0 && zfe w 6 6 0 && zfe w 17 1 0 && zfe w 23 1 0 && zfe e 0 19 0 then some (.vred (bf 5 w 18) (bf 5 w 12) (bf 3 w 3) (bf 2 w 0)) else none
  | 0x12 => if zfe w 1 2 0 && zfe w 6 6 0 && zfe w 17 1 0 && zfe w 23 1 0 && zfe e 0 19 0 then some (.vscan (bf 5 w 18) (bf 5 w 12) (bf 3 w 3) (bb w 0)) else none
  | 0x13 => if zfe w 0 3 0 && zfe w 11 1 0 && zfe w 17 1 0 && zfe w 23 1 0 && zfe e 0 19 0 then some (.vpush (bf 5 w 18) (bf 5 w 12) (bf 5 w 6) (bf 3 w 3)) else none
  | 0x14 => if zfe w 0 3 0 && zfe w 11 1 0 && zfe w 17 1 0 && zfe w 23 1 0 && zfe e 0 19 0 then some (.vpop (bf 5 w 18) (bf 5 w 12) (bf 5 w 6) (bf 3 w 3)) else none
  | 0x15 => if zfe w 1 11 0 && zfe w 17 1 0 && zfe w 23 1 0 && zfe e 0 19 0 then some (.vhist (bf 5 w 18) (bf 5 w 12) (bb w 0)) else none
  | 0x16 => if zfe w 2 1 1 && zfe w 0 2 0 && zfe w 12 6 0 && zfe w 23 1 0 && zfe e 0 19 0 then some (.viota (bf 5 w 18) (bf 6 w 6) (bf 3 w 3)) else none
  | 0x17 => if zfe w 2 1 0 && zfe w 0 2 0 && zfe w 3 9 0 && zfe w 17 1 0 && zfe w 23 1 0 && zfe e 0 19 0 then some (.vmov (bf 5 w 18) (bf 5 w 12)) else if zfe w 2 1 1 && zfe w 0 2 0 && zfe w 3 3 0 && zfe w 12 6 0 && zfe w 23 1 0 && zfe e 0 19 0 then some (.vmovScalar (bf 5 w 18) (bf 6 w 6)) else none
  | 0x18 => if zfe w 0 6 0 && zfe w 11 1 0 && zfe w 17 1 0 && zfe w 23 1 0 && zfe e 0 19 0 then some (.vshuf (bf 5 w 18) (bf 5 w 12) (bf 5 w 6)) else none
  | 0x19 => if zfe w 0 12 0 && zfe w 17 1 0 && zfe w 23 1 0 && zfe e 0 19 0 then some (.vamax (bf 5 w 18) (bf 5 w 12)) else none
  | _ => none

/-- The operand fields of the PRM space (chapters 10 to 12), by opcode (R277 to R280). `w` is the slot word, `e` the extension
word, `x` whether there is one. Reserved operand bits must be zero (R281). -/
def parsePrm (_x : Bool) (w e : Nat) : Nat → Option Instr
  | 0x00 => if zfe w 0 24 0 && zfe e 0 19 0 then some (.nopPrm) else none
  | 0x01 => if zfe w 0 2 0 && zfe w 6 6 0 && zfe w 17 1 0 && zfe w 23 1 0 && zfe e 0 19 0 then some (.ppack (bf 5 w 18) (bf 5 w 12) (bf 3 w 3) (bb w 2)) else none
  | 0x02 => if zfe w 0 12 0 && zfe w 17 1 0 && zfe w 23 1 0 && zfe e 0 19 0 then some (.punpk (bf 5 w 18) (bf 5 w 12)) else none
  | 0x03 => if zfe w 0 3 0 && zfe w 17 1 0 && zfe w 23 1 0 && zfe e 0 19 0 then some (.pscale (bf 5 w 18) (bf 5 w 12) (bf 6 w 6) (bf 3 w 3)) else none
  | 0x04 => if zfe w 0 2 0 && zfe w 17 1 0 && zfe w 23 1 0 && zfe e 0 19 0 then some (.pqnt (bf 5 w 18) (bf 5 w 12) (bf 6 w 6) (bf 3 w 3) (bb w 2)) else none
  | 0x05 => if zfe w 0 3 0 && zfe w 6 6 0 && zfe w 17 1 0 && zfe w 23 1 0 && zfe e 0 19 0 then some (.pdq (bf 5 w 18) (bf 5 w 12) (bf 3 w 3)) else none
  | 0x06 => if zfe w 1 11 0 && zfe w 17 1 0 && zfe w 23 1 0 && zfe e 0 19 0 then some (.ptrn (bf 5 w 18) (bf 5 w 12) (bb w 0)) else none
  | 0x07 => if zfe w 0 12 0 && zfe w 17 1 0 && zfe w 23 1 0 && zfe e 0 19 0 then some (.pbcast (bf 5 w 18) (bf 5 w 12)) else none
  | 0x08 => if zfe w 0 6 0 && zfe w 17 1 0 && zfe w 23 1 0 && zfe e 0 19 0 then some (.pperm (bf 5 w 18) (bf 5 w 12) (bf 6 w 6)) else none
  | _ => none

/-- The operand fields of the SCL space (chapters 10 to 12), by opcode (R277 to R280). `w` is the slot word, `e` the extension
word, `x` whether there is one. Reserved operand bits must be zero (R281). -/
def parseScl (_x : Bool) (w e : Nat) : Nat → Option Instr
  | 0x00 => if zfe w 0 24 0 && zfe e 0 19 0 then some (.nopScl) else none
  | 0x01 => if zfe w 0 12 0 && zfe w 18 6 0 && zfe e 0 19 0 then some (.sldt (bf 6 w 12)) else none
  | 0x02 => if zfe w 0 12 0 && zfe w 18 6 0 && zfe e 0 19 0 then some (.sldb (bf 6 w 12)) else none
  | 0x03 => if zfe w 0 12 0 && zfe e 0 19 0 then some (.sseti (bf 4 w 20) (bf 8 w 12)) else none
  | 0x04 => if zfe w 1 23 0 && zfe e 0 19 0 then some (.smode (bb w 0)) else none
  | _ => none

/-- The operand fields of the XFR space (chapters 10 to 12), by opcode (R277 to R280). `w` is the slot word, `e` the extension
word, `x` whether there is one. Reserved operand bits must be zero (R281). -/
def parseXfr (_x : Bool) (w e : Nat) : Nat → Option Instr
  | 0x00 => if zfe w 0 24 0 && zfe e 0 19 0 then some (.nopXfr) else none
  | 0x01 => if zfe w 0 3 0 && zfe w 17 1 0 && zfe w 23 1 0 && zfe e 16 1 0 then some (.cpy (bf 5 w 18) (bf 5 w 12) (bf 6 w 6) (bf 3 w 3) (bf 2 e 17) (bf 16 e 0)) else none
  | 0x02 => if zfe w 0 3 0 && zfe w 17 1 0 && zfe w 23 1 0 && zfe e 16 1 0 then some (.cpym (bf 5 w 18) (bf 5 w 12) (bf 6 w 6) (bf 3 w 3) (bf 2 e 17) (bf 16 e 0)) else none
  | 0x03 => if zfe w 0 3 0 && zfe w 17 1 0 && zfe w 23 1 0 && zfe e 16 1 0 then some (.cpys (bf 5 w 18) (bf 5 w 12) (bf 6 w 6) (bf 3 w 3) (bf 2 e 17) (bf 16 e 0)) else none
  | 0x04 => if zfe w 0 3 0 && zfe w 17 1 0 && zfe w 23 1 0 && zfe e 16 1 0 then some (.gath (bf 5 w 18) (bf 5 w 12) (bf 6 w 6) (bf 3 w 3) (bf 2 e 17) (bf 16 e 0)) else none
  | 0x05 => if zfe w 0 3 0 && zfe w 17 1 0 && zfe w 23 1 0 && zfe e 16 1 0 then some (.scat (bf 5 w 18) (bf 5 w 12) (bf 6 w 6) (bf 3 w 3) (bf 2 e 17) (bf 16 e 0)) else none
  | 0x06 => if zfe w 0 3 0 && zfe w 16 2 0 && zfe w 23 1 0 && zfe e 16 1 0 then some (.drain (bf 5 w 18) (bf 4 w 12) (bf 6 w 6) (bf 3 w 3) (bf 2 e 17) (bf 16 e 0)) else none
  | 0x07 => if zfe w 0 3 0 && zfe w 16 2 0 && zfe w 23 1 0 && zfe e 16 1 0 then some (.drainkSel (bf 5 w 18) (bf 4 w 12) (bf 6 w 6) (bf 3 w 3) (bf 2 e 17) (bf 16 e 0)) else if zfe w 0 3 1 && zfe w 16 2 0 && zfe w 22 2 0 && zfe e 0 19 0 then some (.drainkMerge (bf 4 w 18) (bf 4 w 12) (bf 6 w 6) (bf 3 w 3)) else none
  | 0x08 => if zfe w 0 3 0 && zfe w 17 1 0 && zfe w 23 1 0 && zfe e 16 1 0 then some (.rst (bf 5 w 18) (bf 5 w 12) (bf 6 w 6) (bf 3 w 3) (bf 2 e 17) (bf 16 e 0)) else none
  | 0x09 => if zfe w 0 3 0 && zfe w 17 1 0 && zfe w 23 1 0 && zfe e 16 1 0 then some (.rld (bf 5 w 18) (bf 5 w 12) (bf 6 w 6) (bf 3 w 3) (bf 2 e 17) (bf 16 e 0)) else none
  | 0x0a => if zfe w 0 3 0 && zfe w 17 1 0 && zfe w 23 1 0 && zfe e 16 1 0 then some (.ramo (bf 5 w 18) (bf 5 w 12) (bf 6 w 6) (bf 3 w 3) (bf 2 e 17) (bf 16 e 0)) else none
  | 0x0b => if zfe w 0 3 0 && zfe w 17 1 0 && zfe w 23 1 0 && zfe e 16 1 0 then some (.rred (bf 5 w 18) (bf 5 w 12) (bf 6 w 6) (bf 3 w 3) (bf 2 e 17) (bf 16 e 0)) else none
  | 0x0c => if zfe w 0 3 0 && zfe w 17 1 0 && zfe w 23 1 0 && zfe e 16 1 0 then some (.rmcast (bf 5 w 18) (bf 5 w 12) (bf 6 w 6) (bf 3 w 3) (bf 2 e 17) (bf 16 e 0)) else none
  | 0x0d => if zfe w 0 3 0 && zfe w 16 2 0 && zfe w 23 1 0 && zfe e 16 1 0 then some (.rmergeCx (bf 5 w 18) (bf 4 w 12) (bf 6 w 6) (bf 3 w 3) (bf 2 e 17) (bf 16 e 0)) else if zfe w 0 3 1 && zfe w 16 2 0 && zfe w 23 1 0 && zfe e 0 19 0 then some (.rmergeSw (bf 5 w 18) (bf 4 w 12) (bf 6 w 6) (bf 3 w 3)) else none
  | 0x0e => if zfe w 0 3 0 && zfe w 17 1 0 && zfe w 23 1 0 && zfe e 16 1 0 then some (.cntx (bf 5 w 18) (bf 5 w 12) (bf 6 w 6) (bf 3 w 3) (bf 2 e 17) (bf 16 e 0)) else none
  | 0x0f => if zfe w 0 3 0 && zfe w 17 1 0 && zfe w 23 1 0 && zfe e 16 1 0 then some (.disp (bf 5 w 18) (bf 5 w 12) (bf 6 w 6) (bf 3 w 3) (bf 2 e 17) (bf 16 e 0)) else none
  | 0x10 => if zfe w 0 6 0 && zfe w 12 4 0 && zfe e 0 19 0 then some (.post (bf 8 w 16) (bf 6 w 6)) else none
  | 0x11 => if zfe w 0 2 0 && zfe w 2 10 0 && zfe e 0 19 0 then some (.xcanCancel (bf 6 w 18) (bf 6 w 12)) else if zfe w 0 2 1 && zfe w 2 10 0 && zfe e 0 19 0 then some (.xcanReplay (bf 6 w 18) (bf 6 w 12)) else if zfe w 0 2 2 && zfe w 2 16 0 && zfe e 0 19 0 then some (.xcanAll (bf 6 w 18)) else none
  | 0x12 => if zfe w 0 2 0 && zfe w 2 10 0 && zfe e 0 19 0 then some (.xstatId (bf 6 w 18) (bf 6 w 12)) else if zfe w 0 2 1 && zfe w 2 10 0 && zfe e 0 19 0 then some (.xstatLast (bf 6 w 18) (bf 6 w 12)) else none
  | _ => none

/-- The operand fields of a slot word of the given space. -/
def parseSpace (sp : Space) (x : Bool) (w e : Nat) : Option Instr :=
  match sp with
  | .alu => parseAlu x w e (w / 16777216 % 128)
  | .ctl => parseCtl x w e (w / 16777216 % 128)
  | .mat => parseMat x w e (w / 16777216 % 128)
  | .vec => parseVec x w e (w / 16777216 % 128)
  | .prm => parsePrm x w e (w / 16777216 % 128)
  | .scl => parseScl x w e (w / 16777216 % 128)
  | .xfr => parseXfr x w e (w / 16777216 % 128)

/-- The guard of an extension word (R232). -/
def parseGuard (e : Nat) : Guard := { reg := bf 6 e 26, bit := bf 6 e 20, pol := bb e 19 }

/-- Decode one slot word with its extension word; `e` is 0 when the word has none. The instruction's own encoding rules and
the guard rule are those of R234 and R281. -/
def decodeSlot (sp : Space) (w e : Nat) : Option SlotOp :=
  let x := bb w 31
  match parseSpace sp x w e with
  | none => none
  | some i =>
    let op : SlotOp := { x := x, guard := parseGuard e, instr := i }
    if op.wf then some op else none


/-! ### Bundles -/

/-- The slot's own opcode space (R276). -/
def slotSpace (slot : Nat) : Space :=
  match slot with
  | 0 => .alu | 1 => .alu | 2 => .ctl | 3 => .mat | 4 => .vec | 5 => .prm | 6 => .scl | _ => .xfr

/-- Read the slot words of the present slots in slot order (R232), each with its extension word; the words left over are
returned. None when the words run out. -/
def readSlots (present : Nat) : List Nat → List Nat → Option (List (Nat × Nat × Nat) × List Nat)
  | [], ws => some ([], ws)
  | k :: ks, ws =>
    if bb present (7 - k) then
      match ws with
      | [] => none
      | w :: ws' =>
        if bb w 31 then
          match ws' with
          | [] => none
          | e :: ws'' =>
            match readSlots present ks ws'' with
            | none => none
            | some (l, r) => some ((k, w, e) :: l, r)
        else
          match readSlots present ks ws' with
          | none => none
          | some (l, r) => some ((k, w, 0) :: l, r)
    else readSlots present ks ws

/-- The bundle length in bytes that a header and its slot words give (R232); the words given after the header may be fewer. -/
def bundleBytes (raw : List (Nat × Nat × Nat)) : Nat :=
  4 + (raw.map (fun p => if bb p.2.1 31 then 8 else 4)).sum

/-- Decode the words of one slot each. -/
def decodeOps : List (Nat × Nat × Nat) → Option (List (Nat × SlotOp))
  | [] => some []
  | (k, w, e) :: r =>
    match decodeSlot (slotSpace k) w e, decodeOps r with
    | some op, some l => some ((k, op) :: l)
    | _, _ => none

/-- Decode a header word and the words after it (R231, R232): the bundle and the words left over. None when an encoding rule
of R234 is broken (ILLEGAL-ENCODING) or the words run out. -/
def decodeBundle (ws : List Nat) : Option (Bundle × List Nat) :=
  match ws with
  | [] => none
  | h :: ws =>
    if zfe h 0 4 1 then
      match readSlots (h / 16777216 % 256) [0, 1, 2, 3, 4, 5, 6, 7] ws with
      | none => none
      | some (raw, rest) =>
        match decodeOps raw with
        | none => none
        | some ops =>
          let b : Bundle := { reps := bf 4 h 20, grants := bf 16 h 4, ops := ops, bytes := bundleBytes raw }
          if b.legal then some (b, rest) else none
    else none

/-! ### The encoder -/

/-- The slot space, the opcode, the operand bits [23:0] and the extension bits [18:0] of a slot instruction; none for a step
that is no slot instruction. -/
def Instr.fields : Instr → Option (Space × Nat × Nat × Nat)
  | .nopAlu => some (.alu, 0x00, 0, 0)
  | .add d a b w => some (.alu, 0x01, d.toNat * 262144 + a.toNat * 4096 + b.toNat * 64 + w.toNat, 0)
  | .sub d a b w => some (.alu, 0x02, d.toNat * 262144 + a.toNat * 4096 + b.toNat * 64 + w.toNat, 0)
  | .mul d a b w => some (.alu, 0x04, d.toNat * 262144 + a.toNat * 4096 + b.toNat * 64 + w.toNat, 0)
  | .mulh d a b w => some (.alu, 0x05, d.toNat * 262144 + a.toNat * 4096 + b.toNat * 64 + w.toNat, 0)
  | .mulhu d a b w => some (.alu, 0x06, d.toNat * 262144 + a.toNat * 4096 + b.toNat * 64 + w.toNat, 0)
  | .div d a b w => some (.alu, 0x08, d.toNat * 262144 + a.toNat * 4096 + b.toNat * 64 + w.toNat, 0)
  | .divu d a b w => some (.alu, 0x09, d.toNat * 262144 + a.toNat * 4096 + b.toNat * 64 + w.toNat, 0)
  | .rem d a b w => some (.alu, 0x0a, d.toNat * 262144 + a.toNat * 4096 + b.toNat * 64 + w.toNat, 0)
  | .remu d a b w => some (.alu, 0x0b, d.toNat * 262144 + a.toNat * 4096 + b.toNat * 64 + w.toNat, 0)
  | .shl d a b w => some (.alu, 0x13, d.toNat * 262144 + a.toNat * 4096 + b.toNat * 64 + w.toNat, 0)
  | .shr d a b w => some (.alu, 0x14, d.toNat * 262144 + a.toNat * 4096 + b.toNat * 64 + w.toNat, 0)
  | .sra d a b w => some (.alu, 0x15, d.toNat * 262144 + a.toNat * 4096 + b.toNat * 64 + w.toNat, 0)
  | .ror d a b w => some (.alu, 0x19, d.toNat * 262144 + a.toNat * 4096 + b.toNat * 64 + w.toNat, 0)
  | .min d a b w => some (.alu, 0x1d, d.toNat * 262144 + a.toNat * 4096 + b.toNat * 64 + w.toNat, 0)
  | .max d a b w => some (.alu, 0x1e, d.toNat * 262144 + a.toNat * 4096 + b.toNat * 64 + w.toNat, 0)
  | .minu d a b w => some (.alu, 0x1f, d.toNat * 262144 + a.toNat * 4096 + b.toNat * 64 + w.toNat, 0)
  | .maxu d a b w => some (.alu, 0x20, d.toNat * 262144 + a.toNat * 4096 + b.toNat * 64 + w.toNat, 0)
  | .seq d a b w => some (.alu, 0x21, d.toNat * 262144 + a.toNat * 4096 + b.toNat * 64 + w.toNat, 0)
  | .sne d a b w => some (.alu, 0x22, d.toNat * 262144 + a.toNat * 4096 + b.toNat * 64 + w.toNat, 0)
  | .slt d a b w => some (.alu, 0x23, d.toNat * 262144 + a.toNat * 4096 + b.toNat * 64 + w.toNat, 0)
  | .sltu d a b w => some (.alu, 0x24, d.toNat * 262144 + a.toNat * 4096 + b.toNat * 64 + w.toNat, 0)
  | .and d a b => some (.alu, 0x0c, d.toNat * 262144 + a.toNat * 4096 + b.toNat * 64, 0)
  | .or d a b => some (.alu, 0x0d, d.toNat * 262144 + a.toNat * 4096 + b.toNat * 64, 0)
  | .xor d a b => some (.alu, 0x0e, d.toNat * 262144 + a.toNat * 4096 + b.toNat * 64, 0)
  | .andn d a b => some (.alu, 0x0f, d.toNat * 262144 + a.toNat * 4096 + b.toNat * 64, 0)
  | .bset d a b => some (.alu, 0x2a, d.toNat * 262144 + a.toNat * 4096 + b.toNat * 64, 0)
  | .bclr d a b => some (.alu, 0x2b, d.toNat * 262144 + a.toNat * 4096 + b.toNat * 64, 0)
  | .addi d a imm => some (.alu, 0x03, d.toNat * 262144 + a.toNat * 4096 + imm.toNat % 4096, imm.toNat / 4096)
  | .andi d a imm => some (.alu, 0x10, d.toNat * 262144 + a.toNat * 4096 + imm.toNat % 4096, imm.toNat / 4096)
  | .ori d a imm => some (.alu, 0x11, d.toNat * 262144 + a.toNat * 4096 + imm.toNat % 4096, imm.toNat / 4096)
  | .xori d a imm => some (.alu, 0x12, d.toNat * 262144 + a.toNat * 4096 + imm.toNat % 4096, imm.toNat / 4096)
  | .slti d a imm => some (.alu, 0x25, d.toNat * 262144 + a.toNat * 4096 + imm.toNat % 4096, imm.toNat / 4096)
  | .shli d a n w => some (.alu, 0x16, d.toNat * 262144 + a.toNat * 4096 + n.toNat + w.toNat * 64, 0)
  | .shri d a n w => some (.alu, 0x17, d.toNat * 262144 + a.toNat * 4096 + n.toNat + w.toNat * 64, 0)
  | .srai d a n w => some (.alu, 0x18, d.toNat * 262144 + a.toNat * 4096 + n.toNat + w.toNat * 64, 0)
  | .clz d a w => some (.alu, 0x1a, d.toNat * 262144 + a.toNat * 4096 + w.toNat, 0)
  | .ctz d a w => some (.alu, 0x1b, d.toNat * 262144 + a.toNat * 4096 + w.toNat, 0)
  | .popc d a w => some (.alu, 0x1c, d.toNat * 262144 + a.toNat * 4096 + w.toNat, 0)
  | .madd d a b c => some (.alu, 0x07, d.toNat * 262144 + a.toNat * 4096 + b.toNat * 64 + c.toNat, 0)
  | .sel d a b c => some (.alu, 0x26, d.toNat * 262144 + a.toNat * 4096 + b.toNat * 64 + c.toNat, 0)
  | .ext d a pos lenM1 => some (.alu, 0x27, d.toNat * 262144 + a.toNat * 4096 + pos.toNat * 64 + lenM1.toNat, 0)
  | .extu d a pos lenM1 => some (.alu, 0x28, d.toNat * 262144 + a.toNat * 4096 + pos.toNat * 64 + lenM1.toNat, 0)
  | .ins d a pos lenM1 => some (.alu, 0x29, d.toNat * 262144 + a.toNat * 4096 + pos.toNat * 64 + lenM1.toNat, 0)
  | .movi d imm => some (.alu, 0x2c, d.toNat * 262144 + imm.toNat % 262144, imm.toNat / 262144)
  | .movk d k imm => some (.alu, 0x2d, d.toNat * 262144 + k.toNat * 65536 + imm.toNat, 0)
  | .lea d a b n => some (.alu, 0x2e, d.toNat * 262144 + a.toNat * 4096 + b.toNat * 64 + n.toNat, 0)
  | .fadd d a b fmt rc => some (.alu, 0x30, d.toNat * 262144 + a.toNat * 4096 + b.toNat * 64 + fmt.toNat * 16 + rc.toNat * 2, 0)
  | .fsub d a b fmt rc => some (.alu, 0x31, d.toNat * 262144 + a.toNat * 4096 + b.toNat * 64 + fmt.toNat * 16 + rc.toNat * 2, 0)
  | .fmul d a b fmt rc => some (.alu, 0x32, d.toNat * 262144 + a.toNat * 4096 + b.toNat * 64 + fmt.toNat * 16 + rc.toNat * 2, 0)
  | .ffma d a b fmt rc => some (.alu, 0x33, d.toNat * 262144 + a.toNat * 4096 + b.toNat * 64 + fmt.toNat * 16 + rc.toNat * 2, 0)
  | .fmin d a b fmt => some (.alu, 0x34, d.toNat * 262144 + a.toNat * 4096 + b.toNat * 64 + fmt.toNat * 16, 0)
  | .fmax d a b fmt => some (.alu, 0x35, d.toNat * 262144 + a.toNat * 4096 + b.toNat * 64 + fmt.toNat * 16, 0)
  | .feq d a b fmt => some (.alu, 0x36, d.toNat * 262144 + a.toNat * 4096 + b.toNat * 64 + fmt.toNat * 16, 0)
  | .flt d a b fmt => some (.alu, 0x37, d.toNat * 262144 + a.toNat * 4096 + b.toNat * 64 + fmt.toNat * 16, 0)
  | .fle d a b fmt => some (.alu, 0x38, d.toNat * 262144 + a.toNat * 4096 + b.toNat * 64 + fmt.toNat * 16, 0)
  | .fcvt d a dst fmt rc => some (.alu, 0x39, d.toNat * 262144 + a.toNat * 4096 + dst.toNat * 64 + fmt.toNat * 16 + rc.toNat * 2, 0)
  | .ftoi d a u w fmt rc => some (.alu, 0x3a, d.toNat * 262144 + a.toNat * 4096 + u.toNat * 64 + w.toNat * 128 + fmt.toNat * 16 + rc.toNat * 2, 0)
  | .itof d a u w fmt rc => some (.alu, 0x3b, d.toNat * 262144 + a.toNat * 4096 + u.toNat * 64 + w.toNat * 128 + fmt.toNat * 16 + rc.toNat * 2, 0)
  | .fsgn d a b fmt op => some (.alu, 0x3c, d.toNat * 262144 + a.toNat * 4096 + b.toNat * 64 + fmt.toNat * 16 + op.toNat * 2, 0)
  | .fclass d a fmt => some (.alu, 0x3d, d.toNat * 262144 + a.toNat * 4096 + fmt.toNat * 16, 0)
  | .ld d a size u off => some (.alu, 0x40, d.toNat * 262144 + a.toNat * 4096 + size.toNat * 1024 + u.toNat * 512 + off.toNat % 512, off.toNat / 512)
  | .st b a size off => some (.alu, 0x41, b.toNat * 262144 + a.toNat * 4096 + size.toNat * 1024 + off.toNat % 512, off.toNat / 512)
  | .ldx d a b size u n => some (.alu, 0x42, d.toNat * 262144 + a.toNat * 4096 + b.toNat * 64 + size.toNat * 16 + u.toNat * 8 + n.toNat, 0)
  | .stx c a b size n => some (.alu, 0x43, c.toNat * 262144 + a.toNat * 4096 + b.toNat * 64 + size.toNat * 16 + n.toNat, 0)
  | .amoadd d a b sc dw => some (.alu, 0x48, d.toNat * 262144 + a.toNat * 4096 + b.toNat * 64 + sc.toNat * 8 + dw.toNat * 4, 0)
  | .amoand d a b sc dw => some (.alu, 0x4b, d.toNat * 262144 + a.toNat * 4096 + b.toNat * 64 + sc.toNat * 8 + dw.toNat * 4, 0)
  | .amoor d a b sc dw => some (.alu, 0x4c, d.toNat * 262144 + a.toNat * 4096 + b.toNat * 64 + sc.toNat * 8 + dw.toNat * 4, 0)
  | .amoxor d a b sc dw => some (.alu, 0x4d, d.toNat * 262144 + a.toNat * 4096 + b.toNat * 64 + sc.toNat * 8 + dw.toNat * 4, 0)
  | .amoswap d a b sc dw => some (.alu, 0x4e, d.toNat * 262144 + a.toNat * 4096 + b.toNat * 64 + sc.toNat * 8 + dw.toNat * 4, 0)
  | .amocas d a b sc dw => some (.alu, 0x4f, d.toNat * 262144 + a.toNat * 4096 + b.toNat * 64 + sc.toNat * 8 + dw.toNat * 4, 0)
  | .amomin d a b sc dw u => some (.alu, 0x49, d.toNat * 262144 + a.toNat * 4096 + b.toNat * 64 + sc.toNat * 8 + dw.toNat * 4 + u.toNat * 2, 0)
  | .amomax d a b sc dw u => some (.alu, 0x4a, d.toNat * 262144 + a.toNat * 4096 + b.toNat * 64 + sc.toNat * 8 + dw.toNat * 4 + u.toNat * 2, 0)
  | .amofmax d a b sc => some (.alu, 0x50, d.toNat * 262144 + a.toNat * 4096 + b.toNat * 64 + sc.toNat * 8, 0)
  | .amofadd d a b sc => some (.alu, 0x51, d.toNat * 262144 + a.toNat * 4096 + b.toNat * 64 + sc.toNat * 8, 0)
  | .hset hd a f => some (.alu, 0x58, hd.toNat * 262144 + a.toNat * 4096 + f.toNat, 0)
  | .hget d ha f => some (.alu, 0x59, d.toNat * 262144 + ha.toNat * 4096 + f.toNat, 0)
  | .hadv hd ha b => some (.alu, 0x5a, hd.toNat * 262144 + ha.toNat * 4096 + b.toNat * 64, 0)
  | .hdim hd a b k => some (.alu, 0x5b, hd.toNat * 262144 + a.toNat * 4096 + b.toNat * 64 + k.toNat, 0)
  | .nopCtl => some (.ctl, 0x00, 0, 0)
  | .br cond a b off => some (.ctl, 0x01, cond.toNat * 2097152 + a.toNat * 32768 + b.toNat * 512 + off.toNat % 512, off.toNat / 512)
  | .jmp off => some (.ctl, 0x02, off.toNat % 16777216, off.toNat / 16777216)
  | .jr a => some (.ctl, 0x03, a.toNat * 4096, 0)
  | .call off => some (.ctl, 0x04, off.toNat % 16777216, off.toNat / 16777216)
  | .callr a => some (.ctl, 0x05, a.toNat * 4096, 0)
  | .ret => some (.ctl, 0x06, 0, 0)
  | .loop a sreg nM1 endOff => some (.ctl, 0x07, a.toNat * 262144 + sreg.toNat * 4096 + nM1.toNat * 512 + endOff.toNat % 512, endOff.toNat / 512)
  | .loopi cnt endOff => some (.ctl, 0x08, cnt.toNat * 256 + endOff.toNat % 256, endOff.toNat / 256)
  | .lbrk kM1 => some (.ctl, 0x09, kM1.toNat, 0)
  | .waitc nl ns nx nm => some (.ctl, 0x0a, nl.toNat * 4096 + ns.toNat * 256 + nx.toNat * 16 + nm.toNat, 0)
  | .waitb n => some (.ctl, 0x0b, n.toNat, 0)
  | .phase sc m p => some (.ctl, 0x0c, sc.toNat * 2097152 + m.toNat * 32768 + p.toNat * 512, 0)
  | .fence sc => some (.ctl, 0x0d, sc.toNat * 2097152, 0)
  | .bar n v => some (.ctl, 0x0e, n.toNat * 65536 + v.toNat * 1024, 0)
  | .arm n c nv node => some (.ctl, 0x0f, n.toNat * 65536 + c.toNat * 1024, nv.toNat * 65536 + node.toNat)
  | .bwait n => some (.ctl, 0x10, n.toNat * 65536, 0)
  | .bwaitTry n d => some (.ctl, 0x10, n.toNat * 65536 + d.toNat * 1024 + 512, 0)
  | .spawn d t g => some (.ctl, 0x11, d.toNat * 262144 + t.toNat * 4096 + g.toNat * 64, 0)
  | .grow d k => some (.ctl, 0x12, d.toNat * 262144 + k.toNat * 4096, 0)
  | .close d g => some (.ctl, 0x13, d.toNat * 262144 + g.toNat * 4096, 0)
  | .enq d q v => some (.ctl, 0x14, d.toNat * 262144 + q.toNat * 4096 + v.toNat * 64, 0)
  | .deq d q e => some (.ctl, 0x15, d.toNat * 262144 + q.toNat * 4096 + e.toNat * 64, 0)
  | .done => some (.ctl, 0x16, 0, 0)
  | .trap code => some (.ctl, 0x17, code.toNat, 0)
  | .sys code => some (.ctl, 0x18, code.toNat, 0)
  | .eret => some (.ctl, 0x19, 0, 0)
  | .crr d num => some (.ctl, 0x1a, d.toNat * 262144 + num.toNat, 0)
  | .crw a num => some (.ctl, 0x1b, a.toNat * 4096 + num.toNat, 0)
  | .fqpop a => some (.ctl, 0x1b, a.toNat * 4096 + 141, 0)
  | .bkpt code => some (.ctl, 0x1c, code.toNat, 0)
  | .setstep slot k a => some (.ctl, 0x1d, slot.toNat * 4194304 + k.toNat * 1048576 + a.toNat * 4096, 0)
  | .yield => some (.ctl, 0x1e, 0, 0)
  | .tlbiPage a b => some (.ctl, 0x1f, a.toNat * 32768 + b.toNat * 512, 0)
  | .tlbiAsn a b => some (.ctl, 0x1f, 2097152 + a.toNat * 32768 + b.toNat * 512, 0)
  | .tlbiWorld => some (.ctl, 0x1f, 4194304, 0)
  | .tlbiWindow a => some (.ctl, 0x1f, 6291456 + a.toNat * 32768, 0)
  | .tlbiWindows => some (.ctl, 0x1f, 8388608, 0)
  | .tlbiHost a b => some (.ctl, 0x1f, 10485760 + a.toNat * 32768 + b.toNat * 512, 0)
  | .halt => some (.ctl, 0x20, 0, 0)
  | .nopMat => some (.mat, 0x00, 0, 0)
  | .mma t ha hb fp ka kb row0 col0 => some (.mat, 0x01, t.toNat * 1048576 + ha.toNat * 16384 + hb.toNat * 256 + fp.toNat * 16 + ka.toNat * 8 + kb.toNat * 4, row0.toNat * 128 + col0.toNat)
  | .mmax t ha hb fp ka kb row0 col0 => some (.mat, 0x02, t.toNat * 1048576 + ha.toNat * 16384 + hb.toNat * 256 + fp.toNat * 16 + ka.toNat * 8 + kb.toNat * 4, row0.toNat * 128 + col0.toNat)
  | .mmaq t ha hb z ka kb row0 col0 => some (.mat, 0x03, t.toNat * 1048576 + ha.toNat * 16384 + hb.toNat * 256 + z.toNat * 4 + ka.toNat * 2 + kb.toNat, row0.toNat * 128 + col0.toNat)
  | .mzero mask => some (.mat, 0x04, mask.toNat * 256, 0)
  | .mcommit => some (.mat, 0x05, 0, 0)
  | .mrank t k dir => some (.mat, 0x06, t.toNat * 1048576 + k.toNat * 16384 + dir.toNat * 8192, 0)
  | .mkat q sum => some (.mat, 0x07, q.toNat * 65536 + sum.toNat, 0)
  | .mpop b n => some (.mat, 0x08, b.toNat * 262144 + n.toNat * 1024, 0)
  | .maddt t u i => some (.mat, 0x09, t.toNat * 1048576 + u.toNat * 65536 + i.toNat * 32768, 0)
  | .mcopy t u => some (.mat, 0x0a, t.toNat * 1048576 + u.toNat * 65536, 0)
  | .mthr d t first cntM1 => some (.mat, 0x0b, d.toNat * 262144 + t.toNat * 16384 + first.toNat * 128 + cntM1.toNat, 0)
  | .nopVec => some (.vec, 0x00, 0, 0)
  | .vadd hd ha b rc bs => some (.vec, 0x01, hd.toNat * 262144 + ha.toNat * 4096 + b.toNat * 64 + rc.toNat * 8 + bs.toNat * 4, 0)
  | .vsub hd ha b rc bs => some (.vec, 0x02, hd.toNat * 262144 + ha.toNat * 4096 + b.toNat * 64 + rc.toNat * 8 + bs.toNat * 4, 0)
  | .vmul hd ha b rc bs => some (.vec, 0x03, hd.toNat * 262144 + ha.toNat * 4096 + b.toNat * 64 + rc.toNat * 8 + bs.toNat * 4, 0)
  | .vfma hd ha b rc bs => some (.vec, 0x04, hd.toNat * 262144 + ha.toNat * 4096 + b.toNat * 64 + rc.toNat * 8 + bs.toNat * 4, 0)
  | .vmin hd ha b rc bs => some (.vec, 0x05, hd.toNat * 262144 + ha.toNat * 4096 + b.toNat * 64 + rc.toNat * 8 + bs.toNat * 4, 0)
  | .vmax hd ha b rc bs => some (.vec, 0x06, hd.toNat * 262144 + ha.toNat * 4096 + b.toNat * 64 + rc.toNat * 8 + bs.toNat * 4, 0)
  | .vabs hd ha rc => some (.vec, 0x07, hd.toNat * 262144 + ha.toNat * 4096 + rc.toNat * 8, 0)
  | .vneg hd ha rc => some (.vec, 0x08, hd.toNat * 262144 + ha.toNat * 4096 + rc.toNat * 8, 0)
  | .vrcp hd ha rc => some (.vec, 0x09, hd.toNat * 262144 + ha.toNat * 4096 + rc.toNat * 8, 0)
  | .vrsq hd ha rc => some (.vec, 0x0a, hd.toNat * 262144 + ha.toNat * 4096 + rc.toNat * 8, 0)
  | .vlog2 hd ha rc => some (.vec, 0x0c, hd.toNat * 262144 + ha.toNat * 4096 + rc.toNat * 8, 0)
  | .vexp hd ha rc base2 => some (.vec, 0x0b, hd.toNat * 262144 + ha.toNat * 4096 + rc.toNat * 8 + base2.toNat, 0)
  | .vtblLoad ha t => some (.vec, 0x0d, ha.toNat * 4096 + t.toNat * 64 + 1, 0)
  | .vtbl hd ha t rc => some (.vec, 0x0d, hd.toNat * 262144 + ha.toNat * 4096 + t.toNat * 64 + rc.toNat * 8, 0)
  | .vcmp hd ha hb cond => some (.vec, 0x0e, hd.toNat * 262144 + ha.toNat * 4096 + hb.toNat * 64 + cond.toNat * 8, 0)
  | .vsel hd ha hb rc hm => some (.vec, 0x0f, hd.toNat * 262144 + ha.toNat * 4096 + hb.toNat * 64 + rc.toNat * 8, hm.toNat)
  | .vcvt hd ha rc sat => some (.vec, 0x10, hd.toNat * 262144 + ha.toNat * 4096 + rc.toNat * 8 + sat.toNat, 0)
  | .vred hd ha rc op => some (.vec, 0x11, hd.toNat * 262144 + ha.toNat * 4096 + rc.toNat * 8 + op.toNat, 0)
  | .vamax hd ha => some (.vec, 0x19, hd.toNat * 262144 + ha.toNat * 4096, 0)
  | .vscan hd ha rc ex => some (.vec, 0x12, hd.toNat * 262144 + ha.toNat * 4096 + rc.toNat * 8 + ex.toNat, 0)
  | .vpush hd ha hb sc => some (.vec, 0x13, hd.toNat * 262144 + ha.toNat * 4096 + hb.toNat * 64 + sc.toNat * 8, 0)
  | .vpop hd ha hb sc => some (.vec, 0x14, hd.toNat * 262144 + ha.toNat * 4096 + hb.toNat * 64 + sc.toNat * 8, 0)
  | .vhist hd ha clr => some (.vec, 0x15, hd.toNat * 262144 + ha.toNat * 4096 + clr.toNat, 0)
  | .viota hd b rc => some (.vec, 0x16, hd.toNat * 262144 + b.toNat * 64 + rc.toNat * 8 + 4, 0)
  | .vmov hd ha => some (.vec, 0x17, hd.toNat * 262144 + ha.toNat * 4096, 0)
  | .vmovScalar hd b => some (.vec, 0x17, hd.toNat * 262144 + b.toNat * 64 + 4, 0)
  | .vshuf hd ha hb => some (.vec, 0x18, hd.toNat * 262144 + ha.toNat * 4096 + hb.toNat * 64, 0)
  | .nopPrm => some (.prm, 0x00, 0, 0)
  | .ppack hd ha rc sat => some (.prm, 0x01, hd.toNat * 262144 + ha.toNat * 4096 + rc.toNat * 8 + sat.toNat * 4, 0)
  | .punpk hd ha => some (.prm, 0x02, hd.toNat * 262144 + ha.toNat * 4096, 0)
  | .pscale hd ha s rc => some (.prm, 0x03, hd.toNat * 262144 + ha.toNat * 4096 + s.toNat * 64 + rc.toNat * 8, 0)
  | .pqnt hd ha s rc sat => some (.prm, 0x04, hd.toNat * 262144 + ha.toNat * 4096 + s.toNat * 64 + rc.toNat * 8 + sat.toNat * 4, 0)
  | .pdq hd ha rc => some (.prm, 0x05, hd.toNat * 262144 + ha.toNat * 4096 + rc.toNat * 8, 0)
  | .ptrn hd ha w32 => some (.prm, 0x06, hd.toNat * 262144 + ha.toNat * 4096 + w32.toNat, 0)
  | .pbcast hd ha => some (.prm, 0x07, hd.toNat * 262144 + ha.toNat * 4096, 0)
  | .pperm hd ha s => some (.prm, 0x08, hd.toNat * 262144 + ha.toNat * 4096 + s.toNat * 64, 0)
  | .nopScl => some (.scl, 0x00, 0, 0)
  | .sldt a => some (.scl, 0x01, a.toNat * 4096, 0)
  | .sldb a => some (.scl, 0x02, a.toNat * 4096, 0)
  | .sseti t byte => some (.scl, 0x03, t.toNat * 1048576 + byte.toNat * 4096, 0)
  | .smode m => some (.scl, 0x04, m.toNat, 0)
  | .nopXfr => some (.xfr, 0x00, 0, 0)
  | .cpy hd ha c sc ct tgt => some (.xfr, 0x01, hd.toNat * 262144 + ha.toNat * 4096 + c.toNat * 64 + sc.toNat * 8, ct.toNat * 131072 + tgt.toNat)
  | .cpym hd ha c sc ct tgt => some (.xfr, 0x02, hd.toNat * 262144 + ha.toNat * 4096 + c.toNat * 64 + sc.toNat * 8, ct.toNat * 131072 + tgt.toNat)
  | .cpys hd ha c sc ct tgt => some (.xfr, 0x03, hd.toNat * 262144 + ha.toNat * 4096 + c.toNat * 64 + sc.toNat * 8, ct.toNat * 131072 + tgt.toNat)
  | .gath hd ha c sc ct tgt => some (.xfr, 0x04, hd.toNat * 262144 + ha.toNat * 4096 + c.toNat * 64 + sc.toNat * 8, ct.toNat * 131072 + tgt.toNat)
  | .scat hd ha c sc ct tgt => some (.xfr, 0x05, hd.toNat * 262144 + ha.toNat * 4096 + c.toNat * 64 + sc.toNat * 8, ct.toNat * 131072 + tgt.toNat)
  | .drain hd t c sc ct tgt => some (.xfr, 0x06, hd.toNat * 262144 + t.toNat * 4096 + c.toNat * 64 + sc.toNat * 8, ct.toNat * 131072 + tgt.toNat)
  | .drainkSel hd t c sc ct tgt => some (.xfr, 0x07, hd.toNat * 262144 + t.toNat * 4096 + c.toNat * 64 + sc.toNat * 8, ct.toNat * 131072 + tgt.toNat)
  | .drainkMerge u t c sc => some (.xfr, 0x07, u.toNat * 262144 + t.toNat * 4096 + c.toNat * 64 + sc.toNat * 8 + 1, 0)
  | .rst hd ha c sc ct tgt => some (.xfr, 0x08, hd.toNat * 262144 + ha.toNat * 4096 + c.toNat * 64 + sc.toNat * 8, ct.toNat * 131072 + tgt.toNat)
  | .rld hd ha c sc ct tgt => some (.xfr, 0x09, hd.toNat * 262144 + ha.toNat * 4096 + c.toNat * 64 + sc.toNat * 8, ct.toNat * 131072 + tgt.toNat)
  | .ramo hd ha c sc ct tgt => some (.xfr, 0x0a, hd.toNat * 262144 + ha.toNat * 4096 + c.toNat * 64 + sc.toNat * 8, ct.toNat * 131072 + tgt.toNat)
  | .rred hd ha c sc ct tgt => some (.xfr, 0x0b, hd.toNat * 262144 + ha.toNat * 4096 + c.toNat * 64 + sc.toNat * 8, ct.toNat * 131072 + tgt.toNat)
  | .rmcast hd ha c sc ct tgt => some (.xfr, 0x0c, hd.toNat * 262144 + ha.toNat * 4096 + c.toNat * 64 + sc.toNat * 8, ct.toNat * 131072 + tgt.toNat)
  | .rmergeCx hd t c sc ct tgt => some (.xfr, 0x0d, hd.toNat * 262144 + t.toNat * 4096 + c.toNat * 64 + sc.toNat * 8, ct.toNat * 131072 + tgt.toNat)
  | .rmergeSw hd t c sc => some (.xfr, 0x0d, hd.toNat * 262144 + t.toNat * 4096 + c.toNat * 64 + sc.toNat * 8 + 1, 0)
  | .cntx hd ha c sc ct tgt => some (.xfr, 0x0e, hd.toNat * 262144 + ha.toNat * 4096 + c.toNat * 64 + sc.toNat * 8, ct.toNat * 131072 + tgt.toNat)
  | .disp hd ha c sc ct tgt => some (.xfr, 0x0f, hd.toNat * 262144 + ha.toNat * 4096 + c.toNat * 64 + sc.toNat * 8, ct.toNat * 131072 + tgt.toNat)
  | .post n a => some (.xfr, 0x10, n.toNat * 65536 + a.toNat * 64, 0)
  | .xcanCancel d a => some (.xfr, 0x11, d.toNat * 262144 + a.toNat * 4096, 0)
  | .xcanReplay d a => some (.xfr, 0x11, d.toNat * 262144 + a.toNat * 4096 + 1, 0)
  | .xcanAll d => some (.xfr, 0x11, d.toNat * 262144 + 2, 0)
  | .xstatId d a => some (.xfr, 0x12, d.toNat * 262144 + a.toNat * 4096, 0)
  | .xstatLast d a => some (.xfr, 0x12, d.toNat * 262144 + a.toNat * 4096 + 1, 0)
  | .powerUp => none
  | .geckoMismatch => none
  | .bundleIssue => none
  | .engineFault => none
  | .loadReturn => none
  | .atomicComplete => none
  | .phaseReleaseDone => none
  | .fenceSatisfied => none
  | .taskFinish => none
  | .invalidationComplete => none
  | .matrixRetire => none
  | .vecComplete => none
  | .prmWrite => none
  | .scaleWrite => none
  | .commandStart => none
  | .ringClaim _ _ => none
  | .ringSlotLanded _ _ _ => none
  | .commandFault _ _ => none
  | .commandComplete _ _ => none
  | .bankDrowsy _ _ => none
  | .bankWake _ _ => none
  | .quadrantGate _ _ => none
  | .quadrantClear _ _ => none
  | .walkStart => none
  | .walkComplete => none
  | .atsCompletion _ _ _ _ _ _ _ => none
  | .atsInvalidate _ _ _ => none
  | .releaseAccepted => none
  | .releaseComplete => none
  | .remoteRequestSend => none
  | .remoteRetryTimeout _ _ => none
  | .lifetimeExpiry => none
  | .remoteCompletionReceive _ _ => none
  | .remoteRequestReceive _ _ => none
  | .remotePerform _ _ => none
  | .destTimeout _ _ => none
  | .rankEntryWrite _ _ _ _ => none
  | .connopen _ _ _ => none
  | .connack _ _ => none
  | .connnak _ _ => none
  | .connclose _ _ => none
  | .connopenTimeout _ _ => none
  | .connIdleClose => none
  | .contextFetch => none
  | .flitReceive _ _ => none
  | .ackFlit _ _ => none
  | .ackSendTimer => none
  | .replayTimeout => none
  | .linkUnackTimeout => none
  | .retrain => none
  | .laneTrained _ _ => none
  | .linkcap _ _ => none
  | .linkcapTimeout => none
  | .portTrainTimeout => none
  | .contributionReceive _ _ => none
  | .contributionApply => none
  | .reductionTimeout => none
  | .combineDone => none
  | .resultWriteDone => none
  | .parentNotice _ _ => none
  | .noticeAcked => none
  | .forwardNoticeTimeout => none
  | .tombExpire => none
  | .noticeReceive _ _ => none
  | .contributionTimeout => none
  | .launch _ _ => none
  | .arbiterChoice => none
  | .taskStart => none
  | .taskFault _ _ _ => none
  | .preemptRequest => none
  | .budgetPeriod => none
  | .nodeDecrement _ _ => none
  | .dieLinkFail => none
  | .switchRequest _ _ => none
  | .quiesceDone => none
  | .saveDone => none
  | .blockSaved => none
  | .divertedAccess => none
  | .diversionFetch => none
  | .resume _ _ => none
  | .blockRestored => none
  | .restoreDone => none
  | .ueAbortReceive _ _ => none
  | .debugHalt => none
  | .debugStepEnd => none
  | .frameCycleBoundary => none
  | .frameSwitchRequest => none
  | .frameEdge _ _ => none
  | .coreClearDone => none
  | .hbmRead _ _ _ => none
  | .scrubRead => none
  | .selftestRun => none
  | .selftestDone => none
  | .entropyFailure => none
  | .entropyReseed _ => none
  | .crDoorbell _ => none
  | .keyex => none
  | .resync => none
  | .rekey => none
  | .attest => none
  | .svnraise => none
  | .createworld => none
  | .destroyworld => none
  | .setrange => none
  | .setframes => none
  | .keyimport => none
  | .jobkey => none
  | .regionCreate => none
  | .regionRefresh => none
  | .regionDestroy => none
  | .inval => none
  | .preempt => none
  | .lqDoorbell _ _ => none
  | .lqctlWrite _ _ => none
  | .midxRead _ => none
  | .midxWrite _ => none
  | .corestatFenceWrite => none
  | .corestatFreqWrite => none
  | .dieenWrite _ _ => none
  | .fwdbaseWrite _ => none
  | .portcfgWrite _ _ => none
  | .registerWrite _ _ => none
  | .msixUnmask => none
  | .powerRemoved => none
  | .linkcapResend => none
  | .hbmRefresh => none
  | .dieLinkRetrain => none
  | .pseudoChannelFail => none

/-- The instruction needs no extension word: its extension fields are zero and its extended immediates are what the slot word
alone gives (R233, R285, R290, R298, R300). -/
def Instr.fitsNoExt : Instr → Bool
  | .addi _ _ imm => imm == sxf 12 31 false imm.toNat 0 0
  | .andi _ _ imm => imm == sxf 12 31 false imm.toNat 0 0
  | .ori _ _ imm => imm == sxf 12 31 false imm.toNat 0 0
  | .xori _ _ imm => imm == sxf 12 31 false imm.toNat 0 0
  | .slti _ _ imm => imm == sxf 12 31 false imm.toNat 0 0
  | .movi _ imm => imm == sxf 18 37 false imm.toNat 0 0
  | .ld _ _ _ _ off => off == sxf 9 28 false off.toNat 0 0
  | .st _ _ _ off => off == sxf 9 28 false off.toNat 0 0
  | .br _ _ _ off => off == sxf 9 28 false off.toNat 0 0
  | .jmp off => off == sxf 24 43 false off.toNat 0 0
  | .call off => off == sxf 24 43 false off.toNat 0 0
  | .loop _ _ _ endOff => endOff == uxf 9 28 false endOff.toNat 0 0
  | .loopi _ endOff => endOff == uxf 8 27 false endOff.toNat 0 0
  | .arm _ _ nv node => !nv && node == 0
  | .mma _ _ _ _ _ _ row0 col0 => row0 == 0 && col0 == 0
  | .mmax _ _ _ _ _ _ row0 col0 => row0 == 0 && col0 == 0
  | .mmaq _ _ _ _ _ _ row0 col0 => row0 == 0 && col0 == 0
  | .vsel _ _ _ _ hm => hm == 0
  | .cpy _ _ _ _ ct tgt => ct == 0 && tgt == 0
  | .cpym _ _ _ _ ct tgt => ct == 0 && tgt == 0
  | .cpys _ _ _ _ ct tgt => ct == 0 && tgt == 0
  | .gath _ _ _ _ ct tgt => ct == 0 && tgt == 0
  | .scat _ _ _ _ ct tgt => ct == 0 && tgt == 0
  | .drain _ _ _ _ ct tgt => ct == 0 && tgt == 0
  | .drainkSel _ _ _ _ ct tgt => ct == 0 && tgt == 0
  | .rst _ _ _ _ ct tgt => ct == 0 && tgt == 0
  | .rld _ _ _ _ ct tgt => ct == 0 && tgt == 0
  | .ramo _ _ _ _ ct tgt => ct == 0 && tgt == 0
  | .rred _ _ _ _ ct tgt => ct == 0 && tgt == 0
  | .rmcast _ _ _ _ ct tgt => ct == 0 && tgt == 0
  | .rmergeCx _ _ _ _ ct tgt => ct == 0 && tgt == 0
  | .cntx _ _ _ _ ct tgt => ct == 0 && tgt == 0
  | .disp _ _ _ _ ct tgt => ct == 0 && tgt == 0
  | _ => true

/-- The slot word and the extension word of a slot instruction (R232). -/
def SlotOp.words (op : SlotOp) : List Nat :=
  match op.instr.fields with
  | none => []
  | some (_, code, w, e) =>
    if op.x then
      [2147483648 + code * 16777216 + w,
        op.guard.reg.toNat * 67108864 + op.guard.bit.toNat * 1048576 + op.guard.pol.toNat * 524288 + e]
    else [code * 16777216 + w]

/-- The header of a bundle (R231). -/
def Bundle.header (b : Bundle) : Nat :=
  (b.ops.map (fun p => 2 ^ (7 - p.1))).sum * 16777216 + b.reps.toNat * 1048576 + b.grants.toNat * 16 + 1

/-- The words of a bundle, header first, slot words in slot order (R231, R232). -/
def Bundle.words (b : Bundle) : List Nat := b.header :: b.ops.flatMap (fun p => p.2.words)

/-- The words of a well-formed slot instruction in its own space; none for a step that is no slot instruction. -/
def encode (op : SlotOp) : Option (Space × List Nat) :=
  match op.instr.fields with
  | none => none
  | some (sp, _, _, _) => some (sp, op.words)

/-- The grants that give each slot exactly its sources (R265). -/
def exactGrants (ops : List (Nat × SlotOp)) : BitVec 16 :=
  BitVec.ofNat 16 (ops.map (fun p => p.2.instr.sources.length * 4 ^ (7 - p.1))).sum

/-- A bundle of the given slot instructions, issued once, with exact grants. -/
def bundleOf (ops : List (Nat × SlotOp)) : Bundle :=
  { reps := 0, grants := exactGrants ops, ops := ops, bytes := 4 + (ops.map (fun p => if p.2.x then 8 else 4)).sum }

/-- The 32-bit words of a number of `nbits` bits, lowest first, and then zeros for the words of the longest bundle (R232). -/
def wordsOfNumber (nbits w : Nat) : List Nat :=
  (List.range (nbits / 32 + 17)).map (fun k => w / 2 ^ (32 * k) % 4294967296)

/-- The instruction the decoder reads from a bundle whose bits are `w`: that of its first present slot; a header-only bundle
(R232) holds none. -/
def decodeTableWord (nbits w : Nat) : Option Instr :=
  match decodeBundle (wordsOfNumber nbits w) with
  | some (b, _) => b.ops.head?.map (fun p => p.2.instr)
  | none => none

end Sys2Proof
end

