-- ==== Sys2Proof/Config.lean ====
section
/-! DEFINITION. What one implementation, one board or one run fixes and the manual leaves open: opaque constants, so that no
proof rests on a value of theirs. A value that must differ from one use to the next takes the counter State.tick. -/

namespace Sys2Proof.Config

/-! ### Order and time (notes/assumptions/2) -/

/-- Which of several steps that are due comes next, the number of choices given: the orders and latencies the manual leaves free (R42,
R87, R96, R248). DESIGN CHOICE. -/
opaque schedule : Nat → Nat → Nat
/-- Which outbound port of a mask a sender or relay takes (R124, R462). DESIGN CHOICE. -/
opaque portChoice : Nat → Nat → Nat
/-- The 16-byte units a relay finds after a transaction beyond those its header tells, by dwords 0 and 2 of that header (R462, R421). -/
opaque relayUnits : DWord → DWord → Nat
/-- How many cycles the power manager takes before a bank becomes DROWSY beyond 1,024 (R43). DESIGN CHOICE. -/
opaque drowsyDelay : Nat → Nat

/-! ### Values the manual leaves open -/

/-- Whether a byte of a permute result read in the two cycles after its issue is the new one (R342). DESIGN CHOICE. -/
opaque permuteEarly : Nat → Nat → Bool
/-- The data a decoder returns when it miscorrects beyond the code's distance, or none when it finds the codeword
uncorrectable (R426). DESIGN CHOICE. -/
opaque miscorrect : Nat → Line → Option Line
/-- What a line enciphered under one key reads as under another key (R416). DESIGN CHOICE. -/
opaque otherKey : Nat → Nat → Nat → Line → Line
/-- A value the manual does not state, for any use that no constant above has; at present there is none. DESIGN CHOICE. -/
opaque freeValue : Nat → DWord
/-- The byte at an offset of a saved context image, in a section whose inner layout the manual does not give, as the n-th such write leaves it (R395;
notes/assumptions/5). -/
opaque imageByte : Nat → Nat → Byte
/-! ### The HBM layout and its training (R76, R426, R448; notes/assumptions/10) -/

/-- The pseudo-channel, 0 to 511, that holds a physical address. -/
opaque pseudoChannel : Nat → Nat
/-- The stack ID of a physical address (R427). -/
opaque stackId : Nat → Nat
/-- The bank of a physical address (R427). -/
opaque hbmBank : Nat → Nat
/-- The row of a physical address (R427). -/
opaque hbmRow : Nat → Nat
/-- The trained read and write delay and the failure of a lane, at the boot of the given number (R448). -/
opaque laneDelay : Nat → Nat → Nat → DWord
/-- The failing lanes of a pseudo-channel at a boot (R448). -/
opaque laneFailures : Nat → Nat → List Nat
/-- Whether step 7 of the training passes (R448). -/
opaque patternPass : Nat → Nat → Bool
/-- The access slots HBM4E refresh needs in 8 µs at the trained rate (R436). -/
opaque refreshFloor : Nat
/-- Whether the die link of a compute die trains at a boot (R446). -/
opaque dieLinkTrains : Nat → Nat → Bool
/-- The µs of link time that a retraining of a die link takes (R435, R436); the manual gives none. -/
opaque dieTrainTime : Nat → Nat
/-- Whether a core computes the known-answer step of q rightly at a boot or self-test (R319, R433). -/
opaque katMatches : Nat → Nat → Nat → Bool
/-- The power estimate of one 8 µs period in W, for the package and for a region (R210, R449). -/
opaque powerEstimate : Nat → Nat → Nat

/-- The width and rate code of the PCI Express link as it trained: DEVIF [27:16] (R439, R441). -/
opaque deviceLink : Nat

/-! ### The board, the part and its secrets (R409 to R425; notes/assumptions/9) -/

/-- The copy A (0) or B (1) of an image kind in the board's flash (R446). -/
opaque flashImage : Nat → Nat → FwImage
/-- The device secret DS (R409). -/
opaque deviceSecret : List Byte
/-- The fused key hashes KH0 to KH3 (R409). -/
opaque keyHash : Nat → List Byte
/-- The package serial number (R414). -/
opaque serial : DWord
/-- SHA-384 (R411). -/
opaque sha384 : List Byte → List Byte
/-- Ed25519 verification of a message under a public key (R412). -/
opaque ed25519Verify : List Byte → List Byte → List Byte → Bool
/-- ML-DSA-65 verification (R412). -/
opaque mldsaVerify : List Byte → List Byte → List Byte → Bool
/-- Ed25519 signature under a seed (R414). -/
opaque ed25519Sign : List Byte → List Byte → List Byte
/-- ML-DSA-65 signature under a seed (R414). -/
opaque mldsaSign : List Byte → List Byte → List Byte
/-- The Ed25519 public key of a seed (R413). -/
opaque ed25519Public : List Byte → List Byte
/-- The ML-DSA-65 public key of a seed (R413). -/
opaque mldsaPublic : List Byte → List Byte
/-- What a certificate says of the two alias public keys; the manual gives it no layout (R413). -/
opaque certificateBody : List Byte → List Byte → List Byte
/-- The 512 bits of the XTS key with a number (R416, R423). -/
opaque xtsKey : Nat → List Byte
/-- HKDF-SHA-384 of a secret and a label (R413, R425). -/
opaque hkdf : List Byte → List Byte → List Byte
/-- HMAC-SHA-384 (R424). -/
opaque hmac : List Byte → List Byte → List Byte
/-- The ML-KEM-768 encapsulation key of a seed (R413, R423). -/
opaque kemKey : List Byte → List Byte
/-- ML-KEM-768 decapsulation under a seed (R423, R425). -/
opaque kemDecaps : List Byte → List Byte → List Byte
/-- SP 800-38F AES-KW unwrapping; none when it fails (R423). -/
opaque keyUnwrap : List Byte → List Byte → Option (List Byte)
/-- Opening with AES-256-GCM: key, IV with any additional data behind it, ciphertext, tag; none when the tag fails (R420, R421). -/
opaque gcmOpen : List Byte → List Byte → List Byte → List Byte → Option (List Byte)
/-- Sealing with AES-256-GCM: key, IV with the additional data behind it, data; the ciphertext with its tag behind it (R421). -/
opaque gcmSeal : List Byte → List Byte → List Byte → List Byte
/-- Whether a reseed of the generator passes the health tests (R422). -/
opaque entropyPass : Nat → Bool
/-- The bytes the DRBG returns to a request (R422). -/
opaque randomBytes : Nat → Nat → List Byte

end Sys2Proof.Config
end

