-- ==== Sys2Proof/Machine/State.lean ====
section
/-! DEFINITION. The state of one Evovia 7200 package as plain data, the ways a step can stop, and the state at power-up.
Registers the manual numbers and software reads whole are bit vectors; the rest has the shape the manual describes. -/

namespace Sys2Proof.Machine

/-- Why a step stops with a fault. -/
inductive Fault where
  /-- Raised by a device-table access (region table, RCB, rings, logs) whose physical address is 2^39 or more, where no HBM
  byte exists (R1, R20). Safe. -/
  | tableOutsideHbm
deriving DecidableEq, Repr

/-- Why a step is refused. -/
inductive Refusal where
  /-- Raised by exec for an instruction without a meaning, with its mnemonic. Safe. -/
  | notModelled (mnemonic : String)
deriving DecidableEq, Repr

/-- A sparse table: (key, value) pairs with strictly rising keys. -/
abbrev Tab (α : Type) := List (Nat × α)

/-! ### The state of a task (R222) -/

/-- The last operations, step registers and loop state that trap entry saves (R244): LAST (slot word in [63:32], extension in
[31:0]) for M, V, P, X = 0 to 3 with the captured scalar (R238); STEP, twelve (R241); `rsteps`, the steps that the issues of the current repeated bundle use (R308); LSTATE, STAGE, LBEG, LEND, lc. -/
structure Sticky where
  last : Tab DWord
  cap : Tab DWord
  steps : Tab Word
  rsteps : Option (Tab Word)
  lstate : DWord
  stage : DWord
  lbeg : Tab DWord
  lend : Tab DWord
  lc : Tab Word
deriving DecidableEq, Repr

/-- The registers of a task (R223, R225, R228, R229, R381). -/
structure Regs where
  s : Tab DWord
  h : Tab Handle
  mb : Tab DWord
  fpctl : DWord
  rngv : DWord
  rngp : DWord
  rngx : DWord
  st : Sticky
  rptc : Nat
  pc : Nat
  tvec : DWord
  tcause : DWord
  tpc : DWord
  taddr : DWord
  tdetail : DWord
  inTrap : Bool
  trptc : Nat
  tscr : Tab DWord
  sv : Sticky
deriving DecidableEq, Repr

/-- Who a task is (R200): region, world, grid slot, index and the identity registers. -/
structure TaskId where
  region : Nat
  world : Nat
  grid : Nat
  index : Nat
  xy : DWord
  z : DWord
  arg : DWord
deriving DecidableEq, Repr

/-- A buffer-table entry (R46); `landed` holds the ring slots whose data have wholly landed (R55). -/
structure BufEnt where
  mode : Nat
  front : Bool
  noprot : Bool
  lenM1 : Nat
  base : Nat
  gshare : Nat
  tile : Nat
  nslot : Nat
  head : Nat
  assigned : Nat
  filled : Nat
  claimed : Nat
  ckhead : Nat
  ckcount : Nat
  held : Nat
  landed : List Nat
deriving DecidableEq, Repr

/-- Where an access lands once translated: HBM, a slice offset, a paired page with the region whose pair table resolves it at
the access (R23), host memory, or a target on another rank (R33). -/
inductive Place where
  | hbm (pa : Nat)
  | slice (core off : Nat)
  | paired (region index off : Nat)
  | host (addr : Nat)
  | remote (job rank target : Nat) (entry : DWord)
deriving DecidableEq, Repr

/-- A store-window line: its virtual address, byte mask, data, where it goes, and whether an invalidation has removed the translation it was
made with, so that it is translated again when it is sent (R70, R30; notes/assumptions/12). -/
structure WLine where
  va : Nat
  mask : DWord
  data : Line
  place : Place
  stale : Bool
deriving DecidableEq, Repr

/-- A pinned line of the snapshot (R71). -/
structure SLine where
  va : Nat
  data : Line
deriving DecidableEq, Repr

/-- A scalar load or atomic that has issued and not returned, in program order (R78, R99). For an atomic: the AMOP code, the
operand, the compare value, the scope and FTZ at issue; `older` are the operations it waits for. For a load, `own` holds the bytes the
store window gave at issue (R81). -/
structure PMem where
  atomic : Bool
  d : BitVec 6
  va : Nat
  size : Nat
  uns : Bool
  place : Place
  amop : Nat
  operand : DWord
  compare : DWord
  scope : Nat
  ftz : Bool
  older : List Nat
  release : Option Nat
  own : List (Option Byte)
  pc : Nat
  seq : Nat
deriving DecidableEq, Repr

/-- The one window-space scalar load or atomic whose bundle waits for its completion (R78, R284): the issue it belongs to, the release
it must see accepted first (R99), its request, and the completion word and data once they have come. -/
structure RemScalar where
  pc : Nat
  rptc : Nat
  release : Option Nat
  req : Option Nat
  answer : Option (DWord × List Byte)
deriving DecidableEq, Repr

/-- A VPUSH or VPOP between two of its record moves (R340): the stream's CAPL and RECB, the rows still to move (with their bytes, for a push), and the
failure of a source read that ends it after them: its address and, unless it is an uncorrectable error, its cause, address and detail. -/
structure VecRun where
  capl : Nat
  recb : Nat
  rows : List (Nat × List Byte)
  cut : Option (Nat × Option (Nat × Nat × DWord))
deriving DecidableEq, Repr

/-- A vector operation in flight (R327): its operands as captured at issue, with every format resolved, its scalar, seed and rounding mode,
and its ranges (first address, length). -/
structure VecOp where
  seq : Nat
  pc : Nat
  instr : Instr
  hd : Handle
  ha : Handle
  hb : Handle
  hm : Handle
  scal : DWord
  seed : DWord
  ftz : Bool
  mode : Nat
  rd : List (Nat × Nat)
  wr : List (Nat × Nat)
  phase : Nat
  stepf : Bool
  run : Option VecRun
deriving DecidableEq, Repr

/-- The writes of one permute operation, due at the end of a cycle (R342): each a whole byte, or one nibble of a byte (true: the upper). -/
structure PrmPend where
  seq : Nat
  due : Nat
  writes : List (Nat × Option Bool × Byte)
deriving DecidableEq, Repr

/-- What a scale operation writes (R345). -/
inductive SclUpd where
  | table (bytes : List Byte)
  | entry (t : Nat) (b : Byte)
  | bands (v : DWord)
  | mode (m : Bool)
deriving DecidableEq, Repr

/-- A scale operation that has not written yet, due at the end of a cycle (R246). -/
structure SclPend where
  due : Nat
  upd : SclUpd
deriving DecidableEq, Repr

/-- A ring operand of a matrix-stream operation: buffer, slot once assigned, whether it consumes, how many slots (R56, R320). -/
structure RingUse where
  buf : Nat
  slot : Option Nat
  consume : Bool
  n : Nat
deriving DecidableEq, Repr

/-- A matrix-stream operation that has not retired (R310): operands, plane bases and scale table as captured at issue, ring slots,
batch, the command it belongs to, whether a re-executed phase absorbed it (R408), whether it has acted. -/
structure MOp where
  seq : Nat
  pc : Nat
  instr : Instr
  ha : Handle
  hb : Handle
  scal : DWord
  ftz : Bool
  batch : Nat
  rings : List RingUse
  cmd : Option Nat
  cancelled : Bool
  absorbed : Bool
  acted : Bool
  phase : Nat
  word : DWord
  stepf : Bool
  planes : List (Nat × Nat)
  sx4 : Tab Byte
deriving DecidableEq, Repr

/-- One transaction or delivery of a command that failed: its place in address order, cause, address and detail (R108, R386). -/
structure XFail where
  order : Nat
  cause : Nat
  addr : Nat
  detail : DWord
deriving DecidableEq, Repr

/-- The progress of a command (R354, R378). -/
inductive CmdSt where
  | issued
  | running
  | faulted
  | done
deriving DecidableEq, Repr

/-- An operand-log entry (R350): the operands at issue, and the command's progress. `pos` counts the work units performed or sent,
`todo` the transactions a replay sends again, `failed` those that failed, `plan` what the command read when it started (its reduction record, its
deliveries, the members of its group), `wrote` the bits a SCAT has written, `got` the data that came back and are not yet written, `lists` the
ranked lists returned to a RMERGE.sw, `begun` whether its start checks have passed,
`sent` whether no counted remote write of it is still to be sent, `ended` whether it has made its last access, `held` whether it waits for a
parking slot of its core (R133), `rel` the release its AMOFMAX waits for (R191, R99). -/
structure Cmd where
  entry : Nat
  tag : Nat
  seq : Nat
  pc : Nat
  instr : Instr
  word : Nat
  ext : Nat
  ccw : DWord
  hd : Handle
  ha : Handle
  h3 : Handle
  hx : Handle
  hy : Handle
  planes : List (Nat × Nat)
  seed : DWord
  ftz : Bool
  rm : Nat
  phase : Nat
  st : CmdSt
  cause : Nat
  detail : DWord
  addr : Nat
  cword : DWord
  tile : Tab Word
  tdesc : BitVec 16
  sx4 : Tab Byte
  bands : Tab (BitVec 16)
  bsrc : Bool
  ringSlot : Option Nat
  pos : Nat
  todo : List Nat
  failed : List XFail
  plan : List (List DWord)
  wrote : Nat
  got : List (Nat × List Byte)
  lists : List (Nat × List Byte)
  begun : Bool
  sent : Bool
  ended : Bool
  held : Bool
  rel : Option Nat
  decDone : Bool
  stepf : Bool
deriving DecidableEq, Repr

/-- An engine fault record (R386). -/
structure FRec where
  cause : Nat
  pc : Nat
  rel : Bool
  stepf : Bool
  abs : Bool
  slot : Nat
  id : Nat
  addr : Nat
  detail : DWord
deriving DecidableEq, Repr

/-- A barrier (R303). -/
structure Barrier where
  count : Int
  node : Nat
  nv : Bool
  armed : Bool
  fired : Bool
  gen : Nat
  posted : Nat
deriving DecidableEq, Repr

/-- A posted command record: its barrier, the POST's PC and the phase that issued it, the 64 bytes (R376, R379). -/
structure Posted where
  bar : Nat
  pc : Nat
  phase : Nat
  bytes : List Byte
deriving DecidableEq, Repr

/-- The checkpoint of a phase (R86 step 5, R396): the restart PC, the registers, TAGNEXT, CUR, the matrix-stream count and
the issue-time tile descriptors. -/
structure Ckpt where
  pc : Nat
  regs : Regs
  tagNext : Nat
  cur : Nat
  mcount : Nat
  tissue : Tab (BitVec 16)
deriving DecidableEq, Repr

/-- A PHASE or DONE that has begun (R86, R91): its bundle, the bundle after it, scope, buffers, pair range, whether step 2 has begun, its
release, how many pair entries are flipped, whether only the ending of DONE is left. -/
structure PhaseOp where
  isDone : Bool
  pc : Nat
  scope : Nat
  bset : List Nat
  pairFrom : Nat
  pairCount : Nat
  sent : Bool
  release : Option Nat
  next : Nat
  ending : Bool
deriving DecidableEq, Repr

/-- A FENCE not yet satisfied (R98): what follows it has `seq` or more. -/
structure FenceOp where
  seq : Nat
  pc : Nat
  scope : Nat
  older : List Nat
  release : Option Nat
deriving DecidableEq, Repr

/-- A release of a core (R102): its epoch, the bundle that called it, whether the Midfield die has accepted it, the destinations it counts, each
with its count and WORST so far. -/
structure Release where
  epoch : Nat
  pc : Nat
  accepted : Bool
  counts : List (Nat × Nat × Nat)
deriving DecidableEq, Repr

/-- Where a context is (R392): waiting to start, on a core, being saved, absent, being restored, or in a dispatcher's engine (R209). -/
inductive Loc where
  | pending (core : Nat)
  | resident (core : Nat)
  | saving (core block : Nat)
  | absent
  | restoring (core block : Nat)
  | engine
deriving DecidableEq, Repr

/-- The engines' share of a context: vector, permute, scale and matrix units, tiles, tables, barriers. -/
structure Engines where
  tdesc : Tab (BitVec 16)
  tissue : Tab (BitVec 16)
  tile : Tab Word
  vq : List VecOp
  prm : List PrmPend
  scl : List SclPend
  ms : List MOp
  mcount : Nat
  cur : Nat
  btile : Tab (BitVec 16)
  sx4 : Tab Byte
  bands : Tab (BitVec 16)
  bsrc : Bool
  vtab : Tab Word
deriving DecidableEq, Repr

/-- The transfer engine's share of a context: operand log, posted records, barriers, fault queue; `past` are the completed commands of
the phase whose entries hold others now, `again` those of a rolled-back phase that wait for an entry (R407). -/
structure Transfers where
  log : List Cmd
  past : List Cmd
  again : List Cmd
  tagNext : Nat
  lastId : Nat
  bars : Tab Barrier
  posted : List Posted
  fired : List Posted
  fq : List FRec
  waitq : List FRec
deriving DecidableEq, Repr

/-- The phase's share of a context: window, snapshot, scalar accesses under way, checkpoint, releases (chapter 3, R405 to R408); `late` are
window lines, each with the address of its PHASE, that the PHASE has sent and not waited for, as their homes lie outside its scope, and that are
not performed yet (R86); `mwords` are
the slot words of the phase's stream operations, `no` counts phases. -/
structure Phases where
  window : List WLine
  late : List (Nat × Nat × WLine)
  snap : List SLine
  memq : List PMem
  rem : Option RemScalar
  op : Option PhaseOp
  fences : List FenceOp
  epoch : Nat
  rels : List Release
  ck : Ckpt
  nr : Bool
  err : Bool
  rbcnt : Nat
  markt : Option Nat
  markm : Nat
  mwords : List DWord
  no : Nat
  cmds : Nat
  seq : Nat
deriving DecidableEq, Repr

/-- A debugger's view of a context (R389, R390): the two words, whether the task runs a step, the number of the step's first operation,
whether the step's issue is over and its operations are waited for. -/
structure Debug where
  ctl : DWord
  stat : DWord
  stepping : Bool
  stepSeq : Nat
  settling : Bool
deriving DecidableEq, Repr

/-- A precise trap (R380, R381): cause, fault address, detail, slot, whether a fetch straddled. -/
structure Trap where
  cause : Nat
  addr : Nat
  detail : DWord
  slot : Nat
  straddle : Bool
deriving DecidableEq, Repr

/-- The context of one task; `want` is the reason of a switch that has been requested, `leaving` whether it has been taken, `idle` whether the
task's core is in a frame it does not run in (R418); `lbuf` is the loop buffer, the words of bundles by address (R255);
`stageOut` is set when a staged loop has drained for a switch that is then due (R257); `trapWait` is a trap that waits for older loads and fixed-latency writes before entry (R382). -/
structure Ctx where
  who : TaskId
  image : Nat
  code : Nat
  loc : Loc
  oldCore : Option Nat
  slot : Option Nat
  since : Nat
  cycles : Nat
  seenAt : Nat
  want : Option Nat
  affkey : Nat
  idle : Bool
  isOver : Bool
  leaving : Bool
  node : Option Nat
  regs : Regs
  bufs : Tab BufEnt
  eng : Engines
  xf : Transfers
  ph : Phases
  dbg : Debug
  lbuf : Tab (List Nat)
  stageOut : Bool
  trapWait : Option Trap
deriving DecidableEq, Repr

/-! ### Cores and dies -/

/-- A slice permission entry (R16). -/
structure SptEnt where
  owner : Nat
  world : Nat
  share : Nat
  rights : Nat
  start : Nat
  count : Nat
deriving DecidableEq, Repr

/-- The power state of a bank (R43), with the cycle of its last access and, while it wakes, the cycle the wake ends. -/
inductive Bank where
  | active (last : Nat)
  | drowsy
  | waking (ends : Nat)
  | gated
  | clearing (ends : Nat)
deriving DecidableEq, Repr

/-- A core: its context, slice permissions, banks, CORESTAT, frame registers (R16, R43, R417, R433); `newFrame` are the FRAMETAB and FLEAD
that take effect at the next boundary, `awaitEdge` is set from a frame-edge switch to its edge (R419), `clearing` is the cycle a clear ends, `lastTask`
the region, grid and AFFKEY of its last task (R213), `ready` is the cycle from which it may
issue again. -/
structure Core where
  ctx : Option Nat
  spt : Tab SptEnt
  banks : Tab Bank
  fenced : Bool
  freq : Bool
  selftest : Nat
  frametab : DWord
  flead : Nat
  sealovr : Nat
  newFrame : Option (DWord × Nat)
  frame : Nat
  awaitEdge : Bool
  clearing : Option Nat
  lastTask : Option (Nat × Nat × Nat)
  ready : Nat
deriving DecidableEq, Repr

/-- A diversion entry (R398); state 0 FREE, 1 SAVING, 2 ABSENT, 3 RESTORING, 4 FORWARD; `ctxId` is the context it belongs to,
`spilled` whether it lies in the table in HBM (R399). -/
structure DivEnt where
  state : Nat
  isCtx : Bool
  core : Nat
  ncore : Nat
  start : Nat
  count : Nat
  rights : Nat
  share : Nat
  world : Nat
  owner : Nat
  slot : Nat
  next : Nat
  image : Nat
  ctxId : Nat
  spilled : Bool
deriving DecidableEq, Repr

/-- An access that waits in the diversion queue (R400, R403): its source, and the step that performs it once it may. -/
structure DivWait where
  source : Nat
  core : Nat
  block : Nat
  subj : Nat
  again : Instr
deriving DecidableEq, Repr

/-- An erasure entry (R427). -/
structure Erasure where
  v : Bool
  scope : Nat
  sid : Nat
  bank : Nat
  row : Nat
  pos : Nat
  cw : Nat
  hits : Nat
deriving DecidableEq, Repr

/-- A page walk waiting or under way (R27, R30): the page, whose it is, which requester, the other requesters whose misses have joined it,
whether it is stale. -/
structure Walk where
  req : Nat
  world : Nat
  asn : Nat
  root : Nat
  va : Nat
  acc : Nat
  joined : List Nat
  stale : Bool
deriving DecidableEq, Repr

/-- A compute die (0 to 3) or the Midfield die (4): error log (R430), budgets (R436), diversion table (R398), walker (R27):
its requesters' misses, the walks under way, and those that have ended and whose page has not been asked for again. -/
structure Die where
  cethresh : Nat
  loglog : Nat
  cerate : Nat
  ceint : Bool
  en : Bool
  logbase : Nat
  logHead : Nat
  logTail : Nat
  ceCount : Nat
  ueCount : Nat
  lost : Nat
  erafull : Bool
  ceThisMs : Nat
  ceMs : Nat
  refB : Nat
  scrubB : Nat
  teleB : Nat
  teleTok : Tab Int
  dieen : Bool
  divspill : Nat
  div : List DivEnt
  divq : List DivWait
  missq : List Walk
  walks : List Walk
  walked : List Walk
  rr : Nat
  releasedAt : Nat
deriving DecidableEq, Repr

/-- A pseudo-channel (R427, R432, R434, R448). -/
structure Pch where
  erasures : Tab Erasure
  counts : List ((Nat × Nat × Nat × Nat × Nat) × Nat)
  pcfail : Bool
  step : Nat
  done : Bool
  rep : DWord
  lfail : List Nat
  scrubAt : Nat
  scrubTok : Int
  refTok : Int
deriving DecidableEq, Repr

/-! ### Translation (chapter 1) -/

/-- A cached leaf (R26): the cache it is in (core c; 1000 + cluster; 2000 the Midfield die), its tag, its page, the leaf
entry and where it was read. -/
structure Tlb where
  site : Nat
  world : Nat
  asn : Nat
  va : Nat
  level : Nat
  leaf : DWord
  addr : Nat
deriving DecidableEq, Repr

/-- A host translation, tagged with world and ASN (R24, R26): asked for while `sizeLog` is 0, and then as its ATS completion gave it. -/
structure Ats where
  die : Nat
  world : Nat
  asn : Nat
  pasid : Nat
  addr : Nat
  out : Nat
  sizeLog : Nat
  r : Bool
  w : Bool
deriving DecidableEq, Repr

/-- A cached window-table entry (R32). -/
structure WinEnt where
  core : Nat
  world : Nat
  region : Nat
  w : Nat
  d : List DWord
deriving DecidableEq, Repr

/-- What an invalidation waits for (R30): a scalar access that has issued and not been performed, by context and address; or a remote request,
by its number, that is not resolved. -/
inductive User where
  | scalar (ctx va : Nat)
  | request (k : Nat)
deriving DecidableEq, Repr

/-- An invalidation in progress (R30): who asked (a context, the command ring, or an ATS tag) and the uses it drains. -/
structure Inval where
  id : Nat
  kind : Nat
  ctx : Option Nat
  ring : Bool
  tag : Option Nat
  users : List User
deriving DecidableEq, Repr

/-! ### The Midfield die (chapters 4 and 5) -/

/-- A rank-table entry (R34). -/
structure RankEnt where
  epoch : Nat
  pkg : Nat
  hold : Bool
  fenced : Bool
  v : Bool
  outst : Nat
  ports : Nat
deriving DecidableEq, Repr

/-- A rank-table slot header (R118). -/
structure SlotHdr where
  jobid : Nat
  selfrank : Nat
  region : Nat
  world : Nat
  en : Bool
deriving DecidableEq, Repr

/-- An accepted request in HOLDBUF, with its slot (R121, R126). -/
structure Held where
  slot : Nat
  seq : Nat
  port : Nat
  txn : Txn
deriving DecidableEq, Repr

/-- The life of a connection (R119): being opened; open; closing once its last request is resolved, because its rank was rewritten (R36) or its
sequence numbers end (R421); CONNCLOSE sent; failed to open. -/
inductive ConnSt where
  | opening (attempt : Nat)
  | opened
  | draining
  | closing
  | failed
deriving DecidableEq, Repr

/-- A connection context (R120). `number` is CONN; for a requester, `queue` is its destination queue (R133) and `parked` the
requests beyond it; for a responder, `done` keeps the requests performed with their completion status. -/
structure Conn where
  requester : Bool
  number : Nat
  job : Nat
  rank : Nat
  pkg : Nat
  st : ConnSt
  openTag : Nat
  nextSeq : Nat
  credits : Nat
  ports : Nat
  queue : List Nat
  lastUse : Nat
  spilled : Bool
  region : Nat
  world : Nat
  asn : Nat
  root : Nat
  base : Nat
  seen : List Nat
  results : List (Nat × DWord)
  done : List (Nat × DWord)
  hold : List Held
deriving DecidableEq, Repr

/-- What a remote request was made for, with its address at the source: for a command, its number in its task and the transaction's place in
address order. -/
inductive ReqFor where
  | scalar (ctx va : Nat)
  | line (ctx pc va : Nat)
  | cmd (ctx seq order va : Nat)
  | forward (key : Nat)
  | notice (key : Nat)
  | nothing
deriving DecidableEq, Repr

/-- The state of a request at its requester die (R125). -/
inductive ReqSt where
  | held
  | queued
  | sent (attempt : Nat)
  | expiring
deriving DecidableEq, Repr

/-- A remote request (R125): its transaction with SEQ filled in when sent, the port and cycle of its last send, the window's
time-out fields, the world, region and window that it was translated through (none for the Midfield die's own), and the release that counts it
(R101, R102). -/
structure Req where
  conn : Nat
  what : ReqFor
  job : Nat
  rank : Nat
  txn : Txn
  st : ReqSt
  port : Nat
  lastSend : Nat
  toexp : Nat
  retries : Nat
  win : Option (Nat × Nat × Nat)
  src : Nat
  epoch : Nat
  counted : Bool
deriving DecidableEq, Repr

/-- A fence-counter entry (R103); `ctx` is the context whose release it belongs to. -/
structure FenceEnt where
  src : Nat
  job : Nat
  rank : Nat
  count : Nat
  epoch : Nat
  worst : Nat
  ctx : Nat
deriving DecidableEq, Repr

/-- A flit in a replay buffer (R112): its bytes, but for what is filled in when it leaves; the cycle it was queued in, and whether a transaction
begins in it (R122). -/
structure Flit where
  lseq : Nat
  bytes : List Byte
  queued : Nat
  head : Bool
  first : Nat
  last : Nat
deriving DecidableEq, Repr

/-- A fabric port (R110 to R114, R135 to R137): `nowUa`, `now2`, `now1` are the UALEN, V2EN and V1EN of its present training, `owed` the flit buffers of
each channel not yet returned to the other end as credits, `retrTok` its tokens of the RETRBUD budget, in µs of link time, and `waits` whether a
retraining is put off for want of them (R436, R437). -/
structure Port where
  ujob : Nat
  ualen : Bool
  v2 : Bool
  v1 : Bool
  en : Bool
  nowUa : Bool
  now2 : Bool
  now1 : Bool
  mode : Nat
  lanes : Nat
  retrains : Nat
  errs : Nat
  peer : Option (Nat × Nat)
  trainStart : Nat
  retrTok : Int
  waits : Bool
  lseq : Nat
  replay : List Flit
  ackbase : Nat
  reseq : List (Nat × List Byte)
  sinceAck : Nat
  owed : Tab Nat
  partial0 : List (Nat × List Byte)
deriving DecidableEq, Repr

/-- An accepted contribution that waits at its home to be applied (R146). -/
structure Contrib where
  conn : Nat
  seq : Nat
  rank : Nat
  job : Nat
  txn : Txn
deriving DecidableEq, Repr

/-- An exact accumulator element (R151). -/
structure Exact where
  x : Int
  pinf : Bool
  ninf : Bool
  nan : Bool
  neg0 : Bool
deriving DecidableEq, Repr

/-- A combining-table entry (R141, R142): state 1 OPEN, 2 COMBINE, 3 FORWARD, 4 NOTIFY, 5 TOMB. `started` is when its timer was set, or the
forward accepted; `acc` are the running elements, `staged` the (index, slot, length) of canonical contributions, `parts` the pieces of exact
forwards, `who` the (index, rank, CSTAT or 0) of its contributors, `acks` the forwards accepted or the notices still out, `fword` a final word that is
not OK, `value` the result. -/
structure Comb where
  st : Nat
  job : Nat
  rid : Nat
  level : Nat
  oper : Nat
  fmt : Nat
  repro : Nat
  destc : Bool
  pv : Bool
  pidx : Nat
  parent : Nat
  expect : Nat
  arrived : Nat
  full : Nat
  tout : Nat
  nelem : Nat
  k : Nat
  dir : Bool
  taddr : Nat
  pexpect : Nat
  started : Nat
  acc : List Nat
  exact : List Exact
  ranked : List (Word × Word)
  staged : List (Nat × Nat × Nat)
  parts : List (Nat × Nat × List Byte)
  who : List (Nat × Nat × Nat)
  status : Nat
  fword : DWord
  value : List Byte
  incl1 : Nat
  full1 : Nat
  acks : Nat
deriving DecidableEq, Repr

/-- A contributor's record of a contribution (R158): the command and row it belongs to, the bytes of result it asks for, when it was accepted, how
many µs after that it is given up: 2 × TOUT + DESTTO, and whether it has ended: then it only tells the length of a notice sent again. -/
structure CRec where
  job : Nat
  rid : Nat
  cidx : Nat
  ctx : Nat
  entry : Nat
  row : Nat
  size : Nat
  wait : Nat
  accepted : Option Nat
  past : Bool
deriving DecidableEq, Repr

/-- The Midfield die; `dieTok` are the RETRBUD tokens of each die link, in µs of link time (R436). -/
structure Midfield where
  ranks : Tab RankEnt
  slots : Tab SlotHdr
  conns : Tab Conn
  reqs : Tab Req
  nextConn : Nat
  nextReq : Nat
  openCtr : Nat
  destLast : Tab Nat
  fences : Tab FenceEnt
  ports : Tab Port
  contribs : List Contrib
  comb : Tab Comb
  crecs : Tab CRec
  nextKey : Nat
  repl : Tab (List DWord)
  fabtime : DWord
  scrumcfg : DWord
  scrumstage : DWord
  retrB : Nat
  dieTok : Tab Int
  connspill : DWord
  fwdbase : DWord
  fwdHeld : Tab DWord
deriving DecidableEq, Repr

/-! ### Regions, grids, the arbiter (chapter 7) -/

/-- A region as its RCB was read (R193, R194): the RCB's address and dwords 0 to 20, and a refresh not yet in effect. -/
structure Region where
  addr : Nat
  rcb : List DWord
  staged : Option (List DWord)
  coreTok : Int
  hbmTok : Int
  fabTok : Int
  powTok : Int
  powThrottle : Bool
deriving DecidableEq, Repr

/-- A grid at the package arbiter (R197, R202); state 0 FREE, 1 OPEN, 2 CLOSED, 3 DONE. -/
structure Grid where
  st : Nat
  status : Nat
  count : Nat
  issued : Nat
  retired : Nat
  faults : Nat
  killed : Nat
  retmap : Nat
  spbase : Nat
  sphead : Nat
  sptail : Nat
  packet : List Byte
  order : Nat
  node : Option Nat
  base0 : Nat
deriving DecidableEq, Repr

/-- The dispatchers and the package arbiter. -/
structure Arbiter where
  regions : Tab Region
  grids : Tab Grid
  ptrs : Tab Nat
  launches : Nat
  nextCtx : Nat
  cut : List (Nat × Nat)
deriving DecidableEq, Repr

/-! ### The Gecko pair, reliability, the host -/

/-- A world 1 to 7 that exists (R415, R423): whether it is being destroyed, the number of its XTS key, the seed of its ML-KEM key, its code key, what
WMEAS measures (R414), its ranges. -/
structure World where
  dying : Bool
  xts : Nat
  kemSeed : List Byte
  code : Option (List Byte)
  meas : List Byte
  ranges : Tab (DWord × DWord × DWord)
deriving DecidableEq, Repr

/-- A firmware image placed at its unit (R411): the destination and the bytes of its payload, and the address of its first instruction. -/
structure Loaded where
  load : Nat
  payload : List Byte
  entry : Nat
deriving DecidableEq, Repr

/-- The Gecko pair (chapter 14): both cores stopped by a mismatch (R410), its fuses (R409), what it keeps of the images started (R411, R413), the
certificate of the alias keys (R413), the worlds (R415), the generator (R422), the command ring (R425), link keys (R421). -/
structure Gecko where
  stopped : Bool
  revoked : BitVec 4
  svn : Tab DWord
  imgSvn : Tab Nat
  digests : Tab (List Byte)
  loaded : Tab Loaded
  cert : List Byte
  worlds : Tab World
  keyNo : Nat
  rngOk : Bool
  rngReqs : Nat
  ringKey : Option (List Byte)
  e : Nat
  halted : Bool
  badtags : Nat
  replays : Nat
  jobKeys : Tab (List Byte)
deriving DecidableEq, Repr

/-- A launch queue (R443). -/
structure LQ where
  base : DWord
  en : Bool
  notify : Bool
  err : Bool
  sizelog : Nat
  head : Nat
  tail : Nat
deriving DecidableEq, Repr

/-- The host interface (chapter 16): BOOTSTAT (R447), power (R449), command ring (R444), launch queues (R443), indirect access
(R442), MSI-X (R440); `out` are the messages and flits handed to the outside, newest first. -/
structure HostIf where
  phase : Nat
  imgstat : Nat
  failkind : Nat
  stackok : Nat
  dieok : Nat
  boots : Nat
  regtab : DWord
  pwrlim : Nat
  pwrNow : Nat
  pwrCount : Nat
  throttle : Bool
  crbase : DWord
  crslot : Nat
  crhead : Nat
  crtail : Nat
  crresp : DWord
  lqs : Tab LQ
  lqNext : Nat
  midx : DWord
  mbusy : Bool
  mstatus : Nat
  mpart : Nat
  mdata : Tab DWord
  staged : Option (Nat × Nat × Tab DWord)
  masked : List Nat
  pend : List Nat
  sent : List Nat
deriving DecidableEq, Repr

/-- The bundle being issued: whether one is, the slot acting, the context as it stood before the bundle (R282), the trap or stall a
slot met, the transfer it asked for, its address after it, the LAST word of the acting slot, whether a
window-space access has just made its request, so that the bundle stalls with that request kept (R284), and the slice offsets whose bank the
stalled bundle wakes. -/
structure Issue where
  on : Bool
  slot : Nat
  src : Option Ctx
  trap : Option Trap
  stall : Bool
  goto : Option Nat
  noEdge : Bool
  len : Nat
  word : DWord
  sent : Bool
  wakes : List (Nat × Nat)
deriving DecidableEq, Repr

/-- One package. The first six fields and `issue`, `out` are the model's own: the cycle, the counter for free values, the
steps due with their cycle and subject, the core whose slot instruction is read, the subject of the step being taken, the fault a
table access met. -/
structure State where
  now : Nat
  tick : Nat
  agenda : List (Nat × Nat × Instr)
  cur : Nat
  subj : Nat
  bad : Option Fault
  issue : Issue
  out : List (Nat × List Byte)
  power : Bool
  pkg : Nat
  mem : List Host.Cell
  keyed : Tab Nat
  lineErr : Tab (List (Nat × Nat))
  sramBad : List Nat
  cores : Tab Core
  ctxs : Tab Ctx
  dies : Tab Die
  pchs : Tab Pch
  linksDown : List Nat
  tlbs : List Tlb
  walkc : List Tlb
  ats : List Ats
  wins : List WinEnt
  invals : List Inval
  mid : Midfield
  arb : Arbiter
  gecko : Gecko
  host : HostIf
deriving DecidableEq, Repr

/-! ### Power-up values -/

/-- No last operation, no open loop. -/
def Sticky.zero : Sticky :=
  { last := [], cap := [], steps := [], rsteps := Option.none, lstate := 0, stage := 0, lbeg := [], lend := [], lc := [] }

/-- The registers at task start without an image (R201, R178). -/
def Regs.zero : Regs :=
  { s := [], h := [], mb := [], fpctl := 0, rngv := 1, rngp := 1, rngx := 1, st := Sticky.zero, rptc := 0, pc := 0, tvec := 0,
    tcause := 0, tpc := 0, taddr := 0, tdetail := 0, inTrap := false, trptc := 0, tscr := [], sv := Sticky.zero }

/-- No buffer (R46). -/
def BufEnt.none : BufEnt :=
  { mode := 0, front := false, noprot := false, lenM1 := 0, base := 0, gshare := 0, tile := 0, nslot := 0, head := 0,
    assigned := 0, filled := 0, claimed := 0, ckhead := 0, ckcount := 0, held := 0, landed := [] }

/-- A barrier at task start (R303). -/
def Barrier.zero : Barrier :=
  { count := 0, node := 0, nv := false, armed := false, fired := false, gen := 0, posted := 0 }

/-- A core at reset: FRAMETAB 0x8888_8888_8888_8888 and FLEAD 80 (R417), CORESTAT 0 (R433); the rest DESIGN CHOICE, log 4. -/
def Core.reset : Core :=
  { ctx := Option.none, spt := [], banks := [], fenced := false, freq := false, selftest := 0,
    frametab := 0x8888888888888888, flead := 80, sealovr := 0, newFrame := Option.none, frame := 0, awaitEdge := false,
    clearing := Option.none, lastTask := Option.none, ready := 0 }

/-- A die at reset: CETHRESH 4, CERATE 16 (R430), REF 512, SCRUB 64, TELE 32 (R436); the rest DESIGN CHOICE, log 4. -/
def Die.reset : Die :=
  { cethresh := 4, loglog := 0, cerate := 16, ceint := false, en := false, logbase := 0, logHead := 0, logTail := 0,
    ceCount := 0, ueCount := 0, lost := 0, erafull := false, ceThisMs := 0, ceMs := 0, refB := 512, scrubB := 64, teleB := 32, teleTok := [],
    dieen := false, divspill := 0, div := [], divq := [], missq := [], walks := [], walked := [], rr := 0, releasedAt := 0 }

/-- A pseudo-channel at reset. DESIGN CHOICE, log 4. -/
def Pch.reset : Pch :=
  { erasures := [], counts := [], pcfail := false, step := 0, done := false, rep := 0, lfail := [], scrubAt := 0, scrubTok := 64,
    refTok := 512 }

/-- A port at reset: V2EN and V1EN 1, EN 0 (R135); DOWN (log 4). -/
def Port.reset : Port :=
  { ujob := 0, ualen := false, v2 := true, v1 := true, en := false, nowUa := false, now2 := true, now1 := true, mode := 0, lanes := 0, retrains := 0, errs := 0,
    peer := Option.none, trainStart := 0, retrTok := 400, waits := false, lseq := 0, replay := [], ackbase := 0, reseq := [], sinceAck := 0, owed := [], partial0 := [] }

/-- A rank-table entry at reset. DESIGN CHOICE, log 4. -/
def RankEnt.reset : RankEnt :=
  { epoch := 0, pkg := 0, hold := false, fenced := false, v := false, outst := 0, ports := 0 }

/-- A slot header at reset. DESIGN CHOICE, log 4. -/
def SlotHdr.reset : SlotHdr := { jobid := 0, selfrank := 0, region := 0, world := 0, en := false }

/-- The Midfield die at reset: FABTIME (R123), SCRUMCFG and SCRUMSTAGE (R159), RETRBUD 400 (R436); the rest log 4. -/
def Midfield.reset : Midfield :=
  { ranks := [], slots := [], conns := [], reqs := [], nextConn := 0, nextReq := 0, openCtr := 0, destLast := [], fences := [],
    ports := [], contribs := [], comb := [], crecs := [], nextKey := 0, repl := [],
    fabtime := 0x000007D002710040, scrumcfg := 0x0000002710000000, scrumstage := 0, retrB := 400, dieTok := [], connspill := 0, fwdbase := 0,
    fwdHeld := [] }

/-- The arbiter at reset: no region, every pointer at 4,095 (R212), which is the default of `ptrs`. -/
def Arbiter.reset : Arbiter :=
  { regions := [], grids := [], ptrs := [], launches := 0, nextCtx := 0, cut := [] }

/-- The Gecko pair at power-up: no ring key (R425), only world 0 (R415), the generator in order (log 4). -/
def Gecko.reset : Gecko :=
  { stopped := false, revoked := 0, svn := [], imgSvn := [], digests := [], loaded := [], cert := [], worlds := [], keyNo := 0, rngOk := true, rngReqs := 0,
    ringKey := Option.none, e := 0, halted := false, badtags := 0, replays := 0, jobKeys := [] }

/-- A launch queue at reset. DESIGN CHOICE, log 4. -/
def LQ.reset : LQ := { base := 0, en := false, notify := false, err := false, sizelog := 1, head := 0, tail := 0 }

/-- The host interface at power-up: PHASE ROM (R446), PWRLIM 5,800 (R449); the rest log 4. -/
def HostIf.reset : HostIf :=
  { phase := 0, imgstat := 0, failkind := 0, stackok := 0, dieok := 0, boots := 0, regtab := 0, pwrlim := 5800, pwrNow := 0,
    pwrCount := 0, throttle := false, crbase := 0, crslot := 1, crhead := 0, crtail := 0, crresp := 0, lqs := [], lqNext := 0,
    midx := 0, mbusy := false, mstatus := 0, mpart := 0, mdata := [], staged := Option.none, masked := [], pend := [], sent := [] }

/-- No bundle is being issued. -/
def Issue.idle : Issue :=
  { on := false, slot := 0, src := Option.none, trap := Option.none, stall := false, goto := Option.none, noEdge := false, len := 8,
    word := 0, sent := false, wakes := [] }

/-- The package at power-up (R6, R446): nothing in memory, every die held in reset, the Gecko pair about to run its ROM. -/
def State.reset : State :=
  { now := 0, tick := 0, agenda := [(0, 0, Instr.powerUp)], cur := 0, subj := 0, bad := Option.none, issue := Issue.idle, out := [],
    power := false, pkg := 0, mem := [], keyed := [], lineErr := [], sramBad := [], cores := [], ctxs := [], dies := [], pchs := [],
    linksDown := [], tlbs := [], walkc := [], ats := [], wins := [], invals := [], mid := Midfield.reset, arb := Arbiter.reset,
    gecko := Gecko.reset, host := HostIf.reset }

end Sys2Proof.Machine
end

