-- ==== Sys2Proof/Machine/Ops.lean ====
section
/-! DEFINITION. The named operations over tables, memory, registers, cores and contexts, and the two operations every trap goes
through: entry (R382) and return (R384). -/

namespace Sys2Proof.Machine

/-! ### Sparse tables -/

/-- The entry of a key. -/
def Tab.look {α : Type} : Tab α → Nat → Option α
  | [], _ => none
  | (k, v) :: t, n => if k = n then some v else Tab.look t n

/-- The entry of a key, or the default. -/
def Tab.val {α : Type} (d : α) (t : Tab α) (n : Nat) : α := (Tab.look t n).getD d

/-- The table without a key. -/
def Tab.del {α : Type} : Tab α → Nat → Tab α
  | [], _ => []
  | (k, v) :: t, n => if k = n then t else (k, v) :: Tab.del t n

/-- The table with an entry, kept in rising order of keys. -/
def Tab.set {α : Type} : Tab α → Nat → α → Tab α
  | [], n, a => [(n, a)]
  | (k, v) :: t, n, a =>
    if n < k then (n, a) :: (k, v) :: t else if k = n then (n, a) :: t else (k, v) :: Tab.set t n a

/-- The table with an entry, which is dropped when it equals the default. -/
def Tab.put {α : Type} [DecidableEq α] (d : α) (t : Tab α) (n : Nat) (a : α) : Tab α :=
  if a = d then Tab.del t n else Tab.set t n a

/-- Every entry changed. -/
def Tab.each {α : Type} (f : Nat → α → α) (t : Tab α) : Tab α := t.map (fun p => (p.1, f p.1 p.2))

/-! ### Bits and bytes -/

/-- Bits [lo + n − 1 : lo] of a double word, as a number (R8). -/
def fld (w : DWord) (lo n : Nat) : Nat := w.toNat / 2 ^ lo % 2 ^ n

/-- One bit of a double word. -/
def bit (w : DWord) (k : Nat) : Bool := w.getLsbD k

/-- A double word with bits [lo + n − 1 : lo] replaced. -/
def setFld (w : DWord) (lo n v : Nat) : DWord :=
  BitVec.ofNat 64 (w.toNat - w.toNat / 2 ^ lo % 2 ^ n * 2 ^ lo + v % 2 ^ n * 2 ^ lo)

/-- A number's low n bits read as two's complement. -/
def signed (n v : Nat) : Int := (BitVec.ofNat n v).toInt

/-- An integer modulo 2^n. -/
def wrap (n : Nat) (v : Int) : Nat := (BitVec.ofInt n v).toNat

/-- A truth value as a number. -/
def b2n (b : Bool) : Nat := if b then 1 else 0

/-- A number's n low bytes, least significant first (R7). -/
def leBytes : Nat → Nat → List Byte
  | 0, _ => []
  | n + 1, v => BitVec.ofNat 8 v :: leBytes n (v / 256)

/-- The number that bytes hold, least significant first (R7). -/
def leNat : List Byte → Nat
  | [] => 0
  | b :: t => b.toNat + 256 * leNat t

/-- The double word at dword position k of a list of bytes. -/
def dwordAt (bs : List Byte) (k : Nat) : DWord := BitVec.ofNat 64 (leNat ((bs.drop (8 * k)).take 8))

/-- The bytes of a list of double words. -/
def dwordBytes (ws : List DWord) : List Byte := ws.flatMap (fun w => leBytes 8 w.toNat)

/-- A list with a run of entries replaced from a position. -/
def splice {α : Type} (l : List α) (at_ : Nat) (new : List α) : List α := l.take at_ ++ new ++ l.drop (at_ + new.length)

/-- The numbers lo, lo + 1, ..., lo + n − 1. -/
def span (lo n : Nat) : List Nat := (List.range n).map (lo + ·)

/-- The smallest-keyed element of a list under a key. -/
def leastBy {α : Type} (key : α → Nat) : List α → Option α
  | [] => none
  | a :: t => match leastBy key t with
    | none => some a
    | some b => if key b < key a then some b else some a

/-! ### Memory cells

One flat space of byte cells holds the three memories: device HBM at its physical addresses [0, 2^39), core c's slice from
2^40 + c × 2^23, host memory from 2^64. A cell that is not listed holds 0 (notes/assumptions/3, DESIGN CHOICE). -/

/-- The byte a cell holds; 0 when it is not listed. -/
def Memory.byte : List Host.Cell → Nat → Byte
  | [], _ => 0
  | (k, v) :: m, a => if k = a then v else Memory.byte m a

/-- The memory with one byte written; a zero is not listed. -/
def Memory.put (m : List Host.Cell) (a : Nat) (b : Byte) : List Host.Cell := Tab.put (α := Byte) 0 m a b

/-- The memory with successive bytes written. -/
def Memory.putAll : List Host.Cell → Nat → List Byte → List Host.Cell
  | m, _, [] => m
  | m, a, b :: t => Memory.putAll (Memory.put m a b) (a + 1) t

/-- The canonical form: addresses strictly rising from a bound, no zero listed. -/
def Memory.wfFrom : Nat → List Host.Cell → Bool
  | _, [] => true
  | lo, (k, v) :: m => decide (lo ≤ k) && v != 0 && Memory.wfFrom (k + 1) m

/-- The canonical form. -/
def Memory.wf (m : List Host.Cell) : Bool := Memory.wfFrom 0 m

/-- The first address of core c's slice among the cells. -/
def sliceCell (core off : Nat) : Nat := 2 ^ 40 + core * 2 ^ 23 + off
/-- The cell of a host address. -/
def hostCell (a : Nat) : Nat := 2 ^ 64 + a % 2 ^ 64

/-- One byte of the flat cells. -/
def State.byteAt (s : State) (a : Nat) : Byte := Memory.byte s.mem a
/-- n bytes of the flat cells. -/
def State.bytesAt (s : State) (a n : Nat) : List Byte := (List.range n).map (fun i => s.byteAt (a + i))
/-- The bytes written to the flat cells. -/
def State.putBytes (s : State) (a : Nat) (bs : List Byte) : State := { s with mem := Memory.putAll s.mem a bs }

/-! ### Steps to come -/

/-- A step on a subject that becomes due after a delay. -/
def State.push (s : State) (delay subj : Nat) (e : Instr) : State :=
  { s with agenda := s.agenda ++ [(s.now + delay, subj, e)] }

/-- A step that becomes due, unless it is already to come. -/
def State.pushOnce (s : State) (delay subj : Nat) (e : Instr) : State :=
  if s.agenda.any (fun x => decide (x.2.1 = subj ∧ x.2.2 = e)) then s else s.push delay subj e

/-- A step that becomes due, unless it is to come no later. -/
def State.pushBy (s : State) (delay subj : Nat) (e : Instr) : State :=
  if s.agenda.any (fun x => decide (x.1 ≤ s.now + delay ∧ x.2.1 = subj ∧ x.2.2 = e)) then s else s.push delay subj e

/-- Whether the request of a switch on a core is due now. -/
def State.switchDue (s : State) (core : Nat) : Bool :=
  s.agenda.any fun x => decide (x.1 ≤ s.now) && match x.2.2 with
    | .switchRequest k _ => decide (k = core)
    | _ => false

/-- A fresh number for a free value, and the state that has used it. -/
def State.fresh (s : State) : Nat × State := (s.tick, { s with tick := s.tick + 1 })

/-- 1 µs in cycles of 1.75 GHz (R4). -/
def usCycles : Nat := 1750
/-- The 8 µs period in cycles (R210). -/
def periodCycles : Nat := 14000

/-! ### Cores, dies, contexts -/

/-- The die of a core (R2). -/
def dieOf (core : Nat) : Nat := core / 72
/-- The cluster number of a core (R2). -/
def clusterOf (core : Nat) : Nat := core / 8

def State.core (s : State) (c : Nat) : Core := s.cores.val Core.reset c
def State.updCore (s : State) (c : Nat) (f : Core → Core) : State := { s with cores := s.cores.set c (f (s.core c)) }
def State.die (s : State) (d : Nat) : Die := s.dies.val Die.reset d
def State.updDie (s : State) (d : Nat) (f : Die → Die) : State := { s with dies := s.dies.set d (f (s.die d)) }
def State.pch (s : State) (p : Nat) : Pch := s.pchs.val Pch.reset p
def State.updPch (s : State) (p : Nat) (f : Pch → Pch) : State := { s with pchs := s.pchs.set p (f (s.pch p)) }
def State.ctx (s : State) (id : Nat) : Option Ctx := s.ctxs.look id
def State.setCtx (s : State) (id : Nat) (c : Ctx) : State := { s with ctxs := s.ctxs.set id c }
/-- A context changed; nothing when it does not exist. -/
def State.updCtx (s : State) (id : Nat) (f : Ctx → Ctx) : State :=
  match s.ctx id with
  | some c => s.setCtx id (f c)
  | none => s
/-- The context on the core whose instruction is read. -/
def State.cid (s : State) : Option Nat := (s.core s.cur).ctx

/-- The core that runs a context, if one does. -/
def Ctx.coreNo (c : Ctx) : Option Nat :=
  match c.loc with
  | .resident k => some k
  | _ => none

/-- The core a context's on-chip state is bound to: where it runs, or last ran. -/
def Ctx.anyCore (c : Ctx) : Nat :=
  match c.loc with
  | .pending k => k
  | .resident k => k
  | .saving k _ => k
  | .restoring k _ => k
  | _ => c.oldCore.getD 0

/-! ### Registers -/

/-- A scalar register; s0 reads as zero (R223). -/
def Regs.getS (r : Regs) (n : BitVec 6) : DWord := if n = 0 then 0 else r.s.val 0 n.toNat
/-- A write to a scalar register; a write to s0 is discarded (R223). -/
def Regs.setS (r : Regs) (n : BitVec 6) (v : DWord) : Regs := if n = 0 then r else { r with s := r.s.put 0 n.toNat v }
/-- A handle register (R225). -/
def Regs.getH (r : Regs) (n : BitVec 5) : Handle := r.h.val 0 n.toNat
/-- A write to a handle register. -/
def Regs.setH (r : Regs) (n : BitVec 5) (v : Handle) : Regs := { r with h := r.h.put 0 n.toNat v }

/-- The context as a slot's sources see it: as it stood before its bundle (R282), or as it is when no bundle is being issued. -/
def State.was (s : State) (c : Ctx) : Ctx := s.issue.src.getD c
/-- The registers a slot reads (R282). -/
def State.srcRegs (s : State) (c : Ctx) : Regs := (s.was c).regs
/-- A scalar source of the acting slot. -/
def State.rs (s : State) (c : Ctx) (n : BitVec 6) : DWord := (s.srcRegs c).getS n
/-- A handle source of the acting slot. -/
def State.rh (s : State) (c : Ctx) (n : BitVec 5) : Handle := (s.srcRegs c).getH n

/-- A context's registers changed. -/
def Ctx.updRegs (c : Ctx) (f : Regs → Regs) : Ctx := { c with regs := f c.regs }
/-- s[d] := v for a context (R282, R283). -/
def State.wrS (s : State) (id : Nat) (d : BitVec 6) (v : DWord) : State := s.updCtx id (·.updRegs (·.setS d v))
/-- h[d] := v for a context. -/
def State.wrH (s : State) (id : Nat) (d : BitVec 5) (v : Handle) : State := s.updCtx id (·.updRegs (·.setH d v))

/-! ### Traps -/

/-- Cause codes (R380). -/
def Cause.illegal : Nat := 0x01
def Cause.misaligned : Nat := 0x02
def Cause.translation : Nat := 0x03
def Cause.fetch : Nat := 0x04
def Cause.fetchIntegrity : Nat := 0x05
def Cause.accInFlight : Nat := 0x06
def Cause.tileMode : Nat := 0x07
def Cause.formatInvalid : Nat := 0x08
def Cause.bufferMode : Nat := 0x09
def Cause.storeWindowFull : Nat := 0x0A
def Cause.loopState : Nat := 0x0B
def Cause.barrierState : Nat := 0x0C
def Cause.queueFormat : Nat := 0x0D
def Cause.trapState : Nat := 0x0E
def Cause.remote : Nat := 0x0F
def Cause.trap : Nat := 0x10
def Cause.sys : Nat := 0x11
def Cause.ringOverrun : Nat := 0x20
def Cause.fillFormat : Nat := 0x21
def Cause.commandFormat : Nat := 0x22
def Cause.rankFenced : Nat := 0x23
def Cause.indeterminate : Nat := 0x24
def Cause.dataError : Nat := 0x25
def Cause.cancelled : Nat := 0x26
def Cause.engineFault : Nat := 0x30
def Cause.brk : Nat := 0x31
def Cause.halt : Nat := 0x32
def Cause.step : Nat := 0x33
def Cause.contextFormat : Nat := 0x40
def Cause.notRestartable : Nat := 0x41
def Cause.rollbackLimit : Nat := 0x42
def Cause.katMismatch : Nat := 0x43

/-- The acting slot raises a precise trap: the first raised in slot order stands (R284), but TRAP and SYS, which follow the whole bundle,
give way to any other (R307). -/
def State.raiseAt (s : State) (cause addr : Nat) (detail : DWord) : State :=
  let t : Trap := { cause := cause, addr := addr, detail := detail, slot := s.issue.slot, straddle := false }
  let s' : State := { s with issue := { s.issue with trap := some t } }
  match s.issue.trap with
  | some u => if u.cause = Cause.trap ∨ u.cause = Cause.sys then s' else s
  | none => s'

/-- A trap without a fault address. -/
def State.raise (s : State) (cause : Nat) (detail : DWord) : State := s.raiseAt cause 0 detail

/-- The acting slot cannot be accepted: its bundle stalls (R237). -/
def State.stall (s : State) : State := { s with issue := { s.issue with stall := true } }

/-- The address of the bundle being issued. -/
def State.pcOf (s : State) (c : Ctx) : Nat := (s.srcRegs c).pc

/-- The address of the next bundle (R298). -/
def State.nextPc (s : State) (c : Ctx) : Nat := s.pcOf c + s.issue.len

/-- A fatal fault (R217, R380): the task issues nothing further and its TASK_FAULT step is due at once. -/
def State.fatal (s : State) (id cause : Nat) (detail : DWord) : State :=
  (s.updCtx id (fun c => { c with isOver := true, trapWait := none })).push 0 id (.taskFault id cause detail.toNat)

/-- Clears every last operation to NOP and every open loop, keeping steps and loop counters (R244, R382). With no loop open, SV and SLEVEL are clear
as DEPTH is (R252). -/
def Sticky.entered (k : Sticky) : Sticky :=
  { k with last := [], cap := [], rsteps := none, lstate := 0, stage := 0 }

/-- The one issue or entry of a debugger's step has taken place: what it issued is waited for, and then the task halts (R390). -/
def State.endStep (s : State) (id : Nat) : State :=
  match s.ctx id with
  | none => s
  | some c =>
    if c.dbg.stepping = true ∧ c.dbg.settling = false then
      (s.setCtx id { c with dbg := { c.dbg with settling := true } }).push 0 (c.coreNo.getD 0) .debugStepEnd
    else s

/-- Trap entry (R382): the saved pc and sticky state, cause, address and detail, IN set, the pc at TVEC; or the fatal fault that
an entry with IN = 1 or TVEC = 0 is. TPC is the context's pc: the trapping bundle, or the next one after TRAP and SYS. -/
def trapEntry (s : State) (id : Nat) (t : Trap) : State :=
  match s.ctx id with
  | none => s
  | some c =>
    let r := c.regs
    if r.inTrap = true ∧ t.cause ≠ Cause.engineFault then s.fatal id t.cause t.detail
    else if r.tvec = 0 then
      match c.xf.fq with
      | f :: _ => if t.cause = Cause.engineFault then s.fatal id f.cause f.detail else s.fatal id t.cause t.detail
      | [] => s.fatal id t.cause t.detail
    else
      let regs : Regs := { r with
        tpc := BitVec.ofNat 64 r.pc
        tcause := BitVec.ofNat 64 (t.cause + b2n t.straddle * 2 ^ 8 + b2n c.dbg.stepping * 2 ^ 9 + t.slot * 2 ^ 16)
        taddr := BitVec.ofNat 64 t.addr
        tdetail := t.detail
        trptc := r.rptc
        rptc := 0
        sv := r.st
        st := r.st.entered
        inTrap := true
        pc := r.tvec.toNat }
      (s.setCtx id { c with trapWait := none, regs := regs }).endStep id

/-- Whether a trap of the context must still wait: an older scalar load has not returned, or an older SCL or PRM operation has not
written (R382). -/
def Ctx.mustWait (c : Ctx) : Bool := !c.ph.memq.isEmpty || !c.eng.prm.isEmpty || !c.eng.scl.isEmpty

/-- The task halts for its debugger with a cause (R389). -/
def Ctx.halted (c : Ctx) (cause : Nat) : Ctx :=
  { c with dbg := { c.dbg with stat := BitVec.ofNat 64 (cause + 2 ^ 8), stepping := false, settling := false } }

/-- A task halts for its debugger (R389); the arbiter may need its core (R391). -/
def haltTask (s : State) (id : Nat) (c : Ctx) (cause : Nat) : State := (s.setCtx id (c.halted cause)).pushOnce 0 0 .preemptRequest

/-- A precise trap is taken: entered at once, or held in `trapWait` until what R382 waits for has landed. An uncorrectable error that a
scalar access consumed (the cause DATA-ERROR here) is no trap: it starts the phase rollback, and nothing issues before that (R405). A BKPT halts the task for its debugger (R307). -/
def takeTrap (s : State) (id : Nat) (t : Trap) : State :=
  match s.ctx id with
  | none => s
  | some c =>
    let c := { c with ph := { c.ph with rem := none } }
    if t.cause = Cause.dataError then
      (s.setCtx id { c with ph := { c.ph with err := true } }).push 0 id (.ueAbortReceive id 0xFF)
    else if t.cause = Cause.brk then haltTask s id c Cause.brk
    else if c.mustWait then s.setCtx id { c with trapWait := some t }
    else trapEntry (s.setCtx id c) id t

/-- Trap return (R384): the saved sticky and loop state, RPTC and pc come back and IN clears. A TPC that is not 4-byte aligned
raises MISALIGNED and restores nothing. -/
def trapReturn (r : Regs) : Option Regs :=
  if r.tpc.toNat % 4 ≠ 0 then none
  else some { r with st := r.sv, rptc := r.trptc, pc := r.tpc.toNat % 2 ^ 56, inTrap := false }

/-! ### Banks (R40, R43, R45) -/

/-- The bank of a slice offset (R40). -/
def bankOf (off : Nat) : Nat := off / 2 ^ 21 % 4 * 8 + off / 2 ^ 6 % 8

/-- An access reaches a bank: an active one notes it, a drowsy one begins to wake, 12 cycles (R43, R45). -/
def touchBank (s : State) (core off : Nat) : State :=
  let b := bankOf off
  match (s.core core).banks.val .gated b with
  | .active _ => s.updCore core fun c => { c with banks := c.banks.set b (.active s.now) }
  | .drowsy => (s.updCore core fun c => { c with banks := c.banks.set b (.waking (s.now + 12)) }).push 12 0 (.bankWake core b)
  | _ => s

/-- The steps by which an access asks for what it waits for: a spilled diversion entry (R399), a walk (R27), the wake of a bank (R45). -/
def Instr.asks : Instr → Bool
  | .diversionFetch => true
  | .walkStart => true
  | .bankWake _ _ => true
  | _ => false

/-- What an access that is undone has asked for still stands: a bank it found asleep wakes (R45). -/
def askStands (s : State) (e : Nat × Nat × Instr) : State :=
  match e.2.2 with
  | .bankWake core b => s.updCore core fun c => { c with banks := c.banks.set b (.waking e.1) }
  | _ => s

/-- A state with what another has asked for: translations of the host (R24), walks (R27), spilled diversion entries (R399), banks that wake
(R45). What is undone does not take back these requests. -/
def State.keepAsks (s s1 : State) : State :=
  let new := s1.agenda.filter (fun e => Instr.asks e.2.2 && !s.agenda.contains e)
  let walkers (t : Tab Die) : Tab Die := (s1.dies.map (·.1)).foldl (fun t k =>
    Tab.set t k { Tab.val Die.reset t k with missq := (s1.die k).missq, walks := (s1.die k).walks }) t
  new.foldl askStands { s with
    ats := s1.ats, out := s1.out
    dies := if new = [] then s.dies else walkers s.dies
    agenda := s.agenda ++ new }

/-- The banks that a stalled bundle found asleep begin to wake. -/
def wakeBanks (s : State) (l : List (Nat × Nat)) : State := l.foldl (fun s p => touchBank s p.1 p.2) s

/-! ### How a slot instruction ends -/

/-- What follows the acting of one slot instruction that stands alone: its trap is taken, its stall leaves the state as it was, a
transfer moves the pc, and otherwise the pc moves to the next bundle. Inside a bundle none of this happens here: the bundle does
it once for all its slots (R284, R237, R299). -/
def settle (s0 s1 : State) (id : Nat) : State :=
  if s0.issue.on then s1
  else
    let back (s : State) : State := { s with issue := s0.issue }
    match s1.issue.trap with
    | some t =>
      if t.cause = Cause.trap ∨ t.cause = Cause.sys then
        takeTrap ((back s1).updCtx id (fun c => { c with regs := { c.regs with pc := c.regs.pc + s0.issue.len } })) id t
      else takeTrap s0 id t
    | none =>
      if s1.issue.sent then back s1
      else if s1.issue.stall then wakeBanks (s0.keepAsks s1) s1.issue.wakes
      else match s1.issue.goto with
        | some a => (back s1).updCtx id (fun c => { c with regs := { c.regs with pc := a } })
        | none => (back s1).updCtx id (fun c => { c with regs := { c.regs with pc := c.regs.pc + s0.issue.len } })

/-- The frame of every slot instruction: it acts for the task on the core whose instruction is read; with no task there, nothing
happens. -/
def slotStep (s : State) (f : Nat → Ctx → State) : Host.Outcome State Fault Refusal :=
  match s.cid with
  | none => .next s
  | some id =>
    match s.ctx id with
    | none => .next s
    | some c => .next (settle s (f id c) id)

/-- Whether the full management map responds (R441, R446). -/
def State.hostReady (s : State) : Bool := s.host.phase = 6

/-- A device step ends: in a next state, or with the fault of a table access to an address no HBM byte has. -/
def fin (s : State) : Host.Outcome State Fault Refusal :=
  match s.bad with
  | some f => .fault f
  | none => .next s

end Sys2Proof.Machine
end

