-- ==== Sys2Proof/Machine/Flags.lean ====
section
/-! DEFINITION. The arithmetic state of a task: FPCTL with its sticky flags (R175, R289), the rounding code of an instruction (R174), and
the stochastic generators (R178, R179). -/

namespace Sys2Proof.Machine

/-- The sticky flags of one operation (R175). -/
structure Flags where
  nv : Bool
  of : Bool
  uf : Bool
  nx : Bool
deriving DecidableEq, Repr

/-- No flag. -/
def Flags.none : Flags := { nv := false, of := false, uf := false, nx := false }
/-- Both sets of flags. -/
def Flags.or (a b : Flags) : Flags := { nv := a.nv || b.nv, of := a.of || b.of, uf := a.uf || b.uf, nx := a.nx || b.nx }

/-- FPCTL with an operation's flags set; they are sticky (R175). -/
def fpFlags (w : DWord) (f : Flags) : DWord :=
  w ||| BitVec.ofNat 64 (b2n f.nv * 2 ^ 11 + b2n f.of * 2 ^ 10 + b2n f.uf * 2 ^ 9 + b2n f.nx * 2 ^ 8)

/-- What a write leaves in FPCTL: reserved bits zero, RM kept when the write names 5, 6 or 7 (R175). -/
def fpWrite (old v : DWord) : DWord :=
  let w := v &&& 0x0F0F
  if 5 ≤ fld v 0 3 then setFld w 0 3 (fld old 0 3) else w

/-- FPCTL.FTZ. -/
def ftzOf (w : DWord) : Bool := bit w 3
/-- FPCTL.RM. -/
def rmOf (w : DWord) : Nat := fld w 0 3

/-- The mode a rounding code names for a destination of `wide` (more than 16 bits): DYN takes FPCTL.RM, and RNE where RM = SR meets a wide
destination (R174). -/
def modeOf (rc : Nat) (fpctl : DWord) (wide : Bool) : Nat :=
  if rc = 5 then if rmOf fpctl = 4 ∧ wide = true then 0 else rmOf fpctl else rc

/-- One step of a generator state (R178). -/
def xorshift (x : DWord) : DWord :=
  let x := x ^^^ (x <<< 13)
  let x := x ^^^ (x >>> 7)
  x ^^^ (x <<< 17)

/-- What a write of a generator state stores: 1 for 0 (R178). -/
def rngStore (v : DWord) : DWord := if v = 0 then 1 else v

/-- The state after n steps from a seed. -/
def xorshiftN : Nat → DWord → DWord
  | 0, x => x
  | n + 1, x => xorshiftN n (xorshift x)

/-- Draw i of the private sequence of seed p (R179). -/
def drawOf (p : DWord) (i : Nat) : Nat := (xorshiftN (i + 1) p).toNat / 2 ^ 48

/-- The first n draws of seed p (R179). -/
def draws : Nat → DWord → List Nat
  | 0, _ => []
  | n + 1, p => (xorshift p).toNat / 2 ^ 48 :: draws n (xorshift p)

end Sys2Proof.Machine
end

