-- ==== Sys2Proof/Machine/Float.lean ====
section
/-! DEFINITION. Number formats and arithmetic (chapter 6): exact values, decoding, one rounding under every mode, and the functions of
R331 computed to far more bits than any destination holds. -/

namespace Sys2Proof.Machine

/-! ### Exact values -/

/-- A value: NaN, an infinity, or ± num / den × 2^exp with den not 0; a zero keeps its sign. -/
inductive Val where
  | nan
  | inf (neg : Bool)
  | fin (neg : Bool) (num den : Nat) (exp : Int)
deriving DecidableEq, Repr

/-- An integer as a value. -/
def Val.ofInt (v : Int) : Val := .fin (decide (v < 0)) v.natAbs 1 0
/-- +0. -/
def Val.zero : Val := .fin false 0 1 0
/-- 2^k. -/
def Val.pow2 (k : Int) : Val := .fin false 1 1 k
/-- Whether it is a zero. -/
def Val.isZero : Val → Bool
  | .fin _ 0 _ _ => true
  | _ => false
/-- Whether it is a NaN. -/
def Val.isNan : Val → Bool
  | .nan => true
  | _ => false
/-- The sign. -/
def Val.neg? : Val → Bool
  | .nan => false
  | .inf n => n
  | .fin n _ _ _ => n
/-- The value negated. -/
def Val.negate : Val → Val
  | .nan => .nan
  | .inf n => .inf (!n)
  | .fin n a d e => .fin (!n) a d e
/-- The magnitude. -/
def Val.abs : Val → Val
  | .nan => .nan
  | .inf _ => .inf false
  | .fin _ a d e => .fin false a d e

/-- Two to an integer power as a fraction. -/
def pow2Frac (e : Int) : Nat × Nat := if 0 ≤ e then (2 ^ e.toNat, 1) else (1, 2 ^ (-e).toNat)

/-- The signed numerator of a finite value over den × 2^(exp − e), for a common exponent e not above exp. -/
def scaleNum (neg : Bool) (num : Nat) (exp e : Int) : Int :=
  let n : Int := (num * 2 ^ (exp - e).toNat : Nat)
  if neg then -n else n

/-- The exact sum; opposite infinities give NaN; an exact zero is +0 unless both are −0 or, under RDN, either or the sum is a
cancellation (R176). -/
def Val.add (mode : Nat) : Val → Val → Val
  | .nan, _ => .nan
  | _, .nan => .nan
  | .inf a, .inf b => if a = b then .inf a else .nan
  | .inf a, _ => .inf a
  | _, .inf b => .inf b
  | .fin na a da ea, .fin nb b db eb =>
    if a = 0 ∧ b = 0 then .fin (if mode = 3 then na || nb else na && nb) 0 1 0
    else if a = 0 then .fin nb b db eb
    else if b = 0 then .fin na a da ea
    else
      let e := min ea eb
      let n := scaleNum na (a * db) ea e + scaleNum nb (b * da) eb e
      if n = 0 then .fin (decide (mode = 3)) 0 1 0 else .fin (decide (n < 0)) n.natAbs (da * db) e

/-- The exact product; 0 × ∞ is NaN (R176). -/
def Val.mul : Val → Val → Val
  | .nan, _ => .nan
  | _, .nan => .nan
  | .inf a, .inf b => .inf (a != b)
  | .inf a, .fin nb b _ _ => if b = 0 then .nan else .inf (a != nb)
  | .fin na a _ _, .inf b => if a = 0 then .nan else .inf (na != b)
  | .fin na a da ea, .fin nb b db eb => .fin (na != nb) (a * b) (da * db) (ea + eb)

/-- The exact quotient by a finite non-zero value. -/
def Val.div : Val → Val → Val
  | .fin na a da ea, .fin nb b db eb => if b = 0 then .nan else .fin (na != nb) (a * db) (da * b) (ea - eb)
  | .inf a, .fin nb _ _ _ => .inf (a != nb)
  | _, _ => .nan

/-- Compares two values that are no NaN: −0 equals +0. -/
def Val.lt : Val → Val → Bool
  | .nan, _ => false
  | _, .nan => false
  | .inf a, .inf b => a && !b
  | .inf a, _ => a
  | _, .inf b => !b
  | .fin na a da ea, .fin nb b db eb =>
    let e := min ea eb
    decide (scaleNum na (a * db) ea e < scaleNum nb (b * da) eb e)

/-- Equality of values, −0 equal to +0; a NaN equals nothing. -/
def Val.eq (a b : Val) : Bool := !a.isNan && !b.isNan && !a.lt b && !b.lt a

/-- Minimum or maximum with −0 below +0; a NaN gives NaN (R167). -/
def Val.minMax (max : Bool) (a b : Val) : Val :=
  if a.isNan || b.isNan then .nan
  else
    let aLess := a.lt b || (a.eq b && a.neg? && !b.neg?)
    if aLess = max then b else a

/-! ### Floating formats (R165) -/

/-- A floating element format: exponent bits, fraction bits, bias, and its specials: 0 IEEE, 1 E4M3, 2 E2M1. -/
structure FloatFmt where
  e : Nat
  f : Nat
  bias : Nat
  kind : Nat
deriving DecidableEq, Repr

def fp32 : FloatFmt := { e := 8, f := 23, bias := 127, kind := 0 }
def bf16 : FloatFmt := { e := 8, f := 7, bias := 127, kind := 0 }
def fp16 : FloatFmt := { e := 5, f := 10, bias := 15, kind := 0 }
def e4m3 : FloatFmt := { e := 4, f := 3, bias := 7, kind := 1 }
def e5m2 : FloatFmt := { e := 5, f := 2, bias := 15, kind := 0 }
def e2m1 : FloatFmt := { e := 2, f := 1, bias := 1, kind := 2 }

/-- The bits of an element. -/
def FloatFmt.width (p : FloatFmt) : Nat := 1 + p.e + p.f
/-- Least normal exponent. -/
def FloatFmt.emin (p : FloatFmt) : Int := 1 - p.bias
/-- Fields packed. -/
def FloatFmt.pack (p : FloatFmt) (neg : Bool) (ef frac : Nat) : Nat := b2n neg * 2 ^ (p.e + p.f) + ef * 2 ^ p.f + frac
/-- The generated NaN (R165); +0 for E2M1, which has none (R180). -/
def FloatFmt.nan (p : FloatFmt) : Nat :=
  match p.kind with
  | 0 => p.pack false (2 ^ p.e - 1) (2 ^ (p.f - 1))
  | 1 => 0x7F
  | _ => 0
/-- The exponent field and fraction of the largest finite value. -/
def FloatFmt.top (p : FloatFmt) : Nat × Nat :=
  match p.kind with
  | 0 => (2 ^ p.e - 2, 2 ^ p.f - 1)
  | 1 => (15, 6)
  | _ => (3, 1)
/-- The largest finite value of a sign. -/
def FloatFmt.largest (p : FloatFmt) (neg : Bool) : Nat := p.pack neg p.top.1 p.top.2
/-- What stands for an infinity, or for a magnitude above the largest finite (R176, R180). -/
def FloatFmt.overflow (p : FloatFmt) (neg sat : Bool) : Nat :=
  match p.kind with
  | 0 => if p.width = 8 ∧ sat = true then p.largest neg else p.pack neg (2 ^ p.e - 1) 0
  | 1 => if sat then p.largest neg else 0x7F + b2n neg * 2 ^ 7
  | _ => p.largest neg

/-- The value of an element's bits (R165). -/
def FloatFmt.decode (p : FloatFmt) (w : Nat) : Val :=
  let neg := decide (w / 2 ^ (p.e + p.f) % 2 = 1)
  let ef := w / 2 ^ p.f % 2 ^ p.e
  let fr := w % 2 ^ p.f
  if p.kind = 0 ∧ ef = 2 ^ p.e - 1 then if fr = 0 then .inf neg else .nan
  else if p.kind = 1 ∧ ef = 15 ∧ fr = 7 then .nan
  else if ef = 0 then .fin neg fr 1 (p.emin - p.f)
  else .fin neg (2 ^ p.f + fr) 1 (ef - p.bias - p.f)

/-! ### Rounding (R174, R176, R177) -/

/-- ⌊log2 (num / den)⌋ for num, den not 0. -/
def ilog2 (num den : Nat) : Int :=
  let d : Int := (num.log2 : Int) - den.log2
  let (p, q) := pow2Frac d
  if den * p ≤ num * q then d else d - 1

/-- num / den × 2^exp in units of 2^u, rounded in a mode for a sign, with a stochastic draw; whether it was inexact (R176, R177). -/
def roundUnits (mode : Nat) (neg : Bool) (draw num den : Nat) (exp u : Int) : Nat × Bool :=
  let (p, q) := pow2Frac (exp - u)
  let n := num * p
  let d := den * q
  let k := n / d
  let r := n % d
  let up := match mode with
    | 0 => decide (d < 2 * r) || (decide (2 * r = d) && decide (k % 2 = 1))
    | 2 => decide (r ≠ 0) && !neg
    | 3 => decide (r ≠ 0) && neg
    | _ => false
  if mode = 4 then ((n * 2 ^ 16 / d + draw) / 2 ^ 16, decide (r ≠ 0)) else (k + b2n up, decide (r ≠ 0))

/-- Rounds a value once to a format and applies the end rules of R176 and R180; the flags are those a scalar instruction sets (R175). -/
def FloatFmt.encodeF (p : FloatFmt) (mode : Nat) (sat ftz : Bool) (draw : Nat) : Val → Nat × Flags
  | .nan => (p.nan, Flags.none)
  | .inf neg => (p.overflow neg sat, Flags.none)
  | .fin neg num den exp =>
    if num = 0 then (p.pack neg 0 0, Flags.none)
    else
      let e0 := ilog2 num den + exp
      let u := max e0 p.emin - p.f
      let (k0, inexact) := roundUnits mode neg draw num den exp u
      let (k, u) := if k0 = 2 ^ (p.f + 1) then (2 ^ p.f, u + 1) else (k0, u)
      let ef := (u + p.f + p.bias).toNat
      if 2 ^ p.f ≤ k ∧ (p.top.1 < ef ∨ (ef = p.top.1 ∧ p.top.2 < k - 2 ^ p.f)) then
        let toward := decide (mode = 1) || (decide (mode = 3) && !neg) || (decide (mode = 2) && neg)
        (if toward then p.largest neg else p.overflow neg sat, { Flags.none with of := true, nx := true })
      else if k < 2 ^ p.f then
        let (k2, _) := roundUnits mode neg draw num den exp (e0 - p.f)
        let tiny := decide (e0 + 1 < p.emin) || (decide (e0 < p.emin) && decide (k2 < 2 ^ (p.f + 1)))
        if ftz = true ∧ k ≠ 0 then (p.pack neg 0 0, { Flags.none with uf := true, nx := true })
        else (p.pack neg 0 k, { Flags.none with uf := inexact && tiny, nx := inexact })
      else
        let (k2, _) := roundUnits mode neg draw num den exp (e0 - p.f)
        let tiny := decide (e0 < p.emin) && decide (k2 < 2 ^ (p.f + 1))
        (p.pack neg ef (k - 2 ^ p.f), { Flags.none with uf := inexact && tiny, nx := inexact })

/-- The same without flags: engines set none (R175). -/
def FloatFmt.encode (p : FloatFmt) (mode : Nat) (sat ftz : Bool) (draw : Nat) (v : Val) : Nat := (p.encodeF mode sat ftz draw v).1

/-- One FP32 rounding, RNE. -/
def round32 (ftz : Bool) (v : Val) : Nat := fp32.encode 0 false ftz 0 v

/-- A value rounded to an integer of a width, with saturation; NaN gives 0; NV for both, NX when inexact (R181). -/
def toIntF (mode draw bits : Nat) (isSigned : Bool) : Val → Int × Flags
  | .nan => (0, { Flags.none with nv := true })
  | .inf neg =>
    (if neg then (if isSigned then -(2 ^ (bits - 1) : Int) else 0) else if isSigned then 2 ^ (bits - 1) - 1 else 2 ^ bits - 1,
      { Flags.none with nv := true })
  | .fin neg num den exp =>
    let (k, inexact) := roundUnits mode neg draw num den exp 0
    let v : Int := if neg then -(k : Int) else k
    let lo : Int := if isSigned then -(2 ^ (bits - 1)) else 0
    let hi : Int := if isSigned then 2 ^ (bits - 1) - 1 else 2 ^ bits - 1
    if v < lo then (lo, { Flags.none with nv := true })
    else if hi < v then (hi, { Flags.none with nv := true })
    else (v, { Flags.none with nx := inexact })

/-- An integer narrowed to a width: saturated, or wrapped (R181). -/
def narrowInt (bits : Nat) (sat : Bool) (v : Int) : Int :=
  if sat then max (-(2 ^ (bits - 1))) (min (2 ^ (bits - 1) - 1) v) else signed bits (wrap bits v)

/-! ### Element formats by code (R163) -/

/-- The floating format of a code, the MX element formats included. -/
def floatOf : Nat → Option FloatFmt
  | 0x08 => some fp32
  | 0x09 => some bf16
  | 0x0A => some fp16
  | 0x10 => some e4m3
  | 0x11 => some e5m2
  | 0x12 => some e2m1
  | 0x18 => some e4m3
  | 0x19 => some e5m2
  | 0x1A => some e2m1
  | 0x1B => some e2m1
  | _ => none

/-- The width of an integer format. -/
def intOf : Nat → Option Nat
  | 0x01 => some 8
  | 0x02 => some 32
  | 0x03 => some 64
  | _ => none

/-- The bits of an element of a format code; none for a reserved code (R163). -/
def fmtBits : Nat → Option Nat
  | 0x00 => some 8
  | 0x01 => some 8
  | 0x02 => some 32
  | 0x03 => some 64
  | 0x08 => some 32
  | 0x09 => some 16
  | 0x0A => some 16
  | 0x10 => some 8
  | 0x11 => some 8
  | 0x12 => some 4
  | 0x13 => some 8
  | 0x18 => some 8
  | 0x19 => some 8
  | 0x1A => some 4
  | 0x1B => some 4
  | 0x20 => some 64
  | _ => none

/-- Whether the code has a scale plane, an index plane or a band plane (R163, R172). -/
def isMx (fmt : Nat) : Bool := fmt = 0x18 || fmt = 0x19 || fmt = 0x1A
def isSx4 (fmt : Nat) : Bool := fmt = 0x1B

/-- The value of an element: floats, integers, E8M0 (R165, R168, R173); a BYTE reads as an unsigned integer. -/
def elemVal (fmt w : Nat) : Val :=
  match floatOf fmt with
  | some p => p.decode w
  | none => match intOf fmt with
    | some n => Val.ofInt (signed n w)
    | none => if fmt = 0x13 then if w = 0xFF then .nan else Val.pow2 ((w : Int) - 127) else Val.ofInt w

/-- A value written in a format: one rounding to a float, or to an integer with saturation (R176 to R181); E8M0 takes the nearest power
of two that is not below (its use is in R190). -/
def elemEnc (fmt mode : Nat) (sat ftz : Bool) (draw : Nat) (v : Val) : Nat :=
  match floatOf fmt with
  | some p => p.encode mode sat ftz draw v
  | none => match intOf fmt with
    | some n => wrap n (toIntF mode draw n true v).1
    | none => match v with
      | .fin _ num den exp => if num = 0 then 0 else (max 0 (min 254 (ilog2 num den + exp + 127))).toNat
      | .inf _ => 254
      | .nan => 0xFF

/-- The value of an E3M5 scale-table entry (R169). -/
def e3m5 (b : Byte) : Val :=
  let e := b.toNat / 32
  let m := b.toNat % 32
  if e = 0 then .fin false m 1 (-7) else .fin false (32 + m) 1 ((e : Int) - 8)

/-- The value of an E8M0 scale (R168). -/
def e8m0 (b : Byte) : Val := if b = 0xFF then .nan else Val.pow2 ((b.toNat : Int) - 127)

/-! ### Functions (R331): exact values, or far more bits than a destination holds with the rest marked as not zero -/

/-- A positive number known to lie strictly between n and n + 1 in units of 2^(−s). -/
def between (neg : Bool) (n : Nat) (s : Nat) : Val := .fin neg (2 * n + 1) 1 (-(s : Int) - 1)

/-- 1 / v. -/
def valRcp : Val → Val
  | .nan => .nan
  | .inf n => .fin n 0 1 0
  | .fin n num den exp => if num = 0 then .inf n else .fin n den num (-exp)

/-- 1 / √v. -/
def valRsq : Val → Val
  | .nan => .nan
  | .inf n => if n then .nan else Val.zero
  | .fin n num den exp =>
    if num = 0 then .inf n
    else if n then .nan
    else
      let (num, exp) := if exp % 2 = 0 then (num, exp) else (num * 2, exp - 1)
      let k := num.log2 + 100
      let big := den * 2 ^ (2 * k) / num
      let q := big.sqrt
      if q * q * num = den * 2 ^ (2 * k) then .fin false q 1 (-(k : Int) - exp / 2)
      else .fin false (2 * q + 1) 1 (-(k : Int) - exp / 2 - 1)

/-- Fixed-point working precision. -/
def fxBits : Nat := 320

/-- Σ x^(2i+1) / (2i+1) for i below n, in fixed point: atanh x. -/
def atanhFx (x : Nat) : Nat → Nat → Nat → Nat
  | 0, _, _ => 0
  | n + 1, i, t => t / (2 * i + 1) + atanhFx x n (i + 1) (t * x / 2 ^ fxBits * x / 2 ^ fxBits)

/-- ln 2 in fixed point. -/
def ln2Fx : Nat := 2 * atanhFx (2 ^ fxBits / 3) 110 0 (2 ^ fxBits / 3)

/-- e^x for 0 ≤ x < 1 in fixed point. -/
def expFx (x : Nat) : Nat → Nat → Nat → Nat
  | 0, _, t => t
  | n + 1, i, t => t + expFx x n (i + 1) (t * x / 2 ^ fxBits / i)

/-- e^x, or 2^x (R331). -/
def valExp (base2 : Bool) : Val → Val
  | .nan => .nan
  | .inf n => if n then Val.zero else .inf false
  | .fin neg num den exp =>
    let (p, q) := pow2Frac exp
    let n := num * p
    let d := den * q
    if num = 0 then Val.ofInt 1
    else if 2000 * d < n then if neg then between false 0 4000 else .fin false 1 1 4000
    else if base2 = true ∧ n % d = 0 then Val.pow2 (if neg then -((n / d : Nat) : Int) else (n / d : Nat))
    else
      let ax := if base2 then n * ln2Fx / d else n * 2 ^ fxBits / d
      let x : Int := if neg then -(ax : Int) - 1 else ax
      let k := x / (ln2Fx : Int)
      let r := (x % (ln2Fx : Int)).toNat
      .fin false (2 * expFx r 90 1 (2 ^ fxBits) + 1) 1 (k - fxBits - 1)

/-- log2 v (R331). -/
def valLog2 : Val → Val
  | .nan => .nan
  | .inf n => if n then .nan else .inf false
  | .fin neg num den exp =>
    if num = 0 then .inf true
    else if neg then .nan
    else
      let e := ilog2 num den
      let (p, q) := pow2Frac (-e)
      let a := num * p
      let b := den * q
      if a = b then Val.ofInt (e + exp)
      else
        let x := (a - b) * 2 ^ fxBits / (a + b)
        let l := 2 * atanhFx x 110 0 x
        let f : Int := (l * 2 ^ fxBits / ln2Fx : Nat)
        let t : Int := (e + exp) * 2 ^ fxBits + f
        .fin (decide (t < 0)) (2 * t + 1).natAbs 1 (-(fxBits : Int) - 1)

end Sys2Proof.Machine
end

