-- ==== Sys2Proof/Machine/Regions.lean ====
section
/-! DEFINITION. The effective settings of a region, its pools and what they are charged (R193 to R196, R210, R211). -/

namespace Sys2Proof.Machine

/-! ### Settings (R193 to R196) -/

/-- Dword k of a region's RCB as last read. -/
def State.rcb (s : State) (r k : Nat) : DWord := ((s.arb.regions.look r).elim [] (·.rcb)).getD k 0

/-- The parent a region names (R193). -/
def State.parentOf (s : State) (r : Nat) : Nat := if r = 0 then 0 else fld (s.rcb r 0) 24 16

/-- The region on the path to region 0 whose own fields of an inheritance group apply (R195). -/
def State.ownerOf (s : State) (bitNo : Nat) : Nat → Nat → Nat
  | 0, r => r
  | fuel + 1, r => if r = 0 ∨ bit (s.rcb r 1) bitNo = true then r else s.ownerOf bitNo fuel (s.parentOf r)

/-- A bound on the length of a path to region 0. -/
def State.depth (s : State) : Nat := s.arb.regions.length + 1

/-- The effective world (R195, R196). -/
def State.worldOf (s : State) (r : Nat) : Nat := fld (s.rcb (s.ownerOf 1 s.depth r) 0) 17 3

/-- The settings a translation uses (R18, R23, R24, R32). -/
structure Env where
  region : Nat
  world : Nat
  asn : Nat
  root : Nat
  pasid : Nat
  pairBase : Nat
  pairSize : Nat
  wintab : Nat
deriving DecidableEq, Repr

/-- The effective settings of a region. -/
def State.envOf (s : State) (r : Nat) : Env :=
  let p := s.ownerOf 4 s.depth r
  let q := s.ownerOf 5 s.depth r
  let w := s.ownerOf 6 s.depth r
  { region := r, world := s.worldOf r, asn := fld (s.rcb p 2) 48 16, root := fld (s.rcb p 2) 13 27 * 2 ^ 13,
    pasid := fld (s.rcb p 3) 0 20, pairBase := fld (s.rcb q 4) 4 36 * 16, pairSize := fld (s.rcb q 5) 0 32,
    wintab := fld (s.rcb w 6) 12 28 * 2 ^ 12 }

/-- Whether region r is region a or has it on its path (R16). -/
def State.descends (s : State) (a : Nat) : Nat → Nat → Bool
  | 0, r => r = a
  | fuel + 1, r => if r = a then true else if r = 0 then false else s.descends a fuel (s.parentOf r)

/-- The effective priority: the smaller of the own PRIO and the parent's (R196). -/
def State.prioOf (s : State) : Nat → Nat → Nat
  | 0, _ => 0
  | fuel + 1, r =>
    let own := fld (s.rcb r 0) 20 4
    if r = 0 then own
    else
      let up := s.prioOf fuel (s.parentOf r)
      if bit (s.rcb r 1) 0 then Nat.min own up else up

/-- The effective mask as a number, bit c for core c: an own mask is ANDed with the parent's (R196). -/
def State.maskOf (s : State) : Nat → Nat → Nat
  | 0, _ => 0
  | fuel + 1, r =>
    let own := ((List.range 5).map (fun k => (s.rcb r (16 + k)).toNat * 2 ^ (64 * k))).foldl (· + ·) 0 % 2 ^ 288
    if r = 0 then own
    else
      let up := s.maskOf fuel (s.parentOf r)
      if bit (s.rcb r 1) 7 then own &&& up else up

/-- The effective fault domain (R195). -/
def State.fdomOf (s : State) (r : Nat) : Nat := fld (s.rcb (s.ownerOf 2 s.depth r) 0) 11 6
/-- The effective CAP (R195). -/
def State.capOf (s : State) (r : Nat) : Bool := bit (s.rcb (s.ownerOf 3 s.depth r) 0) 2
/-- STOP, which is a region's own (R193). -/
def State.stopOf (s : State) (r : Nat) : Bool := bit (s.rcb r 0) 1
/-- Whether a region is valid: it has been created and not destroyed. -/
def State.regionLive (s : State) (r : Nat) : Bool := (s.arb.regions.look r).isSome

/-! ### Pools (R196, R210, R211) -/

/-- The regions whose own pool of a budget group lies on the path of a region: INHERIT bits 8 to 11 (R196). -/
def State.pools (s : State) (bitNo : Nat) : Nat → Nat → List Nat
  | 0, _ => []
  | fuel + 1, r =>
    if r = 0 then [0]
    else (if bit (s.rcb r 1) bitNo then [r] else []) ++ s.pools bitNo fuel (s.parentOf r)

/-- Every pool of a group on a region's path is charged (R196). -/
def State.charge (s : State) (bitNo r : Nat) (f : Region → Region) : State :=
  if s.arb.regions.isEmpty then s
  else
    let l := s.pools bitNo s.depth r
    { s with arb := { s.arb with regions := Tab.each (fun k x => if l.contains k then f x else x) s.arb.regions } }

/-- Core time: one token per cycle that a core holds a task of the region (R210). -/
def State.chargeCore (s : State) (r n : Nat) : State := s.charge 8 r (fun x => { x with coreTok := x.coreTok - n })
/-- Accesses at memory controllers (R210). -/
def State.chargeHbm (s : State) (r n : Nat) : State := s.charge 9 r (fun x => { x with hbmTok := x.hbmTok - n })
/-- Bytes sent on a port, one token per 64 (R210). -/
def State.chargeFab (s : State) (r n : Nat) : State := s.charge 10 r (fun x => { x with fabTok := x.fabTok - (n + 63) / 64 })

/-- Energy, in W × cycles: a power pool that has gone below zero throttles until its next period (R210, R211). -/
def State.chargePower (s : State) (r n : Nat) : State :=
  s.charge 11 r (fun x => { x with powTok := x.powTok - n, powThrottle := x.powThrottle || decide (x.powTok < n) })

/-- Whether some HBM pool of a region's path is exhausted and its budgets are hard caps: its requests wait for the next period (R211). -/
def State.hbmHeld (s : State) (r : Nat) : Bool :=
  s.capOf r && (s.pools 9 s.depth r).any (fun k => (s.arb.regions.look k).any (fun x => decide (x.hbmTok ≤ 0)))
/-- The same of its fabric pools (R211). -/
def State.fabHeld (s : State) (r : Nat) : Bool :=
  s.capOf r && (s.pools 10 s.depth r).any (fun k => (s.arb.regions.look k).any (fun x => decide (x.fabTok ≤ 0)))

/-- Whether every core pool of a region's path has tokens left (R211). -/
def State.funded (s : State) (r : Nat) : Bool :=
  (s.pools 8 s.depth r).all (fun k => (s.arb.regions.look k).any (fun x => decide (0 < x.coreTok)))

/-- Whether a power pool of a region's path is exhausted (R211). -/
def State.overPower (s : State) (r : Nat) : Bool :=
  (s.pools 11 s.depth r).any (fun k => (s.arb.regions.look k).any (·.powThrottle))

end Sys2Proof.Machine
end

