-- ==== Sys2Proof/Machine/Home.lean ====
section
/-! DEFINITION. The homes: the routes between dies (R73, R435), memory controllers with their worlds, code and symbol code (R76, R415, R416, R420, R426 to R428), the
banks of the slices (R40 to R45, R429), host memory (R80) and the error log (R430, R431). -/

namespace Sys2Proof.Machine

/-- Who makes an access: the die it comes from (4 the Midfield die), its world and region, its core (0x1FF for none), the REQ code of
error records (R430), and whether it opens CODE ranges: fetches and scalar loads do (R420). -/
structure Who where
  die : Nat
  world : Nat
  region : Nat
  core : Nat
  req : Nat
  opens : Bool
deriving DecidableEq, Repr

/-- How a home answers: performed; not performed, because the range belongs to another world or to code (R416, R420); an abort
(R428, R429, R435); a code tag that failed, with the first byte of its block (R420); not yet, because its bank wakes (R45). -/
inductive Ans (α : Type) where
  | ok (v : α)
  | denied
  | abort
  | tag (block : Nat)
  | asleep
deriving DecidableEq, Repr

/-- The answer's value changed. -/
def Ans.map {α β : Type} (f : α → β) : Ans α → Ans β
  | .ok v => .ok (f v)
  | .denied => .denied
  | .abort => .abort
  | .tag b => .tag b
  | .asleep => .asleep

/-! ### Routes (R73, R434, R435) -/

/-- The die links a packet crosses between two dies, 4 being the Midfield die (R73, numbered as R434). -/
def routeLinks (a b : Nat) : List Nat :=
  if a = b then []
  else if a = 4 then [b]
  else if b = 4 then [a]
  else match min a b, max a b with
    | 0, 1 => [4]
    | 1, 3 => [5]
    | 2, 3 => [6]
    | 0, 2 => [7]
    | _, _ => [a, b]

/-- Whether every link of the route works. -/
def State.routeUp (s : State) (a b : Nat) : Bool := s.linksDown.isEmpty || (routeLinks a b).all (fun l => !decide (l ∈ s.linksDown))

/-- The compute die that holds an HBM address: two stacks of 64 pseudo-channels each (R1). -/
def hbmDie (line : Nat) : Nat := Config.pseudoChannel (line * 64) / 128 % 4

/-- Whether a requester reaches the controller of a line: no failed pseudo-channel, no failed link on the route (R434, R435). -/
def State.hbmReach (s : State) (die line : Nat) : Bool :=
  (s.pchs.isEmpty || !(s.pch (Config.pseudoChannel (line * 64))).pcfail) && (s.linksDown.isEmpty || s.routeUp die (hbmDie line))

/-! ### Worlds and ciphertext (R415, R416, R420) -/

/-- The protected range of an address: its world, whether it holds code, its base, TAGBASE and GEN. -/
def State.rangeOf (s : State) (pa : Nat) : Option (Nat × Bool × Nat × Nat × Nat) :=
  s.gecko.worlds.findSome? fun (w, rec) =>
    rec.ranges.findSome? fun (_, a, b, g) =>
      let base := fld a 40 24 * 2 ^ 16
      let size := fld a 16 24 * 2 ^ 16
      if bit a 0 && decide (base ≤ pa) && decide (pa < base + size) then
        some (w, bit a 1, base, fld b 4 36 * 16, fld g 0 32)
      else none

/-- The key a line is read and written under: the XTS key of its range's world, or 0 outside every range. -/
def State.keyAt (s : State) (pa : Nat) : Nat :=
  match s.rangeOf pa with
  | some (w, false, _) => (s.gecko.worlds.look w).elim 0 (·.xts)
  | _ => 0

/-- The 64 stored bytes of a line as the key now in force shows them: as written under that key, or what Config gives for another. -/
def State.lineView (s : State) (line : Nat) : List Byte :=
  let raw := s.bytesAt (line * 64) 64
  let want := s.keyAt (line * 64)
  let have_ := s.keyed.val 0 line
  if want = have_ then raw
  else leBytes 64 (Config.otherKey want have_ line (BitVec.ofNat 512 (leNat raw))).toNat

/-- Some bytes of a line, given as (offset, byte), stored under the key in force there; the rest of a line stored under another key keeps the
value that key shows (R416). -/
def State.putLine (s : State) (line : Nat) (upd : List (Nat × Byte)) : State :=
  let key := s.keyAt (line * 64)
  let m := if key = s.keyed.val 0 line ∨ upd.length = 64 then s.mem else Memory.putAll s.mem (line * 64) (s.lineView line)
  { s with
    mem := upd.foldl (fun m (p : Nat × Byte) => Memory.put m (line * 64 + p.1) p.2) m
    keyed := s.keyed.put 0 line key }

/-- The lines that a run of bytes touches, with the bytes of each as (offset, byte). -/
def lineRuns : Nat → Nat → List Byte → List (Nat × List (Nat × Byte))
  | 0, _, _ => []
  | fuel + 1, a, bs =>
    if bs = [] then []
    else
      let n := 64 - a % 64
      (a / 64, (bs.take n).zipIdx.map (fun (b, i) => (a % 64 + i, b))) :: lineRuns fuel (a + n) (bs.drop n)

/-! ### Interrupts and error records -/

/-- An MSI-X message: sent, or held pending while its vector is masked (R440). -/
def State.msix (s : State) (v : Nat) : State :=
  if v ∈ s.host.masked then
    { s with host := { s.host with pend := if v ∈ s.host.pend then s.host.pend else v :: s.host.pend } }
  else { s with host := { s.host with sent := v :: s.host.sent } }

/-- Whether bytes of HBM may be accessed for a world: none lies in a range of another world, or in one of code (R416, R420). -/
def State.devMay (s : State) (world pa n : Nat) : Bool :=
  s.gecko.worlds.all fun (w, rec) => rec.ranges.all fun (_, a, _, _) =>
    let base := fld a 40 24 * 2 ^ 16
    !bit a 0 || decide (base + fld a 16 24 * 2 ^ 16 ≤ pa ∨ pa + n ≤ base) || (decide (w = world) && !bit a 1)

/-- The dispatchers and context engines as a requester for a region, in its world (R416). -/
def State.whoRegion (s : State) (r die : Nat) : Who :=
  { die := die, world := s.worldOf r, region := r, core := 0x1FF, req := 1, opens := false }
/-- A context engine that saves or restores a context, in its world (R416). -/
def Ctx.whoImage (c : Ctx) : Who := { die := 4, world := c.who.world, region := c.who.region, core := 0x1FF, req := 4, opens := false }
/-- The device for itself, and the host, in world 0 (R416). -/
def whoDevice : Who := { die := 4, world := 0, region := 0, core := 0x1FF, req := 7, opens := false }

/-- An access at a memory controller of some lines is charged to the region it is made for (R210); scrubbing and the host have no region. -/
def State.served (s : State) (w : Who) (n : Nat) : State := if w.req < 5 then s.chargeHbm w.region n else s

/-- The 64-byte lines that n bytes from pa touch. -/
def linesOf (pa n : Nat) : Nat := (pa % 64 + n + 63) / 64

/-- Bytes the device writes to HBM at a physical address it holds in a register. A line that the requester's world may not access is not written
(R416). An address of 2^39 or more has no byte (R1): the step ends in the fault tableOutsideHbm. -/
def State.devWrite (s : State) (w : Who) (pa : Nat) (bs : List Byte) : State :=
  if pa + bs.length ≤ 2 ^ 39 then
    let put (s : State) (p : Nat × List (Nat × Byte)) : State := if s.devMay w.world (p.1 * 64) 64 then s.putLine p.1 p.2 else s
    (lineRuns (bs.length / 64 + 2) pa bs).foldl put (s.served w (linesOf pa bs.length))
  else { s with bad := some .tableOutsideHbm }

/-- Bytes the device reads from HBM at a physical address it holds in a register; none of them when the requester's world may not access them
(R416): an entry of a table is then invalid, and who reads more than a table asks devMay. -/
def State.devRead (s : State) (w : Who) (pa n : Nat) : State × List Byte :=
  if pa + n ≤ 2 ^ 39 then
    let bs := if s.devMay w.world pa n then (((span (pa / 64) (linesOf pa n)).flatMap s.lineView).drop (pa % 64)).take n else List.replicate n 0
    (s.served w (linesOf pa n), bs)
  else ({ s with bad := some .tableOutsideHbm }, List.replicate n 0)

/-- One of the device's tables' double words. -/
def State.devDword (s : State) (w : Who) (pa : Nat) : State × DWord :=
  let (s, bs) := s.devRead w pa 8
  (s, dwordAt bs 0)

/-- Adds with saturation. -/
def satAdd (bits a b : Nat) : Nat := min (a + b) (2 ^ bits - 1)

/-- Writes one error record in a die's log when EN = 1, the ring has room and, for a corrected error, CERATE allows it; otherwise an
uncorrected one counts in LOST. Then the error interrupt, for a corrected error only with CEINT = 1 (R430, R431). A record is charged to the TELE budget of the
controller that writes it (R436). -/
def logError (s : State) (d cls req core pa region dw1 : Nat) (detail : DWord) (corrected : Bool) : State :=
  let e := s.die d
  let ms := s.now / (1000 * usCycles)
  let used := if e.ceMs = ms then e.ceThisMs else 0
  let size := 2 ^ (e.loglog + 8)
  let allowed := !corrected || decide (used < e.cerate)
  let room := e.en && decide ((e.logTail + 2 ^ 32 - e.logHead) % 2 ^ 32 < size)
  if !allowed then s
  else
    let s :=
      if room then
        let rec0 := cls * 2 ^ 56 + req * 2 ^ 52 + core * 2 ^ 43 + pa % 2 ^ 40
        let rec1 := region * 2 ^ 48 + dw1
        let bytes := leBytes 8 rec0 ++ leBytes 8 rec1 ++ leBytes 8 (s.now - e.releasedAt) ++ leBytes 8 detail.toNat
        let at_ := e.logbase + 32 * (e.logTail % size)
        let pc := Config.pseudoChannel at_
        (s.devWrite whoDevice at_ bytes).updDie d fun e =>
          { e with teleTok := e.teleTok.set pc (e.teleTok.val (e.teleB : Int) pc - 1), logTail := (e.logTail + 1) % 2 ^ 32, ceMs := ms, ceThisMs := if corrected then used + 1 else used }
      else s.updDie d fun e => { e with lost := satAdd 14 e.lost 1 }
    if !corrected || e.ceint then s.msix 0 else s

/-! ### The symbol code (R426 to R428) -/

/-- The outcome of decoding a line: no error; corrected, with the positions and symbol counts; uncorrectable, with its first failing
position; more errors than the code corrects, read as Config says (R426). -/
inductive Decode where
  | clean
  | corrected (errs : List (Nat × Nat))
  | bad (cw pos : Nat)
deriving DecidableEq, Repr

/-- The erasure entries of a pseudo-channel that match a line (R427). -/
def erasureMatches (p : Pch) (pa : Nat) : List Erasure :=
  (p.erasures.map (·.2)).filter fun e =>
    e.v && decide (e.pos ≤ 35) && decide (e.sid = Config.stackId pa) &&
      (decide (e.scope = 0) || decide (e.bank = Config.hbmBank pa) && (decide (e.scope = 1) ||
        decide (e.scope = 2) && decide (e.row = Config.hbmRow pa)))

/-- The erasure positions that a codeword of a line is decoded with: none of them when more than four match (R426). -/
def State.erased (s : State) (line j : Nat) : List Nat :=
  let er := (((erasureMatches (s.pch (Config.pseudoChannel (line * 64))) (line * 64)).filter (·.cw = j)).map (·.pos)).eraseDups
  if er.length ≤ 4 then er else []

/-- Whether a codeword with errors at these positions is corrected: 2e + f ≤ 4 (R426). -/
def cwCorrects (erased errs : List Nat) : Bool :=
  decide (2 * (errs.filter (fun p => !erased.contains p)).length + erased.length ≤ 4)

/-- The first failing position of a codeword that the decoder does not correct, in a line with these symbol errors (R426). -/
def State.badWord (s : State) (line : Nat) (errs : List (Nat × Nat)) (j : Nat) : Option Nat :=
  let es := (errs.filter (·.1 = j)).map (·.2)
  if cwCorrects (s.erased line j) es then none else some ((leastBy id es).getD 0)

/-- Decodes a line's two codewords. -/
def State.decodeLine (s : State) (line : Nat) : Decode :=
  match s.lineErr.look line with
  | none => .clean
  | some errs => match (List.range 2).findSome? (fun j => (s.badWord line errs j).map (j, ·)) with
    | some (j, pos) => .bad j pos
    | none => .corrected errs

/-- Where a pseudo-channel is: stack, channel and pseudo-channel fields of a record (R430). -/
def pchFields (pc : Nat) : Nat := pc / 64 * 2 ^ 45 + pc / 2 % 32 * 2 ^ 40 + pc % 2 * 2 ^ 39

/-- Where a line is: the fields of a record down to its row (R430). -/
def lineFields (pa : Nat) : Nat :=
  pchFields (Config.pseudoChannel pa) + Config.stackId pa * 2 ^ 35 + Config.hbmBank pa * 2 ^ 29 + Config.hbmRow pa * 2 ^ 11

/-- Counts one correction at a position: HITS of a covering entry, or the position's own count, which creates an entry when it reaches
CETHRESH (R427). -/
def noteCorrection (s : State) (line cw pos : Nat) : State :=
  let pa := line * 64
  let pc := Config.pseudoChannel pa
  let d := hbmDie line
  let key := (Config.stackId pa, Config.hbmBank pa, Config.hbmRow pa, cw, pos)
  let p := s.pch pc
  let covers (e : Erasure) : Bool := decide (e.cw = cw ∧ e.pos = pos)
  let s :=
    if (erasureMatches p pa).any covers then
      let hit (e : Erasure) : Erasure :=
        if (erasureMatches p pa).contains e && covers e then ({ e with hits := satAdd 16 e.hits 1 } : Erasure) else e
      s.updPch pc fun p => { p with erasures := Tab.each (fun _ e => hit e) p.erasures }
    else
      let n := ((p.counts.find? (·.1 = key)).elim 0 (·.2)) + 1
      let p' := { p with counts := (key, n) :: p.counts.filter (fun x => decide (x.1 ≠ key)) }
      let s := s.updPch pc fun _ => p'
      if n < max 1 (s.die d).cethresh then s
      else match (List.range 8).find? (fun k => !((p.erasures.look k).elim false (·.v))) with
        | none => s.updDie d fun e => { e with erafull := true }
        | some k =>
          let e : Erasure :=
            { v := true, scope := 2, sid := key.1, bank := key.2.1, row := key.2.2.1, pos := pos, cw := cw, hits := 0 }
          s.updPch pc fun p => { p with erasures := p.erasures.set k e }
  s.updDie d fun e => { e with ceCount := satAdd 32 e.ceCount 1 }

/-- A corrected line: each correction is counted, and each corrected codeword has a record, with its first failing position and the symbols corrected,
errors and erasures (R427, R428, R430). -/
def noteCorrected (s : State) (w : Who) (line : Nat) (errs : List (Nat × Nat)) : State :=
  let pa := line * 64
  let note (t : State) (j : Nat) : State :=
    let es := (errs.filter (·.1 = j)).map (·.2)
    let er := s.erased line j
    let n := (es.filter (fun p => !er.contains p)).length + er.length
    if es = [] then t
    else logError t (hbmDie line) 0x01 w.req w.core pa w.region (lineFields pa + (leastBy id es).getD 0 * 2 ^ 5 + j * 2 ^ 4 + min n 15) 0 true
  [0, 1].foldl note (errs.foldl (fun s e => noteCorrection s line e.1 e.2) s)

/-- Records an uncorrectable line (R428, R430). -/
def noteUncorrectable (s : State) (w : Who) (line cw pos : Nat) : State :=
  let pa := line * 64
  let d := hbmDie line
  let s := s.updDie d fun e => { e with ueCount := satAdd 16 e.ueCount 1 }
  logError s d 0x02 w.req w.core pa w.region (lineFields pa + pos * 2 ^ 5 + cw * 2 ^ 4) 0 false

/-- A controller decodes a line for a read: its data, with corrections counted, or an abort. Beyond the code's distance Config says
whether the decoder finds the line uncorrectable or what it returns (R426). -/
def readSymbols (s : State) (w : Who) (line : Nat) : State × Ans (List Byte) :=
  match s.decodeLine line with
  | .clean => (s, .ok (s.lineView line))
  | .corrected errs => (noteCorrected s w line errs, .ok (s.lineView line))
  | .bad cw pos =>
    let (t, s) := s.fresh
    match Config.miscorrect t (BitVec.ofNat 512 (leNat (s.lineView line))) with
    | some v => (s, .ok (leBytes 64 v.toNat))
    | none => (noteUncorrectable s w line cw pos, .abort)

/-- n lines from one on, each decoded; the first that aborts ends the read (R428). -/
def readSymbolLines (s : State) (w : Who) (line : Nat) : Nat → State × Ans (List Byte)
  | 0 => (s, .ok [])
  | n + 1 => match readSymbolLines s w line n with
    | (s, .ok bs) => match readSymbols s w (line + n) with
      | (s, .ok more) => (s, .ok (bs ++ more))
      | (s, r) => (s, r)
    | (s, r) => (s, r)

/-- Opens the 256-byte block of a CODE range that holds an address: its four lines and its tag's are read and decoded as any others (R420, R428). -/
def openCode (s : State) (w : Who) (world base tagbase gen pa : Nat) : State × Ans (List Byte) :=
  let blk := pa / 256
  let tagAt := tagbase + 16 * (blk - base / 256)
  let key := ((s.gecko.worlds.look world).bind (·.code)).getD []
  let iv := leBytes 4 0 ++ leBytes 4 blk ++ leBytes 4 gen
  match readSymbolLines s w (blk * 4) 4 with
  | (s, .ok block) => match readSymbols s w (tagAt / 64) with
    | (s, .ok tags) => match Config.gcmOpen key iv block ((tags.drop (tagAt % 64)).take 16) with
      | some p => (s, .ok p)
      | none => (s, .tag (blk * 256))
    | (s, r) => (s, r)
  | (s, r) => (s, r)

/-! ### HBM -/

/-- A read of one line of HBM (R416, R420, R428, R434). -/
def hbmRead (s : State) (w : Who) (line : Nat) : State × Ans (List Byte) :=
  let s := s.served w 1
  if !s.hbmReach w.die line then (s, .abort)
  else match s.rangeOf (line * 64) with
    | none => readSymbols s w line
    | some (world, code, base, tagbase, gen) =>
      if world ≠ w.world then (s, .denied)
      else if code then
        if w.opens then
          let (s, r) := openCode s w world base tagbase gen (line * 64)
          (s, r.map (fun p => (p.drop (line % 4 * 64)).take 64))
        else (s, .denied)
      else readSymbols s w line

/-- A write of some bytes of one line of HBM, given as (offset, byte): a full line replaces the symbols; a partial one reads the codewords it
touches, and aborts when one of them is uncorrectable, or keeps what the decoder makes of it beyond the code's distance (R416, R420, R426, R428). -/
def hbmWrite (s : State) (w : Who) (line : Nat) (upd : List (Nat × Byte)) : State × Ans Unit :=
  let s := s.served w 1
  if !s.hbmReach w.die line then (s, .abort)
  else match s.rangeOf (line * 64) with
    | some (world, code, _) =>
      if world ≠ w.world ∨ code = true then (s, .denied) else go s
    | none => go s
where
  /-- The write itself. -/
  go (s : State) : State × Ans Unit :=
    let full := decide (upd.length = 64)
    let touched := (upd.map (fun p => p.1 % 2)).eraseDups
    let errs := (s.lineErr.look line).getD []
    let bad (j : Nat) : Option Nat := if full ∨ errs = [] then none else s.badWord line errs j
    let put (s : State) (upd : List (Nat × Byte)) : State × Ans Unit :=
      let left := errs.filter (fun e => !full && !touched.contains e.1)
      let s := s.putLine line upd
      ({ s with lineErr := if left = [] then s.lineErr.del line else s.lineErr.set line left }, .ok ())
    match touched.findSome? (fun j => (bad j).map (j, ·)) with
    | none => put s upd
    | some (cw, pos) =>
      let (t, s) := s.fresh
      match Config.miscorrect t (BitVec.ofNat 512 (leNat (s.lineView line))) with
      | none => (noteUncorrectable s w line cw pos, .abort)
      | some v =>
        let wrong := (List.range 64).filter fun i => touched.contains (i % 2) && (bad (i % 2)).isSome && upd.all (fun p => decide (p.1 ≠ i))
        put s (wrong.map (fun i => (i, (leBytes 64 v.toNat).getD i 0)) ++ upd)

/-! ### Banks (R40 to R45, R429) -/

/-- Whether the bank of an offset is gated. -/
def gatedAt (s : State) (core off : Nat) : Bool :=
  match (s.core core).banks.val .gated (bankOf off) with
  | .gated => true
  | .clearing _ => true
  | _ => false

/-- The 8-byte words of a slice that a range of bytes touches. -/
def wordsOf (core off n : Nat) : List Nat := span (core * 2 ^ 20 + off / 8) ((off % 8 + n + 7) / 8)

/-- Whether the bank of an offset is asleep or wakes: an access waits for the end of its wake (R45). -/
def State.asleepAt (s : State) (core off : Nat) : Bool :=
  match (s.core core).banks.val .gated (bankOf off) with
  | .drowsy => true
  | .waking _ => true
  | _ => false

/-- A read at a slice; an uncorrectable word aborts it (R429). -/
def sliceRead (s : State) (core off n : Nat) : State × Ans (List Byte) :=
  let s := touchBank s core off
  if s.asleepAt core off then (s, .asleep)
  else if !s.sramBad.isEmpty && (wordsOf core off n).any (fun w => decide (w ∈ s.sramBad)) then
    (logError s (dieOf core) 0x04 0 core off 0 0 0 false, .abort)
  else (s, .ok (s.bytesAt (sliceCell core off) n))

/-- The 8-byte words that bytes of a slice at the given offsets lie in. -/
def wordsAt (core : Nat) (offs : List Nat) : List Nat := (offs.map (fun o => core * 2 ^ 20 + o / 8)).eraseDups

/-- A write at a slice of bytes of one line, given as (offset from `off`, byte), as one bank access: a partial write of an uncorrectable word
aborts before any byte is written, a whole one repairs it (R41, R429). -/
def sliceWriteAt (s : State) (core off : Nat) (bs : List (Nat × Byte)) : State × Ans Unit :=
  let s := touchBank s core off
  let offs := bs.map (fun q => off + q.1)
  let whole (w : Nat) : Bool := (List.range 8).all (fun i => offs.contains ((w - core * 2 ^ 20) * 8 + i))
  if s.asleepAt core off then (s, .asleep)
  else if !s.sramBad.isEmpty && (wordsAt core offs).any (fun w => decide (w ∈ s.sramBad) && !whole w) then
    (logError s (dieOf core) 0x04 0 core off 0 0 0 false, .abort)
  else
    let s := if s.sramBad.isEmpty then s else { s with sramBad := s.sramBad.filter (fun w => !(wordsAt core offs).contains w) }
    (bs.foldl (fun s q => s.putBytes (sliceCell core (off + q.1)) [q.2]) s, .ok ())

/-- A write at a slice of successive bytes of one line. -/
def sliceWrite (s : State) (core off : Nat) (bs : List Byte) : State × Ans Unit :=
  sliceWriteAt s core off (bs.zipIdx.map (fun (b, i) => (i, b)))

end Sys2Proof.Machine
end

