-- ==== Sys2Proof/Machine/Translate.lean ====
section
/-! DEFINITION. Address spaces and translation (chapter 1): effective region settings, the slice permission and diversion checks, the
page walk with its caches, host pages, windows, and access at the home a translation gives. -/

namespace Sys2Proof.Machine

/-! ### Failures (R37) -/

/-- The access kinds of the fault word. -/
inductive Acc where
  | read
  | write
  | exec
  | atomic
deriving DecidableEq, Repr

/-- ACCESS of the fault word (R37). -/
def Acc.code : Acc → Nat
  | .read => 0
  | .write => 1
  | .exec => 2
  | .atomic => 3

/-- Whether the access writes. -/
def Acc.writes : Acc → Bool
  | .write => true
  | .atomic => true
  | _ => false

/-- The translation fault word (R37). -/
def faultWord (tstat level : Nat) (acc : Acc) (host remote : Bool) : DWord :=
  BitVec.ofNat 64 (tstat + level * 2 ^ 4 + acc.code * 2 ^ 6 + b2n remote * 2 ^ 8 + b2n host * 2 ^ 9)

/-- Translation status codes (R37). -/
def Tstat.addressRange : Nat := 1
def Tstat.notMapped : Nat := 2
def Tstat.pteFormat : Nat := 3
def Tstat.permission : Nat := 4
def Tstat.slicePermission : Nat := 5
def Tstat.windowInvalid : Nat := 6
def Tstat.windowBounds : Nat := 7
def Tstat.windowPermission : Nat := 8
def Tstat.hostTranslation : Nat := 9
def Tstat.walkError : Nat := 0xA
def Tstat.rankInvalid : Nat := 0xB
def Tstat.rankFenced : Nat := 0xC

/-- How a translation or an access ends: done; failed with a status, the level of the walk and HOST; an abort; a code tag that failed;
not yet possible, because a walk, the host's answer, a diversion or the wake of a bank must come first. -/
inductive Res (α : Type) where
  | ok (v : α)
  | fail (tstat level : Nat) (host : Bool)
  | abort
  | tag (block : Nat)
  | wait
deriving DecidableEq, Repr

/-- An answer of a home as the end of an access: not performed for another world reads PERMISSION at level 0 (R416). -/
def Ans.res {α : Type} : Ans α → Res α
  | .ok v => .ok v
  | .denied => .fail Tstat.permission 0 false
  | .abort => .abort
  | .tag b => .tag b
  | .asleep => .wait

/-! ### Slices: diversion, permission, paired halves (R15 to R17, R51, R400) -/

/-- Whether a share admits a requester (R16). -/
def State.admits (s : State) (share owner world : Nat) (w : Who) : Bool :=
  match share with
  | 1 => s.descends owner s.depth w.region
  | 2 => w.world = world
  | _ => w.region = owner

/-- Whether rights grant an access; bit 0 read, 1 write, 2 atomic (R16). -/
def grantsRights (rights : Nat) : Acc → Bool
  | .write => rights / 2 % 2 = 1
  | .atomic => rights / 4 % 2 = 1
  | _ => rights % 2 = 1

/-- The diversion entry in use that maps a slice offset (R398, R399). -/
def State.divAt (s : State) (core off : Nat) : Option DivEnt :=
  (s.die (dieOf core)).div.find? fun e =>
    decide (e.state ≠ 0) && !e.isCtx && decide (e.core = core ∧ e.start ≤ off / 4096 ∧ off / 4096 < e.start + e.count)

/-- The slice permission check (R17), after the diversion table (R400). -/
def State.sliceAllowed (s : State) (w : Who) (core off : Nat) (acc : Acc) : Bool :=
  match s.divAt core off with
  | some e => s.admits e.share e.owner e.world w && grantsRights e.rights acc
  | none =>
    let blk := off / 4096
    match (s.core core).spt.find? (fun (_, e) => decide (e.count ≠ 0 ∧ e.start ≤ blk ∧ blk < e.start + e.count)) with
    | some (_, e) => s.admits e.share e.owner e.world w && grantsRights e.rights acc
    | none => false

/-- The line of a slice an access resolves to: the front half of a paired buffer for a read, the back half for a write or an atomic;
none for its upper half (R51). -/
def halfLine (bufs : Tab BufEnt) (line : Nat) (acc : Acc) : Option Nat :=
  match bufs.find? (fun (_, b) => decide (b.mode = 2 ∧ b.base ≤ line ∧ line < b.base + 2 * (b.lenM1 + 1))) with
  | none => some line
  | some (_, b) =>
    let n := b.lenM1 + 1
    let upper := if acc.writes then !b.front else b.front
    if line < b.base + n then some (line + b2n upper * n) else none

/-- The buffer table that governs the lines of core c's slice: that of the context it holds. -/
def State.bufsOn (s : State) (c : Nat) : Tab BufEnt := (((s.core c).ctx).bind s.ctx).elim [] (·.bufs)

/-- Where an access to a slice offset is served (R400): the bytes of a slice, the bytes of an image, or not yet. -/
inductive Served where
  | slice (core : Nat)
  | image (base ctx world : Nat)
  | later
deriving DecidableEq, Repr

/-- The service of an access that meets the diversion table (R400, R45); one that matches a spilled entry waits until it is fetched (R399). -/
def State.servedAt (s : State) (core off : Nat) : Served :=
  match s.divAt core off with
  | none => .slice core
  | some e =>
    let blk := off / 4096
    if e.spilled then .later
    else match e.state with
    | 1 => if blk < e.start + e.next then .image e.image e.ctxId e.world else .later
    | 2 => .image e.image e.ctxId e.world
    | 3 => if blk < e.start + e.next then .slice e.ncore
           else if blk = e.start + e.next then .later else .image e.image e.ctxId e.world
    | _ => .slice e.ncore

/-- The context whose image or moved blocks a place is served from: that of the diversion entry it meets (R398, R400). -/
def State.divCtx (s : State) (p : Place) : Option Nat :=
  match p with
  | .slice core off => (s.divAt core off).map (·.ctxId)
  | _ => none

/-- Whether an access that waits in a diversion queue and an access to a place go to one context: by the entries they meet, or, once the waiting
one's entry is gone, by the slice (R403). -/
def State.sameTarget (s : State) (q : DivWait) (p : Place) : Bool :=
  match s.divCtx (.slice q.core (q.block * 4096)), s.divCtx p, p with
  | some a, some b, _ => decide (a = b)
  | none, _, .slice core _ => decide (q.core = core)
  | _, _, _ => false

/-- An access that must wait: a spilled entry that it matches is asked for (R399). -/
def State.fetchDiv (s : State) (core off : Nat) : State :=
  match s.divAt core off with
  | some e => if e.spilled then s.pushOnce 0 ((core * 2048 + e.start) * 8 + dieOf core) .diversionFetch else s
  | none => s

/-- The buffer table that governs an access, where it is served. -/
def State.bufsFor (s : State) (core off : Nat) : Tab BufEnt :=
  match s.servedAt core off with
  | .slice c => s.bufsOn c
  | .image _ id _ => (s.ctx id).elim [] (·.bufs)
  | .later => ((s.divAt core off).bind (fun e => s.ctx e.ctxId)).elim [] (·.bufs)

/-- The offset an access to a slice resolves to (R51). -/
def State.halfOff (s : State) (core off : Nat) (acc : Acc) : Option Nat :=
  (halfLine (s.bufsFor core off) (off / 64) acc).map (fun l => l * 64 + off % 64)

/-- The check of a global scratchpad address (R15, R17, R51). -/
def translateSlice (s : State) (w : Who) (acc : Acc) (a : Nat) : Res Place :=
  let core := a / 2 ^ 23 % 512
  let off := a % 2 ^ 23
  if 288 ≤ core then .fail Tstat.addressRange 0 false
  else if s.sliceAllowed w core off acc = false then .fail Tstat.slicePermission 0 false
  else if (s.halfOff core off acc).isNone then .fail Tstat.slicePermission 0 false
  else .ok (.slice core off)

/-! ### Paged memory (R18 to R28) -/

/-- Page-offset bits of a leaf at a level (R19). -/
def pageBits (level : Nat) : Nat := 16 + 10 * level

/-- Whether a table entry or leaf has a format error at a level (R20, R21). -/
def pteFormatBad (e : DWord) (level : Nat) : Bool :=
  if bit e 1 then
    let mt := fld e 8 2
    let addr := fld e 16 48 * 2 ^ 16
    decide (level = 3) || decide (fld e 10 6 ≠ 0) || bit e 5 || decide (mt = 3)
      || (decide (mt = 0) && (decide (2 ^ 39 ≤ addr) || decide (addr % 2 ^ pageBits level ≠ 0)))
      || (decide (mt = 2) && (decide (level ≠ 0) || decide (fld e 48 16 ≠ 0)))
      || (decide (mt = 1) && decide (addr % 2 ^ pageBits level ≠ 0))
  else decide (level = 0) || decide (fld e 40 24 ≠ 0) || decide (fld e 2 11 ≠ 0) || bit e 39

/-- Whether a leaf permits an access (R22). -/
def leafPermits (e : DWord) : Acc → Bool
  | .read => bit e 2
  | .write => bit e 3
  | .exec => bit e 4
  | .atomic => bit e 2 && bit e 3

/-- A leaf found: its level, its value, its address. -/
structure Leaf where
  level : Nat
  value : DWord
  addr : Nat
deriving DecidableEq, Repr

/-- Reads a table entry of 8 bytes as the walker does (R25). -/
def readEntry (s : State) (w : Who) (pa : Nat) : State × Ans DWord :=
  let (s, r) := hbmRead s { w with req := 3, opens := false } (pa / 64)
  (s, r.map (fun bs => BitVec.ofNat 64 (leNat ((bs.drop (pa % 64)).take 8))))

/-- A cache's entries cut to its size: those that a predicate picks are one cache or one set of it, and the oldest give way (DESIGN CHOICE). -/
def keepTlbs (mine : Tlb → Bool) (n : Nat) (l : List Tlb) : List Tlb := l.filter (fun t => !mine t) ++ (l.filter mine).take n

/-- The page walk from a level down (R19, R21), with the die's walk cache for entries of levels 3 to 1 (R26). -/
def walk (w : Who) (env : Env) (va : Nat) : Nat → Nat → Nat → State → State × Res Leaf
  | 0, _, _, s => (s, .fail Tstat.pteFormat 0 false)
  | fuel + 1, level, table, s =>
    let pa := table + va / 2 ^ pageBits level % 1024 * 8
    let hit := s.walkc.find? fun t =>
      decide (t.site = w.die ∧ t.world = env.world ∧ t.asn = env.asn ∧ t.level = level ∧ t.va = va / 2 ^ pageBits level ∧ t.addr = pa)
    let (s, r) := match hit with
      | some t => (s, Ans.ok t.leaf)
      | none => readEntry s w pa
    match r with
    | .denied => (s, .fail Tstat.permission 0 false)
    | .abort => (s, .fail Tstat.walkError level false)
    | .tag b => (s, .tag b)
    | .asleep => (s, .wait)
    | .ok e =>
      if bit e 0 = false then (s, .fail Tstat.notMapped level false)
      else if pteFormatBad e level then (s, .fail Tstat.pteFormat level (bit e 1 && decide (fld e 8 2 = 1)))
      else if bit e 1 then (s, .ok { level := level, value := e, addr := pa })
      else
        let t : Tlb := { site := w.die, world := env.world, asn := env.asn, va := va / 2 ^ pageBits level, level := level, leaf := e,
                         addr := pa }
        let s := if hit.isSome then s else { s with walkc := keepTlbs (fun x => decide (x.site = w.die)) 256 (t :: s.walkc) }
        walk w env va fuel (level - 1) (fld e 13 27 * 2 ^ 13) s

/-- Sets A, and D for a writing access, in a leaf at its home when it still holds the value the walk read (R22); the leaf as it then
stands, or none when it has changed. -/
def setAccessed (s : State) (w : Who) (acc : Acc) (l : Leaf) : State × Option DWord :=
  let want := l.value ||| 0x40 ||| (if acc.writes then 0x80 else 0)
  if want = l.value then (s, some l.value)
  else match readEntry s w l.addr with
    | (s, .ok e) =>
      if e = l.value then
        ((hbmWrite s { w with req := 3 } (l.addr / 64) ((leBytes 8 want.toNat).zipIdx.map (fun (b, i) => (l.addr % 64 + i, b)))).1,
          some want)
      else (s, none)
    | (s, _) => (s, some l.value)

/-- The translation-cache site of a requester: a core, the Midfield die (2000), or none (3000). -/
def Who.site (w : Who) : Nat := if w.core < 288 then w.core else if w.die = 4 then 2000 else 3000

/-- A cached leaf for a page, in the requester's own cache or its cluster's (R26). -/
def State.cachedLeaf (s : State) (w : Who) (env : Env) (va : Nat) : Option Tlb :=
  s.tlbs.find? fun t =>
    (decide (t.site = w.site) || (decide (w.core < 288) && decide (t.site = 1000 + clusterOf w.core))) &&
      decide (t.world = env.world ∧ t.asn = env.asn ∧ t.va = va / 2 ^ pageBits t.level)

/-- A leaf enters one cache, within its size (R26): 64 entries at a core, 2,048 in sets of eight at a cluster (the set is the page number's low
8 bits, DESIGN CHOICE), 4,096 on the Midfield die. -/
def installAt (site world asn va : Nat) (l : Leaf) (s : State) : State :=
  let t : Tlb := { site := site, world := world, asn := asn, va := va / 2 ^ pageBits l.level, level := l.level, leaf := l.value, addr := l.addr }
  let same (x : Tlb) : Bool := decide (x.site = site ∧ x.world = world ∧ x.asn = asn ∧ x.level = t.level ∧ x.va = t.va)
  let rest := s.tlbs.filter (fun x => !same x)
  if site = 3000 then s
  else if site < 1000 then { s with tlbs := keepTlbs (fun x => decide (x.site = site)) 64 (t :: rest) }
  else if site = 2000 then { s with tlbs := keepTlbs (fun x => decide (x.site = site)) 4096 (t :: rest) }
  else { s with tlbs := keepTlbs (fun x => decide (x.site = site ∧ x.va % 256 = t.va % 256)) 8 (t :: rest) }

/-- Installs a leaf in the requester's cache and its cluster's (R26). -/
def State.install (s : State) (w : Who) (env : Env) (va : Nat) (l : Leaf) : State :=
  let s := installAt w.site env.world env.asn va l s
  if w.core < 288 then installAt (1000 + clusterOf w.core) env.world env.asn va l s else s

/-! ### The walkers (R27) -/

/-- The requester number of an access at its die's walker: the die's clusters 0 to 8, its dispatcher 10 (9 is the context engine, which
walks no page), and 0 on the Midfield die. -/
def Who.requester (w : Who) : Nat := if w.core < 288 then clusterOf w.core % 9 else if w.die = 4 then 0 else 10

/-- Whether a walk is of a page, for the world, ASN and root of some settings. -/
def Walk.isOf (k : Walk) (env : Env) (va : Nat) : Bool :=
  decide (k.world = env.world ∧ k.asn = env.asn ∧ k.root = env.root ∧ k.va / 2 ^ 16 = va / 2 ^ 16)

/-- A miss: it joins the walk of its page that is under way on the die and not stale, or that its requester's queue holds; or it enters that
queue, which holds 16 pages, and stalls at its source while the queue is full (R27). -/
def missPage (s : State) (w : Who) (env : Env) (acc : Acc) (va : Nat) : State :=
  let d := s.die w.die
  let req := w.requester
  let joins (k : Walk) : Bool := k.isOf env va && !k.stale
  let mine (k : Walk) : Bool := joins k && (decide (k.req = req) || k.joined.contains req)
  if d.walks.any joins then
    if d.walks.any mine then s
    else
      let join (k : Walk) : Walk := if joins k then { k with joined := k.joined ++ [req] } else k
      (s.updDie w.die fun d => { d with walks := d.walks.map join }).push 0 w.die .walkStart
  else if d.missq.any (fun k => k.isOf env va && decide (k.req = req)) ∨ 16 ≤ d.missq.countP (fun k => decide (k.req = req)) then s
  else
    let k : Walk := { req := req, world := env.world, asn := env.asn, root := env.root, va := va, acc := acc.code, joined := [], stale := false }
    (s.updDie w.die fun d => { d with missq := d.missq ++ [k] }).push 0 w.die .walkStart

/-- A page's walk has ended: what was kept of it goes, and whether anything was kept. -/
def takeWalked (s : State) (w : Who) (env : Env) (va : Nat) : State × Bool :=
  let l := (s.die w.die).walked
  if l.any (fun k => k.isOf env va) then (s.updDie w.die fun d => { d with walked := l.filter (fun k => !k.isOf env va) }, true) else (s, false)

/-- A leaf with its permission checked (R22). -/
def permitted (acc : Acc) : State × Res Leaf → State × Res Leaf
  | (s, .ok l) => if leafPermits l.value acc then (s, .ok l) else (s, .fail Tstat.permission l.level (decide (fld l.value 8 2 = 1)))
  | r => r

/-- A walk's leaf, with its permission checked; it enters the caches of its requester. -/
def walkLeaf (s : State) (w : Who) (env : Env) (acc : Acc) (va : Nat) : State × Res Leaf :=
  match permitted acc (walk w env va 4 3 env.root s) with
  | (s, .ok l) => (s.install w env va l, .ok l)
  | r => r

/-- The leaf a translation uses: from a cache, with permission checked; one that only the cluster's cache holds enters the core's; or from the
die's walker, which the access waits for (R22, R26, R27). Once the walker has ended the page's walk and no cache holds its leaf, the
access reads the page's entries as that walk did. -/
def findLeaf (s : State) (w : Who) (env : Env) (acc : Acc) (va : Nat) : State × Res Leaf :=
  let (s1, ended) := takeWalked s w env va
  match s.cachedLeaf w env va with
  | some t =>
    let l : Leaf := { level := t.level, value := t.leaf, addr := t.addr }
    permitted acc (if t.site = w.site then s1 else installAt w.site env.world env.asn va l s1, .ok l)
  | none => if ended then walkLeaf s1 w env acc va else (missPage s w env acc va, .wait)

/-- The pair-table entry of an index: the base a reader and a writer use, or none for a bad entry (R23). -/
def readPair (s : State) (w : Who) (env : Env) (index : Nat) : State × Res (Nat × Nat) :=
  let pa := env.pairBase + 16 * index
  if env.pairSize ≤ index then (s, .fail Tstat.pteFormat 0 false)
  else match readEntry s w pa with
    | (s, .ok d0) => match readEntry s w (pa + 8) with
      | (s, .ok d1) =>
        let b0 := fld d0 16 48 * 2 ^ 16
        let b1 := fld d1 16 48 * 2 ^ 16
        if fld d0 1 15 ≠ 0 ∨ fld d1 0 16 ≠ 0 ∨ 2 ^ 39 ≤ b0 ∨ 2 ^ 39 ≤ b1 then (s, .fail Tstat.pteFormat 0 false)
        else (s, .ok (if bit d0 0 then (b1, b0) else (b0, b1)))
      | (s, .denied) => (s, .fail Tstat.permission 0 false)
      | (s, _) => (s, .abort)
    | (s, .denied) => (s, .fail Tstat.permission 0 false)
    | (s, _) => (s, .abort)

/-- The host's translation of a PCI Express address: kept, still asked for (size 0), or to be asked for (R24). -/
def hostLookup (s : State) (w : Who) (env : Env) (acc : Acc) (level addr : Nat) : State × Res Place :=
  match s.ats.find? (fun e => decide (e.die = w.die ∧ e.world = env.world ∧ e.asn = env.asn ∧ e.pasid = env.pasid ∧ e.addr / 4096 * 4096 ≤ addr ∧
      (if e.sizeLog = 0 then addr / 4096 = e.addr / 4096 else addr < e.addr + 2 ^ e.sizeLog))) with
  | some e =>
    if e.sizeLog = 0 then (s, .wait)
    else if e.r = false ∧ e.w = false then
      ({ s with ats := s.ats.filter (fun x => decide (x ≠ e)) }, .fail Tstat.hostTranslation level true)
    else if (acc.writes = true ∧ e.w = false) ∨ (acc.writes = false ∧ e.r = false) then (s, .fail Tstat.permission level true)
    else (s, .ok (.host (e.out + (addr - e.addr))))
  | none =>
    let a := addr / 4096 * 4096
    let e : Ats := { die := w.die, world := env.world, asn := env.asn, pasid := env.pasid, addr := a, out := 0, sizeLog := 0, r := false, w := false }
    let mine (x : Ats) : Bool := decide (x.die = w.die)
    ({ s with
        ats := s.ats.filter (fun x => !mine x) ++ (e :: s.ats.filter mine).take 4096
        out := (100, leBytes 4 env.pasid ++ leBytes 8 a) :: s.out }, .wait)

/-- Where the leaf of a page puts an access (R21, R23, R24). -/
def leafPlace (s : State) (w : Who) (env : Env) (acc : Acc) (va : Nat) (l : Leaf) : State × Res Place :=
  let off := va % 2 ^ pageBits l.level
  let addr := fld l.value 16 48 * 2 ^ 16
  match fld l.value 8 2 with
  | 0 => (s, .ok (.hbm (addr + off)))
  | 1 => if acc = .atomic then (s, .fail Tstat.permission l.level true) else hostLookup s w env acc l.level (addr + off)
  | _ =>
    match readPair s w env (addr / 2 ^ 16) with
    | (s, .ok _) => (s, .ok (.paired env.region (addr / 2 ^ 16) off))
    | (s, .fail t n h) => (s, .fail t n h)
    | (s, _) => (s, .abort)

/-- The end of a translation through a leaf: when it succeeds, A and D are set, in memory and in the caches that hold the leaf; none when the
leaf has changed in memory since it was read (R22). -/
def useLeaf (s : State) (w : Who) (env : Env) (acc : Acc) (va : Nat) (l : Leaf) : State × Option (Res Place) :=
  match leafPlace s w env acc va l with
  | (s, .ok p) => match setAccessed s w acc l with
    | (s, some v) =>
      let mark (u : Tlb) : Tlb := if u.addr = l.addr ∧ u.leaf = l.value then { u with leaf := v } else u
      (if v = l.value then s else { s with tlbs := s.tlbs.map mark }, some (.ok p))
    | (s, none) => ({ s with tlbs := s.tlbs.filter (fun u => !(decide (u.addr = l.addr) && decide (u.leaf = l.value))) }, none)
  | (s, r) => (s, some r)

/-- A failed result without its value. -/
def Res.into {α β : Type} (ok : Res β) : Res α → Res β
  | .ok _ => ok
  | .fail t l h => .fail t l h
  | .abort => .abort
  | .tag b => .tag b
  | .wait => .wait

/-- The translation of a paged address (R18 to R24). A leaf that has changed under the update of its bits sends the walk back to level 3. -/
def translatePaged (s : State) (w : Who) (env : Env) (acc : Acc) (va : Nat) : State × Res Place :=
  match findLeaf s w env acc va with
  | (s, .ok l) => match useLeaf s w env acc va l with
    | (s, some r) => (s, r)
    | (s, none) => match walkLeaf s w env acc va with
      | (s, .ok l) => match useLeaf s w env acc va l with
        | (s, some r) => (s, r)
        | (s, none) => (s, .wait)
      | (s, r) => (s, Res.into .wait r)
  | (s, r) => (s, Res.into .wait r)

/-! ### Windows (R32, R33) -/

/-- What a remote access asks of its window (R33). -/
inductive WinKind where
  | load
  | store
  | atomic
  | multicast
deriving DecidableEq, Repr

/-- The four double words of a window entry, from the core's window cache or the table in HBM (R32). The table is ordinary HBM at an address
that software gives: an entry that nothing has written holds what its bytes hold, and the reset values of TOEXP and RETRIES, which no
reset writes into HBM, are not put there (DESIGN CHOICE, notes/assumptions/3). -/
def windowEntry (s : State) (w : Who) (env : Env) (n : Nat) : State × Res (List DWord) :=
  match s.wins.find? (fun e => decide (e.core = w.core ∧ e.world = env.world ∧ e.region = env.region ∧ e.w = n)) with
  | some e => (s, .ok e.d)
  | none =>
    match hbmRead s { w with req := 3, opens := false } ((env.wintab + 32 * n) / 64) with
    | (s, .ok bs) =>
      let d := (List.range 4).map (dwordAt (bs.drop ((env.wintab + 32 * n) % 64)))
      let e : WinEnt := { core := w.core, world := env.world, region := env.region, w := n, d := d }
      let mine := s.wins.filter (·.core = w.core)
      ({ s with wins := e :: (mine.take 15 ++ s.wins.filter (fun x => decide (x.core ≠ w.core))) }, .ok d)
    | (s, .denied) => (s, .fail Tstat.permission 0 false)
    | (s, _) => (s, .abort)

/-- Whether n bytes from t lie in paged memory or in the global scratchpad space (R33). -/
def inTargetSpace (t n : Nat) : Bool :=
  decide (t + n ≤ 2 ^ 55) || decide (0x00FE000000000000 ≤ t ∧ t + n ≤ 0x00FE000100000000)

/-- The source check of a window-space access of n bytes (R33). Entry 126 is invalid whatever its bytes hold; a store to its bytes in HBM changes
them like any others, which nothing but a load of them shows (R12; DESIGN CHOICE, notes/assumptions/3). -/
def translateWindow (s : State) (w : Who) (env : Env) (kind : WinKind) (va n : Nat) : State × Res Place :=
  let no := va / 2 ^ 48 % 128
  let off := va % 2 ^ 48
  if no = 126 then (s, .fail Tstat.windowInvalid 0 false)
  else match windowEntry s w env no with
    | (s, .ok d) =>
      let d0 := d.getD 0 0
      let base := fld (d.getD 1 0) 0 56
      let size := fld (d.getD 2 0) 0 48
      let grp := bit d0 1
      let grants := match kind with
        | .load => !grp && bit d0 2
        | .store => !grp && bit d0 3
        | .atomic => !grp && bit d0 4
        | .multicast => grp && bit d0 3
      if bit d0 0 = false ∨ fld d0 38 26 ≠ 0 ∨ fld d0 9 3 ≠ 0 ∨ fld (d.getD 1 0) 56 8 ≠ 0 ∨ fld (d.getD 2 0) 48 16 ≠ 0 ∨ d.getD 3 0 ≠ 0
          ∨ fld d0 7 2 = 3 ∨ bit d0 6 = true ∨ size = 0 ∨ size % 64 ≠ 0 then (s, .fail Tstat.windowInvalid 0 false)
      else if size < off + n then (s, .fail Tstat.windowBounds 0 false)
      else if grants = false then (s, .fail Tstat.windowPermission 0 false)
      else if inTargetSpace (base + off) n = false then (s, .fail Tstat.windowBounds 0 false)
      else (s, .ok (.remote (fld d0 32 6) (fld d0 12 12) (base + off) d0))
    | (s, .fail t l h) => (s, .fail t l h)
    | (s, _) => (s, .abort)

/-- The space of a 64-bit effective address (R11): 0 paged, 1 scratchpad, 2 window, 3 none. -/
def spaceOf (va : Nat) : Nat :=
  if 2 ^ 56 ≤ va then 3
  else if va < 2 ^ 55 then 0
  else if va / 2 ^ 48 = 0xFE then if va % 2 ^ 48 < 2 ^ 32 then 1 else 3
  else 2

/-- The window check an access kind makes (R33). -/
def Acc.winKind : Acc → WinKind
  | .read => .load
  | .write => .store
  | .exec => .load
  | .atomic => .atomic

/-- The translation of an access of n bytes that lies in one 64-byte line (R11 to R33). -/
def translate (s : State) (w : Who) (env : Env) (acc : Acc) (va n : Nat) : State × Res Place :=
  match spaceOf va with
  | 0 => translatePaged s w env acc va
  | 1 => if acc = .exec then (s, .fail Tstat.addressRange 0 false) else (s, translateSlice s w acc va)
  | 2 => if acc = .exec then (s, .fail Tstat.addressRange 0 false) else translateWindow s w env acc.winKind va n
  | _ => (s, .fail Tstat.addressRange 0 false)

/-! ### Access at a home -/

/-- Whether a request of a region waits for the next period: its HBM pool is exhausted and capped, and the place lies in HBM (R211). -/
def State.heldAt (s : State) (w : Who) (p : Place) : Bool :=
  decide (w.req < 5) && s.hbmHeld w.region && match p with
    | .hbm _ => true
    | .paired _ _ _ => true
    | _ => false

/-- Reads n bytes at a place, within one line. A remote place has no home here. -/
def homeRead (s : State) (w : Who) (env : Env) (p : Place) (n : Nat) : State × Res (List Byte) :=
  if s.heldAt w p then (s, .wait)
  else match p with
  | .hbm pa =>
    let (s, r) := hbmRead s w (pa / 64)
    (s, (r.map (fun bs => (bs.drop (pa % 64)).take n)).res)
  | .paired _ index off =>
    match readPair s w env index with
    | (s, .ok (front, _)) =>
      let (s, r) := hbmRead s w ((front + off) / 64)
      (s, (r.map (fun bs => (bs.drop ((front + off) % 64)).take n)).res)
    | (s, .fail t l h) => (s, .fail t l h)
    | (s, _) => (s, .abort)
  | .slice core off =>
    match s.halfOff core off .read with
    | none => (s, .fail Tstat.slicePermission 0 false)
    | some o => match s.servedAt core off with
      | .slice c =>
        if s.routeUp w.die (dieOf c) then
          let (s, r) := sliceRead s c o n
          (s, r.res)
        else (s, .abort)
      | .image base _ world =>
        let (s, r) := hbmRead s { w with world := world } ((base + 0x200000 + o) / 64)
        (s, (r.map (fun bs => (bs.drop ((base + o) % 64)).take n)).res)
      | .later => (s.fetchDiv core off, .wait)
  | .host a => (s, .ok (s.bytesAt (hostCell a) n))
  | .remote _ _ _ _ => (s, .abort)

/-- The byte updates of a run of bytes at an offset of its line. -/
def updAt (o : Nat) (bs : List (Nat × Byte)) : List (Nat × Byte) := bs.map (fun p => (o + p.1, p.2))

/-- Writes bytes, given as (offset from the place, byte), within one line. `acc` is write or atomic. -/
def homeWrite (s : State) (w : Who) (env : Env) (p : Place) (bs : List (Nat × Byte)) : State × Res Unit :=
  if s.heldAt w p then (s, .wait)
  else match p with
  | .hbm pa =>
    let (s, r) := hbmWrite s w (pa / 64) (updAt (pa % 64) bs)
    (s, r.res)
  | .paired _ index off =>
    match readPair s w env index with
    | (s, .ok (_, back)) =>
      let (s, r) := hbmWrite s w ((back + off) / 64) (updAt ((back + off) % 64) bs)
      (s, r.res)
    | (s, .fail t l h) => (s, .fail t l h)
    | (s, _) => (s, .abort)
  | .slice core off =>
    match s.halfOff core off .write with
    | none => (s, .fail Tstat.slicePermission 0 false)
    | some o => match s.servedAt core off with
      | .slice c =>
        if s.routeUp w.die (dieOf c) then
          let (s, r) := sliceWriteAt s c o bs
          (s, r.res)
        else (s, .abort)
      | .image base _ world =>
        let (s, r) := hbmWrite s { w with world := world } ((base + 0x200000 + o) / 64) (updAt ((base + o) % 64) bs)
        (s, r.res)
      | .later => (s.fetchDiv core off, .wait)
  | .host a => (bs.foldl (fun s (q : Nat × Byte) => s.putBytes (hostCell (a + q.1)) [q.2]) s, .ok ())
  | .remote _ _ _ _ => (s, .abort)

/-- A contiguous run of bytes written at a place. -/
def homeWriteRun (s : State) (w : Who) (env : Env) (p : Place) (bs : List Byte) : State × Res Unit :=
  match p with
  | .slice core off =>
    match s.halfOff core off .write, s.servedAt core off with
    | some o, .slice c =>
      if s.routeUp w.die (dieOf c) then
        let (s, r) := sliceWrite s c o bs
        (s, r.res)
      else (s, .abort)
    | _, _ => homeWrite s w env p (bs.zipIdx.map (fun (b, i) => (i, b)))
  | _ => homeWrite s w env p (bs.zipIdx.map (fun (b, i) => (i, b)))

/-- The place an atomic acts on: the back half of a paired target (R84, R100); otherwise the place itself. -/
def homeAtomic (s : State) (w : Who) (env : Env) (p : Place) (n : Nat) (f : Nat → Nat) : State × Res Nat :=
  let act (s : State) (r : Ans (List Byte)) (o : Nat) (put : State → List Byte → State × Ans Unit) : State × Res Nat :=
    match r with
    | .ok bs =>
      let old := leNat ((bs.drop o).take n)
      match put s (leBytes n (f old)) with
      | (s, .ok ()) => (s, .ok old)
      | (s, a) => (s, (a.map (fun _ => 0)).res)
    | a => (s, (a.map (fun _ => 0)).res)
  let atHbm (s : State) (w : Who) (pa : Nat) : State × Res Nat :=
    let (s, r) := hbmRead s { w with opens := false } (pa / 64)
    act s r (pa % 64) (fun s bs => hbmWrite s w (pa / 64) (bs.zipIdx.map (fun (b, i) => (pa % 64 + i, b))))
  if s.heldAt w p then (s, .wait)
  else match p with
  | .hbm pa => atHbm s w pa
  | .paired _ index off =>
    match readPair s w env index with
    | (s, .ok (_, back)) => atHbm s w (back + off)
    | (s, .fail t l h) => (s, .fail t l h)
    | (s, _) => (s, .abort)
  | .slice core off =>
    match s.halfOff core off .atomic with
    | none => (s, .fail Tstat.slicePermission 0 false)
    | some o => match s.servedAt core off with
      | .slice c =>
        if s.routeUp w.die (dieOf c) then
          let (s, r) := sliceRead s c o n
          act s r 0 (fun s bs => sliceWrite s c o bs)
        else (s, .abort)
      | .image base _ world => atHbm s { w with world := world } (base + 0x200000 + o)
      | .later => (s.fetchDiv core off, .wait)
  | .host _ => (s, .fail Tstat.permission 0 true)
  | .remote _ _ _ _ => (s, .abort)

/-- One byte changed where it lies: a write of a 4-bit element keeps the other half of its byte as the place written holds it (R172). -/
def homeEdit (s : State) (w : Who) (env : Env) (p : Place) (f : Nat → Nat) : State × Res Unit :=
  match p with
  | .host a => (s.putBytes (hostCell a) (leBytes 1 (f (s.byteAt (hostCell a)).toNat)), .ok ())
  | _ => match homeAtomic s w env p 1 f with
    | (s, .ok _) => (s, .ok ())
    | (s, r) => (s, match r with
      | .ok _ => .ok ()
      | .fail t l h => .fail t l h
      | .abort => .abort
      | .tag b => .tag b
      | .wait => .wait)

/-! ### Ranges of bytes, as engines access them (R14, R28, R38) -/

/-- The pieces of a range that lie in one line each: (address, length). -/
def linePieces : Nat → Nat → Nat → List (Nat × Nat)
  | 0, _, _ => []
  | fuel + 1, va, n =>
    if n = 0 then []
    else
      let k := min n (64 - va % 64)
      (va, k) :: linePieces fuel (va + k) (n - k)

/-- The pieces of a range of n bytes. -/
def pieces (va n : Nat) : List (Nat × Nat) := linePieces (n / 64 + 2) va n

/-- Why a range access stopped, with the address of the first failing byte. -/
structure Stop where
  va : Nat
  res : Res Unit
  acc : Acc
deriving DecidableEq, Repr

/-- A result without its value. -/
def Res.unit {α : Type} : Res α → Res Unit := Res.into (.ok ())

/-- The accesses of the pieces of a range that runs past its space fail at the first byte beyond it (R14). -/
def sameSpace (va0 va : Nat) : Bool := spaceOf va0 = spaceOf va && (spaceOf va0 ≠ 2 || va0 / 2 ^ 48 = va / 2 ^ 48)

/-- Reads a range of bytes, translating each line as it is reached; on a stop the bytes before it have been read. -/
def readRange (w : Who) (env : Env) (va0 : Nat) : List (Nat × Nat) → State → State × Except Stop (List Byte)
  | [], s => (s, .ok [])
  | (va, k) :: t, s =>
    if sameSpace va0 va = false then (s, .error { va := va, res := .fail Tstat.addressRange 0 false, acc := .read })
    else match translate s w env .read va k with
      | (s, .ok p) => match homeRead s w env p k with
        | (s, .ok bs) => match readRange w env va0 t s with
          | (s, .ok rest) => (s, .ok (bs ++ rest))
          | (s, .error e) => (s, .error e)
        | (s, r) => (s, .error { va := va, res := r.unit, acc := .read })
      | (s, r) => (s, .error { va := va, res := r.unit, acc := .read })

/-- n bytes read from an address. -/
def readBytes (s : State) (w : Who) (env : Env) (va n : Nat) : State × Except Stop (List Byte) := readRange w env va (pieces va n) s

/-- Writes a range of bytes, line by line. -/
def writeRange (w : Who) (env : Env) (va0 : Nat) : List (Nat × Nat) → List Byte → State → State × Except Stop Unit
  | [], _, s => (s, .ok ())
  | (va, k) :: t, bs, s =>
    if sameSpace va0 va = false then (s, .error { va := va, res := .fail Tstat.addressRange 0 false, acc := .write })
    else match translate s w env .write va k with
      | (s, .ok p) => match homeWriteRun s w env p (bs.take k) with
        | (s, .ok ()) => writeRange w env va0 t (bs.drop k) s
        | (s, r) => (s, .error { va := va, res := r, acc := .write })
      | (s, r) => (s, .error { va := va, res := r.unit, acc := .write })

/-- Bytes written from an address. -/
def writeBytes (s : State) (w : Who) (env : Env) (va : Nat) (bs : List Byte) : State × Except Stop Unit :=
  writeRange w env va (pieces va bs.length) bs s

/-! ### Requesters -/

/-- A task's core as a requester; scalar loads and fetches open CODE ranges (R420). -/
def State.whoTask (_s : State) (c : Ctx) (req : Nat) (opens : Bool) : Who :=
  { die := dieOf c.anyCore, world := c.who.world, region := c.who.region, core := if c.loc = .engine then 0x1FF else c.anyCore, req := req,
    opens := opens }

/-- The settings of a task's region. -/
def State.envTask (s : State) (c : Ctx) : Env := { s.envOf c.who.region with world := c.who.world }

end Sys2Proof.Machine
end

