-- ==== Sys2Proof/Machine/Operands.lean ====
section
/-! DEFINITION. Operand forms: 32-bit reduction (R286), immediates, guards (R236), handle fields (R225, R296), element addresses (R226),
the checks of a handle at use (R50, R164, R172, R227) and reading and writing elements through the address spaces. -/

namespace Sys2Proof.Machine

/-! ### Scalar operand forms -/

/-- A 32-bit result sign-extended to 64 bits (R286). -/
def sx32 (v : Word) : DWord := v.signExtend 64
/-- Bits [31:0] of a source (R286). -/
def lo32 (v : DWord) : Word := v.setWidth 32
/-- A 64-bit operation, or the same on the low words with the result sign-extended (R286). -/
def byW (w : Bool) (f64 : DWord → DWord → DWord) (f32 : Word → Word → Word) (a b : DWord) : DWord :=
  if w then sx32 (f32 (lo32 a) (lo32 b)) else f64 a b
/-- A comparison, 0 or 1, on 64 or on 32 bits (R286). -/
def cmpW (w : Bool) (f64 : DWord → DWord → Bool) (f32 : Word → Word → Bool) (a b : DWord) : DWord :=
  if (if w then f32 (lo32 a) (lo32 b) else f64 a b) then 1 else 0
/-- An immediate sign-extended to 64 bits. -/
def imm64 {n : Nat} (i : BitVec n) : DWord := i.signExtend 64

/-- Whether a guard lets its slot act (R236). -/
def Guard.open? (g : Guard) (r : Regs) : Bool := g.reg = 0 || (r.getS g.reg).getLsbD g.bit.toNat == !g.pol

/-! ### Handles -/

/-- A field of a handle (R225). -/
def hfld (h : Handle) (lo n : Nat) : Nat := h.toNat / 2 ^ lo % 2 ^ n
/-- A handle with a field replaced. -/
def setHfld (h : Handle) (lo n v : Nat) : Handle :=
  BitVec.ofNat 256 (h.toNat - h.toNat / 2 ^ lo % 2 ^ n * 2 ^ lo + v % 2 ^ n * 2 ^ lo)

def hBase (h : Handle) : Nat := hfld h 0 56
def hFmt (h : Handle) : Nat := hfld h 56 8
def hExt (h : Handle) (k : Nat) : Nat := hfld h (64 + 16 * k) 16
def hStr (h : Handle) (k : Nat) : Int := signed 32 (hfld h (128 + 32 * k) 32)
def hBuf (h : Handle) : Nat := hfld h 224 8
def hLayout (h : Handle) : Nat := hfld h 232 4
def hPlane (h : Handle) : Nat := hfld h 236 4
def hRing (h : Handle) : Bool := h.getLsbD 240
def hPaired (h : Handle) : Bool := h.getLsbD 241
def hScales (h : Handle) : Bool := h.getLsbD 242
def hBands (h : Handle) : Bool := h.getLsbD 243
/-- BASE moved by a signed step, modulo 2^56 (R240, R296). -/
def hMove (h : Handle) (d : Int) : Handle := setHfld h 0 56 (wrap 56 (hBase h + d))

/-- The place of a handle field by its code: low bit, width, signed (R296). -/
def handleField : Nat → Nat × Nat × Bool
  | 0 => (0, 56, false)
  | 1 => (56, 8, false)
  | 2 => (64, 16, false)
  | 3 => (80, 16, false)
  | 4 => (96, 16, false)
  | 5 => (112, 16, false)
  | 6 => (128, 32, true)
  | 7 => (160, 32, true)
  | 8 => (192, 32, true)
  | 9 => (224, 8, false)
  | 10 => (232, 4, false)
  | 11 => (236, 4, false)
  | 12 => (240, 4, false)
  | 13 => (0, 64, false)
  | 14 => (64, 64, false)
  | 15 => (128, 64, false)
  | _ => (192, 64, false)

/-- The elements of a handle (R225). -/
def hCount (h : Handle) : Nat := hExt h 0 * hExt h 1 * hExt h 2 * hExt h 3

/-- Whether some extent is 0: the handle describes no element (R227). -/
def hEmpty (h : Handle) : Bool := hCount h = 0

/-- The coordinates of element j, in ascending order of extent 0 first. -/
def hCoord (h : Handle) (j : Nat) : Nat × Nat × Nat × Nat :=
  let a := hExt h 0
  let b := hExt h 1
  let c := hExt h 2
  (j % a, j / a % b, j / (a * b) % c, j / (a * b * c))

/-- The bytes that k elements of a width take; 4-bit elements take half a byte, rounded down (R226). -/
def elemBytes (bits k : Nat) : Nat := k * bits / 8

/-- The byte offset of an element under a handle's layout (R226). -/
def hOffset (h : Handle) (bits : Nat) : Nat × Nat × Nat × Nat → Int
  | (i0, i1, i2, i3) =>
    match hLayout h with
    | 1 => (elemBytes bits i1 : Int) + i0 * hStr h 0 + i2 * hStr h 1 + i3 * hStr h 2
    | 2 =>
      let b := elemBytes bits i0
      let rowtiles := elemBytes bits (hExt h 0) / 64
      ((i1 / 16 * rowtiles + b / 64) * 1024 + i1 % 16 * 64 + b % 64 : Nat) + i2 * hStr h 1 + i3 * hStr h 2
    | _ => (elemBytes bits i0 : Int) + i1 * hStr h 0 + i2 * hStr h 1 + i3 * hStr h 2

/-- The byte address of an element, and for 4-bit elements whether it is the upper nibble (R226, R172). -/
def hAddr (h : Handle) (bits : Nat) (i : Nat × Nat × Nat × Nat) : Nat × Bool :=
  let odd := if hLayout h = 1 then i.2.1 % 2 = 1 else i.1 % 2 = 1
  (wrap 56 (hBase h + hOffset h bits i), decide (bits = 4) && decide odd)

/-- The format of an operand: its own, or the named one where its code is 0 (R164). -/
def fmtFor (h : Handle) (named : Nat) : Nat := if hFmt h = 0 then named else hFmt h

/-- The bytes of a handle's element plane when it is dense. -/
def planeBytes (h : Handle) (bits : Nat) : Nat := elemBytes bits (hCount h)

/-- An address rounded up to a 64-byte boundary. -/
def align64 (a : Nat) : Nat := (a + 63) / 64 * 64

/-- The bases of the plane handles that a handle's PLANESEL names, as (PLANESEL, BASE), taken from a register file (R226). -/
def planeOf (r : Regs) (h : Handle) : List (Nat × Nat) := if hPlane h = 0 then [] else [(hPlane h, hBase (r.h.val 0 (hPlane h + 16)))]

/-- The first side plane: after the element plane, or at the base of h(PLANESEL + 16) (R226, R172). -/
def plane1 (pl : List (Nat × Nat)) (h : Handle) (bits : Nat) : Nat :=
  if hPlane h = 0 then align64 (hBase h + planeBytes h bits) else ((pl.find? (·.1 = hPlane h)).map (·.2)).getD 0

/-- The rows of a handle (R172). -/
def hRows (h : Handle) : Nat := hExt h 1 * hExt h 2 * hExt h 3

/-- The second side plane, of an SX4 tensor (R172). -/
def plane2 (pl : List (Nat × Nat)) (h : Handle) : Nat := align64 (plane1 pl h 4 + hRows h * (hExt h 0 / 64) * 4)

/-- The side planes of a handle of a format, as (address, bytes): scale plane; index and band plane (R172). -/
def sidePlanes (pl : List (Nat × Nat)) (h : Handle) (fmt : Nat) : List (Nat × Nat) :=
  if isMx fmt then [(plane1 pl h ((fmtBits fmt).getD 8), hRows h * (hExt h 0 / 32))]
  else if isSx4 fmt then
    [(plane1 pl h 4, hRows h * (hExt h 0 / 64) * 4), (plane2 pl h, (hExt h 1 + 63) / 64 * hExt h 2 * hExt h 3 * 2)]
  else []

/-- Whether the strides are dense (R172). -/
def hDense (h : Handle) (bits : Nat) : Bool :=
  let row : Int := elemBytes bits (hExt h 0)
  hStr h 0 == row && hStr h 1 == row * hExt h 1 && hStr h 2 == row * hExt h 1 * hExt h 2

/-- The lowest and highest byte offsets a handle reaches; a row of a 2:4 source stores half its EXTENT0 (R226). -/
def hRange (h : Handle) (bits : Nat) : Int × Int :=
  let last (k : Nat) : Nat := (if k = 0 ∧ hLayout h = 3 then hExt h 0 / 2 else hExt h k) - 1
  let ends : List (Nat × Nat × Nat × Nat) :=
    [0, last 2].flatMap fun c => [0, last 3].flatMap fun d => [0, last 1].flatMap fun b => [0, last 0].map fun a => (a, b, c, d)
  let offs := ends.map (hOffset h bits)
  let size : Int := if hLayout h = 2 then elemBytes bits (hExt h 0) / 64 * 1024 * (hExt h 1 / 16) else (bits + 7) / 8
  let base := if hLayout h = 2 then [0, last 2].flatMap fun c => [0, last 3].map fun d => hOffset h bits (0, 0, c, d) else offs
  (base.foldl min 0, base.foldl max 0 + size)

/-- The bytes that a handle's elements reach, as (first address, length). -/
def hSpan (h : Handle) (bits : Nat) : Nat × Nat :=
  let (lo, hi) := hRange h bits
  (wrap 56 (hBase h + lo), if hEmpty h then 0 else (hi - lo).toNat)

/-- Why a handle cannot be used: FORMAT-INVALID, or BUFFER-MODE with the buffer id (R164, R227, R50). -/
inductive HBad where
  | fine
  | format
  | buffer (b : Nat)
deriving DecidableEq, Repr

/-- What a use of a handle allows: the 2:4 layout (CPYS source), a ring (fills that write it, matrix steps that read it). -/
structure HUse where
  sparse : Bool
  ring : Bool
deriving DecidableEq, Repr

/-- A plain use. -/
def HUse.plain : HUse := { sparse := false, ring := false }

/-- The buffer conditions of R50: the lines of a buffer are those of the slice of the core that runs the task (R46). -/
def bufferCheck (c : Ctx) (h : Handle) (bits : Nat) (use : HUse) : HBad :=
  let b := hBuf h
  if 64 ≤ b then .buffer b
  else if b = 0 then if hRing h || hPaired h then .buffer 0 else .fine
  else
    let e := c.bufs.val BufEnt.none b
    if e.mode = 0 ∨ hRing h ≠ decide (e.mode = 3) ∨ hPaired h ≠ decide (e.mode = 2) then .buffer b
    else if e.mode = 3 then if use.ring then .fine else .buffer b
    else
      let (lo, hi) := hRange h bits
      let a : Int := hBase h + lo
      let z : Int := hBase h + hi
      let off : Int := a % 2 ^ 23
      if spaceOf (wrap 64 a) = 1 ∧ a / 2 ^ 23 % 512 = c.anyCore ∧ (e.base : Int) * 64 ≤ off ∧ off + (z - a) ≤ ((e.base + e.lenM1 + 1 : Nat) : Int) * 64 then .fine
      else .buffer b

/-- The format conditions of R164, R170 to R172 and R227, for a handle used with the given format code. -/
def formatBad (h : Handle) (fmt : Nat) (use : HUse) : Bool :=
  match fmtBits fmt with
  | none => true
  | some bits =>
    let mx := isMx fmt
    let sx := isSx4 fmt
    let planes := mx || sx
    decide (hfld h 244 12 ≠ 0) || decide (3 < hLayout h)
      || (decide (hLayout h = 2) && (decide (bits * hExt h 0 % 512 ≠ 0) || decide (hExt h 1 % 16 ≠ 0)))
      || (decide (hLayout h = 3) && (!use.sparse || decide (hExt h 0 % 4 ≠ 0) || !(decide (bits = 8) || decide (bits = 16))))
      || (planes && decide (hLayout h ≠ 0))
      || (decide (8 ≤ bits) && decide (hBase h % (bits / 8) ≠ 0))
      || decide (hScales h ≠ planes) || decide (hBands h ≠ sx)
      || (planes && !hDense h bits)
      || (mx && decide (hExt h 0 % 32 ≠ 0)) || (sx && decide (hExt h 0 % 64 ≠ 0))

/-- The checks of a handle at use (R227, R164, R50). -/
def handleCheck (c : Ctx) (h : Handle) (fmt : Nat) (use : HUse) : HBad :=
  if 64 ≤ hBuf h then .buffer (hBuf h)
  else if formatBad h fmt use then .format
  else bufferCheck c h ((fmtBits fmt).getD 8) use

/-! ### Elements through the address spaces -/

/-- One element's bits read. -/
def readElem (s : State) (w : Who) (env : Env) (h : Handle) (bits : Nat) (i : Nat × Nat × Nat × Nat) : State × Except Stop Nat :=
  let (a, hi) := hAddr h bits i
  match readBytes s w env a ((bits + 7) / 8) with
  | (s, .ok bs) =>
    let v := leNat bs
    (s, .ok (if bits = 4 then v / (if hi then 16 else 1) % 16 else v))
  | (s, .error e) => (s, .error e)

/-- One element's bits written; a 4-bit element keeps the other nibble of its byte. -/
def writeElem (s : State) (w : Who) (env : Env) (h : Handle) (bits : Nat) (i : Nat × Nat × Nat × Nat) (v : Nat) :
    State × Except Stop Unit :=
  let (a, hi) := hAddr h bits i
  if bits = 4 then
    match translate s w env .write a 1 with
    | (s, .ok p) => match homeEdit s w env p (fun b => if hi then b % 16 + v % 16 * 16 else b / 16 * 16 + v % 16) with
      | (s, .ok ()) => (s, .ok ())
      | (s, r) => (s, .error { va := a, res := r, acc := .write })
    | (s, r) => (s, .error { va := a, res := r.unit, acc := .write })
  else writeBytes s w env a (leBytes (bits / 8) v)

/-- A list of element reads in order; a stop ends it. -/
def readMany (w : Who) (env : Env) (h : Handle) (bits : Nat) :
    List (Nat × Nat × Nat × Nat) → State → State × Except Stop (List Nat)
  | [], s => (s, .ok [])
  | i :: t, s => match readElem s w env h bits i with
    | (s, .ok v) => match readMany w env h bits t s with
      | (s, .ok vs) => (s, .ok (v :: vs))
      | (s, .error e) => (s, .error e)
    | (s, .error e) => (s, .error e)

/-- Every element of a handle, in order. -/
def readAll (s : State) (w : Who) (env : Env) (h : Handle) (bits : Nat) : State × Except Stop (List Nat) :=
  readMany w env h bits ((List.range (hCount h)).map (hCoord h)) s

/-- Elements written in order; a stop ends it, with the number written. -/
def writeMany (w : Who) (env : Env) (h : Handle) (bits : Nat) :
    List ((Nat × Nat × Nat × Nat) × Nat) → State → State × Except Stop Unit
  | [], s => (s, .ok ())
  | (i, v) :: t, s => match writeElem s w env h bits i v with
    | (s, .ok ()) => writeMany w env h bits t s
    | (s, .error e) => (s, .error e)

/-- Every element of a handle written, in order. -/
def writeAll (s : State) (w : Who) (env : Env) (h : Handle) (bits : Nat) (vs : List Nat) : State × Except Stop Unit :=
  writeMany w env h bits (((List.range (hCount h)).map (hCoord h)).zip vs) s

/-! ### Tiles (R65 to R68, R251) -/

/-- The index of word j of row i of a tile among the accumulator words. -/
def tileWord (t i j : Nat) : Nat := t * 16384 + i * 128 + j
/-- A word of a tile. -/
def Ctx.tile (c : Ctx) (t i j : Nat) : Word := c.eng.tile.val 0 (tileWord t i j)
/-- Whether tile t is in flight: some batch's tile mask holds it (R251). -/
def Ctx.inFlight (c : Ctx) (t : Nat) : Bool := c.eng.btile.any (fun (_, m) => m.getLsbD t)
/-- A tile descriptor's MODE, DIR and K (R65). -/
def descRanked (d : BitVec 16) : Bool := d.getLsbD 7
def descDir (d : BitVec 16) : Bool := d.getLsbD 6
def descK (d : BitVec 16) : Nat := d.toNat % 64

end Sys2Proof.Machine
end

