-- ==== Sys2Proof/Machine/Records.lean ====
section
/-! DEFINITION. Engine fault records, the fault queue and the absent-fault queue (R386, R387, R401, R402), and the event queues of the
regions (R199). -/

namespace Sys2Proof.Machine

/-- The four double words of a record (R386). -/
def FRec.dwords (r : FRec) : List DWord :=
  [BitVec.ofNat 64 (r.cause * 2 ^ 56 + r.pc % 2 ^ 56),
   BitVec.ofNat 64 (b2n r.rel * 2 ^ 63 + b2n r.stepf * 2 ^ 62 + b2n r.abs * 2 ^ 61 + r.slot * 2 ^ 56 + r.id % 2 ^ 24),
   BitVec.ofNat 64 r.addr, r.detail]

/-- A record read back (R386). -/
def FRec.ofDwords (d0 d1 d2 d3 : DWord) : FRec :=
  { cause := fld d0 56 8, pc := fld d0 0 56, rel := bit d1 63, stepf := bit d1 62, abs := bit d1 61, slot := fld d1 56 3,
    id := fld d1 0 24, addr := d2.toNat, detail := d3 }

/-- The address of a region's RCB in HBM (R193). -/
def State.rcbAddr (s : State) (r : Nat) : Nat := (s.arb.regions.look r).elim 0 (·.addr)

/-- A dword of a region's RCB as HBM holds it now. -/
def State.rcbNow (s : State) (r k : Nat) : DWord := (s.devDword (s.whoRegion r 4) (s.rcbAddr r + 8 * k)).2

/-- Half of an RCB dword that the device writes. -/
def State.rcbPut32 (s : State) (r k half v : Nat) : State := s.devWrite (s.whoRegion r 4) (s.rcbAddr r + 8 * k + 4 * half) (leBytes 4 v)

/-- A copy of a record goes to the region's absent-fault queue, or is dropped when the queue is full (R401, R402). -/
def absentCopy (s : State) (c : Ctx) (r : FRec) : State :=
  let g := c.who.region
  let d12 := s.rcb g 12
  let d13 := s.rcbNow g 13
  let size := 2 ^ (fld d12 0 4 + 6)
  let tail := fld d13 0 32
  let head := fld d13 32 32
  if (tail + 2 ^ 32 - head) % 2 ^ 32 = size then s
  else
    let t := s.now - (s.die (dieOf c.anyCore)).releasedAt
    let bytes := dwordBytes (r.dwords ++ [BitVec.ofNat 64 (c.who.grid * 2 ^ 32 + c.who.index), BitVec.ofNat 64 (c.slot.getD 0),
      BitVec.ofNat 64 t, 0])
    (s.devWrite (s.whoRegion g 4) (fld d12 4 36 * 16 + 64 * (tail % size)) bytes).rcbPut32 g 13 0 ((tail + 1) % 2 ^ 32)

/-- Whether what is addressed to a context goes to its image: from the entries' installation until the image's barriers have been loaded (R401,
R404). -/
def Ctx.away (c : Ctx) : Bool :=
  match c.loc with
  | .absent => true
  | .saving _ _ => true
  | _ => false

/-- Where a context's saved image lies (R392). -/
def State.imageBase (s : State) (c : Ctx) : Nat := fld (s.rcb c.who.region 14) 16 24 * 2 ^ 16 + (c.slot.getD 0) * 0xA00000

/-- Bytes of the image of an absent context, which follow what is applied to it (R401). -/
def syncImage (s : State) (id off : Nat) (f : Ctx → List Byte) : State :=
  match s.ctx id with
  | some c => if c.away then s.devWrite c.whoImage (s.imageBase c + off) (f c) else s
  | none => s

/-- The fault queue as the image holds it (R395). -/
def fqBytes (c : Ctx) : List Byte :=
  (List.range 32).flatMap (fun k => dwordBytes ((c.xf.fq[k]?).elim [0, 0, 0, 0] FRec.dwords))

/-- The release records that wait at the core (R387, R396). -/
def Ctx.relWaiting (c : Ctx) : List FRec := (c.xf.waitq.filter (·.rel)).take 4

/-- Control dwords 0x5B to 0x6B: how many release records wait at the core, and the records (R396). -/
def relBytes (c : Ctx) : List Byte :=
  leBytes 8 c.relWaiting.length ++ (List.range 4).flatMap (fun k => dwordBytes ((c.relWaiting[k]?).elim [0, 0, 0, 0] FRec.dwords))

/-- Bytes of the image sections whose inner layout the manual does not give, the operand log, the matrix-stream section and the control subset of
the checkpoint, written anew: their values are free (notes/assumptions/5). -/
def State.hideImage (s : State) (c : Ctx) (off n : Nat) : State :=
  let (k, s) := s.fresh
  s.devWrite c.whoImage (s.imageBase c + off) ((List.range n).map (fun i => Config.imageByte k (off + i)))

/-- An absent context's image follows a change in a section without a layout (R401). -/
def syncHidden (s : State) (id off n : Nat) : State :=
  match s.ctx id with
  | some c => if c.away then s.hideImage c off n else s
  | none => s

/-- A command's log entry reads FAULTED once its record is posted (R387). -/
def markFaulted (c : Ctx) (r : FRec) : Ctx :=
  if r.slot = 7 ∧ r.id / 2 ^ 16 ≠ 0xFF then
    { c with xf := { c.xf with log := c.xf.log.map fun k =>
      if k.entry = r.id / 2 ^ 16 ∧ k.tag = r.id % 2 ^ 16 ∧ k.st ≠ .done then { k with st := .faulted } else k } }
  else c

/-- A record is posted to a task's fault queue, or waits for a place (R387). One raised while the task is absent carries ABS from then on, and its copy goes to
the absent-fault queue at once (R401). -/
def postRecord (s : State) (id : Nat) (r : FRec) : State :=
  match s.ctx id with
  | none => s
  | some c =>
    let fresh := c.away && !r.abs
    let r := { r with abs := r.abs || c.away }
    let s := if fresh then absentCopy s c r else s
    if c.xf.fq.length < 32 then
      let s := s.setCtx id (markFaulted { c with xf := { c.xf with fq := c.xf.fq ++ [r] } } r)
      let s := syncImage s id 0x1800 fqBytes
      match c.coreNo with
      | some k => s.push 0 k .engineFault
      | none => s
    else syncImage (s.setCtx id { c with xf := { c.xf with waitq := c.xf.waitq ++ [r] } }) id (0x800 + 8 * 0x5B) relBytes

/-- The head record is removed, and the first waiting record takes the place (R387). -/
def popRecord (s : State) (id : Nat) : State :=
  match s.ctx id with
  | none => s
  | some c =>
    let s := s.setCtx id { c with xf := { c.xf with fq := c.xf.fq.drop 1, waitq := c.xf.waitq.drop 1 } }
    match c.xf.fq, c.xf.waitq with
    | _ :: _, r :: _ => postRecord s id r
    | _, r :: _ => postRecord s id r
    | _, [] => s

/-! ### The diversion table (R398, R399) -/

/-- A diversion entry (R398). -/
def divBytes (e : DivEnt) : List Byte :=
  let d0 := e.state * 2 ^ 61 + b2n e.isCtx * 2 ^ 60 + e.core * 2 ^ 51 + e.ncore * 2 ^ 42 + e.start * 2 ^ 31 + e.count * 2 ^ 19 + e.rights * 2 ^ 16
    + e.share * 2 ^ 14 + e.world * 2 ^ 11
  leBytes 8 d0 ++ leBytes 8 (e.owner + e.slot * 2 ^ 16 + e.next * 2 ^ 32) ++ leBytes 8 e.image ++ leBytes 8 0

/-- When more than 256 entries are on a die, the first ones are spilled (R399). -/
def spillDiv (l : List DivEnt) : List DivEnt :=
  let excess := (l.filter (fun e => !e.spilled)).length - 256
  (l.foldl (fun (acc : Nat × List DivEnt) e =>
    if 0 < acc.1 ∧ e.spilled = false then (acc.1 - 1, acc.2 ++ [{ e with spilled := true }]) else (acc.1, acc.2 ++ [e])) (excess, [])).2

/-- Whether an entry of a context gives way to those of its next switch-out: its context entries, and those of the core it leaves. -/
def DivEnt.replaced (e : DivEnt) (id core : Nat) : Bool := decide (e.ctxId = id ∧ (e.isCtx = true ∨ e.core = core))

/-- The diversion entries of every die changed; the cache holds 256 of a die's, and those that are spilled lie in its table at DIVSPILL, one after another
in the order of the entries, with nothing behind them (R398, R399; the order is DESIGN CHOICE, notes/assumptions/31). -/
def State.mapDivs (s : State) (f : Nat → List DivEnt → List DivEnt) : State :=
  let t := { s with dies := Tab.each (fun k d => { d with div := spillDiv (f k d.div) }) s.dies }
  let out (s : State) (k : Nat) : List DivEnt := (s.die k).div.filter (·.spilled)
  let write (u : State) (k : Nat) : State :=
    if out s k = out t k then u
    else u.devWrite whoDevice (t.die k).divspill
      ((out t k).flatMap divBytes ++ List.replicate (32 * ((out s k).length - (out t k).length)) 0)
  (List.range 4).foldl write t

/-- Every diversion entry of a context changed. -/
def State.updDiv (s : State) (id : Nat) (f : DivEnt → DivEnt) : State :=
  s.mapDivs fun _ l => l.map (fun e => if e.ctxId = id then f e else e)

/-! ### Event records (R199) -/

/-- An event record about a region in a region's queue; a full queue counts it in EVLOST, an invalid region writes nothing (R199). -/
def eventTo (s : State) (queue region type status grid node : Nat) (detail : DWord) : State :=
  if (s.arb.regions.look queue).isNone then s
  else
    let d10 := s.rcb queue 10
    let d11 := s.rcbNow queue 11
    let size := 2 ^ (fld d10 0 4 + 6)
    let tail := fld d11 0 32
    if (tail + 2 ^ 32 - fld d11 32 32) % 2 ^ 32 = size then
      s.rcbPut32 queue 15 1 (satAdd 32 (fld (s.rcbNow queue 15) 32 32) 1)
    else
      let d0 := type * 2 ^ 56 + status * 2 ^ 48 + grid * 2 ^ 40 + region * 2 ^ 24 + node
      ((s.devWrite (s.whoRegion queue 4) (fld d10 4 36 * 16 + 16 * (tail % size)) (leBytes 8 d0 ++ leBytes 8 detail.toNat)).rcbPut32 queue 11 0
        ((tail + 1) % 2 ^ 32)).msix 2

/-- An event record in the queue of the region it concerns. -/
def eventRecord (s : State) (region type status grid node : Nat) (detail : DWord) : State :=
  eventTo s region region type status grid node detail

end Sys2Proof.Machine
end

