-- ==== Sys2Proof/Machine/Requests.lean ====
section
/-! DEFINITION. The requester die (chapter 4): transactions and flits, ports, connections, destination queues, sending, resolution, and
the release counters of chapter 3. -/

namespace Sys2Proof.Machine

/-! ### Transactions and flits (R110 to R116) -/

end Sys2Proof.Machine

namespace Sys2Proof

open Sys2Proof.Machine

/-- OP of a transaction (R116). -/
def Txn.op (t : Txn) : Nat := fld t.d0 58 6
def Txn.srcRank (t : Txn) : Nat := fld t.d0 46 12
def Txn.conn (t : Txn) : Nat := fld t.d0 30 16
def Txn.seq (t : Txn) : Nat := fld t.d0 6 24
def Txn.attempt (t : Txn) : Nat := fld t.d0 2 4
def Txn.ord (t : Txn) : Bool := bit t.d0 1
def Txn.age (t : Txn) : Nat := fld t.d1 56 8
def Txn.taddr (t : Txn) : Nat := fld t.d1 0 56
def Txn.len (t : Txn) : Nat := fld t.d2 40 8 + 1
def Txn.amop (t : Txn) : Nat := fld t.d2 36 4
def Txn.asize (t : Txn) : Nat := fld t.d2 34 2
def Txn.masked (t : Txn) : Bool := bit t.d2 33
def Txn.barv (t : Txn) : Bool := bit t.d2 32
def Txn.barrier (t : Txn) : Nat := fld t.d2 16 16
def Txn.ftz (t : Txn) : Bool := bit t.d2 10
def Txn.lowdist (t : Txn) : Nat := fld t.d2 0 10

end Sys2Proof

namespace Sys2Proof.Machine


def Op.rdreq : Nat := 0x01
def Op.wrreq : Nat := 0x02
def Op.amoreq : Nat := 0x03
def Op.rdrsp : Nat := 0x08
def Op.wrack : Nat := 0x09
def Op.amorsp : Nat := 0x0A
def Op.redreq : Nat := 0x0C
def Op.mcastreq : Nat := 0x0D
def Op.mergereq : Nat := 0x0E
def Op.redrsp : Nat := 0x0F
def Op.connopen : Nat := 0x10
def Op.connack : Nat := 0x11
def Op.connclose : Nat := 0x12
def Op.connnak : Nat := 0x13

/-- Whether an OP is one of R116. -/
def opKnown (op : Nat) : Bool :=
  (0x01 ≤ op && op ≤ 0x03) || (0x08 ≤ op && op ≤ 0x0A) || (0x0C ≤ op && op ≤ 0x13)

/-- The virtual channel of an OP (R116). -/
def opVc (op : Nat) : Nat :=
  if op ≤ 3 then 0 else if op ≤ 0x0B then 1 else if op ≤ 0x0F then 2 else 3

/-- Whether a request of this OP carries LOWDIST: a contribution, in whose dword 2 only EPOCH and LENM1 are not zero (R143), and a notice (R155) do
not. -/
def opLow (op : Nat) : Bool := !(decide (op = Op.redreq) || decide (op = Op.mergereq) || decide (op = Op.redrsp))

/-- Whether a transaction is a completion: it travels to the requester die (R115). -/
def opIsReply (op : Nat) : Bool := (0x08 ≤ op && op ≤ 0x0A) || op = 0x0F

end Sys2Proof.Machine
namespace Sys2Proof
open Sys2Proof.Machine
/-- The data bytes that follow a header (R115, R116). The header of an RDRSP has no length: its data are as many bytes as its request asked for. -/
def Txn.dataBytes (t : Txn) : Nat :=
  let op := t.op
  if op = Op.wrreq ∨ op = Op.mcastreq then t.len
  else if op = Op.redreq ∨ op = Op.mergereq then 32 + t.len
  else if op = Op.amoreq then 16
  else if op = Op.connopen then 8
  else if op = Op.rdrsp then if fld t.d2 32 4 = 0 then t.data.length else 0
  else if op = Op.amorsp then if fld t.d2 32 4 = 0 then 16 else 0
  else 0
end Sys2Proof
namespace Sys2Proof.Machine

/-- A list of bytes padded to whole units of 16 bytes. -/
def padUnits (bs : List Byte) : List Byte := bs ++ List.replicate ((16 - bs.length % 16) % 16) 0

end Sys2Proof.Machine
namespace Sys2Proof
open Sys2Proof.Machine
/-- The units a transaction takes on a link (R115). -/
def Txn.bytes (t : Txn) : List Byte := dwordBytes [t.d0, t.d1, t.d2, t.d3] ++ padUnits t.data
end Sys2Proof
namespace Sys2Proof.Machine

/-- One byte of the CRC-64 of R110, most significant bit first. -/
def crcByte (crc b : Nat) : Nat :=
  (List.range 8).foldl (fun c i =>
    let top := (c / 2 ^ 63 + b / 2 ^ (7 - i)) % 2
    (c * 2 % 2 ^ 64) ^^^ (if top = 1 then 0x42F0E1EBA9EA3693 else 0)) crc

/-- CRC-64 with initial value and final XOR all ones (R110). -/
def crc64 (bs : List Byte) : Nat := (bs.foldl (fun c b => crcByte c b.toNat) (2 ^ 64 - 1)) ^^^ (2 ^ 64 - 1)

/-- The header and payload of a flit, but for ACKBASE and the credits, which are filled in when it leaves (R110). -/
def makeFlit (ftype vc lseq dpkg : Nat) (payload : List Byte) : List Byte :=
  let h := ftype * 2 ^ 60 + vc * 2 ^ 58 + lseq % 4096 * 2 ^ 46 + 2 ^ 33 + dpkg * 2 ^ 8
  leBytes 8 h ++ (payload ++ List.replicate (240 - payload.length) 0).take 240

/-- The credits a flit returns: those owed on the lowest channel that any are owed on, at most 127 (R110; which channel, and that no flit waits for
credits, whose number at the start the manual does not give, are DESIGN CHOICE, notes/assumptions/42). -/
def Port.credits (q : Port) : Nat × Nat := ((q.owed.find? (fun p => decide (0 < p.2))).map (fun p => (p.1, Nat.min p.2 127))).getD (0, 0)

/-- A flit of 256 bytes as it leaves a port: ACKBASE, the returned credits, and the CRC (R110). -/
def Port.leave (q : Port) (bs : List Byte) : List Byte :=
  let h := setFld (setFld (setFld (dwordAt bs 0) 34 12 q.ackbase) 31 2 q.credits.1) 24 7 q.credits.2
  let body := dwordBytes [h] ++ (bs.drop 8).take 240
  body ++ leBytes 8 (crc64 body)

def State.port (s : State) (p : Nat) : Port := s.mid.ports.val Port.reset p
def State.updPort (s : State) (p : Nat) (f : Port → Port) : State :=
  { s with mid := { s.mid with ports := s.mid.ports.set p (f (s.port p)) } }

/-- A port error counted (R136). -/
def portErr (s : State) (p : Nat) : State := if p < 48 then s.updPort p fun q => { q with errs := satAdd 16 q.errs 1 } else s

/-- A flit that is kept but not yet sent has this for its first cycle. -/
def unsent : Nat := 2 ^ 63

/-- A flit leaves a port. -/
def emitFlit (s : State) (p : Nat) (bs : List Byte) : State :=
  let q := s.port p
  let (v, n) := q.credits
  let s := { s with out := (p, q.leave bs) :: s.out }
  if n = 0 then s else s.updPort p fun q => { q with owed := q.owed.put 0 v (q.owed.val 0 v - n) }

/-- A flit at its first sending: the AGE of a transaction that begins in it counts the whole µs it has waited in the port's queue (R122). -/
def Flit.aged (f : Flit) (now : Nat) : Flit :=
  let wait := (now - f.queued + usCycles - 1) / usCycles
  if f.head = false ∨ wait = 0 then { f with first := now, last := now }
  else
    let d1 := dwordAt (f.bytes.drop 8) 1
    { f with
      first := now, last := now
      bytes := f.bytes.take 16 ++ dwordBytes [setFld d1 56 8 (Nat.min 255 (fld d1 56 8 + wait))] ++ f.bytes.drop 24 }

/-- Sends what the replay buffer may send: flits within 256 of the oldest unacknowledged one (R112). -/
def sendReady (s : State) (p : Nat) : State :=
  let q := s.port p
  let low := (q.replay.head?).elim q.lseq (·.lseq)
  let go (f : Flit) : Bool := decide (f.first = unsent) && decide ((f.lseq + 4096 - low) % 4096 < 256)
  let fs := q.replay.filter go
  if fs = [] then s
  else
    let s := s.updPort p fun q => { q with replay := q.replay.map (fun f => if go f then f.aged s.now else f) }
    let s := fs.foldl (fun s f => emitFlit s p (f.aged s.now).bytes) s
    (s.push 875 p .replayTimeout).push (4 * usCycles) p .linkUnackTimeout

/-- A DATA flit joins the replay buffer of a port that is up (R112); whether a transaction begins in it is told. -/
def queueFlit (s : State) (p vc dpkg : Nat) (head : Bool) (payload : List Byte) : State :=
  let q := s.port p
  let f : Flit :=
    { lseq := q.lseq, bytes := makeFlit 1 vc q.lseq dpkg payload, queued := s.now, head := head, first := unsent, last := unsent }
  sendReady (s.updPort p fun q => { q with replay := q.replay ++ [f], lseq := (q.lseq + 1) % 4096 }) p

/-- Pieces of at most n bytes. -/
def chunks (n : Nat) : Nat → List Byte → List (List Byte)
  | 0, _ => []
  | fuel + 1, bs => if bs = [] then [] else bs.take n :: chunks n fuel (bs.drop n)

/-- The units of one transaction of a channel queued on a port, in flits of their own (R110, R115). -/
def queueUnits (s : State) (p vc dpkg : Nat) (bs : List Byte) : State :=
  (chunks 240 3 bs).zipIdx.foldl (fun s c => queueFlit s p vc dpkg (decide (c.2 = 0)) c.1) s

/-- Port 48 stands for the package itself: what it sends arrives at its own responder or requester die (R34). -/
def selfPort : Nat := 48

/-- The arrival of a transaction at a Midfield die, as the step its OP calls for (R115, R116). A final notice is a request (R155). -/
def arrival (port : Nat) (peer : Nat) (t : Txn) : Instr :=
  let op := t.op
  if op = Op.connopen then .connopen port peer t
  else if op = Op.connack then .connack peer t
  else if op = Op.connclose then .connclose peer t
  else if op = Op.connnak then .connnak peer t
  else if opIsReply op && !(decide (op = Op.redrsp) && bit t.d3 0) then .remoteCompletionReceive peer t
  else .remoteRequestReceive port t

/-- Sends a transaction toward a package on a port; a port that is DOWN loses it (R114). On a UALink port the transaction's bytes stand for the
UALink message, whose form this specification does not give (R139). -/
def sendTxn (s : State) (p dpkg : Nat) (t : Txn) : State :=
  if p = selfPort then s.push 0 0 (arrival selfPort s.pkg t)
  else if (s.port p).mode < 2 then s
  else if (s.port p).mode = 4 then { s with out := (p, t.bytes) :: s.out }
  else queueUnits s p (opVc t.op) dpkg t.bytes

/-! ### Classes of traffic (R138) -/

/-- Whether a port mode (2 Renox 1, 3 Renox 2, 4 UALink) carries a transaction (R138). A reduction's REPRO is in dword 0 of its descriptor (R143). -/
def modeCarries (mode : Nat) (t : Txn) : Bool :=
  let op := t.op
  let red := op = Op.redreq
  let big := op = Op.mcastreq || op = Op.mergereq || (red && fld (dwordAt t.data 0) 35 2 = 2)
  match mode with
  | 3 => true
  | 2 => !big
  | 4 => ((1 ≤ op && op ≤ 3) || (8 ≤ op && op ≤ 0xA)) && !t.barv && !(decide (op = Op.amoreq) && decide (0xA ≤ t.amop))
  | _ => false

/-- The ports of a mask. -/
def portsOf (mask : Nat) : List Nat := (List.range 48).filter (fun p => mask.testBit p)

/-- Whether a port is up: one that trains carries nothing, and stands with those that are DOWN where a path is chosen (R124, R128; DESIGN CHOICE,
notes/assumptions/42). -/
def State.portUp (s : State) (p : Nat) : Bool := p = selfPort || decide (2 ≤ (s.port p).mode)

/-- The ports of a connection that can carry a transaction now. -/
def carriers (s : State) (mask : Nat) (t : Txn) : List Nat := (portsOf mask).filter (fun p => modeCarries (s.port p).mode t)

/-- The next port after one, in ascending number with wrap-around (R124). -/
def nextPort (l : List Nat) (p : Nat) : Option Nat :=
  match l.find? (fun q => decide (p < q)) with
  | some q => some q
  | none => l.head?

/-! ### Rank tables and connections -/

/-- The key of a rank-table entry. -/
def rankKey (job rank : Nat) : Nat := job * 4096 + rank
def State.rank (s : State) (job rank : Nat) : RankEnt := s.mid.ranks.val RankEnt.reset (rankKey job rank)
def State.updRank (s : State) (job rank : Nat) (f : RankEnt → RankEnt) : State :=
  { s with mid := { s.mid with ranks := s.mid.ranks.set (rankKey job rank) (f (s.rank job rank)) } }
def State.slotHdr (s : State) (job : Nat) : SlotHdr := s.mid.slots.val SlotHdr.reset job
def State.updConn (s : State) (k : Nat) (f : Conn → Conn) : State :=
  match s.mid.conns.look k with
  | some c => { s with mid := { s.mid with conns := s.mid.conns.set k (f c) } }
  | none => s
def State.updReq (s : State) (k : Nat) (f : Req → Req) : State :=
  match s.mid.reqs.look k with
  | some r => { s with mid := { s.mid with reqs := s.mid.reqs.set k (f r) } }
  | none => s

/-- A remote completion word (R130). -/
def cword (rank cstat : Nat) (fword : DWord) : DWord := BitVec.ofNat 64 (rank * 2 ^ 36 + cstat * 2 ^ 32) ||| fword
/-- CSTAT of a completion word. -/
def cstatOf (w : DWord) : Nat := fld w 32 4

def Cstat.ok : Nat := 0
def Cstat.fault : Nat := 1
def Cstat.indeterminate : Nat := 2
def Cstat.dataError : Nat := 3
def Cstat.connRefused : Nat := 4
def Cstat.protocol : Nat := 5
def Cstat.unsupported : Nat := 6
def Cstat.partial' : Nat := 7
def Cstat.expired : Nat := 8

/-- Whether a rank is reached inside the package (R34). -/
def State.isLocalRank (s : State) (r : RankEnt) : Bool := r.pkg = s.pkg

/-- Whether every port of a mask is in UALink mode (R102, R138). -/
def State.ualinkMask (s : State) (mask : Nat) : Bool :=
  let l := portsOf mask
  !l.isEmpty && l.all (fun p => (s.port p).mode = 4)

/-! ### Fence counters (R102 to R104) -/

/-- The key of the fence entry of a context's epoch for a rank. -/
def fenceIs (e : FenceEnt) (ctx epoch job rank : Nat) : Bool := decide (e.ctx = ctx ∧ e.epoch = epoch ∧ e.job = job ∧ e.rank = rank)

/-- A release that waits for entries, with one write it counted resolved (R102, R103). -/
def Release.resolve (r : Release) (epoch key worst : Nat) : Release :=
  if r.epoch = epoch then
    { r with counts := r.counts.map (fun p => if p.1 = key then (p.1, p.2.1 - 1, max p.2.2 worst) else p) }
  else r

/-- A counted write is resolved: its entry's COUNT falls by 1 and WORST takes the greater code, or, while the release waits for entries, what it
will put there (R103, R104). -/
def fenceResolve (s : State) (ctx epoch job rank worst : Nat) : State :=
  let f := Tab.each (fun _ e => if fenceIs e ctx epoch job rank then ({ e with count := e.count - 1, worst := max e.worst worst } : FenceEnt) else e)
    s.mid.fences
  let waiting (c : Ctx) : Ctx := { c with ph := { c.ph with rels := c.ph.rels.map (·.resolve epoch (rankKey job rank) worst) } }
  ({ s with mid := { s.mid with fences := f } }.updCtx ctx waiting).push 0 ctx .releaseComplete

/-- The code a resolution gives WORST: 1 RANK-FENCED, 2 INDETERMINATE (R103). -/
def worstOf (w : DWord) : Nat :=
  if cstatOf w = Cstat.indeterminate then 2
  else if cstatOf w = Cstat.fault ∧ fld w 0 4 = Tstat.rankFenced ∧ bit w 8 = false then 1 else 0

/-! ### Resolution -/

/-- Contributions that are waited for no longer. -/
def State.endCRecs (s : State) (p : CRec → Bool) : State :=
  { s with mid := { s.mid with crecs := Tab.each (fun _ r => if p r then { r with past := true } else r) s.mid.crecs } }

/-- What a request was made for hears of its end (R108, R125, R292, R293, R295). -/
def deliver (s : State) (r : Req) (w : DWord) (data : List Byte) : State :=
  match r.what with
  | .scalar id _ => s.updCtx id fun c => { c with ph := { c.ph with rem := c.ph.rem.map (fun m => { m with answer := some (w, data) }) } }
  | .line id pc va =>
    if cstatOf w = 0 then s
    else postRecord s id
      { cause := Cause.remote, pc := pc, rel := false, stepf := false, abs := false, slot := 2, id := 0xFF0000, addr := va, detail := w }
  | .cmd id q order va =>
    let ok := decide (cstatOf w = 0)
    let note (k : Cmd) : Cmd :=
      if k.seq ≠ q ∨ k.st = .done then k
      else if ok then
        { k with got := if data = [] then k.got else k.got ++ [(order, data)], cword := if k.cword = 0 then w else k.cword }
      else
        let f : XFail := { order := order, cause := Cause.remote, addr := va, detail := w }
        { k with failed := k.failed ++ [f] }
    let s := s.updCtx id fun c => { c with xf := { c.xf with log := c.xf.log.map note } }
    -- an accepted contribution is kept until its notice comes (R158)
    let mine (r : CRec) : Bool := decide (r.ctx = id ∧ r.entry = q ∧ r.row = order) && !r.past
    let s := match s.mid.crecs.find? (fun (_, r) => mine r) with
      | some (k, r) =>
        if ok then
          let s := { s with mid := { s.mid with crecs := s.mid.crecs.set k { r with accepted := some s.now } } }
          s.push (r.wait * usCycles) k .contributionTimeout
        else s.endCRecs mine
      | none => s
    s.push 0 id .commandStart
  | .forward key => match s.mid.comb.look key with
    | none => s
    | some e =>
      let ok := decide (cstatOf w = 0)
      if e.st ≠ 3 then s else
      let e' := if ok then { e with acks := e.acks + 1, started := s.now } else { e with fword := w }
      let s := { s with mid := { s.mid with comb := s.mid.comb.set key e' } }
      s.push (if ok then (e.tout + fld s.mid.fabtime 32 20) * usCycles else 0) key .forwardNoticeTimeout
  | .notice key => s.push 0 key .noticeAcked
  | .nothing => s

/-- A request ends: its queue place, credit and OUTST are given back, its fence counter counts, and its maker hears (R125, R133). -/
def resolve (s : State) (k : Nat) (w : DWord) (data : List Byte) : State :=
  match s.mid.reqs.look k with
  | none => s
  | some r =>
    let sent := match r.st with
      | .sent _ => true
      | .expiring => true
      | _ => false
    let s := { s with mid := { s.mid with reqs := s.mid.reqs.del k } }
    let s := s.updConn r.conn fun c => { c with
      queue := c.queue.filter (· ≠ k), credits := if sent then c.credits + 1 else c.credits, lastUse := s.now }
    let s := if sent then s.updRank r.job r.rank fun e => { e with outst := e.outst - 1 } else s
    let s := if s.mid.reqs.any (fun (_, q) => decide (q.conn = r.conn ∧ q.st ≠ .held)) then s else
      s.push (if (s.mid.conns.look r.conn).any (fun c => decide (c.st = .draining)) then 0 else fld s.mid.fabtime 12 20 * usCycles) r.conn .connIdleClose
    let s := match r.what, r.counted with
      | .scalar id _, true => fenceResolve s id r.epoch r.job r.rank (worstOf w)
      | .line id _ _, true => fenceResolve s id r.epoch r.job r.rank (worstOf w)
      | .cmd id _ _ _, true => fenceResolve s id r.epoch r.job r.rank (worstOf w)
      | _, _ => s
    (deliver s r w data).push 0 r.conn .remoteRequestSend

/-- The completion word of a failure at the source (R131). -/
def sourceFail (rank tstat : Nat) (acc : Acc) : DWord := cword rank Cstat.fault (faultWord tstat 0 acc false false)

end Sys2Proof.Machine
namespace Sys2Proof
open Sys2Proof.Machine
/-- The access kind of a transaction, for the fault word. -/
def Txn.acc (t : Txn) : Acc := if t.op = Op.rdreq then .read else if t.op = Op.amoreq then .atomic else .write
end Sys2Proof
namespace Sys2Proof.Machine

/-! ### Queueing (R107, R119, R125) -/

/-- The open requester connection to a rank on its present path, if there is one. -/
def State.connTo (s : State) (job rank : Nat) : Option (Nat × Conn) :=
  let e := s.rank job rank
  s.mid.conns.find? fun (_, c) =>
    c.requester && decide (c.job = job ∧ c.rank = rank ∧ c.pkg = e.pkg ∧ c.ports = e.ports) &&
      (match c.st with
        | .opening _ => true
        | .opened => true
        | _ => false)

/-- A port for control traffic to a connection. -/
def State.connPort (s : State) (c : Conn) (t : Txn) : Option Nat × State :=
  if c.pkg = s.pkg then (some selfPort, s)
  else
    let l := carriers s c.ports t
    if l = [] then (none, s)
    else
      let (k, s) := s.fresh
      (l[Config.portChoice k l.length % l.length]?, s)

/-- The CONNOPEN of a connection (R116, R119). -/
def openTxn (s : State) (c : Conn) : Txn :=
  { d0 := BitVec.ofNat 64 (Op.connopen * 2 ^ 58 + (s.slotHdr c.job).selfrank * 2 ^ 46 + c.openTag % 2 ^ 24 * 2 ^ 6), d1 := 0, d2 := 0, d3 := 0,
    data := leBytes 4 (s.slotHdr c.job).jobid ++ leBytes 2 s.pkg ++ [0, 0] }

/-- The wait of attempt n in cycles: min(2^(TOEXP + n), 1,048,576) µs (R124). -/
def attemptWait (toexp n : Nat) : Nat := min (2 ^ (toexp + n)) 1048576 * usCycles

/-- Sends attempt n of an open (R119, R124). -/
def sendOpen (s : State) (k n : Nat) : State :=
  match s.mid.conns.look k with
  | none => s
  | some c =>
    let (p, s) := s.connPort c (openTxn s c)
    let s := match p with
      | some p => sendTxn s p c.pkg (openTxn s c)
      | none => s
    (s.updConn k fun c => { c with st := .opening n }).push (attemptWait 2 n) 0 (.connopenTimeout k n)

/-- The contexts the cache holds, and those the spill area takes beyond it (R120). -/
def connCache : Nat := 8192
def connRoom : Nat := 8192 + 65536

/-- A cache that holds too many contexts spills the one used longest ago (R120; which one is DESIGN CHOICE). -/
def spillConns (s : State) : State :=
  let held := s.mid.conns.filter (fun (_, c) => !c.spilled)
  if held.length ≤ connCache then s
  else match leastBy (fun (p : Nat × Conn) => p.2.lastUse) held with
    | some (k, _) => s.updConn k fun c => { c with spilled := true }
    | none => s

/-- A new connection to a rank: an Evovia peer is opened, a foreign one in UALink mode needs no open (R119, R139). -/
def openConn (s : State) (job rank : Nat) : State × Nat :=
  let e := s.rank job rank
  let k := s.mid.nextConn
  let ual := s.ualinkMask e.ports
  let c : Conn :=
    { requester := true, number := 0, job := job, rank := rank, pkg := e.pkg, st := if ual then .opened else .opening 0,
      openTag := s.mid.openCtr, nextSeq := 0, credits := 64, ports := e.ports, queue := [], lastUse := s.now, spilled := false, region := 0,
      world := 0, asn := 0, root := 0, base := 0, seen := [], results := [], done := [], hold := [] }
  let s := spillConns { s with mid := { s.mid with conns := s.mid.conns.set k c, nextConn := k + 1, openCtr := s.mid.openCtr + 1 } }
  (if ual then s else sendOpen s k 0, k)

/-- Stands for a request's connection while its rank refuses it. -/
def noConn : Nat := 2 ^ 40

/-- Whether a request finds no connection and no room for the context of a new one (R120). -/
def State.noContext (s : State) (job rank : Nat) : Bool := (s.connTo job rank).isNone && decide (connRoom ≤ s.mid.conns.length)

/-- Queues a request for its rank; where the rank is INVALID or FENCED, or no connection can be opened, it completes by itself as soon as its maker
has sent it (R35, R107, R120, R125). -/
def enqueue (s : State) (k : Nat) : State :=
  match s.mid.reqs.look k with
  | none => s
  | some r =>
    let e := s.rank r.job r.rank
    if e.v = false ∨ e.fenced = true ∨ s.noContext r.job r.rank = true then
      (s.updReq k fun r => { r with st := .queued, conn := noConn }).push 0 (noConn + 1 + k) .remoteRequestSend
    else
      let (s, cn) := match s.connTo r.job r.rank with
        | some (cn, _) => (s, cn)
        | none => openConn s r.job r.rank
      let s := s.updConn cn fun c => { c with queue := c.queue ++ [k] }
      (s.updReq k fun r => { r with st := .queued, conn := cn }).push 0 cn .remoteRequestSend

/-- Completes a request that its rank refuses, unless the rank has become usable meanwhile (R35, R107). -/
def refuse (s : State) (k : Nat) : State :=
  match s.mid.reqs.look k with
  | none => s
  | some r =>
    let e := s.rank r.job r.rank
    if r.conn ≠ noConn then s
    else if e.v = false then resolve s k (sourceFail r.rank Tstat.rankInvalid r.txn.acc) []
    else if e.fenced then resolve s k (sourceFail r.rank Tstat.rankFenced r.txn.acc) []
    else if s.noContext r.job r.rank then resolve s k (cword r.rank Cstat.connRefused 0) []
    else enqueue s k

/-- The oldest release of a context that is not complete: later epochs are held behind it (R105). -/
def Ctx.holdEpoch (c : Ctx) : Option Nat := (c.ph.rels.head?).map (·.epoch)

/-- The address at the source of what a request was made for. -/
def ReqFor.va : ReqFor → Option Nat
  | .scalar _ va => some va
  | .line _ _ va => some va
  | .cmd _ _ _ va => some va
  | _ => none

/-- Makes a request: its transaction, its window's time-outs, its epoch when it is counted; a later epoch than the oldest incomplete
release is held at the Midfield die (R101, R105, R107). The reserved epoch value that detached writes carry, which nothing in the model reads, is
0xFFFF (R101 names no value; DESIGN CHOICE, notes/assumptions/45). -/
def submit (s : State) (what : ReqFor) (ctx : Option Nat) (job rank src toexp retries : Nat) (counted : Bool) (t : Txn) : State × Nat :=
  let k := s.mid.nextReq
  let c := ctx.bind s.ctx
  let epoch := c.elim 0 (·.ph.epoch)
  let t := { t with
    d0 := setFld t.d0 46 12 (s.slotHdr job).selfrank
    d2 := if t.op = Op.redrsp then t.d2 else setFld t.d2 48 16 (if counted then epoch else 0xFFFF) }
  let r : Req :=
    { conn := 0, what := what, job := job, rank := rank, txn := t, st := .held, port := 0, lastSend := 0, toexp := toexp, retries := retries,
      win := what.va.bind (fun va => c.map (fun c => (c.who.world, c.who.region, va / 2 ^ 48 % 128))), src := src, epoch := epoch, counted := counted }
  let s := { s with mid := { s.mid with reqs := s.mid.reqs.set k r, nextReq := k + 1 } }
  let held := counted && (c.bind Ctx.holdEpoch).isSome
  (if held then s else enqueue s k, k)

/-- Releases the held requests of a context whose epoch no incomplete release precedes, in the order they were sent (R105). -/
def releaseHeld (s : State) (id : Nat) : State :=
  match s.ctx id with
  | none => s
  | some c =>
    let ok (r : Req) : Bool := match c.holdEpoch with
      | some e => decide (r.epoch = e)
      | none => true
    let mine (r : Req) : Bool := match r.what with
      | .scalar i _ => i = id
      | .line i _ _ => i = id
      | .cmd i _ _ _ => i = id
      | _ => false
    (s.mid.reqs.filter (fun (_, r) => decide (r.st = .held) && mine r && ok r)).foldl (fun s p => enqueue s p.1) s

/-! ### Sending (R121, R124, R125, R421) -/

/-- A list cut or filled with zeros to n bytes. -/
def fitBytes (n : Nat) (l : List Byte) : List Byte := (l ++ List.replicate n 0).take n

/-- The IV of a protected transaction with the header that is authenticated behind it: the requester package, the connection-open counter, and
the header without its AGE, which every die on the way changes (R421). -/
def sealIv (pkg tag : Nat) (t : Txn) : List Byte :=
  leBytes 12 (pkg * 2 ^ 80 + t.conn * 2 ^ 64 + t.seq * 2 ^ 40 + t.attempt * 2 ^ 36 + b2n (opIsReply t.op) * 2 ^ 35 + tag % 2 ^ 32 * 2 ^ 3)
    ++ dwordBytes [t.d0, setFld t.d1 56 8 0, t.d2, t.d3]

/-- Where the link key of a slot in a world is kept (R421). -/
def linkKeyAt (job world : Nat) : Nat := job * 8 + world
/-- The link key of a slot. -/
def State.jobKey (s : State) (job : Nat) : List Byte := (s.gecko.jobKeys.look (linkKeyAt job (s.slotHdr job).world)).getD []

/-- A transaction of a protected slot as it travels: its data units enciphered, a tag unit behind them (R421). -/
def sealTxn (s : State) (job pkg tag : Nat) (t : Txn) : Txn :=
  if (s.slotHdr job).world = 0 then t
  else
    let d := padUnits t.data
    { t with data := fitBytes (d.length + 16) (Config.gcmSeal (s.jobKey job) (sealIv pkg tag t) d) }

/-- A transaction of a protected slot as it is understood; none when its tag fails (R421). A notice's data are all its units, its header giving no
length (R155). -/
def unsealTxn (s : State) (job pkg tag : Nat) (t : Txn) : Option Txn :=
  if (s.slotHdr job).world = 0 then some t
  else
    let n := t.data.length - 16
    (Config.gcmOpen (s.jobKey job) (sealIv pkg tag t) (t.data.take n) (t.data.drop n)).map
      fun p => { t with data := fitBytes (if t.op = Op.redrsp then n else Nat.min t.dataBytes n) p }

/-- Oldest unresolved SEQ of a connection (R125). -/
def lowSeq (s : State) (k : Nat) (c : Conn) : Nat :=
  let seqs := s.mid.reqs.filterMap fun (_, r) =>
    if decide (r.conn = k) && (match r.st with | .sent _ => true | .expiring => true | _ => false) then some r.txn.seq else none
  let back (q : Nat) : Nat := (c.nextSeq + 2 ^ 24 - q) % 2 ^ 24
  (c.nextSeq + 2 ^ 24 - (seqs.map back).foldl max 0) % 2 ^ 24

/-- The region a request is made for: its task's, or that of the job slot of what the die itself sends (R210). -/
def State.forRegion (s : State) (r : Req) : Option Nat :=
  let task (i : Nat) : Option Nat := (s.ctx i).map (·.who.region)
  match r.what with
  | .scalar i _ => task i
  | .line i _ _ => task i
  | .cmd i _ _ _ => task i
  | _ => some (s.slotHdr r.job).region

/-- Sends attempt n of a request on the next port of its connection (R124); with no port up the attempt is lost. -/
def sendAttempt (s : State) (k n : Nat) : State :=
  match s.mid.reqs.look k with
  | none => s
  | some r => match s.mid.conns.look r.conn with
    | none => s
    | some c =>
      let low := (r.txn.seq + 2 ^ 24 - lowSeq s r.conn c) % 2 ^ 24
      let t := { r.txn with
        d0 := setFld r.txn.d0 2 4 n
        d1 := setFld r.txn.d1 56 8 0
        d2 := if n = 0 ∨ !opLow r.txn.op then r.txn.d2 else setFld r.txn.d2 0 10 low }
      let (p, s) :=
        if c.pkg = s.pkg then (some selfPort, s)
        else if n = 0 then s.connPort c t
        else (nextPort (carriers s c.ports t) r.port, s)
      -- a port in UALink mode makes one attempt (R138)
      let once := p.any (fun p => (s.port p).mode = 4)
      let s := s.updReq k fun r => { r with
        st := .sent n, port := p.getD r.port, lastSend := s.now, txn := t, retries := if once then n else r.retries }
      let s := match p with
        | some p =>
          let s := sendTxn s p c.pkg (if p = selfPort then t else sealTxn s r.job s.pkg c.openTag t)
          if p = selfPort then s else (s.forRegion r).elim s (fun g => s.chargeFab g t.bytes.length)
        | none => s
      s.push (attemptWait r.toexp n) 0 (.remoteRetryTimeout k n)

/-- Whether no port of a connection can carry a request's class, counting a port that is DOWN as able to (R138, R421). -/
def classRefused (s : State) (c : Conn) (r : Req) : Bool :=
  c.pkg ≠ s.pkg &&
    ((portsOf c.ports).all (fun p => 2 ≤ (s.port p).mode && !modeCarries (s.port p).mode r.txn) ||
      ((s.slotHdr r.job).world ≠ 0 && (portsOf c.ports).any (fun p => (s.port p).mode = 2 || (s.port p).mode = 4)))

/-- A connection takes no further request: those it has not sent go to another, and it closes when the last is resolved (R36, R119, R421). One
that was still opening has failed. -/
def reroute (s : State) (k : Nat) : State :=
  match s.mid.conns.look k with
  | none => s
  | some c =>
    let mine := c.queue.filter (fun q => (s.mid.reqs.look q).any (fun r => decide (r.st = .queued)))
    let s := s.updConn k fun c => { c with queue := c.queue.filter (fun q => !mine.contains q), st := if c.st = .opened then .draining else .failed }
    (mine.foldl enqueue s).push 0 k .connIdleClose

/-- The requests that have a place in a connection's destination queue: its first 16; those behind them are parked (R133). -/
def Conn.placed (c : Conn) : List Nat := c.queue.take 16

/-- How many requests of a core are parked: eight places are theirs (R133). -/
def State.parked (s : State) (core : Nat) : Nat :=
  (s.mid.conns.flatMap (fun (_, c) => c.queue.drop 16)).countP (fun q => (s.mid.reqs.look q).any (fun r => decide (r.src = core)))

/-- How many remote writes of a core its hold queue of 64 entries holds (R105). -/
def State.heldWrites (s : State) (core : Nat) : Nat := s.mid.reqs.countP (fun (_, r) => decide (r.src = core ∧ r.st = .held))

/-- Whether a core sends no remote access for now: its eight parking slots are taken (R133), or the access is a counted write and its hold queue is
full (R105). -/
def State.mustHold (s : State) (core : Nat) (counted : Bool) : Bool :=
  decide (8 ≤ s.parked core) || counted && decide (64 ≤ s.heldWrites core)

/-- The first queued request of a connection is sent, when the rank entry, the credits and the sequence room allow; or it ends at once
(R35, R121, R125, R133, R138); one of a region whose fabric pool is exhausted and capped waits for the next period (R211). -/
def sendNext (s : State) (k : Nat) : State :=
  match s.mid.conns.look k with
  | none => s
  | some c =>
    match c.placed.find? (fun q => (s.mid.reqs.look q).any (fun r => decide (r.st = .queued))) with
    | none => s
    | some q => match s.mid.reqs.look q with
      | none => s
      | some r =>
        let e := s.rank c.job c.rank
        if e.v = false then resolve s q (sourceFail c.rank Tstat.rankInvalid r.txn.acc) []
        else if e.fenced then resolve s q (sourceFail c.rank Tstat.rankFenced r.txn.acc) []
        else if c.st = .failed then resolve s q (cword c.rank Cstat.connRefused 0) []
        else if c.st ≠ .opened then s
        else if c.spilled then s.pushOnce 0 k .contextFetch
        else if (s.slotHdr c.job).world ≠ 0 ∧ c.nextSeq + 1 = 2 ^ 24 then reroute s k
        else if classRefused s c r then resolve s q (cword c.rank Cstat.unsupported 0) []
        else if c.pkg ≠ s.pkg ∧ (s.forRegion r).any s.fabHeld = true then s.pushOnce 1 k .remoteRequestSend
        else
          let low := lowSeq s k c
          let dist := (c.nextSeq + 2 ^ 24 - low) % 2 ^ 24
          -- over a port in UALink mode an ordered request goes only after the previous one has completed (R138)
          let ualWait := (portsOf c.ports).any (fun p => (s.port p).mode = 4) && r.txn.ord && decide (c.nextSeq ≠ low)
          if e.hold || decide (c.credits = 0) || decide (1024 ≤ dist) || ualWait then s
          else
            let t := { r.txn with
              d0 := setFld (setFld r.txn.d0 6 24 c.nextSeq) 30 16 c.number
              d2 := if opLow r.txn.op then setFld r.txn.d2 0 10 dist else r.txn.d2 }
            let s := s.updReq q fun r => { r with txn := t }
            let s := s.updConn k fun c => { c with nextSeq := (c.nextSeq + 1) % 2 ^ 24, credits := c.credits - 1, lastUse := s.now }
            let dk := rankKey c.job c.rank
            let timer := if e.outst = 0 then s.mid.destLast.set dk s.now else s.mid.destLast
            let s := { s with mid := { s.mid with destLast := timer } }
            let s := s.updRank c.job c.rank fun e => { e with outst := satAdd 16 e.outst 1 }
            let s := if e.outst = 0 then s.pushOnce (fld s.mid.fabtime 32 20 * usCycles) 0 (.destTimeout c.job c.rank) else s
            (sendAttempt s q 0).push 0 k .remoteRequestSend

/-! ### Releases at a core (R101, R102) -/

/-- The ranks that a context's unresolved counted writes of its present epoch go to, with their number (R102). -/
def Ctx.remoteCounts (s : State) (id : Nat) (c : Ctx) : List ((Nat × Nat) × Nat) :=
  let mine := s.mid.reqs.filterMap fun (_, r) =>
    let hers := match r.what with
      | .scalar i _ => decide (i = id)
      | .line i _ _ => decide (i = id)
      | .cmd i _ _ _ => decide (i = id)
      | _ => false
    if hers && r.counted && decide (r.epoch = c.ph.epoch) then some (r.job, r.rank) else none
  mine.eraseDups.map (fun k => (k, mine.count k))

/-- Whether a context's unresolved counted writes go to a rank in UALink mode: its release waits at the source (R102). -/
def Ctx.ualinkWait (s : State) (id : Nat) (c : Ctx) : Bool :=
  (Ctx.remoteCounts s id c).any (fun p => s.ualinkMask (s.rank p.1.1 p.1.2).ports)

/-- The fence entries of a release, one per destination with a count, as many as the Midfield die has room for; none when it has too
few (R103). A destination whose writes were all resolved while the release waited has an entry only if one of them was not performed, so that the
release reports it. -/
def takeEntries (s : State) (id core : Nat) (r : Release) : Option State :=
  let used := s.mid.fences.length
  let counts := r.counts.filter (fun p => decide (p.2.1 ≠ 0 ∨ p.2.2 ≠ 0))
  if 4096 < used + counts.length then none
  else
    let add (t : Tab FenceEnt) (p : Nat × Nat × Nat) : Tab FenceEnt :=
      let k := ((List.range 4096).find? (fun n => (t.look n).isNone)).getD 0
      t.set k { src := core, job := p.1 / 4096, rank := p.1 % 4096, count := p.2.1, epoch := r.epoch, worst := p.2.2, ctx := id }
    some { s with mid := { s.mid with fences := counts.foldl add s.mid.fences } }

/-- Release(), called by an operation that the commands numbered below `before` precede: the counts go to the Midfield die under the present epoch,
which then advances; none when four are already incomplete, or a UALink rank has not acknowledged (R102). The epoch is the release's name. -/
def beginRelease (s : State) (id before : Nat) : Option (State × Nat) :=
  match s.ctx id with
  | none => none
  | some c =>
    -- the writes it counts are those sent before it: older remote commands send theirs first (R102, R104)
    let unsent (k : Cmd) : Bool := decide (k.seq < before) && !k.sent && (decide (k.st = .issued) || decide (k.st = .running))
    if 4 ≤ c.ph.rels.length ∨ Ctx.ualinkWait s id c = true ∨ (c.xf.log ++ c.xf.again).any unsent = true then none
    else
      let counts := (Ctx.remoteCounts s id c).map (fun p => (rankKey p.1.1 p.1.2, p.2, 0))
      let r : Release := { epoch := c.ph.epoch, pc := s.pcOf c, accepted := false, counts := counts }
      let s := s.setCtx id { c with ph := { c.ph with rels := c.ph.rels ++ [r], epoch := (c.ph.epoch + 1) % 2 ^ 16 } }
      let (s, r) := match takeEntries s id c.anyCore r with
        | some s => (s, { r with counts := [] })
        | none => (s, r)
      let put (c : Ctx) : Ctx := { c with ph := { c.ph with rels := c.ph.rels.map (fun x => if x.epoch = r.epoch then r else x) } }
      some ((s.updCtx id put).push 0 id .releaseAccepted, c.ph.epoch)

end Sys2Proof.Machine
end

