-- ==== Sys2Proof/Machine/Commands.lean ====
section
/-! DEFINITION. Commands in the operand log (R350, R354, R356), rings (R54 to R58), barriers and posted records (R304, R375 to R377),
faults of commands (R386) and the phase rollback (R405 to R408). -/

namespace Sys2Proof.Machine

/-! ### The forms of a command (R346 to R348) -/

/-- What a command does. -/
inductive XKind where
  | cpy | cpym | cpys | gath | scat | drain | drainkSel | drainkMerge | rst | rld | ramo | rred | rmcast | rmergeCx | rmergeSw | cntx
  | disp | post
deriving DecidableEq, Repr

/-- The fields of a command's slot word: D and A (handle or tile), C, scope, CT and TGT. For POST, `d` is the barrier. -/
structure XForm where
  kind : XKind
  d : Nat
  a : Nat
  cc : BitVec 6
  sc : Nat
  ct : Nat
  tgt : Nat
deriving DecidableEq, Repr

/-- The form of an instruction that is a command. -/
def Instr.xform : Instr → Option XForm
  | .cpy d a c sc ct t => some ⟨.cpy, d.toNat, a.toNat, c, sc.toNat, ct.toNat, t.toNat⟩
  | .cpym d a c sc ct t => some ⟨.cpym, d.toNat, a.toNat, c, sc.toNat, ct.toNat, t.toNat⟩
  | .cpys d a c sc ct t => some ⟨.cpys, d.toNat, a.toNat, c, sc.toNat, ct.toNat, t.toNat⟩
  | .gath d a c sc ct t => some ⟨.gath, d.toNat, a.toNat, c, sc.toNat, ct.toNat, t.toNat⟩
  | .scat d a c sc ct t => some ⟨.scat, d.toNat, a.toNat, c, sc.toNat, ct.toNat, t.toNat⟩
  | .drain d a c sc ct t => some ⟨.drain, d.toNat, a.toNat, c, sc.toNat, ct.toNat, t.toNat⟩
  | .drainkSel d a c sc ct t => some ⟨.drainkSel, d.toNat, a.toNat, c, sc.toNat, ct.toNat, t.toNat⟩
  | .drainkMerge u a c sc => some ⟨.drainkMerge, u.toNat, a.toNat, c, sc.toNat, 0, 0⟩
  | .rst d a c sc ct t => some ⟨.rst, d.toNat, a.toNat, c, sc.toNat, ct.toNat, t.toNat⟩
  | .rld d a c sc ct t => some ⟨.rld, d.toNat, a.toNat, c, sc.toNat, ct.toNat, t.toNat⟩
  | .ramo d a c sc ct t => some ⟨.ramo, d.toNat, a.toNat, c, sc.toNat, ct.toNat, t.toNat⟩
  | .rred d a c sc ct t => some ⟨.rred, d.toNat, a.toNat, c, sc.toNat, ct.toNat, t.toNat⟩
  | .rmcast d a c sc ct t => some ⟨.rmcast, d.toNat, a.toNat, c, sc.toNat, ct.toNat, t.toNat⟩
  | .rmergeCx d a c sc ct t => some ⟨.rmergeCx, d.toNat, a.toNat, c, sc.toNat, ct.toNat, t.toNat⟩
  | .rmergeSw d a c sc => some ⟨.rmergeSw, d.toNat, a.toNat, c, sc.toNat, 0, 0⟩
  | .cntx d a c sc ct t => some ⟨.cntx, d.toNat, a.toNat, c, sc.toNat, ct.toNat, t.toNat⟩
  | .disp d a c sc ct t => some ⟨.disp, d.toNat, a.toNat, c, sc.toNat, ct.toNat, t.toNat⟩
  | .post n a => some ⟨.post, n.toNat, 0, a, 0, 0, 0⟩
  | _ => none

/-- Whether A names a handle (R348). -/
def XKind.aHandle : XKind → Bool
  | .drain | .drainkSel | .drainkMerge | .rmergeCx | .rmergeSw | .post => false
  | _ => true

/-- Whether D names a handle (R348). -/
def XKind.dHandle : XKind → Bool
  | .drainkMerge | .post => false
  | _ => true

/-- Whether the control word's H3 field names a handle (R348). -/
def XKind.h3 (k : XKind) (ccw : DWord) : Bool :=
  match k with
  | .gath | .scat | .ramo | .rred | .rmergeSw | .disp => true
  | .drain => bit ccw 62
  | _ => false

/-- Whether the command may fill a ring: copies and gathers (R50, R54). -/
def XKind.fills : XKind → Bool
  | .cpy | .cpym | .cpys | .gath => true
  | _ => false

/-- Whether the command also enters the matrix stream (R310). -/
def XKind.inStream : XKind → Bool
  | .cpym | .drainkMerge | .rmergeSw => true
  | _ => false

/-- Whether the command cannot be reissued after it has been issued in a phase (R379). -/
def XForm.notRestartable (f : XForm) : Bool :=
  f.ct = 3 || match f.kind with
    | .ramo | .rred | .rmergeCx | .rmergeSw | .cntx | .disp => true
    | _ => false

/-- Whether the command writes remote ranks: the write class of R101. -/
def XKind.remoteWrite : XKind → Bool
  | .rst | .ramo | .rred | .rmcast | .rmergeSw | .cntx | .disp => true
  | _ => false

def Cmd.form (k : Cmd) : XForm := (Instr.xform k.instr).getD ⟨.post, 0, 0, 0, 0, 0, 0⟩
def Cmd.kind (k : Cmd) : XKind := k.form.kind
/-- The command id (R350). -/
def Cmd.id (k : Cmd) : Nat := k.entry * 2 ^ 16 + k.tag

/-! ### The operand log -/

/-- XF: commands issued and neither completed nor faulted (R249). -/
def Ctx.xfCount (c : Ctx) : Nat := (c.xf.log.filter (fun k => decide (k.st = .issued ∨ k.st = .running))).length
/-- Control dword 0x54: TAGNEXT and the XF of commands still held (R396). -/
def heldWord (c : Ctx) : DWord := BitVec.ofNat 64 (c.xf.tagNext + c.xfCount * 2 ^ 16)
/-- An absent context's image follows the end of the command in an entry: its XF count, and its entry of the operand log (R401). -/
def syncXf (s : State) (id e : Nat) : State :=
  syncHidden (syncImage s id (0x800 + 8 * 0x54) (fun c => leBytes 8 (heldWord c).toNat)) id (0xA000 + 256 * e) 256
/-- The command in an entry. -/
def Ctx.cmd (c : Ctx) (e : Nat) : Option Cmd := c.xf.log.find? (fun k => decide (k.entry = e))
/-- A command changed, by entry. -/
def Ctx.updCmd (c : Ctx) (e : Nat) (f : Cmd → Cmd) : Ctx :=
  { c with xf := { c.xf with log := c.xf.log.map (fun k => if k.entry = e then f k else k) } }
/-- A command changed, by entry. -/
def State.updCmd (s : State) (id e : Nat) (f : Cmd → Cmd) : State := s.updCtx id (·.updCmd e f)
/-- Whether an entry is free: it holds nothing, or a command that is done (R350, R354). -/
def Ctx.entryFree (c : Ctx) (e : Nat) : Bool := c.xf.log.all (fun k => decide (k.entry ≠ e ∨ k.st = .done))
/-- The free entry taken: the lowest (DESIGN CHOICE, log 12). -/
def Ctx.freeEntry (c : Ctx) : Option Nat := (List.range 160).find? c.entryFree
/-- Puts a command in its entry; a completed command of the phase that lay there is kept for the rollback (R407). -/
def Ctx.putCmd (c : Ctx) (k : Cmd) : Ctx :=
  let old := c.xf.log.filter (fun x => decide (x.entry = k.entry ∧ x.phase = c.ph.no))
  { c with xf := { c.xf with log := c.xf.log.filter (fun x => decide (x.entry ≠ k.entry)) ++ [k], past := c.xf.past ++ old } }
/-- The context's transfer engine looks again at what it can do, unless it is about to. -/
def wake (s : State) (id : Nat) : State :=
  if s.agenda.any (fun e => decide (e.2.1 = id ∧ e.2.2 = .commandStart)) then s else s.push 0 id .commandStart

/-- Whether an access of n bytes must wait for a vector operation numbered below `before`: one that writes bytes of it, or, for a write, one
that reads them (R327). -/
def Ctx.vecBlocks (c : Ctx) (before va n : Nat) (write : Bool) : Bool :=
  let meets (r : Nat × Nat) : Bool := decide (r.1 < va + n ∧ va < r.1 + r.2)
  c.eng.vq.any fun v => decide (v.seq < before) && (v.wr.any meets || (write && v.rd.any meets))

/-! ### Rings (R54 to R58) -/

def BufEnt.ringFree (b : BufEnt) : Bool := b.claimed + b.held < b.nslot
/-- FILLED: landed slots from HEAD on, stopping at the first that has not landed (R55). -/
def BufEnt.countFilled (b : BufEnt) : Nat → Nat → Nat
  | 0, k => k
  | fuel + 1, k => if k < b.claimed ∧ (b.head + k) % b.nslot ∈ b.landed then b.countFilled fuel (k + 1) else k
def BufEnt.refill (b : BufEnt) : BufEnt := { b with filled := b.countFilled b.nslot 0 }
/-- The slot of a claim is given out (R54). -/
def BufEnt.claim (b : BufEnt) : Nat × BufEnt :=
  let k := (b.head + b.claimed) % b.nslot
  (k, { b with claimed := b.claimed + 1, landed := b.landed.filter (· ≠ k) })
/-- A slot's data have wholly landed (R55). -/
def BufEnt.land (b : BufEnt) (k : Nat) : BufEnt := ({ b with landed := if k ∈ b.landed then b.landed else k :: b.landed } : BufEnt).refill
/-- Whether a claim is the youngest of its ring. -/
def BufEnt.youngest (b : BufEnt) (k : Nat) : Bool := 0 < b.claimed && (b.head + b.claimed - 1) % b.nslot = k
/-- The pop at the retirement of a consuming step (R56). -/
def BufEnt.pop (b : BufEnt) : BufEnt :=
  { b with head := (b.head + 1) % b.nslot, assigned := b.assigned - 1, filled := b.filled - 1, claimed := b.claimed - 1,
           held := if b.noprot then b.held else b.held + 1, landed := b.landed.filter (· ≠ b.head) }
/-- The checkpoint of PHASE step 5 (R57). -/
def BufEnt.checkpoint (b : BufEnt) : BufEnt := if b.mode = 3 then { b with ckhead := b.head, ckcount := b.claimed, held := 0 } else b
/-- The return to the checkpoint (R58). The slots held since it, which follow CKHEAD, had landed before they were popped, and count again. -/
def BufEnt.restore (b : BufEnt) : BufEnt :=
  if b.mode = 3 ∧ b.noprot = false then
    let popped := (List.range b.held).map (fun i => (b.ckhead + i) % b.nslot)
    ({ b with head := b.ckhead, claimed := b.ckcount, held := 0, assigned := 0, landed := b.landed ++ popped } : BufEnt).refill
  else b

/-- A buffer table entry as double words (R46). -/
def BufEnt.dwords (e : BufEnt) : List DWord :=
  [BitVec.ofNat 64 (e.mode * 2 ^ 62 + b2n e.front * 2 ^ 61 + b2n e.noprot * 2 ^ 60 + e.lenM1 * 2 ^ 40 + e.base * 2 ^ 23 + e.gshare),
   BitVec.ofNat 64 (e.tile * 2 ^ 48 + e.nslot * 2 ^ 40 + e.head * 2 ^ 32 + e.assigned * 2 ^ 24 + e.filled * 2 ^ 16 + e.claimed * 2 ^ 8),
   BitVec.ofNat 64 (e.ckhead * 2 ^ 56 + e.ckcount * 2 ^ 48 + e.held * 2 ^ 40), 0]

def Ctx.buf (c : Ctx) (b : Nat) : BufEnt := c.bufs.val BufEnt.none b
/-- An absent context's image follows a change of a buffer table entry (R401). -/
def syncBuf (s : State) (id b : Nat) : State := syncImage s id (0x1000 + 32 * b) (fun c => dwordBytes (c.buf b).dwords)
def Ctx.updBuf (c : Ctx) (b : Nat) (f : BufEnt → BufEnt) : Ctx := { c with bufs := c.bufs.set b (f (c.buf b)) }
/-- The slice offset of a ring slot. -/
def BufEnt.slotOff (b : BufEnt) (k : Nat) : Nat := (b.base + k * b.tile) * 64

/-- Words of a slice that a write covers whole are repaired (R429): n bytes from an offset, both multiples of 8. -/
def repairWords (s : State) (core off n : Nat) : State :=
  { s with sramBad := s.sramBad.filter (fun w => decide (w < core * 2 ^ 20 + off / 8 ∨ core * 2 ^ 20 + (off + n) / 8 ≤ w)) }

/-- Zeros written over a ring slot of a task's own slice, or of its image (R54, R400). -/
def zeroSlot (s : State) (c : Ctx) (off n : Nat) : State :=
  let z := List.replicate n (0 : Byte)
  let s := match c.loc with
    | .absent => s
    | _ => repairWords s c.anyCore off n
  match c.loc with
  | .absent => s.devWrite c.whoImage (s.imageBase c + 0x200000 + off) z
  | .saving k _ => (s.devWrite c.whoImage (s.imageBase c + 0x200000 + off) z).putBytes (sliceCell k off) z
  | .restoring k _ => (s.devWrite c.whoImage (s.imageBase c + 0x200000 + off) z).putBytes (sliceCell k off) z
  | _ => s.putBytes (sliceCell c.anyCore off) z

/-- A claimed slot is given back: released when it is the youngest, otherwise filled with zeros and counted as landed (R54, R356). -/
def dropClaim (s : State) (id b k : Nat) : State :=
  match s.ctx id with
  | none => s
  | some c =>
    let e := c.buf b
    if e.youngest k then syncBuf (s.setCtx id (c.updBuf b fun e => { e with claimed := e.claimed - 1, landed := e.landed.filter (· ≠ k) })) id b
    else syncBuf ((zeroSlot s c (e.slotOff k) (e.tile * 64)).updCtx id (·.updBuf b (·.land k))) id b

/-! ### Faults of commands -/

/-- A command meets a fault: it stops where it is, and COMMAND_FAULT posts its record (R351, R378). -/
def cmdFail (s : State) (id e cause addr : Nat) (detail : DWord) : State :=
  (s.updCmd id e fun k => if k.cause = 0 then { k with cause := cause, addr := addr, detail := detail } else k).push 0 id
    (.commandFault id e)

/-- An engine operation without a log entry posts a record (R386, R387). -/
def engineFail (s : State) (id slot pc cause addr : Nat) (detail : DWord) (stepf : Bool) : State :=
  postRecord s id
    { cause := cause, pc := pc, rel := false, stepf := stepf, abs := false, slot := slot, id := 0xFF0000, addr := addr, detail := detail }

/-- A failed access of an engine as cause, address and detail; none for an access that must wait, an abort, or a code tag (which only
scalar loads and fetches can meet). -/
def Stop.fault (e : Stop) : Option (Nat × Nat × DWord) :=
  match e.res with
  | .fail t l h => some (Cause.translation, e.va, faultWord t l e.acc h false)
  | .tag b => some (Cause.fetchIntegrity, b, 0)
  | _ => none

/-- Whether an access met an uncorrectable error: an abort, or a walk that met one (R39, R405). -/
def Stop.ue (e : Stop) : Bool :=
  match e.res with
  | .abort => true
  | .fail t _ _ => t = Tstat.walkError
  | _ => false

/-- A command's access stopped: it tries again later, consumes an uncorrectable error, or fails (R351, R405). -/
def cmdStop (s : State) (id e : Nat) (x : Stop) : State :=
  if x.ue then
    (s.updCmd id e fun k => { k with cause := Cause.dataError, addr := x.va, detail := match x.res with
      | .fail t l h => faultWord t l x.acc h false
      | _ => 0 }).push 0 id (.ueAbortReceive id e)
  else match x.fault with
    | some (cause, a, d) => cmdFail s id e cause a d
    | none => s

/-! ### Barriers (R303, R304, R377) -/

/-- A barrier as double words (R303). -/
def Barrier.dwords (b : Barrier) : List DWord :=
  [BitVec.ofNat 64 (wrap 32 b.count * 2 ^ 32 + b.node * 2 ^ 16 + b2n b.nv * 2 ^ 15 + b2n b.armed * 2 ^ 14 + b2n b.fired * 2 ^ 13),
   BitVec.ofNat 64 (b.gen * 2 ^ 32 + b.posted)]

def Ctx.bar (c : Ctx) (n : Nat) : Barrier := c.xf.bars.val Barrier.zero n
def Ctx.setBar (c : Ctx) (n : Nat) (b : Barrier) : Ctx := { c with xf := { c.xf with bars := c.xf.bars.put Barrier.zero n b } }
/-- A work node of a region is decremented (R208). -/
def nodeDec (s : State) (region node : Nat) : State := s.push 0 0 (.nodeDecrement region node)

/-- An absent context's image follows a change of a barrier (R401). -/
def syncBar (s : State) (id n : Nat) : State := syncImage s id (0x5000 + 16 * n) (fun c => dwordBytes (c.bar n).dwords)

/-- The check after every change to a barrier: it fires when armed with nothing left to arrive. Its posted records follow, at once on a
core, at the resume of an absent context (R304, R401). A phase that issued the POST of one of them cannot be restarted (R379). -/
def barCheck (s : State) (id n : Nat) : State :=
  match s.ctx id with
  | none => s
  | some c =>
    let b := c.bar n
    if b.armed = true ∧ b.count ≤ 0 then
      let mine := c.xf.posted.filter (fun p => decide (p.bar = n))
      let b' := { b with armed := false, fired := true, gen := (b.gen + 1) % 2 ^ 32, posted := if c.away then b.posted else 0 }
      let c' := c.setBar n b'
      let c' := { c' with
        xf := { c'.xf with posted := c.xf.posted.filter (fun p => decide (p.bar ≠ n)), fired := c.xf.fired ++ mine }
        ph := { c'.ph with nr := c'.ph.nr || mine.any (fun p => decide (p.phase = c.ph.no)) } }
      let s := syncBar (wake (s.setCtx id c') id) id n
      if b.nv then nodeDec s c.who.region b.node else s
    else syncBar s id n

/-- COUNT saturates (R303). -/
def satCount (v : Int) : Int := Max.max (-(2 ^ 31)) (Min.min v (2 ^ 31 - 1))
/-- A barrier's COUNT falls by an amount, then the check (R304). -/
def barDec (s : State) (id n : Nat) (v : Nat) : State :=
  barCheck (s.updCtx id fun c => c.setBar n { c.bar n with count := satCount ((c.bar n).count - v) }) id n

/-! ### Cancelling (R356, R378) -/

/-- Whether a request serves a command. -/
def Req.serves (r : Req) (id seq : Nat) : Bool :=
  match r.what with
  | .cmd i q _ _ => decide (i = id ∧ q = seq)
  | _ => false

/-- The ring read of a cancelled copy's step goes, when the copy never had a slot: reads assigned after it move up (R360). -/
def Ctx.dropRead (c : Ctx) (seq b : Nat) : Ctx :=
  match c.eng.ms.find? (fun m => decide (m.cmd = some seq)) with
  | none => c
  | some m =>
    let held := m.rings.any (fun u => decide (u.buf = b) && u.slot.isSome)
    let n := (c.buf b).nslot
    let up (x : MOp) (u : RingUse) : RingUse :=
      if held && decide (m.seq < x.seq) && decide (u.buf = b) then { u with slot := u.slot.map (fun k => (k + n - 1) % n) } else u
    let fix (x : MOp) : MOp :=
      if x.seq = m.seq then { x with rings := x.rings.filter (fun u => decide (u.buf ≠ b)) } else { x with rings := x.rings.map (up x) }
    let c : Ctx := { c with eng := { c.eng with ms := c.eng.ms.map fix } }
    if held then c.updBuf b fun e => { e with assigned := e.assigned - 1 } else c

/-- The slot of a cancelled command is given back; that of a copy whose step is to pop it is filled with zeros and counts as landed (R54, R356,
R360). -/
def cancelSlot (s : State) (id : Nat) (k : Cmd) : State :=
  let b := hBuf k.hd
  match k.ringSlot with
  | some q =>
    if k.kind = .cpym then
      match s.ctx id with
      | none => s
      | some c =>
        let e := c.buf b
        syncBuf ((zeroSlot s c (e.slotOff q) (e.tile * 64)).updCtx id (·.updBuf b (·.land q))) id b
    else dropClaim s id b q
  | none => if k.kind = .cpym ∧ hRing k.hd = true then s.updCtx id (·.dropRead k.seq b) else s

/-- A command ends by cancellation: unsent transactions go, a claimed ring slot is given back, its stream operation adds nothing; sent
transactions run to their outcome (R356). -/
def cancelCmd (s : State) (id e : Nat) : State :=
  match s.ctx id with
  | none => s
  | some c => match c.cmd e with
    | none => s
    | some k =>
      let s := s.updCmd id e fun k => { k with st := .done, cause := Cause.cancelled }
      let unsent := s.mid.reqs.filter fun (_, r) => r.serves id k.seq && decide (r.st = .held ∨ r.st = .queued)
      let s := unsent.foldl (fun s p => resolve s p.1 0 []) s
      let s := s.endCRecs (fun r => decide (r.ctx = id ∧ r.entry = k.seq))
      let s := cancelSlot s id k
      let off (m : MOp) : MOp := if m.cmd = some k.seq then { m with cancelled := true } else m
      let s := s.updCtx id fun c => { c with
        eng := { c.eng with ms := c.eng.ms.map off }
        xf := { c.xf with waitq := c.xf.waitq.filter (fun r => decide (r.slot ≠ 7 ∨ r.id ≠ k.id)) } }
      wake s id

/-! ### Ending a task -/

/-- A task's end takes its commands with it, as cancellations with no status kept (R378). -/
def killCommands (s : State) (id : Nat) : State :=
  match s.ctx id with
  | none => s
  | some c =>
    let live := c.xf.log.filter (fun k => decide (k.st ≠ .done))
    let s := live.foldl (fun s k => cancelCmd s id k.entry) s
    s.updCtx id fun c => { c with xf := { c.xf with log := [], past := [], again := [], posted := [], fired := [] } }

/-! ### The phase rollback (R405 to R408) -/

/-- A command as it starts afresh from its log entry (R378, R407). -/
def Cmd.afresh (k : Cmd) : Cmd :=
  { k with st := .issued, cause := 0, detail := 0, addr := 0, cword := 0, ringSlot := none, pos := 0, todo := [], failed := [], plan := [],
           wrote := 0, got := [], lists := [], begun := false, sent := !(k.kind.remoteWrite && k.form.sc ≠ 7),
           ended := false, held := false, rel := none }

/-- Reissued commands enter the log while entries are free, in tag order (R407). -/
def refileOne (s : State) (id : Nat) : State :=
  match s.ctx id with
  | none => s
  | some c => match c.xf.again with
    | [] => s
    | k :: rest =>
      let e := if c.entryFree k.entry then some k.entry else c.freeEntry
      match e with
      | none => s
      | some e =>
        let c := { c with xf := { c.xf with again := rest, log := c.xf.log.filter (fun x => decide (x.entry ≠ e)) ++ [{ k with entry := e }] } }
        wake (s.setCtx id c) id

/-- Every reissued command that finds an entry. -/
def refile (s : State) (id : Nat) : State := (List.range 160).foldl (fun s _ => refileOne s id) s

/-- Whether an unretired stream operation of an earlier phase still stands before a rollback (R407). -/
def Ctx.olderStream (c : Ctx) : Bool := c.eng.ms.any (fun m => decide (m.phase ≠ c.ph.no))

/-- The rollback of the current phase to its checkpoint (R407); the task must be on a core, its older stream operations retired. -/
def rollback (s : State) (id : Nat) : State :=
  match s.ctx id with
  | none => s
  | some c =>
    if c.ph.nr then s.fatal id Cause.notRestartable 0
    else if c.ph.rbcnt = 2 then s.fatal id Cause.rollbackLimit 0
    else
      let inPhase (k : Cmd) : Bool := k.phase = c.ph.no
      let drains (k : Cmd) : Bool := k.kind = .drain || k.kind = .drainkSel
      let redo := ((c.xf.past ++ c.xf.again ++ c.xf.log).filter (fun k => inPhase k && !drains k)).mergeSort
        (fun a b => (a.tag + 2 ^ 16 - c.ph.ck.tagNext) % 2 ^ 16 ≤ (b.tag + 2 ^ 16 - c.ph.ck.tagNext) % 2 ^ 16)
      -- the phase's remote transactions that have not been sent go with their commands
      let unsent := s.mid.reqs.filter fun (_, r) => redo.any (fun k => r.serves id k.seq) && decide (r.st = .held ∨ r.st = .queued)
      let s := unsent.foldl (fun s p => resolve s p.1 0 []) s
      match s.ctx id with
      | none => s
      | some c =>
        -- the operations retired in any run of the phase: those an earlier rollback counted stay in the tiles
        let retired := max c.ph.markm (c.eng.mcount - c.ph.ck.mcount - c.eng.ms.length)
        let ck := c.ph.ck
        let r := c.regs
        let regs := { r with
          s := ck.regs.s, h := ck.regs.h, fpctl := ck.regs.fpctl, rngv := ck.regs.rngv, rngp := ck.regs.rngp, rngx := ck.regs.rngx,
          st := ck.regs.st, rptc := 0, pc := ck.pc }
        let keep := c.xf.log.filter (fun k => !(inPhase k && !drains k))
        let seqs := (List.range redo.length).map (c.ph.seq + ·)
        let again := (redo.zip seqs).map (fun (k, q) => { k.afresh with seq := q })
        let c' : Ctx := { c with
          regs := regs
          trapWait := none
          bufs := Tab.each (fun _ b => b.restore) c.bufs
          eng := { c.eng with ms := [], mcount := ck.mcount, cur := ck.cur, btile := [], tissue := ck.tissue }
          xf := { c.xf with
            waitq := c.xf.waitq.filter (fun r => !(decide (r.slot = 7) && redo.any (fun k => decide (k.id = r.id))))
            log := keep, past := c.xf.past.filter (fun k => inPhase k && drains k), again := again, tagNext := ck.tagNext }
          ph := { c.ph with
            window := [], snap := [], op := none, err := false, rbcnt := c.ph.rbcnt + 1, markt := some c.xf.tagNext,
            markm := retired, mwords := c.ph.mwords.take retired, memq := [], rem := none, seq := c.ph.seq + redo.length } }
        refile (s.setCtx id c') id

/-- An uncorrectable error that the task itself consumes: the rollback, at once or once older stream operations have retired; at resume when
the context is absent (R405). -/
def consumeUe (s : State) (id : Nat) : State :=
  match s.ctx id with
  | none => s
  | some c =>
    let s := s.updCtx id fun c => { c with ph := { c.ph with err := true } }
    match c.coreNo with
    | none => s
    | some _ =>
      if c.isOver then s
      else if c.olderStream then s.push 1 id (.ueAbortReceive id 0xFF)
      else rollback s id

/-! ### Issue of a command (R350) -/

/-- Whether tag t is absorbed: it lies below MARKT in a phase that is run again (R408). -/
def Ctx.absorbs (c : Ctx) : Bool :=
  match c.ph.markt with
  | some m => decide (0 < (m + 2 ^ 16 - c.xf.tagNext) % 2 ^ 16 ∧ (m + 2 ^ 16 - c.xf.tagNext) % 2 ^ 16 ≤ 4096)
  | none => false

/-- The command of the phase that carries a tag. -/
def Ctx.byTag (c : Ctx) (t : Nat) : Option Cmd :=
  (c.xf.log ++ c.xf.past ++ c.xf.again).find? (fun k => decide (k.tag = t ∧ k.phase = c.ph.no))

/-- Whether what the task issues now belongs to a step-settle (R390). -/
def Ctx.stepFlag (c : Ctx) : Bool := c.dbg.stepping && bit c.dbg.ctl 2

/-- The format D takes: its own, or for code 0 that of the source, FP32 or INT32 for a drain, PAIR for ranked rows (R357, R361 to R363). -/
def Cmd.destFmt (k : Cmd) : Nat :=
  if hFmt k.hd ≠ 0 then hFmt k.hd
  else match k.kind with
    | .drain => if descRanked k.tdesc then 0x20 else if bit k.ccw 6 then 0x02 else 0x08
    | .drainkSel => 0x20
    | .rmergeCx => 0x20
    | _ => hFmt k.ha
/-- The width of D's elements. -/
def Cmd.destBits (k : Cmd) : Nat := (fmtBits k.destFmt).getD 8
/-- The mode a control word names, DYN being FPCTL.RM at issue (R174, R349). -/
def Cmd.mode (k : Cmd) : Nat :=
  let rc := fld k.ccw 0 3
  if rc = 5 then if k.rm = 4 ∧ 16 < k.destBits then 0 else k.rm else rc
/-- Whether an issue of the command rounds stochastically, and so takes a step of RNGX (R179). -/
def Cmd.draws (k : Cmd) : Bool :=
  let int (f : Nat) : Bool := (intOf f).isSome
  decide (k.mode = 4 ∧ k.destBits ≤ 16) && match k.kind with
    | .cpy | .cpym | .cpys | .gath | .scat => bit k.ccw 4 && !(int k.destFmt && int (hFmt k.ha))
    | .drain => !descRanked k.tdesc && decide (hFmt k.hd ≠ 0) && !(bit k.ccw 6 && int k.destFmt)
    | _ => false

/-! ### What a command reads and writes -/

/-- Dword n of a command's reduction record, which it reads when it starts (R367). -/
def Cmd.rrec (k : Cmd) (n : Nat) : DWord := (k.plan.getD 0 []).getD n 0
/-- RESADDR. -/
def Cmd.resAddr (k : Cmd) : Nat := fld (k.rrec 5) 0 56
/-- The count of rows of RMERGE. -/
def Cmd.count (k : Cmd) : Nat := fld k.ccw 8 7 + 1

/-- The element format a descriptor's FMT stands for (R367). -/
def redFmt (n : Nat) : Option Nat := [0x08, 0x09, 0x0A, 0x02, 0x03, 0x20][n]?
/-- The width of the elements of RRED's source. -/
def Cmd.redBits (k : Cmd) : Nat := ((redFmt (fld (k.rrec 0) 37 3)).bind fmtBits).getD 8

/-- The bytes that the elements of a handle take one after another. -/
def streamBytes (h : Handle) (bits : Nat) : Nat := (hCount h * bits + 7) / 8

/-- The bytes outside window space that a command may write, as (first address, length): its destination with the side planes, a drain's
absolute maximum, RAMO's old value, a reduction's status and result (R357 to R370). -/
def Cmd.localWrites (k : Cmd) : List (Nat × Nat) :=
  let d := hSpan k.hd k.destBits
  match k.kind with
  | .cpy | .cpym | .cpys | .gath | .scat => d :: sidePlanes k.planes k.hd k.destFmt
  | .drain => d :: sidePlanes k.planes k.hd k.destFmt ++ (if bit k.ccw 62 then [(hBase k.h3, 4)] else [])
  | .drainkSel | .rld | .rmergeCx => [d]
  | .ramo => [(hBase k.hd, 8)]
  | .rred => if k.resAddr = 0 then [] else [(k.resAddr, 32 + (if bit (k.rrec 0) 33 then streamBytes k.ha k.redBits else 0))]
  | .rmergeSw => if k.resAddr = 0 then [] else [(k.resAddr, 32 * k.count)]
  | .drainkMerge | .rst | .rmcast | .cntx | .disp | .post => []

/-- The metadata of a 2:4 source: its first byte (R61, R358). -/
def Cmd.metaBase (k : Cmd) (bits : Nat) : Nat :=
  let a := k.ha
  if hPlane a = 0 then
    let stored := setHfld (setHfld a 64 16 (hExt a 0 / 2)) 232 4 0
    align64 (wrap 56 (hBase a + (hRange stored bits).2))
  else ((k.planes.find? (·.1 = hPlane a)).map (·.2)).getD 0

/-- The side planes of the handles of a command, and the metadata of a 2:4 source, as (first address, length). -/
def Cmd.sides (k : Cmd) : List (Nat × Nat) :=
  let bits := (fmtBits (if hFmt k.ha = 0 then hFmt k.hd else hFmt k.ha)).getD 8
  [k.hd, k.ha, k.hx, k.hy].flatMap (fun h => sidePlanes k.planes h (hFmt h)) ++ sidePlanes k.planes k.hd k.destFmt
    ++ (if k.kind = .cpys then [(k.metaBase bits, hRows k.ha * ((hExt k.ha 0 + 31) / 32) * 4)] else [])

/-- A command that rounds stochastically takes the seed after RNGX's step (R179). -/
def Cmd.seeded (k : Cmd) (r : Regs) : Cmd := if k.draws then { k with seed := xorshift r.rngx } else k

/-- A command with its operands and side planes from the registers a slot reads, its seed not yet drawn. -/
def rawCmd (s : State) (c : Ctx) (e : Nat) (i : Instr) (f : XForm) (ccw : DWord) : Cmd :=
  let r := s.srcRegs c
  let hreg (n : Nat) : Handle := r.h.val 0 n
  let a := f.a
  let tiled := !f.kind.aHandle
  let k3 := f.kind.h3 ccw
  let hx := if f.kind = .cpym then fld ccw 20 5 else fld ccw 32 5
  let hy := if f.kind = .cpym then fld ccw 26 5 else fld ccw 38 5
  let named := f.kind = .cpym || (f.kind = .drain && bit ccw 4 && !c.eng.bsrc)
  let hd := if f.kind.dHandle then hreg f.d else 0
  let ha := if f.kind.aHandle then hreg a else 0
  let h3 := if k3 then hreg (fld ccw 56 5) else 0
  let row (w : Tab Word) : Tab Word := w.filter (fun p => decide (a * 16384 ≤ p.1 ∧ p.1 < (a + 1) * 16384))
  { entry := e, tag := c.xf.tagNext, seq := c.ph.seq, pc := s.pcOf c, instr := i, word := fld s.issue.word 32 32, ext := fld s.issue.word 0 32,
    ccw := ccw, hd := hd, ha := ha, h3 := h3, hx := if named then hreg hx else 0, hy := if named then hreg hy else 0,
    planes := planeOf r hd ++ planeOf r ha ++ planeOf r h3 ++ (if named then planeOf r (hreg hx) ++ planeOf r (hreg hy) else []),
    seed := r.rngx, ftz := ftzOf r.fpctl, rm := rmOf r.fpctl, phase := c.ph.no, st := .issued, cause := 0, detail := 0, addr := 0, cword := 0,
    tile := if tiled then row c.eng.tile else [], tdesc := if tiled then c.eng.tdesc.val 0 a else 0, sx4 := c.eng.sx4, bands := c.eng.bands,
    bsrc := c.eng.bsrc, ringSlot := none, pos := 0, todo := [], failed := [], plan := [], wrote := 0, got := [], lists := [],
    begun := false, sent := !(f.kind.remoteWrite && f.sc ≠ 7), ended := false, held := false, rel := none, decDone := false, stepf := c.stepFlag }

/-- A fresh command built from the registers a slot reads. -/
def newCmd (s : State) (c : Ctx) (e : Nat) (i : Instr) (f : XForm) (ccw : DWord) : Cmd := (rawCmd s c e i f ccw).seeded (s.srcRegs c)

/-- A fresh command of a record, with the handles read from memory: a side plane that PLANESEL places, and the seed, are taken from the
registers as they stand at firing (R226, R375, R377). -/
def recordCmd (s : State) (c : Ctx) (e : Nat) (i : Instr) (f : XForm) (ccw : DWord) (pc word ext : Nat) (hd ha h3 : Handle) : Cmd :=
  let r := s.srcRegs c
  let k := rawCmd s c e i f ccw
  let k := { k with
    pc := pc, word := word, ext := ext, hd := hd, ha := ha, h3 := h3
    planes := planeOf r hd ++ planeOf r ha ++ planeOf r h3 ++ planeOf r k.hx ++ planeOf r k.hy }
  k.seeded r

/-- Whether a command waits for a slot of ring b (R54). -/
def Cmd.wantsSlot (k : Cmd) (b : Nat) : Bool :=
  k.kind.fills && hRing k.hd && decide (hBuf k.hd = b ∧ k.ringSlot = none ∧ (k.st = .issued ∨ k.st = .running) ∧ k.cause = 0)

/-- A new command takes its entry, tag and ring slot; the stochastic seed steps with each issue (R54, R178, R179, R350). -/
def fileCmd (s : State) (id : Nat) (c : Ctx) (k : Cmd) : State :=
  let b := hBuf k.hd
  let ring := k.kind.fills && hRing k.hd && decide (b < 64) && decide ((c.buf b).mode = 3)
  let waiting := c.xf.log.any (fun x => x.wantsSlot b)
  let (slot, c) :=
    if ring && !waiting && (c.buf b).ringFree then
      let (q, e) := (c.buf b).claim
      (some q, { c with bufs := c.bufs.set b e })
    else (none, c)
  let c := c.putCmd { k with ringSlot := slot }
  let c := { c with
    regs := if k.draws then { c.regs with rngx := k.seed } else c.regs
    xf := { c.xf with tagNext := (c.xf.tagNext + 1) % 2 ^ 16 }
    ph := { c.ph with seq := c.ph.seq + 1, cmds := c.ph.cmds + 1,
                      nr := c.ph.nr || k.form.notRestartable || decide (4096 ≤ c.ph.cmds) } }
  wake (s.setCtx id c) id

/-! ### Posted records (R375 to R377) -/

/-- What reading a transfer command record gives: a command, a malformed record, an access that stopped. -/
inductive RecRead where
  | cmd (i : Instr) (ccw : DWord) (word ext : Nat) (hd ha h3 : Handle)
  | bad
  | stop (e : Stop)
deriving DecidableEq, Repr

/-- Whether a record's slot word carries fields it must not: D and A are zero, X only with an extension (R375). -/
def recordShape (w e : Nat) : Bool :=
  (w / 2 ^ 31 % 2 = 1 || e = 0) && e / 2 ^ 19 = 0 && (w / 2 ^ 18 % 64 = 0) && (w / 2 ^ 12 % 64 = 0)

/-- The instruction of a record, with its tile put in (R375). -/
def recordInstr (w e tile : Nat) : Option Instr :=
  match decodeSlot .xfr w e with
  | none => none
  | some op => match op.instr with
    | .drain d _ c sc ct t => some (.drain d (BitVec.ofNat 4 tile) c sc ct t)
    | .drainkSel d _ c sc ct t => some (.drainkSel d (BitVec.ofNat 4 tile) c sc ct t)
    | .rmergeCx d _ c sc ct t => some (.rmergeCx d (BitVec.ofNat 4 tile) c sc ct t)
    | .drainkMerge u _ c sc => some (.drainkMerge u (BitVec.ofNat 4 tile) c sc)
    | .rmergeSw d _ c sc => some (.rmergeSw d (BitVec.ofNat 4 tile) c sc)
    | i => match Instr.xform i with
      | some f => if f.kind = .post then none else some i
      | none => none

/-- Reads a handle of 32 bytes at an address, 0 naming none. -/
def readHandle (s : State) (w : Who) (env : Env) (va : Nat) : State × Except Stop Handle :=
  if va = 0 then (s, .ok 0)
  else match readBytes s w env va 32 with
    | (s, .ok bs) => (s, .ok (BitVec.ofNat 256 (leNat bs)))
    | (s, .error e) => (s, .error e)

/-- Reads a transfer command record's handles (R375). -/
def readRecord (s : State) (w : Who) (env : Env) (bs : List Byte) : State × RecRead :=
  let d (k : Nat) : DWord := dwordAt bs k
  let word := fld (d 0) 32 32
  let ext := fld (d 0) 0 32
  match recordInstr word ext (fld (d 5) 0 4) with
  | none => (s, .bad)
  | some i =>
    let f := (Instr.xform i).getD ⟨.post, 0, 0, 0, 0, 0, 0⟩
    if recordShape word ext = false ∨ d 6 ≠ 0 ∨ d 7 ≠ 0 ∨ fld (d 5) 4 60 ≠ 0 ∨ (f.kind.aHandle = true ∧ d 5 ≠ 0) then (s, .bad)
    else match readHandle s w env (d 2).toNat with
      | (s, .error e) => (s, .stop e)
      | (s, .ok hd) => match readHandle s w env (d 3).toNat with
        | (s, .error e) => (s, .stop e)
        | (s, .ok ha) => match readHandle s w env (d 4).toNat with
          | (s, .error e) => (s, .stop e)
          | (s, .ok h3) => (s, .cmd i (d 1) word ext hd ha h3)

end Sys2Proof.Machine
end

