-- ==== Sys2Proof/Machine/ScalarMem.lean ====
section
/-! DEFINITION. Scalar loads and stores, the store window and the snapshot (R70, R71, R78, R81, R290 to R293). -/

namespace Sys2Proof.Machine

/-! ### The store window and the snapshot -/

/-- A byte of a line. -/
def lineByte (l : Line) (i : Nat) : Byte := (l >>> (8 * i)).setWidth 8
/-- A line of 64 bytes. -/
def lineOf (bs : List Byte) : Line := BitVec.ofNat 512 (leNat bs)
/-- The bytes of a line. -/
def lineBytes (l : Line) : List Byte := leBytes 64 l.toNat
/-- A place moved back to the start of its line. -/
def Place.line (p : Place) : Place :=
  match p with
  | .hbm a => .hbm (a / 64 * 64)
  | .slice c o => .slice c (o / 64 * 64)
  | .paired r i o => .paired r i (o / 64 * 64)
  | .host a => .host (a / 64 * 64)
  | .remote j r t d => .remote j r t d

/-- A place moved back by some bytes within its line. A window's BASE need not be 64-byte aligned (R32): a remote line starts as far before its access
at the target as at the source, and goes as one transaction wherever it lies (R108, R115; DEDUCED, notes/assumptions/8). -/
def Place.back (p : Place) (k : Nat) : Place :=
  match p with
  | .hbm a => .hbm (a - k)
  | .slice c o => .slice c (o - k)
  | .paired r i o => .paired r i (o - k)
  | .host a => .host (a - k)
  | .remote j r t d => .remote j r (t - k) d

/-- The byte the task wrote at an address in this phase (R81). -/
def Ctx.winByte (c : Ctx) (a : Nat) : Option Byte :=
  match c.ph.window.find? (fun l => decide (l.va = a / 64 * 64)) with
  | some l => if l.mask.getLsbD (a % 64) then some (lineByte l.data (a % 64)) else none
  | none => none

/-- The pinned line that holds an address. -/
def Ctx.pinned (c : Ctx) (a : Nat) : Option Line := (c.ph.snap.find? (fun l => decide (l.va = a / 64 * 64))).map (·.data)

/-- Pins a line with its value; the 2,049th unpins the earliest (R71, R81). -/
def Ctx.pin (c : Ctx) (a : Nat) (v : Line) : Ctx :=
  let l := c.ph.snap ++ [{ va := a / 64 * 64, data := v }]
  { c with ph := { c.ph with snap := if 2048 < l.length then l.drop 1 else l } }

/-- Unpins the line of an address (R84). -/
def Ctx.unpin (c : Ctx) (a : Nat) : Ctx := { c with ph := { c.ph with snap := c.ph.snap.filter (fun l => decide (l.va ≠ a / 64 * 64)) } }

/-- The window line with bytes of a store merged in (R70). -/
def WLine.merge (l : WLine) (off : Nat) (bs : List Byte) : WLine :=
  let n := bs.length
  let m : Nat := (2 ^ n - 1) * 2 ^ off
  let keep : Nat := l.data.toNat - l.data.toNat / 2 ^ (8 * off) % 2 ^ (8 * n) * 2 ^ (8 * off)
  { l with mask := l.mask ||| BitVec.ofNat 64 m, data := BitVec.ofNat 512 (keep + leNat bs * 2 ^ (8 * off)) }

/-! ### Failures of scalar accesses (R38, R39) -/

/-- The acting slot's access failed or cannot be made yet. A walk that met an uncorrectable error is reported as a translation fault
only when the phase cannot be rolled back (R39). -/
def accessTrap (s : State) (c : Ctx) (ea : Nat) (acc : Acc) (r : Res Unit) : State :=
  match r with
  | .ok () => s
  | .fail t l h =>
    if t = Tstat.walkError ∧ c.ph.nr = false ∧ c.ph.rbcnt ≠ 2 then s.raise Cause.dataError 0
    else s.raiseAt Cause.translation ea (faultWord t l acc h false)
  | .abort => s.raise Cause.dataError 0
  | .tag b => s.raiseAt Cause.fetchIntegrity b 0
  | .wait => s.stall

/-- What the home of a translated address will answer as to worlds and code, checked at issue (R416, R420); a line of code that cannot be read is found
by the access itself. -/
def homeAdmits (s : State) (w : Who) (env : Env) (acc : Acc) (p : Place) : State × Res Unit :=
  let atPa (s : State) (pa : Nat) : State × Res Unit :=
    match s.rangeOf pa with
    | none => (s, .ok ())
    | some (world, code, base, tagbase, gen) =>
      if world ≠ w.world then (s, .fail Tstat.permission 0 false)
      else if code then
        if acc = .read ∧ w.opens = true then match (openCode s w world base tagbase gen pa).2 with
          | .tag b => (s, .tag b)
          | _ => (s, .ok ())
        else (s, .fail Tstat.permission 0 false)
      else (s, .ok ())
  match p with
  | .hbm pa => atPa s pa
  | .paired _ i off => match readPair s w env i with
    | (s, .ok (f, b)) => atPa s ((if acc.writes then b else f) + off)
    | (s, r) => (s, r.unit)
  | _ => (s, .ok ())

/-! ### Waiting accesses -/

/-- The next scalar access of a task in program order is looked at again (R78). -/
def kickMem (s : State) (id : Nat) (delay : Nat) : State :=
  match (s.ctx id).bind (fun c => c.ph.memq.head?) with
  | some m => s.push delay id (if m.atomic then .atomicComplete else .loadReturn)
  | none => s

/-- Whether byte ranges meet blocks that a context's diversion entries map (R398). -/
def State.rangesMeet (s : State) (ctx : Nat) (rs : List (Nat × Nat)) : Bool :=
  s.dies.any fun (_, d) => d.div.any fun e =>
    let lo := 0x00FE000000000000 + e.core * 2 ^ 23 + e.start * 4096
    decide (e.state ≠ 0 ∧ e.ctxId = ctx) && !e.isCtx && rs.any (fun r => decide (r.1 < lo + e.count * 4096 ∧ lo < r.1 + r.2))

/-- Whether an access of a core, numbered seq, to a diverted place comes after an older access of that core to the same context that has not been
performed: a line a PHASE has sent, a scalar access, or a vector operation (R403). -/
def State.mustFollow (s : State) (c : Ctx) (seq : Nat) (p : Place) : Bool :=
  match s.divCtx p with
  | none => false
  | some x => c.eng.vq.any (fun v => decide (v.seq < seq) && s.rangesMeet x (v.rd ++ v.wr)) ||
      c.ph.late.any (fun (_, q, l) => decide (q < seq) && s.divCtx l.place = some x) ||
      c.ph.memq.any (fun m => decide (m.seq < seq) && s.divCtx m.place = some x)

/-- A scalar access joins the queue. -/
def queueMem (s : State) (id : Nat) (m : PMem) : State :=
  match s.ctx id with
  | none => s
  | some c =>
    let s := s.setCtx id { c with ph := { c.ph with memq := c.ph.memq ++ [m] } }
    if c.ph.memq.isEmpty then kickMem s id 0 else s

/-- The head of the queue is done. -/
def dropMem (s : State) (id : Nat) : State :=
  kickMem (s.updCtx id fun c => { c with ph := { c.ph with memq := c.ph.memq.drop 1 } }) id 0

/-- A loaded value as its register holds it (R292). -/
def loadValue (size : Nat) (uns : Bool) (bs : List Byte) : DWord :=
  let v := leNat (bs.take (2 ^ size))
  if uns = true ∨ size = 3 then BitVec.ofNat 64 v else BitVec.ofInt 64 (signed (8 * 2 ^ size) v)

/-- The bytes of a load: own ones, the others from its line (R81). -/
def mergeOwn (own : List (Option Byte)) (line : List Byte) (off : Nat) : List Byte :=
  own.zipIdx.map (fun (o, i) => o.getD (line.getD (off + i) 0))

/-! ### Window-space scalar loads (R78, R284, R292) -/

/-- The bundle that issues now: its address and remaining count. -/
def sameIssue (s : State) (c : Ctx) (m : RemScalar) : Bool := decide (m.pc = s.pcOf c ∧ m.rptc = (s.srcRegs c).rptc)

/-- What has become of the window-space access of the bundle that issues now: nothing asked yet, another bundle's access under way, a
release to be accepted first, no answer yet, an answer. -/
inductive RemState where
  | idle
  | busy
  | released (epoch : Nat)
  | open'
  | answered (w : DWord) (data : List Byte)
deriving DecidableEq, Repr

def remState (s : State) (c : Ctx) : RemState :=
  match c.ph.rem with
  | none => .idle
  | some m =>
    if sameIssue s c m = false then .busy
    else match m.answer, m.req, m.release with
      | some (w, d), _, _ => .answered w d
      | none, some _, _ => .open'
      | none, none, some e => .released e
      | none, none, none => .idle

/-- The bundle stalls and keeps what its window-space access has begun (R284). -/
def State.holdRem (s : State) (id : Nat) (c : Ctx) (release req : Option Nat) : State :=
  let m : RemScalar := { pc := s.pcOf c, rptc := (s.srcRegs c).rptc, release := release, req := req, answer := none }
  let s := s.updCtx id fun c => { c with ph := { c.ph with rem := some m } }
  { s with issue := { s.issue with sent := true } }

/-- Makes the request of a window-space scalar access (R33, R107), unless its core's parking slots or, for a write, its hold queue are full (R105,
R133). -/
def remoteAsk (s : State) (id : Nat) (c : Ctx) (ea : Nat) (acc : Acc) (n : Nat) (counted : Bool) (mk : Nat → DWord → Txn) : State :=
  match translate s (s.whoTask c 0 false) (s.envTask c) acc ea n with
  | (s, .ok (.remote job rank target entry)) =>
    if s.mustHold c.anyCore counted then s.stall else
    let (s, k) := submit s (.scalar id ea) (some id) job rank c.anyCore (fld entry 28 4) (fld entry 24 4) counted (mk target entry)
    s.holdRem id c none (some k)
  | (s, r) => accessTrap s c ea acc r.unit

/-- The end of a window-space access: `done` continues with the data of an OK completion; any other traps (R130, R292, R295). -/
def remoteEnd (s : State) (id ea : Nat) (w : DWord) (data : List Byte) (done : State → List Byte → State) : State :=
  if cstatOf w = Cstat.ok then done (s.updCtx id fun c => { c with ph := { c.ph with rem := none } }) data
  else s.raiseAt Cause.remote ea w

/-- A request transaction of VC 0: OP, ORD from the window entry, target, length, and the given bits of dword 2, with AUX and data (R115). -/
def reqTxn (op : Nat) (entry : DWord) (target len bits : Nat) (aux : DWord) (data : List Byte) : Txn :=
  { d0 := BitVec.ofNat 64 (op * 2 ^ 58 + b2n (bit entry 5) * 2), d1 := BitVec.ofNat 64 (target % 2 ^ 56),
    d2 := BitVec.ofNat 64 ((len - 1) * 2 ^ 40 + bits), d3 := aux, data := data }

/-! ### Loads (R292) -/

/-- A scalar load of 2^size bytes at an effective address. -/
def loadAt (s : State) (id : Nat) (c : Ctx) (d : BitVec 6) (ea size : Nat) (uns : Bool) : State :=
  let n := 2 ^ size
  let own := (List.range n).map (fun i => c.winByte (ea + i))
  if ea % n ≠ 0 then s.raise Cause.misaligned 0
  else if (s.was c).vecBlocks c.ph.seq ea n false then s.stall
  else if spaceOf ea = 2 then
    if own.all Option.isSome then
      match translate s (s.whoTask c 0 false) (s.envTask c) .read ea n with
      | (s, .ok _) => s.wrS id d (loadValue size uns (mergeOwn own [] 0))
      | (s, r) => accessTrap s c ea .read r.unit
    else match c.pinned ea with
      | some l => match translate s (s.whoTask c 0 false) (s.envTask c) .read ea n with
        | (s, .ok _) => s.wrS id d (loadValue size uns (mergeOwn own (lineBytes l) (ea % 64)))
        | (s, r) => accessTrap s c ea .read r.unit
      | none =>
        match remState s c with
        | .answered w data => remoteEnd s id ea w data fun s data =>
          (s.updCtx id (·.pin ea (lineOf data))).wrS id d (loadValue size uns (mergeOwn own data (ea % 64)))
        | .idle =>
          if c.ph.memq.isEmpty then remoteAsk s id c ea .read n false (fun t e => reqTxn Op.rdreq e (t - ea % 64) 64 0 0 []) else s.stall
        | _ => s.stall
  else if 16 ≤ (c.ph.memq.filter (fun m => !m.atomic)).length then s.stall
  else
    let w := s.whoTask c 0 true
    match translate s w (s.envTask c) .read ea n with
    | (s, .ok p) => match homeAdmits s w (s.envTask c) .read p with
      | (s, .ok ()) =>
        queueMem s id
          { atomic := false, d := d, va := ea, size := size, uns := uns, place := p, amop := 0, operand := 0, compare := 0, scope := 0,
            ftz := false, older := [], release := none, own := own, pc := s.pcOf c, seq := c.ph.seq }
      | (s, r) => accessTrap s c ea .read r
    | (s, r) => accessTrap s c ea .read r.unit

/-- The effective address of a base and an offset in units of the access size (R290). -/
def eaOff (a : DWord) (off : BitVec 28) (size : BitVec 2) : Nat := (a + (off.signExtend 64 <<< size.toNat)).toNat
/-- The effective address of a base and a shifted index (R290). -/
def eaIdx (a b : DWord) (n : BitVec 3) : Nat := (a + (b <<< n.toNat)).toNat

/-- LD: s[d] := the bytes at s[a] + off (R292). -/
def execLd (d a : BitVec 6) (size : BitVec 2) (u : Bool) (off : BitVec 28) (s : State) : Host.Outcome State Fault Refusal :=
  slotStep s fun id c => loadAt s id c d (eaOff (s.rs c a) off size) size.toNat u

/-- LDX: s[d] := the bytes at s[a] + (s[b] << n) (R292). -/
def execLdx (d a b : BitVec 6) (size : BitVec 2) (u : Bool) (n : BitVec 3) (s : State) : Host.Outcome State Fault Refusal :=
  slotStep s fun id c => loadAt s id c d (eaIdx (s.rs c a) (s.rs c b) n) size.toNat u

/-! ### Stores (R293) -/

/-- The window with a store merged into its line, the line made when the phase has none yet; none when all 1,024 are in use (R70). -/
def Ctx.store (c : Ctx) (ea : Nat) (bs : List Byte) (p : Place) : Option Ctx :=
  let va := ea / 64 * 64
  let upd (l : WLine) : WLine := if l.va = va then l.merge (ea % 64) bs else l
  if c.ph.window.any (fun l => decide (l.va = va)) then some { c with ph := { c.ph with window := c.ph.window.map upd } }
  else if 1024 ≤ c.ph.window.length then none
  else
    let l : WLine := { va := va, mask := 0, data := 0, place := p.back (ea % 64), stale := false }
    some { c with ph := { c.ph with window := c.ph.window ++ [l.merge (ea % 64) bs] } }

/-- A scalar store of 2^size bytes at an effective address. -/
def storeAt (s : State) (id : Nat) (c : Ctx) (v : DWord) (ea size : Nat) : State :=
  let n := 2 ^ size
  let w := s.whoTask c 0 false
  if ea % n ≠ 0 then s.raise Cause.misaligned 0
  else match translate s w (s.envTask c) .write ea n with
    | (s, .ok p) => match homeAdmits s w (s.envTask c) .write p with
      | (s, .ok ()) => match c.store ea (leBytes n v.toNat) p with
        | some c' => s.updCtx id fun x => { x with ph := { x.ph with window := c'.ph.window } }
        | none => s.raise Cause.storeWindowFull 0
      | (s, r) => accessTrap s c ea .write r
    | (s, r) => accessTrap s c ea .write r.unit

/-- ST: the low bytes of s[b] enter the store window at s[a] + off (R293). -/
def execSt (b a : BitVec 6) (size : BitVec 2) (off : BitVec 28) (s : State) : Host.Outcome State Fault Refusal :=
  slotStep s fun id c => storeAt s id c (s.rs c b) (eaOff (s.rs c a) off size) size.toNat

/-- STX: the low bytes of s[c] enter the store window at s[a] + (s[b] << n) (R293). -/
def execStx (c a b : BitVec 6) (size : BitVec 2) (n : BitVec 3) (s : State) : Host.Outcome State Fault Refusal :=
  slotStep s fun id x => storeAt s id x (s.rs x c) (eaIdx (s.rs x a) (s.rs x b) n) size.toNat

/-! ### The return of a load (R78, R81) -/

/-- A step of a task's scalar queue that must wait: it is taken again, by the diversion queue when a diverted block holds it up (R400,
R403), otherwise in the next cycle. -/
def waitAgain (s : State) (p : Place) (source subj : Nat) (again : Instr) : State :=
  match p with
  | .slice core off =>
    if s.servedAt core off = .later then
      let q : DivWait := { source := source, core := core, block := off / 4096, subj := subj, again := again }
      s.updDie (dieOf core) fun d => { d with divq := d.divq ++ [q] }
    else s.push 1 subj again
  | _ => s.push 1 subj again

/-- A trap that the oldest queued access of a task raises when it is performed: it is taken at the access's bundle, which runs again with all that
follows it, so the younger queued accesses go (R38; what bundles between have done stays: DEDUCED, notes/assumptions/10). -/
def lateTrap (s : State) (id : Nat) (cause addr : Nat) (detail : DWord) : State :=
  let back (c : Ctx) : Ctx :=
    { c with
      regs := { c.regs with pc := (c.ph.memq.head?).elim c.regs.pc (·.pc), rptc := 0 }
      ph := { c.ph with memq := [] } }
  takeTrap (s.updCtx id back) id { cause := cause, addr := addr, detail := detail, slot := 0, straddle := false }

/-- A load or atomic of the scalar queue did not succeed at its home. -/
def memStop (s : State) (id : Nat) (m : PMem) (acc : Acc) (r : Res Unit) : State :=
  match r with
  | .ok () => s
  | .fail t l h => lateTrap s id Cause.translation m.va (faultWord t l acc h false)
  | .tag b => lateTrap s id Cause.fetchIntegrity b 0
  | .abort => (dropMem s id).push 0 id (.ueAbortReceive id 0xFF)
  | .wait => waitAgain s m.place (s.ctx id |>.elim 0 Ctx.anyCore) id (if m.atomic then .atomicComplete else .loadReturn)

/-- LOAD_RETURN: the oldest scalar load of the task is performed; its line is read and pinned unless the window or the snapshot gives
the value, and s[d] is written (R78, R81, R292). -/
def execLoadReturn (s : State) : Host.Outcome State Fault Refusal :=
  let id := s.subj
  match s.ctx id with
  | none => .next s
  | some c => match c.ph.memq with
    | [] => .next s
    | m :: _ =>
      if m.atomic then .next s
      else
        let give (s : State) (line : List Byte) : State :=
          dropMem (s.wrS id m.d (loadValue m.size m.uns (mergeOwn m.own line (m.va % 64)))) id
        if m.own.all Option.isSome then .next (give s [])
        else match c.pinned m.va with
          | some l => .next (give s (lineBytes l))
          | none =>
            if s.mustFollow c m.seq m.place then .next (s.push 1 id .loadReturn)
            else match homeRead s (s.whoTask c 0 true) (s.envTask c) m.place.line 64 with
            | (s, .ok bs) => .next (give (s.updCtx id (·.pin m.va (lineOf bs))) bs)
            | (s, r) => .next (memStop s id m .read r.unit)

end Sys2Proof.Machine
end

