-- ==== Sys2Proof/Machine/Work.lean ====
section
/-! DEFINITION. Grids, launches and work nodes at the package arbiter (R197 to R209), and a task's start state (R201). -/

namespace Sys2Proof.Machine

/-! ### The start state of a task (R201) -/

/-- The engines at task start without an image (R69, R335, R344). -/
def Engines.zero : Engines :=
  { tdesc := [], tissue := [], tile := [], vq := [], prm := [], scl := [], ms := [], mcount := 0, cur := 0, btile := [], sx4 := [],
    bands := [(0, 0x3F80), (1, 0x3F80), (2, 0x3F80), (3, 0x3F80)], bsrc := false, vtab := [] }

/-- The transfer engine at task start (R303, R350). -/
def Transfers.zero : Transfers :=
  { log := [], past := [], again := [], tagNext := 0, lastId := 0, bars := [], posted := [], fired := [], fq := [], waitq := [] }

/-- A checkpoint at the start of a task. -/
def Ckpt.of (r : Regs) : Ckpt := { pc := r.pc, regs := r, tagNext := 0, cur := 0, mcount := 0, tissue := [] }

/-- The phase at task start (R101). -/
def Phases.zero (r : Regs) : Phases :=
  { window := [], late := [], snap := [], memq := [], rem := none, op := none, fences := [], epoch := 0, rels := [], ck := Ckpt.of r, nr := false,
    err := false, rbcnt := 0, markt := none, markm := 0, mwords := [], no := 0, cmds := 0, seq := 0 }

/-- No debugger. -/
def Debug.zero : Debug := { ctl := 0, stat := 0, stepping := false, stepSeq := 0, settling := false }

/-- A task that is to start: identity, image, code, core. -/
def Ctx.start (who : TaskId) (image code : Nat) (loc : Loc) (affkey : Nat) (node : Option Nat) : Ctx :=
  let r := { Regs.zero with pc := code }
  { who := who, image := image, code := code, loc := loc, oldCore := none, slot := none, since := 0, cycles := 0, seenAt := 0, want := none,
    affkey := affkey, idle := false, isOver := false, leaving := false, node := node, regs := r, bufs := [], eng := Engines.zero,
    xf := Transfers.zero, ph := Phases.zero r, dbg := Debug.zero, lbuf := [], stageOut := false, trapWait := none }

/-! ### The grid table (R197) -/

/-- A grid slot nothing has been launched in. -/
def Grid.free : Grid :=
  { st := 0, status := 0, count := 0, issued := 0, retired := 0, faults := 0, killed := 0, retmap := 0, spbase := 0, sphead := 0,
    sptail := 0, packet := [], order := 0, node := none, base0 := 0 }

/-- The key of a grid slot of a region. -/
def gridKey (r g : Nat) : Nat := r * 256 + g
def State.grid (s : State) (r g : Nat) : Grid := s.arb.grids.val Grid.free (gridKey r g)
/-- A dword of a grid's launch packet. -/
def Grid.pk (e : Grid) (k : Nat) : DWord := dwordAt e.packet k
/-- Whether every index has ended (R202). -/
def Grid.ended (e : Grid) : Bool := e.retired + e.faults + e.killed = e.count
/-- Whether an index waits to be issued. -/
def Grid.pending (e : Grid) : Bool := (e.st = 1 || e.st = 2) && e.issued < e.count

/-- Where the entry of a grid slot lies (R193, R197). -/
def State.gridAddr (s : State) (r g : Nat) : Nat := fld (s.rcb r 8) 15 25 * 2 ^ 15 + 128 * g

/-- The arbiter changes a grid, and its table entry with it, apart from SPBASE, which is software's (R197). -/
def putGrid (s : State) (r g : Nat) (e : Grid) : State :=
  let s := { s with arb := { s.arb with grids := s.arb.grids.set (gridKey r g) e } }
  let w (n : Nat) : DWord := BitVec.ofNat 64 n
  let s := s.devWrite (s.whoRegion r 4) (s.gridAddr r g)
    (dwordBytes [w (e.st * 2 ^ 62 + e.status * 2 ^ 60 + e.count), w e.issued, w e.retired, w (e.faults * 2 ^ 32 + e.killed), w e.retmap])
  s.devWrite (s.whoRegion r 4) (s.gridAddr r g + 48) (dwordBytes [w (e.sphead * 2 ^ 48 + e.sptail * 2 ^ 32), 0] ++ e.packet)

def State.updGrid (s : State) (r g : Nat) (f : Grid → Grid) : State := putGrid s r g (f (s.grid r g))

/-- The arbiter looks for work. -/
def callArbiter (s : State) : State := s.pushOnce 0 0 .arbiterChoice

/-! ### Work nodes (R207 to R209) -/

/-- Where a node's entry lies. -/
def State.nodeAddr (s : State) (r n : Nat) : Nat := fld (s.rcb r 7) 21 19 * 2 ^ 21 + 32 * n

/-- The successors that a node lists: NS inline ones, then NEXT further ones (R207). -/
def nodeSuccs (s : State) (r n : Nat) : List Nat :=
  let d2 := (s.devDword (s.whoRegion r 4) (s.nodeAddr r n + 16)).2
  let d3 := (s.devDword (s.whoRegion r 4) (s.nodeAddr r n + 24)).2
  (List.range (fld d3 61 3)).map (fun k => fld d2 (16 * k) 16)
    ++ (List.range (fld d3 48 13)).map (fun k => leNat (s.devRead (s.whoRegion r 4) (fld d3 0 40 + 2 * k) 2).2)

/-- Every listed successor of a node is decremented once (R208, R209). -/
def decSuccs (s : State) (r n : Nat) : State := (nodeSuccs s r n).foldl (fun s m => nodeDec s r m) s

/-- The record of a node that could not fire (R209). -/
def nodeFormat (s : State) (r n : Nat) : State := eventRecord s r 3 7 0 n 0
/-- DETAIL of a TASK-FAULT or NODE-FAULT record: the cause and the low half of the detail (R199, R380). -/
def faultDetail (cause detail : Nat) : DWord := BitVec.ofNat 64 (cause * 2 ^ 56 + detail % 2 ^ 32)
/-- The record of a fault of a node's command (R199, R209). -/
def nodeFault (s : State) (r n cause detail : Nat) : State := eventRecord s r 3 2 0 n (faultDetail cause detail)

/-- The lowest-numbered die of a region's effective mask (R209). -/
def State.firstDie (s : State) (r : Nat) : Nat :=
  let m := s.maskOf s.depth r
  (((List.range 288).find? (fun c => m.testBit c)).getD 0) / 72

/-- The engine context that a node's command runs in (R209). -/
def nodeCtx (s : State) (r n : Nat) : Ctx :=
  let who : TaskId := { region := r, world := s.worldOf r, grid := 0, index := 0, xy := 0, z := 0, arg := 0 }
  { Ctx.start who 0 0 .engine 0 (some n) with oldCore := some (s.firstDie r * 72) }

/-- A command node issues the record at its payload (R209, R375). The transfer engine of a dispatcher has no tile and no matrix stream: a record
that names a tile or a follow-on step is malformed there (DESIGN CHOICE, notes/assumptions/32). -/
def fireCommand (s : State) (r n : Nat) (bytes : List Byte) : State × Bool :=
  let c := nodeCtx s r n
  let id := s.arb.nextCtx
  match readRecord s (s.whoRegion r (s.firstDie r)) (s.envOf r) bytes with
  | (s, .bad) => (nodeFormat s r n, true)
  | (s1, .stop x) => match x.fault with
    | some (cause, _, d) => (nodeFault s1 r n cause d.toNat, true)
    | none => if x.ue then (nodeFault s1 r n Cause.dataError 0, true) else (s.keepAsks s1, false)
  | (s, .cmd i ccw word ext hd ha h3) =>
    let f := (Instr.xform i).getD ⟨.post, 0, 0, 0, 0, 0, 0⟩
    if f.ct = 1 ∨ f.ct = 3 ∨ f.kind.aHandle = false ∨ f.kind.inStream = true then (nodeFormat s r n, true)
    else
      let issue := s.issue
      let s := { s with issue := Issue.idle, arb := { s.arb with nextCtx := id + 1 } }
      let s := fileCmd (s.setCtx id c) id c (recordCmd s c 0 i f ccw 0 word ext hd ha h3)
      ({ s with issue := issue }, true)

/-- A node fires: its launch is submitted or its command issued (R209). False when its payload cannot be read yet. -/
def fireNode (s : State) (r n kind payload ns : Nat) : State × Bool :=
  if 4 < ns then (nodeFormat s r n, true)
  else match readBytes s (s.whoRegion r (s.firstDie r)) (s.envOf r) payload 64 with
    | (s1, .error e) => if e.res = .wait then (s.keepAsks s1, false) else (nodeFormat s1 r n, true)
    | (s, .ok bs) => if kind = 1 then (s.push 0 0 (.launch (1 + r * 65536 + n) bs), true) else fireCommand s r n bs

/-- A decrement of a node: counted or not; wait when a firing node's payload cannot be read yet (R208, R209). -/
def nodeStep (s : State) (r n : Nat) : State × Res Bool :=
  if s.regionLive r = false then (s, .ok false)
  else
    let pa := s.nodeAddr r n
    let d0 := (s.devDword (s.whoRegion r 4) pa).2
    let kind := fld d0 62 2
    let pred := fld d0 32 16
    if bit d0 0 = false ∨ (kind ≠ 1 ∧ kind ≠ 2) ∨ bit d0 60 = true ∨ pred = 0 then
      -- a valid node of KIND 0b11 is also reported (R209)
      let s := if bit d0 0 && decide (kind = 3) then nodeFormat s r n else s
      (s.rcbPut32 r 15 0 (satAdd 32 (fld (s.rcbNow r 15) 0 32) 1), .ok false)
    else if 1 < pred then (s.devWrite (s.whoRegion r 4) pa (leBytes 8 (setFld d0 32 16 (pred - 1)).toNat), .ok true)
    else
      let d1 := (s.devDword (s.whoRegion r 4) (pa + 8)).2
      let d3 := (s.devDword (s.whoRegion r 4) (pa + 24)).2
      match fireNode s r n kind (fld d1 0 56) (fld d3 61 3) with
      | (s, false) => (s, .wait)
      | (s, true) =>
        let d := if bit d0 61 then setFld d0 32 16 (fld d0 16 16) else setFld (setFld d0 32 16 0) 60 1 1
        (s.devWrite (s.whoRegion r 4) pa (leBytes 8 d.toNat), .ok true)

/-- NODE_DECREMENT: one decrement, at the arbiter (R208). -/
def execNodeDecrement (region node : Nat) (s : State) : Host.Outcome State Fault Refusal :=
  match nodeStep s region node with
  | (s, .ok _) => fin s
  | (s, _) => fin (s.push 1 0 (.nodeDecrement region node))

/-! ### Grid states (R202 to R206) -/

/-- A closed grid whose indices have all ended completes (R202, R206, R208). -/
def endGrid (s : State) (r g : Nat) : State :=
  let e := s.grid r g
  if e.st = 2 ∧ e.ended = true then
    let status := if 0 < e.killed then 1 else if 0 < e.faults then 2 else 0
    let s := putGrid s r g { e with st := 3, status := status }
    let s := if bit (e.pk 0) 2 then eventRecord s r 1 status g 0 (e.pk 7) else s
    let s := if bit (e.pk 4) 47 then nodeDec s r (fld (e.pk 4) 48 16) else s
    match e.node with
    | some n => decSuccs s r n
    | none => s
  else s

/-- Why a launch is refused, as an event status (R199); `home` is the region of the node that submits it. -/
def launchStatus (s : State) (home : Option Nat) (bs : List Byte) : Option Nat :=
  let d (k : Nat) : DWord := dwordAt bs k
  let r := fld (d 0) 40 16
  let e := s.grid r (fld (d 0) 32 8)
  let x := fld (d 3) 0 32
  let y := fld (d 3) 32 32
  if fld (d 0) 56 8 ≠ 1 ∨ fld (d 0) 3 13 ≠ 0 ∨ fld (d 1) 56 8 ≠ 0 ∨ fld (d 2) 56 8 ≠ 0 ∨ fld (d 4) 32 15 ≠ 0 ∨ fld (d 5) 56 8 ≠ 0
      ∨ fld (d 6) 56 8 ≠ 0 ∨ x = 0 ∨ y = 0 ∨ 2 ^ 32 < x * y * fld (d 4) 0 32 ∨ fld (d 1) 0 2 ≠ 0 ∨ fld (d 2) 0 6 ≠ 0
      ∨ home.any (fun h => decide (h ≠ r)) = true then some 3
  else if s.regionLive r = false then some 4
  else if s.stopOf r then some 6
  else if e.st = 1 ∨ e.st = 2 then some 5
  else none

/-- A packet is submitted by the host (source 0) or by node n of region r (source 1 + 65,536 r + n): refused with an event, or the grid is
written (R199, R202). -/
def submitLaunch (s : State) (src : Nat) (packet : List Byte) : State :=
  let home : Option Nat := if src = 0 then none else some ((src - 1) / 65536)
  let d (k : Nat) : DWord := dwordAt packet k
  let r := fld (d 0) 40 16
  let g := fld (d 0) 32 8
  match launchStatus s home packet with
  | some st => eventTo s (home.getD (if s.regionLive r then r else 0)) r 2 st g 0 (d 7)
  | none =>
    let n := fld (d 3) 0 32 * fld (d 3) 32 32 * fld (d 4) 0 32
    let e : Grid :=
      { Grid.free with
        st := if bit (d 0) 0 then 1 else 2, count := n, retmap := fld (d 6) 0 56
        spbase := fld (s.devDword (s.whoRegion r 4) (s.gridAddr r g + 40)).2 14 26 * 2 ^ 14
        packet := packet.take 64, order := s.arb.launches, node := if src = 0 then none else some ((src - 1) % 65536), base0 := n }
    let s := { s with arb := { s.arb with launches := s.arb.launches + 1, cut := s.arb.cut.filter (fun p => decide (p.1 ≠ gridKey r g)) } }
    callArbiter (endGrid (putGrid s r g e) r g)

/-! ### Launch queues (R443) -/

def State.lq (s : State) (q : Nat) : LQ := s.host.lqs.val LQ.reset q
def State.updLq (s : State) (q : Nat) (f : LQ → LQ) : State := { s with host := { s.host with lqs := s.host.lqs.set q (f (s.lq q)) } }

/-- Whether a queue has a packet to be read. -/
def LQ.ready (l : LQ) : Bool := l.en && !l.err && decide (l.head ≠ l.tail)
/-- Whether more packets are announced than a queue holds. -/
def LQ.overfull (l : LQ) : Bool := decide (2 ^ l.sizelog < (l.tail + 2 ^ 32 - l.head) % 2 ^ 32)
/-- The source of a launch that is read from queue q. -/
def lqSource (q : Nat) : Nat := 2 ^ 32 + q
/-- Whether a step is a launch that is to be read from a queue. -/
def isLqLaunch (i : Instr) : Bool :=
  match i with
  | .launch src _ => decide (2 ^ 32 ≤ src)
  | _ => false

/-- The next queue in turn that has a packet is read, one packet at a time. -/
def lqServe (s : State) : State :=
  if s.agenda.any (fun e => isLqLaunch e.2.2) then s
  else match ((span (s.host.lqNext + 1) 16).map (· % 16)).find? (fun q => (s.lq q).ready) with
    | some q => s.push 0 0 (.launch (lqSource q) [])
    | none => s

/-- The packet at a queue's HEAD, in device memory or in the host's. -/
def lqRead (s : State) (l : LQ) : State × Res (List Byte) :=
  let a := fld l.base 6 50 * 64 + 64 * (l.head % 2 ^ l.sizelog)
  if bit l.base 63 then
    let w : Who := { die := 4, world := 0, region := 0, core := 0x1FF, req := 6, opens := false }
    let env : Env := { region := 0, world := 0, asn := 0, root := 0, pasid := 0, pairBase := 0, pairSize := 0, wintab := 0 }
    match hostLookup s w env .read 0 a with
    | (s, .ok p) => homeRead s w env p 64
    | (s, .fail t l h) => (s, .fail t l h)
    | (s, .abort) => (s, .abort)
    | (s, .tag b) => (s, .tag b)
    | (s, .wait) => (s, .wait)
  else
    if s.devMay 0 a 64 then
      let (s, bs) := s.devRead whoDevice a 64
      (s, .ok bs)
    else (s, .fail Tstat.permission 0 false)

/-- One packet of a queue is read and submitted, HEAD advances, and the vector is sent when NOTIFY asks for it. -/
def lqStep (s : State) (q : Nat) : State :=
  let l := s.lq q
  if l.ready = false then lqServe s
  else if l.overfull then lqServe (s.updLq q fun l => { l with err := true })
  else match lqRead s l with
    | (s, .ok bs) =>
      let s := (submitLaunch s 0 bs).updLq q fun l => { l with head := (l.head + 1) % 2 ^ 32 }
      let s := if l.notify then s.msix (3 + q) else s
      lqServe { s with host := { s.host with lqNext := q } }
    | (s1, .wait) => (s.keepAsks s1).push 1 0 (.launch (lqSource q) [])
    | (s, _) => lqServe (s.updLq q fun l => { l with err := true })

/-- LAUNCH: a packet is submitted, given with its source, or read from a launch queue (R199, R202, R443). -/
def execLaunch (src : Nat) (packet : List (BitVec 8)) (s : State) : Host.Outcome State Fault Refusal :=
  fin (if 2 ^ 32 ≤ src then lqStep s (src % 16) else submitLaunch s src packet)

/-! ### GROW, SPAWN, CLOSE (R203, R204) -/

/-- A result word that is not OK (R203). -/
def reason (n : Nat) : DWord := BitVec.ofNat 64 (2 * n)

/-- GROW of a task's own grid (R204). -/
def growGrid (s : State) (r g k : Nat) : State × DWord :=
  let e := s.grid r g
  if e.st ≠ 1 then (s, reason 3)
  else if 2 ^ 32 < e.count + k then (s, reason 4)
  else (callArbiter (putGrid s r g { e with count := e.count + k }), 1)

/-- SPAWN of an index, or a decrement of a node (R204); none when the node's payload cannot be read yet. -/
def spawnWork (s : State) (r : Nat) (target arg : DWord) : State × Option DWord :=
  if bit target 63 then
    if fld target 16 47 ≠ 0 then (s, some (reason 6))
    else match nodeStep s r (fld target 0 16) with
      | (s, .ok true) => (s, some 1)
      | (s, .ok false) => (s, some (reason 6))
      | (s, _) => (s, none)
  else
    let g := fld target 0 8
    let e := s.grid r g
    if fld target 8 55 ≠ 0 ∨ e.st = 0 then (s, some (reason 5))
    else if e.st ≠ 1 then (s, some (reason 3))
    else if e.spbase = 0 ∨ (e.sptail + 2 ^ 16 - e.sphead) % 2 ^ 16 = 1024 then (s, some (reason 1))
    else if e.count = 2 ^ 32 then (s, some (reason 4))
    else
      let s := s.devWrite (s.whoRegion r 4) (e.spbase + 16 * (e.sptail % 1024)) (leBytes 8 e.count ++ leBytes 8 arg.toNat)
      (callArbiter (putGrid s r g { e with count := e.count + 1, sptail := (e.sptail + 1) % 2 ^ 16 }), some 1)

/-- CLOSE of a grid of the task's region (R202, R204). -/
def closeGrid (s : State) (r g : Nat) : State × DWord :=
  let e := s.grid r g
  if e.st ≠ 1 then (s, reason 3) else (endGrid (putGrid s r g { e with st := 2 }) r g, 1)

/-! ### ENQ and DEQ (R205) -/

/-- How a queue operation ends: its status and value; a header that is none; an access that stopped. -/
inductive QueueEnd where
  | done (status value : DWord)
  | format
  | stop (r : Res Unit)
deriving DecidableEq, Repr

/-- Whether a paired buffer or a ring covers one of some lines of a slice. -/
def coveredLines (t : Tab BufEnt) (first last : Nat) : Bool :=
  t.any fun (_, e) =>
    let n := if e.mode = 2 then 2 * (e.lenM1 + 1) else e.lenM1 + 1
    decide ((e.mode = 2 ∨ e.mode = 3) ∧ e.base ≤ last ∧ first < e.base + n)

/-- The header of a queue at an offset of a slice, when it is one: HEAD, TAIL, entries (R205). -/
def queueHeader (s : State) (core off : Nat) (bs : List Byte) : Option (Nat × Nat × Nat) :=
  let d0 := dwordAt bs 0
  let d1 := dwordAt bs 1
  let n := 2 ^ fld d1 0 4
  if off % 64 ≠ 0 ∨ fld d1 4 60 ≠ 0 ∨ (bs.drop 16).any (· != 0) = true ∨ 2 ^ 23 < off + 64 + 8 * n
      ∨ coveredLines (s.bufsFor core off) (off / 64) ((off + 64 + 8 * n - 1) / 64) = true then none
  else some (fld d0 32 32, fld d0 0 32, n)

/-- ENQ (a value given) or DEQ at a queue: one indivisible operation on the header line and one entry line (R205). -/
def queueOp (s : State) (w : Who) (env : Env) (q : Nat) (v : Option DWord) : State × QueueEnd :=
  let core := q / 2 ^ 23 % 512
  let off := q % 2 ^ 23
  match homeRead s w env (.slice core off) 64 with
  | (s, .ok bs) => match queueHeader s core off bs with
    | none => (s, .format)
    | some (head, tail, n) =>
      let used := (tail + 2 ^ 32 - head) % 2 ^ 32
      if v.isSome = true ∧ used = n then (s, .done (reason 1) 0)
      else if v.isNone = true ∧ used = 0 then (s, .done (reason 2) 0)
      else
        let at_ := off + 64 + 8 * ((if v.isSome then tail else head) % n)
        if s.sliceAllowed w core at_ .atomic = false then (s, .stop (.fail Tstat.slicePermission 0 false))
        else match homeRead s w env (.slice core at_) 8 with
          | (s, .ok old) =>
            let hdr : DWord := match v with
              | some _ => BitVec.ofNat 64 (head * 2 ^ 32 + (tail + 1) % 2 ^ 32)
              | none => BitVec.ofNat 64 ((head + 1) % 2 ^ 32 * 2 ^ 32 + tail)
            let entry := match v with
              | some x => homeWriteRun s w env (.slice core at_) (leBytes 8 x.toNat)
              | none => (s, .ok ())
            match entry with
            | (s, .ok ()) => match homeWriteRun s w env (.slice core off) (leBytes 8 hdr.toNat) with
              | (s, .ok ()) => (s, .done 1 (if v.isSome then 0 else dwordAt old 0))
              | (s, r) => (s, .stop r)
            | (s, r) => (s, .stop r)
          | (s, r) => (s, .stop r.unit)
  | (s, r) => (s, .stop r.unit)

end Sys2Proof.Machine
end

