-- ==== Sys2Proof/Machine/Atomic.lean ====
section
/-! DEFINITION. Scalar atomics (R79, R84, R99, R100, R294, R295), and the work and queue instructions (R203 to R205, R306). -/

namespace Sys2Proof.Machine

/-! ### What an ordered operation waits for (R79, R86, R98, R99) -/

/-- Whether a core's slice lies in the visibility set of a scope, seen from another core (R79). -/
def coreWithin (core scope t : Nat) : Bool :=
  match scope with
  | 0 => decide (t = core)
  | 1 => decide (clusterOf t = clusterOf core)
  | 2 => decide (dieOf t = dieOf core)
  | _ => true

/-- Whether an HBM address, or one of a pair's two, has its controller on a die. -/
def pairOnDie (s : State) (w : Who) (env : Env) (die index off : Nat) : Bool :=
  match readPair s w env index with
  | (_, .ok (f, b)) => decide (hbmDie ((f + off) / 64) = die) || decide (hbmDie ((b + off) / 64) = die)
  | _ => false

/-- Whether a place lies in the visibility set of a scope (R79); a paired page counts for die scope when either of its bases lies on the die. -/
def State.placeWithin (s : State) (c : Ctx) (scope : Nat) (p : Place) : Bool :=
  match p with
  | .slice t _ => coreWithin c.anyCore scope t
  | .hbm pa => decide (3 ≤ scope) || decide (scope = 2 ∧ hbmDie (pa / 64) = dieOf c.anyCore)
  | .paired _ i off => decide (3 ≤ scope) || decide (scope = 2) && pairOnDie s (s.whoTask c 0 false) (s.envTask c) (dieOf c.anyCore) i off
  | .host _ => decide (3 ≤ scope)
  | .remote .. => decide (scope = 4)

/-- The leaf of a paged address as memory holds it now, found without effect. -/
def leafNow (s : State) (w : Who) (env : Env) (va : Nat) : Option Leaf :=
  match walk w env va 4 3 env.root { s with walkc := [] } with
  | (_, .ok l) => some l
  | _ => none

/-- The place of a line through a leaf, as far as its home is concerned. -/
def Leaf.place (l : Leaf) (region va : Nat) : Place :=
  let off := va % 2 ^ pageBits l.level
  let addr := fld l.value 16 48 * 2 ^ 16
  match fld l.value 8 2 with
  | 0 => .hbm (addr + off)
  | 1 => .host (addr + off)
  | _ => .paired region (addr / 2 ^ 16) off

/-- Whether some byte of a range of local addresses has its home in the visibility set of a scope (R79); the range's lines are looked up only for
die scope, where the controllers of their pages decide. -/
def rangeWithin (s : State) (c : Ctx) (scope : Nat) (r : Nat × Nat) : Bool :=
  let (a, n) := r
  decide (0 < n) && match spaceOf a with
  | 0 => decide (3 ≤ scope) || decide (scope = 2) && (span (a / 65536) ((a % 65536 + n + 65535) / 65536)).any fun page =>
      match leafNow s (s.whoTask c 0 false) (s.envTask c) (page * 65536) with
      | none => false
      | some l => (List.range 1024).any fun i =>
          let va := page * 65536 + i * 64
          decide (a < va + 64 ∧ va < a + n) && s.placeWithin c 2 (l.place c.who.region va)
  | 1 => (span (a / 2 ^ 23 % 512) ((a % 2 ^ 23 + n + 2 ^ 23 - 1) / 2 ^ 23)).any (coreWithin c.anyCore scope)
  | _ => false

/-- Whether a local write of a command may have its home in the visibility set of a scope. Where a reduction's record says RESADDR, nobody knows
before the command has read it. -/
def Cmd.within (s : State) (c : Ctx) (k : Cmd) (scope : Nat) : Bool :=
  (!k.begun && (decide (k.kind = .rred) || decide (k.kind = .rmergeSw))) || k.localWrites.any (rangeWithin s c scope)

/-- Whether a command is covered at a scope: neither detached nor wider, and its destination no ring (R86). -/
def Cmd.covered (k : Cmd) (scope : Nat) : Bool := decide (k.form.sc ≤ scope) && !(k.kind.dHandle && hRing k.hd)

/-- A command that has neither completed nor faulted. -/
def Cmd.live (k : Cmd) : Bool := k.st = .issued || k.st = .running

/-- The operations that an ordered operation of a scope waits for: covered commands, and vector and permute operations, which count as
commands of core scope (R328), with a write in the scope's visibility set. The writes to window space are left to the release of pod scope. -/
def Ctx.olderOps (s : State) (c : Ctx) (scope : Nat) : List Nat :=
  ((c.xf.log ++ c.xf.again).filter (fun k => k.live && k.covered scope && k.within s c scope)).map (·.seq)
    ++ (c.eng.vq.filter (fun v => v.wr.any (rangeWithin s c scope))).map (·.seq) ++ c.eng.prm.map (·.seq)

/-- Whether a line that an older PHASE of the task sent without waiting, and that is not performed yet, has its home in the visibility set of a
scope (R86). -/
def Ctx.lateWithin (s : State) (c : Ctx) (scope : Nat) : Bool := c.ph.late.any (fun l => s.placeWithin c scope l.2.2.place)

/-- The operations of a task that are still to complete. -/
def Ctx.pendingOps (c : Ctx) : List Nat :=
  ((c.xf.log ++ c.xf.again).filter Cmd.live).map (·.seq) ++ c.eng.vq.map (·.seq) ++ c.eng.prm.map (·.seq)

/-- Whether none of some operations still has a write to make in the visibility set of a scope, nor an older PHASE a line. -/
def Ctx.opsDone (s : State) (c : Ctx) (scope : Nat) (l : List Nat) : Bool :=
  !Ctx.lateWithin s c scope && l.all (fun q => !(Ctx.olderOps s c scope).contains q)

/-- Whether a release has been accepted by the Midfield die, or is over (R102). -/
def Ctx.relAccepted (c : Ctx) (e : Nat) : Bool := c.ph.rels.all (fun r => decide (r.epoch ≠ e) || r.accepted)
/-- Whether a release is complete (R104). -/
def Ctx.relDone (c : Ctx) (e : Nat) : Bool := c.ph.rels.all (fun r => decide (r.epoch ≠ e))

/-! ### The operations (R117, R294) -/

/-- The new value of an atomic: AMOP code, width in bits, FTZ, old value, operand, compare value (R117, R294). -/
def amoValue (op bits : Nat) (ftz : Bool) (old b cmp : Nat) : Nat :=
  match op with
  | 0x0 => (old + b) % 2 ^ bits
  | 0x1 => if signed bits b < signed bits old then b else old
  | 0x2 => if signed bits old < signed bits b then b else old
  | 0x3 => Nat.min old b
  | 0x4 => Nat.max old b
  | 0x5 => old &&& b
  | 0x6 => old ||| b
  | 0x7 => old ^^^ b
  | 0x8 => b
  | 0x9 => if old = cmp then b else old
  | 0xA => fp32.encode 0 false false 0 (Val.minMax true (fp32.decode old) (fp32.decode b))
  | _ => round32 ftz ((fp32.decode old).add 0 (fp32.decode b))

/-- The width in bits of an atomic. -/
def amoBits (dw : Bool) : Nat := if dw then 64 else 32

/-- The codes under which GROW, SPAWN, CLOSE, ENQ and DEQ wait in the scalar queue beside the AMOP codes (R203). -/
def Work.grow : Nat := 16
def Work.spawn : Nat := 17
def Work.close : Nat := 18
def Work.enq : Nat := 19
def Work.deq : Nat := 20

/-- GROW, SPAWN, CLOSE, ENQ or DEQ performed: the result word, and for DEQ the value, are written; with OK = 0 nothing else changes (R203 to R205,
R406). False for a queue that is none. -/
def performWork (s : State) (id : Nat) (c : Ctx) (m : PMem) : State × Res Bool :=
  let w := s.whoTask c 0 false
  let give (s : State) (v : DWord) : State := (s.updCtx id fun c => { c with ph := { c.ph with nr := c.ph.nr || bit v 0 } }).wrS id m.d v
  let r := c.who.region
  if m.amop = Work.grow then
    let (s, v) := growGrid s r c.who.grid m.operand.toNat
    (give s v, .ok true)
  else if m.amop = Work.spawn then
    match spawnWork s r m.operand m.compare with
    | (s, some v) => (give s v, .ok true)
    | (s, none) => (s, .wait)
  else if m.amop = Work.close then
    let (s, v) := closeGrid s r (fld m.operand 0 8)
    (give s v, .ok true)
  else
    match queueOp s w (s.envTask c) m.va (if m.amop = Work.enq then some m.operand else none) with
    | (s, .done st v) =>
      let s := give s st
      (if m.amop = Work.deq then s.wrS id (BitVec.ofNat 6 m.compare.toNat) v else s, .ok true)
    | (s, .format) => (s, .ok false)
    | (s, .stop x) => (s, match x with
      | .ok () => .ok true
      | .fail t l h => .fail t l h
      | .abort => .abort
      | .tag b => .tag b
      | .wait => .wait)

/-- A scalar atomic performed at its home: the old value is returned, the line unpinned, the phase no longer restartable (R84, R100, R295,
R406). -/
def performAtomic (s : State) (id : Nat) (m : PMem) : State × Res Unit :=
  match s.ctx id with
  | none => (s, .ok ())
  | some c =>
    let n := 2 ^ m.size
    let bits := 8 * n
    match homeAtomic s (s.whoTask c 0 false) (s.envTask c) m.place n
        (fun old => amoValue m.amop bits m.ftz old (m.operand.toNat % 2 ^ bits) (m.compare.toNat % 2 ^ bits)) with
    | (s, .ok old) =>
      let s := s.updCtx id fun c => { (c.unpin m.va) with ph := { (c.unpin m.va).ph with nr := true } }
      (s.wrS id m.d (BitVec.ofNat 64 old), .ok ())
    | (s, r) => (s, r.unit)

/-- The request of a window-space atomic (R115 to R117). -/
def amoTxn (op : Nat) (dw ftz : Bool) (operand compare : DWord) (target : Nat) (entry : DWord) : Txn :=
  let m : Nat := if dw then 2 ^ 64 else 2 ^ 32
  reqTxn Op.amoreq entry target (if dw then 8 else 4) (op * 2 ^ 36 + (if dw then 3 else 2) * 2 ^ 34 + b2n ftz * 2 ^ 10) 0
    (leBytes 8 (operand.toNat % m) ++ leBytes 8 (if op = 9 then compare.toNat % m else 0))

/-- A scalar atomic at s[a] (R295): in window space its bundle waits for the completion; elsewhere it is performed at once when nothing older
stands before it, otherwise it waits in the scalar queue. At pod scope it calls Release() for the older remote writes (R99). -/
def atomicOp (s : State) (d a b : BitVec 6) (sc : BitVec 3) (dw : Bool) (op : Nat) : Host.Outcome State Fault Refusal :=
  slotStep s fun id c =>
    let ea := (s.rs c a).toNat
    let n := if dw then 8 else 4
    let scope := sc.toNat
    let ftz := decide (op = 0xB) && ftzOf (s.srcRegs c).fpctl
    let older := Ctx.olderOps s c scope
    let wait := !Ctx.opsDone s c scope older || !c.ph.memq.isEmpty
    if ea % n ≠ 0 then s.raise Cause.misaligned 0
    else if spaceOf ea = 2 then
      let mk := amoTxn op dw ftz (s.rs c b) (s.rs c d)
      let ask (s : State) : State := remoteAsk s id c ea .atomic n true mk
      match remState s c with
      | .answered w data => remoteEnd s id ea w data fun s data =>
        (s.updCtx id fun c => { (c.unpin ea) with ph := { (c.unpin ea).ph with nr := true } }).wrS id d (BitVec.ofNat 64 (leNat (data.take n)))
      | .released e => if c.relAccepted e then ask s else s.stall
      | .idle =>
        if wait then s.stall
        else if scope = 4 then
          -- the source checks come before the release: a failure releases nothing
          match translate s (s.whoTask c 0 false) (s.envTask c) .atomic ea n with
          | (s, .ok _) => match beginRelease s id c.ph.seq with
            | some (s, e) => s.holdRem id c (some e) none
            | none => s.stall
          | (s, r) => accessTrap s c ea .atomic r.unit
        else ask s
      | _ => s.stall
    else
      let w := s.whoTask c 0 false
      match translate s w (s.envTask c) .atomic ea n with
      | (s, .ok p) => match homeAdmits s w (s.envTask c) .atomic p with
        | (s, .ok ()) =>
          let m : PMem :=
            { atomic := true, d := d, va := ea, size := if dw then 3 else 2, uns := true, place := p, amop := op, operand := s.rs c b,
              compare := s.rs c d, scope := scope, ftz := ftz, older := older, release := none, own := [], pc := s.pcOf c, seq := c.ph.seq }
          if scope = 4 then
            match beginRelease s id c.ph.seq with
            | some (s, e) => queueMem s id { m with release := some e }
            | none => s.stall
          else if wait || s.mustFollow c m.seq p then queueMem s id m
          else match performAtomic s id m with
            | (s, .ok ()) => s
            | (s, r) => accessTrap s c ea .atomic r
        | (s, r) => accessTrap s c ea .atomic r
      | (s, r) => accessTrap s c ea .atomic r.unit

/-- AMOADD: wrapping addition (R294). -/
def execAmoadd (d a b : BitVec 6) (sc : BitVec 3) (dw : Bool) (s : State) : Host.Outcome State Fault Refusal := atomicOp s d a b sc dw 0x0
/-- AMOAND (R294). -/
def execAmoand (d a b : BitVec 6) (sc : BitVec 3) (dw : Bool) (s : State) : Host.Outcome State Fault Refusal := atomicOp s d a b sc dw 0x5
/-- AMOOR (R294). -/
def execAmoor (d a b : BitVec 6) (sc : BitVec 3) (dw : Bool) (s : State) : Host.Outcome State Fault Refusal := atomicOp s d a b sc dw 0x6
/-- AMOXOR (R294). -/
def execAmoxor (d a b : BitVec 6) (sc : BitVec 3) (dw : Bool) (s : State) : Host.Outcome State Fault Refusal := atomicOp s d a b sc dw 0x7
/-- AMOSWAP (R294). -/
def execAmoswap (d a b : BitVec 6) (sc : BitVec 3) (dw : Bool) (s : State) : Host.Outcome State Fault Refusal := atomicOp s d a b sc dw 0x8
/-- AMOCAS: b when the old value equals s[d], else the old value (R294). -/
def execAmocas (d a b : BitVec 6) (sc : BitVec 3) (dw : Bool) (s : State) : Host.Outcome State Fault Refusal := atomicOp s d a b sc dw 0x9
/-- AMOMIN, signed or unsigned (R294). -/
def execAmomin (d a b : BitVec 6) (sc : BitVec 3) (dw u : Bool) (s : State) : Host.Outcome State Fault Refusal :=
  atomicOp s d a b sc dw (if u then 0x3 else 0x1)
/-- AMOMAX, signed or unsigned (R294). -/
def execAmomax (d a b : BitVec 6) (sc : BitVec 3) (dw u : Bool) (s : State) : Host.Outcome State Fault Refusal :=
  atomicOp s d a b sc dw (if u then 0x4 else 0x2)
/-- AMOFMAX: the FP32 maximum under R167 (R294). -/
def execAmofmax (d a b : BitVec 6) (sc : BitVec 3) (s : State) : Host.Outcome State Fault Refusal := atomicOp s d a b sc false 0xA
/-- AMOFADD: the FP32 sum, RNE, with the issuing task's FTZ (R294). -/
def execAmofadd (d a b : BitVec 6) (sc : BitVec 3) (s : State) : Host.Outcome State Fault Refusal := atomicOp s d a b sc false 0xB

/-! ### GROW, SPAWN, CLOSE, ENQ, DEQ (R203 to R205, R306) -/

/-- How a work operation's slot ends. -/
def workEnd (s0 : State) (c : Ctx) (ea : Nat) : State × Res Bool → State
  | (s, .ok true) => s
  | (s, .ok false) => s.raise Cause.queueFormat 0
  | (s, .wait) => (s0.keepAsks s).stall
  | (s, r) => accessTrap s c ea .atomic r.unit

/-- A work operation, performed as a scalar atomic of package scope: at once, or in the scalar queue behind what it waits for (R203). -/
def workOp (s : State) (d : BitVec 6) (amop ea : Nat) (operand compare : Ctx → DWord) : Host.Outcome State Fault Refusal :=
  match slotStep s (fun id c =>
    let older := Ctx.olderOps s c 3
    let m : PMem :=
      { atomic := true, d := d, va := ea, size := 3, uns := true,
        place := if amop < Work.enq then .hbm 0 else .slice (ea / 2 ^ 23 % 512) (ea % 2 ^ 23), amop := amop, operand := operand c,
        compare := compare c, scope := 3, ftz := false, older := older, release := none, own := [], pc := s.pcOf c, seq := c.ph.seq }
    let w := s.whoTask c 0 false
    let go (s : State) : State :=
      if !Ctx.opsDone s c 3 older || !c.ph.memq.isEmpty || s.mustFollow c m.seq m.place then queueMem s id m else workEnd s c ea (performWork s id c m)
    if amop < Work.enq then go s
    else if spaceOf ea ≠ 1 ∨ ea % 64 ≠ 0 then s.raise Cause.queueFormat 0
    else match translate s w (s.envTask c) .atomic ea 64 with
      | (s, .ok p) => match homeRead s w (s.envTask c) p 64 with
        | (s, .ok bs) =>
          if (queueHeader s (ea / 2 ^ 23 % 512) (ea % 2 ^ 23) bs).isNone then s.raise Cause.queueFormat 0 else go s
        | (s1, .wait) => (s.keepAsks s1).stall
        | (s, r) => accessTrap s c ea .atomic r.unit
      | (s, r) => accessTrap s c ea .atomic r.unit) with
  | .next t => fin t
  | o => o

/-- The register a work operation reads for the task on the core. -/
def State.reg (s : State) (n : BitVec 6) (c : Ctx) : DWord := s.rs c n
/-- A register of the task on the core whose instruction is read. -/
def State.curReg (s : State) (n : BitVec 6) : Nat := ((s.cid.bind s.ctx).elim 0 (fun c => s.rs c n)).toNat

/-- GROW: adds s[k] indices to the task's own grid (R204). -/
def execGrow (d k : BitVec 6) (s : State) : Host.Outcome State Fault Refusal := workOp s d Work.grow 0 (s.reg k) (fun _ => 0)
/-- SPAWN: one index with an argument, or a decrement of a node (R204). -/
def execSpawn (d t g : BitVec 6) (s : State) : Host.Outcome State Fault Refusal := workOp s d Work.spawn 0 (s.reg t) (s.reg g)
/-- CLOSE: closes a grid (R204). -/
def execClose (d g : BitVec 6) (s : State) : Host.Outcome State Fault Refusal := workOp s d Work.close 0 (s.reg g) (fun _ => 0)
/-- ENQ: s[v] joins the queue at s[q] (R205). -/
def execEnq (d q v : BitVec 6) (s : State) : Host.Outcome State Fault Refusal :=
  workOp s d Work.enq (s.curReg q) (s.reg v) (fun _ => 0)
/-- DEQ: s[e] takes the oldest value of the queue at s[q] (R205). -/
def execDeq (d q e : BitVec 6) (s : State) : Host.Outcome State Fault Refusal :=
  workOp s d Work.deq (s.curReg q) (fun _ => 0) (fun _ => BitVec.ofNat 64 e.toNat)

/-! ### The oldest atomic of a task -/

/-- ATOMIC_COMPLETE: the oldest scalar atomic of the task is performed once every operation it waits for, and its release, is over (R78,
R99, R295). -/
def execAtomicComplete (s : State) : Host.Outcome State Fault Refusal :=
  let id := s.subj
  match s.ctx id with
  | none => .next s
  | some c => match c.ph.memq with
    | [] => .next s
    | m :: _ =>
      if !m.atomic then .next s
      else if !Ctx.opsDone s c m.scope m.older || !(m.release.elim true c.relDone) then .next (s.push 1 id .atomicComplete)
      else if Work.grow ≤ m.amop then
        match performWork s id c m with
        | (s, .ok true) => fin (dropMem s id)
        | (s, .ok false) => fin (lateTrap s id Cause.queueFormat 0 0)
        | (s, r) => fin (memStop s id m .atomic r.unit)
      else match performAtomic s id m with
        | (s, .ok ()) => .next (dropMem s id)
        | (s, r) => .next (memStop s id m .atomic r)

end Sys2Proof.Machine
end

