-- ==== Sys2Proof/Machine/Control.lean ====
section
/-! DEFINITION. The CTL slot: transfers and loops (R252 to R257, R298 to R301), waits, PHASE and FENCE (R85 to R98, R302), releases (R102 to
R104), barriers (R303 to R305). -/

namespace Sys2Proof.Machine

/-! ### Transfers (R298, R299) -/

/-- The acting transfer goes to a target; one that is not 4-byte aligned traps instead. -/
def State.goTo (s : State) (a : Nat) : State :=
  if a % 4 ≠ 0 then s.raise Cause.misaligned 0
  else { s with issue := { s.issue with goto := some a, noEdge := true } }

/-- PC + 4 × a signed offset. -/
def relTarget (pc : Nat) (off : Int) : Nat := wrap 64 ((pc : Int) + 4 * off)

/-- The branch conditions (R298). -/
def brCond (cond : BitVec 3) (a b : DWord) : Bool :=
  match cond.toNat with
  | 0 => a == b
  | 1 => a != b
  | 2 => a.slt b
  | 3 => !a.slt b
  | 4 => a.ult b
  | _ => !a.ult b

/-- BR: transfers when the condition holds (R298). -/
def execBr (cond : BitVec 3) (a b : BitVec 6) (off : BitVec 28) (s : State) : Host.Outcome State Fault Refusal :=
  slotStep s fun _ c => if brCond cond (s.rs c a) (s.rs c b) then s.goTo (relTarget (s.pcOf c) off.toInt) else s

/-- JMP (R298). -/
def execJmp (off : BitVec 43) (s : State) : Host.Outcome State Fault Refusal :=
  slotStep s fun _ c => s.goTo (relTarget (s.pcOf c) off.toInt)

/-- JR: transfers to s[a] (R298). -/
def execJr (a : BitVec 6) (s : State) : Host.Outcome State Fault Refusal :=
  slotStep s fun _ c => s.goTo (s.rs c a).toNat

/-- s1 := the address of the next bundle (R298). -/
def State.link (s : State) (id : Nat) (c : Ctx) : State := s.wrS id 1 (BitVec.ofNat 64 (s.nextPc c))

/-- CALL: as JMP, with the link in s1 (R298). -/
def execCall (off : BitVec 43) (s : State) : Host.Outcome State Fault Refusal :=
  slotStep s fun id c => (s.link id c).goTo (relTarget (s.pcOf c) off.toInt)

/-- CALLR: as JR, with the link in s1; CALLR s1 goes to the old s1 (R298). -/
def execCallr (a : BitVec 6) (s : State) : Host.Outcome State Fault Refusal :=
  slotStep s fun id c => (s.link id c).goTo (s.rs c a).toNat

/-- RET: transfers to s1 (R298). -/
def execRet (s : State) : Host.Outcome State Fault Refusal := slotStep s fun _ c => s.goTo (s.rs c 1).toNat

/-! ### Loops (R252 to R256, R300, R301) -/

/-- LSTATE's DEPTH, SV and SLEVEL; STAGE's SREG (R252, R256). -/
def Sticky.depth (k : Sticky) : Nat := fld k.lstate 0 3
def Sticky.sv (k : Sticky) : Bool := bit k.lstate 6
def Sticky.slevel (k : Sticky) : Nat := fld k.lstate 4 2
def Sticky.sreg (k : Sticky) : BitVec 6 := BitVec.ofNat 6 (fld k.stage 16 6)

/-- The sticky state of a context changed. -/
def State.updSt (s : State) (id : Nat) (f : Sticky → Sticky) : State := s.updCtx id (·.updRegs (fun r => { r with st := f r.st }))

/-- Opens the next level with a count, a body and, for a staged loop, its predicate register and stages (R253, R256). -/
def Sticky.open' (k : Sticky) (count lbeg lend : Nat) (sreg : BitVec 6) (nM1 : Nat) : Sticky :=
  let d := k.depth
  let k := { k with
    lc := k.lc.put 0 d (BitVec.ofNat 32 (count - 1))
    lbeg := k.lbeg.put 0 d (BitVec.ofNat 64 lbeg)
    lend := k.lend.put 0 d (BitVec.ofNat 64 lend)
    lstate := setFld k.lstate 0 3 (d + 1) }
  if sreg = 0 then k
  else { k with
    lstate := setFld (setFld k.lstate 4 2 d) 6 1 1
    stage := BitVec.ofNat 64 (sreg.toNat * 2 ^ 16 + nM1 * 2 ^ 8 + 1) }

/-- LOOP and LOOPI: skip the body, trap, or open a level (R253). -/
def openLoop (s : State) (id : Nat) (c : Ctx) (count endOff : Nat) (sreg : BitVec 6) (nM1 : Nat) : State :=
  let k := (s.srcRegs c).st
  let lbeg := s.nextPc c
  let lend := s.pcOf c + 4 * endOff
  let outer := (k.lend.val 0 (k.depth - 1)).toNat
  if count = 0 then s.goTo lend
  else if k.depth = 4 ∨ lend ≤ lbeg ∨ (0 < k.depth ∧ outer < lend) ∨ (sreg ≠ 0 ∧ k.sv = true) then s.raise Cause.loopState 0
  else
    let s := s.updSt id (·.open' count lbeg lend sreg nM1)
    if sreg = 0 then s else s.wrS id sreg 1

/-- LOOP: opens a level with the count in s[a] (R253, R300). -/
def execLoop (a sreg : BitVec 6) (nM1 : BitVec 3) (endOff : BitVec 28) (s : State) : Host.Outcome State Fault Refusal :=
  slotStep s fun id c =>
    let n := (s.rs c a).toNat
    if 2 ^ 32 ≤ n then s.raise Cause.loopState 0 else openLoop s id c n endOff.toNat sreg nM1.toNat

/-- LOOPI: opens an unstaged level with an immediate count (R300). -/
def execLoopi (cnt : BitVec 16) (endOff : BitVec 27) (s : State) : Host.Outcome State Fault Refusal :=
  slotStep s fun id c => openLoop s id c cnt.toNat endOff.toNat 0 0

/-- Closes levels down to a depth; a staged level among them takes SV and STAGE with it (R301). -/
def Sticky.closeTo (k : Sticky) (d : Nat) : Sticky :=
  let l := setFld k.lstate 0 3 d
  if k.sv = true ∧ d ≤ k.slevel then { k with lstate := setFld (setFld l 6 1 0) 4 2 0, stage := 0 } else { k with lstate := l }

/-- LBRK: closes the innermost levels; its bundle makes no back-edge test (R301). -/
def execLbrk (kM1 : BitVec 2) (s : State) : Host.Outcome State Fault Refusal :=
  slotStep s fun id c =>
    let k := (s.srcRegs c).st
    let n := kM1.toNat + 1
    if k.depth < n then s.raise Cause.loopState 0
    else
      let s := s.updSt id (·.closeTo (k.depth - n))
      { s with issue := { s.issue with noEdge := true } }

/-! ### Counts and waits (R249, R250) -/

/-- LD (R249). -/
def Ctx.ldCount (c : Ctx) : Nat := (c.ph.memq.filter (fun m => !m.atomic)).length
/-- ST: invalidations, FENCEs, releases accepted and not complete (R249). -/
def Ctx.stCount (s : State) (id : Nat) (c : Ctx) : Nat :=
  (s.invals.filter (fun v => decide (v.ctx = some id))).length + c.ph.fences.length + (c.ph.rels.filter (·.accepted)).length
/-- MS (R249). -/
def Ctx.msCount (c : Ctx) : Nat := c.eng.ms.length

/-- WAITC: passes when the counts are no more than its fields; 15 sets no condition (R249, R302). -/
def execWaitc (nl ns nx nm : BitVec 4) (s : State) : Host.Outcome State Fault Refusal :=
  slotStep s fun id c =>
    let ok (n : BitVec 4) (v : Nat) : Bool := n = 15 || decide (v ≤ n.toNat)
    let c := s.was c
    if ok nl c.ldCount && ok ns (Ctx.stCount s id c) && ok nx c.xfCount && ok nm c.msCount then s else s.stall

/-- Whether a batch has issued, unretired steps (R250). -/
def Ctx.pend (c : Ctx) (n : Nat) : Bool := c.eng.ms.any (fun m => decide (m.batch = n))

/-- WAITB: passes when the batch has no unretired step (R250, R302). -/
def execWaitb (n : BitVec 3) (s : State) : Host.Outcome State Fault Refusal :=
  slotStep s fun _ c => if (s.was c).pend n.toNat then s.stall else s

/-! ### PHASE (R85 to R89) -/

/-- Whether a range of addresses meets the lines of one of some paired buffers in the core's own slice. -/
def touchesBuf (c : Ctx) (bset : List Nat) (r : Nat × Nat) : Bool :=
  let a := r.1
  decide (spaceOf a = 1 ∧ a / 2 ^ 23 % 512 = c.anyCore) && bset.any fun b =>
    let e := c.buf b
    decide (a % 2 ^ 23 < (e.base + 2 * (e.lenM1 + 1)) * 64 ∧ e.base * 64 < a % 2 ^ 23 + r.2)

/-- The pair-table index that a page holds, as its leaf stands. -/
def pairIndexOf (s : State) (w : Who) (env : Env) (va : Nat) : Option Nat :=
  (leafNow s w env va).bind fun l => if fld l.value 8 2 = 2 then some (fld l.value 16 48) else none

/-- Whether a range of addresses meets one of the pages of a range of pair-table indices. -/
def touchesPair (s : State) (c : Ctx) (first count : Nat) (r : Nat × Nat) : Bool :=
  decide (0 < count ∧ 0 < r.2) && decide (spaceOf r.1 = 0) &&
    (span (r.1 / 65536) ((r.1 % 65536 + r.2 + 65535) / 65536)).any fun page =>
      (pairIndexOf s (s.whoTask c 0 false) (s.envTask c) (page * 65536)).any (fun x => decide (first ≤ x ∧ x < first + count))

/-- What a command reads or writes outside window space, as (first address, length): the elements of its handles, their side planes, the records
that it reads and the words that it leaves. -/
def Cmd.ranges (k : Cmd) : List (Nat × Nat) :=
  let span (h : Handle) : Nat × Nat := hSpan h ((fmtBits (hFmt h)).getD 64)
  [span k.ha, span k.h3, span k.hx, span k.hy] ++ k.sides ++ k.localWrites ++ (match k.kind with
    | .rred => [(hBase k.h3, 64)]
    | .rmergeSw => [(hBase k.h3, 64)]
    | .ramo => [(hBase k.h3, 16)]
    | .disp => [(hBase k.h3, 16 * hExt k.ha 1 * (fld k.ccw 32 5 + 1))]
    | .post => [(k.ccw.toNat, 64)]
    | _ => [])

/-- The live operations that read or write what a PHASE publishes (R86 step 1): their numbers. -/
def phaseUsers (s : State) (c : Ctx) (bset : List Nat) (first count : Nat) : List Nat :=
  let meets (l : List (Nat × Nat)) : Bool := l.any (fun r => touchesBuf c bset r || touchesPair s c first count r)
  let names (l : List Handle) : Bool := l.any (fun h => decide (hBuf h ∈ bset))
  if bset = [] ∧ count = 0 then []
  else
    ((c.xf.log ++ c.xf.again).filter (fun k => k.live && (names [k.hd, k.ha, k.h3, k.hx, k.hy] || meets k.ranges))).map (·.seq)
      ++ (c.eng.vq.filter (fun v => names [v.hd, v.ha, v.hb, v.hm] || meets (v.rd ++ v.wr))).map (·.seq)
      ++ c.eng.prm.map (·.seq)
      ++ (c.eng.ms.filter (fun m => names [m.ha, m.hb] || meets ([m.ha, m.hb].flatMap fun h =>
        hSpan h ((fmtBits (hFmt h)).getD 64) :: sidePlanes m.planes h (hFmt h)))).map (·.seq)

/-- PHASE: the checks of R85, step 1 for what older bundles issued, and then the five steps of R86, which PHASE_RELEASE_DONE carries out;
nothing issues meanwhile. The trap of a bad pair range belongs to no address, and its TADDR is 0 (DESIGN CHOICE, notes/assumptions/10). -/
def execPhase (sc : BitVec 3) (m p : BitVec 6) (s : State) : Host.Outcome State Fault Refusal :=
  slotStep s fun id c =>
    let mask := s.rs c m
    let pr := s.rs c p
    let first := fld pr 0 32
    let count := fld pr 32 16
    let env := s.envTask c
    if fld pr 48 16 ≠ 0 ∨ 4096 < count ∨ (0 < count ∧ env.pairSize < first + count) then
      s.raiseAt Cause.translation 0 (faultWord Tstat.pteFormat 0 .write false false)
    else
      let bset := (span 1 63).filter (fun b => bit mask b && decide ((c.buf b).mode = 2))
      match s.ctx id with
      | none => s
      | some now =>
        let base := (s.was now).ph.seq
        if (phaseUsers s now bset first count).any (fun q => decide (q < base)) then s.stall
        else
          let op : PhaseOp :=
            { isDone := false, pc := s.pcOf c, scope := sc.toNat, bset := bset, pairFrom := first, pairCount := count, sent := false,
              release := none, next := 0, ending := false }
          (s.updCtx id fun c => { c with ph := { c.ph with op := some op } }).push 0 id .phaseReleaseDone

/-- The masked bytes of a window line, as (offset, byte). -/
def WLine.updates (l : WLine) : List (Nat × Byte) :=
  (List.range 64).filterMap (fun i => if l.mask.getLsbD i then some (i, lineByte l.data i) else none)

/-- The entry address of a window-space line, split into a request (R108, R293). -/
def storeTxn (l : WLine) (target : Nat) (entry : DWord) : Txn :=
  reqTxn Op.wrreq entry target 64 (2 ^ 33) l.mask (lineBytes l.data)

/-- Where a window line goes when it is sent: as translated at its store, or afresh when that translation has been removed (R30, R293). -/
def linePlace (s : State) (c : Ctx) (l : WLine) : State × Res Place :=
  if l.stale then translate s (s.whoTask c 0 false) (s.envTask c) .write l.va 64 else (s, .ok l.place)

/-- Sends one line of the store window (R86 step 2, R293). False when it must wait: for its home, or for a place in the core's parking slots or its
hold queue (R105, R133). -/
def sendLine (s : State) (id : Nat) (c : Ctx) (pc : Nat) (l : WLine) : State × Bool :=
  let fail (s : State) (d : DWord) : State := engineFail s id 2 pc Cause.translation l.va d false
  let stop (s : State) (r : Res Unit) : State × Bool :=
    match r with
    | .ok () => (s, true)
    | .wait => (s, false)
    | .fail t n h => (fail s (faultWord t n .write h false), true)
    | _ => (fail s (faultWord Tstat.walkError 0 .write false false), true)
  match linePlace s c l with
  | (s, .ok (.remote job rank target entry)) =>
    if s.mustHold c.anyCore true then (s, false)
    else ((submit s (.line id pc l.va) (some id) job rank c.anyCore (fld entry 28 4) (fld entry 24 4) true (storeTxn l target entry)).1, true)
  | (s, .ok p) => match homeWrite s (s.whoTask c 0 false) (s.envTask c) p l.updates with
    | (s, r) => stop s r
  | (s, r) => stop s r.unit

/-- Sends lines, each for the PHASE at its address and its place in the program, as far as each can go; those that must wait, and those behind them to
the same context, are left (R403). -/
def sendLines (id : Nat) : List (Nat × Nat × WLine) → List (Nat × Nat × WLine) → State → State × List (Nat × Nat × WLine)
  | left, [], s => (s, left)
  | left, (pc, seq, l) :: t, s => match s.ctx id with
    | none => (s, left)
    | some c =>
      let behind := left.any (fun (_, _, x) => (s.divCtx l.place).isSome && s.divCtx x.place = s.divCtx l.place)
      let (s, ok) := if behind || s.mustFollow c seq l.place then (s, false) else sendLine s id c pc l
      sendLines id (if ok then left else left ++ [(pc, seq, l)]) t s

/-- Flips one pair-table entry at its home (R88). -/
def flipPair (s : State) (id : Nat) (c : Ctx) (op : PhaseOp) (i : Nat) : State :=
  let w := s.whoTask c 0 false
  let pa := (s.envTask c).pairBase + 16 * i
  let fail (s : State) (t : Nat) : State := engineFail s id 2 op.pc Cause.translation 0 (faultWord t 0 .write false false) false
  match readEntry s w pa with
  | (s, .ok d) => match hbmWrite s w (pa / 64) [(pa % 64, BitVec.ofNat 8 ((d ^^^ 1).toNat % 256))] with
    | (s, .ok ()) => s
    | (s, .denied) => fail s Tstat.permission
    | (s, _) => fail s Tstat.walkError
  | (s, .denied) => fail s Tstat.permission
  | (s, _) => fail s Tstat.walkError

/-- Steps 3 (its buffers), 4 and 5 of a PHASE, in one cycle: the named buffers flip, every line is unpinned, the checkpoint is taken and
the next phase begins (R52, R57, R86, R396, R407). -/
def publish (c : Ctx) (op : PhaseOp) : Ctx :=
  let flip (b : Nat) (e : BufEnt) : BufEnt := if b ∈ op.bset then { e with front := !e.front } else e
  { c with
    bufs := Tab.each (fun b e => (flip b e).checkpoint) c.bufs
    xf := { c.xf with past := [] }
    ph := { c.ph with
      snap := [], op := none, nr := false, rbcnt := 0, markt := none, markm := 0, mwords := [], no := c.ph.no + 1, cmds := 0, seq := c.ph.seq + 1
      ck := { pc := c.regs.pc, regs := c.regs, tagNext := c.xf.tagNext, cur := c.eng.cur, mcount := c.eng.mcount, tissue := c.eng.tissue } } }

/-- The lines that an older PHASE sent without waiting for them go on; the engine looks again at them later (R86). -/
def sendLate (s : State) (id : Nat) (c : Ctx) : State :=
  if c.ph.late = [] then s
  else
    let (s, left) := sendLines id [] c.ph.late s
    let s := s.updCtx id fun c => { c with ph := { c.ph with late := left } }
    if left = [] ∨ c.ph.op.isSome then s else s.pushOnce 1 id .phaseReleaseDone

/-- The lines of the window as far as they go; what is left when no line waited for is among them is late, and the window is empty (R86 step 2). -/
def sendWindow (s : State) (id : Nat) (c : Ctx) (op : PhaseOp) : State :=
  let (s, left) := sendLines id [] (c.ph.window.map (op.pc, c.ph.seq, ·)) s
  let due := left.any (fun l => s.placeWithin c op.scope l.2.2.place)
  s.updCtx id fun c => { c with ph := { c.ph with window := if due then left.map (·.2.2) else [], late := if due then c.ph.late else c.ph.late ++ left } }

/-- PHASE_RELEASE_DONE: carries a PHASE, or steps 2 and 4 of a DONE, as far as it can go now (R86, R91): step 1 for operations of its own
bundle and for the older scalar accesses, which come before it (R78); the lines of the window; the wait for covered writes; the release; the pair
entries one by one; then the publish. -/
def execPhaseReleaseDone (s : State) : Host.Outcome State Fault Refusal :=
  let id := s.subj
  match s.ctx id with
  | none => .next s
  | some c =>
    let s := sendLate s id c
    match c.ph.op, s.ctx id with
    | none, _ => .next s
    | _, none => .next s
    | some op, some c =>
      let again (s : State) : State := s.push 1 id .phaseReleaseDone
      let set (s : State) (f : PhaseOp → PhaseOp) : State := s.updCtx id fun c => { c with ph := { c.ph with op := c.ph.op.map f } }
      if op.ending then .next s
      else if !op.sent then
        -- at a switch the PHASE stays at step 1, which runs again after the resume (R89)
        if c.coreNo = none then .next s
        else if phaseUsers s c op.bset op.pairFrom op.pairCount ≠ [] ∨ c.ph.memq ≠ [] ∨ c.leaving = true then .next (again s)
        else
          let s := s.updCtx id fun c => { c with ph := { c.ph with nr := true } }
          .next ((set (sendWindow s id c op) (fun o => { o with sent := true })).push 0 id .phaseReleaseDone)
      else if c.ph.window ≠ [] then .next (again (sendWindow s id c op))
      else if !Ctx.opsDone s c op.scope (Ctx.olderOps s c op.scope) then .next (again s)
      else if op.scope = 4 ∧ op.release = none then
        match beginRelease s id c.ph.seq with
        | some (s, e) => .next (again (set s (fun o => { o with release := some e })))
        | none => .next (again s)
      else if !(op.release.elim true c.relAccepted) then .next (again s)
      else if op.next < op.pairCount then
        .next ((set (flipPair s id c op (op.pairFrom + op.next)) (fun o => { o with next := o.next + 1 })).push 0 id .phaseReleaseDone)
      else if op.isDone then
        .next ((s.updCtx id fun c =>
          { c with ph := { c.ph with snap := [], op := some { op with ending := true } } }).push 0 id .taskFinish)
      else
        let s := wake (s.updCtx id (publish · op)) id
        .next (if c.ph.late = [] then s else s.pushOnce 1 id .phaseReleaseDone)

/-- DONE: the task ends under R91; its steps follow as PHASE_RELEASE_DONE and TASK_FINISH. The pc stays at its bundle. -/
def execDone (s : State) : Host.Outcome State Fault Refusal :=
  slotStep s fun id c =>
    let op : PhaseOp :=
      { isDone := true, pc := s.pcOf c, scope := 4, bset := [], pairFrom := 0, pairCount := 0, sent := false, release := none, next := 0,
        ending := false }
    let s := (s.updCtx id fun c => { c with ph := { c.ph with op := some op } }).push 0 id .phaseReleaseDone
    s.goTo (s.pcOf c)

/-! ### FENCE (R98) -/

/-- FENCE: orders younger writes behind older covered ones; issue goes on (R98). -/
def execFence (sc : BitVec 3) (s : State) : Host.Outcome State Fault Refusal :=
  slotStep s fun id c =>
    if 16 ≤ Ctx.stCount s id c then s.stall
    else match s.ctx id with
      | none => s
      | some now =>
        let f : FenceOp := { seq := now.ph.seq, pc := s.pcOf c, scope := sc.toNat, older := Ctx.olderOps s now sc.toNat, release := none }
        (s.setCtx id { now with ph := { now.ph with fences := now.ph.fences ++ [f] } }).push 0 id .fenceSatisfied

/-- FENCE_SATISFIED: the oldest FENCE of the task is satisfied once its older writes are performed and, at pod scope, its release is complete
(R98). -/
def execFenceSatisfied (s : State) : Host.Outcome State Fault Refusal :=
  let id := s.subj
  match s.ctx id with
  | none => .next s
  | some c => match c.ph.fences with
    | [] => .next s
    | f :: rest =>
      if !Ctx.opsDone s c f.scope f.older then .next (s.push 1 id .fenceSatisfied)
      else if f.scope = 4 ∧ f.release = none then
        match beginRelease s id f.seq with
        | some (s, e) =>
          let upd (c : Ctx) : Ctx := { c with ph := { c.ph with fences := { f with release := some e } :: rest } }
          .next ((wake (s.updCtx id upd) id).push 1 id .fenceSatisfied)
        | none => .next (s.push 1 id .fenceSatisfied)
      else if !(f.release.elim true c.relDone) then .next (s.push 1 id .fenceSatisfied)
      else
        let s := s.updCtx id fun c => { c with ph := { c.ph with fences := rest } }
        .next (((wake s id).push 0 id .vecComplete).push 0 id .fenceSatisfied)

/-! ### Releases at the Midfield die (R102 to R105) -/

/-- RELEASE_ACCEPTED: the Midfield die takes the oldest release it has not accepted, when it has entries for it; one with nothing to count
completes at once (R102, R103). -/
def execReleaseAccepted (s : State) : Host.Outcome State Fault Refusal :=
  let id := s.subj
  match s.ctx id with
  | none => .next s
  | some c => match c.ph.rels.find? (fun r => !r.accepted) with
    | none => .next s
    | some r => match takeEntries s id c.anyCore r with
      | none => .next (s.push 1 id .releaseAccepted)
      | some s =>
        let done : Release := { r with accepted := true, counts := [] }
        let put (c : Ctx) : Ctx := { c with ph := { c.ph with rels := c.ph.rels.map (fun x => if x.epoch = r.epoch then done else x) } }
        .next ((s.updCtx id put).push 0 id .releaseComplete)

/-- RELEASE_COMPLETE: the oldest release of a task completes once every counted write is resolved: its entries are freed, a record tells of
writes that were not performed, and what it held leaves (R104, R105). -/
def execReleaseComplete (s : State) : Host.Outcome State Fault Refusal :=
  let id := s.subj
  match s.ctx id with
  | none => .next s
  | some c => match c.ph.rels with
    | [] => .next s
    | r :: rest =>
      let mine := s.mid.fences.filter (fun (_, e) => decide (e.ctx = id ∧ e.epoch = r.epoch))
      if !r.accepted || mine.any (fun (_, e) => decide (e.count ≠ 0)) then .next s
      else
        let worst := mine.foldl (fun w (p : Nat × FenceEnt) => Nat.max w p.2.worst) 0
        let rank := (mine.find? (fun (_, e) => decide (e.worst = worst))).elim 0 (·.2.rank)
        let keep := s.mid.fences.filter (fun (_, e) => decide (¬ (e.ctx = id ∧ e.epoch = r.epoch)))
        let s := { s with mid := { s.mid with fences := keep } }
        let s := s.updCtx id fun c => { c with ph := { c.ph with rels := rest } }
        let s := if worst = 0 then s
          else postRecord s id
            { cause := if worst = 2 then Cause.indeterminate else Cause.rankFenced, pc := r.pc, rel := true, stepf := false, abs := false,
              slot := 2, id := 0xFF0000, addr := rank, detail := 0 }
        .next ((releaseHeld s id).push 0 id .releaseComplete)

/-! ### Barriers (R303 to R305) -/

/-- Whether an ARM has an extension word: bit X of its slot word (R232); outside a bundle, fields that only an extension word gives. -/
def State.armExt (s : State) (nv : Bool) (node : BitVec 16) : Bool := if s.issue.on then bit s.issue.word 63 else nv || decide (node ≠ 0)

/-- ARM: adds to COUNT, arms the barrier with its node, then the check; without an extension word NODE keeps its value (R305). -/
def execArm (n : BitVec 8) (c : BitVec 6) (nv : Bool) (node : BitVec 16) (s : State) : Host.Outcome State Fault Refusal :=
  slotStep s fun id x =>
    let v := (s.rs x c).toNat
    if (x.bar n.toNat).armed = true ∨ 2 ^ 31 ≤ v then s.raise Cause.barrierState (BitVec.ofNat 64 n.toNat)
    else
      let put (x : Ctx) : Ctx :=
        let b := x.bar n.toNat
        let x := x.setBar n.toNat
          { b with count := satCount (b.count + v), armed := true, fired := false, nv := nv, node := if s.armExt nv node then node.toNat else b.node }
        { x with ph := { x.ph with nr := true } }
      barCheck (s.updCtx id put) id n.toNat

/-- BAR: COUNT falls by s[v][31:0], then the check (R305). -/
def execBar (n : BitVec 8) (v : BitVec 6) (s : State) : Host.Outcome State Fault Refusal :=
  slotStep s fun id c =>
    barDec (s.updCtx id fun c => { c with ph := { c.ph with nr := true } }) id n.toNat (fld (s.rs c v) 0 32)

/-- Consumes FIRED (R304). -/
def takeFired (s : State) (id n : Nat) : State := barCheck (s.updCtx id fun c => c.setBar n { c.bar n with fired := false }) id n

/-- BWAIT: stalls until the barrier has fired, then consumes it (R305). -/
def execBwait (n : BitVec 8) (s : State) : Host.Outcome State Fault Refusal :=
  slotStep s fun id c => if (c.bar n.toNat).fired then takeFired s id n.toNat else s.stall

/-- The result words of R203. -/
def rOk : DWord := 1
def rEmpty : DWord := 4

/-- BWAIT.try: consumes FIRED and answers OK, or answers EMPTY (R305). -/
def execBwaitTry (n : BitVec 8) (d : BitVec 6) (s : State) : Host.Outcome State Fault Refusal :=
  slotStep s fun id c =>
    if (c.bar n.toNat).fired then (takeFired s id n.toNat).wrS id d rOk else s.wrS id d rEmpty

end Sys2Proof.Machine
end

