-- ==== Sys2Proof/Machine/System.lean ====
section
/-! DEFINITION. Control registers (R228 to R230, R241, R381), trapping and returning (R307, R382 to R384), the fault queue's end (R387), the
debugger's steps (R389, R390), and invalidations (R26, R29 to R31, R309). -/

namespace Sys2Proof.Machine

/-! ### Control registers (R229, R381) -/

/-- OPCNT (R249). -/
def opcnt (s : State) (id : Nat) (c : Ctx) : DWord :=
  BitVec.ofNat 64 (c.ldCount * 2 ^ 48 + Ctx.stCount s id c * 2 ^ 32 + c.xfCount * 2 ^ 16 + c.msCount)

/-- BATCH (R250). -/
def batchReg (c : Ctx) : DWord :=
  BitVec.ofNat 64 (((List.range 8).map (fun n => b2n (c.pend n) * 2 ^ (56 + n))).foldl (· + ·) c.eng.cur)

/-- BTILE0 and BTILE1 (R250). -/
def btileReg (c : Ctx) (k : Nat) : DWord :=
  BitVec.ofNat 64 (((List.range 4).map (fun n => (c.eng.btile.val 0 (4 * k + n)).toNat * 2 ^ (16 * n))).foldl (· + ·) 0)

/-- A step register as it reads: sign-extended (R241). -/
def stepRead (k : Sticky) (n : Nat) : DWord := sx32 (k.steps.val 0 n)

/-- Cycles a task has held a core (R229). -/
def cyclesOf (s : State) (c : Ctx) : Nat :=
  match c.loc with
  | .resident _ => c.cycles + (s.now - c.seenAt)
  | _ => c.cycles

/-- A control register read by number; reserved numbers never reach this (R229, R281). -/
def crRead (s : State) (id : Nat) (c : Ctx) (n : Nat) : DWord :=
  let r := c.regs
  if n = 0x000 then BitVec.ofNat 64 (r.pc % 2 ^ 56)
  else if n = 0x001 then BitVec.ofNat 64 (c.who.grid * 2 ^ 32 + c.who.index)
  else if n = 0x002 then c.who.xy
  else if n = 0x003 then c.who.z
  else if n = 0x004 then c.who.arg
  else if n = 0x005 then BitVec.ofNat 64 (c.anyCore + clusterOf c.anyCore * 2 ^ 16 + dieOf c.anyCore * 2 ^ 24)
  else if n = 0x006 then BitVec.ofNat 64 (c.who.region + c.who.world * 2 ^ 16)
  else if n = 0x007 then BitVec.ofNat 64 (cyclesOf s c)
  else if n = 0x008 then r.fpctl
  else if n = 0x009 then r.rngv
  else if n = 0x00A then r.rngp
  else if n = 0x00B then r.rngx
  else if n = 0x010 then r.st.stage
  else if n = 0x011 then r.st.lstate
  else if n < 0x016 then r.st.lbeg.val 0 (n - 0x012)
  else if n < 0x01A then r.st.lend.val 0 (n - 0x016)
  else if n < 0x020 then BitVec.ofNat 64 (r.st.lc.val 0 (n - 0x01C)).toNat
  else if n < 0x028 then r.mb.val 0 (n - 0x020)
  else if n = 0x030 then BitVec.ofNat 64 r.rptc
  else if n = 0x031 then opcnt s id c
  else if n = 0x032 then batchReg c
  else if n < 0x035 then btileReg c (n - 0x033)
  else if n < 0x03C then r.st.last.val 0 (n - 0x038)
  else if n < 0x04C then stepRead r.st (n - 0x040)
  else if n = 0x080 then r.tvec
  else if n = 0x081 then r.tcause
  else if n = 0x082 then r.tpc
  else if n = 0x083 then r.taddr
  else if n = 0x084 then r.tdetail
  else if n = 0x085 then BitVec.ofNat 64 (b2n r.inTrap + c.ph.rbcnt * 2 ^ 8)
  else if n = 0x086 then BitVec.ofNat 64 r.trptc
  else if n < 0x08C then r.tscr.val 0 (n - 0x088)
  else if n = 0x08C then BitVec.ofNat 64 (c.xf.fq.length + b2n (!c.xf.waitq.isEmpty) * 2 ^ 8)
  else if n = 0x08D then 0
  else if n < 0x094 then ((c.xf.fq.head?).elim [] FRec.dwords).getD (n - 0x090) 0
  else if n < 0x09C then r.sv.last.val 0 (n - 0x098)
  else if n < 0x0AC then stepRead r.sv (n - 0x0A0)
  else if n = 0x0AC then r.sv.lstate
  else if n = 0x0AD then r.sv.stage
  else if n < 0x0B4 then r.sv.lbeg.val 0 (n - 0x0B0)
  else if n < 0x0B8 then r.sv.lend.val 0 (n - 0x0B4)
  else BitVec.ofNat 64 (r.sv.lc.val 0 (n - 0x0B8)).toNat

/-- What a write of TVEC keeps (R381). -/
def tvecMask : DWord := 0x00FFFFFFFFFFFFFC

/-- A control register written by number; a write to a read-only register has no effect (R230, R381). -/
def crWrite (r : Regs) (n : Nat) (v : DWord) : Regs :=
  if n = 0x008 then { r with fpctl := fpWrite r.fpctl v }
  else if n = 0x009 then { r with rngv := rngStore v }
  else if n = 0x00A then { r with rngp := rngStore v }
  else if n = 0x00B then { r with rngx := rngStore v }
  else if 0x01C ≤ n ∧ n < 0x020 then { r with st := { r.st with lc := r.st.lc.put 0 (n - 0x01C) (lo32 v) } }
  else if 0x020 ≤ n ∧ n < 0x028 then { r with mb := r.mb.put 0 (n - 0x020) v }
  else if 0x040 ≤ n ∧ n < 0x04C then { r with st := { r.st with steps := r.st.steps.put 0 (n - 0x040) (lo32 v) } }
  else if n = 0x080 then { r with tvec := v &&& tvecMask }
  else if n = 0x082 then { r with tpc := v }
  else if n = 0x086 then { r with trptc := fld v 0 4 }
  else if 0x088 ≤ n ∧ n < 0x08C then { r with tscr := r.tscr.put 0 (n - 0x088) v }
  else if 0x0A0 ≤ n ∧ n < 0x0AC then { r with sv := { r.sv with steps := r.sv.steps.put 0 (n - 0x0A0) (lo32 v) } }
  else if 0x0B8 ≤ n ∧ n < 0x0BC then { r with sv := { r.sv with lc := r.sv.lc.put 0 (n - 0x0B8) (lo32 v) } }
  else r

/-- CRR: s[d] := the register (R308). -/
def execCrr (d : BitVec 6) (num : BitVec 12) (s : State) : Host.Outcome State Fault Refusal :=
  slotStep s fun id c => s.wrS id d (crRead s id (s.was c) num.toNat)

/-- CRW: the register := s[a], for younger bundles (R230, R308). -/
def execCrw (a : BitVec 6) (num : BitVec 12) (s : State) : Host.Outcome State Fault Refusal :=
  slotStep s fun id c => s.updCtx id (·.updRegs (fun r => crWrite r num.toNat (s.rs c a)))

/-- FQPOP: any CRW of 0x08D removes the head record (R381, R387). -/
def execFqpop (_ : BitVec 6) (s : State) : Host.Outcome State Fault Refusal :=
  slotStep s fun id _ => popRecord s id

/-- SETSTEP: STEP(slot)k := s[a][31:0], for younger bundles; in a repeated bundle on its first issue (R241, R308). -/
def execSetstep (slot k : BitVec 2) (a : BitVec 6) (s : State) : Host.Outcome State Fault Refusal :=
  slotStep s fun id c =>
    s.updSt id (fun st => { st with steps := st.steps.put 0 (3 * slot.toNat + k.toNat) (lo32 (s.rs c a)) })

/-! ### Traps on purpose, and the return (R307, R384) -/

/-- TRAP: the precise trap TRAP after the bundle has acted (R307). -/
def execTrap (code : BitVec 16) (s : State) : Host.Outcome State Fault Refusal :=
  slotStep s fun _ _ => s.raise Cause.trap (code.setWidth 64)

/-- SYS: as TRAP, with cause SYS (R307). -/
def execSys (code : BitVec 16) (s : State) : Host.Outcome State Fault Refusal :=
  slotStep s fun _ _ => s.raise Cause.sys (code.setWidth 64)

/-- ERET: returns from the trap being handled; outside a handler it traps (R307, R384). -/
def execEret (s : State) : Host.Outcome State Fault Refusal :=
  slotStep s fun id c =>
    if c.regs.inTrap = false then s.raise Cause.trapState 0
    else match trapReturn c.regs with
      | none => s.raise Cause.misaligned 0
      | some r => (s.updCtx id (·.updRegs (fun _ => r))).goTo r.pc

/-- BKPT: halts the task for its debugger when BKEN is set, and otherwise performs nothing (R307, R389). -/
def execBkpt (code : BitVec 16) (s : State) : Host.Outcome State Fault Refusal :=
  slotStep s fun _ c => if bit c.dbg.ctl 0 then s.raise Cause.brk (code.setWidth 64) else s

/-- HALT: halts the task for its debugger, or ends it with the fatal fault HALT (R307). A debugger is attached when BKEN is set (log 13). -/
def execHalt (s : State) : Host.Outcome State Fault Refusal :=
  slotStep s fun id c => if bit c.dbg.ctl 0 then (s.updCtx id (·.halted Cause.halt)).pushOnce 0 0 .preemptRequest else s.fatal id Cause.halt 0

/-! ### Events between bundles (R383, R389, R390) -/

/-- ENGINE_FAULT: on a core whose task runs no handler and whose fault queue holds a record, the trap is entered at the boundary before the
next bundle; before a waiting DONE, that is its own bundle (R382, R383). -/
def execEngineFault (s : State) : Host.Outcome State Fault Refusal :=
  match (s.core s.subj).ctx with
  | none => .next s
  | some id => match s.ctx id with
    | none => .next s
    | some c =>
      let waiting := c.ph.op.any (fun o => !o.isDone) || bit c.dbg.stat 8 || c.dbg.settling || c.ph.err || c.ph.rem.isSome || c.trapWait.isSome
      if c.coreNo ≠ some s.subj ∨ c.isOver = true ∨ c.regs.inTrap = true ∨ c.xf.fq = [] then .next s
      -- a switch that is due at this boundary comes first, and the event after the resume (R383)
      else if c.leaving then .next s
      else if waiting || s.switchDue s.subj then .next (s.push 1 s.subj .engineFault)
      else if c.mustWait then .next (s.push 1 s.subj .engineFault)
      else
        let s := s.setCtx id { c with ph := { c.ph with op := none } }
        .next (trapEntry s id { cause := Cause.engineFault, addr := 0, detail := 0, slot := 0, straddle := false })

/-- DEBUG_HALT: a debugger's halt request takes effect at a bundle boundary (R389). -/
def execDebugHalt (s : State) : Host.Outcome State Fault Refusal :=
  match (s.core s.subj).ctx with
  | none => .next s
  | some id => match s.ctx id with
    | none => .next s
    | some c =>
      if bit c.dbg.ctl 3 = false ∨ c.isOver = true ∨ bit c.dbg.stat 8 = true ∨ c.coreNo ≠ some s.subj then .next s
      else if c.ph.op.isSome || c.ph.rem.isSome || c.trapWait.isSome then .next (s.push 1 s.subj .debugHalt)
      else .next (haltTask s id c Cause.halt)

/-- Whether every operation that a step issued has ended (R390). -/
def Ctx.stepSettled (c : Ctx) : Bool :=
  c.pendingOps.all (fun q => decide (q < c.dbg.stepSeq)) && c.eng.ms.all (fun m => decide (m.seq < c.dbg.stepSeq))

/-- DEBUG_STEP_END: a step-issue ends with its issue; a step-settle when its operations have ended (R390). -/
def execDebugStepEnd (s : State) : Host.Outcome State Fault Refusal :=
  match (s.core s.subj).ctx with
  | none => .next s
  | some id => match s.ctx id with
    | none => .next s
    | some c =>
      if c.dbg.settling = false then .next s
      else if bit c.dbg.ctl 2 = false then .next (haltTask s id c Cause.step)
      else if c.stepSettled then
        .next ((haltTask s id c Cause.step).updCtx id fun c => { c with dbg := { c.dbg with stat := setFld c.dbg.stat 9 1 1 } })
      else .next (s.push 1 s.subj .debugStepEnd)

/-! ### Invalidations (R26, R29 to R31, R309) -/

/-- What an invalidation removes: the kind, and the world, ASN, address, region, window and length it names. `anyWorld` is set for the command
ring, whose PAGE and ASN kinds name an ASN of every world. -/
structure Kill where
  kind : Nat
  world : Nat
  anyWorld : Bool
  asn : Nat
  addr : Nat
  len : Nat
  region : Nat
  window : Nat
deriving DecidableEq, Repr

/-- Whether a cached leaf is removed. -/
def Kill.leaf (k : Kill) (t : Tlb) : Bool :=
  match k.kind with
  | 0 => (k.anyWorld || decide (t.world = k.world)) && decide (t.asn = k.asn ∧ t.va = k.addr / 2 ^ pageBits t.level)
  | 1 => (k.anyWorld || decide (t.world = k.world)) && decide (t.asn = k.asn)
  | 2 => t.world = k.world
  | _ => false

/-- Whether a walk-cache entry is removed: PAGE keeps them. -/
def Kill.table (k : Kill) (t : Tlb) : Bool := k.kind ≠ 0 && k.leaf t

/-- Whether a cached host translation is removed: by HOST one that meets the range, widened to whole 4 KiB pages; by WORLD every one of the
world. -/
def Kill.host (k : Kill) (e : Ats) : Bool :=
  let lo := k.addr / 4096 * 4096
  let hi := (k.addr + k.len + 4095) / 4096 * 4096
  (k.kind = 5 && decide (e.addr < hi ∧ lo < e.addr + 2 ^ Nat.max e.sizeLog 12)) || (k.kind = 2 && decide (e.world = k.world))

/-- Whether a cached window entry is removed. -/
def Kill.win (k : Kill) (e : WinEnt) : Bool :=
  match k.kind with
  | 2 => e.world = k.world
  | 3 => e.region = k.region && e.w = k.window
  | 4 => e.region = k.region
  | _ => false

/-- Whether an access of a task that translated an address to a place used something that is removed: by PAGE a leaf, of whatever size, that
covers the named address; by HOST a host translation. -/
def Kill.used (k : Kill) (s : State) (c : Ctx) (va : Nat) (p : Place) : Bool :=
  let env := s.envTask c
  let paged := spaceOf va = 0
  let mine := (k.anyWorld || decide (c.who.world = k.world)) && decide (env.asn = k.asn)
  let leaf (t : Tlb) : Bool := k.leaf t && decide (t.world = c.who.world ∧ t.asn = env.asn ∧ t.va = va / 2 ^ pageBits t.level)
  match k.kind with
  | 0 => paged && mine && (decide (va / 2 ^ 16 = k.addr / 2 ^ 16) || s.tlbs.any leaf)
  | 1 => paged && mine
  | 2 => (paged || decide (spaceOf va = 2)) && decide (c.who.world = k.world)
  | 3 => spaceOf va = 2 && decide (c.who.region = k.region ∧ va / 2 ^ 48 % 128 = k.window)
  | 4 => spaceOf va = 2 && decide (c.who.region = k.region)
  | _ => match p with
    | .host a => s.ats.any (fun e => k.host e && decide (e.out ≤ a ∧ a < e.out + 2 ^ e.sizeLog))
    | _ => false

/-- Whether an unresolved remote request used a window entry that is removed. -/
def Kill.sent (k : Kill) (r : Req) : Bool :=
  r.win.any fun (world, region, w) => k.win { core := 0, world := world, region := region, w := w, d := [] }

/-- What used something that is removed and is not performed or resolved: scalar accesses, and remote requests, those held in a diversion
queue at their target among them. An engine's access translates and is performed in one step (R28). -/
def Kill.users (k : Kill) (s : State) : List User :=
  s.ctxs.flatMap (fun (id, c) => (c.ph.memq.filter (fun m => k.used s c m.va m.place)).map (fun m => User.scalar id m.va)) ++
    (s.mid.reqs.filter (fun (_, r) => k.sent r)).map (fun (n, _) => User.request n)

/-- Whether a use is still to be performed or resolved. -/
def stillUsed (s : State) : User → Bool
  | .scalar id va => (s.ctx id).any (fun c => c.ph.memq.any (fun m => decide (m.va = va)))
  | .request n => (s.mid.reqs.look n).isSome

/-- The window lines of a task whose translation is removed are to be translated again when they are sent. -/
def Kill.lines (k : Kill) (s : State) (c : Ctx) : Ctx :=
  { c with ph := { c.ph with window := c.ph.window.map (fun l => if k.used s c l.va l.place then { l with stale := true } else l) } }

/-- Whether a walk becomes stale. -/
def Kill.walk (k : Kill) (w : Walk) : Bool :=
  match k.kind with
  | 0 => w.asn = k.asn && (k.anyWorld || decide (w.world = k.world))
  | 1 => w.asn = k.asn && (k.anyWorld || decide (w.world = k.world))
  | 2 => w.world = k.world
  | _ => false

/-- Steps 1 and 2 of an invalidation: entries go from every cache, walks become stale, and what used them is waited for (R30); a store-window
line, which no PHASE has sent, is translated again when it is sent (notes/assumptions/12). -/
def startInval (s : State) (k : Kill) (ctx : Option Nat) (ring : Bool) (tag : Option Nat) : State :=
  let stale (l : List Walk) : List Walk := l.map (fun w => if k.walk w then ({ w with stale := true } : Walk) else w)
  let (n, s) := s.fresh
  let v : Inval := { id := n, kind := k.kind, ctx := ctx, ring := ring, tag := tag, users := k.users s }
  let s := { s with
    tlbs := s.tlbs.filter (fun t => !k.leaf t)
    walkc := s.walkc.filter (fun t => !k.table t)
    ats := s.ats.filter (fun e => !k.host e)
    wins := s.wins.filter (fun e => !k.win e)
    ctxs := Tab.each (fun _ c => k.lines s c) s.ctxs
    dies := Tab.each (fun _ d => { d with missq := stale d.missq, walks := stale d.walks }) s.dies
    invals := s.invals ++ [v] }
  s.push 0 n .invalidationComplete

/-- A task's invalidation: it counts in ST until it completes (R249, R309). -/
def taskInval (s : State) (kind : Nat) (addr asn len window : DWord → DWord → Nat) (a b : BitVec 6) : Host.Outcome State Fault Refusal :=
  slotStep s fun id c =>
    if 16 ≤ Ctx.stCount s id c then s.stall
    else
      let x := s.rs c a
      let y := s.rs c b
      startInval s
        { kind := kind, world := c.who.world, anyWorld := false, asn := asn x y, addr := addr x y, len := len x y, region := c.who.region,
          window := window x y } (some id) false none

/-- A number that an invalidation of the kind does not use. -/
def unusedArg : DWord → DWord → Nat := fun _ _ => 0

/-- TLBI.page: leaves of one address and ASN in the task's world (R309). -/
def execTlbiPage (a b : BitVec 6) (s : State) : Host.Outcome State Fault Refusal :=
  taskInval s 0 (fun x _ => x.toNat) (fun _ y => fld y 0 16) unusedArg unusedArg a b
/-- TLBI.asn: every entry of one ASN in the task's world (R309). -/
def execTlbiAsn (a b : BitVec 6) (s : State) : Host.Outcome State Fault Refusal :=
  taskInval s 1 unusedArg (fun _ y => fld y 0 16) unusedArg unusedArg a b
/-- TLBI.world: every entry of the task's world (R309). -/
def execTlbiWorld (s : State) : Host.Outcome State Fault Refusal := taskInval s 2 unusedArg unusedArg unusedArg unusedArg 0 0
/-- TLBI.window: one window entry of the task's context (R309). -/
def execTlbiWindow (a : BitVec 6) (s : State) : Host.Outcome State Fault Refusal :=
  taskInval s 3 unusedArg unusedArg unusedArg (fun x _ => fld x 0 7) a 0
/-- TLBI.windows: every window entry of the task's context (R309). -/
def execTlbiWindows (s : State) : Host.Outcome State Fault Refusal := taskInval s 4 unusedArg unusedArg unusedArg unusedArg 0 0
/-- TLBI.host: host translations of an address range (R309). -/
def execTlbiHost (a b : BitVec 6) (s : State) : Host.Outcome State Fault Refusal :=
  taskInval s 5 (fun x _ => x.toNat) unusedArg (fun _ y => y.toNat) unusedArg a b

end Sys2Proof.Machine
end

