-- ==== Sys2Proof/Machine/Image.lean ====
section
/-! DEFINITION. The context image: templates (R201, R395, R397), the checks of buffer table and tile descriptors (R47, R65), slice permission
entries (R48), and the documented sections of a saved image (R395, R396). -/

namespace Sys2Proof.Machine

/-! ### Templates (R395, R397) -/

/-- The sections of a template by SECT bit: first byte, byte past the last. -/
def templateSections : List (Nat × Nat × Nat) :=
  [(0, 0x40, 0x240), (1, 0x240, 0x640), (2, 0x640, 0x660), (3, 0x660, 0x680), (4, 0x800, 0xE00), (5, 0x1000, 0x1800),
   (6, 0x3000, 0x4100), (7, 0x5000, 0x6000)]

/-- A run of bytes of an image. -/
def sliceOf (bs : List Byte) (lo n : Nat) : List Byte := (bs.drop lo).take n
/-- A number at a byte offset. -/
def numAt (bs : List Byte) (lo n : Nat) : Nat := leNat (sliceOf bs lo n)
/-- A double word at a byte offset. -/
def wordAt (bs : List Byte) (lo : Nat) : DWord := BitVec.ofNat 64 (numAt bs lo 8)

/-- Whether all bytes of a run are zero. -/
def allZero (bs : List Byte) (lo hi : Nat) : Bool := (sliceOf bs lo (hi - lo)).all (· == 0)

/-- Whether the header and the absent sections of a template are in order; a task starts from nothing but a template (R397; the last is DEDUCED,
notes/assumptions/5). -/
def templateOk (bs : List Byte) : Bool :=
  let d0 := wordAt bs 0
  let sect := fld d0 32 8
  fld d0 56 8 = 1 && decide (fld d0 48 8 = 0 ∧ fld d0 40 8 = 0 ∧ fld d0 0 32 = 0) && wordAt bs 8 == 0 && allZero bs 16 64
    && (sect ≠ 0 || allZero bs 0x40 0x6000)
    && templateSections.all (fun (b, lo, hi) => sect.testBit b || allZero bs lo hi)
    && allZero bs (0x800 + 8 * 0x50) (0x800 + 8 * 0x6C)
    && (!sect.testBit 7 || (List.range 256).all (fun n => numAt bs (0x5008 + 16 * n) 1 = 0))

/-- A buffer table entry from its four double words (R46). -/
def bufOf (d0 d1 d2 : DWord) : BufEnt :=
  let e : BufEnt :=
    { mode := fld d0 62 2, front := bit d0 61, noprot := bit d0 60, lenM1 := fld d0 40 17, base := fld d0 23 17, gshare := fld d0 0 2,
      tile := fld d1 48 16, nslot := fld d1 40 8, head := fld d1 32 8, assigned := fld d1 24 8, filled := fld d1 16 8,
      claimed := fld d1 8 8, ckhead := fld d2 56 8, ckcount := fld d2 48 8, held := fld d2 40 8, landed := [] }
  { e with landed := (List.range e.filled).map (fun k => (e.head + k) % e.nslot) }

/-- Lines a buffer takes. -/
def BufEnt.extent (e : BufEnt) : Nat := if e.mode = 2 then 2 * (e.lenM1 + 1) else e.lenM1 + 1

/-- Whether one entry's own fields are in order (R46, R47). -/
def bufFieldsOk (d0 d1 d2 d3 : DWord) : Bool :=
  let e := bufOf d0 d1 d2
  decide (fld d0 57 3 = 0 ∧ fld d0 2 21 = 0 ∧ fld d1 0 8 = 0 ∧ fld d2 0 40 = 0 ∧ d3 = 0) &&
    (e.mode = 2 || !e.front) && (e.mode = 3 || !e.noprot) && (e.mode = 3 || (d1 == 0 && d2 == 0)) &&
    decide (e.base + e.extent ≤ 131072) && decide (e.gshare ≠ 3) &&
    (e.mode ≠ 3 ||
      decide (e.tile ≠ 0 ∧ e.nslot ≠ 0 ∧ e.tile * e.nslot = e.lenM1 + 1 ∧ e.head < e.nslot ∧ e.ckhead < e.nslot ∧ e.filled ≤ e.claimed ∧
        e.claimed + e.held ≤ e.nslot ∧ e.assigned ≤ e.nslot ∧ e.ckcount ≤ e.nslot))

/-- The entries with their numbers, mode 0 left out. -/
def bufsOf (bs : List Byte) : Tab BufEnt :=
  (span 1 63).filterMap fun b =>
    let at_ := 0x1000 + 32 * b
    let e := bufOf (wordAt bs at_) (wordAt bs (at_ + 8)) (wordAt bs (at_ + 16))
    if e.mode = 0 then none else some (b, e)

/-- The 4 KiB blocks a buffer covers. -/
def BufEnt.blocks (e : BufEnt) : Nat × Nat := (e.base / 64, (e.base + e.extent - 1) / 64)

/-- Whether two buffers agree: no line in common, and one GSHARE where they share a block (R47). -/
def bufsAgree (a b : BufEnt) : Bool :=
  (decide (a.base + a.extent ≤ b.base) || decide (b.base + b.extent ≤ a.base)) &&
    (decide (a.blocks.2 < b.blocks.1) || decide (b.blocks.2 < a.blocks.1) || decide (a.gshare = b.gshare))

/-- Whether every pair of entries agrees. -/
def pairsAgree : List BufEnt → Bool
  | [] => true
  | a :: t => t.all (bufsAgree a) && pairsAgree t

/-- Whether a buffer table can be used on a core: the entries' own fields, their pairs, no block held by another region (R47). The 32 bytes of
entry 0, which R46 does not give an entry, must be zero (DESIGN CHOICE, notes/assumptions/13). -/
def bufTableOk (s : State) (core region : Nat) (bs : List Byte) : Bool :=
  let t := bufsOf bs
  let raw (b k : Nat) : DWord := wordAt bs (0x1000 + 32 * b + 8 * k)
  allZero bs 0x1000 0x1020 &&
    t.all (fun (b, _) => bufFieldsOk (raw b 0) (raw b 1) (raw b 2) (raw b 3)) && pairsAgree (t.map (·.2)) &&
    t.all (fun (_, e) => (s.core core).spt.all fun (_, p) =>
      decide (p.count = 0 ∨ p.owner = region ∨ p.start + p.count ≤ e.blocks.1 ∨ e.blocks.2 < p.start))

/-- Whether a tile descriptor is in order (R65). -/
def descOk (d : Nat) : Bool :=
  decide (d / 256 = 0) && (if d.testBit 7 then decide (1 ≤ d % 64 ∧ d % 64 ≤ 32) else d % 128 = 0)

/-- A ranked tile's start state: every pair unused (R67). -/
def rankedTile (t : Nat) : Tab Word :=
  (List.range 128).flatMap fun i => (List.range 32).flatMap fun j =>
    [(tileWord t i (2 * j), (0x7FC00000 : Word)), (tileWord t i (2 * j + 1), (0xFFFFFFFF : Word))]

/-- The nonzero entries of a run of numbers. -/
def tabOf {n : Nat} (count : Nat) (f : Nat → BitVec n) : Tab (BitVec n) :=
  (List.range count).filterMap (fun k => if f k = 0 then none else some (k, f k))

/-- A barrier of an image (R303). -/
def barOf (d0 d1 : DWord) : Barrier :=
  { count := signed 32 (fld d0 32 32), node := fld d0 16 16, nv := bit d0 15, armed := bit d0 14, fired := bit d0 13, gen := fld d1 32 32,
    posted := fld d1 0 8 }

/-- The registers a template gives: scalars, handles, and the control registers marked "from image" (R229, R381, R397). -/
def templateRegs (bs : List Byte) (sect : Nat) (r : Regs) : Regs :=
  let cb (n : Nat) : DWord := wordAt bs (0x800 + 8 * n)
  let tr (n : Nat) : DWord := wordAt bs (0xC00 + 8 * (n - 0x80))
  let r := if sect.testBit 0 then { r with s := (tabOf 64 (fun k => wordAt bs (0x40 + 8 * k))).filter (fun p => decide (p.1 ≠ 0)) } else r
  let r := if sect.testBit 1 then { r with h := tabOf 32 (fun k => BitVec.ofNat 256 (numAt bs (0x240 + 32 * k) 32)) } else r
  if sect.testBit 4 then
    { r with
      fpctl := fpWrite 0 (cb 8), rngv := rngStore (cb 9), rngp := rngStore (cb 10), rngx := rngStore (cb 11)
      st := { r.st with lc := tabOf 4 (fun k => lo32 (cb (0x1C + k))) }
      mb := tabOf 8 (fun k => cb (0x20 + k)), tvec := tr 0x80 &&& tvecMask, tscr := tabOf 4 (fun k => tr (0x88 + k)) }
  else r

/-- The engines a template gives. -/
def templateEngines (bs : List Byte) (sect : Nat) (e : Engines) : Engines :=
  let desc (t : Nat) : BitVec 16 := BitVec.ofNat 16 (numAt bs (0x640 + 2 * t) 2)
  let words : Tab Word := (List.range 16).flatMap (fun t => if (desc t).getLsbD 7 then rankedTile t else [])
  let sx4 : Tab Byte := tabOf 16 (fun k => BitVec.ofNat 8 (numAt bs (0x660 + k) 1))
  let bands : Tab (BitVec 16) := tabOf 4 (fun k => BitVec.ofNat 16 (numAt bs (0x670 + 2 * k) 2))
  let table (t : Nat) : Tab Word :=
    (tabOf 259 (fun k => BitVec.ofNat 32 (numAt bs (0x3000 + 1088 * t + 4 * k) 4))).map (fun p => (t * 272 + p.1, p.2))
  let e := if sect.testBit 2 then { e with tdesc := tabOf 16 desc, tissue := tabOf 16 desc, tile := words } else e
  let e := if sect.testBit 3 then { e with sx4 := sx4, bands := bands, bsrc := (numAt bs 0x678 1).testBit 0 } else e
  if sect.testBit 6 then { e with vtab := (List.range 4).flatMap table } else e

/-- A task with its template's contents, or none when the template fails a check (R47, R65, R201, R397). -/
def Ctx.load (s : State) (c : Ctx) (bs : List Byte) : Option Ctx :=
  let sect := fld (wordAt bs 0) 32 8
  if templateOk bs = false then none
  else if sect.testBit 5 = true ∧ bufTableOk s c.anyCore c.who.region bs = false then none
  else if sect.testBit 2 = true ∧ (List.range 16).all (fun t => descOk (numAt bs (0x640 + 2 * t) 2)) = false then none
  else
    let r := templateRegs bs sect c.regs
    let bars : Tab Barrier :=
      ((List.range 256).map (fun n => (n, barOf (wordAt bs (0x5000 + 16 * n)) (wordAt bs (0x5008 + 16 * n))))).filter
        (fun p => decide (p.2 ≠ Barrier.zero))
    let cyc := if sect.testBit 4 then (wordAt bs (0x800 + 8 * 7)).toNat else 0
    let eng := templateEngines bs sect c.eng
    some { c with
      regs := r
      cycles := cyc
      bufs := if sect.testBit 5 then bufsOf bs else []
      eng := eng
      xf := { c.xf with bars := if sect.testBit 7 then bars else [] }
      ph := { c.ph with ck := { Ckpt.of r with tissue := eng.tissue } } }

/-! ### Slice permission entries (R16, R48) -/

/-- The blocks a buffer table covers with their GSHARE, rising. -/
def coveredBlocks (t : Tab BufEnt) : List (Nat × Nat) :=
  (List.range 2048).filterMap fun b => (t.find? (fun (_, e) => decide (e.blocks.1 ≤ b ∧ b ≤ e.blocks.2))).map (fun p => (b, p.2.gshare))

/-- Runs of contiguous blocks with one GSHARE: (start, count, share) (R48). -/
def blockRuns : List (Nat × Nat) → List (Nat × Nat × Nat)
  | [] => []
  | (b, g) :: t => match blockRuns t with
    | (start, n, share) :: rest =>
      if start = b + 1 ∧ share = g then (b, n + 1, g) :: rest else (b, 1, g) :: (start, n, share) :: rest
    | [] => [(b, 1, g)]

/-- The runs a task's buffers need on its core. -/
def Ctx.runs (c : Ctx) : List (Nat × Nat × Nat) := blockRuns (coveredBlocks c.bufs)

/-- Grants a task the blocks of its buffers; at a start they are zeroed first (R48). -/
def grantBlocks (s : State) (c : Ctx) (core : Nat) (zero : Bool) : State :=
  let s := if zero then
      c.runs.foldl (fun s (r : Nat × Nat × Nat) =>
        repairWords { s with mem := s.mem.filter (fun (p : Host.Cell) =>
          decide (p.1 < sliceCell core (r.1 * 4096) ∨ sliceCell core ((r.1 + r.2.1) * 4096) ≤ p.1)) } core (r.1 * 4096) (r.2.1 * 4096)) s
    else s
  let add (t : Tab SptEnt) (r : Nat × Nat × Nat) : Tab SptEnt :=
    let k := ((List.range 64).find? (fun n => (t.look n).isNone)).getD 0
    t.set k { owner := c.who.region, world := c.who.world, share := r.2.2, rights := 7, start := r.1, count := r.2.1 }
  s.updCore core fun x => { x with spt := c.runs.foldl add x.spt }

/-- Takes a task's blocks back (R48). -/
def revokeBlocks (s : State) (c : Ctx) (core : Nat) : State :=
  s.updCore core fun x => { x with spt := x.spt.filter (fun (_, p) =>
    !(c.runs.any (fun r => decide (p.start = r.1 ∧ p.count = r.2.1 ∧ p.owner = c.who.region)))) }

/-! ### The saved image (R395, R396) -/

/-- A run of double words from an indexed function. -/
def dwordRun (n : Nat) (f : Nat → DWord) : List Byte := dwordBytes ((List.range n).map f)

/-- The pc of a saved image: of a PHASE that is at step 1, its own bundle (R89); otherwise the task's. -/
def Ctx.savedPc (c : Ctx) : Nat := (c.ph.op.filter (fun o => !o.sent)).elim c.regs.pc (·.pc)

/-- The control block of a saved image (R396). -/
def controlBlock (s : State) (id : Nat) (c : Ctx) : List Byte :=
  dwordRun 128 fun n =>
    if n = 0 then BitVec.ofNat 64 c.savedPc
    else if n < 0x4C then if crNumberOk n then crRead s id c n else 0
    else if 0x50 ≤ n ∧ n < 0x54 then c.regs.st.cap.val 0 (n - 0x50)
    else if n = 0x54 then heldWord c
    else if n = 0x55 then BitVec.ofNat 64 (c.ph.epoch + c.ph.rels.length * 2 ^ 16)
    else if n = 0x56 then c.dbg.ctl
    else if n = 0x57 then c.dbg.stat
    else if n = 0x58 then BitVec.ofNat 64 c.ph.ck.pc
    else if n = 0x59 then BitVec.ofNat 64 (c.ph.ck.tagNext + c.ph.ck.mcount % 2 ^ 16 * 2 ^ 32)
    else if n = 0x5A then BitVec.ofNat 64 (b2n c.ph.nr + b2n c.ph.err * 2)
    else if 0x5B ≤ n ∧ n < 0x6C then BitVec.ofNat 64 (numAt (relBytes c) (8 * (n - 0x5B)) 8)
    else 0

/-- Bytes with zeros behind them, n in all. -/
def padTo (n : Nat) (bs : List Byte) : List Byte := bs ++ List.replicate (n - bs.length) 0

/-- The posted records a context holds: those of barriers that have fired, in firing order, then the others in posting order (R375, R377, R401). -/
def Ctx.records (c : Ctx) : List Posted := c.xf.fired ++ c.xf.posted

/-- The sections of a saved image whose layout the manual gives, as (offset, bytes); a place not in use is zero (R395). -/
def imageSections (s : State) (id : Nat) (c : Ctx) : List (Nat × List Byte) :=
  let r := c.regs
  let d0 : Nat := 0x01 * 2 ^ 56 + 0x01 * 2 ^ 48 + 0xFF * 2 ^ 32
  let d1 : Nat := c.who.region + (c.slot.getD 0) * 2 ^ 16 + c.who.world * 2 ^ 32
  [(0x0, leBytes 8 d0 ++ leBytes 8 d1 ++ List.replicate 48 0),
   (0x40, dwordRun 64 (fun k => r.s.val 0 k)),
   (0x240, (List.range 32).flatMap (fun k => leBytes 32 (r.h.val 0 k).toNat)),
   (0x640, (List.range 16).flatMap (fun t => leBytes 2 (c.eng.tdesc.val 0 t).toNat)),
   (0x660, (List.range 16).map (fun k => c.eng.sx4.val 0 k) ++ (List.range 4).flatMap (fun k => leBytes 2 (c.eng.bands.val 0 k).toNat)
     ++ leBytes 8 (b2n c.eng.bsrc)),
   (0x800, controlBlock s id c),
   (0xC00, dwordRun 64 (fun k => if crNumberOk (0x80 + k) then crRead s id c (0x80 + k) else 0)),
   (0x1000, (List.range 64).flatMap (fun b => dwordBytes ((c.bufs.look b).elim [0, 0, 0, 0] BufEnt.dwords))),
   (0x1800, fqBytes c),
   (0x2400, dwordRun 64 (fun k => c.ph.ck.regs.s.val 0 k)),
   (0x2600, (List.range 32).flatMap (fun k => leBytes 32 (c.ph.ck.regs.h.val 0 k).toNat)),
   (0x3000, (List.range 1088).flatMap (fun k => leBytes 4 (c.eng.vtab.val 0 k).toNat)),
   (0x5000, (List.range 256).flatMap (fun n => dwordBytes (c.bar n).dwords)),
   (0x6000, padTo 0x4000 (c.records.flatMap (fun p => padTo 64 (p.bytes.take 64)))),
   (0x14000, padTo 0x14000 (c.ph.window.flatMap (fun l => leBytes 8 l.va ++ leBytes 8 l.mask.toNat ++ leBytes 64 l.data.toNat))),
   (0x28000, padTo 0x24000 (c.ph.snap.flatMap (fun l => leBytes 8 l.va ++ leBytes 64 l.data.toNat))),
   (0x100000, (List.range 262144).flatMap (fun k => leBytes 4 (c.eng.tile.val 0 k).toNat))]

/-- Writes the sections of a context to its image: those with a layout; then, with free values, the matrix-stream section, the checkpoint's control
subset and the operand log (R393, R395). -/
def writeImage (s : State) (id : Nat) (c : Ctx) : State :=
  let s := (imageSections s id c).foldl (fun s p => s.devWrite c.whoImage (s.imageBase c + p.1) p.2) s
  ((s.hideImage c 0x1C00 2048).hideImage c 0x2A00 512).hideImage c 0xA000 40960

end Sys2Proof.Machine
end

