-- ==== Sys2Proof/Machine/Banks.lean ====
section
/-! DEFINITION. The power states of the banks of a core (R43, R44), and slice permission taken back (R48). -/

namespace Sys2Proof.Machine

/-- The banks of a quadrant put in a state. -/
def setQuad (s : State) (core quad : Nat) (b : Bank) : State :=
  s.updCore core fun c => { c with banks := (span (8 * quad) 8).foldl (fun t k => t.set k b) c.banks }

/-- A quadrant's cells read as zero. -/
def zeroQuad (s : State) (core quad : Nat) : State :=
  { s with
    mem := s.mem.filter (fun (p : Host.Cell) =>
      decide (p.1 < sliceCell core (quad * 2 ^ 21) ∨ sliceCell core ((quad + 1) * 2 ^ 21) ≤ p.1))
    sramBad := s.sramBad.filter (fun w => decide (w < core * 2 ^ 20 + quad * 2 ^ 18 ∨ core * 2 ^ 20 + (quad + 1) * 2 ^ 18 ≤ w)) }

/-- A bank that has become active is looked at by the power manager when it has been idle long enough (R43). -/
def watchBank (s : State) (core bank : Nat) : State :=
  let (t, s) := s.fresh
  s.push (1025 + Config.drowsyDelay t) 0 (.bankDrowsy core bank)

/-- Whether a run of 4 KiB blocks meets a quadrant. -/
def inQuad (quad start count : Nat) : Bool := decide (count ≠ 0 ∧ start < (quad + 1) * 512 ∧ quad * 512 < start + count)

/-- Whether a quadrant may be gated: no permission entry, no diversion entry, no live command of a task that held blocks in it (R44). -/
def State.mayGate (s : State) (core quad : Nat) : Bool :=
  (s.core core).spt.all (fun (_, e) => !inQuad quad e.start e.count) &&
    (s.die (dieOf core)).div.all (fun e => decide (e.state = 0 ∨ e.isCtx = true ∨ e.core ≠ core) || !inQuad quad e.start e.count) &&
    s.ctxs.all (fun (_, c) => c.loc = .engine || c.anyCore ≠ core || !c.xf.log.any Cmd.live || !c.runs.any (fun r => inQuad quad r.1 r.2.1))

/-- BANK_DROWSY: the power manager puts a bank that no access has reached for 1,024 cycles to sleep (R43). -/
def execBankDrowsy (core bank : Nat) (s : State) : Host.Outcome State Fault Refusal :=
  match (s.core core).banks.val .gated bank with
  | .active last =>
    if last + 1025 ≤ s.now then .next (s.updCore core fun c => { c with banks := c.banks.set bank .drowsy })
    else .next (s.push (last + 1025 - s.now) 0 (.bankDrowsy core bank))
  | _ => .next s

/-- BANK_WAKE: a waking bank is active after 12 cycles (R43). -/
def execBankWake (core bank : Nat) (s : State) : Host.Outcome State Fault Refusal :=
  match (s.core core).banks.val .gated bank with
  | .waking ends =>
    if ends ≤ s.now then .next (watchBank (s.updCore core fun c => { c with banks := c.banks.set bank (.active s.now) }) core bank) else .next s
  | _ => .next s

/-- QUADRANT_GATE: the dispatcher gates an unused quadrant; its contents are lost. A fenced core's quadrants are gated as soon as they may be
(R44, R433). -/
def execQuadrantGate (core quad : Nat) (s : State) : Host.Outcome State Fault Refusal :=
  if (s.core core).ctx.isNone && s.mayGate core quad then .next (setQuad (zeroQuad s core quad) core quad .gated)
  else if (s.core core).fenced then .next (s.push 1 0 (.quadrantGate core quad))
  else .next s

/-- QUADRANT_CLEAR: an ungated quadrant has been zeroed, after 4,096 cycles, and its banks are active (R44). -/
def execQuadrantClear (core quad : Nat) (s : State) : Host.Outcome State Fault Refusal :=
  match (s.core core).banks.val .gated (8 * quad) with
  | .clearing ends =>
    if ends ≤ s.now then
      let s := setQuad (zeroQuad s core quad) core quad (.active s.now)
      .next ((span (8 * quad) 8).foldl (fun s b => watchBank s core b) s)
    else .next s
  | _ => .next s

/-- The gated quadrants that blocks of a core lie in begin to be cleared; whether all are ready (R44). -/
def readyQuads (s : State) (core : Nat) (runs : List (Nat × Nat × Nat)) : State × Bool :=
  (List.range 4).foldl (fun (acc : State × Bool) q =>
    if !runs.any (fun r => inQuad q r.1 r.2.1) then acc
    else match (acc.1.core core).banks.val .gated (8 * q) with
      | .gated => ((setQuad acc.1 core q (.clearing (acc.1.now + 4096))).push 4096 0 (.quadrantClear core q), false)
      | .clearing _ => (acc.1, false)
      | _ => acc) (s, true)

/-- A fenced core that holds no context: its slice permission entries go and its quadrants are gated (R433). -/
def fenceClean (s : State) (core : Nat) : State :=
  let c := s.core core
  if c.fenced = true ∧ c.ctx = none then
    (List.range 4).foldl (fun s q => s.pushOnce 0 0 (.quadrantGate core q)) (s.updCore core fun c => { c with spt := [] })
  else s

end Sys2Proof.Machine
end

