-- ==== Sys2Proof/Machine/Matrix.lean ====
section
/-! DEFINITION. The matrix stream: issue checks (R311), steps (R313 to R317), tile control (R318 to R320, R322, R323), ranked rows (R67, R68,
R321), batches (R250, R251). -/

namespace Sys2Proof.Machine

/-! ### Tiles -/

/-- The words of a run of keys replaced by others of the same run, rising. -/
def Tab.replaceRun {α : Type} (t : Tab α) (lo hi : Nat) (new : Tab α) : Tab α :=
  t.filter (fun p => decide (p.1 < lo)) ++ new ++ t.filter (fun p => decide (hi ≤ p.1))

/-- The words of row i of tile t. -/
def rowWords (tile : Tab Word) (t i : Nat) : Tab Word :=
  tile.filter (fun p => decide (tileWord t i 0 ≤ p.1 ∧ p.1 < tileWord t i 128))

/-- The stored words of a row given by a function of the column. -/
def rowOf (t i : Nat) (f : Nat → Word) : Tab Word :=
  (List.range 128).filterMap (fun j => if f j = 0 then none else some (tileWord t i j, f j))

/-- The words of tile t by a function of row and column. -/
def tileOf (tile : Tab Word) (t : Nat) (f : Nat → (Nat → Word) → Nat → Word) : Tab Word :=
  tile.replaceRun (tileWord t 0 0) (tileWord (t + 1) 0 0) ((List.range 128).flatMap fun i =>
    let row := rowWords tile t i
    rowOf t i (f i (fun j => row.val 0 (tileWord t i j))))

/-- The words of tile t removed: sum mode, every element +0. -/
def clearTile (tile : Tab Word) (t : Nat) : Tab Word := tile.replaceRun (tileWord t 0 0) (tileWord (t + 1) 0 0) []

/-- The words of tile u copied to tile t. -/
def copyTile (tile : Tab Word) (t u : Nat) : Tab Word :=
  if t = u then tile
  else
    let src := tile.filter (fun p => decide (tileWord u 0 0 ≤ p.1 ∧ p.1 < tileWord (u + 1) 0 0))
    tile.replaceRun (tileWord t 0 0) (tileWord (t + 1) 0 0) (src.map (fun p => (p.1 - tileWord u 0 0 + tileWord t 0 0, p.2)))

/-! ### Ranked rows (R67, R68, R321) -/

/-- Whether value v ranks before value w: smallest first when dir is set; NaNs last (R68). -/
def ranksBefore (dir : Bool) (v w : Word) : Bool :=
  let a := fp32.decode v.toNat
  let b := fp32.decode w.toNat
  if a.isNan then false else if b.isNan then true else if dir then a.lt b else b.lt a

/-- Whether two values are equal in rank: all NaNs are, and −0 and +0 (R68). -/
def ranksEqual (v w : Word) : Bool :=
  let a := fp32.decode v.toNat
  let b := fp32.decode w.toNat
  (a.isNan && b.isNan) || a.eq b

/-- Better(p, q) (R321). -/
def pairBetter (dir : Bool) (p q : Word × Word) : Bool :=
  ranksBefore dir p.1 q.1 || (ranksEqual p.1 q.1 && decide (p.2.toNat < q.2.toNat))

/-- RankInsert: the pairs of a row with one more, at most K of them (R321). -/
def rankInsert (k : Nat) (dir : Bool) (row : List (Word × Word)) (v x : Word) : List (Word × Word) :=
  let a := fp32.decode v.toNat
  let v : Word := if a.isNan then 0x7FC00000 else if a.isZero then 0 else v
  let go (row : List (Word × Word)) : List (Word × Word) :=
    let q := (row.filter (fun p => pairBetter dir p (v, x))).length
    if k ≤ q then row else (row.take q ++ [(v, x)] ++ row.drop q).take k
  match row.find? (fun p => decide (p.2 = x)) with
  | some p => if pairBetter dir (v, x) p then go (row.filter (fun p => decide (p.2 ≠ x))) else row
  | none => go row

/-- Every pair of a list inserted in order. -/
def rankInsertAll (k : Nat) (dir : Bool) (row : List (Word × Word)) (l : List (Word × Word)) : List (Word × Word) :=
  l.foldl (fun r p => rankInsert k dir r p.1 p.2) row

/-- The pairs of a row of words: the first LEN (R67). -/
def pairsOf (f : Nat → Word) : List (Word × Word) :=
  (List.range (Nat.min ((f 64).toNat % 64) 32)).map (fun j => (f (2 * j), f (2 * j + 1)))

/-- The words of a row of pairs: unused pairs up to 31, then LEN (R67). -/
def pairWords (l : List (Word × Word)) (j : Nat) : Word :=
  if j < 64 then
    let p := (l[j / 2]?).getD (0x7FC00000, 0xFFFFFFFF)
    if j % 2 = 0 then p.1 else p.2
  else if j = 64 then BitVec.ofNat 32 l.length else 0

/-- The pairs of row i of tile t. -/
def Ctx.rowPairs (c : Ctx) (t i : Nat) : List (Word × Word) :=
  let row := rowWords c.eng.tile t i
  pairsOf (fun j => row.val 0 (tileWord t i j))

/-- Inserts lists of pairs into rows of ranked tile t: row i takes `l i`. -/
def Ctx.mergeRows (c : Ctx) (t : Nat) (l : Nat → List (Word × Word)) : Ctx :=
  let d := c.eng.tdesc.val 0 t
  let f (i : Nat) (old : Nat → Word) (j : Nat) : Word :=
    if l i = [] then old j else pairWords (rankInsertAll (descK d) (descDir d) (pairsOf old) (l i)) j
  { c with eng := { c.eng with tile := tileOf c.eng.tile t f } }

/-! ### The form of a step (R313, R314, R317, R182) -/

/-- A multiply step: tile, format pair, whether it starts from zero, keeping reads, first row and column, zero points. -/
structure MmaForm where
  t : Nat
  fp : Nat
  fresh : Bool
  ka : Bool
  kb : Bool
  row0 : Nat
  col0 : Nat
  za : Int
  zb : Int
deriving DecidableEq, Repr

/-- The formats an FP code admits for A and for B, group size, largest depth, depth granule (R182, R313). -/
def mmaPair : Nat → List Nat × List Nat × Nat × Nat × Nat
  | 0 => ([0x09], [0x09], 8, 256, 8)
  | 1 => ([0x0A], [0x0A], 8, 256, 8)
  | 2 => ([0x10], [0x10], 16, 512, 16)
  | 3 => ([0x10], [0x11], 16, 512, 16)
  | 4 => ([0x11], [0x10], 16, 512, 16)
  | 5 => ([0x11], [0x11], 16, 512, 16)
  | 6 => ([0x18, 0x19], [0x18, 0x19], 16, 512, 32)
  | 7 => ([0x1A], [0x1A], 32, 1024, 32)
  | 8 => ([0x1B], [0x1B], 32, 1024, 64)
  | _ => ([0x01], [0x01], 16, 512, 8)

/-- The format of an operand: its own when the pair admits it; the one the pair names when it carries code 0x00 (R164). -/
def mmaFmt (h : Handle) (l : List Nat) : Option Nat :=
  if hFmt h = 0 then (match l with | [f] => some f | _ => none) else l.find? (· = hFmt h)

/-- Where the side planes of a ring operand end in its slot; 0 for a format without them (R172, R316). -/
def slotSides (h : Handle) (fmt : Nat) : Nat :=
  (sidePlanes [] (setHfld (setHfld h 0 56 0) 236 4 0) fmt).foldl (fun n p => Nat.max n (p.1 + p.2)) 0

/-- The bytes a ring operand takes in its slot: from the lowest to the highest byte its elements reach, side planes included
(R172, R226, R316). -/
def slotBytes (h : Handle) (fmt : Nat) : Nat :=
  let (lo, hi) := hRange h ((fmtBits fmt).getD 8)
  Nat.max (slotSides h fmt) (if hEmpty h then 0 else (hi - lo).toNat)

/-- The ranges an operand covers: element plane and side planes, as (address, bytes). -/
def operandRanges (pl : List (Nat × Nat)) (h : Handle) (fmt : Nat) : List (Nat × Nat) :=
  let (lo, hi) := hRange h ((fmtBits fmt).getD 8)
  (wrap 56 (hBase h + lo), (hi - lo).toNat) :: sidePlanes pl h fmt

/-- The first byte of a range outside core c's own slice, if any is. -/
def outsideSlice (core : Nat) (r : Nat × Nat) : Option Nat :=
  let lo := 0x00FE000000000000 + core * 2 ^ 23
  if r.2 = 0 then none
  else if r.1 < lo ∨ lo + 2 ^ 23 ≤ r.1 then some r.1
  else if lo + 2 ^ 23 < r.1 + r.2 then some (lo + 2 ^ 23)
  else none

/-- The acting slot's operation is not done by a check of R311: the trap of the first failing condition. -/
def matrixCheck (s : State) (c : Ctx) (m : MmaForm) (ha hb : Handle) (pl : List (Nat × Nat)) : Option State :=
  let (la, lb, _, dmax, gran) := mmaPair m.fp
  let use : HUse := { sparse := false, ring := true }
  let d := hExt ha 0
  match mmaFmt ha la, mmaFmt hb lb with
  | some fa, some fb =>
    let shape := decide (d = hExt hb 0 ∧ hExt ha 2 = 1 ∧ hExt ha 3 = 1 ∧ hExt hb 2 = 1 ∧ hExt hb 3 = 1 ∧ d % gran = 0 ∧ 1 ≤ d ∧ d ≤ dmax ∧
      1 ≤ hExt ha 1 ∧ 1 ≤ hExt hb 1 ∧ m.row0 + hExt ha 1 ≤ 128 ∧ m.col0 + hExt hb 1 ≤ 128)
    let ring (h : Handle) (f : Nat) : HBad :=
      match bufferCheck c h ((fmtBits f).getD 8) use with
      | .fine =>
        let b := hBuf h
        if hRing h && decide ((c.bufs.val BufEnt.none b).tile * 64 < slotBytes h f) then .buffer b else .fine
      | r => r
    if formatBad ha fa use || formatBad hb fb use || !shape then some (s.raise Cause.formatInvalid 0)
    else match ring ha fa, ring hb fb with
      | .buffer b, _ => some (s.raise Cause.bufferMode (BitVec.ofNat 64 b))
      | _, .buffer b => some (s.raise Cause.bufferMode (BitVec.ofNat 64 b))
      | _, _ =>
        let rs := (if hRing ha then [] else operandRanges pl ha fa) ++ (if hRing hb then [] else operandRanges pl hb fb)
        match rs.findSome? (outsideSlice c.anyCore) with
        | some a => some (s.raiseAt Cause.translation a (faultWord Tstat.addressRange 0 .read false false))
        | none =>
          if descRanked (c.eng.tissue.val 0 m.t) then some (s.raise Cause.tileMode (BitVec.ofNat 64 m.t)) else none
  | _, _ => some (s.raise Cause.formatInvalid 0)

/-! ### Entering the stream (R310, R250, R408) -/

/-- Assigns a ring read its slot, when the ring has room for it (R56). -/
def assignUse (c : Ctx) (u : RingUse) : Ctx × RingUse :=
  let b := c.buf u.buf
  if u.slot.isSome then (c, u)
  else if u.consume then
    if b.assigned + u.n ≤ b.nslot then
      (c.updBuf u.buf fun b => { b with assigned := b.assigned + u.n }, { u with slot := some ((b.head + b.assigned) % b.nslot) })
    else (c, u)
  else if b.assigned < b.nslot then (c, { u with slot := some ((b.head + b.assigned) % b.nslot) })
  else (c, u)

/-- Assigns the reads of one operation in order, leaving those of rings that an older waiting read holds up; the rings that wait. -/
def assignUses (c : Ctx) : List RingUse → List Nat → Ctx × List RingUse × List Nat
  | [], w => (c, [], w)
  | u :: t, w =>
    if u.buf ∈ w then
      let (c, l, w) := assignUses c t w
      (c, u :: l, w)
    else
      let (c, u) := assignUse c u
      let (c, l, w) := assignUses c t (if u.slot.isNone then u.buf :: w else w)
      (c, u :: l, w)

/-- Assigns every waiting read of the stream that can be assigned, oldest first (R56). -/
def assignStream (c : Ctx) : List MOp → List Nat → Ctx × List MOp
  | [], _ => (c, [])
  | m :: t, w =>
    let (c, l, w) := assignUses c m.rings w
    let (c, t) := assignStream c t w
    (c, { m with rings := l } :: t)

/-- The stream with its waiting reads assigned. -/
def Ctx.assign (c : Ctx) : Ctx :=
  let (c, l) := assignStream c c.eng.ms []
  { c with eng := { c.eng with ms := l } }

/-- The reads of the stream's operations that have not acted give their slots back, to be assigned afresh when the task resumes; those of a ring that an
operation which has acted still consumes from keep theirs (R393). -/
def Ctx.withdraw (c : Ctx) : Ctx :=
  let kept (b : Nat) : Bool := c.eng.ms.any (fun m => m.acted && m.rings.any (fun u => decide (u.buf = b) && u.consume && u.slot.isSome))
  let goes (u : RingUse) : Bool := u.slot.isSome && !kept u.buf
  let out := c.eng.ms.filter (fun m => !m.acted)
  let back (b : Nat) (e : BufEnt) : BufEnt :=
    { e with assigned := e.assigned -
        ((out.flatMap (·.rings)).filter (fun u => goes u && u.consume && decide (u.buf = b))).foldl (fun n u => n + u.n) 0 }
  let drop (m : MOp) : MOp := if m.acted then m else { m with rings := m.rings.map fun u => if goes u then { u with slot := none } else u }
  { c with bufs := Tab.each back c.bufs, eng := { c.eng with ms := c.eng.ms.map drop } }

/-- A mask with the bits of some tiles set. -/
def tileMask (l : List Nat) : BitVec 16 := l.foldl (fun m t => m ||| BitVec.ofNat 16 (2 ^ t)) 0

/-- An operation joins the stream and the open batch, with the tiles it writes (R310). A phase that is run again absorbs the issues that
stand for operations that have retired, and ends as NOT-RESTARTABLE when one differs (R408). -/
def enterStream (s : State) (id : Nat) (i : Instr) (ha hb : Handle) (pl : List (Nat × Nat)) (scal : DWord) (rings : List RingUse)
    (tiles : List Nat) (cmd : Option Nat) : State :=
  match s.ctx id with
  | none => s
  | some c =>
    let k := c.eng.mcount - c.ph.ck.mcount
    let absorbed := decide (k < c.ph.markm)
    let word := s.issue.word
    if absorbed ∧ fld ((c.ph.mwords[k]?).getD 0) 32 32 ≠ fld word 32 32 then s.fatal id Cause.notRestartable 0
    else
      let m : MOp :=
        { seq := c.ph.seq, pc := s.pcOf c, instr := i, ha := ha, hb := hb, scal := scal, ftz := ftzOf (s.srcRegs c).fpctl, batch := c.eng.cur,
          rings := rings, cmd := cmd, cancelled := false, absorbed := absorbed, acted := false, phase := c.ph.no, word := word,
          stepf := c.stepFlag, planes := pl, sx4 := c.eng.sx4 }
      let mask := c.eng.btile.val 0 c.eng.cur ||| tileMask tiles
      let c1 : Ctx := { c with
        eng := { c.eng with ms := c.eng.ms ++ [m], mcount := c.eng.mcount + 1, btile := c.eng.btile.put 0 c.eng.cur mask }
        ph := { c.ph with seq := c.ph.seq + 1, mwords := if absorbed then c.ph.mwords else c.ph.mwords ++ [word] } }
      let s1 := s.setCtx id c1.assign
      if c.eng.ms.isEmpty then s1.push 0 id .matrixRetire else s1

/-- Whether the stream is full (R249). -/
def Ctx.streamFull (c : Ctx) : Bool := 32 ≤ c.eng.ms.length

/-- The ring reads of a step's operands (R56, R316). -/
def mmaRings (m : MmaForm) (ha hb : Handle) : List RingUse :=
  (if hRing ha then [{ buf := hBuf ha, slot := none, consume := !m.ka, n := 1 }] else []) ++
    (if hRing hb then [{ buf := hBuf hb, slot := none, consume := !m.kb, n := 1 }] else [])

/-- MMA, MMAX and MMAQ at issue. -/
def mmaIssue (s : State) (i : Instr) (m : MmaForm) (ha hb : BitVec 5) (scal : Ctx → DWord) : Host.Outcome State Fault Refusal :=
  slotStep s fun id c =>
    let a := s.rh c ha
    let b := s.rh c hb
    let r := s.srcRegs c
    let pl := planeOf r a ++ planeOf r b
    if c.streamFull then s.stall
    else match matrixCheck s c m a b pl with
      | some t => t
      | none => enterStream s id i a b pl (scal c) (mmaRings m a b) [m.t] none

/-- The form of a multiply step's instruction, with the zero points of its captured scalar (R313, R317). -/
def Instr.mma? (i : Instr) (scal : DWord) : Option MmaForm :=
  match i with
  | .mma t _ _ fp ka kb r0 c0 =>
    some { t := t.toNat, fp := fp.toNat, fresh := false, ka := ka, kb := kb, row0 := r0.toNat, col0 := c0.toNat, za := 0, zb := 0 }
  | .mmax t _ _ fp ka kb r0 c0 =>
    some { t := t.toNat, fp := fp.toNat, fresh := true, ka := ka, kb := kb, row0 := r0.toNat, col0 := c0.toNat, za := 0, zb := 0 }
  | .mmaq t _ _ _ ka kb r0 c0 =>
    some { t := t.toNat, fp := 9, fresh := false, ka := ka, kb := kb, row0 := r0.toNat, col0 := c0.toNat, za := signed 8 (fld scal 0 8),
           zb := signed 8 (fld scal 8 8) }
  | _ => none

/-- NOP in the MAT slot: stops the sticky operation and does nothing (R238). -/
def execNopMat (s : State) : Host.Outcome State Fault Refusal := slotStep s fun _ _ => s

/-- MMA: a step is added into tile t (R313 to R316). -/
def execMma (t : BitVec 4) (ha hb : BitVec 5) (fp : BitVec 4) (ka kb : Bool) (row0 col0 : BitVec 7) (s : State) :
    Host.Outcome State Fault Refusal :=
  mmaIssue s (.mma t ha hb fp ka kb row0 col0)
    { t := t.toNat, fp := fp.toNat, fresh := false, ka := ka, kb := kb, row0 := row0.toNat, col0 := col0.toNat, za := 0, zb := 0 } ha hb
    (fun _ => 0)

/-- MMAX: as MMA, from zero (R315). -/
def execMmax (t : BitVec 4) (ha hb : BitVec 5) (fp : BitVec 4) (ka kb : Bool) (row0 col0 : BitVec 7) (s : State) :
    Host.Outcome State Fault Refusal :=
  mmaIssue s (.mmax t ha hb fp ka kb row0 col0)
    { t := t.toNat, fp := fp.toNat, fresh := true, ka := ka, kb := kb, row0 := row0.toNat, col0 := col0.toNat, za := 0, zb := 0 } ha hb
    (fun _ => 0)

/-- MMAQ: an INT8 step with zero points (R317). -/
def execMmaq (t : BitVec 4) (ha hb : BitVec 5) (z : BitVec 6) (ka kb : Bool) (row0 col0 : BitVec 7) (s : State) :
    Host.Outcome State Fault Refusal :=
  mmaIssue s (.mmaq t ha hb z ka kb row0 col0)
    { t := t.toNat, fp := 9, fresh := false, ka := ka, kb := kb, row0 := row0.toNat, col0 := col0.toNat, za := 0, zb := 0 } ha hb
    (fun c => s.rs c z)

/-- Changes the issue-time descriptors of a context (R311). -/
def State.updIssueDesc (s : State) (id : Nat) (f : Tab (BitVec 16) → Tab (BitVec 16)) : State :=
  s.updCtx id fun c => { c with eng := { c.eng with tissue := f c.eng.tissue } }

/-- The tiles of a mask. -/
def maskTiles (m : BitVec 16) : List Nat := (List.range 16).filter (fun t => m.getLsbD t)

/-- An operation of the stream without operands in memory. -/
def streamOp (s : State) (i : Instr) (tiles : List Nat) (desc : Tab (BitVec 16) → Tab (BitVec 16)) : Host.Outcome State Fault Refusal :=
  slotStep s fun id c =>
    if c.streamFull then s.stall else enterStream (s.updIssueDesc id desc) id i 0 0 [] 0 [] tiles none

/-- MZERO: every named tile to sum mode with every element +0 (R318). -/
def execMzero (mask : BitVec 16) (s : State) : Host.Outcome State Fault Refusal :=
  streamOp s (.mzero mask) (maskTiles mask) (fun d => (maskTiles mask).foldl (fun d t => d.put 0 t 0) d)

/-- A ranked tile's descriptor (R65). -/
def rankedDesc (k : Nat) (dir : Bool) : BitVec 16 := BitVec.ofNat 16 (2 ^ 7 + b2n dir * 2 ^ 6 + k)

/-- MRANK: tile t to ranked mode, every row empty (R318). -/
def execMrank (t : BitVec 4) (k : BitVec 6) (dir : Bool) (s : State) : Host.Outcome State Fault Refusal :=
  streamOp s (.mrank t k dir) [t.toNat] (fun d => d.put 0 t.toNat (rankedDesc k.toNat dir))

/-- MKAT: one known-answer step on the hidden tile (R319). -/
def execMkat (q : BitVec 8) (sum : BitVec 16) (s : State) : Host.Outcome State Fault Refusal := streamOp s (.mkat q sum) [] id

/-- MPOP: discards n slots of ring b (R311, R320). -/
def execMpop (b : BitVec 6) (n : BitVec 8) (s : State) : Host.Outcome State Fault Refusal :=
  slotStep s fun id c =>
    let e := c.buf b.toNat
    if c.streamFull then s.stall
    else if e.mode ≠ 3 ∨ e.nslot < n.toNat then s.raise Cause.bufferMode (BitVec.ofNat 64 b.toNat)
    else enterStream s id (.mpop b n) 0 0 [] 0 [{ buf := b.toNat, slot := none, consume := true, n := n.toNat }] [] none

/-- MADDT: adds tile u into tile t, or merges its ranked rows (R322). -/
def execMaddt (t u : BitVec 4) (i : Bool) (s : State) : Host.Outcome State Fault Refusal :=
  slotStep s fun id c =>
    let a := c.eng.tissue.val 0 t.toNat
    let b := c.eng.tissue.val 0 u.toNat
    if c.streamFull then s.stall
    else if descRanked a ≠ descRanked b ∨ (descRanked a = true ∧ descDir a ≠ descDir b) then s.raise Cause.tileMode (BitVec.ofNat 64 t.toNat)
    else enterStream s id (.maddt t u i) 0 0 [] 0 [] [t.toNat] none

/-- MCOPY: tile t := tile u, contents and descriptor (R322). -/
def execMcopy (t u : BitVec 4) (s : State) : Host.Outcome State Fault Refusal :=
  streamOp s (.mcopy t u) [t.toNat] (fun d => d.put 0 t.toNat (d.val 0 u.toNat))

/-- MCOMMIT: closes the open batch and opens the next, which must have retired (R250). -/
def execMcommit (s : State) : Host.Outcome State Fault Refusal :=
  slotStep s fun id c =>
    let n := (c.eng.cur + 1) % 8
    if c.pend n then s.stall
    else
      let old := c.eng.cur
      let masks := if c.pend old then c.eng.btile else c.eng.btile.del old
      s.updCtx id fun c => { c with eng := { c.eng with cur := n, btile := masks.del n } }

/-- The threshold MTHR reads (R323). -/
def threshold (c : Ctx) (t first count : Nat) : Word :=
  let d := c.eng.tdesc.val 0 t
  let dir := descDir d
  let far : Word := if dir then 0x7F800000 else 0xFF800000
  let w (r : Nat) : Word :=
    match (c.rowPairs t r)[descK d - 1]? with
    | some p => if (fp32.decode p.1.toNat).isNan then far else p.1
    | none => far
  let ws := (List.range count).map (fun i => w (first + i))
  match ws with
  | [] => far
  | x :: rest => rest.foldl (fun a b => BitVec.ofNat 32 (fp32.encode 0 false false 0
      (Val.minMax dir (fp32.decode a.toNat) (fp32.decode b.toNat)))) x

/-- MTHR: s[d] := the worst K-th value over a range of rows (R323). -/
def execMthr (d : BitVec 6) (t : BitVec 4) (first cntM1 : BitVec 7) (s : State) : Host.Outcome State Fault Refusal :=
  slotStep s fun id c =>
    if c.inFlight t.toNat then s.raise Cause.accInFlight (BitVec.ofNat 64 t.toNat)
    else if descRanked (c.eng.tissue.val 0 t.toNat) = false then s.raise Cause.tileMode (BitVec.ofNat 64 t.toNat)
    else s.wrS id d ((threshold c t.toNat first.toNat (cntM1.toNat + 1)).setWidth 64)

/-! ### Acting (R312, R315, R317, R319, R322) -/

/-- An operand's handle as a step reads it: a ring operand lies from the first byte of its slot (R316). -/
def ringHandle (c : Ctx) (h : Handle) (slot : Option Nat) : Handle :=
  match slot with
  | some k => setHfld (setHfld h 0 56 (0x00FE000000000000 + c.anyCore * 2 ^ 23 + (c.buf (hBuf h)).slotOff k)) 236 4 0
  | none => h

/-- The operands of a multiply step where it reads them: each ring operand in the slot its read was assigned (R56, R316). -/
def MOp.operands (c : Ctx) (m : MOp) : Handle × Handle :=
  (ringHandle c m.ha (if hRing m.ha then (m.rings.head?).bind (·.slot) else none),
   ringHandle c m.hb (if hRing m.hb then (m.rings.getLast?).bind (·.slot) else none))

/-- One byte plane of an operand, read whole. -/
def readPlane (s : State) (w : Who) (env : Env) (p : Nat × Nat) : State × Except Stop (List Byte) := readBytes s w env p.1 p.2

/-- The values of an operand, element (k, r) at r × d + k, with MX scales and SX4 table entries (R170, R171, R183). -/
def operandVals (s : State) (w : Who) (env : Env) (pl : List (Nat × Nat)) (sx4 : Tab Byte) (h : Handle) (fmt : Nat) :
    State × Except Stop (List Val) :=
  let d := hExt h 0
  match readAll s w env h ((fmtBits fmt).getD 8) with
  | (s, .error e) => (s, .error e)
  | (s, .ok es) =>
    let vs := es.map (elemVal fmt)
    match sidePlanes pl h fmt with
    | [] => (s, .ok vs)
    | p :: _ => match readPlane s w env p with
      | (s, .error e) => (s, .error e)
      | (s, .ok side) =>
        if isMx fmt then
          (s, .ok (vs.zipIdx.map fun (v, n) => v.mul (e8m0 (side.getD (n / d * (d / 32) + n % d / 32) 0))))
        else
          let idx (n : Nat) : Nat := (side.getD ((n / d * (d / 64) + n % d / 64) * 4 + n % 64 / 16) 0).toNat / 16 ^ (n / 8 % 2) % 16
          (s, .ok (vs.zipIdx.map fun (v, n) => v.mul (e3m5 (sx4.val 0 (idx n)))))

/-- The exact sum of some products; +0 for none (R183, R184). -/
def groupSum : List Val → Val
  | [] => Val.zero
  | x :: t => t.foldl (Val.add 0) x

/-- The words of a floating step: element (i, j) with old word c (R183). -/
def mmaElem (g d : Nat) (ftz : Bool) (a b : Nat → Val) (c : Word) : Word :=
  (List.range ((d + g - 1) / g)).foldl (fun c n =>
    let S := groupSum ((List.range (Nat.min g (d - n * g))).map (fun k => (a (n * g + k)).mul (b (n * g + k))))
    BitVec.ofNat 32 (round32 ftz ((fp32.decode c.toNat).add 0 S))) c

/-- The words of an integer step (R184, R317). -/
def mmaIntElem (d : Nat) (a b : Nat → Int) (c : Word) : Word :=
  BitVec.ofInt 32 (c.toInt + ((List.range d).map (fun k => a k * b k)).foldl (· + ·) 0)

/-- A finite value's integer. -/
def Val.toInt : Val → Int
  | .fin n a _ _ => if n then -(a : Int) else a
  | _ => 0

/-- A multiply step acts: its operands are read at their homes, and the tile's rectangle takes the sums (R312, R315, R317). On a failure the
tile is as it was. -/
def actMma (s : State) (c : Ctx) (m : MOp) (f : MmaForm) : State × Except Stop (Tab Word) :=
  let (la, lb, g, _, _) := mmaPair f.fp
  let w := s.whoTask c 1 false
  let env := s.envTask c
  let (ha, hb) := m.operands c
  let d := hExt ha 0
  match operandVals s w env m.planes m.sx4 ha ((mmaFmt ha la).getD 0) with
  | (s, .error e) => (s, .error e)
  | (s, .ok va) => match operandVals s w env m.planes m.sx4 hb ((mmaFmt hb lb).getD 0) with
    | (s, .error e) => (s, .error e)
    | (s, .ok vb) =>
      let aa := va.toArray
      let bb := vb.toArray
      let val (x : Array Val) (r k : Nat) : Val := (x[r * d + k]?).getD Val.zero
      let cell (i : Nat) (old : Nat → Word) (j : Nat) : Word :=
        if f.row0 ≤ i ∧ i < f.row0 + hExt ha 1 ∧ f.col0 ≤ j ∧ j < f.col0 + hExt hb 1 then
          let c0 : Word := if f.fresh then 0 else old j
          if f.fp = 9 then
            mmaIntElem d (fun k => (val aa (i - f.row0) k).toInt - f.za) (fun k => (val bb (j - f.col0) k).toInt - f.zb) c0
          else mmaElem g d m.ftz (val aa (i - f.row0)) (val bb (j - f.col0)) c0
        else old j
      (s, .ok (tileOf c.eng.tile f.t cell))

/-- The checksum of a known-answer step (R319). -/
def katSum (q : Nat) : Nat :=
  let a (i k : Nat) : Int := ((i + 3 * k + q) % 5 : Nat) - 2
  let b (k j : Nat) : Int := ((5 * k + j + 2 * q) % 7 : Nat) - 3
  let l := List.range 128
  -- Σ (128i + j + 1) × A[i][k] × B[k][j], summed over j and i for each k
  let part (k : Nat) : Int :=
    let sa := (l.map (fun i => a i k)).foldl (· + ·) 0
    let sia := (l.map (fun (i : Nat) => (128 * (i : Int) + 1) * a i k)).foldl (· + ·) 0
    let sb := (l.map (fun j => b k j)).foldl (· + ·) 0
    let sjb := (l.map (fun (j : Nat) => (j : Int) * b k j)).foldl (· + ·) 0
    sia * sb + sa * sjb
  wrap 16 (((List.range 256).map part).foldl (· + ·) 0)

/-- MADDT acts (R322). -/
def actMaddt (c : Ctx) (m : MOp) (t u : Nat) (i : Bool) : Ctx :=
  if descRanked (c.eng.tdesc.val 0 t) then c.mergeRows t (fun r => c.rowPairs u r)
  else
    let src := c.eng.tile
    let cell (r : Nat) (old : Nat → Word) (j : Nat) : Word :=
      let b := src.val 0 (tileWord u r j)
      if i then old j + b else BitVec.ofNat 32 (round32 m.ftz ((fp32.decode (old j).toNat).add 0 (fp32.decode b.toNat)))
    { c with eng := { c.eng with tile := tileOf c.eng.tile t cell } }

/-- The tiles an operation of the stream reads or writes. -/
def Instr.streamTiles : Instr → List Nat
  | .mma t .. => [t.toNat]
  | .mmax t .. => [t.toNat]
  | .mmaq t .. => [t.toNat]
  | .mzero m => maskTiles m
  | .mrank t .. => [t.toNat]
  | .maddt t u _ => [t.toNat, u.toNat]
  | .mcopy t u => [t.toNat, u.toNat]
  | .drainkMerge u a .. => [u.toNat, a.toNat]
  | .rmergeSw _ a .. => [a.toNat]
  | _ => []

/-! ### Retirement (R56, R250, R310) -/

/-- A batch that is closed and has nothing left loses its tile mask. -/
def Ctx.settleBatch (c : Ctx) (b : Nat) : Ctx :=
  if b = c.eng.cur ∨ c.pend b = true then c else { c with eng := { c.eng with btile := c.eng.btile.del b } }

/-- Pops n slots of a ring. -/
def BufEnt.popN : Nat → BufEnt → BufEnt
  | 0, b => b
  | n + 1, b => BufEnt.popN n b.pop

/-- The oldest operation retires: the slots it consumed are popped, it leaves MS and its batch, and waiting reads are assigned. A pop of an
unprotected ring makes the phase not restartable (R406). -/
def Ctx.retireHead (c : Ctx) : Ctx :=
  match c.eng.ms with
  | [] => c
  | m :: rest =>
    let uses := m.rings.filter (·.consume)
    let bufs := uses.foldl (fun (t : Tab BufEnt) u => t.set u.buf (BufEnt.popN u.n (t.val BufEnt.none u.buf))) c.bufs
    let nr := uses.any (fun u => (c.buf u.buf).noprot)
    let c : Ctx := { c with bufs := bufs, eng := { c.eng with ms := rest }, ph := { c.ph with nr := c.ph.nr || nr } }
    if c.away then c.settleBatch m.batch else (c.settleBatch m.batch).assign

/-- Whether every slot an operation reads lies within FILLED (R56, R320). -/
def Ctx.ringsReady (c : Ctx) (m : MOp) : Bool :=
  m.rings.all fun u =>
    let b := c.buf u.buf
    match u.slot with
    | some k => decide ((k + b.nslot - b.head) % b.nslot + u.n ≤ b.filled)
    | none => false

end Sys2Proof.Machine
end

