-- ==== Sys2Proof/Machine/Vector.lean ====
section
/-! DEFINITION. The vector engine (R325 to R340): operand checks at issue, and what each operation does when its turn comes. -/

namespace Sys2Proof.Machine

/-! ### Formats and operands (R325, R326) -/

def floatFmts : List Nat := [0x08, 0x09, 0x0A]
def intFmts : List Nat := [0x01, 0x02]
/-- The formats a vector operand may have (R325). -/
def vecFmts : List Nat := floatFmts ++ intFmts
/-- The formats of VCVT (R333). -/
def cvtFmts : List Nat := vecFmts ++ [0x10, 0x11, 0x12]
def isFloatF (f : Nat) : Bool := floatFmts.contains f

/-- An operand at issue: its handle, the formats it may have, whether the operation writes it. -/
structure VecArg where
  h : Handle
  ok : List Nat
  dst : Bool
deriving DecidableEq, Repr

/-- Formats resolved: a destination of code 0x00 takes the first source's code that is not 0x00; a source of code 0x00 takes the
destination's (R325). The destination comes first in the list. -/
def resolveArgs (l : List VecArg) : List VecArg :=
  let named := ((l.map (fun a => hFmt a.h)).find? (· ≠ 0)).getD 0
  l.map (fun a => if hFmt a.h = 0 then { a with h := setHfld a.h 56 8 named } else a)

/-- The bits of an operand's elements. -/
def argBits (h : Handle) : Nat := (fmtBits (hFmt h)).getD 8

/-- The first byte of a range that lies outside the global scratchpad space (R325). -/
def outsideSpace (r : Nat × Nat) : Option Nat :=
  if r.2 = 0 then none
  else if r.1 < 0x00FE000000000000 ∨ 0x00FE000100000000 ≤ r.1 then some r.1
  else if 0x00FE000100000000 < r.1 + r.2 then some 0x00FE000100000000
  else none

/-- The range of a vector operand; none when it has no element. -/
def argRange (h : Handle) : List (Nat × Nat) := if hEmpty h then [] else operandRanges [] h (hFmt h)

/-- The trap of the first failing check of a vector operation: formats and shapes, then buffers, then ranges (R325 to R329). -/
def vecCheck (s : State) (c : Ctx) (l : List VecArg) (shape : Bool) : Option State :=
  if !shape || l.any (fun a => !(a.ok.contains (hFmt a.h)) || formatBad a.h (hFmt a.h) HUse.plain) then some (s.raise Cause.formatInvalid 0)
  else
    let buf (a : VecArg) : Option Nat := match bufferCheck c a.h (argBits a.h) HUse.plain with
      | .buffer b => some b
      | _ => none
    match l.findSome? buf with
    | some b => some (s.raise Cause.bufferMode (BitVec.ofNat 64 b))
    | none =>
      let far (a : VecArg) : Option (Nat × Acc) := ((argRange a.h).findSome? outsideSpace).map fun x => (x, if a.dst then .write else .read)
      (l.findSome? far).map fun (x, acc) => s.raiseAt Cause.translation x (faultWord Tstat.addressRange 0 acc false false)

/-- The effective rounding mode of an engine operation; none for SR with a destination of more than 16 bits (R174). -/
def engineMode (rc : Nat) (fpctl : DWord) (bits : Nat) : Option Nat :=
  if rc = 4 ∧ 16 < bits then none else some (modeOf rc fpctl (decide (16 < bits)))

/-- A vector operation joins the engine's queue. -/
def enqueueVec (s : State) (id : Nat) (c : Ctx) (i : Instr) (l : List VecArg) (hs : Handle × Handle × Handle × Handle) (scal : DWord)
    (mode : Nat) (extraRd extraWr : List (Nat × Nat)) : State :=
  match s.ctx id with
  | none => s
  | some now =>
    let r := s.srcRegs c
    let seed := if mode = 4 then xorshift r.rngv else 0
    let v : VecOp :=
      { seq := now.ph.seq, pc := s.pcOf c, instr := i, hd := hs.1, ha := hs.2.1, hb := hs.2.2.1, hm := hs.2.2.2, scal := scal, seed := seed,
        ftz := ftzOf r.fpctl, mode := mode, rd := (l.filter (fun a => !a.dst)).flatMap (fun a => argRange a.h) ++ extraRd,
        wr := (l.filter (·.dst)).flatMap (fun a => argRange a.h) ++ extraWr, phase := now.ph.no, stepf := now.stepFlag,
        run := none }
    let now : Ctx := { now with
      regs := if mode = 4 then { now.regs with rngv := seed } else now.regs
      eng := { now.eng with vq := now.eng.vq ++ [v] }
      ph := { now.ph with seq := now.ph.seq + 1 } }
    let s1 := s.setCtx id now
    if now.eng.vq.length = 1 then s1.push 0 id .vecComplete else s1

/-- The operands by place: destination, A, B, M. -/
def argH (l : List VecArg) (k : Nat) : Handle := ((l[k]?).map (·.h)).getD 0

/-- A vector operation with a destination in the first place: checks, then the queue; one that is idle for want of elements touches nothing (R227,
R329, R334). `rc` is the rounding code of an operation that rounds to floats; an issue that rounds stochastically steps RNGV whether or not
an element is written (R179). `extra` gives the ranges it reads and writes beside its operands' own. -/
def vecIssueAt (s : State) (i : Instr) (args : Ctx → List VecArg) (scal : Ctx → DWord) (rc : Option Nat) (shape idle : List VecArg → Bool)
    (extra : Ctx → List VecArg → List (Nat × Nat) × List (Nat × Nat)) : Host.Outcome State Fault Refusal :=
  slotStep s fun id c =>
    let l := resolveArgs (args c)
    let d := argH l 0
    let fp := (s.srcRegs c).fpctl
    let mode := match rc with
      | some r => engineMode r fp (argBits d)
      | none => some 0
    match vecCheck s c l (shape l && mode.isSome) with
    | some t => t
    | none =>
      -- an operation on integers alone rounds nothing, and draws nothing
      let m := if l.all (fun a => intFmts.contains (hFmt a.h)) then 0 else mode.getD 0
      if idle l then
        (if m = 4 then s.updCtx id (·.updRegs (fun r => { r with rngv := xorshift r.rngv })) else s)
      else enqueueVec s id c i l (argH l 0, argH l 1, argH l 2, argH l 3) (scal c) m (extra c l).1 (extra c l).2

/-- A vector operation that is idle when its destination has no element. -/
def vecIssue (s : State) (i : Instr) (args : Ctx → List VecArg) (scal : Ctx → DWord) (rc : Option Nat) (shape : List VecArg → Bool) :
    Host.Outcome State Fault Refusal :=
  vecIssueAt s i args scal rc shape (fun l => hEmpty (argH l 0)) (fun _ _ => ([], []))

/-- A vector operation that is idle when any of its handles has no element (R334, R340). -/
def vecIssueRows (s : State) (i : Instr) (args : Ctx → List VecArg) (rc : Option Nat) (shape : List VecArg → Bool)
    (extra : Ctx → List VecArg → List (Nat × Nat) × List (Nat × Nat)) : Host.Outcome State Fault Refusal :=
  vecIssueAt s i args (fun _ => 0) rc shape (fun l => l.any (fun a => hEmpty a.h)) extra

/-- Elementwise shapes: each source has as many elements as the destination, or one (R329). -/
def elementwise (l : List VecArg) : Bool :=
  let n := hCount (argH l 0)
  n = 0 || (l.drop 1).all (fun a => decide (hCount a.h = n ∨ hCount a.h = 1))

/-- Whether all operands are floating, or all integer (R325). -/
def sameClass (l : List VecArg) : Bool := l.all (fun a => isFloatF (hFmt a.h) == isFloatF (hFmt (argH l 0)))

/-- D, A and, unless a scalar stands for it, B. -/
def args3 (s : State) (c : Ctx) (hd ha : BitVec 5) (b : BitVec 6) (bs : Bool) (ok : List Nat) : List VecArg :=
  [⟨s.rh c hd, ok, true⟩, ⟨s.rh c ha, ok, false⟩] ++ (if bs then [] else [⟨s.rh c (b.setWidth 5), ok, false⟩])

/-- D and A. -/
def args2 (s : State) (c : Ctx) (hd ha : BitVec 5) (okD okA : List Nat) : List VecArg :=
  [⟨s.rh c hd, okD, true⟩, ⟨s.rh c ha, okA, false⟩]

/-- An operation of R330 with two sources. -/
def vecBinary (s : State) (i : Instr) (hd ha : BitVec 5) (b : BitVec 6) (rc : BitVec 3) (bs : Bool) : Host.Outcome State Fault Refusal :=
  vecIssue s i (fun c => args3 s c hd ha b bs vecFmts) (fun c => if bs then s.rs c b else 0) (some rc.toNat)
    (fun l => elementwise l && sameClass l)

/-- An operation with one source and the formats it takes. -/
def vecUnary (s : State) (i : Instr) (hd ha : BitVec 5) (rc : BitVec 3) (ok : List Nat) : Host.Outcome State Fault Refusal :=
  vecIssue s i (fun c => args2 s c hd ha ok ok) (fun _ => 0) (some rc.toNat) (fun l => elementwise l && sameClass l)

/-! ### The instructions -/

/-- NOP in the VEC slot (R238). -/
def execNopVec (s : State) : Host.Outcome State Fault Refusal := slotStep s fun _ _ => s
/-- VADD: d[e] := a + b (R330). -/
def execVadd (hd ha : BitVec 5) (b : BitVec 6) (rc : BitVec 3) (bs : Bool) (s : State) : Host.Outcome State Fault Refusal :=
  vecBinary s (.vadd hd ha b rc bs) hd ha b rc bs
/-- VSUB: d[e] := a − b (R330). -/
def execVsub (hd ha : BitVec 5) (b : BitVec 6) (rc : BitVec 3) (bs : Bool) (s : State) : Host.Outcome State Fault Refusal :=
  vecBinary s (.vsub hd ha b rc bs) hd ha b rc bs
/-- VMUL: d[e] := a × b (R330). -/
def execVmul (hd ha : BitVec 5) (b : BitVec 6) (rc : BitVec 3) (bs : Bool) (s : State) : Host.Outcome State Fault Refusal :=
  vecBinary s (.vmul hd ha b rc bs) hd ha b rc bs
/-- VFMA: d[e] := a × b + old d, rounded once (R330). -/
def execVfma (hd ha : BitVec 5) (b : BitVec 6) (rc : BitVec 3) (bs : Bool) (s : State) : Host.Outcome State Fault Refusal :=
  vecIssue s (.vfma hd ha b rc bs) (fun c => args3 s c hd ha b bs floatFmts) (fun c => if bs then s.rs c b else 0) (some rc.toNat) elementwise
/-- VMIN (R330, R167). -/
def execVmin (hd ha : BitVec 5) (b : BitVec 6) (rc : BitVec 3) (bs : Bool) (s : State) : Host.Outcome State Fault Refusal :=
  vecBinary s (.vmin hd ha b rc bs) hd ha b rc bs
/-- VMAX (R330, R167). -/
def execVmax (hd ha : BitVec 5) (b : BitVec 6) (rc : BitVec 3) (bs : Bool) (s : State) : Host.Outcome State Fault Refusal :=
  vecBinary s (.vmax hd ha b rc bs) hd ha b rc bs
/-- VABS (R330). -/
def execVabs (hd ha : BitVec 5) (rc : BitVec 3) (s : State) : Host.Outcome State Fault Refusal := vecUnary s (.vabs hd ha rc) hd ha rc vecFmts
/-- VNEG (R330). -/
def execVneg (hd ha : BitVec 5) (rc : BitVec 3) (s : State) : Host.Outcome State Fault Refusal := vecUnary s (.vneg hd ha rc) hd ha rc vecFmts
/-- VRCP: 1 / a (R331). -/
def execVrcp (hd ha : BitVec 5) (rc : BitVec 3) (s : State) : Host.Outcome State Fault Refusal := vecUnary s (.vrcp hd ha rc) hd ha rc floatFmts
/-- VRSQ: 1 / √a (R331). -/
def execVrsq (hd ha : BitVec 5) (rc : BitVec 3) (s : State) : Host.Outcome State Fault Refusal := vecUnary s (.vrsq hd ha rc) hd ha rc floatFmts
/-- VEXP: e^a or 2^a (R331). -/
def execVexp (hd ha : BitVec 5) (rc : BitVec 3) (base2 : Bool) (s : State) : Host.Outcome State Fault Refusal :=
  vecUnary s (.vexp hd ha rc base2) hd ha rc floatFmts
/-- VLOG2 (R331). -/
def execVlog2 (hd ha : BitVec 5) (rc : BitVec 3) (s : State) : Host.Outcome State Fault Refusal :=
  vecUnary s (.vlog2 hd ha rc) hd ha rc floatFmts
/-- VTBL: interpolation in table t (R336). -/
def execVtbl (hd ha : BitVec 5) (t : BitVec 2) (rc : BitVec 3) (s : State) : Host.Outcome State Fault Refusal :=
  vecUnary s (.vtbl hd ha t rc) hd ha rc floatFmts

/-- The handle VTBL.load reads through: 1,036 bytes at A's BASE, whatever A's shape. -/
def tableHandle (h : Handle) : Handle :=
  setHfld (setHfld (setHfld (setHfld (setHfld (setHfld h 64 16 1036) 80 16 1) 96 16 1) 112 16 1) 232 4 0) 56 8 0

/-- VTBL.load: table t := 1,036 bytes at A's BASE; A has one of the formats of a vector operand, or the untyped
format 0x00 that the manual's own listing loads through (R325, R336, R453; DEDUCED, log 19). -/
def execVtblLoad (ha : BitVec 5) (t : BitVec 2) (s : State) : Host.Outcome State Fault Refusal :=
  slotStep s fun id c =>
    let a := s.rh c ha
    let h := tableHandle a
    if hBase a % 4 ≠ 0 || !((0 :: vecFmts).contains (hFmt a)) || formatBad a (hFmt a) HUse.plain then s.raise Cause.formatInvalid 0
    else if hEmpty a then s
    else match bufferCheck c h 8 HUse.plain with
      | .buffer b => s.raise Cause.bufferMode (BitVec.ofNat 64 b)
      | _ => match outsideSpace (hBase a, 1036) with
        | some x => s.raiseAt Cause.translation x (faultWord Tstat.addressRange 0 .read false false)
        | none => enqueueVec s id c (.vtblLoad ha t) [] (0, h, 0, 0) 0 0 [(hBase a, 1036)] []

/-- VCMP: d[e] := 1 when a cond b, else 0 (R332). -/
def execVcmp (hd ha hb : BitVec 5) (cond : BitVec 3) (s : State) : Host.Outcome State Fault Refusal :=
  vecIssue s (.vcmp hd ha hb cond) (fun c => [⟨s.rh c hd, intFmts, true⟩, ⟨s.rh c ha, vecFmts, false⟩, ⟨s.rh c hb, vecFmts, false⟩])
    (fun _ => 0) none (fun l => elementwise l && isFloatF (hFmt (argH l 1)) == isFloatF (hFmt (argH l 2)))

/-- VSEL: d[e] := m[e] ≠ 0 ? a : b, converted to D (R332). -/
def execVsel (hd ha hb : BitVec 5) (rc : BitVec 3) (hm : BitVec 5) (s : State) : Host.Outcome State Fault Refusal :=
  vecIssue s (.vsel hd ha hb rc hm)
    (fun c => [⟨s.rh c hd, vecFmts, true⟩, ⟨s.rh c ha, vecFmts, false⟩, ⟨s.rh c hb, vecFmts, false⟩, ⟨s.rh c hm, intFmts, false⟩])
    (fun _ => 0) (some rc.toNat) elementwise

/-- VCVT: each element converted from A's format to D's (R333). -/
def execVcvt (hd ha : BitVec 5) (rc : BitVec 3) (sat : Bool) (s : State) : Host.Outcome State Fault Refusal :=
  vecIssue s (.vcvt hd ha rc sat) (fun c => args2 s c hd ha cvtFmts cvtFmts) (fun _ => 0) (some rc.toNat) elementwise

/-- One destination element for each row of A, where both have elements (R334). -/
def rowShape (l : List VecArg) : Bool :=
  let a := argH l 1
  sameClass l && (hEmpty a || hEmpty (argH l 0) || decide (hCount (argH l 0) = hCount a / hExt a 0))

/-- As many destination elements as A has, where both have elements (R334). -/
def scanShape (l : List VecArg) : Bool :=
  sameClass l && (hEmpty (argH l 1) || hEmpty (argH l 0) || decide (hCount (argH l 0) = hCount (argH l 1)))

/-- VRED: one reduction for each row (R186, R334). -/
def execVred (hd ha : BitVec 5) (rc : BitVec 3) (op : BitVec 2) (s : State) : Host.Outcome State Fault Refusal :=
  vecIssueRows s (.vred hd ha rc op) (fun c => args2 s c hd ha vecFmts vecFmts) (some rc.toNat) rowShape (fun _ _ => ([], []))

/-- VAMAX: the largest magnitude of each row (R334). -/
def execVamax (hd ha : BitVec 5) (s : State) : Host.Outcome State Fault Refusal :=
  vecIssueRows s (.vamax hd ha) (fun c => args2 s c hd ha [0x08] floatFmts) none rowShape (fun _ _ => ([], []))

/-- VSCAN: the prefix sums of each row (R187, R334). -/
def execVscan (hd ha : BitVec 5) (rc : BitVec 3) (ex : Bool) (s : State) : Host.Outcome State Fault Refusal :=
  vecIssueRows s (.vscan hd ha rc ex) (fun c => args2 s c hd ha vecFmts vecFmts) (some rc.toNat) scanShape (fun _ _ => ([], []))

/-- The bytes of a stream's records, from the CAPL its header holds at issue and the row size (R339). -/
def streamSpan (s : State) (c : Ctx) (stream rows : Handle) : Nat :=
  let capl := match (readBytes s (s.whoTask c 1 false) (s.envTask c) (hBase stream + 8) 8).2 with
    | .ok bs => leNat bs % 16
    | .error _ => 15
  2 ^ capl * elemBytes (argBits rows) (hExt rows 0)

/-- VPUSH: rows of A whose mask is set join the stream of D (R340). -/
def execVpush (hd ha hb : BitVec 5) (sc : BitVec 3) (s : State) : Host.Outcome State Fault Refusal :=
  vecIssueRows s (.vpush hd ha hb sc) (fun c => [⟨s.rh c hd, vecFmts, true⟩, ⟨s.rh c ha, vecFmts, false⟩, ⟨s.rh c hb, intFmts, false⟩])
    none (fun l => decide (hCount (argH l 2) = hRows (argH l 1)))
    (fun c l => ([], [(hBase (argH l 0), 64 + streamSpan s c (argH l 0) (argH l 1))]))

/-- VPOP: rows of D are filled from the stream of A, and the mask B tells which (R340). -/
def execVpop (hd ha hb : BitVec 5) (sc : BitVec 3) (s : State) : Host.Outcome State Fault Refusal :=
  vecIssueRows s (.vpop hd ha hb sc) (fun c => [⟨s.rh c hd, vecFmts, true⟩, ⟨s.rh c ha, vecFmts, true⟩, ⟨s.rh c hb, [0x01], true⟩])
    none (fun l => decide (hCount (argH l 2) = hRows (argH l 0)))
    (fun c l => ([(hBase (argH l 1) + 64, streamSpan s c (argH l 1) (argH l 0))], [(hBase (argH l 1), 64)]))

/-- VHIST: counts the values of A into the bins of D (R338). -/
def execVhist (hd ha : BitVec 5) (clr : Bool) (s : State) : Host.Outcome State Fault Refusal :=
  vecIssue s (.vhist hd ha clr) (fun c => args2 s c hd ha [0x02] intFmts) (fun _ => 0) none (fun _ => true)

/-- VIOTA: d[e] := s[b] + e (R337). -/
def execViota (hd : BitVec 5) (b : BitVec 6) (rc : BitVec 3) (s : State) : Host.Outcome State Fault Refusal :=
  vecIssue s (.viota hd b rc) (fun c => [⟨s.rh c hd, vecFmts, true⟩]) (fun c => s.rs c b) (some rc.toNat) (fun _ => true)

/-- VMOV: d[e] := a[e], bit for bit (R337). -/
def execVmov (hd ha : BitVec 5) (s : State) : Host.Outcome State Fault Refusal :=
  vecIssue s (.vmov hd ha) (fun c => args2 s c hd ha vecFmts vecFmts) (fun _ => 0) none
    (fun l => elementwise l && decide (hFmt (argH l 0) = hFmt (argH l 1)))

/-- VMOV of a scalar: every element := s[b], bit for bit (R337). -/
def execVmovScalar (hd : BitVec 5) (b : BitVec 6) (s : State) : Host.Outcome State Fault Refusal :=
  vecIssue s (.vmovScalar hd b) (fun c => [⟨s.rh c hd, vecFmts, true⟩]) (fun c => s.rs c b) none (fun _ => true)

/-- VSHUF: d[e] := a[b[e]], or 0 (R337). -/
def execVshuf (hd ha hb : BitVec 5) (s : State) : Host.Outcome State Fault Refusal :=
  vecIssue s (.vshuf hd ha hb) (fun c => [⟨s.rh c hd, vecFmts, true⟩, ⟨s.rh c ha, vecFmts, false⟩, ⟨s.rh c hb, [0x02], false⟩])
    (fun _ => 0) none
    (fun l => isFloatF (hFmt (argH l 0)) == isFloatF (hFmt (argH l 1)) && decide (argBits (argH l 0) = argBits (argH l 1)) &&
      decide (hCount (argH l 0) = 0 ∨ hCount (argH l 0) = hCount (argH l 2)))

/-! ### Performing: elements read up to the first failure, elements written in order (R328) -/

/-- Element reads in order; on a stop, the values before it. -/
def readUpTo (w : Who) (env : Env) (h : Handle) (bits : Nat) :
    List (Nat × Nat × Nat × Nat) → State → State × List Nat × Option Stop
  | [], s => (s, [], none)
  | i :: t, s => match readElem s w env h bits i with
    | (s, .error e) => (s, [], some e)
    | (s, .ok v) =>
      let (s, vs, e) := readUpTo w env h bits t s
      (s, v :: vs, e)

/-- The coordinates of a handle's elements, in order. -/
def hCoords (h : Handle) : List (Nat × Nat × Nat × Nat) := (List.range (hCount h)).map (hCoord h)

/-- All of a handle's elements, up to the first failure. -/
def readCol (s : State) (w : Who) (env : Env) (h : Handle) : State × List Nat × Option Stop := readUpTo w env h (argBits h) (hCoords h) s

/-- The end of an operation's work, or of one part of it: done; a failed access; a failure of the operation itself, with its cause and address; a
record moved, with more to do (R340); a source read that had failed, with its address and, unless it is an uncorrectable error, the fault. -/
inductive VecEnd where
  | ok
  | stop (e : Stop)
  | bad (cause addr : Nat)
  | more (r : VecRun)
  | cut (va : Nat) (fault : Option (Nat × Nat × DWord))
deriving DecidableEq, Repr

/-- The first of two ends that is a failure. -/
def VecEnd.orStop (e : Option Stop) : VecEnd := match e with
  | some x => .stop x
  | none => .ok

/-- Elements written in order, then the failure that cut them short, if any. -/
def writeCol (s : State) (w : Who) (env : Env) (h : Handle) (vs : List Nat) (cut : Option Stop) : State × VecEnd :=
  match writeMany w env h (argBits h) ((hCoords h).zip vs) s with
  | (s, .ok ()) => (s, VecEnd.orStop cut)
  | (s, .error e) => (s, .stop e)

/-- A column of source elements, one element standing for all when there is one. -/
structure Col where
  vals : List Nat
  single : Bool
  cut : Option Stop
deriving DecidableEq, Repr

/-- Reads every source of an elementwise operation. -/
def readCols (w : Who) (env : Env) : List (Except Nat Handle) → State → State × List Col
  | [], s => (s, [])
  | .error k :: t, s =>
    let (s, l) := readCols w env t s
    (s, { vals := [k], single := true, cut := none } :: l)
  | .ok h :: t, s =>
    let (s, vs, e) := readCol s w env h
    let (s, l) := readCols w env t s
    (s, { vals := vs, single := decide (hCount h = 1), cut := e } :: l)

/-- How many elements a column supports. -/
def Col.limit (n : Nat) (c : Col) : Nat := if c.cut.isNone then n else if c.single then 0 else c.vals.length

/-- An elementwise operation: element e of the destination is f of the sources' elements, the draw and e; a failing source element cuts it
short there (R328, R329). -/
def vecMap (s : State) (w : Who) (env : Env) (v : VecOp) (srcs : List (Except Nat Handle)) (f : List Nat → Nat → Nat → Nat) : State × VecEnd :=
  let n := hCount v.hd
  let (s, cols) := readCols w env srcs s
  let lim := (cols.map (Col.limit n)).foldl Nat.min n
  let cut := if lim = n then none else (cols.find? (fun c => decide (c.limit n = lim))).bind (·.cut)
  let dr := (if v.mode = 4 then draws lim v.seed else []).toArray
  let arr := cols.map (fun c => (c.vals.toArray, c.single))
  let at_ (e : Nat) : List Nat := arr.map (fun (a, one) => (a[if one then 0 else e]?).getD 0)
  writeCol s w env v.hd ((List.range lim).map (fun e => f (at_ e) ((dr[e]?).getD 0) e)) cut

/-- The signed value of an integer element. -/
def intElem (h : Handle) (x : Nat) : Int := signed (argBits h) x

/-- The value of an element of a handle. -/
def hVal (h : Handle) (x : Nat) : Val := elemVal (hFmt h) x

/-- A value written in the destination's format, as engines do. -/
def VecOp.enc (v : VecOp) (sat : Bool) (draw : Nat) (x : Val) : Nat := elemEnc (hFmt v.hd) v.mode sat v.ftz draw x

/-- The handle that stands for a scalar source: FP32 beside floats, INT32 beside integers (R326). -/
def VecOp.bForm (v : VecOp) (bs : Bool) : Handle :=
  if bs then setHfld 0 56 8 (if isFloatF (hFmt v.hd) then 0x08 else 0x02) else v.hb

/-- A two-source operation: floats through ff, integers through fi, which wrap (R330). -/
def vecArith (s : State) (w : Who) (env : Env) (v : VecOp) (bs : Bool) (old : Bool) (ff : List Val → Val) (fi : Int → Int → Int) : State × VecEnd :=
  let hb := v.bForm bs
  let srcs : List (Except Nat Handle) := [.ok v.ha, if bs then .error (fld v.scal 0 32) else .ok v.hb] ++ (if old then [.ok v.hd] else [])
  if isFloatF (hFmt v.hd) then
    vecMap s w env v srcs fun x draw _ =>
      v.enc false draw (ff [hVal v.ha (x.getD 0 0), hVal hb (x.getD 1 0), hVal v.hd (x.getD 2 0)])
  else
    vecMap s w env v srcs fun x _ _ => wrap (argBits v.hd) (fi (intElem v.ha (x.getD 0 0)) (intElem hb (x.getD 1 0)))

/-- An operation on the sign of floats, keeping a NaN's payload within one format, or on integers (R330, R166). -/
def vecSign (s : State) (w : Who) (env : Env) (v : VecOp) (ff : Val → Val) (bits : Nat → Nat → Nat) (fi : Int → Int) : State × VecEnd :=
  vecMap s w env v [.ok v.ha] fun x draw _ =>
    let a := x.getD 0 0
    if isFloatF (hFmt v.hd) then
      if hFmt v.hd = hFmt v.ha ∧ (hVal v.ha a).isNan = true then bits (2 ^ (argBits v.ha - 1)) a
      else v.enc false draw (ff (hVal v.ha a))
    else wrap (argBits v.hd) (fi (intElem v.ha a))

/-- A function of one floating source (R331). -/
def vecFun (s : State) (w : Who) (env : Env) (v : VecOp) (f : Val → Val) : State × VecEnd :=
  vecMap s w env v [.ok v.ha] fun x draw _ => v.enc false draw (f (hVal v.ha (x.getD 0 0)))

/-- The comparison of VCMP (R332). -/
def vcmpHolds (cond : Nat) (a b : Val) : Bool :=
  if a.isNan || b.isNan then cond = 1
  else match cond with
    | 0 => a.eq b
    | 1 => !a.eq b
    | 2 => a.lt b
    | 3 => !b.lt a
    | 4 => b.lt a
    | _ => !a.lt b

/-- An element converted between formats: integers narrow by SAT, everything else rounds (R181, R332, R333). -/
def VecOp.convert (v : VecOp) (src : Handle) (sat : Bool) (draw x : Nat) : Nat :=
  if intFmts.contains (hFmt src) && intFmts.contains (hFmt v.hd) then
    wrap (argBits v.hd) (narrowInt (argBits v.hd) sat (intElem src x))
  else v.enc sat draw (hVal src x)

/-! ### Rows (R186, R187, R334) -/

/-- Two partial results combined; an empty one gives way. -/
def combineOpt {α : Type} (f : α → α → α) : Option α → Option α → Option α
  | some a, some b => some (f a b)
  | some a, none => some a
  | none, b => b

/-- The fixed combination order of VRED: 64 lanes, then a tree (R186). -/
def laneReduce {α : Type} (f : α → α → α) (xs : List α) : Option α :=
  let lane (l : Nat) : Option α := (xs.zipIdx.filter (fun p => decide (p.2 % 64 = l))).foldl (fun acc p => combineOpt f acc (some p.1)) none
  let fold (p : List (Option α)) (s : Nat) : List (Option α) :=
    (List.range s).map (fun i => combineOpt f ((p[i]?).getD none) ((p[i + s]?).getD none))
  (([32, 16, 8, 4, 2, 1].foldl fold ((List.range 64).map lane)).head?).getD none

/-- The FP32 rounding of an intermediate sum. -/
def mid32 (v : Val) : Val := fp32.decode (round32 false v)

/-- VRED of one row as the destination's bits. -/
def redRow (v : VecOp) (op draw : Nat) (row : List Nat) : Nat :=
  if isFloatF (hFmt v.hd) then
    let f (a b : Val) : Val := if op = 0 then mid32 (a.add 0 b) else Val.minMax (decide (op = 1)) a b
    v.enc false draw ((laneReduce f (row.map (hVal v.ha))).getD Val.zero)
  else
    let xs := row.map (intElem v.ha)
    let n := argBits v.ha
    let f (a b : Int) : Int := if op = 0 then signed n (wrap n (a + b)) else if op = 1 then Max.max a b else Min.min a b
    wrap (argBits v.hd) ((laneReduce f xs).getD 0)

/-- The running sums of a row of floats (R187). -/
def scanVals : Val → List Val → List Val
  | _, [] => []
  | u, x :: t => let y := mid32 (u.add 0 x); y :: scanVals y t

/-- The running sums of a row of integers. -/
def scanInts : Int → List Int → List Int
  | _, [] => []
  | u, x :: t => (u + x) :: scanInts (u + x) t

/-- VSCAN of one row: the sums, or the sums before each element (R334). -/
def scanRow (v : VecOp) (ex : Bool) (dr : Nat → Nat) (row : List Nat) : List Nat :=
  let shift {α : Type} (z : α) (l : List α) : List α := if ex then z :: l.dropLast else l
  if isFloatF (hFmt v.hd) then
    let us := match row.map (hVal v.ha) with
      | [] => []
      | x :: t => x :: scanVals x t
    (shift Val.zero us).zipIdx.map (fun p => v.enc false (dr p.2) p.1)
  else (shift 0 (scanInts 0 (row.map (intElem v.ha)))).map (wrap (argBits v.hd))

/-- The whole rows of a list of elements. -/
def rowsOf (n : Nat) : Nat → List Nat → List (List Nat)
  | 0, _ => []
  | k + 1, l => l.take n :: rowsOf n k (l.drop n)

/-- VRED, VAMAX: a row that was not read whole gives no element. -/
def vecRows (s : State) (w : Who) (env : Env) (v : VecOp) (f : Nat → List Nat → Nat) : State × VecEnd :=
  let (s, vs, cut) := readCol s w env v.ha
  let e0 := hExt v.ha 0
  let whole := vs.length / e0
  let dr := (if v.mode = 4 then draws whole v.seed else []).toArray
  writeCol s w env v.hd ((rowsOf e0 whole vs).zipIdx.map (fun p => f ((dr[p.2]?).getD 0) p.1)) cut

/-- VSCAN. -/
def vecScan (s : State) (w : Who) (env : Env) (v : VecOp) (ex : Bool) : State × VecEnd :=
  let (s, vs, cut) := readCol s w env v.ha
  let e0 := hExt v.ha 0
  let dr := (if v.mode = 4 then draws vs.length v.seed else []).toArray
  let rows := rowsOf e0 ((vs.length + e0 - 1) / e0) vs
  writeCol s w env v.hd (rows.zipIdx.flatMap (fun p => scanRow v ex (fun j => (dr[p.2 * e0 + j]?).getD 0) p.1)) cut

/-! ### Tables (R335, R336) -/

/-- Word k of table t. -/
def Ctx.tabWord (c : Ctx) (t k : Nat) : Word := c.eng.vtab.val 0 (t * 272 + k)

/-- The exponent of a positive power of two in the FP32 normal range. -/
def stepExp (w : Word) : Option Int :=
  if w.toNat % 2 ^ 23 = 0 ∧ w.toNat / 2 ^ 31 = 0 ∧ 1 ≤ w.toNat / 2 ^ 23 ∧ w.toNat / 2 ^ 23 ≤ 254 then some ((w.toNat / 2 ^ 23 : Nat) - 127) else none

/-- The interpolation of one element (R336). -/
def interpolate (y : Nat → Val) (x0 : Val) (e : Int) (x : Val) : Val :=
  match (x.add 0 x0.negate).mul (Val.pow2 (-e)) with
  | .nan => .nan
  | .inf n => if n then y 0 else y 256
  | .fin neg num den exp =>
    let (p, q) := pow2Frac exp
    let n := num * p
    let d := den * q
    if num = 0 ∨ neg = true then y 0
    else if 256 * d ≤ n then y 256
    else
      let i := n / d
      let r := n % d
      if r = 0 then y i else (y i).add 0 ((Val.fin false r d 0).mul ((y (i + 1)).add 0 (y i).negate))

/-- An element through table t; a table without a proper step, as one the image leaves out, gives NaN. -/
def tableVal (c : Ctx) (t : Nat) (x : Val) : Val :=
  let word (k : Nat) : Val := fp32.decode (c.tabWord t k).toNat
  match stepExp (c.tabWord t 1) with
  | some e => if x.isNan then .nan else interpolate (fun i => word (i + 2)) (word 0) e x
  | none => .nan

/-! ### Conditional streams (R339, R340) -/

/-- A stream's header, when it is in order for a row size and a scope. -/
def streamOk (c : Ctx) (sc base : Nat) (d1 : DWord) (rest : List Byte) (rowBytes : Nat) : Bool :=
  let recb := fld d1 32 16
  let core := base / 2 ^ 23 % 512
  let capl := fld d1 0 4
  decide (base % 64 = 0 ∧ fld d1 48 16 = 0 ∧ fld d1 4 28 = 0 ∧ recb % 4 = 0 ∧ 4 ≤ recb ∧ recb ≤ 4096 ∧ recb = rowBytes) && rest.all (· == 0)
    && (if sc = 0 then decide (core = c.anyCore) else decide (clusterOf core = clusterOf c.anyCore))
    && decide (base % 2 ^ 23 + 64 + 2 ^ capl * recb ≤ 2 ^ 23)

/-- The bytes of row r of a handle, element by element. -/
def rowCoords (h : Handle) (r : Nat) : List (Nat × Nat × Nat × Nat) := (List.range (hExt h 0)).map (fun i => hCoord h (r * hExt h 0 + i))

/-- Adds 1 with saturation to a 32-bit counter at a byte address. -/
def bumpAt (s : State) (w : Who) (env : Env) (a : Nat) : State × Except Stop Unit :=
  match readBytes s w env a 4 with
  | (s, .ok bs) => writeBytes s w env a (leBytes 4 (satAdd 32 (leNat bs) 1))
  | (s, .error e) => (s, .error e)

/-- VPUSH of one row (R340). -/
def pushRow (s : State) (w : Who) (env : Env) (base capl recb : Nat) (row : List Byte) : State × Except Stop Unit :=
  match readBytes s w env base 8 with
  | (s, .error e) => (s, .error e)
  | (s, .ok bs) =>
    let tail := leNat (bs.take 4)
    let head := leNat (bs.drop 4)
    if (tail + 2 ^ 32 - head) % 2 ^ 32 < 2 ^ capl then
      match writeBytes s w env (base + 64 + tail % 2 ^ capl * recb) row with
      | (s, .ok ()) => writeBytes s w env base (leBytes 4 (tail + 1))
      | (s, .error e) => (s, .error e)
    else bumpAt s w env (base + 20)

/-- VPOP of one row: its bytes, and whether the stream gave it (R340). -/
def popRow (s : State) (w : Who) (env : Env) (base capl recb : Nat) : State × Except Stop (List Byte × Bool) :=
  match readBytes s w env base 8 with
  | (s, .error e) => (s, .error e)
  | (s, .ok bs) =>
    let tail := leNat (bs.take 4)
    let head := leNat (bs.drop 4)
    if tail ≠ head then
      match readBytes s w env (base + 64 + head % 2 ^ capl * recb) recb with
      | (s, .error e) => (s, .error e)
      | (s, .ok r) => match writeBytes s w env (base + 4) (leBytes 4 (head + 1)) with
        | (s, .ok ()) => (s, .ok (r, true))
        | (s, .error e) => (s, .error e)
    else match bumpAt s w env (base + 16) with
      | (s, .ok ()) => (s, .ok (List.replicate recb 0, false))
      | (s, .error e) => (s, .error e)

/-- The bytes of elements. -/
def elemsToBytes (bits : Nat) (l : List Nat) : List Byte := l.flatMap (leBytes (bits / 8))

/-- The rows of A whose mask is set, read before any record moves, up to the first failure (R327). -/
def maskedRows (w : Who) (env : Env) (v : VecOp) : List (Nat × Nat) → State → State × List (Nat × List Byte) × Option Stop
  | [], s => (s, [], none)
  | (r, m) :: t, s =>
    if m = 0 then maskedRows w env v t s
    else match readMany w env v.ha (argBits v.ha) (rowCoords v.ha r) s with
      | (s, .error e) => (s, [], some e)
      | (s, .ok es) =>
        let (s, l, e) := maskedRows w env v t s
        (s, (r, elemsToBytes (argBits v.ha) es) :: l, e)

/-- VPUSH or VPOP begins: its header is read and checked, then the rows it will move; a diverted block leaves nothing done (R340). -/
def streamBegin (s : State) (w : Who) (env : Env) (c : Ctx) (sc : Nat) (stream rows : Handle)
    (src : State → State × List (Nat × List Byte) × Option Stop) : State × VecEnd :=
  match readBytes s w env (hBase stream) 64 with
  | (s, .error e) => (s, .stop e)
  | (s, .ok bs) =>
    let d1 := dwordAt bs 1
    if streamOk c sc (hBase stream) d1 (bs.drop 24) (elemBytes (argBits rows) (hExt rows 0)) = false then (s, .bad Cause.queueFormat 0)
    else
      let run (l : List (Nat × List Byte)) (cut : Option (Nat × Option (Nat × Nat × DWord))) : VecEnd :=
        .more { capl := fld d1 0 4, recb := fld d1 32 16, rows := l, cut := cut }
      match src s with
      | (s, l, none) => (s, run l none)
      | (s, l, some e) => if !e.ue && e.fault.isNone then (s, .stop e) else (s, run l (some (e.va, if e.ue then none else e.fault)))

/-- One record of a VPUSH or VPOP moves, as one indivisible operation at the stream's slice (R340). -/
def streamStep (s : State) (r : VecRun) (move : State → Nat → List Byte → State × Except Stop Unit) : State × VecEnd :=
  match r.rows with
  | [] => match r.cut with
    | none => (s, .ok)
    | some (va, f) => (s, .cut va f)
  | (i, bs) :: t => match move s i bs with
    | (s, .ok ()) => (s, if t.isEmpty && r.cut.isNone then .ok else .more { r with rows := t })
    | (s, .error e) => (s, .stop e)

/-- VPOP of one row: the record, the row of D, the mask (R340). -/
def popInto (s : State) (w : Who) (env : Env) (v : VecOp) (capl recb r : Nat) : State × Except Stop Unit :=
  match popRow s w env (hBase v.ha) capl recb with
  | (s, .error e) => (s, .error e)
  | (s, .ok (bs, got)) =>
    let b := argBits v.hd
    let es := (List.range (hExt v.hd 0)).map (fun i => leNat ((bs.drop (i * (b / 8))).take (b / 8)))
    match writeMany w env v.hd b ((rowCoords v.hd r).zip es) s with
    | (s, .error e) => (s, .error e)
    | (s, .ok ()) => writeElem s w env v.hb 8 (hCoord v.hb r) (b2n got)

/-! ### Histograms (R338) -/

/-- Counts values into bins; counts already written stand on a failure. -/
def histRun (w : Who) (env : Env) (h : Handle) : List Int → Tab Nat → State → State × Option Stop
  | [], _, s => (s, none)
  | x :: t, bins, s =>
    if x < 0 ∨ (hCount h : Int) ≤ x then histRun w env h t bins s
    else
      let k := x.toNat
      let (s, old) := match bins.look k with
        | some n => (s, Except.ok n)
        | none => readElem s w env h 32 (hCoord h k)
      match old with
      | .error e => (s, some e)
      | .ok n => match writeElem s w env h 32 (hCoord h k) ((n + 1) % 2 ^ 32) with
        | (s, .error e) => (s, some e)
        | (s, .ok ()) => histRun w env h t (bins.set k ((n + 1) % 2 ^ 32)) s

/-- VHIST. -/
def vecHist (s : State) (w : Who) (env : Env) (v : VecOp) (clr : Bool) : State × VecEnd :=
  let (s, vs, cut) := readCol s w env v.ha
  let n := hCount v.hd
  let clear : State × Except Stop Unit :=
    if clr then writeAll s w env v.hd 32 (List.replicate n 0) else (s, .ok ())
  match clear with
  | (s, .error e) => (s, .stop e)
  | (s, .ok ()) =>
    let bins : Tab Nat := if clr then (List.range n).map (fun k => (k, 0)) else []
    match histRun w env v.hd (vs.map (intElem v.ha)) bins s with
    | (s, some e) => (s, .stop e)
    | (s, none) => (s, VecEnd.orStop cut)

/-- VSHUF: indices in order, each read at its home. -/
def vecShuffle (s : State) (w : Who) (env : Env) (v : VecOp) : State × VecEnd :=
  let (s, idx, cut) := readCol s w env v.hb
  let rec go : List Nat → State → State × List Nat × Option Stop
    | [], s => (s, [], cut)
    | x :: t, s =>
      let k := intElem v.hb x
      let (s, r) := if 0 ≤ k ∧ k < (hCount v.ha : Int) then readElem s w env v.ha (argBits v.ha) (hCoord v.ha k.toNat) else (s, Except.ok 0)
      match r with
      | .error e => (s, [], some e)
      | .ok y =>
        let (s, l, e) := go t s
        (s, y :: l, e)
  let (s, vs, cut) := go idx s
  writeCol s w env v.hd vs cut

/-! ### The operation performed -/

/-- VTBL.load performed (R336). -/
def loadTable (s : State) (w : Who) (env : Env) (id : Nat) (v : VecOp) (t : Nat) : State × VecEnd :=
  match readBytes s w env (hBase v.ha) 1036 with
  | (s, .error e) => (s, .stop e)
  | (s, .ok bs) =>
    let word (k : Nat) : Word := BitVec.ofNat 32 (numAt bs (4 * k) 4)
    if (stepExp (word 1)).isNone then (s, .bad Cause.formatInvalid 0)
    else
      let new : Tab Word := (tabOf 259 word).map (fun p => (t * 272 + p.1, p.2))
      (s.updCtx id fun c => { c with eng := { c.eng with vtab := c.eng.vtab.replaceRun (t * 272) ((t + 1) * 272) new } }, .ok)

/-- What a vector operation does. -/
def vecAct (s : State) (id : Nat) (c : Ctx) (v : VecOp) : State × VecEnd :=
  let w := s.whoTask c 1 false
  let env := s.envTask c
  let at2 (f : Val → Val → Val) (l : List Val) : Val := f (l.getD 0 .nan) (l.getD 1 .nan)
  match v.instr with
  | .vadd _ _ _ _ bs => vecArith s w env v bs false (at2 (Val.add v.mode)) (· + ·)
  | .vsub _ _ _ _ bs => vecArith s w env v bs false (at2 (fun a b => Val.add v.mode a b.negate)) (· - ·)
  | .vmul _ _ _ _ bs => vecArith s w env v bs false (at2 Val.mul) (· * ·)
  | .vfma _ _ _ _ bs =>
    vecArith s w env v bs true (fun l => Val.add v.mode ((l.getD 0 .nan).mul (l.getD 1 .nan)) (l.getD 2 .nan)) (fun a _ => a)
  | .vmin _ _ _ _ bs => vecArith s w env v bs false (at2 (Val.minMax false)) Min.min
  | .vmax _ _ _ _ bs => vecArith s w env v bs false (at2 (Val.minMax true)) Max.max
  | .vabs .. => vecSign s w env v Val.abs (fun sign x => x % sign) (fun x => (x.natAbs : Int))
  | .vneg .. => vecSign s w env v Val.negate (fun sign x => x ^^^ sign) (fun x => -x)
  | .vrcp .. => vecFun s w env v valRcp
  | .vrsq .. => vecFun s w env v valRsq
  | .vexp _ _ _ base2 => vecFun s w env v (valExp base2)
  | .vlog2 .. => vecFun s w env v valLog2
  | .vtbl _ _ t _ => vecFun s w env v (tableVal c t.toNat)
  | .vtblLoad _ t => loadTable s w env id v t.toNat
  | .vcmp _ _ _ cond => vecMap s w env v [.ok v.ha, .ok v.hb] fun x _ _ =>
    b2n (vcmpHolds cond.toNat (hVal v.ha (x.getD 0 0)) (hVal v.hb (x.getD 1 0)))
  | .vsel .. => vecMap s w env v [.ok v.ha, .ok v.hb, .ok v.hm] fun x draw _ =>
    if x.getD 2 0 ≠ 0 then v.convert v.ha false draw (x.getD 0 0) else v.convert v.hb false draw (x.getD 1 0)
  | .vcvt _ _ _ sat => vecMap s w env v [.ok v.ha] fun x draw _ => v.convert v.ha sat draw (x.getD 0 0)
  | .vred _ _ _ op => vecRows s w env v (redRow v op.toNat)
  | .vamax .. => vecRows s w env v fun _ row =>
    v.enc false 0 ((row.map (fun x => (hVal v.ha x).abs)).foldl (Val.minMax true) Val.zero)
  | .vscan _ _ _ ex => vecScan s w env v ex
  | .vhist _ _ clr => vecHist s w env v clr
  | .viota .. => vecMap s w env v [] fun _ draw e =>
    let x := v.scal.toInt + e
    if isFloatF (hFmt v.hd) then v.enc false draw (Val.ofInt x) else wrap (argBits v.hd) x
  | .vmov .. => vecMap s w env v [.ok v.ha] fun x _ _ => x.getD 0 0
  | .vmovScalar .. => vecMap s w env v [] fun _ _ _ => v.scal.toNat % 2 ^ argBits v.hd
  | .vshuf .. => vecShuffle s w env v
  | .vpush _ _ _ sc => match v.run with
    | none => streamBegin s w env c sc.toNat v.hd v.ha fun s =>
      let (s, ms, cut) := readCol s w env v.hb
      let (s, l, e) := maskedRows w env v (ms.zipIdx.map (fun p => (p.2, p.1))) s
      (s, l, if e.isSome then e else cut)
    | some r => streamStep s r fun s _ bs => pushRow s w env (hBase v.hd) r.capl r.recb bs
  | .vpop _ _ _ sc => match v.run with
    | none => streamBegin s w env c sc.toNat v.ha v.hd fun s => (s, (List.range (hRows v.hd)).map (fun i => (i, [])), none)
    | some r => streamStep s r fun s i _ => popInto s w env v r.capl r.recb i
  | _ => (s, .ok)

/-- Whether a younger operation's writes are held by a FENCE (R98). -/
def Ctx.fenced (c : Ctx) (seq : Nat) : Bool := c.ph.fences.any (fun f => decide (f.seq ≤ seq))

/-- Whether a record of a unit that waits for a place in the fault queue holds that unit (R387). -/
def Ctx.unitHeld (c : Ctx) (slot : Nat) : Bool := c.xf.waitq.any (fun r => decide (r.slot = slot))

/-- An engine operation without a log entry consumed an uncorrectable error: the rollback, or a record when it is of an earlier phase
(R405). -/
def unitUe (s : State) (id : Nat) (c : Ctx) (slot pc phase va : Nat) (stepf : Bool) : State :=
  if phase = c.ph.no then s.push 0 id (.ueAbortReceive id 0xFF) else engineFail s id slot pc Cause.dataError va 0 stepf

/-- Whether a vector operation comes after an older access of its core to a diverted context it accesses (R403). -/
def State.vecFollows (s : State) (c : Ctx) (v : VecOp) : Bool :=
  let first (p : Place) : Bool := (s.divCtx p).any (fun x => s.rangesMeet x (v.rd ++ v.wr))
  c.ph.memq.any (fun m => decide (m.seq ≤ v.seq) && first m.place) || c.ph.late.any (fun (_, q, l) => decide (q < v.seq) && first l.place)

/-- VEC_COMPLETE: the oldest vector operation of the task is performed, a VPUSH or VPOP one record at a time, unless a FENCE or a waiting record
holds it; a diverted block sends it back to wait, with nothing done (R327, R328, R340, R400, R406). -/
def execVecComplete (s : State) : Host.Outcome State Fault Refusal :=
  let id := s.subj
  match s.ctx id with
  | none => .next s
  | some c => match c.eng.vq with
    | [] => .next s
    | v :: _ =>
      if c.fenced v.seq || c.unitHeld 4 || s.vecFollows c v then .next (s.push 1 id .vecComplete)
      else
        let (s1, r) := vecAct s id c v
        let pops := match v.instr with
          | .vpush .. => true
          | .vpop .. => true
          | _ => false
        let drop (s : State) (nr : Bool) : State :=
          let s := s.updCtx id fun c => { c with eng := { c.eng with vq := c.eng.vq.drop 1 }, ph := { c.ph with nr := c.ph.nr || nr } }
          let more := (s.ctx id).any (fun c => !c.eng.vq.isEmpty)
          if more then s.push 0 id .vecComplete else s
        let fail (s : State) (va : Nat) (f : Option (Nat × Nat × DWord)) : State := match f with
          | some (cause, a, d) => engineFail s id 4 v.pc cause a d v.stepf
          | none => unitUe s id c 4 v.pc v.phase va v.stepf
        match r with
        | .ok => .next (drop s1 pops)
        | .more run =>
          let s := s1.updCtx id fun c => { c with
            eng := { c.eng with vq := { v with run := some run } :: c.eng.vq.drop 1 }, ph := { c.ph with nr := true } }
          .next (s.push 1 id .vecComplete)
        | .cut va f => .next (fail (drop s1 pops) va f)
        | .bad cause a => .next (engineFail (drop s1 false) id 4 v.pc cause a 0 v.stepf)
        | .stop e =>
          if e.ue then .next (fail (drop s1 false) e.va none)
          else if e.fault.isSome then .next (fail (drop s1 false) e.va e.fault)
          else .next ((s.keepAsks s1).push 1 id .vecComplete)

end Sys2Proof.Machine
end

