-- ==== Sys2Proof/Machine/Permute.lean ====
section
/-! DEFINITION. Block quantisation (R190), the permute unit (R341 to R343) and the scale unit (R344, R345). -/

namespace Sys2Proof.Machine

/-! ### Block quantisation (R190) -/

/-- The largest magnitude among finite values, +0 when there is none. -/
def blockMax (vs : List Val) : Val :=
  vs.foldl (fun m v => match v with
    | .fin _ n d e => if m.lt (.fin false n d e) then .fin false n d e else m
    | _ => m) Val.zero

/-- L of R190 for an MX format. -/
def mxTop (fmt : Nat) : Nat := if fmt = 0x18 then 448 else if fmt = 0x19 then 57344 else 6

/-- The MX scale of a block maximum: the smallest s with 2^(s − 127) ≥ m / L, else 0xFE. -/
def mxScale (fmt : Nat) (m : Val) : Nat :=
  ((List.range 255).find? (fun (s : Nat) => !((Val.ofInt (mxTop fmt)).mul (Val.pow2 ((s : Int) - 127))).lt m)).getD 0xFE

/-- The elements of an MX block under a scale; 0 under the NaN scale. -/
def mxElems (fmt mode : Nat) (sat ftz : Bool) (s : Nat) (vs : List (Val × Nat)) : List Nat :=
  if s = 0xFF then vs.map (fun _ => 0)
  else vs.map (fun (v, r) => elemEnc fmt mode sat ftz r (v.div (Val.pow2 ((s : Int) - 127))))

/-- An MX block quantised: its scale and elements. -/
def quantMx (fmt mode : Nat) (sat ftz : Bool) (vs : List (Val × Nat)) : Nat × List Nat :=
  let s := if vs.any (·.1.isNan) then 0xFF else mxScale fmt (blockMax (vs.map (·.1)))
  (s, mxElems fmt mode sat ftz s vs)

/-- The SX4 block index of a block maximum (R190). -/
def sx4Index (t : Tab Byte) (m : Val) : Nat :=
  let val (k : Nat) : Val := e3m5 (t.val 0 k)
  let fits (k : Nat) : Bool := !(val k).isZero && !((val k).mul (Val.ofInt 6)).lt m
  match (List.range 16).find? fits with
  | some k => k
  | none =>
    -- no entry is large enough: the largest, the lowest such index
    (List.range 16).foldl (fun b k => if (val b).lt (val k) then k else b) 0

/-- An SX4 block quantised: its table index and elements; all +0 with a table of zeros. -/
def quantSx4 (t : Tab Byte) (mode : Nat) (sat ftz : Bool) (vs : List (Val × Nat)) : Nat × List Nat :=
  let k := sx4Index t (blockMax (vs.map (·.1)))
  let s := e3m5 (t.val 0 k)
  if s.isZero then (0, vs.map (fun _ => 0))
  else (k, vs.map (fun (v, r) => if v.isNan then 0 else elemEnc 0x1B mode sat ftz r (v.div s)))

/-! ### The permute unit at issue (R341, R342) -/

/-- A block of n elements along extent0 from a handle's BASE, in the handle's layout (R226, R341). -/
def blockHandle (h : Handle) (n : Nat) : Handle := setHfld (setHfld (setHfld (setHfld h 64 16 n) 80 16 1) 96 16 1) 112 16 1

/-- A square of n × n elements at a handle's BASE: row i at BASE + i × STRIDE0 (R343). -/
def squareHandle (h : Handle) (n : Nat) : Handle := setHfld (setHfld (blockHandle h n) 80 16 n) 232 4 0

/-- Byte ranges with each one that begins where the one before it ends joined to that one. -/
def joinRuns : List (Nat × Nat) → List (Nat × Nat)
  | [] => []
  | (a, n) :: t => match joinRuns t with
    | (b, m) :: l => if b = a + n then (a, n + m) :: l else if b = a ∧ m ≤ n then (a, n) :: l else (a, n) :: (b, m) :: l
    | [] => [(a, n)]

/-- The side-plane bytes of the one block: the scale byte, or the index word and band entry (R341). -/
def blockSides (pl : List (Nat × Nat)) (h : Handle) : List (Nat × Nat) :=
  match sidePlanes pl h (hFmt h) with
  | [] => []
  | [a] => [(a.1, 1)]
  | a :: b :: _ => [(a.1, 4), (b.1, 2)]

/-- The bytes a block operand touches: its elements and its side-plane bytes. -/
def blockRanges (pl : List (Nat × Nat)) (h block : Handle) : List (Nat × Nat) :=
  joinRuns ((hCoords block).map (fun i => ((hAddr block (argBits h) i).1, (argBits h + 7) / 8))) ++ blockSides pl h

/-- What a check of the permute and scale units finds: nothing, a trap, a bundle that must stall (with banks to wake). -/
inductive UnitCheck where
  | fine
  | trap (s : State)
  | stall (s : State)

/-- The checks on ranges of the core's own slice: place, permission, older vector ranges, banks (R342, R345). -/
def sliceCheck (s : State) (c : Ctx) (rs : List (Nat × Nat × Acc)) : UnitCheck :=
  let w := s.whoTask c 1 false
  let core := c.anyCore
  let parts := rs.flatMap (fun r => (pieces r.1 r.2.1).map (fun p => (p.1, p.2, r.2.2)))
  let far := rs.findSome? (fun r => (outsideSlice core (r.1, r.2.1)).map (fun a => (a, r.2.2)))
  let bad := parts.findSome? fun (a, _, acc) => match translateSlice s w acc a with
    | .fail t l h => some (a, faultWord t l acc h false)
    | _ => none
  match far, bad with
  | some (a, acc), _ => .trap (s.raiseAt Cause.translation a (faultWord Tstat.addressRange 0 acc false false))
  | none, some (a, d) => .trap (s.raiseAt Cause.translation a d)
  | none, none =>
    if rs.any (fun r => (s.was c).vecBlocks c.ph.seq r.1 r.2.1 r.2.2.writes) then .stall s.stall
    else
      let asleep := parts.filter fun (a, _, _) => match (s.core core).banks.val .gated (bankOf (a % 2 ^ 23)) with
        | .drowsy => true
        | .waking _ => true
        | _ => false
      if asleep = [] then .fine
      else
        let s := s.stall
        .stall { s with issue := { s.issue with wakes := s.issue.wakes ++ asleep.map (fun p => (core, p.1 % 2 ^ 23)) } }

/-- The formats and shapes of one permute operation: those of D, those of A, elements in the block (0: as A says), whether it is a square,
the rounding code of one that rounds. -/
structure PrmForm where
  okD : List Nat
  okA : List Nat
  n : Nat
  square : Bool
  same : Bool
  rc : Option Nat

/-- The elements of a permute operation's block (R341). -/
def PrmForm.size (f : PrmForm) (a : Handle) : Nat := if f.n = 0 then (if isSx4 (hFmt a) then 64 else 32) else f.n

/-- Whether the formats or shapes of a permute operation's operands are wrong (R227, R341). -/
def prmFormatBad (f : PrmForm) (d a : Handle) : Bool :=
  !(f.okD.contains (hFmt d)) || !(f.okA.contains (hFmt a)) || formatBad d (hFmt d) HUse.plain || formatBad a (hFmt a) HUse.plain ||
    (f.same && decide (argBits d ≠ argBits a))

/-- A permute operation's result: the bytes it will write. -/
def prmStore (s : State) (id : Nat) (writes : List (Nat × Option Bool × Byte)) (seed : Option DWord) : State :=
  match s.ctx id with
  | none => s
  | some c =>
    let p : PrmPend := { seq := c.ph.seq, due := s.now + 3, writes := writes }
    let c : Ctx := { c with
      regs := match seed with
        | some x => { c.regs with rngp := x }
        | none => c.regs
      eng := { c.eng with prm := c.eng.prm ++ [p] }
      ph := { c.ph with seq := c.ph.seq + 1 } }
    (((s.setCtx id c).push 1 id .prmWrite).push 2 id .prmWrite).push 3 id .prmWrite

/-- Bytes with their addresses. -/
def addressed (a : Nat) (bs : List Byte) : List (Nat × Option Bool × Byte) := bs.zipIdx.map (fun (b, i) => (a + i, none, b))

/-- Two nibbles of one byte, the lower first, written as that byte. -/
def joinNibbles : List (Nat × Option Bool × Byte) → List (Nat × Option Bool × Byte)
  | (a, some false, x) :: (b, some true, y) :: t =>
    if a = b then (a, none, x + y * 16) :: joinNibbles t else (a, some false, x) :: (b, some true, y) :: joinNibbles t
  | p :: t => p :: joinNibbles t
  | [] => []

/-- The writes of a block's elements, each at its address (R226, R341). -/
def blockWrites (block : Handle) (bits : Nat) (vs : List Nat) : List (Nat × Option Bool × Byte) :=
  joinNibbles (((hCoords block).zip vs).flatMap fun (i, v) =>
    let (a, hi) := hAddr block bits i
    if bits = 4 then [(a, some hi, BitVec.ofNat 8 (v % 16))] else addressed a (leBytes (bits / 8) v))

/-- What a permute operation computes from its block: the raw elements and the bytes of A's planes in; the elements of D and the bytes of
its planes out, with the handles, the mode, FTZ and the draws. -/
abbrev PrmFun := Ctx → Handle → Handle → Nat → Bool → (Nat → Nat) → List Nat → List Byte → List Byte → List Nat × List (Nat × List Byte)

/-- A permute operation at issue: its checks, its reads in this cycle, its writes at the end of cycle t + 2 (R342). -/
def prmIssue (s : State) (hd ha : BitVec 5) (f : PrmForm) (go : List (Nat × Nat) → PrmFun) : Host.Outcome State Fault Refusal :=
  slotStep s fun id c =>
    let d := s.rh c hd
    let a := s.rh c ha
    let r := s.srcRegs c
    let pl := planeOf r d ++ planeOf r a
    let n := f.size a
    let blk (h : Handle) : Handle := if f.square then squareHandle h n else blockHandle h n
    let mode := match f.rc with
      | some rc => engineMode rc r.fpctl (argBits d)
      | none => some 0
    if prmFormatBad f d a || mode.isNone then s.raise Cause.formatInvalid 0
    else match bufferCheck c d (argBits d) HUse.plain, bufferCheck c a (argBits a) HUse.plain with
      | .buffer b, _ => s.raise Cause.bufferMode (BitVec.ofNat 64 b)
      | _, .buffer b => s.raise Cause.bufferMode (BitVec.ofNat 64 b)
      | _, _ =>
        let rs := (blockRanges pl a (blk a)).map (fun x => (x.1, x.2, Acc.read)) ++ (blockRanges pl d (blk d)).map (fun x => (x.1, x.2, Acc.write))
        if hEmpty d || hEmpty a then
          (if mode = some 4 then s.updCtx id (·.updRegs (fun r => { r with rngp := xorshift r.rngp })) else s)
        else if !c.ph.fences.isEmpty then s.stall
        else match sliceCheck s c rs with
          | .trap t => t
          | .stall t => t
          | .fine =>
            let w := s.whoTask c 1 false
            let env := s.envTask c
            let side (k : Nat) : Nat × Nat := ((blockSides pl a)[k]?).getD (0, 0)
            match readAll s w env (blk a) (argBits a) with
            | (s, .error e) => if e.ue then s.raise Cause.dataError 0 else s.stall
            | (s, .ok es) => match readBytes s w env (side 0).1 (side 0).2, readBytes s w env (side 1).1 (side 1).2 with
              | (_, .ok p1), (_, .ok p2) =>
                let m := mode.getD 0
                let seed := xorshift r.rngp
                let dr := (if m = 4 then draws n seed else []).toArray
                let (out, planes) := go pl c d a m (ftzOf r.fpctl) (fun i => (dr[i]?).getD 0) es p1 p2
                prmStore s id (blockWrites (blk d) (argBits d) out ++ planes.flatMap (fun p => addressed p.1 p.2)) (if m = 4 then some seed else none)
              | _, _ => s.raise Cause.dataError 0

/-- A permute operation that maps elements. -/
def prmMap (g : Handle → Handle → Nat → Bool → Nat → Nat → Nat) : List (Nat × Nat) → PrmFun :=
  fun _ _ d a m ftz dr es _ _ => (es.zipIdx.map (fun (x, i) => g d a m ftz (dr i) x), [])

/-- The plain formats of 8, 16 or 32 bits. -/
def moveFmts : List Nat := [0x00, 0x01, 0x02, 0x08, 0x09, 0x0A, 0x10, 0x11, 0x13]
/-- The narrow formats of PPACK and PUNPK. -/
def narrowFmts : List Nat := [0x10, 0x11, 0x12, 0x01]

/-- NOP in the PRM slot (R238). -/
def execNopPrm (s : State) : Host.Outcome State Fault Refusal := slotStep s fun _ _ => s

/-- PPACK: 32 floats to FP8, FP4 or INT8 (R343). -/
def execPpack (hd ha : BitVec 5) (rc : BitVec 3) (sat : Bool) (s : State) : Host.Outcome State Fault Refusal :=
  prmIssue s hd ha { okD := narrowFmts, okA := floatFmts, n := 32, square := false, same := false, rc := some rc.toNat }
    (prmMap fun d a m ftz r x => elemEnc (hFmt d) m sat ftz r (hVal a x))

/-- PUNPK: 32 narrow elements to floats, exactly (R343). -/
def execPunpk (hd ha : BitVec 5) (s : State) : Host.Outcome State Fault Refusal :=
  prmIssue s hd ha { okD := floatFmts, okA := narrowFmts, n := 32, square := false, same := false, rc := none }
    (prmMap fun d a _ ftz _ x => elemEnc (hFmt d) 0 false ftz 0 (hVal a x))

/-- PSCALE: 32 floats times 2^(s − 127) (R343). -/
def execPscale (hd ha : BitVec 5) (b : BitVec 6) (rc : BitVec 3) (s : State) : Host.Outcome State Fault Refusal :=
  prmIssue s hd ha { okD := floatFmts, okA := floatFmts, n := 32, square := false, same := false, rc := some rc.toNat } fun pl c d a m ftz dr es p q =>
    prmMap (fun d a m ftz r x => elemEnc (hFmt d) m false ftz r ((hVal a x).mul (e8m0 ((s.rs c b).setWidth 8)))) pl c d a m ftz dr es p q

/-- PQNT: 32 floats to one MX block, its scale given or chosen (R343, R190). -/
def execPqnt (hd ha : BitVec 5) (b : BitVec 6) (rc : BitVec 3) (sat : Bool) (s : State) : Host.Outcome State Fault Refusal :=
  prmIssue s hd ha { okD := [0x18, 0x19, 0x1A], okA := floatFmts, n := 32, square := false, same := false, rc := some rc.toNat } fun pl c d a m ftz dr es _ _ =>
    let vs := es.zipIdx.map (fun (x, i) => (hVal a x, dr i))
    let v := s.rs c b
    let (sc, out) := if bit v 8 then quantMx (hFmt d) m sat ftz vs else (fld v 0 8, mxElems (hFmt d) m sat ftz (fld v 0 8) vs)
    (out, [(plane1 pl d (argBits d), [BitVec.ofNat 8 sc])])

/-- PDQ: one MX block of 32, or one SX4 segment of 64, to floats (R343). -/
def execPdq (hd ha : BitVec 5) (rc : BitVec 3) (s : State) : Host.Outcome State Fault Refusal :=
  prmIssue s hd ha { okD := floatFmts, okA := [0x18, 0x19, 0x1A, 0x1B], n := 0, square := false, same := false, rc := some rc.toNat } fun _ c d a m ftz dr es p q =>
    let band := bf16.decode (leNat q)
    let val (i x : Nat) : Val :=
      if isSx4 (hFmt a) then
        let t := leNat p / 16 ^ (i / 8) % 16
        ((hVal a x).mul (e3m5 (c.eng.sx4.val 0 t))).mul band
      else (hVal a x).mul (e8m0 (p.getD 0 0))
    (es.zipIdx.map (fun (x, i) => elemEnc (hFmt d) m false ftz (dr i) (val i x)), [])

/-- PTRN: a square transposed (R343). -/
def execPtrn (hd ha : BitVec 5) (w32 : Bool) (s : State) : Host.Outcome State Fault Refusal :=
  let ok := moveFmts.filter (fun f => fmtBits f = some (if w32 then 32 else 16))
  let n := if w32 then 8 else 16
  prmIssue s hd ha { okD := ok, okA := ok, n := n, square := true, same := true, rc := none } fun _ _ _ _ _ _ _ es _ _ =>
    ((List.range (n * n)).map (fun k => es.getD (k % n * n + k / n) 0), [])

/-- PBCAST: A's first element to all 32 (R343). -/
def execPbcast (hd ha : BitVec 5) (s : State) : Host.Outcome State Fault Refusal :=
  prmIssue s hd ha { okD := moveFmts, okA := moveFmts, n := 32, square := false, same := true, rc := none } fun _ _ _ _ _ _ _ es _ _ =>
    (List.replicate 32 (es.getD 0 0), [])

/-- PPERM: 16 elements in the order s[b] gives (R343). -/
def execPperm (hd ha : BitVec 5) (b : BitVec 6) (s : State) : Host.Outcome State Fault Refusal :=
  prmIssue s hd ha { okD := moveFmts, okA := moveFmts, n := 16, square := false, same := true, rc := none } fun _ c _ _ _ _ _ es _ _ =>
    ((List.range 16).map (fun i => es.getD (fld (s.rs c b) (4 * i) 4) 0), [])

/-- One byte of a permute result, or one nibble of a byte that keeps the other, written at its virtual address. -/
def writePart (s : State) (w : Who) (env : Env) (a : Nat) (part : Option Bool) (b : Byte) : State :=
  match part with
  | none => (writeBytes s w env a [b]).1
  | some hi => match translate s w env .write a 1 with
    | (s, .ok p) => (homeEdit s w env p (fun old => if hi then old % 16 + b.toNat * 16 else old / 16 * 16 + b.toNat)).1
    | (s, _) => s

/-- Writes bytes at their virtual addresses. -/
def writeEach (w : Who) (env : Env) : List (Nat × Option Bool × Byte) → State → State
  | [], s => s
  | (a, p, b) :: t, s => writeEach w env t (writePart s w env a p b)

/-- PRM_WRITE: at the end of a cycle, a permute result that is due is written, in issue order; of one that is not, any byte may already be
the new one (R342). -/
def execPrmWrite (s : State) : Host.Outcome State Fault Refusal :=
  let id := s.subj
  match s.ctx id with
  | none => .next s
  | some c =>
    let w := s.whoTask c 1 false
    let env := s.envTask c
    let (n, s) := s.fresh
    let one (s : State) (p : PrmPend) : State :=
      if p.due ≤ s.now then writeEach w env p.writes s
      else writeEach w env ((p.writes.zipIdx.filter (fun x => Config.permuteEarly n x.2)).map (·.1)) s
    let s := c.eng.prm.foldl one s
    .next (s.updCtx id fun c => { c with eng := { c.eng with prm := c.eng.prm.filter (fun p => decide (s.now < p.due)) } })

/-! ### The scale unit (R344, R345) -/

/-- A scale operation writes at the end of cycle t + 3 (R246). -/
def sclStore (s : State) (id : Nat) (u : SclUpd) : State :=
  (s.updCtx id fun c => { c with eng := { c.eng with scl := c.eng.scl ++ [{ due := s.now + 4, upd := u }] } }).push 4 id .scaleWrite

/-- NOP in the SCL slot. -/
def execNopScl (s : State) : Host.Outcome State Fault Refusal := slotStep s fun _ _ => s

/-- SLDT: the SX4 table := 16 bytes at s[a] (R345). -/
def execSldt (a : BitVec 6) (s : State) : Host.Outcome State Fault Refusal :=
  slotStep s fun id c =>
    let ea := (s.rs c a).toNat
    if ea % 16 ≠ 0 then s.raise Cause.misaligned 0
    else match sliceCheck s c [(ea, 16, .read)] with
      | .trap t => t
      | .stall t => t
      | .fine => match readBytes s (s.whoTask c 1 false) (s.envTask c) ea 16 with
        | (s, .ok bs) => sclStore s id (.table bs)
        | (s, .error e) => if e.ue then s.raise Cause.dataError 0 else s.stall

/-- SLDB: the four band registers := s[a] (R345). -/
def execSldb (a : BitVec 6) (s : State) : Host.Outcome State Fault Refusal := slotStep s fun id c => sclStore s id (.bands (s.rs c a))
/-- SSETI: T[t] := byte (R345). -/
def execSseti (t : BitVec 4) (byte : BitVec 8) (s : State) : Host.Outcome State Fault Refusal :=
  slotStep s fun id _ => sclStore s id (.entry t.toNat byte)
/-- SMODE: BSRC := m (R345). -/
def execSmode (m : Bool) (s : State) : Host.Outcome State Fault Refusal := slotStep s fun id _ => sclStore s id (.mode m)

/-- What one scale write does. -/
def SclUpd.apply (e : Engines) : SclUpd → Engines
  | .table bs => { e with sx4 := tabOf 16 (fun k => bs.getD k 0) }
  | .entry t b => { e with sx4 := e.sx4.put 0 t b }
  | .bands v => { e with bands := tabOf 4 (fun k => BitVec.ofNat 16 (fld v (16 * k) 16)) }
  | .mode m => { e with bsrc := m }

/-- SCALE_WRITE: the scale operations that are due write, in issue order (R246, R345). -/
def execScaleWrite (s : State) : Host.Outcome State Fault Refusal :=
  .next (s.updCtx s.subj fun c =>
    let due := c.eng.scl.filter (fun p => decide (p.due ≤ s.now))
    let e := due.foldl (fun e p => p.upd.apply e) c.eng
    { c with eng := { e with scl := c.eng.scl.filter (fun p => decide (s.now < p.due)) } })

end Sys2Proof.Machine
end

