-- ==== Sys2Proof/Machine/Transfer.lean ====
section
/-! DEFINITION. The transfer slot at issue: commands (R346 to R351), POST (R376), XSTAT and XCAN (R354 to R356). -/

namespace Sys2Proof.Machine

/-! ### Issue -/

/-- The follow-on step a CPYM's control word describes (R349, R360). -/
def stepOf (ccw : DWord) : MmaForm :=
  { t := fld ccw 16 4, fp := fld ccw 32 4, fresh := bit ccw 52, ka := bit ccw 36, kb := bit ccw 37, row0 := fld ccw 38 7, col0 := fld ccw 45 7,
    za := 0, zb := 0 }

/-- The precise checks of a drain, of DRAINK and of RMERGE at issue: ACC-IN-FLIGHT before TILE-MODE (R351, R364). -/
def tileChecks (s : State) (c : Ctx) (f : XForm) : Option State :=
  let mode (t : Nat) : Bool := descRanked (c.eng.tissue.val 0 t)
  let fly (t : Nat) : Option State := if c.inFlight t then some (s.raise Cause.accInFlight (BitVec.ofNat 64 t)) else none
  let wrong (b : Bool) (t : Nat) : Option State := if b then some (s.raise Cause.tileMode (BitVec.ofNat 64 t)) else none
  match f.kind with
  | .drain => fly f.a
  | .drainkSel => (fly f.a).orElse fun _ => wrong (mode f.a) f.a
  | .drainkMerge => (fly f.a).orElse fun _ => (fly f.d).orElse fun _ => (wrong (mode f.a) f.a).orElse fun _ =>
      wrong (!mode f.d || decide (f.a = f.d)) f.d
  | .rmergeCx => (fly f.a).orElse fun _ => wrong (!mode f.a) f.a
  | .rmergeSw => (fly f.a).orElse fun _ => wrong (!mode f.a) f.a
  | _ => none

/-- The precise checks of a CPYM's step: the fields, R311, and that the step reads what the copy writes (R349, R360). -/
def cpymChecks (s : State) (c : Ctx) (k : Cmd) : Option State :=
  let m := stepOf k.ccw
  let b := hBuf k.hd
  let e := c.buf b
  let reads := (if hBuf k.hx = b then [m.ka] else []) ++ (if hBuf k.hy = b then [m.kb] else [])
  if bit k.ccw 25 || bit k.ccw 31 || decide (10 ≤ m.fp) then some (s.raise Cause.formatInvalid 0)
  else match matrixCheck s c m k.hx k.hy k.planes with
    | some t => some t
    | none =>
      if b = 0 ∨ reads = [] ∨ (e.mode = 3 ∧ (reads.any (fun keeps => keeps) = true ∨ e.assigned ≠ e.claimed)) then
        some (s.raise Cause.bufferMode (BitVec.ofNat 64 b))
      else none

/-- The stream operation of a command (R310, R360, R364, R370). -/
def joinStream (s : State) (id : Nat) (k : Cmd) (seq : Nat) : State :=
  let m := stepOf k.ccw
  let f := k.form
  match f.kind with
  | .cpym => enterStream s id k.instr k.hx k.hy k.planes k.ccw (mmaRings m k.hx k.hy) [m.t] (some seq)
  | .drainkMerge => enterStream s id k.instr 0 0 [] k.ccw [] [f.d] (some seq)
  | .rmergeSw => enterStream s id k.instr 0 0 [] k.ccw [] [f.a] (some seq)
  | _ => s

/-- An issue that a phase run again absorbs: the tag moves on, the reissued command stands for it, its stream operation joins its batch; a
slot word that is not the logged one ends the task (R408). -/
def absorbIssue (s : State) (id : Nat) (c : Ctx) (k : Cmd) : State :=
  match c.byTag c.xf.tagNext with
  | none => s.fatal id Cause.notRestartable 0
  | some old =>
    if old.word ≠ k.word then s.fatal id Cause.notRestartable 0
    else
      let s := s.updCtx id fun c => { c with
        regs := if k.draws then { c.regs with rngx := k.seed } else c.regs
        xf := { c.xf with tagNext := (c.xf.tagNext + 1) % 2 ^ 16, lastId := old.id } }
      if old.kind = k.kind then joinStream s id k old.seq else s

/-- A command at issue (R350, R351). -/
def xfrIssue (s : State) (i : Instr) : Host.Outcome State Fault Refusal :=
  slotStep s fun id c =>
    match Instr.xform i with
    | none => s
    | some f =>
      let k := newCmd s c (c.freeEntry.getD 0) i f (s.rs c f.cc)
      if (f.kind.inStream && c.streamFull) || decide (128 ≤ c.xfCount) then s.stall
      else if c.absorbs then absorbIssue s id c k
      else if c.freeEntry.isNone then s.stall
      else match tileChecks s c f with
        | some t => t
        | none => match (if f.kind = .cpym then cpymChecks s c k else none) with
          | some t => t
          | none =>
            let s := (fileCmd s id c k).updCtx id fun c => { c with xf := { c.xf with lastId := k.id } }
            joinStream s id k k.seq

/-- NOP in the XFR slot (R238). -/
def execNopXfr (s : State) : Host.Outcome State Fault Refusal := slotStep s fun _ _ => s
/-- CPY: the elements of A, in order, to D (R357). -/
def execCpy (hd ha : BitVec 5) (c : BitVec 6) (sc : BitVec 3) (ct : BitVec 2) (tgt : BitVec 16) (s : State) : Host.Outcome State Fault Refusal :=
  xfrIssue s (.cpy hd ha c sc ct tgt)
/-- CPYM: CPY with a follow-on matrix step (R360). -/
def execCpym (hd ha : BitVec 5) (c : BitVec 6) (sc : BitVec 3) (ct : BitVec 2) (tgt : BitVec 16) (s : State) : Host.Outcome State Fault Refusal :=
  xfrIssue s (.cpym hd ha c sc ct tgt)
/-- CPYS: CPY with 2:4 expansion (R358). -/
def execCpys (hd ha : BitVec 5) (c : BitVec 6) (sc : BitVec 3) (ct : BitVec 2) (tgt : BitVec 16) (s : State) : Host.Outcome State Fault Refusal :=
  xfrIssue s (.cpys hd ha c sc ct tgt)
/-- GATH: rows of A chosen by H3 to the rows of D (R359). -/
def execGath (hd ha : BitVec 5) (c : BitVec 6) (sc : BitVec 3) (ct : BitVec 2) (tgt : BitVec 16) (s : State) : Host.Outcome State Fault Refusal :=
  xfrIssue s (.gath hd ha c sc ct tgt)
/-- SCAT: the rows of A to rows of D chosen by H3 (R359). -/
def execScat (hd ha : BitVec 5) (c : BitVec 6) (sc : BitVec 3) (ct : BitVec 2) (tgt : BitVec 16) (s : State) : Host.Outcome State Fault Refusal :=
  xfrIssue s (.scat hd ha c sc ct tgt)
/-- DRAIN: a rectangle of a sum-mode tile, or rows of a ranked one, to D (R361, R362). -/
def execDrain (hd : BitVec 5) (t : BitVec 4) (c : BitVec 6) (sc : BitVec 3) (ct : BitVec 2) (tgt : BitVec 16) (s : State) : Host.Outcome State Fault Refusal :=
  xfrIssue s (.drain hd t c sc ct tgt)
/-- DRAINK.sel: the best of each row of a sum-mode tile to D (R363). -/
def execDrainkSel (hd : BitVec 5) (t : BitVec 4) (c : BitVec 6) (sc : BitVec 3) (ct : BitVec 2) (tgt : BitVec 16) (s : State) : Host.Outcome State Fault Refusal :=
  xfrIssue s (.drainkSel hd t c sc ct tgt)
/-- DRAINK.merge: the same selection into ranked tile u (R364). -/
def execDrainkMerge (u t : BitVec 4) (c : BitVec 6) (sc : BitVec 3) (s : State) : Host.Outcome State Fault Refusal :=
  xfrIssue s (.drainkMerge u t c sc)
/-- RST: the bytes of A to window space (R365). -/
def execRst (hd ha : BitVec 5) (c : BitVec 6) (sc : BitVec 3) (ct : BitVec 2) (tgt : BitVec 16) (s : State) : Host.Outcome State Fault Refusal :=
  xfrIssue s (.rst hd ha c sc ct tgt)
/-- RLD: bytes of window space to D (R365). -/
def execRld (hd ha : BitVec 5) (c : BitVec 6) (sc : BitVec 3) (ct : BitVec 2) (tgt : BitVec 16) (s : State) : Host.Outcome State Fault Refusal :=
  xfrIssue s (.rld hd ha c sc ct tgt)
/-- RAMO: one remote atomic (R366). -/
def execRamo (hd ha : BitVec 5) (c : BitVec 6) (sc : BitVec 3) (ct : BitVec 2) (tgt : BitVec 16) (s : State) : Host.Outcome State Fault Refusal :=
  xfrIssue s (.ramo hd ha c sc ct tgt)
/-- RRED: one contribution to a reduction (R367, R368). -/
def execRred (hd ha : BitVec 5) (c : BitVec 6) (sc : BitVec 3) (ct : BitVec 2) (tgt : BitVec 16) (s : State) : Host.Outcome State Fault Refusal :=
  xfrIssue s (.rred hd ha c sc ct tgt)
/-- RMCAST: the bytes of A to every member of a group (R371). -/
def execRmcast (hd ha : BitVec 5) (c : BitVec 6) (sc : BitVec 3) (ct : BitVec 2) (tgt : BitVec 16) (s : State) : Host.Outcome State Fault Refusal :=
  xfrIssue s (.rmcast hd ha c sc ct tgt)
/-- RMERGE.cx: rows of a ranked tile into row images in a slice of the cluster (R369). -/
def execRmergeCx (hd : BitVec 5) (t : BitVec 4) (c : BitVec 6) (sc : BitVec 3) (ct : BitVec 2) (tgt : BitVec 16) (s : State) : Host.Outcome State Fault Refusal :=
  xfrIssue s (.rmergeCx hd t c sc ct tgt)
/-- RMERGE.sw: rows of a ranked tile as contributions (R370). -/
def execRmergeSw (hd : BitVec 5) (t : BitVec 4) (c : BitVec 6) (sc : BitVec 3) (s : State) : Host.Outcome State Fault Refusal :=
  xfrIssue s (.rmergeSw hd t c sc)
/-- CNTX: counts exchanged among a group (R372). -/
def execCntx (hd ha : BitVec 5) (c : BitVec 6) (sc : BitVec 3) (ct : BitVec 2) (tgt : BitVec 16) (s : State) : Host.Outcome State Fault Refusal :=
  xfrIssue s (.cntx hd ha c sc ct tgt)
/-- DISP: token rows to expert buffers by a route list (R373, R374). -/
def execDisp (hd ha : BitVec 5) (c : BitVec 6) (sc : BitVec 3) (ct : BitVec 2) (tgt : BitVec 16) (s : State) : Host.Outcome State Fault Refusal :=
  xfrIssue s (.disp hd ha c sc ct tgt)
/-- POST: the record at s[a] is attached to barrier n when the command starts (R376). -/
def execPost (n : BitVec 8) (a : BitVec 6) (s : State) : Host.Outcome State Fault Refusal := xfrIssue s (.post n a)

/-! ### Fired records (R377) -/

/-- A check that an issue of a record's command fails: of tiles, of a CPYM's step. No bundle waits for it, so it ends in a record of the XFR slot
(DESIGN CHOICE, notes/assumptions/24). -/
def firedCheck (s : State) (c : Ctx) (f : XForm) (k : Cmd) : Option Trap :=
  ((tileChecks s c f).orElse fun _ => if f.kind = .cpym then cpymChecks s c k else none).bind (·.issue.trap)

/-- The first fired record becomes a command; with no free entry it waits, and those behind it wait (R377). -/
def issueFiredOne (s : State) (id : Nat) : State :=
  match s.ctx id with
  | none => s
  | some c =>
    if c.loc ≠ .engine ∧ c.coreNo = none then s
    else match c.xf.fired, c.freeEntry with
      | p :: rest, some e =>
        if decide (128 ≤ c.xfCount) || c.streamFull then s
        else
          let go (s : State) : State := s.updCtx id fun c => { c with xf := { c.xf with fired := rest } }
          match readRecord s (s.whoTask c 1 false) (s.envTask c) p.bytes with
          | (s, .bad) => engineFail (go s) id 7 p.pc Cause.commandFormat 0 0 false
          | (s, .stop x) => match x.fault with
            | some (cause, a, d) => engineFail (go s) id 7 p.pc cause a d false
            | none => if x.ue then engineFail (go s) id 7 p.pc Cause.dataError x.va 0 false else s
          | (s, .cmd i ccw word ext hd ha h3) =>
            let s := go s
            match s.ctx id with
            | none => s
            | some c =>
              let f := (Instr.xform i).getD ⟨.post, 0, 0, 0, 0, 0, 0⟩
              let k := recordCmd s c e i f ccw p.pc word ext hd ha h3
              match firedCheck s c f k with
              | some t => engineFail s id 7 p.pc t.cause t.addr t.detail false
              | none =>
                let issue := s.issue
                let s := joinStream { fileCmd s id c k with issue := { Issue.idle with word := BitVec.ofNat 64 (word * 2 ^ 32 + ext) } } id k k.seq
                let at_ (m : MOp) : MOp := if m.cmd = some k.seq then { m with pc := p.pc } else m
                { s.updCtx id fun c => { c with eng := { c.eng with ms := c.eng.ms.map at_ } } with issue := issue }
      | _, _ => s

/-- Fired records become commands while entries are free (R377). -/
def issueFired (s : State) (id : Nat) : State := (List.range 16).foldl (fun s _ => issueFiredOne s id) s

/-! ### Status (R354, R355) -/

/-- STATE of a command (R354). -/
def CmdSt.code : CmdSt → Nat
  | .issued => 1
  | .running => 1
  | .done => 2
  | .faulted => 3

/-- The status word of a command (R354). -/
def Cmd.status (k : Cmd) : DWord :=
  let cause := if k.st = .faulted ∨ k.st = .done then k.cause else 0
  BitVec.ofNat 64 (k.st.code * 2 ^ 62 + cause * 2 ^ 48 + fld k.cword 0 48)

/-- The command that the entry and tag of an id word name: in its entry, or reissued and waiting for one (R350, R354). -/
def Ctx.byId (c : Ctx) (v : DWord) : Option Cmd :=
  (c.xf.log ++ c.xf.again).find? (fun k => decide (k.id = fld v 0 24))

/-- The status word for an id; 0 when its entry holds another tag or nothing. -/
def Ctx.statusOf (c : Ctx) (v : DWord) : DWord := (c.byId v).elim 0 Cmd.status

/-- XSTAT.id: s[d] := the status word of the command with id s[a] (R355). -/
def execXstatId (d a : BitVec 6) (s : State) : Host.Outcome State Fault Refusal :=
  slotStep s fun id c => s.wrS id d (c.statusOf (s.rs c a))

/-- XSTAT.last: s[d] := the id of the youngest command issued in an older bundle, 0 when there is none (R355). -/
def execXstatLast (d _a : BitVec 6) (s : State) : Host.Outcome State Fault Refusal :=
  slotStep s fun id c => s.wrS id d (BitVec.ofNat 64 (s.was c).xf.lastId)

/-! ### XCAN (R356) -/

/-- A faulted command runs again from its log entry, at the first access not performed; its failed transactions are sent again, but one
that may have been performed is not, and a command that reported INDETERMINATE is not replayed at all (R356). -/
def replayCmd (s : State) (id : Nat) (k : Cmd) : State :=
  let unsure (d : DWord) : Bool := cstatOf d = Cstat.indeterminate || cstatOf d = Cstat.partial'
  if k.st ≠ .faulted ∨ (k.cause = Cause.remote ∧ cstatOf k.cword = Cstat.indeterminate) then s
  else
    let go (k : Cmd) : Cmd :=
      { k with st := if k.begun then .running else .issued, cause := 0, detail := 0, addr := 0, cword := 0,
               todo := k.todo ++ (k.failed.filter (fun f => !unsure f.detail)).map (·.order),
               failed := k.failed.filter (fun f => unsure f.detail), ended := false, sent := !(k.kind.remoteWrite && k.form.sc ≠ 7) }
    wake (s.updCmd id k.entry go) id

/-- Acts on the command with id s[a] and answers with its status word after the action. -/
def xcanOne (s : State) (d a : BitVec 6) (act : State → Nat → Cmd → State) : Host.Outcome State Fault Refusal :=
  slotStep s fun id c =>
    let v := s.rs c a
    let s := match c.byId v with
      | some k => act s id k
      | none => s
    s.wrS id d ((s.ctx id).elim 0 (fun c => c.statusOf v))

/-- Whether a command is RUNNING or FAULTED. -/
def Cmd.cancellable (k : Cmd) : Bool := k.st ≠ .done

/-- A command is cancelled: in its entry, or, reissued and without one yet, where it waits. -/
def cancelOne (s : State) (id : Nat) (k : Cmd) : State :=
  match s.ctx id with
  | none => s
  | some c =>
    if c.xf.again.any (fun x => decide (x.seq = k.seq)) then
      s.setCtx id { c with
        xf := { c.xf with again := c.xf.again.filter (fun x => decide (x.seq ≠ k.seq)) },
        eng := { c.eng with ms := c.eng.ms.map (fun m => if m.cmd = some k.seq then { m with cancelled := true } else m) } }
    else cancelCmd s id k.entry

/-- XCAN.cancel (R356). -/
def execXcanCancel (d a : BitVec 6) (s : State) : Host.Outcome State Fault Refusal :=
  xcanOne s d a fun s id k =>
    if !k.cancellable then s else cancelOne s id k

/-- XCAN.replay (R356). -/
def execXcanReplay (d a : BitVec 6) (s : State) : Host.Outcome State Fault Refusal := xcanOne s d a replayCmd

/-- XCAN.all: every RUNNING and FAULTED command is cancelled; s[d] := how many (R356). -/
def execXcanAll (d : BitVec 6) (s : State) : Host.Outcome State Fault Refusal :=
  slotStep s fun id c =>
    let live := (c.xf.log ++ c.xf.again).filter Cmd.cancellable
    let s := live.foldl (fun s k => cancelOne s id k) s
    s.wrS id d (BitVec.ofNat 64 (Nat.min live.length 160))

end Sys2Proof.Machine
end

