-- ==== Sys2Proof/Machine/Copies.lean ====
section
/-! DEFINITION. The local commands of the transfer engine: their start checks (R349, R351, R352) and the work they do one access at a time:
copies (R357 to R359, R60 to R63), drains (R361 to R363, R188 to R191), ranked merges inside a cluster (R369). -/

namespace Sys2Proof.Machine

/-! ### A command under way -/

/-- What performs a command's accesses: the context, the command, the requester, and D as a ring's slot places it (R54). -/
structure Run where
  id : Nat
  c : Ctx
  k : Cmd
  w : Who
  env : Env
  hd : Handle

/-- What one access of a command comes to: it is done (the state, and bits written); nothing is left; it cannot be made yet; it stopped; the
command fails. -/
inductive Did where
  | ok (s : State) (bits : Nat)
  | none
  | later
  | stop (s : State) (e : Stop)
  | bad (cause addr : Nat) (detail : DWord)

/-- A command as its engine runs it. -/
def State.run (s : State) (id : Nat) (c : Ctx) (k : Cmd) : Run :=
  { id := id, c := c, k := k, w := s.whoTask c 1 false, env := s.envTask c, hd := ringHandle c k.hd k.ringSlot }

/-- The first piece of a range in window space, which local operands do not reach (R352). -/
def windowPiece (va n : Nat) : Option Nat := ((pieces va n).find? (fun p => decide (spaceOf p.1 = 2))).map (·.1)

/-- The stop of an access that a VEC operation holds up, or that reaches window space. -/
def Run.held (r : Run) (va n : Nat) (acc : Acc) : Option Stop :=
  match windowPiece va n with
  | some a => some { va := a, res := .fail Tstat.addressRange 0 false, acc := acc }
  | none => if r.c.vecBlocks r.k.seq va n acc.writes then some { va := va, res := .wait, acc := acc } else none

/-- Bytes read for a command (R327, R352). -/
def Run.read (r : Run) (s : State) (va n : Nat) : State × Except Stop (List Byte) :=
  match r.held va n .read with
  | some e => (s, .error e)
  | none => readBytes s r.w r.env va n

/-- Bytes written for a command. -/
def Run.write (r : Run) (s : State) (va : Nat) (bs : List Byte) : State × Except Stop Unit :=
  match r.held va bs.length .write with
  | some e => (s, .error e)
  | none => writeBytes s r.w r.env va bs

/-- An element read. -/
def Run.readEl (r : Run) (s : State) (h : Handle) (bits : Nat) (i : Nat × Nat × Nat × Nat) : State × Except Stop Nat :=
  match r.held (hAddr h bits i).1 ((bits + 7) / 8) .read with
  | some e => (s, .error e)
  | none => readElem s r.w r.env h bits i

/-- An element written, as the end of one access. -/
def Run.writeEl (r : Run) (s : State) (h : Handle) (bits : Nat) (i : Nat × Nat × Nat × Nat) (v : Nat) : Did :=
  match r.held (hAddr h bits i).1 ((bits + 7) / 8) .write with
  | some e => .stop s e
  | none => match writeElem s r.w r.env h bits i v with
    | (s, .ok ()) => .ok s bits
    | (s, .error e) => .stop s e

/-- Bytes written, as the end of one access. -/
def Run.put (r : Run) (s : State) (va : Nat) (bs : List Byte) : Did :=
  match r.write s va bs with
  | (s, .ok ()) => .ok s (8 * bs.length)
  | (s, .error e) => .stop s e

/-! ### Start checks -/

/-- How a start check ends: the command runs, with what it has read; it describes nothing and completes at once (R227); it fails; a record it
reads could not be read. -/
inductive Begin where
  | go (s : State) (k : Cmd)
  | empty
  | bad (cause addr : Nat) (detail : DWord)
  | stop (s : State) (e : Stop)

/-- The bits of a control word that a command uses (R349). -/
def XKind.ccwMask : XKind → Nat
  | .cpy | .cpys => 0x3F
  | .gath | .scat => 0x3F + 0x3F * 2 ^ 56
  | .cpym => 0x3F + 2 ^ 53 - 2 ^ 16
  | .drain => 0x3FFFFF - 2 ^ 7 + 0xFFF * 2 ^ 32 + 0x7F * 2 ^ 56
  | .drainkSel => 2 ^ 61 - 1
  | .drainkMerge => 2 ^ 60 - 1
  | .ramo => 0x1F + 0x3F * 2 ^ 56
  | .rred => 0x3F * 2 ^ 56
  | .rmergeCx => 0x7F7F
  | .rmergeSw => 0x7F7F + 0x3F * 2 ^ 56
  | .cntx => 0x3F
  | .disp => 2 ^ 38 - 1 + 0x3F * 2 ^ 56
  | .rst | .rld | .rmcast => 0
  | .post => 2 ^ 64 - 1

/-- Whether the control word names a rounding code. -/
def XKind.rounds : XKind → Bool
  | .cpy | .cpym | .cpys | .gath | .scat | .drain => true
  | _ => false

/-- BAND, QNT, INT and AMX of a drain (R349). -/
def Cmd.band (k : Cmd) : Bool := bit k.ccw 4
def Cmd.qnt (k : Cmd) : Bool := bit k.ccw 5
def Cmd.int (k : Cmd) : Bool := bit k.ccw 6
def Cmd.amx (k : Cmd) : Bool := bit k.ccw 62
/-- row0 and col0 of a drain. -/
def Cmd.row0 (k : Cmd) : Nat := if k.kind = .drain then fld k.ccw 8 7 else if k.kind = .rmergeCx ∨ k.kind = .rmergeSw then fld k.ccw 0 7 else fld k.ccw 32 7
def Cmd.col0 (k : Cmd) : Nat := if k.kind = .drain then fld k.ccw 15 7 else fld k.ccw 39 7
/-- M and N of DRAINK. -/
def Cmd.selM (k : Cmd) : Nat := fld k.ccw 46 7 + 1
def Cmd.selN (k : Cmd) : Nat := fld k.ccw 53 7 + 1

/-- Whether the control word breaks R349, or the combinations R361, R362 and R370 forbid: COMMAND-FORMAT. -/
def Cmd.ccwBad (k : Cmd) : Bool :=
  let d := k.kind = .drain
  let rc := fld k.ccw 0 3
  (k.ccw &&& ~~~(BitVec.ofNat 64 k.kind.ccwMask) != 0)
    || (k.kind.rounds && (decide (6 ≤ rc) || decide (rc = 4 ∧ 16 < k.destBits)))
    || (k.kind.h3 k.ccw && bit k.ccw 61)
    || (d && k.band && !k.bsrc && (bit k.ccw 37 || bit k.ccw 43))
    || (d && k.int && (k.band || k.qnt))
    || (d && descRanked k.tdesc && (decide (k.col0 ≠ 0) || k.band || k.qnt || k.int || k.amx))
    || ((decide (k.kind = .rmergeCx) || decide (k.kind = .rmergeSw)) && decide (128 < k.row0 + k.count))

/-- A failed check as cause, address, detail. -/
abbrev Bad := Option (Nat × Nat × DWord)

/-- A condition that must hold. -/
def need (b : Bool) (cause : Nat) : Bad := if b then none else some (cause, 0, 0)

/-- The checks of a handle at use: R50, R164, R172, R227 (R351). -/
def handleBad (c : Ctx) (h : Handle) (fmt : Nat) (use : HUse) : Bad :=
  match handleCheck c h fmt use with
  | .fine => none
  | .format => some (Cause.formatInvalid, 0, 0)
  | .buffer b => some (Cause.bufferMode, 0, BitVec.ofNat 64 b)

/-- A local operand in window space (R352). -/
def localBad (h : Handle) (acc : Acc) : Bad :=
  if spaceOf (hBase h) = 2 then some (Cause.translation, hBase h, faultWord Tstat.addressRange 0 acc false false) else none

/-- The first failure of a list of checks. -/
def firstBad (l : List Bad) : Bad := l.findSome? (fun b => b)

/-- The plain formats (R357, R361). -/
def plainFmts : List Nat := [0x01, 0x02, 0x03, 0x08, 0x09, 0x0A, 0x10, 0x11, 0x12]
/-- Whether a format has side planes. -/
def isBlock (f : Nat) : Bool := isMx f || isSx4 f

/-- The format A takes: its own, or D's for code 0 (R357). -/
def Cmd.srcFmt (k : Cmd) : Nat := if hFmt k.ha = 0 then hFmt k.hd else hFmt k.ha
/-- The width of A's elements. -/
def Cmd.srcBits (k : Cmd) : Nat := (fmtBits k.srcFmt).getD 8

/-- The extents of a handle. -/
def hShape (h : Handle) : Nat × Nat × Nat × Nat := (hExt h 0, hExt h 1, hExt h 2, hExt h 3)

/-- The bytes a fill reaches from the first byte of a ring slot upward. Of a fill whose negative strides reach below that byte the manual says
nothing: it is checked against the slot's end alone and writes where its strides lead (DESIGN CHOICE, notes/assumptions/22). -/
def fillBytes (h : Handle) (fmt : Nat) : Nat :=
  Nat.max (slotSides h fmt) (hRange h ((fmtBits fmt).getD 8)).2.toNat

/-- The shape rules of copies and of row moves (R357 to R360), and RING-OVERRUN (R54). -/
def copyShape (c : Ctx) (k : Cmd) : Bad :=
  let d := k.hd
  let a := k.ha
  let conv := bit k.ccw 4
  let trn := bit k.ccw 5
  let block := isBlock k.destFmt || isBlock k.srcFmt
  let rows := decide (k.kind = .gath) || decide (k.kind = .scat)
  let sizes := if conv then plainFmts.contains (hFmt d) && plainFmts.contains (hFmt a) else decide (k.destBits = k.srcBits)
  let b := hBuf d
  firstBad [
    need (!trn || rows || decide (k.destBits = 16) || decide (k.destBits = 32)) Cause.fillFormat,
    need (sizes && (!block || (!conv && !trn && !rows && decide (hFmt d = hFmt a) && decide (hShape d = hShape a)))
      && (rows || decide (hCount d = hCount a))
      && (!trn || (!rows && decide (hExt d 0 = hExt a 1 ∧ hExt d 1 = hExt a 0 ∧ hExt d 2 = hExt a 2 ∧ hExt d 3 = hExt a 3)))
      && (decide (k.kind ≠ .cpys) || decide (hLayout a = 3 ∧ hExt d 0 = hExt a 0))
      && (!rows || (decide (hExt d 0 = hExt a 0) && decide (hCount k.h3 = hRows (if k.kind = .gath then d else a))))) Cause.formatInvalid,
    if hRing d && decide ((c.buf b).tile * 64 < fillBytes d k.destFmt) then some (Cause.ringOverrun, 0, BitVec.ofNat 64 b) else none]

/-- The format a copy checks a handle in: with CONV = 0 and a partner of code 0 the copy is one of untyped bytes, and a reserved code is not
interpreted (R164, R357). -/
def Cmd.copyFmt (k : Cmd) (h partner : Handle) (f : Nat) : Nat :=
  if !bit k.ccw 4 && decide (hFmt partner = 0 ∨ hFmt h = 0) && (fmtBits f).isNone then 0 else f

/-- The start of a copy or a row move. -/
def copyBegin (s : State) (c : Ctx) (k : Cmd) : Begin :=
  let rows := decide (k.kind = .gath) || decide (k.kind = .scat)
  let first := firstBad [
    need (!k.ccwBad) Cause.commandFormat,
    handleBad c k.hd (k.copyFmt k.hd k.ha k.destFmt) { sparse := false, ring := k.kind.fills },
    handleBad c k.ha (k.copyFmt k.ha k.hd k.srcFmt) { sparse := decide (k.kind = .cpys), ring := false },
    if rows then firstBad [need (hFmt k.h3 = 0 || hFmt k.h3 = 2) Cause.formatInvalid, handleBad c k.h3 2 HUse.plain, localBad k.h3 .read] else none,
    localBad k.hd .write, localBad k.ha .read]
  match first with
  | some (e, a, d) => .bad e a d
  | none =>
    if hEmpty k.hd || hEmpty k.ha || (rows && hEmpty k.h3) then .empty
    else match copyShape c k with
      | some (e, a, d) => .bad e a d
      | none => .go s k

/-- The start of a drain (R361, R362). -/
def drainBegin (s : State) (c : Ctx) (k : Cmd) : Begin :=
  let f := k.destFmt
  let ranked := descRanked k.tdesc
  let planes (h : Handle) : Bad := firstBad [handleBad c h (hFmt h) HUse.plain, need (hBands h) Cause.formatInvalid, localBad h .read]
  let first := firstBad [
    need (!k.ccwBad) Cause.commandFormat,
    need (!(k.qnt && decide (hFmt k.hd = 0))) Cause.formatInvalid,
    handleBad c k.hd f HUse.plain,
    if k.band && !k.bsrc then firstBad [planes k.hx, planes k.hy] else none,
    if k.amx then firstBad [need (hFmt k.h3 = 0 || hFmt k.h3 = 8) Cause.formatInvalid, handleBad c k.h3 8 HUse.plain, localBad k.h3 .atomic] else none,
    localBad k.hd .write]
  let shape := decide (hExt k.hd 2 = 1 ∧ hExt k.hd 3 = 1 ∧ k.row0 + hExt k.hd 1 ≤ 128) &&
    (if ranked then decide (f = 0x20 ∧ hExt k.hd 0 = 64)
     else decide (k.col0 + hExt k.hd 0 ≤ 128) && (if k.qnt then isBlock f else plainFmts.contains f))
  match first with
  | some (e, a, d) => .bad e a d
  | none => if hEmpty k.hd || (k.amx && hEmpty k.h3) then .empty else if shape then .go s k else .bad Cause.formatInvalid 0 0

/-- The start of DRAINK.sel (R363). -/
def selBegin (s : State) (c : Ctx) (k : Cmd) : Begin :=
  let first := firstBad [need (!k.ccwBad) Cause.commandFormat, need (k.destFmt = 0x20) Cause.formatInvalid, handleBad c k.hd 0x20 HUse.plain,
    localBad k.hd .write]
  let n := hExt k.hd 0
  let shape := decide (hExt k.hd 2 = 1 ∧ hExt k.hd 3 = 1 ∧ n ≤ 32 ∧ hExt k.hd 1 = k.selM ∧ k.row0 + k.selM ≤ 128 ∧ k.col0 + k.selN ≤ 128)
  match first with
  | some (e, a, d) => .bad e a d
  | none => if hEmpty k.hd then .empty else if shape then .go s k else .bad Cause.formatInvalid 0 0

/-- The start of DRAINK.merge: its control word and rectangle (R364). -/
def mergeBegin (s : State) (k : Cmd) : Begin :=
  if k.ccwBad then .bad Cause.commandFormat 0 0
  else if k.row0 + k.selM ≤ 128 ∧ k.col0 + k.selN ≤ 128 then .go s k else .bad Cause.formatInvalid 0 0

/-- The start of RMERGE.cx (R369): the images lie in one slice of the issuing core's cluster. -/
def mergeCxBegin (s : State) (c : Ctx) (k : Cmd) : Begin :=
  let first := firstBad [need (!k.ccwBad) Cause.commandFormat, need (k.destFmt = 0x20) Cause.formatInvalid, handleBad c k.hd 0x20 HUse.plain,
    localBad k.hd .atomic]
  let core (a : Nat) : Nat := a / 2 ^ 23 % 512
  let inSlice (a : Nat) : Bool := decide (spaceOf a = 1 ∧ core a = core (hBase k.hd) ∧ clusterOf (core a) = clusterOf c.anyCore)
  let (lo, hi) := hRange k.hd 64
  let ends := [wrap 56 (hBase k.hd + lo), wrap 56 (hBase k.hd + hi - 1)]
  match first with
  | some (e, a, d) => .bad e a d
  | none =>
    if hEmpty k.hd then .empty
    else if hExt k.hd 0 ≠ 64 ∨ hRows k.hd ≠ k.count ∨ hLayout k.hd ≠ 0 then .bad Cause.formatInvalid 0 0
    else match ends.find? (fun a => !inSlice a) with
      | some a => .bad Cause.translation a (faultWord Tstat.addressRange 0 .atomic false false)
      | none => .go s k

/-! ### Copies -/

/-- One element converted between plain formats under RC and SAT (R62, R176 to R181). -/
def convertElem (fa fd mode : Nat) (sat ftz : Bool) (draw x : Nat) : Nat :=
  match intOf fa, intOf fd with
  | some na, some nd => wrap nd (narrowInt nd sat (signed na x))
  | _, _ => elemEnc fd mode sat ftz draw (elemVal fa x)

/-- What a copy makes of source element x, as output element i. -/
def Cmd.made (k : Cmd) (i x : Nat) : Nat :=
  if bit k.ccw 4 then convertElem k.srcFmt k.destFmt k.mode (bit k.ccw 3) k.ftz (if k.draws then drawOf k.seed i else 0) x else x

/-- The flat index of coordinates in a handle. -/
def hFlat (h : Handle) (i : Nat × Nat × Nat × Nat) : Nat :=
  i.1 + hExt h 0 * (i.2.1 + hExt h 1 * (i.2.2.1 + hExt h 2 * i.2.2.2))

/-- The two innermost coordinates exchanged (R63). -/
def swapCoord (i : Nat × Nat × Nat × Nat) : Nat × Nat × Nat × Nat := (i.2.1, i.1, i.2.2.1, i.2.2.2)

/-- The pairs of side-plane bytes of a block-format copy, source and destination (R357). -/
def sidePairs (r : Run) : List (Nat × Nat) :=
  let f := r.k.destFmt
  ((sidePlanes r.k.planes r.k.ha f).zip (sidePlanes r.k.planes r.hd f)).flatMap fun p =>
    (List.range (Nat.min p.1.2 p.2.2)).map (fun i => (p.1.1 + i, p.2.1 + i))

/-- The expanded source element at dense coordinates (R61): its bits, or the failure of its group. -/
def expandedElem (r : Run) (s : State) (i : Nat × Nat × Nat × Nat) : State × Except (Option Stop) Nat :=
  let a := r.k.ha
  let row := hFlat a i / hExt a 0
  let g := i.1 / 4
  -- four bits of metadata a group: positions of stored elements 2g and 2g + 1
  let byte := r.k.metaBase r.k.srcBits + row * ((hExt a 0 + 31) / 32) * 4 + g / 2
  match r.read s byte 1 with
  | (s, .error e) => (s, .error (some e))
  | (s, .ok bs) =>
    let m := leNat bs / 16 ^ (g % 2)
    let p0 := m % 4
    let p1 := m / 4 % 4
    if p1 ≤ p0 then (s, .error none)
    else if i.1 % 4 ≠ p0 ∧ i.1 % 4 ≠ p1 then (s, .ok 0)
    else
      let stored := 2 * g + (if i.1 % 4 = p1 then 1 else 0)
      match r.readEl s (setHfld a 232 4 0) r.k.srcBits (stored, i.2) with
      | (s, .ok v) => (s, .ok v)
      | (s, .error e) => (s, .error (some e))

/-- One access of CPY, CPYM or CPYS: an element, then, in block formats, a byte of a side plane (R357, R358). -/
def copyUnit (r : Run) (s : State) : Did :=
  let k := r.k
  let n := hCount k.hd
  let trn := bit k.ccw 5
  if k.pos < n then
    if k.kind = .cpys then
      let i := hCoord k.ha k.pos
      let o := if trn then swapCoord i else hCoord k.hd k.pos
      match expandedElem r s i with
      | (s, .ok x) => r.writeEl s r.hd k.destBits o (k.made (hFlat k.hd o) x)
      | (s, .error (some e)) => .stop s e
      | (_, .error none) => .bad Cause.fillFormat 0 0
    else
      let o := hCoord k.hd k.pos
      let i := if trn then swapCoord o else hCoord k.ha k.pos
      match r.readEl s k.ha k.srcBits i with
      | (s, .ok x) => r.writeEl s r.hd k.destBits o (k.made k.pos x)
      | (s, .error e) => .stop s e
  else if isBlock k.destFmt = false then .none
  else match (sidePairs r)[k.pos - n]? with
    | none => .none
    | some (src, dst) => match r.read s src 1 with
      | (s, .ok bs) => r.put s dst bs
      | (s, .error e) => .stop s e

/-- The index of a row, read once for the row (R359). -/
def rowIndex (r : Run) (s : State) (row : Nat) : State × Except Stop Int :=
  match r.k.got.find? (·.1 = row) with
  | some (_, bs) => (s, .ok (signed 32 (leNat bs)))
  | none => match r.readEl s r.k.h3 32 (hCoord r.k.h3 row) with
    | (s, .ok x) => (s.updCmd r.id r.k.entry fun k => { k with got := [(row, leBytes 4 x)] }, .ok (signed 32 x))
    | (s, .error e) => (s, .error e)

/-- One access of GATH or SCAT (R359). -/
def rowUnit (r : Run) (s : State) : Did :=
  let k := r.k
  let gath := decide (k.kind = .gath)
  let own := if gath then k.hd else k.ha
  let other := if gath then k.ha else k.hd
  if hCount own ≤ k.pos then .none
  else
    let n := hExt own 0
    let row := k.pos / n
    match rowIndex r s row with
    | (s, .error e) => .stop s e
    | (s, .ok x) =>
      let hit := decide (0 ≤ x ∧ x < hRows other)
      let there := hCoord other (x.toNat * n + k.pos % n)
      if gath then
        if !hit then r.writeEl s r.hd k.destBits (hCoord k.hd k.pos) 0
        else match r.readEl s k.ha k.srcBits there with
          | (s, .ok v) => r.writeEl s r.hd k.destBits (hCoord k.hd k.pos) (k.made k.pos v)
          | (s, .error e) => .stop s e
      else if !hit then .ok s 0
      else match r.readEl s k.ha k.srcBits (hCoord k.ha k.pos) with
        | (s, .ok v) => r.writeEl s r.hd k.destBits there (k.made (hFlat k.hd there) v)
        | (s, .error e) => .stop s e

/-! ### Drains -/

/-- A word of the captured tile. -/
def Cmd.cell (k : Cmd) (i j : Nat) : Word := k.tile.val 0 (tileWord k.form.a i j)

/-- Entry n of a band plane, or the captured band registers (R189, R361). -/
def bandEntry (r : Run) (s : State) (isB : Bool) (n : Nat) : State × Except Stop Val :=
  if r.k.bsrc then (s, .ok (bf16.decode (r.k.bands.val 0 ((if isB then 2 else 0) + n)).toNat))
  else
    let h := if isB then r.k.hy else r.k.hx
    match r.read s (plane2 r.k.planes h + 2 * n) 2 with
    | (s, .ok bs) => (s, .ok (bf16.decode (leNat bs)))
    | (s, .error e) => (s, .error e)

/-- v of a tile element before it is converted (R188, R189). -/
def drainVal (r : Run) (s : State) (i j : Nat) : State × Except Stop Val :=
  let k := r.k
  let w := k.cell (k.row0 + i) (k.col0 + j)
  let c := if k.int then Val.ofInt w.toInt else fp32.decode w.toNat
  if k.band then
    match bandEntry r s false ((k.row0 + i) / 64) with
    | (s, .error e) => (s, .error e)
    | (s, .ok a) => match bandEntry r s true ((k.col0 + j) / 64) with
      | (s, .error e) => (s, .error e)
      | (s, .ok b) => (s, .ok (c.mul (fp32.decode (round32 false (a.mul b)))))
  else (s, .ok c)

/-- The values of successive elements of row i from column j. -/
def drainVals (r : Run) (i : Nat) : List Nat → State → State × Except Stop (List Val)
  | [], s => (s, .ok [])
  | j :: t, s => match drainVal r s i j with
    | (s, .error e) => (s, .error e)
    | (s, .ok v) => match drainVals r i t s with
      | (s, .ok l) => (s, .ok (v :: l))
      | (s, .error e) => (s, .error e)

/-- A block of a quantising drain: its scale or table index, and its elements (R190). -/
def drainBlock (r : Run) (s : State) (i b : Nat) : State × Except Stop (Nat × List Nat) :=
  let k := r.k
  let n := if isSx4 k.destFmt then 8 else 32
  match drainVals r i (span (b * n) n) s with
  | (s, .error e) => (s, .error e)
  | (s, .ok vs) =>
    let d := hExt k.hd 0
    let vr := vs.zipIdx.map (fun (v, x) => (v, if k.draws then drawOf k.seed (i * d + b * n + x) else 0))
    (s, .ok (if isSx4 k.destFmt then quantSx4 k.sx4 k.mode (bit k.ccw 3) k.ftz vr else quantMx k.destFmt k.mode (bit k.ccw 3) k.ftz vr))

/-- The index word of 64-element segment g of row i (R172). -/
def drainIndexWord (r : Run) (i g : Nat) : List Nat → State → State × Except Stop Nat
  | [], s => (s, .ok 0)
  | b :: t, s => match drainBlock r s i (g * 8 + b) with
    | (s, .error e) => (s, .error e)
    | (s, .ok (x, _)) => match drainIndexWord r i g t s with
      | (s, .ok w) => (s, .ok (w + x * 16 ^ b))
      | (s, .error e) => (s, .error e)

/-- The largest |v| of the rectangle, NaN winning (R167, R191). -/
def drainMax (r : Run) (s : State) : State × Except Stop Val :=
  let row (acc : State × Except Stop Val) (i : Nat) : State × Except Stop Val :=
    match acc with
    | (s, .ok m) => match drainVals r i (List.range (hExt r.k.hd 0)) s with
      | (s, .ok vs) => (s, .ok (vs.foldl (fun m v => Val.minMax true m v.abs) m))
      | (s, .error e) => (s, .error e)
    | e => e
  (List.range (hExt r.k.hd 1)).foldl row (s, .ok Val.zero)

/-- What the AMOFMAX of a drain waits for, as an atomic of the drain's scope: the older covered commands and the lines of older PHASEs, and at pod
scope a release (R191, R99). A detached drain's waits for nothing (R79). -/
def drainOrder (r : Run) (s : State) : Did :=
  let sc := r.k.form.sc
  if sc = 7 then .ok s 0
  else if Ctx.lateWithin s r.c sc || (Ctx.olderOps s r.c sc).any (fun q => decide (q < r.k.seq)) then .later
  else if sc = 4 then
    match beginRelease s r.id r.k.seq with
    | some (s, e) => .ok (s.updCmd r.id r.k.entry fun k => { k with rel := some e }) 0
    | none => .later
  else .ok s 0

/-- The AMOFMAX that ends a drain (R191): at its home, on the FP32 word at H3.BASE. -/
def drainAmax (r : Run) (s : State) : Did :=
  let a := hBase r.k.h3
  if !(r.k.rel.elim true r.c.relDone) then .later else
  match r.held a 4 .atomic with
  | some e => .stop s e
  | none => match drainMax r s with
    | (s, .error e) => .stop s e
    | (s, .ok m) =>
      let op := fp32.encode 0 false false 0 m
      match translate s r.w r.env .atomic a 4 with
      | (s, .ok p) => match homeAtomic s r.w r.env p 4 (fun old => amoValue 0xA 32 r.k.ftz old op 0) with
        | (s, .ok _) => .ok s 0
        | (s, x) => .stop s { va := a, res := x.unit, acc := .atomic }
      | (s, x) => .stop s { va := a, res := x.unit, acc := .atomic }

/-- One access of a DRAIN: an element; then the scale bytes, or index words and band entries; then the AMOFMAX (R361). -/
def drainUnit (r : Run) (s : State) : Did :=
  let k := r.k
  let f := k.destFmt
  let d := hExt k.hd 0
  let m := hExt k.hd 1
  let n := d * m
  let i := k.pos / d
  let j := k.pos % d
  let segs := d / 64
  let side := if isMx f then m * (d / 32) else if isSx4 f then m * segs + (m + 63) / 64 else 0
  if descRanked k.tdesc then
    -- 64 pairs of 8 bytes a row, in the layout of R67
    if k.pos < n then
      let w (x : Nat) : Nat := (k.cell (k.row0 + i) x).toNat
      r.writeEl s k.hd 64 (j, i, 0, 0) (w (2 * j) + w (2 * j + 1) * 2 ^ 32)
    else .none
  else if k.pos < n then
    if k.qnt then
      let b := if isSx4 f then 8 else 32
      match drainBlock r s i (j / b) with
      | (s, .ok (_, es)) => r.writeEl s k.hd k.destBits (j, i, 0, 0) (es.getD (j % b) 0)
      | (s, .error e) => .stop s e
    else if hFmt k.hd = 0 ∧ k.band = false then r.writeEl s k.hd 32 (j, i, 0, 0) (k.cell (k.row0 + i) (k.col0 + j)).toNat
    else match drainVal r s i j with
      | (s, .ok v) =>
        let draw := if k.draws then drawOf k.seed k.pos else 0
        let x := match k.int, intOf f with
          | true, some b => wrap b (narrowInt b (bit k.ccw 3) (k.cell (k.row0 + i) (k.col0 + j)).toInt)
          | _, _ => elemEnc f k.mode (bit k.ccw 3) k.ftz draw v
        r.writeEl s k.hd k.destBits (j, i, 0, 0) x
      | (s, .error e) => .stop s e
  else if k.pos < n + side then
    let x := k.pos - n
    if isMx f then
      match drainBlock r s (x / (d / 32)) (x % (d / 32)) with
      | (s, .ok (sc, _)) => r.put s (plane1 k.planes k.hd k.destBits + x) (leBytes 1 sc)
      | (s, .error e) => .stop s e
    else if x < m * segs then
      match drainIndexWord r (x / segs) (x % segs) (List.range 8) s with
      | (s, .ok w) => r.put s (plane1 k.planes k.hd 4 + 4 * x) (leBytes 4 w)
      | (s, .error e) => .stop s e
    else r.put s (plane2 k.planes k.hd + 2 * (x - m * segs)) (leBytes 2 0x3F80)
  else if k.amx ∧ k.pos = n + side then drainOrder r s
  else if k.amx ∧ k.pos = n + side + 1 then drainAmax r s
  else .none

/-- The selection of one tile row: the best pairs of columns col0 to col0 + N − 1 (R363). -/
def Cmd.select (k : Cmd) (n : Nat) (dir : Bool) (cell : Nat → Word) : List (Word × Word) :=
  rankInsertAll n dir [] ((List.range k.selN).map (fun j => (cell (k.col0 + j), BitVec.ofNat 32 (fld k.ccw 0 32 + k.col0 + j))))

/-- One access of DRAINK.sel: one pair (R363). -/
def selUnit (r : Run) (s : State) : Did :=
  let k := r.k
  let n := hExt k.hd 0
  if hCount k.hd ≤ k.pos then .none
  else
    let i := k.pos / n
    let l := k.select n (bit k.ccw 60) (k.cell (k.row0 + i))
    let p := (l[k.pos % n]?).getD (0x7FC00000, 0xFFFFFFFF)
    r.writeEl s k.hd 64 (k.pos % n, i, 0, 0) (p.1.toNat + p.2.toNat * 2 ^ 32)

/-! ### RMERGE.cx (R369) -/

/-- The eight lines of a row image, read where a write of them would land, and written back whole. -/
def imageLines (r : Run) (s : State) (va : Nat) : State × Except Stop (List (Nat × Place × List Byte)) :=
  (pieces va 512).foldl (fun acc p => match acc with
    | (s, .error e) => (s, .error e)
    | (s, .ok l) => match translate s r.w r.env .atomic p.1 p.2 with
      | (s, .ok pl) => match pl with
        | .slice core off =>
          match s.halfOff core off .atomic, s.servedAt core off with
          | some o, .slice c =>
            let (s, a) := sliceRead s c o p.2
            (match a with
            | .ok bs => (s, .ok (l ++ [(p.1, pl, bs)]))
            | x => (s, .error { va := p.1, res := x.res.unit, acc := .atomic }))
          | some o, .image base _ world =>
            let (s, a) := hbmRead s { r.w with world := world } ((base + 0x200000 + o) / 64)
            (match a with
            | .ok bs => (s, .ok (l ++ [(p.1, pl, (bs.drop ((base + o) % 64)).take p.2)]))
            | x => (s, .error { va := p.1, res := x.res.unit, acc := .atomic }))
          | some _, .later => (s, .error { va := p.1, res := .wait, acc := .atomic })
          | none, _ => (s, .error { va := p.1, res := .fail Tstat.slicePermission 0 false, acc := .atomic })
        | _ => (s, .error { va := p.1, res := .fail Tstat.addressRange 0 false, acc := .atomic })
      | (s, x) => (s, .error { va := p.1, res := x.unit, acc := .atomic })) (s, .ok [])

/-- The lines of a row image written. -/
def writeLines (r : Run) (s : State) (l : List (Nat × Place × List Byte)) (bs : List Byte) : State × Except Stop Unit :=
  let go (acc : (State × Except Stop Unit) × List Byte) (p : Nat × Place × List Byte) : (State × Except Stop Unit) × List Byte :=
    match acc with
    | ((s, .ok ()), bs) => match homeWriteRun s r.w r.env p.2.1 (bs.take p.2.2.length) with
      | (s, .ok ()) => ((s, .ok ()), bs.drop p.2.2.length)
      | (s, x) => ((s, .error { va := p.1, res := x, acc := .atomic }), bs)
    | e => e
  (l.foldl go ((s, .ok ()), bs)).1

/-- One row merged into its image, as one indivisible operation (R369). -/
def mergeCxUnit (r : Run) (s : State) : Did :=
  let k := r.k
  if k.count ≤ k.pos then .none
  else
    let va := (hAddr k.hd 64 (hCoord k.hd (64 * k.pos))).1
    match r.held va 512 .atomic with
    | some e => .stop s e
    | none => match imageLines r s va with
      | (s, .error e) => .stop s e
      | (s, .ok l) =>
        let bs := (l.map (·.2.2)).flatten
        let word (j : Nat) : Word := BitVec.ofNat 32 (leNat ((bs.drop (4 * j)).take 4))
        let n := descK k.tdesc
        let row := rankInsertAll n (descDir k.tdesc) ((pairsOf word).take n) (pairsOf (k.cell (k.row0 + k.pos)))
        match writeLines r s l ((List.range 128).flatMap (fun j => leBytes 4 (pairWords row j).toNat)) with
        | (s, .ok ()) => .ok s 4096
        | (s, .error e) => .stop s e

/-! ### POST (R376) -/

/-- A POST attaches its record, read at its home; a barrier holds 16 records, a context 256. -/
def postUnit (r : Run) (s : State) : Did :=
  let k := r.k
  let n := k.form.d
  let a := k.ccw.toNat
  if 0 < k.pos then .none
  else if a % 64 ≠ 0 then .bad Cause.commandFormat 0 0
  else if 16 ≤ (r.c.bar n).posted ∨ 256 ≤ r.c.xf.posted.length then .bad Cause.barrierState 0 (BitVec.ofNat 64 n)
  else match r.read s a 64 with
    | (s, .error e) => .stop s e
    | (s, .ok bs) =>
      let p : Posted := { bar := n, pc := k.pc, phase := k.phase, bytes := bs }
      .ok (s.updCtx r.id fun c =>
        let c := c.setBar n { c.bar n with posted := (c.bar n).posted + 1 }
        { c with xf := { c.xf with posted := c.xf.posted ++ [p] } }) 0

end Sys2Proof.Machine
end

