-- ==== Sys2Proof/Machine/Deliveries.lean ====
section
/-! DEFINITION. The remote commands of the transfer engine: their start checks and the transactions they send (R108, R365 to R374). -/

namespace Sys2Proof.Machine

/-! ### Bytes of an operand in element order -/

/-- Whether the elements of a handle follow one another in memory without a gap (R365). -/
def isContig (h : Handle) (bits : Nat) : Bool :=
  (List.range (hCount h)).all fun j =>
    hAddr h bits (hCoord h j) == (wrap 56 (hBase h + elemBytes bits j), decide (bits = 4) && decide (j % 2 = 1))

/-- Byte b of the elements of a handle. -/
def Run.streamByte (r : Run) (h : Handle) (bits b : Nat) (s : State) : State × Except Stop Byte :=
  if bits = 4 then
    match r.readEl s h 4 (hCoord h (2 * b)) with
    | (s, .error e) => (s, .error e)
    | (s, .ok lo) =>
      if hCount h ≤ 2 * b + 1 then (s, .ok (BitVec.ofNat 8 lo))
      else match r.readEl s h 4 (hCoord h (2 * b + 1)) with
        | (s, .error e) => (s, .error e)
        | (s, .ok hi) => (s, .ok (BitVec.ofNat 8 (lo + 16 * hi)))
  else
    let n := bits / 8
    match r.read s ((hAddr h bits (hCoord h (b / n))).1 + b % n) 1 with
    | (s, .error e) => (s, .error e)
    | (s, .ok bs) => (s, .ok (bs.getD 0 0))

/-- Some bytes of the elements of a handle. -/
def Run.stream (r : Run) (h : Handle) (bits : Nat) : List Nat → State → State × Except Stop (List Byte)
  | [], s => (s, .ok [])
  | b :: t, s => match r.streamByte h bits b s with
    | (s, .error e) => (s, .error e)
    | (s, .ok x) => match r.stream h bits t s with
      | (s, .ok xs) => (s, .ok (x :: xs))
      | (s, .error e) => (s, .error e)

/-! ### Windows and transactions -/

/-- What the source check of a window-space access gives (R33). -/
structure Win where
  target : Nat
  job : Nat
  rank : Nat
  entry : DWord

/-- The access kind a failed window check reports. -/
def WinKind.acc : WinKind → Acc
  | .load => .read
  | .store => .write
  | .multicast => .write
  | .atomic => .atomic

/-- The source check of n bytes at an address. -/
def Run.window (r : Run) (s : State) (kind : WinKind) (va n : Nat) : State × Except Stop Win :=
  match translateWindow s r.w r.env kind va n with
  | (s, .ok (.remote job rank target entry)) => (s, .ok { target := target, job := job, rank := rank, entry := entry })
  | (s, x) => (s, .error { va := va, res := x.unit, acc := kind.acc })

/-- Transaction j of `total` bytes: its offset and length, split at 256-byte boundaries of the target (R108). -/
def txnPiece (target total j : Nat) : Option (Nat × Nat) :=
  let first := Nat.min total (256 - target % 256)
  if j = 0 then (if total = 0 then none else some (0, first))
  else
    let at_ := first + (j - 1) * 256
    if at_ < total then some (at_, Nat.min 256 (total - at_)) else none

/-- Transaction j of a range, with its own source check; none past the last. -/
def Run.piece (r : Run) (s : State) (kind : WinKind) (base total j : Nat) : State × Except Stop (Option (Nat × Nat × Win)) :=
  match r.window s kind base 1 with
  | (s, .error e) => (s, .error e)
  | (s, .ok w0) => match txnPiece w0.target total j with
    | none => (s, .ok none)
    | some (off, n) => match r.window s kind (base + off) n with
      | (s, .ok w) => (s, .ok (some (off, n, w)))
      | (s, .error e) => (s, .error e)

/-- Whether the command's writes are counted by releases: remote writes that are not detached (R101). -/
def Cmd.counts (k : Cmd) : Bool := k.kind.remoteWrite && decide (k.form.sc ≠ 7)

/-- Sends a transaction of the command, its place in address order and its source address given. -/
def Run.send (r : Run) (s : State) (order va : Nat) (w : Win) (t : Txn) : State :=
  (submit s (.cmd r.id r.k.seq order va) (some r.id) w.job w.rank r.c.anyCore (fld w.entry 28 4) (fld w.entry 24 4) r.k.counts t).1

/-- BARV and BARRIER of a write transaction (R347, R134). -/
def Cmd.barBits (k : Cmd) : Nat := if k.form.ct = 3 then 2 ^ 32 + k.form.tgt * 2 ^ 16 else 0

/-- The base of a window operand: one outside window space fails at the start (R365). -/
def winBad (h : Handle) (kind : WinKind) : Bad :=
  if spaceOf (hBase h) ≠ 2 then some (Cause.translation, hBase h, faultWord Tstat.addressRange 0 kind.acc false false) else none

/-- The n × esize bytes of a window operand lie in one window (R365). A command that reads or writes just these bytes finds it at the transaction
that leaves the window, which leaves its SIZE (R33); any other at its start. -/
def winSpanBad (h : Handle) (bits : Nat) (kind : WinKind) : Bad :=
  let base := hBase h
  if base % 2 ^ 48 + streamBytes h ((fmtBits (hFmt h)).elim bits (fun b => if hFmt h = 0 then bits else b)) ≤ 2 ^ 48 then winBad h kind
  else (winBad h kind).orElse fun _ => some (Cause.translation, base / 2 ^ 48 * 2 ^ 48 + 2 ^ 48, faultWord Tstat.windowBounds 0 kind.acc false false)

/-- A handle of which a command uses only BASE (R227). -/
def baseBad (c : Ctx) (h : Handle) : Bad := handleBad c h (hFmt h) HUse.plain

/-! ### RST, RLD and RMCAST (R365, R371) -/

/-- The local operand and the window operand of a command. -/
def Cmd.localH (k : Cmd) : Handle := if k.kind = .rld then k.hd else k.ha
def Cmd.winH (k : Cmd) : Handle := if k.kind = .rld then k.ha else k.hd
/-- The local format: its own, or the window operand's for code 0 (R365). -/
def Cmd.moveFmt (k : Cmd) : Nat := if hFmt k.localH = 0 then hFmt k.winH else hFmt k.localH
def Cmd.moveBits (k : Cmd) : Nat := (fmtBits k.moveFmt).getD 8
/-- The bytes RST, RLD or RMCAST moves. -/
def Cmd.moveBytes (k : Cmd) : Nat := streamBytes k.localH k.moveBits

/-- The kind of window access a move makes. -/
def Cmd.moveKind (k : Cmd) : WinKind :=
  match k.kind with
  | .rld => .load
  | .rmcast => .multicast
  | _ => .store

/-- The checks RST, RLD and RMCAST share. -/
def moveBad (c : Ctx) (k : Cmd) : Bad :=
  let f := k.moveFmt
  firstBad [
    need (!k.ccwBad) Cause.commandFormat,
    need (decide (hFmt k.winH = 0) || decide (hFmt k.winH = f)) Cause.formatInvalid,
    handleBad c k.localH f HUse.plain, handleBad c k.winH f HUse.plain,
    localBad k.localH (if k.kind = .rld then .write else .read)]

/-- The start of RST or RLD (R365). -/
def moveBegin (s : State) (c : Ctx) (k : Cmd) : Begin :=
  match moveBad c k with
  | some (e, a, d) => .bad e a d
  | none =>
    if hEmpty k.localH || hEmpty k.winH then .empty
    else match firstBad [need (decide (hCount k.localH = hCount k.winH) && isContig k.localH k.moveBits) Cause.formatInvalid,
        winBad k.winH k.moveKind] with
      | some (e, a, d) => .bad e a d
      | none => .go s k

/-- Transaction j of a RST (R365). -/
def rstSend (r : Run) (s : State) (j : Nat) : Did :=
  let k := r.k
  match r.piece s .store (hBase k.winH) k.moveBytes j with
  | (s, .error e) => .stop s e
  | (_, .ok none) => .none
  | (s, .ok (some (off, n, w))) => match r.stream k.localH k.moveBits (span off n) s with
    | (s, .error e) => .stop s e
    | (s, .ok bs) => .ok (r.send s j (hBase k.winH + off) w (reqTxn Op.wrreq w.entry w.target n k.barBits 0 bs)) 0

/-- Transaction j of a RLD. -/
def rldSend (r : Run) (s : State) (j : Nat) : Did :=
  let k := r.k
  match r.piece s .load (hBase k.winH) k.moveBytes j with
  | (s, .error e) => .stop s e
  | (_, .ok none) => .none
  | (s, .ok (some (off, n, w))) => .ok (r.send s j (hBase k.winH + off) w (reqTxn Op.rdreq w.entry w.target n 0 0 [])) 0

/-- The data of transaction j of a RLD written at D. -/
def rldWrite (r : Run) (s : State) (j : Nat) (bs : List Byte) : Did :=
  match r.piece s .load (hBase r.k.winH) r.k.moveBytes j with
  | (s, .error e) => .stop s e
  | (s, .ok none) => .ok s 0
  | (s, .ok (some (off, n, _))) => r.put s (hBase r.k.localH + off) (bs.take n)

/-! ### Groups (R161, R162) -/

/-- The members of a replication entry, as (slot, rank), and NMEM; none when the entry matches nothing. -/
def groupMembers (e : List DWord) : Option (Nat × List (Nat × Nat)) :=
  let n := fld (e.getD 0 0) 27 7
  let slot (m : Nat) : Nat := fld (e.getD (2 + m / 4) 0) (m % 4 * 16) 16
  let valid := (List.range 64).filter (fun m => decide (slot m / 2 ^ 15 = 1))
  let ranks := valid.map (fun m => slot m % 4096)
  if 64 < n ∨ valid.any (fun m => decide (n ≤ m)) = true ∨ decide ranks.Nodup = false then none
  else some (n, valid.map (fun m => (m, slot m % 4096)))

/-- The valid replication entry of a job slot and group. -/
def State.group (s : State) (job group : Nat) : Option (Nat × List (Nat × Nat)) :=
  s.mid.repl.findSome? fun (_, e) =>
    let d := e.getD 0 0
    if bit d 0 && decide (fld d 46 6 = job ∧ fld d 34 12 = group) then groupMembers e else none

/-- The members a command keeps, and what it keeps of them. -/
def memberPlan (l : List (Nat × Nat)) : List (List DWord) := l.map fun p => [BitVec.ofNat 64 p.1, BitVec.ofNat 64 p.2]
def planSlot (p : List DWord) : Nat := (p.getD 0 0).toNat
def planRank (p : List DWord) : Nat := (p.getD 1 0).toNat

/-- The failure of a multicast whose group no entry describes (R162), or whose counts do not match (R372). -/
def groupBad (va : Nat) (w : DWord) : Begin := .bad Cause.remote va w

/-- The start of RMCAST (R371). -/
def mcastBegin (r : Run) (s : State) : Begin :=
  let k := r.k
  match moveBad r.c k with
  | some (e, a, d) => .bad e a d
  | none =>
    if hEmpty k.ha || hEmpty k.hd then .empty
    else match winSpanBad k.hd k.moveBits .multicast with
      | some (e, a, d) => .bad e a d
      | none => match r.window s .multicast (hBase k.hd) 1 with
        | (s, .error e) => .stop s e
        | (s, .ok w) => match s.group w.job w.rank with
          | none => groupBad (hBase k.hd) (cword w.rank Cstat.fault (faultWord Tstat.rankInvalid 0 .write false false))
          | some (_, []) => .empty
          | some (_, l) => .go s { k with plan := memberPlan l }

/-- One leg of a multicast: piece j to a member; its place puts the member's slot before the piece. -/
def Run.leg (r : Run) (s : State) (p : List DWord) (j va : Nat) (w : Win) (bs : List Byte) : State :=
  r.send s (planSlot p * 2 ^ 40 + j) va { w with rank := planRank p } (reqTxn Op.mcastreq w.entry w.target bs.length r.k.barBits 0 bs)

/-- Piece j of a RMCAST, read once, to some members. -/
def mcastSend (r : Run) (s : State) (j : Nat) (dests : List (List DWord)) : Did :=
  let k := r.k
  match r.piece s .multicast (hBase k.hd) k.moveBytes j with
  | (s, .error e) => .stop s e
  | (_, .ok none) => .none
  | (s, .ok (some (off, n, w))) => match r.stream k.ha k.moveBits (span off n) s with
    | (s, .error e) => .stop s e
    | (s, .ok bs) => .ok (dests.foldl (fun s p => r.leg s p j (hBase k.hd + off) w bs) s) 0

/-! ### CNTX (R372) -/

/-- Where a CNTX's legs go: W's address for the sender's slot. -/
def Cmd.cntxVa (k : Cmd) : Nat := hBase k.hd + 4 * fld k.ccw 0 6

/-- The start of CNTX. -/
def cntxBegin (r : Run) (s : State) : Begin :=
  let k := r.k
  let first := firstBad [need (!k.ccwBad) Cause.commandFormat, need (hFmt k.ha = 0 || hFmt k.ha = 2) Cause.formatInvalid,
    need (hFmt k.hd = 0 || hFmt k.hd = 2) Cause.formatInvalid, handleBad r.c k.ha 2 HUse.plain, handleBad r.c k.hd 2 HUse.plain,
    localBad k.ha .read]
  match first with
  | some (e, a, d) => .bad e a d
  | none =>
    if hEmpty k.ha || hEmpty k.hd then .empty
    else match winSpanBad k.hd 32 .multicast with
      | some (e, a, d) => .bad e a d
      | none => match r.window s .multicast k.cntxVa 4 with
        | (s, .error e) => .stop s e
        | (s, .ok w) => match s.group w.job w.rank with
          | none => groupBad k.cntxVa (cword w.rank Cstat.fault (faultWord Tstat.rankInvalid 0 .write false false))
          | some (n, l) =>
            if hCount k.ha ≠ n then groupBad k.cntxVa (cword w.rank Cstat.protocol 0)
            else .go s { k with plan := memberPlan l }

/-- One leg of a CNTX: element m to the member in slot m. -/
def cntxSend (r : Run) (s : State) (p : List DWord) : Did :=
  let k := r.k
  match r.window s .multicast k.cntxVa 4 with
  | (s, .error e) => .stop s e
  | (s, .ok w) => match r.readEl s k.ha 32 (hCoord k.ha (planSlot p)) with
    | (s, .error e) => .stop s e
    | (s, .ok v) => .ok (r.leg s p 0 k.cntxVa w (leBytes 4 v)) 0

/-! ### RAMO (R366) -/

/-- The start of RAMO. -/
def ramoBegin (s : State) (c : Ctx) (k : Cmd) : Begin :=
  let same := decide (hFmt k.hd = 0 ∨ hFmt k.ha = 0 ∨ hFmt k.hd = hFmt k.ha)
  let first := firstBad [need (!k.ccwBad) Cause.commandFormat, need same Cause.formatInvalid, baseBad c k.hd, baseBad c k.ha, baseBad c k.h3, localBad k.hd .write,
    localBad k.h3 .read]
  match first with
  | some (e, a, d) => .bad e a d
  | none =>
    if hEmpty k.hd || hEmpty k.ha || hEmpty k.h3 then .empty
    else match winSpanBad k.ha 8 .atomic with
      | some (e, a, d) => .bad e a d
      | none => .go s k

/-- The request of a RAMO. -/
def ramoSend (r : Run) (s : State) : Did :=
  let k := r.k
  let dw := bit k.ccw 4
  match r.read s (hBase k.h3) 16 with
  | (s, .error e) => .stop s e
  | (s, .ok bs) => match r.window s .atomic (hBase k.ha) (if dw then 8 else 4) with
    | (s, .error e) => .stop s e
    | (s, .ok w) => .ok (r.send s 0 (hBase k.ha) w (amoTxn (fld k.ccw 0 4) dw k.ftz (dwordAt bs 0) (dwordAt bs 1) w.target w.entry)) 0

/-- The old value of a RAMO written at D. -/
def ramoWrite (r : Run) (s : State) (bs : List Byte) : Did :=
  r.put s (hBase r.k.hd) (leBytes 8 (leNat (bs.take (if bit r.k.ccw 4 then 8 else 4))))

/-! ### RRED and RMERGE.sw (R367, R368, R370) -/

/-- RID and DESTC of the record (R143). -/
def Cmd.rid (k : Cmd) : Nat := fld (k.rrec 0) 44 20
def Cmd.destc (k : Cmd) : Bool := bit (k.rrec 0) 33

/-- Whether a reduction record carries a bit it must not (R367). -/
def recordBad (d : List DWord) : Bool :=
  let w (n : Nat) : DWord := d.getD n 0
  decide (fld (w 5) 56 8 ≠ 0) || w 6 != 0 || w 7 != 0 || decide (fld (w 0) 35 2 ≠ 0) || bit (w 0) 32 || decide (fld (w 2) 0 46 ≠ 0)
    || w 3 != 0 || (!bit (w 0) 34 && decide (fld (w 4) 7 57 ≠ 0))

/-- The start of RRED and RMERGE.sw: the record is read. -/
def redBegin (r : Run) (s : State) : Begin :=
  let k := r.k
  let red := decide (k.kind = .rred)
  let first := firstBad [need (!k.ccwBad) Cause.commandFormat, baseBad r.c k.hd, baseBad r.c k.h3, localBad k.h3 .read,
    if red then localBad k.ha .read else none]
  match first with
  | some (e, a, d) => .bad e a d
  | none =>
    if hEmpty k.hd || hEmpty k.h3 || (red && hEmpty k.ha) then .empty
    else match r.read s (hBase k.h3) 64 with
      | (s, .error e) => .stop s e
      | (s, .ok bs) =>
        let d := (List.range 8).map (dwordAt bs)
        let k := { k with plan := [d] }
        let f := redFmt (fld (k.rrec 0) 37 3)
        let fits := match f with
          | some f => (decide (hFmt k.ha = 0) || decide (hFmt k.ha = f)) && (decide (hFmt k.hd = 0) || decide (hFmt k.hd = f))
          | none => false
        let n := if red then streamBytes k.ha k.redBits else 512 * (k.count - 1) + 260
        let checks := firstBad [need (!recordBad d) Cause.commandFormat, need (!red || fits) Cause.formatInvalid,
          if red then handleBad r.c k.ha (f.getD 0) HUse.plain else none, winSpanBad k.hd (if red then k.redBits else 64) .atomic,
          if red ∧ 256 < n then some (Cause.remote, hBase k.hd, cword 0 Cstat.protocol 0) else none]
        match checks with
        | some (e, a, d) => .bad e a d
        | none => .go s k

/-- Sends a contribution with its descriptor, and keeps its record (R143, R158). -/
def Run.contribute (r : Run) (s : State) (op row va : Nat) (w : Win) (d0 d2 : DWord) (payload : List Byte) : State :=
  let k := r.k
  let d0 := setFld d0 35 2 (fld w.entry 7 2)
  let t := reqTxn op w.entry w.target payload.length 0 (k.rrec 4) (dwordBytes [d0, k.rrec 1, d2, 0] ++ payload)
  let tout := fld d2 50 14
  let c : CRec :=
    { job := w.job, rid := fld d0 44 20, cidx := fld d0 26 6, ctx := r.id, entry := k.seq, row := row,
      size := if !bit d0 33 then 0 else if op = Op.mergereq then 260 else payload.length,
      wait := 2 * (if tout = 0 then 20 else tout) + fld s.mid.fabtime 32 20, accepted := none, past := false }
  let old : Tab CRec := s.mid.crecs.filter (fun (_, x) => !(x.past && decide (x.job = c.job ∧ x.rid = c.rid ∧ x.cidx = c.cidx)))
  let s := { s with mid := { s.mid with crecs := old.set s.mid.nextKey c, nextKey := s.mid.nextKey + 1 } }
  r.send s row va w t

/-- The contribution of a RRED (R367). -/
def redSend (r : Run) (s : State) : Did :=
  let k := r.k
  let n := streamBytes k.ha k.redBits
  match r.window s .atomic (hBase k.hd) n with
  | (s, .error e) => .stop s e
  | (s, .ok w) => match r.stream k.ha k.redBits (List.range n) s with
    | (s, .error e) => .stop s e
    | (s, .ok bs) => .ok (r.contribute s Op.redreq 0 (hBase k.hd) w (k.rrec 0) (k.rrec 2) bs) 0

/-- The contribution of row `row` of a RMERGE.sw (R370). -/
def mergeSend (r : Run) (s : State) (row : Nat) : Did :=
  let k := r.k
  let va := hBase k.hd + 512 * row
  match r.window s .atomic va 260 with
  | (s, .error e) => .stop s e
  | (s, .ok w) =>
    let l := pairsOf (k.cell (k.row0 + row))
    let d0 := setFld (setFld (setFld (setFld (setFld (k.rrec 0) 44 20 ((k.rid + row) % 2 ^ 20)) 40 4 6) 37 3 5) 20 6 (descK k.tdesc)) 19 1
      (b2n (descDir k.tdesc))
    let d2 := setFld (k.rrec 2) 46 1 (b2n l.isEmpty)
    let bs := if l = [] then List.replicate 8 0 else l.flatMap (fun p => leBytes 4 p.1.toNat ++ leBytes 4 p.2.toNat)
    .ok (r.contribute s Op.mergereq row va w d0 d2 bs) 0

/-- A notice written: the status unit at RESADDR, for RMERGE.sw one for each row, with the result behind it for RRED (R368, R370). What
comes back for a ranked row is kept for the tile. -/
def noticeWrite (r : Run) (s : State) (row : Nat) (bs : List Byte) : Did :=
  let k := r.k
  let sw := decide (k.kind = .rmergeSw)
  let at_ := k.resAddr + (if sw then 32 * row else 0)
  let list := bs.drop 32
  match (if k.resAddr = 0 then .ok s 0 else r.put s at_ (if sw then bs.take 32 else bs)) with
  | .ok s n =>
    let keep (k : Cmd) : Cmd := if sw && decide (260 ≤ list.length) then { k with lists := k.lists ++ [(row, list)] } else k
    .ok (s.updCtx r.id fun c => { c with xf := { c.xf with log := c.xf.log.map fun x => if x.seq = k.seq then keep x else x } }) n
  | x => x

/-! ### DISP (R373, R374) -/

/-- The width of a token's elements, and the bytes of a token row. -/
def Cmd.tokBits (k : Cmd) : Nat := (fmtBits (hFmt k.ha)).getD 8
def Cmd.tokBytes (k : Cmd) : Nat := hExt k.ha 0 * k.tokBits / 8
/-- KR. -/
def Cmd.kr (k : Cmd) : Nat := fld k.ccw 32 5 + 1

/-- A delivery: the number of its entry, TV, its weight, its row, and the destination it is judged by (R374). -/
structure Deliv where
  entry : Nat
  tv : Nat
  weight : Nat
  row : Nat
  expert : Nat
  dest : Option (Nat × Nat)

/-- The route entries in use, in order. -/
def routeEntries (kr : Nat) (bs : List Byte) : List Deliv :=
  (List.range (bs.length / 16)).filterMap fun i =>
    let d0 := dwordAt bs (2 * i)
    let d1 := dwordAt bs (2 * i + 1)
    if bit d0 56 then
      some { entry := i, tv := fld d0 0 56, weight := fld d1 0 32, row := i / kr, expert := fld d1 32 32, dest := none }
    else none

/-- What the window entry and the rank-table entry of each route name, read once (R374). -/
def judge (r : Run) : List Deliv → State → State × Except Stop (List Deliv)
  | [], s => (s, .ok [])
  | d :: t, s =>
    let (s, x) := if spaceOf d.tv = 2 ∧ d.tv / 2 ^ 48 % 128 ≠ 126 then windowEntry s r.w r.env (d.tv / 2 ^ 48 % 128) else (s, .ok [0])
    match x with
    | .abort => (s, .error { va := d.tv, res := .abort, acc := .write })
    | x =>
      let e := match x with
        | .ok l => l.getD 0 0
        | _ => 0
      let rk := s.rank (fld e 32 6) (fld e 12 12)
      let dest := if bit e 0 && !bit e 1 && rk.v then some (fld e 32 6, rk.pkg) else none
      match judge r t s with
      | (s, .ok l) => (s, .ok ({ d with dest := dest } :: l))
      | (s, .error e) => (s, .error e)

/-- Whether two deliveries are duplicates. -/
def Deliv.twin (a b : Deliv) : Bool := decide (a.row = b.row ∧ a.expert = b.expert ∧ a.dest = b.dest ∧ a.dest ≠ none)

/-- The sum of the weights of a set: exact, rounded once (R374). -/
def weightSum (l : List Nat) : Nat := round32 false (groupSum (l.map fp32.decode))

/-- Each set of duplicates reduced to its first entry, with the sum of the weights. -/
def mergeDups (l : List Deliv) : List Deliv :=
  l.filterMap fun d =>
    let set := l.filter (d.twin ·)
    if set.any (fun x => decide (x.entry < d.entry)) then none
    else if 1 < set.length then some { d with weight := weightSum (set.map (·.weight)) } else some d

/-- A delivery as the command keeps it. -/
def Deliv.plan (d : Deliv) : List DWord := [BitVec.ofNat 64 d.entry, BitVec.ofNat 64 d.tv, BitVec.ofNat 64 d.weight, BitVec.ofNat 64 d.row]

/-- The start of DISP: the route list is read, and with MERGE-DUP duplicates are judged. -/
def dispBegin (r : Run) (s : State) : Begin :=
  let k := r.k
  let first := firstBad [need (!k.ccwBad) Cause.commandFormat, handleBad r.c k.ha (hFmt k.ha) HUse.plain, baseBad r.c k.h3,
    localBad k.ha .read, localBad k.h3 .read]
  match first with
  | some (e, a, d) => .bad e a d
  | none =>
    if hEmpty k.ha || hEmpty k.h3 then .empty
    else if hExt k.ha 2 ≠ 1 ∨ hExt k.ha 3 ≠ 1 ∨ hExt k.ha 0 * k.tokBits % 512 ≠ 0 then .bad Cause.formatInvalid 0 0
    else match r.read s (hBase k.h3) (16 * hExt k.ha 1 * k.kr) with
      | (s, .error e) => .stop s e
      | (s, .ok bs) =>
        let l := routeEntries k.kr bs
        if bit k.ccw 37 then
          match judge r l s with
          | (s, .error e) => .stop s e
          | (s, .ok l) => .go s { k with plan := (mergeDups l).map Deliv.plan }
        else .go s { k with plan := l.map Deliv.plan }

/-- The trailer of a delivery (R373). -/
def trailer (k : Cmd) (row weight selfrank : Nat) : List Byte :=
  leBytes 8 ((fld k.ccw 0 32 + row) % 2 ^ 32 * 2 ^ 32 + weight) ++ leBytes 8 (selfrank % 4096) ++ List.replicate 48 0

/-- The transactions of a delivery from number j on, source-checked before any is sent; the one that fails, if any does. -/
def dispPieces (r : Run) (tv total : Nat) : Nat → Nat → State → State × List (Nat × Nat × Nat × Win) × Option (Nat × Stop)
  | 0, _, s => (s, [], none)
  | fuel + 1, j, s => match r.piece s .store tv total j with
    | (s, .error e) => (s, [], some (j, e))
    | (s, .ok none) => (s, [], none)
    | (s, .ok (some (off, n, w))) =>
      let (s, l, e) := dispPieces r tv total fuel (j + 1) s
      (s, (j, off, n, w) :: l, e)

/-- A delivery, or what is left of it: transactions `from` on, or, with `one`, that one alone. A failed source check fails the delivery and
no other. -/
def dispSend (r : Run) (s : State) (p : List DWord) (from' : Nat) (one : Bool) : Did :=
  let k := r.k
  let entry := (p.getD 0 0).toNat
  let tv := (p.getD 1 0).toNat
  let row := (p.getD 3 0).toNat
  let total := k.tokBytes + 64
  let note (s : State) (j va : Nat) (d : DWord) : State :=
    let f : XFail := { order := entry * 2 ^ 20 + 2 ^ 19 + j, cause := Cause.translation, addr := va, detail := d }
    s.updCtx r.id fun c => { c with xf := { c.xf with log := c.xf.log.map fun x => if x.seq = k.seq then { x with failed := x.failed ++ [f] } else x } }
  match winBad (BitVec.ofNat 256 tv) .store with
  | some (_, a, d) => .ok (note s 0 a d) 0
  | none =>
    let (s, l, bad) := dispPieces r tv total (if one then 1 else total / 256 + 2) from' s
    match bad with
    | some (_, { va := va, res := .abort, acc := acc }) => .stop s { va := va, res := .abort, acc := acc }
    | bad =>
      let rowBits := (List.range (k.tokBytes)).map (fun b => row * k.tokBytes + b)
      match r.stream k.ha k.tokBits rowBits s with
      | (s, .error e) => .stop s e
      | (s, .ok bs) =>
        let body (w : Win) : List Byte := bs ++ trailer k row (p.getD 2 0).toNat (s.slotHdr w.job).selfrank
        let go (s : State) (x : Nat × Nat × Nat × Win) : State :=
          let (j, off, n, w) := x
          r.send s (entry * 2 ^ 20 + j) (tv + off) w (reqTxn Op.wrreq w.entry w.target n k.barBits 0 (((body w).drop off).take n))
        let s := l.foldl go s
        match bad with
        | some (j, e) => .ok (note s j e.va (match e.res with
          | .fail t l h => faultWord t l e.acc h false
          | _ => 0)) 0
        | none => .ok s 0

/-! ### One step of a remote command -/

/-- The next transaction, leg or delivery of a command. -/
def remoteUnit (r : Run) (s : State) : Did :=
  let k := r.k
  match k.kind with
  | .rst => rstSend r s k.pos
  | .rld => rldSend r s k.pos
  | .rmcast => mcastSend r s k.pos k.plan
  | .cntx => match k.plan[k.pos]? with
    | some p => cntxSend r s p
    | none => .none
  | .ramo => if k.pos = 0 then ramoSend r s else .none
  | .rred => if k.pos = 0 then redSend r s else .none
  | .rmergeSw => if k.pos < k.count then mergeSend r s k.pos else .none
  | .disp => match k.plan[k.pos]? with
    | some p => dispSend r s p 0 false
    | none => .none
  | _ => .none

/-- A transaction sent again by a replay, by its place in address order (R356). -/
def resendUnit (r : Run) (s : State) (order : Nat) : Did :=
  let k := r.k
  match k.kind with
  | .rst => rstSend r s order
  | .rld => rldSend r s order
  | .rmcast => mcastSend r s (order % 2 ^ 40) (k.plan.filter (fun p => decide (planSlot p = order / 2 ^ 40)))
  | .cntx => match k.plan.find? (fun p => decide (planSlot p = order / 2 ^ 40)) with
    | some p => cntxSend r s p
    | none => .none
  | .ramo => ramoSend r s
  | .rred => redSend r s
  | .rmergeSw => mergeSend r s order
  | .disp => match k.plan.find? (fun p => decide ((p.getD 0 0).toNat = order / 2 ^ 20)) with
    | some p => dispSend r s p (order % 2 ^ 19) (decide (order / 2 ^ 19 % 2 = 0))
    | none => .none
  | _ => .none

/-- What came back, written where the command puts it. -/
def gotUnit (r : Run) (s : State) (order : Nat) (bs : List Byte) : Did :=
  match r.k.kind with
  | .rld => rldWrite r s order bs
  | .ramo => ramoWrite r s bs
  | .rred => noticeWrite r s 0 bs
  | .rmergeSw => noticeWrite r s order bs
  | _ => .ok s 0

end Sys2Proof.Machine
end

