-- ==== Sys2Proof/Machine/Engine.lean ====
section
/-! DEFINITION. The steps of the transfer engine (R54, R55, R350 to R353, R377, R386, R405) and of the matrix stream (R310, R312, R319,
R364, R370). -/

namespace Sys2Proof.Machine

/-! ### Starting -/

/-- The start checks of a command (R351). -/
def beginCmd (s : State) (id : Nat) (c : Ctx) (k : Cmd) : Begin :=
  let r := s.run id c k
  match k.kind with
  | .cpy => copyBegin s c k
  | .cpym => copyBegin s c k
  | .cpys => copyBegin s c k
  | .gath => copyBegin s c k
  | .scat => copyBegin s c k
  | .drain => drainBegin s c k
  | .drainkSel => selBegin s c k
  | .drainkMerge => mergeBegin s k
  | .rst => moveBegin s c k
  | .rld => moveBegin s c k
  | .ramo => ramoBegin s c k
  | .rred => redBegin r s
  | .rmcast => mcastBegin r s
  | .rmergeCx => mergeCxBegin s c k
  | .rmergeSw => redBegin r s
  | .cntx => cntxBegin r s
  | .disp => dispBegin r s
  | .post => .go s k

/-- A fill too large for its slot gives the slot back (R54). A slot filled with zeros, which stays in the ring, is still the one the step of a
CPYM is to pop (R360). -/
def overrun (s : State) (id : Nat) (k : Cmd) : State :=
  match k.ringSlot with
  | some q =>
    let stays := k.kind = .cpym && !((s.ctx id).any (fun c => (c.buf (hBuf k.hd)).youngest q))
    (dropClaim s id (hBuf k.hd) q).updCmd id k.entry fun k => if stays then k else { k with ringSlot := none }
  | none => s

/-- The oldest command that has not started starts (R350, R351). None when its record is not readable yet. -/
def startCmd (s : State) (id : Nat) (c : Ctx) (k : Cmd) : Option State :=
  let on (s : State) (f : Cmd → Cmd) : State :=
    syncHidden (s.updCmd id k.entry fun x => f { x with st := .running, begun := true }) id (0xA000 + 256 * k.entry) 256
  match beginCmd s id c k with
  | .go s1 k1 => some (on s1 fun x => { x with plan := k1.plan })
  | .empty => some (on s fun x => { x with ended := true, sent := true })
  | .bad cause a d => some (cmdFail (if cause = Cause.ringOverrun then overrun s id k else s) id k.entry cause a d)
  | .stop s1 e => if e.res = .wait then none else some (cmdStop s1 id k.entry e)

/-! ### Going on -/

/-- Whether what comes back to a command is to be written by it. -/
def XKind.takes : XKind → Bool
  | .rld | .ramo | .rred | .rmergeSw => true
  | _ => false

/-- One access of a local command. -/
def localUnit (r : Run) (s : State) : Did :=
  match r.k.kind with
  | .cpy => copyUnit r s
  | .cpym => copyUnit r s
  | .cpys => copyUnit r s
  | .gath => rowUnit r s
  | .scat => rowUnit r s
  | .drain => drainUnit r s
  | .drainkSel => selUnit r s
  | .rmergeCx => mergeCxUnit r s
  | .post => postUnit r s
  | _ => remoteUnit r s

/-- Whether a command makes remote accesses. -/
def XKind.remote : XKind → Bool
  | .rst | .rld | .ramo | .rred | .rmcast | .rmergeSw | .cntx | .disp => true
  | _ => false

/-- Whether a command waits with what it would send: its core's parking slots are all taken (R133), or it writes and the core's hold queue is full
(R105); or an older one that has met this waits still, and goes first. Local commands go on. -/
def State.mustPark (s : State) (c : Ctx) (k : Cmd) : Bool :=
  k.kind.remote && (s.mustHold c.anyCore k.counts || c.xf.log.any (fun x => x.held && x.live && decide (x.cause = 0 ∧ x.seq < k.seq)))

/-- A started command goes on by one access, its own lines in rising place (the order in which R96 lets one command write its lines: DESIGN CHOICE,
notes/assumptions/2): data that came back are written, then what a replay sends again goes, then the next access of its
own. None when it cannot go on now. -/
def stepCmd (s : State) (id : Nat) (c : Ctx) (k : Cmd) : Option State :=
  let r := s.run id c k
  let done (d : Did) (f : Nat → Cmd → Cmd) : Option State :=
    match d with
    | .ok s n => some (s.updCmd id k.entry (f n))
    | .none => some (s.updCmd id k.entry fun k => { f 0 k with ended := true, sent := true })
    | .later => none
    | .stop s1 e => if e.res = .wait then none else some (cmdStop s1 id k.entry e)
    | .bad cause a d => some (cmdFail s id k.entry cause a d)
  let done (d : Did) (f : Nat → Cmd → Cmd) : Option State := done d fun n k => { f n k with held := false }
  match (if k.kind.takes then k.got else []), k.todo with
  | (o, bs) :: _, _ => done (gotUnit r s o bs) fun _ k => { k with got := k.got.drop 1 }
  | [], o :: _ => if s.mustPark c k then none else match resendUnit r s o with
    | .none => some (s.updCmd id k.entry fun k => { k with todo := k.todo.drop 1 })
    | d => done d fun _ k => { k with todo := k.todo.drop 1 }
  | [], [] =>
    if k.ended ∨ s.mustPark c k = true then none
    else match localUnit r s with
      | .none => some (s.updCmd id k.entry fun k => { k with ended := true, sent := true })
      | d => done d fun n k => { k with pos := k.pos + 1, wrote := k.wrote + n }

/-- What a command that cannot go on leaves: what its access has asked for, and its place in the order of those that wait for a parking slot. -/
def askCmd (s : State) (id : Nat) (c : Ctx) (k : Cmd) : State :=
  if k.st = .running ∧ s.mustPark c k = true then s.updCmd id k.entry fun k => { k with held := true }
  else if k.st = .issued then
    match beginCmd s id c k with
    | .stop s1 _ => s.keepAsks s1
    | _ => s
  else match localUnit (s.run id c k) s with
    | .stop s1 _ => s.keepAsks s1
    | _ => s

/-- Whether a command writes to window space and nowhere else. -/
def XKind.remoteOnly : XKind → Bool
  | .rst | .rmcast | .cntx | .disp => true
  | _ => false

/-- Whether a FENCE holds a command back: any older one not yet satisfied, but a remote write goes on once the FENCE's release has been accepted,
since its later epoch holds it at the Midfield die (R98). -/
def Ctx.fencedCmd (c : Ctx) (k : Cmd) : Bool :=
  c.ph.fences.any fun f => decide (f.seq ≤ k.seq) && !(k.kind.remoteOnly && decide (k.form.sc ≠ 7) && f.release.any c.relAccepted)

/-- Whether a command may act: started or first to start, not failed, not held by a FENCE (R98), with the ring slot it fills (R54). -/
def Ctx.mayAct (c : Ctx) (k : Cmd) : Bool :=
  decide (k.cause = 0) && !c.fencedCmd k && (k.st = .issued || k.st = .running && (!k.ended || k.kind.takes && !k.got.isEmpty) &&
    !(k.kind.fills && k.wantsSlot (hBuf k.hd)))

/-- The commands that may act next: the oldest that has not started, and those that have. -/
def Ctx.actors (c : Ctx) : List Cmd :=
  let first := leastBy (·.seq) (c.xf.log.filter (fun k => decide (k.st = .issued ∧ k.cause = 0)))
  let l := c.xf.log.filter (fun k => decide (k.st = .running))
  ((first.toList ++ l).filter c.mayAct)

/-- The first of some commands that can act does; the others' requests to the host stand. -/
def actFirst (id : Nat) (c : Ctx) : List Cmd → State → State
  | [], s => s
  | k :: t, s =>
    match (if k.st = .issued then startCmd s id c k else stepCmd s id c k) with
    | some s => s
    | none => actFirst id c t (askCmd s id c k)

/-! ### Ending -/

/-- Whether nothing that a command sent is still under way: no request, no contribution without a notice. -/
def State.quiet (s : State) (id : Nat) (k : Cmd) : Bool :=
  !s.mid.reqs.any (fun (_, r) => r.serves id k.seq) && !s.mid.crecs.any (fun (_, r) => decide (r.ctx = id ∧ r.entry = k.seq) && !r.past)

/-- The first of what a command's accesses ended with, in address order (R108). -/
def Cmd.firstFail (k : Cmd) : Option XFail := leastBy (·.order) k.failed
/-- Whether a failure is none: PARTIAL completes (R368). -/
def XFail.partial? (f : XFail) : Bool := decide (f.cause = Cause.remote) && decide (cstatOf f.detail = Cstat.partial')
/-- The failure a command reports: the first in address order that is one (R108, R368). -/
def Cmd.reported (k : Cmd) : Option XFail := leastBy (·.order) (k.failed.filter (fun f => !f.partial?))

/-- Whether a command ends at the retirement of its stream operation: DRAINK.merge, and RMERGE.sw with DESTC (R364, R370). -/
def Cmd.endsInStream (k : Cmd) : Bool := k.kind = .drainkMerge || (k.kind = .rmergeSw && k.destc)

/-- Whether a command has done all its accesses and nothing of it is under way. -/
def State.finished (s : State) (id : Nat) (k : Cmd) : Bool :=
  decide (k.st = .running ∧ k.cause = 0 ∧ k.todo = []) && k.ended && (!k.kind.takes || k.got.isEmpty) && s.quiet id k

/-- Whether a failed command reports now: what it sent has ended, its record is not already waiting, and the failure starts no rollback. -/
def State.reports (s : State) (id : Nat) (c : Ctx) (k : Cmd) : Bool :=
  decide (k.st = .issued ∨ k.st = .running) && decide (k.cause ≠ 0) && s.quiet id k &&
    (k.cause ≠ Cause.dataError || decide (k.phase ≠ c.ph.no) || decide (c.loc = .engine)) &&
    !c.xf.waitq.any (fun r => decide (r.slot = 7 ∧ r.id = k.id))

/-- The steps that end commands become due. -/
def endings (s : State) (id : Nat) : State :=
  match s.ctx id with
  | none => s
  | some c => c.xf.log.foldl (fun s k =>
    if s.reports id c k then s.pushOnce 0 id (.commandFault id k.entry)
    else if s.finished id k then
      let b := hBuf k.hd
      if k.reported.isSome then s.pushOnce 0 id (.commandFault id k.entry)
      else if k.endsInStream && c.eng.ms.any (fun m => decide (m.cmd = some k.seq)) then s
      else match k.ringSlot with
        | some q => s.pushOnce 0 id (.ringSlotLanded id b q)
        | none => if k.kind.fills && k.wantsSlot b then s else s.pushOnce 0 id (.commandComplete id k.entry)
    else s) s

/-- A ring claim becomes due for each ring with a free slot that a command waits for (R54). -/
def claims (s : State) (id : Nat) : State :=
  match s.ctx id with
  | none => s
  | some c => (c.bufs.map (·.1)).foldl (fun s b =>
    if (c.buf b).mode = 3 ∧ (c.buf b).ringFree = true ∧ c.xf.log.any (fun k => k.wantsSlot b) = true then s.pushOnce 0 id (.ringClaim id b) else s) s

/-- COMMAND_START: the transfer engine of a task does its next piece of work: reissued commands and fired records take entries, the oldest issued
command starts, or a started one makes an access (R350, R351, R377, R407). -/
def execCommandStart (s : State) : Host.Outcome State Fault Refusal :=
  let id := s.subj
  let s := issueFired (refile s id) id
  match s.ctx id with
  | none => .next s
  | some c =>
    let l := c.actors
    let (n, s) := if 1 < l.length then (Config.schedule s.tick l.length % l.length, { s with tick := s.tick + 1 }) else (0, s)
    let s := claims (endings (actFirst id c (l.drop n ++ l.take n) s) id) id
    let more := (s.ctx id).any (fun c => !c.actors.isEmpty || !c.xf.again.isEmpty || (c.coreNo.isSome && !c.xf.fired.isEmpty))
    .next (if more then s.pushOnce 1 id .commandStart else s)

/-- RING_CLAIM: the oldest command that waits for a slot of a ring claims one when one is free (R54). -/
def execRingClaim (id buf : Nat) (s : State) : Host.Outcome State Fault Refusal :=
  match s.ctx id with
  | none => .next s
  | some c => match leastBy (·.seq) (c.xf.log.filter (fun k => k.wantsSlot buf)) with
    | none => .next s
    | some k =>
      let e := c.buf buf
      if e.mode = 3 ∧ e.ringFree = true then
        let (q, e) := e.claim
        let s := (s.setCtx id { c with bufs := c.bufs.set buf e }).updCmd id k.entry fun k => { k with ringSlot := some q }
        .next (wake (syncBuf s id buf) id)
      else .next s

/-- RING_SLOT_LANDED: the data of a slot have wholly landed; the fill then completes (R55). -/
def execRingSlotLanded (id buf slot : Nat) (s : State) : Host.Outcome State Fault Refusal :=
  match s.ctx id with
  | none => .next s
  | some c => match c.xf.log.find? (fun k => decide (k.ringSlot = some slot ∧ hBuf k.hd = buf) && k.kind.fills && s.finished id k) with
    | none => .next s
    | some k => .next ((syncBuf (s.setCtx id (c.updBuf buf (·.land slot))) id buf).pushOnce 0 id (.commandComplete id k.entry))

/-- What a completion takes from a local barrier (R353). -/
def Cmd.amount (k : Cmd) : Nat :=
  let side := (sidePlanes [] k.hd k.destFmt).foldl (fun n p => n + p.2) 0
  match k.kind with
  | .cpy | .cpym | .cpys | .gath => elemBytes k.destBits (hCount k.hd) + side
  | .scat => k.wrote / 8
  | .drain => elemBytes k.destBits (hCount k.hd) + side
  | .drainkSel => 8 * hCount k.hd
  | .rld | .rst | .rmcast => k.moveBytes
  | .ramo => 8
  | .cntx => 4 * k.plan.length
  | .disp => k.plan.length * (k.tokBytes + 64)
  | .rred => 1
  | .rmergeCx => 512 * k.count
  | _ => 0

/-- COMMAND_COMPLETE: the entry is freed, and the completion target is decremented once (R353). -/
def execCommandComplete (id e : Nat) (s : State) : Host.Outcome State Fault Refusal :=
  match s.ctx id with
  | none => .next s
  | some c => match c.cmd e with
    | none => .next s
    | some k =>
      if s.finished id k = false then .next s
      else
        let word := (k.firstFail.map (·.detail)).getD k.cword
        -- DISP's R is read for its step position alone (R373)
        let empty := hEmpty k.hd && k.kind.dHandle && decide (k.kind ≠ .disp) || hEmpty k.ha && k.kind.aHandle
        let s := syncXf (s.updCmd id e fun k => { k with st := .done, cword := word, decDone := true }) id e
        let n := if empty then 0 else k.amount
        let s := if k.decDone then s
          else if k.form.ct = 1 then barDec s id (k.form.tgt % 256) n
          else if k.form.ct = 2 then nodeDec s c.who.region k.form.tgt
          else s
        if c.loc = .engine then .next (s.push 0 id .taskFinish) else .next (wake s id)

/-- The completion word of a failed command: that of R130, or FAULT with the fault word for a local failure (R354). -/
def failWord (cause : Nat) (detail : DWord) : DWord :=
  if cause = Cause.remote then BitVec.ofNat 64 (fld detail 0 48)
  else cword 0 Cstat.fault (if cause = Cause.translation then BitVec.ofNat 64 (fld detail 0 32) else 0)

/-- COMMAND_FAULT: a failed command posts its record and stays FAULTED in its entry, once everything it has sent has ended (R378, R386,
R387). -/
def execCommandFault (id e : Nat) (s : State) : Host.Outcome State Fault Refusal :=
  match s.ctx id with
  | none => .next s
  | some c => match c.cmd e with
    | none => .next s
    | some k =>
      let k1 := match k.reported with
        | some f => { k with cause := f.cause, addr := f.addr, detail := f.detail }
        | none => k
      if s.reports id c k1 = false then .next s
      else
        let word := failWord k1.cause k1.detail
        let s := s.updCmd id e fun k => { k with cause := k1.cause, addr := k1.addr, detail := k1.detail, cword := word }
        if c.loc = .engine then .next (s.push 0 id (.taskFault id k1.cause k1.detail.toNat))
        else .next (syncXf (postRecord s id
          { cause := k1.cause, pc := k.pc, rel := false, stepf := k.stepf, abs := false, slot := 7, id := k.id, addr := k1.addr,
            detail := k1.detail }) id e)

/-- UE_ABORT_RECEIVE: an uncorrectable error reaches its consumer: the task itself (entry 0xFF), or a command. One of the present phase starts the
rollback; a walk error that no rollback can follow is a translation fault; an older command's becomes a record (R39, R405). -/
def execUeAbortReceive (id e : Nat) (s : State) : Host.Outcome State Fault Refusal :=
  match s.ctx id with
  | none => .next s
  | some c =>
    if e = 0xFF then .next (consumeUe s id)
    else match c.cmd e with
      | none => .next s
      | some k =>
        if k.cause ≠ Cause.dataError ∨ (k.st ≠ .issued ∧ k.st ≠ .running) then .next s
        else if k.phase = c.ph.no ∧ c.loc ≠ .engine ∧ ¬ (k.detail ≠ 0 ∧ (c.ph.nr = true ∨ c.ph.rbcnt = 2)) then .next (consumeUe s id)
        else
          let fix (k : Cmd) : Cmd :=
            if k.detail ≠ 0 ∧ k.phase = c.ph.no then { k with cause := Cause.translation } else { k with detail := 0 }
          .next (endings (s.updCmd id e fix) id)

/-! ### The matrix stream -/

/-- The form of the multiply step an operation makes, if it makes one. -/
def MOp.form (m : MOp) : Option MmaForm :=
  match m.instr with
  | .cpym .. => some (stepOf m.scal)
  | i => Instr.mma? i m.scal

/-- The command of a stream operation. -/
def Ctx.opCmd (c : Ctx) (m : MOp) : Option Cmd := m.cmd.bind fun q => (c.xf.log ++ c.xf.again).find? (fun k => decide (k.seq = q))

/-- Whether an operation may act now (R312, R316, R360, R364, R370). -/
def opReady (s : State) (id : Nat) (c : Ctx) (m : MOp) : Bool :=
  c.ringsReady m && (m.cancelled || m.absorbed || match m.instr, m.form with
    | .drainkMerge .., _ => (c.opCmd m).any (fun k => k.begun && decide (k.cause = 0))
    | .rmergeSw .., _ => match c.opCmd m with
      | none => true
      | some k => k.begun && (!k.destc || k.reported.isNone && s.finished id k)
    | .mkat .., _ => (c.eng.ms.head?).any (fun x => decide (x.seq = m.seq))
    | _, some f =>
      let (la, lb, _) := mmaPair f.fp
      let (ha, hb) := m.operands c
      let ranges := operandRanges m.planes ha ((mmaFmt ha la).getD 0) ++ operandRanges m.planes hb ((mmaFmt hb lb).getD 0)
      !c.unitHeld 3 && !ranges.any (fun r => c.vecBlocks m.seq r.1 r.2 false) && (c.opCmd m).all (fun k => decide (k.st = .done))
    | _, none => true)

/-- A failed known-answer step: the core is fenced, the records are written, and the task ends (R319, R433). -/
def katFail (s : State) (id : Nat) (c : Ctx) (q sum : Nat) : State :=
  let core := c.anyCore
  let d := dieOf core
  let s := s.updCore core fun x => { x with fenced := true }
  let s := s.fatal id Cause.katMismatch (BitVec.ofNat 64 (q * 2 ^ 16 + sum))
  let s := logError s d 0x06 1 core 0 c.who.region 0 (BitVec.ofNat 64 (q * 2 ^ 16 + sum)) false
  logError s d 0x0A 1 core 0 c.who.region 0 0 false

/-- What an operation of the stream does to the context: its tiles and their descriptors. -/
def actTile (c : Ctx) (m : MOp) : Ctx :=
  let put (t : Nat) (d : BitVec 16) (w : Tab Word) : Ctx := { c with eng := { c.eng with tdesc := c.eng.tdesc.put 0 t d, tile := w } }
  match m.instr with
  | .mzero mask =>
    let l := maskTiles mask
    { c with eng := { c.eng with tdesc := l.foldl (fun d t => d.put 0 t 0) c.eng.tdesc, tile := l.foldl clearTile c.eng.tile } }
  | .mrank t k dir => put t.toNat (rankedDesc k.toNat dir) (c.eng.tile.replaceRun (tileWord t.toNat 0 0) (tileWord (t.toNat + 1) 0 0) (rankedTile t.toNat))
  | .mcopy t u => put t.toNat (c.eng.tdesc.val 0 u.toNat) (copyTile c.eng.tile t.toNat u.toNat)
  | .maddt t u i => actMaddt c m t.toNat u.toNat i
  | .drainkMerge u t _ _ => match c.opCmd m with
    | none => c
    | some k => c.mergeRows u.toNat fun i =>
      if k.row0 ≤ i ∧ i < k.row0 + k.selM then
        (List.range k.selN).map (fun j => (c.tile t.toNat i (k.col0 + j), BitVec.ofNat 32 (fld k.ccw 0 32 + k.col0 + j)))
      else []
  | .rmergeSw _ t _ _ => match c.opCmd m with
    | none => c
    | some k =>
      if k.destc = false then c
      else c.mergeRows t.toNat fun i =>
        (k.lists.filter (fun p => decide (k.row0 + p.1 = i))).flatMap fun p =>
          pairsOf (fun j => BitVec.ofNat 32 (leNat ((p.2.drop (4 * j)).take 4)))
  | _ => c

/-- An operation of the stream acts; none when one of its reads must wait. What fails adds nothing to its tile (R312). -/
def actOp (s : State) (id : Nat) (c : Ctx) (m : MOp) : State × Bool :=
  let mark (s : State) : State := s.updCtx id fun c =>
    { c with eng := { c.eng with ms := c.eng.ms.map (fun x => if x.seq = m.seq then { x with acted := true } else x) } }
  if m.cancelled || m.absorbed then (mark s, true)
  else match m.form with
    | some f => match actMma s c m f with
      | (s, .ok tile) => (mark (s.updCtx id fun c => { c with eng := { c.eng with tile := tile } }), true)
      | (s1, .error e) =>
        if e.ue then (mark (unitUe s1 id c 3 m.pc m.phase e.va m.stepf), true)
        else match e.fault with
          | some (cause, a, d) => (mark (engineFail s1 id 3 m.pc cause a d m.stepf), true)
          | none => (s.keepAsks s1, false)
    | none => match m.instr with
      | .mkat q sum =>
        (mark (if katSum q.toNat = sum.toNat then s else katFail s id c q.toNat sum.toNat), true)
      | _ => (mark (s.updCtx id (actTile · m)), true)

/-- The operation that may act, beside tiles that older operations hold: the oldest that has not acted, once its operands are there. Past an
RMERGE.sw that waits for its notices, and past what waits for that one's tile, the younger operations act (R310, R370, R393). -/
def nextOp (s : State) (id : Nat) (c : Ctx) : List Nat → List MOp → Option MOp
  | _, [] => none
  | held, m :: t =>
    let tiles := Instr.streamTiles m.instr
    let waits := match m.instr with
      | .rmergeSw .. => true
      | _ => false
    if m.acted then nextOp s id c held t
    else if tiles.any (held.contains ·) then nextOp s id c (held ++ tiles) t
    else if opReady s id c m then some m
    else if waits then nextOp s id c (held ++ tiles) t
    else none

/-- The operations at the head that have acted retire; the commands that end with them complete (R310, R364, R370). -/
def retireAll (s : State) (id : Nat) : State :=
  (List.range 32).foldl (fun s _ =>
    match s.ctx id with
    | none => s
    | some c => match c.eng.ms with
      | [] => s
      | m :: _ =>
        if m.acted = false then s
        else
          let s1 := s.setCtx id c.retireHead
          match c.opCmd m with
          | none => s1
          | some k =>
            if m.cancelled || m.absorbed || !k.endsInStream || decide (k.st ≠ .running) then s1
            else
              let s1 := s1.updCmd id k.entry fun k => { k with ended := true, sent := true }
              s1.pushOnce 0 id (.commandComplete id k.entry)) s

/-- The operation of the stream that acts next: of a task on a core, the oldest that has not acted; of an absent one only an RMERGE.sw at its turn, whose lists go
into the image's tile (R393). -/
def Ctx.nextStream (c : Ctx) (s : State) (id : Nat) : Option MOp :=
  if c.coreNo.isSome then nextOp s id c [] c.eng.ms
  else if c.away then
    match c.eng.ms with
    | m :: _ => match m.instr with
      | .rmergeSw .. => if !m.acted && opReady s id c m then some m else none
      | _ => none
    | [] => none
  else none

/-- The tile of an absent context's image follows an insertion (R393, R395). -/
def syncTile (s : State) (id : Nat) (m : MOp) : State :=
  (Instr.streamTiles m.instr).foldl (fun s t => syncImage s id (0x100000 + t * 65536)
    (fun c => (List.range 16384).flatMap (fun k => leBytes 4 (c.eng.tile.val 0 (t * 16384 + k)).toNat))) s

/-- MATRIX_RETIRE: one operation of a task's stream acts if it can, then what stands acted at the head retires (R310, R312). -/
def execMatrixRetire (s : State) : Host.Outcome State Fault Refusal :=
  let id := s.subj
  match s.ctx id with
  | none => .next s
  | some c =>
    let s := match c.nextStream s id with
      | some m => syncHidden (syncTile (actOp s id c m).1 id m) id 0x1C00 2048
      | none => s
    let s := retireAll s id
    match s.ctx id with
    | none => .next s
    | some c =>
      let s := if c.eng.ms.isEmpty then s else s.pushOnce 1 id .matrixRetire
      fin (if c.xf.log.any (fun k => decide (k.st = .issued ∨ k.st = .running)) then wake s id else s)

end Sys2Proof.Machine
end

