-- ==== Sys2Proof/Machine/Arbiter.lean ====
section
/-! DEFINITION. The package arbiter and the dispatchers: the end of tasks (R91, R217 to R220), choices (R211 to R214), starts (R201), the budget
period (R210, R449), failed die links (R218, R434). -/

namespace Sys2Proof.Machine

/-! ### Leaving (R48, R91, R217) -/

/-- The requests of a task that have not been sent go with it. -/
def dropUnsent (s : State) (id : Nat) : State :=
  let mine (r : Req) : Bool := match r.what with
    | .scalar i _ => i = id
    | .line i _ _ => i = id
    | .cmd i _ _ _ => i = id
    | _ => false
  let l := s.mid.reqs.filter (fun (_, r) => mine r && decide (r.st = .held ∨ r.st = .queued))
  l.foldl (fun s p => resolve s p.1 0 []) s

/-- A task's context leaves the package: its core, slice permission, diversion entries, save slot and release counters are given up (R48, R103, R392,
R404). -/
def dropCtx (s : State) (id : Nat) (c : Ctx) : State :=
  let s := dropUnsent s id
  let held := (s.cores.filter (fun (_, x) => decide (x.ctx = some id))).map (·.1)
  let s := held.foldl (fun s core => (revokeBlocks s c core).updCore core fun x =>
    { x with ctx := none, lastTask := some (c.who.region, c.who.grid, c.affkey) }) s
  let s := s.mapDivs fun _ l => l.filter (fun e => decide (e.ctxId ≠ id))
  let s := { s with
    mid := { s.mid with fences := s.mid.fences.filter (fun (_, e) => decide (e.ctx ≠ id)) }
    ctxs := s.ctxs.del id }.endCRecs (fun r => decide (r.ctx = id))
  callArbiter (held.foldl fenceClean s)

/-- The lines that a PHASE of a task has sent go on before the task ends; one that must still wait goes no further (R86; the last is DESIGN CHOICE,
notes/assumptions/2). -/
def flushLate (s : State) (id : Nat) : State :=
  (s.ctx id).elim s fun c => (sendLines id [] c.ph.late s).1

/-- A task is killed: what it has sent goes on, its commands in flight are cancelled, its window goes, its grid counts it (R217). -/
def killTask (s : State) (id : Nat) : State :=
  match s.ctx id with
  | none => s
  | some c =>
    let s := dropCtx (killCommands (flushLate s id) id) id c
    if c.loc = .engine then s
    else endGrid (s.updGrid c.who.region c.who.grid fun e => { e with killed := e.killed + 1 }) c.who.region c.who.grid

/-- The tasks for which something holds are killed. -/
def killAll (s : State) (p : Nat → Ctx → Bool) : State := (s.ctxs.filter (fun (id, c) => p id c)).foldl (fun s q => killTask s q.1) s

/-- STOP := 1 in a region, in its RCB too (R217). -/
def stopRegion (s : State) (r : Nat) : State :=
  let on (l : List DWord) : List DWord := l.set 0 (setFld (l.getD 0 0) 1 1 1)
  let s := { s with arb := { s.arb with regions := Tab.each (fun k x =>
    if k = r then ({ x with rcb := on x.rcb, staged := x.staged.map on } : Region) else x) s.arb.regions } }
  s.devWrite (s.whoRegion r 4) (s.rcbAddr r) (leBytes 8 (setFld (s.rcbNow r 0) 1 1 1).toNat)

/-- TASK_FAULT: a fatal fault ends a task: it counts in FAULTS, its event is written, and its fault domain stops (R217). A command of a node ends
in a NODE-FAULT record (R209). -/
def execTaskFault (ctx cause detail : Nat) (s : State) : Host.Outcome State Fault Refusal :=
  match s.ctx ctx with
  | none => .next s
  | some c =>
    let r := c.who.region
    if c.loc = .engine then fin (dropCtx (nodeFault (killCommands s ctx) r (c.node.getD 0) cause detail) ctx c)
    else
      let g := c.who.grid
      let d := faultDetail cause detail
      let s := dropCtx (killCommands (flushLate s ctx) ctx) ctx c
      let s := eventRecord (s.updGrid r g fun e => { e with faults := e.faults + 1 }) r 4 2 g 0 d
      let s := endGrid s r g
      let dom := s.fdomOf r
      if dom = 0 then fin s
      else
        let l := (s.arb.regions.map (·.1)).filter (fun q => s.fdomOf q = dom)
        let s := l.foldl stopRegion s
        let s := killAll s (fun _ x => x.loc ≠ .engine && l.contains x.who.region)
        fin (l.foldl (fun s q => eventRecord s q 5 2 0 0 d) s)

/-- The retirement bit of an index is set by an atomic OR; a failure is written as a TASK-FAULT event (R220). False when the access must wait. -/
def retireBit (s : State) (r g n : Nat) : State × Bool :=
  let e := s.grid r g
  if e.retmap = 0 then (s, true)
  else
    let va := e.retmap + n / 8
    let w := s.whoRegion r 4
    let env := s.envOf r
    let fail (s : State) (cause : Nat) (d : DWord) : State × Bool := (eventRecord s r 4 2 g 0 (faultDetail cause d.toNat), true)
    match translate s w env .atomic va 1 with
    | (s, .ok p) => match homeAtomic s w env p 1 (fun old => old ||| 2 ^ (n % 8)) with
      | (s, .ok _) => (s, true)
      | (s1, .wait) => (s.keepAsks s1, false)
      | (s, .fail t l h) => fail s Cause.translation (faultWord t l .atomic h false)
      | (s, _) => fail s Cause.dataError 0
    | (s1, .wait) => (s.keepAsks s1, false)
    | (s, .fail t l h) => fail s Cause.translation (faultWord t l .atomic h false)
    | (s, _) => fail s Cause.dataError 0

/-- Whether nothing that a task has issued is still under way (R91). -/
def Ctx.drained (c : Ctx) : Bool :=
  !(c.xf.log ++ c.xf.again).any Cmd.live && c.xf.fired.isEmpty && c.ph.rels.isEmpty && c.ph.memq.isEmpty && c.eng.vq.isEmpty
    && c.eng.prm.isEmpty && c.eng.scl.isEmpty

/-- TASK_FINISH: a task that has issued DONE is finished once its commands and releases have ended: its grid counts it, its bit is set, its
permission is removed (R48, R91, R220). A fault record that comes first is taken as an event at its DONE (R383). The command of a node is finished once it has
completed: the node's successors are decremented (R209). -/
def execTaskFinish (s : State) : Host.Outcome State Fault Refusal :=
  let id := s.subj
  match s.ctx id with
  | none => .next s
  | some c =>
    let r := c.who.region
    let g := c.who.grid
    if c.loc = .engine then
      if c.drained then fin (dropCtx (decSuccs s r (c.node.getD 0)) id c) else .next (s.push 1 id .taskFinish)
    else if c.isOver = true ∨ (c.ph.op.any (·.ending)) = false then .next s
    else if c.drained = false then .next (s.push 1 id .taskFinish)
    else if c.xf.fq ≠ [] ∧ c.regs.inTrap = false then .next (s.pushOnce 0 c.anyCore .engineFault)
    else match retireBit s r g c.who.index with
      | (s, false) => .next (s.push 1 id .taskFinish)
      | (s, true) => fin (endGrid ((dropCtx s id c).updGrid r g fun e => { e with retired := e.retired + 1 }) r g)

/-! ### Ready work (R211 to R213, R418) -/

/-- Whether the current frame of a core belongs to a world (R418). -/
def State.frameOwns (s : State) (core world : Nat) : Bool :=
  let c := s.core core
  bit c.frametab (4 * c.frame + 3) && decide (fld c.frametab (4 * c.frame) 3 = world)

/-- Whether a core can take a task: it holds none, is not fenced, is not being cleared or waiting for an edge, and its die is in service (R213,
R218, R419). -/
def State.coreFree (s : State) (core : Nat) : Bool :=
  let c := s.core core
  decide (c.ctx = none ∧ c.fenced = false ∧ c.clearing = none ∧ c.awaitEdge = false) && (s.die (dieOf core)).dieen

/-- The tasks of a region that may resume, one that is halted waiting for its debugger (R212, R389). -/
def State.absentTasks (s : State) (r : Nat) : List (Nat × Ctx) :=
  s.ctxs.filter (fun (id, c) => decide (c.who.region = r ∧ c.loc = .absent ∧ c.isOver = false) && !bit c.dbg.stat 8
    && s.cores.all (fun (_, k) => decide (k.ctx ≠ some id)))

/-- The entries of a die that tasks on their way out have reserved (R399): from the start of QUIESCE until they are installed. -/
def State.divReserved (s : State) (die id : Nat) : Nat :=
  (s.ctxs.filter (fun (k, c) => decide (k ≠ id) && c.leaving && (c.coreNo).any (fun n => decide (dieOf n = die)))).foldl
    (fun n (_, c) => n + c.runs.length + 1) 0

/-- The core a switched-out task is bound to: its old core, as long as the diversion table of that core's die has no room for as many more entries, which
forward to another core (R399, R404; that they are entries beside the present ones is DESIGN CHOICE, notes/assumptions/29). -/
def State.boundCore (s : State) (c : Ctx) : Option Nat :=
  c.oldCore.bind fun k =>
    if (s.die (dieOf k)).div.length + s.divReserved (dieOf k) 0x10000 + c.runs.length + 1 ≤ 16384 then none else some k

/-- Whether a switched-out task may resume on a core (R213, R404). -/
def State.mayResume (s : State) (core : Nat) (c : Ctx) : Bool := (s.boundCore c).all (fun k => decide (k = core))

/-- The task of a region pre-empted earliest among those that may resume on a core (R212). -/
def State.resumable (s : State) (r core : Nat) : Option Nat :=
  ((leastBy (fun (p : Nat × Ctx) => p.2.since) ((s.absentTasks r).filter (fun p => s.mayResume core p.2))).map (·.1))

/-- The oldest launched grid of a region with a pending index that core c's die may take (R212, R218). -/
def State.nextGrid (s : State) (r core : Nat) : Option (Nat × Grid) :=
  (leastBy (fun (p : Nat × Grid) => p.2.order)
    (s.arb.grids.filter (fun (k, e) => decide (k / 256 = r) && e.pending && !s.arb.cut.contains (k, dieOf core)))).map
    (fun p => (p.1 % 256, p.2))

/-- HasReady for a core, in a region that may run there (R212). -/
def State.readyOn (s : State) (r core : Nat) : Bool :=
  !s.stopOf r && (s.maskOf s.depth r).testBit core && s.frameOwns core (s.worldOf r) && ((s.resumable r core).isSome || (s.nextGrid r core).isSome)

/-- Eligible in a pass (R212). -/
def State.eligible (s : State) (r : Nat) (funded : Bool) : Bool := if funded then s.funded r else !s.funded r && !s.capOf r

/-- The choice of a region for a core: the pass, then the priority, then the region after the pointer (R212). -/
def State.chooseRegion (s : State) (core : Nat) : Option (Nat × Nat) :=
  let cands := (s.arb.regions.map (·.1)).filter (fun r => s.readyOn r core)
  [true, false].findSome? fun pass =>
    ((List.range 16).reverse).findSome? fun p =>
      let l := cands.filter (fun r => decide (s.prioOf s.depth r = p) && s.eligible r pass)
      let ptr := s.arb.ptrs.val 4095 p
      match l.find? (fun r => decide (ptr < r)) with
      | some r => some (p, r)
      | none => l.head?.map (fun r => (p, r))

/-- The core that chosen work goes to (R213); `bars` are the dies it may not go to. -/
def State.placeFor (s : State) (r g affkey : Nat) (bars : List Nat) (core : Nat) : Nat :=
  let free := (List.range 288).filter fun c =>
    (s.maskOf s.depth r).testBit c && s.coreFree c && s.frameOwns c (s.worldOf r) && !bars.contains (dieOf c)
  match (if affkey = 0 then none else free.find? (fun c => decide ((s.core c).lastTask = some (r, g, affkey)))) with
  | some c => c
  | none =>
    let busy (k : Nat) : Nat := ((span (8 * k) 8).filter (fun c => (s.core c).ctx.isSome)).length
    match leastBy busy ((free.map clusterOf).eraseDups) with
    | some k => (free.find? (fun c => decide (clusterOf c = k))).getD core
    | none => core

/-- The skip bitmap's bit of an index, or why it cannot be read (R221). -/
def skipBit (s : State) (r : Nat) (e : Grid) (n : Nat) : State × Except Stop Bool :=
  if bit (e.pk 0) 1 = false ∨ e.base0 ≤ n then (s, .ok false)
  else match readBytes s (s.whoRegion r 4) (s.envOf r) (fld (e.pk 5) 0 56 + n / 8) 1 with
    | (s, .ok bs) => (s, .ok ((leNat bs).testBit (n % 8)))
    | (s, .error x) => (s, .error x)

/-- The argument of an index: that of the spawn-ring entry at its head when it is that index's (R204). -/
def spawnArg (s : State) (r : Nat) (e : Grid) (n : Nat) : Option DWord :=
  if e.sphead = e.sptail then none
  else
    let bs := (s.devRead (s.whoRegion r 4) (e.spbase + 16 * (e.sphead % 1024)) 16).2
    if (dwordAt bs 0).toNat = n then some (dwordAt bs 1) else none

/-- An index is issued to a core (R200, R212). -/
def issueIndex (s : State) (r g n core : Nat) (e : Grid) : State :=
  let x := fld (e.pk 3) 0 32
  let y := fld (e.pk 3) 32 32
  let arg := spawnArg s r e n
  let who : TaskId :=
    { region := r, world := s.worldOf r, grid := g, index := n, xy := BitVec.ofNat 64 (n / x % y * 2 ^ 32 + n % x),
      z := BitVec.ofNat 64 (n / (x * y)), arg := arg.getD 0 }
  let id := s.arb.nextCtx
  let c := Ctx.start who (fld (e.pk 2) 0 56) (fld (e.pk 1) 0 56) (.pending core) (fld (e.pk 0) 16 16) none
  let s := { s with arb := { s.arb with nextCtx := id + 1 } }
  let s := putGrid s r g { e with issued := n + 1, sphead := if arg.isSome then (e.sphead + 1) % 2 ^ 16 else e.sphead }
  ((s.setCtx id { c with since := s.now, seenAt := s.now }).updCore core fun k => { k with ctx := some id }).push 0 id .taskStart

/-- What is done with the work chosen for a core: a resume, a start, or an index that is skipped or whose bit cannot be read (R212, R221). False when a
bitmap cannot be reached yet. -/
def doChoice (s : State) (core p r : Nat) : State × Bool :=
  let point (s : State) : State := { s with arb := { s.arb with ptrs := s.arb.ptrs.set p r } }
  match s.resumable r core with
  | some id =>
    let who := (s.ctx id).map (·.who.grid)
    let aff := (s.ctx id).elim 0 (·.affkey)
    let k := ((s.ctx id).bind s.boundCore).getD (s.placeFor r (who.getD 0) aff [] core)
    (((point s).updCore k fun x => { x with ctx := some id }).push 0 id (.resume id k), true)
  | none => match s.nextGrid r core with
    | none => (s, false)
    | some (g, e) =>
      let n := e.issued
      match skipBit s r e n with
      | (s, .ok false) =>
        let bars := (s.arb.cut.filter (fun q => decide (q.1 = gridKey r g))).map (·.2)
        (issueIndex (point s) r g n (s.placeFor r g (fld (e.pk 0) 16 16) bars core) e, true)
      | (s, .ok true) => match retireBit s r g n with
        | (s, false) => (s, false)
        | (s, true) => (endGrid (putGrid s r g { e with issued := n + 1, retired := e.retired + 1 }) r g, true)
      | (s1, .error x) =>
        if x.res = .wait then (s.keepAsks s1, false)
        else
          let (cause, d) := (x.fault.map (fun f => (f.1, f.2.2))).getD (Cause.dataError, 0)
          let s := putGrid s1 r g { e with issued := n + 1, faults := e.faults + 1 }
          (endGrid (eventRecord s r 4 2 g 0 (faultDetail cause d.toNat)) r g, true)

/-- ARBITER_CHOICE: one choice, for the lowest-numbered free core that has ready work (R212, R213, R221). -/
def execArbiterChoice (s : State) : Host.Outcome State Fault Refusal :=
  let free := (List.range 288).filter s.coreFree
  match free.findSome? (fun c => (s.chooseRegion c).map (fun x => (c, x))) with
  | some (c, p, r) => match doChoice s c p r with
    | (s, true) => fin (callArbiter s)
    | (s, false) => .next (s.push 1 0 .arbiterChoice)
  | none => .next (s.pushOnce 0 0 .preemptRequest)

/-! ### Pre-emption (R211, R214, R307) -/

/-- The rank of a region: unfunded below funded, then the effective priority (R214). -/
def State.rankOf (s : State) (r : Nat) : Nat := (if s.funded r then 16 else 0) + s.prioOf s.depth r

/-- Whether a core is about to come free. -/
def State.vacating (s : State) (core : Nat) : Bool :=
  match (s.core core).ctx.bind s.ctx with
  | none => (s.core core).clearing.isSome
  | some c => c.want.isSome || c.leaving || c.isOver

/-- The tasks that would give way to a region on some cores (R214); `ripe` are those that have run 4 µs. -/
def State.victims (s : State) (p : Nat × List Nat) (ripe : Bool) : List (Nat × Ctx) :=
  s.cores.filterMap fun (k, c) =>
    match c.ctx.bind s.ctx with
    | some x =>
      if p.2.contains k = true ∧ s.rankOf x.who.region < s.rankOf p.1 ∧ x.loc = .resident k ∧ s.frameOwns k (s.worldOf p.1) = true
          ∧ (ripe = false ∨ x.since + 4 * usCycles ≤ s.now) then some (k, x) else none
    | none => none

/-- Whether a region has ready work for a core beside the tasks that are bound to it (R213). -/
def State.freeWork (s : State) (r core : Nat) : Bool :=
  s.readyOn r core && ((s.nextGrid r core).isSome || (s.absentTasks r).any (fun p => (s.boundCore p.2).isNone))

/-- Who needs a core: a funded region with ready work and no free core in its mask; and one whose task is bound to a busy core (R213, R214). -/
def State.needy (s : State) : List (Nat × List Nat) :=
  let open' (c : Nat) : Bool := s.coreFree c || s.vacating c
  ((s.arb.regions.map (·.1)).filter s.funded).flatMap fun r =>
    let mask := (List.range 288).filter (fun c => (s.maskOf s.depth r).testBit c)
    let bound := (s.absentTasks r).filterMap (fun p => s.boundCore p.2)
    (if mask.any (s.freeWork r) && !mask.any open' then [(r, mask)] else [])
      ++ (bound.filter (fun c => s.readyOn r c && !open' c)).map (fun c => (r, [c]))

/-- Whether a halted task stands on a core. -/
def State.haltedAt (s : State) (core : Nat) : Bool :=
  ((s.core core).ctx.bind s.ctx).any (fun x => bit x.dbg.stat 8 && decide (x.loc = .resident core))

/-- PREEMPT_REQUEST: a funded region with ready work and no free core in its mask, or whose bound task's core is busy, has the lowest-ranked task of its
cores that has run 4 µs switched out, the most recently started among those (R213, R214). -/
def execPreemptRequest (s : State) : Host.Outcome State Fault Refusal :=
  let needy := s.needy
  -- a halted task whose core the arbiter needs is switched out for its debugger's halt (R391)
  match (needy.flatMap (·.2)).find? s.haltedAt with
  | some k => .next ((s.push 0 0 (.switchRequest k 3)).pushOnce 1 0 .preemptRequest)
  | none =>
  match leastBy (fun (p : Nat × List Nat) => 32 - s.rankOf p.1) (needy.filter (fun p => !(s.victims p true).isEmpty)) with
  | some p =>
    match leastBy (fun (p : Nat × Ctx) => s.rankOf p.2.who.region * 2 ^ 64 + (s.now - p.2.since)) (s.victims p true) with
    | some (k, _) => .next ((s.push 0 0 (.switchRequest k 0)).pushOnce 1 0 .preemptRequest)
    | none => .next s
  | none =>
    -- the next of them to have run 4 µs
    match leastBy id ((needy.flatMap (fun p => s.victims p false)).map (fun p => p.2.since)) with
    | some t => .next (s.pushBy (t + 4 * usCycles - s.now) 0 .preemptRequest)
    | none => .next s

/-- YIELD: the task asks for its own pre-emption when ready work for this core ranks at or above its region (R307). -/
def execYield (s : State) : Host.Outcome State Fault Refusal :=
  slotStep s fun _ c =>
    let k := c.anyCore
    let ok (r : Nat) : Bool := s.readyOn r k && (s.eligible r true || s.eligible r false) && decide (s.rankOf c.who.region ≤ s.rankOf r)
    if (s.arb.regions.map (·.1)).any ok then s.push 0 0 (.switchRequest k 4) else s

/-! ### Starts (R47, R48, R65, R201, R397) -/

/-- A task that enters a core in a frame of another world issues nothing there, and is switched out (R418). -/
def joinFrame (s : State) (id core : Nat) : State :=
  match s.ctx id with
  | none => s
  | some c =>
    let own := s.frameOwns core c.who.world
    let idle := !bit (s.core core).frametab (4 * (s.core core).frame + 3)
    let s := s.setCtx id { c with idle := !own }
    if own || idle then s else s.push 0 0 (.switchRequest core 1)

/-- The start of a task on its core, with its permission granted. -/
def enterCore (s : State) (id core : Nat) (c : Ctx) : State :=
  let s := grantBlocks s c core true
  let s := s.setCtx id { c with loc := .resident core, since := s.now, seenAt := s.now, idle := !s.frameOwns core c.who.world }
  joinFrame (s.updCore core fun x => { x with ready := s.now }) id core

/-- TASK_START: the context engine reads the template, checks it, has the quadrants of the task's blocks cleared, grants permission, and the task may
issue (R44, R47, R48, R65, R201, R397). A context whose template has been read has `image` 0. -/
def execTaskStart (s : State) : Host.Outcome State Fault Refusal :=
  let id := s.subj
  match s.ctx id with
  | none => .next s
  | some c => match c.loc with
    | .pending core =>
      let w : Who := { s.whoTask c 4 false with core := core }
      let read : State × Except Stop (List Byte) := if c.image = 0 then (s, .ok []) else readBytes s w (s.envTask c) c.image 0x6000
      match read with
      | (s1, .error x) =>
        if x.res = .wait then .next ((s.keepAsks s1).push 1 id .taskStart)
        else
          let (cause, d) := (x.fault.map (fun f => (f.1, f.2.2))).getD (Cause.dataError, 0)
          .next (s1.fatal id cause d)
      | (s, .ok bs) =>
        match (if c.image = 0 then some c else Ctx.load s c bs) with
        | none => .next (s.fatal id Cause.contextFormat 0)
        | some c =>
          if 64 < (s.core core).spt.length + c.runs.length then .next (s.fatal id Cause.contextFormat 0)
          else match readyQuads s core c.runs with
            | (s, false) => .next ((s.setCtx id { c with image := 0 }).push 1 id .taskStart)
            | (s, true) => .next (enterCore s id core c)
    | _ => .next s

/-! ### The budget period (R194, R210, R436, R449) -/

/-- A pool's tokens at a boundary: the budget, with debt carried (R210). -/
def refill (budget : Nat) (tok : Int) : Int := budget + Min.min tok 0

/-- A region at a period boundary: a refresh takes effect, and its own pools are refilled (R194, R210). -/
def Region.period (x : Region) : Region :=
  let l := x.staged.getD x.rcb
  let d1 := l.getD 1 0
  let d9 := l.getD 9 0
  let pow : Int := if bit d1 11 then fld d9 0 16 * periodCycles + Min.min x.powTok 0 else x.powTok
  let own (k : Nat) (t budget tok : Int) : Int := if bit d1 k then budget + Min.min tok 0 else t
  { x with
    rcb := l, staged := none
    coreTok := own 8 x.coreTok (fld d9 48 16 * 875) x.coreTok, hbmTok := own 9 x.hbmTok (fld d9 32 16 * 1024) x.hbmTok
    fabTok := own 10 x.fabTok (fld d9 16 16 * 1024) x.fabTok, powTok := pow
    powThrottle := decide (pow < 0) }

/-- The device's fields of an RCB are written back, an access of the device for itself that no pool pays for (R193, R194). -/
def writeBack (s : State) (r : Nat) (x : Region) : State :=
  let t (v : Int) : Nat := wrap 32 v
  s.devWrite { s.whoRegion r 4 with req := 7 } (x.addr + 8 * 21) (leBytes 8 (t x.coreTok * 2 ^ 32) ++ leBytes 8 (t x.hbmTok * 2 ^ 32 + t x.fabTok))

/-- BUDGET_PERIOD: every 8 µs the pools are refilled with debt carried, refreshes take effect, the RCB fields are written back, and the power
estimate is compared with its limits (R194, R210, R211, R436, R449). -/
def execBudgetPeriod (s : State) : Host.Outcome State Fault Refusal :=
  let (t, s) := s.fresh
  let est := Config.powerEstimate t 0
  let s := { s with arb := { s.arb with regions := Tab.each (fun _ x => x.period) s.arb.regions } }
  let s := s.arb.regions.foldl (fun s p => writeBack s p.1 p.2) s
  let throttled := decide (s.host.pwrlim < est)
  let s := { s with
    host := { s.host with
      pwrNow := est % 2 ^ 16, throttle := throttled, pwrCount := if throttled then satAdd 32 s.host.pwrCount 1 else s.host.pwrCount }
    pchs := Tab.each (fun k p =>
      let d := s.die (k / 128)
      { p with scrubTok := refill d.scrubB p.scrubTok, refTok := refill (Nat.max d.refB Config.refreshFloor) p.refTok }) s.pchs
    dies := Tab.each (fun _ d => { d with teleTok := Tab.each (fun _ t => refill d.teleB t) d.teleTok }) s.dies
    mid := { s.mid with
      ports := Tab.each (fun _ q => { q with retrTok := refill s.mid.retrB q.retrTok }) s.mid.ports
      dieTok := Tab.each (fun _ t => refill s.mid.retrB t) s.mid.dieTok } }
  let s := s.mid.ports.foldl (fun s p => if p.2.waits then s.push 0 p.1 .portTrainTimeout else s) s
  fin (callArbiter (s.push periodCycles 0 .budgetPeriod))

/-! ### Die links (R218, R219, R434) -/

/-- The two compute dies of a link between adjacent dies (R434), lower first. -/
def linkDies (l : Nat) : Nat × Nat :=
  match l with
  | 4 => (0, 1)
  | 5 => (1, 3)
  | 6 => (2, 3)
  | _ => (0, 2)

/-- Whether a context runs on a die. -/
def Ctx.onDie (c : Ctx) (d : Nat) : Bool :=
  match c.loc with
  | .absent => false
  | .engine => false
  | _ => dieOf c.anyCore = d

/-- DIE_LINK_FAIL: a die link has failed: a die cut off from the Midfield die loses its tasks and its place in service; of a pair of adjacent dies, each
grid on both loses its tasks on the higher-numbered one (R218, R434). -/
def execDieLinkFail (s : State) : Host.Outcome State Fault Refusal :=
  let l := s.subj
  let s := { s with linksDown := if l ∈ s.linksDown then s.linksDown else l :: s.linksDown }
  let s :=
    if l < 4 then
      let s := killAll (s.updDie l fun d => { d with dieen := false }) (fun _ c => c.onDie l)
      { s with cores := Tab.each (fun k c => if dieOf k = l then ({ c with selftest := 0 } : Core) else c) s.cores }
    else
      let (a, b) := linkDies l
      let keyOf (c : Ctx) : Nat := gridKey c.who.region c.who.grid
      let onDie (d : Nat) : List Nat := (s.ctxs.filter (fun (_, c) => c.onDie d)).map (fun p => keyOf p.2)
      let both := ((onDie a).filter (fun k => (onDie b).contains k)).eraseDups
      let s := { s with arb := { s.arb with cut := s.arb.cut ++ both.map (fun k => (k, b)) } }
      killAll s (fun _ c => c.onDie b && both.contains (keyOf c))
  fin (callArbiter (logError s 4 0x07 7 0x1FF 0 0 0 (BitVec.ofNat 64 l) false))

end Sys2Proof.Machine
end

