-- ==== Sys2Proof/Machine/Sched.lean ====
section
/-! DEFINITION. What may happen next: the steps that are due, the cores that may issue, and the passing of time (notes/assumptions/2). -/

namespace Sys2Proof.Machine

/-- Whether a core may issue in this cycle: it holds a resident task that has neither ended nor halted, and no switch of it is due, which comes before
the next issue and the next event (R383, R391). -/
def State.mayIssue (s : State) (k : Nat) : Bool :=
  let c := s.core k
  decide (c.ready ≤ s.now) && !s.switchDue k && match c.ctx.bind s.ctx with
    | some x => decide (x.loc = .resident k) && !x.isOver && !bit x.dbg.stat 8 && !x.idle && !x.leaving && !x.stageOut && !x.dbg.settling && !x.ph.err && x.ph.op.isNone
    | none => false

/-- The cores that may issue, lowest first. -/
def State.issuers (s : State) : List Nat := (s.cores.map (·.1)).filter s.mayIssue

/-- Steps whose cycle the manual does not fix: they may come any number of cycles after they are due. -/
def Instr.floats : Instr → Bool
  | .loadReturn => true
  | .atomicComplete => true
  | .phaseReleaseDone => true
  | .fenceSatisfied => true
  | .taskFinish => true
  | .invalidationComplete => true
  | .matrixRetire => true
  | .vecComplete => true
  | .commandStart => true
  | .commandComplete .. => true
  | .commandFault .. => true
  | .ringClaim .. => true
  | .ringSlotLanded .. => true
  | .releaseAccepted => true
  | .releaseComplete => true
  | .remoteRequestSend => true
  | .remotePerform .. => true
  | .contributionApply => true
  | .resultWriteDone => true
  | .divertedAccess => true
  | .scrubRead => true
  | .walkStart => true
  | .walkComplete => true
  | _ => false

/-- One thing that may happen next: a step due, with its place in the agenda; a core's issue; time passing. -/
inductive Choice where
  | due (k : Nat)
  | issue (core : Nat)
  | idle
deriving DecidableEq, Repr

/-- The places in the agenda of the steps that are due. -/
def State.dueList (s : State) : List Nat :=
  (s.agenda.zipIdx.filter (fun p => decide (p.1.1 ≤ s.now))).map (·.2)

/-- Steps that stand for the end of the cycle before: they come before anything else of their cycle (R246, R247). -/
def Instr.endsCycle : Instr → Bool
  | .prmWrite => true
  | .scaleWrite => true
  | _ => false

/-- What may happen next. Writes of the permute and scale units come first. Time may pass only when no step due now must happen in this cycle and no core can issue, or when some step due now
may come later. -/
def State.choices (s : State) : List Choice :=
  let due := s.dueList
  let steps := due.filterMap (fun k => s.agenda[k]?.map (·.2.2))
  let acts := due.map Choice.due ++ s.issuers.map Choice.issue
  match due.find? (fun k => (s.agenda[k]?).any (fun e => Instr.endsCycle e.2.2)) with
  | some k => [.due k]
  | none =>
  if acts = [] then [.idle]
  else if steps.all Instr.floats && !steps.isEmpty then acts ++ [.idle]
  else acts

/-- The choice made: the only one, or the one that Config.schedule picks. -/
def State.pick (s : State) : Choice × State :=
  match s.choices with
  | [] => (.idle, s)
  | [x] => (x, s)
  | l => ((l[Config.schedule s.tick l.length % l.length]?).getD .idle, { s with tick := s.tick + 1 })

/-- Time passes: to the next cycle while a task is on a core, otherwise to the next step due. Every core that holds a task charges its region, and
every region uses energy (R210); when a core pool has run out, the arbiter looks for tasks that must give way (R214). -/
def State.passTime (s : State) : State :=
  let busy := s.cores.any (fun (_, c) => c.ctx.isSome)
  let next := (s.agenda.map (·.1)).filter (fun t => decide (s.now < t))
  let t := if busy then s.now + 1 else (leastBy id next).getD (s.now + 1)
  let held := s.cores.filterMap (fun (_, c) => (c.ctx.bind s.ctx).map (·.who.region))
  let n := t - s.now
  let was := s.arb.regions
  let s := held.foldl (fun s r => s.chargeCore r n) s
  let s := was.foldl (fun s p => s.chargePower p.1 (Config.powerEstimate s.now (p.1 + 1) * n)) s
  let out (p : Nat × Region) : Bool := decide (0 < p.2.coreTok) && (s.arb.regions.look p.1).any (fun x => decide (x.coreTok ≤ 0))
  let s := if was.any out then s.pushOnce n 0 .preemptRequest else s
  { s with now := t }

end Sys2Proof.Machine
end

