-- ==== Sys2Proof/Machine/HandleOps.lean ====
section
/-! DEFINITION. The handle instructions (R296, R297). -/

namespace Sys2Proof.Machine

/-- HSET: field f of h[d] := the low bits of s[a] (R296). -/
def execHset (hd : BitVec 5) (a f : BitVec 6) (s : State) : Host.Outcome State Fault Refusal :=
  slotStep s fun id c =>
    let (lo, n, _) := handleField f.toNat
    s.wrH id hd (setHfld (s.rh c hd) lo n (s.rs c a).toNat)

/-- HGET: s[d] := field f of h[a]; strides sign-extended (R296). -/
def execHget (d : BitVec 6) (ha : BitVec 5) (f : BitVec 6) (s : State) : Host.Outcome State Fault Refusal :=
  slotStep s fun id c =>
    let (lo, n, sg) := handleField f.toNat
    let v := hfld (s.rh c ha) lo n
    s.wrS id d (if sg then BitVec.ofInt 64 (signed n v) else BitVec.ofNat 64 v)

/-- HADV: h[d] := h[a] with BASE moved by s[b] (R296). -/
def execHadv (hd ha : BitVec 5) (b : BitVec 6) (s : State) : Host.Outcome State Fault Refusal :=
  slotStep s fun id c => s.wrH id hd (hMove (s.rh c ha) (s.rs c b).toNat)

/-- HDIM: EXTENTk := s[a][15:0] and, for k ≥ 1, STRIDE(k − 1) := s[b][31:0] (R296). -/
def execHdim (hd : BitVec 5) (a b : BitVec 6) (k : BitVec 2) (s : State) : Host.Outcome State Fault Refusal :=
  slotStep s fun id c =>
    let h := setHfld (s.rh c hd) (64 + 16 * k.toNat) 16 (s.rs c a).toNat
    s.wrH id hd (if k = 0 then h else setHfld h (128 + 32 * (k.toNat - 1)) 32 (s.rs c b).toNat)

end Sys2Proof.Machine
end

