-- ==== Sys2Proof/Machine/ScalarFp.lean ====
section
/-! DEFINITION. The scalar floating-point instructions (R288, R289). -/

namespace Sys2Proof.Machine

/-- The format of a FMT field (R288). -/
def sFmt (f : BitVec 2) : FloatFmt := match f.toNat with
  | 0 => fp32
  | 1 => fp16
  | _ => bf16

/-- Whether a FMT field names a result wider than 16 bits. -/
def sWide (f : BitVec 2) : Bool := f == 0

/-- The value of a scalar register in a format: its low bits (R288). -/
def fpVal (f : BitVec 2) (v : DWord) : Val := (sFmt f).decode (v.toNat % 2 ^ (sFmt f).width)

/-- The draw of an instruction that rounds in a mode: with SR, RNGX steps once and gives the seed, and element 0 takes its first draw
(R179, R288). -/
def rngxDraw (s : State) (id : Nat) (mode : Nat) : State × Nat :=
  if mode = 4 then
    match s.ctx id with
    | some c =>
      let p := xorshift c.regs.rngx
      (s.updCtx id (·.updRegs (fun r => { r with rngx := p })), drawOf p 0)
    | none => (s, 0)
  else (s, 0)

/-- Sets the sticky flags of an instruction (R289). -/
def setFlags (s : State) (id : Nat) (f : Flags) : State := s.updCtx id (·.updRegs (fun r => { r with fpctl := fpFlags r.fpctl f }))

/-- A floating result: rounded once, written into the low bits, with its flags; NV too when a NaN comes from operands that are none
(R176, R288, R289). -/
def fpResult (s : State) (d : BitVec 6) (f : BitVec 2) (rc : BitVec 3) (v : Regs → Nat → Val) (given : Regs → List Val) :
    Host.Outcome State Fault Refusal :=
  slotStep s fun id c =>
    let r := s.srcRegs c
    let mode := modeOf rc.toNat r.fpctl (sWide f)
    let (s, draw) := rngxDraw s id mode
    let x := v r mode
    let (bits, fl) := (sFmt f).encodeF mode true (ftzOf r.fpctl) draw x
    let nv := x.isNan && !(given r).any Val.isNan
    (setFlags s id { fl with nv := fl.nv || nv }).wrS id d (BitVec.ofNat 64 bits)

/-- FADD: a + b, rounded once (R288). -/
def execFadd (d a b : BitVec 6) (fmt : BitVec 2) (rc : BitVec 3) (s : State) : Host.Outcome State Fault Refusal :=
  fpResult s d fmt rc (fun r m => (fpVal fmt (r.getS a)).add m (fpVal fmt (r.getS b)))
    (fun r => [fpVal fmt (r.getS a), fpVal fmt (r.getS b)])

/-- FSUB: a − b, rounded once (R288). -/
def execFsub (d a b : BitVec 6) (fmt : BitVec 2) (rc : BitVec 3) (s : State) : Host.Outcome State Fault Refusal :=
  fpResult s d fmt rc (fun r m => (fpVal fmt (r.getS a)).add m (fpVal fmt (r.getS b)).negate)
    (fun r => [fpVal fmt (r.getS a), fpVal fmt (r.getS b)])

/-- FMUL: a × b, rounded once (R288). -/
def execFmul (d a b : BitVec 6) (fmt : BitVec 2) (rc : BitVec 3) (s : State) : Host.Outcome State Fault Refusal :=
  fpResult s d fmt rc (fun r _ => (fpVal fmt (r.getS a)).mul (fpVal fmt (r.getS b)))
    (fun r => [fpVal fmt (r.getS a), fpVal fmt (r.getS b)])

/-- FFMA: a × b + s[d], rounded once (R288). -/
def execFfma (d a b : BitVec 6) (fmt : BitVec 2) (rc : BitVec 3) (s : State) : Host.Outcome State Fault Refusal :=
  fpResult s d fmt rc (fun r m => ((fpVal fmt (r.getS a)).mul (fpVal fmt (r.getS b))).add m (fpVal fmt (r.getS d)))
    (fun r => [fpVal fmt (r.getS a), fpVal fmt (r.getS b), fpVal fmt (r.getS d)])

/-- Minimum or maximum of a format under R167; no flags; FTZ applies to the result (R175). -/
def fpMinMax (s : State) (d a b : BitVec 6) (fmt : BitVec 2) (max : Bool) : Host.Outcome State Fault Refusal :=
  slotStep s fun id c =>
    let r := s.srcRegs c
    let v := Val.minMax max (fpVal fmt (r.getS a)) (fpVal fmt (r.getS b))
    s.wrS id d (BitVec.ofNat 64 ((sFmt fmt).encode 0 true (ftzOf r.fpctl) 0 v))

/-- FMIN (R167, R288). -/
def execFmin (d a b : BitVec 6) (fmt : BitVec 2) (s : State) : Host.Outcome State Fault Refusal := fpMinMax s d a b fmt false
/-- FMAX (R167, R288). -/
def execFmax (d a b : BitVec 6) (fmt : BitVec 2) (s : State) : Host.Outcome State Fault Refusal := fpMinMax s d a b fmt true

/-- A floating comparison; `quiet` ones set no flag on a NaN (R288, R289). -/
def fpCompare (s : State) (d a b : BitVec 6) (fmt : BitVec 2) (quiet : Bool) (f : Val → Val → Bool) : Host.Outcome State Fault Refusal :=
  slotStep s fun id c =>
    let x := fpVal fmt (s.rs c a)
    let y := fpVal fmt (s.rs c b)
    let nan := x.isNan || y.isNan
    (setFlags s id { Flags.none with nv := nan && !quiet }).wrS id d (if !nan && f x y then 1 else 0)

/-- FEQ (R288). -/
def execFeq (d a b : BitVec 6) (fmt : BitVec 2) (s : State) : Host.Outcome State Fault Refusal := fpCompare s d a b fmt true Val.eq
/-- FLT (R288). -/
def execFlt (d a b : BitVec 6) (fmt : BitVec 2) (s : State) : Host.Outcome State Fault Refusal := fpCompare s d a b fmt false Val.lt
/-- FLE (R288). -/
def execFle (d a b : BitVec 6) (fmt : BitVec 2) (s : State) : Host.Outcome State Fault Refusal :=
  fpCompare s d a b fmt false (fun x y => !y.lt x)

/-- FCVT: a converted between two formats; equal formats return a, a NaN becoming the generated NaN (R288). -/
def execFcvt (d a : BitVec 6) (dst fmt : BitVec 2) (rc : BitVec 3) (s : State) : Host.Outcome State Fault Refusal :=
  if dst = fmt then
    slotStep s fun id c =>
      let w := (s.rs c a).toNat % 2 ^ (sFmt fmt).width
      s.wrS id d (BitVec.ofNat 64 (if ((sFmt fmt).decode w).isNan then (sFmt fmt).nan else w))
  else fpResult s d dst rc (fun r _ => fpVal fmt (r.getS a)) (fun r => [fpVal fmt (r.getS a)])

/-- FTOI: a to an integer of 64 or 32 bits, signed or not (R181, R288). -/
def execFtoi (d a : BitVec 6) (u w : Bool) (fmt : BitVec 2) (rc : BitVec 3) (s : State) : Host.Outcome State Fault Refusal :=
  slotStep s fun id c =>
    let r := s.srcRegs c
    let mode := modeOf rc.toNat r.fpctl true
    let (v, fl) := toIntF mode 0 (if w then 32 else 64) (!u) (fpVal fmt (r.getS a))
    (setFlags s id fl).wrS id d (if w && u then BitVec.ofNat 64 (wrap 32 v) else BitVec.ofInt 64 v)

/-- ITOF: an integer of 64 or 32 bits to a format (R181, R288). -/
def execItof (d a : BitVec 6) (u w : Bool) (fmt : BitVec 2) (rc : BitVec 3) (s : State) : Host.Outcome State Fault Refusal :=
  let v (r : Regs) : Val :=
    let x := r.getS a
    Val.ofInt (if u then (if w then x.toNat % 2 ^ 32 else x.toNat) else if w then signed 32 x.toNat else x.toInt)
  fpResult s d fmt rc (fun r _ => v r) (fun r => [v r])

/-- FSGN: a with its sign bit replaced (R288). -/
def execFsgn (d a b : BitVec 6) (fmt : BitVec 2) (op : BitVec 3) (s : State) : Host.Outcome State Fault Refusal :=
  slotStep s fun id c =>
    let n := (sFmt fmt).width
    let x := (s.rs c a).toNat % 2 ^ n
    let sa := (s.rs c a).getLsbD (n - 1)
    let sb := (s.rs c b).getLsbD (n - 1)
    let sg := match op.toNat with
      | 0 => sb
      | 1 => !sb
      | _ => sa != sb
    s.wrS id d (BitVec.ofNat 64 (x % 2 ^ (n - 1) + b2n sg * 2 ^ (n - 1)))

/-- The class bit of a value's bits (R288). -/
def classBit (p : FloatFmt) (w : Nat) : Nat :=
  let sub := decide (w / 2 ^ p.f % 2 ^ p.e = 0)
  match p.decode w with
  | .nan => 8
  | .inf n => if n then 0 else 7
  | .fin n num _ _ =>
    if num = 0 then if n then 3 else 4
    else if sub then if n then 2 else 5
    else if n then 1 else 6

/-- FCLASS: the class mask of a (R288). -/
def execFclass (d a : BitVec 6) (fmt : BitVec 2) (s : State) : Host.Outcome State Fault Refusal :=
  slotStep s fun id c =>
    s.wrS id d (BitVec.ofNat 64 (2 ^ classBit (sFmt fmt) ((s.rs c a).toNat % 2 ^ (sFmt fmt).width)))

end Sys2Proof.Machine
end

