-- ==== Sys2Proof/Machine/ScalarInt.lean ====
section
/-! DEFINITION. The integer instructions of the ALU slots (R285 to R287). -/

namespace Sys2Proof.Machine

/-- s[d] := a function of the slot's registers. -/
def aluOp (s : State) (d : BitVec 6) (f : Regs → DWord) : Host.Outcome State Fault Refusal :=
  slotStep s (fun id c => s.wrS id d (f (s.srcRegs c)))

/-- The signed quotient, truncated toward zero; −1 for a zero divisor (R287). -/
def quotS {n : Nat} (a b : BitVec n) : BitVec n := if b = 0 then BitVec.allOnes n else a.sdiv b
/-- The unsigned quotient; all ones for a zero divisor (R287). -/
def quotU {n : Nat} (a b : BitVec n) : BitVec n := if b = 0 then BitVec.allOnes n else a / b
/-- The signed remainder with the sign of a; a for a zero divisor (R287). -/
def remS {n : Nat} (a b : BitVec n) : BitVec n := if b = 0 then a else a.srem b
/-- The unsigned remainder; a for a zero divisor (R287). -/
def remU {n : Nat} (a b : BitVec n) : BitVec n := if b = 0 then a else a % b
/-- The upper half of the signed product (R285, R286). -/
def mulHiS {n : Nat} (a b : BitVec n) : BitVec n := BitVec.ofInt n (a.toInt * b.toInt / 2 ^ n)
/-- The upper half of the unsigned product. -/
def mulHiU {n : Nat} (a b : BitVec n) : BitVec n := BitVec.ofNat n (a.toNat * b.toNat / 2 ^ n)
/-- Leading zero bits. -/
def clzBits {n : Nat} (a : BitVec n) : Nat := if a = 0 then n else n - 1 - a.toNat.log2
/-- Trailing zero bits from position k, of at most `fuel` bits. -/
def ctzFrom (v : Nat) : Nat → Nat → Nat
  | 0, k => k
  | fuel + 1, k => if v.testBit k then k else ctzFrom v fuel (k + 1)
/-- Trailing zero bits. -/
def ctzBits {n : Nat} (a : BitVec n) : Nat := ctzFrom a.toNat n 0
/-- Bits set. -/
def popBits {n : Nat} (a : BitVec n) : Nat := ((List.range n).filter a.getLsbD).length
/-- A count over 64 or 32 bits (R286). -/
def countW (w : Bool) (f64 : DWord → Nat) (f32 : Word → Nat) (a : DWord) : DWord :=
  BitVec.ofNat 64 (if w then f32 (lo32 a) else f64 a)
/-- A shift by the low 6 bits of b, or 5 on words (R285, R286). -/
def shiftW (w : Bool) (f64 : DWord → Nat → DWord) (f32 : Word → Nat → Word) (a : DWord) (n : Nat) : DWord :=
  if w then sx32 (f32 (lo32 a) (n % 32)) else f64 a (n % 64)

/-- s[d] := a + b (R285, R286). -/
def execAdd (d a b : BitVec 6) (w : Bool) (s : State) : Host.Outcome State Fault Refusal :=
  aluOp s d (fun r => byW w (· + ·) (· + ·) (r.getS a) (r.getS b))

/-- s[d] := a − b (R285, R286). -/
def execSub (d a b : BitVec 6) (w : Bool) (s : State) : Host.Outcome State Fault Refusal :=
  aluOp s d (fun r => byW w (· - ·) (· - ·) (r.getS a) (r.getS b))

/-- s[d] := the low half of a × b (R285, R286). -/
def execMul (d a b : BitVec 6) (w : Bool) (s : State) : Host.Outcome State Fault Refusal :=
  aluOp s d (fun r => byW w (· * ·) (· * ·) (r.getS a) (r.getS b))

/-- s[d] := the high half of the signed product (R285, R286). -/
def execMulh (d a b : BitVec 6) (w : Bool) (s : State) : Host.Outcome State Fault Refusal :=
  aluOp s d (fun r => byW w mulHiS mulHiS (r.getS a) (r.getS b))

/-- s[d] := the high half of the unsigned product (R285, R286). -/
def execMulhu (d a b : BitVec 6) (w : Bool) (s : State) : Host.Outcome State Fault Refusal :=
  aluOp s d (fun r => byW w mulHiU mulHiU (r.getS a) (r.getS b))

/-- s[d] := the signed quotient (R285, R286). -/
def execDiv (d a b : BitVec 6) (w : Bool) (s : State) : Host.Outcome State Fault Refusal :=
  aluOp s d (fun r => byW w quotS quotS (r.getS a) (r.getS b))

/-- s[d] := the unsigned quotient (R285, R286). -/
def execDivu (d a b : BitVec 6) (w : Bool) (s : State) : Host.Outcome State Fault Refusal :=
  aluOp s d (fun r => byW w quotU quotU (r.getS a) (r.getS b))

/-- s[d] := the signed remainder (R285, R286). -/
def execRem (d a b : BitVec 6) (w : Bool) (s : State) : Host.Outcome State Fault Refusal :=
  aluOp s d (fun r => byW w remS remS (r.getS a) (r.getS b))

/-- s[d] := the unsigned remainder (R285, R286). -/
def execRemu (d a b : BitVec 6) (w : Bool) (s : State) : Host.Outcome State Fault Refusal :=
  aluOp s d (fun r => byW w remU remU (r.getS a) (r.getS b))

/-- s[d] := a and b (R285). -/
def execAnd (d a b : BitVec 6) (s : State) : Host.Outcome State Fault Refusal :=
  aluOp s d (fun r => r.getS a &&& r.getS b)

/-- s[d] := a or b (R285). -/
def execOr (d a b : BitVec 6) (s : State) : Host.Outcome State Fault Refusal :=
  aluOp s d (fun r => r.getS a ||| r.getS b)

/-- s[d] := a xor b (R285). -/
def execXor (d a b : BitVec 6) (s : State) : Host.Outcome State Fault Refusal :=
  aluOp s d (fun r => r.getS a ^^^ r.getS b)

/-- s[d] := a and not b (R285). -/
def execAndn (d a b : BitVec 6) (s : State) : Host.Outcome State Fault Refusal :=
  aluOp s d (fun r => r.getS a &&& ~~~(r.getS b))

/-- s[d] := a + imm (R285). -/
def execAddi (d a : BitVec 6) (imm : BitVec 31) (s : State) : Host.Outcome State Fault Refusal :=
  aluOp s d (fun r => r.getS a + imm64 imm)

/-- s[d] := a and imm (R285). -/
def execAndi (d a : BitVec 6) (imm : BitVec 31) (s : State) : Host.Outcome State Fault Refusal :=
  aluOp s d (fun r => r.getS a &&& imm64 imm)

/-- s[d] := a or imm (R285). -/
def execOri (d a : BitVec 6) (imm : BitVec 31) (s : State) : Host.Outcome State Fault Refusal :=
  aluOp s d (fun r => r.getS a ||| imm64 imm)

/-- s[d] := a xor imm (R285). -/
def execXori (d a : BitVec 6) (imm : BitVec 31) (s : State) : Host.Outcome State Fault Refusal :=
  aluOp s d (fun r => r.getS a ^^^ imm64 imm)

/-- s[d] := 1 when a < imm signed (R285). -/
def execSlti (d a : BitVec 6) (imm : BitVec 31) (s : State) : Host.Outcome State Fault Refusal :=
  aluOp s d (fun r => if (r.getS a).slt (imm64 imm) then 1 else 0)

/-- s[d] := a shifted (SHL) by b (R285, R286). -/
def execShl (d a b : BitVec 6) (w : Bool) (s : State) : Host.Outcome State Fault Refusal :=
  aluOp s d (fun r => shiftW w (· <<< ·) (· <<< ·) (r.getS a) (r.getS b).toNat)

/-- s[d] := a shifted (SHR) by b (R285, R286). -/
def execShr (d a b : BitVec 6) (w : Bool) (s : State) : Host.Outcome State Fault Refusal :=
  aluOp s d (fun r => shiftW w (· >>> ·) (· >>> ·) (r.getS a) (r.getS b).toNat)

/-- s[d] := a shifted (SRA) by b (R285, R286). -/
def execSra (d a b : BitVec 6) (w : Bool) (s : State) : Host.Outcome State Fault Refusal :=
  aluOp s d (fun r => shiftW w (·.sshiftRight ·) (·.sshiftRight ·) (r.getS a) (r.getS b).toNat)

/-- s[d] := a shifted (ROR) by b (R285, R286). -/
def execRor (d a b : BitVec 6) (w : Bool) (s : State) : Host.Outcome State Fault Refusal :=
  aluOp s d (fun r => shiftW w (·.rotateRight ·) (·.rotateRight ·) (r.getS a) (r.getS b).toNat)

/-- s[d] := a shifted (SHLI) by n (R285, R286). -/
def execShli (d a n : BitVec 6) (w : Bool) (s : State) : Host.Outcome State Fault Refusal :=
  aluOp s d (fun r => shiftW w (· <<< ·) (· <<< ·) (r.getS a) n.toNat)

/-- s[d] := a shifted (SHRI) by n (R285, R286). -/
def execShri (d a n : BitVec 6) (w : Bool) (s : State) : Host.Outcome State Fault Refusal :=
  aluOp s d (fun r => shiftW w (· >>> ·) (· >>> ·) (r.getS a) n.toNat)

/-- s[d] := a shifted (SRAI) by n (R285, R286). -/
def execSrai (d a n : BitVec 6) (w : Bool) (s : State) : Host.Outcome State Fault Refusal :=
  aluOp s d (fun r => shiftW w (·.sshiftRight ·) (·.sshiftRight ·) (r.getS a) n.toNat)

/-- s[d] := CLZ of a (R285, R286). -/
def execClz (d a : BitVec 6) (w : Bool) (s : State) : Host.Outcome State Fault Refusal :=
  aluOp s d (fun r => countW w clzBits clzBits (r.getS a))

/-- s[d] := CTZ of a (R285, R286). -/
def execCtz (d a : BitVec 6) (w : Bool) (s : State) : Host.Outcome State Fault Refusal :=
  aluOp s d (fun r => countW w ctzBits ctzBits (r.getS a))

/-- s[d] := POPC of a (R285, R286). -/
def execPopc (d a : BitVec 6) (w : Bool) (s : State) : Host.Outcome State Fault Refusal :=
  aluOp s d (fun r => countW w popBits popBits (r.getS a))

/-- s[d] := MIN of a and b (R285, R286). -/
def execMin (d a b : BitVec 6) (w : Bool) (s : State) : Host.Outcome State Fault Refusal :=
  aluOp s d (fun r => byW w (fun x y => if x.slt y then x else y) (fun x y => if x.slt y then x else y) (r.getS a) (r.getS b))

/-- s[d] := MAX of a and b (R285, R286). -/
def execMax (d a b : BitVec 6) (w : Bool) (s : State) : Host.Outcome State Fault Refusal :=
  aluOp s d (fun r => byW w (fun x y => if x.slt y then y else x) (fun x y => if x.slt y then y else x) (r.getS a) (r.getS b))

/-- s[d] := MINU of a and b (R285, R286). -/
def execMinu (d a b : BitVec 6) (w : Bool) (s : State) : Host.Outcome State Fault Refusal :=
  aluOp s d (fun r => byW w (fun x y => if x.ult y then x else y) (fun x y => if x.ult y then x else y) (r.getS a) (r.getS b))

/-- s[d] := MAXU of a and b (R285, R286). -/
def execMaxu (d a b : BitVec 6) (w : Bool) (s : State) : Host.Outcome State Fault Refusal :=
  aluOp s d (fun r => byW w (fun x y => if x.ult y then y else x) (fun x y => if x.ult y then y else x) (r.getS a) (r.getS b))

/-- s[d] := 1 when SEQ holds of a and b, else 0 (R285, R286). -/
def execSeq (d a b : BitVec 6) (w : Bool) (s : State) : Host.Outcome State Fault Refusal :=
  aluOp s d (fun r => cmpW w (· == ·) (· == ·) (r.getS a) (r.getS b))

/-- s[d] := 1 when SNE holds of a and b, else 0 (R285, R286). -/
def execSne (d a b : BitVec 6) (w : Bool) (s : State) : Host.Outcome State Fault Refusal :=
  aluOp s d (fun r => cmpW w (· != ·) (· != ·) (r.getS a) (r.getS b))

/-- s[d] := 1 when SLT holds of a and b, else 0 (R285, R286). -/
def execSlt (d a b : BitVec 6) (w : Bool) (s : State) : Host.Outcome State Fault Refusal :=
  aluOp s d (fun r => cmpW w (·.slt ·) (·.slt ·) (r.getS a) (r.getS b))

/-- s[d] := 1 when SLTU holds of a and b, else 0 (R285, R286). -/
def execSltu (d a b : BitVec 6) (w : Bool) (s : State) : Host.Outcome State Fault Refusal :=
  aluOp s d (fun r => cmpW w (·.ult ·) (·.ult ·) (r.getS a) (r.getS b))

/-- s[d] := a × b + c (R285). -/
def execMadd (d a b c : BitVec 6) (s : State) : Host.Outcome State Fault Refusal :=
  aluOp s d (fun r => r.getS a * r.getS b + r.getS c)

/-- s[d] := a when c[0] = 1, else b (R285). -/
def execSel (d a b c : BitVec 6) (s : State) : Host.Outcome State Fault Refusal :=
  aluOp s d (fun r => if (r.getS c).getLsbD 0 then r.getS a else r.getS b)

/-- s[d] := a field of a, sign-extended (R285). -/
def execExt (d a pos lenM1 : BitVec 6) (s : State) : Host.Outcome State Fault Refusal :=
  aluOp s d (fun r => BitVec.ofInt 64 (signed (lenM1.toNat + 1) (fld (r.getS a) pos.toNat (lenM1.toNat + 1))))

/-- s[d] := a field of a, zero-extended (R285). -/
def execExtu (d a pos lenM1 : BitVec 6) (s : State) : Host.Outcome State Fault Refusal :=
  aluOp s d (fun r => BitVec.ofNat 64 (fld (r.getS a) pos.toNat (lenM1.toNat + 1)))

/-- s[d] with a field replaced by the low bits of a (R285). -/
def execIns (d a pos lenM1 : BitVec 6) (s : State) : Host.Outcome State Fault Refusal :=
  aluOp s d (fun r => setFld (r.getS d) pos.toNat (lenM1.toNat + 1) (r.getS a).toNat)

/-- s[d] := a with bit b[5:0] set (R285). -/
def execBset (d a b : BitVec 6) (s : State) : Host.Outcome State Fault Refusal :=
  aluOp s d (fun r => r.getS a ||| (1#64 <<< ((r.getS b).toNat % 64)))

/-- s[d] := a with bit b[5:0] clear (R285). -/
def execBclr (d a b : BitVec 6) (s : State) : Host.Outcome State Fault Refusal :=
  aluOp s d (fun r => r.getS a &&& ~~~(1#64 <<< ((r.getS b).toNat % 64)))

/-- s[d] := imm (R285). -/
def execMovi (d : BitVec 6) (imm : BitVec 37) (s : State) : Host.Outcome State Fault Refusal :=
  aluOp s d (fun _ => imm64 imm)

/-- s[d] with 16 bits replaced (R285). -/
def execMovk (d : BitVec 6) (k : BitVec 2) (imm : BitVec 16) (s : State) : Host.Outcome State Fault Refusal :=
  aluOp s d (fun r => setFld (r.getS d) (16 * k.toNat) 16 imm.toNat)

/-- s[d] := a + (b shifted left by n) (R285). -/
def execLea (d a b : BitVec 6) (n : BitVec 3) (s : State) : Host.Outcome State Fault Refusal :=
  aluOp s d (fun r => r.getS a + (r.getS b <<< n.toNat))

end Sys2Proof.Machine
end

