-- ==== Sys2Proof/Machine/Slots.lean ====
section
/-! DEFINITION. The slot instructions as a bundle calls them (R234, R276 to R280). -/

namespace Sys2Proof.Machine

/-- NOP in an ALU slot (R238). -/
def execNopAlu (s : State) : Host.Outcome State Fault Refusal := slotStep s fun _ _ => s
/-- NOP in the CTL slot (R238). -/
def execNopCtl (s : State) : Host.Outcome State Fault Refusal := slotStep s fun _ _ => s

/-- The meaning of a slot instruction; a step that is no slot instruction never stands in a bundle. -/
def runSlot (i : Instr) (s : State) : Host.Outcome State Fault Refusal :=
  match i with
  | .nopAlu => execNopAlu s
  | .add d a b w => execAdd d a b w s
  | .sub d a b w => execSub d a b w s
  | .mul d a b w => execMul d a b w s
  | .mulh d a b w => execMulh d a b w s
  | .mulhu d a b w => execMulhu d a b w s
  | .div d a b w => execDiv d a b w s
  | .divu d a b w => execDivu d a b w s
  | .rem d a b w => execRem d a b w s
  | .remu d a b w => execRemu d a b w s
  | .shl d a b w => execShl d a b w s
  | .shr d a b w => execShr d a b w s
  | .sra d a b w => execSra d a b w s
  | .ror d a b w => execRor d a b w s
  | .min d a b w => execMin d a b w s
  | .max d a b w => execMax d a b w s
  | .minu d a b w => execMinu d a b w s
  | .maxu d a b w => execMaxu d a b w s
  | .seq d a b w => execSeq d a b w s
  | .sne d a b w => execSne d a b w s
  | .slt d a b w => execSlt d a b w s
  | .sltu d a b w => execSltu d a b w s
  | .and d a b => execAnd d a b s
  | .or d a b => execOr d a b s
  | .xor d a b => execXor d a b s
  | .andn d a b => execAndn d a b s
  | .bset d a b => execBset d a b s
  | .bclr d a b => execBclr d a b s
  | .addi d a imm => execAddi d a imm s
  | .andi d a imm => execAndi d a imm s
  | .ori d a imm => execOri d a imm s
  | .xori d a imm => execXori d a imm s
  | .slti d a imm => execSlti d a imm s
  | .shli d a n w => execShli d a n w s
  | .shri d a n w => execShri d a n w s
  | .srai d a n w => execSrai d a n w s
  | .clz d a w => execClz d a w s
  | .ctz d a w => execCtz d a w s
  | .popc d a w => execPopc d a w s
  | .madd d a b c => execMadd d a b c s
  | .sel d a b c => execSel d a b c s
  | .ext d a pos lenM1 => execExt d a pos lenM1 s
  | .extu d a pos lenM1 => execExtu d a pos lenM1 s
  | .ins d a pos lenM1 => execIns d a pos lenM1 s
  | .movi d imm => execMovi d imm s
  | .movk d k imm => execMovk d k imm s
  | .lea d a b n => execLea d a b n s
  | .fadd d a b fmt rc => execFadd d a b fmt rc s
  | .fsub d a b fmt rc => execFsub d a b fmt rc s
  | .fmul d a b fmt rc => execFmul d a b fmt rc s
  | .ffma d a b fmt rc => execFfma d a b fmt rc s
  | .fmin d a b fmt => execFmin d a b fmt s
  | .fmax d a b fmt => execFmax d a b fmt s
  | .feq d a b fmt => execFeq d a b fmt s
  | .flt d a b fmt => execFlt d a b fmt s
  | .fle d a b fmt => execFle d a b fmt s
  | .fcvt d a dst fmt rc => execFcvt d a dst fmt rc s
  | .ftoi d a u w fmt rc => execFtoi d a u w fmt rc s
  | .itof d a u w fmt rc => execItof d a u w fmt rc s
  | .fsgn d a b fmt op => execFsgn d a b fmt op s
  | .fclass d a fmt => execFclass d a fmt s
  | .ld d a size u off => execLd d a size u off s
  | .st b a size off => execSt b a size off s
  | .ldx d a b size u n => execLdx d a b size u n s
  | .stx c a b size n => execStx c a b size n s
  | .amoadd d a b sc dw => execAmoadd d a b sc dw s
  | .amoand d a b sc dw => execAmoand d a b sc dw s
  | .amoor d a b sc dw => execAmoor d a b sc dw s
  | .amoxor d a b sc dw => execAmoxor d a b sc dw s
  | .amoswap d a b sc dw => execAmoswap d a b sc dw s
  | .amocas d a b sc dw => execAmocas d a b sc dw s
  | .amomin d a b sc dw u => execAmomin d a b sc dw u s
  | .amomax d a b sc dw u => execAmomax d a b sc dw u s
  | .amofmax d a b sc => execAmofmax d a b sc s
  | .amofadd d a b sc => execAmofadd d a b sc s
  | .hset hd a f => execHset hd a f s
  | .hget d ha f => execHget d ha f s
  | .hadv hd ha b => execHadv hd ha b s
  | .hdim hd a b k => execHdim hd a b k s
  | .nopCtl => execNopCtl s
  | .br cond a b off => execBr cond a b off s
  | .jmp off => execJmp off s
  | .jr a => execJr a s
  | .call off => execCall off s
  | .callr a => execCallr a s
  | .ret => execRet s
  | .loop a sreg nM1 endOff => execLoop a sreg nM1 endOff s
  | .loopi cnt endOff => execLoopi cnt endOff s
  | .lbrk kM1 => execLbrk kM1 s
  | .waitc nl ns nx nm => execWaitc nl ns nx nm s
  | .waitb n => execWaitb n s
  | .phase sc m p => execPhase sc m p s
  | .fence sc => execFence sc s
  | .bar n v => execBar n v s
  | .arm n c nv node => execArm n c nv node s
  | .bwait n => execBwait n s
  | .bwaitTry n d => execBwaitTry n d s
  | .spawn d t g => execSpawn d t g s
  | .grow d k => execGrow d k s
  | .close d g => execClose d g s
  | .enq d q v => execEnq d q v s
  | .deq d q e => execDeq d q e s
  | .done => execDone s
  | .trap code => execTrap code s
  | .sys code => execSys code s
  | .eret => execEret s
  | .crr d num => execCrr d num s
  | .crw a num => execCrw a num s
  | .fqpop a => execFqpop a s
  | .bkpt code => execBkpt code s
  | .setstep slot k a => execSetstep slot k a s
  | .yield => execYield s
  | .tlbiPage a b => execTlbiPage a b s
  | .tlbiAsn a b => execTlbiAsn a b s
  | .tlbiWorld => execTlbiWorld s
  | .tlbiWindow a => execTlbiWindow a s
  | .tlbiWindows => execTlbiWindows s
  | .tlbiHost a b => execTlbiHost a b s
  | .halt => execHalt s
  | .nopMat => execNopMat s
  | .mma t ha hb fp ka kb row0 col0 => execMma t ha hb fp ka kb row0 col0 s
  | .mmax t ha hb fp ka kb row0 col0 => execMmax t ha hb fp ka kb row0 col0 s
  | .mmaq t ha hb z ka kb row0 col0 => execMmaq t ha hb z ka kb row0 col0 s
  | .mzero mask => execMzero mask s
  | .mcommit => execMcommit s
  | .mrank t k dir => execMrank t k dir s
  | .mkat q sum => execMkat q sum s
  | .mpop b n => execMpop b n s
  | .maddt t u i => execMaddt t u i s
  | .mcopy t u => execMcopy t u s
  | .mthr d t first cntM1 => execMthr d t first cntM1 s
  | .nopVec => execNopVec s
  | .vadd hd ha b rc bs => execVadd hd ha b rc bs s
  | .vsub hd ha b rc bs => execVsub hd ha b rc bs s
  | .vmul hd ha b rc bs => execVmul hd ha b rc bs s
  | .vfma hd ha b rc bs => execVfma hd ha b rc bs s
  | .vmin hd ha b rc bs => execVmin hd ha b rc bs s
  | .vmax hd ha b rc bs => execVmax hd ha b rc bs s
  | .vabs hd ha rc => execVabs hd ha rc s
  | .vneg hd ha rc => execVneg hd ha rc s
  | .vrcp hd ha rc => execVrcp hd ha rc s
  | .vrsq hd ha rc => execVrsq hd ha rc s
  | .vlog2 hd ha rc => execVlog2 hd ha rc s
  | .vexp hd ha rc base2 => execVexp hd ha rc base2 s
  | .vtblLoad ha t => execVtblLoad ha t s
  | .vtbl hd ha t rc => execVtbl hd ha t rc s
  | .vcmp hd ha hb cond => execVcmp hd ha hb cond s
  | .vsel hd ha hb rc hm => execVsel hd ha hb rc hm s
  | .vcvt hd ha rc sat => execVcvt hd ha rc sat s
  | .vred hd ha rc op => execVred hd ha rc op s
  | .vamax hd ha => execVamax hd ha s
  | .vscan hd ha rc ex => execVscan hd ha rc ex s
  | .vpush hd ha hb sc => execVpush hd ha hb sc s
  | .vpop hd ha hb sc => execVpop hd ha hb sc s
  | .vhist hd ha clr => execVhist hd ha clr s
  | .viota hd b rc => execViota hd b rc s
  | .vmov hd ha => execVmov hd ha s
  | .vmovScalar hd b => execVmovScalar hd b s
  | .vshuf hd ha hb => execVshuf hd ha hb s
  | .nopPrm => execNopPrm s
  | .ppack hd ha rc sat => execPpack hd ha rc sat s
  | .punpk hd ha => execPunpk hd ha s
  | .pscale hd ha sc rc => execPscale hd ha sc rc s
  | .pqnt hd ha sc rc sat => execPqnt hd ha sc rc sat s
  | .pdq hd ha rc => execPdq hd ha rc s
  | .ptrn hd ha w32 => execPtrn hd ha w32 s
  | .pbcast hd ha => execPbcast hd ha s
  | .pperm hd ha sc => execPperm hd ha sc s
  | .nopScl => execNopScl s
  | .sldt a => execSldt a s
  | .sldb a => execSldb a s
  | .sseti t byte => execSseti t byte s
  | .smode m => execSmode m s
  | .nopXfr => execNopXfr s
  | .cpy hd ha c sc ct tgt => execCpy hd ha c sc ct tgt s
  | .cpym hd ha c sc ct tgt => execCpym hd ha c sc ct tgt s
  | .cpys hd ha c sc ct tgt => execCpys hd ha c sc ct tgt s
  | .gath hd ha c sc ct tgt => execGath hd ha c sc ct tgt s
  | .scat hd ha c sc ct tgt => execScat hd ha c sc ct tgt s
  | .drain hd t c sc ct tgt => execDrain hd t c sc ct tgt s
  | .drainkSel hd t c sc ct tgt => execDrainkSel hd t c sc ct tgt s
  | .drainkMerge u t c sc => execDrainkMerge u t c sc s
  | .rst hd ha c sc ct tgt => execRst hd ha c sc ct tgt s
  | .rld hd ha c sc ct tgt => execRld hd ha c sc ct tgt s
  | .ramo hd ha c sc ct tgt => execRamo hd ha c sc ct tgt s
  | .rred hd ha c sc ct tgt => execRred hd ha c sc ct tgt s
  | .rmcast hd ha c sc ct tgt => execRmcast hd ha c sc ct tgt s
  | .rmergeCx hd t c sc ct tgt => execRmergeCx hd t c sc ct tgt s
  | .rmergeSw hd t c sc => execRmergeSw hd t c sc s
  | .cntx hd ha c sc ct tgt => execCntx hd ha c sc ct tgt s
  | .disp hd ha c sc ct tgt => execDisp hd ha c sc ct tgt s
  | .post n a => execPost n a s
  | .xcanCancel d a => execXcanCancel d a s
  | .xcanReplay d a => execXcanReplay d a s
  | .xcanAll d => execXcanAll d s
  | .xstatId d a => execXstatId d a s
  | .xstatLast d a => execXstatLast d a s
  | _ => .next s

end Sys2Proof.Machine
end

