-- ==== Sys2Proof/Machine/Bundle.lean ====
section
/-! DEFINITION. The issue of a bundle (R231 to R257, R282, R284, R382 to R390): fetch, decode, interlocks, slots, steps, repeats, the back-edge. -/

namespace Sys2Proof.Machine

/-! ### Fetch (R234, R255, R385) -/

/-- What a fetch gives: the words of a bundle, a precise trap, or a wait. -/
inductive Fetched where
  | words (ws : List Nat)
  | trap (t : Trap)
  | later
deriving DecidableEq, Repr

/-- Whether the words fetched make a whole bundle, or start one whose header no bundle has (R231, R232). -/
def bundleWhole : List Nat → Bool
  | [] => false
  | h :: t => !zfe h 0 4 1 || (readSlots (h / 2 ^ 24 % 256) [0, 1, 2, 3, 4, 5, 6, 7] t).isSome

/-- The trap of a fetch at `pc` that failed at `va`; whether it straddles is told by the 64 KiB page (R39, R385). -/
def fetchStop (c : Ctx) (pc va : Nat) (r : Res Unit) : Fetched :=
  let at' (a : Nat) : Nat × Bool := if a / 2 ^ 16 = pc / 2 ^ 16 then (pc, false) else (a / 2 ^ 16 * 2 ^ 16, true)
  let error : Fetched := .trap { cause := Cause.dataError, addr := 0, detail := 0, slot := 0, straddle := false }
  match r with
  | .ok () => .later
  | .wait => .later
  | .abort => error
  | .tag b => .trap { cause := Cause.fetchIntegrity, addr := b, detail := 0, slot := 0, straddle := (at' b).2 }
  | .fail t l h =>
    if t = Tstat.walkError ∧ c.ph.nr = false ∧ c.ph.rbcnt ≠ 2 then error
    else .trap { cause := Cause.fetch, addr := (at' va).1, detail := faultWord t l .exec h false, slot := 0, straddle := (at' va).2 }

/-- Fetches words until they make a bundle, at most n. -/
def fetchGo (w : Who) (env : Env) (c : Ctx) (pc : Nat) : Nat → List Nat → State → State × Fetched
  | 0, ws, s => (s, .words ws)
  | n + 1, ws, s =>
    if bundleWhole ws then (s, .words ws)
    else
      let va := pc + 4 * ws.length
      match translate s w env .exec va 4 with
      | (s, .ok p) => match homeRead s w env p 4 with
        | (s, .ok bs) => fetchGo w env c pc n (ws ++ [leNat bs]) s
        | (s, r) => (s, fetchStop c pc va r.unit)
      | (s, r) => (s, fetchStop c pc va r.unit)

/-- The bodies of the open loops (R252). -/
def Sticky.bodies (k : Sticky) : List (Nat × Nat) :=
  (List.range k.depth).map (fun n => ((k.lbeg.val 0 n).toNat, (k.lend.val 0 n).toNat))

/-- Whether an address lies in a body. -/
def inBody (a : Nat) (b : Nat × Nat) : Bool := b.1 ≤ a && a < b.2

/-- The loop buffer with what no open loop needs taken out; a handler keeps that of the code it interrupted (R244, R255). -/
def Ctx.loopBuf (c : Ctx) : Tab (List Nat) :=
  let bodies := c.regs.st.bodies ++ (if c.regs.inTrap then c.regs.sv.bodies else [])
  c.lbuf.filter (fun p => bodies.any (inBody p.1))

/-- The loop buffer once a bundle has been fetched: it is held for a body of up to 64 bundles; a longer one is not held (R255). -/
def holdBundle (k : Sticky) (l : Tab (List Nat)) (pc : Nat) (ws : List Nat) : Tab (List Nat) :=
  let long (b : Nat × Nat) : Bool := inBody pc b && decide (64 ≤ (l.filter (fun p => inBody p.1 b)).length)
  let l := l.filter (fun p => k.bodies.any (fun b => inBody p.1 b && !long b) || !k.bodies.any (inBody p.1))
  if k.bodies.any (fun b => inBody pc b && !long b) then Tab.set l pc ws else l

/-- The words of the bundle at the pc, from the loop buffer or from memory. -/
def fetchBundle (s : State) (id : Nat) (c : Ctx) : State × Fetched :=
  let pc := c.regs.pc
  let k := c.regs.st
  let l := c.loopBuf
  match (if k.bodies.any (inBody pc) then Tab.look l pc else none) with
  | some ws => (s, .words ws)
  | none => match fetchGo (s.whoTask c 0 true) (s.envTask c) c pc 18 [] s with
    | (s, .words ws) => (s.updCtx id fun c => { c with lbuf := holdBundle k l pc ws }, .words ws)
    | (s, r) => (s, r)

/-! ### What acts (R238, R239, R242) -/

/-- The index of a sticky slot among LASTM, LASTV, LASTP, LASTX. -/
def stickyOf (slot : Nat) : Option Nat :=
  match slot with
  | 3 => some 0
  | 4 => some 1
  | 5 => some 2
  | 7 => some 3
  | _ => none

/-- A slot that acts: its operation, its LAST word, the context it reads, and whether it is explicit. -/
structure Act where
  slot : Nat
  op : SlotOp
  word : DWord
  src : Ctx
  explicit : Bool
deriving DecidableEq, Repr

/-- The LAST word of an operation: slot word, extension word (R238). -/
def lastWord (op : SlotOp) : DWord :=
  match op.words with
  | [w] => BitVec.ofNat 64 (w * 2 ^ 32)
  | [w, e] => BitVec.ofNat 64 (w * 2 ^ 32 + e)
  | _ => 0

/-- The scalar source of a sticky-slot operation. -/
def scalarOf (op : SlotOp) : BitVec 6 := (op.instr.sources.head?).getD 0

/-- The re-issue of a last operation: it reads its captured scalar (R239). -/
def reissueOf (c : Ctx) (slot k : Nat) : List Act :=
  let w := c.regs.st.last.val 0 k
  if w = 0 then []
  else match decodeSlot (slotSpace slot) (fld w 32 32) (fld w 0 32) with
    | none => []
    | some op => [{ slot := slot, op := op, word := w, src := c.updRegs (·.setS (scalarOf op) (c.regs.st.cap.val 0 k)), explicit := false }]

/-- What acts in a sticky slot. In a later issue of a repeat the slot's operation is its last one (R242). -/
def stickyActs (c : Ctx) (b : Bundle) (first : Bool) (slot k : Nat) : List Act :=
  match b.ops.find? (fun p => decide (p.1 = slot)) with
  | none => reissueOf c slot k
  | some (_, op) =>
    if first ∨ c.regs.st.last.val 0 k ≠ lastWord op then [{ slot := slot, op := op, word := lastWord op, src := c, explicit := true }]
    else reissueOf c slot k

/-- Everything that acts in one issue, in slot order; plain slots act on the first issue only (R242). -/
def actsOf (c : Ctx) (b : Bundle) (first : Bool) : List Act :=
  (List.range 8).flatMap fun slot => match stickyOf slot with
    | some k => stickyActs c b first slot k
    | none =>
      if first then (b.ops.filter (fun p => decide (p.1 = slot))).map (fun p => { slot := slot, op := p.2, word := lastWord p.2, src := c, explicit := true })
      else []

/-- PHASE, FENCE, DONE and ERET stand youngest in their bundle (R78, R307, R384). -/
def Instr.standsLast : Instr → Bool
  | .phase .. | .fence .. | .done | .eret => true
  | _ => false

/-- The registers whose loads or atomics have not returned (R245). -/
def Ctx.pendingRegs (c : Ctx) : List (BitVec 6) :=
  (c.ph.memq.flatMap (fun m => m.d :: (if m.atomic ∧ m.amop = Work.deq then [BitVec.ofNat 6 m.compare.toNat] else []))).filter (· ≠ 0)

/-- Whether an operation reads a register: an explicit one its sources; any one its guard (R236, R245). -/
def Act.reads (a : Act) (r : BitVec 6) : Bool := a.op.guard.reg = r || (a.explicit && a.op.instr.sources.contains r)

/-- The operations acting in turn, each only when its guard, read from the registers before the bundle, lets it (R236, R282). -/
def runActs (c0 : Ctx) : List Act → State → State
  | [], s => s
  | a :: t, s =>
    let s := { s with issue := { s.issue with slot := a.slot, src := some a.src, word := a.word } }
    if Guard.open? a.op.guard c0.regs then
      match runSlot a.op.instr s with
      | .next s' => runActs c0 t s'
      | _ => runActs c0 t s
    else runActs c0 t s

/-! ### What an issue leaves in the sticky state (R238, R240, R241) -/

/-- An explicit operation becomes its slot's last, with its scalar captured, whether or not its guard is true. -/
def Sticky.take (c0 : Ctx) (k : Sticky) (a : Act) : Sticky :=
  match stickyOf a.slot, a.explicit with
  | some i, true => { k with last := k.last.put 0 i a.word, cap := k.cap.put 0 i (c0.regs.getS (scalarOf a.op)) }
  | _, _ => k

/-- The handle operand positions of an operation, H3 included (R240, R348). -/
def Act.positions (a : Act) : List (Nat × Nat) :=
  a.op.instr.stepPositions ++ match Instr.xform a.op.instr with
    | some f => let ccw := a.src.regs.getS f.cc
      if f.kind.h3 ccw then [(2, fld ccw 56 5)] else []
    | none => []

/-- The signed moves of handles that one operation's steps make. -/
def Act.moves (steps : Tab Word) (a : Act) : List (Nat × Int) :=
  match stickyOf a.slot with
  | some i => a.positions.map (fun p => (p.2, (steps.val 0 (3 * i + p.1)).toInt))
  | none => []

/-- The handles after the steps; a handle that a plain slot wrote keeps the write (R240). -/
def stepHandles (written : List Nat) (moves : List (Nat × Int)) (h : Tab Handle) : Tab Handle :=
  moves.foldl (fun h m => if m.1 ∈ written then h else h.put 0 m.1 (hMove (h.val 0 m.1) m.2)) h

/-! ### The back-edge (R254, R256, R257) -/

/-- What a back-edge test leaves: the loop state, where to go on, PRED for the predicate register of a staged loop that was tested, whether
a loop has drained for a switch without ending. -/
structure Edge where
  st : Sticky
  goto : Option Nat
  pred : Option (BitVec 6 × DWord)
  out : Bool
deriving DecidableEq, Repr

/-- The tests at the end address of a bundle, from the innermost level out while levels close there. -/
def backEdge (stop : Nat) : Nat → Edge → Edge
  | 0, e => e
  | n + 1, e =>
    let k := e.st
    if k.depth = 0 then e
    else
      let d := k.depth - 1
      let lc := k.lc.val 0 d
      let beg := (k.lbeg.val 0 d).toNat
      if (k.lend.val 0 d).toNat ≠ stop then e
      else if k.sv = true ∧ k.slevel = d then
        let drain := bit k.stage 15
        let inject := decide (lc ≠ 0) && !drain
        let lc' := if inject then lc - 1 else lc
        let pred := (fld k.stage 0 8 * 2 + b2n inject) % 2 ^ (fld k.stage 8 3 + 1)
        let k' := { k with lc := k.lc.put 0 d lc', stage := setFld k.stage 0 8 pred }
        if pred ≠ 0 then { e with st := k', goto := some beg, pred := some (k.sreg, BitVec.ofNat 64 pred) }
        else if drain = true ∧ lc ≠ 0 then
          let again := { k with lc := k.lc.put 0 d (lc - 1), stage := setFld (setFld k.stage 0 8 1) 15 1 0 }
          { st := again, goto := some beg, pred := some (k.sreg, 1), out := true }
        else backEdge stop n { e with st := k'.closeTo d, pred := some (k.sreg, 0) }
      else if lc = 0 then backEdge stop n { e with st := k.closeTo d }
      else { e with st := { k with lc := k.lc.put 0 d (lc - 1) }, goto := some beg }

/-- Older loads whose destination the bundle writes no longer write it (R224). -/
def dropOlder (n : Nat) (ds : List (BitVec 6)) (l : List PMem) : List PMem :=
  l.zipIdx.map fun (m, i) =>
    if n ≤ i then m
    else
      let m := if m.d ∈ ds then { m with d := 0 } else m
      if m.atomic ∧ m.amop = Work.deq ∧ BitVec.ofNat 6 m.compare.toNat ∈ ds then { m with compare := 0 } else m

/-- The back-edge tests after a bundle that ends at `stop`: the pc, the loop state and the predicate register follow (R256). A loop that has drained
waits for the switch that is wanted; with none wanted any more, its prologue runs again at once (R257). -/
def edgeCtx (c : Ctx) (stop : Nat) : Ctx :=
  let e := backEdge stop 4 { st := c.regs.st, goto := none, pred := none, out := false }
  let r := { c.regs with st := e.st, pc := e.goto.getD stop }
  match e.pred with
  | some (n, v) =>
    { c with stageOut := e.out && c.want.isSome, regs := r.setS n v, ph := { c.ph with memq := dropOlder c.ph.memq.length [n] c.ph.memq } }
  | none => { c with regs := r }

/-! ### The issue -/

/-- The core may issue again in the next cycle. -/
def State.issued (s : State) (core : Nat) : State := s.updCore core fun k => { k with ready := s.now + 1 }

/-- The scalar registers an act writes: a LOOP with a count of 0 opens no level and writes none (R253, R256). -/
def Act.wrote (r : Regs) (a : Act) : List (BitVec 6) :=
  match a.op.instr with
  | .loop n _ _ _ => if r.getS n = 0 then [] else a.op.instr.dests
  | i => i.dests

/-- The last part of an issue that nothing held up: RPTC, older loads overtaken, and the pc (R224, R242, R254, R299, R307). -/
def finishIssue (s : State) (id : Nat) (c0 : Ctx) (b : Bundle) (first : Bool) (acts : List Act) : State :=
  let n := if first then b.reps.toNat else c0.regs.rptc - 1
  let wrote := (acts.filter (fun a => Guard.open? a.op.guard c0.regs)).flatMap (·.wrote c0.regs)
  let is := s.issue
  let s := { s with issue := Issue.idle }
  let overtake (ds : List (BitVec 6)) (c : Ctx) : Ctx := { c with ph := { c.ph with memq := dropOlder c0.ph.memq.length (ds.filter (· ≠ 0)) c.ph.memq } }
  let next := c0.regs.pc + is.len
  if 0 < n then s.updCtx id fun c => overtake wrote (c.updRegs fun r => { r with rptc := n })
  else
    let s := s.updCtx id fun c => overtake wrote (c.updRegs fun r => if first then r else { r with rptc := 0 })
    match is.trap with
    | some t => takeTrap (s.updCtx id (·.updRegs fun r => { r with pc := next })) id t
    | none => match is.goto with
      | some a => s.updCtx id (·.updRegs fun r => { r with pc := a })
      | none =>
        if is.noEdge then s.updCtx id (·.updRegs fun r => { r with pc := next })
        else s.updCtx id (edgeCtx · next)

/-- Whether a power limit holds MAT and VEC operations back in this cycle: every second cycle, the odd ones (R211, R449; log 14). -/
def State.throttled (s : State) (region : Nat) (acts : List Act) : Bool :=
  decide (s.now % 2 = 1) && acts.any (fun a => decide (a.slot = 3 ∨ a.slot = 4) && !a.op.instr.isNop) && (s.host.throttle || s.overPower region)

/-- One issue of a decoded bundle for the task on a core (R237, R242, R282, R284): nothing when it stalls, its trap when a slot
raises one, and otherwise the effects of all that acts. -/
def issueBundle (s : State) (core id : Nat) (c : Ctx) (b : Bundle) : State :=
  let first := c.regs.rptc = 0
  let acts := actsOf c b first
  let pend := c.pendingRegs
  if acts.any (fun a => pend.any a.reads) ∨ s.throttled c.who.region acts = true then s.issued core
  else
    let (late, now') := acts.partition (fun a => Instr.standsLast a.op.instr)
    let (alu0, rest) := now'.partition (fun a => decide (a.slot = 0))
    let start := { s with issue := { Issue.idle with on := true, len := b.bytes, src := some c } }
    let sA := runActs c alu0 start
    let sB := runActs c rest sA
    let steps := if first then c.regs.st.steps else c.regs.st.rsteps.getD c.regs.st.steps
    let written := ((acts.filter (fun a => (stickyOf a.slot).isNone && Guard.open? a.op.guard c.regs)).flatMap (fun a => a.op.instr.handleDests)).map (·.toNat)
    let keep := if first then (if b.reps = 0 then none else some c.regs.st.steps) else (if c.regs.rptc = 1 then none else c.regs.st.rsteps)
    let sB := sB.updCtx id fun x => x.updRegs fun r =>
      let st := acts.foldl (Sticky.take c) r.st
      { r with h := stepHandles written (acts.flatMap (·.moves steps)) r.h, st := { st with rsteps := keep } }
    let sC := runActs c late sB
    let back := s.keepAsks sC
    if sC.issue.stall then (wakeBanks back sC.issue.wakes).issued core
    else
      let done := (finishIssue sC id c b first acts).issued core
      match sC.issue.trap with
      | some t =>
        if t.cause = Cause.trap ∨ t.cause = Cause.sys then
          if sC.issue.sent then { sA with issue := Issue.idle }.issued core else done.endStep id
        else (takeTrap back id t).issued core
      | none =>
        if sC.issue.sent then { sA with issue := Issue.idle }.issued core
        else done.endStep id

/-- The next issue of the task on a core. First comes a trap that waits to be entered, then the event ENGINE-FAULT (R382, R383); then the bundle
is fetched and decoded (R234, R385). -/
def issueCore (s : State) (core id : Nat) (c : Ctx) : State :=
  match c.trapWait with
  | some t => if c.mustWait then s.issued core else (trapEntry s id t).issued core
  | none =>
    if c.regs.inTrap = false ∧ c.xf.fq ≠ [] ∧ c.ph.rem = none then
      if c.mustWait then s.issued core
      else (trapEntry s id { cause := Cause.engineFault, addr := 0, detail := 0, slot := 0, straddle := false }).issued core
    else match fetchBundle s id c with
      | (s, .later) => s.issued core
      | (s, .trap t) => (takeTrap s id t).issued core
      | (s, .words ws) => match decodeBundle ws, s.ctx id with
        | some (b, _), some c => issueBundle s core id c b
        | _, _ => (takeTrap s id { cause := Cause.illegal, addr := 0, detail := 0, slot := 0, straddle := false }).issued core

/-- BUNDLE_ISSUE: a core that may issue does so once (R237). -/
def execBundleIssue (s : State) : Host.Outcome State Fault Refusal :=
  let k := s.subj
  if s.mayIssue k then
    match (s.core k).ctx with
    | none => .next s
    | some id => match s.ctx id with
      | none => .next s
      | some c => .next (issueCore { s with cur := k } k id c)
  else .next s

end Sys2Proof.Machine
end

