-- ==== Sys2Proof/Machine/Remote.lean ====
section
/-! DEFINITION. Remote accesses at both ends (chapter 4): the life of connections (R119, R120), retries and expiry (R124, R125), the responder's
de-duplication and performing (R126 to R129, R134), ranks (R34 to R36, R132). -/

namespace Sys2Proof.Machine

/-! ### Sending and its end (R122 to R125, R132) -/

/-- LIFETIME in µs (R123). -/
def State.lifetime (s : State) : Nat := fld s.mid.fabtime 0 8

/-- REMOTE_REQUEST_SEND: the first queued request of a connection goes out, when it may (R125); or a request that its rank refuses completes
(R35, R107). -/
def execRemoteRequestSend (s : State) : Host.Outcome State Fault Refusal :=
  .next (if noConn < s.subj then refuse s (s.subj - noConn - 1) else sendNext s s.subj)

/-- REMOTE_RETRY_TIMEOUT: the wait of an attempt is over; the next attempt goes out, or the request waits for its copies to die (R124, R125). -/
def execRemoteRetryTimeout (req attempt : Nat) (s : State) : Host.Outcome State Fault Refusal :=
  match s.mid.reqs.look req with
  | none => .next s
  | some r =>
    if r.st ≠ .sent attempt then .next s
    else if attempt < r.retries then .next (sendAttempt s req (attempt + 1))
    else
      let ends := r.lastSend + s.lifetime * usCycles
      .next ((s.updReq req fun r => { r with st := .expiring }).push (ends - s.now) req .lifetimeExpiry)

/-- LIFETIME_EXPIRY: no copy of an expiring request can be accepted any more; it ends INDETERMINATE (R125, R127). -/
def execLifetimeExpiry (s : State) : Host.Outcome State Fault Refusal :=
  match s.mid.reqs.look s.subj with
  | none => .next s
  | some r =>
    if r.st = .expiring ∧ r.lastSend + s.lifetime * usCycles ≤ s.now then .next (resolve s s.subj (cword r.rank Cstat.indeterminate 0) [])
    else .next s

/-- The sent request that a completion answers: by CONN, SEQ and the rank it names; or by CONN, SEQ and the package at the far end of the link,
where two ranks lead to one package. A completion's header names no package. -/
def State.answered (s : State) (pkg : Nat) (t : Txn) : Option Nat :=
  let fits (p : Nat × Req) : Bool := match p.2.st, s.mid.conns.look p.2.conn with
    | .sent _, some c => decide (c.number = t.conn ∧ p.2.txn.seq = t.seq)
    | .expiring, some c => decide (c.number = t.conn ∧ p.2.txn.seq = t.seq)
    | _, _ => false
  let named (p : Nat × Req) : Bool := decide (p.2.rank = fld t.d2 36 12)
  let near (p : Nat × Req) : Bool := (s.mid.conns.look p.2.conn).any (fun c => decide (c.pkg = pkg))
  let l := s.mid.reqs.filter fits
  ((l.filter (fun p => named p && near p) ++ l.filter named ++ l.filter near).head?).map (·.1)

/-- The requester connection a completion has come over: that of its CONN to the rank it names, whatever dies relayed it; or to the package at the
far end of the link. -/
def State.cameOver (s : State) (pkg : Nat) (t : Txn) : Option (Nat × Conn) :=
  let l := s.mid.conns.filter fun (_, c) => c.requester && decide (c.number = t.conn)
  (l.filter (fun p => decide (p.2.rank = fld t.d2 36 12)) ++ l.filter (fun p => decide (p.2.pkg = pkg))).head?

/-- The timer of a rank restarts (R132). -/
def restartTimer (s : State) (job rank : Nat) : State := { s with mid := { s.mid with destLast := s.mid.destLast.set (rankKey job rank) s.now } }

/-- REMOTE_COMPLETION_RECEIVE: a completion ends its request and restarts its rank's timer; one that answers nothing is discarded, and has
restarted the timer all the same (R125, R132). One whose tag fails is discarded as if it had not come (R421). -/
def execRemoteCompletionReceive (pkg : Nat) (t : Txn) (s : State) : Host.Outcome State Fault Refusal :=
  match s.answered pkg t with
  | none => match s.cameOver pkg t with
    | none => .next s
    | some (_, c) =>
      if c.pkg = s.pkg ∨ (unsealTxn s c.job s.pkg c.openTag t).isSome = true then .next (restartTimer s c.job c.rank) else .next s
  | some k => match s.mid.reqs.look k, (s.mid.reqs.look k).bind (fun r => s.mid.conns.look r.conn) with
    | some r, some c =>
      match (if c.pkg = s.pkg then some t else unsealTxn s c.job s.pkg c.openTag t) with
      | none => .next (portErr s r.port)
      | some t =>
        let s := restartTimer s r.job r.rank
        .next (resolve s k (setFld (t.d2 &&& 0x0000FFFFFFFFFFFF) 36 12 r.rank) (t.data.take (if t.op = Op.rdrsp then Nat.min r.txn.len t.dataBytes else t.dataBytes)))
    | _, _ => .next s

/-- The connections to a rank look at their queues again. -/
def kickRank (s : State) (job rank : Nat) : State :=
  s.mid.conns.foldl (fun s (k, c) => if c.requester && decide (c.job = job ∧ c.rank = rank) then s.pushOnce 0 k .remoteRequestSend else s) s

/-- DEST_TIMEOUT: no completion has come from a rank for DESTTO while a request to it was unresolved: it is fenced, and its queued requests
end RANK-FENCED (R35, R132). -/
def execDestTimeout (job rank : Nat) (s : State) : Host.Outcome State Fault Refusal :=
  let e := s.rank job rank
  let key := rankKey job rank
  let wait := fld s.mid.fabtime 32 20 * usCycles
  let ends := s.mid.destLast.val 0 key + wait
  if e.outst = 0 then .next s
  else if s.now < ends then .next (s.push (ends - s.now) 0 (.destTimeout job rank))
  else
    let s := s.updRank job rank fun e => { e with fenced := true }
    let s := { s with mid := { s.mid with destLast := s.mid.destLast.set key s.now } }
    .next ((kickRank s job rank).push wait 0 (.destTimeout job rank))

/-- A rank-table entry is written: its read-only fields keep, EPOCH counts a change of PKG or PORTS, requests not yet sent follow the new
path on new connections, and they end at once when the entry is no longer valid (R34 to R36). -/
def writeRank (s : State) (job rank : Nat) (d0 d1 : DWord) : State :=
  let e := s.rank job rank
  let pkg := fld d0 16 16
  let ports := fld d1 0 48
  let moved := decide (e.pkg ≠ pkg ∨ e.ports ≠ ports)
  let e' : RankEnt :=
    { epoch := if moved then (e.epoch + 1) % 2 ^ 32 else e.epoch, pkg := pkg, hold := bit d0 2, fenced := bit d0 1, v := bit d0 0, outst := e.outst,
      ports := ports }
  let s := s.updRank job rank fun _ => e'
  let old := s.mid.conns.filter fun (_, c) =>
    c.requester && decide (c.job = job ∧ c.rank = rank) && decide (c.pkg ≠ pkg ∨ c.ports ≠ ports)
  kickRank (old.foldl (fun s p => reroute s p.1) s) job rank

/-- RANK_ENTRY_WRITE: the hypervisor writes a rank-table entry (R34 to R36). -/
def execRankEntryWrite (job rank : Nat) (d0 d1 : BitVec 64) (s : State) : Host.Outcome State Fault Refusal :=
  if 64 ≤ job ∨ 4096 ≤ rank ∨ s.hostReady = false then .next s else .next (writeRank s job rank d0 d1)

/-! ### The life of a connection (R119, R120) -/

/-- CONTEXT_FETCH: a spilled context has come back, and what waited for it goes on (R120). -/
def execContextFetch (s : State) : Host.Outcome State Fault Refusal :=
  .next ((spillConns (s.updConn s.subj fun c => { c with spilled := false, lastUse := s.now })).push 0 s.subj .remoteRequestSend)

/-- A port that leads to a package: this package's own, or one whose link ends there. -/
def State.portTo (s : State) (pkg : Nat) : Option Nat :=
  if pkg = s.pkg then some selfPort
  else (List.range 48).find? (fun p => decide (2 ≤ (s.port p).mode) && (s.port p).peer.any (fun q => decide (q.1 = pkg)))

/-- The port an answer takes: the one its request came in on, or, when that is DOWN, the lowest of the ports of the sender's rank entry (R128). -/
def State.replyPort (s : State) (port job rank : Nat) : Nat :=
  if s.portUp port then port else ((portsOf (s.rank job rank).ports).head?).getD port

/-- A control transaction of a connection (R116): its CONN, and in SEQ the requester's connection-open counter, by which an answer is known. -/
def controlTxn (op selfrank conn tag : Nat) : Txn :=
  { d0 := BitVec.ofNat 64 (op * 2 ^ 58 + selfrank * 2 ^ 46 + conn % 2 ^ 16 * 2 ^ 30 + tag % 2 ^ 24 * 2 ^ 6), d1 := 0, d2 := 0, d3 := 0, data := [] }

/-- The requester connection of an open counter. -/
def State.connOf (s : State) (tag : Nat) : Option (Nat × Conn) :=
  s.mid.conns.find? (fun (_, c) => c.requester && decide (c.openTag % 2 ^ 24 = tag))

/-- A requester sends CONNCLOSE; no request carries the CONN after it. -/
def sendClose (s : State) (k : Nat) : State :=
  match s.mid.conns.look k with
  | none => s
  | some c =>
    let t := controlTxn Op.connclose (s.slotHdr c.job).selfrank c.number c.openTag
    let (p, s) := s.connPort c t
    let s := s.updConn k fun c => { c with st := .closing }
    match p with
    | some p => sendTxn s p c.pkg t
    | none => s

/-- A connection context is released. -/
def dropConn (s : State) (k : Nat) : State := { s with mid := { s.mid with conns := s.mid.conns.del k } }

/-- CONNOPEN at a responder: the slot with its JOBID grants a context, the same one to a repeated open; otherwise the open is refused (R119,
R120). -/
def execConnopen (port pkg : Nat) (t : Txn) (s : State) : Host.Outcome State Fault Refusal :=
  let from' := leNat ((t.data.drop 4).take 2)
  let from' := if t.data.length < 6 then pkg else from'
  let slot := (List.range 64).find? fun j => (s.slotHdr j).en && decide ((s.slotHdr j).jobid = leNat (t.data.take 4))
  let answer (s : State) (job op number : Nat) : State :=
    sendTxn s (s.replyPort port job t.srcRank) from' (controlTxn op (s.slotHdr job).selfrank number t.seq)
  match slot with
  | none => .next (answer s 0 Op.connnak 0)
  | some j =>
    match s.mid.conns.find? (fun (_, c) => !c.requester && decide (c.pkg = from' ∧ c.job = j ∧ c.openTag = t.seq)) with
    | some (_, c) => .next (answer s j Op.connack c.number)
    | none =>
      let used := (s.mid.conns.filter (fun (_, c) => !c.requester)).map (fun p => p.2.number)
      match (List.range (2 ^ 16)).find? (fun n => !used.contains n) with
      | none => .next (answer s j Op.connnak 0)
      | some n =>
        if connRoom ≤ s.mid.conns.length then .next (answer s j Op.connnak 0)
        else
          let h := s.slotHdr j
          let env := s.envOf h.region
          let k := s.mid.nextConn
          let c : Conn :=
            { requester := false, number := n, job := j, rank := t.srcRank, pkg := from', st := .opened, openTag := t.seq, nextSeq := 0, credits := 64,
              ports := 0, queue := [], lastUse := s.now, spilled := false, region := h.region, world := h.world, asn := env.asn, root := env.root,
              base := 0, seen := [], results := [], done := [], hold := [] }
          let s := spillConns { s with mid := { s.mid with conns := s.mid.conns.set k c, nextConn := k + 1 } }
          .next (answer s j Op.connack n)

/-- CONNACK at a requester: the open has its CONN, a close is over, or an open that had failed is closed again (R119). -/
def execConnack (_pkg : Nat) (t : Txn) (s : State) : Host.Outcome State Fault Refusal :=
  match s.connOf t.seq with
  | none => .next s
  | some (k, c) => match c.st with
    | .opening _ =>
      let s := s.updConn k fun c => { c with st := .opened, number := t.conn, lastUse := s.now }
      .next ((s.push 0 k .remoteRequestSend).push (fld s.mid.fabtime 12 20 * usCycles) k .connIdleClose)
    | .failed => .next (sendClose (s.updConn k fun c => { c with number := t.conn }) k)
    | .closing => if c.number = t.conn then .next (dropConn s k) else .next s
    | _ => .next s

/-- CONNNAK at a requester: the open is refused, and every request queued on it ends CONN-REFUSED (R119). -/
def execConnnak (_pkg : Nat) (t : Txn) (s : State) : Host.Outcome State Fault Refusal :=
  match s.connOf t.seq with
  | some (k, { st := .opening _, .. }) => .next ((s.updConn k fun c => { c with st := .failed }).push 0 k .remoteRequestSend)
  | _ => .next s

/-- CONNCLOSE at a responder: the context is released, and the close is answered (R119). -/
def execConnclose (pkg : Nat) (t : Txn) (s : State) : Host.Outcome State Fault Refusal :=
  let answer (s : State) (p dest job : Nat) : State := sendTxn s p dest (controlTxn Op.connack (s.slotHdr job).selfrank t.conn t.seq)
  match s.mid.conns.find? (fun (_, c) => !c.requester && decide (c.number = t.conn)) with
  | some (k, c) =>
    let p := (s.portTo pkg).getD (((portsOf (s.rank c.job c.rank).ports).head?).getD selfPort)
    .next (answer (dropConn s k) (if c.pkg = s.pkg then selfPort else p) c.pkg c.job)
  | none => match s.portTo pkg with
    | some p => .next (answer s p pkg 0)
    | none => .next s

/-- CONNOPEN_TIMEOUT: an open has not been answered in its wait: it is sent again, or, after the last wait, which is longer than any LIFETIME,
it has failed (R119, R124). -/
def execConnopenTimeout (conn attempt : Nat) (s : State) : Host.Outcome State Fault Refusal :=
  match s.mid.conns.look conn with
  | none => .next s
  | some c =>
    if c.st ≠ .opening attempt then .next s
    else if attempt < 6 then .next (sendOpen s conn (attempt + 1))
    else .next ((s.updConn conn fun c => { c with st := .failed }).push 0 conn .remoteRequestSend)

/-- CONN_IDLE_CLOSE: a connection that has had nothing unresolved for CONNIDLE, or that takes no more requests, is closed (R119). -/
def execConnIdleClose (s : State) : Host.Outcome State Fault Refusal :=
  let k := s.subj
  match s.mid.conns.look k with
  | none => .next s
  | some c =>
    let busy := s.mid.reqs.any (fun (_, r) => decide (r.conn = k ∧ r.st ≠ .held))
    let idle := match c.st with
      | .opened => decide (c.lastUse + fld s.mid.fabtime 12 20 * usCycles ≤ s.now)
      | .draining => true
      | _ => false
    if busy || !idle || !c.requester then .next s
    else if s.ualinkMask c.ports then .next (dropConn s k)
    else .next (sendClose s k)

/-! ### The responder (R126 to R129) -/

/-- How far a sequence number lies from another, modulo 2^24. -/
def seqDist (a b : Nat) : Nat := (a + 2 ^ 24 - b) % 2 ^ 24
/-- Whether a sequence number lies before another, in modular order. -/
def seqBefore (a b : Nat) : Bool := 2 ^ 23 ≤ seqDist a b

/-- BASE advances to what the requester has resolved, and what falls below it is forgotten (R126). A contribution and a notice carry no LOWDIST: the
widest distance stands for it (DEDUCED, notes/assumptions/46). -/
def Conn.advance (c : Conn) (t : Txn) : Conn :=
  let low := if opLow t.op then t.lowdist else 1023
  let b := (t.seq + 2 ^ 24 - low) % 2 ^ 24
  if seqBefore c.base b ∧ b ≠ c.base then
    { c with base := b, seen := c.seen.filter (fun q => !seqBefore q b), done := c.done.filter (fun p => !seqBefore p.1 b) }
  else c

/-- The answer to a request: OP, the request's own header fields, a completion word and data (R115, R130). -/
def answerTxn (op : Nat) (t : Txn) (w : DWord) (aux : DWord) (data : List Byte) : Txn :=
  { d0 := setFld (setFld t.d0 58 6 op) 0 1 0, d1 := 0, d2 := w, d3 := aux, data := data }

/-- Sends an answer to a request back on its port (R128), charged to the slot's region (R210). -/
def sendAnswer (s : State) (port : Nat) (c : Conn) (t : Txn) : State :=
  let p := s.replyPort port c.job c.rank
  let s := if p = selfPort then s else s.chargeFab c.region t.bytes.length
  sendTxn s p c.pkg (if p = selfPort then t else sealTxn s c.job c.pkg c.openTag t)

/-- The OP that answers an OP. -/
def answerOp (op : Nat) : Nat :=
  if op = Op.rdreq then Op.rdrsp
  else if op = Op.amoreq then Op.amorsp
  else if op = Op.redreq ∨ op = Op.mergereq then Op.redrsp
  else Op.wrack

/-- A completion word of this package for a request of a connection. -/
def State.wordFor (s : State) (c : Conn) (cstat : Nat) (f : DWord) : DWord := cword (s.slotHdr c.job).selfrank cstat f

/-- AUX of an acceptance: RID and CIDX (R146). -/
def acceptAux (t : Txn) : DWord :=
  let d0 := dwordAt t.data 0
  BitVec.ofNat 64 (fld d0 44 20 * 2 ^ 44 + fld d0 26 6 * 2 ^ 38)

/-- The next held requests of a connection whose turn may have come are looked at (R129). -/
def kickHeld (s : State) (k : Nat) : State :=
  match s.mid.conns.look k with
  | none => s
  | some c =>
    let waits (q : Nat) : Bool := s.dies.any (fun (_, d) => d.divq.any (fun w => decide (w.again = .remotePerform k q)))
    let l := c.hold.filter (fun h => h.txn.ord && decide (h.txn.op ≠ Op.redreq ∧ h.txn.op ≠ Op.mergereq) && !waits h.seq)
    match leastBy (fun (h : Held) => seqDist h.seq c.base) l with
    | some h => s.pushOnce 0 0 (.remotePerform k h.seq)
    | none => s

/-- A request of a connection is accepted: it is seen, held, and its step is due (R126). -/
def acceptReq (s : State) (k port : Nat) (t : Txn) : State :=
  let free (c : Conn) : Nat := ((List.range 64).find? (fun n => !c.hold.any (fun h => decide (h.slot = n)))).getD 0
  let s := s.updConn k fun c => { c with
    seen := if t.seq ∈ c.seen then c.seen else t.seq :: c.seen
    hold := c.hold ++ [{ slot := free c, seq := t.seq, port := port, txn := t }], lastUse := s.now }
  kickHeld (if t.op = Op.redreq ∨ t.op = Op.mergereq then s.push 0 0 (.contributionReceive k t.seq) else s.push 0 0 (.remotePerform k t.seq)) k

/-- A final notice: the level-0 entry that waits for it as a child, or the contribution it ends (R155, R158). -/
def takeNotice (s : State) (k : Nat) (c : Conn) (t : Txn) : State :=
  let rid := fld t.d3 44 20
  let cidx := fld t.d3 38 6
  match s.mid.comb.find? (fun (_, e) => decide (e.st = 3 ∧ e.job = c.job ∧ e.rid = rid ∧ e.level = 0 ∧ e.pidx = cidx ∧ e.parent = fld t.d2 36 12)) with
  | some (key, _) => s.push 0 0 (.parentNotice key t)
  | none => s.push 0 0 (.noticeReceive k t)

/-- What the responder does with a request of a connection, BASE having advanced: the table of R126. -/
def judgeReq (s : State) (k port : Nat) (c : Conn) (t : Txn) : State :=
  let q := t.seq
  let done := (c.done.find? (fun p => decide (p.1 = q))).map (·.2)
  if seqBefore q c.base then s
  else if 1024 ≤ seqDist q c.base then portErr s port
  else if !c.seen.contains q then
    if 64 ≤ c.hold.length then s
    else if t.op = Op.redrsp then
      -- a notice: accepted and acknowledged at once (R155)
      let w := s.wordFor c Cstat.ok 0
      let s := s.updConn k fun c => { c with seen := q :: c.seen, done := (q, w) :: c.done, lastUse := s.now }
      sendAnswer (takeNotice s k c t) port c (answerTxn Op.wrack t w 0 [])
    else acceptReq s k port t
  else if c.hold.any (fun h => decide (h.seq = q)) then s
  else if t.op = Op.rdreq then acceptReq s k port t
  else if t.op = Op.amoreq then
    match c.results.find? (fun p => decide (p.1 = q)) with
    | some (_, v) =>
      let w := done.getD (s.wordFor c Cstat.ok 0)
      sendAnswer s port c (answerTxn Op.amorsp t w 0 (if cstatOf w = Cstat.ok then leBytes 16 v.toNat else []))
    | none => sendAnswer s port c (answerTxn Op.amorsp t (s.wordFor c Cstat.indeterminate 0) 0 [])
  else
    let aux := if t.op = Op.redreq ∨ t.op = Op.mergereq then acceptAux t else 0
    sendAnswer s port c (answerTxn (answerOp t.op) t (done.getD (s.wordFor c Cstat.ok 0)) aux [])

/-! ### Performing (R126, R129, R134) -/

/-- The Midfield die as the requester of what a connection asks, with the settings taken at its opening (R33, R120). -/
def Conn.who (c : Conn) : Who := { die := 4, world := c.world, region := c.region, core := 0x1FF, req := 2, opens := false }
def Conn.env (s : State) (c : Conn) : Env := { s.envOf c.region with world := c.world, asn := c.asn, root := c.root }

/-- The checks of one line of a request's range: translation, slice permission, worlds and code, a gated bank (R126, R45). -/
def checkLine (s : State) (w : Who) (env : Env) (acc : Acc) (va n : Nat) : State × Res Place :=
  if spaceOf va = 2 then (s, .fail Tstat.addressRange 0 false)
  else match translate s w env acc va n with
    | (s, .ok p) => match homeAdmits s w env acc p with
      | (s, .ok ()) => match p with
        | .slice core off => match s.servedAt core off with
          | .slice c => if gatedAt s c ((s.halfOff core off acc).getD off) then (s, .fail Tstat.slicePermission 0 false) else (s, .ok p)
          | _ => (s, .ok p)
        | _ => (s, .ok p)
      | (s, .fail t l h) => (s, .fail t l h)
      | (s, .abort) => (s, .abort)
      | (s, .tag b) => (s, .tag b)
      | (s, .wait) => (s, .wait)
    | r => r

/-- Every line of a range checked before any is performed (R126): the places, or the first failure. -/
def checkLines (w : Who) (env : Env) (acc : Acc) (va0 : Nat) : List (Nat × Nat) → State → State × Res (List (Nat × Nat × Place))
  | [], s => (s, .ok [])
  | (va, n) :: t, s =>
    if sameSpace va0 va = false then (s, .fail Tstat.addressRange 0 false)
    else match checkLine s w env acc va n with
      | (s, .ok p) => match checkLines w env acc va0 t s with
        | (s, .ok l) => (s, .ok ((va, n, p) :: l))
        | r => r
      | (s, .fail t l h) => (s, .fail t l h)
      | (s, .abort) => (s, .abort)
      | (s, .tag b) => (s, .tag b)
      | (s, .wait) => (s, .wait)

/-- The first place of a list whose access must wait: it meets a block that has not moved yet, or an older access of the same source to the same
context waits (R400, R403). -/
def State.mustDivert (s : State) (source : Nat) (l : List (Nat × Nat × Place)) : Option Place :=
  (l.find? fun (_, _, p) => match p with
    | .slice core off => decide (s.servedAt core off = .later) || s.dies.any (fun (_, d) => d.divq.any (fun q => decide (q.source = source) && s.sameTarget q p))
    | _ => false).map (·.2.2)

/-- An access joins the diversion queue of a slice's die. -/
def divert (s : State) (source : Nat) (p : Place) (again : Instr) : State :=
  match p with
  | .slice core off =>
    let s := s.fetchDiv core off
    s.updDie (dieOf core) fun d => { d with divq := d.divq ++ [{ source := source, core := core, block := off / 4096, subj := 0, again := again }] }
  | _ => s

/-- The context a BARV write decrements a barrier of: that of the diversion entry, or the resident task one of whose entries covers the block; it
must be of the slot's region (R134). -/
def State.barvCtx (s : State) (region va : Nat) : Option Nat :=
  let core := va / 2 ^ 23 % 512
  let off := va % 2 ^ 23
  let id := match s.divAt core off with
    | some e => some e.ctxId
    | none => ((s.core core).ctx).bind fun id =>
      if (s.ctx id).any (fun (c : Ctx) => c.runs.any (fun r => decide (r.1 ≤ off / 4096 ∧ off / 4096 < r.1 + r.2.1))) then some id else none
  id.bind fun id => if (s.ctx id).any (fun (c : Ctx) => decide (c.who.region = region)) then some id else none

/-- The bytes of a write that are written: all, or those of its mask (R115). -/
def Txn.writes (t : Txn) : List (Nat × Byte) :=
  let l := (t.data.take t.len).zipIdx.map (fun (b, i) => (i, b))
  if t.masked then l.filter (fun p => bit t.d3 p.1) else l

/-- The checked lines of a write are written; whether an uncorrectable error, or a failure, was met at one (R127). -/
def writeLines' (w : Who) (env : Env) (upd : List (Nat × Byte)) (va0 : Nat) : List (Nat × Nat × Place) → State → State × Res Unit
  | [], s => (s, .ok ())
  | (va, n, p) :: t, s =>
    let mine := (upd.filter (fun u => decide (va - va0 ≤ u.1 ∧ u.1 < va - va0 + n))).map (fun u => (u.1 - (va - va0), u.2))
    let (s, r) := if mine = [] then (s, Res.ok ()) else if mine.length = n then homeWriteRun s w env p (mine.map (·.2)) else homeWrite s w env p mine
    let (s, r') := writeLines' w env upd va0 t s
    (s, match r with
      | .ok () => r'
      | r => r)

/-- The checked lines of a read. -/
def readLines (w : Who) (env : Env) : List (Nat × Nat × Place) → State → State × Res (List Byte)
  | [], s => (s, .ok [])
  | (_, n, p) :: t, s => match homeRead s w env p n with
    | (s, .ok bs) => match readLines w env t s with
      | (s, .ok rest) => (s, .ok (bs ++ rest))
      | r => r
    | r => r

/-- A failure as the completion word a source receives: of the translation or the permissions FAULT, of the home DATA-ERROR (R37, R131). -/
def State.failWordFor (s : State) (c : Conn) (acc : Acc) : Res Unit → DWord
  | .ok () => s.wordFor c Cstat.ok 0
  | .fail t l h => s.wordFor c Cstat.fault (faultWord t l acc h true)
  | .abort => s.wordFor c Cstat.dataError 0
  | .tag _ => s.wordFor c Cstat.fault (faultWord Tstat.permission 0 acc false true)
  | .wait => s.wordFor c Cstat.ok 0

/-- Whether an atomic's fields are allowed (R117). -/
def amoFieldsOk (t : Txn) : Bool :=
  decide (t.amop ≤ 0xB ∧ 2 ≤ t.asize) && !(decide (0xA ≤ t.amop) && decide (t.asize = 3)) && decide (t.taddr % 2 ^ t.asize = 0)

/-- How a request was performed: its word and data; or it must wait at a place, or for the host's translation. -/
inductive Performed where
  | done (s : State) (w : DWord) (data : List Byte)
  | divert (s : State) (p : Place)
  | retry (s : State)

/-- A request is checked on every line of its range, and then performed (R126, R127, R134); a leg of a multicast as a write (R162). -/
def performReq (s : State) (k : Nat) (c : Conn) (t : Txn) : Performed :=
  let w := c.who
  let env := Conn.env s c
  let acc := t.acc
  let n := if t.op = Op.amoreq then 2 ^ t.asize else t.len
  let wr := decide (t.op = Op.wrreq ∨ t.op = Op.mcastreq)
  let bar := if t.barv ∧ wr = true then s.barvCtx (s.slotHdr c.job).region t.taddr else none
  let bad (s : State) : Performed := .done s (s.wordFor c Cstat.protocol 0) []
  if (t.op = Op.amoreq ∧ amoFieldsOk t = false) ∨ (t.masked = true ∧ t.op = Op.wrreq ∧ t.len ≠ 64) then bad s
  else if wr = true ∧ t.barv = true ∧ (spaceOf t.taddr ≠ 1 ∨ bar.isNone ∨ 256 ≤ t.barrier) then bad s
  else match checkLines w env acc t.taddr (pieces t.taddr n) s with
    | (s, .wait) => .retry s
    | (s, .ok l) => match s.mustDivert (0x10000 + k) l with
      | some p => .divert s p
      | none =>
        if t.op = Op.rdreq then
          match readLines w env l s with
          | (s, .ok bs) => .done s (s.wordFor c Cstat.ok 0) bs
          | (s, r) => .done s (s.failWordFor c acc r.unit) []
        else if t.op = Op.amoreq then
          let bits := 8 * n
          match l with
          | [(_, _, p)] => match homeAtomic s w env p n (fun old => amoValue t.amop bits t.ftz old (leNat (t.data.take n)) (leNat ((t.data.drop 8).take n))) with
            | (s, .ok old) => .done s (s.wordFor c Cstat.ok 0) (leBytes 16 old)
            | (s, r) => .done s (s.failWordFor c acc r.unit) []
          | _ => bad s
        else match writeLines' w env (Txn.writes t) t.taddr l s with
          | (s, .ok ()) =>
            let s := match bar with
              | some id => barDec s id t.barrier (Txn.writes t).length
              | none => s
            .done s (s.wordFor c Cstat.ok 0) []
          | (s, r) => .done s (s.failWordFor c acc r) []
    -- the checks come before anything is performed: what they cannot read is an error of the walk (R126)
    | (s, .abort) => .done s (s.failWordFor c acc (.fail Tstat.walkError 0 false)) []
    | (s, r) => .done s (s.failWordFor c acc r.unit) []

/-- Whether an ordered request must wait: a smaller sequence number of its window has not come, or is ordered and not performed (R129). -/
def Conn.before (c : Conn) (t : Txn) : Bool :=
  t.ord && ((List.range (seqDist t.seq c.base)).any (fun i => !c.seen.contains ((c.base + i) % 2 ^ 24)) ||
    c.hold.any (fun h => h.txn.ord && seqBefore h.seq t.seq))

/-- REMOTE_PERFORM: an accepted request whose predecessors are done is checked on every line, performed at its home and answered (R126 to
R129, R134). -/
def execRemotePerform (conn seq : Nat) (s : State) : Host.Outcome State Fault Refusal :=
  match s.mid.conns.look conn with
  | none => .next s
  | some c => match c.hold.find? (fun h => decide (h.seq = seq)) with
    | none => .next s
    | some h =>
      let t := h.txn
      if c.before t then .next s
      else match performReq s conn c t with
        | .retry s => .next (s.push 1 0 (.remotePerform conn seq))
        | .divert s p => .next (divert s (0x10000 + conn) p (.remotePerform conn seq))
        | .done s w data =>
          let s := s.updConn conn fun c => { c with
            hold := c.hold.filter (fun x => decide (x.seq ≠ seq)), lastUse := s.now
            done := (seq, w) :: c.done.filter (fun p => decide (p.1 ≠ seq))
            results := if t.op = Op.amoreq then (seq, dwordAt data 0) :: c.results.take 63 else c.results }
          .next (kickHeld (sendAnswer s h.port c (answerTxn (answerOp t.op) t w 0 data)) conn)

/-! ### Arrival of a request (R122, R126, R139) -/

/-- Whether a UALink request carries a translated address. The manual does not give the form of a UALink message: in the transaction that stands for
it, bit 0 of dword 0 is that mark (DESIGN CHOICE, notes/assumptions/41). -/
def translatedMark (t : Txn) : Bool := bit t.d0 0

/-- A request that arrives on a UALink port is bound to the port's slot and performed once, at once; anything but a read, a write or an atomic that
R117 has, one that carries a translated address, or one to a slot that is closed, gets an error answer (R139). -/
def ualinkPerform (s : State) (port : Nat) (t : Txn) : State :=
  let job := (s.port port).ujob
  let h := s.slotHdr job
  let env := s.envOf h.region
  let c : Conn :=
    { requester := false, number := t.conn, job := job, rank := t.srcRank, pkg := 0, st := .opened, openTag := 0, nextSeq := 0, credits := 64,
      ports := 0, queue := [], lastUse := s.now, spilled := false, region := h.region, world := h.world, asn := env.asn, root := env.root, base := 0,
      seen := [], results := [], done := [], hold := [] }
  let out (s : State) (w : DWord) (data : List Byte) : State := sendTxn s port 0 (answerTxn (answerOp t.op) t w 0 data)
  let known := (decide (t.op = Op.rdreq) || decide (t.op = Op.wrreq) || (decide (t.op = Op.amoreq) && decide (t.amop ≤ 9))) && !t.barv
  if !h.en || !known || translatedMark t then out s (s.wordFor c Cstat.unsupported 0) []
  else match performReq s (0x20000 + port) c t with
    | .done s w data => out s w data
    | .divert s p => divert s (0x20000 + port) p (.remoteRequestReceive port t)
    | .retry s => s.push 1 0 (.remoteRequestReceive port t)

/-- REMOTE_REQUEST_RECEIVE: a request is judged by its connection's BASE and SEEN (R126). One past its lifetime is dropped and counted (R122),
one whose connection is unknown, or whose tag fails, is discarded (R119, R421); one whose context is spilled waits for it, a µs at a time
(R120). -/
def execRemoteRequestReceive (port : Nat) (t : Txn) (s : State) : Host.Outcome State Fault Refusal :=
  let older := { t with d1 := setFld t.d1 56 8 (Nat.min 255 (t.age + 1)) }
  if port < 48 ∧ (s.port port).mode = 4 then .next (ualinkPerform s port t)
  else if s.lifetime < t.age then .next (portErr s port)
  else
    -- the one response to a contribution whose key was in TOMB is a final REDRSP (R157)
    let mine := (s.answered s.pkg t).bind s.mid.reqs.look
    if t.op = Op.redrsp ∧ mine.any (fun r => decide (r.txn.op = Op.redreq ∨ r.txn.op = Op.mergereq)) then
      .next (s.push 0 0 (.remoteCompletionReceive s.pkg t))
    else match s.mid.conns.find? (fun (_, c) => !c.requester && decide (c.number = t.conn)) with
      | none => .next s
      | some (k, c) =>
        if c.spilled then .next ((s.pushOnce 0 k .contextFetch).push usCycles 0 (.remoteRequestReceive port older))
        else match (if port = selfPort then some t else unsealTxn s c.job c.pkg c.openTag t) with
          | none => .next (portErr s port)
          | some t =>
            let s := s.updConn k fun c => c.advance t
            match s.mid.conns.look k with
            | some c => .next (kickHeld (judgeReq s k port c t) k)
            | none => .next s

end Sys2Proof.Machine
end

