-- ==== Sys2Proof/Machine/Link.lean ====
section
/-! DEFINITION. Fabric ports (chapter 4): flits received, acknowledged and sent again (R110 to R114), relaying (R462), training and negotiation (R135 to
R137). -/

namespace Sys2Proof.Machine

/-! ### Flits (R110 to R113) -/

/-- Whether a flit is whole: 256 bytes, its CRC right, its type not reserved (R110, R111). -/
def flitGood (bs : List Byte) : Bool :=
  decide (bs.length = 256 ∧ crc64 (bs.take 248) = leNat (bs.drop 248)) && decide (fld (dwordAt bs 0) 60 4 < 5)

/-- The fields of a link header (R110). -/
def flitType (bs : List Byte) : Nat := fld (dwordAt bs 0) 60 4
def flitVc (bs : List Byte) : Nat := fld (dwordAt bs 0) 58 2
def flitSeq (bs : List Byte) : Nat := fld (dwordAt bs 0) 46 12
def flitAck (bs : List Byte) : Nat := fld (dwordAt bs 0) 34 12
def flitAckV (bs : List Byte) : Bool := bit (dwordAt bs 0) 33
def flitDpkg (bs : List Byte) : Nat := fld (dwordAt bs 0) 8 16
def flitPayload (bs : List Byte) : List Byte := (bs.drop 8).take 240

/-- Whether a link sequence number lies before another, modulo 4,096. -/
def lseqBefore (a b : Nat) : Bool := decide (0 < (b + 4096 - a) % 4096 ∧ (b + 4096 - a) % 4096 ≤ 2048)

/-- A flit of a type other than DATA. -/
def sendControl (s : State) (p type : Nat) (payload : List Byte) : State :=
  emitFlit s p (makeFlit type 0 0 0 payload)

/-- An ACK flit: bit i for the held flit ACKBASE + 1 + i (R112, R113). -/
def sendAck (s : State) (p : Nat) : State :=
  let q := s.port p
  let has (i : Nat) : Bool := decide (i ≤ 254) && q.reseq.any (fun f => decide (f.1 = (q.ackbase + 1 + i) % 4096))
  let map := (List.range 32).map fun b => BitVec.ofNat 8 (((List.range 8).map (fun i => b2n (has (8 * b + i)) * 2 ^ i)).foldl (· + ·) 0)
  sendControl (s.updPort p fun q => { q with sinceAck := 0 }) p 2 map

/-- Acknowledged flits leave the replay buffer, and others may follow (R112). -/
def acked (s : State) (p : Nat) (gone : Nat → Bool) : State :=
  sendReady (s.updPort p fun q => { q with replay := q.replay.filter (fun f => f.first = unsent || !gone f.lseq) }) p

/-- Some flits of the replay buffer are sent again (R112). -/
def resendFlits (s : State) (p : Nat) (again : Flit → Bool) : State :=
  let l := (s.port p).replay.filter (fun f => f.first ≠ unsent && again f)
  if l = [] then s
  else
    let s := s.updPort p fun q => { q with
      replay := q.replay.map fun f => if f.first ≠ unsent && again f then ({ f with last := s.now } : Flit) else f }
    (l.foldl (fun s f => emitFlit s p f.bytes) s).push 875 p .replayTimeout

/-! ### Units to transactions (R115, R116) -/

/-- Bytes of an element by FMT (R144). -/
def redSize (fmt : Nat) : Nat := [4, 2, 2, 4, 8, 8].getD fmt 0

/-- The bytes of the result that a final notice brings: known from the contribution, or the level-0 entry, that it answers (R155), which may have
ended (R125, R156). -/
def State.noticeBytes (s : State) (job : Nat) (t : Txn) : Nat :=
  let rid := fld t.d3 44 20
  let cidx := fld t.d3 38 6
  let good := decide (cstatOf t.d2 = Cstat.ok ∨ cstatOf t.d2 = Cstat.partial')
  let child := s.mid.comb.find? (fun (_, e) => decide (3 ≤ e.st ∧ e.job = job ∧ e.rid = rid ∧ e.level = 0 ∧ e.pidx = cidx) && e.pv)
  let own := s.mid.crecs.find? (fun (_, r) => decide (r.job = job ∧ r.rid = rid ∧ r.cidx = cidx))
  let n := match child, own with
    | some (_, e), _ => if !e.destc then 0 else if e.oper = 6 then 260 else e.nelem * redSize e.fmt
    | none, some (_, r) => r.size
    | none, none => 0
  32 + (if good then n else 0)

/-- The bytes that follow the header of a transaction for this package: its data in whole units, the length of a read's answer being that of its
request, and the tag unit of a protected slot (R115, R116, R421). -/
def State.tailBytes (s : State) (pkg : Nat) (t : Txn) : Nat :=
  let req := (s.answered pkg t).bind s.mid.reqs.look
  let conn := s.mid.conns.find? (fun (_, c) => !c.requester && decide (c.number = t.conn))
  let contrib := req.any (fun r => decide (r.txn.op = Op.redreq ∨ r.txn.op = Op.mergereq))
  let reply := opIsReply t.op && (!(decide (t.op = Op.redrsp) && bit t.d3 0) || contrib)
  let job := if reply then req.elim 64 (·.job) else conn.elim 64 (·.2.job)
  let n := if t.op = Op.rdrsp ∧ cstatOf t.d2 = 0 then req.elim 0 (fun r => r.txn.len)
    else if t.op = Op.redrsp ∧ reply = false then s.noticeBytes job t else t.dataBytes
  (n + 15) / 16 * 16 + (if opVc t.op ≠ 3 ∧ (s.slotHdr job).world ≠ 0 then 16 else 0)

/-- The transaction whose header stands first. -/
def headerOf (bs : List Byte) : Txn := { d0 := dwordAt bs 0, d1 := dwordAt bs 1, d2 := dwordAt bs 2, d3 := dwordAt bs 3, data := [] }

/-- Transactions taken from units; what is left is the beginning of one that goes on in the next flit. OP 0 ends the payload (R115). -/
def takeTxns (tail : Txn → Nat) : Nat → List Byte → List Txn × List Byte
  | 0, _ => ([], [])
  | fuel + 1, bs =>
    if bs.length < 16 then ([], [])
    else if (headerOf bs).op = 0 then ([], [])
    else if bs.length < 32 then ([], bs)
    else
      let t := headerOf bs
      let n := tail t
      if bs.length < 32 + n then ([], bs)
      else
        let (l, rest) := takeTxns tail fuel (bs.drop (32 + n))
        ({ t with data := (bs.drop 32).take n } :: l, rest)

/-- A transaction's AGE after one more link; none when it would exceed LIFETIME (R122). -/
def State.aged (s : State) (t : Txn) : Option Txn :=
  if s.lifetime < t.age + 4 then none else some { t with d1 := setFld t.d1 56 8 (t.age + 4) }

/-- A transaction for this package has come: it goes to the transaction layer, or is dropped and counted (R116, R122). -/
def arriveTxn (s : State) (p pkg : Nat) (t : Txn) : State :=
  if opKnown t.op = false then portErr s p
  else match s.aged t with
    | some t => s.push 0 0 (arrival p pkg t)
    | none => portErr s p

/-- The units of a flit for this package go to the transaction layer. -/
def takeUnits (s : State) (p vc : Nat) (payload : List Byte) : State :=
  let q := s.port p
  let pkg := q.peer.elim 0 (·.1)
  let old := ((q.partial0.find? (fun x => decide (x.1 = vc))).map (·.2)).getD []
  let (l, rest) := takeTxns (s.tailBytes pkg) 20 (old ++ payload)
  let s := s.updPort p fun q => { q with partial0 := q.partial0.filter (fun x => decide (x.1 ≠ vc)) ++ (if rest = [] then [] else [(vc, rest)]) }
  l.foldl (fun s t => arriveTxn s p pkg t) s

/-! ### Relaying (R462) -/

/-- The forwarding entry of a package: held, or read from the table (R462). -/
def forwardEntry (s : State) (dpkg : Nat) : State × DWord :=
  match s.mid.fwdHeld.look dpkg with
  | some e => (s, e)
  | none =>
    let (s, e) := s.devDword whoDevice (fld s.mid.fwdbase 19 21 * 2 ^ 19 + 8 * dpkg)
    ({ s with mid := { s.mid with fwdHeld := s.mid.fwdHeld.set dpkg e } }, e)

/-- The bytes after a header as a relay finds them: those the header tells, and a free number of units more, since only the two ends know whether
the tag of a protected slot follows (R421) and how long the answer to a read is. -/
def relayTail (t : Txn) : Nat :=
  let told := (t.dataBytes + 15) / 16 * 16
  let whole := decide (t.op = Op.rdrsp ∨ t.op = Op.redrsp)
  if opVc t.op = 3 then told else told + 16 * (Config.relayUnits t.d0 t.d2 % (if whole then 20 else 2))

/-- A transaction for another package is sent on: one whose package has no open way, whose class the way does not carry, or whose OP this
manual does not give, is discarded and counted on the port it came by (R462, R122). -/
def relayTxn (s : State) (p vc dpkg : Nat) (t : Txn) : State :=
  let (s, e) := forwardEntry s dpkg
  let ports := if bit e 63 then (portsOf (fld e 0 48)).filter (fun o => (s.port o).mode = 2 || (s.port o).mode = 3) else []
  match s.aged t, ports[Config.portChoice dpkg ports.length % ports.length]? with
  | some t, some o => if opKnown t.op && modeCarries (s.port o).mode t then queueUnits s o vc dpkg t.bytes else portErr s p
  | _, _ => portErr s p

/-- The units of a flit for another package, put together to whole transactions, are sent on (R462). -/
def relayUnits (s : State) (p vc dpkg : Nat) (payload : List Byte) : State :=
  let key := vc + 4 * (dpkg + 1)
  let old := (((s.port p).partial0.find? (fun x => decide (x.1 = key))).map (·.2)).getD []
  let (l, rest) := takeTxns relayTail 20 (old ++ payload)
  let s := s.updPort p fun q => { q with partial0 := q.partial0.filter (fun x => decide (x.1 ≠ key)) ++ (if rest = [] then [] else [(key, rest)]) }
  l.foldl (fun s t => relayTxn s p vc dpkg t) s

/-! ### Reception (R111 to R113) -/

/-- The held flits that follow ACKBASE are delivered in order (R113); each frees a buffer of its channel (R110). -/
def deliverFlits (p : Nat) : Nat → State → State
  | 0, s => s
  | fuel + 1, s =>
    let q := s.port p
    match q.reseq.find? (fun f => decide (f.1 = q.ackbase)) with
    | none => s
    | some (n, bs) =>
      let s := s.updPort p fun q => { q with
        reseq := q.reseq.filter (fun f => decide (f.1 ≠ n)), ackbase := (n + 1) % 4096, sinceAck := q.sinceAck + 1
        owed := q.owed.set (flitVc bs) (q.owed.val 0 (flitVc bs) + 1) }
      let s := if flitDpkg bs = s.pkg then takeUnits s p (flitVc bs) (flitPayload bs) else relayUnits s p (flitVc bs) (flitDpkg bs) (flitPayload bs)
      let s := if 64 ≤ (s.port p).sinceAck then sendAck s p else s
      deliverFlits p fuel s

/-- A damaged flit is discarded and counted; a good one's acknowledgement is taken (R111, R112). -/
def openFlit (s : State) (p : Nat) (bs : List Byte) : Option State :=
  if flitGood bs = false then none
  else if flitAckV bs ∧ 2 ≤ (s.port p).mode then some (acked s p (fun n => lseqBefore n (flitAck bs)))
  else some s

/-- FLIT_RECEIVE: a DATA or IDLE flit; flits of another type take their own step. DATA within the window is held and delivered in order; what
lies outside is discarded, an old one being acknowledged again (R113). On a UALink port the bytes are one UALink message, aged as a transaction
is (R122, R139). -/
def execFlitReceive (port : Nat) (bytes : List (BitVec 8)) (s : State) : Host.Outcome State Fault Refusal :=
  let mode := (s.port port).mode
  if mode = 4 then
    match s.aged { headerOf bytes with data := bytes.drop 32 } with
    | some t => .next (s.push 0 0 (if opIsReply t.op then .remoteCompletionReceive 0 t else .remoteRequestReceive port t))
    | none => .next (portErr s port)
  else if mode = 0 then .next s
  else match openFlit s port bytes with
    | none => .next (portErr s port)
    | some s =>
      match flitType bytes with
      | 0 => .next s
      | 2 => .next (s.push 0 0 (.ackFlit port bytes))
      | 3 => .next (s.push 0 0 (.linkcap port bytes))
      | 4 => .next (s.push 0 port .retrain)
      | _ =>
        if mode < 2 then .next s
        else
          let q := s.port port
          let n := flitSeq bytes
          if (n + 4096 - q.ackbase) % 4096 < 256 then
            let s := if q.reseq.any (fun f => decide (f.1 = n)) then s else s.updPort port fun q => { q with reseq := q.reseq ++ [(n, bytes)] }
            let s := deliverFlits port 256 s
            fin (if (s.port port).reseq.isEmpty then s else (sendAck s port).pushOnce 350 port .ackSendTimer)
          else if lseqBefore n q.ackbase then .next (sendAck s port)
          else .next s

/-- ACK_FLIT: flits are acknowledged by ACKBASE and the bitmap, and those before an acknowledged one are sent again (R112). -/
def execAckFlit (port : Nat) (bytes : List (BitVec 8)) (s : State) : Host.Outcome State Fault Refusal :=
  if (s.port port).mode < 2 ∨ flitType bytes ≠ 2 then .next s
  else match openFlit s port bytes with
    | none => .next (portErr s port)
    | some s =>
      let base := flitAck bytes
      let map := flitPayload bytes
      let got := (List.range 255).filter (fun i => (map.getD (i / 8) 0).getLsbD (i % 8))
      let seqs := got.map (fun i => (base + 1 + i) % 4096)
      let s := acked s port (fun n => seqs.contains n)
      .next (resendFlits s port (fun f => seqs.any (fun n => lseqBefore f.lseq n)))

/-- ACK_SEND_TIMER: 0.2 µs have passed while a flit is held (R113). -/
def execAckSendTimer (s : State) : Host.Outcome State Fault Refusal :=
  if (s.port s.subj).reseq.isEmpty ∨ (s.port s.subj).mode < 2 then .next s
  else .next ((sendAck s s.subj).push 350 s.subj .ackSendTimer)

/-- REPLAY_TIMEOUT: flits not acknowledged 0.5 µs after they were last sent are sent again (R112). -/
def execReplayTimeout (s : State) : Host.Outcome State Fault Refusal :=
  .next (resendFlits s s.subj (fun f => decide (f.last + 875 ≤ s.now)))

/-! ### Training (R114, R135 to R137) -/

/-- 100 ms, 10 ms and 1 µs in cycles. -/
def trainCycles : Nat := 100000 * usCycles
def capCycles : Nat := 10000 * usCycles

/-- The µs of link time that a port's training has taken are charged to its RETRBUD budget (R436). -/
def chargeTraining (s : State) (p : Nat) : State :=
  s.updPort p fun q => { q with retrTok := q.retrTok - (s.now - q.trainStart + usCycles - 1) / usCycles }

/-- A port begins to train: what the link held is gone, both ends number their flits from 0 again, and what PORTCFG permits takes effect (R135).
Without tokens a retraining waits for the next period, its port DOWN (R437). -/
def startTraining (s : State) (p mode : Nat) : State :=
  if (s.port p).retrTok ≤ 0 ∧ (s.port p).retrains ≠ 0 then
    s.updPort p fun q => { q with mode := 0, lanes := 0, peer := none, waits := true, replay := [], reseq := [], partial0 := [] }
  else
  (s.updPort p fun q => { q with
    mode := mode, lanes := 0, waits := false, retrains := satAdd 8 q.retrains 1, peer := none, trainStart := s.now, lseq := 0, replay := [], ackbase := 0, reseq := [],
    sinceAck := 0, owed := [], partial0 := [], nowUa := q.ualen, now2 := q.v2, now1 := q.v1 }).push trainCycles p .portTrainTimeout

/-- LINK_UNACK_TIMEOUT: a flit unacknowledged 4 µs after it was first sent: the replay buffer is dropped, RETRAIN is sent, the port trains
again (R114). -/
def execLinkUnackTimeout (s : State) : Host.Outcome State Fault Refusal :=
  let p := s.subj
  if (s.port p).replay.any (fun f => f.first ≠ unsent && decide (f.first + 4 * usCycles ≤ s.now)) then
    .next (startTraining (sendControl s p 4 []) p 1)
  else .next s

/-- RETRAIN: the other end asks for training (R111). -/
def execRetrain (s : State) : Host.Outcome State Fault Refusal :=
  if (s.port s.subj).en ∧ 2 ≤ (s.port s.subj).mode then .next (startTraining s s.subj 1) else .next s

/-- The LINKCAP of a port (R137). -/
def sendCap (s : State) (p : Nat) : State :=
  let q := s.port p
  sendControl s p 3
    ([BitVec.ofNat 8 (b2n q.now1 + 2 * b2n q.now2), 0] ++ leBytes 2 s.pkg ++ [BitVec.ofNat 8 p])

/-- LANE_TRAINED: a port's lanes have trained: it sends LINKCAP, again every 1 µs until one comes (R137). -/
def execLaneTrained (port : Nat) (lanes : BitVec 4) (s : State) : Host.Outcome State Fault Refusal :=
  let q := s.port port
  if q.en = true ∧ q.mode < 2 ∧ lanes ≠ 0 ∧ port < 48 then
    let s := s.updPort port fun q => { q with lanes := lanes.toNat, mode := 1 }
    .next (((sendCap s port).push usCycles port .linkcapResend).push capCycles port .linkcapTimeout)
  else .next s

/-- Whether a port's lanes have trained and its mode is not settled. -/
def Port.asking (q : Port) : Bool := decide (q.mode = 1 ∧ q.lanes ≠ 0)

/-- LINKCAP_RESEND (R137). -/
def execLinkcapResend (s : State) : Host.Outcome State Fault Refusal :=
  if (s.port s.subj).asking then .next ((sendCap s s.subj).push usCycles s.subj .linkcapResend) else .next s

/-- A port could not train: it reports DOWN, and tries again after 100 ms (R114, R137). -/
def trainFailed (s : State) (p : Nat) : State :=
  ((chargeTraining s p).updPort p fun q => { q with mode := 0, lanes := 0, peer := none, trainStart := s.now }).push trainCycles p .portTrainTimeout

/-- LINKCAP: the highest version both ends have is the mode; with none in common the port is DOWN (R137). -/
def execLinkcap (port : Nat) (bytes : List (BitVec 8)) (s : State) : Host.Outcome State Fault Refusal :=
  let q := s.port port
  if q.mode = 0 ∨ q.mode = 4 then .next s
  else if flitGood bytes = false ∨ flitType bytes ≠ 3 then .next (portErr s port)
  else if q.asking = false then .next s
  else
    let d := bytes.drop 8
    let v := (d.getD 0 0).toNat
    let peer := (leNat ((d.drop 2).take 2), (d.getD 4 0).toNat)
    let up (m : Nat) : State := (chargeTraining s port).updPort port fun q => { q with mode := m, peer := some peer }
    if q.now2 && v.testBit 1 then .next (up 3)
    else if q.now1 && v.testBit 0 then .next (up 2)
    else .next (trainFailed s port)

/-- LINKCAP_TIMEOUT: no LINKCAP has come within 10 ms: the port is a UALink port where that is permitted, or DOWN (R137). -/
def execLinkcapTimeout (s : State) : Host.Outcome State Fault Refusal :=
  let q := s.port s.subj
  if q.asking = false ∨ s.now < q.trainStart + capCycles then .next s
  else if q.nowUa then .next ((chargeTraining s s.subj).updPort s.subj fun q => { q with mode := 4 })
  else .next (trainFailed s s.subj)

/-- PORT_TRAIN_TIMEOUT: a port that has not trained within 100 ms reports DOWN and tries again, as long as EN = 1 (R114). -/
def execPortTrainTimeout (s : State) : Host.Outcome State Fault Refusal :=
  let q := s.port s.subj
  if q.en = false ∨ 2 ≤ q.mode ∨ (q.waits = false ∧ s.now < q.trainStart + trainCycles) then .next s
  else .next (startTraining (if q.mode = 1 then chargeTraining s s.subj else s) s.subj (if q.waits then 1 else 0))

/-- PORTCFG_WRITE: a port is configured; EN going to 1 starts its training, EN going to 0 takes it down (R135). -/
def execPortcfgWrite (port : Nat) (v : BitVec 32) (s : State) : Host.Outcome State Fault Refusal :=
  let w : DWord := v.setWidth 64
  let was := (s.port port).en
  if 48 ≤ port ∨ s.hostReady = false then .next s
  else
    let s := s.updPort port fun q => { q with ujob := fld w 8 6, ualen := bit w 3, v2 := bit w 2, v1 := bit w 1, en := bit w 0 }
    if bit w 0 = true ∧ was = false then .next (startTraining (s.updPort port fun q => { q with retrains := 0 }) port 1)
    else if bit w 0 = false ∧ was = true then
      .next (s.updPort port fun q => { q with mode := 0, lanes := 0, peer := none, replay := [], reseq := [], partial0 := [] })
    else .next s

/-- FWDBASE_WRITE: the table moves, and every entry held is discarded (R462). -/
def execFwdbaseWrite (v : BitVec 64) (s : State) : Host.Outcome State Fault Refusal :=
  if s.hostReady = false then .next s
  else .next { s with mid := { s.mid with fwdbase := BitVec.ofNat 64 (fld v 19 21 * 2 ^ 19), fwdHeld := [] } }

end Sys2Proof.Machine
end

