-- ==== Sys2Proof/Machine/Reduce.lean ====
section
/-! DEFINITION. In-fabric reduction and ranked merge (chapter 5): the scrum units' checks (R145), entries (R141, R142, R146), modes (R149 to R152,
R160), ending, forwarding and notices (R153 to R158). -/

namespace Sys2Proof.Machine

/-! ### Contributions as they arrive (R143 to R145) -/

/-- A contribution's descriptor and payload (R143). -/
structure Desc where
  rid : Nat
  oper : Nat
  fmt : Nat
  repro : Nat
  destc : Bool
  level : Nat
  cidx : Nat
  k : Nat
  dir : Bool
  pv : Bool
  parent : Nat
  pidx : Nat
  pexpect : Nat
  tout : Nat
  part : Nat
  whole : Bool
  nopair : Bool
  expect : Nat
  taddr : Nat
  payload : List Byte

/-- The expected set of AUX; none when it is malformed (R143). -/
def expectOf (form : Bool) (aux : DWord) : Option Nat :=
  if form then (if aux = 0 then none else some aux.toNat)
  else if 1 ≤ aux.toNat ∧ aux.toNat ≤ 64 then some (2 ^ aux.toNat - 1)
  else none

/-- A contribution read from its transaction (R143). -/
def Desc.of (t : Txn) : Desc :=
  let d0 := dwordAt t.data 0
  let d2 := dwordAt t.data 2
  let tout := fld d2 50 14
  { rid := fld d0 44 20, oper := fld d0 40 4, fmt := fld d0 37 3, repro := fld d0 35 2, destc := bit d0 33, level := fld d0 32 1,
    cidx := fld d0 26 6, k := fld d0 20 6, dir := bit d0 19, pv := bit d0 18, parent := fld d0 6 12, pidx := fld d0 0 6,
    pexpect := (dwordAt t.data 1).toNat, tout := if tout = 0 then 20 else tout, part := fld d2 48 2, whole := bit d2 47, nopair := bit d2 46,
    expect := (expectOf (bit d0 34) t.d3).getD 0, taddr := t.taddr, payload := (t.data.drop 32).take t.len }

/-- Whether an element format is a floating one (R144). -/
def redFloat (fmt : Nat) : Bool := fmt ≤ 2
/-- The floating format of a FMT. -/
def redFp (fmt : Nat) : FloatFmt := [fp32, bf16, fp16].getD fmt fp32

/-- Whether an operator takes a format (R144). -/
def operTakes (oper fmt : Nat) : Bool :=
  if oper ≤ 2 then fmt ≤ 4 else if oper ≤ 5 then fmt = 3 || fmt = 4 else oper = 6 && fmt = 5

/-- Whether a sum is kept exactly (R151, R152). -/
def isExact (oper fmt repro : Nat) : Bool := repro = 2 && oper = 0 && redFloat fmt
/-- Whether a sum is staged (R150, R152). -/
def isStaged (oper fmt repro : Nat) : Bool := repro = 1 && oper = 0 && redFloat fmt

/-- The bytes of an element as a contribution of a level carries it (R144, R148). -/
def Desc.size (d : Desc) : Nat := if d.level = 1 ∧ redFloat d.fmt = true then 4 else redSize d.fmt
/-- NELEM of a contribution; a forwarded exact sum always carries 16 accumulators (R148). -/
def Desc.nelem (d : Desc) : Nat := if d.level = 1 ∧ isExact d.oper d.fmt d.repro then 16 else d.payload.length / d.size

/-- Whether a reserved code or field is set (R143, R145 item 1). -/
def descReserved (t : Txn) (d : Desc) : Bool :=
  let d2 := dwordAt t.data 2
  let rank := decide (d.oper = 6)
  !operTakes d.oper d.fmt || decide (d.repro = 3) || decide (fld d2 0 46 ≠ 0) || dwordAt t.data 3 != 0 || decide (fld t.d2 0 40 ≠ 0) || bit t.d0 0
    || (expectOf (bit (dwordAt t.data 0) 34) t.d3).isNone || (!rank && (decide (d.k ≠ 0) || d.dir)) || (!d.pv && decide (d.pexpect ≠ 0))
    || decide (d.part ≠ 0 ∧ ¬ (d.level = 1 ∧ isExact d.oper d.fmt d.repro = true ∧ d.part ≤ 2)) || (decide (d.level = 0) && d.whole)
    || decide (d.level = 1 ∧ d.pv = true)

/-- Whether a length rule is broken (R145 item 3, R148). -/
def lengthBad (t : Txn) (d : Desc) : Bool :=
  let n := t.len
  if d.oper = 6 then
    decide (d.k = 0 ∨ 32 < d.k) || (if d.nopair then decide (n ≠ 8) else decide (n % 8 ≠ 0 ∨ d.k < n / 8))
  else if d.nopair then true
  else if d.level = 1 ∧ isExact d.oper d.fmt d.repro then decide (n ≠ (if d.part = 2 then 144 else 256))
  else decide (n % d.size ≠ 0 ∨ n / d.size = 0 ∨ 64 < n / d.size) || (isExact d.oper d.fmt d.repro && decide (16 < n / d.size))

/-- The key of an entry: JOB, RID and LEVEL (R140). -/
def combKey (job rid level : Nat) : Nat := (job * 2 ^ 20 + rid) * 2 + level

def State.setComb (s : State) (k : Nat) (e : Comb) : State := { s with mid := { s.mid with comb := s.mid.comb.set k e } }
def State.updComb (s : State) (k : Nat) (f : Comb → Comb) : State :=
  match s.mid.comb.look k with
  | some e => s.setComb k (f e)
  | none => s

/-- Whether a contribution differs from the entry its key has (R145 item 5). -/
def Comb.differs (e : Comb) (d : Desc) : Bool :=
  decide (e.oper ≠ d.oper ∨ e.fmt ≠ d.fmt ∨ e.repro ≠ d.repro ∨ (d.oper ≠ 6 ∧ e.nelem ≠ d.nelem) ∨ e.k ≠ d.k ∨ e.dir ≠ d.dir ∨ e.destc ≠ d.destc
    ∨ e.pv ≠ d.pv ∨ e.parent ≠ d.parent ∨ e.pidx ≠ d.pidx ∨ e.taddr ≠ d.taddr ∨ e.expect ≠ d.expect ∨ e.pexpect ≠ d.pexpect ∨ e.tout ≠ d.tout)

/-- Whether a contribution has already been taken: its index has arrived, or this part of it has come (R145 item 6, R148). -/
def Comb.has (e : Comb) (d : Desc) : Bool := e.arrived.testBit d.cidx || e.parts.any (fun p => decide (p.1 = d.cidx ∧ p.2.1 = d.part))

/-- Whether a contribution is refused with PROTOCOL (R145). -/
def contribBad (s : State) (job : Nat) (t : Txn) (d : Desc) : Bool :=
  descReserved t d || decide ((t.op = Op.mergereq) ≠ (d.oper = 6)) || lengthBad t d || decide (10000 < fld (dwordAt t.data 2) 50 14)
    || !d.expect.testBit d.cidx || (d.pv && !d.pexpect.testBit d.pidx)
    || (match s.mid.comb.look (combKey job d.rid d.level) with
        | some e => (decide (e.st = 1) && e.differs d) || (decide (e.st ≠ 5) && e.has d)
        | none => false)

/-! ### Notices (R155) -/

/-- AUX of a final notice. -/
def noticeAux (rid cidx : Nat) : DWord := BitVec.ofNat 64 (rid * 2 ^ 44 + cidx * 2 ^ 38 + 1)

/-- A final notice: its completion word and AUX, the status unit, and the result when there is one for the contributors. -/
def noticeTxn (w : DWord) (rid cidx incl0 incl1 full1 : Nat) (result : List Byte) : Txn :=
  { d0 := BitVec.ofNat 64 (Op.redrsp * 2 ^ 58), d1 := 0, d2 := w, d3 := noticeAux rid cidx,
    data := leBytes 8 incl0 ++ leBytes 8 incl1 ++ leBytes 8 full1 ++ List.replicate 8 0 ++ result }

/-- Sends a request of the die itself to a rank of a job, with the window defaults (R148, R155). -/
def sendOwn (s : State) (what : ReqFor) (job rank : Nat) (t : Txn) : State := (submit s what none job rank 0x1FF 2 6 false t).1

/-- One contributor's notice: what became of its piece, 0 standing for the entry's own status. -/
def sendNotice (s : State) (e : Comb) (what : ReqFor) (cidx rank cstat : Nat) : State :=
  let home := (s.slotHdr e.job).selfrank
  let own := decide (cstat = 0)
  let w := if own then (if e.fword = 0 then cword home e.status 0 else cword home (cstatOf e.fword) (e.fword &&& 0xFFFFFFFF)) else cword home cstat 0
  let good := own && decide (cstatOf w = Cstat.ok ∨ cstatOf w = Cstat.partial')
  let top := decide (e.level = 1)
  sendOwn s what e.job rank (noticeTxn w e.rid cidx (if top then 0 else e.arrived) (if top then e.arrived else e.incl1)
    (if top then e.full else e.full1) (if good && e.destc then e.value else []))

/-- The contributions that wait with a key. -/
def State.waiters (s : State) (key : Nat) : List Contrib :=
  s.mid.contribs.filter (fun c => decide (combKey c.job (Desc.of c.txn).rid (Desc.of c.txn).level = key))

/-- An entry becomes a tomb, and is free after TOMBTIME (R155, R157). What its control part reads beside V, STATE and the key: the other fields keep
their values (R142 says that only the key is kept; DESIGN CHOICE, notes/assumptions/46). -/
def entomb (s : State) (key : Nat) : State :=
  (s.updComb key fun e => { e with st := 5, acc := [], exact := [], ranked := [], value := [], started := s.now }).push
    (fld s.mid.scrumcfg 24 20 * usCycles) key .tombExpire

/-- The notices of an entry go out, also to those who wait with its key (R155). -/
def sendNotices (s : State) (key : Nat) : State :=
  match s.mid.comb.look key with
  | none => s
  | some e =>
    let late := (s.waiters key).map (fun c => ((Desc.of c.txn).cidx, c.rank, Cstat.expired))
    let l := e.who.eraseDups ++ late
    let e := { e with st := 4, acks := l.length, staged := [] }
    let s := { s.setComb key e with
      mid := { (s.setComb key e).mid with contribs := s.mid.contribs.filter (fun c => !(s.waiters key).contains c) } }
    if l = [] then entomb s key else l.foldl (fun s p => sendNotice s e (.notice key) p.1 p.2.1 p.2.2) s

/-! ### Applying (R149 to R152, R160) -/

/-- The elements of a payload. -/
def elemsOf (size : Nat) (bs : List Byte) : List Nat := (List.range (bs.length / size)).map (fun i => leNat ((bs.drop (size * i)).take size))

/-- An element as an entry keeps it: FP32 bits for the floating formats, its own bits otherwise. -/
def Desc.working (d : Desc) (x : Nat) : Nat :=
  if redFloat d.fmt then round32 false ((if d.level = 1 then fp32 else redFp d.fmt).decode x) else x

/-- Two elements combined (R149, R152). -/
def combine2 (oper fmt a b : Nat) : Nat :=
  let bits := 8 * redSize fmt
  if redFloat fmt then
    let x := fp32.decode a
    let y := fp32.decode b
    round32 false (if oper = 0 then x.add 0 y else Val.minMax (decide (oper = 1)) x y)
  else match oper with
    | 0 => (a + b) % 2 ^ bits
    | 1 => if signed bits a < signed bits b then b else a
    | 2 => if signed bits b < signed bits a then b else a
    | 3 => a &&& b
    | 4 => a ||| b
    | _ => a ^^^ b

/-- The first contribution sets the elements, each later one combines with them. -/
def combineAll (oper fmt : Nat) (acc xs : List Nat) : List Nat :=
  if acc = [] then xs else (acc.zip xs).map (fun p => combine2 oper fmt p.1 p.2)

/-- An exact element that nothing has been added to (R151). -/
def Exact.zero : Exact := { x := 0, pinf := false, ninf := false, nan := false, neg0 := true }

/-- A value added exactly. -/
def Exact.plus (e : Exact) (v : Val) : Exact :=
  match v with
  | .nan => { e with nan := true, neg0 := false }
  | .inf neg => { e with pinf := e.pinf || !neg, ninf := e.ninf || neg, neg0 := false }
  | .fin neg num den exp => { e with x := e.x + scaleNum neg num exp (-149) / (den : Int), neg0 := e.neg0 && neg && decide (num = 0) }

/-- Two accumulators added. -/
def Exact.join (a b : Exact) : Exact :=
  { x := a.x + b.x, pinf := a.pinf || b.pinf, ninf := a.ninf || b.ninf, nan := a.nan || b.nan, neg0 := a.neg0 && b.neg0 }

/-- The final value of an exact element (R151). -/
def Exact.final (e : Exact) (p : FloatFmt) : Nat :=
  if e.nan || (e.pinf && e.ninf) then p.nan
  else if e.pinf then p.encode 0 false false 0 (.inf false)
  else if e.ninf then p.encode 0 false false 0 (.inf true)
  else if e.x = 0 then p.pack e.neg0 0 0
  else p.encode 0 false false 0 (.fin (decide (e.x < 0)) e.x.natAbs 1 (-149))

/-- An accumulator as 40 bytes, and its flags as one: PINF, NINF, NAN, NEG0 from bit 0 (DESIGN CHOICE, log 47). -/
def Exact.bytes (e : Exact) : List Byte := leBytes 40 (wrap 320 e.x)
def Exact.flags (e : Exact) : Nat := b2n e.pinf + 2 * b2n e.ninf + 4 * b2n e.nan + 8 * b2n e.neg0

/-- The 16 accumulators of a forwarded sum, from its three parts (R148). -/
def exactOf (bs : List Byte) : List Exact :=
  (List.range 16).map fun i =>
    let f := (bs.getD (640 + i) 0).toNat
    { x := signed 320 (leNat ((bs.drop (40 * i)).take 40)), pinf := f.testBit 0, ninf := f.testBit 1, nan := f.testBit 2, neg0 := f.testBit 3 }

/-- The pairs of a contribution (R143, R160). -/
def Desc.pairs (d : Desc) : List (Word × Word) :=
  if d.nopair then []
  else (List.range (d.payload.length / 8)).map fun i =>
    (BitVec.ofNat 32 (leNat ((d.payload.drop (8 * i)).take 4)), BitVec.ofNat 32 (leNat ((d.payload.drop (8 * i + 4)).take 4)))

/-- A contributor counted: its bit in ARRIVED, and in FULL when its own partial was complete. -/
def Comb.arrive (e : Comb) (d : Desc) (rank : Nat) : Comb :=
  let b := 2 ^ d.cidx
  { e with arrived := e.arrived ||| b, full := if d.level = 0 ∨ d.whole = true then e.full ||| b else e.full, who := e.who ++ [(d.cidx, rank, 0)] }

/-- A contribution of exact mode: added, or kept until its last part has come. -/
def Comb.addExact (e : Comb) (d : Desc) (rank : Nat) : Comb :=
  let old := if e.exact = [] then List.replicate e.nelem Exact.zero else e.exact
  if d.level = 0 then
    { e with exact := (old.zip (elemsOf d.size d.payload)).map (fun (p : Exact × Nat) => p.1.plus ((redFp d.fmt).decode p.2)) }.arrive d rank
  else
    let parts := e.parts ++ [(d.cidx, d.part, d.payload)]
    let mine (k : Nat) : Option (List Byte) := (parts.find? (fun p => decide (p.1 = d.cidx ∧ p.2.1 = k))).map (·.2.2)
    match mine 0, mine 1, mine 2 with
    | some a, some b, some c =>
      { e with
        exact := (old.zip (exactOf (a ++ b ++ c))).map (fun (p : Exact × Exact) => p.1.join p.2)
        parts := parts.filter (fun p => decide (p.1 ≠ d.cidx)) }.arrive d rank
    | _, _, _ => { e with parts := parts }

/-- A contribution applied at once. -/
def Comb.apply (e : Comb) (d : Desc) (rank : Nat) : Comb :=
  if e.oper = 6 then { e with ranked := rankInsertAll e.k e.dir e.ranked d.pairs }.arrive d rank
  else if isExact e.oper e.fmt e.repro then e.addExact d rank
  else { e with acc := combineAll e.oper e.fmt e.acc ((elemsOf d.size d.payload).map d.working) }.arrive d rank

/-- The staging slots of a unit that are in use. -/
def State.slotsUsed (s : State) (unit : Nat) : List Nat :=
  s.mid.comb.flatMap (fun (_, e) => if e.rid % 16 = unit then e.staged.map (·.2.1) else [])

/-- The line of a staging slot (R159). -/
def State.stageLine (s : State) (unit slot i : Nat) : Nat := (fld s.mid.scrumstage 26 14 * 2 ^ 26 + (unit * 16384 + slot) * 256) / 64 + i

/-- The die's own accesses to the staging area. -/
def scrumWho : Who := { die := 4, world := 0, region := 0, core := 0x1FF, req := 7, opens := false }

/-- A contribution staged in a slot (R146, R150). -/
def stageAt (s : State) (key : Nat) (e : Comb) (d : Desc) (rank slot : Nat) : State :=
  let put (s : State) (i : Nat) : State :=
    let bs := (d.payload.drop (64 * i)).take 64
    (hbmWrite s scrumWho (s.stageLine (e.rid % 16) slot i) ((bs ++ List.replicate (64 - bs.length) 0).zipIdx.map (fun (b, i) => (i, b)))).1
  let s := (List.range ((d.payload.length + 63) / 64)).foldl put s
  s.setComb key ({ e with staged := e.staged ++ [(d.cidx, slot, d.payload.length)] }.arrive d rank)

/-! ### The end of collection (R153 to R155) -/

/-- The status of a level that has ended collecting (R154). -/
def Comb.levelStatus (e : Comb) : Nat := if e.arrived = e.expect ∧ e.full = e.arrived then Cstat.ok else Cstat.partial'

/-- An entry leaves OPEN: with nothing in it, EXPIRED; otherwise its value is formed (R153, R154). -/
def endCollection (s : State) (key : Nat) : State :=
  match s.mid.comb.look key with
  | none => s
  | some e =>
    let e := { e with parts := [] }
    if e.arrived = 0 then sendNotices (s.setComb key { e with status := Cstat.expired }) key
    else (s.setComb key { e with st := 2, status := e.levelStatus }).push 0 key .combineDone

/-- A new entry (R146). -/
def Comb.open' (s : State) (job : Nat) (d : Desc) : Comb :=
  { st := 1, job := job, rid := d.rid, level := d.level, oper := d.oper, fmt := d.fmt, repro := d.repro, destc := d.destc, pv := d.pv, pidx := d.pidx,
    parent := d.parent, expect := d.expect, arrived := 0, full := 0, tout := d.tout, nelem := d.nelem, k := d.k, dir := d.dir, taddr := d.taddr,
    pexpect := d.pexpect, started := s.now, acc := [], exact := [], ranked := [], staged := [], parts := [], who := [], status := 0, fword := 0,
    value := [], incl1 := 0, full1 := 0, acks := 0 }

/-- A contribution leaves the waiting ones. -/
def dropContrib (s : State) (c : Contrib) : State := { s with mid := { s.mid with contribs := s.mid.contribs.filter (fun x => decide (x ≠ c)) } }

/-- The unit takes a waiting contribution; true when it has gone, false when it must wait for an entry or a slot (R146). A new entry's timer expires
exactly TOUT after this (R153 lets it expire up to 1 µs later; DESIGN CHOICE, notes/assumptions/46). -/
def takeContrib (s : State) (c : Contrib) : State × Bool :=
  let d := Desc.of c.txn
  let key := combKey c.job d.rid d.level
  let unit := d.rid % 16
  let enter (s : State) (e : Comb) : State × Bool :=
    if isStaged e.oper e.fmt e.repro then
      let used := s.slotsUsed unit
      match (List.range 16384).find? (fun n => !used.contains n) with
      | none => (s.setComb key e, false)
      | some n => (stageAt (dropContrib s c) key e d c.rank n, true)
    else ((dropContrib s c).setComb key (e.apply d c.rank), true)
  let full (p : State × Bool) : State × Bool :=
    (if (p.1.mid.comb.look key).any (fun e => decide (e.st = 1 ∧ e.arrived = e.expect)) then endCollection p.1 key else p.1, p.2)
  match s.mid.comb.look key with
  | none =>
    if 4096 ≤ (s.mid.comb.filter (fun (_, e) => decide (e.rid % 16 = unit))).length then (s, false)
    else full (enter (s.push (d.tout * usCycles) key .reductionTimeout) (Comb.open' s c.job d))
  | some e =>
    if e.st = 1 then
      if e.differs d || e.has d then (sendNotice (dropContrib s c) e .nothing d.cidx c.rank Cstat.expired, true)
      else full (enter s e)
    else if e.st = 4 then
      let e' := { e with acks := e.acks + 1 }
      (sendNotice ((dropContrib s c).setComb key e') e' (.notice key) d.cidx c.rank Cstat.expired, true)
    else if e.st = 5 then (sendNotice (dropContrib s c) e .nothing d.cidx c.rank Cstat.expired, true)
    else (s, true)

/-- CONTRIBUTION_RECEIVE: a contribution is checked at its home, answered with an acceptance, and waits for its unit; one that fails a check
ends PROTOCOL, one whose key is in TOMB ends EXPIRED, and with the units off all end UNSUPPORTED (R145, R146, R157, R159). -/
def execContributionReceive (conn seq : Nat) (s : State) : Host.Outcome State Fault Refusal :=
  match s.mid.conns.look conn with
  | none => .next s
  | some c => match c.hold.find? (fun h => decide (h.seq = seq)) with
    | none => .next s
    | some h =>
      let t := h.txn
      let d := Desc.of t
      let endAs (s : State) (w aux : DWord) : State :=
        let s := s.updConn conn fun c => { c with hold := c.hold.filter (fun x => decide (x.seq ≠ seq)), done := (seq, w) :: c.done }
        sendAnswer s h.port c (answerTxn Op.redrsp t w aux [])
      if bit s.mid.scrumcfg 0 = false then .next (endAs s (s.wordFor c Cstat.unsupported 0) (acceptAux t))
      else if contribBad s c.job t d then .next (endAs s (s.wordFor c Cstat.protocol 0) (acceptAux t))
      else if (s.mid.comb.look (combKey c.job d.rid d.level)).any (fun e => decide (e.st = 5)) then
        .next (endAs s (s.wordFor c Cstat.expired 0) (noticeAux d.rid d.cidx))
      else
        let s := endAs s (s.wordFor c Cstat.ok 0) (acceptAux t)
        let x : Contrib := { conn := conn, seq := seq, rank := c.rank, job := c.job, txn := t }
        .next ({ s with mid := { s.mid with contribs := s.mid.contribs ++ [x] } }.push 0 (conn * 2 ^ 24 + seq) .contributionApply)

/-- CONTRIBUTION_APPLY: the unit takes a waiting contribution (R146). -/
def execContributionApply (s : State) : Host.Outcome State Fault Refusal :=
  match s.mid.contribs.find? (fun c => decide (c.conn * 2 ^ 24 + c.seq = s.subj)) with
  | none => .next s
  | some c => match takeContrib s c with
    | (s, true) => .next s
    | (s, false) => .next (s.push 1 s.subj .contributionApply)

/-- REDUCTION_TIMEOUT: collection ends, contributions that have reached the entry being taken first (R146, R153). -/
def execReductionTimeout (s : State) : Host.Outcome State Fault Refusal :=
  let key := s.subj
  let ripe (s : State) : Bool := (s.mid.comb.look key).any (fun e => decide (e.st = 1 ∧ e.started + e.tout * usCycles ≤ s.now))
  if ripe s = false then .next s
  else
    let s := (s.waiters key).foldl (fun s c => (takeContrib s c).1) s
    .next (if ripe s then endCollection s key else s)

/-! ### The value, its write and its forward (R148 to R151, R154 to R156) -/

/-- The staged contributions combined in ascending index; those whose copy cannot be read are absent (R150, R158). -/
def combineStaged (e : Comb) : List (Nat × Nat × Nat) → State → State × Comb
  | [], s => (s, e)
  | (cidx, slot, n) :: t, s =>
    let rd (acc : State × Option (List Byte)) (i : Nat) : State × Option (List Byte) :=
      match acc.2 with
      | none => acc
      | some bs => match hbmRead acc.1 scrumWho (acc.1.stageLine (e.rid % 16) slot i) with
        | (s, .ok l) => (s, some (bs ++ l))
        | (s, _) => (s, none)
    let (s, r) := (List.range ((n + 63) / 64)).foldl rd (s, some [])
    let size := if e.level = 1 then 4 else redSize e.fmt
    let p := if e.level = 1 then fp32 else redFp e.fmt
    match r with
    | some bs => combineStaged { e with acc := combineAll e.oper e.fmt e.acc ((elemsOf size (bs.take n)).map (fun x => round32 false (p.decode x))) } t s
    | none =>
      let out := e.who.map (fun w => if w.1 = cidx then (w.1, w.2.1, Cstat.dataError) else w)
      combineStaged { e with
        arrived := e.arrived &&& (2 ^ 64 - 1 - 2 ^ cidx), full := e.full &&& (2 ^ 64 - 1 - 2 ^ cidx), who := out, status := Cstat.partial' } t s

/-- The result in the reduction's format (R149, R151, R160). -/
def Comb.result (e : Comb) : List Byte :=
  if e.oper = 6 then (List.range 65).flatMap (fun j => leBytes 4 (pairWords e.ranked j).toNat)
  else if isExact e.oper e.fmt e.repro then e.exact.flatMap (fun x => leBytes (redSize e.fmt) (x.final (redFp e.fmt)))
  else e.acc.flatMap fun x => leBytes (redSize e.fmt) (if redFloat e.fmt then (redFp e.fmt).encode 0 false false 0 (fp32.decode x) else x)

/-- The payloads of a forward, with their part numbers (R148). -/
def Comb.forwards (e : Comb) : List (Nat × List Byte) :=
  if e.oper = 6 then [(0, if e.ranked = [] then List.replicate 8 0 else e.ranked.flatMap (fun p => leBytes 4 p.1.toNat ++ leBytes 4 p.2.toNat))]
  else if isExact e.oper e.fmt e.repro then
    let all := (e.exact ++ List.replicate (16 - e.exact.length) Exact.zero).take 16
    let bs := all.flatMap Exact.bytes
    [(0, bs.take 256), (1, (bs.drop 256).take 256), (2, bs.drop 512 ++ all.map (fun x => BitVec.ofNat 8 x.flags))]
  else [(0, e.acc.flatMap (fun x => leBytes (if redFloat e.fmt then 4 else redSize e.fmt) x))]

/-- One forward to the parent (R148). Its TOUT is the entry's effective one, also where the contributors sent 0 (DESIGN CHOICE,
notes/assumptions/46). -/
def Comb.forwardTxn (e : Comb) (part : Nat) (payload : List Byte) : Txn :=
  let d0 := e.rid * 2 ^ 44 + e.oper * 2 ^ 40 + e.fmt * 2 ^ 37 + e.repro * 2 ^ 35 + 2 ^ 34 + b2n e.destc * 2 ^ 33 + 2 ^ 32 + e.pidx * 2 ^ 26
    + e.k * 2 ^ 20 + b2n e.dir * 2 ^ 19
  let nopair := decide (e.oper = 6) && e.ranked.isEmpty
  let d2 := e.tout * 2 ^ 50 + part * 2 ^ 48 + b2n (decide (e.arrived = e.expect)) * 2 ^ 47 + b2n nopair * 2 ^ 46
  reqTxn (if e.oper = 6 then Op.mergereq else Op.redreq) 0 e.taddr payload.length 0 (BitVec.ofNat 64 e.pexpect)
    (leBytes 8 d0 ++ leBytes 8 0 ++ leBytes 8 d2 ++ leBytes 8 0 ++ payload)

/-- A result written at TADDR, every line of it checked first (R155). -/
def writeResult (s : State) (key : Nat) (e : Comb) : Performed :=
  let h := s.slotHdr e.job
  let w : Who := { die := 4, world := h.world, region := h.region, core := 0x1FF, req := 2, opens := false }
  let env : Env := { s.envOf h.region with world := h.world }
  let upd := e.value.zipIdx.map (fun (b, i) => (i, b))
  let fail (s : State) (r : Res Unit) : Performed :=
    .done s (match r with
      | .fail t l x => if t = Tstat.walkError then cword h.selfrank Cstat.dataError 0 else cword h.selfrank Cstat.fault (faultWord t l .write x true)
      | .tag _ => cword h.selfrank Cstat.fault (faultWord Tstat.permission 0 .write false true)
      | _ => cword h.selfrank Cstat.dataError 0) []
  match checkLines w env .write e.taddr (pieces e.taddr e.value.length) s with
  | (s, .wait) => .retry s
  | (s, .ok l) => match s.mustDivert (0x30000 + key) l with
    | some p => .divert s p
    | none => match writeLines' w env upd e.taddr l s with
      | (s, .ok ()) => .done s 0 []
      | (s, r) => fail s r
  | (s, r) => fail s r.unit

/-- COMBINE_DONE: the final value has been formed: it goes to the parent, to TADDR, or to the notices (R150, R151, R154, R155). -/
def execCombineDone (s : State) : Host.Outcome State Fault Refusal :=
  let key := s.subj
  match s.mid.comb.look key with
  | none => .next s
  | some e =>
    if e.st ≠ 2 then .next s
    else
      let order := e.staged.mergeSort (fun a b => a.1 ≤ b.1)
      let (s, e) := combineStaged { e with staged := [] } order s
      if e.arrived = 0 then .next (sendNotices (s.setComb key e) key)
      else if e.level = 0 ∧ e.pv = true then
        let s := s.setComb key { e with st := 3, acks := 0, started := s.now }
        .next (e.forwards.foldl (fun s p => sendOwn s (.forward key) e.job e.parent (e.forwardTxn p.1 p.2)) s)
      else
        let e := { e with value := e.result }
        let s := s.setComb key e
        if e.destc then .next (s.push 0 key .resultWriteDone)
        else match writeResult s key e with
          | .retry s => .next (s.push 1 key .combineDone)
          | .divert s p => match p with
            | .slice core off =>
              let s := s.fetchDiv core off
              let q : DivWait := { source := 0x30000 + key, core := core, block := off / 4096, subj := key, again := .combineDone }
              .next (s.updDie (dieOf core) fun d => { d with divq := d.divq ++ [q] })
            | _ => .next (s.push 1 key .combineDone)
          | .done s w _ => .next ((s.updComb key fun e => { e with fword := w }).push 0 key .resultWriteDone)

/-- RESULT_WRITE_DONE: the result has been written or has failed: the notices go out (R155). -/
def execResultWriteDone (s : State) : Host.Outcome State Fault Refusal :=
  if (s.mid.comb.look s.subj).any (fun e => decide (e.st = 2)) then .next (sendNotices s s.subj) else .next s

/-- NOTICE_ACKED: a notice has been acknowledged or has ended; after the last the entry is a tomb (R155). -/
def execNoticeAcked (s : State) : Host.Outcome State Fault Refusal :=
  match s.mid.comb.look s.subj with
  | some e =>
    if e.st ≠ 4 then .next s
    else
      let s := s.setComb s.subj { e with acks := e.acks - 1 }
      .next (if e.acks ≤ 1 then entomb s s.subj else s)
  | none => .next s

/-- TOMB_EXPIRE: an entry in TOMB is free after TOMBTIME (R157). -/
def execTombExpire (s : State) : Host.Outcome State Fault Refusal :=
  match s.mid.comb.look s.subj with
  | none => .next s
  | some e =>
    let ends := e.started + fld s.mid.scrumcfg 24 20 * usCycles
    if e.st ≠ 5 then .next s
    else if s.now < ends then .next (s.push (ends - s.now) s.subj .tombExpire)
    else .next { s with mid := { s.mid with comb := s.mid.comb.del s.subj } }

/-- FORWARD_NOTICE_TIMEOUT: a forward has ended without acceptance, whose outcome the contributors receive, or no notice has come from the
parent in time, and they receive INDETERMINATE (R156). -/
def execForwardNoticeTimeout (s : State) : Host.Outcome State Fault Refusal :=
  let key := s.subj
  match s.mid.comb.look key with
  | none => .next s
  | some e =>
    let ends := e.started + (e.tout + fld s.mid.fabtime 32 20) * usCycles
    if e.st ≠ 3 then .next s
    else if e.fword ≠ 0 then .next (sendNotices s key)
    else if e.acks < e.forwards.length then .next s
    else if s.now < ends then .next (s.push (ends - s.now) key .forwardNoticeTimeout)
    else .next (sendNotices (s.setComb key { e with fword := cword (s.slotHdr e.job).selfrank Cstat.indeterminate 0 }) key)

/-- PARENT_NOTICE: the parent's status and result are passed on to the contributors of a level-0 entry (R155). -/
def execParentNotice (key : Nat) (t : Txn) (s : State) : Host.Outcome State Fault Refusal :=
  match s.mid.comb.look key with
  | none => .next s
  | some e =>
    if e.st ≠ 3 then .next s
    else
      let c := cstatOf t.d2
      let w := if c = Cstat.ok ∨ c = Cstat.partial' then 0 else t.d2
      .next (sendNotices (s.setComb key { e with
        status := c, fword := w, incl1 := (dwordAt t.data 1).toNat, full1 := (dwordAt t.data 2).toNat, value := t.data.drop 32 }) key)

/-! ### The contributor (R158, R368, R370) -/

/-- The end of a contribution: what came back for its row, and its failure when it is one. -/
def endContribution (s : State) (crec : Nat) (r : CRec) (w : DWord) (data : List Byte) : State :=
  let s := { s with mid := { s.mid with crecs := s.mid.crecs.set crec { r with past := true } } }
  let note (k : Cmd) : Cmd :=
    if k.seq ≠ r.entry ∨ k.st = .done then k
    else
      let k := { k with got := if data = [] then k.got else k.got ++ [(r.row, data)], cword := if k.cword = 0 then w else k.cword }
      if cstatOf w = Cstat.ok then k
      else
        let f : XFail := { order := r.row, cause := Cause.remote, addr := hBase k.hd + (if k.kind = .rmergeSw then 512 * r.row else 0), detail := w }
        { k with failed := k.failed ++ [f] }
  (s.updCtx r.ctx fun c => { c with xf := { c.xf with log := c.xf.log.map note } }).push 0 r.ctx .commandStart

/-- NOTICE_RECEIVE: a final notice reaches the contributor it names, whose command takes it (R158, R368). -/
def execNoticeReceive (conn : Nat) (t : Txn) (s : State) : Host.Outcome State Fault Refusal :=
  let job := (s.mid.conns.look conn).elim 64 (·.job)
  match s.mid.crecs.find? (fun (_, r) => decide (r.job = job ∧ r.rid = fld t.d3 44 20 ∧ r.cidx = fld t.d3 38 6) && !r.past) with
  | none => .next s
  | some (k, r) => .next (endContribution s k r (t.d2 &&& 0x0000FFFFFFFFFFFF) t.data)

/-- CONTRIBUTION_TIMEOUT: no notice has come within 2 × TOUT + DESTTO of the acceptance: the contribution ends INDETERMINATE (R158). -/
def execContributionTimeout (s : State) : Host.Outcome State Fault Refusal :=
  match s.mid.crecs.look s.subj with
  | none => .next s
  | some r =>
    let rank := ((s.ctx r.ctx).bind (fun c => c.xf.log.find? (fun k => decide (k.seq = r.entry)))).elim 0 (fun k => fld k.cword 36 12)
    if !r.past && r.accepted.any (fun a => decide (a + r.wait * usCycles ≤ s.now)) then
      .next (endContribution s s.subj r (cword rank Cstat.indeterminate 0) [])
    else .next s

end Sys2Proof.Machine
end

