-- ==== Sys2Proof/Machine/Switch.lean ====
section
/-! DEFINITION. Switching contexts: requests and the boundary they take effect at (R257, R391), quiesce and save (R392 to R396), the diversion table
(R398 to R403), restore (R397, R404), frames (R417 to R419). -/

namespace Sys2Proof.Machine

/-! ### Requests (R257, R391, R399) -/

/-- Why a switch is requested: the arbiter, a frame edge, the host, a debugger, YIELD (R391). -/
def Why.arbiter : Nat := 0
def Why.frame : Nat := 1
def Why.host : Nat := 2
def Why.debugger : Nat := 3
def Why.yield : Nat := 4

/-- The lowest save slot of a context's region that no other context holds (R392). -/
def State.freeSlot (s : State) (id : Nat) (c : Ctx) : Option Nat :=
  match c.slot with
  | some k => some k
  | none =>
    let used := s.ctxs.filterMap fun (i, x) => if i ≠ id ∧ x.who.region = c.who.region then x.slot else none
    (List.range (fld (s.rcb c.who.region 14) 0 16)).find? (fun k => !used.contains k)

/-- Whether the diversion table of the core's die, which has 16,384 entries in all, can supply the entries of a switch-out beside those in use and
those reserved (R399). -/
def State.divRoom (s : State) (id core : Nat) (c : Ctx) : Bool :=
  let d := dieOf core
  decide (((s.die d).div.filter (fun e => !e.replaced id core)).length + s.divReserved d id + c.runs.length + 1 ≤ 16384)

/-- Whether a staged loop is open in the running code (R256). -/
def Ctx.staged (c : Ctx) : Bool := c.regs.st.sv && decide (c.regs.st.slevel < c.regs.st.depth)

/-- A context whose debugger's step a switch cuts short: a step-issue has ended with its issue, a settle wait ends with CUT, and what it issued ends as
ordinary events do (R390). -/
def Ctx.cutStep (c : Ctx) : Ctx :=
  if c.dbg.settling = false then c
  else if bit c.dbg.ctl 2 = false then c.halted Cause.step
  else
    let c := c.halted Cause.step
    let plain (k : Cmd) : Cmd := { k with stepf := false }
    let plainV (v : VecOp) : VecOp := { v with stepf := false }
    let plainM (m : MOp) : MOp := { m with stepf := false }
    { c with
      dbg := { c.dbg with stat := setFld c.dbg.stat 10 1 1 }
      xf := { c.xf with log := c.xf.log.map plain, again := c.xf.again.map plain }
      eng := { c.eng with vq := c.eng.vq.map plainV, ms := c.eng.ms.map plainM } }

/-- What a switch must wait for at the present bundle: a PHASE past step 1 or a DONE under way, a window-space access whose request has been made, a trap
that waits to be entered (R89, R391). -/
def Ctx.bundleBusy (c : Ctx) : Bool := c.ph.op.any (fun o => o.sent || o.isDone) || c.ph.rem.isSome || c.trapWait.isSome

/-- SWITCH_REQUEST: a switch of the task on a core is requested. A staged loop drains first, except for a frame-edge switch in an idle frame, in which
the task has stopped issuing and which starts at once (R419); a PHASE under way, a sent window-space access, a missing save slot or
missing diversion entries are waited for; then the task leaves at this boundary (R257, R391, R392, R399). -/
def execSwitchRequest (core why : Nat) (s : State) : Host.Outcome State Fault Refusal :=
  match (s.core core).ctx with
  | none => .next s
  | some id => match s.ctx id with
    | none => .next s
    | some c =>
      if c.loc ≠ .resident core ∨ c.leaving = true ∨ c.isOver = true then .next s
      else
        let why := if c.want = some Why.frame then Why.frame else why
        let c := { c with want := some why }
        let again (s : State) : Host.Outcome State Fault Refusal := .next (s.pushOnce 1 0 (.switchRequest core why))
        let atOnce := c.idle && decide (why = Why.frame)
        let drain (b : Nat) (c : Ctx) : Ctx := { c with regs := { c.regs with st := { c.regs.st with stage := setFld c.regs.st.stage 15 1 b } } }
        if c.staged && !atOnce && !c.stageOut then again (s.setCtx id (drain 1 c))
        else if c.bundleBusy then again (s.setCtx id c)
        else match s.freeSlot id c, s.divRoom id core c with
          | some k, true =>
            let c := (if c.staged && !c.stageOut then drain 0 c else c).cutStep
            .next ((s.setCtx id { c with slot := some k, leaving := true, stageOut := false }).push 0 id .quiesceDone)
          | _, _ => again (s.setCtx id { c with stageOut := false })

/-! ### Saving (R392, R393, R398, R400) -/

/-- The 4 KiB blocks of a context, rising (R392). -/
def Ctx.blocks (c : Ctx) : List Nat := (coveredBlocks c.bufs).map (·.1)

/-- The accesses that wait at every die are looked at again. -/
def callDiverted (s : State) : State := (List.range 5).foldl (fun s d => if (s.die d).divq.isEmpty then s else s.pushOnce 0 d .divertedAccess) s

/-- The entries of a switch-out: one for the context, one for each slice permission entry it held (R398). -/
def switchEntries (s : State) (id core : Nat) (c : Ctx) : List DivEnt :=
  let e (isCtx : Bool) (run : Nat × Nat × Nat) : DivEnt :=
    { state := 1, isCtx := isCtx, core := core, ncore := core, start := run.1, count := run.2.1, rights := 7, share := run.2.2,
      world := c.who.world, owner := c.who.region, slot := c.slot.getD 0, next := 0, image := s.imageBase c, ctxId := id, spilled := false }
  e true (0, 0, 0) :: c.runs.map (e false)

/-- Whether a task is quiet: its loads have returned, its VEC, PRM and SCL operations have ended, and no stream operation can act (R392, R393). -/
def State.quietTask (s : State) (id : Nat) (c : Ctx) : Bool :=
  c.ph.memq.isEmpty && c.ph.rem.isNone && c.eng.vq.isEmpty && c.eng.prm.isEmpty && c.eng.scl.isEmpty && c.trapWait.isNone
    && (nextOp s id c [] c.eng.ms).isNone

/-- Whether the context engine may access a context's image for its world: a save or restore that may not ends the task, as a translation failure
(R416; that it does is DEDUCED, notes/assumptions/29). -/
def State.mayImage (s : State) (c : Ctx) : Bool := s.devMay c.who.world (s.imageBase c) 0xA00000

/-- QUIESCE_DONE: when a leaving task is quiet, its diversion entries are installed and its core state and tiles are saved; what is left of its stream stays
withdrawn in the image (R392, R393, R395, R398). -/
def execQuiesceDone (s : State) : Host.Outcome State Fault Refusal :=
  let id := s.subj
  match s.ctx id with
  | none => .next s
  | some c => match c.loc with
    | .resident core =>
      if c.leaving = false ∨ c.isOver = true then .next s
      else if s.quietTask id c = false then .next (s.push 1 id .quiesceDone)
      else if s.mayImage c = false then .next (s.fatal id Cause.translation (faultWord Tstat.permission 0 .write false false))
      else
        let mine := switchEntries s id core c
        let again (e : DivEnt) : DivEnt := if e.ctxId = id then { e with state := 1, next := 0, image := s.imageBase c } else e
        let s := s.mapDivs fun d l => (l.filter (fun e => !e.replaced id core)).map again ++ (if d = dieOf core then mine else [])
        let c := { c.withdraw with loc := .saving core 0, oldCore := some core, cycles := cyclesOf s c, seenAt := s.now, lbuf := [] }
        let s := writeImage (s.setCtx id c) id c
        fin (if c.blocks = [] then s.push 0 id .saveDone else s.push 32 id .blockSaved)
    | _ => .next s

/-- BLOCK_SAVED: the next block of the slice is saved; accesses that waited for it go on, on the image (R392, R400). -/
def execBlockSaved (s : State) : Host.Outcome State Fault Refusal :=
  let id := s.subj
  match s.ctx id with
  | none => .next s
  | some c => match c.loc with
    | .saving core k => match c.blocks[k]? with
      | none => .next s
      | some b =>
        let s := s.devWrite c.whoImage (s.imageBase c + 0x200000 + b * 4096) (s.bytesAt (sliceCell core (b * 4096)) 4096)
        let s := s.updDiv id fun e => if e.start ≤ b ∧ b < e.start + e.count then { e with next := b - e.start + 1 } else e
        let s := callDiverted (s.setCtx id { c with loc := .saving core (k + 1) })
        fin (if k + 1 < c.blocks.length then s.push 32 id .blockSaved else s.push 0 id .saveDone)
    | _ => .next s

/-- SAVE_DONE: the entries become ABSENT, the permission entries go, and the core is free; after a frame-edge switch it is cleared first (R392,
R419). -/
def execSaveDone (s : State) : Host.Outcome State Fault Refusal :=
  let id := s.subj
  match s.ctx id with
  | none => .next s
  | some c => match c.loc with
    | .saving core k =>
      if k < c.blocks.length then .next s
      else
        let s := s.updDiv id fun e => { e with state := 2 }
        let s := revokeBlocks s c core
        let sealed := decide (c.want = some Why.frame)
        let s := s.updCore core fun x =>
          { x with ctx := none, lastTask := some (c.who.region, c.who.grid, c.affkey), clearing := if sealed then some (s.now + 4096) else none }
        let s := s.setCtx id { c with loc := .absent, want := none, leaving := false, since := s.now }
        let s := if sealed then s.push 4096 core .coreClearDone else s
        let s := if c.eng.ms.isEmpty then s else s.pushOnce 0 id .matrixRetire
        .next (callArbiter (fenceClean (callDiverted s) core))
    | _ => .next s

/-! ### Diverted accesses (R399, R400, R403) -/

/-- The waiting accesses of a die that may now be performed, in order: no older access of their source to the same context waits on (R403). -/
def dueDiverted (s : State) : List DivWait → List DivWait → List DivWait × List DivWait
  | [], _ => ([], [])
  | q :: t, held =>
    let stuck := s.servedAt q.core (q.block * 4096) = .later || held.any (fun h => decide (h.source = q.source) && s.sameTarget h (.slice q.core (q.block * 4096)))
    let (go, stay) := dueDiverted s t (if stuck then q :: held else held)
    if stuck then (go, q :: stay) else (q :: go, stay)

/-- DIVERTED_ACCESS: the accesses of a die that waited for a block are performed where it now lies (R400, R403). -/
def execDivertedAccess (s : State) : Host.Outcome State Fault Refusal :=
  let d := s.subj
  let (go, stay) := dueDiverted s (s.die d).divq []
  let s := s.updDie d fun x => { x with divq := stay }
  let s := stay.foldl (fun s q => s.fetchDiv q.core (q.block * 4096)) s
  .next (go.foldl (fun s q => s.push 0 q.subj q.again) s)

/-- DIVERSION_FETCH: a spilled entry comes back to the die, another going out when the die is full (R399). -/
def execDiversionFetch (s : State) : Host.Outcome State Fault Refusal :=
  let d := s.subj % 8
  let core := s.subj / 8 / 2048
  let start := s.subj / 8 % 2048
  let hit (e : DivEnt) : Bool := decide (e.core = core ∧ e.start = start ∧ e.isCtx = false)
  let back (e : DivEnt) : DivEnt := if hit e then { e with spilled := false } else e
  .next (callDiverted (s.mapDivs fun k l => if k = d then l.filter (fun e => !hit e) ++ (l.filter hit).map back else l))

/-! ### Restoring (R397, R404) -/

/-- A sticky state read back from an image: step registers and loop state from dword numbers, last operations with their captured scalars. -/
def readSticky (d : Nat → DWord) (last step lstate stage lbeg lend lc : Nat) (cap : Tab DWord) : Sticky :=
  { last := tabOf 4 (fun k => d (last + k)), cap := cap, steps := tabOf 12 (fun k => lo32 (d (step + k))), rsteps := none,
    lstate := d lstate, stage := d stage, lbeg := tabOf 4 (fun k => d (lbeg + k)), lend := tabOf 4 (fun k => d (lend + k)),
    lc := tabOf 4 (fun k => lo32 (d (lc + k))) }

/-- The registers of a saved image (R395, R396, R381). -/
def imageRegs (bs : List Byte) (r : Regs) : Regs :=
  let cb (n : Nat) : DWord := wordAt bs (0x800 + 8 * n)
  let tr (n : Nat) : DWord := wordAt bs (0xC00 + 8 * (n - 0x80))
  { r with
    s := (tabOf 64 (fun k => wordAt bs (0x40 + 8 * k))).filter (fun p => decide (p.1 ≠ 0))
    h := tabOf 32 (fun k => BitVec.ofNat 256 (numAt bs (0x240 + 32 * k) 32))
    mb := tabOf 8 (fun k => cb (0x20 + k)), fpctl := fpWrite 0 (cb 8), rngv := rngStore (cb 9), rngp := rngStore (cb 10), rngx := rngStore (cb 11)
    st := { readSticky cb 0x38 0x40 0x11 0x10 0x12 0x16 0x1C (tabOf 4 (fun k => cb (0x50 + k))) with rsteps := r.st.rsteps }
    rptc := fld (cb 0x30) 0 4, pc := fld (cb 0) 0 56
    tvec := tr 0x80 &&& tvecMask, tcause := tr 0x81, tpc := tr 0x82, taddr := tr 0x83, tdetail := tr 0x84, inTrap := bit (tr 0x85) 0
    trptc := fld (tr 0x86) 0 4, tscr := tabOf 4 (fun k => tr (0x88 + k))
    sv := readSticky tr 0x98 0xA0 0xAC 0xAD 0xB0 0xB4 0xB8 r.sv.cap }

/-- The fault queue of an image, head first (R395). -/
def imageFq (bs : List Byte) : List FRec :=
  ((List.range 32).map (fun k => FRec.ofDwords (wordAt bs (0x1800 + 32 * k)) (wordAt bs (0x1808 + 32 * k)) (wordAt bs (0x1810 + 32 * k))
    (wordAt bs (0x1818 + 32 * k)))).takeWhile (fun r => decide (r.cause ≠ 0))

/-- Whether the header of a saved image is in order; a restore takes nothing but a saved image, whose SECT is 0xFF (R395, R397; the last is DEDUCED,
notes/assumptions/5). -/
def savedOk (bs : List Byte) : Bool :=
  let d0 := wordAt bs 0
  fld d0 56 8 = 1 && decide (fld d0 48 8 = 1 ∧ fld d0 40 8 = 0 ∧ fld d0 32 8 = 0xFF ∧ fld d0 0 32 = 0) && decide (fld (wordAt bs 8) 35 29 = 0)
    && allZero bs 16 64

/-- The release records that wait at the core, of an image (R396). -/
def imageRels (bs : List Byte) : List FRec :=
  (List.range (Nat.min (fld (wordAt bs (0x800 + 8 * 0x5B)) 0 3) 4)).map fun k =>
    let at_ := 0x800 + 8 * (0x5C + 4 * k)
    FRec.ofDwords (wordAt bs at_) (wordAt bs (at_ + 8)) (wordAt bs (at_ + 16)) (wordAt bs (at_ + 24))

/-- A store-window line, and a snapshot line, as place k of an image gives them, when the image still holds that line there (R395). -/
def imageLine (bs : List Byte) (k : Nat) (l : WLine) : WLine :=
  let at_ := 0x14000 + 80 * k
  if numAt bs at_ 8 = l.va then { l with mask := wordAt bs (at_ + 8), data := BitVec.ofNat 512 (numAt bs (at_ + 16) 64) } else l
def imageSnap (bs : List Byte) (k : Nat) (l : SLine) : SLine :=
  let at_ := 0x28000 + 72 * k
  if numAt bs at_ 8 = l.va then { l with data := BitVec.ofNat 512 (numAt bs (at_ + 8) 64) } else l

/-- The phase's share of a context with what its image gives: the window, the snapshot, the checkpoint with its pc, TAGNEXT and stream count, the epoch,
NR and ERR (R395, R396). -/
def imagePhase (bs : List Byte) (p : Phases) : Phases :=
  let cb (n : Nat) : DWord := wordAt bs (0x800 + 8 * n)
  let ck := p.ck
  { p with
    window := p.window.zipIdx.map (fun (l, k) => imageLine bs k l), snap := p.snap.zipIdx.map (fun (l, k) => imageSnap bs k l)
    epoch := fld (cb 0x55) 0 16, nr := bit (cb 0x5A) 0, err := bit (cb 0x5A) 1 || p.err
    ck := { ck with
      pc := fld (cb 0x58) 0 56, tagNext := fld (cb 0x59) 0 16, mcount := ck.mcount / 2 ^ 16 * 2 ^ 16 + fld (cb 0x59) 32 16
      regs := { ck.regs with
        s := (tabOf 64 (fun k => wordAt bs (0x2400 + 8 * k))).filter (fun p => decide (p.1 ≠ 0))
        h := tabOf 32 (fun k => BitVec.ofNat 256 (numAt bs (0x2600 + 32 * k) 32)) } } }

/-- Posted records with the bytes their places of an image hold (R395). -/
def imagePosted (bs : List Byte) (k : Nat) (l : List Posted) : List Posted :=
  l.zipIdx.map fun (p, i) => { p with bytes := sliceOf bs (0x6000 + 64 * (k + i)) 64 }

/-- A context with what its image gives; what has no layout there stays as the context's record holds it (R395, R404). A PHASE that stood at step 1 goes
on from there, with the task's pc behind it, when the image still holds its bundle's address (R89). None when the image fails a check (R47, R65,
R397). -/
def Ctx.restore (s : State) (c : Ctx) (core : Nat) (bs : List Byte) (tiles : Tab Word) : Option Ctx :=
  if savedOk bs = false ∨ bufTableOk s core c.who.region bs = false
      ∨ (List.range 16).all (fun t => descOk (numAt bs (0x640 + 2 * t) 2)) = false then none
  else
    let cb (n : Nat) : DWord := wordAt bs (0x800 + 8 * n)
    let table (t : Nat) : Tab Word := (tabOf 272 (fun k => BitVec.ofNat 32 (numAt bs (0x3000 + 1088 * t + 4 * k) 4))).map (fun p => (t * 272 + p.1, p.2))
    let bars : Tab Barrier :=
      ((List.range 256).map (fun n => (n, barOf (wordAt bs (0x5000 + 16 * n)) (wordAt bs (0x5008 + 16 * n))))).filter
        (fun p => decide (p.2 ≠ Barrier.zero))
    let bufs := (bufsOf bs).map (fun (b, e) => (b, if e.filled = (c.buf b).filled then { e with landed := (c.buf b).landed } else e))
    let r := imageRegs bs c.regs
    let atPhase := c.ph.op.isSome && decide (r.pc = c.savedPc)
    let ph := imagePhase bs c.ph
    some { c with
      regs := if atPhase then { r with pc := c.regs.pc } else r
      bufs := bufs
      eng := { c.eng with
        tdesc := tabOf 16 (fun t => BitVec.ofNat 16 (numAt bs (0x640 + 2 * t) 2)), tile := tiles
        sx4 := tabOf 16 (fun k => BitVec.ofNat 8 (numAt bs (0x660 + k) 1)), bands := tabOf 4 (fun k => BitVec.ofNat 16 (numAt bs (0x670 + 2 * k) 2))
        bsrc := (numAt bs 0x678 1).testBit 0, vtab := (List.range 4).flatMap table }
      xf := { c.xf with
        bars := bars, fq := imageFq bs, waitq := imageRels bs ++ c.xf.waitq.filter (fun r => !r.rel), tagNext := fld (cb 0x54) 0 16
        fired := imagePosted bs 0 c.xf.fired, posted := imagePosted bs c.xf.fired.length c.xf.posted }
      dbg := { c.dbg with ctl := cb 0x56, stat := cb 0x57 }
      ph := if atPhase then ph else { ph with op := none } }

/-- Whether a line of an image that a restore reads is uncorrectable (R429). -/
def State.imageBad (s : State) (c : Ctx) : Bool :=
  let lo := s.imageBase c / 64
  s.lineErr.any fun (l, _) =>
    decide (lo ≤ l ∧ l < lo + 0xA00000 / 64) && (decide (l < lo + 0x8000) || c.blocks.contains ((l - lo - 0x8000) / 64)) &&
      (match s.decodeLine l with
        | .bad _ _ => true
        | _ => false)

/-- RESUME: a context's restore begins on a core: the image's core state is loaded and checked, the entries become RESTORING, the blocks are granted
(R48, R397, R404, R429). -/
def execResume (ctx core : Nat) (s : State) : Host.Outcome State Fault Refusal :=
  match s.ctx ctx with
  | none => .next s
  | some c =>
    if c.loc ≠ .absent ∨ c.isOver = true ∨ (s.core core).ctx ≠ some ctx then .next s
    else if s.mayImage c = false then .next (s.fatal ctx Cause.translation (faultWord Tstat.permission 0 .read false false))
    else if s.imageBad c then .next (s.fatal ctx Cause.notRestartable 0)
    else
      let (s, bs) := s.devRead c.whoImage (s.imageBase c) 0x4C000
      let (s, tb) := s.devRead c.whoImage (s.imageBase c + 0x100000) 0x100000
      let tiles : Tab Word := tabOf 262144 (fun k => BitVec.ofNat 32 (numAt tb (4 * k) 4))
      match Ctx.restore s c core bs tiles with
      | none => fin (s.fatal ctx Cause.contextFormat 0)
      | some c => match readyQuads s core c.runs with
        | (s, false) => fin (s.push 1 0 (.resume ctx core))
        | (s, true) =>
          let s := grantBlocks s c core false
          let s := s.updDiv ctx fun e => { e with state := 3, next := 0, ncore := core }
          let s := callDiverted (s.setCtx ctx { c with loc := .restoring core 0, seenAt := s.now })
          fin (if c.blocks = [] then s.push 0 ctx .restoreDone else s.push 32 ctx .blockRestored)

/-- BLOCK_RESTORED: the next block comes back to the slice; accesses that waited for it go on there (R400, R404). -/
def execBlockRestored (s : State) : Host.Outcome State Fault Refusal :=
  let id := s.subj
  match s.ctx id with
  | none => .next s
  | some c => match c.loc with
    | .restoring core k => match c.blocks[k]? with
      | none => .next s
      | some b =>
        let (s, bs) := s.devRead c.whoImage (s.imageBase c + 0x200000 + b * 4096) 4096
        let s := (touchBank s core (b * 4096)).putBytes (sliceCell core (b * 4096)) bs
        let s := s.updDiv id fun e => if e.start ≤ b ∧ b < e.start + e.count then { e with next := b - e.start + 1 } else e
        let s := callDiverted (s.setCtx id { c with loc := .restoring core (k + 1) })
        fin (if k + 1 < c.blocks.length then s.push 32 id .blockRestored else s.push 0 id .restoreDone)
    | _ => .next s

/-- RESTORE_DONE: the entries of the core resumed on become FREE, those of another FORWARD to it; the withdrawn stream re-enters, fired records follow, a pending
rollback is made, and a fault record waits to be taken; then the task may issue (R393, R404). -/
def execRestoreDone (s : State) : Host.Outcome State Fault Refusal :=
  let id := s.subj
  match s.ctx id with
  | none => .next s
  | some c => match c.loc with
    | .restoring core k =>
      if k < c.blocks.length then .next s
      else
        let s := s.mapDivs fun _ l => (l.filter (fun e => decide (e.ctxId ≠ id ∨ e.core ≠ core))).map
          (fun e => if e.ctxId = id then { e with state := 4, ncore := core } else e)
        -- POSTED falls by the records of barriers that fired while the context was absent
        let left (n : Nat) (b : Barrier) : Barrier := { b with posted := (c.xf.posted.filter (fun p => decide (p.bar = n))).length }
        let c : Ctx := { c with
          loc := .resident core, since := s.now, seenAt := s.now, idle := false, xf := { c.xf with bars := Tab.each left c.xf.bars } }
        let s := joinFrame ((s.setCtx id c.assign).updCore core fun x => { x with ready := s.now }) id core
        let s := if c.eng.ms.isEmpty then s else s.pushOnce 0 id .matrixRetire
        let s := if c.ph.op.isSome then s.pushOnce 0 id .phaseReleaseDone else s
        let s := wake (issueFired s id) id
        let s := if c.ph.err then consumeUe s id else s
        let s := if c.xf.fq = [] then s else s.pushOnce 0 core .engineFault
        let s := if bit c.dbg.ctl 3 then s.pushOnce 0 core .debugHalt else s
        .next (callDiverted s)
    | _ => .next s

/-! ### Frames (R417 to R419) -/

/-- The cycles of a frame and of a frame cycle (R417). -/
def frameCycles : Nat := 109375

/-- The frame table and frame that follow a core's present frame. -/
def Core.nextFrame (c : Core) : DWord × Nat :=
  if c.frame = 15 then ((c.newFrame.map (·.1)).getD c.frametab, 0) else (c.frametab, c.frame + 1)

/-- The world that owns a frame. -/
def frameWorld (tab : DWord) (f : Nat) : Option Nat := if bit tab (4 * f + 3) then some (fld tab (4 * f) 3) else none

/-- SEALOVR counts an edge at which sealing overran (R419). -/
def sealOver (s : State) (core : Nat) : State := s.updCore core fun c => { c with sealovr := satAdd 8 c.sealovr 1 }

/-- FRAME_EDGE: a frame starts: tasks of its owner run, others issue nothing; a context of another world still there, or a clear not finished, is an
overrun (R418, R419). -/
def execFrameEdge (core frame : Nat) (s : State) : Host.Outcome State Fault Refusal :=
  let s := s.updCore core fun c => { c with frame := frame, awaitEdge := false }
  let c := s.core core
  let own := frameWorld c.frametab frame
  let s := match c.ctx.bind s.ctx, c.ctx with
    | some x, some id =>
      let s := s.updCtx id fun x => { x with idle := decide (own ≠ some x.who.world) }
      if own.isNone ∨ own = some x.who.world then s else sealOver (s.push 0 0 (.switchRequest core Why.frame)) core
    | _, _ => if c.clearing.isSome && own.isSome then sealOver s core else s
  let s := if frame < 15 then s.push frameCycles 0 (.frameEdge core (frame + 1)) else s
  .next (callArbiter (s.push (frameCycles - c.flead * 1024) core .frameSwitchRequest))

/-- FRAME_SWITCH_REQUEST: the lead time before an edge to another world: the resident context of another world is switched out, and the core then waits for the
edge (R418, R419). -/
def execFrameSwitchRequest (s : State) : Host.Outcome State Fault Refusal :=
  let core := s.subj
  let c := s.core core
  let (tab, f) := c.nextFrame
  match frameWorld tab f, c.ctx.bind s.ctx with
  | some w, some x =>
    if x.who.world = w then .next s
    else .next ((s.updCore core fun c => { c with awaitEdge := true }).push 0 0 (.switchRequest core Why.frame))
  | _, _ => .next s

/-- FRAME_CYCLE_BOUNDARY: a frame cycle starts on every core: new FRAMETAB and FLEAD values take effect (R417). -/
def execFrameCycleBoundary (s : State) : Host.Outcome State Fault Refusal :=
  let take (c : Core) : Core := match c.newFrame with
    | some (t, l) => { c with frametab := t, flead := l, newFrame := none }
    | none => c
  let s := { s with cores := Tab.each (fun _ c => take c) s.cores }
  let s := (s.cores.map (·.1)).foldl (fun s k => s.push 0 0 (.frameEdge k 0)) s
  .next (s.push (16 * frameCycles) 0 .frameCycleBoundary)

/-- CORE_CLEAR_DONE: after 4,096 cycles a core that changes worlds is clear; its incoming frame may start (R419). -/
def execCoreClearDone (s : State) : Host.Outcome State Fault Refusal :=
  let core := s.subj
  match (s.core core).clearing with
  | none => .next s
  | some t =>
    if s.now < t then .next s
    else
      let s := (List.range 4).foldl (fun s q => zeroQuad s core q) s
      let s := { s with tlbs := s.tlbs.filter (fun t => decide (t.site ≠ core)) }
      .next (callArbiter (fenceClean (s.updCore core fun c => { c with clearing := none }) core))

end Sys2Proof.Machine
end

