-- ==== Sys2Proof/Machine/Ring.lean ====
section
/-! DEFINITION. The authenticated command ring (R424, R425, R444): how a command is read and judged, and how it is answered. -/

namespace Sys2Proof.Machine

/-- The bytes of an ASCII label (R413, R425). -/
def asciiBytes (t : String) : List Byte := t.toList.map (fun c => BitVec.ofNat 8 c.toNat)

/-- Statuses of the command ring (R424, R445). -/
def Status.ok : Nat := 0x00
def Status.badTag : Nat := 0x01
def Status.replay : Nat := 0x02
def Status.gap : Nat := 0x03
def Status.halted : Nat := 0x04
def Status.rekeyOnly : Nat := 0x05
def Status.badOp : Nat := 0x06
def Status.badArg : Nat := 0x07
def Status.entropy : Nat := 0x08
def Status.busy : Nat := 0x09
def Status.rcbFormat : Nat := 0x20
def Status.regionBusy : Nat := 0x21
def Status.badKind : Nat := 0x22

/-- A command as its slot holds it (R424): the header bytes, the payload and the tag. -/
structure RingCmd where
  hdr : List Byte
  payload : List Byte
  tag : List Byte
deriving DecidableEq, Repr

/-- Dword k of the header; the operand words are dwords 2 to 7 (R424). -/
def RingCmd.w (k : RingCmd) (n : Nat) : DWord := dwordAt k.hdr n
def RingCmd.seq (k : RingCmd) : Nat := fld (k.w 0) 16 48
def RingCmd.op (k : RingCmd) : Nat := fld (k.w 0) 8 8
def RingCmd.len (k : RingCmd) : Nat := fld (k.w 1) 0 32

/-- Whether a command's header is in order (R424). -/
def RingCmd.formatOk (k : RingCmd) : Bool :=
  decide (fld (k.w 0) 0 8 = 1 ∧ fld (k.w 1) 32 32 = 0 ∧ k.len % 8 = 0 ∧ k.len ≤ 4032)

/-- The greatest sequence number (R425). -/
def seqMax : Nat := 2 ^ 48 - 1

/-- Where slot i of a ring lies (R444). -/
def State.ringSlot (s : State) (base : DWord) (i : Nat) : Nat := fld base 13 27 * 2 ^ 13 + 8192 * (i % 2 ^ s.host.crslot)

/-- The command at HEAD, when HEAD has not reached TAIL. -/
def ringHead (s : State) : Option (State × RingCmd) :=
  if s.host.crhead = s.host.crtail then none
  else
    let (s, bs) := s.devRead whoDevice (s.ringSlot s.host.crbase s.host.crhead) 8192
    let n := fld (dwordAt bs 1) 0 32
    some (s, { hdr := bs.take 64, payload := (bs.drop 64).take n, tag := (bs.drop (64 + n)).take 48 })

/-- The operation that performs a command, by its OP and, for REGION, its action (R424, R445). -/
def RingCmd.instr (k : RingCmd) : Except Nat Instr :=
  match k.op with
  | 0x01 => .ok .keyex
  | 0x02 => .ok .resync
  | 0x03 => .ok .rekey
  | 0x04 => .ok .attest
  | 0x05 => .ok .svnraise
  | 0x08 => .ok .createworld
  | 0x09 => .ok .destroyworld
  | 0x0A => .ok .setrange
  | 0x0B => .ok .setframes
  | 0x0C => .ok .keyimport
  | 0x0D => .ok .jobkey
  | 0x40 => match fld (k.w 3) 0 2 with
    | 0 => .ok .regionCreate
    | 1 => .ok .regionRefresh
    | 2 => .ok .regionDestroy
    | _ => .error Status.badKind
  | 0x41 => .ok .inval
  | 0x42 => .ok .preempt
  | _ => .error Status.badOp

/-- The tag of some bytes under a ring key: HMAC-SHA-384, 48 bytes (R424). -/
def ringTag (key bs : List Byte) : List Byte := fitBytes 48 (Config.hmac key bs)

/-- What becomes of a command: it is answered with a status at once, or its operation is performed. `advance` says whether E moves on. -/
inductive Verdict where
  | answer (status : Nat) (advance : Bool)
  | perform (i : Instr)
deriving DecidableEq, Repr

/-- The command's operation, or its answer when there is none. -/
def RingCmd.run (k : RingCmd) : Verdict :=
  if k.formatOk = false then .answer Status.badArg true
  else match k.instr with
    | .ok i => .perform i
    | .error st => .answer st true

/-- The sequence check (R425): a command that crosses its slot's end, before a ring key, with a key, halted, open. -/
def ringJudge (g : Gecko) (k : RingCmd) : Verdict :=
  if 8192 < 64 + k.len + 48 then .answer Status.badArg false
  else match g.ringKey with
    | none =>
      if k.op = 0x04 ∧ k.seq = 0 ∧ k.tag.all (· == 0) = true then .perform .attest
      else if k.op = 0x01 then .perform .keyex
      else .answer Status.badTag false
    | some key =>
      if ringTag key (k.hdr ++ k.payload) ≠ k.tag ∨ k.op = 0x01 then .answer Status.badTag false
      else if g.halted then
        if k.op = 0x02 ∧ g.e ≤ k.seq ∧ k.seq < seqMax then .perform .resync else .answer Status.halted false
      else if k.seq < g.e then .answer Status.replay false
      else if g.e < k.seq then .answer Status.gap false
      else if k.op = 0x03 then .perform .rekey
      else if g.e = seqMax then .answer Status.rekeyOnly false
      else k.run

/-- What a status of the sequence check changes: refused tags and replays are counted, a gap halts the ring (R425). -/
def Gecko.noted (g : Gecko) (status : Nat) (advance : Bool) : Gecko :=
  if advance then { g with e := g.e + 1 }
  else if status = Status.badTag then { g with badtags := g.badtags + 1 }
  else if status = Status.replay then { g with replays := g.replays + 1 }
  else if status = Status.gap then { g with halted := true }
  else g

/-- The response to a command: SEQ and status, payload length, payload, and a tag once a ring key is set; then HEAD advances and vector 1 is sent
(R424, R444). -/
def respond (s : State) (k : RingCmd) (status : Nat) (payload : List Byte) : State :=
  let body := leBytes 8 (k.seq * 2 ^ 16 + status) ++ leBytes 8 payload.length ++ payload
  let tag := match s.gecko.ringKey with
    | some key => ringTag key body
    | none => []
  let s := s.devWrite whoDevice (s.ringSlot s.host.crresp s.host.crhead) (body ++ tag)
  { s with host := { s.host with crhead := (s.host.crhead + 1) % 2 ^ 32 } }.msix 1

/-- The commands from HEAD on are judged one after another, up to the first whose operation must be performed, whose step becomes due (R425, R444). -/
def ringNext : Nat → State → State
  | 0, s => s
  | n + 1, s =>
    match ringHead s with
    | none => s
    | some (s, k) => match ringJudge s.gecko k with
      | .perform i => s.pushOnce 0 0 i
      | .answer st adv => ringNext n (respond { s with gecko := s.gecko.noted st adv } k st [])

/-- The step of an operation of the ring: it acts when the command at HEAD is its own and is to be performed. The operation answers with a status
and a payload, or not yet; then the next command follows. -/
def ringOp (s : State) (i : Instr) (f : State → RingCmd → State × Option (Nat × List Byte)) : Host.Outcome State Fault Refusal :=
  if s.hostReady = false then .next s
  else match ringHead s with
    | none => .next s
    | some (s1, k) =>
      if ringJudge s1.gecko k ≠ .perform i then .next s
      else match f s1 k with
        | (s1, none) => fin s1
        | (s1, some (st, bs)) => fin (ringNext 1024 (respond s1 k st bs))

/-- E moves on after an operation that the ring performed in order; before a ring key there is nothing to move (R425). -/
def Gecko.next (g : Gecko) : Gecko := if g.ringKey.isSome then { g with e := g.e + 1 } else g

/-- An ordinary operation: it is answered at once and E moves on. -/
def ringPlain (s : State) (i : Instr) (f : State → RingCmd → State × Nat × List Byte) : Host.Outcome State Fault Refusal :=
  ringOp s i fun s k =>
    let (s, st, bs) := f s k
    ({ s with gecko := s.gecko.next }, some (st, bs))

/-- CR_DOORBELL: TAIL is set, unless more than a ring of commands would be outstanding, and the Gecko pair handles the slots in order (R444). -/
def execCrDoorbell (tail : BitVec 32) (s : State) : Host.Outcome State Fault Refusal :=
  if s.hostReady = false ∨ 2 ^ s.host.crslot < (tail.toNat + 2 ^ 32 - s.host.crhead) % 2 ^ 32 then .next s
  else fin (ringNext 1024 { s with host := { s.host with crtail := tail.toNat } })

end Sys2Proof.Machine
end

