-- ==== Sys2Proof/Machine/Trust.lean ====
section
/-! DEFINITION. The Gecko pair (chapter 14): firmware images and minimum versions (R411, R412), identity and attestation (R413, R414), worlds and
their ranges (R415, R423), frame registers (R417), keys and the generator (R421 to R423), the ring's own commands (R425). -/

namespace Sys2Proof.Machine

/-! ### Images (R411, R412) -/

/-- How many bits are set. -/
def popCount (v : DWord) : Nat := ((List.range 64).filter (fun k => v.getLsbD k)).length

/-- The minimum version of an image kind: the bits burnt in its thermometer (R412). -/
def Gecko.minSvn (g : Gecko) (kind : Nat) : Nat := popCount (g.svn.val 0 kind)

/-- A number in an image header. -/
def imgNum (i : FwImage) (lo n : Nat) : Nat := leNat ((i.header.drop lo).take n)
/-- The two public keys and the two signatures of the signature block. -/
def imgEdKey (i : FwImage) : List Byte := i.sigs.take 32
def imgMlKey (i : FwImage) : List Byte := (i.sigs.drop 32).take 1952
def imgEdSig (i : FwImage) : List Byte := (i.sigs.drop 1984).take 64
def imgMlSig (i : FwImage) : List Byte := (i.sigs.drop 2048).take 3309

/-- The status of an image that is to be of a kind: the first check that fails, or 0 (R412). A version above 63 is none of R411 and fails with the header
(DEDUCED, log 50). -/
def checkImage (g : Gecko) (kind : Nat) (i : FwImage) : Nat :=
  let length := imgNum i 0x10 8
  let load := imgNum i 0x18 8
  let entry := imgNum i 0x20 8
  let slot := imgNum i 7 1
  if imgNum i 0 4 ≠ 0x32303737 ∨ imgNum i 4 2 ≠ 1 ∨ imgNum i 6 1 ≠ kind ∨ 63 < imgNum i 8 4 ∨ imgNum i 0x0C 4 ≠ 0 ∨ ((i.header.drop 0x58).take 0xA8).any (· != 0) = true then 0x01
  else if length % 256 ≠ 0 ∨ length < 256 ∨ 2 ^ 26 < length ∨ i.payload.length ≠ length ∨ entry < load ∨ load + length ≤ entry then 0x02
  else if 3 < slot ∨ g.revoked.getLsbD slot = true ∨ Config.sha384 (imgEdKey i ++ imgMlKey i) ≠ Config.keyHash slot then 0x03
  else if imgNum i 8 4 < g.minSvn kind then 0x04
  else if Config.ed25519Verify (imgEdKey i) i.header (imgEdSig i) = false then 0x05
  else if Config.mldsaVerify (imgMlKey i) i.header (imgMlSig i) = false then 0x06
  else if Config.sha384 i.payload ≠ (i.header.drop 0x28).take 48 then 0x07
  else 0x00

/-- An image kind is tried from copy A and then from copy B: the image that passes, or the status of copy B (R446). -/
def tryImage (g : Gecko) (kind : Nat) : Except Nat FwImage :=
  let a := Config.flashImage kind 0
  let b := Config.flashImage kind 1
  if checkImage g kind a = 0 then .ok a
  else if checkImage g kind b = 0 then .ok b
  else .error (checkImage g kind b)

/-- An image is started: its payload lies at LOAD and its unit begins at ENTRY (R411); its version and digest are kept for reports (R413, R414). -/
def Gecko.started (g : Gecko) (kind : Nat) (i : FwImage) : Gecko :=
  { g with
    imgSvn := g.imgSvn.set kind (imgNum i 8 4)
    digests := g.digests.set kind ((i.header.drop 0x28).take 48)
    loaded := g.loaded.set kind { load := imgNum i 0x18 8, payload := i.payload, entry := imgNum i 0x20 8 } }

/-! ### Identity and attestation (R413, R414) -/

/-- M: the digests of the five images started, in KIND order (R413). -/
def Gecko.measure (g : Gecko) : List Byte := (span 1 5).flatMap (fun k => fitBytes 48 (g.digests.val [] k))

/-- A seed that changes with the firmware (R413). -/
def Gecko.seed (g : Gecko) (label : String) : List Byte := Config.hkdf Config.deviceSecret (asciiBytes label ++ g.measure)

/-- The seed of an identity key, the same at every boot (R413). -/
def identitySeed (label : String) : List Byte := Config.hkdf Config.deviceSecret (asciiBytes label)

/-- The identity keys certify the alias keys: the certificate with its two signatures, made at each boot (R413). -/
def Gecko.certify (g : Gecko) : Gecko :=
  let body := Config.certificateBody (Config.ed25519Public (g.seed "evovia-alias-ed25519")) (Config.mldsaPublic (g.seed "evovia-alias-mldsa65"))
  { g with cert := body ++ fitBytes 64 (Config.ed25519Sign (identitySeed "evovia-id-ed25519") body)
      ++ fitBytes 3309 (Config.mldsaSign (identitySeed "evovia-id-mldsa65") body) }

/-- The keys in use: the ring key, each world's XTS key, key-encapsulation seed and code key, and the link keys (R409, R421, R423). -/
def Gecko.keysInUse (g : Gecko) : List (List Byte) :=
  g.ringKey.toList ++ g.worlds.flatMap (fun (_, w) => Config.xtsKey w.xts :: w.kemSeed :: w.code.toList) ++ g.jobKeys.map (·.2)

/-- The key store: 64 slots of 512 bits, which hold the keys in use (R409); the order of the slots is the model's (DESIGN CHOICE, log 58). -/
def Gecko.keyStore (g : Gecko) : List (List Byte) :=
  ((g.keysInUse ++ List.replicate 64 []).take 64).map (fitBytes 64)

/-- The seed of the device key-exchange key (R413). -/
def Gecko.kexSeed (g : Gecko) : List Byte := g.seed "evovia-kex-mlkem768"

/-- The part of a report that is signed; world 0xFF is a device report (R414). -/
def reportBody (g : Gecko) (world : Nat) (nonce : List Byte) : List Byte :=
  let svns := (span 1 5).map (fun k => BitVec.ofNat 8 (g.imgSvn.val 0 k)) ++ (span 1 5).map (fun k => BitVec.ofNat 8 (g.minSvn k))
  let w := g.worlds.look world
  let meas := if world = 0xFF then [] else (w.map (fun w => Config.sha384 w.meas)).getD []
  let key := if world = 0xFF then Config.kemKey g.kexSeed else (w.map (fun w => Config.kemKey w.kemSeed)).getD []
  leBytes 8 1 ++ fitBytes 32 nonce ++ leBytes 8 Config.serial.toNat ++ fitBytes 32 svns ++ g.measure ++ leBytes 8 world ++ fitBytes 48 meas
    ++ fitBytes 1184 key ++ List.replicate 104 0

/-- A report with its two signatures (R414). -/
def report (g : Gecko) (world : Nat) (nonce : List Byte) : List Byte :=
  let body := reportBody g world nonce
  body ++ fitBytes 64 (Config.ed25519Sign (g.seed "evovia-alias-ed25519") body)
    ++ fitBytes 3309 (Config.mldsaSign (g.seed "evovia-alias-mldsa65") body)

/-- Why a command that names a world cannot be performed: it does not exist, or it is being destroyed (R423). World 0 always exists. -/
def Gecko.worldBar (g : Gecko) (w : Nat) : Option Nat :=
  if w = 0 then none
  else match g.worlds.look w with
    | none => some Status.badArg
    | some x => if x.dying then some Status.busy else none

/-- ATTEST: w2 [7:0] names the world, or 0xFF for the device; w3 to w6 hold the nonce. Before a ring key is set every report is a device report (R414,
R425). -/
def execAttest (s : State) : Host.Outcome State Fault Refusal :=
  ringPlain s .attest fun s k =>
    let nonce := (k.hdr.drop 24).take 32
    let w := if s.gecko.ringKey.isNone then 0xFF else fld (k.w 2) 0 8
    if w = 0xFF then (s, Status.ok, report s.gecko 0xFF nonce)
    else if 7 < w then (s, Status.badArg, [])
    else match s.gecko.worldBar w with
      | some st => (s, st, [])
      | none => (s, Status.ok, report s.gecko w nonce)

/-- SVNRAISE: the minimum version of kind w2 [2:0] rises to w3 [6:0]; fuses are not cleared (R412). -/
def execSvnraise (s : State) : Host.Outcome State Fault Refusal :=
  ringPlain s .svnraise fun s k =>
    let kind := fld (k.w 2) 0 3
    let v := fld (k.w 3) 0 7
    if kind = 0 ∨ 5 < kind ∨ 63 < v then (s, Status.badArg, [])
    else
      let burnt : DWord := s.gecko.svn.val 0 kind ||| BitVec.ofNat 64 (2 ^ v - 1)
      ({ s with gecko := { s.gecko with svn := s.gecko.svn.set kind burnt } }, Status.ok, [])

/-! ### The ring's keys and order (R425) -/

/-- KEYEX: the ciphertext of the payload is decapsulated under the device key, the ring key derived, and the command's tag checked under it; E becomes
0 (R425). -/
def execKeyex (s : State) : Host.Outcome State Fault Refusal :=
  ringOp s .keyex fun s k =>
    let key := Config.hkdf (Config.kemDecaps s.gecko.kexSeed k.payload) (asciiBytes "evovia-ring")
    if ringTag key (k.hdr ++ k.payload) = k.tag then
      ({ s with gecko := { s.gecko with ringKey := some key, e := 0, halted := false } }, some (Status.ok, []))
    else ({ s with gecko := s.gecko.noted Status.badTag false }, some (Status.badTag, []))

/-- RESYNC: a halted ring opens again with E behind the command's SEQ; in an open ring it is a command in order (R425). -/
def execResync (s : State) : Host.Outcome State Fault Refusal :=
  ringOp s .resync fun s k =>
    ({ s with gecko := { s.gecko with e := k.seq + 1, halted := false } }, some (Status.ok, []))

/-- REKEY: the ring key becomes the unwrapped key of the payload, wrapped under the present ring key, and E becomes 0; a key that does not unwrap is not
installed (R423, R425). -/
def execRekey (s : State) : Host.Outcome State Fault Refusal :=
  ringOp s .rekey fun s k =>
    match Config.keyUnwrap (s.gecko.ringKey.getD []) k.payload with
    | some key => ({ s with gecko := { s.gecko with ringKey := some key, e := 0 } }, some (Status.ok, []))
    | none => ({ s with gecko := { s.gecko with e := Nat.min (s.gecko.e + 1) seqMax } }, some (Status.badArg, []))

/-! ### The generator (R422) -/

/-- A request to the generator, which reseeds after every 2^20. -/
def State.random (s : State) (n : Nat) : State × List Byte :=
  let (t, s) := s.fresh
  let s := { s with gecko := { s.gecko with rngReqs := s.gecko.rngReqs + 1 } }
  (if s.gecko.rngReqs = 2 ^ 20 then s.pushOnce 0 0 (.entropyReseed (Config.entropyPass t)) else s, fitBytes n (Config.randomBytes t n))

/-- ENTROPY_FAILURE: a health test fails: the generator is FAILED until a reseed passes (R422). -/
def execEntropyFailure (s : State) : Host.Outcome State Fault Refusal :=
  let (t, s) := s.fresh
  .next (({ s with gecko := { s.gecko with rngOk := false } }).pushOnce 0 0 (.entropyReseed (Config.entropyPass t)))

/-- ENTROPY_RESEED: the DRBG reseeds; it leaves FAILED when the tests pass, and otherwise tries again (R422). -/
def execEntropyReseed (ok : Bool) (s : State) : Host.Outcome State Fault Refusal :=
  if ok then .next { s with gecko := { s.gecko with rngOk := true, rngReqs := 0 } }
  else
    let (t, s) := s.fresh
    .next (({ s with gecko := { s.gecko with rngOk := false } }).push usCycles 0 (.entropyReseed (Config.entropyPass t)))

/-! ### Worlds (R415, R423) -/

/-- The operand words and payload of a command, which WMEAS measures (R414). -/
def RingCmd.args (k : RingCmd) : List Byte := (k.hdr.drop 16).take 48 ++ k.payload

/-- CREATEWORLD: a world, w2 [2:0], gets an XTS key and an ML-KEM key pair, unless the generator is FAILED (R422, R423). -/
def execCreateworld (s : State) : Host.Outcome State Fault Refusal :=
  ringPlain s .createworld fun s k =>
    let w := fld (k.w 2) 0 3
    if w = 0 then (s, Status.badArg, [])
    else match s.gecko.worlds.look w with
      | some x => (s, if x.dying then Status.busy else Status.badArg, [])
      | none =>
        if s.gecko.rngOk = false then (s, Status.entropy, [])
        else
          let (s, seed) := s.random 64
          let (s, _) := s.random 64
          let x : World := { dying := false, xts := s.gecko.keyNo + 1, kemSeed := seed, code := none, meas := k.args, ranges := [] }
          ({ s with gecko := { s.gecko with keyNo := s.gecko.keyNo + 1, worlds := s.gecko.worlds.set w x } }, Status.ok, [])

/-- The frames of a world in a FRAMETAB become idle (R423). -/
def idleFrames (w : Nat) (tab : DWord) : DWord :=
  (List.range 16).foldl (fun t f => if frameOf t f = some w then setFld t (4 * f) 4 0 else t) tab
where
  /-- The owner of a frame (R417). -/
  frameOf (t : DWord) (f : Nat) : Option Nat := if bit t (4 * f + 3) then some (fld t (4 * f) 3) else none

/-- First byte and length of a range (R415). -/
def rangeSpan (a : DWord) : Nat × Nat := (fld a 40 24 * 2 ^ 16, if bit a 0 then fld a 16 24 * 2 ^ 16 else 0)

/-- The bytes of a range read as zero under the key now in force there (R423). -/
def zeroRange (s : State) (a : DWord) : State :=
  let (lo, n) := rangeSpan a
  let key := s.keyAt lo
  { s with
    mem := s.mem.filter (fun (p : Host.Cell) => decide (p.1 < lo ∨ lo + n ≤ p.1))
    keyed := (span (lo / 64) (n / 64)).foldl (fun t l => t.put 0 l key) s.keyed
    lineErr := s.lineErr.filter (fun (p : Nat × List (Nat × Nat)) => decide (p.1 < lo / 64 ∨ (lo + n) / 64 ≤ p.1)) }

/-- DESTROYWORLD: the world's slots are closed, its tasks killed and its frames idle; once its tasks have ended, its ranges are zeroed, its keys erased and its
number freed (R423). -/
def execDestroyworld (s : State) : Host.Outcome State Fault Refusal :=
  ringOp s .destroyworld fun s k =>
    let w := fld (k.w 2) 0 3
    let answer (s : State) (st : Nat) : State × Option (Nat × List Byte) := ({ s with gecko := s.gecko.next }, some (st, []))
    match s.gecko.worlds.look w with
    | none => answer s Status.badArg
    | some x =>
      if w = 0 then answer s Status.badArg
      else if x.dying = false then
        let shut (h : SlotHdr) : SlotHdr := if h.world = w then { h with en := false } else h
        let s := { s with mid := { s.mid with slots := Tab.each (fun _ h => shut h) s.mid.slots } }
        let s := killAll s (fun _ c => c.who.world = w)
        let idle (c : Core) : Core :=
          { c with frametab := idleFrames w c.frametab, newFrame := c.newFrame.map (fun p => (idleFrames w p.1, p.2)) }
        let s := { s with
          cores := Tab.each (fun _ c => idle c) s.cores
          gecko := { s.gecko with worlds := s.gecko.worlds.set w { x with dying := true } } }
        (s.push 1 0 .destroyworld, none)
      else if s.ctxs.any (fun (_, c) => decide (c.who.world = w)) then (s.push 1 0 .destroyworld, none)
      else
        let s := x.ranges.foldl (fun s p => zeroRange s p.2.1) s
        let g := { s.gecko with worlds := s.gecko.worlds.del w, jobKeys := s.gecko.jobKeys.filter (fun p => decide (p.1 % 8 ≠ w)) }
        answer { s with gecko := g } Status.ok

/-- Whether two ranges overlap. -/
def overlaps (a b : Nat × Nat) : Bool := decide (0 < a.2 ∧ 0 < b.2 ∧ a.1 < b.1 + b.2 ∧ b.1 < a.1 + a.2)

/-- SETRANGE: a range of a world is set, unless it would overlap another (R415). -/
def execSetrange (s : State) : Host.Outcome State Fault Refusal :=
  ringPlain s .setrange fun s k =>
    let w := fld (k.w 2) 0 3
    let n := fld (k.w 2) 4 4
    let a := k.w 3
    let others := s.gecko.worlds.flatMap (fun (v, x) => (x.ranges.filter (fun p => decide (v ≠ w ∨ p.1 ≠ n))).map (fun p => rangeSpan p.2.1))
    match s.gecko.worldBar w, s.gecko.worlds.look w with
    | some st, _ => (s, st, [])
    | none, none => (s, Status.badArg, [])
    | none, some x =>
      if fld a 2 14 ≠ 0 ∨ others.any (fun p => overlaps p (rangeSpan a)) = true then (s, Status.badArg, [])
      else
        let x := { x with ranges := x.ranges.set n (a, k.w 4, k.w 5) }
        ({ s with gecko := { s.gecko with worlds := s.gecko.worlds.set w x } }, Status.ok, [])

/-- Why a FRAMETAB cannot be taken: a world that does not exist or is being destroyed, or a world in a frame without an owner (R417). -/
def frameBar (g : Gecko) (tab : DWord) : Option Nat :=
  (List.range 16).findSome? fun f =>
    let w := fld tab (4 * f) 3
    if bit tab (4 * f + 3) then g.worldBar w else if w = 0 then none else some Status.badArg

/-- SETFRAMES: new FRAMETAB and FLEAD values for a core, or for every core, from the next frame-cycle boundary on (R417). -/
def execSetframes (s : State) : Host.Outcome State Fault Refusal :=
  ringPlain s .setframes fun s k =>
    let c := fld (k.w 2) 0 9
    let lead := fld (k.w 4) 0 7
    if (288 ≤ c ∧ c ≠ 0x1FF) ∨ 106 < lead then (s, Status.badArg, [])
    else match frameBar s.gecko (k.w 3) with
      | some st => (s, st, [])
      | none =>
        let l := if c = 0x1FF then List.range 288 else [c]
        (l.foldl (fun s c => s.updCore c fun x => { x with newFrame := some (k.w 3, lead) }) s, Status.ok, [])

/-- The key a payload carries to a world: an ML-KEM ciphertext and an AES-KW wrapping of the key, which has 256 bits (R423). -/
def carriedKey (x : World) (payload : List Byte) : Option (List Byte) :=
  if payload.length < 1088 then none
  else (Config.keyUnwrap (Config.kemDecaps x.kemSeed (payload.take 1088)) (payload.drop 1088)).filter (fun key => decide (key.length = 32))

/-- KEYIMPORT: world w2 [2:0] gets its code key, which WMEAS measures (R414, R420, R423). -/
def execKeyimport (s : State) : Host.Outcome State Fault Refusal :=
  ringPlain s .keyimport fun s k =>
    let w := fld (k.w 2) 0 3
    match s.gecko.worldBar w, s.gecko.worlds.look w with
    | some st, _ => (s, st, [])
    | none, none => (s, Status.badArg, [])
    | none, some x => match carriedKey x k.payload with
      | none => (s, Status.badArg, [])
      | some key =>
        let x := { x with code := some key, meas := x.meas ++ k.args }
        ({ s with gecko := { s.gecko with worlds := s.gecko.worlds.set w x } }, Status.ok, [])

/-- JOBKEY: job slot w2 [5:0] gets its link key, carried to the world of the slot (R421, R423). -/
def execJobkey (s : State) : Host.Outcome State Fault Refusal :=
  ringPlain s .jobkey fun s k =>
    let job := fld (k.w 2) 0 6
    let w := (s.slotHdr job).world
    match s.gecko.worldBar w, s.gecko.worlds.look w with
    | some st, _ => (s, st, [])
    | none, none => (s, Status.badArg, [])
    | none, some x => match carriedKey x k.payload with
      | none => (s, Status.badArg, [])
      | some key => ({ s with gecko := { s.gecko with jobKeys := s.gecko.jobKeys.set (linkKeyAt job w) key } }, Status.ok, [])

/-! ### The end of trust and of power (R6, R410) -/

/-- What remains of a package whose dies are held in reset: what the outside holds, the fuses, and the HBM contents. -/
def heldInReset (s : State) : State :=
  { State.reset with
    now := s.now, tick := s.tick, agenda := [], out := s.out, pkg := s.pkg, mem := s.mem, keyed := s.keyed, lineErr := s.lineErr
    gecko := { Gecko.reset with revoked := s.gecko.revoked, svn := s.gecko.svn, keyNo := s.gecko.keyNo }
    host := { HostIf.reset with boots := s.host.boots, sent := s.host.sent } }

/-- GECKO_MISMATCH: the two cores disagree: both stop, and every other die is held in reset until power is removed (R410). -/
def execGeckoMismatch (s : State) : Host.Outcome State Fault Refusal :=
  if s.power = false then .next s
  else
    let t := heldInReset s
    .next { t with power := true, gecko := { t.gecko with stopped := true } }

/-- POWER_REMOVED: nothing runs, and everything but the fuses is lost; the host's own memory is not the package's (R6). -/
def execPowerRemoved (s : State) : Host.Outcome State Fault Refusal :=
  let t := heldInReset s
  .next { t with mem := s.mem.filter (fun (p : Host.Cell) => decide (2 ^ 64 ≤ p.1)), keyed := [], lineErr := [] }

end Sys2Proof.Machine
end

