-- ==== Sys2Proof/Machine/HostPort.lean ====
section
/-! DEFINITION. The host interface (chapter 16): regions by command (R192 to R196, R445), invalidations and pre-emption by command (R445), launch
queues (R443), management registers (R441) and indirect access (R442), MSI-X (R440), bring-up (R446 to R448). -/

namespace Sys2Proof.Machine

/-! ### Regions (R192 to R196, R445) -/

/-- The region table's entry of a region (R192). -/
def State.regionEntry (s : State) (r : Nat) : DWord := (s.devDword whoDevice (fld s.host.regtab 15 25 * 2 ^ 15 + 8 * r)).2

/-- Whether the reserved fields of an RCB are zero (R193). -/
def rcbReserved (d : Nat → DWord) : Bool :=
  decide (fld (d 0) 3 8 = 0 ∧ fld (d 2) 40 8 = 0 ∧ fld (d 2) 0 13 = 0 ∧ fld (d 3) 20 44 = 0 ∧ fld (d 4) 40 24 = 0 ∧ fld (d 4) 0 4 = 0
    ∧ fld (d 5) 32 32 = 0 ∧ fld (d 6) 40 24 = 0 ∧ fld (d 6) 0 12 = 0 ∧ fld (d 7) 40 24 = 0 ∧ fld (d 7) 0 21 = 0 ∧ fld (d 8) 40 24 = 0
    ∧ fld (d 8) 0 15 = 0 ∧ fld (d 10) 40 24 = 0 ∧ fld (d 12) 40 24 = 0 ∧ fld (d 14) 40 24 = 0 ∧ fld (d 20) 32 32 = 0 ∧ fld (d 21) 0 32 = 0)
    && (span 23 41).all (fun k => decide (d k = 0))

/-- Whether parent links lead from a region to region 0 without meeting region r (R194). -/
def State.reachesRoot (s : State) (r : Nat) : Nat → Nat → Bool
  | 0, _ => false
  | fuel + 1, q => if q = 0 then true else if q = r ∨ s.regionLive q = false then false else s.reachesRoot r fuel (s.parentOf q)

/-- Whether an address lies in a range of a world (R416). -/
def State.inWorld (s : State) (w pa : Nat) : Bool := (s.rangeOf pa).any (fun p => decide (p.1 = w))

/-- The state with a region's RCB as read, with which its effective values are judged. -/
def State.withRcb (s : State) (r addr : Nat) (l : List DWord) : State :=
  let x : Region :=
    match s.arb.regions.look r with
    | some x => { x with rcb := l }
    | none => { addr := addr, rcb := l, staged := none, coreTok := 0, hbmTok := 0, fabTok := 0, powTok := 0, powThrottle := false }
  { s with arb := { s.arb with regions := s.arb.regions.set r x } }

/-- Whether an RCB is accepted for a region (R194, R196, R416). -/
def rcbOk (s : State) (r addr : Nat) (l : List DWord) : Bool :=
  let d (k : Nat) : DWord := l.getD k 0
  let t := s.withRcb r addr l
  let parent := fld (d 0) 24 16
  let env := t.envOf r
  decide (fld (d 0) 56 8 = 1 ∧ bit (d 0) 0 = true ∧ fld (d 0) 40 16 = r ∧ r ≤ 4095) && rcbReserved d &&
    (r = 0 || s.regionLive parent && s.reachesRoot r s.depth parent) &&
    decide (fld (d 9) 48 16 ≤ 4608 ∧ fld (d 9) 0 16 ≤ 5800 ∧ fld (d 1) 12 52 = 0 ∧ (r = 0 → fld (d 1) 0 12 = 0xFFF)) &&
    (r = 0 || parent = 0 || bit (d 1) 1 = false || decide (fld (d 0) 17 3 = s.worldOf parent)) &&
    t.devMay env.world addr 512 && (env.world = 0 || [env.root, env.pairBase, env.wintab, fld (d 14) 16 24 * 2 ^ 16].all (fun a => s.inWorld env.world a))

/-- The RCB of a region as HBM holds it: 64 double words. Whether the region's world may read it is judged with it (R416). -/
def readRcb (s : State) (r : Nat) : State × Nat × List DWord :=
  let addr := fld (s.regionEntry r) 9 31 * 512
  let (s, bs) := s.devRead { whoDevice with world := (s.rangeOf addr).elim 0 (·.1) } addr 512
  (s, addr, (List.range 64).map (dwordAt bs))

/-- REGION_CREATE: the RCB is read, and the region runs from now on with its own pools full, or is refused (R194, R445). -/
def execRegionCreate (s : State) : Host.Outcome State Fault Refusal :=
  ringPlain s .regionCreate fun s k =>
    let r := fld (k.w 2) 0 12
    if s.regionLive r = true ∨ bit (s.regionEntry r) 0 = false then (s, Status.badArg, [])
    else
      let (s, addr, l) := readRcb s r
      if rcbOk s r addr l = false then (s, Status.rcbFormat, [])
      else
        let d (k : Nat) : DWord := l.getD k 0
        let own (b v : Nat) : Int := if bit (d 1) b then v else 0
        let x : Region :=
          { addr := addr, rcb := l.take 23, staged := none, coreTok := own 8 (fld (d 9) 48 16 * 875), hbmTok := own 9 (fld (d 9) 32 16 * 1024)
            fabTok := own 10 (fld (d 9) 16 16 * 1024), powTok := own 11 (fld (d 9) 0 16 * periodCycles), powThrottle := false }
        (callArbiter { s with arb := { s.arb with regions := s.arb.regions.set r x } }, Status.ok, [])

/-- REGION_REFRESH: the RCB is read again, to take effect at the next budget period boundary, or is refused (R194, R445). -/
def execRegionRefresh (s : State) : Host.Outcome State Fault Refusal :=
  ringPlain s .regionRefresh fun s k =>
    let r := fld (k.w 2) 0 12
    if s.regionLive r = false then (s, Status.badArg, [])
    else
      let (s, addr, l) := readRcb s r
      if rcbOk s r addr l = false then (s, Status.rcbFormat, [])
      else
        let stage (x : Region) : Region := { x with addr := addr, staged := some (l.take 23) }
        ({ s with arb := { s.arb with regions := Tab.each (fun q x => if q = r then stage x else x) s.arb.regions } }, Status.ok, [])

/-- REGION_DESTROY: the region table's entry is cleared once the region has no task and no grid OPEN or CLOSED (R445). -/
def execRegionDestroy (s : State) : Host.Outcome State Fault Refusal :=
  ringPlain s .regionDestroy fun s k =>
    let r := fld (k.w 2) 0 12
    if s.ctxs.any (fun (_, c) => decide (c.who.region = r)) || s.arb.grids.any (fun (g, e) => decide (g / 256 = r ∧ (e.st = 1 ∨ e.st = 2))) then
      (s, Status.regionBusy, [])
    else
      let s := s.devWrite whoDevice (fld s.host.regtab 15 25 * 2 ^ 15 + 8 * r) (leBytes 8 0)
      ({ s with arb := { s.arb with
          regions := s.arb.regions.del r, grids := s.arb.grids.filter (fun p => decide (p.1 / 256 ≠ r)) } }, Status.ok, [])

/-! ### Invalidation and pre-emption (R30, R391, R445) -/

/-- INVAL: an invalidation begins; its response is sent when it completes (R30, R31, R445). -/
def execInval (s : State) : Host.Outcome State Fault Refusal :=
  if s.invals.any (·.ring) then .next s
  else ringOp s .inval fun s k =>
    let kind := fld (k.w 2) 0 3
    if 6 ≤ kind then ({ s with gecko := s.gecko.next }, some (Status.badKind, []))
    else
      (startInval s
        { kind := kind, world := fld (k.w 5) 0 3, anyWorld := true, asn := fld (k.w 4) 0 16, addr := (k.w 3).toNat, len := (k.w 4).toNat
          region := fld (k.w 6) 16 16, window := fld (k.w 6) 0 7 } none true none, none)

/-- INVALIDATION_COMPLETE: an invalidation completes when nothing that used what it removed is still to be performed; an ATS one answers its
request, one of the ring its command (R24, R30, R31, R445). -/
def execInvalidationComplete (s : State) : Host.Outcome State Fault Refusal :=
  match s.invals.find? (fun v => decide (v.id = s.subj)) with
  | none => .next s
  | some v =>
    if v.users.any (stillUsed s) then .next (s.push 1 s.subj .invalidationComplete)
    else
      let s := { s with invals := s.invals.filter (fun x => decide (x.id ≠ v.id)) }
      match v.tag, v.ring with
      | some t, _ => .next { s with out := (101, leBytes 4 t) :: s.out }
      | none, false => .next s
      | none, true => ringOp s .inval fun s _ => ({ s with gecko := s.gecko.next }, some (Status.ok, []))

/-- PREEMPT: a switch of the task on a core is requested (R391, R445). -/
def execPreempt (s : State) : Host.Outcome State Fault Refusal :=
  ringPlain s .preempt fun s k =>
    let c := fld (k.w 2) 0 9
    if 288 ≤ c then (s, Status.badArg, [])
    else (if (s.core c).ctx.isSome then s.push 0 0 (.switchRequest c Why.host) else s, Status.ok, [])

/-! ### Launch queues and MSI-X (R440, R443) -/

/-- LQ_DOORBELL: TAIL is set; an overfull queue stops with ERR, and otherwise its packets are read in turn (R443). -/
def execLqDoorbell (q : Nat) (tail : BitVec 32) (s : State) : Host.Outcome State Fault Refusal :=
  if 16 ≤ q ∨ s.hostReady = false then .next s
  else
    let s := s.updLq q fun l =>
      let l := { l with tail := tail.toNat }
      if l.en && !l.err && l.overfull then { l with err := true } else l
    .next (lqServe s)

/-- LQCTL_WRITE: EN := 0 stops a queue and sets HEAD, TAIL and ERR to 0; SIZELOG is kept while EN = 1 (R443). -/
def execLqctlWrite (q : Nat) (v : BitVec 64) (s : State) : Host.Outcome State Fault Refusal :=
  if 16 ≤ q ∨ s.hostReady = false then .next s
  else
    let s := s.updLq q fun l =>
      let size := if l.en then l.sizelog else Nat.max 1 (fld v 4 4)
      if bit v 0 then { l with en := true, notify := bit v 1, sizelog := size }
      else { l with en := false, notify := bit v 1, sizelog := size, head := 0, tail := 0, err := false }
    .next (lqServe s)

/-- MSIX_UNMASK: a vector is unmasked, and its pending message is sent once (R440). -/
def execMsixUnmask (s : State) : Host.Outcome State Fault Refusal :=
  let v := s.subj
  let h := { s.host with masked := s.host.masked.filter (· ≠ v), pend := s.host.pend.filter (· ≠ v) }
  .next { s with host := if v ∈ s.host.pend then { h with sent := v :: h.sent } else h }

/-! ### Management registers (R441) -/

/-- A number taken to the nearest end of a range. -/
def clamp (lo hi v : Nat) : Nat := Nat.min hi (Nat.max lo v)

/-- A register of a die's block is written (R430, R436, R441); those of the Midfield die alone with d = 4 (R123, R159, R399). -/
def writeDieReg (s : State) (d o : Nat) (v : DWord) : State :=
  match o with
  | 0x00 => s.updDie d fun e =>
    { e with cethresh := fld v 24 8, loglog := fld v 16 4, cerate := fld v 8 8, ceint := bit v 1, en := bit v 0 }
  | 0x08 => s.updDie d fun e => { e with logbase := fld v 5 35 * 32 }
  | 0x10 => s.updDie d fun e => { e with logHead := fld v 32 32 }
  | 0x18 => if bit v 1 then s.updDie d fun e => { e with erafull := false } else s
  | 0x20 => s.updDie d fun e =>
    { e with refB := Nat.max Config.refreshFloor (fld v 48 16), scrubB := fld v 32 16, teleB := Nat.max 1 (fld v 16 16) }
  | 0x30 =>
    if d < 4 then s.updDie d fun e => { e with divspill := fld v 19 21 * 2 ^ 19 }
    else
      let t := BitVec.ofNat 64
        (clamp 100 1000000 (fld v 32 20) * 2 ^ 32 + clamp 1000 1000000 (fld v 12 20) * 2 ^ 12 + clamp 8 255 (fld v 0 8))
      { s with mid := { s.mid with fabtime := t } }
  | 0x38 =>
    if d = 4 then
      { s with mid := { s.mid with scrumcfg := BitVec.ofNat 64 (clamp 1000 1000000 (fld v 24 20) * 2 ^ 24 + b2n (bit v 0)) } }
    else s
  | 0x40 => if d = 4 then { s with mid := { s.mid with scrumstage := BitVec.ofNat 64 (fld v 26 14 * 2 ^ 26) } } else s
  | 0x48 => if d = 4 then { s with mid := { s.mid with retrB := Nat.max 100 (fld v 0 16) } } else s
  | 0x50 => if d = 4 then { s with mid := { s.mid with connspill := BitVec.ofNat 64 (fld v 26 14 * 2 ^ 26) } } else s
  | _ => s

/-- Whether any region table entry is valid (R441). -/
def State.anyRegionValid (s : State) : Bool := (List.range 4096).any (fun r => bit (s.regionEntry r) 0)

/-- A management register without a behaviour of its own stores its value (R441). -/
def writeReg (s : State) (off : Nat) (v : DWord) : State :=
  if off = 0x10 then (if s.anyRegionValid then s else { s with host := { s.host with regtab := BitVec.ofNat 64 (fld v 15 25 * 2 ^ 15) } })
  else if off = 0x18 then { s with host := { s.host with pwrlim := clamp 1000 5800 (fld v 0 16) } }
  else if off = 0x40 then { s with host := { s.host with crbase := BitVec.ofNat 64 (fld v 13 27 * 2 ^ 13) } }
  else if off = 0x48 then { s with host := { s.host with crslot := clamp 1 10 (fld v 0 5) } }
  else if off = 0x50 then { s with host := { s.host with crresp := BitVec.ofNat 64 (fld v 13 27 * 2 ^ 13) } }
  else if 0x1000 ≤ off ∧ off < 0x1200 ∧ off % 32 = 0 then
    s.updLq ((off - 0x1000) / 32) fun l =>
      if l.en then l else { l with base := BitVec.ofNat 64 (fld v 63 1 * 2 ^ 63 + fld v 6 50 * 64) }
  else if off = 0x10010 then { s with host := { s.host with mpart := fld v 0 4 } }
  else if 0x10040 ≤ off ∧ off < 0x10080 ∧ off % 8 = 0 then
    { s with host := { s.host with mdata := s.host.mdata.put 0 ((off - 0x10040) / 8) v } }
  else if 0x20000 ≤ off ∧ off < 0x25000 then writeDieReg s ((off - 0x20000) / 0x1000) (off % 0x1000) v
  else s

/-- REGISTER_WRITE: a management register is written, once the full map responds (R441). -/
def execRegisterWrite (off : Nat) (v : BitVec 64) (s : State) : Host.Outcome State Fault Refusal :=
  if s.hostReady then .next (writeReg s off v) else .next s

/-- BOOTSTAT (R447). -/
def bootstat (h : HostIf) : DWord :=
  BitVec.ofNat 64 (h.phase + h.imgstat * 2 ^ 8 + h.failkind * 2 ^ 16 + h.stackok * 2 ^ 24 + h.dieok * 2 ^ 32)

/-- CORESTAT (R433). -/
def Core.stat (c : Core) : DWord := BitVec.ofNat 64 (b2n c.fenced + b2n c.freq * 2 + c.selftest * 2 ^ 8)

/-- PORTCFG, PORTSTAT and PORTPEER (R135, R136). -/
def Port.cfg (q : Port) : Nat := q.ujob * 2 ^ 8 + b2n q.ualen * 8 + b2n q.v2 * 4 + b2n q.v1 * 2 + b2n q.en
def Port.stat (q : Port) : Nat := q.mode * 2 ^ 28 + q.lanes * 2 ^ 24 + q.retrains * 2 ^ 16 + q.errs
def Port.peerReg (q : Port) : Nat := q.peer.elim 0 (fun p => 2 ^ 31 + p.2 * 2 ^ 16 + p.1)

/-- A register of a die's block as it reads (R430, R436, R441). -/
def readDieReg (s : State) (d o : Nat) : Nat :=
  let e := s.die d
  let m := s.mid
  match o with
  | 0x00 => e.cethresh * 2 ^ 24 + e.loglog * 2 ^ 16 + e.cerate * 2 ^ 8 + b2n e.ceint * 2 + b2n e.en
  | 0x08 => e.logbase
  | 0x10 => e.logHead * 2 ^ 32 + e.logTail
  | 0x18 => e.ceCount * 2 ^ 32 + e.ueCount * 2 ^ 16 + e.lost * 4 + b2n e.erafull * 2
  | 0x20 => e.refB * 2 ^ 48 + e.scrubB * 2 ^ 32 + e.teleB * 2 ^ 16
  | 0x28 => if d < 4 then b2n e.dieen else 0
  | 0x30 => if d < 4 then e.divspill else m.fabtime.toNat
  | 0x38 => if d = 4 then m.scrumcfg.toNat else 0
  | 0x40 => if d = 4 then m.scrumstage.toNat else 0
  | 0x48 => if d = 4 then m.retrB else 0
  | 0x50 => if d = 4 then m.connspill.toNat else 0
  | 0x58 => if d = 4 then m.fwdbase.toNat else 0
  | _ => 0

/-- The training results of a pseudo-channel as they read (R448). -/
def readTraining (s : State) (n o : Nat) : Nat :=
  let p := s.pch n
  if o = 0 then p.step + b2n p.done * 2 ^ 8 + b2n p.pcfail * 2 ^ 9
  else if o = 0x140 then p.rep.toNat
  else if 8 ≤ o ∧ o < 0x138 ∧ o % 8 = 0 then
    let l := (o - 8) / 8
    (Config.laneDelay s.host.boots n l &&& 0x3F3F).toNat + b2n (p.lfail.contains l) * 2 ^ 15
  else 0

/-- A management register as it reads: 0 for what is not listed, and for all but DEVIF and BOOTSTAT before READY (R441). -/
def State.mgmtRead (s : State) (off : Nat) : DWord :=
  let h := s.host
  let v (n : Nat) : DWord := BitVec.ofNat 64 n
  if off = 0 then v (Config.deviceLink % 2 ^ 12 * 2 ^ 16 + 0x0100)
  else if off = 8 then bootstat h
  else if s.hostReady = false then 0
  else if off = 0x10 then h.regtab
  else if off = 0x18 then v h.pwrlim
  else if off = 0x20 then v (h.pwrCount * 2 ^ 16 + h.pwrNow)
  else if off = 0x40 then h.crbase
  else if off = 0x48 then v (h.crhead * 2 ^ 32 + h.crslot)
  else if off = 0x50 then h.crresp
  else if 0x1000 ≤ off ∧ off < 0x1200 then
    let l := s.lq ((off - 0x1000) / 32)
    if off % 32 = 0 then l.base
    else if off % 32 = 8 then v (l.head * 2 ^ 32 + l.sizelog * 16 + b2n l.err * 4 + b2n l.notify * 2 + b2n l.en)
    else 0
  else if off = 0x10000 then h.midx
  else if off = 0x10008 then v (b2n h.mbusy + h.mstatus * 2 ^ 8)
  else if off = 0x10010 then v h.mpart
  else if 0x10040 ≤ off ∧ off < 0x10080 then h.mdata.val 0 ((off - 0x10040) / 8)
  else if 0x20000 ≤ off ∧ off < 0x25000 then v (readDieReg s ((off - 0x20000) / 0x1000) (off % 0x1000))
  else if 0x30000 ≤ off ∧ off < 0x30300 then
    let q := s.port ((off - 0x30000) / 16)
    if off % 16 = 0 then v q.cfg else if off % 16 = 4 then v q.stat else if off % 16 = 8 then v q.peerReg else 0
  else if 0x40000 ≤ off ∧ off < 0x40900 then (s.core ((off - 0x40000) / 8)).stat
  else if 0x41000 ≤ off ∧ off < 0x41900 then (s.core ((off - 0x41000) / 8)).frametab
  else if 0x42000 ≤ off ∧ off < 0x42900 then
    let c := s.core ((off - 0x42000) / 8)
    v (c.sealovr * 2 ^ 8 + c.flead)
  else if 0x80000 ≤ off ∧ off < 0xC0000 then v (readTraining s ((off - 0x80000) / 0x200) (off % 0x200))
  else 0

/-! ### Indirect access (R442) -/

/-- MSTAT codes (R442). -/
def Mstat.ok : Nat := 0x00
def Mstat.noObject : Nat := 0x01
def Mstat.readOnly : Nat := 0x02
def Mstat.badClass : Nat := 0x03
def Mstat.notPowered : Nat := 0x27

/-- Two double words as bytes. -/
def two (a b : Nat) : List Byte := leBytes 8 a ++ leBytes 8 b

/-- A slice permission entry (R16). -/
def sptBytes (e : SptEnt) : List Byte :=
  two (e.owner * 2 ^ 48 + e.world * 2 ^ 45 + e.share * 2 ^ 40 + e.rights * 2 ^ 37 + e.count * 2 ^ 24 + e.start * 2 ^ 13 + 1) 0

/-- A rank-table slot header (R118). -/
def hdrBytes (h : SlotHdr) : List Byte := two (h.jobid * 2 ^ 32 + h.selfrank * 2 ^ 20 + h.region * 2 ^ 4 + h.world * 2 + b2n h.en) 0

/-- A rank-table entry; LOCAL tells whether PKG is this package (R34). -/
def rankBytes (s : State) (e : RankEnt) : List Byte :=
  two (e.epoch * 2 ^ 32 + e.pkg * 2 ^ 16 + b2n (decide (e.pkg = s.pkg)) * 8 + b2n e.hold * 4 + b2n e.fenced * 2 + b2n e.v)
    (Nat.min e.outst 0xFFFF * 2 ^ 48 + e.ports)

/-- A fence counter (R103). -/
def fenceBytes (e : FenceEnt) : List Byte :=
  two (e.src * 2 ^ 55 + e.job * 2 ^ 49 + e.rank * 2 ^ 37 + e.count * 2 ^ 21 + e.epoch % 2 ^ 16 * 2 ^ 5 + e.worst * 2 ^ 3 + 1) 0

/-- The control part of a combining entry (R141). -/
def combBytes (s : State) (e : Comb) : List Byte :=
  let remain := if e.st = 1 then e.tout - (s.now - e.started) / usCycles else 0
  let d0 := 2 ^ 63 + e.st * 2 ^ 60 + e.job * 2 ^ 54 + e.rid * 2 ^ 34 + e.level * 2 ^ 33 + e.oper * 2 ^ 29 + e.fmt * 2 ^ 26 + e.repro * 2 ^ 24
    + b2n e.destc * 2 ^ 23 + b2n e.pv * 2 ^ 22 + e.pidx * 2 ^ 16 + e.parent * 2 ^ 4
  let d4 := e.tout * 2 ^ 50 + remain * 2 ^ 30 + (if e.oper = 6 then 0 else e.nelem - 1) * 2 ^ 24 + e.k * 2 ^ 18 + b2n e.dir * 2 ^ 17
  two d0 e.expect ++ two e.arrived e.full ++ two d4 e.taddr ++ two e.pexpect 0

/-- The management view of a connection context (R442). -/
def connBytes (s : State) (key : Nat) (c : Conn) : List Byte :=
  let d0 := c.number + c.job * 2 ^ 16 + c.rank * 2 ^ 22 + c.pkg * 2 ^ 34 + b2n (!c.requester) * 2 ^ 50
  if c.requester then
    dwordBytes ([d0, c.nextSeq + lowSeq s key c * 2 ^ 24, c.credits, c.ports].map (BitVec.ofNat 64)) ++ List.replicate 992 0
  else
    let seen := c.seen.foldl (fun n q => n + 2 ^ seqDist q c.base) 0
    let res := c.results.take 64
    dwordBytes ([d0, c.base, c.region + c.world * 2 ^ 16 + c.asn * 2 ^ 32, c.root / 2 ^ 13, (c.hold.map (fun h => 2 ^ h.slot)).sum].map (BitVec.ofNat 64))
      ++ List.replicate 24 0 ++ leBytes 128 seen
      ++ fitBytes 704 (res.flatMap (fun p => leBytes 3 p.1 ++ leBytes 8 p.2.toNat)) ++ List.replicate 128 0

/-- An erasure entry (R427), and one read from a write. -/
def eraBytes (e : Erasure) : List Byte :=
  leBytes 8 (b2n e.v * 2 ^ 63 + e.scope * 2 ^ 61 + e.sid * 2 ^ 57 + e.bank * 2 ^ 51 + e.row * 2 ^ 33 + e.pos * 2 ^ 21 + e.cw * 2 ^ 20 + e.hits)
def eraOf (d : DWord) : Erasure :=
  { v := bit d 63, scope := fld d 61 2, sid := fld d 57 4, bank := fld d 51 6, row := fld d 33 18, pos := fld d 21 6, cw := fld d 20 1, hits := 0 }

/-- The task that an index of classes 0x0A and 0x0B names, once it has started (R442). -/
def State.taskAt (s : State) (index : Nat) : Option (Nat × Ctx) :=
  s.ctxs.find? fun (_, c) =>
    decide (c.who.region = index / 2 ^ 40 ∧ c.who.grid = index / 2 ^ 32 % 256 ∧ c.who.index = index % 2 ^ 32) && !c.isOver &&
      (match c.loc with
        | .pending _ => false
        | .engine => false
        | _ => true)

/-- Whether a task runs on a fenced core (R433). -/
def State.onFenced (s : State) (c : Ctx) : Bool := c.coreNo.any (fun k => (s.core k).fenced)

/-- Where a task register lies in a context image (R395, R396); 0x100 and 0x101 are DBGCTL and DBGSTAT. -/
def regOff (n : Nat) : Nat := if n = 0x100 then 0x800 + 8 * 0x56 else if n = 0x101 then 0x800 + 8 * 0x57 else if n < 0x80 then 0x800 + 8 * n else 0xC00 + 8 * (n - 0x80)

/-- A register of a task, from its core or from its image (R228, R389). -/
def taskReg (s : State) (id : Nat) (c : Ctx) (n : Nat) : DWord :=
  if c.away then (s.devDword c.whoImage (s.imageBase c + regOff n)).2
  else if n = 0x100 then c.dbg.ctl
  else if n = 0x101 then c.dbg.stat
  else crRead s id c n

/-- Whether a number names a register of class 0x0A (R442). -/
def taskRegOk (n : Nat) : Bool := n = 0x100 || n = 0x101 || n < 0xC0 && crNumberOk n

/-- A buffer table entry, or a row of a tile, of a task (R442); none when there is no such object. -/
def taskPart (s : State) (c : Ctx) (m : DWord) : Option (List Byte) :=
  let n := fld m 0 16
  if 1 ≤ n ∧ n ≤ 63 then
    some (if c.away then (s.devRead c.whoImage (s.imageBase c + 0x1000 + 32 * n) 32).2 else dwordBytes (c.buf n).dwords)
  else if 0x100 ≤ n ∧ n < 0x110 ∧ fld m 16 8 < 128 then
    let t := n - 0x100
    let row := fld m 16 8
    some (if c.away then (s.devRead c.whoImage (s.imageBase c + 0x100000 + t * 65536 + row * 512) 512).2
      else (List.range 128).flatMap (fun j => leBytes 4 (c.tile t row j).toNat))
  else none

/-- The bytes of the object that a class and index name, with the argument in MDATA7, or the status that says why there are none (R442). -/
def midxObject (s : State) (cls index : Nat) (m : DWord) : Except Nat (List Byte) :=
  let zeros (n : Nat) : List Byte := List.replicate n 0
  let gone : Except Nat (List Byte) := .error Mstat.noObject
  match cls with
  | 0x01 => if 288 * 64 ≤ index then gone else .ok (((s.core (index / 64)).spt.look (index % 64)).elim (zeros 16) sptBytes)
  | 0x02 => if 64 ≤ index then gone else .ok (hdrBytes (s.slotHdr index))
  | 0x03 => if 64 * 4096 ≤ index then gone else .ok (rankBytes s (s.rank (index / 4096) (index % 4096)))
  | 0x04 => if 4096 ≤ index then gone else .ok ((s.mid.fences.look index).elim (zeros 16) fenceBytes)
  | 0x05 =>
    if 16 * 4096 ≤ index then gone
    else
      let unit := (s.mid.comb.map (·.2)).filter (fun e => decide (e.rid % 16 = index / 4096))
      .ok ((unit[index % 4096]?).elim (zeros 64) (combBytes s))
  | 0x06 => if 1024 ≤ index then gone else .ok (dwordBytes ((s.mid.repl.look index).getD (List.replicate 18 0)))
  | 0x07 => match s.mid.conns.find? (fun p => decide (p.2.number = index)) with
    | some (key, c) => .ok (connBytes s key c)
    | none => gone
  | 0x08 =>
    if 4 * 256 ≤ index then gone
    else .ok (((((s.die (index / 256)).div.filter (fun e => !e.spilled))[index % 256]?)).elim (zeros 32) divBytes)
  | 0x09 => if 512 * 8 ≤ index then gone else .ok (((s.pch (index / 8)).erasures.look (index % 8)).elim (zeros 8) eraBytes)
  | 0x0A => match s.taskAt index with
    | none => gone
    | some (id, c) =>
      if taskRegOk (fld m 0 12) = false then gone
      else if s.onFenced c then .error Mstat.notPowered
      else .ok (leBytes 8 (taskReg s id c (fld m 0 12)).toNat)
  | 0x0B => match s.taskAt index with
    | none => gone
    | some (_, c) => match taskPart s c m with
      | none => gone
      | some bs => if s.onFenced c then .error Mstat.notPowered else .ok bs
  | _ => .error Mstat.badClass

/-- The parts an object of some bytes has (R442). -/
def partsOf (bs : List Byte) : Nat := Nat.max 1 ((bs.length + 63) / 64)

/-- CLASS and INDEX of a MIDX value, and whether it names the object of the staging copy (R442). -/
def midxClass (v : DWord) : Nat := fld v 56 8
def midxIndex (v : DWord) : Nat := fld v 0 52
def keepStaged (s : State) (v : DWord) : State :=
  let keep (p : Nat × Nat × Tab DWord) : Bool := decide (p.1 = midxClass v ∧ p.2.1 = midxIndex v)
  { s with host := { s.host with staged := s.host.staged.filter keep, midx := setFld v 52 3 0 } }

/-- An indirect access ends with a status. -/
def midxEnd (s : State) (status : Nat) : State := { s with host := { s.host with mstatus := status, mbusy := false } }

/-- The argument of an access: the register or part that MDATA7 names. -/
def State.mdata7 (s : State) : DWord := s.host.mdata.val 0 7

/-- MIDX_READ: one part of an object is read into MDATA (R438, R442). -/
def execMidxRead (v : BitVec 64) (s : State) : Host.Outcome State Fault Refusal :=
  if s.hostReady = false ∨ s.host.mbusy = true then .next s
  else
    let s := keepStaged s v
    match midxObject s (midxClass v) (midxIndex v) s.mdata7 with
    | .error e => .next (midxEnd s e)
    | .ok bs =>
      if partsOf bs ≤ s.host.mpart then .next (midxEnd s Mstat.noObject)
      else
        let part := fitBytes 64 ((bs.drop (64 * s.host.mpart)).take 64)
        let data := (List.range 8).foldl (fun (t : Tab DWord) k => t.put 0 k (dwordAt part k)) []
        .next (midxEnd { s with host := { s.host with mdata := data } } Mstat.ok)

/-- A slot header is written; EN of a slot in a world other than 0 needs its link key (R118, R421). -/
def writeHeader (s : State) (slot : Nat) (d : DWord) : State :=
  let w := fld d 1 3
  let en := bit d 0 && (w = 0 || (s.gecko.jobKeys.look (linkKeyAt slot w)).isSome)
  let h : SlotHdr := { jobid := fld d 32 32, selfrank := fld d 20 12, region := fld d 4 16, world := w, en := en }
  { s with mid := { s.mid with slots := s.mid.slots.set slot h } }

/-- DBGCTL is written: a halt request is due at the next bundle boundary, and a write without one releases a halted task, for one step when STEP
is set (R389, R390). -/
def writeDbgctl (s : State) (id : Nat) (c : Ctx) (v : DWord) : State :=
  let v := BitVec.ofNat 64 (fld v 0 4)
  let free := bit c.dbg.stat 8 && !bit v 3
  let dbg : Debug := { c.dbg with
    ctl := v, stat := if free then setFld c.dbg.stat 8 1 0 else c.dbg.stat, stepping := if free then bit v 1 else c.dbg.stepping
    stepSeq := if free then c.ph.seq else c.dbg.stepSeq }
  let s := s.setCtx id { c with dbg := dbg }
  let s := syncImage s id (regOff 0x100) (fun x => leBytes 8 x.dbg.ctl.toNat)
  let s := syncImage s id (regOff 0x101) (fun x => leBytes 8 x.dbg.stat.toNat)
  let s := match c.coreNo with
    | some k => if bit v 3 then s.pushOnce 0 k .debugHalt else s
    | none => s
  if free then callArbiter s else s

/-- A mailbox is written by the host (R228). -/
def writeMailbox (s : State) (id n : Nat) (v : DWord) : State :=
  let s := s.updCtx id (·.updRegs (fun r => { r with mb := r.mb.put 0 n v }))
  syncImage s id (regOff (0x20 + n)) (fun x => leBytes 8 (x.regs.mb.val 0 n).toNat)

/-- Whether a class may be written, and for class 0x0A the register that MDATA7 names (R442). -/
def midxWritable (cls : Nat) (m : DWord) : Bool :=
  match cls with
  | 0x02 | 0x03 | 0x06 | 0x09 => true
  | 0x0A => let n := fld m 0 12; n = 0x100 || decide (0x20 ≤ n ∧ n ≤ 0x27)
  | _ => false

/-- The fields of dword k of a replication entry; its other bits are reserved (R161, R9). -/
def replMask (k : Nat) : DWord := if k = 0 then 0x000FFFFFF8000001 else if k = 1 then 0 else 0x8FFF8FFF8FFF8FFF

/-- The whole entry is written, from its double words (R442). -/
def midxStore (s : State) (cls index : Nat) (m : DWord) (d : Nat → DWord) : State :=
  match cls with
  | 0x02 => writeHeader s index (d 0)
  | 0x03 => writeRank s (index / 4096) (index % 4096) (d 0) (d 1)
  | 0x06 => { s with mid := { s.mid with repl := s.mid.repl.set index ((List.range 18).map (fun k => d k &&& replMask k)) } }
  | 0x09 => s.updPch (index / 8) fun p => { p with erasures := p.erasures.set (index % 8) (eraOf (d 0)) }
  | _ => match s.taskAt index with
    | none => s
    | some (id, c) => if fld m 0 12 = 0x100 then writeDbgctl s id c (d 0) else writeMailbox s id (fld m 0 12 - 0x20) (d 0)

/-- MIDX_WRITE: a part is staged, or with the last part the whole entry is written at once (R442). -/
def execMidxWrite (v : BitVec 64) (s : State) : Host.Outcome State Fault Refusal :=
  if s.hostReady = false ∨ s.host.mbusy = true then .next s
  else
    let s := keepStaged s v
    let m := s.mdata7
    match midxObject s (midxClass v) (midxIndex v) m with
    | .error e => .next (midxEnd s e)
    | .ok bs =>
      let p := s.host.mpart
      if partsOf bs ≤ p then .next (midxEnd s Mstat.noObject)
      else if midxWritable (midxClass v) m = false then .next (midxEnd s Mstat.readOnly)
      else
        let old := (s.host.staged.elim [] (·.2.2))
        let all := (List.range 8).foldl (fun (t : Tab DWord) k => t.put 0 (8 * p + k) (s.host.mdata.val 0 k)) old
        if p + 1 < partsOf bs then
          .next (midxEnd { s with host := { s.host with staged := some (midxClass v, midxIndex v, all) } } Mstat.ok)
        else
          let s := { s with host := { s.host with staged := none } }
          fin (midxEnd (midxStore s (midxClass v) (midxIndex v) m (fun k => all.val 0 k)) Mstat.ok)

/-! ### Bring-up (R6, R446 to R448) -/

/-- The boot stops in FAILED with an image's status (R446, R447). -/
def bootFailed (s : State) (kind status : Nat) : State := { s with host := { s.host with phase := 7, imgstat := status, failkind := kind } }

/-- The image kinds in the order the phases need them (R446). -/
def bootOrder : List Nat := [1, 5, 3, 4, 2]

/-- The images that pass are started, up to the first kind whose two copies fail; once all are, the alias keys are certified (R413, R446). -/
def bootImages : List Nat → Gecko → Except (Nat × Nat) Gecko
  | [], g => .ok g.certify
  | k :: t, g => match tryImage g k with
    | .ok i => bootImages t (g.started k i)
    | .error st => .error (k, st)

/-- A pseudo-channel as its training leaves it (R448). -/
def trained (boot n : Nat) : Pch :=
  let bad := Config.laneFailures boot n
  let failing := (List.range 36).filter (fun l => bad.contains l)
  let spares := [36, 37].filter (fun l => !bad.contains l)
  let slot (sp : Nat) : Option Nat := (failing.zip spares).findSome? fun (l, x) => if x = sp then some l else none
  let rep := (slot 36).elim 0 (fun l => l + 2 ^ 6) + (slot 37).elim 0 (fun l => l * 2 ^ 8 + 2 ^ 14)
  let enough := decide (failing.length ≤ spares.length)
  { Pch.reset with
    pcfail := !(enough && Config.patternPass boot n), step := if enough then 7 else 6, done := true, rep := BitVec.ofNat 64 rep
    lfail := (List.range 38).filter (fun l => bad.contains l) }

/-- A core as its release leaves it: fenced when it fails the self-test (R433, R446). -/
def released (boot core : Nat) : Core :=
  let ok := (List.range 256).all (fun q => Config.katMatches boot core q)
  { Core.reset with fenced := !ok, selftest := if ok then 2 else 3 }

/-- The package as the last phases of a boot leave it: READY, its periodic activities begun (R446, R447). -/
def bootReady (s : State) : State :=
  let boot := s.host.boots
  let down := (List.range 8).filter (fun l => !Config.dieLinkTrains boot l)
  let pchs : Tab Pch := (List.range 512).map (fun n => (n, trained boot n))
  let bits (l : List Nat) : Nat := l.foldl (fun n k => n + 2 ^ k) 0
  let stackNos := (List.range 8).filter (fun k => (pchs.filter (fun p => decide (p.1 / 64 = k))).any (fun p => !p.2.pcfail))
  let dies := (List.range 4).filter (fun d => !down.contains d)
  let s := { s with
    linksDown := down
    pchs := pchs
    cores := (List.range 288).map (fun c => (c, released boot c))
    dies := (List.range 5).map (fun d => (d, ({ Die.reset with dieen := decide (d ∈ dies), releasedAt := s.now } : Die)))
    host := { s.host with phase := 6, stackok := bits stackNos, dieok := bits dies } }
  let s := (s.push periodCycles 0 .budgetPeriod).push 0 0 .frameCycleBoundary
  (List.range 512).foldl (fun s n => (s.push 0 n .scrubRead).push 0 n .hbmRefresh) s

/-- POWER_UP: the Gecko pair starts from its ROM, and bring-up runs its phases in order to READY or FAILED (R6, R446). -/
def execPowerUp (s : State) : Host.Outcome State Fault Refusal :=
  if s.power = true ∨ s.host.phase ≠ 0 then .next s
  else
    let s := { s with power := true, host := { s.host with boots := s.host.boots + 1 } }
    match bootImages bootOrder s.gecko with
    | .ok g => .next (bootReady { s with gecko := g })
    | .error (kind, st) => .next (bootFailed s kind st)

end Sys2Proof.Machine
end

