-- ==== Sys2Proof/Machine/Reliab.lean ====
section
/-! DEFINITION. Reliability (chapter 15): reads and scrubbing of HBM (R426, R432), refresh (R437), fenced cores and their self-test (R433), the units that
fail and return (R434, R435). -/

namespace Sys2Proof.Machine

/-! ### HBM (R426, R432, R434, R437) -/

/-- A requester of a kind that stands at a core, for the core's task, or at the line's own die. -/
def State.hbmReader (s : State) (line rq core : Nat) : Who :=
  let task := ((s.core core).ctx).bind s.ctx
  { die := if core < 288 then dieOf core else hbmDie line, world := task.elim 0 (·.who.world), region := task.elim 0 (·.who.region),
    core := if core < 288 then core else 0x1FF, req := rq, opens := false }

/-- HBM_READ: a line is read at its controller by a requester of the given kind on a core: corrected and counted, or aborted (R426, R428). -/
def execHbmRead (line rq core : Nat) (s : State) : Host.Outcome State Fault Refusal :=
  fin (hbmRead s (s.hbmReader line rq core) (line % 2 ^ 33)).1

/-- The next line of a pseudo-channel after one, among the lines that follow it. -/
def nextLine (pc from' : Nat) : Nat :=
  (((List.range 4096).map (fun i => (from' + 1 + i) % 2 ^ 33)).find? (fun l => decide (Config.pseudoChannel (l * 64) = pc))).getD ((from' + 4096) % 2 ^ 33)

/-- SCRUB_READ: the scrubber of a pseudo-channel reads its next line within the budget: a correctable line is written back corrected, an
uncorrectable one recorded; what the decoder miscorrects beyond the code's distance is written back as it makes it; the next read follows (R426, R432,
R436). -/
def execScrubRead (s : State) : Host.Outcome State Fault Refusal :=
  let pc := s.subj
  let p := s.pch pc
  let budget := (s.die (pc / 128)).scrubB
  if budget = 0 ∨ p.scrubTok ≤ 0 ∨ p.pcfail = true then .next (s.push periodCycles pc .scrubRead)
  else
    let line := p.scrubAt
    let w : Who := { die := pc / 128, world := 0, region := 0, core := 0x1FF, req := 5, opens := false }
    let s :=
      if Config.pseudoChannel (line * 64) ≠ pc then s
      else match s.decodeLine line with
        | .clean => s
        | .corrected errs =>
          let s := noteCorrected s w line errs
          { s with lineErr := s.lineErr.del line }
        | .bad cw pos =>
          let (t, s) := s.fresh
          match Config.miscorrect t (BitVec.ofNat 512 (leNat (s.bytesAt (line * 64) 64))) with
          | some v => { s with mem := Memory.putAll s.mem (line * 64) (leBytes 64 v.toNat), lineErr := s.lineErr.del line }
          | none => noteUncorrectable s w line cw pos
    let s := s.updPch pc fun p => { p with scrubAt := nextLine pc line, scrubTok := p.scrubTok - 1 }
    fin (s.push (periodCycles / budget) pc .scrubRead)

/-- HBM_REFRESH: a refresh is charged to the REF budget and issued whatever its tokens, the excess being debt (R436, R437). -/
def execHbmRefresh (s : State) : Host.Outcome State Fault Refusal :=
  .next ((s.updPch s.subj fun p => { p with refTok := p.refTok - 1 }).push (periodCycles / Nat.max 1 Config.refreshFloor) s.subj .hbmRefresh)

/-- STACKOK after a pseudo-channel of a stack has failed: the stack's bit is clear once none of its pseudo-channels is in service (R447). -/
def State.stackLeft (s : State) (k : Nat) : Nat :=
  if (span (64 * k) 64).all (fun n => (s.pch n).pcfail) then s.host.stackok - s.host.stackok / 2 ^ k % 2 * 2 ^ k else s.host.stackok

/-- PSEUDO_CHANNEL_FAIL: every access to the pseudo-channel aborts from now on, and a record is written (R434, R447). -/
def execPseudoChannelFail (s : State) : Host.Outcome State Fault Refusal :=
  let pc := s.subj
  let s := s.updPch pc fun p => { p with pcfail := true }
  let s := { s with host := { s.host with stackok := s.stackLeft (pc / 64) } }
  fin (logError s (pc / 128) 0x09 7 0x1FF 0 0 (pchFields pc) 0 false)

/-- The RETRBUD tokens of a die link (R436). -/
def State.linkTok (s : State) (l : Nat) : Int := s.mid.dieTok.val s.mid.retrB l

/-- DIE_LINK_RETRAIN: a failed die link works again, and the time its training takes is charged to its RETRBUD budget; without tokens it is deferred
(R435 to R437). -/
def execDieLinkRetrain (s : State) : Host.Outcome State Fault Refusal :=
  let l := s.subj
  if s.linkTok l ≤ 0 then .next (s.pushOnce 1 l .dieLinkRetrain)
  else
    let (t, s) := s.fresh
    .next { s with
      linksDown := s.linksDown.filter (· ≠ l)
      mid := { s.mid with dieTok := s.mid.dieTok.set l (s.linkTok l - Config.dieTrainTime t) } }

/-- DIEEN_WRITE: a die returns to service once its link has trained and each of its cores has passed the self-test; otherwise the write is refused
(R435, R441). -/
def execDieenWrite (die : Nat) (v : BitVec 64) (s : State) : Host.Outcome State Fault Refusal :=
  let good := decide (die ∉ s.linksDown) && (span (72 * die) 72).all (fun k => decide ((s.core k).selftest = 2))
  if 4 ≤ die ∨ s.hostReady = false then .next s
  else if bit v 0 then
    if (s.die die).dieen then .next s
    else if good then .next (callArbiter (s.updDie die fun d => { d with dieen := true }))
    else .next s
  else .next (s.updDie die fun d => { d with dieen := false })

/-! ### Fenced cores (R433) -/

/-- CORESTAT_FENCE_WRITE: software fences a core: nothing is placed there, its task is switched out as a host request, and once it is free its
permissions and quadrants go (R431, R433). -/
def execCorestatFenceWrite (s : State) : Host.Outcome State Fault Refusal :=
  let core := s.subj
  if (s.core core).fenced = true ∨ 288 ≤ core ∨ s.hostReady = false then .next s
  else
    let s := s.updCore core fun c => { c with fenced := true }
    let s := if (s.core core).ctx.isSome then s.push 0 0 (.switchRequest core 2) else fenceClean s core
    fin (logError s (dieOf core) 0x0A 6 core 0 0 0 0 false)

/-- CORESTAT_FREQ_WRITE: software asks for a fenced core's return to service; the request is held until the test can start (R433). -/
def execCorestatFreqWrite (s : State) : Host.Outcome State Fault Refusal :=
  if (s.core s.subj).fenced = true ∧ s.hostReady = true then .next ((s.updCore s.subj fun c => { c with freq := true }).pushOnce 0 s.subj .selftestRun) else .next s

/-- Whether a core holds no task, no context is being saved from it or restored to it, and its quadrants are gated. -/
def State.testable (s : State) (core : Nat) : Bool :=
  decide ((s.core core).ctx = none) &&
    s.ctxs.all (fun (_, c) => match c.loc with
      | .pending k => k ≠ core
      | .resident k => k ≠ core
      | .saving k _ => k ≠ core
      | .restoring k _ => k ≠ core
      | _ => true) &&
    (List.range 32).all (fun b => decide ((s.core core).banks.val .gated b = .gated))

/-- SELFTEST_RUN: the self-test starts once the core is free and gated (R433). -/
def execSelftestRun (s : State) : Host.Outcome State Fault Refusal :=
  let core := s.subj
  let c := s.core core
  if c.fenced = false ∨ c.freq = false then .next s
  else if s.testable core then .next ((s.updCore core fun c => { c with freq := false, selftest := 1 }).push 1 core .selftestDone)
  else .next ((fenceClean s core).push 1 core .selftestRun)

/-- SELFTEST_DONE: the core returns to service when MKAT matched for every q; otherwise it stays fenced and a record names the first q that did
not (R433). -/
def execSelftestDone (s : State) : Host.Outcome State Fault Refusal :=
  let core := s.subj
  if (s.core core).selftest ≠ 1 then .next s
  else match (List.range 256).find? (fun q => !Config.katMatches s.host.boots core q) with
    | none => .next (callArbiter (s.updCore core fun c => { c with fenced := false, selftest := 2 }))
    | some q =>
      let s := s.updCore core fun c => { c with selftest := 3 }
      fin (logError s (dieOf core) 0x06 4 core 0 0 0 (BitVec.ofNat 64 (q * 2 ^ 16 + katSum q)) false)

end Sys2Proof.Machine
end

