-- ==== Sys2Proof/Machine/Walks.lean ====
section
/-! DEFINITION. The die walkers' queues (R27), and the host's translations (R24). -/

namespace Sys2Proof.Machine

/-! ### Walkers (R27, R30)

A translation that misses leaves its page to its die's walker and waits (`missPage`); `Die.walked` keeps, for the access that comes back, the
pages whose walk has ended. -/

/-- How many walks a die's walker carries: 64, or 32 on the Midfield die (R27). -/
def walkSlots (die : Nat) : Nat := if die = 4 then 32 else 64

/-- The requester served next: the first after the last one in number, with wrap-around (R27). -/
def nextRequester (l : List Walk) (rr : Nat) : Option Nat :=
  let reqs := l.map (·.req)
  match leastBy id (reqs.filter (fun r => decide (rr < r))) with
  | some r => some r
  | none => leastBy id reqs

/-- WALK_START: the walker of a die takes a walk from the next requester's queue (R27). -/
def execWalkStart (s : State) : Host.Outcome State Fault Refusal :=
  let d := s.die s.subj
  match nextRequester d.missq d.rr with
  | none => .next s
  | some r =>
    if walkSlots s.subj ≤ d.walks.length then .next s
    else match d.missq.find? (fun w => decide (w.req = r)) with
      | none => .next s
      | some w =>
        let s := (s.updDie s.subj fun d => { d with missq := d.missq.erase w, walks := d.walks ++ [w], rr := r }).push 0 s.subj .walkComplete
        .next (if d.missq.length = 1 then s else s.push 0 s.subj .walkStart)

/-- The access kind a walk is made for. -/
def Walk.kind (w : Walk) : Acc :=
  match w.acc with
  | 1 => .write
  | 2 => .exec
  | 3 => .atomic
  | _ => .read

/-- The cache of a requester that its walks fill: its cluster's, or the fabric cache on the Midfield die; none for a dispatcher (R26). -/
def requesterSite (die req : Nat) : Nat := if die = 4 then 2000 else if req < 9 then 1000 + die * 9 + req else 3000

/-- A walk's leaf enters the caches of its requester and of those that joined it (R26, R27). -/
def installWalk (s : State) (die : Nat) (w : Walk) (l : Leaf) : State :=
  (w.joined ++ [w.req]).foldl (fun s r => installAt (requesterSite die r) w.world w.asn w.va l s) s

/-- The accesses that wait for a page hear that its walk has ended. -/
def endWalk (s : State) (die : Nat) (w : Walk) : State := s.updDie die fun d => { d with walked := (w :: d.walked).take 256 }

/-- A and D are set by the walk of a page in HBM, whose translation the walk completes; that of a host or paired page completes later (R22). -/
def walkSets (s : State) (who : Who) (acc : Acc) (l : Leaf) : State × Option DWord :=
  if fld l.value 8 2 = 0 then setAccessed s who acc l else (s, some l.value)

/-- WALK_COMPLETE: a walk ends: it succeeds and sets A and D, or fails, which the access that comes back finds and reports; a leaf that has
changed sends it back to the start; a stale one installs nothing, and its accesses start again (R21, R22, R30). -/
def execWalkComplete (s : State) : Host.Outcome State Fault Refusal :=
  let die := s.subj
  match (s.die die).walks with
  | [] => .next s
  | w :: rest =>
    let who : Who := { die := die, world := w.world, region := 0, core := 0x1FF, req := 3, opens := false }
    let env : Env := { region := 0, world := w.world, asn := w.asn, root := w.root, pasid := 0, pairBase := 0, pairSize := 0, wintab := 0 }
    let leave (s : State) : State := (s.updDie die fun d => { d with walks := rest }).push 0 die .walkStart
    match walk who env w.va 4 3 w.root s with
    | (s, .ok l) =>
      if leafPermits l.value w.kind = false then .next (if w.stale then leave s else endWalk (leave s) die w)
      else match walkSets s who w.kind l with
        | (s, some v) => .next (if w.stale then leave s else endWalk (leave (installWalk s die w { l with value := v })) die w)
        | (s, none) => .next (s.push 0 die .walkComplete)
    | _ => .next (if w.stale then leave s else endWalk (leave s) die w)

/-! ### The host's translations (R24) -/

/-- ATS_COMPLETION: the host's answer for a page is cached for the size it gives, at least 4 KiB, for every request of the die and PASID that it
covers (R24). -/
def execAtsCompletion (die pasid addr out sizeLog : Nat) (r w : Bool) (s : State) : Host.Outcome State Fault Refusal :=
  let n := Nat.max 12 sizeLog
  let base := addr / 2 ^ n * 2 ^ n
  let asked (x : Ats) : Bool := decide (x.sizeLog = 0 ∧ x.die = die ∧ x.pasid = pasid ∧ base ≤ x.addr ∧ x.addr < base + 2 ^ n)
  let fill (x : Ats) : Ats := if asked x then { x with addr := base, out := out / 2 ^ n * 2 ^ n, sizeLog := n, r := r, w := w } else x
  .next { s with ats := s.ats.map fill }

/-- ATS_INVALIDATE: the host invalidates an address range, as a HOST invalidation does; its completion answers with the tag (R24, R30). -/
def execAtsInvalidate (addr len tag : Nat) (s : State) : Host.Outcome State Fault Refusal :=
  .next (startInval s { kind := 5, world := 0, anyWorld := true, asn := 0, addr := addr, len := len, region := 0, window := 0 } none false (some tag))

end Sys2Proof.Machine
end

