-- ==== Sys2Proof/Machine/Dispatch.lean ====
section
/-! DEFINITION. One arm for each instruction: the meaning each names. -/

namespace Sys2Proof.Machine

def exec (i : Instr) (s : State) : Host.Outcome State Fault Refusal :=
  match i with
  | .add d a b w => Sys2Proof.Machine.execAdd d a b w s
  | .sub d a b w => Sys2Proof.Machine.execSub d a b w s
  | .mul d a b w => Sys2Proof.Machine.execMul d a b w s
  | .mulh d a b w => Sys2Proof.Machine.execMulh d a b w s
  | .mulhu d a b w => Sys2Proof.Machine.execMulhu d a b w s
  | .div d a b w => Sys2Proof.Machine.execDiv d a b w s
  | .divu d a b w => Sys2Proof.Machine.execDivu d a b w s
  | .rem d a b w => Sys2Proof.Machine.execRem d a b w s
  | .remu d a b w => Sys2Proof.Machine.execRemu d a b w s
  | .shl d a b w => Sys2Proof.Machine.execShl d a b w s
  | .shr d a b w => Sys2Proof.Machine.execShr d a b w s
  | .sra d a b w => Sys2Proof.Machine.execSra d a b w s
  | .ror d a b w => Sys2Proof.Machine.execRor d a b w s
  | .min d a b w => Sys2Proof.Machine.execMin d a b w s
  | .max d a b w => Sys2Proof.Machine.execMax d a b w s
  | .minu d a b w => Sys2Proof.Machine.execMinu d a b w s
  | .maxu d a b w => Sys2Proof.Machine.execMaxu d a b w s
  | .seq d a b w => Sys2Proof.Machine.execSeq d a b w s
  | .sne d a b w => Sys2Proof.Machine.execSne d a b w s
  | .slt d a b w => Sys2Proof.Machine.execSlt d a b w s
  | .sltu d a b w => Sys2Proof.Machine.execSltu d a b w s
  | .and d a b => Sys2Proof.Machine.execAnd d a b s
  | .or d a b => Sys2Proof.Machine.execOr d a b s
  | .xor d a b => Sys2Proof.Machine.execXor d a b s
  | .andn d a b => Sys2Proof.Machine.execAndn d a b s
  | .bset d a b => Sys2Proof.Machine.execBset d a b s
  | .bclr d a b => Sys2Proof.Machine.execBclr d a b s
  | .addi d a imm => Sys2Proof.Machine.execAddi d a imm s
  | .andi d a imm => Sys2Proof.Machine.execAndi d a imm s
  | .ori d a imm => Sys2Proof.Machine.execOri d a imm s
  | .xori d a imm => Sys2Proof.Machine.execXori d a imm s
  | .slti d a imm => Sys2Proof.Machine.execSlti d a imm s
  | .shli d a n w => Sys2Proof.Machine.execShli d a n w s
  | .shri d a n w => Sys2Proof.Machine.execShri d a n w s
  | .srai d a n w => Sys2Proof.Machine.execSrai d a n w s
  | .clz d a w => Sys2Proof.Machine.execClz d a w s
  | .ctz d a w => Sys2Proof.Machine.execCtz d a w s
  | .popc d a w => Sys2Proof.Machine.execPopc d a w s
  | .madd d a b c => Sys2Proof.Machine.execMadd d a b c s
  | .sel d a b c => Sys2Proof.Machine.execSel d a b c s
  | .ext d a pos lenM1 => Sys2Proof.Machine.execExt d a pos lenM1 s
  | .extu d a pos lenM1 => Sys2Proof.Machine.execExtu d a pos lenM1 s
  | .ins d a pos lenM1 => Sys2Proof.Machine.execIns d a pos lenM1 s
  | .movi d imm => Sys2Proof.Machine.execMovi d imm s
  | .movk d k imm => Sys2Proof.Machine.execMovk d k imm s
  | .lea d a b n => Sys2Proof.Machine.execLea d a b n s
  | .fadd d a b fmt rc => Sys2Proof.Machine.execFadd d a b fmt rc s
  | .fsub d a b fmt rc => Sys2Proof.Machine.execFsub d a b fmt rc s
  | .fmul d a b fmt rc => Sys2Proof.Machine.execFmul d a b fmt rc s
  | .ffma d a b fmt rc => Sys2Proof.Machine.execFfma d a b fmt rc s
  | .fmin d a b fmt => Sys2Proof.Machine.execFmin d a b fmt s
  | .fmax d a b fmt => Sys2Proof.Machine.execFmax d a b fmt s
  | .feq d a b fmt => Sys2Proof.Machine.execFeq d a b fmt s
  | .flt d a b fmt => Sys2Proof.Machine.execFlt d a b fmt s
  | .fle d a b fmt => Sys2Proof.Machine.execFle d a b fmt s
  | .fcvt d a dst fmt rc => Sys2Proof.Machine.execFcvt d a dst fmt rc s
  | .ftoi d a u w fmt rc => Sys2Proof.Machine.execFtoi d a u w fmt rc s
  | .itof d a u w fmt rc => Sys2Proof.Machine.execItof d a u w fmt rc s
  | .fsgn d a b fmt op => Sys2Proof.Machine.execFsgn d a b fmt op s
  | .fclass d a fmt => Sys2Proof.Machine.execFclass d a fmt s
  | .ld d a size u off => Sys2Proof.Machine.execLd d a size u off s
  | .st b a size off => Sys2Proof.Machine.execSt b a size off s
  | .ldx d a b size u n => Sys2Proof.Machine.execLdx d a b size u n s
  | .stx c a b size n => Sys2Proof.Machine.execStx c a b size n s
  | .amoadd d a b sc dw => Sys2Proof.Machine.execAmoadd d a b sc dw s
  | .amoand d a b sc dw => Sys2Proof.Machine.execAmoand d a b sc dw s
  | .amoor d a b sc dw => Sys2Proof.Machine.execAmoor d a b sc dw s
  | .amoxor d a b sc dw => Sys2Proof.Machine.execAmoxor d a b sc dw s
  | .amoswap d a b sc dw => Sys2Proof.Machine.execAmoswap d a b sc dw s
  | .amocas d a b sc dw => Sys2Proof.Machine.execAmocas d a b sc dw s
  | .amomin d a b sc dw u => Sys2Proof.Machine.execAmomin d a b sc dw u s
  | .amomax d a b sc dw u => Sys2Proof.Machine.execAmomax d a b sc dw u s
  | .amofmax d a b sc => Sys2Proof.Machine.execAmofmax d a b sc s
  | .amofadd d a b sc => Sys2Proof.Machine.execAmofadd d a b sc s
  | .hset hd a f => Sys2Proof.Machine.execHset hd a f s
  | .hget d ha f => Sys2Proof.Machine.execHget d ha f s
  | .hadv hd ha b => Sys2Proof.Machine.execHadv hd ha b s
  | .hdim hd a b k => Sys2Proof.Machine.execHdim hd a b k s
  | .br cond a b off => Sys2Proof.Machine.execBr cond a b off s
  | .jmp off => Sys2Proof.Machine.execJmp off s
  | .jr a => Sys2Proof.Machine.execJr a s
  | .call off => Sys2Proof.Machine.execCall off s
  | .callr a => Sys2Proof.Machine.execCallr a s
  | .loop a sreg nM1 endOff => Sys2Proof.Machine.execLoop a sreg nM1 endOff s
  | .loopi cnt endOff => Sys2Proof.Machine.execLoopi cnt endOff s
  | .lbrk kM1 => Sys2Proof.Machine.execLbrk kM1 s
  | .waitc nl ns nx nm => Sys2Proof.Machine.execWaitc nl ns nx nm s
  | .waitb n => Sys2Proof.Machine.execWaitb n s
  | .phase sc m p => Sys2Proof.Machine.execPhase sc m p s
  | .fence sc => Sys2Proof.Machine.execFence sc s
  | .bar n v => Sys2Proof.Machine.execBar n v s
  | .arm n c nv node => Sys2Proof.Machine.execArm n c nv node s
  | .bwait n => Sys2Proof.Machine.execBwait n s
  | .bwaitTry n d => Sys2Proof.Machine.execBwaitTry n d s
  | .spawn d t g => Sys2Proof.Machine.execSpawn d t g s
  | .grow d k => Sys2Proof.Machine.execGrow d k s
  | .close d g => Sys2Proof.Machine.execClose d g s
  | .enq d q v => Sys2Proof.Machine.execEnq d q v s
  | .deq d q e => Sys2Proof.Machine.execDeq d q e s
  | .trap code => Sys2Proof.Machine.execTrap code s
  | .sys code => Sys2Proof.Machine.execSys code s
  | .crr d num => Sys2Proof.Machine.execCrr d num s
  | .crw a num => Sys2Proof.Machine.execCrw a num s
  | .fqpop a => Sys2Proof.Machine.execFqpop a s
  | .bkpt code => Sys2Proof.Machine.execBkpt code s
  | .setstep slot k a => Sys2Proof.Machine.execSetstep slot k a s
  | .tlbiPage a b => Sys2Proof.Machine.execTlbiPage a b s
  | .tlbiAsn a b => Sys2Proof.Machine.execTlbiAsn a b s
  | .tlbiWindow a => Sys2Proof.Machine.execTlbiWindow a s
  | .tlbiHost a b => Sys2Proof.Machine.execTlbiHost a b s
  | .mma t ha hb fp ka kb row0 col0 => Sys2Proof.Machine.execMma t ha hb fp ka kb row0 col0 s
  | .mmax t ha hb fp ka kb row0 col0 => Sys2Proof.Machine.execMmax t ha hb fp ka kb row0 col0 s
  | .mmaq t ha hb z ka kb row0 col0 => Sys2Proof.Machine.execMmaq t ha hb z ka kb row0 col0 s
  | .mzero mask => Sys2Proof.Machine.execMzero mask s
  | .mrank t k dir => Sys2Proof.Machine.execMrank t k dir s
  | .mkat q sum => Sys2Proof.Machine.execMkat q sum s
  | .mpop b n => Sys2Proof.Machine.execMpop b n s
  | .maddt t u ib => Sys2Proof.Machine.execMaddt t u ib s
  | .mcopy t u => Sys2Proof.Machine.execMcopy t u s
  | .mthr d t first cntM1 => Sys2Proof.Machine.execMthr d t first cntM1 s
  | .vadd hd ha b rc bs => Sys2Proof.Machine.execVadd hd ha b rc bs s
  | .vsub hd ha b rc bs => Sys2Proof.Machine.execVsub hd ha b rc bs s
  | .vmul hd ha b rc bs => Sys2Proof.Machine.execVmul hd ha b rc bs s
  | .vfma hd ha b rc bs => Sys2Proof.Machine.execVfma hd ha b rc bs s
  | .vmin hd ha b rc bs => Sys2Proof.Machine.execVmin hd ha b rc bs s
  | .vmax hd ha b rc bs => Sys2Proof.Machine.execVmax hd ha b rc bs s
  | .vabs hd ha rc => Sys2Proof.Machine.execVabs hd ha rc s
  | .vneg hd ha rc => Sys2Proof.Machine.execVneg hd ha rc s
  | .vrcp hd ha rc => Sys2Proof.Machine.execVrcp hd ha rc s
  | .vrsq hd ha rc => Sys2Proof.Machine.execVrsq hd ha rc s
  | .vlog2 hd ha rc => Sys2Proof.Machine.execVlog2 hd ha rc s
  | .vexp hd ha rc base2 => Sys2Proof.Machine.execVexp hd ha rc base2 s
  | .vtblLoad ha t => Sys2Proof.Machine.execVtblLoad ha t s
  | .vtbl hd ha t rc => Sys2Proof.Machine.execVtbl hd ha t rc s
  | .vcmp hd ha hb cond => Sys2Proof.Machine.execVcmp hd ha hb cond s
  | .vsel hd ha hb rc hm => Sys2Proof.Machine.execVsel hd ha hb rc hm s
  | .vcvt hd ha rc sat => Sys2Proof.Machine.execVcvt hd ha rc sat s
  | .vred hd ha rc op => Sys2Proof.Machine.execVred hd ha rc op s
  | .vamax hd ha => Sys2Proof.Machine.execVamax hd ha s
  | .vscan hd ha rc ex => Sys2Proof.Machine.execVscan hd ha rc ex s
  | .vpush hd ha hb sc => Sys2Proof.Machine.execVpush hd ha hb sc s
  | .vpop hd ha hb sc => Sys2Proof.Machine.execVpop hd ha hb sc s
  | .vhist hd ha clr => Sys2Proof.Machine.execVhist hd ha clr s
  | .viota hd b rc => Sys2Proof.Machine.execViota hd b rc s
  | .vmov hd ha => Sys2Proof.Machine.execVmov hd ha s
  | .vmovScalar hd b => Sys2Proof.Machine.execVmovScalar hd b s
  | .vshuf hd ha hb => Sys2Proof.Machine.execVshuf hd ha hb s
  | .ppack hd ha rc sat => Sys2Proof.Machine.execPpack hd ha rc sat s
  | .punpk hd ha => Sys2Proof.Machine.execPunpk hd ha s
  | .pscale hd ha sc rc => Sys2Proof.Machine.execPscale hd ha sc rc s
  | .pqnt hd ha sc rc sat => Sys2Proof.Machine.execPqnt hd ha sc rc sat s
  | .pdq hd ha rc => Sys2Proof.Machine.execPdq hd ha rc s
  | .ptrn hd ha w32 => Sys2Proof.Machine.execPtrn hd ha w32 s
  | .pbcast hd ha => Sys2Proof.Machine.execPbcast hd ha s
  | .pperm hd ha sc => Sys2Proof.Machine.execPperm hd ha sc s
  | .sldt a => Sys2Proof.Machine.execSldt a s
  | .sldb a => Sys2Proof.Machine.execSldb a s
  | .sseti t byte => Sys2Proof.Machine.execSseti t byte s
  | .smode m => Sys2Proof.Machine.execSmode m s
  | .cpy hd ha c sc ct tgt => Sys2Proof.Machine.execCpy hd ha c sc ct tgt s
  | .cpym hd ha c sc ct tgt => Sys2Proof.Machine.execCpym hd ha c sc ct tgt s
  | .cpys hd ha c sc ct tgt => Sys2Proof.Machine.execCpys hd ha c sc ct tgt s
  | .gath hd ha c sc ct tgt => Sys2Proof.Machine.execGath hd ha c sc ct tgt s
  | .scat hd ha c sc ct tgt => Sys2Proof.Machine.execScat hd ha c sc ct tgt s
  | .drain hd t c sc ct tgt => Sys2Proof.Machine.execDrain hd t c sc ct tgt s
  | .drainkSel hd t c sc ct tgt => Sys2Proof.Machine.execDrainkSel hd t c sc ct tgt s
  | .drainkMerge u t c sc => Sys2Proof.Machine.execDrainkMerge u t c sc s
  | .rst hd ha c sc ct tgt => Sys2Proof.Machine.execRst hd ha c sc ct tgt s
  | .rld hd ha c sc ct tgt => Sys2Proof.Machine.execRld hd ha c sc ct tgt s
  | .ramo hd ha c sc ct tgt => Sys2Proof.Machine.execRamo hd ha c sc ct tgt s
  | .rred hd ha c sc ct tgt => Sys2Proof.Machine.execRred hd ha c sc ct tgt s
  | .rmcast hd ha c sc ct tgt => Sys2Proof.Machine.execRmcast hd ha c sc ct tgt s
  | .rmergeCx hd t c sc ct tgt => Sys2Proof.Machine.execRmergeCx hd t c sc ct tgt s
  | .rmergeSw hd t c sc => Sys2Proof.Machine.execRmergeSw hd t c sc s
  | .cntx hd ha c sc ct tgt => Sys2Proof.Machine.execCntx hd ha c sc ct tgt s
  | .disp hd ha c sc ct tgt => Sys2Proof.Machine.execDisp hd ha c sc ct tgt s
  | .post n a => Sys2Proof.Machine.execPost n a s
  | .xcanCancel d a => Sys2Proof.Machine.execXcanCancel d a s
  | .xcanReplay d a => Sys2Proof.Machine.execXcanReplay d a s
  | .xcanAll d => Sys2Proof.Machine.execXcanAll d s
  | .xstatId d a => Sys2Proof.Machine.execXstatId d a s
  | .xstatLast d a => Sys2Proof.Machine.execXstatLast d a s
  | .ringClaim ctx buf => Sys2Proof.Machine.execRingClaim ctx buf s
  | .ringSlotLanded ctx buf ringSlot => Sys2Proof.Machine.execRingSlotLanded ctx buf ringSlot s
  | .commandFault ctx entry => Sys2Proof.Machine.execCommandFault ctx entry s
  | .commandComplete ctx entry => Sys2Proof.Machine.execCommandComplete ctx entry s
  | .bankDrowsy core bank => Sys2Proof.Machine.execBankDrowsy core bank s
  | .bankWake core bank => Sys2Proof.Machine.execBankWake core bank s
  | .quadrantGate core quad => Sys2Proof.Machine.execQuadrantGate core quad s
  | .quadrantClear core quad => Sys2Proof.Machine.execQuadrantClear core quad s
  | .atsCompletion die pasid addr out sizeLog r w => Sys2Proof.Machine.execAtsCompletion die pasid addr out sizeLog r w s
  | .atsInvalidate addr len tag => Sys2Proof.Machine.execAtsInvalidate addr len tag s
  | .remoteRetryTimeout req attempt => Sys2Proof.Machine.execRemoteRetryTimeout req attempt s
  | .remoteCompletionReceive pkg t => Sys2Proof.Machine.execRemoteCompletionReceive pkg t s
  | .remoteRequestReceive port t => Sys2Proof.Machine.execRemoteRequestReceive port t s
  | .remotePerform conn seq => Sys2Proof.Machine.execRemotePerform conn seq s
  | .destTimeout job rank => Sys2Proof.Machine.execDestTimeout job rank s
  | .rankEntryWrite job rank d0 d1 => Sys2Proof.Machine.execRankEntryWrite job rank d0 d1 s
  | .connopen port pkg t => Sys2Proof.Machine.execConnopen port pkg t s
  | .connack pkg t => Sys2Proof.Machine.execConnack pkg t s
  | .connnak pkg t => Sys2Proof.Machine.execConnnak pkg t s
  | .connclose pkg t => Sys2Proof.Machine.execConnclose pkg t s
  | .connopenTimeout conn attempt => Sys2Proof.Machine.execConnopenTimeout conn attempt s
  | .flitReceive port bytes => Sys2Proof.Machine.execFlitReceive port bytes s
  | .ackFlit port bytes => Sys2Proof.Machine.execAckFlit port bytes s
  | .laneTrained port lanes => Sys2Proof.Machine.execLaneTrained port lanes s
  | .linkcap port bytes => Sys2Proof.Machine.execLinkcap port bytes s
  | .contributionReceive conn seq => Sys2Proof.Machine.execContributionReceive conn seq s
  | .parentNotice key t => Sys2Proof.Machine.execParentNotice key t s
  | .noticeReceive conn t => Sys2Proof.Machine.execNoticeReceive conn t s
  | .launch src packet => Sys2Proof.Machine.execLaunch src packet s
  | .taskFault ctx cause detail => Sys2Proof.Machine.execTaskFault ctx cause detail s
  | .nodeDecrement region node => Sys2Proof.Machine.execNodeDecrement region node s
  | .switchRequest core why => Sys2Proof.Machine.execSwitchRequest core why s
  | .resume ctx core => Sys2Proof.Machine.execResume ctx core s
  | .ueAbortReceive ctx entry => Sys2Proof.Machine.execUeAbortReceive ctx entry s
  | .frameEdge core frame => Sys2Proof.Machine.execFrameEdge core frame s
  | .hbmRead line rq core => Sys2Proof.Machine.execHbmRead line rq core s
  | .entropyReseed ok => Sys2Proof.Machine.execEntropyReseed ok s
  | .crDoorbell tail => Sys2Proof.Machine.execCrDoorbell tail s
  | .lqDoorbell q tail => Sys2Proof.Machine.execLqDoorbell q tail s
  | .lqctlWrite q v => Sys2Proof.Machine.execLqctlWrite q v s
  | .midxRead v => Sys2Proof.Machine.execMidxRead v s
  | .midxWrite v => Sys2Proof.Machine.execMidxWrite v s
  | .dieenWrite die v => Sys2Proof.Machine.execDieenWrite die v s
  | .fwdbaseWrite v => Sys2Proof.Machine.execFwdbaseWrite v s
  | .portcfgWrite port v => Sys2Proof.Machine.execPortcfgWrite port v s
  | .registerWrite off v => Sys2Proof.Machine.execRegisterWrite off v s
  | .nopAlu => Sys2Proof.Machine.execNopAlu s
  | .nopCtl => Sys2Proof.Machine.execNopCtl s
  | .ret => Sys2Proof.Machine.execRet s
  | .done => Sys2Proof.Machine.execDone s
  | .eret => Sys2Proof.Machine.execEret s
  | .yield => Sys2Proof.Machine.execYield s
  | .tlbiWorld => Sys2Proof.Machine.execTlbiWorld s
  | .tlbiWindows => Sys2Proof.Machine.execTlbiWindows s
  | .halt => Sys2Proof.Machine.execHalt s
  | .nopMat => Sys2Proof.Machine.execNopMat s
  | .mcommit => Sys2Proof.Machine.execMcommit s
  | .nopVec => Sys2Proof.Machine.execNopVec s
  | .nopPrm => Sys2Proof.Machine.execNopPrm s
  | .nopScl => Sys2Proof.Machine.execNopScl s
  | .nopXfr => Sys2Proof.Machine.execNopXfr s
  | .powerUp => Sys2Proof.Machine.execPowerUp s
  | .geckoMismatch => Sys2Proof.Machine.execGeckoMismatch s
  | .bundleIssue => Sys2Proof.Machine.execBundleIssue s
  | .engineFault => Sys2Proof.Machine.execEngineFault s
  | .loadReturn => Sys2Proof.Machine.execLoadReturn s
  | .atomicComplete => Sys2Proof.Machine.execAtomicComplete s
  | .phaseReleaseDone => Sys2Proof.Machine.execPhaseReleaseDone s
  | .fenceSatisfied => Sys2Proof.Machine.execFenceSatisfied s
  | .taskFinish => Sys2Proof.Machine.execTaskFinish s
  | .invalidationComplete => Sys2Proof.Machine.execInvalidationComplete s
  | .matrixRetire => Sys2Proof.Machine.execMatrixRetire s
  | .vecComplete => Sys2Proof.Machine.execVecComplete s
  | .prmWrite => Sys2Proof.Machine.execPrmWrite s
  | .scaleWrite => Sys2Proof.Machine.execScaleWrite s
  | .commandStart => Sys2Proof.Machine.execCommandStart s
  | .walkStart => Sys2Proof.Machine.execWalkStart s
  | .walkComplete => Sys2Proof.Machine.execWalkComplete s
  | .releaseAccepted => Sys2Proof.Machine.execReleaseAccepted s
  | .releaseComplete => Sys2Proof.Machine.execReleaseComplete s
  | .remoteRequestSend => Sys2Proof.Machine.execRemoteRequestSend s
  | .lifetimeExpiry => Sys2Proof.Machine.execLifetimeExpiry s
  | .connIdleClose => Sys2Proof.Machine.execConnIdleClose s
  | .contextFetch => Sys2Proof.Machine.execContextFetch s
  | .ackSendTimer => Sys2Proof.Machine.execAckSendTimer s
  | .replayTimeout => Sys2Proof.Machine.execReplayTimeout s
  | .linkUnackTimeout => Sys2Proof.Machine.execLinkUnackTimeout s
  | .retrain => Sys2Proof.Machine.execRetrain s
  | .linkcapTimeout => Sys2Proof.Machine.execLinkcapTimeout s
  | .portTrainTimeout => Sys2Proof.Machine.execPortTrainTimeout s
  | .contributionApply => Sys2Proof.Machine.execContributionApply s
  | .reductionTimeout => Sys2Proof.Machine.execReductionTimeout s
  | .combineDone => Sys2Proof.Machine.execCombineDone s
  | .resultWriteDone => Sys2Proof.Machine.execResultWriteDone s
  | .noticeAcked => Sys2Proof.Machine.execNoticeAcked s
  | .forwardNoticeTimeout => Sys2Proof.Machine.execForwardNoticeTimeout s
  | .tombExpire => Sys2Proof.Machine.execTombExpire s
  | .contributionTimeout => Sys2Proof.Machine.execContributionTimeout s
  | .arbiterChoice => Sys2Proof.Machine.execArbiterChoice s
  | .taskStart => Sys2Proof.Machine.execTaskStart s
  | .preemptRequest => Sys2Proof.Machine.execPreemptRequest s
  | .budgetPeriod => Sys2Proof.Machine.execBudgetPeriod s
  | .dieLinkFail => Sys2Proof.Machine.execDieLinkFail s
  | .quiesceDone => Sys2Proof.Machine.execQuiesceDone s
  | .saveDone => Sys2Proof.Machine.execSaveDone s
  | .blockSaved => Sys2Proof.Machine.execBlockSaved s
  | .divertedAccess => Sys2Proof.Machine.execDivertedAccess s
  | .diversionFetch => Sys2Proof.Machine.execDiversionFetch s
  | .blockRestored => Sys2Proof.Machine.execBlockRestored s
  | .restoreDone => Sys2Proof.Machine.execRestoreDone s
  | .debugHalt => Sys2Proof.Machine.execDebugHalt s
  | .debugStepEnd => Sys2Proof.Machine.execDebugStepEnd s
  | .frameCycleBoundary => Sys2Proof.Machine.execFrameCycleBoundary s
  | .frameSwitchRequest => Sys2Proof.Machine.execFrameSwitchRequest s
  | .coreClearDone => Sys2Proof.Machine.execCoreClearDone s
  | .scrubRead => Sys2Proof.Machine.execScrubRead s
  | .selftestRun => Sys2Proof.Machine.execSelftestRun s
  | .selftestDone => Sys2Proof.Machine.execSelftestDone s
  | .entropyFailure => Sys2Proof.Machine.execEntropyFailure s
  | .keyex => Sys2Proof.Machine.execKeyex s
  | .resync => Sys2Proof.Machine.execResync s
  | .rekey => Sys2Proof.Machine.execRekey s
  | .attest => Sys2Proof.Machine.execAttest s
  | .svnraise => Sys2Proof.Machine.execSvnraise s
  | .createworld => Sys2Proof.Machine.execCreateworld s
  | .destroyworld => Sys2Proof.Machine.execDestroyworld s
  | .setrange => Sys2Proof.Machine.execSetrange s
  | .setframes => Sys2Proof.Machine.execSetframes s
  | .keyimport => Sys2Proof.Machine.execKeyimport s
  | .jobkey => Sys2Proof.Machine.execJobkey s
  | .regionCreate => Sys2Proof.Machine.execRegionCreate s
  | .regionRefresh => Sys2Proof.Machine.execRegionRefresh s
  | .regionDestroy => Sys2Proof.Machine.execRegionDestroy s
  | .inval => Sys2Proof.Machine.execInval s
  | .preempt => Sys2Proof.Machine.execPreempt s
  | .corestatFenceWrite => Sys2Proof.Machine.execCorestatFenceWrite s
  | .corestatFreqWrite => Sys2Proof.Machine.execCorestatFreqWrite s
  | .msixUnmask => Sys2Proof.Machine.execMsixUnmask s
  | .powerRemoved => Sys2Proof.Machine.execPowerRemoved s
  | .linkcapResend => Sys2Proof.Machine.execLinkcapResend s
  | .hbmRefresh => Sys2Proof.Machine.execHbmRefresh s
  | .dieLinkRetrain => Sys2Proof.Machine.execDieLinkRetrain s
  | .pseudoChannelFail => Sys2Proof.Machine.execPseudoChannelFail s

end Sys2Proof.Machine
end

