-- ==== Sys2Proof/Machine/Step.lean ====
section
/-! DEFINITION. One step of the package, and a state whose next step runs a given bundle. -/

namespace Sys2Proof.Machine

/-- An outcome with a table access outside HBM turned into its fault. -/
def checked (o : Host.Outcome State Fault Refusal) : Host.Outcome State Fault Refusal :=
  match o with
  | .next s => fin s
  | r => r

/-- What one choice does: time passes, a core issues, or a step that is due happens. -/
def stepBy (ch : Choice) (s : State) : Host.Outcome State Fault Refusal :=
  match ch with
  | .idle => .next s.passTime
  | .issue k => checked (exec .bundleIssue { s with subj := k })
  | .due n => match s.agenda[n]? with
    | none => .next s
    | some (_, u, i) => checked (exec i { s with agenda := s.agenda.eraseIdx n, subj := u })

/-- One step: what Sched picks happens. -/
def step (s : State) : Host.Outcome State Fault Refusal := stepBy s.pick.1 s.pick.2

/-- The page that `withFetchWord` maps, at its own physical address. -/
def fetchBase : Nat := 0x10000

/-- A ready package whose only task stands on core 0 at the bundle with bits `w`, with nothing else to happen first: what a loader or the
arbiter brings about (notes/assumptions/11). The bundle's page is in the core's translation cache. -/
def State.withFetchWord (s : State) (nbits w : Nat) : State :=
  let who : TaskId := { region := 0, world := 0, grid := 0, index := 0, xy := 0, z := 0, arg := 0 }
  let leaf : Tlb := { site := 0, world := 0, asn := (s.envOf 0).asn, va := 1, level := 0, leaf := 0x100DF, addr := 0 }
  let core : Core := { Core.reset with ctx := some 0, banks := (List.range 32).map (fun b => (b, Bank.active s.now)) }
  let lines : List Nat := [1024, 1025]
  { s with
    agenda := []
    issue := Issue.idle
    bad := none
    power := true
    mem := Memory.putAll s.mem fetchBase ((wordsOfNumber nbits w).flatMap (leBytes 4))
    keyed := lines.foldl Tab.del s.keyed
    lineErr := lines.foldl Tab.del s.lineErr
    pchs := []
    linksDown := []
    cores := [(0, core)]
    ctxs := s.ctxs.set 0 { Ctx.start who 0 fetchBase (.resident 0) 0 none with since := s.now, seenAt := s.now }
    tlbs := leaf :: s.tlbs
    gecko := { s.gecko with worlds := [] }
    arb := { s.arb with nextCtx := Nat.max s.arb.nextCtx 1 }
    host := { s.host with phase := 6 } }

end Sys2Proof.Machine
end

