-- ==== Sys2Proof/Safety.lean ====
section
/-! DEFINITION. The terms in which claims are stated: a task whose slot instruction acts, what an instruction leaves of its task and of
the package, the invariants. -/

namespace Sys2Proof.Machine

/-- Task `id`, whose context is `c`, stands on the core whose slot instruction is read, and no slot of the bundle has trapped, stalled or
asked for a transfer. It holds both inside a bundle being issued and for an instruction that stands alone. -/
def State.Acting (s : State) (id : Nat) (c : Ctx) : Prop :=
  s.cid = some id ∧ s.ctx id = some c ∧ s.issue.trap = none ∧ s.issue.goto = none ∧ s.issue.stall = false ∧ s.issue.sent = false

/-- As `Acting`, with no bundle being issued, so that the instruction's bundle ends with it. -/
def State.Alone (s : State) (id : Nat) (c : Ctx) : Prop := s.Acting id c ∧ s.issue.on = false ∧ s.issue.src = none

/-- As `Acting`, for a slot that reads the task as it now is: one that stands alone, or the first of its bundle to act. Nothing has been asked of a
sleeping bank. -/
def State.Sees (s : State) (id : Nat) (c : Ctx) : Prop := s.Acting id c ∧ s.was c = c ∧ s.issue.wakes = []

/-- The registers a task goes on with: the pc moves to the next bundle, unless the bundle is still being issued. -/
def State.after (s : State) (r : Regs) : Regs := if s.issue.on then r else { r with pc := r.pc + s.issue.len }

/-- The state in which nothing but the registers of one task differ: they become `r`, and the pc moves on. -/
def State.ends (s : State) (id : Nat) (c : Ctx) (r : Regs) : State := s.setCtx id { c with regs := s.after r }

/-- The state after an instruction that cannot be accepted: its bundle stalls, and nothing else happens (R237). -/
def State.stalls (s : State) : State := if s.issue.on then { s with issue := { s.issue with stall := true } } else s

/-- The state after an instruction that takes a precise trap: at once, or, while the bundle is being issued, once the bundle is done (R284). -/
def State.traps (s : State) (id cause addr : Nat) (detail : DWord) : State :=
  let t : Trap := { cause := cause, addr := addr, detail := detail, slot := s.issue.slot, straddle := false }
  if s.issue.on then { s with issue := { s.issue with trap := some t } } else takeTrap s id t

/-- Keys strictly rising: the form that the tables of a state have (State.lean). -/
def Tab.rising {α : Type} (t : Tab α) : Prop := t.Pairwise (fun p q => p.1 < q.1)

/-- A step that stands in the agenda for a subject. -/
def State.due (s : State) (subj : Nat) (i : Instr) : Prop := ∃ at_, (at_, subj, i) ∈ s.agenda

/-- No table access has failed, and the error log of die `d` lies in HBM wherever a record of it may go. -/
def State.logSafe (s : State) (d : Nat) : Prop := s.bad = none ∧ (s.die d).logbase + 32 * 2 ^ ((s.die d).loglog + 8) ≤ 2 ^ 39

/-- No table access has failed, and the RCB, the event queue and the grid table of region `r` lie in HBM. -/
def State.tablesSafe (s : State) (r : Nat) : Prop :=
  s.bad = none ∧ s.rcbAddr r + 192 ≤ 2 ^ 39 ∧ (∀ g, g < 256 → s.gridAddr r g + 128 ≤ 2 ^ 39) ∧
    fld (s.rcb r 10) 4 36 * 16 + 16 * 2 ^ (fld (s.rcb r 10) 0 4 + 6) ≤ 2 ^ 39

/-- The diversion table of each compute die lies in HBM as far as it has entries. -/
def State.divSafe (s : State) : Prop := ∀ d, d < 4 → (s.die d).divspill + 32 * (s.die d).div.length ≤ 2 ^ 39

/-- The diversion table of each compute die lies in HBM with room for `n` more entries, apart from a context's image. -/
def State.divApart (s : State) (c : Ctx) (n : Nat) : Prop := ∀ d, d < 4 →
  let lo := (s.die d).divspill
  let hi := lo + 32 * ((s.die d).div.length + n)
  hi ≤ 2 ^ 39 ∧ (hi + 64 ≤ s.imageBase c ∨ s.imageBase c + 0xA00000 + 64 ≤ lo)

/-- An address whose line holds no diversion entry of a compute die. -/
def State.divClear (s : State) (a : Nat) : Prop := ∀ d, d < 4 →
  a + 64 ≤ (s.die d).divspill ∨ (s.die d).divspill + 32 * (s.die d).div.length + 64 ≤ a

/-- The command ring and the response ring lie in HBM, and no table access has failed. -/
def State.ringSafe (s : State) : Prop :=
  s.bad = none ∧ fld s.host.crbase 13 27 * 2 ^ 13 + 8192 * 2 ^ s.host.crslot ≤ 2 ^ 39 ∧
    fld s.host.crresp 13 27 * 2 ^ 13 + 8192 * 2 ^ s.host.crslot ≤ 2 ^ 39

/-- The package is ready, `k` is the one command on its ring, and it is to be performed by `i`. -/
def State.ringRuns (s : State) (k : RingCmd) (i : Instr) : Prop :=
  s.host.phase = 6 ∧ s.ringSafe ∧ s.host.crhead ≠ s.host.crtail ∧ (s.host.crhead + 1) % 2 ^ 32 = s.host.crtail ∧ ringHead s = some (s, k) ∧
    ringJudge s.gecko k = .perform i

/-- The state with the command's place in the ring's order passed (R425). -/
def State.counted (s : State) : State := { s with gecko := s.gecko.next }

/-- The state in which only scalar register `d` of one task has a new value and its pc has moved on. -/
def State.result (s : State) (id : Nat) (c : Ctx) (d : BitVec 6) (v : DWord) : State := s.ends id c (c.regs.setS d v)

/-- The state in which one task's registers are `r` and control goes to `a`: at once, or, while the bundle is being issued, once it ends. -/
def State.goes (s : State) (id : Nat) (c : Ctx) (r : Regs) (a : Nat) : State :=
  if s.issue.on then { s.setCtx id { c with regs := r } with issue := { s.issue with goto := some a, noEdge := true } }
  else s.setCtx id { c with regs := { r with pc := a } }

/-- The state after an instruction that writes nothing: the pc moves to the next bundle, unless the bundle is still being issued. -/
def State.passes (s : State) (id : Nat) (c : Ctx) : State :=
  if s.issue.on then s else s.setCtx id { c with regs := { c.regs with pc := c.regs.pc + s.issue.len } }

/-- The state after a transfer to `a` that writes no register: at once, or once the bundle ends. -/
def State.jumps (s : State) (id : Nat) (c : Ctx) (a : Nat) : State :=
  if s.issue.on then { s with issue := { s.issue with goto := some a, noEdge := true } }
  else s.setCtx id { c with regs := { c.regs with pc := a } }

/-- A scalar access of a task at `ea` translates to place `p`, and its home will admit it; the checks leave state `s1`, in which the task
and the issue are as they were (R38, R416, R420). `opens` tells whether the access opens CODE ranges. -/
def State.accessOk (s : State) (id : Nat) (c : Ctx) (opens : Bool) (acc : Acc) (ea n : Nat) (p : Place) (s1 : State) : Prop :=
  ∃ s0, translate s (s.whoTask c 0 opens) (s.envTask c) acc ea n = (s0, .ok p) ∧
    homeAdmits s0 (s.whoTask c 0 opens) (s0.envTask c) acc p = (s1, .ok ()) ∧ s1.ctx id = some c ∧ s1.issue = s.issue

/-- A 64-bit result, or the sign extension of the low word of it (R286). -/
def asWord (w : Bool) (v : DWord) : DWord := if w then (v.setWidth 32).signExtend 64 else v

/-- The state after a floating operation of one task: the exact value `v` rounded once to the format `f` in mode `m` is in register `d`, the
flags are sticky, and RNGX has stepped when the mode is SR (R175, R176, R179). `given` are the operands. -/
def State.fpEnds (s : State) (id : Nat) (c : Ctx) (f : BitVec 2) (m : Nat) (d : BitVec 6) (v : Val) (given : List Val) : State :=
  let x := if m = 4 then xorshift c.regs.rngx else c.regs.rngx
  let out := (sFmt f).encodeF m true (ftzOf (s.srcRegs c).fpctl) (if m = 4 then drawOf x 0 else 0) v
  let fl : Flags := { out.2 with nv := out.2.nv || (v.isNan && !given.any Val.isNan) }
  s.ends id c (({ c.regs with rngx := x, fpctl := fpFlags c.regs.fpctl fl } : Regs).setS d (BitVec.ofNat 64 out.1))

end Sys2Proof.Machine
end

