-- ==== Sys2Proof/Certificates/Slice0/Obligations.lean ====
section
/-! DEFINITION. The statements for the provers. Each docstring names the rule it formalises. -/

open Sys2Proof Sys2Proof.Machine

/-! ### Integer instructions (R285 to R287) -/

/-- R285, R286: ADD, SUB and MUL write the sum, difference and low product; with W the low word of it, sign-extended.

R285, R286: MULH and MULHU write the high half of the double-width product, of 64-bit values or, with W, of 32-bit values.

R285: the logical operations, MADD, LEA, SEL, MOVI, MOVK and the forms with an immediate, which is sign-extended. -/
def Obligations.IntArithmetic : Prop :=
  (
  ∀ (s : State) (id : Nat) (c : Ctx) (d a b : BitVec 6) (w : Bool), s.Acting id c →
    exec (.add d a b w) s = .next (s.result id c d (asWord w (s.rs c a + s.rs c b))) ∧
    exec (.sub d a b w) s = .next (s.result id c d (asWord w (s.rs c a - s.rs c b))) ∧
    exec (.mul d a b w) s = .next (s.result id c d (asWord w (s.rs c a * s.rs c b)))
  ) ∧
  (
  ∀ (s : State) (id : Nat) (c : Ctx) (d a b : BitVec 6), s.Acting id c →
    let x := s.rs c a
    let y := s.rs c b
    let x32 := x.setWidth 32
    let y32 := y.setWidth 32
    exec (.mulh d a b false) s = .next (s.result id c d (((x.signExtend 128 * y.signExtend 128) >>> 64).setWidth 64)) ∧
    exec (.mulhu d a b false) s = .next (s.result id c d (((x.setWidth 128 * y.setWidth 128) >>> 64).setWidth 64)) ∧
    exec (.mulh d a b true) s
      = .next (s.result id c d ((((x32.signExtend 64 * y32.signExtend 64) >>> 32).setWidth 32).signExtend 64)) ∧
    exec (.mulhu d a b true) s
      = .next (s.result id c d ((((x32.setWidth 64 * y32.setWidth 64) >>> 32).setWidth 32).signExtend 64))
  ) ∧
  (
  ∀ (s : State) (id : Nat) (c : Ctx) (d a b e : BitVec 6) (imm : BitVec 31) (imm37 : BitVec 37) (imm16 : BitVec 16) (k : BitVec 2)
    (n : BitVec 3), s.Acting id c →
    let x := s.rs c a
    let y := s.rs c b
    let put (v : DWord) := Host.Outcome.next (s.result id c d v)
    exec (.and d a b) s = put (x &&& y) ∧
    exec (.or d a b) s = put (x ||| y) ∧
    exec (.xor d a b) s = put (x ^^^ y) ∧
    exec (.andn d a b) s = put (x &&& ~~~y) ∧
    exec (.madd d a b e) s = put (x * y + s.rs c e) ∧
    exec (.lea d a b n) s = put (x + y <<< n.toNat) ∧
    exec (.sel d a b e) s = put (if (s.rs c e).getLsbD 0 = true then x else y) ∧
    exec (.addi d a imm) s = put (x + imm.signExtend 64) ∧
    exec (.andi d a imm) s = put (x &&& imm.signExtend 64) ∧
    exec (.ori d a imm) s = put (x ||| imm.signExtend 64) ∧
    exec (.xori d a imm) s = put (x ^^^ imm.signExtend 64) ∧
    exec (.movi d imm37) s = put (imm37.signExtend 64) ∧
    exec (.movk d k imm16) s
      = put ((s.rs c d &&& ~~~((0xFFFF#64) <<< (16 * k.toNat))) ||| (imm16.setWidth 64 <<< (16 * k.toNat)))
  )

/-- R287: the four divisions write, for a zero divisor, −1, all ones, a and a; otherwise the quotient truncated toward zero and the remainder with
the sign of a, read modulo 2^64, so that −2^63 divided by −1 is −2^63 with remainder 0.

R286, R287: with W the four divisions work on the low words and their 32-bit results are sign-extended. -/
def Obligations.IntDivision : Prop :=
  (
  ∀ (s : State) (id : Nat) (c : Ctx) (d a b : BitVec 6), s.Acting id c →
    let x := s.rs c a
    let y := s.rs c b
    exec (.div d a b false) s
      = .next (s.result id c d (if y = 0 then BitVec.allOnes 64 else BitVec.ofInt 64 (x.toInt.tdiv y.toInt))) ∧
    exec (.divu d a b false) s
      = .next (s.result id c d (if y = 0 then BitVec.allOnes 64 else BitVec.ofNat 64 (x.toNat / y.toNat))) ∧
    exec (.rem d a b false) s = .next (s.result id c d (if y = 0 then x else BitVec.ofInt 64 (x.toInt.tmod y.toInt))) ∧
    exec (.remu d a b false) s = .next (s.result id c d (if y = 0 then x else BitVec.ofNat 64 (x.toNat % y.toNat)))
  ) ∧
  (
  ∀ (s : State) (id : Nat) (c : Ctx) (d a b : BitVec 6), s.Acting id c →
    let x := (s.rs c a).setWidth 32
    let y := (s.rs c b).setWidth 32
    let put (v : Word) := Host.Outcome.next (s.result id c d (v.signExtend 64))
    exec (.div d a b true) s = put (if y = 0 then BitVec.allOnes 32 else BitVec.ofInt 32 (x.toInt.tdiv y.toInt)) ∧
    exec (.divu d a b true) s = put (if y = 0 then BitVec.allOnes 32 else BitVec.ofNat 32 (x.toNat / y.toNat)) ∧
    exec (.rem d a b true) s = put (if y = 0 then x else BitVec.ofInt 32 (x.toInt.tmod y.toInt)) ∧
    exec (.remu d a b true) s = put (if y = 0 then x else BitVec.ofNat 32 (x.toNat % y.toNat))
  )

/-- R285, R286: shifts and rotates count b[5:0] or, with W, b[4:0] on words; the immediate forms take n.

R285: the bit counts. The count of leading zeros is the k for which bit 63 − k is the highest set; that of trailing zeros the lowest set bit;
both are 64 for zero. POPC is the number of set bits. With W they count over bits [31:0].

R285: EXT, EXTU and INS on a field that lies in the register, and BSET and BCLR: bit by bit. -/
def Obligations.IntBits : Prop :=
  (
  ∀ (s : State) (id : Nat) (c : Ctx) (d a b n : BitVec 6), s.Acting id c →
    let x := s.rs c a
    let x32 := x.setWidth 32
    let k := (s.rs c b).toNat % 64
    let j := (s.rs c b).toNat % 32
    let put (v : DWord) := Host.Outcome.next (s.result id c d v)
    (exec (.shl d a b false) s = put (x <<< k) ∧ exec (.shl d a b true) s = put ((x32 <<< j).signExtend 64)) ∧
    (exec (.shr d a b false) s = put (x >>> k) ∧ exec (.shr d a b true) s = put ((x32 >>> j).signExtend 64)) ∧
    (exec (.sra d a b false) s = put (x.sshiftRight k) ∧ exec (.sra d a b true) s = put ((x32.sshiftRight j).signExtend 64)) ∧
    (exec (.ror d a b false) s = put (x >>> k ||| x <<< (64 - k)) ∧
      exec (.ror d a b true) s = put ((x32 >>> j ||| x32 <<< (32 - j)).signExtend 64)) ∧
    (exec (.shli d a n false) s = put (x <<< n.toNat) ∧
      (n.toNat < 32 → exec (.shli d a n true) s = put ((x32 <<< n.toNat).signExtend 64))) ∧
    (exec (.shri d a n false) s = put (x >>> n.toNat) ∧
      (n.toNat < 32 → exec (.shri d a n true) s = put ((x32 >>> n.toNat).signExtend 64))) ∧
    (exec (.srai d a n false) s = put (x.sshiftRight n.toNat) ∧
      (n.toNat < 32 → exec (.srai d a n true) s = put ((x32.sshiftRight n.toNat).signExtend 64)))
  ) ∧
  (
  ∀ (s : State) (id : Nat) (c : Ctx) (d a : BitVec 6) (w : Bool), s.Acting id c →
    let n := if w then 32 else 64
    let x := (s.rs c a).toNat % 2 ^ n
    ∃ lz tz pc : Nat,
      exec (.clz d a w) s = .next (s.result id c d (BitVec.ofNat 64 lz)) ∧
      exec (.ctz d a w) s = .next (s.result id c d (BitVec.ofNat 64 tz)) ∧
      exec (.popc d a w) s = .next (s.result id c d (BitVec.ofNat 64 pc)) ∧
      lz ≤ n ∧ x < 2 ^ (n - lz) ∧ (lz < n → x.testBit (n - 1 - lz) = true) ∧
      tz ≤ n ∧ (∀ i, i < tz → x.testBit i = false) ∧ (tz < n → x.testBit tz = true) ∧
      pc = ((List.range n).filter (fun i => x.testBit i)).length
  ) ∧
  (
  ∀ (s : State) (id : Nat) (c : Ctx) (d a b pos lenM1 : BitVec 6), s.Acting id c → pos.toNat + lenM1.toNat + 1 ≤ 64 →
    let x := s.rs c a
    let p := pos.toNat
    let n := lenM1.toNat + 1
    let k := (s.rs c b).toNat % 64
    ∃ ext extu ins bset bclr : DWord,
      exec (.ext d a pos lenM1) s = .next (s.result id c d ext) ∧
      exec (.extu d a pos lenM1) s = .next (s.result id c d extu) ∧
      exec (.ins d a pos lenM1) s = .next (s.result id c d ins) ∧
      exec (.bset d a b) s = .next (s.result id c d bset) ∧
      exec (.bclr d a b) s = .next (s.result id c d bclr) ∧
      ∀ i, i < 64 →
        ext.getLsbD i = x.getLsbD (p + (if i < n then i else n - 1)) ∧
        extu.getLsbD i = (decide (i < n) && x.getLsbD (p + i)) ∧
        ins.getLsbD i = (if p ≤ i ∧ i < p + n then x.getLsbD (i - p) else (s.rs c d).getLsbD i) ∧
        bset.getLsbD i = (decide (i = k) || x.getLsbD i) ∧
        bclr.getLsbD i = (decide (i ≠ k) && x.getLsbD i)
  )

/-- R285, R286: minimum, maximum and the comparisons, signed and unsigned, on 64 bits or, with W, on the low words. -/
def Obligations.IntCompare : Prop :=
  ∀ (s : State) (id : Nat) (c : Ctx) (d a b : BitVec 6) (imm : BitVec 31), s.Acting id c →
    let x := s.rs c a
    let y := s.rs c b
    let u := x.setWidth 32
    let v := y.setWidth 32
    let put (v : DWord) := Host.Outcome.next (s.result id c d v)
    (exec (.min d a b false) s = put (if x.toInt < y.toInt then x else y) ∧
      exec (.min d a b true) s = put ((if u.toInt < v.toInt then u else v).signExtend 64)) ∧
    (exec (.max d a b false) s = put (if x.toInt < y.toInt then y else x) ∧
      exec (.max d a b true) s = put ((if u.toInt < v.toInt then v else u).signExtend 64)) ∧
    (exec (.minu d a b false) s = put (if x.toNat < y.toNat then x else y) ∧
      exec (.minu d a b true) s = put ((if u.toNat < v.toNat then u else v).signExtend 64)) ∧
    (exec (.maxu d a b false) s = put (if x.toNat < y.toNat then y else x) ∧
      exec (.maxu d a b true) s = put ((if u.toNat < v.toNat then v else u).signExtend 64)) ∧
    (exec (.seq d a b false) s = put (if x = y then 1 else 0) ∧ exec (.seq d a b true) s = put (if u = v then 1 else 0)) ∧
    (exec (.sne d a b false) s = put (if x ≠ y then 1 else 0) ∧ exec (.sne d a b true) s = put (if u ≠ v then 1 else 0)) ∧
    (exec (.slt d a b false) s = put (if x.toInt < y.toInt then 1 else 0) ∧
      exec (.slt d a b true) s = put (if u.toInt < v.toInt then 1 else 0)) ∧
    (exec (.sltu d a b false) s = put (if x.toNat < y.toNat then 1 else 0) ∧
      exec (.sltu d a b true) s = put (if u.toNat < v.toNat then 1 else 0)) ∧
    exec (.slti d a imm) s = put (if x.toInt < imm.toInt then 1 else 0)

/-! ### Scalar floating point (R166, R167, R174 to R181, R288, R289) -/

/-- R176, R177, R179, R288, R289: FADD, FSUB, FMUL, FFMA, ITOF and FCVT between two formats form the exact result and round it once, in the mode that
RC names; the bits above the result are zero; the sticky flags are those of the rounding, with NV when a NaN comes from operands that are none;
with SR, RNGX steps once and gives the draw.

R166, R288: FCVT between equal formats returns a, a NaN becoming the generated NaN, and sets no flag.

R165, R176, R177: a value that a format holds exactly rounds to itself in every mode, sets no flag, and takes no notice of the draw, without FTZ. -/
def Obligations.FpRounding : Prop :=
  (
  ∀ (s : State) (id : Nat) (c : Ctx) (d a b : BitVec 6) (f g : BitVec 2) (rc : BitVec 3) (u w : Bool), s.Acting id c →
    let r := s.srcRegs c
    let x := fpVal f (r.getS a)
    let y := fpVal f (r.getS b)
    let z := fpVal f (r.getS d)
    let m := modeOf rc.toNat r.fpctl (f == 0)
    let n := (r.getS a).toNat
    let int : Int := if u then (if w then n % 2 ^ 32 else n) else (if w then signed 32 n else signed 64 n)
    exec (.fadd d a b f rc) s = .next (s.fpEnds id c f m d (x.add m y) [x, y]) ∧
    exec (.fsub d a b f rc) s = .next (s.fpEnds id c f m d (x.add m y.negate) [x, y]) ∧
    exec (.fmul d a b f rc) s = .next (s.fpEnds id c f m d (x.mul y) [x, y]) ∧
    exec (.ffma d a b f rc) s = .next (s.fpEnds id c f m d ((x.mul y).add m z) [x, y, z]) ∧
    exec (.itof d a u w f rc) s = .next (s.fpEnds id c f m d (Val.ofInt int) [Val.ofInt int]) ∧
    (g ≠ f → exec (.fcvt d a g f rc) s = .next (s.fpEnds id c g (modeOf rc.toNat r.fpctl (g == 0)) d x [x]))
  ) ∧
  (
  ∀ (s : State) (id : Nat) (c : Ctx) (d a : BitVec 6) (f : BitVec 2) (rc : BitVec 3), s.Acting id c →
    let n := (s.rs c a).toNat % 2 ^ (sFmt f).width
    exec (.fcvt d a f f rc) s
      = .next (s.result id c d (BitVec.ofNat 64 (if fpVal f (s.rs c a) = .nan then (sFmt f).nan else n)))
  ) ∧
  (
  ∀ (p : FloatFmt), p ∈ [fp32, fp16, bf16, e4m3, e5m2, e2m1] → ∀ (mode draw w : Nat) (sat : Bool), w < 2 ^ p.width → draw < 2 ^ 16 →
    ∀ (neg : Bool) (num den : Nat) (e : Int), p.decode w = .fin neg num den e →
      p.encodeF mode sat false draw (p.decode w) = (w, Flags.none)
  )

/-- R181, R288, R289: FTOI rounds to an integer of 64 or 32 bits, saturates, writes 0 for a NaN, and sets NV for both and NX when inexact; an
unsigned word result is zero-extended, any other sign-extended. -/
def Obligations.FpToInteger : Prop :=
  ∀ (s : State) (id : Nat) (c : Ctx) (d a : BitVec 6) (u w : Bool) (f : BitVec 2) (rc : BitVec 3), s.Acting id c →
    let r := s.srcRegs c
    let m := modeOf rc.toNat r.fpctl true
    let bits := if w then 32 else 64
    let lo : Int := if u then 0 else -(2 ^ (bits - 1))
    let hi : Int := if u then 2 ^ bits - 1 else 2 ^ (bits - 1) - 1
    let put (v : Int) (fl : Flags) : Host.Outcome State Fault Refusal :=
      let bitsOf : DWord := if w = true ∧ u = true then BitVec.ofInt 64 (v % 2 ^ 32) else BitVec.ofInt 64 v
      .next (s.ends id c (({ c.regs with fpctl := fpFlags c.regs.fpctl fl } : Regs).setS d bitsOf))
    let nv : Flags := { nv := true, of := false, uf := false, nx := false }
    match fpVal f (r.getS a) with
    | .nan => exec (.ftoi d a u w f rc) s = put 0 nv
    | .inf neg => exec (.ftoi d a u w f rc) s = put (if neg then lo else hi) nv
    | .fin neg num den e =>
      let (k, inexact) := roundUnits m neg 0 num den e 0
      let v : Int := if neg then -(k : Int) else k
      exec (.ftoi d a u w f rc) s
        = if v < lo then put lo nv else if hi < v then put hi nv
          else put v { nv := false, of := false, uf := false, nx := inexact }

/-- R167, R288, R289: FMIN and FMAX compare −0 below +0 and give the generated NaN for a NaN operand, without a flag; FEQ, FLT and FLE write 0 for a
NaN, which only FLT and FLE report in NV.

R288: FSGN replaces the sign bit of a, zeros above the format's width; FCLASS writes one bit, that of a's class. -/
def Obligations.FpCompareAndSign : Prop :=
  (
  ∀ (s : State) (id : Nat) (c : Ctx) (d a b : BitVec 6) (f : BitVec 2), s.Acting id c →
    let r := s.srcRegs c
    let x := fpVal f (r.getS a)
    let y := fpVal f (r.getS b)
    let nan := x.isNan || y.isNan
    let below := x.lt y || (x.eq y && x.neg? && !y.neg?)
    let flag (nv : Bool) (v : DWord) : Host.Outcome State Fault Refusal :=
      .next (s.ends id c (({ c.regs with fpctl := if nv then c.regs.fpctl ||| 0x800 else c.regs.fpctl } : Regs).setS d v))
    let enc (v : Val) : DWord := BitVec.ofNat 64 ((sFmt f).encode 0 true (ftzOf r.fpctl) 0 v)
    exec (.fmin d a b f) s
      = .next (s.result id c d (if nan then BitVec.ofNat 64 (sFmt f).nan else enc (if below then x else y))) ∧
    exec (.fmax d a b f) s
      = .next (s.result id c d (if nan then BitVec.ofNat 64 (sFmt f).nan else enc (if below then y else x))) ∧
    exec (.feq d a b f) s = flag false (if nan = false ∧ x.eq y = true then 1 else 0) ∧
    exec (.flt d a b f) s = flag nan (if nan = false ∧ x.lt y = true then 1 else 0) ∧
    exec (.fle d a b f) s = flag nan (if nan = false ∧ y.lt x = false then 1 else 0)
  ) ∧
  (
  ∀ (s : State) (id : Nat) (c : Ctx) (d a b : BitVec 6) (f : BitVec 2) (op : BitVec 3), s.Acting id c →
    let n := (sFmt f).width
    let x := s.rs c a
    let y := s.rs c b
    (∃ v : DWord, exec (.fsgn d a b f op) s = .next (s.result id c d v) ∧
      ∀ i, i < 64 → v.getLsbD i =
        if n ≤ i then false
        else if i + 1 = n then
          (if op = 0 then y.getLsbD i else if op = 1 then !y.getLsbD i else x.getLsbD i != y.getLsbD i)
        else x.getLsbD i) ∧
    exec (.fclass d a f) s = .next (s.result id c d (1#64 <<<
      (match fpVal f x with
        | .nan => 8
        | .inf neg => if neg then 0 else 7
        | .fin neg num _ _ =>
          if num = 0 then (if neg then 3 else 4)
          else if x.toNat / 2 ^ (sFmt f).f % 2 ^ (sFmt f).e = 0 then (if neg then 2 else 5)
          else if neg then 1 else 6)))
  )

/-! ### Handles (R225, R296) -/

/-- R296: HSET replaces one field of a handle by the low bits of a register, and HGET reads one, a stride sign-extended. The fields are, by code:
BASE, FMT, the four extents, the three strides, BUF, LAYOUT, PLANESEL, FLAGS and the four quarters.

R296: HADV moves BASE by a register, modulo 2^56, and copies the rest; HDIM writes one extent and, for k ≥ 1, the stride below it. -/
def Obligations.Handles : Prop :=
  (
  ∀ (s : State) (id : Nat) (c : Ctx) (d a f : BitVec 6) (h : BitVec 5) (lo n : Nat), s.Acting id c →
    [(0, 56), (56, 8), (64, 16), (80, 16), (96, 16), (112, 16), (128, 32), (160, 32), (192, 32), (224, 8), (232, 4), (236, 4), (240, 4),
      (0, 64), (64, 64), (128, 64), (192, 64)][f.toNat]? = some (lo, n) →
    ∃ (v : Handle) (x : DWord),
      exec (.hset h a f) s = .next (s.ends id c (c.regs.setH h v)) ∧
      exec (.hget d h f) s = .next (s.result id c d x) ∧
      (∀ i, i < 256 → v.getLsbD i = if lo ≤ i ∧ i < lo + n then (s.rs c a).getLsbD (i - lo) else (s.rh c h).getLsbD i) ∧
      (∀ i, i < 64 → x.getLsbD i =
        if i < n then (s.rh c h).getLsbD (lo + i)
        else if 6 ≤ f.toNat ∧ f.toNat ≤ 8 then (s.rh c h).getLsbD (lo + n - 1) else false)
  ) ∧
  (
  ∀ (s : State) (id : Nat) (c : Ctx) (hd ha : BitVec 5) (a b : BitVec 6) (k : BitVec 2), s.Acting id c →
    ∃ v w : Handle,
      exec (.hadv hd ha b) s = .next (s.ends id c (c.regs.setH hd v)) ∧
      exec (.hdim hd a b k) s = .next (s.ends id c (c.regs.setH hd w)) ∧
      v.toNat % 2 ^ 56 = ((s.rh c ha).toNat + (s.rs c b).toNat) % 2 ^ 56 ∧
      v.toNat / 2 ^ 56 = (s.rh c ha).toNat / 2 ^ 56 ∧
      (∀ i, i < 256 → w.getLsbD i =
        if 64 + 16 * k.toNat ≤ i ∧ i < 80 + 16 * k.toNat then (s.rs c a).getLsbD (i - (64 + 16 * k.toNat))
        else if k ≠ 0 ∧ 96 + 32 * k.toNat ≤ i ∧ i < 128 + 32 * k.toNat then (s.rs c b).getLsbD (i - (96 + 32 * k.toNat))
        else (s.rh c hd).getLsbD i)
  )

/-! ### Transfers (R298) -/

/-- R298: the transfers go to their target when it is 4-byte aligned; a branch not taken goes on; CALL and CALLR put the address of the next bundle
in s1, and CALLR s1 goes to the old s1.

R298: a transfer whose target is not 4-byte aligned traps MISALIGNED; its bundle, and so the link, has no effect. -/
def Obligations.Transfer : Prop :=
  (
  ∀ (s : State) (id : Nat) (c : Ctx) (cond : BitVec 3) (a b : BitVec 6) (off : BitVec 28) (off43 : BitVec 43), s.Acting id c →
    let pc := (s.was c).regs.pc
    let x := s.rs c a
    let y := s.rs c b
    let near := (((pc : Int) + 4 * off.toInt) % 2 ^ 64).toNat
    let far := (((pc : Int) + 4 * off43.toInt) % 2 ^ 64).toNat
    let holds := match cond.toNat with
      | 0 => x = y
      | 1 => x ≠ y
      | 2 => x.toInt < y.toInt
      | 3 => y.toInt ≤ x.toInt
      | 4 => x.toNat < y.toNat
      | _ => y.toNat ≤ x.toNat
    let linked := c.regs.setS 1 (BitVec.ofNat 64 (pc + s.issue.len))
    (holds → near % 4 = 0 → exec (.br cond a b off) s = .next (s.jumps id c near)) ∧
    (¬ holds → exec (.br cond a b off) s = .next (s.passes id c)) ∧
    (far % 4 = 0 → exec (.jmp off43) s = .next (s.jumps id c far)) ∧
    (far % 4 = 0 → exec (.call off43) s = .next (s.goes id c linked far)) ∧
    (x.toNat % 4 = 0 → exec (.jr a) s = .next (s.jumps id c x.toNat)) ∧
    (x.toNat % 4 = 0 → exec (.callr a) s = .next (s.goes id c linked x.toNat)) ∧
    ((s.rs c 1).toNat % 4 = 0 → exec .ret s = .next (s.jumps id c (s.rs c 1).toNat))
  ) ∧
  (
  ∀ (s : State) (id : Nat) (c : Ctx) (a : BitVec 6), s.Sees id c → (s.rs c a).toNat % 4 ≠ 0 →
    let linked := s.setCtx id { c with regs := c.regs.setS 1 (BitVec.ofNat 64 (c.regs.pc + s.issue.len)) }
    exec (.jr a) s = .next (s.traps id 0x02 0 0) ∧ exec (.callr a) s = .next ((if s.issue.on then linked else s).traps id 0x02 0 0)
  )

/-! ### Loops (R252 to R256, R300, R301) -/

/-- R253, R300: LOOP and LOOPI with a count of 0 skip the body; with a legal body they open a level: LC holds the count less 1, LBEG the next bundle,
LEND the end, DEPTH one more; LOOP with a predicate register opens it staged, with the register at 1.

R253, R300, R301: a fifth level, a count of 2^32 or more, a body that ends at or before its beginning or beyond the level around it, a second
staged loop, and an LBRK of more levels than are open trap LOOP-STATE.

R301: LBRK closes its levels; a staged level among them takes SV and STAGE with it; its bundle makes no back-edge test.

R254, R256: at the end address of a level, a count that is not 0 goes down by one and the pc goes back to LBEG; a count of 0 closes the level,
and the pc goes on when no level around it ends there too. -/
def Obligations.Loops : Prop :=
  (
  ∀ (s : State) (id : Nat) (c : Ctx) (a p : BitVec 6) (nM1 : BitVec 3) (off : BitVec 28) (cnt : BitVec 16) (off27 : BitVec 27),
    s.Acting id c → s.was c = c → c.regs.st.depth < 4 →
    let k := c.regs.st
    let d := k.depth
    let pc := c.regs.pc
    let beg := pc + s.issue.len
    let fits (e : Nat) : Prop := beg < e ∧ (0 < d → e ≤ (k.lend.val 0 (d - 1)).toNat)
    let level (n e : Nat) : Sticky :=
      { k with
        lc := k.lc.put 0 d (BitVec.ofNat 32 (n - 1))
        lbeg := k.lbeg.put 0 d (BitVec.ofNat 64 beg)
        lend := k.lend.put 0 d (BitVec.ofNat 64 e)
        lstate := setFld k.lstate 0 3 (d + 1) }
    let n := (s.rs c a).toNat
    let e := pc + 4 * off.toNat
    let e' := pc + 4 * off27.toNat
    (n = 0 → e % 4 = 0 → exec (.loop a p nM1 off) s = .next (s.jumps id c e)) ∧
    (cnt = 0 → e' % 4 = 0 → exec (.loopi cnt off27) s = .next (s.jumps id c e')) ∧
    (cnt ≠ 0 → fits e' → exec (.loopi cnt off27) s = .next (s.ends id c { c.regs with st := level cnt.toNat e' })) ∧
    (0 < n → n < 2 ^ 32 → fits e → p = 0 → exec (.loop a p nM1 off) s = .next (s.ends id c { c.regs with st := level n e })) ∧
    (0 < n → n < 2 ^ 32 → fits e → p ≠ 0 → k.sv = false →
      exec (.loop a p nM1 off) s = .next (s.ends id c (({ c.regs with
        st := { level n e with
          lstate := setFld (setFld (setFld k.lstate 0 3 (d + 1)) 4 2 d) 6 1 1
          stage := BitVec.ofNat 64 (p.toNat * 2 ^ 16 + nM1.toNat * 2 ^ 8 + 1) } } : Regs).setS p 1)))
  ) ∧
  (
  ∀ (s : State) (id : Nat) (c : Ctx) (a p : BitVec 6) (nM1 : BitVec 3) (off : BitVec 28) (kM1 : BitVec 2), s.Sees id c →
    let k := c.regs.st
    let n := (s.rs c a).toNat
    let beg := c.regs.pc + s.issue.len
    let e := c.regs.pc + 4 * off.toNat
    let t := s.traps id 0x0B 0 0
    (2 ^ 32 ≤ n ∨ (0 < n ∧ (k.depth = 4 ∨ e ≤ beg ∨ (0 < k.depth ∧ (k.lend.val 0 (k.depth - 1)).toNat < e) ∨ (p ≠ 0 ∧ k.sv = true))) →
      exec (.loop a p nM1 off) s = .next t) ∧
    (k.depth < kM1.toNat + 1 → exec (.lbrk kM1) s = .next t)
  ) ∧
  (
  ∀ (s : State) (id : Nat) (c : Ctx) (kM1 : BitVec 2), s.Acting id c → s.was c = c → kM1.toNat + 1 ≤ c.regs.st.depth →
    ∃ t, exec (.lbrk kM1) s = .next t ∧
      ∃ x, t.ctx id = some x ∧
        x.regs.st.depth = c.regs.st.depth - (kM1.toNat + 1) ∧
        (c.regs.st.sv = true ∧ c.regs.st.depth - (kM1.toNat + 1) ≤ c.regs.st.slevel → x.regs.st.sv = false ∧ x.regs.st.stage = 0) ∧
        (¬ (c.regs.st.sv = true ∧ c.regs.st.depth - (kM1.toNat + 1) ≤ c.regs.st.slevel) →
          x.regs.st.sv = c.regs.st.sv ∧ x.regs.st.stage = c.regs.st.stage) ∧
        x.regs.st.lc = c.regs.st.lc ∧ x.regs.s = c.regs.s ∧ x.regs.h = c.regs.h ∧ t.mem = s.mem ∧
        (s.issue.on = true → t.issue.noEdge = true) ∧ (s.issue.on = false → x.regs.pc = c.regs.pc + s.issue.len)
  ) ∧
  (
  ∀ (c : Ctx) (stop : Nat), 0 < c.regs.st.depth → c.regs.st.sv = false →
    let k := c.regs.st
    let d := k.depth - 1
    (k.lend.val 0 d).toNat = stop →
    (k.lc.val 0 d ≠ 0 →
      (edgeCtx c stop).regs.pc = (k.lbeg.val 0 d).toNat ∧ (edgeCtx c stop).regs.st.lc = k.lc.put 0 d (k.lc.val 0 d - 1) ∧
      (edgeCtx c stop).regs.st.depth = k.depth) ∧
    (k.lc.val 0 d = 0 → (d = 0 ∨ (k.lend.val 0 (d - 1)).toNat ≠ stop) →
      (edgeCtx c stop).regs.pc = stop ∧ (edgeCtx c stop).regs.st.depth = d)
  )

/-! ### Control registers and steps (R229, R230, R241, R308, R381) -/

/-- R229, R381: CRR writes the register it names as it stood before the bundle.

R174, R178, R229, R230, R241, R381: CRW writes its register: FPCTL keeps its reserved bits zero, and its RM when 5, 6 or 7 is written; a
generator takes 1 for 0; TVEC keeps bits [55:2]; TRPTC four bits; a read-only register is not written.

R241, R308: SETSTEP writes one step register with the low word of its source. R381, R387: any write of 0x08D removes the head record of the fault
queue. R238: a NOP writes nothing. -/
def Obligations.ControlRegisters : Prop :=
  (
  ∀ (s : State) (id : Nat) (c : Ctx) (d : BitVec 6) (n : BitVec 12) (v : DWord), s.Acting id c →
    let x := s.was c
    let r := x.regs
    (n.toNat, v) ∈ [
      (0x000, BitVec.ofNat 64 (r.pc % 2 ^ 56)), (0x001, BitVec.ofNat 64 (x.who.grid * 2 ^ 32 + x.who.index)), (0x002, x.who.xy),
      (0x003, x.who.z), (0x004, x.who.arg), (0x006, BitVec.ofNat 64 (x.who.region + x.who.world * 2 ^ 16)), (0x008, r.fpctl),
      (0x009, r.rngv), (0x00A, r.rngp), (0x00B, r.rngx), (0x010, r.st.stage), (0x011, r.st.lstate), (0x012, r.st.lbeg.val 0 0),
      (0x015, r.st.lbeg.val 0 3), (0x016, r.st.lend.val 0 0), (0x019, r.st.lend.val 0 3), (0x01C, (r.st.lc.val 0 0).setWidth 64),
      (0x01F, (r.st.lc.val 0 3).setWidth 64), (0x020, r.mb.val 0 0), (0x027, r.mb.val 0 7), (0x030, BitVec.ofNat 64 r.rptc),
      (0x038, r.st.last.val 0 0), (0x03B, r.st.last.val 0 3), (0x040, (r.st.steps.val 0 0).signExtend 64),
      (0x04B, (r.st.steps.val 0 11).signExtend 64), (0x080, r.tvec), (0x081, r.tcause), (0x082, r.tpc), (0x083, r.taddr), (0x084, r.tdetail),
      (0x085, BitVec.ofNat 64 ((if r.inTrap then 1 else 0) + x.ph.rbcnt * 2 ^ 8)), (0x086, BitVec.ofNat 64 r.trptc),
      (0x088, r.tscr.val 0 0), (0x08B, r.tscr.val 0 3), (0x098, r.sv.last.val 0 0), (0x09B, r.sv.last.val 0 3),
      (0x0A0, (r.sv.steps.val 0 0).signExtend 64), (0x0AB, (r.sv.steps.val 0 11).signExtend 64), (0x0AC, r.sv.lstate), (0x0AD, r.sv.stage),
      (0x0B0, r.sv.lbeg.val 0 0), (0x0B7, r.sv.lend.val 0 3), (0x0BB, (r.sv.lc.val 0 3).setWidth 64)] →
    exec (.crr d n) s = .next (s.result id c d v)
  ) ∧
  (
  ∀ (s : State) (id : Nat) (c : Ctx) (a : BitVec 6) (k : Nat), s.Acting id c →
    let r := c.regs
    let v := s.rs c a
    let w : BitVec 32 := v.setWidth 32
    let one := if v = 0 then 1 else v
    let rm := if 5 ≤ v.toNat % 8 then r.fpctl &&& 7 else v &&& 7
    let put (n : Nat) (x : Regs) : Prop := exec (.crw a (BitVec.ofNat 12 n)) s = .next (s.ends id c x)
    put 0x008 { r with fpctl := (v &&& 0xF08) ||| rm } ∧ put 0x009 { r with rngv := one } ∧ put 0x00A { r with rngp := one } ∧
    put 0x00B { r with rngx := one } ∧
    (k < 4 → put (0x01C + k) { r with st := { r.st with lc := r.st.lc.put 0 k w } }) ∧
    (k < 8 → put (0x020 + k) { r with mb := r.mb.put 0 k v }) ∧
    (k < 12 → put (0x040 + k) { r with st := { r.st with steps := r.st.steps.put 0 k w } }) ∧
    put 0x080 { r with tvec := v &&& 0x00FFFFFFFFFFFFFC } ∧ put 0x082 { r with tpc := v } ∧ put 0x086 { r with trptc := v.toNat % 16 } ∧
    (k < 4 → put (0x088 + k) { r with tscr := r.tscr.put 0 k v }) ∧
    (k < 12 → put (0x0A0 + k) { r with sv := { r.sv with steps := r.sv.steps.put 0 k w } }) ∧
    (k < 4 → put (0x0B8 + k) { r with sv := { r.sv with lc := r.sv.lc.put 0 k w } }) ∧
    (k ∈ [0x000, 0x001, 0x002, 0x003, 0x004, 0x005, 0x006, 0x007, 0x010, 0x011, 0x012, 0x019, 0x030, 0x031, 0x032, 0x033, 0x034, 0x038,
      0x03B, 0x081, 0x083, 0x084, 0x085, 0x08C, 0x090, 0x093, 0x098, 0x09B, 0x0AC, 0x0AD, 0x0B0, 0x0B7] → put k r)
  ) ∧
  (
  ∀ (s : State) (id : Nat) (c : Ctx) (slot k : BitVec 2) (a : BitVec 6), s.Acting id c →
    exec (.setstep slot k a) s = .next (s.ends id c { c.regs with
      st := { c.regs.st with steps := c.regs.st.steps.put 0 (3 * slot.toNat + k.toNat) ((s.rs c a).setWidth 32) } }) ∧
    (∀ i, i ∈ [Instr.nopAlu, .nopCtl, .nopMat, .nopVec, .nopPrm, .nopScl, .nopXfr] → exec i s = .next (s.passes id c)) ∧
    (∀ f rest, c.xf.fq = f :: rest → c.xf.waitq = [] →
      ∃ t x, exec (.fqpop a) s = .next t ∧ t.ctx id = some x ∧ x.xf = { c.xf with fq := rest } ∧ t.mem = s.mem ∧
        x.regs = (if s.issue.on then c.regs else { c.regs with pc := c.regs.pc + s.issue.len }))
  )

/-! ### Traps (R307, R380 to R390) -/

/-- R382: entering a trap saves the pc in TPC, the cause with its slot in TCAUSE, address and detail, RPTC, the last operations and the loop state;
clears the last operations, closes every loop, sets IN, and goes to TVEC. Nothing else changes.

R380, R382: a trap while a handler runs, and a trap with TVEC = 0, are fatal: the task issues nothing further, its registers stay, and its
TASK_FAULT is due with the cause and detail of the trap.

R382: a trap waits until every older scalar load has returned and every older SCL and PRM operation has written. -/
def Obligations.TrapEntry : Prop :=
  (
  ∀ (s : State) (id : Nat) (c : Ctx) (t : Trap), s.ctx id = some c → c.regs.inTrap = false → c.regs.tvec ≠ 0 → c.mustWait = false →
    c.dbg.stepping = false → t.cause ≠ Cause.dataError → t.cause ≠ Cause.brk → t.straddle = false →
    let r := c.regs
    takeTrap s id t = s.setCtx id { c with
      trapWait := none
      ph := { c.ph with rem := none }
      regs := { r with
        tpc := BitVec.ofNat 64 r.pc
        tcause := BitVec.ofNat 64 (t.cause + t.slot * 2 ^ 16)
        taddr := BitVec.ofNat 64 t.addr
        tdetail := t.detail
        trptc := r.rptc
        sv := r.st
        rptc := 0
        st := { r.st with last := [], cap := [], rsteps := none, lstate := 0, stage := 0 }
        inTrap := true
        pc := r.tvec.toNat } }
  ) ∧
  (
  ∀ (s : State) (id : Nat) (c : Ctx) (t : Trap), s.ctx id = some c → c.mustWait = false → t.cause ≠ Cause.dataError →
    t.cause ≠ Cause.brk → t.cause ≠ Cause.engineFault → (c.regs.inTrap = true ∨ c.regs.tvec = 0) →
    ∃ x, (takeTrap s id t).ctx id = some x ∧ x.isOver = true ∧ x.regs = c.regs ∧
      (takeTrap s id t).agenda = s.agenda ++ [(s.now, id, .taskFault id t.cause t.detail.toNat)] ∧ (takeTrap s id t).mem = s.mem
  ) ∧
  (
  ∀ (s : State) (id : Nat) (c : Ctx) (t : Trap), s.ctx id = some c → c.mustWait = true → t.cause ≠ Cause.dataError →
    t.cause ≠ Cause.brk →
    takeTrap s id t = s.setCtx id { c with trapWait := some t, ph := { c.ph with rem := none } }
  )

/-- R307: TRAP and SYS trap after their bundle, with the address of the next bundle in TPC and their code in TDETAIL.

R284, R307: in a bundle TRAP and SYS leave their trap to the bundle's end, with nothing else changed.

R307, R389: with BKEN clear BKPT performs nothing and HALT ends the task with the fatal fault HALT; with BKEN set both halt the task for its
debugger, with their cause in DSTAT. -/
def Obligations.TrapAndDebugInstructions : Prop :=
  (
  ∀ (s : State) (id : Nat) (c : Ctx) (code : BitVec 16), s.Alone id c → c.regs.inTrap = false → c.regs.tvec ≠ 0 → c.mustWait = false →
    c.dbg.stepping = false →
    ∀ i n, (i, n) ∈ [(Instr.trap code, 0x10), (Instr.sys code, 0x11)] →
      ∃ t x, exec i s = .next t ∧ t = s.setCtx id x ∧
        x.regs.tpc = BitVec.ofNat 64 (c.regs.pc + s.issue.len) ∧ x.regs.tdetail = code.setWidth 64 ∧
        x.regs.tcause = BitVec.ofNat 64 (n + s.issue.slot * 2 ^ 16) ∧ x.regs.inTrap = true ∧ x.regs.pc = c.regs.tvec.toNat ∧
        x.regs.s = c.regs.s ∧ x.regs.h = c.regs.h ∧ x.regs.fpctl = c.regs.fpctl ∧ x.regs.tscr = c.regs.tscr ∧
        x.regs.sv = c.regs.st ∧ x.regs.trptc = c.regs.rptc
  ) ∧
  (
  ∀ (s : State) (id : Nat) (c : Ctx) (code : BitVec 16), s.Acting id c → s.issue.on = true →
    exec (.trap code) s = .next (s.traps id 0x10 0 (code.setWidth 64)) ∧ exec (.sys code) s = .next (s.traps id 0x11 0 (code.setWidth 64))
  ) ∧
  (
  ∀ (s : State) (id : Nat) (c : Ctx) (code : BitVec 16), s.Acting id c →
    (bit c.dbg.ctl 0 = false →
      exec (.bkpt code) s = .next (s.passes id c) ∧
      ∃ t x, exec .halt s = .next t ∧ t.ctx id = some x ∧ x.isOver = true ∧
        t.agenda = s.agenda ++ [(s.now, id, .taskFault id 0x32 0)]) ∧
    (bit c.dbg.ctl 0 = true →
      exec (.bkpt code) s = .next (s.traps id 0x31 0 (code.setWidth 64)) ∧
      (s.issue.on = false → ∃ t x, exec (.bkpt code) s = .next t ∧ t.ctx id = some x ∧ x.dbg.stat = 0x131 ∧ x.regs = c.regs) ∧
      (∃ t x, exec .halt s = .next t ∧ t.ctx id = some x ∧ x.dbg.stat = 0x132 ∧ x.regs = s.after c.regs))
  )

/-- R307, R384: ERET in a handler brings back the last operations, the loop state, RPTC and the pc from TPC, and clears IN; outside a handler it
traps TRAP-STATE; with a TPC that is not 4-byte aligned it traps MISALIGNED.

R382, R384: entry and return are inverse: what the handler finds, returned from with nothing changed, is the interrupted task, with its
registers, its last operations, its loops, RPTC and pc; only the trap registers keep what the entry wrote. -/
def Obligations.TrapReturns : Prop :=
  (
  ∀ (s : State) (id : Nat) (c : Ctx), s.Acting id c →
    let r := c.regs
    let a := r.tpc.toNat % 2 ^ 56
    (r.inTrap = true → r.tpc.toNat % 4 = 0 →
      exec .eret s = .next (s.goes id c { r with st := r.sv, rptc := r.trptc, pc := a, inTrap := false } a)) ∧
    (r.inTrap = false → exec .eret s = .next (s.traps id 0x0E 0 0)) ∧
    (r.inTrap = true → r.tpc.toNat % 4 ≠ 0 → exec .eret s = .next (s.traps id 0x02 0 0))
  ) ∧
  (
  ∀ (s : State) (id : Nat) (c : Ctx) (t : Trap), s.ctx id = some c → c.regs.inTrap = false → c.regs.tvec ≠ 0 → c.dbg.stepping = false →
    c.regs.pc < 2 ^ 56 → c.regs.pc % 4 = 0 →
    ∃ x r, (trapEntry s id t).ctx id = some x ∧ trapReturn x.regs = some r ∧
      r = { c.regs with
        tpc := r.tpc, tcause := r.tcause, taddr := r.taddr, tdetail := r.tdetail, trptc := r.trptc, sv := r.sv }
  )

/-- R382, R383, R389, R390: the events between bundles. With a record in its fault queue and no handler running, a task enters the event trap ENGINE-
FAULT before its next bundle; a debugger's halt request halts it; a step of a debugger ends, without SETTLE, with its issue. -/
def Obligations.BoundaryEvents : Prop :=
  ∀ (s : State) (id : Nat) (c : Ctx), (s.core s.subj).ctx = some id → s.ctx id = some c → c.coreNo = some s.subj → c.isOver = false →
    (c.regs.inTrap = false → c.xf.fq ≠ [] → c.ph.op = none → c.ph.rem = none → c.ph.err = false → c.trapWait = none →
      bit c.dbg.stat 8 = false → c.dbg.settling = false → c.dbg.stepping = false → c.mustWait = false → c.regs.tvec ≠ 0 →
      c.leaving = false → s.switchDue s.subj = false →
      ∃ t x, exec .engineFault s = .next t ∧ t.ctx id = some x ∧ x.regs.tcause = 0x30 ∧ x.regs.tpc = BitVec.ofNat 64 c.regs.pc ∧
        x.regs.pc = c.regs.tvec.toNat ∧ x.regs.inTrap = true ∧ x.regs.s = c.regs.s ∧ x.xf = c.xf ∧ t.mem = s.mem) ∧
    (bit c.dbg.ctl 3 = true → bit c.dbg.stat 8 = false → c.ph.op = none → c.ph.rem = none → c.trapWait = none →
      ∃ t x, exec .debugHalt s = .next t ∧ t.ctx id = some x ∧ x.dbg.stat = 0x132 ∧ x.regs = c.regs ∧ t.mem = s.mem) ∧
    (c.dbg.settling = true → bit c.dbg.ctl 2 = false →
      ∃ t x, exec .debugStepEnd s = .next t ∧ t.ctx id = some x ∧ x.dbg.stat = 0x133 ∧ x.dbg.stepping = false ∧ x.regs = c.regs ∧
        t.mem = s.mem)

/-! ### Memory, scalar loads, stores and atomics (R7, R70, R71, R78, R81, R84, R290 to R295) -/

/-- Reading after writing: in canonical memory a run of bytes written is read back, every other byte reads as before, and the memory stays canonical.
That a byte nothing has written reads 0 is the model's choice (notes/assumptions/3). -/
def Obligations.MemoryReadAfterWrite : Prop :=
  ∀ (m : List Host.Cell) (a : Nat) (bs : List Byte), Memory.wf m = true →
    Memory.wf (Memory.putAll m a bs) = true ∧
    ∀ x, Memory.byte (Memory.putAll m a bs) x = if a ≤ x ∧ x < a + bs.length then bs.getD (x - a) 0 else Memory.byte m x

/-- R7, R40, R45: a write of a run of bytes at a slice whose bank is awake stores exactly those bytes, little-endian order being that of the list,
and every other byte of the package reads as before; an atomic reads the old value and stores the new one there. At a bank that is asleep or
wakes, both wait and write nothing.

R76, R416: outside every world's ranges, and on a line with no symbol error, a write within one line of HBM stores exactly its bytes, and an
atomic reads the old value and stores the new one; every other byte reads as before. -/
def Obligations.HomeWritesExactly : Prop :=
  (
  ∀ (s : State) (w : Who) (env : Env) (core off k o n : Nat) (bs : List Byte) (f : Nat → Nat), Memory.wf s.mem = true → s.sramBad = [] →
    s.servedAt core off = .slice k → s.routeUp w.die (dieOf k) = true →
    (s.halfOff core off .write = some o → s.asleepAt k o = true →
      ∃ t, homeWriteRun s w env (.slice core off) bs = (t, .wait) ∧ t.mem = s.mem ∧ ∃ n, (t.core k).banks.val .gated (bankOf o) = .waking n) ∧
    (s.halfOff core off .atomic = some o → s.asleepAt k o = true →
      ∃ t, homeAtomic s w env (.slice core off) n f = (t, .wait) ∧ t.mem = s.mem) ∧
    (s.halfOff core off .write = some o → s.asleepAt k o = false →
      ∃ t, homeWriteRun s w env (.slice core off) bs = (t, .ok ()) ∧ Memory.wf t.mem = true ∧
        ∀ x, t.byteAt x
          = if sliceCell k o ≤ x ∧ x < sliceCell k o + bs.length then bs.getD (x - sliceCell k o) 0 else s.byteAt x) ∧
    (s.halfOff core off .atomic = some o → s.asleepAt k o = false →
      let old := leNat (s.bytesAt (sliceCell k o) n)
      ∃ t, homeAtomic s w env (.slice core off) n f = (t, .ok old) ∧ Memory.wf t.mem = true ∧
        ∀ x, t.byteAt x
          = if sliceCell k o ≤ x ∧ x < sliceCell k o + n then (leBytes n (f old)).getD (x - sliceCell k o) 0 else s.byteAt x)
  ) ∧
  (
  ∀ (s : State) (w : Who) (env : Env) (pa n : Nat) (bs : List Byte) (f : Nat → Nat), Memory.wf s.mem = true →
    s.hbmReach w.die (pa / 64) = true → s.rangeOf (pa / 64 * 64) = none → s.lineErr.look (pa / 64) = none →
    s.keyed.val 0 (pa / 64) = 0 → (w.req < 5 → s.arb.regions = []) →
    (0 < bs.length → pa % 64 + bs.length ≤ 64 →
      ∃ t, homeWriteRun s w env (.hbm pa) bs = (t, .ok ()) ∧ Memory.wf t.mem = true ∧
        ∀ x, t.byteAt x = if pa ≤ x ∧ x < pa + bs.length then bs.getD (x - pa) 0 else s.byteAt x) ∧
    (0 < n → pa % 64 + n ≤ 64 →
      let old := leNat (s.bytesAt pa n)
      ∃ t, homeAtomic s w env (.hbm pa) n f = (t, .ok old) ∧ Memory.wf t.mem = true ∧
        ∀ x, t.byteAt x = if pa ≤ x ∧ x < pa + n then (leBytes n (f old)).getD (x - pa) 0 else s.byteAt x)
  )

/-- R78, R290, R292: LD and LDX, on an aligned address that translates and that its home admits, join the task's scalar accesses in program order,
with the bytes that the phase's own stores give; nothing is written to memory and no register changes before LOAD_RETURN.

R71, R78, R81, R292: LOAD_RETURN writes the oldest load's register: each byte is that of the phase's own store where there is one, otherwise that
of the line pinned in this phase, otherwise that of memory, whose line is then pinned; a value shorter than 64 bits is zero- or sign-extended. -/
def Obligations.Loads : Prop :=
  (
  ∀ (s s1 : State) (id : Nat) (c : Ctx) (p : Place) (d a b : BitVec 6) (size : BitVec 2) (u : Bool) (off : BitVec 28) (k : BitVec 3),
    s.Sees id c → ∀ i ea,
    (i, ea) ∈ [(Instr.ld d a size u off, (c.regs.getS a + (off.signExtend 64) <<< size.toNat).toNat),
      (Instr.ldx d a b size u k, (c.regs.getS a + c.regs.getS b <<< k.toNat).toNat)] →
    ea % 2 ^ size.toNat = 0 → spaceOf ea ≠ 2 → c.vecBlocks c.ph.seq ea (2 ^ size.toNat) false = false →
    (c.ph.memq.filter (fun m => !m.atomic)).length < 16 → s.accessOk id c true .read ea (2 ^ size.toNat) p s1 →
    ∃ t x m, exec i s = .next t ∧ t.ctx id = some x ∧ x.ph.memq = c.ph.memq ++ [m] ∧
      m.atomic = false ∧ m.d = d ∧ m.va = ea ∧ m.size = size.toNat ∧ m.uns = u ∧ m.place = p ∧
      m.own = (List.range (2 ^ size.toNat)).map (fun j => c.winByte (ea + j)) ∧
      x.regs = s.after c.regs ∧ x.ph.window = c.ph.window ∧ t.mem = s1.mem
  ) ∧
  (
  ∀ (s s1 : State) (c : Ctx) (m : PMem) (rest : List PMem) (line : List Byte), s.ctx s.subj = some c → c.ph.memq = m :: rest →
    m.atomic = false → m.size ≤ 3 → m.own.length = 2 ^ m.size →
    (m.own.all Option.isSome = true ∧ line = [] ∧ s1 = s ∨
      m.own.all Option.isSome = false ∧ (∃ l, c.pinned m.va = some l ∧ line = leBytes 64 l.toNat) ∧ s1 = s ∨
      m.own.all Option.isSome = false ∧ c.pinned m.va = none ∧ s.mustFollow c m.seq m.place = false ∧ s1.ctx s.subj = some c ∧
        homeRead s (s.whoTask c 0 true) (s.envTask c) m.place.line 64 = (s1, .ok line)) →
    let bytes := (List.range (2 ^ m.size)).map (fun j => (m.own.getD j none).getD (line.getD (m.va % 64 + j) 0))
    let v : DWord := if m.uns then BitVec.ofNat 64 (leNat bytes) else (BitVec.ofNat (8 * 2 ^ m.size) (leNat bytes)).signExtend 64
    ∃ t x, exec .loadReturn s = .next t ∧ t.ctx s.subj = some x ∧ x.regs = c.regs.setS m.d v ∧ x.ph.memq = rest ∧
      x.ph.window = c.ph.window ∧ t.mem = s1.mem ∧
      (m.own.all Option.isSome = false → c.pinned m.va = none → c.ph.snap.length < 2048 →
        x.ph.snap = c.ph.snap ++ [{ va := m.va / 64 * 64, data := BitVec.ofNat 512 (leNat line) }])
  )

/-- R70, R290, R293: ST and STX, on an aligned address that translates and that its home admits, write their bytes into the store window only: the
task reads them there, every other byte of the window is as before, no memory byte changes, and no register changes.

R290, R291, R293: a load, store or atomic whose address is no multiple of its size traps MISALIGNED and does nothing else, nothing being
translated; a store that needs a 1,025th line traps STORE-WINDOW-FULL. -/
def Obligations.StoresAndAccessTraps : Prop :=
  (
  ∀ (s s1 : State) (id : Nat) (c : Ctx) (p : Place) (d a b : BitVec 6) (size : BitVec 2) (off : BitVec 28) (k : BitVec 3),
    s.Sees id c → ∀ i ea,
    (i, ea) ∈ [(Instr.st d a size off, (c.regs.getS a + (off.signExtend 64) <<< size.toNat).toNat),
      (Instr.stx d a b size k, (c.regs.getS a + c.regs.getS b <<< k.toNat).toNat)] →
    ea % 2 ^ size.toNat = 0 → s.accessOk id c false .write ea (2 ^ size.toNat) p s1 →
    (c.ph.window.length < 1024 ∨ c.ph.window.any (fun l => decide (l.va = ea / 64 * 64)) = true) →
    ∃ t x, exec i s = .next t ∧ t.ctx id = some x ∧ t.mem = s1.mem ∧
      (∀ j, j < 2 ^ size.toNat → x.winByte (ea + j) = some (((c.regs.getS d) >>> (8 * j)).setWidth 8)) ∧
      (∀ e, ¬ (ea ≤ e ∧ e < ea + 2 ^ size.toNat) → x.winByte e = c.winByte e) ∧
      x.ph.memq = c.ph.memq ∧ x.regs = s.after c.regs
  ) ∧
  (
  ∀ (s s1 : State) (id : Nat) (c : Ctx) (p : Place) (d a b : BitVec 6) (size : BitVec 2) (u dw : Bool) (off : BitVec 28) (k sc : BitVec 3),
    s.Sees id c →
    let ea := (c.regs.getS a + (off.signExtend 64) <<< size.toNat).toNat
    let ex := (c.regs.getS a + c.regs.getS b <<< k.toNat).toNat
    let misaligned : Host.Outcome State Fault Refusal := .next (s.traps id 0x02 0 0)
    (ea % 2 ^ size.toNat ≠ 0 → exec (.ld d a size u off) s = misaligned ∧ exec (.st d a size off) s = misaligned) ∧
    (ex % 2 ^ size.toNat ≠ 0 → exec (Instr.ldx d a b size u k) s = misaligned ∧ exec (Instr.stx d a b size k) s = misaligned) ∧
    ((c.regs.getS a).toNat % (if dw then 8 else 4) ≠ 0 →
      ∀ i, i ∈ [Instr.amoadd d a b sc dw, .amoand d a b sc dw, .amoor d a b sc dw, .amoxor d a b sc dw, .amoswap d a b sc dw,
        .amocas d a b sc dw, .amomin d a b sc dw u, .amomax d a b sc dw u] → exec i s = misaligned) ∧
    ((c.regs.getS a).toNat % 4 ≠ 0 → exec (.amofmax d a b sc) s = misaligned ∧ exec (.amofadd d a b sc) s = misaligned) ∧
    (ea % 2 ^ size.toNat = 0 → s.accessOk id c false .write ea (2 ^ size.toNat) p s1 → 1024 ≤ c.ph.window.length →
      c.ph.window.any (fun l => decide (l.va = ea / 64 * 64)) = false →
      exec (.st d a size off) s = .next ((if s.issue.on then s1 else s).traps id 0x0A 0 0))
  )

/-- R117, R294: what each atomic stores, given the old value, its operand and, for AMOCAS, the old value of its destination.

R84, R99, R100, R294, R295: a scalar atomic at a paged or slice address, below pod scope and with nothing older to wait for, is performed at its
home, once: the destination gets the old value, zero-extended, the line is unpinned and the phase is no longer restartable. At pod scope it calls
Release() and joins the scalar accesses behind it, with no register changed yet; ATOMIC_COMPLETE performs it.

R78, R295: an atomic that had to wait is performed by ATOMIC_COMPLETE, once everything it waits for is over. -/
def Obligations.Atomics : Prop :=
  (
  ∀ (bits old b cmp : Nat) (ftz : Bool), bits = 32 ∨ bits = 64 → old < 2 ^ bits → b < 2 ^ bits →
    let so := (BitVec.ofNat bits old).toInt
    let sb := (BitVec.ofNat bits b).toInt
    let v (op : Nat) := amoValue op bits ftz old b cmp
    v 0x0 = (old + b) % 2 ^ bits ∧
    v 0x1 = (if sb < so then b else old) ∧ v 0x2 = (if so < sb then b else old) ∧
    v 0x3 = min old b ∧ v 0x4 = max old b ∧
    (∀ i, (v 0x5).testBit i = (old.testBit i && b.testBit i) ∧ (v 0x6).testBit i = (old.testBit i || b.testBit i) ∧
      (v 0x7).testBit i = (old.testBit i ^^ b.testBit i)) ∧
    v 0x8 = b ∧ v 0x9 = (if old = cmp then b else old) ∧
    v 0xA = fp32.encode 0 false false 0 (Val.minMax true (fp32.decode old) (fp32.decode b)) ∧
    v 0xB = fp32.encode 0 false ftz 0 ((fp32.decode old).add 0 (fp32.decode b))
  ) ∧
  (
  ∀ (s s1 s2 : State) (id : Nat) (c : Ctx) (p : Place) (d a b : BitVec 6) (sc : BitVec 3) (dw u : Bool) (old : Nat), s.Sees id c →
    ∀ i op wide, (i, op, wide) ∈ [(Instr.amoadd d a b sc dw, 0x0, dw), (.amoand d a b sc dw, 0x5, dw), (.amoor d a b sc dw, 0x6, dw),
      (.amoxor d a b sc dw, 0x7, dw), (.amoswap d a b sc dw, 0x8, dw), (.amocas d a b sc dw, 0x9, dw),
      (.amomin d a b sc dw u, (if u then 0x3 else 0x1), dw), (.amomax d a b sc dw u, (if u then 0x4 else 0x2), dw),
      (.amofmax d a b sc, 0xA, false), (.amofadd d a b sc, 0xB, false)] →
    let ea := (c.regs.getS a).toNat
    let n := if wide then 8 else 4
    ea % n = 0 → spaceOf ea ≠ 2 → s.accessOk id c false .atomic ea n p s1 →
    (∀ e y, sc.toNat = 4 → beginRelease s1 id c.ph.seq = some (s2, e) → s2.ctx id = some y → s2.issue = s.issue →
      ∃ t x m, exec i s = .next t ∧ t.ctx id = some x ∧ t.mem = s2.mem ∧ x.regs = s.after y.regs ∧ x.ph.memq = y.ph.memq ++ [m] ∧
        m.atomic = true ∧ m.d = d ∧ m.va = ea ∧ 2 ^ m.size = n ∧ m.place = p ∧ m.amop = op ∧ m.operand = c.regs.getS b ∧
        m.compare = c.regs.getS d ∧ m.release = some e) ∧
    (sc.toNat ≠ 4 → Ctx.opsDone s c sc.toNat (Ctx.olderOps s c sc.toNat) = true → c.ph.memq = [] → s1.mustFollow c c.ph.seq p = false →
    homeAtomic s1 (s1.whoTask c 0 false) (s1.envTask c) p n
      (fun o => amoValue op (8 * n) (decide (op = 0xB) && ftzOf c.regs.fpctl) o ((c.regs.getS b).toNat % 2 ^ (8 * n))
        ((c.regs.getS d).toNat % 2 ^ (8 * n))) = (s2, .ok old) →
    s2.ctx id = some c → s2.issue = s.issue →
    ∃ t x, exec i s = .next t ∧ t.ctx id = some x ∧ t.mem = s2.mem ∧
      x.regs = s.after (c.regs.setS d (BitVec.ofNat 64 old)) ∧ x.ph.nr = true ∧
      x.ph.window = c.ph.window ∧ x.pinned ea = none ∧ x.ph.memq = [])
  ) ∧
  (
  ∀ (s s1 : State) (c : Ctx) (m : PMem) (old : Nat), s.ctx s.subj = some c → c.ph.memq = [m] → m.atomic = true → m.amop < 16 →
    Ctx.opsDone s c m.scope m.older = true → (∀ e, m.release = some e → c.relDone e = true) →
    homeAtomic s (s.whoTask c 0 false) (s.envTask c) m.place (2 ^ m.size)
      (fun o => amoValue m.amop (8 * 2 ^ m.size) m.ftz o (m.operand.toNat % 2 ^ (8 * 2 ^ m.size))
        (m.compare.toNat % 2 ^ (8 * 2 ^ m.size))) = (s1, .ok old) →
    s1.ctx s.subj = some c →
    ∃ t x, exec .atomicComplete s = .next t ∧ t.ctx s.subj = some x ∧ t.mem = s1.mem ∧
      x.regs = c.regs.setS m.d (BitVec.ofNat 64 old) ∧ x.ph.nr = true ∧ x.ph.memq = []
  )

/-! ### Waits, PHASE, FENCE, DONE, releases (R85 to R104, R249, R250, R302) -/

/-- R249, R250, R302: WAITC passes when each of LD, ST, XF and MS is no more than its field, 15 setting no condition, and stalls otherwise; WAITB
passes when its batch has no unretired step. Neither writes anything.

R303 to R305: ARM adds to COUNT, saturating, and arms, NODE keeping its value without an extension word; BAR takes from COUNT; an armed barrier
with nothing left to arrive fires: it is disarmed, FIRED is set, GEN counts, its posted records leave, its node is decremented; BWAIT takes FIRED
or stalls; BWAIT.try takes it and answers OK, or answers EMPTY. ARM of an armed barrier, and a count of 2^31 or more, trap BARRIER-STATE. -/
def Obligations.WaitsAndBarriers : Prop :=
  (
  ∀ (s : State) (id : Nat) (c : Ctx) (nl ns nx nm : BitVec 4) (n : BitVec 3), s.Sees id c →
    let within (f : BitVec 4) (k : Nat) : Prop := f = 15 ∨ k ≤ f.toNat
    let ld := (c.ph.memq.filter (fun m => !m.atomic)).length
    let st := (s.invals.filter (fun v => decide (v.ctx = some id))).length + c.ph.fences.length + (c.ph.rels.filter (·.accepted)).length
    let xf := (c.xf.log.filter (fun k => decide (k.st = .issued ∨ k.st = .running))).length
    let pass := within nl ld ∧ within ns st ∧ within nx xf ∧ within nm c.eng.ms.length
    let busy := ∃ m ∈ c.eng.ms, m.batch = n.toNat
    (pass → exec (.waitc nl ns nx nm) s = .next (s.passes id c)) ∧ (¬ pass → exec (.waitc nl ns nx nm) s = .next s.stalls) ∧
    (¬ busy → exec (.waitb n) s = .next (s.passes id c)) ∧ (busy → exec (.waitb n) s = .next s.stalls)
  ) ∧
  (
  ∀ (s : State) (id : Nat) (c : Ctx) (n : BitVec 8) (a d : BitVec 6) (nv : Bool) (node : BitVec 16), s.Sees id c → c.away = false →
    Tab.rising c.xf.bars →
    let b := c.bar n.toNat
    let v := (s.rs c a).toNat
    let low : Nat := v % 2 ^ 32
    let sat (k : Int) : Int := max (-2147483648) (min k 2147483647)
    let fires (t : State) (x : Ctx) (b : Barrier) : Prop :=
      x.bar n.toNat = { b with armed := false, fired := true, gen := (b.gen + 1) % 2 ^ 32, posted := 0 } ∧
      x.xf.fired = c.xf.fired ++ c.xf.posted.filter (fun p => decide (p.bar = n.toNat)) ∧
      x.xf.posted = c.xf.posted.filter (fun p => decide (p.bar ≠ n.toNat)) ∧
      (b.nv = true → t.due 0 (.nodeDecrement c.who.region b.node))
    let stays (x : Ctx) (b : Barrier) : Prop := x.bar n.toNat = b ∧ x.xf.posted = c.xf.posted ∧ x.xf.fired = c.xf.fired
    let does (i : Instr) (r : Regs) (post : State → Ctx → Prop) : Prop :=
      ∃ t x, exec i s = .next t ∧ t.ctx id = some x ∧ x.regs = s.after r ∧ t.mem = s.mem ∧ post t x ∧
        ∀ k, k ≠ n.toNat → x.bar k = c.bar k
    let armed : Barrier := { b with count := sat (b.count + v), armed := true, fired := false, nv := nv, node := if s.armExt nv node then node.toNat else b.node }
    let fallen : Barrier := { b with count := sat (b.count - low) }
    let taken : Barrier := { b with fired := false }
    (b.armed = false → v < 2 ^ 31 → armed.count ≤ 0 → does (.arm n a nv node) c.regs (fun t x => fires t x armed ∧ x.ph.nr = true)) ∧
    (b.armed = false → v < 2 ^ 31 → 0 < armed.count → does (.arm n a nv node) c.regs (fun _ x => stays x armed ∧ x.ph.nr = true)) ∧
    (b.armed = true ∨ 2 ^ 31 ≤ v → exec (.arm n a nv node) s = .next (s.traps id 0x0C 0 (n.setWidth 64))) ∧
    (b.armed = true → fallen.count ≤ 0 → does (.bar n a) c.regs (fun t x => fires t x fallen ∧ x.ph.nr = true)) ∧
    (b.armed = false ∨ 0 < fallen.count → does (.bar n a) c.regs (fun _ x => stays x fallen ∧ x.ph.nr = true)) ∧
    (b.fired = false → exec (.bwait n) s = .next s.stalls ∧ exec (.bwaitTry n d) s = .next (s.result id c d 4)) ∧
    (b.fired = true → b.armed = false ∨ 0 < b.count →
      does (.bwait n) c.regs (fun _ x => stays x taken) ∧ does (.bwaitTry n d) (c.regs.setS d 1) (fun _ x => stays x taken))
  )

/-- R85, R86, R91, R98: PHASE with a pair range that lies in the pair table, and nothing older that uses what it publishes, begins its steps and
names the paired buffers of its mask; a range outside the table traps TRANSLATION; FENCE joins the fences of the task with what it waits for;
DONE begins the end of the task, whose pc stays.

R52, R57, R86, R91, R98, R102, R104, R396, R407: PHASE_RELEASE_DONE, once the window is sent, the covered writes are performed, its release is
accepted and its pair entries are flipped, publishes: the named buffers turn, rings take their checkpoint, lines are unpinned, the registers are
checkpointed; for DONE only the ending is left. FENCE_SATISFIED ends the oldest fence; RELEASE_ACCEPTED and RELEASE_COMPLETE take releases in
order. -/
def Obligations.PhasesAndFences : Prop :=
  (
  ∀ (s : State) (id : Nat) (c : Ctx) (sc : BitVec 3) (m p : BitVec 6), s.Sees id c →
    let pr := s.rs c p
    let first := pr.toNat % 2 ^ 32
    let count := pr.toNat / 2 ^ 32 % 2 ^ 16
    let good := pr.toNat < 2 ^ 48 ∧ count ≤ 4096 ∧ (0 < count → first + count ≤ (s.envTask c).pairSize)
    let bset := (span 1 63).filter (fun b => (s.rs c m).getLsbD b && decide ((c.buf b).mode = 2))
    (good → (∀ q ∈ phaseUsers s c bset first count, c.ph.seq ≤ q) →
      ∃ t x, exec (.phase sc m p) s = .next t ∧ t.ctx id = some x ∧ x.regs = s.after c.regs ∧ t.mem = s.mem ∧ t.due id .phaseReleaseDone ∧
        x.ph = { c.ph with op := some {
          isDone := false, pc := c.regs.pc, scope := sc.toNat, bset := bset, pairFrom := first, pairCount := count, sent := false,
          release := none, next := 0, ending := false } }) ∧
    (¬ good → exec (.phase sc m p) s = .next (s.traps id 0x03 0 (faultWord Tstat.pteFormat 0 .write false false))) ∧
    ((s.invals.filter (fun v => decide (v.ctx = some id))).length + c.ph.fences.length + (c.ph.rels.filter (·.accepted)).length < 16 →
      ∃ t x, exec (.fence sc) s = .next t ∧ t.ctx id = some x ∧ x.regs = s.after c.regs ∧ t.mem = s.mem ∧ t.due id .fenceSatisfied ∧
        x.ph = { c.ph with fences := c.ph.fences ++ [{
          seq := c.ph.seq, pc := c.regs.pc, scope := sc.toNat, older := Ctx.olderOps s c sc.toNat, release := none }] }) ∧
    (c.regs.pc % 4 = 0 →
      ∃ t x, exec .done s = .next t ∧ t.ctx id = some x ∧ x.regs = c.regs ∧ t.mem = s.mem ∧ t.due id .phaseReleaseDone ∧
        x.ph = { c.ph with op := some {
          isDone := true, pc := c.regs.pc, scope := 4, bset := [], pairFrom := 0, pairCount := 0, sent := false, release := none, next := 0,
          ending := false } })
  ) ∧
  (
  ∀ (s : State) (c : Ctx), s.ctx s.subj = some c →
    (∀ op, c.ph.op = some op → op.ending = false → op.sent = true → c.ph.window = [] → c.ph.late = [] →
      Ctx.opsDone s c op.scope (Ctx.olderOps s c op.scope) = true →
      (op.scope = 4 → op.release ≠ none) → (∀ e, op.release = some e → c.relAccepted e = true) → op.pairCount ≤ op.next →
      ∃ t x, exec .phaseReleaseDone s = .next t ∧ t.ctx s.subj = some x ∧ x.ph.snap = [] ∧ x.regs = c.regs ∧ t.mem = s.mem ∧
        (op.isDone = true → x.ph.op = some { op with ending := true } ∧ x.bufs = c.bufs ∧ t.due s.subj .taskFinish) ∧
        (op.isDone = false →
          x.ph.op = none ∧ x.ph.nr = false ∧ x.ph.rbcnt = 0 ∧ x.ph.no = c.ph.no + 1 ∧ x.ph.ck.pc = c.regs.pc ∧ x.ph.ck.regs = c.regs ∧
          x.ph.ck.tagNext = c.xf.tagNext ∧ x.ph.ck.cur = c.eng.cur ∧ x.ph.ck.mcount = c.eng.mcount ∧
          ∀ b e, c.bufs.look b = some e → ∃ e', x.bufs.look b = some e' ∧
            e'.front = (e.front ^^ decide (b ∈ op.bset)) ∧ e'.base = e.base ∧ e'.claimed = e.claimed ∧
            (e.mode = 3 → e'.ckhead = e.head ∧ e'.ckcount = e.claimed ∧ e'.held = 0) ∧ (e.mode ≠ 3 → e'.held = e.held))) ∧
    (∀ f rest, c.ph.fences = f :: rest → Ctx.opsDone s c f.scope f.older = true → (f.scope = 4 → f.release ≠ none) →
      (∀ e, f.release = some e → c.relDone e = true) →
      ∃ t x, exec .fenceSatisfied s = .next t ∧ t.ctx s.subj = some x ∧ x.ph = { c.ph with fences := rest } ∧ x.regs = c.regs ∧
        t.mem = s.mem) ∧
    (∀ r, c.ph.rels.find? (fun r => !r.accepted) = some r → s.mid.fences.length + r.counts.length ≤ 4096 →
      ∃ t x, exec .releaseAccepted s = .next t ∧ t.ctx s.subj = some x ∧ t.due s.subj .releaseComplete ∧ x.regs = c.regs ∧ t.mem = s.mem ∧
        x.ph = { c.ph with
          rels := c.ph.rels.map (fun y => if y.epoch = r.epoch then { r with accepted := true, counts := [] } else y) }) ∧
    (∀ r rest, c.ph.rels = r :: rest → r.accepted = true → (∀ p ∈ s.mid.reqs, p.2.st ≠ .held) →
      (∀ p ∈ s.mid.fences, p.2.ctx = s.subj → p.2.epoch = r.epoch → p.2.count = 0 ∧ p.2.worst = 0) →
      ∃ t x, exec .releaseComplete s = .next t ∧ t.ctx s.subj = some x ∧ x.ph = { c.ph with rels := rest } ∧ x.xf = c.xf ∧
        x.regs = c.regs ∧ t.mem = s.mem ∧
        t.mid.fences = s.mid.fences.filter (fun p => decide (¬ (p.2.ctx = s.subj ∧ p.2.epoch = r.epoch))))
  )

/-! ### Barriers (R303 to R305) -/

/-! ### Grids, nodes, queues (R197 to R209) -/

/-- R203, R204: GROW, SPAWN and CLOSE, with nothing older to wait for, answer at once: OK with the grid changed, or the reason why not: CLOSED 6,
LIMIT 8, NO-GRID 10, NO-NODE 12, FULL 2; a refused one changes no grid and leaves the phase restartable. -/
def Obligations.GridWork : Prop :=
  ∀ (s : State) (id : Nat) (c : Ctx) (d a b : BitVec 6), s.Sees id c → s.bad = none →
    Ctx.opsDone s c 3 (Ctx.olderOps s c 3) = true → c.ph.memq = [] →
    let r := c.who.region
    let v := s.rs c a
    let own := c.who.grid
    let g := v.toNat % 256
    let e := s.grid r g
    let gives (i : Instr) (w : DWord) (post : State → Prop) : Prop :=
      ∃ t x, exec i s = .next t ∧ t.ctx id = some x ∧ x.regs = s.after (c.regs.setS d w) ∧ x.ph.nr = (c.ph.nr || w.getLsbD 0) ∧ post t
    let same (t : State) : Prop := t.arb = s.arb ∧ t.mem = s.mem
    let becomes (k : Nat) (e : Grid) (t : State) : Prop := t.grid r k = e ∧ ∀ j, j ≠ gridKey r k → t.arb.grids.look j = s.arb.grids.look j
    (s.gridAddr r own + 128 ≤ 2 ^ 39 →
      ((s.grid r own).st ≠ 1 → gives (.grow d a) 6 same) ∧
      ((s.grid r own).st = 1 → 2 ^ 32 < (s.grid r own).count + v.toNat → gives (.grow d a) 8 same) ∧
      ((s.grid r own).st = 1 → (s.grid r own).count + v.toNat ≤ 2 ^ 32 →
        gives (.grow d a) 1 (fun t => becomes own { s.grid r own with count := (s.grid r own).count + v.toNat } t ∧ t.due 0 .arbiterChoice))) ∧
    (s.gridAddr r g + 128 ≤ 2 ^ 39 →
      (e.st ≠ 1 → gives (.close d a) 6 same) ∧
      (e.st = 1 → e.retired + e.faults + e.killed ≠ e.count → gives (.close d a) 1 (becomes g { e with st := 2 }))) ∧
    (v.toNat < 2 ^ 63 → s.gridAddr r g + 128 ≤ 2 ^ 39 → e.spbase + 16384 ≤ 2 ^ 39 →
      let full := (e.sptail + 2 ^ 16 - e.sphead) % 2 ^ 16 = 1024
      (256 ≤ v.toNat ∨ e.st = 0 → gives (.spawn d a b) 10 same) ∧
      (v.toNat < 256 → e.st ≠ 0 → e.st ≠ 1 → gives (.spawn d a b) 6 same) ∧
      (v.toNat < 256 → e.st = 1 → e.spbase = 0 ∨ full → gives (.spawn d a b) 2 same) ∧
      (v.toNat < 256 → e.st = 1 → e.spbase ≠ 0 → ¬ full → e.count = 2 ^ 32 → gives (.spawn d a b) 8 same) ∧
      (v.toNat < 256 → e.st = 1 → e.spbase ≠ 0 → ¬ full → e.count ≠ 2 ^ 32 →
        gives (.spawn d a b) 1 (fun t =>
          becomes g { e with count := e.count + 1, sptail := (e.sptail + 1) % 2 ^ 16 } t ∧ t.due 0 .arbiterChoice))) ∧
    (2 ^ 63 + 2 ^ 16 ≤ v.toNat → gives (.spawn d a b) 12 same)

/-- R199, R202, R208: LAUNCH writes the grid of an acceptable packet, OPEN or CLOSED as the packet says, with as many indices as x × y × z, and the
arbiter looks for work; NODE_DECREMENT takes one from the PRED of a valid node that still waits for more than one.

R440, R443: a doorbell sets a launch queue's TAIL, and a queue that would hold more packets than its size stops with ERR; LQCTL with EN = 0 sets
HEAD, TAIL and ERR to 0, and SIZELOG stays while EN = 1. A queue with a packet to be read is served. A vector that is unmasked sends its pending
message once. -/
def Obligations.LaunchesNodesQueues : Prop :=
  (
  ∀ (s : State), s.bad = none →
    (∀ bytes r g x y z, launchStatus s none bytes = none →
      r = (dwordAt bytes 0).toNat / 2 ^ 40 % 2 ^ 16 → g = (dwordAt bytes 0).toNat / 2 ^ 32 % 2 ^ 8 → x = (dwordAt bytes 3).toNat % 2 ^ 32 →
      y = (dwordAt bytes 3).toNat / 2 ^ 32 → z = (dwordAt bytes 4).toNat % 2 ^ 32 → 0 < z → s.gridAddr r g + 128 ≤ 2 ^ 39 →
      ∃ t, exec (.launch 0 bytes) s = .next t ∧ t.due 0 .arbiterChoice ∧
        (t.grid r g).st = (if (dwordAt bytes 0).getLsbD 0 then 1 else 2) ∧ (t.grid r g).count = x * y * z ∧ (t.grid r g).issued = 0 ∧
        (t.grid r g).retired = 0 ∧ (t.grid r g).faults = 0 ∧ (t.grid r g).killed = 0 ∧ (t.grid r g).packet = bytes.take 64 ∧
        (t.grid r g).retmap = (dwordAt bytes 6).toNat % 2 ^ 56 ∧ t.ctxs = s.ctxs ∧
        ∀ j, j ≠ gridKey r g → t.arb.grids.look j = s.arb.grids.look j) ∧
    (∀ r n, s.regionLive r = true → s.nodeAddr r n + 32 ≤ 2 ^ 39 →
      let d := (s.devDword (s.whoRegion r 4) (s.nodeAddr r n)).2
      d.getLsbD 0 = true → d.getLsbD 60 = false → d.toNat / 2 ^ 62 = 1 ∨ d.toNat / 2 ^ 62 = 2 → 1 < d.toNat / 2 ^ 32 % 2 ^ 16 →
      exec (.nodeDecrement r n) s = .next (s.devWrite (s.whoRegion r 4) (s.nodeAddr r n) (leBytes 8 (d.toNat - 2 ^ 32))))
  ) ∧
  (
  (∀ (s : State) (q : Nat) (tail : BitVec 32) (v : BitVec 64), q < 16 → s.host.phase = 6 →
    let l := s.lq q
    let others (t : State) : Prop := t.mem = s.mem ∧ t.ctxs = s.ctxs ∧ t.arb = s.arb ∧ ∀ p, p ≠ q → t.lq p = s.lq p
    let served (t : State) : Prop := (t.lq q).en = true → (t.lq q).err = false → (t.lq q).head ≠ (t.lq q).tail →
      ∃ e ∈ t.agenda, ∃ src bytes, e.2.2 = .launch src bytes ∧ 2 ^ 32 ≤ src
    (∃ t, exec (.lqDoorbell q tail) s = .next t ∧ others t ∧ served t ∧
      t.lq q = { l with
        tail := tail.toNat, err := l.err || (l.en && decide (2 ^ l.sizelog < (tail.toNat + 2 ^ 32 - l.head) % 2 ^ 32)) }) ∧
    (∃ t, exec (.lqctlWrite q v) s = .next t ∧ others t ∧ served t ∧
      let size := if l.en then l.sizelog else if v.toNat / 16 % 16 = 0 then 1 else v.toNat / 16 % 16
      t.lq q = if v.getLsbD 0 then { l with en := true, notify := v.getLsbD 1, sizelog := size }
        else { l with en := false, notify := v.getLsbD 1, sizelog := size, head := 0, tail := 0, err := false })) ∧
  (∀ (s : State), ∃ t, exec .msixUnmask s = .next t ∧ s.subj ∉ t.host.masked ∧ s.subj ∉ t.host.pend ∧
    (∀ u, u ≠ s.subj → (u ∈ t.host.masked ↔ u ∈ s.host.masked) ∧ (u ∈ t.host.pend ↔ u ∈ s.host.pend)) ∧
    t.host.sent = if s.subj ∈ s.host.pend then s.subj :: s.host.sent else s.host.sent)
  )

/-- R205, R306: ENQ and DEQ at a queue, with nothing older to wait for, answer what the queue does; a full queue answers FULL 2 and an empty one
EMPTY 4, with nothing written; otherwise ENQ writes its value at TAIL and then the header, DEQ takes the value at HEAD. An address outside slice
space or not line-aligned traps QUEUE-FORMAT. -/
def Obligations.QueueWork : Prop :=
  (∀ (s s1 s2 s3 : State) (id : Nat) (c : Ctx) (d a b : BitVec 6) (p : Place) (bs : List Byte) (st x : DWord), s.Sees id c → s3.bad = none →
    Ctx.opsDone s2 c 3 (Ctx.olderOps s c 3) = true → c.ph.memq = [] →
    let ea := (s.rs c a).toNat
    let w := s.whoTask c 0 false
    (¬ (spaceOf ea = 1 ∧ ea % 64 = 0) → s.bad = none →
      exec (.enq d a b) s = .next (s.traps id 0x0D 0 0) ∧ exec (.deq d a b) s = .next (s.traps id 0x0D 0 0)) ∧
    (spaceOf ea = 1 → ea % 64 = 0 → s2.mustFollow c c.ph.seq (.slice (ea / 2 ^ 23 % 512) (ea % 2 ^ 23)) = false → translate s w (s.envTask c) .atomic ea 64 = (s1, .ok p) → homeRead s1 w (s1.envTask c) p 64 = (s2, .ok bs) →
      (queueHeader s2 (ea / 2 ^ 23 % 512) (ea % 2 ^ 23) bs).isSome = true → s3.ctx id = some c → s3.issue = s.issue →
      (queueOp s2 (s2.whoTask c 0 false) (s2.envTask c) ea (some (s.rs c b)) = (s3, .done st x) →
        ∃ t y, exec (.enq d a b) s = .next t ∧ t.ctx id = some y ∧ y.regs = s.after (c.regs.setS d st) ∧ t.mem = s3.mem) ∧
      (queueOp s2 (s2.whoTask c 0 false) (s2.envTask c) ea none = (s3, .done st x) →
        ∃ t y, exec (.deq d a b) s = .next t ∧ t.ctx id = some y ∧ y.regs = s.after ((c.regs.setS d st).setS b x) ∧ t.mem = s3.mem))) ∧
  (∀ (s s1 s2 s3 s4 : State) (w : Who) (env : Env) (core off head tail n : Nat) (v : DWord) (bs old : List Byte), core < 512 → off < 2 ^ 23 →
    homeRead s w env (.slice core off) 64 = (s1, .ok bs) → queueHeader s1 core off bs = some (head, tail, n) →
    let q := core * 2 ^ 23 + off
    let used := (tail + 2 ^ 32 - head) % 2 ^ 32
    (used = n → queueOp s w env q (some v) = (s1, .done 2 0)) ∧
    (used = 0 → queueOp s w env q none = (s1, .done 4 0)) ∧
    (used ≠ n → s1.sliceAllowed w core (off + 64 + 8 * (tail % n)) .atomic = true →
      homeRead s1 w env (.slice core (off + 64 + 8 * (tail % n))) 8 = (s2, .ok old) →
      homeWriteRun s2 w env (.slice core (off + 64 + 8 * (tail % n))) (leBytes 8 v.toNat) = (s3, .ok ()) →
      homeWriteRun s3 w env (.slice core off) (leBytes 8 (head * 2 ^ 32 + (tail + 1) % 2 ^ 32)) = (s4, .ok ()) → head < 2 ^ 32 →
      queueOp s w env q (some v) = (s4, .done 1 0)) ∧
    (used ≠ 0 → s1.sliceAllowed w core (off + 64 + 8 * (head % n)) .atomic = true →
      homeRead s1 w env (.slice core (off + 64 + 8 * (head % n))) 8 = (s2, .ok old) →
      homeWriteRun s2 w env (.slice core off) (leBytes 8 ((head + 1) % 2 ^ 32 * 2 ^ 32 + tail)) = (s3, .ok ()) → tail < 2 ^ 32 →
      queueOp s w env q none = (s3, .done 1 (dwordAt old 0))))

/-! ### Invalidations, walks, host translations (R24, R26, R27, R30, R309) -/

/-- R26, R30, R309: each TLBI removes at once what its kind names from the caches of leaves, tables, windows and host translations, and nothing else;
it joins the invalidations of the package, counted for the task, until INVALIDATION_COMPLETE; with sixteen counted it stalls.

R24, R27, R30: INVALIDATION_COMPLETE ends an invalidation when nothing that used what it removed is left, and answers the host's with its tag;
ATS_INVALIDATE removes host translations; ATS_COMPLETION answers every request for the die and PASID that it covers, for at least 4 KiB;
WALK_START takes the walk of the next requester in number, with wrap-around; WALK_COMPLETE ends a walk, whose leaf enters the cache and whose
accesses go on unless the walk is stale. -/
def Obligations.InvalidationsAndWalks : Prop :=
  (
  ∀ (s : State) (id : Nat) (c : Ctx) (a b : BitVec 6), s.Sees id c →
    let count := (s.invals.filter (fun v => decide (v.ctx = some id))).length + c.ph.fences.length + (c.ph.rels.filter (·.accepted)).length
    let x := (s.rs c a).toNat
    let y := (s.rs c b).toNat
    let mine (e : Tlb) : Prop := e.world = c.who.world
    let lo := x / 4096 * 4096
    let hi := (x + y + 4095) / 4096 * 4096
    let does (i : Instr) (kind : Nat) (leaf table : Tlb → Prop) (win : WinEnt → Prop) (host : Ats → Prop) : Prop :=
      (16 ≤ count → exec i s = .next s.stalls) ∧
      (count < 16 → ∃ t z v, exec i s = .next t ∧ t.ctx id = some z ∧ z.regs = s.after c.regs ∧ t.mem = s.mem ∧
        t.invals = s.invals ++ [v] ∧ v.kind = kind ∧ v.ctx = some id ∧ v.ring = false ∧ v.tag = none ∧ t.due v.id .invalidationComplete ∧
        (∀ e, e ∈ t.tlbs ↔ e ∈ s.tlbs ∧ ¬ leaf e) ∧ (∀ e, e ∈ t.walkc ↔ e ∈ s.walkc ∧ ¬ table e) ∧
        (∀ e, e ∈ t.wins ↔ e ∈ s.wins ∧ ¬ win e) ∧ (∀ e, e ∈ t.ats ↔ e ∈ s.ats ∧ ¬ host e))
    does (.tlbiPage a b) 0 (fun e => mine e ∧ e.asn = y % 2 ^ 16 ∧ e.va = x / 2 ^ pageBits e.level) (fun _ => False) (fun _ => False) (fun _ => False) ∧
    does (.tlbiAsn a b) 1 (fun e => mine e ∧ e.asn = y % 2 ^ 16) (fun e => mine e ∧ e.asn = y % 2 ^ 16) (fun _ => False) (fun _ => False) ∧
    does .tlbiWorld 2 mine mine (fun e => e.world = c.who.world) (fun e => e.world = c.who.world) ∧
    does (.tlbiWindow a) 3 (fun _ => False) (fun _ => False) (fun e => e.region = c.who.region ∧ e.w = x % 128) (fun _ => False) ∧
    does .tlbiWindows 4 (fun _ => False) (fun _ => False) (fun e => e.region = c.who.region) (fun _ => False) ∧
    does (.tlbiHost a b) 5 (fun _ => False) (fun _ => False) (fun _ => False) (fun e => e.addr < hi ∧ lo < e.addr + 2 ^ max e.sizeLog 12)
  ) ∧
  (
  ∀ (s : State),
    (∀ v, s.invals.find? (fun v => decide (v.id = s.subj)) = some v → (∀ u ∈ v.users, stillUsed s u = false) → v.ring = false →
      let left := s.invals.filter (fun y => decide (y.id ≠ v.id))
      exec .invalidationComplete s = .next (match v.tag with
        | some n => { s with invals := left, out := (101, leBytes 4 n) :: s.out }
        | none => { s with invals := left })) ∧
    (∀ addr len tag, ∃ t v, exec (.atsInvalidate addr len tag) s = .next t ∧ t.invals = s.invals ++ [v] ∧ v.tag = some tag ∧
      t.due v.id .invalidationComplete ∧ t.tlbs = s.tlbs ∧ t.wins = s.wins ∧ t.mem = s.mem ∧
      ∀ e, e ∈ t.ats ↔ e ∈ s.ats ∧
        ¬ (e.addr < (addr + len + 4095) / 4096 * 4096 ∧ addr / 4096 * 4096 < e.addr + 2 ^ max e.sizeLog 12)) ∧
    (∀ die pasid addr out sizeLog r w,
      let n := max 12 sizeLog
      let base := addr / 2 ^ n * 2 ^ n
      exec (.atsCompletion die pasid addr out sizeLog r w) s = .next { s with
        ats := s.ats.map fun e =>
          if e.sizeLog = 0 ∧ e.die = die ∧ e.pasid = pasid ∧ base ≤ e.addr ∧ e.addr < base + 2 ^ n then
            { e with addr := base, out := out / 2 ^ n * 2 ^ n, sizeLog := n, r := r, w := w }
          else e }) ∧
    (let d := s.die s.subj
     d.missq ≠ [] → d.walks.length < (if s.subj = 4 then 32 else 64) →
      ∃ t w, exec .walkStart s = .next t ∧ w ∈ d.missq ∧ t.die s.subj = { d with missq := d.missq.erase w, walks := d.walks ++ [w], rr := w.req } ∧
        t.due s.subj .walkComplete ∧ (1 < d.missq.length → t.due s.subj .walkStart) ∧
        (∀ v ∈ d.missq, d.rr < v.req → d.rr < w.req ∧ w.req ≤ v.req) ∧ ((∀ v ∈ d.missq, v.req ≤ d.rr) → ∀ v ∈ d.missq, w.req ≤ v.req)) ∧
    (∀ w rest, (s.die s.subj).walks = w :: rest →
      let who : Who := { die := s.subj, world := w.world, region := 0, core := 0x1FF, req := 3, opens := false }
      let env : Env := { region := 0, world := w.world, asn := w.asn, root := w.root, pasid := 0, pairBase := 0, pairSize := 0, wintab := 0 }
      (∀ s1 l s2 v, walk who env w.va 4 3 w.root s = (s1, .ok l) → leafPermits l.value w.kind = true →
        (l.value.toNat / 2 ^ 8 % 4 = 0 → setAccessed s1 who w.kind l = (s2, some v)) → (l.value.toNat / 2 ^ 8 % 4 ≠ 0 → s2 = s1 ∧ v = l.value) →
        ∃ t, exec .walkComplete s = .next t ∧ (t.die s.subj).walks = rest ∧ t.due s.subj .walkStart ∧
          (w.stale = true → t.tlbs = s2.tlbs ∧ (t.die s.subj).walked = (s2.die s.subj).walked) ∧
          (w.stale = false → (t.die s.subj).walked.head? = some w) ∧
          (w.stale = false → s.subj = 4 ∨ w.req < 9 → ∃ e, t.tlbs.head? = some e ∧ e.site = (if s.subj = 4 then 2000 else 1000 + s.subj * 9 + w.req) ∧
            e.world = w.world ∧ e.asn = w.asn ∧ e.va = w.va / 2 ^ pageBits l.level ∧ e.level = l.level ∧ e.leaf = v)) ∧
      (∀ s1 r, walk who env w.va 4 3 w.root s = (s1, r) → (∀ l, r = .ok l → leafPermits l.value w.kind = false) →
        ∃ t, exec .walkComplete s = .next t ∧ (t.die s.subj).walks = rest ∧ t.tlbs = (match r with | .ok _ => s1.tlbs | _ => s.tlbs)))
  )

/-! ### The matrix stream (R65 to R68, R183, R184, R250, R310 to R323) -/

/-- R310, R311, R317 to R320, R322: an operation of the MAT slot whose checks pass joins the stream as its youngest operation and the open batch,
with its operands captured; tiles do not change before it acts. MZERO, MRANK and MCOPY set what later checks see of a tile's mode; MPOP of no
ring, and MADDT of tiles of two modes, trap; a full stream stalls. -/
def Obligations.MatrixIssues : Prop :=
  ∀ (s : State) (id : Nat) (c : Ctx) (t u : BitVec 4) (ha hb : BitVec 5) (fp : BitVec 4) (ka kb dir ib : Bool) (row0 col0 : BitVec 7)
    (z : BitVec 6) (mask sum : BitVec 16) (k buf : BitVec 6) (q n : BitVec 8), s.Sees id c → c.eng.ms.length < 32 → Tab.rising c.eng.tissue →
    Tab.rising c.eng.btile →
    c.ph.markm ≤ c.eng.mcount - c.ph.ck.mcount →
    let joins (i : Instr) (a b : Handle) (scal : DWord) (tiles : Nat → Prop) (desc : Nat → BitVec 16) : Prop :=
      ∃ t x m, exec i s = .next t ∧ t.ctx id = some x ∧ x.regs = s.after c.regs ∧ t.mem = s.mem ∧
        x.eng.ms.map (·.seq) = c.eng.ms.map (·.seq) ++ [c.ph.seq] ∧ x.eng.ms.getLast? = some m ∧
        m.instr = i ∧ m.ha = a ∧ m.hb = b ∧ m.scal = scal ∧ m.batch = c.eng.cur ∧ m.acted = false ∧ m.pc = c.regs.pc ∧ m.cmd = none ∧
        x.eng.mcount = c.eng.mcount + 1 ∧ x.eng.cur = c.eng.cur ∧ x.eng.tile = c.eng.tile ∧ x.eng.tdesc = c.eng.tdesc ∧
        (∀ j, j < 16 → ((x.eng.btile.val 0 c.eng.cur).getLsbD j = true ↔ (c.eng.btile.val 0 c.eng.cur).getLsbD j = true ∨ tiles j)) ∧
        (∀ j, x.eng.tissue.val 0 j = desc j) ∧ (c.eng.ms = [] → t.due id .matrixRetire)
    let now (j : Nat) : BitVec 16 := c.eng.tissue.val 0 j
    let A := s.rh c ha
    let B := s.rh c hb
    let pl := planeOf c.regs A ++ planeOf c.regs B
    let form (fp : Nat) (fresh : Bool) : MmaForm :=
      { t := t.toNat, fp := fp, fresh := fresh, ka := ka, kb := kb, row0 := row0.toNat, col0 := col0.toNat, za := 0, zb := 0 }
    let one (j : Nat) : Prop := j = t.toNat
    (matrixCheck s c (form fp.toNat false) A B pl = none → joins (.mma t ha hb fp ka kb row0 col0) A B 0 one now) ∧
    (matrixCheck s c (form fp.toNat true) A B pl = none → joins (.mmax t ha hb fp ka kb row0 col0) A B 0 one now) ∧
    (matrixCheck s c (form 9 false) A B pl = none → joins (.mmaq t ha hb z ka kb row0 col0) A B (s.rs c z) one now) ∧
    joins (.mzero mask) 0 0 0 (fun j => mask.getLsbD j = true) (fun j => if mask.getLsbD j then 0 else now j) ∧
    joins (.mrank t k dir) 0 0 0 one (fun j => if j = t.toNat then BitVec.ofNat 16 (2 ^ 7 + (if dir then 2 ^ 6 else 0) + k.toNat) else now j) ∧
    joins (.mcopy t u) 0 0 0 one (fun j => if j = t.toNat then now u.toNat else now j) ∧
    joins (.mkat q sum) 0 0 0 (fun _ => False) now ∧
    ((c.buf buf.toNat).mode = 3 ∧ n.toNat ≤ (c.buf buf.toNat).nslot → joins (.mpop buf n) 0 0 0 (fun _ => False) now) ∧
    (¬ ((c.buf buf.toNat).mode = 3 ∧ n.toNat ≤ (c.buf buf.toNat).nslot) →
      exec (.mpop buf n) s = .next (s.traps id 0x09 0 (buf.setWidth 64))) ∧
    (let a := now t.toNat
     let b := now u.toNat
     let same := descRanked a = descRanked b ∧ (descRanked a = true → descDir a = descDir b)
     (same → joins (.maddt t u ib) 0 0 0 one now) ∧
     (¬ same → exec (.maddt t u ib) s = .next (s.traps id 0x07 0 (t.setWidth 64))))

/-- R237, R250, R311, R323: with the stream full an operation stalls; MCOMMIT closes the open batch and opens the next, once that has retired; MTHR,
of a ranked tile not in flight, reads the worst K-th value over its rows: for one row, the K-th pair's value, or the worst possible when the row
is shorter or the value is a NaN; otherwise it traps ACC-IN-FLIGHT or TILE-MODE.

R183, R184, R310, R312, R315, R317, R318, R322: MATRIX_RETIRE has the one operation of the stream act and retire. A multiply step adds to its
rectangle: with INT8 the products of the differences from the zero points, modulo 2^32; with floats group by group, each group's exact sum added
with one rounding; MMAX starts from zero. MZERO clears its tiles, MCOPY copies, MADDT adds word by word or float by float. Every other word of
every tile is as it was. -/
def Obligations.MatrixBatchesAndActs : Prop :=
  (
  ∀ (s : State) (id : Nat) (c : Ctx) (t : BitVec 4) (mask : BitVec 16) (d : BitVec 6) (first cntM1 : BitVec 7), s.Sees id c →
    let next := (c.eng.cur + 1) % 8
    let busy (b : Nat) : Prop := ∃ m ∈ c.eng.ms, m.batch = b
    let desc := c.eng.tissue.val 0 t.toNat
    let flying := ∃ p ∈ c.eng.btile, p.2.getLsbD t.toNat = true
    let far : Word := if descDir (c.eng.tdesc.val 0 t.toNat) then 0x7F800000 else 0xFF800000
    (32 ≤ c.eng.ms.length → exec (.mzero mask) s = .next s.stalls) ∧
    (busy next → exec .mcommit s = .next s.stalls) ∧
    (¬ busy next → ∃ t x, exec .mcommit s = .next t ∧ t.ctx id = some x ∧ x.eng.cur = next ∧ x.eng.ms = c.eng.ms ∧ x.regs = s.after c.regs ∧
      x.eng.tile = c.eng.tile ∧ t.mem = s.mem) ∧
    (flying → exec (.mthr d t first cntM1) s = .next (s.traps id 0x06 0 (t.setWidth 64))) ∧
    (¬ flying → descRanked desc = false → exec (.mthr d t first cntM1) s = .next (s.traps id 0x07 0 (t.setWidth 64))) ∧
    (¬ flying → descRanked desc = true → ∃ v : Word, exec (.mthr d t first cntM1) s = .next (s.result id c d (v.setWidth 64)) ∧
      (cntM1 = 0 → v = (match (c.rowPairs t.toNat first.toNat)[descK (c.eng.tdesc.val 0 t.toNat) - 1]? with
        | some p => if (fp32.decode p.1.toNat).isNan then far else p.1
        | none => far)))
  ) ∧
  (
  ∀ (s s1 s2 : State) (c : Ctx) (m : MOp), s.ctx s.subj = some c → c.eng.ms = [m] → m.acted = false → m.cancelled = false → m.absorbed = false →
    m.cmd = none → (m.rings = [] ∨ ∃ buf n, m.instr = .mpop buf n) → c.coreNo.isSome = true → c.away = false → s.bad = none → opReady s s.subj c m = true →
    let acts (post : Ctx → Prop) (s1 : State) : Prop :=
      ∃ t x, exec .matrixRetire s = .next t ∧ t.ctx s.subj = some x ∧ x.eng.ms = [] ∧ x.eng.mcount = c.eng.mcount ∧ x.regs = c.regs ∧
        t.mem = s1.mem ∧ post x
    let cells (f : Nat → Nat → Nat → Word) (x : Ctx) : Prop :=
      ∀ t i j, t < 16 → i < 128 → j < 128 → x.eng.tile.val 0 (tileWord t i j) = f t i j
    let old (t i j : Nat) : Word := c.eng.tile.val 0 (tileWord t i j)
    (∀ mask, m.instr = .mzero mask → acts (cells (fun t i j => if mask.getLsbD t then 0 else old t i j)) s) ∧
    (∀ t u, m.instr = .mcopy t u → acts (fun x => cells (fun k i j => if k = t.toNat then old u.toNat i j else old k i j) x) s) ∧
    (∀ t k dir, m.instr = .mrank t k dir →
      acts (fun x => x.eng.tdesc = c.eng.tdesc.put 0 t.toNat (BitVec.ofNat 16 (2 ^ 7 + (if dir then 2 ^ 6 else 0) + k.toNat)) ∧
        cells (fun k i j => if k = t.toNat then (if j < 64 then if j % 2 = 0 then 0x7FC00000 else 0xFFFFFFFF else 0) else old k i j) x) s) ∧
    (∀ t u ib, m.instr = .maddt t u ib → descRanked (c.eng.tdesc.val 0 t.toNat) = false →
      acts (cells (fun k i j =>
        if k = t.toNat then
          if ib then old k i j + old u.toNat i j
          else BitVec.ofNat 32 (fp32.encode 0 false m.ftz 0 ((fp32.decode (old k i j).toNat).add 0 (fp32.decode (old u.toNat i j).toNat)))
        else old k i j)) s) ∧
    (∀ q sum, m.instr = .mkat q sum → katSum q.toNat = sum.toNat → acts (cells old) s) ∧
    (∀ buf n k, m.instr = .mpop buf n → m.rings = [{ buf := buf.toNat, slot := some k, consume := true, n := n.toNat }] →
      acts (fun x => cells old x ∧ x.buf buf.toNat = BufEnt.popN n.toNat (c.buf buf.toNat)) s) ∧
    (∀ f va vb, m.form = some f → hRing m.ha = false → hRing m.hb = false → f.t < 16 →
      let w := s.whoTask c 1 false
      let fa := (mmaFmt m.ha (mmaPair f.fp).1).getD 0
      let fb := (mmaFmt m.hb (mmaPair f.fp).2.1).getD 0
      let d := hExt m.ha 0
      let g := (mmaPair f.fp).2.2.1
      operandVals s w (s.envTask c) m.planes m.sx4 m.ha fa = (s1, .ok va) → operandVals s1 w (s.envTask c) m.planes m.sx4 m.hb fb = (s2, .ok vb) →
      s2.ctx s.subj = some c → s2.bad = none →
      let a (i k : Nat) : Val := va.getD (i * d + k) Val.zero
      let b (j k : Nat) : Val := vb.getD (j * d + k) Val.zero
      acts (cells (fun t i j =>
        if t = f.t ∧ f.row0 ≤ i ∧ i < f.row0 + hExt m.ha 1 ∧ f.col0 ≤ j ∧ j < f.col0 + hExt m.hb 1 then
          let start : Word := if f.fresh then 0 else old t i j
          if f.fp = 9 then
            BitVec.ofInt 32 (start.toInt +
              ((List.range d).map (fun k => ((a (i - f.row0) k).toInt - f.za) * ((b (j - f.col0) k).toInt - f.zb))).sum)
          else
            (List.range ((d + g - 1) / g)).foldl (fun w n =>
              let products := (List.range (min g (d - n * g))).map (fun k => (a (i - f.row0) (n * g + k)).mul (b (j - f.col0) (n * g + k)))
              BitVec.ofNat 32 (fp32.encode 0 false m.ftz 0 ((fp32.decode w.toNat).add 0 (groupSum products)))) start
        else old t i j)) s2)
  )

/-! ### The vector engine (R325 to R340) -/

/-- R325 to R329, R179: a vector operation whose formats, shapes, buffers and ranges are in order joins the engine's queue, with its operands and
their resolved formats captured; with no element to write, or for a row operation with an empty handle, it touches nothing; under SR one step of
RNGV is taken, unless every operand is an integer. A shape that is not in order, or SR to elements wider than 16 bits, traps FORMAT-INVALID.
VTBL.load takes a vector format or 0x00 (the model's reading of R336 and R453, log 19), a BASE that is a multiple of 4, and a handle in order;
otherwise it traps the same. -/
def Obligations.VectorIssues : Prop :=
  ∀ (s : State) (id : Nat) (c : Ctx) (hd ha hb hm : BitVec 5) (b : BitVec 6) (rc : BitVec 3) (bs flag : Bool) (t op : BitVec 2)
    (sc cond : BitVec 3), s.Sees id c →
    let D := s.rh c hd
    let A := s.rh c ha
    let B := s.rh c hb
    let M := s.rh c hm
    let x := s.rs c b
    let dst (ok : List Nat) : VecArg := ⟨D, ok, true⟩
    let src (h : Handle) (ok : List Nat) : VecArg := ⟨h, ok, false⟩
    let ab (ok : List Nat) : List VecArg := [dst ok, src A ok] ++ (if bs then [] else [src (s.rh c (b.setWidth 5)) ok])
    let da (okD okA : List Nat) : List VecArg := [dst okD, src A okA]
    let v : DWord := if bs then x else 0
    let arith (l : List VecArg) : Bool := elementwise l && sameClass l
    let rnd : Option Nat := some rc.toNat
    let table : List (Instr × List VecArg × DWord × Option Nat × Bool × (List VecArg → Bool)) := [
      (.vadd hd ha b rc bs, ab vecFmts, v, rnd, false, arith), (.vsub hd ha b rc bs, ab vecFmts, v, rnd, false, arith),
      (.vmul hd ha b rc bs, ab vecFmts, v, rnd, false, arith), (.vmin hd ha b rc bs, ab vecFmts, v, rnd, false, arith),
      (.vmax hd ha b rc bs, ab vecFmts, v, rnd, false, arith), (.vfma hd ha b rc bs, ab floatFmts, v, rnd, false, elementwise),
      (.vabs hd ha rc, da vecFmts vecFmts, 0, rnd, false, arith), (.vneg hd ha rc, da vecFmts vecFmts, 0, rnd, false, arith),
      (.vrcp hd ha rc, da floatFmts floatFmts, 0, rnd, false, arith), (.vrsq hd ha rc, da floatFmts floatFmts, 0, rnd, false, arith),
      (.vexp hd ha rc flag, da floatFmts floatFmts, 0, rnd, false, arith), (.vlog2 hd ha rc, da floatFmts floatFmts, 0, rnd, false, arith),
      (.vtbl hd ha t rc, da floatFmts floatFmts, 0, rnd, false, arith),
      (.vcmp hd ha hb cond, [dst intFmts, src A vecFmts, src B vecFmts], 0, none, false,
        fun l => elementwise l && isFloatF (hFmt (argH l 1)) == isFloatF (hFmt (argH l 2))),
      (.vsel hd ha hb rc hm, [dst vecFmts, src A vecFmts, src B vecFmts, src M intFmts], 0, rnd, false, elementwise),
      (.vcvt hd ha rc flag, da cvtFmts cvtFmts, 0, rnd, false, elementwise), (.vred hd ha rc op, da vecFmts vecFmts, 0, rnd, true, rowShape),
      (.vamax hd ha, da [0x08] floatFmts, 0, none, true, rowShape),
      (.vscan hd ha rc flag, da vecFmts vecFmts, 0, rnd, true, scanShape),
      (.vpush hd ha hb sc, [dst vecFmts, src A vecFmts, src B intFmts], 0, none, true, fun l => decide (hCount (argH l 2) = hRows (argH l 1))),
      (.vpop hd ha hb sc, [dst vecFmts, ⟨A, vecFmts, true⟩, ⟨B, [0x01], true⟩], 0, none, true,
        fun l => decide (hCount (argH l 2) = hRows (argH l 0))),
      (.vhist hd ha flag, da [0x02] intFmts, 0, none, false, fun _ => true), (.viota hd b rc, [dst vecFmts], x, rnd, false, fun _ => true),
      (.vmov hd ha, da vecFmts vecFmts, 0, none, false, fun l => elementwise l && decide (hFmt (argH l 0) = hFmt (argH l 1))),
      (.vmovScalar hd b, [dst vecFmts], x, none, false, fun _ => true),
      (.vshuf hd ha hb, [dst vecFmts, src A vecFmts, src B [0x02]], 0, none, false,
        fun l => isFloatF (hFmt (argH l 0)) == isFloatF (hFmt (argH l 1)) && decide (argBits (argH l 0) = argBits (argH l 1)) &&
          decide (hCount (argH l 0) = 0 ∨ hCount (argH l 0) = hCount (argH l 2)))]
    (∀ i args scal rc rows shape, (i, args, scal, rc, rows, shape) ∈ table →
      let l := resolveArgs args
      let idle := if rows then ∃ a ∈ l, hEmpty a.h = true else hEmpty (argH l 0) = true
      let wide := 16 < argBits (argH l 0)
      let ok := shape l = true ∧ ¬ (rc = some 4 ∧ wide)
      let ints := ∀ a ∈ l, hFmt a.h = 0x01 ∨ hFmt a.h = 0x02
      let mode := if ints then 0 else match rc with
        | some k => modeOf k c.regs.fpctl (decide wide)
        | none => 0
      let draw := xorshift c.regs.rngv
      let after : Regs := if mode = 4 then { c.regs with rngv := draw } else c.regs
      (¬ ok → exec i s = .next (s.traps id 0x08 0 0)) ∧
      (ok → vecCheck s c l true = none →
        (idle → exec i s = .next (if mode = 4 then s.ends id c after else s.passes id c)) ∧
        (¬ idle → ∃ t z v, exec i s = .next t ∧ t.ctx id = some z ∧ z.regs = s.after after ∧ t.mem = s.mem ∧
          z.eng = { c.eng with vq := c.eng.vq ++ [v] } ∧ z.ph = { c.ph with seq := c.ph.seq + 1 } ∧ (c.eng.vq = [] → t.due id .vecComplete) ∧
          v.instr = i ∧ v.seq = c.ph.seq ∧ v.pc = c.regs.pc ∧ v.hd = argH l 0 ∧ v.ha = argH l 1 ∧ v.hb = argH l 2 ∧ v.hm = argH l 3 ∧
          v.scal = scal ∧ v.mode = mode ∧ (mode = 4 → v.seed = draw)))) ∧
    (let h := tableHandle A
     let loads := hBase A % 4 = 0 ∧ hFmt A ∈ 0x00 :: vecFmts ∧ formatBad A (hFmt A) HUse.plain = false
     (¬ loads → exec (.vtblLoad ha t) s = .next (s.traps id 0x08 0 0)) ∧
     (loads → hEmpty A = true → exec (.vtblLoad ha t) s = .next (s.passes id c)) ∧
     (loads → hEmpty A = false → bufferCheck c h 8 HUse.plain = .fine → outsideSpace (hBase A, 1036) = none →
      ∃ y z v, exec (.vtblLoad ha t) s = .next y ∧ y.ctx id = some z ∧ z.regs = s.after c.regs ∧ y.mem = s.mem ∧
        z.eng = { c.eng with vq := c.eng.vq ++ [v] } ∧ v.instr = .vtblLoad ha t ∧ hBase v.ha = hBase A ∧ v.rd = [(hBase A, 1036)]))

/-- R327, R328, R330 to R332, R336, R337, R406: VEC_COMPLETE performs the oldest operation of the queue, which it leaves; of two sources, element e
of the destination is the operation's value of elements e, rounded once in D's format, a source of one element standing for all; integers wrap;
VPUSH and VPOP move one record a turn (R340) and make the phase not restartable. -/
def Obligations.VectorCompletes : Prop :=
  (∀ (s s1 : State) (c : Ctx) (v : VecOp) (rest : List VecOp), s.ctx s.subj = some c → c.eng.vq = v :: rest →
    (∀ f ∈ c.ph.fences, v.seq < f.seq) → (∀ r ∈ c.xf.waitq, r.slot ≠ 4) → s.vecFollows c v = false → s1.ctx s.subj = some c →
    (∀ run, vecAct s s.subj c v = (s1, .more run) →
      ∃ t x, exec .vecComplete s = .next t ∧ t.ctx s.subj = some x ∧ x.eng = { c.eng with vq := { v with run := some run } :: rest } ∧
        x.ph = { c.ph with nr := true } ∧ x.regs = c.regs ∧ t.mem = s1.mem ∧ t.due s.subj .vecComplete) ∧
    (vecAct s s.subj c v = (s1, .ok) → ∃ t x, exec .vecComplete s = .next t ∧ t.ctx s.subj = some x ∧ x.eng = { c.eng with vq := rest } ∧
      x.regs = c.regs ∧ t.mem = s1.mem ∧
      (x.ph.nr = true ↔ c.ph.nr = true ∨ (∃ d a b k, v.instr = .vpush d a b k ∨ v.instr = .vpop d a b k)) ∧
      (rest ≠ [] → t.due s.subj .vecComplete))) ∧
  (∀ (s s1 : State) (id : Nat) (c : Ctx) (v : VecOp) (A B : Col) (hd ha hb : BitVec 5) (b : BitVec 6) (rc cond : BitVec 3),
    A.cut = none → B.cut = none →
    let n := hCount v.hd
    let w := s.whoTask c 1 false
    let env := s.envTask c
    let a (e : Nat) : Nat := A.vals.getD (if A.single then 0 else e) 0
    let b' (e : Nat) : Nat := B.vals.getD (if B.single then 0 else e) 0
    let draw (e : Nat) : Nat := if v.mode = 4 then (draws n v.seed).getD e 0 else 0
    let float := isFloatF (hFmt v.hd) = true
    let enc (e : Nat) (x : Val) : Nat := elemEnc (hFmt v.hd) v.mode false v.ftz (draw e) x
    let writes (s1 : State) (f : Nat → Nat) : Prop := vecAct s id c v = writeCol s1 w env v.hd ((List.range n).map f) none
    (readCols w env [.ok v.ha, .ok v.hb] s = (s1, [A, B]) →
      (∀ i ff fi, (i, ff, fi) ∈ ([(.vadd hd ha b rc false, Val.add v.mode, fun x y => x + y),
          (.vsub hd ha b rc false, fun x y => Val.add v.mode x y.negate, fun x y => x - y), (.vmul hd ha b rc false, Val.mul, fun x y => x * y),
          (.vmin hd ha b rc false, Val.minMax false, fun x y => min x y), (.vmax hd ha b rc false, Val.minMax true, fun x y => max x y)] :
            List (Instr × (Val → Val → Val) × (Int → Int → Int))) → v.instr = i →
        (float → writes s1 (fun e => enc e (ff (hVal v.ha (a e)) (hVal v.hb (b' e))))) ∧
        (¬ float → writes s1 (fun e => (BitVec.ofInt (argBits v.hd) (fi (intElem v.ha (a e)) (intElem v.hb (b' e)))).toNat))) ∧
      (v.instr = .vcmp hd ha hb cond →
        writes s1 (fun e => if vcmpHolds cond.toNat (hVal v.ha (a e)) (hVal v.hb (b' e)) then 1 else 0))) ∧
    (readCols w env [.ok v.ha] s = (s1, [A]) →
      (v.instr = .vmov hd ha → writes s1 a) ∧
      (v.instr = .vrcp hd ha rc → writes s1 (fun e => enc e (valRcp (hVal v.ha (a e))))) ∧
      (v.instr = .vrsq hd ha rc → writes s1 (fun e => enc e (valRsq (hVal v.ha (a e))))) ∧
      (v.instr = .vlog2 hd ha rc → writes s1 (fun e => enc e (valLog2 (hVal v.ha (a e))))) ∧
      (v.instr = .vexp hd ha rc true → writes s1 (fun e => enc e (valExp true (hVal v.ha (a e)))))) ∧
    (v.instr = .vmovScalar hd b → writes s (fun _ => v.scal.toNat % 2 ^ argBits v.hd)) ∧
    (v.instr = .viota hd b rc → float → writes s (fun e => enc e (Val.ofInt (v.scal.toInt + e)))))

/-! ### The permute and scale units (R190, R246, R341 to R345) -/

/-- R341 to R343: a permute operation whose formats, buffers and ranges are in order reads its block in its cycle and writes its result at the end of
the third cycle: PPACK, PUNPK, PSCALE, PDQ rounded element by element, PQNT with its scale, PTRN transposed, PBCAST the first element, PPERM in
the order of its selectors. With no element it touches nothing (under SR its generator still steps, R179); with a FENCE not satisfied it stalls;
wrong formats trap.

R246, R342, R344, R345: SLDB, SSETI and SMODE, and SLDT of 16 readable bytes, write at the end of the fourth cycle; SLDT of an address that is no
multiple of 16 traps MISALIGNED. SCALE_WRITE performs what is due, in order; PRM_WRITE writes the bytes of a result that is due. -/
def Obligations.PermuteAndScale : Prop :=
  (
  ∀ (s s1 s2 s3 : State) (id : Nat) (c : Ctx) (hd ha : BitVec 5) (b : BitVec 6) (rc : BitVec 3) (flag : Bool) (es : List Nat) (p1 p2 : List Byte),
    s.Sees id c →
    let D := s.rh c hd
    let A := s.rh c ha
    let x := s.rs c b
    let pl := planeOf c.regs D ++ planeOf c.regs A
    let ftz := ftzOf c.regs.fpctl
    let wide := 16 < argBits D
    let rounded := modeOf rc.toNat c.regs.fpctl (decide wide)
    let sq := moveFmts.filter (fun f => fmtBits f = some (if flag then 32 else 16))
    let form (okD okA : List Nat) (n : Nat) (square same rounds : Bool) : PrmForm :=
      { okD := okD, okA := okA, n := n, square := square, same := same, rc := if rounds then some rc.toNat else none }
    let enc (sat : Bool) (mode draw : Nat) (v : Val) : Nat := elemEnc (hFmt D) mode sat ftz draw v
    let el (i : Nat) : Nat := es.getD i 0
    let a (i : Nat) : Val := hVal A (el i)
    let every (n : Nat) (f : Nat → Nat) : List Nat := (List.range n).map f
    let quant (mode : Nat) (draw : Nat → Nat) : Nat × List Nat :=
      let vs := (List.range es.length).map (fun i => (a i, draw i))
      if x.getLsbD 8 then quantMx (hFmt D) mode flag ftz vs else (x.toNat % 256, mxElems (hFmt D) mode flag ftz (x.toNat % 256) vs)
    let deq (i : Nat) : Val :=
      if isSx4 (hFmt A) then ((a i).mul (e3m5 (c.eng.sx4.val 0 (leNat p1 / 16 ^ (i / 8) % 16)))).mul (bf16.decode (leNat p2))
      else (a i).mul (e8m0 (p1.getD 0 0))
    let table : List (Instr × PrmForm × (Nat → (Nat → Nat) → List Nat) × (Nat → (Nat → Nat) → List (Nat × List Byte))) := [
      (.ppack hd ha rc flag, form narrowFmts floatFmts 32 false false true, fun m r => every es.length (fun i => enc flag m (r i) (a i)), fun _ _ => []),
      (.punpk hd ha, form floatFmts narrowFmts 32 false false false, fun _ _ => every es.length (fun i => enc false 0 0 (a i)), fun _ _ => []),
      (.pscale hd ha b rc, form floatFmts floatFmts 32 false false true,
        fun m r => every es.length (fun i => enc false m (r i) ((a i).mul (e8m0 (x.setWidth 8)))), fun _ _ => []),
      (.pqnt hd ha b rc flag, form [0x18, 0x19, 0x1A] floatFmts 32 false false true, fun m r => (quant m r).2,
        fun m r => [(plane1 pl D (argBits D), [BitVec.ofNat 8 (quant m r).1])]),
      (.pdq hd ha rc, form floatFmts [0x18, 0x19, 0x1A, 0x1B] 0 false false true,
        fun m r => every es.length (fun i => enc false m (r i) (deq i)), fun _ _ => []),
      (.ptrn hd ha flag, form sq sq (if flag then 8 else 16) true true false,
        fun _ _ => let n := if flag then 8 else 16; every (n * n) (fun k => el (k % n * n + k / n)), fun _ _ => []),
      (.pbcast hd ha, form moveFmts moveFmts 32 false true false, fun _ _ => List.replicate 32 (el 0), fun _ _ => []),
      (.pperm hd ha b, form moveFmts moveFmts 16 false true false, fun _ _ => every 16 (fun i => el (x.toNat / 2 ^ (4 * i) % 16)), fun _ _ => [])]
    ∀ i f out planes, (i, f, out, planes) ∈ table →
      let n := f.size A
      let blk (h : Handle) : Handle := if f.square then squareHandle h n else blockHandle h n
      let good := prmFormatBad f D A = false ∧ ¬ (f.rc = some 4 ∧ wide)
      let fits := bufferCheck c D (argBits D) HUse.plain = .fine ∧ bufferCheck c A (argBits A) HUse.plain = .fine
      let rs := (blockRanges pl A (blk A)).map (fun r => (r.1, r.2, Acc.read)) ++ (blockRanges pl D (blk D)).map (fun r => (r.1, r.2, Acc.write))
      let side (k : Nat) : Nat × Nat := ((blockSides pl A)[k]?).getD (0, 0)
      let w := s.whoTask c 1 false
      let env := s.envTask c
      let mode := if f.rc.isSome then rounded else 0
      let seed := xorshift c.regs.rngp
      let draw (i : Nat) : Nat := if mode = 4 then (draws n seed).getD i 0 else 0
      let res := out mode draw
      (¬ good → exec i s = .next (s.traps id 0x08 0 0)) ∧
      (good → fits → hCount D = 0 ∨ hCount A = 0 →
        exec i s = .next (if mode = 4 then s.ends id c { c.regs with rngp := seed } else s.passes id c)) ∧
      (good → fits → hCount D ≠ 0 → hCount A ≠ 0 → c.ph.fences ≠ [] → exec i s = .next s.stalls) ∧
      (good → fits → hCount D ≠ 0 → hCount A ≠ 0 → c.ph.fences = [] → sliceCheck s c rs = .fine →
        readAll s w env (blk A) (argBits A) = (s1, .ok es) → readBytes s1 w env (side 0).1 (side 0).2 = (s2, .ok p1) →
        readBytes s1 w env (side 1).1 (side 1).2 = (s3, .ok p2) → s1.ctx id = some c → s1.issue = s.issue → s1.now = s.now →
        ∃ t z p, exec i s = .next t ∧ t.ctx id = some z ∧ t.mem = s1.mem ∧ z.eng = { c.eng with prm := c.eng.prm ++ [p] } ∧
          z.regs = s.after (if mode = 4 then { c.regs with rngp := seed } else c.regs) ∧ z.ph = { c.ph with seq := c.ph.seq + 1 } ∧
          p.due = s.now + 3 ∧ p.writes = blockWrites (blk D) (argBits D) res ++ (planes mode draw).flatMap (fun q => addressed q.1 q.2) ∧
          (s.now + 3, id, .prmWrite) ∈ t.agenda)
  ) ∧
  (
  (∀ (s s1 : State) (id : Nat) (c : Ctx) (a : BitVec 6) (k : BitVec 4) (byte : BitVec 8) (m : Bool) (bs : List Byte), s.Sees id c →
    let ea := (s.rs c a).toNat
    let due (i : Instr) (u : SclUpd) (s1 : State) : Prop :=
      ∃ t x, exec i s = .next t ∧ t.ctx id = some x ∧ x.regs = s.after c.regs ∧ t.mem = s1.mem ∧
        x.eng = { c.eng with scl := c.eng.scl ++ [{ due := s.now + 4, upd := u }] } ∧ (s.now + 4, id, .scaleWrite) ∈ t.agenda
    due (.sldb a) (.bands (s.rs c a)) s ∧ due (.sseti k byte) (.entry k.toNat byte) s ∧ due (.smode m) (.mode m) s ∧
    (ea % 16 ≠ 0 → exec (.sldt a) s = .next (s.traps id 0x02 0 0)) ∧
    (ea % 16 = 0 → sliceCheck s c [(ea, 16, .read)] = .fine → readBytes s (s.whoTask c 1 false) (s.envTask c) ea 16 = (s1, .ok bs) →
      s1.ctx id = some c → s1.issue = s.issue → s1.now = s.now → due (.sldt a) (.table bs) s1)) ∧
  (∀ (s : State) (c : Ctx) (p : SclPend), s.ctx s.subj = some c → c.eng.scl = [p] → p.due ≤ s.now → Tab.rising c.eng.sx4 →
    ∃ t x, exec .scaleWrite s = .next t ∧ t.ctx s.subj = some x ∧ x.eng.scl = [] ∧ x.regs = c.regs ∧ t.mem = s.mem ∧
      (∀ k, k < 16 → x.eng.sx4.val 0 k = match p.upd with
        | .table bs => bs.getD k 0
        | .entry j v => if k = j then v else c.eng.sx4.val 0 k
        | _ => c.eng.sx4.val 0 k) ∧
      (∀ k, k < 4 → x.eng.bands.val 0 k = match p.upd with
        | .bands v => BitVec.ofNat 16 (v.toNat / 2 ^ (16 * k))
        | _ => c.eng.bands.val 0 k) ∧
      x.eng.bsrc = match p.upd with
        | .mode m => m
        | _ => c.eng.bsrc) ∧
  (∀ (s : State) (c : Ctx) (p : PrmPend), s.ctx s.subj = some c → c.eng.prm = [p] → p.due ≤ s.now →
    let s1 := writeEach (s.whoTask c 1 false) (s.envTask c) p.writes { s with tick := s.tick + 1 }
    s1.ctx s.subj = some c →
    ∃ t x, exec .prmWrite s = .next t ∧ t.ctx s.subj = some x ∧ x.eng = { c.eng with prm := [] } ∧ x.regs = c.regs ∧ t.mem = s1.mem)
  )

/-! ### Commands (R346 to R386) -/

/-- R350, R351, R179, R310: a command of the XFR slot whose checks pass takes a free entry of the operand log and the next tag, with its operands,
handles and control word captured, and a step of RNGX when it rounds stochastically; a CPYM, DRAINK.merge or RMERGE.sw also joins the matrix
stream. Nothing in memory changes at issue, and the engine will look at the command. With 128 commands, or a full stream, it stalls. A drain or
merge of a tile in flight traps ACC-IN-FLIGHT; DRAINK.sel of a ranked tile, and RMERGE of a tile that is none, trap TILE-MODE.

R354 to R356: XSTAT.id reads the status word of the command an id names, 0 when its entry holds another tag or nothing; XSTAT.last the id of the
youngest command. XCAN.all answers how many commands were not done, at most 160; XCAN.replay sets a FAULTED command going again, unless its
outcome is INDETERMINATE, and XCAN.cancel ends one that is not done as CANCELLED, each answering with the status word after the action; on a
command that is done they only answer. -/
def Obligations.Commands : Prop :=
  (
  ∀ (s : State) (id : Nat) (c : Ctx) (hd ha : BitVec 5) (t u : BitVec 4) (cc : BitVec 6) (sc : BitVec 3) (ct : BitVec 2) (tgt : BitVec 16)
    (n : BitVec 8) (e : Nat), s.Sees id c → c.absorbs = false → c.ph.markm ≤ c.eng.mcount - c.ph.ck.mcount →
    let D := some (s.rh c hd)
    let A := some (s.rh c ha)
    let table : List (Instr × Option Handle × Option Handle × Bool × List Nat × Option Nat) := [
      (.cpy hd ha cc sc ct tgt, D, A, false, [], none), (.cpym hd ha cc sc ct tgt, D, A, true, [], none), (.cpys hd ha cc sc ct tgt, D, A, false, [], none),
      (.gath hd ha cc sc ct tgt, D, A, false, [], none), (.scat hd ha cc sc ct tgt, D, A, false, [], none), (.rst hd ha cc sc ct tgt, D, A, false, [], none),
      (.rld hd ha cc sc ct tgt, D, A, false, [], none), (.ramo hd ha cc sc ct tgt, D, A, false, [], none), (.rred hd ha cc sc ct tgt, D, A, false, [], none),
      (.rmcast hd ha cc sc ct tgt, D, A, false, [], none), (.cntx hd ha cc sc ct tgt, D, A, false, [], none), (.disp hd ha cc sc ct tgt, D, A, false, [], none),
      (.drain hd t cc sc ct tgt, D, none, false, [t.toNat], none),
      (.drainkSel hd t cc sc ct tgt, D, none, false, [t.toNat], if descRanked (c.eng.tissue.val 0 t.toNat) then some t.toNat else none),
      (.drainkMerge u t cc sc, none, none, true, [t.toNat, u.toNat],
        if descRanked (c.eng.tissue.val 0 t.toNat) then some t.toNat
        else if descRanked (c.eng.tissue.val 0 u.toNat) = false ∨ t = u then some u.toNat else none),
      (.rmergeCx hd t cc sc ct tgt, D, none, false, [t.toNat], if descRanked (c.eng.tissue.val 0 t.toNat) then none else some t.toNat),
      (.rmergeSw hd t cc sc, D, none, true, [t.toNat], if descRanked (c.eng.tissue.val 0 t.toNat) then none else some t.toNat),
      (.post n cc, none, none, false, [], none)]
    ∀ i d a stream tiles wrong, (i, d, a, stream, tiles, wrong) ∈ table →
      let full := 128 ≤ c.xfCount ∨ (stream = true ∧ 32 ≤ c.eng.ms.length)
      let flying (j : Nat) : Prop := ∃ p ∈ c.eng.btile, p.2.getLsbD j = true
      let k0 := newCmd s c e i ((Instr.xform i).getD ⟨.post, 0, 0, 0, 0, 0, 0⟩) (s.rs c cc)
      (full → exec i s = .next s.stalls) ∧
      (∀ j, ¬ full → c.freeEntry = some e → tiles.find? (fun j => c.inFlight j) = some j → exec i s = .next (s.traps id 0x06 0 (BitVec.ofNat 64 j))) ∧
      (∀ j, ¬ full → c.freeEntry = some e → (∀ j ∈ tiles, ¬ flying j) → wrong = some j →
        exec i s = .next (s.traps id 0x07 0 (BitVec.ofNat 64 j))) ∧
      (¬ full → c.freeEntry = some e → (∀ j ∈ tiles, ¬ flying j) → wrong = none → (k0.kind = .cpym → cpymChecks s c k0 = none) →
        ∃ t x k, exec i s = .next t ∧ t.ctx id = some x ∧ t.mem = s.mem ∧ k ∈ x.xf.log ∧
          k.entry = e ∧ k.tag = c.xf.tagNext ∧ k.seq = c.ph.seq ∧ k.pc = c.regs.pc ∧ k.instr = i ∧ k.ccw = s.rs c cc ∧ k.st = .issued ∧
          (∀ h, d = some h → k.hd = h) ∧ (∀ h, a = some h → k.ha = h) ∧
          x.xf.tagNext = (c.xf.tagNext + 1) % 2 ^ 16 ∧ x.xf.lastId = e * 2 ^ 16 + c.xf.tagNext ∧ t.due id .commandStart ∧
          x.regs = s.after (if k.draws then { c.regs with rngx := xorshift c.regs.rngx } else c.regs) ∧
          (stream = false → x.eng = c.eng) ∧ (stream = true → ∃ m ∈ x.eng.ms, m.cmd = some k.seq ∧ m.instr = i ∧ m.acted = false) ∧
          (k.form.notRestartable = true → x.ph.nr = true))
  ) ∧
  (
  ∀ (s : State) (id : Nat) (c : Ctx) (d a : BitVec 6), s.Sees id c →
    let v := s.rs c a
    let named (k : Cmd) : Prop := k.entry * 2 ^ 16 + k.tag = v.toNat % 2 ^ 24
    let word (k : Cmd) : DWord :=
      BitVec.ofNat 64 ((match k.st with | .issued => 1 | .running => 1 | .done => 2 | .faulted => 3) * 2 ^ 62 +
        (if k.st = .faulted ∨ k.st = .done then k.cause else 0) * 2 ^ 48 + k.cword.toNat % 2 ^ 48)
    let all := c.xf.log ++ c.xf.again
    let reads (w : DWord) : Prop := exec (.xstatId d a) s = .next (s.result id c d w)
    let answers (i : Instr) (w : DWord) : Prop :=
      ∃ t x, exec i s = .next t ∧ t.ctx id = some x ∧ x.regs = s.after (c.regs.setS d w) ∧ t.mem = s.mem
    ((∀ k ∈ all, ¬ named k) → reads 0 ∧ answers (.xcanCancel d a) 0 ∧ answers (.xcanReplay d a) 0) ∧
    (∀ k, all.filter (fun k => decide (named k)) = [k] →
      reads (word k) ∧
      (k.st = .done → answers (.xcanCancel d a) (word k)) ∧
      (k.st ≠ .faulted ∨ (k.cause = 0x0F ∧ k.cword.toNat / 2 ^ 32 % 16 = 2) → answers (.xcanReplay d a) (word k)) ∧
      (c.xf.again = [] → (c.xf.log.filter (fun x => decide (x.entry = k.entry))).length = 1 →
        (k.st = .faulted → ¬ (k.cause = 0x0F ∧ k.cword.toNat / 2 ^ 32 % 16 = 2) → answers (.xcanReplay d a) (BitVec.ofNat 64 (2 ^ 62))) ∧
        (k.st ≠ .done → k.ringSlot = none → k.kind ≠ .cpym → s.mid.reqs = [] →
          answers (.xcanCancel d a) (BitVec.ofNat 64 (2 * 2 ^ 62 + 0x26 * 2 ^ 48 + k.cword.toNat % 2 ^ 48))))) ∧
    exec (.xstatLast d a) s = .next (s.result id c d (BitVec.ofNat 64 c.xf.lastId)) ∧
    (s.mid.reqs = [] → ∃ t x, exec (.xcanAll d) s = .next t ∧ t.ctx id = some x ∧
      x.regs = s.after (c.regs.setS d (BitVec.ofNat 64 (min (all.filter (fun k => decide (k.st ≠ .done))).length 160))))
  )

/-- R351, R54, R55, R353, R354, R386: what the transfer engine does to a resident task's command. COMMAND_START with one command to act starts it: it
is RUNNING with the plan its checks made; one with no element has ended, and its completion is due; one whose checks fail stops with the cause,
and its record is due. RING_CLAIM gives the oldest waiting fill a free slot; RING_SLOT_LANDED counts the slot as landed, and the completion is
due. COMMAND_COMPLETE marks it DONE and decrements its node or its barrier once. COMMAND_FAULT leaves it FAULTED with its cause and address in a
record of the fault queue.

R405, R407, R408: an uncorrectable error that the task itself meets rolls its phase back, once no older stream operation is left: the registers,
handles, FPCTL and generators are those of the checkpoint, the scalar accesses under way are dropped, its pc is the restart PC, TVEC and the
other trap registers stay, the window, the snapshot and the stream are empty, and RBCNT counts up. A phase that is not restartable ends the task
as NOT-RESTARTABLE, a third rollback as ROLLBACK-LIMIT. -/
def Obligations.CommandStepsAndRollback : Prop :=
  (
  ∀ (s s1 : State) (id : Nat) (c : Ctx) (k k1 : Cmd) (cause ad buf slot : Nat) (dt : DWord), s.ctx id = some c → c.away = false → c.loc ≠ .engine →
    k ∈ c.xf.log → c.xf.log.filter (fun x => decide (x.entry = k.entry)) = [k] → c.cmd k.entry = some k →
    k.entry < 160 → k.tag < 2 ^ 16 → Tab.rising c.xf.bars →
    let e := k.entry
    let steps (i : Instr) (s1 : State) (f : Cmd → Cmd) (post : State → Ctx → Prop) : Prop :=
      ∃ t x, exec i s = .next t ∧ t.ctx id = some x ∧ f k ∈ x.xf.log ∧ x.regs = c.regs ∧ t.mem = s1.mem ∧ post t x
    (s.subj = id → c.xf.again = [] → c.xf.fired = [] → c.actors = [k] → k.st = .issued →
      (beginCmd s id c k = .go s1 k1 → s1.ctx id = some c →
        steps .commandStart s1 (fun k => { k with st := .running, begun := true, plan := k1.plan }) (fun _ _ => True)) ∧
      (beginCmd s id c k = .empty → k.todo = [] → k.got = [] → k.failed = [] → s.quiet id k = true → k.endsInStream = false → k.ringSlot = none →
        hRing k.hd = false →
        steps .commandStart s (fun k => { k with st := .running, begun := true, ended := true, sent := true })
          (fun t _ => t.due id (.commandComplete id e))) ∧
      (beginCmd s id c k = .bad cause ad dt → cause ≠ 0x20 →
        steps .commandStart s (fun k => { k with cause := cause, addr := ad, detail := dt }) (fun t _ => t.due id (.commandFault id e)))) ∧
    (leastBy (·.seq) (c.xf.log.filter (fun k => k.wantsSlot buf)) = some k → (c.buf buf).mode = 3 → (c.buf buf).claimed + (c.buf buf).held < (c.buf buf).nslot →
      steps (.ringClaim id buf) s (fun k => { k with ringSlot := some (((c.buf buf).head + (c.buf buf).claimed) % (c.buf buf).nslot) })
        (fun _ x => (x.buf buf).claimed = (c.buf buf).claimed + 1)) ∧
    (c.xf.log.find? (fun k => decide (k.ringSlot = some slot ∧ hBuf k.hd = buf) && k.kind.fills && s.finished id k) = some k →
      steps (.ringSlotLanded id buf slot) s (fun k => k) (fun t x => slot ∈ (x.buf buf).landed ∧ t.due id (.commandComplete id e))) ∧
    (s.finished id k = true → k.decDone = false →
      (k.form.ct ≠ 1 → steps (.commandComplete id e) s
        (fun k => { k with st := .done, cword := (k.firstFail.map (·.detail)).getD k.cword, decDone := true })
        (fun t _ => k.form.ct = 2 → t.due 0 (.nodeDecrement c.who.region k.form.tgt))) ∧
      (k.form.ct = 1 → (c.bar (k.form.tgt % 256)).armed = false → (k.kind = .disp ∨ hEmpty k.hd = false) → hEmpty k.ha = false →
        steps (.commandComplete id e) s (fun k => { k with st := .done, cword := (k.firstFail.map (·.detail)).getD k.cword, decDone := true })
          (fun _ x => (x.bar (k.form.tgt % 256)).count
            = max (-(2 ^ 31)) (min ((c.bar (k.form.tgt % 256)).count - (k.amount : Int)) (2 ^ 31 - 1))))) ∧
    (k.failed = [] → s.reports id c k = true → c.xf.fq.length < 32 →
      ∃ t x r q, exec (.commandFault id e) s = .next t ∧ t.ctx id = some x ∧ x.xf.fq = c.xf.fq ++ [r] ∧ r.slot = 7 ∧ r.cause = k.cause ∧
        r.addr = k.addr ∧ r.detail = k.detail ∧ r.pc = k.pc ∧ r.id = e * 2 ^ 16 + k.tag ∧ q ∈ x.xf.log ∧ q.seq = k.seq ∧ q.st = .faulted ∧
        x.regs = c.regs ∧ t.mem = s.mem) ∧
    (k.cause = 0x25 → (k.st = .issued ∨ k.st = .running) → k.phase ≠ c.ph.no →
      steps (.ueAbortReceive id e) s (fun k => { k with detail := 0 })
        (fun t _ => s.quiet id k = true → c.xf.waitq = [] → t.due id (.commandFault id e)))
  ) ∧
  (
  ∀ (s : State) (id n : Nat) (c : Ctx), s.ctx id = some c → c.coreNo = some n → c.isOver = false → c.olderStream = false →
    let ck := c.ph.ck
    let r := c.regs
    let back : Regs := { r with
      s := ck.regs.s, h := ck.regs.h, fpctl := ck.regs.fpctl, rngv := ck.regs.rngv, rngp := ck.regs.rngp, rngx := ck.regs.rngx,
      st := ck.regs.st, rptc := 0, pc := ck.pc }
    (c.ph.nr = false → c.ph.rbcnt ≠ 2 → s.mid.reqs = [] →
      ∃ t x, exec (.ueAbortReceive id 0xFF) s = .next t ∧ t.ctx id = some x ∧ x.regs = back ∧ x.ph.window = [] ∧ x.ph.snap = [] ∧ x.eng.ms = [] ∧
        x.eng.btile = [] ∧ x.eng.mcount = ck.mcount ∧ x.eng.tissue = ck.tissue ∧ x.ph.rbcnt = c.ph.rbcnt + 1 ∧ x.ph.markt = some c.xf.tagNext ∧
        x.xf.tagNext = ck.tagNext ∧ x.ph.err = false ∧ x.ph.memq = [] ∧ x.ph.rem = none ∧
        x.ph.markm = max c.ph.markm (c.eng.mcount - ck.mcount - c.eng.ms.length) ∧ t.mem = s.mem ∧ (∀ j, j ≠ id → t.ctx j = s.ctx j)) ∧
    (c.ph.nr = true → ∃ t, exec (.ueAbortReceive id 0xFF) s = .next t ∧ t.due id (.taskFault id 0x41 0)) ∧
    (c.ph.nr = false → c.ph.rbcnt = 2 → ∃ t, exec (.ueAbortReceive id 0xFF) s = .next t ∧ t.due id (.taskFault id 0x42 0))
  )

/-! ### Banks, HBM, cores out of service (R43, R44, R426 to R437) -/

/-- R43, R44: a bank that no access has reached for 1,024 cycles goes to sleep, one that wakes is active at the end of its wake; a quadrant that
holds nothing is gated and one that has been cleared is active, each with every byte of it zero and every other byte as it was.

R433, R435 to R437: software fences a core: its task is asked out, or, with no task, its permissions go and its quadrants are to be gated. A
request to return runs the self-test once the core is free and gated; the core serves again when every known answer matched, and stays fenced
otherwise. A link that has retrained works again, and its RETRBUD tokens pay for the training; without tokens it is deferred (R436, R437). A die
comes back by DIEEN only with its link up and every core tested. -/
def Obligations.BanksFencingService : Prop :=
  (
  ∀ (s : State) (core bank quad n : Nat), quad < 4 →
    let now := (s.core core).banks.val .gated bank
    let lo := 2 ^ 40 + core * 2 ^ 23 + quad * 2 ^ 21
    let quadIs (i : Instr) (b : Bank) : Prop :=
      ∃ t, exec i s = .next t ∧
        (∀ k, (t.core core).banks.val .gated k = if 8 * quad ≤ k ∧ k < 8 * quad + 8 then b else (s.core core).banks.val .gated k) ∧
        (∀ a, t.byteAt a = if lo ≤ a ∧ a < lo + 2 ^ 21 then 0 else s.byteAt a) ∧ t.ctxs = s.ctxs ∧ t.mid = s.mid
    (now = .active n → n + 1025 ≤ s.now →
      exec (.bankDrowsy core bank) s = .next (s.updCore core fun c => { c with banks := c.banks.set bank .drowsy })) ∧
    (now = .active n → s.now < n + 1025 → exec (.bankDrowsy core bank) s = .next (s.push (n + 1025 - s.now) 0 (.bankDrowsy core bank))) ∧
    (now = .waking n → n ≤ s.now → ∃ t, exec (.bankWake core bank) s = .next t ∧ t.mem = s.mem ∧ t.due 0 (.bankDrowsy core bank) ∧
      ∀ k, (t.core core).banks.val .gated k = if k = bank then .active s.now else (s.core core).banks.val .gated k) ∧
    ((s.core core).ctx = none → s.mayGate core quad = true → quadIs (.quadrantGate core quad) .gated) ∧
    ((s.core core).banks.val .gated (8 * quad) = .clearing n → n ≤ s.now → quadIs (.quadrantClear core quad) (.active s.now))
  ) ∧
  (
  ∀ (s : State) (die : Nat) (v : BitVec 64), s.logSafe (dieOf s.subj) →
    let k := s.subj
    let good := die ∉ s.linksDown ∧ ∀ j, j < 72 → (s.core (72 * die + j)).selftest = 2
    (k < 288 → (s.core k).fenced = false → s.host.phase = 6 →
      ∃ t, exec .corestatFenceWrite s = .next t ∧ (t.core k).fenced = true ∧
        ((s.core k).ctx ≠ none → t.due 0 (.switchRequest k 2) ∧ (t.core k).spt = (s.core k).spt) ∧
        ((s.core k).ctx = none → (t.core k).spt = [] ∧ ∀ q, q < 4 → t.due 0 (.quadrantGate k q))) ∧
    ((s.core k).fenced = true → s.host.phase = 6 →
      ∃ t, exec .corestatFreqWrite s = .next t ∧ (t.core k).freq = true ∧ (t.core k).fenced = true ∧ t.due k .selftestRun) ∧
    ((s.core k).fenced = true → (s.core k).freq = true → s.testable k = true →
      ∃ t, exec .selftestRun s = .next t ∧ (t.core k).freq = false ∧ (t.core k).selftest = 1 ∧ t.due k .selftestDone) ∧
    ((s.core k).selftest = 1 →
      ∃ t, exec .selftestDone s = .next t ∧
        ((∀ q, q < 256 → Config.katMatches s.host.boots k q = true) → (t.core k).fenced = false ∧ (t.core k).selftest = 2) ∧
        ((∃ q, q < 256 ∧ Config.katMatches s.host.boots k q = false) → (t.core k).fenced = (s.core k).fenced ∧ (t.core k).selftest = 3)) ∧
    (0 < s.linkTok k → ∃ t, exec .dieLinkRetrain s = .next t ∧ (∀ l, l ∈ t.linksDown ↔ l ∈ s.linksDown ∧ l ≠ k) ∧
      t.linkTok k = s.linkTok k - Config.dieTrainTime s.tick ∧ ∀ l, l ≠ k → t.linkTok l = s.linkTok l) ∧
    (s.linkTok k ≤ 0 → ∃ t, exec .dieLinkRetrain s = .next t ∧ t.linksDown = s.linksDown ∧ t.mid = s.mid ∧ t.due k .dieLinkRetrain) ∧
    (die < 4 → s.host.phase = 6 →
      ∃ t, exec (.dieenWrite die v) s = .next t ∧
        ((t.die die).dieen = true ↔ v.getLsbD 0 = true ∧ ((s.die die).dieen = true ∨ good)))
  )

/-- R426, R428, R430, R432, R434, R436, R437: HBM_READ, SCRUB_READ, HBM_REFRESH and PSEUDO_CHANNEL_FAIL complete wherever the error logs lie in HBM.
A read of a clean line gives the line and leaves no trace. One of a correctable line gives the line and counts each correction in CECOUNT, which
saturates. One that the decoder finds uncorrectable counts in UECOUNT, which saturates, aborts, and is recorded when the log is on and has room,
or else counts in LOST; beyond the code's distance the decoder may return wrong data instead (a free value). A line that cannot be reached
aborts. The scrubber spends a token, moves on, puts a correctable line in order and counts an uncorrectable one, or writes back what the decoder
makes of it beyond the code's distance; with no token it waits a period. A refresh spends a token whatever there is. A failed pseudo-channel
answers no access. -/
def Obligations.HbmReliability : Prop :=
  ∀ (s : State) (line rq core cw pos : Nat), line < 2 ^ 33 →
    let d := hbmDie line
    let e := s.die d
    let w := s.hbmReader line rq core
    let seen := s.hbmReach w.die line = true ∧ s.rangeOf (line * 64) = none
    let free (t : State) : Prop := t.mem = s.mem ∧ t.dies = s.dies ∧ t.pchs = s.pchs ∧ t.lineErr = s.lineErr ∧ t.ctxs = s.ctxs
    let reads (a : Ans (List Byte)) (post : State → Prop) : Prop :=
      ∃ t, exec (.hbmRead line rq core) s = .next t ∧ (hbmRead s w line).2 = a ∧ t.lineErr = s.lineErr ∧ t.ctxs = s.ctxs ∧ post t
    let pc := s.subj
    let at_ := (s.pch pc).scrubAt
    let u := s.die (hbmDie at_)
    let next (t : State) : Prop := (t.pch pc).scrubTok = (s.pch pc).scrubTok - 1 ∧ (t.pch pc).scrubAt = nextLine pc at_ ∧ t.due pc .scrubRead
    (s.logSafe d → ∃ t, exec (.hbmRead line rq core) s = .next t ∧ t.ctxs = s.ctxs) ∧
    (s.logSafe (hbmDie at_) → ∃ t, exec .scrubRead s = .next t ∧ t.due pc .scrubRead ∧ t.ctxs = s.ctxs) ∧
    (∃ t, exec .hbmRefresh s = .next t ∧ (t.pch pc).refTok = (s.pch pc).refTok - 1 ∧ t.due pc .hbmRefresh ∧ t.mem = s.mem) ∧
    (s.logSafe (pc / 128) → ∃ t, exec .pseudoChannelFail s = .next t ∧ (t.pch pc).pcfail = true ∧
      ∀ d l, Config.pseudoChannel (l * 64) = pc → t.hbmReach d l = false) ∧
    (s.decodeLine line = .clean → s.bad = none →
      (∃ t, exec (.hbmRead line rq core) s = .next t ∧ free t) ∧ (seen → reads (.ok (s.lineView line)) free)) ∧
    (s.hbmReach w.die line = false → s.bad = none → reads .abort free) ∧
    (∀ errs, s.decodeLine line = .corrected errs → errs ≠ [] → seen → s.logSafe d →
      reads (.ok (s.lineView line)) fun t => (t.die d).ceCount = min (e.ceCount + errs.length) (2 ^ 32 - 1) ∧ (t.die d).ueCount = e.ueCount) ∧
    (s.decodeLine line = .bad cw pos → seen → s.logSafe d →
      (∀ v, Config.miscorrect s.tick (BitVec.ofNat 512 (leNat (s.lineView line))) = some v → reads (.ok (leBytes 64 v.toNat)) free) ∧
      (Config.miscorrect s.tick (BitVec.ofNat 512 (leNat (s.lineView line))) = none → reads .abort fun t =>
        (t.die d).ueCount = min (e.ueCount + 1) 65535 ∧
        (e.en = true → (e.logTail + 2 ^ 32 - e.logHead) % 2 ^ 32 < 2 ^ (e.loglog + 8) → (t.die d).logTail = (e.logTail + 1) % 2 ^ 32 ∧ (t.die d).lost = e.lost) ∧
        (e.en = false → (t.die d).lost = min (e.lost + 1) (2 ^ 14 - 1) ∧ (t.die d).logTail = e.logTail ∧ t.mem = s.mem))) ∧
    ((s.die (pc / 128)).scrubB ≠ 0 → 0 < (s.pch pc).scrubTok → (s.pch pc).pcfail = false → Config.pseudoChannel (at_ * 64) = pc →
      (s.decodeLine at_ = .clean → s.bad = none → ∃ t, exec .scrubRead s = .next t ∧ next t ∧ t.mem = s.mem ∧ t.lineErr = s.lineErr) ∧
      (∀ errs, s.decodeLine at_ = .corrected errs → s.bad = none → u.en = false →
        ∃ t, exec .scrubRead s = .next t ∧ next t ∧ t.mem = s.mem ∧ t.lineErr = s.lineErr.del at_) ∧
      (s.decodeLine at_ = .bad cw pos → s.logSafe (hbmDie at_) →
        let made := Config.miscorrect s.tick (BitVec.ofNat 512 (leNat (s.bytesAt (at_ * 64) 64)))
        (made = none → ∃ t, exec .scrubRead s = .next t ∧ next t ∧ t.lineErr = s.lineErr ∧ (t.die (hbmDie at_)).ueCount = min (u.ueCount + 1) 65535) ∧
        (∀ v, made = some v → ∃ t, exec .scrubRead s = .next t ∧ next t ∧ t.lineErr = s.lineErr.del at_ ∧ t.dies = s.dies ∧
          t.mem = Memory.putAll s.mem (at_ * 64) (leBytes 64 v.toNat)))) ∧
    ((s.die (pc / 128)).scrubB = 0 ∨ (s.pch pc).scrubTok ≤ 0 ∨ (s.pch pc).pcfail = true →
      exec .scrubRead s = .next (s.push periodCycles pc .scrubRead))

/-! ### The arbiter and the dispatchers (R197 to R221) -/

/-- R200, R201, R212, R213: the arbiter gives the work it chooses to a core that is free, in the region's mask and in a frame of its world: a task
that was pre-empted is to resume there (one bound to its old core, R404, on that core), otherwise the next index of the oldest grid starts: the
grid has issued one more, and a task with that index and the packet's code address waits to start. TASK_START, with the template read and the
task's quadrants ready, makes it resident; a template that is none ends it as CONTEXT-FORMAT.

R91, R209, R217, R218, R220: TASK_FINISH of a task whose DONE waits for nothing more takes it off the package, and its grid counts it RETIRED;
TASK_FAULT takes a faulted one off, and the grid counts it in FAULTS. A failed die link cuts its route, and a die cut off from the Midfield
leaves service. -/
def Obligations.TasksPlacedAndEnded : Prop :=
  (
  ∀ (s : State) (core p r : Nat), s.bad = none →
    (((List.range 288).filter s.coreFree).findSome? (fun c => (s.chooseRegion c).map (fun x => (c, x))) = some (core, p, r) →
      let fits (k : Nat) : Prop := s.coreFree k = true ∧ (s.maskOf s.depth r).testBit k = true ∧ s.frameOwns k (s.worldOf r) = true
      (∀ id, s.resumable r core = some id → Tab.rising s.ctxs → ∃ t k, exec .arbiterChoice s = .next t ∧ fits k ∧ (t.core k).ctx = some id ∧
        t.due id (.resume id k) ∧ t.arb.ptrs.val 4095 p = r ∧ ∀ c b, s.ctx id = some c → s.boundCore c = some b → k = b) ∧
      (∀ g e, s.resumable r core = none → s.nextGrid r core = some (g, e) → (e.pk 0).getLsbD 1 = false → s.gridAddr r g + 128 ≤ 2 ^ 39 →
        ∃ t k x, exec .arbiterChoice s = .next t ∧ fits k ∧ (t.core k).ctx = some s.arb.nextCtx ∧ t.ctx s.arb.nextCtx = some x ∧
          x.loc = .pending k ∧ x.who.region = r ∧ x.who.grid = g ∧ x.who.index = e.issued ∧ x.who.world = s.worldOf r ∧
          x.regs.pc = (e.pk 1).toNat % 2 ^ 56 ∧ (t.grid r g).issued = e.issued + 1 ∧ t.due s.arb.nextCtx .taskStart ∧ t.arb.ptrs.val 4095 p = r ∧
          ∀ j, j ≠ s.arb.nextCtx → t.ctx j = s.ctx j)) ∧
    (((List.range 288).filter s.coreFree).findSome? (fun c => (s.chooseRegion c).map (fun x => (c, x))) = none →
      ∃ t, exec .arbiterChoice s = .next t ∧ t.due 0 .preemptRequest ∧ t.ctxs = s.ctxs ∧ t.arb = s.arb ∧ t.mem = s.mem) ∧
    (∀ c bs s1, s.ctx s.subj = some c → c.loc = .pending core →
      (c.image = 0 → (s.core core).spt.length + c.runs.length ≤ 64 → readyQuads s core c.runs = (s, true) →
        ∃ t x, exec .taskStart s = .next t ∧ t.ctx s.subj = some x ∧ x.loc = .resident core ∧ x.regs = c.regs ∧ x.who = c.who ∧ (t.core core).ready = s.now) ∧
      (c.image ≠ 0 → readBytes s { s.whoTask c 4 false with core := core } (s.envTask c) c.image 0x6000 = (s1, .ok bs) → Ctx.load s1 c bs = none →
        ∃ t, exec .taskStart s = .next t ∧ t.due s.subj (.taskFault s.subj 0x40 0)))
  ) ∧
  (
  ∀ (s : State) (id cause detail : Nat) (c : Ctx), s.ctx id = some c → c.loc ≠ .engine → c.away = false → s.mid.reqs = [] → s.tablesSafe c.who.region →
    s.divSafe → c.who.grid < 256 → Tab.rising s.ctxs →
    let r := c.who.region
    let g := c.who.grid
    let e := s.grid r g
    let ends (i : Instr) (e : Grid) : Prop :=
      ∃ t, exec i s = .next t ∧ t.ctx id = none ∧ (∀ k, (s.core k).ctx = some id → (t.core k).ctx = none) ∧ t.grid r g = e ∧
        (∀ j, j ≠ id → t.ctx j = s.ctx j) ∧ t.due 0 .arbiterChoice
    e.retired + e.faults + e.killed + 1 ≠ e.count →
      (s.subj = id → c.isOver = false → c.ph.op.any (·.ending) = true → c.drained = true → c.xf.fq = [] → e.retmap = 0 →
        ends .taskFinish { e with retired := e.retired + 1 }) ∧
      (s.fdomOf r = 0 → c.ph.late = [] → ends (.taskFault id cause detail) { e with faults := e.faults + 1 })
  )

/-- R210, R211, R214, R307, R434: BUDGET_PERIOD puts a staged RCB into effect and refills each own pool, keeping its debt. PREEMPT_REQUEST asks out a
task of lower rank that has run 4 µs for a funded region that needs a core: one with free work and no free core in its mask, or with a task bound
to a busy core (R213, R404); a halted task whose core is needed gives it up first (R391). YIELD asks for the task's own switch when work of equal
or higher rank is ready. DIE_LINK_FAIL takes a link down, and with a link of the Midfield die its compute die out of service. -/
def Obligations.BudgetsAndPreemption : Prop :=
  ∀ (s : State), s.bad = none →
    ((∀ q ∈ s.arb.regions, q.2.addr + 192 ≤ 2 ^ 39) →
      ∃ t, exec .budgetPeriod s = .next t ∧ (s.now + periodCycles, 0, .budgetPeriod) ∈ t.agenda ∧ t.due 0 .arbiterChoice ∧
        ∀ r x, s.arb.regions.look r = some x →
          let l := x.staged.getD x.rcb
          let own (k : Nat) : Bool := (l.getD 1 0).getLsbD k
          let pool (lo : Nat) : Int := ((l.getD 9 0).toNat / 2 ^ lo % 2 ^ 16 : Nat)
          ∃ y, t.arb.regions.look r = some y ∧ y.rcb = l ∧ y.staged = none ∧ y.addr = x.addr ∧
            y.coreTok = (if own 8 then pool 48 * 875 + min x.coreTok 0 else x.coreTok) ∧
            y.hbmTok = (if own 9 then pool 32 * 1024 + min x.hbmTok 0 else x.hbmTok) ∧
            y.fabTok = (if own 10 then pool 16 * 1024 + min x.fabTok 0 else x.fabTok) ∧
            y.powTok = (if own 11 then pool 0 * 14000 + min x.powTok 0 else x.powTok)) ∧
    (∀ r l, (s.arb.regions.look r).isSome = true → s.funded r = true →
      (l = (List.range 288).filter (fun k => (s.maskOf s.depth r).testBit k) ∧ ∃ k ∈ l, s.freeWork r k = true) ∨
        (∃ id x k, (id, x) ∈ s.absentTasks r ∧ s.boundCore x = some k ∧ s.readyOn r k = true ∧ l = [k]) →
      (∀ k ∈ l, s.coreFree k = false ∧ s.vacating k = false) → Tab.rising s.cores →
      ((∃ k ∈ l, s.haltedAt k = true) → ∃ t k, exec .preemptRequest s = .next t ∧ t.due 0 (.switchRequest k 3) ∧ s.haltedAt k = true ∧ t.ctxs = s.ctxs) ∧
      ((∀ k, s.haltedAt k = false) → s.victims (r, l) true ≠ [] →
        ∃ t k x q, exec .preemptRequest s = .next t ∧ t.due 0 (.switchRequest k 0) ∧ (s.core k).ctx.bind s.ctx = some x ∧ x.loc = .resident k ∧
          s.rankOf x.who.region < s.rankOf q ∧ s.funded q = true ∧ x.since + 7000 ≤ s.now ∧ t.ctxs = s.ctxs)) ∧
    (s.arb.regions = [] → exec .preemptRequest s = .next s) ∧
    (∀ id c, s.Sees id c →
      let k := c.anyCore
      let ok (r : Nat) : Prop := (s.arb.regions.look r).isSome = true ∧ s.readyOn r k = true ∧ (s.eligible r true = true ∨ s.eligible r false = true) ∧
        s.rankOf c.who.region ≤ s.rankOf r
      (¬ (∃ r, ok r) → exec .yield s = .next (s.passes id c)) ∧
      ((∃ r, ok r) → ∃ t x, exec .yield s = .next t ∧ t.due 0 (.switchRequest k 4) ∧ t.ctx id = some x ∧ x.regs = s.after c.regs)) ∧
    (s.logSafe 4 → s.subj < 8 → (∀ q ∈ s.ctxs, q.2.loc = .absent ∨ q.2.loc = .engine) →
      ∃ t, exec .dieLinkFail s = .next t ∧ (∀ l, l ∈ t.linksDown ↔ l ∈ s.linksDown ∨ l = s.subj) ∧ t.due 0 .arbiterChoice ∧
        (s.subj < 4 → (t.die s.subj).dieen = false ∧ t.routeUp s.subj 4 = false))

/-! ### Switching contexts, frames (R391 to R404, R417 to R419) -/

/-- R257, R391 to R393, R398, R400: a switch requested of a task that runs takes it off at the bundle boundary; a staged loop is first told to drain,
and a PHASE past step 1, a sent window-space access, a waiting trap, a missing save slot or missing diversion entries are waited for. An image
that its world may not write ends the task (log 29). A leaving task that is quiet gets an entry in state SAVING for each run of its blocks; then
its blocks go, one by one, from the slice to the image, which is untouched otherwise (the spilled entries of the diversion tables apart, R399);
at the end its entries are ABSENT and the core is free, after a frame edge to be cleared.

R48, R397, R400, R404, R429: RESUME loads the documented sections of an image in order and makes its entries RESTORING, or ends the task: an
image its world may not read as a TRANSLATION fault (R416, log 29), one with an uncorrectable line as NOT-RESTARTABLE, one that fails a check as
CONTEXT-FORMAT. Blocks come back one by one; then the task is resident, with the registers of its image, and may issue. A waiting access goes on
once its block is where it can be reached; a spilled diversion entry that is fetched is on the die again. -/
def Obligations.Switches : Prop :=
  (
  ∀ (s : State) (core why id k b : Nat) (c : Ctx), s.ctx id = some c → s.bad = none → s.imageBase c + 0xA00000 ≤ 2 ^ 39 →
    s.divApart c (c.runs.length + 1) →
    let asked := if c.want = some 1 then 1 else why
    let keeps (t : State) : Prop := ∀ a, s.divClear a → t.byteAt a = s.byteAt a
    let gives (i : Instr) (post : State → Ctx → Prop) : Prop := ∃ t x, exec i s = .next t ∧ t.ctx id = some x ∧ x.who = c.who ∧ x.ph = c.ph ∧ post t x
    ((s.core core).ctx = some id → c.loc = .resident core → c.leaving = false → c.isOver = false →
      let draining := c.staged = true ∧ ¬ (c.idle = true ∧ asked = 1) ∧ c.stageOut = false
      (draining → gives (.switchRequest core why) (fun t x => x.want = some asked ∧ x.leaving = false ∧ x.regs.st.stage.getLsbD 15 = true ∧
        x.regs.s = c.regs.s ∧ t.due 0 (.switchRequest core asked))) ∧
      (¬ draining → c.bundleBusy = true → gives (.switchRequest core why) (fun t x => x.want = some asked ∧ x.leaving = false ∧ x.regs = c.regs ∧
        t.due 0 (.switchRequest core asked))) ∧
      (¬ draining → c.bundleBusy = false → s.freeSlot id c = none ∨ s.divRoom id core c = false →
        gives (.switchRequest core why) (fun t x => x.want = some asked ∧ x.leaving = false ∧ x.regs = c.regs ∧ t.due 0 (.switchRequest core asked))) ∧
      (¬ draining → c.bundleBusy = false → s.freeSlot id c = some k → s.divRoom id core c = true →
        gives (.switchRequest core why) (fun t x => x.want = some asked ∧ x.leaving = true ∧ x.slot = some k ∧ t.due id .quiesceDone ∧ t.mem = s.mem ∧
          x.regs.s = c.regs.s ∧ x.regs.pc = c.regs.pc ∧ (c.staged = false ∨ c.stageOut = true → x.regs = c.regs)))) ∧
    (s.subj = id → c.loc = .resident core → c.leaving = true → c.isOver = false → s.quietTask id c = true → c.ph.window.length ≤ 1024 →
      c.ph.snap.length ≤ 2048 → c.records.length ≤ 256 →
      (s.mayImage c = false → ∃ t, exec .quiesceDone s = .next t ∧ t.due id (.taskFault id 3 (faultWord Tstat.permission 0 .write false false).toNat)) ∧
      (s.mayImage c = true →
      gives .quiesceDone (fun t x => x.loc = .saving core 0 ∧ x.oldCore = some core ∧ x.regs = c.regs ∧
        (∀ r ∈ c.runs, ∃ e ∈ (t.die (dieOf core)).div, e.ctxId = id ∧ e.isCtx = false ∧ e.core = core ∧ e.start = r.1 ∧ e.count = r.2.1 ∧ e.state = 1) ∧
        (c.blocks = [] → t.due id .saveDone) ∧ (c.blocks ≠ [] → t.due id .blockSaved)))) ∧
    (s.subj = id → c.loc = .saving core k → c.blocks[k]? = some b → b < 2048 → s.mayImage c = true → Memory.wf s.mem = true → Tab.rising s.keyed →
      gives .blockSaved (fun t x => x.loc = .saving core (k + 1) ∧ x.regs = c.regs ∧
        (t.devRead c.whoImage (s.imageBase c + 0x200000 + b * 4096) 4096).2 = s.bytesAt (sliceCell core (b * 4096)) 4096 ∧
        (∀ a, ¬ (s.imageBase c + 0x200000 + b * 4096 ≤ a ∧ a < s.imageBase c + 0x200000 + b * 4096 + 4096) → s.divClear a → t.byteAt a = s.byteAt a) ∧
        (t.due id .blockSaved ∨ t.due id .saveDone))) ∧
    (s.subj = id → c.loc = .saving core k → c.blocks.length ≤ k →
      gives .saveDone (fun t x => x.loc = .absent ∧ x.want = none ∧ x.leaving = false ∧ x.regs = c.regs ∧ (t.core core).ctx = none ∧ keeps t ∧
        (∀ d, ∀ e ∈ (t.die d).div, e.ctxId = id → e.state = 2) ∧ t.due 0 .arbiterChoice ∧
        (t.core core).clearing = (if c.want = some 1 then some (s.now + 4096) else none) ∧ (c.want = some 1 → t.due core .coreClearDone)))
  ) ∧
  (
  (∀ (s : State) (core id k b : Nat) (c : Ctx), s.ctx id = some c → s.bad = none → s.imageBase c + 0xA00000 ≤ 2 ^ 39 →
    s.divApart c 0 →
    let gives (i : Instr) (post : State → Ctx → Prop) : Prop := ∃ t x, exec i s = .next t ∧ t.ctx id = some x ∧ x.who = c.who ∧ post t x
    let keeps (t : State) : Prop := ∀ a, s.divClear a → t.byteAt a = s.byteAt a
    let r1 := s.devRead c.whoImage (s.imageBase c) 0x4C000
    let r2 := r1.1.devRead c.whoImage (r1.1.imageBase c + 0x100000) 0x100000
    let bytes := r1.2
    let tiles : Tab Word := tabOf 262144 (fun k => BitVec.ofNat 32 (numAt r2.2 (4 * k) 4))
    (c.loc = .absent → c.isOver = false → (s.core core).ctx = some id →
      (s.mayImage c = false →
        ∃ t, exec (.resume id core) s = .next t ∧ t.due id (.taskFault id 3 (faultWord Tstat.permission 0 .read false false).toNat)) ∧
      (s.mayImage c = true → s.imageBad c = true → ∃ t, exec (.resume id core) s = .next t ∧ t.due id (.taskFault id 0x41 0)) ∧
      (s.mayImage c = true → s.imageBad c = false → Ctx.restore r2.1 c core bytes tiles = none →
        ∃ t, exec (.resume id core) s = .next t ∧ t.due id (.taskFault id 0x40 0)) ∧
      (∀ c1, s.mayImage c = true → s.imageBad c = false → Ctx.restore r2.1 c core bytes tiles = some c1 → readyQuads r2.1 core c1.runs = (r2.1, true) →
        gives (.resume id core) (fun t x => x.loc = .restoring core 0 ∧ x.regs = c1.regs ∧ (c.ph.op = none → x.regs = imageRegs bytes c.regs) ∧
          x.eng.tile = tiles ∧
          (∀ d, ∀ e ∈ (t.die d).div, e.ctxId = id → e.state = 3 ∧ e.ncore = core) ∧ (t.due id .restoreDone ∨ t.due id .blockRestored)))) ∧
    (s.subj = id → c.loc = .restoring core k → c.blocks[k]? = some b → b < 2048 → Memory.wf s.mem = true →
      gives .blockRestored (fun t x => x.loc = .restoring core (k + 1) ∧ x.regs = c.regs ∧
        t.bytesAt (sliceCell core (b * 4096)) 4096 = (s.devRead c.whoImage (s.imageBase c + 0x200000 + b * 4096) 4096).2 ∧
        (∀ a, ¬ (sliceCell core (b * 4096) ≤ a ∧ a < sliceCell core (b * 4096) + 4096) → s.divClear a → t.byteAt a = s.byteAt a) ∧
        (t.due id .blockRestored ∨ t.due id .restoreDone))) ∧
    (s.subj = id → c.loc = .restoring core k → c.blocks.length ≤ k → c.ph.err = false → c.xf.fired = [] →
      gives .restoreDone (fun t x => x.loc = .resident core ∧ x.regs = c.regs ∧ x.ph = c.ph ∧ (t.core core).ready = s.now ∧ t.due id .commandStart ∧
        (c.xf.fq ≠ [] → t.due core .engineFault) ∧ keeps t ∧
        ∀ d, ∀ e ∈ (t.die d).div, e.ctxId = id → e.core ≠ core ∧ e.state = 4 ∧ e.ncore = core))) ∧
  (∀ (s : State) (q : DivWait), (s.die s.subj).divq = [q] →
    ∃ t, exec .divertedAccess s = .next t ∧ t.mem = s.mem ∧ t.ctxs = s.ctxs ∧
      (s.servedAt q.core (q.block * 4096) = .later → (t.die s.subj).divq = [q]) ∧
      (s.servedAt q.core (q.block * 4096) ≠ .later → (t.die s.subj).divq = [] ∧ t.due q.subj q.again)) ∧
  (∀ (s : State),
    let hit (e : DivEnt) : Bool := decide (e.core = s.subj / 8 / 2048 ∧ e.start = s.subj / 8 % 2048 ∧ e.isCtx = false)
    ∃ t, exec .diversionFetch s = .next t ∧ (∀ a, s.divClear a → t.byteAt a = s.byteAt a) ∧ t.ctxs = s.ctxs ∧
      (t.die (s.subj % 8)).div.length = (s.die (s.subj % 8)).div.length ∧
      (((s.die (s.subj % 8)).div.filter hit).length ≤ 256 → ∀ e ∈ (t.die (s.subj % 8)).div, hit e = true → e.spilled = false))
  )

/-- R417 to R419: at a frame edge the task on the core is idle unless the frame is its world's, and a context or a clear that has overrun is counted
and asked out. The lead time before an edge to another world, the resident task is asked out and the core waits for the edge. At a cycle boundary
new frame tables take effect and each core's frame 0 starts. A core that has been cleared holds nothing of the world before: each byte of its
slice is zero, and no translation of it is left. -/
def Obligations.FramesAndClears : Prop :=
  ∀ (s : State) (core frame id : Nat) (c : Ctx),
    let own (f : Nat) (w : Nat) : Prop := (s.core core).frametab.getLsbD (4 * f + 3) = true ∧ (s.core core).frametab.toNat / 2 ^ (4 * f) % 8 = w
    let idleFrame (f : Nat) : Prop := (s.core core).frametab.getLsbD (4 * f + 3) = false
    (frame < 16 → ∃ t, exec (.frameEdge core frame) s = .next t ∧ (t.core core).frame = frame ∧ (t.core core).awaitEdge = false ∧
      (frame < 15 → (s.now + 109375, 0, .frameEdge core (frame + 1)) ∈ t.agenda) ∧ t.due core .frameSwitchRequest ∧ t.mem = s.mem ∧
      ((s.core core).ctx = some id → s.ctx id = some c →
        (∃ x, t.ctx id = some x ∧ (x.idle = true ↔ ¬ own frame c.who.world) ∧ x.regs = c.regs) ∧
        (¬ idleFrame frame → ¬ own frame c.who.world →
          t.due 0 (.switchRequest core 1) ∧ (t.core core).sealovr = min ((s.core core).sealovr + 1) 255))) ∧
    (s.subj = core → (s.core core).ctx = some id → s.ctx id = some c → (s.core core).newFrame = none → (s.core core).frame < 16 →
      let f := if (s.core core).frame = 15 then 0 else (s.core core).frame + 1
      (idleFrame f ∨ own f c.who.world → exec .frameSwitchRequest s = .next s) ∧
      (¬ idleFrame f → ¬ own f c.who.world →
        ∃ t, exec .frameSwitchRequest s = .next t ∧ (t.core core).awaitEdge = true ∧ t.due 0 (.switchRequest core 1) ∧ t.ctxs = s.ctxs)) ∧
    (∃ t, exec .frameCycleBoundary s = .next t ∧ t.ctxs = s.ctxs ∧ t.mem = s.mem ∧ (s.now + 1750000, 0, .frameCycleBoundary) ∈ t.agenda ∧
      (∀ x, s.cores.look core = some x → t.due 0 (.frameEdge core 0)) ∧
      ∀ x tab lead, s.cores.look core = some x → x.newFrame = some (tab, lead) →
        (t.core core).frametab = tab ∧ (t.core core).flead = lead ∧ (t.core core).newFrame = none) ∧
    (∀ n, s.subj = core → (s.core core).clearing = some n → n ≤ s.now →
      ∃ t, exec .coreClearDone s = .next t ∧ (t.core core).clearing = none ∧ (∀ e ∈ t.tlbs, e.site ≠ core) ∧ t.due 0 .arbiterChoice ∧
        ∀ a, t.byteAt a = if sliceCell core 0 ≤ a ∧ a < sliceCell core 0 + 2 ^ 23 then 0 else s.byteAt a)

/-! ### The fabric's transaction layer (R34 to R36, R107, R115 to R134) -/

/-- R35, R107, R119, R121 to R125, R130, R132: REMOTE_REQUEST_SEND sends the first queued request among the first 16 (R133) of an open connection
with the connection's next SEQ, for one credit, unless the region's fabric budget is capped and exhausted (R211) or a UALink port orders it
(R138); a rank that is invalid or fenced, or a refused connection, ends it at once. REMOTE_RETRY_TIMEOUT sends the next attempt, or, after the
last, the request waits for its copies to die; LIFETIME_EXPIRY then ends it INDETERMINATE. A completion ends the request it answers, with its
word and data, and restarts its rank's timer; one that answers none is discarded, and one over a known connection restarts the timer all the
same. A request that ends is gone, and no other changes.

R122, R126 to R129: a request that comes to its connection's context: one that lies before BASE, or beyond the window, is dropped; a new one is
accepted once, held in a free slot of HOLDBUF, and to be performed; a write performed before is only answered again, with the word it had.
REMOTE_PERFORM of one whose turn has come performs it at its home, keeps its word and takes it off; what the connection does not know and what is
too old changes nothing. -/
def Obligations.RemoteAccesses : Prop :=
  (
  ∀ (s : State) (k q n pkg : Nat) (c : Conn) (r : Req) (tx : Txn), s.mid.conns.look k = some c → s.mid.reqs.look q = some r → r.conn = k → k ≤ 2 ^ 40 →
    Tab.rising s.mid.reqs →
    let e := s.rank c.job c.rank
    let wait (m : Nat) : Nat := min (2 ^ (r.toexp + m)) 1048576 * 1750
    let ends (i : Instr) (w : DWord) (data : List Byte) : Prop :=
      ∃ t, exec i s = .next t ∧ t.mid.reqs.look q = none ∧ (∀ j, j ≠ q → t.mid.reqs.look j = s.mid.reqs.look j) ∧
        ∀ id va x m, r.what = .scalar id va → s.ctx id = some x → x.ph.rem = some m →
          ∃ y, t.ctx id = some y ∧ y.ph.rem = some { m with answer := some (w, data) } ∧ y.regs = x.regs ∧ t.mem = s.mem
    (s.subj = k → (c.queue.take 16).find? (fun q => (s.mid.reqs.look q).any (fun r => decide (r.st = .queued))) = some q →
      (e.v = false → ends .remoteRequestSend (cword c.rank 1 (faultWord Tstat.rankInvalid 0 r.txn.acc false false)) []) ∧
      (e.v = true → e.fenced = true → ends .remoteRequestSend (cword c.rank 1 (faultWord Tstat.rankFenced 0 r.txn.acc false false)) []) ∧
      (e.v = true → e.fenced = false → c.st = .failed → ends .remoteRequestSend (cword c.rank 4 0) []) ∧
      (e.v = true → e.fenced = false → e.hold = false → c.st = .opened → c.spilled = false → (s.slotHdr c.job).world = 0 → classRefused s c r = false →
        c.credits ≠ 0 → (c.nextSeq + 2 ^ 24 - lowSeq s k c) % 2 ^ 24 < 1024 → c.nextSeq < 2 ^ 24 →
        (c.pkg = s.pkg ∨ (s.forRegion r).any s.fabHeld = false) →
        ((∃ p ∈ portsOf c.ports, (s.port p).mode = 4) → r.txn.ord = false ∨ c.nextSeq = lowSeq s k c) →
        ∃ t x y, exec .remoteRequestSend s = .next t ∧ t.mid.conns.look k = some x ∧ t.mid.reqs.look q = some y ∧
          x.nextSeq = (c.nextSeq + 1) % 2 ^ 24 ∧ x.credits = c.credits - 1 ∧ y.st = .sent 0 ∧ y.txn.seq = c.nextSeq ∧ y.txn.op = r.txn.op ∧
          y.txn.taddr = r.txn.taddr ∧ y.txn.data = r.txn.data ∧ y.lastSend = s.now ∧ (t.rank c.job c.rank).outst = min (e.outst + 1) 65535 ∧
          (s.now + wait 0, 0, .remoteRetryTimeout q 0) ∈ t.agenda ∧ t.mem = s.mem)) ∧
    (r.st = .sent n →
      (n < r.retries → ∃ t y, exec (.remoteRetryTimeout q n) s = .next t ∧ t.mid.reqs.look q = some y ∧ y.st = .sent (n + 1) ∧ y.txn.seq = r.txn.seq ∧
        y.lastSend = s.now ∧ (s.now + wait (n + 1), 0, .remoteRetryTimeout q (n + 1)) ∈ t.agenda) ∧
      (r.retries ≤ n → ∃ t, exec (.remoteRetryTimeout q n) s = .next t ∧ t.mid.reqs.look q = some { r with st := .expiring } ∧
        (s.now + (r.lastSend + s.mid.fabtime.toNat % 256 * 1750 - s.now), q, .lifetimeExpiry) ∈ t.agenda)) ∧
    (s.subj = q → r.st = .expiring → r.lastSend + s.mid.fabtime.toNat % 256 * 1750 ≤ s.now → ends .lifetimeExpiry (cword r.rank 2 0) []) ∧
    (s.answered pkg tx = none → (∀ j x, (j, x) ∈ s.mid.conns → ¬ (x.requester = true ∧ x.number = tx.conn ∧ (x.pkg = pkg ∨ x.rank = tx.d2.toNat / 2 ^ 36 % 4096))) →
      exec (.remoteCompletionReceive pkg tx) s = .next s) ∧
    (s.answered pkg tx = none → s.cameOver pkg tx = some (k, c) → c.pkg = s.pkg ∨ (s.slotHdr c.job).world = 0 →
      exec (.remoteCompletionReceive pkg tx) s = .next { s with mid := { s.mid with destLast := s.mid.destLast.set (rankKey c.job c.rank) s.now } }) ∧
    (s.answered pkg tx = some q → (s.slotHdr c.job).world = 0 →
      ends (.remoteCompletionReceive pkg tx) (setFld (tx.d2 &&& 0x0000FFFFFFFFFFFF) 36 12 r.rank)
        (tx.data.take (if tx.op = 0x08 then min r.txn.len tx.dataBytes else tx.dataBytes)) ∧
      ∃ t, exec (.remoteCompletionReceive pkg tx) s = .next t ∧ t.mid.destLast.val 0 (rankKey r.job r.rank) = s.now)
  ) ∧
  (
  ∀ (s s1 : State) (k q : Nat) (c : Conn) (tx : Txn) (h : Held) (w : DWord) (data : List Byte), s.mid.conns.look k = some c →
    let life := s.mid.fabtime.toNat % 256
    let found := s.mid.conns.find? (fun (_, c) => !c.requester && decide (c.number = tx.conn))
    let i := Instr.remoteRequestReceive 48 tx
    (life < tx.age → exec i s = .next s) ∧
    (tx.age ≤ life → tx.op = 1 ∨ tx.op = 2 ∨ tx.op = 3 →
      (found = none → exec i s = .next s) ∧
      (found = some (k, c) → c.spilled = false →
        let c1 := c.advance tx
        let far := (tx.seq + 2 ^ 24 - c1.base) % 2 ^ 24
        let leaves (x : Conn) (post : State → Prop) : Prop := ∃ t, exec i s = .next t ∧ t.mid.conns.look k = some x ∧ t.mem = s.mem ∧ t.ctxs = s.ctxs ∧ post t
        (1024 ≤ far → leaves c1 (fun _ => True)) ∧
        (far < 1024 → tx.seq ∉ c1.seen → c1.hold.length < 64 →
          ∃ n, n < 64 ∧ (∀ h ∈ c1.hold, h.slot ≠ n) ∧
            leaves { c1 with seen := tx.seq :: c1.seen, hold := c1.hold ++ [{ slot := n, seq := tx.seq, port := 48, txn := tx }], lastUse := s.now }
              (fun t => t.due 0 (.remotePerform k tx.seq))) ∧
        (far < 1024 → tx.seq ∈ c1.seen → (∀ h ∈ c1.hold, h.seq ≠ tx.seq) → tx.op = 2 → c1.done.find? (fun p => decide (p.1 = tx.seq)) = some (tx.seq, w) →
          leaves c1 (fun t => ∃ a, t.due 0 (.remoteCompletionReceive s.pkg a) ∧ a.op = 9 ∧ a.seq = tx.seq ∧ a.d2 = w)))) ∧
    (c.hold.find? (fun h => decide (h.seq = q)) = some h → c.before h.txn = false → performReq s k c h.txn = .done s1 w data → s1.mid.conns.look k = some c →
      ∃ t x, exec (.remotePerform k q) s = .next t ∧ t.mid.conns.look k = some x ∧ x.hold = c.hold.filter (fun y => decide (y.seq ≠ q)) ∧
        x.done.head? = some (q, w) ∧ x.seen = c.seen ∧ t.mem = s1.mem ∧ t.ctxs = s1.ctxs)
  )

/-- R34 to R36, R119, R120, R124, R132: a rank from which nothing has come for DESTTO is fenced; the hypervisor's write of an entry sets its fields,
keeps OUTST, and counts EPOCH only when the path changes. CONNOPEN with a slot's JOBID makes a context with an unused CONN, once; CONNACK opens a
connection that was being opened and ends one that was closing; CONNNAK makes it fail; CONNCLOSE releases the context; an open is tried seven
times; an idle connection closes; a spilled context that is fetched is held again. -/
def Obligations.RanksAndConnections : Prop :=
  (∀ (s : State) (job rank : Nat) (d0 d1 : BitVec 64),
    let e := s.rank job rank
    let wait := s.mid.fabtime.toNat / 2 ^ 32 % 2 ^ 20 * 1750
    let last := s.mid.destLast.val 0 (rankKey job rank)
    let pkg := d0.toNat / 2 ^ 16 % 2 ^ 16
    let ports := d1.toNat % 2 ^ 48
    (e.outst = 0 → exec (.destTimeout job rank) s = .next s) ∧
    (e.outst ≠ 0 → s.now < last + wait → exec (.destTimeout job rank) s = .next (s.push (last + wait - s.now) 0 (.destTimeout job rank))) ∧
    (e.outst ≠ 0 → last + wait ≤ s.now → ∃ t, exec (.destTimeout job rank) s = .next t ∧ t.rank job rank = { e with fenced := true } ∧
      t.mid.conns = s.mid.conns ∧ t.mid.reqs = s.mid.reqs ∧ (s.now + wait, 0, .destTimeout job rank) ∈ t.agenda) ∧
    (job < 64 → rank < 4096 → s.host.phase = 6 → ∃ t, exec (.rankEntryWrite job rank d0 d1) s = .next t ∧
      t.rank job rank = {
        epoch := if e.pkg ≠ pkg ∨ e.ports ≠ ports then (e.epoch + 1) % 2 ^ 32 else e.epoch, pkg := pkg, hold := d0.getLsbD 2,
        fenced := d0.getLsbD 1, v := d0.getLsbD 0, outst := e.outst, ports := ports })) ∧
  (∀ (s : State) (port pkg k n j : Nat) (c : Conn) (tx : Txn), Tab.rising s.mid.conns →
    let slot := (List.range 64).find? fun j => (s.slotHdr j).en && decide ((s.slotHdr j).jobid = leNat (tx.data.take 4))
    let sender := leNat ((tx.data.drop 4).take 2)
    let open_ := s.mid.conns.find? (fun (_, c) => !c.requester && decide (c.pkg = sender ∧ c.job = j ∧ c.openTag = tx.seq))
    let idle := s.mid.fabtime.toNat / 2 ^ 12 % 2 ^ 20 * 1750
    let same (i : Instr) : Prop := ∃ t, exec i s = .next t ∧ t.mid.conns = s.mid.conns
    let becomes (i : Instr) (k : Nat) (P : Conn → Prop) (due : State → Prop) : Prop :=
      ∃ t x, exec i s = .next t ∧ t.mid.conns.look k = some x ∧ P x ∧ (∀ m, m ≠ k → t.mid.conns.look m = s.mid.conns.look m) ∧ due t
    let gone (i : Instr) (k : Nat) : Prop :=
      ∃ t, exec i s = .next t ∧ t.mid.conns.look k = none ∧ ∀ m, m ≠ k → t.mid.conns.look m = s.mid.conns.look m
    (8 ≤ tx.data.length →
      (slot = none → same (.connopen port pkg tx)) ∧
      (slot = some j → open_ ≠ none → same (.connopen port pkg tx)) ∧
      (slot = some j → open_ = none → s.mid.conns.length < 8192 → becomes (.connopen port pkg tx) s.mid.nextConn
        (fun x => x.requester = false ∧ x.number < 2 ^ 16 ∧ (∀ p ∈ s.mid.conns, p.2.requester = false → p.2.number ≠ x.number) ∧ x.job = j ∧
          x.rank = tx.srcRank ∧ x.pkg = sender ∧ x.openTag = tx.seq ∧ x.region = (s.slotHdr j).region ∧ x.world = (s.slotHdr j).world ∧
          x.base = 0 ∧ x.seen = [] ∧ x.hold = []) (fun _ => True))) ∧
    (s.connOf tx.seq = some (k, c) →
      (c.st = .opening n → becomes (.connack pkg tx) k (fun x => x = { c with st := .opened, number := tx.conn, lastUse := s.now })
          (fun t => t.due k .remoteRequestSend) ∧
        becomes (.connnak pkg tx) k (fun x => x = { c with st := .failed }) (fun t => t.due k .remoteRequestSend)) ∧
      (c.st = .closing → c.number = tx.conn → gone (.connack pkg tx) k)) ∧
    (s.mid.conns.find? (fun (_, c) => !c.requester && decide (c.number = tx.conn)) = some (k, c) → gone (.connclose pkg tx) k) ∧
    (s.mid.conns.look k = some c →
      (c.st = .opening n → n < 6 → becomes (.connopenTimeout k n) k (fun x => x = { c with st := .opening (n + 1) })
        (fun t => (s.now + 2 ^ (n + 3) * 1750, 0, .connopenTimeout k (n + 1)) ∈ t.agenda)) ∧
      (c.st = .opening n → 6 ≤ n → becomes (.connopenTimeout k n) k (fun x => x = { c with st := .failed }) (fun t => t.due k .remoteRequestSend)) ∧
      (s.subj = k → c.requester = true → s.ualinkMask c.ports = false → (c.st = .opened ∧ c.lastUse + idle ≤ s.now ∨ c.st = .draining) →
        (s.mid.reqs.any (fun (_, r) => decide (r.conn = k ∧ r.st ≠ .held)) = true → exec .connIdleClose s = .next s) ∧
        (s.mid.reqs.any (fun (_, r) => decide (r.conn = k ∧ r.st ≠ .held)) = false →
          becomes .connIdleClose k (fun x => x = { c with st := .closing }) (fun _ => True))) ∧
      (s.subj = k → s.mid.conns.length ≤ 8192 → becomes .contextFetch k (fun x => x = { c with spilled := false, lastUse := s.now })
        (fun t => t.due k .remoteRequestSend))))

/-! ### Fabric ports (R110 to R114, R135 to R137, R462) -/

/-- R110 to R113, R115, R122: a damaged flit is counted and discarded. A DATA flit ahead of ACKBASE is held and acknowledged in the bitmap, an old
one is acknowledged again; the one at ACKBASE is delivered: its transactions arrive, 4 µs older, and its buffer is owed to the other end as a
credit of its channel. An ACK takes the flits it names out of the replay buffer, and no other; flits not acknowledged in 0.5 µs are sent again,
as they were but with the ACKBASE of now.

R111, R114, R135 to R137, R462: a port whose flit stays unacknowledged for 4 µs drops its replay buffer, asks for training and trains; so does
one that is asked to. Trained lanes make it send LINKCAP, again every 1 µs; the highest version both ends have is its mode, and none in common,
or no answer in 10 ms, takes it DOWN, or to UALink where that is permitted; what PORTCFG permits takes effect when training begins. A retraining
without RETRBUD tokens waits, the port DOWN (R437). PORTCFG's EN starts training and ends the port's service; FWDBASE discards the forwarding
entries held. -/
def Obligations.FlitsAndPorts : Prop :=
  (
  ∀ (s : State) (port : Nat) (bytes : List Byte),
    let q := s.port port
    let n := flitSeq bytes
    let ahead := (n + 4096 - q.ackbase) % 4096
    let pk := q.peer.elim 0 (·.1)
    let left := ((q.partial0.find? (fun x => decide (x.1 = flitVc bytes))).map (·.2)).getD []
    let whole := bytes.length = 256 ∧ crc64 (bytes.take 248) = leNat (bytes.drop 248) ∧ flitType bytes < 5
    let i := Instr.flitReceive port bytes
    let gives (i : Instr) (post : State → Port → Prop) : Prop := ∃ t, exec i s = .next t ∧ post t (t.port port) ∧ t.mem = s.mem ∧ t.ctxs = s.ctxs
    let acks (t : State) : Prop := ∃ b, t.out = (port, b) :: s.out ∧ flitType b = 2
    (q.mode = 0 → exec i s = .next s) ∧
    (1 ≤ q.mode → q.mode ≤ 3 → port < 48 → ¬ whole → gives i (fun _ x => x = { q with errs := min (q.errs + 1) 65535 })) ∧
    (1 ≤ q.mode → q.mode ≤ 3 → whole → flitAckV bytes = false →
      (flitType bytes = 0 → exec i s = .next s) ∧ (flitType bytes = 2 → exec i s = .next (s.push 0 0 (.ackFlit port bytes))) ∧
      (flitType bytes = 3 → exec i s = .next (s.push 0 0 (.linkcap port bytes))) ∧ (flitType bytes = 4 → exec i s = .next (s.push 0 port .retrain)) ∧
      (flitType bytes = 1 → 2 ≤ q.mode → q.reseq = [] → s.bad = none → q.ackbase < 4096 →
        (ahead ≠ 0 → ahead < 256 → gives i (fun t x => x.reseq = [(n, bytes)] ∧ x.ackbase = q.ackbase ∧ acks t ∧ t.due port .ackSendTimer)) ∧
        (lseqBefore n q.ackbase = true → gives i (fun t x => x.reseq = [] ∧ x.ackbase = q.ackbase ∧ acks t)) ∧
        (ahead = 0 → flitDpkg bytes = s.pkg →
          gives i (fun t x => x.reseq = [] ∧ x.ackbase = (n + 1) % 4096 ∧
            ∀ tx ∈ (takeTxns (s.tailBytes pk) 20 (left ++ flitPayload bytes)).1, opKnown tx.op = true → tx.age + 4 ≤ s.mid.fabtime.toNat % 256 →
              t.due 0 (arrival port pk { tx with d1 := setFld tx.d1 56 8 (tx.age + 4) })) ∧
          (q.sinceAck < 63 → gives i (fun _ x => x.owed = q.owed.set (flitVc bytes) (q.owed.val 0 (flitVc bytes) + 1)))))) ∧
    (2 ≤ q.mode → whole → flitType bytes = 2 → (∀ f ∈ q.replay, f.first ≠ 2 ^ 63) →
      let named (m : Nat) : Bool := (flitAckV bytes && lseqBefore m (flitAck bytes)) ||
        (List.range 255).any (fun i => ((flitPayload bytes).getD (i / 8) 0).getLsbD (i % 8) && decide (m = (flitAck bytes + 1 + i) % 4096))
      gives (.ackFlit port bytes) (fun _ x => x.replay.map (·.lseq) = (q.replay.filter (fun f => !named f.lseq)).map (·.lseq) ∧ x.lseq = q.lseq)) ∧
    (s.subj = port →
      (q.reseq = [] ∨ q.mode < 2 → exec .ackSendTimer s = .next s) ∧
      (q.reseq ≠ [] → 2 ≤ q.mode → gives .ackSendTimer (fun t x => x = { q with sinceAck := 0, owed := x.owed } ∧ acks t ∧ (s.now + 350, port, .ackSendTimer) ∈ t.agenda)) ∧
      (let late := q.replay.filter (fun f => decide (f.first ≠ 2 ^ 63 ∧ f.last + 875 ≤ s.now))
       let same (b : List Byte) (f : Flit) : Prop := flitType b = flitType f.bytes ∧ flitSeq b = flitSeq f.bytes ∧ flitDpkg b = flitDpkg f.bytes ∧ flitPayload b = flitPayload f.bytes
       (late = [] → exec .replayTimeout s = .next s) ∧
       (late ≠ [] → gives .replayTimeout (fun t x => (∀ f ∈ late, f.bytes.length = 256 → ∃ b, (port, b) ∈ t.out ∧ same b f ∧ flitAck b = q.ackbase % 4096) ∧ x.replay.map (·.lseq) = q.replay.map (·.lseq) ∧
         (s.now + 875, port, .replayTimeout) ∈ t.agenda))))
  ) ∧
  (
  ∀ (s : State) (port : Nat) (lanes : BitVec 4) (bytes : List Byte) (v : BitVec 32) (w : BitVec 64), port < 48 →
    let q := s.port port
    let gives (i : Instr) (post : State → Port → Prop) : Prop := ∃ t, exec i s = .next t ∧ post t (t.port port) ∧ t.mem = s.mem ∧ t.ctxs = s.ctxs
    let trains (m : Nat) (t : State) (x : Port) : Prop :=
      x.mode = m ∧ x.lanes = 0 ∧ x.peer = none ∧ x.lseq = 0 ∧ x.replay = [] ∧ x.ackbase = 0 ∧ x.reseq = [] ∧ x.partial0 = [] ∧
        x.nowUa = x.ualen ∧ x.now2 = x.v2 ∧ x.now1 = x.v1 ∧ x.waits = false ∧ (s.now + 175000000, port, .portTrainTimeout) ∈ t.agenda
    let paid : Port := { q with retrTok := q.retrTok - (s.now - q.trainStart + 1749) / 1750 }
    let funded (tok : Int) : Prop := 0 < tok ∨ q.retrains = 0
    let waits (x : Port) : Prop := x.mode = 0 ∧ x.waits = true ∧ x.replay = [] ∧ x.reseq = [] ∧ x.retrains = q.retrains
    let late := ∃ f ∈ q.replay, f.first ≠ 2 ^ 63 ∧ f.first + 7000 ≤ s.now
    let down (t : State) (x : Port) : Prop := x.mode = 0 ∧ x.lanes = 0 ∧ x.peer = none ∧ (s.now + 175000000, port, .portTrainTimeout) ∈ t.agenda
    (s.subj = port →
      (late → gives .linkUnackTimeout (fun t x => (funded q.retrTok → trains 1 t x ∧ x.retrains = min (q.retrains + 1) 255) ∧ (¬ funded q.retrTok → waits x) ∧
        ∃ b, t.out = (port, b) :: s.out ∧ flitType b = 4)) ∧
      (¬ late → exec .linkUnackTimeout s = .next s) ∧
      (q.en = true → 2 ≤ q.mode → gives .retrain (fun t x => (funded q.retrTok → trains 1 t x ∧ x.retrains = min (q.retrains + 1) 255) ∧ (¬ funded q.retrTok → waits x))) ∧
      (q.mode = 1 → q.lanes ≠ 0 →
        gives .linkcapResend (fun t x => x = { q with owed := x.owed } ∧ (s.now + 1750, port, .linkcapResend) ∈ t.agenda ∧ ∃ b, t.out = (port, b) :: s.out ∧ flitType b = 3) ∧
        (q.trainStart + 17500000 ≤ s.now → (q.nowUa = true → gives .linkcapTimeout (fun _ x => x = { paid with mode := 4 })) ∧
          (q.nowUa = false → gives .linkcapTimeout down))) ∧
      (q.mode ≠ 1 ∨ q.lanes = 0 → exec .linkcapResend s = .next s ∧ exec .linkcapTimeout s = .next s) ∧
      (q.en = true → q.mode < 2 → q.waits = true ∨ q.trainStart + 175000000 ≤ s.now → funded (if q.mode = 1 then paid.retrTok else q.retrTok) →
        gives .portTrainTimeout (trains (if q.waits then 1 else 0)))) ∧
    (q.en = true → q.mode < 2 → lanes ≠ 0 → gives (.laneTrained port lanes) (fun t x => x = { q with lanes := lanes.toNat, mode := 1, owed := x.owed } ∧
      (s.now + 1750, port, .linkcapResend) ∈ t.agenda ∧ (s.now + 17500000, port, .linkcapTimeout) ∈ t.agenda ∧
      ∃ b, t.out = (port, b) :: s.out ∧ flitType b = 3)) ∧
    (q.mode = 1 → q.lanes ≠ 0 → flitGood bytes = true → flitType bytes = 3 →
      let their := (bytes.getD 8 0)
      let peer := (leNat ((bytes.drop 10).take 2), (bytes.getD 12 0).toNat)
      let both (k : Nat) (own : Bool) : Bool := own && their.toNat.testBit k
      (both 1 q.now2 = true → gives (.linkcap port bytes) (fun _ x => x = { paid with mode := 3, peer := some peer })) ∧
      (both 1 q.now2 = false → both 0 q.now1 = true → gives (.linkcap port bytes) (fun _ x => x = { paid with mode := 2, peer := some peer })) ∧
      (both 1 q.now2 = false → both 0 q.now1 = false → gives (.linkcap port bytes) down)) ∧
    (s.host.phase = 6 →
      let written (x : Port) : Prop := x.ujob = v.toNat / 2 ^ 8 % 2 ^ 6 ∧ x.ualen = v.getLsbD 3 ∧ x.v2 = v.getLsbD 2 ∧ x.v1 = v.getLsbD 1 ∧ x.en = v.getLsbD 0
      gives (.portcfgWrite port v) (fun t x => written x ∧ (v.getLsbD 0 = true → q.en = false → trains 1 t x) ∧
        (v.getLsbD 0 = false → q.en = true → x.mode = 0 ∧ x.replay = [] ∧ x.reseq = []) ∧ (v.getLsbD 0 = q.en → x.mode = q.mode ∧ x.replay = q.replay)) ∧
      exec (.fwdbaseWrite w) s = .next { s with mid := { s.mid with fwdbase := BitVec.ofNat 64 (w.toNat / 2 ^ 19 % 2 ^ 21 * 2 ^ 19), fwdHeld := [] } })
  )

/-! ### In-fabric reduction (R140 to R160) -/

/-- R141, R145, R146, R149, R157, R159: a contribution that comes to its home with the units off ends UNSUPPORTED, one that fails a check PROTOCOL,
one whose key is a tomb EXPIRED; any other is accepted and waits for its unit, which opens an entry for a new key and combines it into an OPEN
one: integers modulo their width, minimum, maximum and the bitwise operators, floats in FP32 with one rounding.

R148, R153 to R158: collection that ends by time is OK when all expected have come whole, else PARTIAL; the value then goes to the parent, to the
contributors, or to TADDR; a notice goes to each contributor, after the last the entry is a tomb, and free after the TOMBTIME of now. A forward
refused or not answered in time ends it for the contributors with that outcome, INDETERMINATE in the second case; the parent's notice is passed
on. At the contributor, the notice, or its absence, ends the contribution. -/
def Obligations.Reductions : Prop :=
  (
  (∀ (s : State) (conn seq : Nat) (c : Conn) (h : Held), s.mid.conns.look conn = some c → c.hold.find? (fun h => decide (h.seq = seq)) = some h →
    let d := Desc.of h.txn
    let tomb := ∃ e, s.mid.comb.look (combKey c.job d.rid d.level) = some e ∧ e.st = 5
    let on := s.mid.scrumcfg.getLsbD 0 = true
    let answers (cstat : Nat) (taken : Bool) : Prop :=
      ∃ t x, exec (.contributionReceive conn seq) s = .next t ∧ t.mid.conns.look conn = some x ∧ x.hold = c.hold.filter (fun y => decide (y.seq ≠ seq)) ∧
        x.done.head? = some (seq, cword (s.slotHdr c.job).selfrank cstat 0) ∧ t.mid.comb = s.mid.comb ∧ t.mem = s.mem ∧ t.ctxs = s.ctxs ∧
        t.mid.contribs = s.mid.contribs ++ (if taken then [{ conn := conn, seq := seq, rank := c.rank, job := c.job, txn := h.txn }] else []) ∧
        (taken = true → t.due (conn * 2 ^ 24 + seq) .contributionApply)
    (¬ on → answers 6 false) ∧ (on → contribBad s c.job h.txn d = true → answers 5 false) ∧
    (on → contribBad s c.job h.txn d = false → tomb → answers 8 false) ∧ (on → contribBad s c.job h.txn d = false → ¬ tomb → answers 0 true)) ∧
  (∀ (s : State) (x : Contrib), s.mid.contribs.find? (fun c => decide (c.conn * 2 ^ 24 + c.seq = s.subj)) = some x →
    let d := Desc.of x.txn
    let key := combKey x.job d.rid d.level
    let gives (e : Comb) (post : State → Prop) : Prop :=
      ∃ t, exec .contributionApply s = .next t ∧ t.mid.comb.look key = some e ∧ (∀ k, k ≠ key → t.mid.comb.look k = s.mid.comb.look k) ∧
        t.mid.contribs = s.mid.contribs.filter (fun y => decide (y ≠ x)) ∧ t.mem = s.mem ∧ post t
    let fresh := Comb.open' s x.job d
    isStaged d.oper d.fmt d.repro = false →
      (s.mid.comb.look key = none → (s.mid.comb.filter (fun p => decide (p.2.rid % 16 = d.rid % 16))).length < 4096 →
        (fresh.apply d x.rank).arrived ≠ d.expect →
        gives (fresh.apply d x.rank) (fun t => (s.now + d.tout * 1750, key, .reductionTimeout) ∈ t.agenda)) ∧
      (∀ e, s.mid.comb.look key = some e → e.st = 1 → e.differs d = false → e.has d = false →
        ((e.apply d x.rank).arrived ≠ e.expect → gives (e.apply d x.rank) (fun _ => True)) ∧
        ((e.apply d x.rank).arrived = e.expect → (e.apply d x.rank).arrived ≠ 0 →
          let e1 := { e.apply d x.rank with parts := [] }
          gives { e1 with st := 2, status := if e1.full = e1.arrived then 0 else 7 } (fun t => t.due key .combineDone)))) ∧
  (∀ (a b : Nat), a < 2 ^ 32 → b < 2 ^ 32 →
    let sa := (BitVec.ofNat 32 a).toInt
    let sb := (BitVec.ofNat 32 b).toInt
    combine2 0 3 a b = (a + b) % 2 ^ 32 ∧ combine2 1 3 a b = (if sa < sb then b else a) ∧ combine2 2 3 a b = (if sb < sa then b else a) ∧
    combine2 3 3 a b = a &&& b ∧ combine2 4 3 a b = a ||| b ∧ combine2 5 3 a b = a ^^^ b ∧
    combine2 0 0 a b = fp32.encode 0 false false 0 ((fp32.decode a).add 0 (fp32.decode b)) ∧
    combine2 1 0 a b = fp32.encode 0 false false 0 (Val.minMax true (fp32.decode a) (fp32.decode b)))
  ) ∧
  (
  (∀ (s : State) (e : Comb) (tx : Txn), s.mid.comb.look s.subj = some e → s.waiters s.subj = [] →
    let key := s.subj
    let gives (i : Instr) (e : Comb) (post : State → Prop) : Prop :=
      ∃ t, exec i s = .next t ∧ t.mid.comb.look key = some e ∧ (∀ k, k ≠ key → t.mid.comb.look k = s.mid.comb.look k) ∧ t.mem = s.mem ∧ t.ctxs = s.ctxs ∧ post t
    let ripe := e.started + e.tout * 1750 ≤ s.now
    let told (e : Comb) : Comb := { e with st := 4, acks := e.who.eraseDups.length, staged := [] }
    let tells (i : Instr) (x : Comb) : Prop := e.who ≠ [] → gives i (told x) (fun t => t.mid.nextReq = s.mid.nextReq + e.who.eraseDups.length)
    let home := (s.slotHdr e.job).selfrank
    let lost := (s.mid.fabtime.toNat / 2 ^ 32 % 2 ^ 20 + e.tout) * 1750
    (e.st ≠ 1 ∨ ¬ ripe → exec .reductionTimeout s = .next s) ∧
    (e.st = 1 → ripe → e.arrived ≠ 0 → gives .reductionTimeout
      { e with parts := [], st := 2, status := if e.arrived = e.expect ∧ e.full = e.arrived then 0 else 7 } (fun t => t.due key .combineDone)) ∧
    (e.st = 1 → ripe → e.arrived = 0 → tells .reductionTimeout { e with parts := [], status := 8 }) ∧
    (e.st = 2 → e.staged = [] → e.arrived ≠ 0 →
      (e.level = 0 ∧ e.pv = true → gives .combineDone { e with st := 3, acks := 0, started := s.now }
        (fun t => t.mid.nextReq = s.mid.nextReq + e.forwards.length)) ∧
      (¬ (e.level = 0 ∧ e.pv = true) → e.destc = true →
        gives .combineDone { e with value := e.result } (fun t => t.due key .resultWriteDone)) ∧
      (∀ s1 w bs, ¬ (e.level = 0 ∧ e.pv = true) → e.destc = false →
        writeResult (s.setComb key { e with value := e.result }) key { e with value := e.result } = .done s1 w bs → s1.mid.comb.look key = some { e with value := e.result } →
        ∃ t, exec .combineDone s = .next t ∧ t.mid.comb.look key = some { e with value := e.result, fword := w } ∧ t.mem = s1.mem ∧ t.due key .resultWriteDone)) ∧
    (e.st = 2 → tells .resultWriteDone e) ∧ (e.st ≠ 2 → exec .resultWriteDone s = .next s) ∧
    (e.st = 4 → 2 ≤ e.acks → gives .noticeAcked { e with acks := e.acks - 1 } (fun _ => True)) ∧
    (e.st = 4 → e.acks ≤ 1 → ∃ t x, exec .noticeAcked s = .next t ∧ t.mid.comb.look key = some x ∧ x.st = 5 ∧ x.started = s.now ∧ x.rid = e.rid ∧
      t.due key .tombExpire) ∧
    (Tab.rising s.mid.comb → e.st = 5 → e.started + s.mid.scrumcfg.toNat / 2 ^ 24 % 2 ^ 20 * 1750 ≤ s.now →
      ∃ t, exec .tombExpire s = .next t ∧ t.mid.comb.look key = none ∧ ∀ k, k ≠ key → t.mid.comb.look k = s.mid.comb.look k) ∧
    (let left := e.started + s.mid.scrumcfg.toNat / 2 ^ 24 % 2 ^ 20 * 1750 - s.now
     e.st = 5 → left ≠ 0 → exec .tombExpire s = .next (s.push left key .tombExpire)) ∧
    (e.st = 3 → e.fword ≠ 0 → tells .forwardNoticeTimeout e) ∧
    (e.st = 3 → e.fword = 0 → e.forwards.length ≤ e.acks → e.started + lost ≤ s.now → tells .forwardNoticeTimeout { e with fword := cword home 2 0 }) ∧
    (e.st = 3 → e.fword = 0 → e.forwards.length ≤ e.acks → s.now < e.started + lost →
      exec .forwardNoticeTimeout s = .next (s.push (e.started + lost - s.now) key .forwardNoticeTimeout)) ∧
    (e.st = 3 → (tx.d2.toNat / 2 ^ 32 % 16 = 0 ∨ tx.d2.toNat / 2 ^ 32 % 16 = 7) → tells (.parentNotice key tx)
      { e with status := tx.d2.toNat / 2 ^ 32 % 16, fword := 0, incl1 := (dwordAt tx.data 1).toNat, full1 := (dwordAt tx.data 2).toNat, value := tx.data.drop 32 })) ∧
  (∀ (s : State) (conn key id : Nat) (n : Conn) (c : Ctx) (k : Cmd) (r : CRec) (tx : Txn), Tab.rising s.mid.crecs → s.mid.crecs.look key = some r →
    s.ctx r.ctx = some c → k ∈ c.xf.log → k.seq = r.entry → k.st ≠ .done → r.ctx = id → r.past = false →
    let ends (i : Instr) (post : Cmd → Prop) : Prop :=
      ∃ t x y, exec i s = .next t ∧ t.mid.crecs.look key = some { r with past := true } ∧ t.ctx id = some x ∧ y ∈ x.xf.log ∧ y.seq = k.seq ∧ post y ∧ x.regs = c.regs ∧ t.due id .commandStart ∧
        t.mem = s.mem
    (s.mid.conns.look conn = some n →
      s.mid.crecs.find? (fun (_, r) => decide (r.job = n.job ∧ r.rid = tx.d3.toNat / 2 ^ 44 ∧ r.cidx = tx.d3.toNat / 2 ^ 38 % 2 ^ 6) && !r.past) = some (key, r) →
      ends (.noticeReceive conn tx) (fun y => y.got = k.got ++ (if tx.data = [] then [] else [(r.row, tx.data)]) ∧
        (tx.d2.toNat / 2 ^ 32 % 16 = 0 → y.failed = k.failed) ∧ (tx.d2.toNat / 2 ^ 32 % 16 ≠ 0 → y.failed.length = k.failed.length + 1))) ∧
    (s.subj = key → ∀ a, r.accepted = some a → a + r.wait * 1750 ≤ s.now →
      ends .contributionTimeout (fun y => ∃ f, y.failed = k.failed ++ [f] ∧ f.cause = 0x0F ∧ f.detail.toNat / 2 ^ 32 % 16 = 2)))
  )

/-! ### The Gecko pair and the command ring (R410 to R425, R444, R445) -/

/-- R425, R444: a doorbell that would announce more than a ring of commands is ignored; any other sets TAIL, and the command at HEAD is judged: to be
performed its step is due, and otherwise it is answered at once. With a key: a tag that is wrong is BADTAG, a SEQ below E REPLAY, one above it
GAP, which halts the ring; both refusals are counted. KEYEX sets the ring key when its tag is right under it, and E to 0; RESYNC opens a halted
ring behind its SEQ; REKEY installs a key that unwraps, with E 0. -/
def Obligations.RingOrder : Prop :=
  (∀ (s : State) (k : RingCmd) (tail : BitVec 32), s.host.phase = 6 →
    let out := (tail.toNat + 2 ^ 32 - s.host.crhead) % 2 ^ 32
    let rung : State := { s with host := { s.host with crtail := tail.toNat } }
    (2 ^ s.host.crslot < out → exec (.crDoorbell tail) s = .next s) ∧
    (out ≤ 2 ^ s.host.crslot → tail.toNat = s.host.crhead → s.bad = none → exec (.crDoorbell tail) s = .next rung) ∧
    (out ≤ 2 ^ s.host.crslot → s.ringSafe → ringHead rung = some (rung, k) →
      (∀ i, ringJudge s.gecko k = .perform i → exec (.crDoorbell tail) s = .next (rung.pushOnce 0 0 i)) ∧
      (∀ st adv, ringJudge s.gecko k = .answer st adv → (s.host.crhead + 1) % 2 ^ 32 = tail.toNat →
        exec (.crDoorbell tail) s = .next (respond { rung with gecko := s.gecko.noted st adv } k st [])))) ∧
  (∀ (g : Gecko) (k : RingCmd) (key : List Byte), g.ringKey = some key → 64 + k.len + 48 ≤ 8192 →
    let right := ringTag key (k.hdr ++ k.payload) = k.tag
    (¬ right → ringJudge g k = .answer 1 false) ∧
    (right → k.op ≠ 1 → g.halted = false →
      (k.seq < g.e → ringJudge g k = .answer 2 false) ∧ (g.e < k.seq → ringJudge g k = .answer 3 false) ∧
      (k.seq = g.e → k.op = 3 → ringJudge g k = .perform .rekey)) ∧
    (right → k.op ≠ 1 → g.halted = true → k.op ≠ 2 → ringJudge g k = .answer 4 false) ∧
    (right → g.halted = true → k.op = 2 → g.e ≤ k.seq → k.seq < 2 ^ 48 - 1 → ringJudge g k = .perform .resync) ∧
    g.noted 1 false = { g with badtags := g.badtags + 1 } ∧ g.noted 2 false = { g with replays := g.replays + 1 } ∧
    g.noted 3 false = { g with halted := true }) ∧
  (∀ (s : State) (k : RingCmd) (key : List Byte),
    let kex := Config.hkdf (Config.kemDecaps s.gecko.kexSeed k.payload) (asciiBytes "evovia-ring")
    let answers (i : Instr) (s1 : State) (st : Nat) : Prop := exec i s = .next (respond s1 k st [])
    (s.ringRuns k .keyex → ringTag kex (k.hdr ++ k.payload) = k.tag →
      answers .keyex { s with gecko := { s.gecko with ringKey := some kex, e := 0, halted := false } } 0) ∧
    (s.ringRuns k .keyex → ringTag kex (k.hdr ++ k.payload) ≠ k.tag →
      answers .keyex { s with gecko := { s.gecko with badtags := s.gecko.badtags + 1 } } 1) ∧
    (s.ringRuns k .resync → answers .resync { s with gecko := { s.gecko with e := k.seq + 1, halted := false } } 0) ∧
    (s.ringRuns k .rekey → Config.keyUnwrap (s.gecko.ringKey.getD []) k.payload = some key →
      answers .rekey { s with gecko := { s.gecko with ringKey := some key, e := 0 } } 0))

/-- R412, R414, R415, R417, R421 to R423, R425: what the ring's commands about trust do. ATTEST answers with a report that changes nothing; SVNRAISE
burns the fuses up to a version; CREATEWORLD makes a world with a fresh XTS key, no code key and no range, or is refused ENTROPY; SETRANGE sets a
range that overlaps no other; SETFRAMES gives cores their next frame table; KEYIMPORT and JOBKEY install the key carried; DESTROYWORLD closes the
world's slots, and once no task of it is left its ranges are zeroed and the world and its keys are gone. -/
def Obligations.TrustCommands : Prop :=
  (∀ (s : State) (k : RingCmd) (x : World) (key : List Byte),
    let w := (k.w 2).toNat % 8
    let p3 := k.w 3
    let world (y : World) : State := { s with gecko := { s.gecko with worlds := s.gecko.worlds.set w y } }
    let live := s.gecko.worlds.look w = some x ∧ x.dying = false ∧ w ≠ 0
    let nonce := (k.hdr.drop 24).take 32
    let job := (k.w 2).toNat % 64
    let answers (i : Instr) (s1 : State) (st : Nat) (bs : List Byte) : Prop := exec i s = .next (respond s1.counted k st bs)
    (s.ringRuns k .attest → s.gecko.ringKey = none → answers .attest s 0 (report s.gecko 0xFF nonce)) ∧
    (s.ringRuns k .attest → s.gecko.ringKey ≠ none → live → (k.w 2).toNat % 256 = w → answers .attest s 0 (report s.gecko w nonce)) ∧
    (s.ringRuns k .svnraise →
      let v := p3.toNat % 128
      (w = 0 ∨ 5 < w ∨ 63 < v → answers .svnraise s 7 []) ∧
      (1 ≤ w → w ≤ 5 → v ≤ 63 → answers .svnraise
        { s with gecko := { s.gecko with svn := s.gecko.svn.set w (s.gecko.svn.val 0 w ||| BitVec.ofNat 64 (2 ^ v - 1)) } } 0 [])) ∧
    (s.ringRuns k .createworld → w ≠ 0 → s.gecko.worlds.look w = none →
      (s.gecko.rngOk = false → answers .createworld s 8 []) ∧
      (s.gecko.rngOk = true → ∃ t y, exec .createworld s = .next t ∧ t.gecko.worlds.look w = some y ∧ y.xts = s.gecko.keyNo + 1 ∧
        t.gecko.keyNo = s.gecko.keyNo + 1 ∧ y.dying = false ∧ y.code = none ∧ y.ranges = [] ∧ y.meas = (k.hdr.drop 16).take 48 ++ k.payload ∧
        (∀ v, v ≠ w → t.gecko.worlds.look v = s.gecko.worlds.look v) ∧ t.host.crhead = s.host.crtail)) ∧
    (s.ringRuns k .setrange → live →
      let n := (k.w 2).toNat / 16 % 16
      let meets := ∃ v y m a, (v, y) ∈ s.gecko.worlds ∧ (m, a) ∈ y.ranges ∧ (v ≠ w ∨ m ≠ n) ∧ overlaps (rangeSpan a.1) (rangeSpan p3) = true
      (p3.toNat / 4 % 2 ^ 14 = 0 → ¬ meets → answers .setrange (world { x with ranges := x.ranges.set n (p3, k.w 4, k.w 5) }) 0 []) ∧
      (p3.toNat / 4 % 2 ^ 14 ≠ 0 ∨ meets → answers .setrange s 7 [])) ∧
    (s.ringRuns k .setframes → frameBar s.gecko p3 = none → (k.w 4).toNat % 128 ≤ 106 →
      let c := (k.w 2).toNat % 512
      (c < 288 → answers .setframes (s.updCore c fun x => { x with newFrame := some (p3, (k.w 4).toNat % 128) }) 0 []) ∧
      (c = 511 → ∃ t, exec .setframes s = .next t ∧ ∀ j, j < 288 → t.core j = { s.core j with newFrame := some (p3, (k.w 4).toNat % 128) })) ∧
    (s.ringRuns k .keyimport → live →
      (carriedKey x k.payload = some key →
        answers .keyimport (world { x with code := some key, meas := x.meas ++ ((k.hdr.drop 16).take 48 ++ k.payload) }) 0 []) ∧
      (carriedKey x k.payload = none → answers .keyimport s 7 [])) ∧
    (s.ringRuns k .jobkey → (s.slotHdr job).world ≠ 0 → s.gecko.worlds.look (s.slotHdr job).world = some x → x.dying = false →
      (carriedKey x k.payload = some key →
        answers .jobkey { s with gecko := { s.gecko with jobKeys := s.gecko.jobKeys.set (job * 8 + (s.slotHdr job).world) key } } 0 []) ∧
      (carriedKey x k.payload = none → answers .jobkey s 7 [])) ∧
    (s.ringRuns k .destroyworld → s.gecko.worlds.look w = some x → w ≠ 0 → (∀ q ∈ s.ctxs, q.2.who.world ≠ w) →
      (x.dying = false → ∃ t, exec .destroyworld s = .next t ∧ t.gecko.worlds.look w = some { x with dying := true } ∧ t.due 0 .destroyworld ∧
        (∀ j h, t.mid.slots.look j = some h → h.world = w → h.en = false) ∧ t.mem = s.mem ∧ t.host.crhead = s.host.crhead) ∧
      (x.dying = true →
        let z := x.ranges.foldl (fun s p => zeroRange s p.2.1) s
        answers .destroyworld { z with gecko := { z.gecko with worlds := s.gecko.worlds.del w, jobKeys := s.gecko.jobKeys.filter (fun p => decide (p.1 % 8 ≠ w)) } } 0 []))) ∧
  (∀ (s : State) (a : DWord) (p : Nat),
    (zeroRange s a).byteAt p = if (rangeSpan a).1 ≤ p ∧ p < (rangeSpan a).1 + (rangeSpan a).2 then 0 else s.byteAt p)

/-- R194, R445: REGION's actions and PREEMPT and INVAL, by command: create makes a region of an RCB that is in order, its own pools full; refresh
stages one; destroy removes a region with no task and no open grid; a fault in the RCB, a missing entry and a busy region are refused by their
status. PREEMPT asks the task of a core out; INVAL begins an invalidation, whose response waits for its completion. -/
def Obligations.RegionCommands : Prop :=
  ∀ (s : State) (k : RingCmd),
    let r := (k.w 2).toNat % 4096
    let base := s.host.regtab.toNat / 2 ^ 15 % 2 ^ 25 * 2 ^ 15
    let entry := s.regionEntry r
    let addr := entry.toNat / 2 ^ 9 % 2 ^ 31 * 512
    let l := (readRcb s r).2.2
    let answers (i : Instr) (s1 : State) (st : Nat) : Prop := exec i s = .next (respond s1.counted k st [])
    (s.ringRuns k .regionCreate → addr + 512 ≤ 2 ^ 39 →
      (s.regionLive r = true ∨ entry.getLsbD 0 = false → answers .regionCreate s 7) ∧
      (s.regionLive r = false → entry.getLsbD 0 = true → rcbOk s r addr l = false → answers .regionCreate s 0x20) ∧
      (s.regionLive r = false → entry.getLsbD 0 = true → rcbOk s r addr l = true → ∃ t x, exec .regionCreate s = .next t ∧
        t.arb.regions.look r = some x ∧ x.addr = addr ∧ x.rcb = l.take 23 ∧ x.staged = none ∧ t.due 0 .arbiterChoice ∧ t.host.crhead = s.host.crtail ∧
        x.coreTok = (if (l.getD 1 0).getLsbD 8 then (((l.getD 9 0).toNat / 2 ^ 48 * 875 : Nat) : Int) else 0) ∧
        ∀ q, q ≠ r → t.arb.regions.look q = s.arb.regions.look q)) ∧
    (s.ringRuns k .regionRefresh → addr + 512 ≤ 2 ^ 39 →
      (s.regionLive r = false → answers .regionRefresh s 7) ∧
      (s.regionLive r = true → rcbOk s r addr l = false → answers .regionRefresh s 0x20) ∧
      (∀ x, s.arb.regions.look r = some x → rcbOk s r addr l = true → ∃ t, exec .regionRefresh s = .next t ∧
        t.arb.regions.look r = some { x with addr := addr, staged := some (l.take 23) } ∧ ∀ q, q ≠ r → t.arb.regions.look q = s.arb.regions.look q)) ∧
    (s.ringRuns k .regionDestroy → base + 8 * r + 8 ≤ 2 ^ 39 →
      let busy := (∃ q ∈ s.ctxs, q.2.who.region = r) ∨ ∃ g ∈ s.arb.grids, g.1 / 256 = r ∧ (g.2.st = 1 ∨ g.2.st = 2)
      (busy → answers .regionDestroy s 0x21) ∧
      (¬ busy → Tab.rising s.arb.regions → ∃ t, exec .regionDestroy s = .next t ∧ t.regionLive r = false ∧ (∀ g ∈ t.arb.grids, g.1 / 256 ≠ r) ∧
        ∀ q, q ≠ r → t.arb.regions.look q = s.arb.regions.look q)) ∧
    (s.ringRuns k .preempt →
      let c := (k.w 2).toNat % 512
      (288 ≤ c → answers .preempt s 7) ∧ (c < 288 → (s.core c).ctx = none → answers .preempt s 0) ∧
      (c < 288 → (s.core c).ctx ≠ none → answers .preempt (s.push 0 0 (.switchRequest c 2)) 0)) ∧
    (s.ringRuns k .inval → s.invals.any (·.ring) = false →
      let kind := (k.w 2).toNat % 8
      (6 ≤ kind → answers .inval s 0x22) ∧
      (kind < 6 → ∃ t v, exec .inval s = .next t ∧ t.invals = s.invals ++ [v] ∧ v.kind = kind ∧ v.ring = true ∧ t.due v.id .invalidationComplete ∧
        t.host = s.host ∧ t.mem = s.mem))

/-- R6, R410, R422, R446, R447: a failed health test makes the generator FAILED and calls a reseed, which ends FAILED when its tests pass. The two
cores disagreeing hold every die in reset until power is removed, which leaves the fuses, and nothing in HBM. At power-up a package whose images
pass is READY, the alias keys certified, with its periodic activities begun; one of whose images fails stops in FAILED with its kind and status. -/
def Obligations.TrustAndPower : Prop :=
  ∀ (s : State),
    (∃ t ok, exec .entropyFailure s = .next t ∧ t.gecko.rngOk = false ∧ t.due 0 (.entropyReseed ok)) ∧
    exec (.entropyReseed true) s = .next { s with gecko := { s.gecko with rngOk := true, rngReqs := 0 } } ∧
    (∃ t ok, exec (.entropyReseed false) s = .next t ∧ t.gecko.rngOk = false ∧ (s.now + 1750, 0, .entropyReseed ok) ∈ t.agenda) ∧
    (s.power = true → ∃ t, exec .geckoMismatch s = .next t ∧ t.gecko.stopped = true ∧ t.power = true ∧ t.host.phase = 0 ∧ t.agenda = [] ∧ t.ctxs = [] ∧ t.cores = [] ∧
      t.mem = s.mem ∧ exec .powerUp t = .next t) ∧
    (∃ t, exec .powerRemoved s = .next t ∧ t.power = false ∧ t.gecko.svn = s.gecko.svn ∧ t.gecko.revoked = s.gecko.revoked ∧ t.gecko.ringKey = none ∧ t.gecko.worlds = [] ∧
      t.ctxs = [] ∧ ∀ a, a < 2 ^ 64 → t.byteAt a = 0) ∧
    (s.power = false → s.host.phase = 0 →
      (∀ g, bootImages [1, 5, 3, 4, 2] s.gecko = .ok g → ∃ t, exec .powerUp s = .next t ∧ t.host.phase = 6 ∧ t.power = true ∧ t.gecko = g ∧ (∃ g0 : Gecko, g = g0.certify) ∧
        (∀ c, c < 288 → ((t.core c).fenced = false ↔ ∀ q, q < 256 → Config.katMatches (s.host.boots + 1) c q = true)) ∧
        (∀ d, d < 4 → ((t.die d).dieen = true ↔ d ∉ t.linksDown)) ∧ t.due 0 .budgetPeriod ∧ t.due 0 .frameCycleBoundary ∧ t.mem = s.mem) ∧
      (∀ kind st, bootImages [1, 5, 3, 4, 2] s.gecko = .error (kind, st) → ∃ t, exec .powerUp s = .next t ∧ t.host.phase = 7 ∧ t.host.failkind = kind ∧
        t.host.imgstat = st ∧ t.cores = s.cores ∧ t.mem = s.mem))

/-! ### The host interface (R440 to R443, R447) -/

/-- R441, R443, R449: a write of a management register before READY is ignored. From then on REGTAB changes only while no region table entry is
valid, PWRLIM takes the nearest value of 1,000 to 5,800, the rings' bases and slot count and a queue's base (while EN = 0) are stored, ERRCFG and
ERRPTR of a die are written field by field; a write to an offset without a register changes nothing; and no write touches memory, tasks or cores.
Each reads back as written.

R442: an indirect access. One that names a reserved class ends BAD-CLASS, one that names no object or a part beyond its object's last NO-OBJECT,
and a write to a class that cannot be written READ-ONLY; each changes nothing else. A read fills MDATA with its part, zeros beyond the end. A
write of the last part writes the whole entry: a slot header with EN only where its world is 0 or the slot has its link key; a part before the
last is staged and changes nothing. -/
def Obligations.ManagementInterface : Prop :=
  (
  ∀ (s : State) (off : Nat) (v : BitVec 64),
    let n := v.toNat
    let host (h : HostIf) : State := { s with host := h }
    (s.host.phase ≠ 6 → exec (.registerWrite off v) s = .next s) ∧
    (s.host.phase = 6 →
      (∃ t, exec (.registerWrite off v) s = .next t ∧ t.mem = s.mem ∧ t.ctxs = s.ctxs ∧ t.cores = s.cores ∧ t.arb = s.arb ∧ t.agenda = s.agenda ∧ t.gecko = s.gecko) ∧
      ((∃ r, r < 4096 ∧ (s.regionEntry r).getLsbD 0 = true) → exec (.registerWrite 0x10 v) s = .next s) ∧
      ((∀ r, r < 4096 → (s.regionEntry r).getLsbD 0 = false) →
        exec (.registerWrite 0x10 v) s = .next (host { s.host with regtab := BitVec.ofNat 64 (n / 2 ^ 15 % 2 ^ 25 * 2 ^ 15) })) ∧
      exec (.registerWrite 0x18 v) s
        = .next (host { s.host with pwrlim := if n % 2 ^ 16 < 1000 then 1000 else if 5800 < n % 2 ^ 16 then 5800 else n % 2 ^ 16 }) ∧
      exec (.registerWrite 0x40 v) s = .next (host { s.host with crbase := BitVec.ofNat 64 (n / 2 ^ 13 % 2 ^ 27 * 2 ^ 13) }) ∧
      exec (.registerWrite 0x48 v) s = .next (host { s.host with crslot := if n % 32 = 0 then 1 else if 10 < n % 32 then 10 else n % 32 }) ∧
      exec (.registerWrite 0x50 v) s = .next (host { s.host with crresp := BitVec.ofNat 64 (n / 2 ^ 13 % 2 ^ 27 * 2 ^ 13) }) ∧
      (∀ q, q < 16 → ∃ t, exec (.registerWrite (0x1000 + 32 * q) v) s = .next t ∧
        t.lq q = (if (s.lq q).en then s.lq q else { s.lq q with base := BitVec.ofNat 64 (n / 2 ^ 63 * 2 ^ 63 + n / 64 % 2 ^ 50 * 64) }) ∧
        ∀ p, p ≠ q → t.lq p = s.lq p) ∧
      (∀ d, d < 5 →
        (∃ t, exec (.registerWrite (0x20000 + 0x1000 * d) v) s = .next t ∧ t.die d = { s.die d with
          cethresh := n / 2 ^ 24 % 256, loglog := n / 2 ^ 16 % 16, cerate := n / 2 ^ 8 % 256, ceint := v.getLsbD 1, en := v.getLsbD 0 }) ∧
        (∃ t, exec (.registerWrite (0x20000 + 0x1000 * d + 0x10) v) s = .next t ∧ t.die d = { s.die d with logHead := n / 2 ^ 32 })) ∧
      (0x25000 ≤ off → exec (.registerWrite off v) s = .next s) ∧
      ∀ t, exec (.registerWrite 0x18 v) s = .next t → (t.mgmtRead 0x18).toNat = t.host.pwrlim ∧ 1000 ≤ t.host.pwrlim ∧ t.host.pwrlim ≤ 5800)
  ) ∧
  (
  ∀ (s : State) (v : BitVec 64), s.host.phase = 6 → s.host.mbusy = false →
    let k := keepStaged s v
    let cls := v.toNat / 2 ^ 56
    let index := v.toNat % 2 ^ 52
    let part := s.host.mpart
    let ends (n : Nat) : State := { k with host := { k.host with mstatus := n, mbusy := false } }
    let both (n : Nat) : Prop := exec (.midxRead v) s = .next (ends n) ∧ exec (.midxWrite v) s = .next (ends n)
    let object := midxObject k cls index s.mdata7
    (cls = 0 ∨ 0x0B < cls → both 3) ∧
    (cls = 1 → 288 * 64 ≤ index → both 1) ∧ (cls = 2 → 64 ≤ index → both 1) ∧ (cls = 6 → 1024 ≤ index → both 1) ∧
    (∀ bs, object = .ok bs → Nat.max 1 ((bs.length + 63) / 64) ≤ part → both 1) ∧
    (∀ bs, object = .ok bs → part < Nat.max 1 ((bs.length + 63) / 64) →
      (∃ t, exec (.midxRead v) s = .next t ∧ t.host.mstatus = 0 ∧ t.host.mbusy = false ∧ t.mem = s.mem ∧ t.mid = s.mid ∧ t.ctxs = s.ctxs ∧
        ∀ j, j < 8 → t.host.mdata.val 0 j = dwordAt (fitBytes 64 ((bs.drop (64 * part)).take 64)) j) ∧
      (cls ∈ [1, 4, 5, 7, 8, 0x0B] → exec (.midxWrite v) s = .next (ends 2)) ∧
      (part + 1 < Nat.max 1 ((bs.length + 63) / 64) → cls = 6 →
        ∃ t x, exec (.midxWrite v) s = .next t ∧ t.host.staged = some x ∧ x.1 = cls ∧ x.2.1 = index ∧ t.mid = s.mid ∧ t.mem = s.mem ∧ t.host.mstatus = 0)) ∧
    (cls = 1 → index < 288 * 64 → object = .ok (((s.core (index / 64)).spt.look (index % 64)).elim (List.replicate 16 0) sptBytes)) ∧
    (cls = 2 → index < 64 → part = 0 → s.host.staged = none → s.bad = none →
      let d := s.host.mdata.val 0 0
      let w := d.toNat / 2 % 8
      ∃ t, exec (.midxWrite v) s = .next t ∧ t.host.mstatus = 0 ∧ t.mem = s.mem ∧
        (∀ j, j ≠ index → t.mid.slots.look j = s.mid.slots.look j) ∧
        t.mid.slots.look index = some
          { jobid := d.toNat / 2 ^ 32, selfrank := d.toNat / 2 ^ 20 % 2 ^ 12, region := d.toNat / 16 % 2 ^ 16, world := w
            en := d.getLsbD 0 && (decide (w = 0) || (s.gecko.jobKeys.look (index * 8 + w)).isSome) })
  )

/-- R447: BOOTSTAT holds PHASE, IMGSTAT, FAILKIND, STACKOK and DIEOK at their places, with every other bit zero, in every phase; a boot that reaches
READY leaves in STACKOK the stacks with a pseudo-channel in service and in DIEOK the dies whose link has trained; one that fails leaves the
failing image's status and kind. They are 0 after reset. -/
def Obligations.BootStatus : Prop :=
  (∀ (s : State), s.host.phase < 16 → s.host.imgstat < 256 → s.host.failkind < 256 → s.host.stackok < 256 → s.host.dieok < 16 →
    let v := (s.mgmtRead 8).toNat
    v % 2 ^ 4 = s.host.phase ∧ v / 2 ^ 8 % 2 ^ 8 = s.host.imgstat ∧ v / 2 ^ 16 % 2 ^ 8 = s.host.failkind ∧ v / 2 ^ 24 % 2 ^ 8 = s.host.stackok ∧
      v / 2 ^ 32 % 2 ^ 4 = s.host.dieok ∧ v / 2 ^ 4 % 2 ^ 4 = 0 ∧ v / 2 ^ 36 = 0) ∧
  (∀ (s t : State), s.power = false → s.host.phase = 0 → exec .powerUp s = .next t → t.host.phase = 6 →
    (∀ k, k < 8 → (t.host.stackok.testBit k = true ↔ ∃ p, p < 512 ∧ p / 64 = k ∧ (t.pch p).pcfail = false)) ∧
    (∀ d, d < 4 → (t.host.dieok.testBit d = true ↔ d ∉ t.linksDown)) ∧ t.host.imgstat = s.host.imgstat) ∧
  (∀ (s : State) (kind st : Nat), s.power = false → s.host.phase = 0 → bootImages [1, 5, 3, 4, 2] s.gecko = .error (kind, st) →
    ∃ t, exec .powerUp s = .next t ∧ t.host.imgstat = st ∧ t.host.failkind = kind ∧ t.host.stackok = s.host.stackok ∧ t.host.dieok = s.host.dieok) ∧
  State.reset.host.imgstat = 0 ∧ State.reset.host.failkind = 0 ∧ State.reset.host.stackok = 0 ∧ State.reset.host.dieok = 0

/-! ### The issue of a bundle, and a step of the package (R231 to R244, R276 to R284) -/

/-- A step runs the decoded instruction. What Sched picks is all that happens: time passes, a step of the agenda that is due is `exec` of its
instruction, and a core's issue fetches and decodes the bundle at its task's pc and issues it. The bundle of one plain slot runs `exec` of that
slot's instruction on the task as it stands before the bundle, and then the pc moves to the next bundle, or to where the instruction transfers;
PHASE, FENCE, DONE and ERET, which stand youngest, run after the slots' steps. -/
def Obligations.StepRunsTheInstruction : Prop :=
  (∀ (s : State),
    (s.choices = [.idle] → step s = .next s.passTime) ∧
    (∀ n at_ u i, s.choices = [.due n] → s.agenda[n]? = some (at_, u, i) →
      step s = checked (exec i { s with agenda := s.agenda.eraseIdx n, subj := u })) ∧
    (∀ k, s.choices = [.issue k] → step s = checked (exec .bundleIssue { s with subj := k }))) ∧
  (∀ (s s1 : State) (id : Nat) (c c1 : Ctx) (ws rest : List Nat) (b : Bundle), s.mayIssue s.subj = true → (s.core s.subj).ctx = some id → s.ctx id = some c →
    c.trapWait = none → (c.regs.inTrap = true ∨ c.xf.fq = []) → fetchBundle { s with cur := s.subj } id c = (s1, .words ws) → s1.ctx id = some c1 →
    (decodeBundle ws = some (b, rest) → exec .bundleIssue s = .next (issueBundle s1 s.subj id c1 b)) ∧
    (decodeBundle ws = none →
      exec .bundleIssue s = .next ((takeTrap s1 id { cause := 0x01, addr := 0, detail := 0, slot := 0, straddle := false }).issued s.subj))) ∧
  (∀ (s s2 : State) (k id n : Nat) (c : Ctx) (b : Bundle) (i : Instr), b.ops = [(n, SlotOp.plain i)] → n ∈ [0, 1, 2, 6] → b.reps = 0 → c.regs.rptc = 0 →
    (∀ j, c.regs.st.last.val 0 j = 0) → c.ph.memq = [] → (Instr.fields i).isSome = true → s.ctx id = some c →
    let keep (s : State) : State := s.updCtx id fun x => x.updRegs fun r => { r with h := stepHandles (i.handleDests.map (·.toNat)) [] r.h, st := { r.st with rsteps := none } }
    let acts : List Act := [{ slot := n, op := SlotOp.plain i, word := lastWord (SlotOp.plain i), src := c, explicit := true }]
    let begun : State := { s with issue := { Issue.idle with on := true, len := b.bytes, src := some c, slot := n, word := lastWord (SlotOp.plain i) } }
    let runs (s0 s3 : State) : Prop := exec i s0 = .next s2 → s3.issue.stall = false → s3.issue.trap = none → s3.issue.sent = false →
      issueBundle s k id c b = ((finishIssue s3 id c b true acts).issued k).endStep id
    (Instr.standsLast i = false → runs begun (keep s2)) ∧
    (Instr.standsLast i = true → ∀ s0, s0 = { keep { s with issue := { Issue.idle with on := true, len := b.bytes, src := some c } } with
        issue := { Issue.idle with on := true, len := b.bytes, src := some c, slot := n, word := lastWord (SlotOp.plain i) } } → runs s0 s2))

/-- Every slot instruction runs in a bundle as it runs alone: what a bundle calls is `exec`.

R237, R245, R284: one issue of a bundle is all or nothing. While a register that it reads has a load or an atomic outstanding, and while a slot's
instruction stalls, the task and its memory stay as they are and the core may try again in the next cycle; when a slot traps, the trap is taken
at the bundle with nothing else of the bundle done. -/
def Obligations.BundlesRunSlots : Prop :=
  (
  ∀ (i : Instr) (s : State), (Instr.fields i).isSome = true → runSlot i s = exec i s
  ) ∧
  (
  ∀ (s s2 : State) (k id n : Nat) (c : Ctx) (b : Bundle) (i : Instr), b.ops = [(n, SlotOp.plain i)] → n ∈ [0, 1] → b.reps = 0 → c.regs.rptc = 0 →
    (∀ j, c.regs.st.last.val 0 j = 0) → (Instr.fields i).isSome = true → Instr.standsLast i = false → s.ctx id = some c →
    ((∃ r ∈ i.sources, r ≠ 0 ∧ ∃ m ∈ c.ph.memq, m.d = r) → issueBundle s k id c b = s.issued k) ∧
    (c.ph.memq = [] →
      exec i { s with issue := { Issue.idle with on := true, len := b.bytes, src := some c, slot := n, word := lastWord (SlotOp.plain i) } } = .next s2 →
      (s2.issue.stall = true → ∃ t, issueBundle s k id c b = t ∧ t.ctx id = s.ctx id ∧ t.mem = s.mem ∧ (t.core k).ready = s.now + 1) ∧
      (∀ u, s2.issue.stall = false → s2.issue.trap = some u → u.cause ≠ 0x10 → u.cause ≠ 0x11 → s.keepAsks s2 = s →
        issueBundle s k id c b = (takeTrap s id u).issued k))
  )

/-- No instruction is refused, and a step stops only where a table that the device reads or writes at an address of a register lies beyond the last
byte of HBM (R1, R20). -/
def Obligations.NothingIsRefused : Prop :=
  (∀ (i : Instr) (s : State), (∀ r, exec i s ≠ .refused r) ∧ ∀ f, exec i s = .fault f → f = .tableOutsideHbm) ∧
  (∀ (s : State), (∀ r, step s ≠ .refused r) ∧ ∀ f, step s = .fault f → f = .tableOutsideHbm)

/-- A step that goes on leaves no failed table access behind: the invariant holds after reset, and every step keeps it. -/
def Obligations.NoFailedAccessStays : Prop :=
  State.reset.bad = none ∧ ∀ (s t : State), s.bad = none → step s = .next t → t.bad = none

/-- R6, R441, R446: the package right after reset: unpowered, PHASE 0, only the Gecko pair's power-up is to come; no task, no core, no world, no key,
and memory holds nothing; a step then brings it up. PWRLIM 5,800 is the spec's (R449); zero in registers without a reset value is the model's
choice (notes/assumptions/4). -/
def Obligations.ResetState : Prop :=
  let s := State.reset
  s.power = false ∧ s.host.phase = 0 ∧ s.host.pwrlim = 5800 ∧ s.ctxs = [] ∧ s.cores = [] ∧ s.mem = [] ∧ s.gecko.worlds = [] ∧ s.gecko.ringKey = none ∧ s.tlbs = [] ∧
    s.arb.grids = [] ∧ Memory.wf s.mem = true ∧ s.choices = [.due 0] ∧ step s = exec .powerUp { s with agenda := [] } ∧
    ∀ (off : Nat), off ≠ 0 → off ≠ 8 → s.mgmtRead off = 0

/-! ### Encodings (R231 to R234, R276 to R281) -/

/-- Words written out in the spec from its encodings, each decoding to the instruction it stands for. -/
def Obligations.DecodeWords : Prop :=
  decodeSlot .alu 0x03104001 0 = some (.plain (.addi 4 4 1)) ∧
  decodeSlot .alu 0x82145180 0x24280000 = some { x := true, guard := { reg := 9, bit := 2, pol := true }, instr := .sub 5 5 6 false } ∧
  decodeSlot .alu 0x480163A4 0 = some (.plain (.amoadd 0 22 14 4 true)) ∧
  decodeSlot .ctl 0x08000407 0 = some (.plain (.loopi 4 7)) ∧
  decodeSlot .ctl 0x91C572C0 0xC0000000 = some { x := true, guard := { reg := 48, bit := 0, pol := false }, instr := .spawn 49 23 11 } ∧
  decodeSlot .mat 0x81008338 0x00002000 = some { x := true, guard := Guard.none, instr := .mma 0 2 3 3 true false 64 0 } ∧
  decodeSlot .vec 0x0D209028 0 = some (.plain (.vtbl 8 9 0 5)) ∧
  decodeSlot .xfr 0x82109500 0x00020003 = some { x := true, guard := Guard.none, instr := .cpym 4 9 20 0 1 3 } ∧
  decodeSlot .xfr 0x8F0051A0 0x00060002 = some { x := true, guard := Guard.none, instr := .disp 0 5 6 4 3 2 } ∧
  (∃ b, decodeBundle [0x81240011, 0x03514001, 0x01105018] = some (b, []) ∧ b.reps = 2 ∧ b.bytes = 12 ∧
    b.ops = [(0, .plain (.addi 20 20 1)), (7, .plain (.cpy 4 5 0 3 0 0))])

/-- R276 to R280: a code that the opcode tables leave unassigned decodes to nothing, with an extension word or without, in every space; so does a
bundle whose header version is not 0b01 or whose reserved bits [3:2] are set (R231, R234). -/
def Obligations.UnassignedCodes : Prop :=
  (∀ (w e : Nat),
    let code := w / 2 ^ 24 % 128
    (code ∈ [0x2F, 0x3E, 0x3F] ∨ 0x44 ≤ code ∧ code < 0x48 ∨ 0x52 ≤ code ∧ code < 0x58 ∨ 0x5C ≤ code → decodeSlot .alu w e = none) ∧
    (0x21 ≤ code → decodeSlot .ctl w e = none) ∧ (0x0C ≤ code → decodeSlot .mat w e = none) ∧ (0x1A ≤ code → decodeSlot .vec w e = none) ∧
    (0x09 ≤ code → decodeSlot .prm w e = none) ∧ (0x05 ≤ code → decodeSlot .scl w e = none) ∧ (0x13 ≤ code → decodeSlot .xfr w e = none)) ∧
  ∀ (h : Nat) (ws : List Nat), h % 16 ≠ 1 → decodeBundle (h :: ws) = none

/-- R276 to R281: for every slot instruction that meets the encoding rules, decoding its slot word, and its extension word where it has one, gives it
back, with every operand at every value the encoding admits. -/
def Obligations.DecodeEncodeSlots : Prop :=
  ∀ (op : SlotOp) (sp : Space) (ws : List Nat), op.wf = true → (op.x = true ∨ op.instr.fitsNoExt = true) → encode op = some (sp, ws) →
    ws.length = (if op.x then 2 else 1) ∧ (∀ w ∈ ws, w < 2 ^ 32) ∧ decodeSlot sp (ws.getD 0 0) (ws.getD 1 0) = some op

/-- R231, R232, R234: decoding the words of a legal bundle, whose slots stand in rising order and each hold an instruction of their own space that
meets the encoding rules, gives the bundle back, and leaves the words after it. -/
def Obligations.DecodeEncodeBundles : Prop :=
  ∀ (b : Bundle) (rest : List Nat), b.legal = true → b.ops.Pairwise (fun p q => p.1 < q.1) →
    (∀ p ∈ b.ops, p.1 < 8 ∧ p.2.wf = true ∧ (p.2.x = true ∨ p.2.instr.fitsNoExt = true) ∧ ∃ ws, encode p.2 = some (slotSpace p.1, ws)) →
    b.bytes = 4 + (b.ops.map (fun p => if p.2.x then 8 else 4)).sum →
    decodeBundle (b.words ++ rest) = some (b, rest)

/-- R15: an address of global scratchpad space names core A[31:23] and slice offset A[22:0]. A core of 288 or more fails ADDRESS-RANGE; any other
access is judged by that core's slice permission table alone: refused there it fails, and admitted there it is that slice. The state, translation
caches included, stays as it was. -/
def Obligations.ScratchpadAddresses : Prop :=
  ∀ (s : State) (w : Who) (env : Env) (acc : Acc) (a n : Nat), acc ≠ .exec → a / 2 ^ 32 = 0xFE0000 →
    let core := a % 2 ^ 32 / 2 ^ 23
    let off := a % 2 ^ 23
    (288 ≤ core → translate s w env acc a n = (s, .fail Tstat.addressRange 0 false)) ∧
    (core < 288 → s.sliceAllowed w core off acc = false → translate s w env acc a n = (s, .fail Tstat.slicePermission 0 false)) ∧
    (core < 288 → s.sliceAllowed w core off acc = true → s.halfOff core off acc ≠ none → translate s w env acc a n = (s, .ok (.slice core off)))

/-- R244: trap entry saves the last operations, the step registers and the loop state, and ERET brings them back; entry clears every last operation
and closes every loop. -/
def Obligations.HandlersStartClean : Prop :=
  (∀ (s : State) (id : Nat) (c : Ctx) (t : Trap), s.ctx id = some c → c.regs.inTrap = false → c.regs.tvec ≠ 0 →
    ∃ x, (trapEntry s id t).ctx id = some x ∧ x.regs.sv = c.regs.st ∧ x.regs.st.depth = 0 ∧ ∀ k, x.regs.st.last.val 0 k = 0) ∧
  (∀ (s : State) (id : Nat) (c : Ctx), s.Alone id c → c.regs.inTrap = true → c.regs.tpc.toNat % 4 = 0 →
    ∃ t x, exec .eret s = .next t ∧ t.ctx id = some x ∧ x.regs.st = c.regs.sv)
end

