-- ==== Sys2Proof/Laws/Memory.lean ====
section
/-! SUPPORT. Memory cells: what a write changes, and that every operation that writes memory keeps the canonical form. -/

namespace Sys2Proof.Machine

/-! ### One byte -/

theorem Memory.byte_set_self (m : List Host.Cell) (a : Nat) (b : Byte) : Memory.byte (Tab.set (α := Byte) m a b) a = b := by
  induction m with
  | nil => simp [Tab.set, Memory.byte]
  | cons p m ih =>
    obtain ⟨k, v⟩ := p
    unfold Tab.set
    split
    · simp [Memory.byte]
    · split
      · simp [Memory.byte]
      · simp [Memory.byte, *]

theorem Memory.byte_set_other (m : List Host.Cell) {a x : Nat} (b : Byte) (h : a ≠ x) :
    Memory.byte (Tab.set (α := Byte) m a b) x = Memory.byte m x := by
  induction m with
  | nil => simp [Tab.set, Memory.byte, h]
  | cons p m ih =>
    obtain ⟨k, v⟩ := p
    unfold Tab.set
    split
    · simp [Memory.byte, h]
    · split
      · rename_i hk; subst hk; simp [Memory.byte, h]
      · simp only [Memory.byte, ih]

/-! ### The canonical form -/

theorem Memory.wfFrom_mono {lo lo' : Nat} (h : lo' ≤ lo) (m : List Host.Cell) (hm : Memory.wfFrom lo m = true) : Memory.wfFrom lo' m = true := by
  cases m with
  | nil => rfl
  | cons p m =>
    obtain ⟨k, v⟩ := p
    simp only [Memory.wfFrom, Bool.and_eq_true, decide_eq_true_eq] at hm ⊢
    exact ⟨⟨by omega, hm.1.2⟩, hm.2⟩

theorem Memory.wfFrom_set {lo a : Nat} {b : Byte} (ha : lo ≤ a) (hb : b ≠ 0) (m : List Host.Cell) (hm : Memory.wfFrom lo m = true) :
    Memory.wfFrom lo (Tab.set (α := Byte) m a b) = true := by
  induction m generalizing lo with
  | nil =>
    simp only [Tab.set, Memory.wfFrom, Bool.and_true, Bool.and_eq_true, decide_eq_true_eq, bne_iff_ne, ne_eq]
    exact ⟨ha, hb⟩
  | cons p m ih =>
    obtain ⟨k, v⟩ := p
    simp only [Memory.wfFrom, Bool.and_eq_true, decide_eq_true_eq] at hm
    unfold Tab.set
    split
    · simp only [Memory.wfFrom, Bool.and_eq_true, decide_eq_true_eq, bne_iff_ne, ne_eq]
      exact ⟨⟨ha, hb⟩, ⟨by omega, by simpa using hm.1.2⟩, hm.2⟩
    · split
      · rename_i hk; subst hk
        simp only [Memory.wfFrom, Bool.and_eq_true, decide_eq_true_eq, bne_iff_ne, ne_eq]
        exact ⟨⟨ha, hb⟩, hm.2⟩
      · simp only [Memory.wfFrom, Bool.and_eq_true, decide_eq_true_eq]
        exact ⟨hm.1, ih (by omega) hm.2⟩

theorem Memory.wfFrom_del {lo : Nat} (a : Nat) (m : List Host.Cell) (hm : Memory.wfFrom lo m = true) : Memory.wfFrom lo (Tab.del (α := Byte) m a) = true := by
  induction m generalizing lo with
  | nil => rfl
  | cons p m ih =>
    obtain ⟨k, v⟩ := p
    simp only [Memory.wfFrom, Bool.and_eq_true, decide_eq_true_eq] at hm
    unfold Tab.del
    split
    · exact Memory.wfFrom_mono (by omega) m hm.2
    · simp only [Memory.wfFrom, Bool.and_eq_true, decide_eq_true_eq]
      exact ⟨hm.1, ih hm.2⟩

theorem Memory.wfFrom_filter {lo : Nat} (p : Host.Cell → Bool) (m : List Host.Cell) (hm : Memory.wfFrom lo m = true) :
    Memory.wfFrom lo (m.filter p) = true := by
  induction m generalizing lo with
  | nil => rfl
  | cons q m ih =>
    obtain ⟨k, v⟩ := q
    simp only [Memory.wfFrom, Bool.and_eq_true, decide_eq_true_eq] at hm
    rw [List.filter_cons]
    split
    · simp only [Memory.wfFrom, Bool.and_eq_true, decide_eq_true_eq]
      exact ⟨hm.1, ih hm.2⟩
    · exact Memory.wfFrom_mono (by omega) _ (ih hm.2)

/-- Taking cells away keeps the canonical form. -/
theorem Memory.wf_filter (p : Host.Cell → Bool) {m : List Host.Cell} (hm : Memory.wf m = true) : Memory.wf (m.filter p) = true :=
  Memory.wfFrom_filter p m hm

/-- Writing one byte keeps the canonical form. -/
theorem Memory.wf_put {m : List Host.Cell} (hm : Memory.wf m = true) (a : Nat) (b : Byte) : Memory.wf (Memory.put m a b) = true := by
  unfold Memory.put Tab.put
  split
  · exact Memory.wfFrom_del a m hm
  · exact Memory.wfFrom_set (Nat.zero_le a) ‹_› m hm

/-- Writing a run of bytes keeps the canonical form. -/
theorem Memory.wf_writeRun {m : List Host.Cell} (hm : Memory.wf m = true) (a : Nat) (bs : List Byte) : Memory.wf (Memory.putAll m a bs) = true := by
  induction bs generalizing m a with
  | nil => exact hm
  | cons b bs ih => exact ih (Memory.wf_put hm a b) (a + 1)

theorem Memory.wf_foldl_put {m : List Host.Cell} (hm : Memory.wf m = true) (f : Nat × Byte → Nat) (l : List (Nat × Byte)) :
    Memory.wf (l.foldl (fun m p => Memory.put m (f p) p.2) m) = true := by
  induction l generalizing m with
  | nil => exact hm
  | cons p l ih => exact ih (Memory.wf_put hm _ _)

/-! ### The operations of the machine that write memory -/

theorem State.wf_putBytes {s : State} (h : Memory.wf s.mem = true) (a : Nat) (bs : List Byte) : Memory.wf (s.putBytes a bs).mem = true :=
  Memory.wf_writeRun h a bs

/-- Storing bytes of a line under the key in force keeps the canonical form. -/
theorem State.wf_putLine {s : State} (h : Memory.wf s.mem = true) (line : Nat) (upd : List (Nat × Byte)) :
    Memory.wf (s.putLine line upd).mem = true := by
  refine Memory.wf_foldl_put ?_ (fun p => line * 64 + p.1) upd
  split
  · exact h
  · exact Memory.wf_writeRun h _ _

/-- What charging an access to a region can change: the token pools of the regions. -/
theorem State.served_frame (s : State) (w : Who) (n : Nat) : ∃ r, s.served w n = { s with arb := { s.arb with regions := r } } := by
  unfold State.served State.chargeHbm State.charge
  split
  · split
    · exact ⟨s.arb.regions, rfl⟩
    · exact ⟨_, rfl⟩
  · exact ⟨s.arb.regions, rfl⟩

@[simp] theorem State.served_mem (s : State) (w : Who) (n : Nat) : (s.served w n).mem = s.mem := by
  obtain ⟨r, h⟩ := s.served_frame w n
  rw [h]

/-- A device write keeps the canonical form. -/
theorem State.wf_devWrite {s : State} (h : Memory.wf s.mem = true) (w : Who) (pa : Nat) (bs : List Byte) :
    Memory.wf (s.devWrite w pa bs).mem = true := by
  unfold State.devWrite
  split
  · replace h : Memory.wf (s.served w (linesOf pa bs.length)).mem = true := by simpa using h
    generalize s.served w (linesOf pa bs.length) = s at h ⊢
    generalize lineRuns (bs.length / 64 + 2) pa bs = l
    induction l generalizing s with
    | nil => exact h
    | cons p l ih =>
      refine ih _ ?_
      dsimp only
      split
      · exact State.wf_putLine h p.1 p.2
      · exact h
  · exact h

/-- Zeroing a range of a world keeps the canonical form. -/
theorem wf_zeroRange {s : State} (h : Memory.wf s.mem = true) (a : DWord) : Memory.wf (zeroRange s a).mem = true :=
  Memory.wf_filter _ h

/-- The memory of a package right after reset is canonical. -/
theorem reset_wf : Memory.wf State.reset.mem = true := rfl

end Sys2Proof.Machine
end

