-- ==== Sys2Proof/Laws/State.lean ====
section
/-! SUPPORT. The small lemmas of tables, registers, contexts and memory, and the spec lemma of each shared way a slot instruction ends. -/

namespace Sys2Proof.Machine

/-! ### Tables -/

@[simp] theorem Tab.look_set_self {α : Type} (t : Tab α) (n : Nat) (a : α) : Tab.look (Tab.set t n a) n = some a := by
  induction t with
  | nil => simp [Tab.set, Tab.look]
  | cons p t ih =>
    obtain ⟨k, v⟩ := p
    unfold Tab.set
    split
    · simp [Tab.look]
    · split
      · simp [Tab.look]
      · simp [Tab.look, *]

theorem Tab.look_set_other {α : Type} (t : Tab α) {n m : Nat} (a : α) (h : n ≠ m) : Tab.look (Tab.set t n a) m = Tab.look t m := by
  induction t with
  | nil => simp [Tab.set, Tab.look, h]
  | cons p t ih =>
    obtain ⟨k, v⟩ := p
    unfold Tab.set
    split
    · simp [Tab.look, h]
    · split
      · rename_i hk; subst hk; simp [Tab.look, h]
      · simp only [Tab.look, ih]

@[simp] theorem Tab.set_set {α : Type} (t : Tab α) (n : Nat) (a b : α) : Tab.set (Tab.set t n a) n b = Tab.set t n b := by
  induction t with
  | nil => simp [Tab.set]
  | cons p t ih =>
    obtain ⟨k, v⟩ := p
    by_cases h1 : n < k
    · simp [Tab.set, h1]
    · by_cases h2 : k = n
      · simp [Tab.set, h2]
      · simp [Tab.set, h1, h2, ih]

/-! ### Contexts -/

@[simp] theorem State.ctx_setCtx (s : State) (id : Nat) (c : Ctx) : (s.setCtx id c).ctx id = some c := Tab.look_set_self _ _ _

theorem State.ctx_setCtx_other (s : State) {id k : Nat} (c : Ctx) (h : id ≠ k) : (s.setCtx id c).ctx k = s.ctx k :=
  Tab.look_set_other _ _ h

@[simp] theorem State.setCtx_setCtx (s : State) (id : Nat) (c d : Ctx) : (s.setCtx id c).setCtx id d = s.setCtx id d := by
  simp [State.setCtx]

@[simp] theorem State.setCtx_issue (s : State) (id : Nat) (c : Ctx) : (s.setCtx id c).issue = s.issue := rfl
@[simp] theorem State.setCtx_mem (s : State) (id : Nat) (c : Ctx) : (s.setCtx id c).mem = s.mem := rfl
@[simp] theorem State.setCtx_cores (s : State) (id : Nat) (c : Ctx) : (s.setCtx id c).cores = s.cores := rfl
@[simp] theorem State.setCtx_bad (s : State) (id : Nat) (c : Ctx) : (s.setCtx id c).bad = s.bad := rfl
@[simp] theorem State.setCtx_now (s : State) (id : Nat) (c : Ctx) : (s.setCtx id c).now = s.now := rfl

theorem State.updCtx_eq {s : State} {id : Nat} {c : Ctx} (h : s.ctx id = some c) (f : Ctx → Ctx) : s.updCtx id f = s.setCtx id (f c) := by
  simp [State.updCtx, h]

@[simp] theorem State.updCtx_setCtx (s : State) (id : Nat) (c : Ctx) (f : Ctx → Ctx) : (s.setCtx id c).updCtx id f = s.setCtx id (f c) := by
  simp [State.updCtx]

/-! ### How a slot instruction ends -/

/-- What `Acting` gives to a slot instruction's frame. -/
theorem slotStep_eq {s : State} {id : Nat} {c : Ctx} (h : s.Acting id c) (f : Nat → Ctx → State) :
    slotStep s f = .next (settle s (f id c) id) := by
  obtain ⟨h1, h2, -⟩ := h
  simp [slotStep, h1, h2]

/-- A slot that only changes its task's context, without trap, stall or transfer, ends in that context with the pc moved on. -/
theorem settle_setCtx {s : State} {id : Nat} {c : Ctx} (h : s.Acting id c) (x : Ctx) :
    settle s (s.setCtx id x) id
      = s.setCtx id { x with regs := if s.issue.on then x.regs else { x.regs with pc := x.regs.pc + s.issue.len } } := by
  obtain ⟨-, -, h3, h4, h5, h6⟩ := h
  unfold settle
  by_cases hon : s.issue.on = true
  · simp [hon]
  · simp only [hon, State.setCtx_issue, h3, h4, h5, h6, if_false, Bool.false_eq_true]
    exact State.updCtx_setCtx s id x _

theorem slotStep_setCtx {s : State} {id : Nat} {c : Ctx} (h : s.Acting id c) {f : Nat → Ctx → State} {x : Ctx}
    (hf : f id c = s.setCtx id x) :
    slotStep s f = .next (s.setCtx id { x with regs := if s.issue.on then x.regs else { x.regs with pc := x.regs.pc + s.issue.len } }) := by
  rw [slotStep_eq h, hf, settle_setCtx h]

/-- A slot that writes registers of its task. -/
theorem slotStep_regs {s : State} {id : Nat} {c : Ctx} (h : s.Acting id c) {f : Nat → Ctx → State} {r : Regs}
    (hf : f id c = s.setCtx id { c with regs := r }) : slotStep s f = .next (s.ends id c r) :=
  slotStep_setCtx h hf

theorem State.wrS_eq {s : State} {id : Nat} {c : Ctx} (h : s.ctx id = some c) (d : BitVec 6) (v : DWord) :
    s.wrS id d v = s.setCtx id { c with regs := c.regs.setS d v } := State.updCtx_eq h _

theorem State.wrH_eq {s : State} {id : Nat} {c : Ctx} (h : s.ctx id = some c) (d : BitVec 5) (v : Handle) :
    s.wrH id d v = s.setCtx id { c with regs := c.regs.setH d v } := State.updCtx_eq h _

/-- The spec lemma of the integer instructions: they write one register. -/
theorem aluOp_eq {s : State} {id : Nat} {c : Ctx} (h : s.Acting id c) (d : BitVec 6) (f : Regs → DWord) :
    aluOp s d f = .next (s.result id c d (f (s.srcRegs c))) :=
  slotStep_regs h (State.wrS_eq h.2.1 d _)

/-- A slot that asks for a transfer. -/
theorem slotStep_goto {s : State} {id : Nat} {c : Ctx} (h : s.Acting id c) {f : Nat → Ctx → State} {r : Regs} {a : Nat}
    (hf : f id c = { s.setCtx id { c with regs := r } with issue := { s.issue with goto := some a, noEdge := true } }) :
    slotStep s f = .next (s.goes id c r a) := by
  rw [slotStep_eq h, hf]
  obtain ⟨-, -, h3, -, h5, h6⟩ := h
  unfold settle State.goes
  by_cases hon : s.issue.on = true
  · simp [hon]
  · simp only [hon, h3, h5, h6, if_false, Bool.false_eq_true]
    congr 1
    exact State.updCtx_setCtx s id _ _

/-- A slot that asks for a transfer and writes nothing. -/
theorem slotStep_jump {s : State} {id : Nat} {c : Ctx} (h : s.Acting id c) {f : Nat → Ctx → State} {a : Nat}
    (hf : f id c = { s with issue := { s.issue with goto := some a, noEdge := true } }) : slotStep s f = .next (s.jumps id c a) := by
  rw [slotStep_eq h, hf]
  obtain ⟨-, h2, h3, -, h5, h6⟩ := h
  unfold settle State.jumps
  by_cases hon : s.issue.on = true
  · simp [hon]
  · simp only [hon, h3, h5, h6, if_false, Bool.false_eq_true]
    congr 1
    exact State.updCtx_eq h2 _

/-- A slot that does nothing. -/
theorem slotStep_pass {s : State} {id : Nat} {c : Ctx} (h : s.Acting id c) {f : Nat → Ctx → State} (hf : f id c = s) :
    slotStep s f = .next (s.passes id c) := by
  rw [slotStep_eq h, hf]
  obtain ⟨-, h2, h3, h4, h5, h6⟩ := h
  unfold settle State.passes
  by_cases hon : s.issue.on = true
  · simp [hon]
  · simp only [hon, h3, h4, h5, h6, if_false, Bool.false_eq_true]
    congr 1
    exact State.updCtx_eq h2 _

/-- A slot that traps, in a bundle of its own: the trap is taken and nothing else happens (R284). -/
theorem slotStep_trap {s : State} {id : Nat} {c : Ctx} (h : s.Alone id c) {f : Nat → Ctx → State} {t : Trap}
    (hf : (f id c).issue.trap = some t) (ht : t.cause ≠ Cause.trap ∧ t.cause ≠ Cause.sys) : slotStep s f = .next (takeTrap s id t) := by
  rw [slotStep_eq h.1]
  simp [settle, h.2.1, hf, ht.1, ht.2]

theorem State.raiseAt_trap {s : State} (h : s.issue.trap = none) (cause addr : Nat) (d : DWord) :
    (s.raiseAt cause addr d).issue.trap
      = some { cause := cause, addr := addr, detail := d, slot := s.issue.slot, straddle := false } := by
  simp [State.raiseAt, h]

theorem State.raise_trap {s : State} (h : s.issue.trap = none) (cause : Nat) (d : DWord) :
    (s.raise cause d).issue.trap = some { cause := cause, addr := 0, detail := d, slot := s.issue.slot, straddle := false } :=
  State.raiseAt_trap h cause 0 d

theorem State.goTo_aligned {a : Nat} (h : a % 4 = 0) (s : State) :
    s.goTo a = { s with issue := { s.issue with goto := some a, noEdge := true } } := by
  simp [State.goTo, h]

theorem List.filter_notMem_self {α : Type} [BEq α] [LawfulBEq α] (p : α → Bool) (l : List α) :
    l.filter (fun e => p e && !l.contains e) = [] := by
  rw [List.filter_eq_nil_iff]
  intro e he
  simp [he]

/-- A state keeps nothing of itself but itself. -/
theorem State.keepAsks_issue (s : State) (i : Issue) : s.keepAsks { s with issue := i } = s := by
  have h := List.filter_notMem_self (fun e : Nat × Nat × Instr => Instr.asks e.2.2) s.agenda
  unfold State.keepAsks
  dsimp only
  rw [h, List.append_nil]
  rfl

/-- A slot that stalls in a bundle of its own, and that has asked for nothing, leaves the state as it was (R237). -/
theorem slotStep_stall {s : State} {id : Nat} {c : Ctx} (h : s.Alone id c) {f : Nat → Ctx → State} (hf : f id c = s.stall)
    (hw : s.issue.wakes = []) : slotStep s f = .next s := by
  rw [slotStep_eq h.1, hf]
  obtain ⟨⟨-, -, h3, -, -, h6⟩, hon, -⟩ := h
  simp only [settle, hon, State.stall, h3, h6, hw, wakeBanks, Bool.false_eq_true, if_false, if_true, List.foldl_nil]
  rw [State.keepAsks_issue]

end Sys2Proof.Machine
end

