-- ==== Sys2Proof/Laws/Ops.lean ====
section
/-! SUPPORT. The fields that the shared updates of a state leave alone, and the spec lemmas of traps, stalls, device steps and ring operations. -/

namespace Sys2Proof.Machine

/-! ### Fields that an update leaves alone -/

@[simp] theorem State.push_mem (s : State) (n u : Nat) (e : Instr) : (s.push n u e).mem = s.mem := rfl
@[simp] theorem State.push_ctxs (s : State) (n u : Nat) (e : Instr) : (s.push n u e).ctxs = s.ctxs := rfl
@[simp] theorem State.push_ctx (s : State) (n u : Nat) (e : Instr) (id : Nat) : (s.push n u e).ctx id = s.ctx id := rfl
@[simp] theorem State.push_cores (s : State) (n u : Nat) (e : Instr) : (s.push n u e).cores = s.cores := rfl
@[simp] theorem State.push_bad (s : State) (n u : Nat) (e : Instr) : (s.push n u e).bad = s.bad := rfl
@[simp] theorem State.push_issue (s : State) (n u : Nat) (e : Instr) : (s.push n u e).issue = s.issue := rfl
@[simp] theorem State.push_host (s : State) (n u : Nat) (e : Instr) : (s.push n u e).host = s.host := rfl
@[simp] theorem State.push_gecko (s : State) (n u : Nat) (e : Instr) : (s.push n u e).gecko = s.gecko := rfl
@[simp] theorem State.push_mid (s : State) (n u : Nat) (e : Instr) : (s.push n u e).mid = s.mid := rfl
@[simp] theorem State.push_arb (s : State) (n u : Nat) (e : Instr) : (s.push n u e).arb = s.arb := rfl
@[simp] theorem State.push_dies (s : State) (n u : Nat) (e : Instr) : (s.push n u e).dies = s.dies := rfl
@[simp] theorem State.push_now (s : State) (n u : Nat) (e : Instr) : (s.push n u e).now = s.now := rfl

@[simp] theorem State.setCtx_host (s : State) (id : Nat) (c : Ctx) : (s.setCtx id c).host = s.host := rfl
@[simp] theorem State.setCtx_gecko (s : State) (id : Nat) (c : Ctx) : (s.setCtx id c).gecko = s.gecko := rfl
@[simp] theorem State.setCtx_mid (s : State) (id : Nat) (c : Ctx) : (s.setCtx id c).mid = s.mid := rfl
@[simp] theorem State.setCtx_arb (s : State) (id : Nat) (c : Ctx) : (s.setCtx id c).arb = s.arb := rfl
@[simp] theorem State.setCtx_dies (s : State) (id : Nat) (c : Ctx) : (s.setCtx id c).dies = s.dies := rfl
@[simp] theorem State.setCtx_agenda (s : State) (id : Nat) (c : Ctx) : (s.setCtx id c).agenda = s.agenda := rfl
@[simp] theorem State.setCtx_tlbs (s : State) (id : Nat) (c : Ctx) : (s.setCtx id c).tlbs = s.tlbs := rfl

@[simp] theorem State.updCore_mem (s : State) (k : Nat) (f : Core → Core) : (s.updCore k f).mem = s.mem := rfl
@[simp] theorem State.updCore_ctxs (s : State) (k : Nat) (f : Core → Core) : (s.updCore k f).ctxs = s.ctxs := rfl
@[simp] theorem State.updCore_ctx (s : State) (k : Nat) (f : Core → Core) (id : Nat) : (s.updCore k f).ctx id = s.ctx id := rfl
@[simp] theorem State.updCore_agenda (s : State) (k : Nat) (f : Core → Core) : (s.updCore k f).agenda = s.agenda := rfl
@[simp] theorem State.updCore_issue (s : State) (k : Nat) (f : Core → Core) : (s.updCore k f).issue = s.issue := rfl
@[simp] theorem State.updCore_bad (s : State) (k : Nat) (f : Core → Core) : (s.updCore k f).bad = s.bad := rfl
@[simp] theorem State.updCore_host (s : State) (k : Nat) (f : Core → Core) : (s.updCore k f).host = s.host := rfl

@[simp] theorem State.core_updCore (s : State) (k : Nat) (f : Core → Core) : (s.updCore k f).core k = f (s.core k) := by
  simp [State.updCore, State.core, Tab.val]

theorem State.core_updCore_other (s : State) {k j : Nat} (f : Core → Core) (h : k ≠ j) : (s.updCore k f).core j = s.core j := by
  simp [State.updCore, State.core, Tab.val, Tab.look_set_other _ _ h]

@[simp] theorem State.msix_mem (s : State) (v : Nat) : (s.msix v).mem = s.mem := by unfold State.msix; split <;> rfl
@[simp] theorem State.msix_bad (s : State) (v : Nat) : (s.msix v).bad = s.bad := by unfold State.msix; split <;> rfl
@[simp] theorem State.msix_ctxs (s : State) (v : Nat) : (s.msix v).ctxs = s.ctxs := by unfold State.msix; split <;> rfl
@[simp] theorem State.msix_gecko (s : State) (v : Nat) : (s.msix v).gecko = s.gecko := by unfold State.msix; split <;> rfl
@[simp] theorem State.msix_mid (s : State) (v : Nat) : (s.msix v).mid = s.mid := by unfold State.msix; split <;> rfl
@[simp] theorem State.msix_arb (s : State) (v : Nat) : (s.msix v).arb = s.arb := by unfold State.msix; split <;> rfl
@[simp] theorem State.msix_agenda (s : State) (v : Nat) : (s.msix v).agenda = s.agenda := by unfold State.msix; split <;> rfl
@[simp] theorem State.msix_crhead (s : State) (v : Nat) : (s.msix v).host.crhead = s.host.crhead := by unfold State.msix; split <;> rfl
@[simp] theorem State.msix_crtail (s : State) (v : Nat) : (s.msix v).host.crtail = s.host.crtail := by unfold State.msix; split <;> rfl

/-- What a device write inside HBM leaves alone: every field but memory, the keys of its lines and the tokens of the regions it is charged to. -/
theorem State.devWrite_frame {s : State} {w : Who} {pa : Nat} {bs : List Byte} (h : pa + bs.length ≤ 2 ^ 39) :
    ∃ m k r, s.devWrite w pa bs = { s with mem := m, keyed := k, arb := { s.arb with regions := r } } := by
  unfold State.devWrite
  rw [if_pos h]
  obtain ⟨r, hr⟩ := s.served_frame w (linesOf pa bs.length)
  rw [hr]
  generalize lineRuns (bs.length / 64 + 2) pa bs = l
  suffices ∀ t : State, ∃ m k, l.foldl (fun s p => if s.devMay w.world (p.1 * 64) 64 then s.putLine p.1 p.2 else s) t = { t with mem := m, keyed := k } by
    obtain ⟨m, k, hm⟩ := this { s with arb := { s.arb with regions := r } }
    exact ⟨m, k, r, hm⟩
  intro t
  induction l generalizing t with
  | nil => exact ⟨t.mem, t.keyed, rfl⟩
  | cons p l ih =>
    rw [List.foldl_cons]
    split
    · obtain ⟨m, k, hm⟩ := ih (t.putLine p.1 p.2)
      exact ⟨m, k, hm⟩
    · exact ih t

/-! ### Traps and stalls of a slot -/

/-- A slot that raises a precise trap other than TRAP and SYS (R284). -/
theorem slotStep_raise {s : State} {id : Nat} {c : Ctx} (h : s.Acting id c) {f : Nat → Ctx → State} {cause : Nat} {d : DWord}
    (hf : f id c = s.raise cause d) (hc : cause ≠ Cause.trap ∧ cause ≠ Cause.sys) : slotStep s f = .next (s.traps id cause 0 d) := by
  rw [slotStep_eq h, hf]
  obtain ⟨-, -, h3, -⟩ := h
  by_cases hon : s.issue.on = true
  · simp [settle, hon, State.traps, State.raise, State.raiseAt, h3]
  · simp [settle, hon, State.traps, State.raise, State.raiseAt, h3, hc.1, hc.2]

/-- A slot that stalls and has asked for nothing (R237). -/
theorem slotStep_stalls {s : State} {id : Nat} {c : Ctx} (h : s.Acting id c) (hw : s.issue.wakes = []) {f : Nat → Ctx → State}
    (hf : f id c = s.stall) : slotStep s f = .next s.stalls := by
  by_cases hon : s.issue.on = true
  · rw [slotStep_eq h, hf]
    simp [settle, hon, State.stalls, State.stall]
  · rw [slotStep_eq h, hf]
    obtain ⟨-, -, h3, -, -, h6⟩ := h
    have hon : s.issue.on = false := by simpa using hon
    simp only [settle, State.stalls, hon, State.stall, h3, h6, hw, wakeBanks, Bool.false_eq_true, if_false, if_true, List.foldl_nil]
    rw [State.keepAsks_issue]

/-! ### Device steps and ring operations -/

theorem fin_ok {s : State} (h : s.bad = none) : fin s = .next s := by simp [fin, h]

/-- A device step never refuses, and its only fault is that of a table outside HBM. -/
theorem fin_cases (s : State) : fin s = .next s ∧ s.bad = none ∨ fin s = .fault .tableOutsideHbm := by
  unfold fin
  split
  · rename_i f _; cases f; exact .inr rfl
  · exact .inl ⟨rfl, ‹_›⟩

/-- Once HEAD has reached TAIL the ring is at rest. -/
theorem ringNext_rest {n : Nat} {s : State} (h : s.host.crhead = s.host.crtail) : ringNext n s = s := by
  cases n <;> simp [ringNext, ringHead, h]

/-- An operation that the ring runs does what it is given. -/
theorem ringOp_eq {s : State} {k : RingCmd} {i : Instr} (h : s.ringRuns k i) (f : State → RingCmd → State × Option (Nat × List Byte)) :
    ringOp s i f = match f s k with
      | (t, none) => fin t
      | (t, some (st, bs)) => fin (ringNext 1024 (respond t k st bs)) := by
  obtain ⟨h1, -, -, -, h5, h6⟩ := h
  unfold ringOp
  simp only [State.hostReady, h1, h5, h6, decide_true, Bool.true_eq_false, if_false, ne_eq, not_true_eq_false] <;> rfl

end Sys2Proof.Machine
end

