-- ==== Sys2Proof/Laws/PerInstr.lean ====
section
/-! SUPPORT. The family Enc: for each constructor of Instr, the parser of its slot space reads its encoding back, whatever the bits
around its fields are (R276 to R281). The lemma of a step that is no slot instruction says that it has no encoding. -/

namespace Sys2Proof

theorem bf_eq {n W lo : Nat} {v : BitVec n} (h : W / 2 ^ lo % 2 ^ n = v.toNat) : bf n W lo = v := by
  apply BitVec.eq_of_toNat_eq; simp [bf, h]

theorem bb_eq {W lo : Nat} {b : Bool} (h : W / 2 ^ lo % 2 = b.toNat) : bb W lo = b := by
  cases b <;> simp_all [bb]

theorem zfe_eq {W lo n v : Nat} (h : W / 2 ^ lo % 2 ^ n = v) : zfe W lo n v = true := by simp [zfe, h]

theorem and_true2 {a b : Bool} (ha : a = true) (hb : b = true) : (a && b) = true := by rw [ha, hb]; rfl

/-- A signed immediate split between slot word and extension word reads back, and so does one alone in the slot word that fits. -/
theorem sxf_eq {n W lo E : Nat} {x : Bool} {v : BitVec (n + 19)} (h : W / 2 ^ lo % 2 ^ n = v.toNat % 2 ^ n)
    (he : E % 524288 = if x then v.toNat / 2 ^ n else 0) (hx : x = true ∨ v = sxf n (n + 19) false v.toNat 0 0) :
    sxf n (n + 19) x W lo E = v := by
  cases x with
  | true =>
    rw [if_pos rfl] at he
    rw [sxf, if_pos rfl, BitVec.signExtend_eq, h, he, Nat.mul_comm, Nat.mod_add_div]
    simp
  | false =>
    obtain hx | hx := hx
    · cases hx
    · refine Eq.trans ?_ hx.symm
      simp only [sxf, Bool.false_eq_true, if_false, Nat.pow_zero, Nat.div_one]
      congr 1
      exact BitVec.eq_of_toNat_eq (by simp [h])

/-- The same for an unsigned immediate. -/
theorem uxf_eq {n W lo E : Nat} {x : Bool} {v : BitVec (n + 19)} (h : W / 2 ^ lo % 2 ^ n = v.toNat % 2 ^ n)
    (he : E % 524288 = if x then v.toNat / 2 ^ n else 0) (hx : x = true ∨ v = uxf n (n + 19) false v.toNat 0 0) :
    uxf n (n + 19) x W lo E = v := by
  cases x with
  | true =>
    rw [if_pos rfl] at he
    rw [uxf, if_pos rfl, BitVec.setWidth_eq, h, he, Nat.mul_comm, Nat.mod_add_div]
    simp
  | false =>
    obtain hx | hx := hx
    · cases hx
    · refine Eq.trans ?_ hx.symm
      simp only [uxf, Bool.false_eq_true, if_false, Nat.pow_zero, Nat.div_one]
      congr 1
      exact BitVec.eq_of_toNat_eq (by simp [h])

/-- CRW to FQPOP has a constructor of its own. -/
theorem crw_num {a : BitVec 6} {num : BitVec 12} (h : (Instr.crw a num).wf = true) : num.toNat ≠ 141 := by
  intro hn
  have : num = 0x08D := BitVec.eq_of_toNat_eq hn
  simp [Instr.wf, this] at h

namespace Laws.Enc

/-- The encoding of an instruction fits its fields, and the parser of its space reads it back from any slot word W and extension word
E that carry those fields; without an extension word (x false), where the instruction needs none. -/
def Statement (i : Instr) : Prop :=
  ∀ sp code w e, i.fields = some (sp, code, w, e) → i.wf = true →
    code < 128 ∧ w < 16777216 ∧ e < 524288 ∧
    ∀ (x : Bool) (W E : Nat), W / 16777216 % 128 = code → W % 16777216 = w → E % 524288 = (if x then e else 0) →
      (x = true ∨ i.fitsNoExt = true) → parseSpace sp x W E = some i

theorem statement_intro {i : Instr} {sp : Space} {code w e : Nat} (h : i.fields = some (sp, code, w, e)) (hc : code < 128)
    (hw : w < 16777216) (he : e < 524288)
    (hp : i.wf = true → ∀ (x : Bool) (W E : Nat), W / 16777216 % 128 = code → W % 16777216 = w →
      E % 524288 = (if x then e else 0) → (x = true ∨ i.fitsNoExt = true) → parseSpace sp x W E = some i) : Statement i := by
  intro sp' code' w' e' h' hwf
  rw [h] at h'
  cases h'
  exact ⟨hc, hw, he, hp hwf⟩

theorem statement_of_event {i : Instr} (h : i.fields = none) : Statement i := by
  intro sp code w e h'
  rw [h] at h'
  cases h'

theorem layout_add (v0 : BitVec 6) (v1 : BitVec 6) (v2 : BitVec 6) (v3 : Bool) :
    v0.toNat * 262144 + v1.toNat * 4096 + v2.toNat * 64 + v3.toNat < 16777216 ∧ 0 < 524288 ∧
    ∀ W E : Nat, W % 16777216 = v0.toNat * 262144 + v1.toNat * 4096 + v2.toNat * 64 + v3.toNat → E % 524288 = 0 →
      W / 2 ^ 1 % 2 ^ 5 = 0 ∧ E / 2 ^ 0 % 2 ^ 19 = 0 ∧ W / 2 ^ 18 % 2 ^ 6 = v0.toNat ∧ W / 2 ^ 12 % 2 ^ 6 = v1.toNat ∧ W / 2 ^ 6 % 2 ^ 6 = v2.toNat ∧ W / 2 ^ 0 % 2 = v3.toNat := by
  have := v0.isLt; have := v1.isLt; have := v2.isLt; have := v3.toNat_lt
  exact ⟨by omega, by omega, fun W E hf he => ⟨by omega, by omega, by omega, by omega, by omega, by omega⟩⟩

theorem layout_and (v0 : BitVec 6) (v1 : BitVec 6) (v2 : BitVec 6) :
    v0.toNat * 262144 + v1.toNat * 4096 + v2.toNat * 64 < 16777216 ∧ 0 < 524288 ∧
    ∀ W E : Nat, W % 16777216 = v0.toNat * 262144 + v1.toNat * 4096 + v2.toNat * 64 → E % 524288 = 0 →
      W / 2 ^ 0 % 2 ^ 6 = 0 ∧ E / 2 ^ 0 % 2 ^ 19 = 0 ∧ W / 2 ^ 18 % 2 ^ 6 = v0.toNat ∧ W / 2 ^ 12 % 2 ^ 6 = v1.toNat ∧ W / 2 ^ 6 % 2 ^ 6 = v2.toNat := by
  have := v0.isLt; have := v1.isLt; have := v2.isLt
  exact ⟨by omega, by omega, fun W E hf he => ⟨by omega, by omega, by omega, by omega, by omega⟩⟩

theorem layout_addi (v0 : BitVec 6) (v1 : BitVec 6) (v2 : BitVec 31) :
    v0.toNat * 262144 + v1.toNat * 4096 + v2.toNat % 4096 < 16777216 ∧ v2.toNat / 4096 < 524288 ∧
    ∀ W : Nat, W % 16777216 = v0.toNat * 262144 + v1.toNat * 4096 + v2.toNat % 4096 →
      W / 2 ^ 18 % 2 ^ 6 = v0.toNat ∧ W / 2 ^ 12 % 2 ^ 6 = v1.toNat ∧ W / 2 ^ 0 % 2 ^ 12 = v2.toNat % 2 ^ 12 := by
  have := v0.isLt; have := v1.isLt; have := v2.isLt
  exact ⟨by omega, by omega, fun W hf => ⟨by omega, by omega, by omega⟩⟩

theorem layout_shli (v0 : BitVec 6) (v1 : BitVec 6) (v2 : BitVec 6) (v3 : Bool) :
    v0.toNat * 262144 + v1.toNat * 4096 + v2.toNat + v3.toNat * 64 < 16777216 ∧ 0 < 524288 ∧
    ∀ W E : Nat, W % 16777216 = v0.toNat * 262144 + v1.toNat * 4096 + v2.toNat + v3.toNat * 64 → E % 524288 = 0 →
      W / 2 ^ 7 % 2 ^ 5 = 0 ∧ E / 2 ^ 0 % 2 ^ 19 = 0 ∧ W / 2 ^ 18 % 2 ^ 6 = v0.toNat ∧ W / 2 ^ 12 % 2 ^ 6 = v1.toNat ∧ W / 2 ^ 0 % 2 ^ 6 = v2.toNat ∧ W / 2 ^ 6 % 2 = v3.toNat := by
  have := v0.isLt; have := v1.isLt; have := v2.isLt; have := v3.toNat_lt
  exact ⟨by omega, by omega, fun W E hf he => ⟨by omega, by omega, by omega, by omega, by omega, by omega⟩⟩

theorem layout_clz (v0 : BitVec 6) (v1 : BitVec 6) (v2 : Bool) :
    v0.toNat * 262144 + v1.toNat * 4096 + v2.toNat < 16777216 ∧ 0 < 524288 ∧
    ∀ W E : Nat, W % 16777216 = v0.toNat * 262144 + v1.toNat * 4096 + v2.toNat → E % 524288 = 0 →
      W / 2 ^ 1 % 2 ^ 11 = 0 ∧ E / 2 ^ 0 % 2 ^ 19 = 0 ∧ W / 2 ^ 18 % 2 ^ 6 = v0.toNat ∧ W / 2 ^ 12 % 2 ^ 6 = v1.toNat ∧ W / 2 ^ 0 % 2 = v2.toNat := by
  have := v0.isLt; have := v1.isLt; have := v2.toNat_lt
  exact ⟨by omega, by omega, fun W E hf he => ⟨by omega, by omega, by omega, by omega, by omega⟩⟩

theorem layout_madd (v0 : BitVec 6) (v1 : BitVec 6) (v2 : BitVec 6) (v3 : BitVec 6) :
    v0.toNat * 262144 + v1.toNat * 4096 + v2.toNat * 64 + v3.toNat < 16777216 ∧ 0 < 524288 ∧
    ∀ W E : Nat, W % 16777216 = v0.toNat * 262144 + v1.toNat * 4096 + v2.toNat * 64 + v3.toNat → E % 524288 = 0 →
      E / 2 ^ 0 % 2 ^ 19 = 0 ∧ W / 2 ^ 18 % 2 ^ 6 = v0.toNat ∧ W / 2 ^ 12 % 2 ^ 6 = v1.toNat ∧ W / 2 ^ 6 % 2 ^ 6 = v2.toNat ∧ W / 2 ^ 0 % 2 ^ 6 = v3.toNat := by
  have := v0.isLt; have := v1.isLt; have := v2.isLt; have := v3.isLt
  exact ⟨by omega, by omega, fun W E hf he => ⟨by omega, by omega, by omega, by omega, by omega⟩⟩

theorem layout_movi (v0 : BitVec 6) (v1 : BitVec 37) :
    v0.toNat * 262144 + v1.toNat % 262144 < 16777216 ∧ v1.toNat / 262144 < 524288 ∧
    ∀ W : Nat, W % 16777216 = v0.toNat * 262144 + v1.toNat % 262144 →
      W / 2 ^ 18 % 2 ^ 6 = v0.toNat ∧ W / 2 ^ 0 % 2 ^ 18 = v1.toNat % 2 ^ 18 := by
  have := v0.isLt; have := v1.isLt
  exact ⟨by omega, by omega, fun W hf => ⟨by omega, by omega⟩⟩

theorem layout_movk (v0 : BitVec 6) (v1 : BitVec 2) (v2 : BitVec 16) :
    v0.toNat * 262144 + v1.toNat * 65536 + v2.toNat < 16777216 ∧ 0 < 524288 ∧
    ∀ W E : Nat, W % 16777216 = v0.toNat * 262144 + v1.toNat * 65536 + v2.toNat → E % 524288 = 0 →
      E / 2 ^ 0 % 2 ^ 19 = 0 ∧ W / 2 ^ 18 % 2 ^ 6 = v0.toNat ∧ W / 2 ^ 16 % 2 ^ 2 = v1.toNat ∧ W / 2 ^ 0 % 2 ^ 16 = v2.toNat := by
  have := v0.isLt; have := v1.isLt; have := v2.isLt
  exact ⟨by omega, by omega, fun W E hf he => ⟨by omega, by omega, by omega, by omega⟩⟩

theorem layout_lea (v0 : BitVec 6) (v1 : BitVec 6) (v2 : BitVec 6) (v3 : BitVec 3) :
    v0.toNat * 262144 + v1.toNat * 4096 + v2.toNat * 64 + v3.toNat < 16777216 ∧ 0 < 524288 ∧
    ∀ W E : Nat, W % 16777216 = v0.toNat * 262144 + v1.toNat * 4096 + v2.toNat * 64 + v3.toNat → E % 524288 = 0 →
      W / 2 ^ 3 % 2 ^ 3 = 0 ∧ E / 2 ^ 0 % 2 ^ 19 = 0 ∧ W / 2 ^ 18 % 2 ^ 6 = v0.toNat ∧ W / 2 ^ 12 % 2 ^ 6 = v1.toNat ∧ W / 2 ^ 6 % 2 ^ 6 = v2.toNat ∧ W / 2 ^ 0 % 2 ^ 3 = v3.toNat := by
  have := v0.isLt; have := v1.isLt; have := v2.isLt; have := v3.isLt
  exact ⟨by omega, by omega, fun W E hf he => ⟨by omega, by omega, by omega, by omega, by omega, by omega⟩⟩

theorem layout_fadd (v0 : BitVec 6) (v1 : BitVec 6) (v2 : BitVec 6) (v3 : BitVec 2) (v4 : BitVec 3) :
    v0.toNat * 262144 + v1.toNat * 4096 + v2.toNat * 64 + v3.toNat * 16 + v4.toNat * 2 < 16777216 ∧ 0 < 524288 ∧
    ∀ W E : Nat, W % 16777216 = v0.toNat * 262144 + v1.toNat * 4096 + v2.toNat * 64 + v3.toNat * 16 + v4.toNat * 2 → E % 524288 = 0 →
      W / 2 ^ 0 % 2 ^ 1 = 0 ∧ E / 2 ^ 0 % 2 ^ 19 = 0 ∧ W / 2 ^ 18 % 2 ^ 6 = v0.toNat ∧ W / 2 ^ 12 % 2 ^ 6 = v1.toNat ∧ W / 2 ^ 6 % 2 ^ 6 = v2.toNat ∧ W / 2 ^ 4 % 2 ^ 2 = v3.toNat ∧ W / 2 ^ 1 % 2 ^ 3 = v4.toNat := by
  have := v0.isLt; have := v1.isLt; have := v2.isLt; have := v3.isLt; have := v4.isLt
  exact ⟨by omega, by omega, fun W E hf he => ⟨by omega, by omega, by omega, by omega, by omega, by omega, by omega⟩⟩

theorem layout_fmin (v0 : BitVec 6) (v1 : BitVec 6) (v2 : BitVec 6) (v3 : BitVec 2) :
    v0.toNat * 262144 + v1.toNat * 4096 + v2.toNat * 64 + v3.toNat * 16 < 16777216 ∧ 0 < 524288 ∧
    ∀ W E : Nat, W % 16777216 = v0.toNat * 262144 + v1.toNat * 4096 + v2.toNat * 64 + v3.toNat * 16 → E % 524288 = 0 →
      W / 2 ^ 0 % 2 ^ 4 = 0 ∧ E / 2 ^ 0 % 2 ^ 19 = 0 ∧ W / 2 ^ 18 % 2 ^ 6 = v0.toNat ∧ W / 2 ^ 12 % 2 ^ 6 = v1.toNat ∧ W / 2 ^ 6 % 2 ^ 6 = v2.toNat ∧ W / 2 ^ 4 % 2 ^ 2 = v3.toNat := by
  have := v0.isLt; have := v1.isLt; have := v2.isLt; have := v3.isLt
  exact ⟨by omega, by omega, fun W E hf he => ⟨by omega, by omega, by omega, by omega, by omega, by omega⟩⟩

theorem layout_fcvt (v0 : BitVec 6) (v1 : BitVec 6) (v2 : BitVec 2) (v3 : BitVec 2) (v4 : BitVec 3) :
    v0.toNat * 262144 + v1.toNat * 4096 + v2.toNat * 64 + v3.toNat * 16 + v4.toNat * 2 < 16777216 ∧ 0 < 524288 ∧
    ∀ W E : Nat, W % 16777216 = v0.toNat * 262144 + v1.toNat * 4096 + v2.toNat * 64 + v3.toNat * 16 + v4.toNat * 2 → E % 524288 = 0 →
      W / 2 ^ 0 % 2 ^ 1 = 0 ∧ W / 2 ^ 8 % 2 ^ 4 = 0 ∧ E / 2 ^ 0 % 2 ^ 19 = 0 ∧ W / 2 ^ 18 % 2 ^ 6 = v0.toNat ∧ W / 2 ^ 12 % 2 ^ 6 = v1.toNat ∧ W / 2 ^ 6 % 2 ^ 2 = v2.toNat ∧ W / 2 ^ 4 % 2 ^ 2 = v3.toNat ∧ W / 2 ^ 1 % 2 ^ 3 = v4.toNat := by
  have := v0.isLt; have := v1.isLt; have := v2.isLt; have := v3.isLt; have := v4.isLt
  exact ⟨by omega, by omega, fun W E hf he => ⟨by omega, by omega, by omega, by omega, by omega, by omega, by omega, by omega⟩⟩

theorem layout_ftoi (v0 : BitVec 6) (v1 : BitVec 6) (v2 : Bool) (v3 : Bool) (v4 : BitVec 2) (v5 : BitVec 3) :
    v0.toNat * 262144 + v1.toNat * 4096 + v2.toNat * 64 + v3.toNat * 128 + v4.toNat * 16 + v5.toNat * 2 < 16777216 ∧ 0 < 524288 ∧
    ∀ W E : Nat, W % 16777216 = v0.toNat * 262144 + v1.toNat * 4096 + v2.toNat * 64 + v3.toNat * 128 + v4.toNat * 16 + v5.toNat * 2 → E % 524288 = 0 →
      W / 2 ^ 0 % 2 ^ 1 = 0 ∧ W / 2 ^ 8 % 2 ^ 4 = 0 ∧ E / 2 ^ 0 % 2 ^ 19 = 0 ∧ W / 2 ^ 18 % 2 ^ 6 = v0.toNat ∧ W / 2 ^ 12 % 2 ^ 6 = v1.toNat ∧ W / 2 ^ 6 % 2 = v2.toNat ∧ W / 2 ^ 7 % 2 = v3.toNat ∧ W / 2 ^ 4 % 2 ^ 2 = v4.toNat ∧ W / 2 ^ 1 % 2 ^ 3 = v5.toNat := by
  have := v0.isLt; have := v1.isLt; have := v2.toNat_lt; have := v3.toNat_lt; have := v4.isLt; have := v5.isLt
  exact ⟨by omega, by omega, fun W E hf he => ⟨by omega, by omega, by omega, by omega, by omega, by omega, by omega, by omega, by omega⟩⟩

theorem layout_fclass (v0 : BitVec 6) (v1 : BitVec 6) (v2 : BitVec 2) :
    v0.toNat * 262144 + v1.toNat * 4096 + v2.toNat * 16 < 16777216 ∧ 0 < 524288 ∧
    ∀ W E : Nat, W % 16777216 = v0.toNat * 262144 + v1.toNat * 4096 + v2.toNat * 16 → E % 524288 = 0 →
      W / 2 ^ 0 % 2 ^ 4 = 0 ∧ W / 2 ^ 6 % 2 ^ 6 = 0 ∧ E / 2 ^ 0 % 2 ^ 19 = 0 ∧ W / 2 ^ 18 % 2 ^ 6 = v0.toNat ∧ W / 2 ^ 12 % 2 ^ 6 = v1.toNat ∧ W / 2 ^ 4 % 2 ^ 2 = v2.toNat := by
  have := v0.isLt; have := v1.isLt; have := v2.isLt
  exact ⟨by omega, by omega, fun W E hf he => ⟨by omega, by omega, by omega, by omega, by omega, by omega⟩⟩

theorem layout_ld (v0 : BitVec 6) (v1 : BitVec 6) (v2 : BitVec 2) (v3 : Bool) (v4 : BitVec 28) :
    v0.toNat * 262144 + v1.toNat * 4096 + v2.toNat * 1024 + v3.toNat * 512 + v4.toNat % 512 < 16777216 ∧ v4.toNat / 512 < 524288 ∧
    ∀ W : Nat, W % 16777216 = v0.toNat * 262144 + v1.toNat * 4096 + v2.toNat * 1024 + v3.toNat * 512 + v4.toNat % 512 →
      W / 2 ^ 18 % 2 ^ 6 = v0.toNat ∧ W / 2 ^ 12 % 2 ^ 6 = v1.toNat ∧ W / 2 ^ 10 % 2 ^ 2 = v2.toNat ∧ W / 2 ^ 9 % 2 = v3.toNat ∧ W / 2 ^ 0 % 2 ^ 9 = v4.toNat % 2 ^ 9 := by
  have := v0.isLt; have := v1.isLt; have := v2.isLt; have := v3.toNat_lt; have := v4.isLt
  exact ⟨by omega, by omega, fun W hf => ⟨by omega, by omega, by omega, by omega, by omega⟩⟩

theorem layout_st (v0 : BitVec 6) (v1 : BitVec 6) (v2 : BitVec 2) (v3 : BitVec 28) :
    v0.toNat * 262144 + v1.toNat * 4096 + v2.toNat * 1024 + v3.toNat % 512 < 16777216 ∧ v3.toNat / 512 < 524288 ∧
    ∀ W : Nat, W % 16777216 = v0.toNat * 262144 + v1.toNat * 4096 + v2.toNat * 1024 + v3.toNat % 512 →
      W / 2 ^ 9 % 2 ^ 1 = 0 ∧ W / 2 ^ 18 % 2 ^ 6 = v0.toNat ∧ W / 2 ^ 12 % 2 ^ 6 = v1.toNat ∧ W / 2 ^ 10 % 2 ^ 2 = v2.toNat ∧ W / 2 ^ 0 % 2 ^ 9 = v3.toNat % 2 ^ 9 := by
  have := v0.isLt; have := v1.isLt; have := v2.isLt; have := v3.isLt
  exact ⟨by omega, by omega, fun W hf => ⟨by omega, by omega, by omega, by omega, by omega⟩⟩

theorem layout_ldx (v0 : BitVec 6) (v1 : BitVec 6) (v2 : BitVec 6) (v3 : BitVec 2) (v4 : Bool) (v5 : BitVec 3) :
    v0.toNat * 262144 + v1.toNat * 4096 + v2.toNat * 64 + v3.toNat * 16 + v4.toNat * 8 + v5.toNat < 16777216 ∧ 0 < 524288 ∧
    ∀ W E : Nat, W % 16777216 = v0.toNat * 262144 + v1.toNat * 4096 + v2.toNat * 64 + v3.toNat * 16 + v4.toNat * 8 + v5.toNat → E % 524288 = 0 →
      E / 2 ^ 0 % 2 ^ 19 = 0 ∧ W / 2 ^ 18 % 2 ^ 6 = v0.toNat ∧ W / 2 ^ 12 % 2 ^ 6 = v1.toNat ∧ W / 2 ^ 6 % 2 ^ 6 = v2.toNat ∧ W / 2 ^ 4 % 2 ^ 2 = v3.toNat ∧ W / 2 ^ 3 % 2 = v4.toNat ∧ W / 2 ^ 0 % 2 ^ 3 = v5.toNat := by
  have := v0.isLt; have := v1.isLt; have := v2.isLt; have := v3.isLt; have := v4.toNat_lt; have := v5.isLt
  exact ⟨by omega, by omega, fun W E hf he => ⟨by omega, by omega, by omega, by omega, by omega, by omega, by omega⟩⟩

theorem layout_stx (v0 : BitVec 6) (v1 : BitVec 6) (v2 : BitVec 6) (v3 : BitVec 2) (v4 : BitVec 3) :
    v0.toNat * 262144 + v1.toNat * 4096 + v2.toNat * 64 + v3.toNat * 16 + v4.toNat < 16777216 ∧ 0 < 524288 ∧
    ∀ W E : Nat, W % 16777216 = v0.toNat * 262144 + v1.toNat * 4096 + v2.toNat * 64 + v3.toNat * 16 + v4.toNat → E % 524288 = 0 →
      W / 2 ^ 3 % 2 ^ 1 = 0 ∧ E / 2 ^ 0 % 2 ^ 19 = 0 ∧ W / 2 ^ 18 % 2 ^ 6 = v0.toNat ∧ W / 2 ^ 12 % 2 ^ 6 = v1.toNat ∧ W / 2 ^ 6 % 2 ^ 6 = v2.toNat ∧ W / 2 ^ 4 % 2 ^ 2 = v3.toNat ∧ W / 2 ^ 0 % 2 ^ 3 = v4.toNat := by
  have := v0.isLt; have := v1.isLt; have := v2.isLt; have := v3.isLt; have := v4.isLt
  exact ⟨by omega, by omega, fun W E hf he => ⟨by omega, by omega, by omega, by omega, by omega, by omega, by omega⟩⟩

theorem layout_amoadd (v0 : BitVec 6) (v1 : BitVec 6) (v2 : BitVec 6) (v3 : BitVec 3) (v4 : Bool) :
    v0.toNat * 262144 + v1.toNat * 4096 + v2.toNat * 64 + v3.toNat * 8 + v4.toNat * 4 < 16777216 ∧ 0 < 524288 ∧
    ∀ W E : Nat, W % 16777216 = v0.toNat * 262144 + v1.toNat * 4096 + v2.toNat * 64 + v3.toNat * 8 + v4.toNat * 4 → E % 524288 = 0 →
      W / 2 ^ 0 % 2 ^ 2 = 0 ∧ E / 2 ^ 0 % 2 ^ 19 = 0 ∧ W / 2 ^ 18 % 2 ^ 6 = v0.toNat ∧ W / 2 ^ 12 % 2 ^ 6 = v1.toNat ∧ W / 2 ^ 6 % 2 ^ 6 = v2.toNat ∧ W / 2 ^ 3 % 2 ^ 3 = v3.toNat ∧ W / 2 ^ 2 % 2 = v4.toNat := by
  have := v0.isLt; have := v1.isLt; have := v2.isLt; have := v3.isLt; have := v4.toNat_lt
  exact ⟨by omega, by omega, fun W E hf he => ⟨by omega, by omega, by omega, by omega, by omega, by omega, by omega⟩⟩

theorem layout_amomin (v0 : BitVec 6) (v1 : BitVec 6) (v2 : BitVec 6) (v3 : BitVec 3) (v4 : Bool) (v5 : Bool) :
    v0.toNat * 262144 + v1.toNat * 4096 + v2.toNat * 64 + v3.toNat * 8 + v4.toNat * 4 + v5.toNat * 2 < 16777216 ∧ 0 < 524288 ∧
    ∀ W E : Nat, W % 16777216 = v0.toNat * 262144 + v1.toNat * 4096 + v2.toNat * 64 + v3.toNat * 8 + v4.toNat * 4 + v5.toNat * 2 → E % 524288 = 0 →
      W / 2 ^ 0 % 2 ^ 1 = 0 ∧ E / 2 ^ 0 % 2 ^ 19 = 0 ∧ W / 2 ^ 18 % 2 ^ 6 = v0.toNat ∧ W / 2 ^ 12 % 2 ^ 6 = v1.toNat ∧ W / 2 ^ 6 % 2 ^ 6 = v2.toNat ∧ W / 2 ^ 3 % 2 ^ 3 = v3.toNat ∧ W / 2 ^ 2 % 2 = v4.toNat ∧ W / 2 ^ 1 % 2 = v5.toNat := by
  have := v0.isLt; have := v1.isLt; have := v2.isLt; have := v3.isLt; have := v4.toNat_lt; have := v5.toNat_lt
  exact ⟨by omega, by omega, fun W E hf he => ⟨by omega, by omega, by omega, by omega, by omega, by omega, by omega, by omega⟩⟩

theorem layout_amofmax (v0 : BitVec 6) (v1 : BitVec 6) (v2 : BitVec 6) (v3 : BitVec 3) :
    v0.toNat * 262144 + v1.toNat * 4096 + v2.toNat * 64 + v3.toNat * 8 < 16777216 ∧ 0 < 524288 ∧
    ∀ W E : Nat, W % 16777216 = v0.toNat * 262144 + v1.toNat * 4096 + v2.toNat * 64 + v3.toNat * 8 → E % 524288 = 0 →
      W / 2 ^ 0 % 2 ^ 3 = 0 ∧ E / 2 ^ 0 % 2 ^ 19 = 0 ∧ W / 2 ^ 18 % 2 ^ 6 = v0.toNat ∧ W / 2 ^ 12 % 2 ^ 6 = v1.toNat ∧ W / 2 ^ 6 % 2 ^ 6 = v2.toNat ∧ W / 2 ^ 3 % 2 ^ 3 = v3.toNat := by
  have := v0.isLt; have := v1.isLt; have := v2.isLt; have := v3.isLt
  exact ⟨by omega, by omega, fun W E hf he => ⟨by omega, by omega, by omega, by omega, by omega, by omega⟩⟩

theorem layout_hset (v0 : BitVec 5) (v1 : BitVec 6) (v2 : BitVec 6) :
    v0.toNat * 262144 + v1.toNat * 4096 + v2.toNat < 16777216 ∧ 0 < 524288 ∧
    ∀ W E : Nat, W % 16777216 = v0.toNat * 262144 + v1.toNat * 4096 + v2.toNat → E % 524288 = 0 →
      W / 2 ^ 6 % 2 ^ 6 = 0 ∧ W / 2 ^ 23 % 2 ^ 1 = 0 ∧ E / 2 ^ 0 % 2 ^ 19 = 0 ∧ W / 2 ^ 18 % 2 ^ 5 = v0.toNat ∧ W / 2 ^ 12 % 2 ^ 6 = v1.toNat ∧ W / 2 ^ 0 % 2 ^ 6 = v2.toNat := by
  have := v0.isLt; have := v1.isLt; have := v2.isLt
  exact ⟨by omega, by omega, fun W E hf he => ⟨by omega, by omega, by omega, by omega, by omega, by omega⟩⟩

theorem layout_hget (v0 : BitVec 6) (v1 : BitVec 5) (v2 : BitVec 6) :
    v0.toNat * 262144 + v1.toNat * 4096 + v2.toNat < 16777216 ∧ 0 < 524288 ∧
    ∀ W E : Nat, W % 16777216 = v0.toNat * 262144 + v1.toNat * 4096 + v2.toNat → E % 524288 = 0 →
      W / 2 ^ 6 % 2 ^ 6 = 0 ∧ W / 2 ^ 17 % 2 ^ 1 = 0 ∧ E / 2 ^ 0 % 2 ^ 19 = 0 ∧ W / 2 ^ 18 % 2 ^ 6 = v0.toNat ∧ W / 2 ^ 12 % 2 ^ 5 = v1.toNat ∧ W / 2 ^ 0 % 2 ^ 6 = v2.toNat := by
  have := v0.isLt; have := v1.isLt; have := v2.isLt
  exact ⟨by omega, by omega, fun W E hf he => ⟨by omega, by omega, by omega, by omega, by omega, by omega⟩⟩

theorem layout_hadv (v0 : BitVec 5) (v1 : BitVec 5) (v2 : BitVec 6) :
    v0.toNat * 262144 + v1.toNat * 4096 + v2.toNat * 64 < 16777216 ∧ 0 < 524288 ∧
    ∀ W E : Nat, W % 16777216 = v0.toNat * 262144 + v1.toNat * 4096 + v2.toNat * 64 → E % 524288 = 0 →
      W / 2 ^ 0 % 2 ^ 6 = 0 ∧ W / 2 ^ 17 % 2 ^ 1 = 0 ∧ W / 2 ^ 23 % 2 ^ 1 = 0 ∧ E / 2 ^ 0 % 2 ^ 19 = 0 ∧ W / 2 ^ 18 % 2 ^ 5 = v0.toNat ∧ W / 2 ^ 12 % 2 ^ 5 = v1.toNat ∧ W / 2 ^ 6 % 2 ^ 6 = v2.toNat := by
  have := v0.isLt; have := v1.isLt; have := v2.isLt
  exact ⟨by omega, by omega, fun W E hf he => ⟨by omega, by omega, by omega, by omega, by omega, by omega, by omega⟩⟩

theorem layout_hdim (v0 : BitVec 5) (v1 : BitVec 6) (v2 : BitVec 6) (v3 : BitVec 2) :
    v0.toNat * 262144 + v1.toNat * 4096 + v2.toNat * 64 + v3.toNat < 16777216 ∧ 0 < 524288 ∧
    ∀ W E : Nat, W % 16777216 = v0.toNat * 262144 + v1.toNat * 4096 + v2.toNat * 64 + v3.toNat → E % 524288 = 0 →
      W / 2 ^ 2 % 2 ^ 4 = 0 ∧ W / 2 ^ 23 % 2 ^ 1 = 0 ∧ E / 2 ^ 0 % 2 ^ 19 = 0 ∧ W / 2 ^ 18 % 2 ^ 5 = v0.toNat ∧ W / 2 ^ 12 % 2 ^ 6 = v1.toNat ∧ W / 2 ^ 6 % 2 ^ 6 = v2.toNat ∧ W / 2 ^ 0 % 2 ^ 2 = v3.toNat := by
  have := v0.isLt; have := v1.isLt; have := v2.isLt; have := v3.isLt
  exact ⟨by omega, by omega, fun W E hf he => ⟨by omega, by omega, by omega, by omega, by omega, by omega, by omega⟩⟩

theorem layout_br (v0 : BitVec 3) (v1 : BitVec 6) (v2 : BitVec 6) (v3 : BitVec 28) :
    v0.toNat * 2097152 + v1.toNat * 32768 + v2.toNat * 512 + v3.toNat % 512 < 16777216 ∧ v3.toNat / 512 < 524288 ∧
    ∀ W : Nat, W % 16777216 = v0.toNat * 2097152 + v1.toNat * 32768 + v2.toNat * 512 + v3.toNat % 512 →
      W / 2 ^ 21 % 2 ^ 3 = v0.toNat ∧ W / 2 ^ 15 % 2 ^ 6 = v1.toNat ∧ W / 2 ^ 9 % 2 ^ 6 = v2.toNat ∧ W / 2 ^ 0 % 2 ^ 9 = v3.toNat % 2 ^ 9 := by
  have := v0.isLt; have := v1.isLt; have := v2.isLt; have := v3.isLt
  exact ⟨by omega, by omega, fun W hf => ⟨by omega, by omega, by omega, by omega⟩⟩

theorem layout_jmp (v0 : BitVec 43) :
    v0.toNat % 16777216 < 16777216 ∧ v0.toNat / 16777216 < 524288 ∧
    ∀ W : Nat, W % 16777216 = v0.toNat % 16777216 →
      W / 2 ^ 0 % 2 ^ 24 = v0.toNat % 2 ^ 24 := by
  have := v0.isLt
  exact ⟨by omega, by omega, fun W hf => by omega⟩

theorem layout_jr (v0 : BitVec 6) :
    v0.toNat * 4096 < 16777216 ∧ 0 < 524288 ∧
    ∀ W E : Nat, W % 16777216 = v0.toNat * 4096 → E % 524288 = 0 →
      W / 2 ^ 0 % 2 ^ 12 = 0 ∧ W / 2 ^ 18 % 2 ^ 6 = 0 ∧ E / 2 ^ 0 % 2 ^ 19 = 0 ∧ W / 2 ^ 12 % 2 ^ 6 = v0.toNat := by
  have := v0.isLt
  exact ⟨by omega, by omega, fun W E hf he => ⟨by omega, by omega, by omega, by omega⟩⟩

theorem layout_loop (v0 : BitVec 6) (v1 : BitVec 6) (v2 : BitVec 3) (v3 : BitVec 28) :
    v0.toNat * 262144 + v1.toNat * 4096 + v2.toNat * 512 + v3.toNat % 512 < 16777216 ∧ v3.toNat / 512 < 524288 ∧
    ∀ W : Nat, W % 16777216 = v0.toNat * 262144 + v1.toNat * 4096 + v2.toNat * 512 + v3.toNat % 512 →
      W / 2 ^ 18 % 2 ^ 6 = v0.toNat ∧ W / 2 ^ 12 % 2 ^ 6 = v1.toNat ∧ W / 2 ^ 9 % 2 ^ 3 = v2.toNat ∧ W / 2 ^ 0 % 2 ^ 9 = v3.toNat % 2 ^ 9 := by
  have := v0.isLt; have := v1.isLt; have := v2.isLt; have := v3.isLt
  exact ⟨by omega, by omega, fun W hf => ⟨by omega, by omega, by omega, by omega⟩⟩

theorem layout_loopi (v0 : BitVec 16) (v1 : BitVec 27) :
    v0.toNat * 256 + v1.toNat % 256 < 16777216 ∧ v1.toNat / 256 < 524288 ∧
    ∀ W : Nat, W % 16777216 = v0.toNat * 256 + v1.toNat % 256 →
      W / 2 ^ 8 % 2 ^ 16 = v0.toNat ∧ W / 2 ^ 0 % 2 ^ 8 = v1.toNat % 2 ^ 8 := by
  have := v0.isLt; have := v1.isLt
  exact ⟨by omega, by omega, fun W hf => ⟨by omega, by omega⟩⟩

theorem layout_lbrk (v0 : BitVec 2) :
    v0.toNat < 16777216 ∧ 0 < 524288 ∧
    ∀ W E : Nat, W % 16777216 = v0.toNat → E % 524288 = 0 →
      W / 2 ^ 2 % 2 ^ 22 = 0 ∧ E / 2 ^ 0 % 2 ^ 19 = 0 ∧ W / 2 ^ 0 % 2 ^ 2 = v0.toNat := by
  have := v0.isLt
  exact ⟨by omega, by omega, fun W E hf he => ⟨by omega, by omega, by omega⟩⟩

theorem layout_waitc (v0 : BitVec 4) (v1 : BitVec 4) (v2 : BitVec 4) (v3 : BitVec 4) :
    v0.toNat * 4096 + v1.toNat * 256 + v2.toNat * 16 + v3.toNat < 16777216 ∧ 0 < 524288 ∧
    ∀ W E : Nat, W % 16777216 = v0.toNat * 4096 + v1.toNat * 256 + v2.toNat * 16 + v3.toNat → E % 524288 = 0 →
      W / 2 ^ 16 % 2 ^ 8 = 0 ∧ E / 2 ^ 0 % 2 ^ 19 = 0 ∧ W / 2 ^ 12 % 2 ^ 4 = v0.toNat ∧ W / 2 ^ 8 % 2 ^ 4 = v1.toNat ∧ W / 2 ^ 4 % 2 ^ 4 = v2.toNat ∧ W / 2 ^ 0 % 2 ^ 4 = v3.toNat := by
  have := v0.isLt; have := v1.isLt; have := v2.isLt; have := v3.isLt
  exact ⟨by omega, by omega, fun W E hf he => ⟨by omega, by omega, by omega, by omega, by omega, by omega⟩⟩

theorem layout_waitb (v0 : BitVec 3) :
    v0.toNat < 16777216 ∧ 0 < 524288 ∧
    ∀ W E : Nat, W % 16777216 = v0.toNat → E % 524288 = 0 →
      W / 2 ^ 3 % 2 ^ 21 = 0 ∧ E / 2 ^ 0 % 2 ^ 19 = 0 ∧ W / 2 ^ 0 % 2 ^ 3 = v0.toNat := by
  have := v0.isLt
  exact ⟨by omega, by omega, fun W E hf he => ⟨by omega, by omega, by omega⟩⟩

theorem layout_phase (v0 : BitVec 3) (v1 : BitVec 6) (v2 : BitVec 6) :
    v0.toNat * 2097152 + v1.toNat * 32768 + v2.toNat * 512 < 16777216 ∧ 0 < 524288 ∧
    ∀ W E : Nat, W % 16777216 = v0.toNat * 2097152 + v1.toNat * 32768 + v2.toNat * 512 → E % 524288 = 0 →
      W / 2 ^ 0 % 2 ^ 9 = 0 ∧ E / 2 ^ 0 % 2 ^ 19 = 0 ∧ W / 2 ^ 21 % 2 ^ 3 = v0.toNat ∧ W / 2 ^ 15 % 2 ^ 6 = v1.toNat ∧ W / 2 ^ 9 % 2 ^ 6 = v2.toNat := by
  have := v0.isLt; have := v1.isLt; have := v2.isLt
  exact ⟨by omega, by omega, fun W E hf he => ⟨by omega, by omega, by omega, by omega, by omega⟩⟩

theorem layout_fence (v0 : BitVec 3) :
    v0.toNat * 2097152 < 16777216 ∧ 0 < 524288 ∧
    ∀ W E : Nat, W % 16777216 = v0.toNat * 2097152 → E % 524288 = 0 →
      W / 2 ^ 0 % 2 ^ 21 = 0 ∧ E / 2 ^ 0 % 2 ^ 19 = 0 ∧ W / 2 ^ 21 % 2 ^ 3 = v0.toNat := by
  have := v0.isLt
  exact ⟨by omega, by omega, fun W E hf he => ⟨by omega, by omega, by omega⟩⟩

theorem layout_bar (v0 : BitVec 8) (v1 : BitVec 6) :
    v0.toNat * 65536 + v1.toNat * 1024 < 16777216 ∧ 0 < 524288 ∧
    ∀ W E : Nat, W % 16777216 = v0.toNat * 65536 + v1.toNat * 1024 → E % 524288 = 0 →
      W / 2 ^ 0 % 2 ^ 10 = 0 ∧ E / 2 ^ 0 % 2 ^ 19 = 0 ∧ W / 2 ^ 16 % 2 ^ 8 = v0.toNat ∧ W / 2 ^ 10 % 2 ^ 6 = v1.toNat := by
  have := v0.isLt; have := v1.isLt
  exact ⟨by omega, by omega, fun W E hf he => ⟨by omega, by omega, by omega, by omega⟩⟩

theorem layout_arm (v0 : BitVec 8) (v1 : BitVec 6) (v2 : Bool) (v3 : BitVec 16) :
    v0.toNat * 65536 + v1.toNat * 1024 < 16777216 ∧ v2.toNat * 65536 + v3.toNat < 524288 ∧
    ∀ W E : Nat, W % 16777216 = v0.toNat * 65536 + v1.toNat * 1024 → E % 524288 = v2.toNat * 65536 + v3.toNat →
      W / 2 ^ 0 % 2 ^ 10 = 0 ∧ E / 2 ^ 17 % 2 ^ 2 = 0 ∧ W / 2 ^ 16 % 2 ^ 8 = v0.toNat ∧ W / 2 ^ 10 % 2 ^ 6 = v1.toNat ∧ E / 2 ^ 16 % 2 = v2.toNat ∧ E / 2 ^ 0 % 2 ^ 16 = v3.toNat := by
  have := v0.isLt; have := v1.isLt; have := v2.toNat_lt; have := v3.isLt
  exact ⟨by omega, by omega, fun W E hf he => ⟨by omega, by omega, by omega, by omega, by omega, by omega⟩⟩

theorem layout_bwait (v0 : BitVec 8) :
    v0.toNat * 65536 < 16777216 ∧ 0 < 524288 ∧
    ∀ W E : Nat, W % 16777216 = v0.toNat * 65536 → E % 524288 = 0 →
      W / 2 ^ 9 % 2 ^ 1 = 0 ∧ W / 2 ^ 0 % 2 ^ 9 = 0 ∧ W / 2 ^ 10 % 2 ^ 6 = 0 ∧ E / 2 ^ 0 % 2 ^ 19 = 0 ∧ W / 2 ^ 16 % 2 ^ 8 = v0.toNat := by
  have := v0.isLt
  exact ⟨by omega, by omega, fun W E hf he => ⟨by omega, by omega, by omega, by omega, by omega⟩⟩

theorem layout_bwaitTry (v0 : BitVec 8) (v1 : BitVec 6) :
    v0.toNat * 65536 + v1.toNat * 1024 + 512 < 16777216 ∧ 0 < 524288 ∧
    ∀ W E : Nat, W % 16777216 = v0.toNat * 65536 + v1.toNat * 1024 + 512 → E % 524288 = 0 →
      W / 2 ^ 9 % 2 ^ 1 ≠ 0 ∧ W / 2 ^ 9 % 2 ^ 1 = 1 ∧ W / 2 ^ 0 % 2 ^ 9 = 0 ∧ E / 2 ^ 0 % 2 ^ 19 = 0 ∧ W / 2 ^ 16 % 2 ^ 8 = v0.toNat ∧ W / 2 ^ 10 % 2 ^ 6 = v1.toNat := by
  have := v0.isLt; have := v1.isLt
  exact ⟨by omega, by omega, fun W E hf he => ⟨by omega, by omega, by omega, by omega, by omega, by omega⟩⟩

theorem layout_grow (v0 : BitVec 6) (v1 : BitVec 6) :
    v0.toNat * 262144 + v1.toNat * 4096 < 16777216 ∧ 0 < 524288 ∧
    ∀ W E : Nat, W % 16777216 = v0.toNat * 262144 + v1.toNat * 4096 → E % 524288 = 0 →
      W / 2 ^ 0 % 2 ^ 12 = 0 ∧ E / 2 ^ 0 % 2 ^ 19 = 0 ∧ W / 2 ^ 18 % 2 ^ 6 = v0.toNat ∧ W / 2 ^ 12 % 2 ^ 6 = v1.toNat := by
  have := v0.isLt; have := v1.isLt
  exact ⟨by omega, by omega, fun W E hf he => ⟨by omega, by omega, by omega, by omega⟩⟩

theorem layout_trap (v0 : BitVec 16) :
    v0.toNat < 16777216 ∧ 0 < 524288 ∧
    ∀ W E : Nat, W % 16777216 = v0.toNat → E % 524288 = 0 →
      W / 2 ^ 16 % 2 ^ 8 = 0 ∧ E / 2 ^ 0 % 2 ^ 19 = 0 ∧ W / 2 ^ 0 % 2 ^ 16 = v0.toNat := by
  have := v0.isLt
  exact ⟨by omega, by omega, fun W E hf he => ⟨by omega, by omega, by omega⟩⟩

theorem layout_crr (v0 : BitVec 6) (v1 : BitVec 12) :
    v0.toNat * 262144 + v1.toNat < 16777216 ∧ 0 < 524288 ∧
    ∀ W E : Nat, W % 16777216 = v0.toNat * 262144 + v1.toNat → E % 524288 = 0 →
      W / 2 ^ 12 % 2 ^ 6 = 0 ∧ E / 2 ^ 0 % 2 ^ 19 = 0 ∧ W / 2 ^ 18 % 2 ^ 6 = v0.toNat ∧ W / 2 ^ 0 % 2 ^ 12 = v1.toNat := by
  have := v0.isLt; have := v1.isLt
  exact ⟨by omega, by omega, fun W E hf he => ⟨by omega, by omega, by omega, by omega⟩⟩

theorem layout_crw (v0 : BitVec 6) (v1 : BitVec 12) :
    v0.toNat * 4096 + v1.toNat < 16777216 ∧ 0 < 524288 ∧
    ∀ W E : Nat, W % 16777216 = v0.toNat * 4096 + v1.toNat → E % 524288 = 0 →
      W / 2 ^ 18 % 2 ^ 6 = 0 ∧ E / 2 ^ 0 % 2 ^ 19 = 0 ∧ W / 2 ^ 12 % 2 ^ 6 = v0.toNat ∧ W / 2 ^ 0 % 2 ^ 12 = v1.toNat := by
  have := v0.isLt; have := v1.isLt
  exact ⟨by omega, by omega, fun W E hf he => ⟨by omega, by omega, by omega, by omega⟩⟩

theorem layout_fqpop (v0 : BitVec 6) :
    v0.toNat * 4096 + 141 < 16777216 ∧ 0 < 524288 ∧
    ∀ W E : Nat, W % 16777216 = v0.toNat * 4096 + 141 → E % 524288 = 0 →
      W / 2 ^ 0 % 2 ^ 12 = 141 ∧ W / 2 ^ 18 % 2 ^ 6 = 0 ∧ E / 2 ^ 0 % 2 ^ 19 = 0 ∧ W / 2 ^ 12 % 2 ^ 6 = v0.toNat := by
  have := v0.isLt
  exact ⟨by omega, by omega, fun W E hf he => ⟨by omega, by omega, by omega, by omega⟩⟩

theorem layout_setstep (v0 : BitVec 2) (v1 : BitVec 2) (v2 : BitVec 6) :
    v0.toNat * 4194304 + v1.toNat * 1048576 + v2.toNat * 4096 < 16777216 ∧ 0 < 524288 ∧
    ∀ W E : Nat, W % 16777216 = v0.toNat * 4194304 + v1.toNat * 1048576 + v2.toNat * 4096 → E % 524288 = 0 →
      W / 2 ^ 0 % 2 ^ 12 = 0 ∧ W / 2 ^ 18 % 2 ^ 2 = 0 ∧ E / 2 ^ 0 % 2 ^ 19 = 0 ∧ W / 2 ^ 22 % 2 ^ 2 = v0.toNat ∧ W / 2 ^ 20 % 2 ^ 2 = v1.toNat ∧ W / 2 ^ 12 % 2 ^ 6 = v2.toNat := by
  have := v0.isLt; have := v1.isLt; have := v2.isLt
  exact ⟨by omega, by omega, fun W E hf he => ⟨by omega, by omega, by omega, by omega, by omega, by omega⟩⟩

theorem layout_tlbiPage (v0 : BitVec 6) (v1 : BitVec 6) :
    v0.toNat * 32768 + v1.toNat * 512 < 16777216 ∧ 0 < 524288 ∧
    ∀ W E : Nat, W % 16777216 = v0.toNat * 32768 + v1.toNat * 512 → E % 524288 = 0 →
      W / 2 ^ 21 % 2 ^ 3 = 0 ∧ W / 2 ^ 0 % 2 ^ 9 = 0 ∧ E / 2 ^ 0 % 2 ^ 19 = 0 ∧ W / 2 ^ 15 % 2 ^ 6 = v0.toNat ∧ W / 2 ^ 9 % 2 ^ 6 = v1.toNat := by
  have := v0.isLt; have := v1.isLt
  exact ⟨by omega, by omega, fun W E hf he => ⟨by omega, by omega, by omega, by omega, by omega⟩⟩

theorem layout_tlbiAsn (v0 : BitVec 6) (v1 : BitVec 6) :
    2097152 + v0.toNat * 32768 + v1.toNat * 512 < 16777216 ∧ 0 < 524288 ∧
    ∀ W E : Nat, W % 16777216 = 2097152 + v0.toNat * 32768 + v1.toNat * 512 → E % 524288 = 0 →
      W / 2 ^ 21 % 2 ^ 3 ≠ 0 ∧ W / 2 ^ 21 % 2 ^ 3 = 1 ∧ W / 2 ^ 0 % 2 ^ 9 = 0 ∧ E / 2 ^ 0 % 2 ^ 19 = 0 ∧ W / 2 ^ 15 % 2 ^ 6 = v0.toNat ∧ W / 2 ^ 9 % 2 ^ 6 = v1.toNat := by
  have := v0.isLt; have := v1.isLt
  exact ⟨by omega, by omega, fun W E hf he => ⟨by omega, by omega, by omega, by omega, by omega, by omega⟩⟩

theorem layout_tlbiWindow (v0 : BitVec 6) :
    6291456 + v0.toNat * 32768 < 16777216 ∧ 0 < 524288 ∧
    ∀ W E : Nat, W % 16777216 = 6291456 + v0.toNat * 32768 → E % 524288 = 0 →
      W / 2 ^ 21 % 2 ^ 3 ≠ 0 ∧ W / 2 ^ 21 % 2 ^ 3 ≠ 1 ∧ W / 2 ^ 21 % 2 ^ 3 ≠ 2 ∧ W / 2 ^ 21 % 2 ^ 3 = 3 ∧ W / 2 ^ 0 % 2 ^ 15 = 0 ∧ E / 2 ^ 0 % 2 ^ 19 = 0 ∧ W / 2 ^ 15 % 2 ^ 6 = v0.toNat := by
  have := v0.isLt
  exact ⟨by omega, by omega, fun W E hf he => ⟨by omega, by omega, by omega, by omega, by omega, by omega, by omega⟩⟩

theorem layout_tlbiHost (v0 : BitVec 6) (v1 : BitVec 6) :
    10485760 + v0.toNat * 32768 + v1.toNat * 512 < 16777216 ∧ 0 < 524288 ∧
    ∀ W E : Nat, W % 16777216 = 10485760 + v0.toNat * 32768 + v1.toNat * 512 → E % 524288 = 0 →
      W / 2 ^ 21 % 2 ^ 3 ≠ 0 ∧ W / 2 ^ 21 % 2 ^ 3 ≠ 1 ∧ W / 2 ^ 21 % 2 ^ 3 ≠ 2 ∧ W / 2 ^ 21 % 2 ^ 3 ≠ 3 ∧ W / 2 ^ 21 % 2 ^ 3 ≠ 4 ∧ W / 2 ^ 21 % 2 ^ 3 = 5 ∧ W / 2 ^ 0 % 2 ^ 9 = 0 ∧ E / 2 ^ 0 % 2 ^ 19 = 0 ∧ W / 2 ^ 15 % 2 ^ 6 = v0.toNat ∧ W / 2 ^ 9 % 2 ^ 6 = v1.toNat := by
  have := v0.isLt; have := v1.isLt
  exact ⟨by omega, by omega, fun W E hf he => ⟨by omega, by omega, by omega, by omega, by omega, by omega, by omega, by omega, by omega, by omega⟩⟩

theorem layout_mma (v0 : BitVec 4) (v1 : BitVec 5) (v2 : BitVec 5) (v3 : BitVec 4) (v4 : Bool) (v5 : Bool) (v6 : BitVec 7) (v7 : BitVec 7) :
    v0.toNat * 1048576 + v1.toNat * 16384 + v2.toNat * 256 + v3.toNat * 16 + v4.toNat * 8 + v5.toNat * 4 < 16777216 ∧ v6.toNat * 128 + v7.toNat < 524288 ∧
    ∀ W E : Nat, W % 16777216 = v0.toNat * 1048576 + v1.toNat * 16384 + v2.toNat * 256 + v3.toNat * 16 + v4.toNat * 8 + v5.toNat * 4 → E % 524288 = v6.toNat * 128 + v7.toNat →
      W / 2 ^ 0 % 2 ^ 2 = 0 ∧ W / 2 ^ 13 % 2 ^ 1 = 0 ∧ W / 2 ^ 19 % 2 ^ 1 = 0 ∧ E / 2 ^ 14 % 2 ^ 5 = 0 ∧ W / 2 ^ 20 % 2 ^ 4 = v0.toNat ∧ W / 2 ^ 14 % 2 ^ 5 = v1.toNat ∧ W / 2 ^ 8 % 2 ^ 5 = v2.toNat ∧ W / 2 ^ 4 % 2 ^ 4 = v3.toNat ∧ W / 2 ^ 3 % 2 = v4.toNat ∧ W / 2 ^ 2 % 2 = v5.toNat ∧ E / 2 ^ 7 % 2 ^ 7 = v6.toNat ∧ E / 2 ^ 0 % 2 ^ 7 = v7.toNat := by
  have := v0.isLt; have := v1.isLt; have := v2.isLt; have := v3.isLt; have := v4.toNat_lt; have := v5.toNat_lt
  have := v6.isLt; have := v7.isLt
  exact ⟨by omega, by omega, fun W E hf he => ⟨by omega, by omega, by omega, by omega, by omega, by omega, by omega, by omega, by omega, by omega, by omega, by omega⟩⟩

theorem layout_mmaq (v0 : BitVec 4) (v1 : BitVec 5) (v2 : BitVec 5) (v3 : BitVec 6) (v4 : Bool) (v5 : Bool) (v6 : BitVec 7) (v7 : BitVec 7) :
    v0.toNat * 1048576 + v1.toNat * 16384 + v2.toNat * 256 + v3.toNat * 4 + v4.toNat * 2 + v5.toNat < 16777216 ∧ v6.toNat * 128 + v7.toNat < 524288 ∧
    ∀ W E : Nat, W % 16777216 = v0.toNat * 1048576 + v1.toNat * 16384 + v2.toNat * 256 + v3.toNat * 4 + v4.toNat * 2 + v5.toNat → E % 524288 = v6.toNat * 128 + v7.toNat →
      W / 2 ^ 13 % 2 ^ 1 = 0 ∧ W / 2 ^ 19 % 2 ^ 1 = 0 ∧ E / 2 ^ 14 % 2 ^ 5 = 0 ∧ W / 2 ^ 20 % 2 ^ 4 = v0.toNat ∧ W / 2 ^ 14 % 2 ^ 5 = v1.toNat ∧ W / 2 ^ 8 % 2 ^ 5 = v2.toNat ∧ W / 2 ^ 2 % 2 ^ 6 = v3.toNat ∧ W / 2 ^ 1 % 2 = v4.toNat ∧ W / 2 ^ 0 % 2 = v5.toNat ∧ E / 2 ^ 7 % 2 ^ 7 = v6.toNat ∧ E / 2 ^ 0 % 2 ^ 7 = v7.toNat := by
  have := v0.isLt; have := v1.isLt; have := v2.isLt; have := v3.isLt; have := v4.toNat_lt; have := v5.toNat_lt
  have := v6.isLt; have := v7.isLt
  exact ⟨by omega, by omega, fun W E hf he => ⟨by omega, by omega, by omega, by omega, by omega, by omega, by omega, by omega, by omega, by omega, by omega⟩⟩

theorem layout_mzero (v0 : BitVec 16) :
    v0.toNat * 256 < 16777216 ∧ 0 < 524288 ∧
    ∀ W E : Nat, W % 16777216 = v0.toNat * 256 → E % 524288 = 0 →
      W / 2 ^ 0 % 2 ^ 8 = 0 ∧ E / 2 ^ 0 % 2 ^ 19 = 0 ∧ W / 2 ^ 8 % 2 ^ 16 = v0.toNat := by
  have := v0.isLt
  exact ⟨by omega, by omega, fun W E hf he => ⟨by omega, by omega, by omega⟩⟩

theorem layout_mrank (v0 : BitVec 4) (v1 : BitVec 6) (v2 : Bool) :
    v0.toNat * 1048576 + v1.toNat * 16384 + v2.toNat * 8192 < 16777216 ∧ 0 < 524288 ∧
    ∀ W E : Nat, W % 16777216 = v0.toNat * 1048576 + v1.toNat * 16384 + v2.toNat * 8192 → E % 524288 = 0 →
      W / 2 ^ 0 % 2 ^ 13 = 0 ∧ E / 2 ^ 0 % 2 ^ 19 = 0 ∧ W / 2 ^ 20 % 2 ^ 4 = v0.toNat ∧ W / 2 ^ 14 % 2 ^ 6 = v1.toNat ∧ W / 2 ^ 13 % 2 = v2.toNat := by
  have := v0.isLt; have := v1.isLt; have := v2.toNat_lt
  exact ⟨by omega, by omega, fun W E hf he => ⟨by omega, by omega, by omega, by omega, by omega⟩⟩

theorem layout_mkat (v0 : BitVec 8) (v1 : BitVec 16) :
    v0.toNat * 65536 + v1.toNat < 16777216 ∧ 0 < 524288 ∧
    ∀ W E : Nat, W % 16777216 = v0.toNat * 65536 + v1.toNat → E % 524288 = 0 →
      E / 2 ^ 0 % 2 ^ 19 = 0 ∧ W / 2 ^ 16 % 2 ^ 8 = v0.toNat ∧ W / 2 ^ 0 % 2 ^ 16 = v1.toNat := by
  have := v0.isLt; have := v1.isLt
  exact ⟨by omega, by omega, fun W E hf he => ⟨by omega, by omega, by omega⟩⟩

theorem layout_mpop (v0 : BitVec 6) (v1 : BitVec 8) :
    v0.toNat * 262144 + v1.toNat * 1024 < 16777216 ∧ 0 < 524288 ∧
    ∀ W E : Nat, W % 16777216 = v0.toNat * 262144 + v1.toNat * 1024 → E % 524288 = 0 →
      W / 2 ^ 0 % 2 ^ 10 = 0 ∧ E / 2 ^ 0 % 2 ^ 19 = 0 ∧ W / 2 ^ 18 % 2 ^ 6 = v0.toNat ∧ W / 2 ^ 10 % 2 ^ 8 = v1.toNat := by
  have := v0.isLt; have := v1.isLt
  exact ⟨by omega, by omega, fun W E hf he => ⟨by omega, by omega, by omega, by omega⟩⟩

theorem layout_maddt (v0 : BitVec 4) (v1 : BitVec 4) (v2 : Bool) :
    v0.toNat * 1048576 + v1.toNat * 65536 + v2.toNat * 32768 < 16777216 ∧ 0 < 524288 ∧
    ∀ W E : Nat, W % 16777216 = v0.toNat * 1048576 + v1.toNat * 65536 + v2.toNat * 32768 → E % 524288 = 0 →
      W / 2 ^ 0 % 2 ^ 15 = 0 ∧ E / 2 ^ 0 % 2 ^ 19 = 0 ∧ W / 2 ^ 20 % 2 ^ 4 = v0.toNat ∧ W / 2 ^ 16 % 2 ^ 4 = v1.toNat ∧ W / 2 ^ 15 % 2 = v2.toNat := by
  have := v0.isLt; have := v1.isLt; have := v2.toNat_lt
  exact ⟨by omega, by omega, fun W E hf he => ⟨by omega, by omega, by omega, by omega, by omega⟩⟩

theorem layout_mcopy (v0 : BitVec 4) (v1 : BitVec 4) :
    v0.toNat * 1048576 + v1.toNat * 65536 < 16777216 ∧ 0 < 524288 ∧
    ∀ W E : Nat, W % 16777216 = v0.toNat * 1048576 + v1.toNat * 65536 → E % 524288 = 0 →
      W / 2 ^ 0 % 2 ^ 16 = 0 ∧ E / 2 ^ 0 % 2 ^ 19 = 0 ∧ W / 2 ^ 20 % 2 ^ 4 = v0.toNat ∧ W / 2 ^ 16 % 2 ^ 4 = v1.toNat := by
  have := v0.isLt; have := v1.isLt
  exact ⟨by omega, by omega, fun W E hf he => ⟨by omega, by omega, by omega, by omega⟩⟩

theorem layout_mthr (v0 : BitVec 6) (v1 : BitVec 4) (v2 : BitVec 7) (v3 : BitVec 7) :
    v0.toNat * 262144 + v1.toNat * 16384 + v2.toNat * 128 + v3.toNat < 16777216 ∧ 0 < 524288 ∧
    ∀ W E : Nat, W % 16777216 = v0.toNat * 262144 + v1.toNat * 16384 + v2.toNat * 128 + v3.toNat → E % 524288 = 0 →
      E / 2 ^ 0 % 2 ^ 19 = 0 ∧ W / 2 ^ 18 % 2 ^ 6 = v0.toNat ∧ W / 2 ^ 14 % 2 ^ 4 = v1.toNat ∧ W / 2 ^ 7 % 2 ^ 7 = v2.toNat ∧ W / 2 ^ 0 % 2 ^ 7 = v3.toNat := by
  have := v0.isLt; have := v1.isLt; have := v2.isLt; have := v3.isLt
  exact ⟨by omega, by omega, fun W E hf he => ⟨by omega, by omega, by omega, by omega, by omega⟩⟩

theorem layout_vadd (v0 : BitVec 5) (v1 : BitVec 5) (v2 : BitVec 6) (v3 : BitVec 3) (v4 : Bool) :
    v0.toNat * 262144 + v1.toNat * 4096 + v2.toNat * 64 + v3.toNat * 8 + v4.toNat * 4 < 16777216 ∧ 0 < 524288 ∧
    ∀ W E : Nat, W % 16777216 = v0.toNat * 262144 + v1.toNat * 4096 + v2.toNat * 64 + v3.toNat * 8 + v4.toNat * 4 → E % 524288 = 0 →
      W / 2 ^ 0 % 2 ^ 2 = 0 ∧ W / 2 ^ 17 % 2 ^ 1 = 0 ∧ W / 2 ^ 23 % 2 ^ 1 = 0 ∧ E / 2 ^ 0 % 2 ^ 19 = 0 ∧ W / 2 ^ 18 % 2 ^ 5 = v0.toNat ∧ W / 2 ^ 12 % 2 ^ 5 = v1.toNat ∧ W / 2 ^ 6 % 2 ^ 6 = v2.toNat ∧ W / 2 ^ 3 % 2 ^ 3 = v3.toNat ∧ W / 2 ^ 2 % 2 = v4.toNat := by
  have := v0.isLt; have := v1.isLt; have := v2.isLt; have := v3.isLt; have := v4.toNat_lt
  exact ⟨by omega, by omega, fun W E hf he => ⟨by omega, by omega, by omega, by omega, by omega, by omega, by omega, by omega, by omega⟩⟩

theorem layout_vabs (v0 : BitVec 5) (v1 : BitVec 5) (v2 : BitVec 3) :
    v0.toNat * 262144 + v1.toNat * 4096 + v2.toNat * 8 < 16777216 ∧ 0 < 524288 ∧
    ∀ W E : Nat, W % 16777216 = v0.toNat * 262144 + v1.toNat * 4096 + v2.toNat * 8 → E % 524288 = 0 →
      W / 2 ^ 0 % 2 ^ 3 = 0 ∧ W / 2 ^ 6 % 2 ^ 6 = 0 ∧ W / 2 ^ 17 % 2 ^ 1 = 0 ∧ W / 2 ^ 23 % 2 ^ 1 = 0 ∧ E / 2 ^ 0 % 2 ^ 19 = 0 ∧ W / 2 ^ 18 % 2 ^ 5 = v0.toNat ∧ W / 2 ^ 12 % 2 ^ 5 = v1.toNat ∧ W / 2 ^ 3 % 2 ^ 3 = v2.toNat := by
  have := v0.isLt; have := v1.isLt; have := v2.isLt
  exact ⟨by omega, by omega, fun W E hf he => ⟨by omega, by omega, by omega, by omega, by omega, by omega, by omega, by omega⟩⟩

theorem layout_vexp (v0 : BitVec 5) (v1 : BitVec 5) (v2 : BitVec 3) (v3 : Bool) :
    v0.toNat * 262144 + v1.toNat * 4096 + v2.toNat * 8 + v3.toNat < 16777216 ∧ 0 < 524288 ∧
    ∀ W E : Nat, W % 16777216 = v0.toNat * 262144 + v1.toNat * 4096 + v2.toNat * 8 + v3.toNat → E % 524288 = 0 →
      W / 2 ^ 1 % 2 ^ 2 = 0 ∧ W / 2 ^ 6 % 2 ^ 6 = 0 ∧ W / 2 ^ 17 % 2 ^ 1 = 0 ∧ W / 2 ^ 23 % 2 ^ 1 = 0 ∧ E / 2 ^ 0 % 2 ^ 19 = 0 ∧ W / 2 ^ 18 % 2 ^ 5 = v0.toNat ∧ W / 2 ^ 12 % 2 ^ 5 = v1.toNat ∧ W / 2 ^ 3 % 2 ^ 3 = v2.toNat ∧ W / 2 ^ 0 % 2 = v3.toNat := by
  have := v0.isLt; have := v1.isLt; have := v2.isLt; have := v3.toNat_lt
  exact ⟨by omega, by omega, fun W E hf he => ⟨by omega, by omega, by omega, by omega, by omega, by omega, by omega, by omega, by omega⟩⟩

theorem layout_vtblLoad (v0 : BitVec 5) (v1 : BitVec 2) :
    v0.toNat * 4096 + v1.toNat * 64 + 1 < 16777216 ∧ 0 < 524288 ∧
    ∀ W E : Nat, W % 16777216 = v0.toNat * 4096 + v1.toNat * 64 + 1 → E % 524288 = 0 →
      W / 2 ^ 0 % 2 ^ 1 = 1 ∧ W / 2 ^ 1 % 2 ^ 5 = 0 ∧ W / 2 ^ 8 % 2 ^ 4 = 0 ∧ W / 2 ^ 17 % 2 ^ 7 = 0 ∧ E / 2 ^ 0 % 2 ^ 19 = 0 ∧ W / 2 ^ 12 % 2 ^ 5 = v0.toNat ∧ W / 2 ^ 6 % 2 ^ 2 = v1.toNat := by
  have := v0.isLt; have := v1.isLt
  exact ⟨by omega, by omega, fun W E hf he => ⟨by omega, by omega, by omega, by omega, by omega, by omega, by omega⟩⟩

theorem layout_vtbl (v0 : BitVec 5) (v1 : BitVec 5) (v2 : BitVec 2) (v3 : BitVec 3) :
    v0.toNat * 262144 + v1.toNat * 4096 + v2.toNat * 64 + v3.toNat * 8 < 16777216 ∧ 0 < 524288 ∧
    ∀ W E : Nat, W % 16777216 = v0.toNat * 262144 + v1.toNat * 4096 + v2.toNat * 64 + v3.toNat * 8 → E % 524288 = 0 →
      W / 2 ^ 0 % 2 ^ 1 ≠ 1 ∧ W / 2 ^ 0 % 2 ^ 1 = 0 ∧ W / 2 ^ 1 % 2 ^ 2 = 0 ∧ W / 2 ^ 8 % 2 ^ 4 = 0 ∧ W / 2 ^ 17 % 2 ^ 1 = 0 ∧ W / 2 ^ 23 % 2 ^ 1 = 0 ∧ E / 2 ^ 0 % 2 ^ 19 = 0 ∧ W / 2 ^ 18 % 2 ^ 5 = v0.toNat ∧ W / 2 ^ 12 % 2 ^ 5 = v1.toNat ∧ W / 2 ^ 6 % 2 ^ 2 = v2.toNat ∧ W / 2 ^ 3 % 2 ^ 3 = v3.toNat := by
  have := v0.isLt; have := v1.isLt; have := v2.isLt; have := v3.isLt
  exact ⟨by omega, by omega, fun W E hf he => ⟨by omega, by omega, by omega, by omega, by omega, by omega, by omega, by omega, by omega, by omega, by omega⟩⟩

theorem layout_vcmp (v0 : BitVec 5) (v1 : BitVec 5) (v2 : BitVec 5) (v3 : BitVec 3) :
    v0.toNat * 262144 + v1.toNat * 4096 + v2.toNat * 64 + v3.toNat * 8 < 16777216 ∧ 0 < 524288 ∧
    ∀ W E : Nat, W % 16777216 = v0.toNat * 262144 + v1.toNat * 4096 + v2.toNat * 64 + v3.toNat * 8 → E % 524288 = 0 →
      W / 2 ^ 0 % 2 ^ 3 = 0 ∧ W / 2 ^ 11 % 2 ^ 1 = 0 ∧ W / 2 ^ 17 % 2 ^ 1 = 0 ∧ W / 2 ^ 23 % 2 ^ 1 = 0 ∧ E / 2 ^ 0 % 2 ^ 19 = 0 ∧ W / 2 ^ 18 % 2 ^ 5 = v0.toNat ∧ W / 2 ^ 12 % 2 ^ 5 = v1.toNat ∧ W / 2 ^ 6 % 2 ^ 5 = v2.toNat ∧ W / 2 ^ 3 % 2 ^ 3 = v3.toNat := by
  have := v0.isLt; have := v1.isLt; have := v2.isLt; have := v3.isLt
  exact ⟨by omega, by omega, fun W E hf he => ⟨by omega, by omega, by omega, by omega, by omega, by omega, by omega, by omega, by omega⟩⟩

theorem layout_vsel (v0 : BitVec 5) (v1 : BitVec 5) (v2 : BitVec 5) (v3 : BitVec 3) (v4 : BitVec 5) :
    v0.toNat * 262144 + v1.toNat * 4096 + v2.toNat * 64 + v3.toNat * 8 < 16777216 ∧ v4.toNat < 524288 ∧
    ∀ W E : Nat, W % 16777216 = v0.toNat * 262144 + v1.toNat * 4096 + v2.toNat * 64 + v3.toNat * 8 → E % 524288 = v4.toNat →
      W / 2 ^ 0 % 2 ^ 3 = 0 ∧ W / 2 ^ 11 % 2 ^ 1 = 0 ∧ W / 2 ^ 17 % 2 ^ 1 = 0 ∧ W / 2 ^ 23 % 2 ^ 1 = 0 ∧ E / 2 ^ 5 % 2 ^ 14 = 0 ∧ W / 2 ^ 18 % 2 ^ 5 = v0.toNat ∧ W / 2 ^ 12 % 2 ^ 5 = v1.toNat ∧ W / 2 ^ 6 % 2 ^ 5 = v2.toNat ∧ W / 2 ^ 3 % 2 ^ 3 = v3.toNat ∧ E / 2 ^ 0 % 2 ^ 5 = v4.toNat := by
  have := v0.isLt; have := v1.isLt; have := v2.isLt; have := v3.isLt; have := v4.isLt
  exact ⟨by omega, by omega, fun W E hf he => ⟨by omega, by omega, by omega, by omega, by omega, by omega, by omega, by omega, by omega, by omega⟩⟩

theorem layout_vred (v0 : BitVec 5) (v1 : BitVec 5) (v2 : BitVec 3) (v3 : BitVec 2) :
    v0.toNat * 262144 + v1.toNat * 4096 + v2.toNat * 8 + v3.toNat < 16777216 ∧ 0 < 524288 ∧
    ∀ W E : Nat, W % 16777216 = v0.toNat * 262144 + v1.toNat * 4096 + v2.toNat * 8 + v3.toNat → E % 524288 = 0 →
      W / 2 ^ 2 % 2 ^ 1 = 0 ∧ W / 2 ^ 6 % 2 ^ 6 = 0 ∧ W / 2 ^ 17 % 2 ^ 1 = 0 ∧ W / 2 ^ 23 % 2 ^ 1 = 0 ∧ E / 2 ^ 0 % 2 ^ 19 = 0 ∧ W / 2 ^ 18 % 2 ^ 5 = v0.toNat ∧ W / 2 ^ 12 % 2 ^ 5 = v1.toNat ∧ W / 2 ^ 3 % 2 ^ 3 = v2.toNat ∧ W / 2 ^ 0 % 2 ^ 2 = v3.toNat := by
  have := v0.isLt; have := v1.isLt; have := v2.isLt; have := v3.isLt
  exact ⟨by omega, by omega, fun W E hf he => ⟨by omega, by omega, by omega, by omega, by omega, by omega, by omega, by omega, by omega⟩⟩

theorem layout_vamax (v0 : BitVec 5) (v1 : BitVec 5) :
    v0.toNat * 262144 + v1.toNat * 4096 < 16777216 ∧ 0 < 524288 ∧
    ∀ W E : Nat, W % 16777216 = v0.toNat * 262144 + v1.toNat * 4096 → E % 524288 = 0 →
      W / 2 ^ 0 % 2 ^ 12 = 0 ∧ W / 2 ^ 17 % 2 ^ 1 = 0 ∧ W / 2 ^ 23 % 2 ^ 1 = 0 ∧ E / 2 ^ 0 % 2 ^ 19 = 0 ∧ W / 2 ^ 18 % 2 ^ 5 = v0.toNat ∧ W / 2 ^ 12 % 2 ^ 5 = v1.toNat := by
  have := v0.isLt; have := v1.isLt
  exact ⟨by omega, by omega, fun W E hf he => ⟨by omega, by omega, by omega, by omega, by omega, by omega⟩⟩

theorem layout_vhist (v0 : BitVec 5) (v1 : BitVec 5) (v2 : Bool) :
    v0.toNat * 262144 + v1.toNat * 4096 + v2.toNat < 16777216 ∧ 0 < 524288 ∧
    ∀ W E : Nat, W % 16777216 = v0.toNat * 262144 + v1.toNat * 4096 + v2.toNat → E % 524288 = 0 →
      W / 2 ^ 1 % 2 ^ 11 = 0 ∧ W / 2 ^ 17 % 2 ^ 1 = 0 ∧ W / 2 ^ 23 % 2 ^ 1 = 0 ∧ E / 2 ^ 0 % 2 ^ 19 = 0 ∧ W / 2 ^ 18 % 2 ^ 5 = v0.toNat ∧ W / 2 ^ 12 % 2 ^ 5 = v1.toNat ∧ W / 2 ^ 0 % 2 = v2.toNat := by
  have := v0.isLt; have := v1.isLt; have := v2.toNat_lt
  exact ⟨by omega, by omega, fun W E hf he => ⟨by omega, by omega, by omega, by omega, by omega, by omega, by omega⟩⟩

theorem layout_viota (v0 : BitVec 5) (v1 : BitVec 6) (v2 : BitVec 3) :
    v0.toNat * 262144 + v1.toNat * 64 + v2.toNat * 8 + 4 < 16777216 ∧ 0 < 524288 ∧
    ∀ W E : Nat, W % 16777216 = v0.toNat * 262144 + v1.toNat * 64 + v2.toNat * 8 + 4 → E % 524288 = 0 →
      W / 2 ^ 2 % 2 ^ 1 = 1 ∧ W / 2 ^ 0 % 2 ^ 2 = 0 ∧ W / 2 ^ 12 % 2 ^ 6 = 0 ∧ W / 2 ^ 23 % 2 ^ 1 = 0 ∧ E / 2 ^ 0 % 2 ^ 19 = 0 ∧ W / 2 ^ 18 % 2 ^ 5 = v0.toNat ∧ W / 2 ^ 6 % 2 ^ 6 = v1.toNat ∧ W / 2 ^ 3 % 2 ^ 3 = v2.toNat := by
  have := v0.isLt; have := v1.isLt; have := v2.isLt
  exact ⟨by omega, by omega, fun W E hf he => ⟨by omega, by omega, by omega, by omega, by omega, by omega, by omega, by omega⟩⟩

theorem layout_vmov (v0 : BitVec 5) (v1 : BitVec 5) :
    v0.toNat * 262144 + v1.toNat * 4096 < 16777216 ∧ 0 < 524288 ∧
    ∀ W E : Nat, W % 16777216 = v0.toNat * 262144 + v1.toNat * 4096 → E % 524288 = 0 →
      W / 2 ^ 2 % 2 ^ 1 = 0 ∧ W / 2 ^ 0 % 2 ^ 2 = 0 ∧ W / 2 ^ 3 % 2 ^ 9 = 0 ∧ W / 2 ^ 17 % 2 ^ 1 = 0 ∧ W / 2 ^ 23 % 2 ^ 1 = 0 ∧ E / 2 ^ 0 % 2 ^ 19 = 0 ∧ W / 2 ^ 18 % 2 ^ 5 = v0.toNat ∧ W / 2 ^ 12 % 2 ^ 5 = v1.toNat := by
  have := v0.isLt; have := v1.isLt
  exact ⟨by omega, by omega, fun W E hf he => ⟨by omega, by omega, by omega, by omega, by omega, by omega, by omega, by omega⟩⟩

theorem layout_vmovScalar (v0 : BitVec 5) (v1 : BitVec 6) :
    v0.toNat * 262144 + v1.toNat * 64 + 4 < 16777216 ∧ 0 < 524288 ∧
    ∀ W E : Nat, W % 16777216 = v0.toNat * 262144 + v1.toNat * 64 + 4 → E % 524288 = 0 →
      W / 2 ^ 2 % 2 ^ 1 ≠ 0 ∧ W / 2 ^ 2 % 2 ^ 1 = 1 ∧ W / 2 ^ 0 % 2 ^ 2 = 0 ∧ W / 2 ^ 3 % 2 ^ 3 = 0 ∧ W / 2 ^ 12 % 2 ^ 6 = 0 ∧ W / 2 ^ 23 % 2 ^ 1 = 0 ∧ E / 2 ^ 0 % 2 ^ 19 = 0 ∧ W / 2 ^ 18 % 2 ^ 5 = v0.toNat ∧ W / 2 ^ 6 % 2 ^ 6 = v1.toNat := by
  have := v0.isLt; have := v1.isLt
  exact ⟨by omega, by omega, fun W E hf he => ⟨by omega, by omega, by omega, by omega, by omega, by omega, by omega, by omega, by omega⟩⟩

theorem layout_vshuf (v0 : BitVec 5) (v1 : BitVec 5) (v2 : BitVec 5) :
    v0.toNat * 262144 + v1.toNat * 4096 + v2.toNat * 64 < 16777216 ∧ 0 < 524288 ∧
    ∀ W E : Nat, W % 16777216 = v0.toNat * 262144 + v1.toNat * 4096 + v2.toNat * 64 → E % 524288 = 0 →
      W / 2 ^ 0 % 2 ^ 6 = 0 ∧ W / 2 ^ 11 % 2 ^ 1 = 0 ∧ W / 2 ^ 17 % 2 ^ 1 = 0 ∧ W / 2 ^ 23 % 2 ^ 1 = 0 ∧ E / 2 ^ 0 % 2 ^ 19 = 0 ∧ W / 2 ^ 18 % 2 ^ 5 = v0.toNat ∧ W / 2 ^ 12 % 2 ^ 5 = v1.toNat ∧ W / 2 ^ 6 % 2 ^ 5 = v2.toNat := by
  have := v0.isLt; have := v1.isLt; have := v2.isLt
  exact ⟨by omega, by omega, fun W E hf he => ⟨by omega, by omega, by omega, by omega, by omega, by omega, by omega, by omega⟩⟩

theorem layout_ppack (v0 : BitVec 5) (v1 : BitVec 5) (v2 : BitVec 3) (v3 : Bool) :
    v0.toNat * 262144 + v1.toNat * 4096 + v2.toNat * 8 + v3.toNat * 4 < 16777216 ∧ 0 < 524288 ∧
    ∀ W E : Nat, W % 16777216 = v0.toNat * 262144 + v1.toNat * 4096 + v2.toNat * 8 + v3.toNat * 4 → E % 524288 = 0 →
      W / 2 ^ 0 % 2 ^ 2 = 0 ∧ W / 2 ^ 6 % 2 ^ 6 = 0 ∧ W / 2 ^ 17 % 2 ^ 1 = 0 ∧ W / 2 ^ 23 % 2 ^ 1 = 0 ∧ E / 2 ^ 0 % 2 ^ 19 = 0 ∧ W / 2 ^ 18 % 2 ^ 5 = v0.toNat ∧ W / 2 ^ 12 % 2 ^ 5 = v1.toNat ∧ W / 2 ^ 3 % 2 ^ 3 = v2.toNat ∧ W / 2 ^ 2 % 2 = v3.toNat := by
  have := v0.isLt; have := v1.isLt; have := v2.isLt; have := v3.toNat_lt
  exact ⟨by omega, by omega, fun W E hf he => ⟨by omega, by omega, by omega, by omega, by omega, by omega, by omega, by omega, by omega⟩⟩

theorem layout_pscale (v0 : BitVec 5) (v1 : BitVec 5) (v2 : BitVec 6) (v3 : BitVec 3) :
    v0.toNat * 262144 + v1.toNat * 4096 + v2.toNat * 64 + v3.toNat * 8 < 16777216 ∧ 0 < 524288 ∧
    ∀ W E : Nat, W % 16777216 = v0.toNat * 262144 + v1.toNat * 4096 + v2.toNat * 64 + v3.toNat * 8 → E % 524288 = 0 →
      W / 2 ^ 0 % 2 ^ 3 = 0 ∧ W / 2 ^ 17 % 2 ^ 1 = 0 ∧ W / 2 ^ 23 % 2 ^ 1 = 0 ∧ E / 2 ^ 0 % 2 ^ 19 = 0 ∧ W / 2 ^ 18 % 2 ^ 5 = v0.toNat ∧ W / 2 ^ 12 % 2 ^ 5 = v1.toNat ∧ W / 2 ^ 6 % 2 ^ 6 = v2.toNat ∧ W / 2 ^ 3 % 2 ^ 3 = v3.toNat := by
  have := v0.isLt; have := v1.isLt; have := v2.isLt; have := v3.isLt
  exact ⟨by omega, by omega, fun W E hf he => ⟨by omega, by omega, by omega, by omega, by omega, by omega, by omega, by omega⟩⟩

theorem layout_sseti (v0 : BitVec 4) (v1 : BitVec 8) :
    v0.toNat * 1048576 + v1.toNat * 4096 < 16777216 ∧ 0 < 524288 ∧
    ∀ W E : Nat, W % 16777216 = v0.toNat * 1048576 + v1.toNat * 4096 → E % 524288 = 0 →
      W / 2 ^ 0 % 2 ^ 12 = 0 ∧ E / 2 ^ 0 % 2 ^ 19 = 0 ∧ W / 2 ^ 20 % 2 ^ 4 = v0.toNat ∧ W / 2 ^ 12 % 2 ^ 8 = v1.toNat := by
  have := v0.isLt; have := v1.isLt
  exact ⟨by omega, by omega, fun W E hf he => ⟨by omega, by omega, by omega, by omega⟩⟩

theorem layout_smode (v0 : Bool) :
    v0.toNat < 16777216 ∧ 0 < 524288 ∧
    ∀ W E : Nat, W % 16777216 = v0.toNat → E % 524288 = 0 →
      W / 2 ^ 1 % 2 ^ 23 = 0 ∧ E / 2 ^ 0 % 2 ^ 19 = 0 ∧ W / 2 ^ 0 % 2 = v0.toNat := by
  have := v0.toNat_lt
  exact ⟨by omega, by omega, fun W E hf he => ⟨by omega, by omega, by omega⟩⟩

theorem layout_cpy (v0 : BitVec 5) (v1 : BitVec 5) (v2 : BitVec 6) (v3 : BitVec 3) (v4 : BitVec 2) (v5 : BitVec 16) :
    v0.toNat * 262144 + v1.toNat * 4096 + v2.toNat * 64 + v3.toNat * 8 < 16777216 ∧ v4.toNat * 131072 + v5.toNat < 524288 ∧
    ∀ W E : Nat, W % 16777216 = v0.toNat * 262144 + v1.toNat * 4096 + v2.toNat * 64 + v3.toNat * 8 → E % 524288 = v4.toNat * 131072 + v5.toNat →
      W / 2 ^ 0 % 2 ^ 3 = 0 ∧ W / 2 ^ 17 % 2 ^ 1 = 0 ∧ W / 2 ^ 23 % 2 ^ 1 = 0 ∧ E / 2 ^ 16 % 2 ^ 1 = 0 ∧ W / 2 ^ 18 % 2 ^ 5 = v0.toNat ∧ W / 2 ^ 12 % 2 ^ 5 = v1.toNat ∧ W / 2 ^ 6 % 2 ^ 6 = v2.toNat ∧ W / 2 ^ 3 % 2 ^ 3 = v3.toNat ∧ E / 2 ^ 17 % 2 ^ 2 = v4.toNat ∧ E / 2 ^ 0 % 2 ^ 16 = v5.toNat := by
  have := v0.isLt; have := v1.isLt; have := v2.isLt; have := v3.isLt; have := v4.isLt; have := v5.isLt
  exact ⟨by omega, by omega, fun W E hf he => ⟨by omega, by omega, by omega, by omega, by omega, by omega, by omega, by omega, by omega, by omega⟩⟩

theorem layout_drain (v0 : BitVec 5) (v1 : BitVec 4) (v2 : BitVec 6) (v3 : BitVec 3) (v4 : BitVec 2) (v5 : BitVec 16) :
    v0.toNat * 262144 + v1.toNat * 4096 + v2.toNat * 64 + v3.toNat * 8 < 16777216 ∧ v4.toNat * 131072 + v5.toNat < 524288 ∧
    ∀ W E : Nat, W % 16777216 = v0.toNat * 262144 + v1.toNat * 4096 + v2.toNat * 64 + v3.toNat * 8 → E % 524288 = v4.toNat * 131072 + v5.toNat →
      W / 2 ^ 0 % 2 ^ 3 = 0 ∧ W / 2 ^ 16 % 2 ^ 2 = 0 ∧ W / 2 ^ 23 % 2 ^ 1 = 0 ∧ E / 2 ^ 16 % 2 ^ 1 = 0 ∧ W / 2 ^ 18 % 2 ^ 5 = v0.toNat ∧ W / 2 ^ 12 % 2 ^ 4 = v1.toNat ∧ W / 2 ^ 6 % 2 ^ 6 = v2.toNat ∧ W / 2 ^ 3 % 2 ^ 3 = v3.toNat ∧ E / 2 ^ 17 % 2 ^ 2 = v4.toNat ∧ E / 2 ^ 0 % 2 ^ 16 = v5.toNat := by
  have := v0.isLt; have := v1.isLt; have := v2.isLt; have := v3.isLt; have := v4.isLt; have := v5.isLt
  exact ⟨by omega, by omega, fun W E hf he => ⟨by omega, by omega, by omega, by omega, by omega, by omega, by omega, by omega, by omega, by omega⟩⟩

theorem layout_drainkMerge (v0 : BitVec 4) (v1 : BitVec 4) (v2 : BitVec 6) (v3 : BitVec 3) :
    v0.toNat * 262144 + v1.toNat * 4096 + v2.toNat * 64 + v3.toNat * 8 + 1 < 16777216 ∧ 0 < 524288 ∧
    ∀ W E : Nat, W % 16777216 = v0.toNat * 262144 + v1.toNat * 4096 + v2.toNat * 64 + v3.toNat * 8 + 1 → E % 524288 = 0 →
      W / 2 ^ 0 % 2 ^ 3 ≠ 0 ∧ W / 2 ^ 0 % 2 ^ 3 = 1 ∧ W / 2 ^ 16 % 2 ^ 2 = 0 ∧ W / 2 ^ 22 % 2 ^ 2 = 0 ∧ E / 2 ^ 0 % 2 ^ 19 = 0 ∧ W / 2 ^ 18 % 2 ^ 4 = v0.toNat ∧ W / 2 ^ 12 % 2 ^ 4 = v1.toNat ∧ W / 2 ^ 6 % 2 ^ 6 = v2.toNat ∧ W / 2 ^ 3 % 2 ^ 3 = v3.toNat := by
  have := v0.isLt; have := v1.isLt; have := v2.isLt; have := v3.isLt
  exact ⟨by omega, by omega, fun W E hf he => ⟨by omega, by omega, by omega, by omega, by omega, by omega, by omega, by omega, by omega⟩⟩

theorem layout_rmergeSw (v0 : BitVec 5) (v1 : BitVec 4) (v2 : BitVec 6) (v3 : BitVec 3) :
    v0.toNat * 262144 + v1.toNat * 4096 + v2.toNat * 64 + v3.toNat * 8 + 1 < 16777216 ∧ 0 < 524288 ∧
    ∀ W E : Nat, W % 16777216 = v0.toNat * 262144 + v1.toNat * 4096 + v2.toNat * 64 + v3.toNat * 8 + 1 → E % 524288 = 0 →
      W / 2 ^ 0 % 2 ^ 3 ≠ 0 ∧ W / 2 ^ 0 % 2 ^ 3 = 1 ∧ W / 2 ^ 16 % 2 ^ 2 = 0 ∧ W / 2 ^ 23 % 2 ^ 1 = 0 ∧ E / 2 ^ 0 % 2 ^ 19 = 0 ∧ W / 2 ^ 18 % 2 ^ 5 = v0.toNat ∧ W / 2 ^ 12 % 2 ^ 4 = v1.toNat ∧ W / 2 ^ 6 % 2 ^ 6 = v2.toNat ∧ W / 2 ^ 3 % 2 ^ 3 = v3.toNat := by
  have := v0.isLt; have := v1.isLt; have := v2.isLt; have := v3.isLt
  exact ⟨by omega, by omega, fun W E hf he => ⟨by omega, by omega, by omega, by omega, by omega, by omega, by omega, by omega, by omega⟩⟩

theorem layout_post (v0 : BitVec 8) (v1 : BitVec 6) :
    v0.toNat * 65536 + v1.toNat * 64 < 16777216 ∧ 0 < 524288 ∧
    ∀ W E : Nat, W % 16777216 = v0.toNat * 65536 + v1.toNat * 64 → E % 524288 = 0 →
      W / 2 ^ 0 % 2 ^ 6 = 0 ∧ W / 2 ^ 12 % 2 ^ 4 = 0 ∧ E / 2 ^ 0 % 2 ^ 19 = 0 ∧ W / 2 ^ 16 % 2 ^ 8 = v0.toNat ∧ W / 2 ^ 6 % 2 ^ 6 = v1.toNat := by
  have := v0.isLt; have := v1.isLt
  exact ⟨by omega, by omega, fun W E hf he => ⟨by omega, by omega, by omega, by omega, by omega⟩⟩

theorem layout_xcanCancel (v0 : BitVec 6) (v1 : BitVec 6) :
    v0.toNat * 262144 + v1.toNat * 4096 < 16777216 ∧ 0 < 524288 ∧
    ∀ W E : Nat, W % 16777216 = v0.toNat * 262144 + v1.toNat * 4096 → E % 524288 = 0 →
      W / 2 ^ 0 % 2 ^ 2 = 0 ∧ W / 2 ^ 2 % 2 ^ 10 = 0 ∧ E / 2 ^ 0 % 2 ^ 19 = 0 ∧ W / 2 ^ 18 % 2 ^ 6 = v0.toNat ∧ W / 2 ^ 12 % 2 ^ 6 = v1.toNat := by
  have := v0.isLt; have := v1.isLt
  exact ⟨by omega, by omega, fun W E hf he => ⟨by omega, by omega, by omega, by omega, by omega⟩⟩

theorem layout_xcanReplay (v0 : BitVec 6) (v1 : BitVec 6) :
    v0.toNat * 262144 + v1.toNat * 4096 + 1 < 16777216 ∧ 0 < 524288 ∧
    ∀ W E : Nat, W % 16777216 = v0.toNat * 262144 + v1.toNat * 4096 + 1 → E % 524288 = 0 →
      W / 2 ^ 0 % 2 ^ 2 ≠ 0 ∧ W / 2 ^ 0 % 2 ^ 2 = 1 ∧ W / 2 ^ 2 % 2 ^ 10 = 0 ∧ E / 2 ^ 0 % 2 ^ 19 = 0 ∧ W / 2 ^ 18 % 2 ^ 6 = v0.toNat ∧ W / 2 ^ 12 % 2 ^ 6 = v1.toNat := by
  have := v0.isLt; have := v1.isLt
  exact ⟨by omega, by omega, fun W E hf he => ⟨by omega, by omega, by omega, by omega, by omega, by omega⟩⟩

theorem layout_xcanAll (v0 : BitVec 6) :
    v0.toNat * 262144 + 2 < 16777216 ∧ 0 < 524288 ∧
    ∀ W E : Nat, W % 16777216 = v0.toNat * 262144 + 2 → E % 524288 = 0 →
      W / 2 ^ 0 % 2 ^ 2 ≠ 0 ∧ W / 2 ^ 0 % 2 ^ 2 ≠ 1 ∧ W / 2 ^ 0 % 2 ^ 2 = 2 ∧ W / 2 ^ 2 % 2 ^ 16 = 0 ∧ E / 2 ^ 0 % 2 ^ 19 = 0 ∧ W / 2 ^ 18 % 2 ^ 6 = v0.toNat := by
  have := v0.isLt
  exact ⟨by omega, by omega, fun W E hf he => ⟨by omega, by omega, by omega, by omega, by omega, by omega⟩⟩

theorem layout_nopAlu :
    0 < 16777216 ∧ 0 < 524288 ∧
    ∀ W E : Nat, W % 16777216 = 0 → E % 524288 = 0 →
      W / 2 ^ 0 % 2 ^ 24 = 0 ∧ E / 2 ^ 0 % 2 ^ 19 = 0 := by
  exact ⟨by omega, by omega, fun W E hf he => ⟨by omega, by omega⟩⟩

theorem layout_tlbiWorld :
    4194304 < 16777216 ∧ 0 < 524288 ∧
    ∀ W E : Nat, W % 16777216 = 4194304 → E % 524288 = 0 →
      W / 2 ^ 21 % 2 ^ 3 ≠ 0 ∧ W / 2 ^ 21 % 2 ^ 3 ≠ 1 ∧ W / 2 ^ 21 % 2 ^ 3 = 2 ∧ W / 2 ^ 0 % 2 ^ 21 = 0 ∧ E / 2 ^ 0 % 2 ^ 19 = 0 := by
  exact ⟨by omega, by omega, fun W E hf he => ⟨by omega, by omega, by omega, by omega, by omega⟩⟩

theorem layout_tlbiWindows :
    8388608 < 16777216 ∧ 0 < 524288 ∧
    ∀ W E : Nat, W % 16777216 = 8388608 → E % 524288 = 0 →
      W / 2 ^ 21 % 2 ^ 3 ≠ 0 ∧ W / 2 ^ 21 % 2 ^ 3 ≠ 1 ∧ W / 2 ^ 21 % 2 ^ 3 ≠ 2 ∧ W / 2 ^ 21 % 2 ^ 3 ≠ 3 ∧ W / 2 ^ 21 % 2 ^ 3 = 4 ∧ W / 2 ^ 0 % 2 ^ 21 = 0 ∧ E / 2 ^ 0 % 2 ^ 19 = 0 := by
  exact ⟨by omega, by omega, fun W E hf he => ⟨by omega, by omega, by omega, by omega, by omega, by omega, by omega⟩⟩

theorem add (d a b : BitVec 6) (w : Bool) : Statement (.add d a b w) := by
  have hs := layout_add d a b w
  refine statement_intro rfl (by decide) hs.1 hs.2.1 (fun hw x W E hc hf he hx => ?_)
  rw [ite_self] at he
  obtain ⟨g0, g1, g2, g3, g4, g5⟩ := hs.2.2 W E hf he
  change parseAlu x W E (W / 16777216 % 128) = _
  have hp : parseAlu x W E 0x01 = if zfe W 1 5 0 && zfe E 0 19 0 then some (.add (bf 6 W 18) (bf 6 W 12) (bf 6 W 6) (bb W 0)) else none := rfl
  rw [hc, hp, if_pos (and_true2 (zfe_eq g0) (zfe_eq g1)), bf_eq (v := d) g2, bf_eq (v := a) g3, bf_eq (v := b) g4, bb_eq (b := w) g5]

theorem sub (d a b : BitVec 6) (w : Bool) : Statement (.sub d a b w) := by
  have hs := layout_add d a b w
  refine statement_intro rfl (by decide) hs.1 hs.2.1 (fun hw x W E hc hf he hx => ?_)
  rw [ite_self] at he
  obtain ⟨g0, g1, g2, g3, g4, g5⟩ := hs.2.2 W E hf he
  change parseAlu x W E (W / 16777216 % 128) = _
  have hp : parseAlu x W E 0x02 = if zfe W 1 5 0 && zfe E 0 19 0 then some (.sub (bf 6 W 18) (bf 6 W 12) (bf 6 W 6) (bb W 0)) else none := rfl
  rw [hc, hp, if_pos (and_true2 (zfe_eq g0) (zfe_eq g1)), bf_eq (v := d) g2, bf_eq (v := a) g3, bf_eq (v := b) g4, bb_eq (b := w) g5]

theorem mul (d a b : BitVec 6) (w : Bool) : Statement (.mul d a b w) := by
  have hs := layout_add d a b w
  refine statement_intro rfl (by decide) hs.1 hs.2.1 (fun hw x W E hc hf he hx => ?_)
  rw [ite_self] at he
  obtain ⟨g0, g1, g2, g3, g4, g5⟩ := hs.2.2 W E hf he
  change parseAlu x W E (W / 16777216 % 128) = _
  have hp : parseAlu x W E 0x04 = if zfe W 1 5 0 && zfe E 0 19 0 then some (.mul (bf 6 W 18) (bf 6 W 12) (bf 6 W 6) (bb W 0)) else none := rfl
  rw [hc, hp, if_pos (and_true2 (zfe_eq g0) (zfe_eq g1)), bf_eq (v := d) g2, bf_eq (v := a) g3, bf_eq (v := b) g4, bb_eq (b := w) g5]

theorem mulh (d a b : BitVec 6) (w : Bool) : Statement (.mulh d a b w) := by
  have hs := layout_add d a b w
  refine statement_intro rfl (by decide) hs.1 hs.2.1 (fun hw x W E hc hf he hx => ?_)
  rw [ite_self] at he
  obtain ⟨g0, g1, g2, g3, g4, g5⟩ := hs.2.2 W E hf he
  change parseAlu x W E (W / 16777216 % 128) = _
  have hp : parseAlu x W E 0x05 = if zfe W 1 5 0 && zfe E 0 19 0 then some (.mulh (bf 6 W 18) (bf 6 W 12) (bf 6 W 6) (bb W 0)) else none := rfl
  rw [hc, hp, if_pos (and_true2 (zfe_eq g0) (zfe_eq g1)), bf_eq (v := d) g2, bf_eq (v := a) g3, bf_eq (v := b) g4, bb_eq (b := w) g5]

theorem mulhu (d a b : BitVec 6) (w : Bool) : Statement (.mulhu d a b w) := by
  have hs := layout_add d a b w
  refine statement_intro rfl (by decide) hs.1 hs.2.1 (fun hw x W E hc hf he hx => ?_)
  rw [ite_self] at he
  obtain ⟨g0, g1, g2, g3, g4, g5⟩ := hs.2.2 W E hf he
  change parseAlu x W E (W / 16777216 % 128) = _
  have hp : parseAlu x W E 0x06 = if zfe W 1 5 0 && zfe E 0 19 0 then some (.mulhu (bf 6 W 18) (bf 6 W 12) (bf 6 W 6) (bb W 0)) else none := rfl
  rw [hc, hp, if_pos (and_true2 (zfe_eq g0) (zfe_eq g1)), bf_eq (v := d) g2, bf_eq (v := a) g3, bf_eq (v := b) g4, bb_eq (b := w) g5]

theorem div (d a b : BitVec 6) (w : Bool) : Statement (.div d a b w) := by
  have hs := layout_add d a b w
  refine statement_intro rfl (by decide) hs.1 hs.2.1 (fun hw x W E hc hf he hx => ?_)
  rw [ite_self] at he
  obtain ⟨g0, g1, g2, g3, g4, g5⟩ := hs.2.2 W E hf he
  change parseAlu x W E (W / 16777216 % 128) = _
  have hp : parseAlu x W E 0x08 = if zfe W 1 5 0 && zfe E 0 19 0 then some (.div (bf 6 W 18) (bf 6 W 12) (bf 6 W 6) (bb W 0)) else none := rfl
  rw [hc, hp, if_pos (and_true2 (zfe_eq g0) (zfe_eq g1)), bf_eq (v := d) g2, bf_eq (v := a) g3, bf_eq (v := b) g4, bb_eq (b := w) g5]

theorem divu (d a b : BitVec 6) (w : Bool) : Statement (.divu d a b w) := by
  have hs := layout_add d a b w
  refine statement_intro rfl (by decide) hs.1 hs.2.1 (fun hw x W E hc hf he hx => ?_)
  rw [ite_self] at he
  obtain ⟨g0, g1, g2, g3, g4, g5⟩ := hs.2.2 W E hf he
  change parseAlu x W E (W / 16777216 % 128) = _
  have hp : parseAlu x W E 0x09 = if zfe W 1 5 0 && zfe E 0 19 0 then some (.divu (bf 6 W 18) (bf 6 W 12) (bf 6 W 6) (bb W 0)) else none := rfl
  rw [hc, hp, if_pos (and_true2 (zfe_eq g0) (zfe_eq g1)), bf_eq (v := d) g2, bf_eq (v := a) g3, bf_eq (v := b) g4, bb_eq (b := w) g5]

theorem rem (d a b : BitVec 6) (w : Bool) : Statement (.rem d a b w) := by
  have hs := layout_add d a b w
  refine statement_intro rfl (by decide) hs.1 hs.2.1 (fun hw x W E hc hf he hx => ?_)
  rw [ite_self] at he
  obtain ⟨g0, g1, g2, g3, g4, g5⟩ := hs.2.2 W E hf he
  change parseAlu x W E (W / 16777216 % 128) = _
  have hp : parseAlu x W E 0x0a = if zfe W 1 5 0 && zfe E 0 19 0 then some (.rem (bf 6 W 18) (bf 6 W 12) (bf 6 W 6) (bb W 0)) else none := rfl
  rw [hc, hp, if_pos (and_true2 (zfe_eq g0) (zfe_eq g1)), bf_eq (v := d) g2, bf_eq (v := a) g3, bf_eq (v := b) g4, bb_eq (b := w) g5]

theorem remu (d a b : BitVec 6) (w : Bool) : Statement (.remu d a b w) := by
  have hs := layout_add d a b w
  refine statement_intro rfl (by decide) hs.1 hs.2.1 (fun hw x W E hc hf he hx => ?_)
  rw [ite_self] at he
  obtain ⟨g0, g1, g2, g3, g4, g5⟩ := hs.2.2 W E hf he
  change parseAlu x W E (W / 16777216 % 128) = _
  have hp : parseAlu x W E 0x0b = if zfe W 1 5 0 && zfe E 0 19 0 then some (.remu (bf 6 W 18) (bf 6 W 12) (bf 6 W 6) (bb W 0)) else none := rfl
  rw [hc, hp, if_pos (and_true2 (zfe_eq g0) (zfe_eq g1)), bf_eq (v := d) g2, bf_eq (v := a) g3, bf_eq (v := b) g4, bb_eq (b := w) g5]

theorem shl (d a b : BitVec 6) (w : Bool) : Statement (.shl d a b w) := by
  have hs := layout_add d a b w
  refine statement_intro rfl (by decide) hs.1 hs.2.1 (fun hw x W E hc hf he hx => ?_)
  rw [ite_self] at he
  obtain ⟨g0, g1, g2, g3, g4, g5⟩ := hs.2.2 W E hf he
  change parseAlu x W E (W / 16777216 % 128) = _
  have hp : parseAlu x W E 0x13 = if zfe W 1 5 0 && zfe E 0 19 0 then some (.shl (bf 6 W 18) (bf 6 W 12) (bf 6 W 6) (bb W 0)) else none := rfl
  rw [hc, hp, if_pos (and_true2 (zfe_eq g0) (zfe_eq g1)), bf_eq (v := d) g2, bf_eq (v := a) g3, bf_eq (v := b) g4, bb_eq (b := w) g5]

theorem shr (d a b : BitVec 6) (w : Bool) : Statement (.shr d a b w) := by
  have hs := layout_add d a b w
  refine statement_intro rfl (by decide) hs.1 hs.2.1 (fun hw x W E hc hf he hx => ?_)
  rw [ite_self] at he
  obtain ⟨g0, g1, g2, g3, g4, g5⟩ := hs.2.2 W E hf he
  change parseAlu x W E (W / 16777216 % 128) = _
  have hp : parseAlu x W E 0x14 = if zfe W 1 5 0 && zfe E 0 19 0 then some (.shr (bf 6 W 18) (bf 6 W 12) (bf 6 W 6) (bb W 0)) else none := rfl
  rw [hc, hp, if_pos (and_true2 (zfe_eq g0) (zfe_eq g1)), bf_eq (v := d) g2, bf_eq (v := a) g3, bf_eq (v := b) g4, bb_eq (b := w) g5]

theorem sra (d a b : BitVec 6) (w : Bool) : Statement (.sra d a b w) := by
  have hs := layout_add d a b w
  refine statement_intro rfl (by decide) hs.1 hs.2.1 (fun hw x W E hc hf he hx => ?_)
  rw [ite_self] at he
  obtain ⟨g0, g1, g2, g3, g4, g5⟩ := hs.2.2 W E hf he
  change parseAlu x W E (W / 16777216 % 128) = _
  have hp : parseAlu x W E 0x15 = if zfe W 1 5 0 && zfe E 0 19 0 then some (.sra (bf 6 W 18) (bf 6 W 12) (bf 6 W 6) (bb W 0)) else none := rfl
  rw [hc, hp, if_pos (and_true2 (zfe_eq g0) (zfe_eq g1)), bf_eq (v := d) g2, bf_eq (v := a) g3, bf_eq (v := b) g4, bb_eq (b := w) g5]

theorem ror (d a b : BitVec 6) (w : Bool) : Statement (.ror d a b w) := by
  have hs := layout_add d a b w
  refine statement_intro rfl (by decide) hs.1 hs.2.1 (fun hw x W E hc hf he hx => ?_)
  rw [ite_self] at he
  obtain ⟨g0, g1, g2, g3, g4, g5⟩ := hs.2.2 W E hf he
  change parseAlu x W E (W / 16777216 % 128) = _
  have hp : parseAlu x W E 0x19 = if zfe W 1 5 0 && zfe E 0 19 0 then some (.ror (bf 6 W 18) (bf 6 W 12) (bf 6 W 6) (bb W 0)) else none := rfl
  rw [hc, hp, if_pos (and_true2 (zfe_eq g0) (zfe_eq g1)), bf_eq (v := d) g2, bf_eq (v := a) g3, bf_eq (v := b) g4, bb_eq (b := w) g5]

theorem min (d a b : BitVec 6) (w : Bool) : Statement (.min d a b w) := by
  have hs := layout_add d a b w
  refine statement_intro rfl (by decide) hs.1 hs.2.1 (fun hw x W E hc hf he hx => ?_)
  rw [ite_self] at he
  obtain ⟨g0, g1, g2, g3, g4, g5⟩ := hs.2.2 W E hf he
  change parseAlu x W E (W / 16777216 % 128) = _
  have hp : parseAlu x W E 0x1d = if zfe W 1 5 0 && zfe E 0 19 0 then some (.min (bf 6 W 18) (bf 6 W 12) (bf 6 W 6) (bb W 0)) else none := rfl
  rw [hc, hp, if_pos (and_true2 (zfe_eq g0) (zfe_eq g1)), bf_eq (v := d) g2, bf_eq (v := a) g3, bf_eq (v := b) g4, bb_eq (b := w) g5]

theorem max (d a b : BitVec 6) (w : Bool) : Statement (.max d a b w) := by
  have hs := layout_add d a b w
  refine statement_intro rfl (by decide) hs.1 hs.2.1 (fun hw x W E hc hf he hx => ?_)
  rw [ite_self] at he
  obtain ⟨g0, g1, g2, g3, g4, g5⟩ := hs.2.2 W E hf he
  change parseAlu x W E (W / 16777216 % 128) = _
  have hp : parseAlu x W E 0x1e = if zfe W 1 5 0 && zfe E 0 19 0 then some (.max (bf 6 W 18) (bf 6 W 12) (bf 6 W 6) (bb W 0)) else none := rfl
  rw [hc, hp, if_pos (and_true2 (zfe_eq g0) (zfe_eq g1)), bf_eq (v := d) g2, bf_eq (v := a) g3, bf_eq (v := b) g4, bb_eq (b := w) g5]

theorem minu (d a b : BitVec 6) (w : Bool) : Statement (.minu d a b w) := by
  have hs := layout_add d a b w
  refine statement_intro rfl (by decide) hs.1 hs.2.1 (fun hw x W E hc hf he hx => ?_)
  rw [ite_self] at he
  obtain ⟨g0, g1, g2, g3, g4, g5⟩ := hs.2.2 W E hf he
  change parseAlu x W E (W / 16777216 % 128) = _
  have hp : parseAlu x W E 0x1f = if zfe W 1 5 0 && zfe E 0 19 0 then some (.minu (bf 6 W 18) (bf 6 W 12) (bf 6 W 6) (bb W 0)) else none := rfl
  rw [hc, hp, if_pos (and_true2 (zfe_eq g0) (zfe_eq g1)), bf_eq (v := d) g2, bf_eq (v := a) g3, bf_eq (v := b) g4, bb_eq (b := w) g5]

theorem maxu (d a b : BitVec 6) (w : Bool) : Statement (.maxu d a b w) := by
  have hs := layout_add d a b w
  refine statement_intro rfl (by decide) hs.1 hs.2.1 (fun hw x W E hc hf he hx => ?_)
  rw [ite_self] at he
  obtain ⟨g0, g1, g2, g3, g4, g5⟩ := hs.2.2 W E hf he
  change parseAlu x W E (W / 16777216 % 128) = _
  have hp : parseAlu x W E 0x20 = if zfe W 1 5 0 && zfe E 0 19 0 then some (.maxu (bf 6 W 18) (bf 6 W 12) (bf 6 W 6) (bb W 0)) else none := rfl
  rw [hc, hp, if_pos (and_true2 (zfe_eq g0) (zfe_eq g1)), bf_eq (v := d) g2, bf_eq (v := a) g3, bf_eq (v := b) g4, bb_eq (b := w) g5]

theorem seq (d a b : BitVec 6) (w : Bool) : Statement (.seq d a b w) := by
  have hs := layout_add d a b w
  refine statement_intro rfl (by decide) hs.1 hs.2.1 (fun hw x W E hc hf he hx => ?_)
  rw [ite_self] at he
  obtain ⟨g0, g1, g2, g3, g4, g5⟩ := hs.2.2 W E hf he
  change parseAlu x W E (W / 16777216 % 128) = _
  have hp : parseAlu x W E 0x21 = if zfe W 1 5 0 && zfe E 0 19 0 then some (.seq (bf 6 W 18) (bf 6 W 12) (bf 6 W 6) (bb W 0)) else none := rfl
  rw [hc, hp, if_pos (and_true2 (zfe_eq g0) (zfe_eq g1)), bf_eq (v := d) g2, bf_eq (v := a) g3, bf_eq (v := b) g4, bb_eq (b := w) g5]

theorem sne (d a b : BitVec 6) (w : Bool) : Statement (.sne d a b w) := by
  have hs := layout_add d a b w
  refine statement_intro rfl (by decide) hs.1 hs.2.1 (fun hw x W E hc hf he hx => ?_)
  rw [ite_self] at he
  obtain ⟨g0, g1, g2, g3, g4, g5⟩ := hs.2.2 W E hf he
  change parseAlu x W E (W / 16777216 % 128) = _
  have hp : parseAlu x W E 0x22 = if zfe W 1 5 0 && zfe E 0 19 0 then some (.sne (bf 6 W 18) (bf 6 W 12) (bf 6 W 6) (bb W 0)) else none := rfl
  rw [hc, hp, if_pos (and_true2 (zfe_eq g0) (zfe_eq g1)), bf_eq (v := d) g2, bf_eq (v := a) g3, bf_eq (v := b) g4, bb_eq (b := w) g5]

theorem slt (d a b : BitVec 6) (w : Bool) : Statement (.slt d a b w) := by
  have hs := layout_add d a b w
  refine statement_intro rfl (by decide) hs.1 hs.2.1 (fun hw x W E hc hf he hx => ?_)
  rw [ite_self] at he
  obtain ⟨g0, g1, g2, g3, g4, g5⟩ := hs.2.2 W E hf he
  change parseAlu x W E (W / 16777216 % 128) = _
  have hp : parseAlu x W E 0x23 = if zfe W 1 5 0 && zfe E 0 19 0 then some (.slt (bf 6 W 18) (bf 6 W 12) (bf 6 W 6) (bb W 0)) else none := rfl
  rw [hc, hp, if_pos (and_true2 (zfe_eq g0) (zfe_eq g1)), bf_eq (v := d) g2, bf_eq (v := a) g3, bf_eq (v := b) g4, bb_eq (b := w) g5]

theorem sltu (d a b : BitVec 6) (w : Bool) : Statement (.sltu d a b w) := by
  have hs := layout_add d a b w
  refine statement_intro rfl (by decide) hs.1 hs.2.1 (fun hw x W E hc hf he hx => ?_)
  rw [ite_self] at he
  obtain ⟨g0, g1, g2, g3, g4, g5⟩ := hs.2.2 W E hf he
  change parseAlu x W E (W / 16777216 % 128) = _
  have hp : parseAlu x W E 0x24 = if zfe W 1 5 0 && zfe E 0 19 0 then some (.sltu (bf 6 W 18) (bf 6 W 12) (bf 6 W 6) (bb W 0)) else none := rfl
  rw [hc, hp, if_pos (and_true2 (zfe_eq g0) (zfe_eq g1)), bf_eq (v := d) g2, bf_eq (v := a) g3, bf_eq (v := b) g4, bb_eq (b := w) g5]

theorem and (d a b : BitVec 6) : Statement (.and d a b) := by
  have hs := layout_and d a b
  refine statement_intro rfl (by decide) hs.1 hs.2.1 (fun hw x W E hc hf he hx => ?_)
  rw [ite_self] at he
  obtain ⟨g0, g1, g2, g3, g4⟩ := hs.2.2 W E hf he
  change parseAlu x W E (W / 16777216 % 128) = _
  have hp : parseAlu x W E 0x0c = if zfe W 0 6 0 && zfe E 0 19 0 then some (.and (bf 6 W 18) (bf 6 W 12) (bf 6 W 6)) else none := rfl
  rw [hc, hp, if_pos (and_true2 (zfe_eq g0) (zfe_eq g1)), bf_eq (v := d) g2, bf_eq (v := a) g3, bf_eq (v := b) g4]

theorem or (d a b : BitVec 6) : Statement (.or d a b) := by
  have hs := layout_and d a b
  refine statement_intro rfl (by decide) hs.1 hs.2.1 (fun hw x W E hc hf he hx => ?_)
  rw [ite_self] at he
  obtain ⟨g0, g1, g2, g3, g4⟩ := hs.2.2 W E hf he
  change parseAlu x W E (W / 16777216 % 128) = _
  have hp : parseAlu x W E 0x0d = if zfe W 0 6 0 && zfe E 0 19 0 then some (.or (bf 6 W 18) (bf 6 W 12) (bf 6 W 6)) else none := rfl
  rw [hc, hp, if_pos (and_true2 (zfe_eq g0) (zfe_eq g1)), bf_eq (v := d) g2, bf_eq (v := a) g3, bf_eq (v := b) g4]

theorem xor (d a b : BitVec 6) : Statement (.xor d a b) := by
  have hs := layout_and d a b
  refine statement_intro rfl (by decide) hs.1 hs.2.1 (fun hw x W E hc hf he hx => ?_)
  rw [ite_self] at he
  obtain ⟨g0, g1, g2, g3, g4⟩ := hs.2.2 W E hf he
  change parseAlu x W E (W / 16777216 % 128) = _
  have hp : parseAlu x W E 0x0e = if zfe W 0 6 0 && zfe E 0 19 0 then some (.xor (bf 6 W 18) (bf 6 W 12) (bf 6 W 6)) else none := rfl
  rw [hc, hp, if_pos (and_true2 (zfe_eq g0) (zfe_eq g1)), bf_eq (v := d) g2, bf_eq (v := a) g3, bf_eq (v := b) g4]

theorem andn (d a b : BitVec 6) : Statement (.andn d a b) := by
  have hs := layout_and d a b
  refine statement_intro rfl (by decide) hs.1 hs.2.1 (fun hw x W E hc hf he hx => ?_)
  rw [ite_self] at he
  obtain ⟨g0, g1, g2, g3, g4⟩ := hs.2.2 W E hf he
  change parseAlu x W E (W / 16777216 % 128) = _
  have hp : parseAlu x W E 0x0f = if zfe W 0 6 0 && zfe E 0 19 0 then some (.andn (bf 6 W 18) (bf 6 W 12) (bf 6 W 6)) else none := rfl
  rw [hc, hp, if_pos (and_true2 (zfe_eq g0) (zfe_eq g1)), bf_eq (v := d) g2, bf_eq (v := a) g3, bf_eq (v := b) g4]

theorem bset (d a b : BitVec 6) : Statement (.bset d a b) := by
  have hs := layout_and d a b
  refine statement_intro rfl (by decide) hs.1 hs.2.1 (fun hw x W E hc hf he hx => ?_)
  rw [ite_self] at he
  obtain ⟨g0, g1, g2, g3, g4⟩ := hs.2.2 W E hf he
  change parseAlu x W E (W / 16777216 % 128) = _
  have hp : parseAlu x W E 0x2a = if zfe W 0 6 0 && zfe E 0 19 0 then some (.bset (bf 6 W 18) (bf 6 W 12) (bf 6 W 6)) else none := rfl
  rw [hc, hp, if_pos (and_true2 (zfe_eq g0) (zfe_eq g1)), bf_eq (v := d) g2, bf_eq (v := a) g3, bf_eq (v := b) g4]

theorem bclr (d a b : BitVec 6) : Statement (.bclr d a b) := by
  have hs := layout_and d a b
  refine statement_intro rfl (by decide) hs.1 hs.2.1 (fun hw x W E hc hf he hx => ?_)
  rw [ite_self] at he
  obtain ⟨g0, g1, g2, g3, g4⟩ := hs.2.2 W E hf he
  change parseAlu x W E (W / 16777216 % 128) = _
  have hp : parseAlu x W E 0x2b = if zfe W 0 6 0 && zfe E 0 19 0 then some (.bclr (bf 6 W 18) (bf 6 W 12) (bf 6 W 6)) else none := rfl
  rw [hc, hp, if_pos (and_true2 (zfe_eq g0) (zfe_eq g1)), bf_eq (v := d) g2, bf_eq (v := a) g3, bf_eq (v := b) g4]

theorem addi (d a : BitVec 6) (imm : BitVec 31) : Statement (.addi d a imm) := by
  have hs := layout_addi d a imm
  refine statement_intro rfl (by decide) hs.1 hs.2.1 (fun hw x W E hc hf he hx => ?_)
  have hx : x = true ∨ imm = sxf 12 31 false imm.toNat 0 0 := hx.imp_right (by simp only [Instr.fitsNoExt, beq_iff_eq]; exact id)
  obtain ⟨g0, g1, g2⟩ := hs.2.2 W hf
  change parseAlu x W E (W / 16777216 % 128) = _
  have hp : parseAlu x W E 0x03 = some (.addi (bf 6 W 18) (bf 6 W 12) (sxf 12 31 x W 0 E)) := rfl
  rw [hc, hp, bf_eq (v := d) g0, bf_eq (v := a) g1, sxf_eq g2 he hx]

theorem andi (d a : BitVec 6) (imm : BitVec 31) : Statement (.andi d a imm) := by
  have hs := layout_addi d a imm
  refine statement_intro rfl (by decide) hs.1 hs.2.1 (fun hw x W E hc hf he hx => ?_)
  have hx : x = true ∨ imm = sxf 12 31 false imm.toNat 0 0 := hx.imp_right (by simp only [Instr.fitsNoExt, beq_iff_eq]; exact id)
  obtain ⟨g0, g1, g2⟩ := hs.2.2 W hf
  change parseAlu x W E (W / 16777216 % 128) = _
  have hp : parseAlu x W E 0x10 = some (.andi (bf 6 W 18) (bf 6 W 12) (sxf 12 31 x W 0 E)) := rfl
  rw [hc, hp, bf_eq (v := d) g0, bf_eq (v := a) g1, sxf_eq g2 he hx]

theorem ori (d a : BitVec 6) (imm : BitVec 31) : Statement (.ori d a imm) := by
  have hs := layout_addi d a imm
  refine statement_intro rfl (by decide) hs.1 hs.2.1 (fun hw x W E hc hf he hx => ?_)
  have hx : x = true ∨ imm = sxf 12 31 false imm.toNat 0 0 := hx.imp_right (by simp only [Instr.fitsNoExt, beq_iff_eq]; exact id)
  obtain ⟨g0, g1, g2⟩ := hs.2.2 W hf
  change parseAlu x W E (W / 16777216 % 128) = _
  have hp : parseAlu x W E 0x11 = some (.ori (bf 6 W 18) (bf 6 W 12) (sxf 12 31 x W 0 E)) := rfl
  rw [hc, hp, bf_eq (v := d) g0, bf_eq (v := a) g1, sxf_eq g2 he hx]

theorem xori (d a : BitVec 6) (imm : BitVec 31) : Statement (.xori d a imm) := by
  have hs := layout_addi d a imm
  refine statement_intro rfl (by decide) hs.1 hs.2.1 (fun hw x W E hc hf he hx => ?_)
  have hx : x = true ∨ imm = sxf 12 31 false imm.toNat 0 0 := hx.imp_right (by simp only [Instr.fitsNoExt, beq_iff_eq]; exact id)
  obtain ⟨g0, g1, g2⟩ := hs.2.2 W hf
  change parseAlu x W E (W / 16777216 % 128) = _
  have hp : parseAlu x W E 0x12 = some (.xori (bf 6 W 18) (bf 6 W 12) (sxf 12 31 x W 0 E)) := rfl
  rw [hc, hp, bf_eq (v := d) g0, bf_eq (v := a) g1, sxf_eq g2 he hx]

theorem slti (d a : BitVec 6) (imm : BitVec 31) : Statement (.slti d a imm) := by
  have hs := layout_addi d a imm
  refine statement_intro rfl (by decide) hs.1 hs.2.1 (fun hw x W E hc hf he hx => ?_)
  have hx : x = true ∨ imm = sxf 12 31 false imm.toNat 0 0 := hx.imp_right (by simp only [Instr.fitsNoExt, beq_iff_eq]; exact id)
  obtain ⟨g0, g1, g2⟩ := hs.2.2 W hf
  change parseAlu x W E (W / 16777216 % 128) = _
  have hp : parseAlu x W E 0x25 = some (.slti (bf 6 W 18) (bf 6 W 12) (sxf 12 31 x W 0 E)) := rfl
  rw [hc, hp, bf_eq (v := d) g0, bf_eq (v := a) g1, sxf_eq g2 he hx]

theorem shli (d a n : BitVec 6) (w : Bool) : Statement (.shli d a n w) := by
  have hs := layout_shli d a n w
  refine statement_intro rfl (by decide) hs.1 hs.2.1 (fun hw x W E hc hf he hx => ?_)
  rw [ite_self] at he
  obtain ⟨g0, g1, g2, g3, g4, g5⟩ := hs.2.2 W E hf he
  change parseAlu x W E (W / 16777216 % 128) = _
  have hp : parseAlu x W E 0x16 = if zfe W 7 5 0 && zfe E 0 19 0 then some (.shli (bf 6 W 18) (bf 6 W 12) (bf 6 W 0) (bb W 6)) else none := rfl
  rw [hc, hp, if_pos (and_true2 (zfe_eq g0) (zfe_eq g1)), bf_eq (v := d) g2, bf_eq (v := a) g3, bf_eq (v := n) g4, bb_eq (b := w) g5]

theorem shri (d a n : BitVec 6) (w : Bool) : Statement (.shri d a n w) := by
  have hs := layout_shli d a n w
  refine statement_intro rfl (by decide) hs.1 hs.2.1 (fun hw x W E hc hf he hx => ?_)
  rw [ite_self] at he
  obtain ⟨g0, g1, g2, g3, g4, g5⟩ := hs.2.2 W E hf he
  change parseAlu x W E (W / 16777216 % 128) = _
  have hp : parseAlu x W E 0x17 = if zfe W 7 5 0 && zfe E 0 19 0 then some (.shri (bf 6 W 18) (bf 6 W 12) (bf 6 W 0) (bb W 6)) else none := rfl
  rw [hc, hp, if_pos (and_true2 (zfe_eq g0) (zfe_eq g1)), bf_eq (v := d) g2, bf_eq (v := a) g3, bf_eq (v := n) g4, bb_eq (b := w) g5]

theorem srai (d a n : BitVec 6) (w : Bool) : Statement (.srai d a n w) := by
  have hs := layout_shli d a n w
  refine statement_intro rfl (by decide) hs.1 hs.2.1 (fun hw x W E hc hf he hx => ?_)
  rw [ite_self] at he
  obtain ⟨g0, g1, g2, g3, g4, g5⟩ := hs.2.2 W E hf he
  change parseAlu x W E (W / 16777216 % 128) = _
  have hp : parseAlu x W E 0x18 = if zfe W 7 5 0 && zfe E 0 19 0 then some (.srai (bf 6 W 18) (bf 6 W 12) (bf 6 W 0) (bb W 6)) else none := rfl
  rw [hc, hp, if_pos (and_true2 (zfe_eq g0) (zfe_eq g1)), bf_eq (v := d) g2, bf_eq (v := a) g3, bf_eq (v := n) g4, bb_eq (b := w) g5]

theorem clz (d a : BitVec 6) (w : Bool) : Statement (.clz d a w) := by
  have hs := layout_clz d a w
  refine statement_intro rfl (by decide) hs.1 hs.2.1 (fun hw x W E hc hf he hx => ?_)
  rw [ite_self] at he
  obtain ⟨g0, g1, g2, g3, g4⟩ := hs.2.2 W E hf he
  change parseAlu x W E (W / 16777216 % 128) = _
  have hp : parseAlu x W E 0x1a = if zfe W 1 11 0 && zfe E 0 19 0 then some (.clz (bf 6 W 18) (bf 6 W 12) (bb W 0)) else none := rfl
  rw [hc, hp, if_pos (and_true2 (zfe_eq g0) (zfe_eq g1)), bf_eq (v := d) g2, bf_eq (v := a) g3, bb_eq (b := w) g4]

theorem ctz (d a : BitVec 6) (w : Bool) : Statement (.ctz d a w) := by
  have hs := layout_clz d a w
  refine statement_intro rfl (by decide) hs.1 hs.2.1 (fun hw x W E hc hf he hx => ?_)
  rw [ite_self] at he
  obtain ⟨g0, g1, g2, g3, g4⟩ := hs.2.2 W E hf he
  change parseAlu x W E (W / 16777216 % 128) = _
  have hp : parseAlu x W E 0x1b = if zfe W 1 11 0 && zfe E 0 19 0 then some (.ctz (bf 6 W 18) (bf 6 W 12) (bb W 0)) else none := rfl
  rw [hc, hp, if_pos (and_true2 (zfe_eq g0) (zfe_eq g1)), bf_eq (v := d) g2, bf_eq (v := a) g3, bb_eq (b := w) g4]

theorem popc (d a : BitVec 6) (w : Bool) : Statement (.popc d a w) := by
  have hs := layout_clz d a w
  refine statement_intro rfl (by decide) hs.1 hs.2.1 (fun hw x W E hc hf he hx => ?_)
  rw [ite_self] at he
  obtain ⟨g0, g1, g2, g3, g4⟩ := hs.2.2 W E hf he
  change parseAlu x W E (W / 16777216 % 128) = _
  have hp : parseAlu x W E 0x1c = if zfe W 1 11 0 && zfe E 0 19 0 then some (.popc (bf 6 W 18) (bf 6 W 12) (bb W 0)) else none := rfl
  rw [hc, hp, if_pos (and_true2 (zfe_eq g0) (zfe_eq g1)), bf_eq (v := d) g2, bf_eq (v := a) g3, bb_eq (b := w) g4]

theorem madd (d a b c : BitVec 6) : Statement (.madd d a b c) := by
  have hs := layout_madd d a b c
  refine statement_intro rfl (by decide) hs.1 hs.2.1 (fun hw x W E hc hf he hx => ?_)
  rw [ite_self] at he
  obtain ⟨g0, g1, g2, g3, g4⟩ := hs.2.2 W E hf he
  change parseAlu x W E (W / 16777216 % 128) = _
  have hp : parseAlu x W E 0x07 = if zfe E 0 19 0 then some (.madd (bf 6 W 18) (bf 6 W 12) (bf 6 W 6) (bf 6 W 0)) else none := rfl
  rw [hc, hp, if_pos (zfe_eq g0), bf_eq (v := d) g1, bf_eq (v := a) g2, bf_eq (v := b) g3, bf_eq (v := c) g4]

theorem sel (d a b c : BitVec 6) : Statement (.sel d a b c) := by
  have hs := layout_madd d a b c
  refine statement_intro rfl (by decide) hs.1 hs.2.1 (fun hw x W E hc hf he hx => ?_)
  rw [ite_self] at he
  obtain ⟨g0, g1, g2, g3, g4⟩ := hs.2.2 W E hf he
  change parseAlu x W E (W / 16777216 % 128) = _
  have hp : parseAlu x W E 0x26 = if zfe E 0 19 0 then some (.sel (bf 6 W 18) (bf 6 W 12) (bf 6 W 6) (bf 6 W 0)) else none := rfl
  rw [hc, hp, if_pos (zfe_eq g0), bf_eq (v := d) g1, bf_eq (v := a) g2, bf_eq (v := b) g3, bf_eq (v := c) g4]

theorem ext (d a pos lenM1 : BitVec 6) : Statement (.ext d a pos lenM1) := by
  have hs := layout_madd d a pos lenM1
  refine statement_intro rfl (by decide) hs.1 hs.2.1 (fun hw x W E hc hf he hx => ?_)
  rw [ite_self] at he
  obtain ⟨g0, g1, g2, g3, g4⟩ := hs.2.2 W E hf he
  change parseAlu x W E (W / 16777216 % 128) = _
  have hp : parseAlu x W E 0x27 = if zfe E 0 19 0 then some (.ext (bf 6 W 18) (bf 6 W 12) (bf 6 W 6) (bf 6 W 0)) else none := rfl
  rw [hc, hp, if_pos (zfe_eq g0), bf_eq (v := d) g1, bf_eq (v := a) g2, bf_eq (v := pos) g3, bf_eq (v := lenM1) g4]

theorem extu (d a pos lenM1 : BitVec 6) : Statement (.extu d a pos lenM1) := by
  have hs := layout_madd d a pos lenM1
  refine statement_intro rfl (by decide) hs.1 hs.2.1 (fun hw x W E hc hf he hx => ?_)
  rw [ite_self] at he
  obtain ⟨g0, g1, g2, g3, g4⟩ := hs.2.2 W E hf he
  change parseAlu x W E (W / 16777216 % 128) = _
  have hp : parseAlu x W E 0x28 = if zfe E 0 19 0 then some (.extu (bf 6 W 18) (bf 6 W 12) (bf 6 W 6) (bf 6 W 0)) else none := rfl
  rw [hc, hp, if_pos (zfe_eq g0), bf_eq (v := d) g1, bf_eq (v := a) g2, bf_eq (v := pos) g3, bf_eq (v := lenM1) g4]

theorem ins (d a pos lenM1 : BitVec 6) : Statement (.ins d a pos lenM1) := by
  have hs := layout_madd d a pos lenM1
  refine statement_intro rfl (by decide) hs.1 hs.2.1 (fun hw x W E hc hf he hx => ?_)
  rw [ite_self] at he
  obtain ⟨g0, g1, g2, g3, g4⟩ := hs.2.2 W E hf he
  change parseAlu x W E (W / 16777216 % 128) = _
  have hp : parseAlu x W E 0x29 = if zfe E 0 19 0 then some (.ins (bf 6 W 18) (bf 6 W 12) (bf 6 W 6) (bf 6 W 0)) else none := rfl
  rw [hc, hp, if_pos (zfe_eq g0), bf_eq (v := d) g1, bf_eq (v := a) g2, bf_eq (v := pos) g3, bf_eq (v := lenM1) g4]

theorem movi (d : BitVec 6) (imm : BitVec 37) : Statement (.movi d imm) := by
  have hs := layout_movi d imm
  refine statement_intro rfl (by decide) hs.1 hs.2.1 (fun hw x W E hc hf he hx => ?_)
  have hx : x = true ∨ imm = sxf 18 37 false imm.toNat 0 0 := hx.imp_right (by simp only [Instr.fitsNoExt, beq_iff_eq]; exact id)
  obtain ⟨g0, g1⟩ := hs.2.2 W hf
  change parseAlu x W E (W / 16777216 % 128) = _
  have hp : parseAlu x W E 0x2c = some (.movi (bf 6 W 18) (sxf 18 37 x W 0 E)) := rfl
  rw [hc, hp, bf_eq (v := d) g0, sxf_eq g1 he hx]

theorem movk (d : BitVec 6) (k : BitVec 2) (imm : BitVec 16) : Statement (.movk d k imm) := by
  have hs := layout_movk d k imm
  refine statement_intro rfl (by decide) hs.1 hs.2.1 (fun hw x W E hc hf he hx => ?_)
  rw [ite_self] at he
  obtain ⟨g0, g1, g2, g3⟩ := hs.2.2 W E hf he
  change parseAlu x W E (W / 16777216 % 128) = _
  have hp : parseAlu x W E 0x2d = if zfe E 0 19 0 then some (.movk (bf 6 W 18) (bf 2 W 16) (bf 16 W 0)) else none := rfl
  rw [hc, hp, if_pos (zfe_eq g0), bf_eq (v := d) g1, bf_eq (v := k) g2, bf_eq (v := imm) g3]

theorem lea (d a b : BitVec 6) (n : BitVec 3) : Statement (.lea d a b n) := by
  have hs := layout_lea d a b n
  refine statement_intro rfl (by decide) hs.1 hs.2.1 (fun hw x W E hc hf he hx => ?_)
  rw [ite_self] at he
  obtain ⟨g0, g1, g2, g3, g4, g5⟩ := hs.2.2 W E hf he
  change parseAlu x W E (W / 16777216 % 128) = _
  have hp : parseAlu x W E 0x2e = if zfe W 3 3 0 && zfe E 0 19 0 then some (.lea (bf 6 W 18) (bf 6 W 12) (bf 6 W 6) (bf 3 W 0)) else none := rfl
  rw [hc, hp, if_pos (and_true2 (zfe_eq g0) (zfe_eq g1)), bf_eq (v := d) g2, bf_eq (v := a) g3, bf_eq (v := b) g4, bf_eq (v := n) g5]

theorem fadd (d a b : BitVec 6) (fmt : BitVec 2) (rc : BitVec 3) : Statement (.fadd d a b fmt rc) := by
  have hs := layout_fadd d a b fmt rc
  refine statement_intro rfl (by decide) hs.1 hs.2.1 (fun hw x W E hc hf he hx => ?_)
  rw [ite_self] at he
  obtain ⟨g0, g1, g2, g3, g4, g5, g6⟩ := hs.2.2 W E hf he
  change parseAlu x W E (W / 16777216 % 128) = _
  have hp : parseAlu x W E 0x30 = if zfe W 0 1 0 && zfe E 0 19 0 then some (.fadd (bf 6 W 18) (bf 6 W 12) (bf 6 W 6) (bf 2 W 4) (bf 3 W 1)) else none := rfl
  rw [hc, hp, if_pos (and_true2 (zfe_eq g0) (zfe_eq g1)), bf_eq (v := d) g2, bf_eq (v := a) g3, bf_eq (v := b) g4,
    bf_eq (v := fmt) g5, bf_eq (v := rc) g6]

theorem fsub (d a b : BitVec 6) (fmt : BitVec 2) (rc : BitVec 3) : Statement (.fsub d a b fmt rc) := by
  have hs := layout_fadd d a b fmt rc
  refine statement_intro rfl (by decide) hs.1 hs.2.1 (fun hw x W E hc hf he hx => ?_)
  rw [ite_self] at he
  obtain ⟨g0, g1, g2, g3, g4, g5, g6⟩ := hs.2.2 W E hf he
  change parseAlu x W E (W / 16777216 % 128) = _
  have hp : parseAlu x W E 0x31 = if zfe W 0 1 0 && zfe E 0 19 0 then some (.fsub (bf 6 W 18) (bf 6 W 12) (bf 6 W 6) (bf 2 W 4) (bf 3 W 1)) else none := rfl
  rw [hc, hp, if_pos (and_true2 (zfe_eq g0) (zfe_eq g1)), bf_eq (v := d) g2, bf_eq (v := a) g3, bf_eq (v := b) g4,
    bf_eq (v := fmt) g5, bf_eq (v := rc) g6]

theorem fmul (d a b : BitVec 6) (fmt : BitVec 2) (rc : BitVec 3) : Statement (.fmul d a b fmt rc) := by
  have hs := layout_fadd d a b fmt rc
  refine statement_intro rfl (by decide) hs.1 hs.2.1 (fun hw x W E hc hf he hx => ?_)
  rw [ite_self] at he
  obtain ⟨g0, g1, g2, g3, g4, g5, g6⟩ := hs.2.2 W E hf he
  change parseAlu x W E (W / 16777216 % 128) = _
  have hp : parseAlu x W E 0x32 = if zfe W 0 1 0 && zfe E 0 19 0 then some (.fmul (bf 6 W 18) (bf 6 W 12) (bf 6 W 6) (bf 2 W 4) (bf 3 W 1)) else none := rfl
  rw [hc, hp, if_pos (and_true2 (zfe_eq g0) (zfe_eq g1)), bf_eq (v := d) g2, bf_eq (v := a) g3, bf_eq (v := b) g4,
    bf_eq (v := fmt) g5, bf_eq (v := rc) g6]

theorem ffma (d a b : BitVec 6) (fmt : BitVec 2) (rc : BitVec 3) : Statement (.ffma d a b fmt rc) := by
  have hs := layout_fadd d a b fmt rc
  refine statement_intro rfl (by decide) hs.1 hs.2.1 (fun hw x W E hc hf he hx => ?_)
  rw [ite_self] at he
  obtain ⟨g0, g1, g2, g3, g4, g5, g6⟩ := hs.2.2 W E hf he
  change parseAlu x W E (W / 16777216 % 128) = _
  have hp : parseAlu x W E 0x33 = if zfe W 0 1 0 && zfe E 0 19 0 then some (.ffma (bf 6 W 18) (bf 6 W 12) (bf 6 W 6) (bf 2 W 4) (bf 3 W 1)) else none := rfl
  rw [hc, hp, if_pos (and_true2 (zfe_eq g0) (zfe_eq g1)), bf_eq (v := d) g2, bf_eq (v := a) g3, bf_eq (v := b) g4,
    bf_eq (v := fmt) g5, bf_eq (v := rc) g6]

theorem fmin (d a b : BitVec 6) (fmt : BitVec 2) : Statement (.fmin d a b fmt) := by
  have hs := layout_fmin d a b fmt
  refine statement_intro rfl (by decide) hs.1 hs.2.1 (fun hw x W E hc hf he hx => ?_)
  rw [ite_self] at he
  obtain ⟨g0, g1, g2, g3, g4, g5⟩ := hs.2.2 W E hf he
  change parseAlu x W E (W / 16777216 % 128) = _
  have hp : parseAlu x W E 0x34 = if zfe W 0 4 0 && zfe E 0 19 0 then some (.fmin (bf 6 W 18) (bf 6 W 12) (bf 6 W 6) (bf 2 W 4)) else none := rfl
  rw [hc, hp, if_pos (and_true2 (zfe_eq g0) (zfe_eq g1)), bf_eq (v := d) g2, bf_eq (v := a) g3, bf_eq (v := b) g4, bf_eq (v := fmt) g5]

theorem fmax (d a b : BitVec 6) (fmt : BitVec 2) : Statement (.fmax d a b fmt) := by
  have hs := layout_fmin d a b fmt
  refine statement_intro rfl (by decide) hs.1 hs.2.1 (fun hw x W E hc hf he hx => ?_)
  rw [ite_self] at he
  obtain ⟨g0, g1, g2, g3, g4, g5⟩ := hs.2.2 W E hf he
  change parseAlu x W E (W / 16777216 % 128) = _
  have hp : parseAlu x W E 0x35 = if zfe W 0 4 0 && zfe E 0 19 0 then some (.fmax (bf 6 W 18) (bf 6 W 12) (bf 6 W 6) (bf 2 W 4)) else none := rfl
  rw [hc, hp, if_pos (and_true2 (zfe_eq g0) (zfe_eq g1)), bf_eq (v := d) g2, bf_eq (v := a) g3, bf_eq (v := b) g4, bf_eq (v := fmt) g5]

theorem feq (d a b : BitVec 6) (fmt : BitVec 2) : Statement (.feq d a b fmt) := by
  have hs := layout_fmin d a b fmt
  refine statement_intro rfl (by decide) hs.1 hs.2.1 (fun hw x W E hc hf he hx => ?_)
  rw [ite_self] at he
  obtain ⟨g0, g1, g2, g3, g4, g5⟩ := hs.2.2 W E hf he
  change parseAlu x W E (W / 16777216 % 128) = _
  have hp : parseAlu x W E 0x36 = if zfe W 0 4 0 && zfe E 0 19 0 then some (.feq (bf 6 W 18) (bf 6 W 12) (bf 6 W 6) (bf 2 W 4)) else none := rfl
  rw [hc, hp, if_pos (and_true2 (zfe_eq g0) (zfe_eq g1)), bf_eq (v := d) g2, bf_eq (v := a) g3, bf_eq (v := b) g4, bf_eq (v := fmt) g5]

theorem flt (d a b : BitVec 6) (fmt : BitVec 2) : Statement (.flt d a b fmt) := by
  have hs := layout_fmin d a b fmt
  refine statement_intro rfl (by decide) hs.1 hs.2.1 (fun hw x W E hc hf he hx => ?_)
  rw [ite_self] at he
  obtain ⟨g0, g1, g2, g3, g4, g5⟩ := hs.2.2 W E hf he
  change parseAlu x W E (W / 16777216 % 128) = _
  have hp : parseAlu x W E 0x37 = if zfe W 0 4 0 && zfe E 0 19 0 then some (.flt (bf 6 W 18) (bf 6 W 12) (bf 6 W 6) (bf 2 W 4)) else none := rfl
  rw [hc, hp, if_pos (and_true2 (zfe_eq g0) (zfe_eq g1)), bf_eq (v := d) g2, bf_eq (v := a) g3, bf_eq (v := b) g4, bf_eq (v := fmt) g5]

theorem fle (d a b : BitVec 6) (fmt : BitVec 2) : Statement (.fle d a b fmt) := by
  have hs := layout_fmin d a b fmt
  refine statement_intro rfl (by decide) hs.1 hs.2.1 (fun hw x W E hc hf he hx => ?_)
  rw [ite_self] at he
  obtain ⟨g0, g1, g2, g3, g4, g5⟩ := hs.2.2 W E hf he
  change parseAlu x W E (W / 16777216 % 128) = _
  have hp : parseAlu x W E 0x38 = if zfe W 0 4 0 && zfe E 0 19 0 then some (.fle (bf 6 W 18) (bf 6 W 12) (bf 6 W 6) (bf 2 W 4)) else none := rfl
  rw [hc, hp, if_pos (and_true2 (zfe_eq g0) (zfe_eq g1)), bf_eq (v := d) g2, bf_eq (v := a) g3, bf_eq (v := b) g4, bf_eq (v := fmt) g5]

theorem fcvt (d a : BitVec 6) (dst fmt : BitVec 2) (rc : BitVec 3) : Statement (.fcvt d a dst fmt rc) := by
  have hs := layout_fcvt d a dst fmt rc
  refine statement_intro rfl (by decide) hs.1 hs.2.1 (fun hw x W E hc hf he hx => ?_)
  rw [ite_self] at he
  obtain ⟨g0, g1, g2, g3, g4, g5, g6, g7⟩ := hs.2.2 W E hf he
  change parseAlu x W E (W / 16777216 % 128) = _
  have hp : parseAlu x W E 0x39 = if zfe W 0 1 0 && zfe W 8 4 0 && zfe E 0 19 0 then some (.fcvt (bf 6 W 18) (bf 6 W 12) (bf 2 W 6) (bf 2 W 4) (bf 3 W 1)) else none := rfl
  rw [hc, hp, if_pos (and_true2 (and_true2 (zfe_eq g0) (zfe_eq g1)) (zfe_eq g2)), bf_eq (v := d) g3, bf_eq (v := a) g4,
    bf_eq (v := dst) g5, bf_eq (v := fmt) g6, bf_eq (v := rc) g7]

theorem ftoi (d a : BitVec 6) (u w : Bool) (fmt : BitVec 2) (rc : BitVec 3) : Statement (.ftoi d a u w fmt rc) := by
  have hs := layout_ftoi d a u w fmt rc
  refine statement_intro rfl (by decide) hs.1 hs.2.1 (fun hw x W E hc hf he hx => ?_)
  rw [ite_self] at he
  obtain ⟨g0, g1, g2, g3, g4, g5, g6, g7, g8⟩ := hs.2.2 W E hf he
  change parseAlu x W E (W / 16777216 % 128) = _
  have hp : parseAlu x W E 0x3a = if zfe W 0 1 0 && zfe W 8 4 0 && zfe E 0 19 0 then some (.ftoi (bf 6 W 18) (bf 6 W 12) (bb W 6) (bb W 7) (bf 2 W 4) (bf 3 W 1)) else none := rfl
  rw [hc, hp, if_pos (and_true2 (and_true2 (zfe_eq g0) (zfe_eq g1)) (zfe_eq g2)), bf_eq (v := d) g3, bf_eq (v := a) g4,
    bb_eq (b := u) g5, bb_eq (b := w) g6, bf_eq (v := fmt) g7, bf_eq (v := rc) g8]

theorem itof (d a : BitVec 6) (u w : Bool) (fmt : BitVec 2) (rc : BitVec 3) : Statement (.itof d a u w fmt rc) := by
  have hs := layout_ftoi d a u w fmt rc
  refine statement_intro rfl (by decide) hs.1 hs.2.1 (fun hw x W E hc hf he hx => ?_)
  rw [ite_self] at he
  obtain ⟨g0, g1, g2, g3, g4, g5, g6, g7, g8⟩ := hs.2.2 W E hf he
  change parseAlu x W E (W / 16777216 % 128) = _
  have hp : parseAlu x W E 0x3b = if zfe W 0 1 0 && zfe W 8 4 0 && zfe E 0 19 0 then some (.itof (bf 6 W 18) (bf 6 W 12) (bb W 6) (bb W 7) (bf 2 W 4) (bf 3 W 1)) else none := rfl
  rw [hc, hp, if_pos (and_true2 (and_true2 (zfe_eq g0) (zfe_eq g1)) (zfe_eq g2)), bf_eq (v := d) g3, bf_eq (v := a) g4,
    bb_eq (b := u) g5, bb_eq (b := w) g6, bf_eq (v := fmt) g7, bf_eq (v := rc) g8]

theorem fsgn (d a b : BitVec 6) (fmt : BitVec 2) (op : BitVec 3) : Statement (.fsgn d a b fmt op) := by
  have hs := layout_fadd d a b fmt op
  refine statement_intro rfl (by decide) hs.1 hs.2.1 (fun hw x W E hc hf he hx => ?_)
  rw [ite_self] at he
  obtain ⟨g0, g1, g2, g3, g4, g5, g6⟩ := hs.2.2 W E hf he
  change parseAlu x W E (W / 16777216 % 128) = _
  have hp : parseAlu x W E 0x3c = if zfe W 0 1 0 && zfe E 0 19 0 then some (.fsgn (bf 6 W 18) (bf 6 W 12) (bf 6 W 6) (bf 2 W 4) (bf 3 W 1)) else none := rfl
  rw [hc, hp, if_pos (and_true2 (zfe_eq g0) (zfe_eq g1)), bf_eq (v := d) g2, bf_eq (v := a) g3, bf_eq (v := b) g4,
    bf_eq (v := fmt) g5, bf_eq (v := op) g6]

theorem fclass (d a : BitVec 6) (fmt : BitVec 2) : Statement (.fclass d a fmt) := by
  have hs := layout_fclass d a fmt
  refine statement_intro rfl (by decide) hs.1 hs.2.1 (fun hw x W E hc hf he hx => ?_)
  rw [ite_self] at he
  obtain ⟨g0, g1, g2, g3, g4, g5⟩ := hs.2.2 W E hf he
  change parseAlu x W E (W / 16777216 % 128) = _
  have hp : parseAlu x W E 0x3d = if zfe W 0 4 0 && zfe W 6 6 0 && zfe E 0 19 0 then some (.fclass (bf 6 W 18) (bf 6 W 12) (bf 2 W 4)) else none := rfl
  rw [hc, hp, if_pos (and_true2 (and_true2 (zfe_eq g0) (zfe_eq g1)) (zfe_eq g2)), bf_eq (v := d) g3, bf_eq (v := a) g4,
    bf_eq (v := fmt) g5]

theorem ld (d a : BitVec 6) (size : BitVec 2) (u : Bool) (off : BitVec 28) : Statement (.ld d a size u off) := by
  have hs := layout_ld d a size u off
  refine statement_intro rfl (by decide) hs.1 hs.2.1 (fun hw x W E hc hf he hx => ?_)
  have hx : x = true ∨ off = sxf 9 28 false off.toNat 0 0 := hx.imp_right (by simp only [Instr.fitsNoExt, beq_iff_eq]; exact id)
  obtain ⟨g0, g1, g2, g3, g4⟩ := hs.2.2 W hf
  change parseAlu x W E (W / 16777216 % 128) = _
  have hp : parseAlu x W E 0x40 = some (.ld (bf 6 W 18) (bf 6 W 12) (bf 2 W 10) (bb W 9) (sxf 9 28 x W 0 E)) := rfl
  rw [hc, hp, bf_eq (v := d) g0, bf_eq (v := a) g1, bf_eq (v := size) g2, bb_eq (b := u) g3, sxf_eq g4 he hx]

theorem st (b a : BitVec 6) (size : BitVec 2) (off : BitVec 28) : Statement (.st b a size off) := by
  have hs := layout_st b a size off
  refine statement_intro rfl (by decide) hs.1 hs.2.1 (fun hw x W E hc hf he hx => ?_)
  have hx : x = true ∨ off = sxf 9 28 false off.toNat 0 0 := hx.imp_right (by simp only [Instr.fitsNoExt, beq_iff_eq]; exact id)
  obtain ⟨g0, g1, g2, g3, g4⟩ := hs.2.2 W hf
  change parseAlu x W E (W / 16777216 % 128) = _
  have hp : parseAlu x W E 0x41 = if zfe W 9 1 0 then some (.st (bf 6 W 18) (bf 6 W 12) (bf 2 W 10) (sxf 9 28 x W 0 E)) else none := rfl
  rw [hc, hp, if_pos (zfe_eq g0), bf_eq (v := b) g1, bf_eq (v := a) g2, bf_eq (v := size) g3, sxf_eq g4 he hx]

theorem ldx (d a b : BitVec 6) (size : BitVec 2) (u : Bool) (n : BitVec 3) : Statement (.ldx d a b size u n) := by
  have hs := layout_ldx d a b size u n
  refine statement_intro rfl (by decide) hs.1 hs.2.1 (fun hw x W E hc hf he hx => ?_)
  rw [ite_self] at he
  obtain ⟨g0, g1, g2, g3, g4, g5, g6⟩ := hs.2.2 W E hf he
  change parseAlu x W E (W / 16777216 % 128) = _
  have hp : parseAlu x W E 0x42 = if zfe E 0 19 0 then some (.ldx (bf 6 W 18) (bf 6 W 12) (bf 6 W 6) (bf 2 W 4) (bb W 3) (bf 3 W 0)) else none := rfl
  rw [hc, hp, if_pos (zfe_eq g0), bf_eq (v := d) g1, bf_eq (v := a) g2, bf_eq (v := b) g3, bf_eq (v := size) g4, bb_eq (b := u) g5,
    bf_eq (v := n) g6]

theorem stx (c a b : BitVec 6) (size : BitVec 2) (n : BitVec 3) : Statement (.stx c a b size n) := by
  have hs := layout_stx c a b size n
  refine statement_intro rfl (by decide) hs.1 hs.2.1 (fun hw x W E hc hf he hx => ?_)
  rw [ite_self] at he
  obtain ⟨g0, g1, g2, g3, g4, g5, g6⟩ := hs.2.2 W E hf he
  change parseAlu x W E (W / 16777216 % 128) = _
  have hp : parseAlu x W E 0x43 = if zfe W 3 1 0 && zfe E 0 19 0 then some (.stx (bf 6 W 18) (bf 6 W 12) (bf 6 W 6) (bf 2 W 4) (bf 3 W 0)) else none := rfl
  rw [hc, hp, if_pos (and_true2 (zfe_eq g0) (zfe_eq g1)), bf_eq (v := c) g2, bf_eq (v := a) g3, bf_eq (v := b) g4,
    bf_eq (v := size) g5, bf_eq (v := n) g6]

theorem amoadd (d a b : BitVec 6) (sc : BitVec 3) (dw : Bool) : Statement (.amoadd d a b sc dw) := by
  have hs := layout_amoadd d a b sc dw
  refine statement_intro rfl (by decide) hs.1 hs.2.1 (fun hw x W E hc hf he hx => ?_)
  rw [ite_self] at he
  obtain ⟨g0, g1, g2, g3, g4, g5, g6⟩ := hs.2.2 W E hf he
  change parseAlu x W E (W / 16777216 % 128) = _
  have hp : parseAlu x W E 0x48 = if zfe W 0 2 0 && zfe E 0 19 0 then some (.amoadd (bf 6 W 18) (bf 6 W 12) (bf 6 W 6) (bf 3 W 3) (bb W 2)) else none := rfl
  rw [hc, hp, if_pos (and_true2 (zfe_eq g0) (zfe_eq g1)), bf_eq (v := d) g2, bf_eq (v := a) g3, bf_eq (v := b) g4, bf_eq (v := sc) g5,
    bb_eq (b := dw) g6]

theorem amoand (d a b : BitVec 6) (sc : BitVec 3) (dw : Bool) : Statement (.amoand d a b sc dw) := by
  have hs := layout_amoadd d a b sc dw
  refine statement_intro rfl (by decide) hs.1 hs.2.1 (fun hw x W E hc hf he hx => ?_)
  rw [ite_self] at he
  obtain ⟨g0, g1, g2, g3, g4, g5, g6⟩ := hs.2.2 W E hf he
  change parseAlu x W E (W / 16777216 % 128) = _
  have hp : parseAlu x W E 0x4b = if zfe W 0 2 0 && zfe E 0 19 0 then some (.amoand (bf 6 W 18) (bf 6 W 12) (bf 6 W 6) (bf 3 W 3) (bb W 2)) else none := rfl
  rw [hc, hp, if_pos (and_true2 (zfe_eq g0) (zfe_eq g1)), bf_eq (v := d) g2, bf_eq (v := a) g3, bf_eq (v := b) g4, bf_eq (v := sc) g5,
    bb_eq (b := dw) g6]

theorem amoor (d a b : BitVec 6) (sc : BitVec 3) (dw : Bool) : Statement (.amoor d a b sc dw) := by
  have hs := layout_amoadd d a b sc dw
  refine statement_intro rfl (by decide) hs.1 hs.2.1 (fun hw x W E hc hf he hx => ?_)
  rw [ite_self] at he
  obtain ⟨g0, g1, g2, g3, g4, g5, g6⟩ := hs.2.2 W E hf he
  change parseAlu x W E (W / 16777216 % 128) = _
  have hp : parseAlu x W E 0x4c = if zfe W 0 2 0 && zfe E 0 19 0 then some (.amoor (bf 6 W 18) (bf 6 W 12) (bf 6 W 6) (bf 3 W 3) (bb W 2)) else none := rfl
  rw [hc, hp, if_pos (and_true2 (zfe_eq g0) (zfe_eq g1)), bf_eq (v := d) g2, bf_eq (v := a) g3, bf_eq (v := b) g4, bf_eq (v := sc) g5,
    bb_eq (b := dw) g6]

theorem amoxor (d a b : BitVec 6) (sc : BitVec 3) (dw : Bool) : Statement (.amoxor d a b sc dw) := by
  have hs := layout_amoadd d a b sc dw
  refine statement_intro rfl (by decide) hs.1 hs.2.1 (fun hw x W E hc hf he hx => ?_)
  rw [ite_self] at he
  obtain ⟨g0, g1, g2, g3, g4, g5, g6⟩ := hs.2.2 W E hf he
  change parseAlu x W E (W / 16777216 % 128) = _
  have hp : parseAlu x W E 0x4d = if zfe W 0 2 0 && zfe E 0 19 0 then some (.amoxor (bf 6 W 18) (bf 6 W 12) (bf 6 W 6) (bf 3 W 3) (bb W 2)) else none := rfl
  rw [hc, hp, if_pos (and_true2 (zfe_eq g0) (zfe_eq g1)), bf_eq (v := d) g2, bf_eq (v := a) g3, bf_eq (v := b) g4, bf_eq (v := sc) g5,
    bb_eq (b := dw) g6]

theorem amoswap (d a b : BitVec 6) (sc : BitVec 3) (dw : Bool) : Statement (.amoswap d a b sc dw) := by
  have hs := layout_amoadd d a b sc dw
  refine statement_intro rfl (by decide) hs.1 hs.2.1 (fun hw x W E hc hf he hx => ?_)
  rw [ite_self] at he
  obtain ⟨g0, g1, g2, g3, g4, g5, g6⟩ := hs.2.2 W E hf he
  change parseAlu x W E (W / 16777216 % 128) = _
  have hp : parseAlu x W E 0x4e = if zfe W 0 2 0 && zfe E 0 19 0 then some (.amoswap (bf 6 W 18) (bf 6 W 12) (bf 6 W 6) (bf 3 W 3) (bb W 2)) else none := rfl
  rw [hc, hp, if_pos (and_true2 (zfe_eq g0) (zfe_eq g1)), bf_eq (v := d) g2, bf_eq (v := a) g3, bf_eq (v := b) g4, bf_eq (v := sc) g5,
    bb_eq (b := dw) g6]

theorem amocas (d a b : BitVec 6) (sc : BitVec 3) (dw : Bool) : Statement (.amocas d a b sc dw) := by
  have hs := layout_amoadd d a b sc dw
  refine statement_intro rfl (by decide) hs.1 hs.2.1 (fun hw x W E hc hf he hx => ?_)
  rw [ite_self] at he
  obtain ⟨g0, g1, g2, g3, g4, g5, g6⟩ := hs.2.2 W E hf he
  change parseAlu x W E (W / 16777216 % 128) = _
  have hp : parseAlu x W E 0x4f = if zfe W 0 2 0 && zfe E 0 19 0 then some (.amocas (bf 6 W 18) (bf 6 W 12) (bf 6 W 6) (bf 3 W 3) (bb W 2)) else none := rfl
  rw [hc, hp, if_pos (and_true2 (zfe_eq g0) (zfe_eq g1)), bf_eq (v := d) g2, bf_eq (v := a) g3, bf_eq (v := b) g4, bf_eq (v := sc) g5,
    bb_eq (b := dw) g6]

theorem amomin (d a b : BitVec 6) (sc : BitVec 3) (dw u : Bool) : Statement (.amomin d a b sc dw u) := by
  have hs := layout_amomin d a b sc dw u
  refine statement_intro rfl (by decide) hs.1 hs.2.1 (fun hw x W E hc hf he hx => ?_)
  rw [ite_self] at he
  obtain ⟨g0, g1, g2, g3, g4, g5, g6, g7⟩ := hs.2.2 W E hf he
  change parseAlu x W E (W / 16777216 % 128) = _
  have hp : parseAlu x W E 0x49 = if zfe W 0 1 0 && zfe E 0 19 0 then some (.amomin (bf 6 W 18) (bf 6 W 12) (bf 6 W 6) (bf 3 W 3) (bb W 2) (bb W 1)) else none := rfl
  rw [hc, hp, if_pos (and_true2 (zfe_eq g0) (zfe_eq g1)), bf_eq (v := d) g2, bf_eq (v := a) g3, bf_eq (v := b) g4, bf_eq (v := sc) g5,
    bb_eq (b := dw) g6, bb_eq (b := u) g7]

theorem amomax (d a b : BitVec 6) (sc : BitVec 3) (dw u : Bool) : Statement (.amomax d a b sc dw u) := by
  have hs := layout_amomin d a b sc dw u
  refine statement_intro rfl (by decide) hs.1 hs.2.1 (fun hw x W E hc hf he hx => ?_)
  rw [ite_self] at he
  obtain ⟨g0, g1, g2, g3, g4, g5, g6, g7⟩ := hs.2.2 W E hf he
  change parseAlu x W E (W / 16777216 % 128) = _
  have hp : parseAlu x W E 0x4a = if zfe W 0 1 0 && zfe E 0 19 0 then some (.amomax (bf 6 W 18) (bf 6 W 12) (bf 6 W 6) (bf 3 W 3) (bb W 2) (bb W 1)) else none := rfl
  rw [hc, hp, if_pos (and_true2 (zfe_eq g0) (zfe_eq g1)), bf_eq (v := d) g2, bf_eq (v := a) g3, bf_eq (v := b) g4, bf_eq (v := sc) g5,
    bb_eq (b := dw) g6, bb_eq (b := u) g7]

theorem amofmax (d a b : BitVec 6) (sc : BitVec 3) : Statement (.amofmax d a b sc) := by
  have hs := layout_amofmax d a b sc
  refine statement_intro rfl (by decide) hs.1 hs.2.1 (fun hw x W E hc hf he hx => ?_)
  rw [ite_self] at he
  obtain ⟨g0, g1, g2, g3, g4, g5⟩ := hs.2.2 W E hf he
  change parseAlu x W E (W / 16777216 % 128) = _
  have hp : parseAlu x W E 0x50 = if zfe W 0 3 0 && zfe E 0 19 0 then some (.amofmax (bf 6 W 18) (bf 6 W 12) (bf 6 W 6) (bf 3 W 3)) else none := rfl
  rw [hc, hp, if_pos (and_true2 (zfe_eq g0) (zfe_eq g1)), bf_eq (v := d) g2, bf_eq (v := a) g3, bf_eq (v := b) g4, bf_eq (v := sc) g5]

theorem amofadd (d a b : BitVec 6) (sc : BitVec 3) : Statement (.amofadd d a b sc) := by
  have hs := layout_amofmax d a b sc
  refine statement_intro rfl (by decide) hs.1 hs.2.1 (fun hw x W E hc hf he hx => ?_)
  rw [ite_self] at he
  obtain ⟨g0, g1, g2, g3, g4, g5⟩ := hs.2.2 W E hf he
  change parseAlu x W E (W / 16777216 % 128) = _
  have hp : parseAlu x W E 0x51 = if zfe W 0 3 0 && zfe E 0 19 0 then some (.amofadd (bf 6 W 18) (bf 6 W 12) (bf 6 W 6) (bf 3 W 3)) else none := rfl
  rw [hc, hp, if_pos (and_true2 (zfe_eq g0) (zfe_eq g1)), bf_eq (v := d) g2, bf_eq (v := a) g3, bf_eq (v := b) g4, bf_eq (v := sc) g5]

theorem hset (hd : BitVec 5) (a f : BitVec 6) : Statement (.hset hd a f) := by
  have hs := layout_hset hd a f
  refine statement_intro rfl (by decide) hs.1 hs.2.1 (fun hw x W E hc hf he hx => ?_)
  rw [ite_self] at he
  obtain ⟨g0, g1, g2, g3, g4, g5⟩ := hs.2.2 W E hf he
  change parseAlu x W E (W / 16777216 % 128) = _
  have hp : parseAlu x W E 0x58 = if zfe W 6 6 0 && zfe W 23 1 0 && zfe E 0 19 0 then some (.hset (bf 5 W 18) (bf 6 W 12) (bf 6 W 0)) else none := rfl
  rw [hc, hp, if_pos (and_true2 (and_true2 (zfe_eq g0) (zfe_eq g1)) (zfe_eq g2)), bf_eq (v := hd) g3, bf_eq (v := a) g4,
    bf_eq (v := f) g5]

theorem hget (d : BitVec 6) (ha : BitVec 5) (f : BitVec 6) : Statement (.hget d ha f) := by
  have hs := layout_hget d ha f
  refine statement_intro rfl (by decide) hs.1 hs.2.1 (fun hw x W E hc hf he hx => ?_)
  rw [ite_self] at he
  obtain ⟨g0, g1, g2, g3, g4, g5⟩ := hs.2.2 W E hf he
  change parseAlu x W E (W / 16777216 % 128) = _
  have hp : parseAlu x W E 0x59 = if zfe W 6 6 0 && zfe W 17 1 0 && zfe E 0 19 0 then some (.hget (bf 6 W 18) (bf 5 W 12) (bf 6 W 0)) else none := rfl
  rw [hc, hp, if_pos (and_true2 (and_true2 (zfe_eq g0) (zfe_eq g1)) (zfe_eq g2)), bf_eq (v := d) g3, bf_eq (v := ha) g4,
    bf_eq (v := f) g5]

theorem hadv (hd ha : BitVec 5) (b : BitVec 6) : Statement (.hadv hd ha b) := by
  have hs := layout_hadv hd ha b
  refine statement_intro rfl (by decide) hs.1 hs.2.1 (fun hw x W E hc hf he hx => ?_)
  rw [ite_self] at he
  obtain ⟨g0, g1, g2, g3, g4, g5, g6⟩ := hs.2.2 W E hf he
  change parseAlu x W E (W / 16777216 % 128) = _
  have hp : parseAlu x W E 0x5a = if zfe W 0 6 0 && zfe W 17 1 0 && zfe W 23 1 0 && zfe E 0 19 0 then some (.hadv (bf 5 W 18) (bf 5 W 12) (bf 6 W 6)) else none := rfl
  rw [hc, hp, if_pos (and_true2 (and_true2 (and_true2 (zfe_eq g0) (zfe_eq g1)) (zfe_eq g2)) (zfe_eq g3)), bf_eq (v := hd) g4,
    bf_eq (v := ha) g5, bf_eq (v := b) g6]

theorem hdim (hd : BitVec 5) (a b : BitVec 6) (k : BitVec 2) : Statement (.hdim hd a b k) := by
  have hs := layout_hdim hd a b k
  refine statement_intro rfl (by decide) hs.1 hs.2.1 (fun hw x W E hc hf he hx => ?_)
  rw [ite_self] at he
  obtain ⟨g0, g1, g2, g3, g4, g5, g6⟩ := hs.2.2 W E hf he
  change parseAlu x W E (W / 16777216 % 128) = _
  have hp : parseAlu x W E 0x5b = if zfe W 2 4 0 && zfe W 23 1 0 && zfe E 0 19 0 then some (.hdim (bf 5 W 18) (bf 6 W 12) (bf 6 W 6) (bf 2 W 0)) else none := rfl
  rw [hc, hp, if_pos (and_true2 (and_true2 (zfe_eq g0) (zfe_eq g1)) (zfe_eq g2)), bf_eq (v := hd) g3, bf_eq (v := a) g4,
    bf_eq (v := b) g5, bf_eq (v := k) g6]

theorem br (cond : BitVec 3) (a b : BitVec 6) (off : BitVec 28) : Statement (.br cond a b off) := by
  have hs := layout_br cond a b off
  refine statement_intro rfl (by decide) hs.1 hs.2.1 (fun hw x W E hc hf he hx => ?_)
  have hx : x = true ∨ off = sxf 9 28 false off.toNat 0 0 := hx.imp_right (by simp only [Instr.fitsNoExt, beq_iff_eq]; exact id)
  obtain ⟨g0, g1, g2, g3⟩ := hs.2.2 W hf
  change parseCtl x W E (W / 16777216 % 128) = _
  have hp : parseCtl x W E 0x01 = some (.br (bf 3 W 21) (bf 6 W 15) (bf 6 W 9) (sxf 9 28 x W 0 E)) := rfl
  rw [hc, hp, bf_eq (v := cond) g0, bf_eq (v := a) g1, bf_eq (v := b) g2, sxf_eq g3 he hx]

theorem jmp (off : BitVec 43) : Statement (.jmp off) := by
  have hs := layout_jmp off
  refine statement_intro rfl (by decide) hs.1 hs.2.1 (fun hw x W E hc hf he hx => ?_)
  have hx : x = true ∨ off = sxf 24 43 false off.toNat 0 0 := hx.imp_right (by simp only [Instr.fitsNoExt, beq_iff_eq]; exact id)
  have g0 := hs.2.2 W hf
  change parseCtl x W E (W / 16777216 % 128) = _
  have hp : parseCtl x W E 0x02 = some (.jmp (sxf 24 43 x W 0 E)) := rfl
  rw [hc, hp, sxf_eq g0 he hx]

theorem jr (a : BitVec 6) : Statement (.jr a) := by
  have hs := layout_jr a
  refine statement_intro rfl (by decide) hs.1 hs.2.1 (fun hw x W E hc hf he hx => ?_)
  rw [ite_self] at he
  obtain ⟨g0, g1, g2, g3⟩ := hs.2.2 W E hf he
  change parseCtl x W E (W / 16777216 % 128) = _
  have hp : parseCtl x W E 0x03 = if zfe W 0 12 0 && zfe W 18 6 0 && zfe E 0 19 0 then some (.jr (bf 6 W 12)) else none := rfl
  rw [hc, hp, if_pos (and_true2 (and_true2 (zfe_eq g0) (zfe_eq g1)) (zfe_eq g2)), bf_eq (v := a) g3]

theorem call (off : BitVec 43) : Statement (.call off) := by
  have hs := layout_jmp off
  refine statement_intro rfl (by decide) hs.1 hs.2.1 (fun hw x W E hc hf he hx => ?_)
  have hx : x = true ∨ off = sxf 24 43 false off.toNat 0 0 := hx.imp_right (by simp only [Instr.fitsNoExt, beq_iff_eq]; exact id)
  have g0 := hs.2.2 W hf
  change parseCtl x W E (W / 16777216 % 128) = _
  have hp : parseCtl x W E 0x04 = some (.call (sxf 24 43 x W 0 E)) := rfl
  rw [hc, hp, sxf_eq g0 he hx]

theorem callr (a : BitVec 6) : Statement (.callr a) := by
  have hs := layout_jr a
  refine statement_intro rfl (by decide) hs.1 hs.2.1 (fun hw x W E hc hf he hx => ?_)
  rw [ite_self] at he
  obtain ⟨g0, g1, g2, g3⟩ := hs.2.2 W E hf he
  change parseCtl x W E (W / 16777216 % 128) = _
  have hp : parseCtl x W E 0x05 = if zfe W 0 12 0 && zfe W 18 6 0 && zfe E 0 19 0 then some (.callr (bf 6 W 12)) else none := rfl
  rw [hc, hp, if_pos (and_true2 (and_true2 (zfe_eq g0) (zfe_eq g1)) (zfe_eq g2)), bf_eq (v := a) g3]

theorem loop (a sreg : BitVec 6) (nM1 : BitVec 3) (endOff : BitVec 28) : Statement (.loop a sreg nM1 endOff) := by
  have hs := layout_loop a sreg nM1 endOff
  refine statement_intro rfl (by decide) hs.1 hs.2.1 (fun hw x W E hc hf he hx => ?_)
  have hx : x = true ∨ endOff = uxf 9 28 false endOff.toNat 0 0 := hx.imp_right (by simp only [Instr.fitsNoExt, beq_iff_eq]; exact id)
  obtain ⟨g0, g1, g2, g3⟩ := hs.2.2 W hf
  change parseCtl x W E (W / 16777216 % 128) = _
  have hp : parseCtl x W E 0x07 = some (.loop (bf 6 W 18) (bf 6 W 12) (bf 3 W 9) (uxf 9 28 x W 0 E)) := rfl
  rw [hc, hp, bf_eq (v := a) g0, bf_eq (v := sreg) g1, bf_eq (v := nM1) g2, uxf_eq g3 he hx]

theorem loopi (cnt : BitVec 16) (endOff : BitVec 27) : Statement (.loopi cnt endOff) := by
  have hs := layout_loopi cnt endOff
  refine statement_intro rfl (by decide) hs.1 hs.2.1 (fun hw x W E hc hf he hx => ?_)
  have hx : x = true ∨ endOff = uxf 8 27 false endOff.toNat 0 0 := hx.imp_right (by simp only [Instr.fitsNoExt, beq_iff_eq]; exact id)
  obtain ⟨g0, g1⟩ := hs.2.2 W hf
  change parseCtl x W E (W / 16777216 % 128) = _
  have hp : parseCtl x W E 0x08 = some (.loopi (bf 16 W 8) (uxf 8 27 x W 0 E)) := rfl
  rw [hc, hp, bf_eq (v := cnt) g0, uxf_eq g1 he hx]

theorem lbrk (kM1 : BitVec 2) : Statement (.lbrk kM1) := by
  have hs := layout_lbrk kM1
  refine statement_intro rfl (by decide) hs.1 hs.2.1 (fun hw x W E hc hf he hx => ?_)
  rw [ite_self] at he
  obtain ⟨g0, g1, g2⟩ := hs.2.2 W E hf he
  change parseCtl x W E (W / 16777216 % 128) = _
  have hp : parseCtl x W E 0x09 = if zfe W 2 22 0 && zfe E 0 19 0 then some (.lbrk (bf 2 W 0)) else none := rfl
  rw [hc, hp, if_pos (and_true2 (zfe_eq g0) (zfe_eq g1)), bf_eq (v := kM1) g2]

theorem waitc (nl ns nx nm : BitVec 4) : Statement (.waitc nl ns nx nm) := by
  have hs := layout_waitc nl ns nx nm
  refine statement_intro rfl (by decide) hs.1 hs.2.1 (fun hw x W E hc hf he hx => ?_)
  rw [ite_self] at he
  obtain ⟨g0, g1, g2, g3, g4, g5⟩ := hs.2.2 W E hf he
  change parseCtl x W E (W / 16777216 % 128) = _
  have hp : parseCtl x W E 0x0a = if zfe W 16 8 0 && zfe E 0 19 0 then some (.waitc (bf 4 W 12) (bf 4 W 8) (bf 4 W 4) (bf 4 W 0)) else none := rfl
  rw [hc, hp, if_pos (and_true2 (zfe_eq g0) (zfe_eq g1)), bf_eq (v := nl) g2, bf_eq (v := ns) g3, bf_eq (v := nx) g4,
    bf_eq (v := nm) g5]

theorem waitb (n : BitVec 3) : Statement (.waitb n) := by
  have hs := layout_waitb n
  refine statement_intro rfl (by decide) hs.1 hs.2.1 (fun hw x W E hc hf he hx => ?_)
  rw [ite_self] at he
  obtain ⟨g0, g1, g2⟩ := hs.2.2 W E hf he
  change parseCtl x W E (W / 16777216 % 128) = _
  have hp : parseCtl x W E 0x0b = if zfe W 3 21 0 && zfe E 0 19 0 then some (.waitb (bf 3 W 0)) else none := rfl
  rw [hc, hp, if_pos (and_true2 (zfe_eq g0) (zfe_eq g1)), bf_eq (v := n) g2]

theorem phase (sc : BitVec 3) (m p : BitVec 6) : Statement (.phase sc m p) := by
  have hs := layout_phase sc m p
  refine statement_intro rfl (by decide) hs.1 hs.2.1 (fun hw x W E hc hf he hx => ?_)
  rw [ite_self] at he
  obtain ⟨g0, g1, g2, g3, g4⟩ := hs.2.2 W E hf he
  change parseCtl x W E (W / 16777216 % 128) = _
  have hp : parseCtl x W E 0x0c = if zfe W 0 9 0 && zfe E 0 19 0 then some (.phase (bf 3 W 21) (bf 6 W 15) (bf 6 W 9)) else none := rfl
  rw [hc, hp, if_pos (and_true2 (zfe_eq g0) (zfe_eq g1)), bf_eq (v := sc) g2, bf_eq (v := m) g3, bf_eq (v := p) g4]

theorem fence (sc : BitVec 3) : Statement (.fence sc) := by
  have hs := layout_fence sc
  refine statement_intro rfl (by decide) hs.1 hs.2.1 (fun hw x W E hc hf he hx => ?_)
  rw [ite_self] at he
  obtain ⟨g0, g1, g2⟩ := hs.2.2 W E hf he
  change parseCtl x W E (W / 16777216 % 128) = _
  have hp : parseCtl x W E 0x0d = if zfe W 0 21 0 && zfe E 0 19 0 then some (.fence (bf 3 W 21)) else none := rfl
  rw [hc, hp, if_pos (and_true2 (zfe_eq g0) (zfe_eq g1)), bf_eq (v := sc) g2]

theorem bar (n : BitVec 8) (v : BitVec 6) : Statement (.bar n v) := by
  have hs := layout_bar n v
  refine statement_intro rfl (by decide) hs.1 hs.2.1 (fun hw x W E hc hf he hx => ?_)
  rw [ite_self] at he
  obtain ⟨g0, g1, g2, g3⟩ := hs.2.2 W E hf he
  change parseCtl x W E (W / 16777216 % 128) = _
  have hp : parseCtl x W E 0x0e = if zfe W 0 10 0 && zfe E 0 19 0 then some (.bar (bf 8 W 16) (bf 6 W 10)) else none := rfl
  rw [hc, hp, if_pos (and_true2 (zfe_eq g0) (zfe_eq g1)), bf_eq (v := n) g2, bf_eq (v := v) g3]

theorem arm (n : BitVec 8) (c : BitVec 6) (nv : Bool) (node : BitVec 16) : Statement (.arm n c nv node) := by
  have hs := layout_arm n c nv node
  refine statement_intro rfl (by decide) hs.1 hs.2.1 (fun hw x W E hc hf he hx => ?_)
  have he : E % 524288 = nv.toNat * 65536 + node.toNat := by
    rcases hx with rfl | hx
    · simpa using he
    · change (!nv && node == 0) = true at hx; simp only [Bool.and_eq_true, beq_iff_eq, Bool.not_eq_true'] at hx
      simp_all
  obtain ⟨g0, g1, g2, g3, g4, g5⟩ := hs.2.2 W E hf he
  change parseCtl x W E (W / 16777216 % 128) = _
  have hp : parseCtl x W E 0x0f = if zfe W 0 10 0 && zfe E 17 2 0 then some (.arm (bf 8 W 16) (bf 6 W 10) (bb E 16) (bf 16 E 0)) else none := rfl
  rw [hc, hp, if_pos (and_true2 (zfe_eq g0) (zfe_eq g1)), bf_eq (v := n) g2, bf_eq (v := c) g3, bb_eq (b := nv) g4,
    bf_eq (v := node) g5]

theorem bwait (n : BitVec 8) : Statement (.bwait n) := by
  have hs := layout_bwait n
  refine statement_intro rfl (by decide) hs.1 hs.2.1 (fun hw x W E hc hf he hx => ?_)
  rw [ite_self] at he
  obtain ⟨g0, g1, g2, g3, g4⟩ := hs.2.2 W E hf he
  change parseCtl x W E (W / 16777216 % 128) = _
  have hp : parseCtl x W E 0x10 = if zfe W 9 1 0 && zfe W 0 9 0 && zfe W 10 6 0 && zfe E 0 19 0 then some (.bwait (bf 8 W 16)) else if zfe W 9 1 1 && zfe W 0 9 0 && zfe E 0 19 0 then some (.bwaitTry (bf 8 W 16) (bf 6 W 10)) else none := rfl
  rw [hc, hp, if_pos (and_true2 (and_true2 (and_true2 (zfe_eq g0) (zfe_eq g1)) (zfe_eq g2)) (zfe_eq g3)), bf_eq (v := n) g4]

theorem bwaitTry (n : BitVec 8) (d : BitVec 6) : Statement (.bwaitTry n d) := by
  have hs := layout_bwaitTry n d
  refine statement_intro rfl (by decide) hs.1 hs.2.1 (fun hw x W E hc hf he hx => ?_)
  rw [ite_self] at he
  obtain ⟨g0, g1, g2, g3, g4, g5⟩ := hs.2.2 W E hf he
  change parseCtl x W E (W / 16777216 % 128) = _
  have hp : parseCtl x W E 0x10 = if zfe W 9 1 0 && zfe W 0 9 0 && zfe W 10 6 0 && zfe E 0 19 0 then some (.bwait (bf 8 W 16)) else if zfe W 9 1 1 && zfe W 0 9 0 && zfe E 0 19 0 then some (.bwaitTry (bf 8 W 16) (bf 6 W 10)) else none := rfl
  rw [hc, hp, if_neg (by simp only [zfe, Bool.and_eq_true, beq_iff_eq]; tauto),
    if_pos (and_true2 (and_true2 (zfe_eq g1) (zfe_eq g2)) (zfe_eq g3)), bf_eq (v := n) g4, bf_eq (v := d) g5]

theorem spawn (d t g : BitVec 6) : Statement (.spawn d t g) := by
  have hs := layout_and d t g
  refine statement_intro rfl (by decide) hs.1 hs.2.1 (fun hw x W E hc hf he hx => ?_)
  rw [ite_self] at he
  obtain ⟨g0, g1, g2, g3, g4⟩ := hs.2.2 W E hf he
  change parseCtl x W E (W / 16777216 % 128) = _
  have hp : parseCtl x W E 0x11 = if zfe W 0 6 0 && zfe E 0 19 0 then some (.spawn (bf 6 W 18) (bf 6 W 12) (bf 6 W 6)) else none := rfl
  rw [hc, hp, if_pos (and_true2 (zfe_eq g0) (zfe_eq g1)), bf_eq (v := d) g2, bf_eq (v := t) g3, bf_eq (v := g) g4]

theorem grow (d k : BitVec 6) : Statement (.grow d k) := by
  have hs := layout_grow d k
  refine statement_intro rfl (by decide) hs.1 hs.2.1 (fun hw x W E hc hf he hx => ?_)
  rw [ite_self] at he
  obtain ⟨g0, g1, g2, g3⟩ := hs.2.2 W E hf he
  change parseCtl x W E (W / 16777216 % 128) = _
  have hp : parseCtl x W E 0x12 = if zfe W 0 12 0 && zfe E 0 19 0 then some (.grow (bf 6 W 18) (bf 6 W 12)) else none := rfl
  rw [hc, hp, if_pos (and_true2 (zfe_eq g0) (zfe_eq g1)), bf_eq (v := d) g2, bf_eq (v := k) g3]

theorem close (d g : BitVec 6) : Statement (.close d g) := by
  have hs := layout_grow d g
  refine statement_intro rfl (by decide) hs.1 hs.2.1 (fun hw x W E hc hf he hx => ?_)
  rw [ite_self] at he
  obtain ⟨g0, g1, g2, g3⟩ := hs.2.2 W E hf he
  change parseCtl x W E (W / 16777216 % 128) = _
  have hp : parseCtl x W E 0x13 = if zfe W 0 12 0 && zfe E 0 19 0 then some (.close (bf 6 W 18) (bf 6 W 12)) else none := rfl
  rw [hc, hp, if_pos (and_true2 (zfe_eq g0) (zfe_eq g1)), bf_eq (v := d) g2, bf_eq (v := g) g3]

theorem enq (d q v : BitVec 6) : Statement (.enq d q v) := by
  have hs := layout_and d q v
  refine statement_intro rfl (by decide) hs.1 hs.2.1 (fun hw x W E hc hf he hx => ?_)
  rw [ite_self] at he
  obtain ⟨g0, g1, g2, g3, g4⟩ := hs.2.2 W E hf he
  change parseCtl x W E (W / 16777216 % 128) = _
  have hp : parseCtl x W E 0x14 = if zfe W 0 6 0 && zfe E 0 19 0 then some (.enq (bf 6 W 18) (bf 6 W 12) (bf 6 W 6)) else none := rfl
  rw [hc, hp, if_pos (and_true2 (zfe_eq g0) (zfe_eq g1)), bf_eq (v := d) g2, bf_eq (v := q) g3, bf_eq (v := v) g4]

theorem deq (d q e : BitVec 6) : Statement (.deq d q e) := by
  have hs := layout_and d q e
  refine statement_intro rfl (by decide) hs.1 hs.2.1 (fun hw x W E hc hf he hx => ?_)
  rw [ite_self] at he
  obtain ⟨g0, g1, g2, g3, g4⟩ := hs.2.2 W E hf he
  change parseCtl x W E (W / 16777216 % 128) = _
  have hp : parseCtl x W E 0x15 = if zfe W 0 6 0 && zfe E 0 19 0 then some (.deq (bf 6 W 18) (bf 6 W 12) (bf 6 W 6)) else none := rfl
  rw [hc, hp, if_pos (and_true2 (zfe_eq g0) (zfe_eq g1)), bf_eq (v := d) g2, bf_eq (v := q) g3, bf_eq (v := e) g4]

theorem trap (code : BitVec 16) : Statement (.trap code) := by
  have hs := layout_trap code
  refine statement_intro rfl (by decide) hs.1 hs.2.1 (fun hw x W E hc hf he hx => ?_)
  rw [ite_self] at he
  obtain ⟨g0, g1, g2⟩ := hs.2.2 W E hf he
  change parseCtl x W E (W / 16777216 % 128) = _
  have hp : parseCtl x W E 0x17 = if zfe W 16 8 0 && zfe E 0 19 0 then some (.trap (bf 16 W 0)) else none := rfl
  rw [hc, hp, if_pos (and_true2 (zfe_eq g0) (zfe_eq g1)), bf_eq (v := code) g2]

theorem sys (code : BitVec 16) : Statement (.sys code) := by
  have hs := layout_trap code
  refine statement_intro rfl (by decide) hs.1 hs.2.1 (fun hw x W E hc hf he hx => ?_)
  rw [ite_self] at he
  obtain ⟨g0, g1, g2⟩ := hs.2.2 W E hf he
  change parseCtl x W E (W / 16777216 % 128) = _
  have hp : parseCtl x W E 0x18 = if zfe W 16 8 0 && zfe E 0 19 0 then some (.sys (bf 16 W 0)) else none := rfl
  rw [hc, hp, if_pos (and_true2 (zfe_eq g0) (zfe_eq g1)), bf_eq (v := code) g2]

theorem crr (d : BitVec 6) (num : BitVec 12) : Statement (.crr d num) := by
  have hs := layout_crr d num
  refine statement_intro rfl (by decide) hs.1 hs.2.1 (fun hw x W E hc hf he hx => ?_)
  rw [ite_self] at he
  obtain ⟨g0, g1, g2, g3⟩ := hs.2.2 W E hf he
  change parseCtl x W E (W / 16777216 % 128) = _
  have hp : parseCtl x W E 0x1a = if zfe W 12 6 0 && zfe E 0 19 0 then some (.crr (bf 6 W 18) (bf 12 W 0)) else none := rfl
  rw [hc, hp, if_pos (and_true2 (zfe_eq g0) (zfe_eq g1)), bf_eq (v := d) g2, bf_eq (v := num) g3]

theorem crw (a : BitVec 6) (num : BitVec 12) : Statement (.crw a num) := by
  have hs := layout_crw a num
  refine statement_intro rfl (by decide) hs.1 hs.2.1 (fun hw x W E hc hf he hx => ?_)
  rw [ite_self] at he
  obtain ⟨g0, g1, g2, g3⟩ := hs.2.2 W E hf he
  have hn : num.toNat ≠ 141 := crw_num hw
  change parseCtl x W E (W / 16777216 % 128) = _
  have hp : parseCtl x W E 0x1b = if zfe W 0 12 141 && zfe W 18 6 0 && zfe E 0 19 0 then some (.fqpop (bf 6 W 12)) else if zfe W 18 6 0 && zfe E 0 19 0 then some (.crw (bf 6 W 12) (bf 12 W 0)) else none := rfl
  rw [hc, hp, if_neg (by simp only [zfe, Bool.and_eq_true, beq_iff_eq]; omega), if_pos (and_true2 (zfe_eq g0) (zfe_eq g1)),
    bf_eq (v := a) g2, bf_eq (v := num) g3]

theorem fqpop (a : BitVec 6) : Statement (.fqpop a) := by
  have hs := layout_fqpop a
  refine statement_intro rfl (by decide) hs.1 hs.2.1 (fun hw x W E hc hf he hx => ?_)
  rw [ite_self] at he
  obtain ⟨g0, g1, g2, g3⟩ := hs.2.2 W E hf he
  change parseCtl x W E (W / 16777216 % 128) = _
  have hp : parseCtl x W E 0x1b = if zfe W 0 12 141 && zfe W 18 6 0 && zfe E 0 19 0 then some (.fqpop (bf 6 W 12)) else if zfe W 18 6 0 && zfe E 0 19 0 then some (.crw (bf 6 W 12) (bf 12 W 0)) else none := rfl
  rw [hc, hp, if_pos (and_true2 (and_true2 (zfe_eq g0) (zfe_eq g1)) (zfe_eq g2)), bf_eq (v := a) g3]

theorem bkpt (code : BitVec 16) : Statement (.bkpt code) := by
  have hs := layout_trap code
  refine statement_intro rfl (by decide) hs.1 hs.2.1 (fun hw x W E hc hf he hx => ?_)
  rw [ite_self] at he
  obtain ⟨g0, g1, g2⟩ := hs.2.2 W E hf he
  change parseCtl x W E (W / 16777216 % 128) = _
  have hp : parseCtl x W E 0x1c = if zfe W 16 8 0 && zfe E 0 19 0 then some (.bkpt (bf 16 W 0)) else none := rfl
  rw [hc, hp, if_pos (and_true2 (zfe_eq g0) (zfe_eq g1)), bf_eq (v := code) g2]

theorem setstep (slot k : BitVec 2) (a : BitVec 6) : Statement (.setstep slot k a) := by
  have hs := layout_setstep slot k a
  refine statement_intro rfl (by decide) hs.1 hs.2.1 (fun hw x W E hc hf he hx => ?_)
  rw [ite_self] at he
  obtain ⟨g0, g1, g2, g3, g4, g5⟩ := hs.2.2 W E hf he
  change parseCtl x W E (W / 16777216 % 128) = _
  have hp : parseCtl x W E 0x1d = if zfe W 0 12 0 && zfe W 18 2 0 && zfe E 0 19 0 then some (.setstep (bf 2 W 22) (bf 2 W 20) (bf 6 W 12)) else none := rfl
  rw [hc, hp, if_pos (and_true2 (and_true2 (zfe_eq g0) (zfe_eq g1)) (zfe_eq g2)), bf_eq (v := slot) g3, bf_eq (v := k) g4,
    bf_eq (v := a) g5]

theorem tlbiPage (a b : BitVec 6) : Statement (.tlbiPage a b) := by
  have hs := layout_tlbiPage a b
  refine statement_intro rfl (by decide) hs.1 hs.2.1 (fun hw x W E hc hf he hx => ?_)
  rw [ite_self] at he
  obtain ⟨g0, g1, g2, g3, g4⟩ := hs.2.2 W E hf he
  change parseCtl x W E (W / 16777216 % 128) = _
  have hp : parseCtl x W E 0x1f = if zfe W 21 3 0 && zfe W 0 9 0 && zfe E 0 19 0 then some (.tlbiPage (bf 6 W 15) (bf 6 W 9)) else if zfe W 21 3 1 && zfe W 0 9 0 && zfe E 0 19 0 then some (.tlbiAsn (bf 6 W 15) (bf 6 W 9)) else if zfe W 21 3 2 && zfe W 0 21 0 && zfe E 0 19 0 then some (.tlbiWorld) else if zfe W 21 3 3 && zfe W 0 15 0 && zfe E 0 19 0 then some (.tlbiWindow (bf 6 W 15)) else if zfe W 21 3 4 && zfe W 0 21 0 && zfe E 0 19 0 then some (.tlbiWindows) else if zfe W 21 3 5 && zfe W 0 9 0 && zfe E 0 19 0 then some (.tlbiHost (bf 6 W 15) (bf 6 W 9)) else none := rfl
  rw [hc, hp, if_pos (and_true2 (and_true2 (zfe_eq g0) (zfe_eq g1)) (zfe_eq g2)), bf_eq (v := a) g3, bf_eq (v := b) g4]

theorem tlbiAsn (a b : BitVec 6) : Statement (.tlbiAsn a b) := by
  have hs := layout_tlbiAsn a b
  refine statement_intro rfl (by decide) hs.1 hs.2.1 (fun hw x W E hc hf he hx => ?_)
  rw [ite_self] at he
  obtain ⟨g0, g1, g2, g3, g4, g5⟩ := hs.2.2 W E hf he
  change parseCtl x W E (W / 16777216 % 128) = _
  have hp : parseCtl x W E 0x1f = if zfe W 21 3 0 && zfe W 0 9 0 && zfe E 0 19 0 then some (.tlbiPage (bf 6 W 15) (bf 6 W 9)) else if zfe W 21 3 1 && zfe W 0 9 0 && zfe E 0 19 0 then some (.tlbiAsn (bf 6 W 15) (bf 6 W 9)) else if zfe W 21 3 2 && zfe W 0 21 0 && zfe E 0 19 0 then some (.tlbiWorld) else if zfe W 21 3 3 && zfe W 0 15 0 && zfe E 0 19 0 then some (.tlbiWindow (bf 6 W 15)) else if zfe W 21 3 4 && zfe W 0 21 0 && zfe E 0 19 0 then some (.tlbiWindows) else if zfe W 21 3 5 && zfe W 0 9 0 && zfe E 0 19 0 then some (.tlbiHost (bf 6 W 15) (bf 6 W 9)) else none := rfl
  rw [hc, hp, if_neg (by simp only [zfe, Bool.and_eq_true, beq_iff_eq]; tauto),
    if_pos (and_true2 (and_true2 (zfe_eq g1) (zfe_eq g2)) (zfe_eq g3)), bf_eq (v := a) g4, bf_eq (v := b) g5]

theorem tlbiWindow (a : BitVec 6) : Statement (.tlbiWindow a) := by
  have hs := layout_tlbiWindow a
  refine statement_intro rfl (by decide) hs.1 hs.2.1 (fun hw x W E hc hf he hx => ?_)
  rw [ite_self] at he
  obtain ⟨g0, g1, g2, g3, g4, g5, g6⟩ := hs.2.2 W E hf he
  change parseCtl x W E (W / 16777216 % 128) = _
  have hp : parseCtl x W E 0x1f = if zfe W 21 3 0 && zfe W 0 9 0 && zfe E 0 19 0 then some (.tlbiPage (bf 6 W 15) (bf 6 W 9)) else if zfe W 21 3 1 && zfe W 0 9 0 && zfe E 0 19 0 then some (.tlbiAsn (bf 6 W 15) (bf 6 W 9)) else if zfe W 21 3 2 && zfe W 0 21 0 && zfe E 0 19 0 then some (.tlbiWorld) else if zfe W 21 3 3 && zfe W 0 15 0 && zfe E 0 19 0 then some (.tlbiWindow (bf 6 W 15)) else if zfe W 21 3 4 && zfe W 0 21 0 && zfe E 0 19 0 then some (.tlbiWindows) else if zfe W 21 3 5 && zfe W 0 9 0 && zfe E 0 19 0 then some (.tlbiHost (bf 6 W 15) (bf 6 W 9)) else none := rfl
  rw [hc, hp, if_neg (by simp only [zfe, Bool.and_eq_true, beq_iff_eq]; tauto),
    if_neg (by simp only [zfe, Bool.and_eq_true, beq_iff_eq]; tauto),
    if_neg (by simp only [zfe, Bool.and_eq_true, beq_iff_eq]; tauto),
    if_pos (and_true2 (and_true2 (zfe_eq g3) (zfe_eq g4)) (zfe_eq g5)), bf_eq (v := a) g6]

theorem tlbiHost (a b : BitVec 6) : Statement (.tlbiHost a b) := by
  have hs := layout_tlbiHost a b
  refine statement_intro rfl (by decide) hs.1 hs.2.1 (fun hw x W E hc hf he hx => ?_)
  rw [ite_self] at he
  obtain ⟨g0, g1, g2, g3, g4, g5, g6, g7, g8, g9⟩ := hs.2.2 W E hf he
  change parseCtl x W E (W / 16777216 % 128) = _
  have hp : parseCtl x W E 0x1f = if zfe W 21 3 0 && zfe W 0 9 0 && zfe E 0 19 0 then some (.tlbiPage (bf 6 W 15) (bf 6 W 9)) else if zfe W 21 3 1 && zfe W 0 9 0 && zfe E 0 19 0 then some (.tlbiAsn (bf 6 W 15) (bf 6 W 9)) else if zfe W 21 3 2 && zfe W 0 21 0 && zfe E 0 19 0 then some (.tlbiWorld) else if zfe W 21 3 3 && zfe W 0 15 0 && zfe E 0 19 0 then some (.tlbiWindow (bf 6 W 15)) else if zfe W 21 3 4 && zfe W 0 21 0 && zfe E 0 19 0 then some (.tlbiWindows) else if zfe W 21 3 5 && zfe W 0 9 0 && zfe E 0 19 0 then some (.tlbiHost (bf 6 W 15) (bf 6 W 9)) else none := rfl
  rw [hc, hp, if_neg (by simp only [zfe, Bool.and_eq_true, beq_iff_eq]; tauto),
    if_neg (by simp only [zfe, Bool.and_eq_true, beq_iff_eq]; tauto),
    if_neg (by simp only [zfe, Bool.and_eq_true, beq_iff_eq]; tauto),
    if_neg (by simp only [zfe, Bool.and_eq_true, beq_iff_eq]; tauto),
    if_neg (by simp only [zfe, Bool.and_eq_true, beq_iff_eq]; tauto),
    if_pos (and_true2 (and_true2 (zfe_eq g5) (zfe_eq g6)) (zfe_eq g7)), bf_eq (v := a) g8, bf_eq (v := b) g9]

theorem mma (t : BitVec 4) (ha hb : BitVec 5) (fp : BitVec 4) (ka kb : Bool) (row0 col0 : BitVec 7) : Statement (.mma t ha hb fp ka kb row0 col0) := by
  have hs := layout_mma t ha hb fp ka kb row0 col0
  refine statement_intro rfl (by decide) hs.1 hs.2.1 (fun hw x W E hc hf he hx => ?_)
  have he : E % 524288 = row0.toNat * 128 + col0.toNat := by
    rcases hx with rfl | hx
    · simpa using he
    · change (row0 == 0 && col0 == 0) = true at hx; simp only [Bool.and_eq_true, beq_iff_eq] at hx
      simp_all
  obtain ⟨g0, g1, g2, g3, g4, g5, g6, g7, g8, g9, g10, g11⟩ := hs.2.2 W E hf he
  change parseMat x W E (W / 16777216 % 128) = _
  have hp : parseMat x W E 0x01 = if zfe W 0 2 0 && zfe W 13 1 0 && zfe W 19 1 0 && zfe E 14 5 0 then some (.mma (bf 4 W 20) (bf 5 W 14) (bf 5 W 8) (bf 4 W 4) (bb W 3) (bb W 2) (bf 7 E 7) (bf 7 E 0)) else none := rfl
  rw [hc, hp, if_pos (and_true2 (and_true2 (and_true2 (zfe_eq g0) (zfe_eq g1)) (zfe_eq g2)) (zfe_eq g3)), bf_eq (v := t) g4,
    bf_eq (v := ha) g5, bf_eq (v := hb) g6, bf_eq (v := fp) g7, bb_eq (b := ka) g8, bb_eq (b := kb) g9, bf_eq (v := row0) g10,
    bf_eq (v := col0) g11]

theorem mmax (t : BitVec 4) (ha hb : BitVec 5) (fp : BitVec 4) (ka kb : Bool) (row0 col0 : BitVec 7) : Statement (.mmax t ha hb fp ka kb row0 col0) := by
  have hs := layout_mma t ha hb fp ka kb row0 col0
  refine statement_intro rfl (by decide) hs.1 hs.2.1 (fun hw x W E hc hf he hx => ?_)
  have he : E % 524288 = row0.toNat * 128 + col0.toNat := by
    rcases hx with rfl | hx
    · simpa using he
    · change (row0 == 0 && col0 == 0) = true at hx; simp only [Bool.and_eq_true, beq_iff_eq] at hx
      simp_all
  obtain ⟨g0, g1, g2, g3, g4, g5, g6, g7, g8, g9, g10, g11⟩ := hs.2.2 W E hf he
  change parseMat x W E (W / 16777216 % 128) = _
  have hp : parseMat x W E 0x02 = if zfe W 0 2 0 && zfe W 13 1 0 && zfe W 19 1 0 && zfe E 14 5 0 then some (.mmax (bf 4 W 20) (bf 5 W 14) (bf 5 W 8) (bf 4 W 4) (bb W 3) (bb W 2) (bf 7 E 7) (bf 7 E 0)) else none := rfl
  rw [hc, hp, if_pos (and_true2 (and_true2 (and_true2 (zfe_eq g0) (zfe_eq g1)) (zfe_eq g2)) (zfe_eq g3)), bf_eq (v := t) g4,
    bf_eq (v := ha) g5, bf_eq (v := hb) g6, bf_eq (v := fp) g7, bb_eq (b := ka) g8, bb_eq (b := kb) g9, bf_eq (v := row0) g10,
    bf_eq (v := col0) g11]

theorem mmaq (t : BitVec 4) (ha hb : BitVec 5) (z : BitVec 6) (ka kb : Bool) (row0 col0 : BitVec 7) : Statement (.mmaq t ha hb z ka kb row0 col0) := by
  have hs := layout_mmaq t ha hb z ka kb row0 col0
  refine statement_intro rfl (by decide) hs.1 hs.2.1 (fun hw x W E hc hf he hx => ?_)
  have he : E % 524288 = row0.toNat * 128 + col0.toNat := by
    rcases hx with rfl | hx
    · simpa using he
    · change (row0 == 0 && col0 == 0) = true at hx; simp only [Bool.and_eq_true, beq_iff_eq] at hx
      simp_all
  obtain ⟨g0, g1, g2, g3, g4, g5, g6, g7, g8, g9, g10⟩ := hs.2.2 W E hf he
  change parseMat x W E (W / 16777216 % 128) = _
  have hp : parseMat x W E 0x03 = if zfe W 13 1 0 && zfe W 19 1 0 && zfe E 14 5 0 then some (.mmaq (bf 4 W 20) (bf 5 W 14) (bf 5 W 8) (bf 6 W 2) (bb W 1) (bb W 0) (bf 7 E 7) (bf 7 E 0)) else none := rfl
  rw [hc, hp, if_pos (and_true2 (and_true2 (zfe_eq g0) (zfe_eq g1)) (zfe_eq g2)), bf_eq (v := t) g3, bf_eq (v := ha) g4,
    bf_eq (v := hb) g5, bf_eq (v := z) g6, bb_eq (b := ka) g7, bb_eq (b := kb) g8, bf_eq (v := row0) g9, bf_eq (v := col0) g10]

theorem mzero (mask : BitVec 16) : Statement (.mzero mask) := by
  have hs := layout_mzero mask
  refine statement_intro rfl (by decide) hs.1 hs.2.1 (fun hw x W E hc hf he hx => ?_)
  rw [ite_self] at he
  obtain ⟨g0, g1, g2⟩ := hs.2.2 W E hf he
  change parseMat x W E (W / 16777216 % 128) = _
  have hp : parseMat x W E 0x04 = if zfe W 0 8 0 && zfe E 0 19 0 then some (.mzero (bf 16 W 8)) else none := rfl
  rw [hc, hp, if_pos (and_true2 (zfe_eq g0) (zfe_eq g1)), bf_eq (v := mask) g2]

theorem mrank (t : BitVec 4) (k : BitVec 6) (dir : Bool) : Statement (.mrank t k dir) := by
  have hs := layout_mrank t k dir
  refine statement_intro rfl (by decide) hs.1 hs.2.1 (fun hw x W E hc hf he hx => ?_)
  rw [ite_self] at he
  obtain ⟨g0, g1, g2, g3, g4⟩ := hs.2.2 W E hf he
  change parseMat x W E (W / 16777216 % 128) = _
  have hp : parseMat x W E 0x06 = if zfe W 0 13 0 && zfe E 0 19 0 then some (.mrank (bf 4 W 20) (bf 6 W 14) (bb W 13)) else none := rfl
  rw [hc, hp, if_pos (and_true2 (zfe_eq g0) (zfe_eq g1)), bf_eq (v := t) g2, bf_eq (v := k) g3, bb_eq (b := dir) g4]

theorem mkat (q : BitVec 8) (sum : BitVec 16) : Statement (.mkat q sum) := by
  have hs := layout_mkat q sum
  refine statement_intro rfl (by decide) hs.1 hs.2.1 (fun hw x W E hc hf he hx => ?_)
  rw [ite_self] at he
  obtain ⟨g0, g1, g2⟩ := hs.2.2 W E hf he
  change parseMat x W E (W / 16777216 % 128) = _
  have hp : parseMat x W E 0x07 = if zfe E 0 19 0 then some (.mkat (bf 8 W 16) (bf 16 W 0)) else none := rfl
  rw [hc, hp, if_pos (zfe_eq g0), bf_eq (v := q) g1, bf_eq (v := sum) g2]

theorem mpop (b : BitVec 6) (n : BitVec 8) : Statement (.mpop b n) := by
  have hs := layout_mpop b n
  refine statement_intro rfl (by decide) hs.1 hs.2.1 (fun hw x W E hc hf he hx => ?_)
  rw [ite_self] at he
  obtain ⟨g0, g1, g2, g3⟩ := hs.2.2 W E hf he
  change parseMat x W E (W / 16777216 % 128) = _
  have hp : parseMat x W E 0x08 = if zfe W 0 10 0 && zfe E 0 19 0 then some (.mpop (bf 6 W 18) (bf 8 W 10)) else none := rfl
  rw [hc, hp, if_pos (and_true2 (zfe_eq g0) (zfe_eq g1)), bf_eq (v := b) g2, bf_eq (v := n) g3]

theorem maddt (t u : BitVec 4) (i : Bool) : Statement (.maddt t u i) := by
  have hs := layout_maddt t u i
  refine statement_intro rfl (by decide) hs.1 hs.2.1 (fun hw x W E hc hf he hx => ?_)
  rw [ite_self] at he
  obtain ⟨g0, g1, g2, g3, g4⟩ := hs.2.2 W E hf he
  change parseMat x W E (W / 16777216 % 128) = _
  have hp : parseMat x W E 0x09 = if zfe W 0 15 0 && zfe E 0 19 0 then some (.maddt (bf 4 W 20) (bf 4 W 16) (bb W 15)) else none := rfl
  rw [hc, hp, if_pos (and_true2 (zfe_eq g0) (zfe_eq g1)), bf_eq (v := t) g2, bf_eq (v := u) g3, bb_eq (b := i) g4]

theorem mcopy (t u : BitVec 4) : Statement (.mcopy t u) := by
  have hs := layout_mcopy t u
  refine statement_intro rfl (by decide) hs.1 hs.2.1 (fun hw x W E hc hf he hx => ?_)
  rw [ite_self] at he
  obtain ⟨g0, g1, g2, g3⟩ := hs.2.2 W E hf he
  change parseMat x W E (W / 16777216 % 128) = _
  have hp : parseMat x W E 0x0a = if zfe W 0 16 0 && zfe E 0 19 0 then some (.mcopy (bf 4 W 20) (bf 4 W 16)) else none := rfl
  rw [hc, hp, if_pos (and_true2 (zfe_eq g0) (zfe_eq g1)), bf_eq (v := t) g2, bf_eq (v := u) g3]

theorem mthr (d : BitVec 6) (t : BitVec 4) (first cntM1 : BitVec 7) : Statement (.mthr d t first cntM1) := by
  have hs := layout_mthr d t first cntM1
  refine statement_intro rfl (by decide) hs.1 hs.2.1 (fun hw x W E hc hf he hx => ?_)
  rw [ite_self] at he
  obtain ⟨g0, g1, g2, g3, g4⟩ := hs.2.2 W E hf he
  change parseMat x W E (W / 16777216 % 128) = _
  have hp : parseMat x W E 0x0b = if zfe E 0 19 0 then some (.mthr (bf 6 W 18) (bf 4 W 14) (bf 7 W 7) (bf 7 W 0)) else none := rfl
  rw [hc, hp, if_pos (zfe_eq g0), bf_eq (v := d) g1, bf_eq (v := t) g2, bf_eq (v := first) g3, bf_eq (v := cntM1) g4]

theorem vadd (hd ha : BitVec 5) (b : BitVec 6) (rc : BitVec 3) (bs : Bool) : Statement (.vadd hd ha b rc bs) := by
  have hs := layout_vadd hd ha b rc bs
  refine statement_intro rfl (by decide) hs.1 hs.2.1 (fun hw x W E hc hf he hx => ?_)
  rw [ite_self] at he
  obtain ⟨g0, g1, g2, g3, g4, g5, g6, g7, g8⟩ := hs.2.2 W E hf he
  change parseVec x W E (W / 16777216 % 128) = _
  have hp : parseVec x W E 0x01 = if zfe W 0 2 0 && zfe W 17 1 0 && zfe W 23 1 0 && zfe E 0 19 0 then some (.vadd (bf 5 W 18) (bf 5 W 12) (bf 6 W 6) (bf 3 W 3) (bb W 2)) else none := rfl
  rw [hc, hp, if_pos (and_true2 (and_true2 (and_true2 (zfe_eq g0) (zfe_eq g1)) (zfe_eq g2)) (zfe_eq g3)), bf_eq (v := hd) g4,
    bf_eq (v := ha) g5, bf_eq (v := b) g6, bf_eq (v := rc) g7, bb_eq (b := bs) g8]

theorem vsub (hd ha : BitVec 5) (b : BitVec 6) (rc : BitVec 3) (bs : Bool) : Statement (.vsub hd ha b rc bs) := by
  have hs := layout_vadd hd ha b rc bs
  refine statement_intro rfl (by decide) hs.1 hs.2.1 (fun hw x W E hc hf he hx => ?_)
  rw [ite_self] at he
  obtain ⟨g0, g1, g2, g3, g4, g5, g6, g7, g8⟩ := hs.2.2 W E hf he
  change parseVec x W E (W / 16777216 % 128) = _
  have hp : parseVec x W E 0x02 = if zfe W 0 2 0 && zfe W 17 1 0 && zfe W 23 1 0 && zfe E 0 19 0 then some (.vsub (bf 5 W 18) (bf 5 W 12) (bf 6 W 6) (bf 3 W 3) (bb W 2)) else none := rfl
  rw [hc, hp, if_pos (and_true2 (and_true2 (and_true2 (zfe_eq g0) (zfe_eq g1)) (zfe_eq g2)) (zfe_eq g3)), bf_eq (v := hd) g4,
    bf_eq (v := ha) g5, bf_eq (v := b) g6, bf_eq (v := rc) g7, bb_eq (b := bs) g8]

theorem vmul (hd ha : BitVec 5) (b : BitVec 6) (rc : BitVec 3) (bs : Bool) : Statement (.vmul hd ha b rc bs) := by
  have hs := layout_vadd hd ha b rc bs
  refine statement_intro rfl (by decide) hs.1 hs.2.1 (fun hw x W E hc hf he hx => ?_)
  rw [ite_self] at he
  obtain ⟨g0, g1, g2, g3, g4, g5, g6, g7, g8⟩ := hs.2.2 W E hf he
  change parseVec x W E (W / 16777216 % 128) = _
  have hp : parseVec x W E 0x03 = if zfe W 0 2 0 && zfe W 17 1 0 && zfe W 23 1 0 && zfe E 0 19 0 then some (.vmul (bf 5 W 18) (bf 5 W 12) (bf 6 W 6) (bf 3 W 3) (bb W 2)) else none := rfl
  rw [hc, hp, if_pos (and_true2 (and_true2 (and_true2 (zfe_eq g0) (zfe_eq g1)) (zfe_eq g2)) (zfe_eq g3)), bf_eq (v := hd) g4,
    bf_eq (v := ha) g5, bf_eq (v := b) g6, bf_eq (v := rc) g7, bb_eq (b := bs) g8]

theorem vfma (hd ha : BitVec 5) (b : BitVec 6) (rc : BitVec 3) (bs : Bool) : Statement (.vfma hd ha b rc bs) := by
  have hs := layout_vadd hd ha b rc bs
  refine statement_intro rfl (by decide) hs.1 hs.2.1 (fun hw x W E hc hf he hx => ?_)
  rw [ite_self] at he
  obtain ⟨g0, g1, g2, g3, g4, g5, g6, g7, g8⟩ := hs.2.2 W E hf he
  change parseVec x W E (W / 16777216 % 128) = _
  have hp : parseVec x W E 0x04 = if zfe W 0 2 0 && zfe W 17 1 0 && zfe W 23 1 0 && zfe E 0 19 0 then some (.vfma (bf 5 W 18) (bf 5 W 12) (bf 6 W 6) (bf 3 W 3) (bb W 2)) else none := rfl
  rw [hc, hp, if_pos (and_true2 (and_true2 (and_true2 (zfe_eq g0) (zfe_eq g1)) (zfe_eq g2)) (zfe_eq g3)), bf_eq (v := hd) g4,
    bf_eq (v := ha) g5, bf_eq (v := b) g6, bf_eq (v := rc) g7, bb_eq (b := bs) g8]

theorem vmin (hd ha : BitVec 5) (b : BitVec 6) (rc : BitVec 3) (bs : Bool) : Statement (.vmin hd ha b rc bs) := by
  have hs := layout_vadd hd ha b rc bs
  refine statement_intro rfl (by decide) hs.1 hs.2.1 (fun hw x W E hc hf he hx => ?_)
  rw [ite_self] at he
  obtain ⟨g0, g1, g2, g3, g4, g5, g6, g7, g8⟩ := hs.2.2 W E hf he
  change parseVec x W E (W / 16777216 % 128) = _
  have hp : parseVec x W E 0x05 = if zfe W 0 2 0 && zfe W 17 1 0 && zfe W 23 1 0 && zfe E 0 19 0 then some (.vmin (bf 5 W 18) (bf 5 W 12) (bf 6 W 6) (bf 3 W 3) (bb W 2)) else none := rfl
  rw [hc, hp, if_pos (and_true2 (and_true2 (and_true2 (zfe_eq g0) (zfe_eq g1)) (zfe_eq g2)) (zfe_eq g3)), bf_eq (v := hd) g4,
    bf_eq (v := ha) g5, bf_eq (v := b) g6, bf_eq (v := rc) g7, bb_eq (b := bs) g8]

theorem vmax (hd ha : BitVec 5) (b : BitVec 6) (rc : BitVec 3) (bs : Bool) : Statement (.vmax hd ha b rc bs) := by
  have hs := layout_vadd hd ha b rc bs
  refine statement_intro rfl (by decide) hs.1 hs.2.1 (fun hw x W E hc hf he hx => ?_)
  rw [ite_self] at he
  obtain ⟨g0, g1, g2, g3, g4, g5, g6, g7, g8⟩ := hs.2.2 W E hf he
  change parseVec x W E (W / 16777216 % 128) = _
  have hp : parseVec x W E 0x06 = if zfe W 0 2 0 && zfe W 17 1 0 && zfe W 23 1 0 && zfe E 0 19 0 then some (.vmax (bf 5 W 18) (bf 5 W 12) (bf 6 W 6) (bf 3 W 3) (bb W 2)) else none := rfl
  rw [hc, hp, if_pos (and_true2 (and_true2 (and_true2 (zfe_eq g0) (zfe_eq g1)) (zfe_eq g2)) (zfe_eq g3)), bf_eq (v := hd) g4,
    bf_eq (v := ha) g5, bf_eq (v := b) g6, bf_eq (v := rc) g7, bb_eq (b := bs) g8]

theorem vabs (hd ha : BitVec 5) (rc : BitVec 3) : Statement (.vabs hd ha rc) := by
  have hs := layout_vabs hd ha rc
  refine statement_intro rfl (by decide) hs.1 hs.2.1 (fun hw x W E hc hf he hx => ?_)
  rw [ite_self] at he
  obtain ⟨g0, g1, g2, g3, g4, g5, g6, g7⟩ := hs.2.2 W E hf he
  change parseVec x W E (W / 16777216 % 128) = _
  have hp : parseVec x W E 0x07 = if zfe W 0 3 0 && zfe W 6 6 0 && zfe W 17 1 0 && zfe W 23 1 0 && zfe E 0 19 0 then some (.vabs (bf 5 W 18) (bf 5 W 12) (bf 3 W 3)) else none := rfl
  rw [hc, hp, if_pos (and_true2 (and_true2 (and_true2 (and_true2 (zfe_eq g0) (zfe_eq g1)) (zfe_eq g2)) (zfe_eq g3)) (zfe_eq g4)),
    bf_eq (v := hd) g5, bf_eq (v := ha) g6, bf_eq (v := rc) g7]

theorem vneg (hd ha : BitVec 5) (rc : BitVec 3) : Statement (.vneg hd ha rc) := by
  have hs := layout_vabs hd ha rc
  refine statement_intro rfl (by decide) hs.1 hs.2.1 (fun hw x W E hc hf he hx => ?_)
  rw [ite_self] at he
  obtain ⟨g0, g1, g2, g3, g4, g5, g6, g7⟩ := hs.2.2 W E hf he
  change parseVec x W E (W / 16777216 % 128) = _
  have hp : parseVec x W E 0x08 = if zfe W 0 3 0 && zfe W 6 6 0 && zfe W 17 1 0 && zfe W 23 1 0 && zfe E 0 19 0 then some (.vneg (bf 5 W 18) (bf 5 W 12) (bf 3 W 3)) else none := rfl
  rw [hc, hp, if_pos (and_true2 (and_true2 (and_true2 (and_true2 (zfe_eq g0) (zfe_eq g1)) (zfe_eq g2)) (zfe_eq g3)) (zfe_eq g4)),
    bf_eq (v := hd) g5, bf_eq (v := ha) g6, bf_eq (v := rc) g7]

theorem vrcp (hd ha : BitVec 5) (rc : BitVec 3) : Statement (.vrcp hd ha rc) := by
  have hs := layout_vabs hd ha rc
  refine statement_intro rfl (by decide) hs.1 hs.2.1 (fun hw x W E hc hf he hx => ?_)
  rw [ite_self] at he
  obtain ⟨g0, g1, g2, g3, g4, g5, g6, g7⟩ := hs.2.2 W E hf he
  change parseVec x W E (W / 16777216 % 128) = _
  have hp : parseVec x W E 0x09 = if zfe W 0 3 0 && zfe W 6 6 0 && zfe W 17 1 0 && zfe W 23 1 0 && zfe E 0 19 0 then some (.vrcp (bf 5 W 18) (bf 5 W 12) (bf 3 W 3)) else none := rfl
  rw [hc, hp, if_pos (and_true2 (and_true2 (and_true2 (and_true2 (zfe_eq g0) (zfe_eq g1)) (zfe_eq g2)) (zfe_eq g3)) (zfe_eq g4)),
    bf_eq (v := hd) g5, bf_eq (v := ha) g6, bf_eq (v := rc) g7]

theorem vrsq (hd ha : BitVec 5) (rc : BitVec 3) : Statement (.vrsq hd ha rc) := by
  have hs := layout_vabs hd ha rc
  refine statement_intro rfl (by decide) hs.1 hs.2.1 (fun hw x W E hc hf he hx => ?_)
  rw [ite_self] at he
  obtain ⟨g0, g1, g2, g3, g4, g5, g6, g7⟩ := hs.2.2 W E hf he
  change parseVec x W E (W / 16777216 % 128) = _
  have hp : parseVec x W E 0x0a = if zfe W 0 3 0 && zfe W 6 6 0 && zfe W 17 1 0 && zfe W 23 1 0 && zfe E 0 19 0 then some (.vrsq (bf 5 W 18) (bf 5 W 12) (bf 3 W 3)) else none := rfl
  rw [hc, hp, if_pos (and_true2 (and_true2 (and_true2 (and_true2 (zfe_eq g0) (zfe_eq g1)) (zfe_eq g2)) (zfe_eq g3)) (zfe_eq g4)),
    bf_eq (v := hd) g5, bf_eq (v := ha) g6, bf_eq (v := rc) g7]

theorem vlog2 (hd ha : BitVec 5) (rc : BitVec 3) : Statement (.vlog2 hd ha rc) := by
  have hs := layout_vabs hd ha rc
  refine statement_intro rfl (by decide) hs.1 hs.2.1 (fun hw x W E hc hf he hx => ?_)
  rw [ite_self] at he
  obtain ⟨g0, g1, g2, g3, g4, g5, g6, g7⟩ := hs.2.2 W E hf he
  change parseVec x W E (W / 16777216 % 128) = _
  have hp : parseVec x W E 0x0c = if zfe W 0 3 0 && zfe W 6 6 0 && zfe W 17 1 0 && zfe W 23 1 0 && zfe E 0 19 0 then some (.vlog2 (bf 5 W 18) (bf 5 W 12) (bf 3 W 3)) else none := rfl
  rw [hc, hp, if_pos (and_true2 (and_true2 (and_true2 (and_true2 (zfe_eq g0) (zfe_eq g1)) (zfe_eq g2)) (zfe_eq g3)) (zfe_eq g4)),
    bf_eq (v := hd) g5, bf_eq (v := ha) g6, bf_eq (v := rc) g7]

theorem vexp (hd ha : BitVec 5) (rc : BitVec 3) (base2 : Bool) : Statement (.vexp hd ha rc base2) := by
  have hs := layout_vexp hd ha rc base2
  refine statement_intro rfl (by decide) hs.1 hs.2.1 (fun hw x W E hc hf he hx => ?_)
  rw [ite_self] at he
  obtain ⟨g0, g1, g2, g3, g4, g5, g6, g7, g8⟩ := hs.2.2 W E hf he
  change parseVec x W E (W / 16777216 % 128) = _
  have hp : parseVec x W E 0x0b = if zfe W 1 2 0 && zfe W 6 6 0 && zfe W 17 1 0 && zfe W 23 1 0 && zfe E 0 19 0 then some (.vexp (bf 5 W 18) (bf 5 W 12) (bf 3 W 3) (bb W 0)) else none := rfl
  rw [hc, hp, if_pos (and_true2 (and_true2 (and_true2 (and_true2 (zfe_eq g0) (zfe_eq g1)) (zfe_eq g2)) (zfe_eq g3)) (zfe_eq g4)),
    bf_eq (v := hd) g5, bf_eq (v := ha) g6, bf_eq (v := rc) g7, bb_eq (b := base2) g8]

theorem vtblLoad (ha : BitVec 5) (t : BitVec 2) : Statement (.vtblLoad ha t) := by
  have hs := layout_vtblLoad ha t
  refine statement_intro rfl (by decide) hs.1 hs.2.1 (fun hw x W E hc hf he hx => ?_)
  rw [ite_self] at he
  obtain ⟨g0, g1, g2, g3, g4, g5, g6⟩ := hs.2.2 W E hf he
  change parseVec x W E (W / 16777216 % 128) = _
  have hp : parseVec x W E 0x0d = if zfe W 0 1 1 && zfe W 1 5 0 && zfe W 8 4 0 && zfe W 17 7 0 && zfe E 0 19 0 then some (.vtblLoad (bf 5 W 12) (bf 2 W 6)) else if zfe W 0 1 0 && zfe W 1 2 0 && zfe W 8 4 0 && zfe W 17 1 0 && zfe W 23 1 0 && zfe E 0 19 0 then some (.vtbl (bf 5 W 18) (bf 5 W 12) (bf 2 W 6) (bf 3 W 3)) else none := rfl
  rw [hc, hp, if_pos (and_true2 (and_true2 (and_true2 (and_true2 (zfe_eq g0) (zfe_eq g1)) (zfe_eq g2)) (zfe_eq g3)) (zfe_eq g4)),
    bf_eq (v := ha) g5, bf_eq (v := t) g6]

theorem vtbl (hd ha : BitVec 5) (t : BitVec 2) (rc : BitVec 3) : Statement (.vtbl hd ha t rc) := by
  have hs := layout_vtbl hd ha t rc
  refine statement_intro rfl (by decide) hs.1 hs.2.1 (fun hw x W E hc hf he hx => ?_)
  rw [ite_self] at he
  obtain ⟨g0, g1, g2, g3, g4, g5, g6, g7, g8, g9, g10⟩ := hs.2.2 W E hf he
  change parseVec x W E (W / 16777216 % 128) = _
  have hp : parseVec x W E 0x0d = if zfe W 0 1 1 && zfe W 1 5 0 && zfe W 8 4 0 && zfe W 17 7 0 && zfe E 0 19 0 then some (.vtblLoad (bf 5 W 12) (bf 2 W 6)) else if zfe W 0 1 0 && zfe W 1 2 0 && zfe W 8 4 0 && zfe W 17 1 0 && zfe W 23 1 0 && zfe E 0 19 0 then some (.vtbl (bf 5 W 18) (bf 5 W 12) (bf 2 W 6) (bf 3 W 3)) else none := rfl
  rw [hc, hp, if_neg (by simp only [zfe, Bool.and_eq_true, beq_iff_eq]; tauto),
    if_pos (and_true2 (and_true2 (and_true2 (and_true2 (and_true2 (zfe_eq g1) (zfe_eq g2)) (zfe_eq g3)) (zfe_eq g4)) (zfe_eq g5)) (zfe_eq g6)),
    bf_eq (v := hd) g7, bf_eq (v := ha) g8, bf_eq (v := t) g9, bf_eq (v := rc) g10]

theorem vcmp (hd ha hb : BitVec 5) (cond : BitVec 3) : Statement (.vcmp hd ha hb cond) := by
  have hs := layout_vcmp hd ha hb cond
  refine statement_intro rfl (by decide) hs.1 hs.2.1 (fun hw x W E hc hf he hx => ?_)
  rw [ite_self] at he
  obtain ⟨g0, g1, g2, g3, g4, g5, g6, g7, g8⟩ := hs.2.2 W E hf he
  change parseVec x W E (W / 16777216 % 128) = _
  have hp : parseVec x W E 0x0e = if zfe W 0 3 0 && zfe W 11 1 0 && zfe W 17 1 0 && zfe W 23 1 0 && zfe E 0 19 0 then some (.vcmp (bf 5 W 18) (bf 5 W 12) (bf 5 W 6) (bf 3 W 3)) else none := rfl
  rw [hc, hp, if_pos (and_true2 (and_true2 (and_true2 (and_true2 (zfe_eq g0) (zfe_eq g1)) (zfe_eq g2)) (zfe_eq g3)) (zfe_eq g4)),
    bf_eq (v := hd) g5, bf_eq (v := ha) g6, bf_eq (v := hb) g7, bf_eq (v := cond) g8]

theorem vsel (hd ha hb : BitVec 5) (rc : BitVec 3) (hm : BitVec 5) : Statement (.vsel hd ha hb rc hm) := by
  have hs := layout_vsel hd ha hb rc hm
  refine statement_intro rfl (by decide) hs.1 hs.2.1 (fun hw x W E hc hf he hx => ?_)
  have he : E % 524288 = hm.toNat := by
    rcases hx with rfl | hx
    · simpa using he
    · change (hm == 0) = true at hx; simp only [beq_iff_eq] at hx
      simp_all
  obtain ⟨g0, g1, g2, g3, g4, g5, g6, g7, g8, g9⟩ := hs.2.2 W E hf he
  change parseVec x W E (W / 16777216 % 128) = _
  have hp : parseVec x W E 0x0f = if zfe W 0 3 0 && zfe W 11 1 0 && zfe W 17 1 0 && zfe W 23 1 0 && zfe E 5 14 0 then some (.vsel (bf 5 W 18) (bf 5 W 12) (bf 5 W 6) (bf 3 W 3) (bf 5 E 0)) else none := rfl
  rw [hc, hp, if_pos (and_true2 (and_true2 (and_true2 (and_true2 (zfe_eq g0) (zfe_eq g1)) (zfe_eq g2)) (zfe_eq g3)) (zfe_eq g4)),
    bf_eq (v := hd) g5, bf_eq (v := ha) g6, bf_eq (v := hb) g7, bf_eq (v := rc) g8, bf_eq (v := hm) g9]

theorem vcvt (hd ha : BitVec 5) (rc : BitVec 3) (sat : Bool) : Statement (.vcvt hd ha rc sat) := by
  have hs := layout_vexp hd ha rc sat
  refine statement_intro rfl (by decide) hs.1 hs.2.1 (fun hw x W E hc hf he hx => ?_)
  rw [ite_self] at he
  obtain ⟨g0, g1, g2, g3, g4, g5, g6, g7, g8⟩ := hs.2.2 W E hf he
  change parseVec x W E (W / 16777216 % 128) = _
  have hp : parseVec x W E 0x10 = if zfe W 1 2 0 && zfe W 6 6 0 && zfe W 17 1 0 && zfe W 23 1 0 && zfe E 0 19 0 then some (.vcvt (bf 5 W 18) (bf 5 W 12) (bf 3 W 3) (bb W 0)) else none := rfl
  rw [hc, hp, if_pos (and_true2 (and_true2 (and_true2 (and_true2 (zfe_eq g0) (zfe_eq g1)) (zfe_eq g2)) (zfe_eq g3)) (zfe_eq g4)),
    bf_eq (v := hd) g5, bf_eq (v := ha) g6, bf_eq (v := rc) g7, bb_eq (b := sat) g8]

theorem vred (hd ha : BitVec 5) (rc : BitVec 3) (op : BitVec 2) : Statement (.vred hd ha rc op) := by
  have hs := layout_vred hd ha rc op
  refine statement_intro rfl (by decide) hs.1 hs.2.1 (fun hw x W E hc hf he hx => ?_)
  rw [ite_self] at he
  obtain ⟨g0, g1, g2, g3, g4, g5, g6, g7, g8⟩ := hs.2.2 W E hf he
  change parseVec x W E (W / 16777216 % 128) = _
  have hp : parseVec x W E 0x11 = if zfe W 2 1 0 && zfe W 6 6 0 && zfe W 17 1 0 && zfe W 23 1 0 && zfe E 0 19 0 then some (.vred (bf 5 W 18) (bf 5 W 12) (bf 3 W 3) (bf 2 W 0)) else none := rfl
  rw [hc, hp, if_pos (and_true2 (and_true2 (and_true2 (and_true2 (zfe_eq g0) (zfe_eq g1)) (zfe_eq g2)) (zfe_eq g3)) (zfe_eq g4)),
    bf_eq (v := hd) g5, bf_eq (v := ha) g6, bf_eq (v := rc) g7, bf_eq (v := op) g8]

theorem vamax (hd ha : BitVec 5) : Statement (.vamax hd ha) := by
  have hs := layout_vamax hd ha
  refine statement_intro rfl (by decide) hs.1 hs.2.1 (fun hw x W E hc hf he hx => ?_)
  rw [ite_self] at he
  obtain ⟨g0, g1, g2, g3, g4, g5⟩ := hs.2.2 W E hf he
  change parseVec x W E (W / 16777216 % 128) = _
  have hp : parseVec x W E 0x19 = if zfe W 0 12 0 && zfe W 17 1 0 && zfe W 23 1 0 && zfe E 0 19 0 then some (.vamax (bf 5 W 18) (bf 5 W 12)) else none := rfl
  rw [hc, hp, if_pos (and_true2 (and_true2 (and_true2 (zfe_eq g0) (zfe_eq g1)) (zfe_eq g2)) (zfe_eq g3)), bf_eq (v := hd) g4,
    bf_eq (v := ha) g5]

theorem vscan (hd ha : BitVec 5) (rc : BitVec 3) (ex : Bool) : Statement (.vscan hd ha rc ex) := by
  have hs := layout_vexp hd ha rc ex
  refine statement_intro rfl (by decide) hs.1 hs.2.1 (fun hw x W E hc hf he hx => ?_)
  rw [ite_self] at he
  obtain ⟨g0, g1, g2, g3, g4, g5, g6, g7, g8⟩ := hs.2.2 W E hf he
  change parseVec x W E (W / 16777216 % 128) = _
  have hp : parseVec x W E 0x12 = if zfe W 1 2 0 && zfe W 6 6 0 && zfe W 17 1 0 && zfe W 23 1 0 && zfe E 0 19 0 then some (.vscan (bf 5 W 18) (bf 5 W 12) (bf 3 W 3) (bb W 0)) else none := rfl
  rw [hc, hp, if_pos (and_true2 (and_true2 (and_true2 (and_true2 (zfe_eq g0) (zfe_eq g1)) (zfe_eq g2)) (zfe_eq g3)) (zfe_eq g4)),
    bf_eq (v := hd) g5, bf_eq (v := ha) g6, bf_eq (v := rc) g7, bb_eq (b := ex) g8]

theorem vpush (hd ha hb : BitVec 5) (sc : BitVec 3) : Statement (.vpush hd ha hb sc) := by
  have hs := layout_vcmp hd ha hb sc
  refine statement_intro rfl (by decide) hs.1 hs.2.1 (fun hw x W E hc hf he hx => ?_)
  rw [ite_self] at he
  obtain ⟨g0, g1, g2, g3, g4, g5, g6, g7, g8⟩ := hs.2.2 W E hf he
  change parseVec x W E (W / 16777216 % 128) = _
  have hp : parseVec x W E 0x13 = if zfe W 0 3 0 && zfe W 11 1 0 && zfe W 17 1 0 && zfe W 23 1 0 && zfe E 0 19 0 then some (.vpush (bf 5 W 18) (bf 5 W 12) (bf 5 W 6) (bf 3 W 3)) else none := rfl
  rw [hc, hp, if_pos (and_true2 (and_true2 (and_true2 (and_true2 (zfe_eq g0) (zfe_eq g1)) (zfe_eq g2)) (zfe_eq g3)) (zfe_eq g4)),
    bf_eq (v := hd) g5, bf_eq (v := ha) g6, bf_eq (v := hb) g7, bf_eq (v := sc) g8]

theorem vpop (hd ha hb : BitVec 5) (sc : BitVec 3) : Statement (.vpop hd ha hb sc) := by
  have hs := layout_vcmp hd ha hb sc
  refine statement_intro rfl (by decide) hs.1 hs.2.1 (fun hw x W E hc hf he hx => ?_)
  rw [ite_self] at he
  obtain ⟨g0, g1, g2, g3, g4, g5, g6, g7, g8⟩ := hs.2.2 W E hf he
  change parseVec x W E (W / 16777216 % 128) = _
  have hp : parseVec x W E 0x14 = if zfe W 0 3 0 && zfe W 11 1 0 && zfe W 17 1 0 && zfe W 23 1 0 && zfe E 0 19 0 then some (.vpop (bf 5 W 18) (bf 5 W 12) (bf 5 W 6) (bf 3 W 3)) else none := rfl
  rw [hc, hp, if_pos (and_true2 (and_true2 (and_true2 (and_true2 (zfe_eq g0) (zfe_eq g1)) (zfe_eq g2)) (zfe_eq g3)) (zfe_eq g4)),
    bf_eq (v := hd) g5, bf_eq (v := ha) g6, bf_eq (v := hb) g7, bf_eq (v := sc) g8]

theorem vhist (hd ha : BitVec 5) (clr : Bool) : Statement (.vhist hd ha clr) := by
  have hs := layout_vhist hd ha clr
  refine statement_intro rfl (by decide) hs.1 hs.2.1 (fun hw x W E hc hf he hx => ?_)
  rw [ite_self] at he
  obtain ⟨g0, g1, g2, g3, g4, g5, g6⟩ := hs.2.2 W E hf he
  change parseVec x W E (W / 16777216 % 128) = _
  have hp : parseVec x W E 0x15 = if zfe W 1 11 0 && zfe W 17 1 0 && zfe W 23 1 0 && zfe E 0 19 0 then some (.vhist (bf 5 W 18) (bf 5 W 12) (bb W 0)) else none := rfl
  rw [hc, hp, if_pos (and_true2 (and_true2 (and_true2 (zfe_eq g0) (zfe_eq g1)) (zfe_eq g2)) (zfe_eq g3)), bf_eq (v := hd) g4,
    bf_eq (v := ha) g5, bb_eq (b := clr) g6]

theorem viota (hd : BitVec 5) (b : BitVec 6) (rc : BitVec 3) : Statement (.viota hd b rc) := by
  have hs := layout_viota hd b rc
  refine statement_intro rfl (by decide) hs.1 hs.2.1 (fun hw x W E hc hf he hx => ?_)
  rw [ite_self] at he
  obtain ⟨g0, g1, g2, g3, g4, g5, g6, g7⟩ := hs.2.2 W E hf he
  change parseVec x W E (W / 16777216 % 128) = _
  have hp : parseVec x W E 0x16 = if zfe W 2 1 1 && zfe W 0 2 0 && zfe W 12 6 0 && zfe W 23 1 0 && zfe E 0 19 0 then some (.viota (bf 5 W 18) (bf 6 W 6) (bf 3 W 3)) else none := rfl
  rw [hc, hp, if_pos (and_true2 (and_true2 (and_true2 (and_true2 (zfe_eq g0) (zfe_eq g1)) (zfe_eq g2)) (zfe_eq g3)) (zfe_eq g4)),
    bf_eq (v := hd) g5, bf_eq (v := b) g6, bf_eq (v := rc) g7]

theorem vmov (hd ha : BitVec 5) : Statement (.vmov hd ha) := by
  have hs := layout_vmov hd ha
  refine statement_intro rfl (by decide) hs.1 hs.2.1 (fun hw x W E hc hf he hx => ?_)
  rw [ite_self] at he
  obtain ⟨g0, g1, g2, g3, g4, g5, g6, g7⟩ := hs.2.2 W E hf he
  change parseVec x W E (W / 16777216 % 128) = _
  have hp : parseVec x W E 0x17 = if zfe W 2 1 0 && zfe W 0 2 0 && zfe W 3 9 0 && zfe W 17 1 0 && zfe W 23 1 0 && zfe E 0 19 0 then some (.vmov (bf 5 W 18) (bf 5 W 12)) else if zfe W 2 1 1 && zfe W 0 2 0 && zfe W 3 3 0 && zfe W 12 6 0 && zfe W 23 1 0 && zfe E 0 19 0 then some (.vmovScalar (bf 5 W 18) (bf 6 W 6)) else none := rfl
  rw [hc, hp,
    if_pos (and_true2 (and_true2 (and_true2 (and_true2 (and_true2 (zfe_eq g0) (zfe_eq g1)) (zfe_eq g2)) (zfe_eq g3)) (zfe_eq g4)) (zfe_eq g5)),
    bf_eq (v := hd) g6, bf_eq (v := ha) g7]

theorem vmovScalar (hd : BitVec 5) (b : BitVec 6) : Statement (.vmovScalar hd b) := by
  have hs := layout_vmovScalar hd b
  refine statement_intro rfl (by decide) hs.1 hs.2.1 (fun hw x W E hc hf he hx => ?_)
  rw [ite_self] at he
  obtain ⟨g0, g1, g2, g3, g4, g5, g6, g7, g8⟩ := hs.2.2 W E hf he
  change parseVec x W E (W / 16777216 % 128) = _
  have hp : parseVec x W E 0x17 = if zfe W 2 1 0 && zfe W 0 2 0 && zfe W 3 9 0 && zfe W 17 1 0 && zfe W 23 1 0 && zfe E 0 19 0 then some (.vmov (bf 5 W 18) (bf 5 W 12)) else if zfe W 2 1 1 && zfe W 0 2 0 && zfe W 3 3 0 && zfe W 12 6 0 && zfe W 23 1 0 && zfe E 0 19 0 then some (.vmovScalar (bf 5 W 18) (bf 6 W 6)) else none := rfl
  rw [hc, hp, if_neg (by simp only [zfe, Bool.and_eq_true, beq_iff_eq]; tauto),
    if_pos (and_true2 (and_true2 (and_true2 (and_true2 (and_true2 (zfe_eq g1) (zfe_eq g2)) (zfe_eq g3)) (zfe_eq g4)) (zfe_eq g5)) (zfe_eq g6)),
    bf_eq (v := hd) g7, bf_eq (v := b) g8]

theorem vshuf (hd ha hb : BitVec 5) : Statement (.vshuf hd ha hb) := by
  have hs := layout_vshuf hd ha hb
  refine statement_intro rfl (by decide) hs.1 hs.2.1 (fun hw x W E hc hf he hx => ?_)
  rw [ite_self] at he
  obtain ⟨g0, g1, g2, g3, g4, g5, g6, g7⟩ := hs.2.2 W E hf he
  change parseVec x W E (W / 16777216 % 128) = _
  have hp : parseVec x W E 0x18 = if zfe W 0 6 0 && zfe W 11 1 0 && zfe W 17 1 0 && zfe W 23 1 0 && zfe E 0 19 0 then some (.vshuf (bf 5 W 18) (bf 5 W 12) (bf 5 W 6)) else none := rfl
  rw [hc, hp, if_pos (and_true2 (and_true2 (and_true2 (and_true2 (zfe_eq g0) (zfe_eq g1)) (zfe_eq g2)) (zfe_eq g3)) (zfe_eq g4)),
    bf_eq (v := hd) g5, bf_eq (v := ha) g6, bf_eq (v := hb) g7]

theorem ppack (hd ha : BitVec 5) (rc : BitVec 3) (sat : Bool) : Statement (.ppack hd ha rc sat) := by
  have hs := layout_ppack hd ha rc sat
  refine statement_intro rfl (by decide) hs.1 hs.2.1 (fun hw x W E hc hf he hx => ?_)
  rw [ite_self] at he
  obtain ⟨g0, g1, g2, g3, g4, g5, g6, g7, g8⟩ := hs.2.2 W E hf he
  change parsePrm x W E (W / 16777216 % 128) = _
  have hp : parsePrm x W E 0x01 = if zfe W 0 2 0 && zfe W 6 6 0 && zfe W 17 1 0 && zfe W 23 1 0 && zfe E 0 19 0 then some (.ppack (bf 5 W 18) (bf 5 W 12) (bf 3 W 3) (bb W 2)) else none := rfl
  rw [hc, hp, if_pos (and_true2 (and_true2 (and_true2 (and_true2 (zfe_eq g0) (zfe_eq g1)) (zfe_eq g2)) (zfe_eq g3)) (zfe_eq g4)),
    bf_eq (v := hd) g5, bf_eq (v := ha) g6, bf_eq (v := rc) g7, bb_eq (b := sat) g8]

theorem punpk (hd ha : BitVec 5) : Statement (.punpk hd ha) := by
  have hs := layout_vamax hd ha
  refine statement_intro rfl (by decide) hs.1 hs.2.1 (fun hw x W E hc hf he hx => ?_)
  rw [ite_self] at he
  obtain ⟨g0, g1, g2, g3, g4, g5⟩ := hs.2.2 W E hf he
  change parsePrm x W E (W / 16777216 % 128) = _
  have hp : parsePrm x W E 0x02 = if zfe W 0 12 0 && zfe W 17 1 0 && zfe W 23 1 0 && zfe E 0 19 0 then some (.punpk (bf 5 W 18) (bf 5 W 12)) else none := rfl
  rw [hc, hp, if_pos (and_true2 (and_true2 (and_true2 (zfe_eq g0) (zfe_eq g1)) (zfe_eq g2)) (zfe_eq g3)), bf_eq (v := hd) g4,
    bf_eq (v := ha) g5]

theorem pscale (hd ha : BitVec 5) (s : BitVec 6) (rc : BitVec 3) : Statement (.pscale hd ha s rc) := by
  have hs := layout_pscale hd ha s rc
  refine statement_intro rfl (by decide) hs.1 hs.2.1 (fun hw x W E hc hf he hx => ?_)
  rw [ite_self] at he
  obtain ⟨g0, g1, g2, g3, g4, g5, g6, g7⟩ := hs.2.2 W E hf he
  change parsePrm x W E (W / 16777216 % 128) = _
  have hp : parsePrm x W E 0x03 = if zfe W 0 3 0 && zfe W 17 1 0 && zfe W 23 1 0 && zfe E 0 19 0 then some (.pscale (bf 5 W 18) (bf 5 W 12) (bf 6 W 6) (bf 3 W 3)) else none := rfl
  rw [hc, hp, if_pos (and_true2 (and_true2 (and_true2 (zfe_eq g0) (zfe_eq g1)) (zfe_eq g2)) (zfe_eq g3)), bf_eq (v := hd) g4,
    bf_eq (v := ha) g5, bf_eq (v := s) g6, bf_eq (v := rc) g7]

theorem pqnt (hd ha : BitVec 5) (s : BitVec 6) (rc : BitVec 3) (sat : Bool) : Statement (.pqnt hd ha s rc sat) := by
  have hs := layout_vadd hd ha s rc sat
  refine statement_intro rfl (by decide) hs.1 hs.2.1 (fun hw x W E hc hf he hx => ?_)
  rw [ite_self] at he
  obtain ⟨g0, g1, g2, g3, g4, g5, g6, g7, g8⟩ := hs.2.2 W E hf he
  change parsePrm x W E (W / 16777216 % 128) = _
  have hp : parsePrm x W E 0x04 = if zfe W 0 2 0 && zfe W 17 1 0 && zfe W 23 1 0 && zfe E 0 19 0 then some (.pqnt (bf 5 W 18) (bf 5 W 12) (bf 6 W 6) (bf 3 W 3) (bb W 2)) else none := rfl
  rw [hc, hp, if_pos (and_true2 (and_true2 (and_true2 (zfe_eq g0) (zfe_eq g1)) (zfe_eq g2)) (zfe_eq g3)), bf_eq (v := hd) g4,
    bf_eq (v := ha) g5, bf_eq (v := s) g6, bf_eq (v := rc) g7, bb_eq (b := sat) g8]

theorem pdq (hd ha : BitVec 5) (rc : BitVec 3) : Statement (.pdq hd ha rc) := by
  have hs := layout_vabs hd ha rc
  refine statement_intro rfl (by decide) hs.1 hs.2.1 (fun hw x W E hc hf he hx => ?_)
  rw [ite_self] at he
  obtain ⟨g0, g1, g2, g3, g4, g5, g6, g7⟩ := hs.2.2 W E hf he
  change parsePrm x W E (W / 16777216 % 128) = _
  have hp : parsePrm x W E 0x05 = if zfe W 0 3 0 && zfe W 6 6 0 && zfe W 17 1 0 && zfe W 23 1 0 && zfe E 0 19 0 then some (.pdq (bf 5 W 18) (bf 5 W 12) (bf 3 W 3)) else none := rfl
  rw [hc, hp, if_pos (and_true2 (and_true2 (and_true2 (and_true2 (zfe_eq g0) (zfe_eq g1)) (zfe_eq g2)) (zfe_eq g3)) (zfe_eq g4)),
    bf_eq (v := hd) g5, bf_eq (v := ha) g6, bf_eq (v := rc) g7]

theorem ptrn (hd ha : BitVec 5) (w32 : Bool) : Statement (.ptrn hd ha w32) := by
  have hs := layout_vhist hd ha w32
  refine statement_intro rfl (by decide) hs.1 hs.2.1 (fun hw x W E hc hf he hx => ?_)
  rw [ite_self] at he
  obtain ⟨g0, g1, g2, g3, g4, g5, g6⟩ := hs.2.2 W E hf he
  change parsePrm x W E (W / 16777216 % 128) = _
  have hp : parsePrm x W E 0x06 = if zfe W 1 11 0 && zfe W 17 1 0 && zfe W 23 1 0 && zfe E 0 19 0 then some (.ptrn (bf 5 W 18) (bf 5 W 12) (bb W 0)) else none := rfl
  rw [hc, hp, if_pos (and_true2 (and_true2 (and_true2 (zfe_eq g0) (zfe_eq g1)) (zfe_eq g2)) (zfe_eq g3)), bf_eq (v := hd) g4,
    bf_eq (v := ha) g5, bb_eq (b := w32) g6]

theorem pbcast (hd ha : BitVec 5) : Statement (.pbcast hd ha) := by
  have hs := layout_vamax hd ha
  refine statement_intro rfl (by decide) hs.1 hs.2.1 (fun hw x W E hc hf he hx => ?_)
  rw [ite_self] at he
  obtain ⟨g0, g1, g2, g3, g4, g5⟩ := hs.2.2 W E hf he
  change parsePrm x W E (W / 16777216 % 128) = _
  have hp : parsePrm x W E 0x07 = if zfe W 0 12 0 && zfe W 17 1 0 && zfe W 23 1 0 && zfe E 0 19 0 then some (.pbcast (bf 5 W 18) (bf 5 W 12)) else none := rfl
  rw [hc, hp, if_pos (and_true2 (and_true2 (and_true2 (zfe_eq g0) (zfe_eq g1)) (zfe_eq g2)) (zfe_eq g3)), bf_eq (v := hd) g4,
    bf_eq (v := ha) g5]

theorem pperm (hd ha : BitVec 5) (s : BitVec 6) : Statement (.pperm hd ha s) := by
  have hs := layout_hadv hd ha s
  refine statement_intro rfl (by decide) hs.1 hs.2.1 (fun hw x W E hc hf he hx => ?_)
  rw [ite_self] at he
  obtain ⟨g0, g1, g2, g3, g4, g5, g6⟩ := hs.2.2 W E hf he
  change parsePrm x W E (W / 16777216 % 128) = _
  have hp : parsePrm x W E 0x08 = if zfe W 0 6 0 && zfe W 17 1 0 && zfe W 23 1 0 && zfe E 0 19 0 then some (.pperm (bf 5 W 18) (bf 5 W 12) (bf 6 W 6)) else none := rfl
  rw [hc, hp, if_pos (and_true2 (and_true2 (and_true2 (zfe_eq g0) (zfe_eq g1)) (zfe_eq g2)) (zfe_eq g3)), bf_eq (v := hd) g4,
    bf_eq (v := ha) g5, bf_eq (v := s) g6]

theorem sldt (a : BitVec 6) : Statement (.sldt a) := by
  have hs := layout_jr a
  refine statement_intro rfl (by decide) hs.1 hs.2.1 (fun hw x W E hc hf he hx => ?_)
  rw [ite_self] at he
  obtain ⟨g0, g1, g2, g3⟩ := hs.2.2 W E hf he
  change parseScl x W E (W / 16777216 % 128) = _
  have hp : parseScl x W E 0x01 = if zfe W 0 12 0 && zfe W 18 6 0 && zfe E 0 19 0 then some (.sldt (bf 6 W 12)) else none := rfl
  rw [hc, hp, if_pos (and_true2 (and_true2 (zfe_eq g0) (zfe_eq g1)) (zfe_eq g2)), bf_eq (v := a) g3]

theorem sldb (a : BitVec 6) : Statement (.sldb a) := by
  have hs := layout_jr a
  refine statement_intro rfl (by decide) hs.1 hs.2.1 (fun hw x W E hc hf he hx => ?_)
  rw [ite_self] at he
  obtain ⟨g0, g1, g2, g3⟩ := hs.2.2 W E hf he
  change parseScl x W E (W / 16777216 % 128) = _
  have hp : parseScl x W E 0x02 = if zfe W 0 12 0 && zfe W 18 6 0 && zfe E 0 19 0 then some (.sldb (bf 6 W 12)) else none := rfl
  rw [hc, hp, if_pos (and_true2 (and_true2 (zfe_eq g0) (zfe_eq g1)) (zfe_eq g2)), bf_eq (v := a) g3]

theorem sseti (t : BitVec 4) (byte : BitVec 8) : Statement (.sseti t byte) := by
  have hs := layout_sseti t byte
  refine statement_intro rfl (by decide) hs.1 hs.2.1 (fun hw x W E hc hf he hx => ?_)
  rw [ite_self] at he
  obtain ⟨g0, g1, g2, g3⟩ := hs.2.2 W E hf he
  change parseScl x W E (W / 16777216 % 128) = _
  have hp : parseScl x W E 0x03 = if zfe W 0 12 0 && zfe E 0 19 0 then some (.sseti (bf 4 W 20) (bf 8 W 12)) else none := rfl
  rw [hc, hp, if_pos (and_true2 (zfe_eq g0) (zfe_eq g1)), bf_eq (v := t) g2, bf_eq (v := byte) g3]

theorem smode (m : Bool) : Statement (.smode m) := by
  have hs := layout_smode m
  refine statement_intro rfl (by decide) hs.1 hs.2.1 (fun hw x W E hc hf he hx => ?_)
  rw [ite_self] at he
  obtain ⟨g0, g1, g2⟩ := hs.2.2 W E hf he
  change parseScl x W E (W / 16777216 % 128) = _
  have hp : parseScl x W E 0x04 = if zfe W 1 23 0 && zfe E 0 19 0 then some (.smode (bb W 0)) else none := rfl
  rw [hc, hp, if_pos (and_true2 (zfe_eq g0) (zfe_eq g1)), bb_eq (b := m) g2]

theorem cpy (hd ha : BitVec 5) (c : BitVec 6) (sc : BitVec 3) (ct : BitVec 2) (tgt : BitVec 16) : Statement (.cpy hd ha c sc ct tgt) := by
  have hs := layout_cpy hd ha c sc ct tgt
  refine statement_intro rfl (by decide) hs.1 hs.2.1 (fun hw x W E hc hf he hx => ?_)
  have he : E % 524288 = ct.toNat * 131072 + tgt.toNat := by
    rcases hx with rfl | hx
    · simpa using he
    · change (ct == 0 && tgt == 0) = true at hx; simp only [Bool.and_eq_true, beq_iff_eq] at hx
      simp_all
  obtain ⟨g0, g1, g2, g3, g4, g5, g6, g7, g8, g9⟩ := hs.2.2 W E hf he
  change parseXfr x W E (W / 16777216 % 128) = _
  have hp : parseXfr x W E 0x01 = if zfe W 0 3 0 && zfe W 17 1 0 && zfe W 23 1 0 && zfe E 16 1 0 then some (.cpy (bf 5 W 18) (bf 5 W 12) (bf 6 W 6) (bf 3 W 3) (bf 2 E 17) (bf 16 E 0)) else none := rfl
  rw [hc, hp, if_pos (and_true2 (and_true2 (and_true2 (zfe_eq g0) (zfe_eq g1)) (zfe_eq g2)) (zfe_eq g3)), bf_eq (v := hd) g4,
    bf_eq (v := ha) g5, bf_eq (v := c) g6, bf_eq (v := sc) g7, bf_eq (v := ct) g8, bf_eq (v := tgt) g9]

theorem cpym (hd ha : BitVec 5) (c : BitVec 6) (sc : BitVec 3) (ct : BitVec 2) (tgt : BitVec 16) : Statement (.cpym hd ha c sc ct tgt) := by
  have hs := layout_cpy hd ha c sc ct tgt
  refine statement_intro rfl (by decide) hs.1 hs.2.1 (fun hw x W E hc hf he hx => ?_)
  have he : E % 524288 = ct.toNat * 131072 + tgt.toNat := by
    rcases hx with rfl | hx
    · simpa using he
    · change (ct == 0 && tgt == 0) = true at hx; simp only [Bool.and_eq_true, beq_iff_eq] at hx
      simp_all
  obtain ⟨g0, g1, g2, g3, g4, g5, g6, g7, g8, g9⟩ := hs.2.2 W E hf he
  change parseXfr x W E (W / 16777216 % 128) = _
  have hp : parseXfr x W E 0x02 = if zfe W 0 3 0 && zfe W 17 1 0 && zfe W 23 1 0 && zfe E 16 1 0 then some (.cpym (bf 5 W 18) (bf 5 W 12) (bf 6 W 6) (bf 3 W 3) (bf 2 E 17) (bf 16 E 0)) else none := rfl
  rw [hc, hp, if_pos (and_true2 (and_true2 (and_true2 (zfe_eq g0) (zfe_eq g1)) (zfe_eq g2)) (zfe_eq g3)), bf_eq (v := hd) g4,
    bf_eq (v := ha) g5, bf_eq (v := c) g6, bf_eq (v := sc) g7, bf_eq (v := ct) g8, bf_eq (v := tgt) g9]

theorem cpys (hd ha : BitVec 5) (c : BitVec 6) (sc : BitVec 3) (ct : BitVec 2) (tgt : BitVec 16) : Statement (.cpys hd ha c sc ct tgt) := by
  have hs := layout_cpy hd ha c sc ct tgt
  refine statement_intro rfl (by decide) hs.1 hs.2.1 (fun hw x W E hc hf he hx => ?_)
  have he : E % 524288 = ct.toNat * 131072 + tgt.toNat := by
    rcases hx with rfl | hx
    · simpa using he
    · change (ct == 0 && tgt == 0) = true at hx; simp only [Bool.and_eq_true, beq_iff_eq] at hx
      simp_all
  obtain ⟨g0, g1, g2, g3, g4, g5, g6, g7, g8, g9⟩ := hs.2.2 W E hf he
  change parseXfr x W E (W / 16777216 % 128) = _
  have hp : parseXfr x W E 0x03 = if zfe W 0 3 0 && zfe W 17 1 0 && zfe W 23 1 0 && zfe E 16 1 0 then some (.cpys (bf 5 W 18) (bf 5 W 12) (bf 6 W 6) (bf 3 W 3) (bf 2 E 17) (bf 16 E 0)) else none := rfl
  rw [hc, hp, if_pos (and_true2 (and_true2 (and_true2 (zfe_eq g0) (zfe_eq g1)) (zfe_eq g2)) (zfe_eq g3)), bf_eq (v := hd) g4,
    bf_eq (v := ha) g5, bf_eq (v := c) g6, bf_eq (v := sc) g7, bf_eq (v := ct) g8, bf_eq (v := tgt) g9]

theorem gath (hd ha : BitVec 5) (c : BitVec 6) (sc : BitVec 3) (ct : BitVec 2) (tgt : BitVec 16) : Statement (.gath hd ha c sc ct tgt) := by
  have hs := layout_cpy hd ha c sc ct tgt
  refine statement_intro rfl (by decide) hs.1 hs.2.1 (fun hw x W E hc hf he hx => ?_)
  have he : E % 524288 = ct.toNat * 131072 + tgt.toNat := by
    rcases hx with rfl | hx
    · simpa using he
    · change (ct == 0 && tgt == 0) = true at hx; simp only [Bool.and_eq_true, beq_iff_eq] at hx
      simp_all
  obtain ⟨g0, g1, g2, g3, g4, g5, g6, g7, g8, g9⟩ := hs.2.2 W E hf he
  change parseXfr x W E (W / 16777216 % 128) = _
  have hp : parseXfr x W E 0x04 = if zfe W 0 3 0 && zfe W 17 1 0 && zfe W 23 1 0 && zfe E 16 1 0 then some (.gath (bf 5 W 18) (bf 5 W 12) (bf 6 W 6) (bf 3 W 3) (bf 2 E 17) (bf 16 E 0)) else none := rfl
  rw [hc, hp, if_pos (and_true2 (and_true2 (and_true2 (zfe_eq g0) (zfe_eq g1)) (zfe_eq g2)) (zfe_eq g3)), bf_eq (v := hd) g4,
    bf_eq (v := ha) g5, bf_eq (v := c) g6, bf_eq (v := sc) g7, bf_eq (v := ct) g8, bf_eq (v := tgt) g9]

theorem scat (hd ha : BitVec 5) (c : BitVec 6) (sc : BitVec 3) (ct : BitVec 2) (tgt : BitVec 16) : Statement (.scat hd ha c sc ct tgt) := by
  have hs := layout_cpy hd ha c sc ct tgt
  refine statement_intro rfl (by decide) hs.1 hs.2.1 (fun hw x W E hc hf he hx => ?_)
  have he : E % 524288 = ct.toNat * 131072 + tgt.toNat := by
    rcases hx with rfl | hx
    · simpa using he
    · change (ct == 0 && tgt == 0) = true at hx; simp only [Bool.and_eq_true, beq_iff_eq] at hx
      simp_all
  obtain ⟨g0, g1, g2, g3, g4, g5, g6, g7, g8, g9⟩ := hs.2.2 W E hf he
  change parseXfr x W E (W / 16777216 % 128) = _
  have hp : parseXfr x W E 0x05 = if zfe W 0 3 0 && zfe W 17 1 0 && zfe W 23 1 0 && zfe E 16 1 0 then some (.scat (bf 5 W 18) (bf 5 W 12) (bf 6 W 6) (bf 3 W 3) (bf 2 E 17) (bf 16 E 0)) else none := rfl
  rw [hc, hp, if_pos (and_true2 (and_true2 (and_true2 (zfe_eq g0) (zfe_eq g1)) (zfe_eq g2)) (zfe_eq g3)), bf_eq (v := hd) g4,
    bf_eq (v := ha) g5, bf_eq (v := c) g6, bf_eq (v := sc) g7, bf_eq (v := ct) g8, bf_eq (v := tgt) g9]

theorem drain (hd : BitVec 5) (t : BitVec 4) (c : BitVec 6) (sc : BitVec 3) (ct : BitVec 2) (tgt : BitVec 16) : Statement (.drain hd t c sc ct tgt) := by
  have hs := layout_drain hd t c sc ct tgt
  refine statement_intro rfl (by decide) hs.1 hs.2.1 (fun hw x W E hc hf he hx => ?_)
  have he : E % 524288 = ct.toNat * 131072 + tgt.toNat := by
    rcases hx with rfl | hx
    · simpa using he
    · change (ct == 0 && tgt == 0) = true at hx; simp only [Bool.and_eq_true, beq_iff_eq] at hx
      simp_all
  obtain ⟨g0, g1, g2, g3, g4, g5, g6, g7, g8, g9⟩ := hs.2.2 W E hf he
  change parseXfr x W E (W / 16777216 % 128) = _
  have hp : parseXfr x W E 0x06 = if zfe W 0 3 0 && zfe W 16 2 0 && zfe W 23 1 0 && zfe E 16 1 0 then some (.drain (bf 5 W 18) (bf 4 W 12) (bf 6 W 6) (bf 3 W 3) (bf 2 E 17) (bf 16 E 0)) else none := rfl
  rw [hc, hp, if_pos (and_true2 (and_true2 (and_true2 (zfe_eq g0) (zfe_eq g1)) (zfe_eq g2)) (zfe_eq g3)), bf_eq (v := hd) g4,
    bf_eq (v := t) g5, bf_eq (v := c) g6, bf_eq (v := sc) g7, bf_eq (v := ct) g8, bf_eq (v := tgt) g9]

theorem drainkSel (hd : BitVec 5) (t : BitVec 4) (c : BitVec 6) (sc : BitVec 3) (ct : BitVec 2) (tgt : BitVec 16) : Statement (.drainkSel hd t c sc ct tgt) := by
  have hs := layout_drain hd t c sc ct tgt
  refine statement_intro rfl (by decide) hs.1 hs.2.1 (fun hw x W E hc hf he hx => ?_)
  have he : E % 524288 = ct.toNat * 131072 + tgt.toNat := by
    rcases hx with rfl | hx
    · simpa using he
    · change (ct == 0 && tgt == 0) = true at hx; simp only [Bool.and_eq_true, beq_iff_eq] at hx
      simp_all
  obtain ⟨g0, g1, g2, g3, g4, g5, g6, g7, g8, g9⟩ := hs.2.2 W E hf he
  change parseXfr x W E (W / 16777216 % 128) = _
  have hp : parseXfr x W E 0x07 = if zfe W 0 3 0 && zfe W 16 2 0 && zfe W 23 1 0 && zfe E 16 1 0 then some (.drainkSel (bf 5 W 18) (bf 4 W 12) (bf 6 W 6) (bf 3 W 3) (bf 2 E 17) (bf 16 E 0)) else if zfe W 0 3 1 && zfe W 16 2 0 && zfe W 22 2 0 && zfe E 0 19 0 then some (.drainkMerge (bf 4 W 18) (bf 4 W 12) (bf 6 W 6) (bf 3 W 3)) else none := rfl
  rw [hc, hp, if_pos (and_true2 (and_true2 (and_true2 (zfe_eq g0) (zfe_eq g1)) (zfe_eq g2)) (zfe_eq g3)), bf_eq (v := hd) g4,
    bf_eq (v := t) g5, bf_eq (v := c) g6, bf_eq (v := sc) g7, bf_eq (v := ct) g8, bf_eq (v := tgt) g9]

theorem drainkMerge (u t : BitVec 4) (c : BitVec 6) (sc : BitVec 3) : Statement (.drainkMerge u t c sc) := by
  have hs := layout_drainkMerge u t c sc
  refine statement_intro rfl (by decide) hs.1 hs.2.1 (fun hw x W E hc hf he hx => ?_)
  rw [ite_self] at he
  obtain ⟨g0, g1, g2, g3, g4, g5, g6, g7, g8⟩ := hs.2.2 W E hf he
  change parseXfr x W E (W / 16777216 % 128) = _
  have hp : parseXfr x W E 0x07 = if zfe W 0 3 0 && zfe W 16 2 0 && zfe W 23 1 0 && zfe E 16 1 0 then some (.drainkSel (bf 5 W 18) (bf 4 W 12) (bf 6 W 6) (bf 3 W 3) (bf 2 E 17) (bf 16 E 0)) else if zfe W 0 3 1 && zfe W 16 2 0 && zfe W 22 2 0 && zfe E 0 19 0 then some (.drainkMerge (bf 4 W 18) (bf 4 W 12) (bf 6 W 6) (bf 3 W 3)) else none := rfl
  rw [hc, hp, if_neg (by simp only [zfe, Bool.and_eq_true, beq_iff_eq]; tauto),
    if_pos (and_true2 (and_true2 (and_true2 (zfe_eq g1) (zfe_eq g2)) (zfe_eq g3)) (zfe_eq g4)), bf_eq (v := u) g5, bf_eq (v := t) g6,
    bf_eq (v := c) g7, bf_eq (v := sc) g8]

theorem rst (hd ha : BitVec 5) (c : BitVec 6) (sc : BitVec 3) (ct : BitVec 2) (tgt : BitVec 16) : Statement (.rst hd ha c sc ct tgt) := by
  have hs := layout_cpy hd ha c sc ct tgt
  refine statement_intro rfl (by decide) hs.1 hs.2.1 (fun hw x W E hc hf he hx => ?_)
  have he : E % 524288 = ct.toNat * 131072 + tgt.toNat := by
    rcases hx with rfl | hx
    · simpa using he
    · change (ct == 0 && tgt == 0) = true at hx; simp only [Bool.and_eq_true, beq_iff_eq] at hx
      simp_all
  obtain ⟨g0, g1, g2, g3, g4, g5, g6, g7, g8, g9⟩ := hs.2.2 W E hf he
  change parseXfr x W E (W / 16777216 % 128) = _
  have hp : parseXfr x W E 0x08 = if zfe W 0 3 0 && zfe W 17 1 0 && zfe W 23 1 0 && zfe E 16 1 0 then some (.rst (bf 5 W 18) (bf 5 W 12) (bf 6 W 6) (bf 3 W 3) (bf 2 E 17) (bf 16 E 0)) else none := rfl
  rw [hc, hp, if_pos (and_true2 (and_true2 (and_true2 (zfe_eq g0) (zfe_eq g1)) (zfe_eq g2)) (zfe_eq g3)), bf_eq (v := hd) g4,
    bf_eq (v := ha) g5, bf_eq (v := c) g6, bf_eq (v := sc) g7, bf_eq (v := ct) g8, bf_eq (v := tgt) g9]

theorem rld (hd ha : BitVec 5) (c : BitVec 6) (sc : BitVec 3) (ct : BitVec 2) (tgt : BitVec 16) : Statement (.rld hd ha c sc ct tgt) := by
  have hs := layout_cpy hd ha c sc ct tgt
  refine statement_intro rfl (by decide) hs.1 hs.2.1 (fun hw x W E hc hf he hx => ?_)
  have he : E % 524288 = ct.toNat * 131072 + tgt.toNat := by
    rcases hx with rfl | hx
    · simpa using he
    · change (ct == 0 && tgt == 0) = true at hx; simp only [Bool.and_eq_true, beq_iff_eq] at hx
      simp_all
  obtain ⟨g0, g1, g2, g3, g4, g5, g6, g7, g8, g9⟩ := hs.2.2 W E hf he
  change parseXfr x W E (W / 16777216 % 128) = _
  have hp : parseXfr x W E 0x09 = if zfe W 0 3 0 && zfe W 17 1 0 && zfe W 23 1 0 && zfe E 16 1 0 then some (.rld (bf 5 W 18) (bf 5 W 12) (bf 6 W 6) (bf 3 W 3) (bf 2 E 17) (bf 16 E 0)) else none := rfl
  rw [hc, hp, if_pos (and_true2 (and_true2 (and_true2 (zfe_eq g0) (zfe_eq g1)) (zfe_eq g2)) (zfe_eq g3)), bf_eq (v := hd) g4,
    bf_eq (v := ha) g5, bf_eq (v := c) g6, bf_eq (v := sc) g7, bf_eq (v := ct) g8, bf_eq (v := tgt) g9]

theorem ramo (hd ha : BitVec 5) (c : BitVec 6) (sc : BitVec 3) (ct : BitVec 2) (tgt : BitVec 16) : Statement (.ramo hd ha c sc ct tgt) := by
  have hs := layout_cpy hd ha c sc ct tgt
  refine statement_intro rfl (by decide) hs.1 hs.2.1 (fun hw x W E hc hf he hx => ?_)
  have he : E % 524288 = ct.toNat * 131072 + tgt.toNat := by
    rcases hx with rfl | hx
    · simpa using he
    · change (ct == 0 && tgt == 0) = true at hx; simp only [Bool.and_eq_true, beq_iff_eq] at hx
      simp_all
  obtain ⟨g0, g1, g2, g3, g4, g5, g6, g7, g8, g9⟩ := hs.2.2 W E hf he
  change parseXfr x W E (W / 16777216 % 128) = _
  have hp : parseXfr x W E 0x0a = if zfe W 0 3 0 && zfe W 17 1 0 && zfe W 23 1 0 && zfe E 16 1 0 then some (.ramo (bf 5 W 18) (bf 5 W 12) (bf 6 W 6) (bf 3 W 3) (bf 2 E 17) (bf 16 E 0)) else none := rfl
  rw [hc, hp, if_pos (and_true2 (and_true2 (and_true2 (zfe_eq g0) (zfe_eq g1)) (zfe_eq g2)) (zfe_eq g3)), bf_eq (v := hd) g4,
    bf_eq (v := ha) g5, bf_eq (v := c) g6, bf_eq (v := sc) g7, bf_eq (v := ct) g8, bf_eq (v := tgt) g9]

theorem rred (hd ha : BitVec 5) (c : BitVec 6) (sc : BitVec 3) (ct : BitVec 2) (tgt : BitVec 16) : Statement (.rred hd ha c sc ct tgt) := by
  have hs := layout_cpy hd ha c sc ct tgt
  refine statement_intro rfl (by decide) hs.1 hs.2.1 (fun hw x W E hc hf he hx => ?_)
  have he : E % 524288 = ct.toNat * 131072 + tgt.toNat := by
    rcases hx with rfl | hx
    · simpa using he
    · change (ct == 0 && tgt == 0) = true at hx; simp only [Bool.and_eq_true, beq_iff_eq] at hx
      simp_all
  obtain ⟨g0, g1, g2, g3, g4, g5, g6, g7, g8, g9⟩ := hs.2.2 W E hf he
  change parseXfr x W E (W / 16777216 % 128) = _
  have hp : parseXfr x W E 0x0b = if zfe W 0 3 0 && zfe W 17 1 0 && zfe W 23 1 0 && zfe E 16 1 0 then some (.rred (bf 5 W 18) (bf 5 W 12) (bf 6 W 6) (bf 3 W 3) (bf 2 E 17) (bf 16 E 0)) else none := rfl
  rw [hc, hp, if_pos (and_true2 (and_true2 (and_true2 (zfe_eq g0) (zfe_eq g1)) (zfe_eq g2)) (zfe_eq g3)), bf_eq (v := hd) g4,
    bf_eq (v := ha) g5, bf_eq (v := c) g6, bf_eq (v := sc) g7, bf_eq (v := ct) g8, bf_eq (v := tgt) g9]

theorem rmcast (hd ha : BitVec 5) (c : BitVec 6) (sc : BitVec 3) (ct : BitVec 2) (tgt : BitVec 16) : Statement (.rmcast hd ha c sc ct tgt) := by
  have hs := layout_cpy hd ha c sc ct tgt
  refine statement_intro rfl (by decide) hs.1 hs.2.1 (fun hw x W E hc hf he hx => ?_)
  have he : E % 524288 = ct.toNat * 131072 + tgt.toNat := by
    rcases hx with rfl | hx
    · simpa using he
    · change (ct == 0 && tgt == 0) = true at hx; simp only [Bool.and_eq_true, beq_iff_eq] at hx
      simp_all
  obtain ⟨g0, g1, g2, g3, g4, g5, g6, g7, g8, g9⟩ := hs.2.2 W E hf he
  change parseXfr x W E (W / 16777216 % 128) = _
  have hp : parseXfr x W E 0x0c = if zfe W 0 3 0 && zfe W 17 1 0 && zfe W 23 1 0 && zfe E 16 1 0 then some (.rmcast (bf 5 W 18) (bf 5 W 12) (bf 6 W 6) (bf 3 W 3) (bf 2 E 17) (bf 16 E 0)) else none := rfl
  rw [hc, hp, if_pos (and_true2 (and_true2 (and_true2 (zfe_eq g0) (zfe_eq g1)) (zfe_eq g2)) (zfe_eq g3)), bf_eq (v := hd) g4,
    bf_eq (v := ha) g5, bf_eq (v := c) g6, bf_eq (v := sc) g7, bf_eq (v := ct) g8, bf_eq (v := tgt) g9]

theorem rmergeCx (hd : BitVec 5) (t : BitVec 4) (c : BitVec 6) (sc : BitVec 3) (ct : BitVec 2) (tgt : BitVec 16) : Statement (.rmergeCx hd t c sc ct tgt) := by
  have hs := layout_drain hd t c sc ct tgt
  refine statement_intro rfl (by decide) hs.1 hs.2.1 (fun hw x W E hc hf he hx => ?_)
  have he : E % 524288 = ct.toNat * 131072 + tgt.toNat := by
    rcases hx with rfl | hx
    · simpa using he
    · change (ct == 0 && tgt == 0) = true at hx; simp only [Bool.and_eq_true, beq_iff_eq] at hx
      simp_all
  obtain ⟨g0, g1, g2, g3, g4, g5, g6, g7, g8, g9⟩ := hs.2.2 W E hf he
  change parseXfr x W E (W / 16777216 % 128) = _
  have hp : parseXfr x W E 0x0d = if zfe W 0 3 0 && zfe W 16 2 0 && zfe W 23 1 0 && zfe E 16 1 0 then some (.rmergeCx (bf 5 W 18) (bf 4 W 12) (bf 6 W 6) (bf 3 W 3) (bf 2 E 17) (bf 16 E 0)) else if zfe W 0 3 1 && zfe W 16 2 0 && zfe W 23 1 0 && zfe E 0 19 0 then some (.rmergeSw (bf 5 W 18) (bf 4 W 12) (bf 6 W 6) (bf 3 W 3)) else none := rfl
  rw [hc, hp, if_pos (and_true2 (and_true2 (and_true2 (zfe_eq g0) (zfe_eq g1)) (zfe_eq g2)) (zfe_eq g3)), bf_eq (v := hd) g4,
    bf_eq (v := t) g5, bf_eq (v := c) g6, bf_eq (v := sc) g7, bf_eq (v := ct) g8, bf_eq (v := tgt) g9]

theorem rmergeSw (hd : BitVec 5) (t : BitVec 4) (c : BitVec 6) (sc : BitVec 3) : Statement (.rmergeSw hd t c sc) := by
  have hs := layout_rmergeSw hd t c sc
  refine statement_intro rfl (by decide) hs.1 hs.2.1 (fun hw x W E hc hf he hx => ?_)
  rw [ite_self] at he
  obtain ⟨g0, g1, g2, g3, g4, g5, g6, g7, g8⟩ := hs.2.2 W E hf he
  change parseXfr x W E (W / 16777216 % 128) = _
  have hp : parseXfr x W E 0x0d = if zfe W 0 3 0 && zfe W 16 2 0 && zfe W 23 1 0 && zfe E 16 1 0 then some (.rmergeCx (bf 5 W 18) (bf 4 W 12) (bf 6 W 6) (bf 3 W 3) (bf 2 E 17) (bf 16 E 0)) else if zfe W 0 3 1 && zfe W 16 2 0 && zfe W 23 1 0 && zfe E 0 19 0 then some (.rmergeSw (bf 5 W 18) (bf 4 W 12) (bf 6 W 6) (bf 3 W 3)) else none := rfl
  rw [hc, hp, if_neg (by simp only [zfe, Bool.and_eq_true, beq_iff_eq]; tauto),
    if_pos (and_true2 (and_true2 (and_true2 (zfe_eq g1) (zfe_eq g2)) (zfe_eq g3)) (zfe_eq g4)), bf_eq (v := hd) g5, bf_eq (v := t) g6,
    bf_eq (v := c) g7, bf_eq (v := sc) g8]

theorem cntx (hd ha : BitVec 5) (c : BitVec 6) (sc : BitVec 3) (ct : BitVec 2) (tgt : BitVec 16) : Statement (.cntx hd ha c sc ct tgt) := by
  have hs := layout_cpy hd ha c sc ct tgt
  refine statement_intro rfl (by decide) hs.1 hs.2.1 (fun hw x W E hc hf he hx => ?_)
  have he : E % 524288 = ct.toNat * 131072 + tgt.toNat := by
    rcases hx with rfl | hx
    · simpa using he
    · change (ct == 0 && tgt == 0) = true at hx; simp only [Bool.and_eq_true, beq_iff_eq] at hx
      simp_all
  obtain ⟨g0, g1, g2, g3, g4, g5, g6, g7, g8, g9⟩ := hs.2.2 W E hf he
  change parseXfr x W E (W / 16777216 % 128) = _
  have hp : parseXfr x W E 0x0e = if zfe W 0 3 0 && zfe W 17 1 0 && zfe W 23 1 0 && zfe E 16 1 0 then some (.cntx (bf 5 W 18) (bf 5 W 12) (bf 6 W 6) (bf 3 W 3) (bf 2 E 17) (bf 16 E 0)) else none := rfl
  rw [hc, hp, if_pos (and_true2 (and_true2 (and_true2 (zfe_eq g0) (zfe_eq g1)) (zfe_eq g2)) (zfe_eq g3)), bf_eq (v := hd) g4,
    bf_eq (v := ha) g5, bf_eq (v := c) g6, bf_eq (v := sc) g7, bf_eq (v := ct) g8, bf_eq (v := tgt) g9]

theorem disp (hd ha : BitVec 5) (c : BitVec 6) (sc : BitVec 3) (ct : BitVec 2) (tgt : BitVec 16) : Statement (.disp hd ha c sc ct tgt) := by
  have hs := layout_cpy hd ha c sc ct tgt
  refine statement_intro rfl (by decide) hs.1 hs.2.1 (fun hw x W E hc hf he hx => ?_)
  have he : E % 524288 = ct.toNat * 131072 + tgt.toNat := by
    rcases hx with rfl | hx
    · simpa using he
    · change (ct == 0 && tgt == 0) = true at hx; simp only [Bool.and_eq_true, beq_iff_eq] at hx
      simp_all
  obtain ⟨g0, g1, g2, g3, g4, g5, g6, g7, g8, g9⟩ := hs.2.2 W E hf he
  change parseXfr x W E (W / 16777216 % 128) = _
  have hp : parseXfr x W E 0x0f = if zfe W 0 3 0 && zfe W 17 1 0 && zfe W 23 1 0 && zfe E 16 1 0 then some (.disp (bf 5 W 18) (bf 5 W 12) (bf 6 W 6) (bf 3 W 3) (bf 2 E 17) (bf 16 E 0)) else none := rfl
  rw [hc, hp, if_pos (and_true2 (and_true2 (and_true2 (zfe_eq g0) (zfe_eq g1)) (zfe_eq g2)) (zfe_eq g3)), bf_eq (v := hd) g4,
    bf_eq (v := ha) g5, bf_eq (v := c) g6, bf_eq (v := sc) g7, bf_eq (v := ct) g8, bf_eq (v := tgt) g9]

theorem post (n : BitVec 8) (a : BitVec 6) : Statement (.post n a) := by
  have hs := layout_post n a
  refine statement_intro rfl (by decide) hs.1 hs.2.1 (fun hw x W E hc hf he hx => ?_)
  rw [ite_self] at he
  obtain ⟨g0, g1, g2, g3, g4⟩ := hs.2.2 W E hf he
  change parseXfr x W E (W / 16777216 % 128) = _
  have hp : parseXfr x W E 0x10 = if zfe W 0 6 0 && zfe W 12 4 0 && zfe E 0 19 0 then some (.post (bf 8 W 16) (bf 6 W 6)) else none := rfl
  rw [hc, hp, if_pos (and_true2 (and_true2 (zfe_eq g0) (zfe_eq g1)) (zfe_eq g2)), bf_eq (v := n) g3, bf_eq (v := a) g4]

theorem xcanCancel (d a : BitVec 6) : Statement (.xcanCancel d a) := by
  have hs := layout_xcanCancel d a
  refine statement_intro rfl (by decide) hs.1 hs.2.1 (fun hw x W E hc hf he hx => ?_)
  rw [ite_self] at he
  obtain ⟨g0, g1, g2, g3, g4⟩ := hs.2.2 W E hf he
  change parseXfr x W E (W / 16777216 % 128) = _
  have hp : parseXfr x W E 0x11 = if zfe W 0 2 0 && zfe W 2 10 0 && zfe E 0 19 0 then some (.xcanCancel (bf 6 W 18) (bf 6 W 12)) else if zfe W 0 2 1 && zfe W 2 10 0 && zfe E 0 19 0 then some (.xcanReplay (bf 6 W 18) (bf 6 W 12)) else if zfe W 0 2 2 && zfe W 2 16 0 && zfe E 0 19 0 then some (.xcanAll (bf 6 W 18)) else none := rfl
  rw [hc, hp, if_pos (and_true2 (and_true2 (zfe_eq g0) (zfe_eq g1)) (zfe_eq g2)), bf_eq (v := d) g3, bf_eq (v := a) g4]

theorem xcanReplay (d a : BitVec 6) : Statement (.xcanReplay d a) := by
  have hs := layout_xcanReplay d a
  refine statement_intro rfl (by decide) hs.1 hs.2.1 (fun hw x W E hc hf he hx => ?_)
  rw [ite_self] at he
  obtain ⟨g0, g1, g2, g3, g4, g5⟩ := hs.2.2 W E hf he
  change parseXfr x W E (W / 16777216 % 128) = _
  have hp : parseXfr x W E 0x11 = if zfe W 0 2 0 && zfe W 2 10 0 && zfe E 0 19 0 then some (.xcanCancel (bf 6 W 18) (bf 6 W 12)) else if zfe W 0 2 1 && zfe W 2 10 0 && zfe E 0 19 0 then some (.xcanReplay (bf 6 W 18) (bf 6 W 12)) else if zfe W 0 2 2 && zfe W 2 16 0 && zfe E 0 19 0 then some (.xcanAll (bf 6 W 18)) else none := rfl
  rw [hc, hp, if_neg (by simp only [zfe, Bool.and_eq_true, beq_iff_eq]; tauto),
    if_pos (and_true2 (and_true2 (zfe_eq g1) (zfe_eq g2)) (zfe_eq g3)), bf_eq (v := d) g4, bf_eq (v := a) g5]

theorem xcanAll (d : BitVec 6) : Statement (.xcanAll d) := by
  have hs := layout_xcanAll d
  refine statement_intro rfl (by decide) hs.1 hs.2.1 (fun hw x W E hc hf he hx => ?_)
  rw [ite_self] at he
  obtain ⟨g0, g1, g2, g3, g4, g5⟩ := hs.2.2 W E hf he
  change parseXfr x W E (W / 16777216 % 128) = _
  have hp : parseXfr x W E 0x11 = if zfe W 0 2 0 && zfe W 2 10 0 && zfe E 0 19 0 then some (.xcanCancel (bf 6 W 18) (bf 6 W 12)) else if zfe W 0 2 1 && zfe W 2 10 0 && zfe E 0 19 0 then some (.xcanReplay (bf 6 W 18) (bf 6 W 12)) else if zfe W 0 2 2 && zfe W 2 16 0 && zfe E 0 19 0 then some (.xcanAll (bf 6 W 18)) else none := rfl
  rw [hc, hp, if_neg (by simp only [zfe, Bool.and_eq_true, beq_iff_eq]; tauto),
    if_neg (by simp only [zfe, Bool.and_eq_true, beq_iff_eq]; tauto),
    if_pos (and_true2 (and_true2 (zfe_eq g2) (zfe_eq g3)) (zfe_eq g4)), bf_eq (v := d) g5]

theorem xstatId (d a : BitVec 6) : Statement (.xstatId d a) := by
  have hs := layout_xcanCancel d a
  refine statement_intro rfl (by decide) hs.1 hs.2.1 (fun hw x W E hc hf he hx => ?_)
  rw [ite_self] at he
  obtain ⟨g0, g1, g2, g3, g4⟩ := hs.2.2 W E hf he
  change parseXfr x W E (W / 16777216 % 128) = _
  have hp : parseXfr x W E 0x12 = if zfe W 0 2 0 && zfe W 2 10 0 && zfe E 0 19 0 then some (.xstatId (bf 6 W 18) (bf 6 W 12)) else if zfe W 0 2 1 && zfe W 2 10 0 && zfe E 0 19 0 then some (.xstatLast (bf 6 W 18) (bf 6 W 12)) else none := rfl
  rw [hc, hp, if_pos (and_true2 (and_true2 (zfe_eq g0) (zfe_eq g1)) (zfe_eq g2)), bf_eq (v := d) g3, bf_eq (v := a) g4]

theorem xstatLast (d a : BitVec 6) : Statement (.xstatLast d a) := by
  have hs := layout_xcanReplay d a
  refine statement_intro rfl (by decide) hs.1 hs.2.1 (fun hw x W E hc hf he hx => ?_)
  rw [ite_self] at he
  obtain ⟨g0, g1, g2, g3, g4, g5⟩ := hs.2.2 W E hf he
  change parseXfr x W E (W / 16777216 % 128) = _
  have hp : parseXfr x W E 0x12 = if zfe W 0 2 0 && zfe W 2 10 0 && zfe E 0 19 0 then some (.xstatId (bf 6 W 18) (bf 6 W 12)) else if zfe W 0 2 1 && zfe W 2 10 0 && zfe E 0 19 0 then some (.xstatLast (bf 6 W 18) (bf 6 W 12)) else none := rfl
  rw [hc, hp, if_neg (by simp only [zfe, Bool.and_eq_true, beq_iff_eq]; tauto),
    if_pos (and_true2 (and_true2 (zfe_eq g1) (zfe_eq g2)) (zfe_eq g3)), bf_eq (v := d) g4, bf_eq (v := a) g5]

theorem ringClaim (ctx buf : Nat) : Statement (.ringClaim ctx buf) :=
  statement_of_event rfl

theorem ringSlotLanded (ctx buf ringSlot : Nat) : Statement (.ringSlotLanded ctx buf ringSlot) :=
  statement_of_event rfl

theorem commandFault (ctx entry : Nat) : Statement (.commandFault ctx entry) :=
  statement_of_event rfl

theorem commandComplete (ctx entry : Nat) : Statement (.commandComplete ctx entry) :=
  statement_of_event rfl

theorem bankDrowsy (core bank : Nat) : Statement (.bankDrowsy core bank) :=
  statement_of_event rfl

theorem bankWake (core bank : Nat) : Statement (.bankWake core bank) :=
  statement_of_event rfl

theorem quadrantGate (core quad : Nat) : Statement (.quadrantGate core quad) :=
  statement_of_event rfl

theorem quadrantClear (core quad : Nat) : Statement (.quadrantClear core quad) :=
  statement_of_event rfl

theorem atsCompletion (die pasid addr out sizeLog : Nat) (r w : Bool) : Statement (.atsCompletion die pasid addr out sizeLog r w) :=
  statement_of_event rfl

theorem atsInvalidate (addr len tag : Nat) : Statement (.atsInvalidate addr len tag) :=
  statement_of_event rfl

theorem remoteRetryTimeout (req attempt : Nat) : Statement (.remoteRetryTimeout req attempt) :=
  statement_of_event rfl

theorem remoteCompletionReceive (pkg : Nat) (t : Txn) : Statement (.remoteCompletionReceive pkg t) :=
  statement_of_event rfl

theorem remoteRequestReceive (port : Nat) (t : Txn) : Statement (.remoteRequestReceive port t) :=
  statement_of_event rfl

theorem remotePerform (conn seq : Nat) : Statement (.remotePerform conn seq) :=
  statement_of_event rfl

theorem destTimeout (job rank : Nat) : Statement (.destTimeout job rank) :=
  statement_of_event rfl

theorem rankEntryWrite (job rank : Nat) (d0 d1 : BitVec 64) : Statement (.rankEntryWrite job rank d0 d1) :=
  statement_of_event rfl

theorem connopen (port pkg : Nat) (t : Txn) : Statement (.connopen port pkg t) :=
  statement_of_event rfl

theorem connack (pkg : Nat) (t : Txn) : Statement (.connack pkg t) :=
  statement_of_event rfl

theorem connnak (pkg : Nat) (t : Txn) : Statement (.connnak pkg t) :=
  statement_of_event rfl

theorem connclose (pkg : Nat) (t : Txn) : Statement (.connclose pkg t) :=
  statement_of_event rfl

theorem connopenTimeout (conn attempt : Nat) : Statement (.connopenTimeout conn attempt) :=
  statement_of_event rfl

theorem flitReceive (port : Nat) (bytes : List (BitVec 8)) : Statement (.flitReceive port bytes) :=
  statement_of_event rfl

theorem ackFlit (port : Nat) (bytes : List (BitVec 8)) : Statement (.ackFlit port bytes) :=
  statement_of_event rfl

theorem laneTrained (port : Nat) (lanes : BitVec 4) : Statement (.laneTrained port lanes) :=
  statement_of_event rfl

theorem linkcap (port : Nat) (bytes : List (BitVec 8)) : Statement (.linkcap port bytes) :=
  statement_of_event rfl

theorem contributionReceive (conn seq : Nat) : Statement (.contributionReceive conn seq) :=
  statement_of_event rfl

theorem parentNotice (key : Nat) (t : Txn) : Statement (.parentNotice key t) :=
  statement_of_event rfl

theorem noticeReceive (conn : Nat) (t : Txn) : Statement (.noticeReceive conn t) :=
  statement_of_event rfl

theorem launch (src : Nat) (packet : List (BitVec 8)) : Statement (.launch src packet) :=
  statement_of_event rfl

theorem taskFault (ctx cause detail : Nat) : Statement (.taskFault ctx cause detail) :=
  statement_of_event rfl

theorem nodeDecrement (region node : Nat) : Statement (.nodeDecrement region node) :=
  statement_of_event rfl

theorem switchRequest (core why : Nat) : Statement (.switchRequest core why) :=
  statement_of_event rfl

theorem resume (ctx core : Nat) : Statement (.resume ctx core) :=
  statement_of_event rfl

theorem ueAbortReceive (ctx entry : Nat) : Statement (.ueAbortReceive ctx entry) :=
  statement_of_event rfl

theorem frameEdge (core frame : Nat) : Statement (.frameEdge core frame) :=
  statement_of_event rfl

theorem hbmRead (line rq core : Nat) : Statement (.hbmRead line rq core) :=
  statement_of_event rfl

theorem entropyReseed (ok : Bool) : Statement (.entropyReseed ok) :=
  statement_of_event rfl

theorem crDoorbell (tail : BitVec 32) : Statement (.crDoorbell tail) :=
  statement_of_event rfl

theorem lqDoorbell (q : Nat) (tail : BitVec 32) : Statement (.lqDoorbell q tail) :=
  statement_of_event rfl

theorem lqctlWrite (q : Nat) (v : BitVec 64) : Statement (.lqctlWrite q v) :=
  statement_of_event rfl

theorem midxRead (v : BitVec 64) : Statement (.midxRead v) :=
  statement_of_event rfl

theorem midxWrite (v : BitVec 64) : Statement (.midxWrite v) :=
  statement_of_event rfl

theorem dieenWrite (die : Nat) (v : BitVec 64) : Statement (.dieenWrite die v) :=
  statement_of_event rfl

theorem fwdbaseWrite (v : BitVec 64) : Statement (.fwdbaseWrite v) :=
  statement_of_event rfl

theorem portcfgWrite (port : Nat) (v : BitVec 32) : Statement (.portcfgWrite port v) :=
  statement_of_event rfl

theorem registerWrite (off : Nat) (v : BitVec 64) : Statement (.registerWrite off v) :=
  statement_of_event rfl

theorem nopAlu : Statement .nopAlu := by
  have hs := layout_nopAlu
  refine statement_intro rfl (by decide) hs.1 hs.2.1 (fun hw x W E hc hf he hx => ?_)
  rw [ite_self] at he
  obtain ⟨g0, g1⟩ := hs.2.2 W E hf he
  change parseAlu x W E (W / 16777216 % 128) = _
  have hp : parseAlu x W E 0x00 = if zfe W 0 24 0 && zfe E 0 19 0 then some (.nopAlu) else none := rfl
  rw [hc, hp, if_pos (and_true2 (zfe_eq g0) (zfe_eq g1))]

theorem nopCtl : Statement .nopCtl := by
  have hs := layout_nopAlu
  refine statement_intro rfl (by decide) hs.1 hs.2.1 (fun hw x W E hc hf he hx => ?_)
  rw [ite_self] at he
  obtain ⟨g0, g1⟩ := hs.2.2 W E hf he
  change parseCtl x W E (W / 16777216 % 128) = _
  have hp : parseCtl x W E 0x00 = if zfe W 0 24 0 && zfe E 0 19 0 then some (.nopCtl) else none := rfl
  rw [hc, hp, if_pos (and_true2 (zfe_eq g0) (zfe_eq g1))]

theorem ret : Statement .ret := by
  have hs := layout_nopAlu
  refine statement_intro rfl (by decide) hs.1 hs.2.1 (fun hw x W E hc hf he hx => ?_)
  rw [ite_self] at he
  obtain ⟨g0, g1⟩ := hs.2.2 W E hf he
  change parseCtl x W E (W / 16777216 % 128) = _
  have hp : parseCtl x W E 0x06 = if zfe W 0 24 0 && zfe E 0 19 0 then some (.ret) else none := rfl
  rw [hc, hp, if_pos (and_true2 (zfe_eq g0) (zfe_eq g1))]

theorem done : Statement .done := by
  have hs := layout_nopAlu
  refine statement_intro rfl (by decide) hs.1 hs.2.1 (fun hw x W E hc hf he hx => ?_)
  rw [ite_self] at he
  obtain ⟨g0, g1⟩ := hs.2.2 W E hf he
  change parseCtl x W E (W / 16777216 % 128) = _
  have hp : parseCtl x W E 0x16 = if zfe W 0 24 0 && zfe E 0 19 0 then some (.done) else none := rfl
  rw [hc, hp, if_pos (and_true2 (zfe_eq g0) (zfe_eq g1))]

theorem eret : Statement .eret := by
  have hs := layout_nopAlu
  refine statement_intro rfl (by decide) hs.1 hs.2.1 (fun hw x W E hc hf he hx => ?_)
  rw [ite_self] at he
  obtain ⟨g0, g1⟩ := hs.2.2 W E hf he
  change parseCtl x W E (W / 16777216 % 128) = _
  have hp : parseCtl x W E 0x19 = if zfe W 0 24 0 && zfe E 0 19 0 then some (.eret) else none := rfl
  rw [hc, hp, if_pos (and_true2 (zfe_eq g0) (zfe_eq g1))]

theorem yield : Statement .yield := by
  have hs := layout_nopAlu
  refine statement_intro rfl (by decide) hs.1 hs.2.1 (fun hw x W E hc hf he hx => ?_)
  rw [ite_self] at he
  obtain ⟨g0, g1⟩ := hs.2.2 W E hf he
  change parseCtl x W E (W / 16777216 % 128) = _
  have hp : parseCtl x W E 0x1e = if zfe W 0 24 0 && zfe E 0 19 0 then some (.yield) else none := rfl
  rw [hc, hp, if_pos (and_true2 (zfe_eq g0) (zfe_eq g1))]

theorem tlbiWorld : Statement .tlbiWorld := by
  have hs := layout_tlbiWorld
  refine statement_intro rfl (by decide) hs.1 hs.2.1 (fun hw x W E hc hf he hx => ?_)
  rw [ite_self] at he
  obtain ⟨g0, g1, g2, g3, g4⟩ := hs.2.2 W E hf he
  change parseCtl x W E (W / 16777216 % 128) = _
  have hp : parseCtl x W E 0x1f = if zfe W 21 3 0 && zfe W 0 9 0 && zfe E 0 19 0 then some (.tlbiPage (bf 6 W 15) (bf 6 W 9)) else if zfe W 21 3 1 && zfe W 0 9 0 && zfe E 0 19 0 then some (.tlbiAsn (bf 6 W 15) (bf 6 W 9)) else if zfe W 21 3 2 && zfe W 0 21 0 && zfe E 0 19 0 then some (.tlbiWorld) else if zfe W 21 3 3 && zfe W 0 15 0 && zfe E 0 19 0 then some (.tlbiWindow (bf 6 W 15)) else if zfe W 21 3 4 && zfe W 0 21 0 && zfe E 0 19 0 then some (.tlbiWindows) else if zfe W 21 3 5 && zfe W 0 9 0 && zfe E 0 19 0 then some (.tlbiHost (bf 6 W 15) (bf 6 W 9)) else none := rfl
  rw [hc, hp, if_neg (by simp only [zfe, Bool.and_eq_true, beq_iff_eq]; tauto),
    if_neg (by simp only [zfe, Bool.and_eq_true, beq_iff_eq]; tauto),
    if_pos (and_true2 (and_true2 (zfe_eq g2) (zfe_eq g3)) (zfe_eq g4))]

theorem tlbiWindows : Statement .tlbiWindows := by
  have hs := layout_tlbiWindows
  refine statement_intro rfl (by decide) hs.1 hs.2.1 (fun hw x W E hc hf he hx => ?_)
  rw [ite_self] at he
  obtain ⟨g0, g1, g2, g3, g4, g5, g6⟩ := hs.2.2 W E hf he
  change parseCtl x W E (W / 16777216 % 128) = _
  have hp : parseCtl x W E 0x1f = if zfe W 21 3 0 && zfe W 0 9 0 && zfe E 0 19 0 then some (.tlbiPage (bf 6 W 15) (bf 6 W 9)) else if zfe W 21 3 1 && zfe W 0 9 0 && zfe E 0 19 0 then some (.tlbiAsn (bf 6 W 15) (bf 6 W 9)) else if zfe W 21 3 2 && zfe W 0 21 0 && zfe E 0 19 0 then some (.tlbiWorld) else if zfe W 21 3 3 && zfe W 0 15 0 && zfe E 0 19 0 then some (.tlbiWindow (bf 6 W 15)) else if zfe W 21 3 4 && zfe W 0 21 0 && zfe E 0 19 0 then some (.tlbiWindows) else if zfe W 21 3 5 && zfe W 0 9 0 && zfe E 0 19 0 then some (.tlbiHost (bf 6 W 15) (bf 6 W 9)) else none := rfl
  rw [hc, hp, if_neg (by simp only [zfe, Bool.and_eq_true, beq_iff_eq]; tauto),
    if_neg (by simp only [zfe, Bool.and_eq_true, beq_iff_eq]; tauto),
    if_neg (by simp only [zfe, Bool.and_eq_true, beq_iff_eq]; tauto),
    if_neg (by simp only [zfe, Bool.and_eq_true, beq_iff_eq]; tauto),
    if_pos (and_true2 (and_true2 (zfe_eq g4) (zfe_eq g5)) (zfe_eq g6))]

theorem halt : Statement .halt := by
  have hs := layout_nopAlu
  refine statement_intro rfl (by decide) hs.1 hs.2.1 (fun hw x W E hc hf he hx => ?_)
  rw [ite_self] at he
  obtain ⟨g0, g1⟩ := hs.2.2 W E hf he
  change parseCtl x W E (W / 16777216 % 128) = _
  have hp : parseCtl x W E 0x20 = if zfe W 0 24 0 && zfe E 0 19 0 then some (.halt) else none := rfl
  rw [hc, hp, if_pos (and_true2 (zfe_eq g0) (zfe_eq g1))]

theorem nopMat : Statement .nopMat := by
  have hs := layout_nopAlu
  refine statement_intro rfl (by decide) hs.1 hs.2.1 (fun hw x W E hc hf he hx => ?_)
  rw [ite_self] at he
  obtain ⟨g0, g1⟩ := hs.2.2 W E hf he
  change parseMat x W E (W / 16777216 % 128) = _
  have hp : parseMat x W E 0x00 = if zfe W 0 24 0 && zfe E 0 19 0 then some (.nopMat) else none := rfl
  rw [hc, hp, if_pos (and_true2 (zfe_eq g0) (zfe_eq g1))]

theorem mcommit : Statement .mcommit := by
  have hs := layout_nopAlu
  refine statement_intro rfl (by decide) hs.1 hs.2.1 (fun hw x W E hc hf he hx => ?_)
  rw [ite_self] at he
  obtain ⟨g0, g1⟩ := hs.2.2 W E hf he
  change parseMat x W E (W / 16777216 % 128) = _
  have hp : parseMat x W E 0x05 = if zfe W 0 24 0 && zfe E 0 19 0 then some (.mcommit) else none := rfl
  rw [hc, hp, if_pos (and_true2 (zfe_eq g0) (zfe_eq g1))]

theorem nopVec : Statement .nopVec := by
  have hs := layout_nopAlu
  refine statement_intro rfl (by decide) hs.1 hs.2.1 (fun hw x W E hc hf he hx => ?_)
  rw [ite_self] at he
  obtain ⟨g0, g1⟩ := hs.2.2 W E hf he
  change parseVec x W E (W / 16777216 % 128) = _
  have hp : parseVec x W E 0x00 = if zfe W 0 24 0 && zfe E 0 19 0 then some (.nopVec) else none := rfl
  rw [hc, hp, if_pos (and_true2 (zfe_eq g0) (zfe_eq g1))]

theorem nopPrm : Statement .nopPrm := by
  have hs := layout_nopAlu
  refine statement_intro rfl (by decide) hs.1 hs.2.1 (fun hw x W E hc hf he hx => ?_)
  rw [ite_self] at he
  obtain ⟨g0, g1⟩ := hs.2.2 W E hf he
  change parsePrm x W E (W / 16777216 % 128) = _
  have hp : parsePrm x W E 0x00 = if zfe W 0 24 0 && zfe E 0 19 0 then some (.nopPrm) else none := rfl
  rw [hc, hp, if_pos (and_true2 (zfe_eq g0) (zfe_eq g1))]

theorem nopScl : Statement .nopScl := by
  have hs := layout_nopAlu
  refine statement_intro rfl (by decide) hs.1 hs.2.1 (fun hw x W E hc hf he hx => ?_)
  rw [ite_self] at he
  obtain ⟨g0, g1⟩ := hs.2.2 W E hf he
  change parseScl x W E (W / 16777216 % 128) = _
  have hp : parseScl x W E 0x00 = if zfe W 0 24 0 && zfe E 0 19 0 then some (.nopScl) else none := rfl
  rw [hc, hp, if_pos (and_true2 (zfe_eq g0) (zfe_eq g1))]

theorem nopXfr : Statement .nopXfr := by
  have hs := layout_nopAlu
  refine statement_intro rfl (by decide) hs.1 hs.2.1 (fun hw x W E hc hf he hx => ?_)
  rw [ite_self] at he
  obtain ⟨g0, g1⟩ := hs.2.2 W E hf he
  change parseXfr x W E (W / 16777216 % 128) = _
  have hp : parseXfr x W E 0x00 = if zfe W 0 24 0 && zfe E 0 19 0 then some (.nopXfr) else none := rfl
  rw [hc, hp, if_pos (and_true2 (zfe_eq g0) (zfe_eq g1))]

theorem powerUp : Statement .powerUp :=
  statement_of_event rfl

theorem geckoMismatch : Statement .geckoMismatch :=
  statement_of_event rfl

theorem bundleIssue : Statement .bundleIssue :=
  statement_of_event rfl

theorem engineFault : Statement .engineFault :=
  statement_of_event rfl

theorem loadReturn : Statement .loadReturn :=
  statement_of_event rfl

theorem atomicComplete : Statement .atomicComplete :=
  statement_of_event rfl

theorem phaseReleaseDone : Statement .phaseReleaseDone :=
  statement_of_event rfl

theorem fenceSatisfied : Statement .fenceSatisfied :=
  statement_of_event rfl

theorem taskFinish : Statement .taskFinish :=
  statement_of_event rfl

theorem invalidationComplete : Statement .invalidationComplete :=
  statement_of_event rfl

theorem matrixRetire : Statement .matrixRetire :=
  statement_of_event rfl

theorem vecComplete : Statement .vecComplete :=
  statement_of_event rfl

theorem prmWrite : Statement .prmWrite :=
  statement_of_event rfl

theorem scaleWrite : Statement .scaleWrite :=
  statement_of_event rfl

theorem commandStart : Statement .commandStart :=
  statement_of_event rfl

theorem walkStart : Statement .walkStart :=
  statement_of_event rfl

theorem walkComplete : Statement .walkComplete :=
  statement_of_event rfl

theorem releaseAccepted : Statement .releaseAccepted :=
  statement_of_event rfl

theorem releaseComplete : Statement .releaseComplete :=
  statement_of_event rfl

theorem remoteRequestSend : Statement .remoteRequestSend :=
  statement_of_event rfl

theorem lifetimeExpiry : Statement .lifetimeExpiry :=
  statement_of_event rfl

theorem connIdleClose : Statement .connIdleClose :=
  statement_of_event rfl

theorem contextFetch : Statement .contextFetch :=
  statement_of_event rfl

theorem ackSendTimer : Statement .ackSendTimer :=
  statement_of_event rfl

theorem replayTimeout : Statement .replayTimeout :=
  statement_of_event rfl

theorem linkUnackTimeout : Statement .linkUnackTimeout :=
  statement_of_event rfl

theorem retrain : Statement .retrain :=
  statement_of_event rfl

theorem linkcapTimeout : Statement .linkcapTimeout :=
  statement_of_event rfl

theorem portTrainTimeout : Statement .portTrainTimeout :=
  statement_of_event rfl

theorem contributionApply : Statement .contributionApply :=
  statement_of_event rfl

theorem reductionTimeout : Statement .reductionTimeout :=
  statement_of_event rfl

theorem combineDone : Statement .combineDone :=
  statement_of_event rfl

theorem resultWriteDone : Statement .resultWriteDone :=
  statement_of_event rfl

theorem noticeAcked : Statement .noticeAcked :=
  statement_of_event rfl

theorem forwardNoticeTimeout : Statement .forwardNoticeTimeout :=
  statement_of_event rfl

theorem tombExpire : Statement .tombExpire :=
  statement_of_event rfl

theorem contributionTimeout : Statement .contributionTimeout :=
  statement_of_event rfl

theorem arbiterChoice : Statement .arbiterChoice :=
  statement_of_event rfl

theorem taskStart : Statement .taskStart :=
  statement_of_event rfl

theorem preemptRequest : Statement .preemptRequest :=
  statement_of_event rfl

theorem budgetPeriod : Statement .budgetPeriod :=
  statement_of_event rfl

theorem dieLinkFail : Statement .dieLinkFail :=
  statement_of_event rfl

theorem quiesceDone : Statement .quiesceDone :=
  statement_of_event rfl

theorem saveDone : Statement .saveDone :=
  statement_of_event rfl

theorem blockSaved : Statement .blockSaved :=
  statement_of_event rfl

theorem divertedAccess : Statement .divertedAccess :=
  statement_of_event rfl

theorem diversionFetch : Statement .diversionFetch :=
  statement_of_event rfl

theorem blockRestored : Statement .blockRestored :=
  statement_of_event rfl

theorem restoreDone : Statement .restoreDone :=
  statement_of_event rfl

theorem debugHalt : Statement .debugHalt :=
  statement_of_event rfl

theorem debugStepEnd : Statement .debugStepEnd :=
  statement_of_event rfl

theorem frameCycleBoundary : Statement .frameCycleBoundary :=
  statement_of_event rfl

theorem frameSwitchRequest : Statement .frameSwitchRequest :=
  statement_of_event rfl

theorem coreClearDone : Statement .coreClearDone :=
  statement_of_event rfl

theorem scrubRead : Statement .scrubRead :=
  statement_of_event rfl

theorem selftestRun : Statement .selftestRun :=
  statement_of_event rfl

theorem selftestDone : Statement .selftestDone :=
  statement_of_event rfl

theorem entropyFailure : Statement .entropyFailure :=
  statement_of_event rfl

theorem keyex : Statement .keyex :=
  statement_of_event rfl

theorem resync : Statement .resync :=
  statement_of_event rfl

theorem rekey : Statement .rekey :=
  statement_of_event rfl

theorem attest : Statement .attest :=
  statement_of_event rfl

theorem svnraise : Statement .svnraise :=
  statement_of_event rfl

theorem createworld : Statement .createworld :=
  statement_of_event rfl

theorem destroyworld : Statement .destroyworld :=
  statement_of_event rfl

theorem setrange : Statement .setrange :=
  statement_of_event rfl

theorem setframes : Statement .setframes :=
  statement_of_event rfl

theorem keyimport : Statement .keyimport :=
  statement_of_event rfl

theorem jobkey : Statement .jobkey :=
  statement_of_event rfl

theorem regionCreate : Statement .regionCreate :=
  statement_of_event rfl

theorem regionRefresh : Statement .regionRefresh :=
  statement_of_event rfl

theorem regionDestroy : Statement .regionDestroy :=
  statement_of_event rfl

theorem inval : Statement .inval :=
  statement_of_event rfl

theorem preempt : Statement .preempt :=
  statement_of_event rfl

theorem corestatFenceWrite : Statement .corestatFenceWrite :=
  statement_of_event rfl

theorem corestatFreqWrite : Statement .corestatFreqWrite :=
  statement_of_event rfl

theorem msixUnmask : Statement .msixUnmask :=
  statement_of_event rfl

theorem powerRemoved : Statement .powerRemoved :=
  statement_of_event rfl

theorem linkcapResend : Statement .linkcapResend :=
  statement_of_event rfl

theorem hbmRefresh : Statement .hbmRefresh :=
  statement_of_event rfl

theorem dieLinkRetrain : Statement .dieLinkRetrain :=
  statement_of_event rfl

theorem pseudoChannelFail : Statement .pseudoChannelFail :=
  statement_of_event rfl

end Laws.Enc

end Sys2Proof
end

