-- ==== Sys2Proof/Tests/Slice0.lean ====
section
/-! SUPPORT. Tests: ill-formed terms that the checks refuse, words decoded, single instructions on small states with results from the spec's own tables, and for
each statement of Certificates/Slice0/Obligations.lean with hypotheses a state and operands that meet them. -/

namespace Sys2Proof.Tests

open Sys2Proof Sys2Proof.Machine

set_option Elab.async false

/-! ### Small states -/

/-- Index 0 of grid 0 of region 0. -/
def who : TaskId := { region := 0, world := 0, grid := 0, index := 0, xy := 0, z := 0, arg := 0 }
/-- A task that starts on core 0 at 0x10000. -/
def ctx0 : Ctx := Ctx.start who 0 0x10000 (.resident 0) 0 none
/-- A ready package whose only task, with context c, stands on core 0. -/
def on0 (c : Ctx) : State :=
  { State.reset with
    agenda := [], power := true, cores := [(0, { Core.reset with ctx := some 0, banks := (List.range 32).map (fun b => (b, Bank.active 0)) })], ctxs := [(0, c)]
    host := { HostIf.reset with phase := 6 } }
/-- The same with the task's registers given by number. -/
def with' (l : List (BitVec 6 × DWord)) : Ctx := { ctx0 with regs := l.foldl (fun r p => r.setS p.1 p.2) ctx0.regs }
def regs0 (l : List (BitVec 6 × DWord)) : State := on0 (with' l)
/-- The same inside a bundle that is being issued. -/
def inBundle (c : Ctx) : State := { on0 c with issue := { Issue.idle with on := true, src := some c, len := 8 } }

/-- A scalar register of the task after an instruction. -/
def sAfter (i : Instr) (s : State) (d : BitVec 6) : Option DWord :=
  match exec i s with
  | .next t => (t.ctx 0).map (fun c => c.regs.getS d)
  | _ => none
/-- A register set of the task after an instruction. -/
def after (i : Instr) (s : State) : Option Ctx :=
  match exec i s with
  | .next t => t.ctx 0
  | _ => none

/-! ### The common hypotheses: a task acts, stands alone, reads itself as it is -/

theorem wit_acting (c : Ctx) : (on0 c).Acting 0 c := ⟨rfl, rfl, rfl, rfl, rfl, rfl⟩
theorem wit_acting_in_bundle (c : Ctx) : (inBundle c).Acting 0 c := ⟨rfl, rfl, rfl, rfl, rfl, rfl⟩
theorem wit_alone (c : Ctx) : (on0 c).Alone 0 c := ⟨wit_acting c, rfl, rfl⟩
theorem wit_sees (c : Ctx) : (on0 c).Sees 0 c := ⟨wit_acting c, rfl, rfl⟩
theorem wit_sees_in_bundle (c : Ctx) : (inBundle c).Sees 0 c := ⟨wit_acting_in_bundle c, rfl, rfl⟩

/-! ### Ill-formed terms -/

theorem bad_shli : Instr.wf (.shli 1 2 32 true) = false := by decide
theorem bad_shri : Instr.wf (.shri 1 2 63 true) = false := by decide
theorem bad_srai : Instr.wf (.srai 1 2 32 true) = false := by decide
theorem bad_ext : Instr.wf (.ext 1 2 60 4) = false := by decide
theorem bad_extu : Instr.wf (.extu 1 2 1 63) = false := by decide
theorem bad_ins : Instr.wf (.ins 1 2 63 1) = false := by decide
theorem bad_fadd_sr32 : Instr.wf (.fadd 1 2 3 0 4) = false := by decide
theorem bad_fadd_rc : Instr.wf (.fadd 1 2 3 1 6) = false := by decide
theorem bad_fmin_fmt : Instr.wf (.fmin 1 2 3 3) = false := by decide
theorem bad_fcvt_dst : Instr.wf (.fcvt 1 2 3 0 0) = false := by decide
theorem bad_ftoi_sr : Instr.wf (.ftoi 1 2 false false 1 4) = false := by decide
theorem bad_itof : Instr.wf (.itof 1 2 false false 0 4) = false := by decide
theorem bad_fsgn : Instr.wf (.fsgn 1 2 3 0 3) = false := by decide
theorem bad_ld : Instr.wf (.ld 1 2 3 true 0) = false := by decide
theorem bad_ldx : Instr.wf (.ldx 1 2 3 3 true 0) = false := by decide
theorem bad_amo_scope : Instr.wf (.amoadd 1 2 3 5 false) = false := by decide
theorem bad_amomin_scope : Instr.wf (.amomin 1 2 3 7 false false) = false := by decide
theorem bad_amofmax_scope : Instr.wf (.amofmax 1 2 3 6) = false := by decide
theorem bad_hset : Instr.wf (.hset 1 2 17) = false := by decide
theorem bad_hdim : Instr.wf (.hdim 1 2 3 0) = false := by decide
theorem bad_br : Instr.wf (.br 6 1 2 0) = false := by decide
theorem bad_loop : Instr.wf (.loop 1 0 1 4) = false := by decide
theorem bad_phase : Instr.wf (.phase 5 1 2) = false := by decide
theorem bad_fence : Instr.wf (.fence 7) = false := by decide
theorem bad_deq : Instr.wf (.deq 3 1 3) = false := by decide
theorem bad_crr : Instr.wf (.crr 1 0x00C) = false := by decide
theorem bad_crw : Instr.wf (.crw 1 0x0BC) = false := by decide
theorem bad_crw_fqpop : Instr.wf (.crw 1 0x08D) = false := by decide
theorem bad_setstep : Instr.wf (.setstep 0 3 1) = false := by decide
theorem bad_mma : Instr.wf (.mma 0 1 2 10 false false 0 0) = false := by decide
theorem bad_mmax : Instr.wf (.mmax 0 1 2 15 false false 0 0) = false := by decide
theorem bad_mrank : Instr.wf (.mrank 0 33 0) = false := by decide
theorem bad_mpop : Instr.wf (.mpop 0 1) = false := by decide
theorem bad_mthr : Instr.wf (.mthr 1 0 127 1) = false := by decide
theorem bad_vadd_rc : Instr.wf (.vadd 1 2 3 6 false) = false := by decide
theorem bad_vadd_handle : Instr.wf (.vadd 1 2 32 0 false) = false := by decide
theorem bad_vabs : Instr.wf (.vabs 1 2 7) = false := by decide
theorem bad_vexp : Instr.wf (.vexp 1 2 6 false) = false := by decide
theorem bad_vtbl : Instr.wf (.vtbl 1 2 0 7) = false := by decide
theorem bad_vcmp : Instr.wf (.vcmp 1 2 3 6) = false := by decide
theorem bad_vsel : Instr.wf (.vsel 1 2 3 6 0) = false := by decide
theorem bad_vred : Instr.wf (.vred 1 2 0 3) = false := by decide
theorem bad_vpush : Instr.wf (.vpush 1 2 3 2) = false := by decide
theorem bad_viota : Instr.wf (.viota 1 2 6) = false := by decide
theorem bad_ppack : Instr.wf (.ppack 1 2 7 false) = false := by decide
theorem bad_pscale : Instr.wf (.pscale 1 2 3 6) = false := by decide
theorem bad_pdq : Instr.wf (.pdq 1 2 6) = false := by decide
theorem bad_cpy_scope : Instr.wf (.cpy 1 2 3 5 0 0) = false := by decide
theorem bad_cpy_target : Instr.wf (.cpy 1 2 3 0 3 0) = false := by decide
theorem bad_drain_target : Instr.wf (.drain 1 2 3 0 1 256) = false := by decide
theorem bad_rst_target : Instr.wf (.rst 1 2 3 0 3 256) = false := by decide
theorem bad_merge_scope : Instr.wf (.drainkMerge 1 2 3 6) = false := by decide

/-- A guard field without a guard register, a guard without an extension word, NOP with one, VSEL without one. -/
theorem bad_guard_bit : SlotOp.wf { x := true, guard := { reg := 0, bit := 1, pol := false }, instr := .addi 1 2 3 } = false := by decide
theorem bad_guard_short : SlotOp.wf { x := false, guard := { reg := 1, bit := 0, pol := true }, instr := .addi 1 2 3 } = false := by decide
theorem bad_nop_long : SlotOp.wf { x := true, guard := Guard.none, instr := .nopAlu } = false := by decide
theorem bad_vsel_short : SlotOp.wf (.plain (.vsel 1 2 3 0 0)) = false := by decide
theorem bad_field_rule : SlotOp.wf (.plain (.br 6 1 2 0)) = false := by decide

/-- Grants: more than six, fewer than the sources, for an absent slot; one destination twice; a memory access in ALU1; a branch in a repeated bundle. -/
theorem bad_grants_sum : Bundle.legal { reps := 0, grants := 0xFC00, ops := [(0, .plain (.addi 1 2 3)), (1, .plain (.addi 2 2 3)), (2, .plain .nopCtl)], bytes := 16 } = false := by decide
theorem bad_grant_low : Bundle.legal { reps := 0, grants := 0x4000, ops := [(0, .plain (.add 1 2 3 false))], bytes := 8 } = false := by decide
theorem bad_grant_absent : Bundle.legal { reps := 0, grants := 0x5000, ops := [(0, .plain (.addi 1 2 3))], bytes := 8 } = false := by decide
theorem bad_destination : Bundle.legal (bundleOf [(0, .plain (.addi 1 2 3)), (1, .plain (.addi 1 3 4))]) = false := by decide
theorem bad_handle_destination : Bundle.legal { (bundleOf [(0, .plain (.hset 1 2 0)), (1, .plain (.hset 1 3 0))]) with reps := 0 } = false := by decide
theorem bad_alu1 : Bundle.legal (bundleOf [(1, .plain (.ld 1 2 0 false 0))]) = false := by decide
theorem bad_repeat : Bundle.legal { (bundleOf [(2, .plain (.jmp 0))]) with reps := 1 } = false := by decide
theorem good_bundle : Bundle.legal (bundleOf [(0, .plain (.addi 1 2 3)), (1, .plain (.addi 4 3 4)), (2, .plain (.jmp 0))]) = true := by decide

/-! ### Words of the spec (chapters 9 to 12 and 17 to 19) -/

theorem word_addi : decodeSlot .alu 0x030C3004 0 = some (.plain (.addi 3 3 4)) := by decide
theorem word_andi : decodeSlot .alu 0x103D0003 0 = some (.plain (.andi 15 16 3)) := by decide
theorem word_add : decodeSlot .alu 0x0128A2C0 0 = some (.plain (.add 10 10 11 false)) := by decide
theorem word_movi : decodeSlot .alu 0x2C280000 0 = some (.plain (.movi 10 0)) := by decide
theorem word_ld : decodeSlot .alu 0x402C3800 0 = some (.plain (.ld 11 3 2 false 0)) := by decide
theorem word_arm : decodeSlot .ctl 0x0F004400 0 = some (.plain (.arm 0 17 false 0)) := by decide
theorem word_done : decodeSlot .ctl 0x16000000 0 = some (.plain .done) := by decide
theorem word_mma : decodeSlot .mat 0x01310500 0 = some (.plain (.mma 3 4 5 0 false false 0 0)) := by decide
theorem word_mthr : decodeSlot .mat 0x0B284003 0 = some (.plain (.mthr 10 1 0 3)) := by decide
theorem word_drain : decodeSlot .xfr 0x06180018 0 = some (.plain (.drain 6 0 0 3 0 0)) := by decide
theorem word_merge : decodeSlot .xfr 0x07040341 0 = some (.plain (.drainkMerge 1 0 13 0)) := by decide
theorem word_rst : decodeSlot .xfr 0x88040020 0x00060000 = some { x := true, guard := Guard.none, instr := .rst 1 0 0 4 3 0 } := by decide
theorem word_rred : decodeSlot .xfr 0x0B105360 0 = some (.plain (.rred 4 5 13 4 0 0)) := by decide
theorem word_cntx : decodeSlot .xfr 0x8E289160 0x00060001 = some { x := true, guard := Guard.none, instr := .cntx 10 9 5 4 3 1 } := by decide
theorem word_xstat : decodeSlot .xfr 0x121C0001 0 = some (.plain (.xstatLast 7 0)) := by decide
/-- SLDT s1, SMODE 1, PPERM h1, h2, s3 and the words after them, from the tables of R341 to R345. -/
theorem word_sldt : decodeSlot .scl 0x01001000 0 = some (.plain (.sldt 1)) := by decide
theorem word_smode : decodeSlot .scl 0x04000001 0 = some (.plain (.smode true)) := by decide
theorem word_pperm : decodeSlot .prm 0x080420C0 0 = some (.plain (.pperm 1 2 3)) := by decide

/-! ### Single instructions, with results from the spec's rules and tables -/

/-- R285: addition wraps; R286: with W the low words are added and the result is sign-extended. -/
theorem test_add_wraps : sAfter (.add 3 1 2 false) (regs0 [(1, 0xFFFFFFFFFFFFFFFF), (2, 2)]) 3 = some 1 := by decide +kernel
theorem test_add_word : sAfter (.add 3 1 2 true) (regs0 [(1, 0x7FFFFFFF), (2, 1)]) 3 = some 0xFFFFFFFF80000000 := by decide +kernel
/-- R223: a write to s0 is discarded, and s0 reads as zero. -/
theorem test_s0 : sAfter (.addi 0 1 5) (regs0 [(1, 7)]) 0 = some 0 := by decide +kernel
/-- A source that is also the destination. -/
theorem test_sub_same : sAfter (.sub 1 2 1 false) (regs0 [(1, 9), (2, 4)]) 1 = some 0xFFFFFFFFFFFFFFFB := by decide +kernel
theorem test_mulh : sAfter (.mulh 3 1 2 false) (regs0 [(1, 0xFFFFFFFFFFFFFFFF), (2, 2)]) 3 = some 0xFFFFFFFFFFFFFFFF := by decide +kernel
theorem test_mulhu : sAfter (.mulhu 3 1 2 false) (regs0 [(1, 0xFFFFFFFFFFFFFFFF), (2, 2)]) 3 = some 1 := by decide +kernel
/-- R287: the table of division at its borders. -/
theorem test_div_zero : sAfter (.div 3 1 2 false) (regs0 [(1, 5)]) 3 = some 0xFFFFFFFFFFFFFFFF := by decide +kernel
theorem test_div_overflow : sAfter (.div 3 1 2 false) (regs0 [(1, 0x8000000000000000), (2, 0xFFFFFFFFFFFFFFFF)]) 3 = some 0x8000000000000000 := by decide +kernel
theorem test_rem_overflow : sAfter (.rem 3 1 2 false) (regs0 [(1, 0x8000000000000000), (2, 0xFFFFFFFFFFFFFFFF)]) 3 = some 0 := by decide +kernel
theorem test_div_truncates : sAfter (.div 3 1 2 false) (regs0 [(1, 0xFFFFFFFFFFFFFFF9), (2, 2)]) 3 = some 0xFFFFFFFFFFFFFFFD := by decide +kernel
theorem test_divu : sAfter (.divu 3 1 2 false) (regs0 [(1, 0xFFFFFFFFFFFFFFF9), (2, 2)]) 3 = some 0x7FFFFFFFFFFFFFFC := by decide +kernel
theorem test_rem : sAfter (.rem 3 1 2 false) (regs0 [(1, 0xFFFFFFFFFFFFFFF9), (2, 2)]) 3 = some 0xFFFFFFFFFFFFFFFF := by decide +kernel
theorem test_remu : sAfter (.remu 3 1 2 false) (regs0 [(1, 0xFFFFFFFFFFFFFFF9), (2, 2)]) 3 = some 1 := by decide +kernel
/-- R285, R286: a shift counts b[5:0], with W b[4:0]. -/
theorem test_shl_count : sAfter (.shl 3 1 2 false) (regs0 [(1, 1), (2, 65)]) 3 = some 2 := by decide +kernel
theorem test_sra_word : sAfter (.sra 3 1 2 true) (regs0 [(1, 0x80000000), (2, 33)]) 3 = some 0xFFFFFFFFC0000000 := by decide +kernel
theorem test_clz_zero : sAfter (.clz 3 1 false) (regs0 []) 3 = some 64 := by decide +kernel
theorem test_ctz_word : sAfter (.ctz 3 1 true) (regs0 [(1, 0x100000000)]) 3 = some 32 := by decide +kernel
theorem test_ext : sAfter (.ext 3 1 4 3) (regs0 [(1, 0x80)]) 3 = some 0xFFFFFFFFFFFFFFF8 := by decide +kernel
theorem test_ins : sAfter (.ins 3 1 8 7) (regs0 [(1, 0xAB), (3, 0xFFFFFF)]) 3 = some 0xFFABFF := by decide +kernel
theorem test_movk : sAfter (.movk 3 1 0xBEEF) (regs0 [(3, 0xFFFFFFFFFFFFFFFF)]) 3 = some 0xFFFFFFFFBEEFFFFF := by decide +kernel
theorem test_min_signed : sAfter (.min 3 1 2 false) (regs0 [(1, 0xFFFFFFFFFFFFFFFF), (2, 1)]) 3 = some 0xFFFFFFFFFFFFFFFF := by decide +kernel
theorem test_sltu : sAfter (.sltu 3 1 2 false) (regs0 [(1, 0xFFFFFFFFFFFFFFFF), (2, 1)]) 3 = some 0 := by decide +kernel
/-- R288: 1.5 + 2.25 = 3.75 in FP32; the bits above are zero. FCLASS of −0 is bit 3. R167: FMIN takes −0 below +0. -/
theorem test_fadd : sAfter (.fadd 3 1 2 0 0) (regs0 [(1, 0xFFFFFFFF3FC00000), (2, 0x40100000)]) 3 = some 0x40700000 := by decide +kernel
theorem test_fclass : sAfter (.fclass 3 1 0) (regs0 [(1, 0x80000000)]) 3 = some 8 := by decide +kernel
theorem test_fmin_zero : sAfter (.fmin 3 1 2 0) (regs0 [(1, 0), (2, 0x80000000)]) 3 = some 0x80000000 := by decide +kernel
/-- R181: FTOI of 2.5 to nearest even is 2; of a NaN 0. -/
theorem test_ftoi : sAfter (.ftoi 3 1 false false 0 0) (regs0 [(1, 0x40200000)]) 3 = some 2 := by decide +kernel
theorem test_itof : sAfter (.itof 3 1 false true 0 0) (regs0 [(1, 0xFFFFFFFF)]) 3 = some 0xBF800000 := by decide +kernel
/-- R296: HSET of BASE and HADV, modulo 2^56. -/
theorem test_hset : (after (.hset 2 1 0) (regs0 [(1, 0xFF12345678901234)])).map (fun c => (c.regs.getH 2).toNat) = some 0x12345678901234 := by decide +kernel
theorem test_hget_stride : sAfter (.hget 3 2 6) (on0 { ctx0 with regs := ctx0.regs.setH 2 (BitVec.ofNat 256 (0xFFFFFFFF * 2 ^ 128)) }) 3
    = some 0xFFFFFFFFFFFFFFFF := by decide +kernel
/-- R298: BR goes to PC + 4 × off; CALLR s1 goes to the old s1 and links the next bundle. -/
theorem test_br : (after (.br 0 0 0 0xFFFFFFF) (on0 ctx0)).map (·.regs.pc) = some 0xFFFC := by decide +kernel
theorem test_callr : (after (.callr 1) (regs0 [(1, 0x20000)])).map (fun c => (c.regs.pc, c.regs.getS 1)) = some (0x20000, 0x10008) := by decide +kernel
theorem test_jr_misaligned : (after (.jr 1) (on0 { with' [(1, 0x20002)] with regs := { (with' [(1, 0x20002)]).regs with tvec := 0x30000 } })).map
    (fun c => (c.regs.pc, c.regs.tcause, c.regs.tpc)) = some (0x30000, 2, 0x10000) := by decide +kernel
/-- R253: LOOPI 4 opens level 0 with LC 3, LBEG the next bundle, LEND at PC + 4 × off. -/
theorem test_loopi : (after (.loopi 4 7) (on0 ctx0)).map (fun c => (c.regs.st.depth, c.regs.st.lc.val 0 0, c.regs.st.lbeg.val 0 0, c.regs.st.lend.val 0 0))
    = some (1, 3, 0x10008, 0x1001C) := by decide +kernel
/-- R307, R382: SYS saves the next bundle and its code, and goes to TVEC. -/
theorem test_sys : (after (Instr.sys 0x1234) (on0 { ctx0 with regs := { ctx0.regs with tvec := 0x30000 } })).map
    (fun c => (c.regs.pc, c.regs.tpc, c.regs.tcause, c.regs.tdetail, c.regs.inTrap)) = some (0x30000, 0x10008, 0x11, 0x1234, true) := by decide +kernel
/-- R384: ERET outside a handler traps TRAP-STATE. -/
theorem test_eret : (after .eret (on0 { ctx0 with regs := { ctx0.regs with tvec := 0x30000 } })).map (fun c => (c.regs.pc, c.regs.tcause)) = some (0x30000, 0x0E) := by decide +kernel
/-- R291: a misaligned store traps MISALIGNED; an aligned one at a slice the task may not write traps TRANSLATION, and the window stays empty. -/
theorem test_st_misaligned : (after (.st 1 2 3 0) (on0 { with' [(2, 0x00FE000000000004)] with regs := { (with' [(2, 0x00FE000000000004)]).regs with tvec := 0x30000 } })).map
    (fun c => (c.regs.pc, c.regs.tcause, c.ph.window.length)) = some (0x30000, 2, 0) := by decide +kernel
/-- R250: WAITB of a batch without steps passes. R303: ARM of a barrier with a count in it waits for it. -/
theorem test_waitb : (after (.waitb 3) (on0 ctx0)).map (·.regs.pc) = some 0x10008 := by decide +kernel
theorem test_arm : (after (.arm 5 1 false 0) (regs0 [(1, 2)])).map (fun c => ((c.bar 5).count, (c.bar 5).armed, (c.bar 5).fired)) = some (2, true, false) := by decide +kernel
theorem test_arm_zero : (after (.arm 5 0 false 0) (on0 ctx0)).map (fun c => ((c.bar 5).armed, (c.bar 5).fired)) = some (false, true) := by decide +kernel
/-- R230, R381: CRW of FPCTL keeps the reserved bits zero, and RM when 5 is written. -/
theorem test_crw_fpctl : (after (.crw 1 0x008) (regs0 [(1, 0xFFFFFFFFFFFFFFFD)])).map (·.regs.fpctl) = some 0xF08 := by decide +kernel

/-! ### Witnesses: states and operands that meet the hypotheses of each statement of Obligations.lean. The hypotheses Acting, Alone and Sees are met by
`on0 c` and `inBundle c` for every context c (above); what else a clause asks is shown here, at the boundary of its range. -/

/-- IntBits: an immediate count of 31 with W; a field that ends at bit 63. -/
theorem wit_IntBits : (31 : BitVec 6).toNat < 32 ∧ (0 : BitVec 6).toNat + (63 : BitVec 6).toNat + 1 ≤ 64 ∧ (63 : BitVec 6).toNat + (0 : BitVec 6).toNat + 1 ≤ 64 := by decide
/-- FpRounding: two formats; the largest finite FP32 value, held exactly. -/
theorem wit_FpRounding : (1 : BitVec 2) ≠ 0 ∧ fp32 ∈ [fp32, fp16, bf16, e4m3, e5m2, e2m1] ∧ 0x7F7FFFFF < 2 ^ fp32.width ∧ 0xFFFF < 2 ^ 16 ∧
    (∃ neg num den e, fp32.decode 0x7F7FFFFF = .fin neg num den e) := ⟨by decide, by decide, by decide, by decide, _, _, _, _, rfl⟩
/-- Handles: HSET codes 0 and 16. -/
theorem wit_Handles : [(0, 56), (56, 8), (64, 16), (80, 16), (96, 16), (112, 16), (128, 32), (160, 32), (192, 32), (224, 8), (232, 4), (236, 4), (240, 4),
      (0, 64), (64, 64), (128, 64), (192, 64)][(16 : BitVec 5).toNat]? = some ((192, 64) : Nat × Nat) := by decide
/-- Transfer: a branch that is taken and one that is not, near and far targets, aligned and misaligned registers. -/
theorem wit_Transfer : (((0x10000 : Int) + 4 * ((0xFFFFFFF : BitVec 28).toInt)) % 2 ^ 64).toNat % 4 = 0 ∧
    (((0x10000 : Int) + 4 * ((0x7FFFFFFFFFF : BitVec 43).toInt)) % 2 ^ 64).toNat % 4 = 0 ∧
    ((regs0 [(1, 0xFFFFFFFFFFFFFFFC)]).rs (with' [(1, 0xFFFFFFFFFFFFFFFC)]) 1).toNat % 4 = 0 ∧
    ((regs0 [(1, 0x20002)]).rs (with' [(1, 0x20002)]) 1).toNat % 4 ≠ 0 := by decide +kernel

/-- Loops: a task without a loop, one in a loop, one in four loops. -/
def inLoops (n : Nat) (lc : Word) : Ctx :=
  { ctx0 with regs := { ctx0.regs with st := { ctx0.regs.st with
      lstate := BitVec.ofNat 64 n
      lc := (List.range n).map (fun k => (k, lc)), lbeg := (List.range n).map (fun k => (k, 0x10008#64)), lend := (List.range n).map (fun k => (k, BitVec.ofNat 64 (0x10100 - 4 * k))) } } }
theorem wit_Loops_open : (inLoops 3 5).regs.st.depth < 4 ∧ (inLoops 0 5).regs.st.depth < 4 ∧ ctx0.regs.st.sv = false ∧
    (0x10000 + 8 < 0x10000 + 4 * (3 : BitVec 28).toNat) ∧
    ((inLoops 3 5).regs.pc + 8 < 0x100F8 ∧ (0 < (inLoops 3 5).regs.st.depth → 0x100F8 ≤ ((inLoops 3 5).regs.st.lend.val 0 ((inLoops 3 5).regs.st.depth - 1)).toNat)) := by
  decide +kernel
theorem wit_Loops_trap : 2 ^ 32 ≤ ((regs0 [(1, 0x100000000)]).rs (with' [(1, 0x100000000)]) 1).toNat ∧ (inLoops 4 5).regs.st.depth = 4 ∧
    0x10000 + 4 * (2 : BitVec 28).toNat ≤ 0x10000 + 8 ∧ ((inLoops 1 5).regs.st.lend.val 0 0).toNat < 0x10104 ∧
    (inLoops 0 5).regs.st.depth < (0 : BitVec 2).toNat + 1 ∧ (3 : BitVec 2).toNat + 1 ≤ (inLoops 4 5).regs.st.depth := by decide +kernel
theorem wit_Loops_edge : 0 < (inLoops 1 5).regs.st.depth ∧ (inLoops 1 5).regs.st.sv = false ∧ ((inLoops 1 5).regs.st.lend.val 0 0).toNat = 0x10100 ∧
    (inLoops 1 5).regs.st.lc.val 0 0 ≠ 0 ∧ (inLoops 2 0).regs.st.lc.val 0 1 = 0 ∧ ((inLoops 2 0).regs.st.lend.val 0 0).toNat ≠ 0x100FC := by decide +kernel

/-- ControlRegisters: a record at the head of the fault queue and nothing waiting. -/
def rec0 : FRec := { cause := 0x22, pc := 0x10000, rel := false, stepf := false, abs := false, slot := 7, id := 1, addr := 0, detail := 0 }
def faulted : Ctx := { ctx0 with xf := { ctx0.xf with fq := [rec0] } }
theorem wit_ControlRegisters : (faulted.xf.fq = rec0 :: [] ∧ faulted.xf.waitq = []) ∧ (3 < 4 ∧ 7 < 8 ∧ 11 < 12) := by decide

/-- Traps: a task with a vector, one in a handler, one with an older load outstanding, one under a debugger. -/
def vectored : Ctx := { ctx0 with regs := { ctx0.regs with tvec := 0x30000 } }
def handling : Ctx := { vectored with regs := { vectored.regs with inTrap := true, tpc := 0x10008 } }
def load0 : PMem :=
  { atomic := false, d := 5, va := 0x00FE000000000000, size := 2, uns := false, place := .slice 0 0, amop := 0, operand := 0, compare := 0, scope := 0
    ftz := false, older := [], release := none, own := [none, none, none, none], pc := 0x10000, seq := 0 }
def loading : Ctx := { vectored with ph := { vectored.ph with memq := [load0] } }
def debugged : Ctx := { vectored with dbg := { vectored.dbg with ctl := 9 } }
def trap2 : Trap := { cause := 0x02, addr := 0, detail := 0, slot := 0, straddle := false }
theorem wit_TrapEntry : (on0 vectored).ctx 0 = some vectored ∧ vectored.regs.inTrap = false ∧ vectored.regs.tvec ≠ 0 ∧ vectored.mustWait = false ∧
    vectored.dbg.stepping = false ∧ trap2.cause ≠ Cause.dataError ∧ trap2.cause ≠ Cause.brk ∧ trap2.cause ≠ Cause.engineFault ∧ trap2.straddle = false ∧
    handling.mustWait = false ∧ handling.regs.inTrap = true ∧ ctx0.regs.tvec = 0 ∧ loading.mustWait = true := by decide +kernel
theorem wit_TrapAndDebug : (inBundle vectored).issue.on = true ∧ bit ctx0.dbg.ctl 0 = false ∧ bit debugged.dbg.ctl 0 = true ∧ (on0 debugged).issue.on = false := by decide +kernel
theorem wit_TrapReturns : handling.regs.inTrap = true ∧ handling.regs.tpc.toNat % 4 = 0 ∧ ctx0.regs.inTrap = false ∧
    ({ handling.regs with tpc := 0x10002 } : Regs).tpc.toNat % 4 ≠ 0 ∧ vectored.regs.pc < 2 ^ 56 ∧ vectored.regs.pc % 4 = 0 := by decide +kernel
def pendingFault : Ctx := { vectored with xf := faulted.xf }
def settling : Ctx := { ctx0 with dbg := { ctx0.dbg with settling := true } }
theorem wit_BoundaryEvents : ((on0 pendingFault).core (on0 pendingFault).subj).ctx = some 0 ∧ (on0 pendingFault).ctx 0 = some pendingFault ∧
    pendingFault.coreNo = some (on0 pendingFault).subj ∧ pendingFault.isOver = false ∧ pendingFault.regs.inTrap = false ∧ pendingFault.xf.fq ≠ [] ∧
    pendingFault.ph.op = none ∧ pendingFault.ph.rem = none ∧ pendingFault.ph.err = false ∧ pendingFault.trapWait = none ∧ bit pendingFault.dbg.stat 8 = false ∧
    pendingFault.dbg.settling = false ∧ pendingFault.dbg.stepping = false ∧ pendingFault.mustWait = false ∧ pendingFault.regs.tvec ≠ 0 ∧
    pendingFault.leaving = false ∧ (on0 pendingFault).switchDue 0 = false ∧
    bit debugged.dbg.ctl 3 = true ∧ bit debugged.dbg.stat 8 = false ∧ debugged.ph.op = none ∧ debugged.ph.rem = none ∧ debugged.trapWait = none ∧
    settling.dbg.settling = true ∧ bit settling.dbg.ctl 2 = false := by decide +kernel
/-- HandlersStartClean: as TrapEntry and TrapReturns. -/
theorem wit_HandlersStartClean : (on0 vectored).ctx 0 = some vectored ∧ vectored.regs.inTrap = false ∧ vectored.regs.tvec ≠ 0 ∧ handling.regs.inTrap = true ∧
    handling.regs.tpc.toNat % 4 = 0 := by decide +kernel

/-- MemoryReadAfterWrite: a canonical memory with a byte in it. -/
theorem wit_MemoryReadAfterWrite : Memory.wf [(5, 1), (9, 2)] = true := by decide

/-- A core whose slice lies open to world 0: entry 0 of its permission table covers the whole slice with every right. -/
def sptAll : SptEnt := { owner := 0, world := 0, share := 2, rights := 7, count := 2048, start := 0 }
def open0 (c : Ctx) : State :=
  { on0 c with cores := [(0, { Core.reset with ctx := some 0, spt := [(0, sptAll)], banks := (List.range 32).map (fun b => (b, Bank.active 0)) })] }
def me : Who := { die := 0, world := 0, region := 0, core := 0, req := 0, opens := false }
def env0 : Env := { region := 0, world := 0, asn := 0, root := 0, pasid := 0, pairBase := 0, pairSize := 0, wintab := 0 }
/-- The same with its banks drowsy. -/
def drowsing (c : Ctx) : State :=
  { on0 c with cores := [(0, { Core.reset with ctx := some 0, spt := [(0, sptAll)], banks := (List.range 32).map (fun b => (b, Bank.drowsy)) })] }
theorem wit_SliceAsleep : (drowsing ctx0).servedAt 0 0x40 = .slice 0 ∧ (drowsing ctx0).halfOff 0 0x40 .write = some 0x40 ∧
    (drowsing ctx0).halfOff 0 0x40 .atomic = some 0x40 ∧ (drowsing ctx0).asleepAt 0 0x40 = true := by decide +kernel
theorem wit_HomeWritesExactly : Memory.wf (open0 ctx0).mem = true ∧ (open0 ctx0).sramBad = [] ∧ (open0 ctx0).servedAt 0 0x40 = .slice 0 ∧
    (open0 ctx0).routeUp me.die (dieOf 0) = true ∧ (open0 ctx0).halfOff 0 0x40 .write = some 0x40 ∧ (open0 ctx0).halfOff 0 0x40 .atomic = some 0x40 ∧ (open0 ctx0).asleepAt 0 0x40 = false ∧
    (on0 ctx0).hbmReach me.die (0x2000 / 64) = true ∧ (on0 ctx0).rangeOf (0x2000 / 64 * 64) = none ∧ (on0 ctx0).lineErr.look (0x2000 / 64) = none ∧
    (on0 ctx0).keyed.val 0 (0x2000 / 64) = 0 ∧ (on0 ctx0).arb.regions = [] ∧ 0x2000 % 64 + 64 ≤ 64 ∧ 0x203F % 64 + 1 ≤ 64 := by decide +kernel

/-- An address of core 0's slice. -/
def sliceVa : DWord := 0x00FE000000000040
def pointing : Ctx := { with' [(2, sliceVa), (3, 7)] with regs := { (with' [(2, sliceVa), (3, 7)]).regs with tvec := 0x30000 } }
theorem wit_Loads_accessOk : (open0 pointing).accessOk 0 pointing true .read sliceVa.toNat 4 (.slice 0 0x40) (open0 pointing) :=
  ⟨open0 pointing, by decide +kernel, by decide +kernel, by decide +kernel, by decide +kernel⟩
theorem wit_Loads : (open0 pointing).Sees 0 pointing ∧ sliceVa.toNat % 2 ^ (2 : BitVec 2).toNat = 0 ∧ spaceOf sliceVa.toNat ≠ 2 ∧
    pointing.vecBlocks pointing.ph.seq sliceVa.toNat 4 false = false ∧ (pointing.ph.memq.filter (fun m => !m.atomic)).length < 16 ∧
    (pointing.regs.getS 2 + ((0 : BitVec 28).signExtend 64) <<< (2 : BitVec 2).toNat).toNat = sliceVa.toNat :=
  ⟨⟨⟨rfl, rfl, rfl, rfl, rfl, rfl⟩, rfl, rfl⟩, by decide +kernel, by decide +kernel, by decide +kernel, by decide +kernel, by decide +kernel⟩
/-- A load with all its bytes in the window; one whose line is pinned; one that reads memory. -/
def loadOwn : PMem := { load0 with own := [some 1, some 2, some 3, some 4] }
def loadingOwn : Ctx := { ctx0 with ph := { ctx0.ph with memq := [loadOwn] } }
def loadingPinned : Ctx := { ctx0 with ph := { ctx0.ph with memq := [load0], snap := [{ va := 0x00FE000000000000, data := 0 }] } }
def loadingMem : Ctx := { ctx0 with ph := { ctx0.ph with memq := [load0] } }
theorem wit_LoadReturns : loadingOwn.ph.memq = loadOwn :: [] ∧ loadOwn.own.all Option.isSome = true ∧ loadOwn.own.length = 2 ^ loadOwn.size ∧
    load0.own.all Option.isSome = false ∧ loadingPinned.pinned load0.va = some 0 ∧ loadingMem.pinned load0.va = none ∧
    (open0 loadingMem).mustFollow loadingMem load0.seq load0.place = false ∧ (open0 loadingMem).ctx 0 = some loadingMem ∧
    loadingMem.ph.snap.length < 2048 := by decide +kernel
theorem wit_LoadReturns_mem : homeRead (open0 loadingMem) ((open0 loadingMem).whoTask loadingMem 0 true) ((open0 loadingMem).envTask loadingMem) load0.place.line 64
    = (open0 loadingMem, .ok (List.replicate 64 0)) := by decide +kernel
theorem wit_Stores : (open0 pointing).accessOk 0 pointing false .write sliceVa.toNat 8 (.slice 0 0x40) (open0 pointing) ∧
    sliceVa.toNat % 2 ^ (3 : BitVec 2).toNat = 0 ∧ pointing.ph.window.length < 1024 :=
  ⟨⟨open0 pointing, by decide +kernel, by decide +kernel, by decide +kernel, by decide +kernel⟩, by decide +kernel, by decide +kernel⟩
/-- A misaligned address; a window of 1,024 lines. -/
def full : Ctx := { pointing with ph := { pointing.ph with window := (List.range 1024).map (fun k => { va := 64 * k, mask := 1, data := 0, place := .hbm 0, stale := false }) } }
theorem wit_AccessTraps : (pointing.regs.getS 2 + ((1 : BitVec 28).signExtend 64) <<< (0 : BitVec 2).toNat).toNat % 2 ^ (0 : BitVec 2).toNat = 0 ∧
    (pointing.regs.getS 3).toNat % 4 ≠ 0 ∧ (pointing.regs.getS 3).toNat % 8 ≠ 0 ∧ (pointing.regs.getS 3 + ((0 : BitVec 28).signExtend 64) <<< (1 : BitVec 2).toNat).toNat % 2 ^ (1 : BitVec 2).toNat ≠ 0 ∧
    (pointing.regs.getS 3 + pointing.regs.getS 0 <<< (0 : BitVec 3).toNat).toNat % 2 ^ (1 : BitVec 2).toNat ≠ 0 := by decide +kernel
theorem wit_WindowFull : 1024 ≤ full.ph.window.length ∧ full.ph.window.any (fun l => decide (l.va = sliceVa.toNat / 64 * 64)) = false ∧
    (open0 full).accessOk 0 full false .write sliceVa.toNat 8 (.slice 0 0x40) (open0 full) :=
  ⟨by decide +kernel, by decide +kernel, open0 full, by decide +kernel, by decide +kernel, by decide +kernel, by decide +kernel⟩
/-- Atomics: an aligned slice address, nothing older, nothing to release; the value ranges at both widths. -/
theorem wit_Atomics : (open0 pointing).accessOk 0 pointing false .atomic sliceVa.toNat 8 (.slice 0 0x40) (open0 pointing) ∧
    sliceVa.toNat % 8 = 0 ∧ Ctx.opsDone (open0 pointing) pointing 3 (Ctx.olderOps (open0 pointing) pointing 3) = true ∧ pointing.ph.memq = [] ∧
    (open0 pointing).mustFollow pointing pointing.ph.seq (.slice 0 0x40) = false ∧ (3 : BitVec 3).toNat ≠ 4 ∧ 2 ^ 64 - 1 < 2 ^ 64 ∧ 2 ^ 32 - 1 < 2 ^ 32 :=
  ⟨⟨open0 pointing, by decide +kernel, by decide +kernel, by decide +kernel, by decide +kernel⟩, by decide +kernel, by decide +kernel, by decide +kernel, by decide +kernel,
    by decide, by decide⟩
theorem wit_Atomics_home : ∃ t, homeAtomic (open0 pointing) ((open0 pointing).whoTask pointing 0 false) ((open0 pointing).envTask pointing) (.slice 0 0x40) 8
    (fun o => amoValue 0 64 (decide (0 = 0xB) && ftzOf pointing.regs.fpctl) o ((pointing.regs.getS 3).toNat % 2 ^ 64) ((pointing.regs.getS 0).toNat % 2 ^ 64)) = (t, .ok 0) ∧
    t.ctx 0 = some pointing ∧ t.issue = (open0 pointing).issue := ⟨_, rfl, by decide +kernel, by decide +kernel⟩
theorem wit_Atomics_pod : ∃ t e y, beginRelease (open0 pointing) 0 pointing.ph.seq = some (t, e) ∧ t.ctx 0 = some y ∧ t.issue = (open0 pointing).issue :=
  ⟨_, _, _, rfl, rfl, rfl⟩
def atom0 : PMem := { load0 with atomic := true, size := 3, place := .slice 0 0x40, own := [] }
def waiting : Ctx := { ctx0 with ph := { ctx0.ph with memq := [atom0] } }
theorem wit_AtomicWaits : (open0 waiting).ctx 0 = some waiting ∧ waiting.ph.memq = [atom0] ∧ atom0.atomic = true ∧ atom0.amop < 16 ∧
    Ctx.opsDone (open0 waiting) waiting atom0.scope atom0.older = true ∧ atom0.release = none := by decide +kernel

/-- WaitsAndBarriers: a batch with and without steps; barriers armed and not, fired and not, with nothing or something left to arrive. -/
def mop (i : Instr) (n : Nat) : MOp :=
  { seq := 0, pc := 0x10000, instr := i, ha := 0, hb := 0, scal := 0, ftz := false, batch := n, rings := [], cmd := none, cancelled := false, absorbed := false
    acted := false, phase := 0, word := 0, stepf := false, planes := [], sx4 := [] }
def batched : Ctx := { ctx0 with eng := { ctx0.eng with ms := [mop (.mzero 0) 7] } }
theorem wit_Waits : (∃ m ∈ batched.eng.ms, m.batch = (7 : BitVec 3).toNat) ∧ ¬ (∃ m ∈ ctx0.eng.ms, m.batch = (0 : BitVec 3).toNat) ∧
    ((15 : BitVec 4) = 15 ∨ 99 ≤ (15 : BitVec 4).toNat) ∧ ¬ ((0 : BitVec 4) = 15 ∨ batched.eng.ms.length ≤ (0 : BitVec 4).toNat) := by decide +kernel
def barred (count : Int) (armed fired : Bool) : Ctx :=
  { ctx0 with xf := { ctx0.xf with bars := [(0, { (ctx0.bar 0) with count := count, armed := armed, fired := fired })] } }
theorem wit_Barriers : ctx0.away = false ∧ Tab.rising ctx0.xf.bars ∧ Tab.rising (barred 1 true false).xf.bars ∧
    ((barred 0 false false).bar 0).armed = false ∧ (max (-2147483648) (min (((barred 0 false false).bar 0).count + (0 : Nat)) 2147483647) ≤ 0) ∧
    0 < (max (-2147483648) (min (((barred 0 false false).bar 0).count + (2147483647 : Nat)) 2147483647)) ∧ ((barred 1 true false).bar 0).armed = true ∧
    2 ^ 31 ≤ ((regs0 [(1, 0x80000000)]).rs (with' [(1, 0x80000000)]) 1).toNat ∧
    (max (-2147483648) (min (((barred 1 true false).bar 0).count - (1 : Nat)) 2147483647) ≤ 0) ∧ 0 < (max (-2147483648) (min (((barred 2 true false).bar 0).count - (1 : Nat)) 2147483647)) ∧
    ((barred 0 false true).bar 0).fired = true ∧ ((barred 0 false false).bar 0).fired = false := by
  refine ⟨by decide +kernel, List.Pairwise.nil, by simp [Tab.rising, barred], by decide +kernel, by decide +kernel, by decide +kernel, by decide +kernel,
    by decide +kernel, by decide +kernel, by decide +kernel, by decide +kernel, by decide +kernel⟩

/-- PhasesAndFences: a pair range that fits and one that does not; a phase that has sent its lines; a fence and a release with nothing left. -/
def phaseOp (done : Bool) : PhaseOp :=
  { isDone := done, pc := 0x10000, scope := 0, bset := [], pairFrom := 0, pairCount := 0, sent := true, release := none, next := 0, ending := false }
def phasing (done : Bool) : Ctx := { ctx0 with ph := { ctx0.ph with op := some (phaseOp done) } }
def fence0 : FenceOp := { seq := 0, pc := 0x10000, scope := 0, older := [], release := none }
def fencing : Ctx := { ctx0 with ph := { ctx0.ph with fences := [fence0] } }
def rel0 (accepted : Bool) : Release := { epoch := 1, accepted := accepted, counts := [], pc := 0x10000 }
def releasing (accepted : Bool) : Ctx := { ctx0 with ph := { ctx0.ph with rels := [rel0 accepted] } }
theorem wit_PhaseFenceDone : ((on0 ctx0).rs ctx0 0).toNat < 2 ^ 48 ∧ ((on0 ctx0).rs ctx0 0).toNat / 2 ^ 32 % 2 ^ 16 ≤ 4096 ∧
    (∀ q ∈ phaseUsers (on0 ctx0) ctx0 [] 0 0, ctx0.ph.seq ≤ q) ∧ ¬ (((regs0 [(1, 0xFFFFFFFFFFFF)]).rs (with' [(1, 0xFFFFFFFFFFFF)]) 1).toNat / 2 ^ 32 % 2 ^ 16 ≤ 4096) ∧
    ((on0 ctx0).invals.filter (fun v => decide (v.ctx = some 0))).length + ctx0.ph.fences.length + (ctx0.ph.rels.filter (·.accepted)).length < 16 ∧ ctx0.regs.pc % 4 = 0 := by
  decide +kernel
theorem wit_PhasePublishes (d : Bool) : (on0 (phasing d)).ctx (on0 (phasing d)).subj = some (phasing d) ∧ (phasing d).ph.op = some (phaseOp d) ∧ (phaseOp d).ending = false ∧
    (phaseOp d).sent = true ∧ (phasing d).ph.window = [] ∧ (phasing d).ph.late = [] ∧
    Ctx.opsDone (on0 (phasing d)) (phasing d) (phaseOp d).scope (Ctx.olderOps (on0 (phasing d)) (phasing d) (phaseOp d).scope) = true ∧ (phaseOp d).scope ≠ 4 ∧
    (phaseOp d).release = none ∧ (phaseOp d).pairCount ≤ (phaseOp d).next := by cases d <;> decide +kernel
theorem wit_FenceRelease : fencing.ph.fences = fence0 :: [] ∧ Ctx.opsDone (on0 fencing) fencing fence0.scope fence0.older = true ∧ fence0.scope ≠ 4 ∧ fence0.release = none ∧
    (releasing false).ph.rels.find? (fun r => !r.accepted) = some (rel0 false) ∧ (on0 (releasing false)).mid.fences.length + (rel0 false).counts.length ≤ 4096 ∧
    (releasing true).ph.rels = rel0 true :: [] ∧ (rel0 true).accepted = true ∧ (on0 (releasing true)).mid.reqs = [] ∧ (on0 (releasing true)).mid.fences = [] := by decide +kernel

/-- GridWork: grid 0 open, closed, full; LaunchesNodesQueues and QueueWork below. -/
def grid (st count : Nat) : Grid := { Grid.free with st := st, count := count, spbase := 0x4000 }
def gridded (e : Grid) (c : Ctx) : State := { open0 c with arb := { Arbiter.reset with grids := [(gridKey 0 0, e)] } }
theorem wit_GridWork : (gridded (grid 1 5) pointing).Sees 0 pointing ∧ (gridded (grid 1 5) pointing).bad = none ∧ Ctx.opsDone (gridded (grid 1 5) pointing) pointing 3 (Ctx.olderOps (gridded (grid 1 5) pointing) pointing 3) = true ∧ pointing.ph.memq = [] ∧
    (gridded (grid 1 5) pointing).gridAddr 0 0 + 128 ≤ 2 ^ 39 ∧ ((gridded (grid 2 5) pointing).grid 0 0).st ≠ 1 ∧ ((gridded (grid 1 5) pointing).grid 0 0).st = 1 ∧
    2 ^ 32 < ((gridded (grid 1 (2 ^ 32)) pointing).grid 0 0).count + ((gridded (grid 1 5) pointing).rs pointing 3).toNat ∧
    ((gridded (grid 1 5) pointing).grid 0 0).count + ((gridded (grid 1 5) pointing).rs pointing 3).toNat ≤ 2 ^ 32 ∧
    ((gridded (grid 1 5) pointing).grid 0 0).retired + ((gridded (grid 1 5) pointing).grid 0 0).faults + ((gridded (grid 1 5) pointing).grid 0 0).killed ≠ ((gridded (grid 1 5) pointing).grid 0 0).count ∧
    ((gridded (grid 1 5) pointing).grid 0 0).spbase + 16384 ≤ 2 ^ 39 ∧ ((gridded (grid 1 5) pointing).grid 0 0).spbase ≠ 0 ∧
    ((gridded (grid 1 (2 ^ 32)) pointing).grid 0 0).count = 2 ^ 32 ∧ 256 ≤ ((gridded (grid 1 5) pointing).rs pointing 2).toNat ∧ ((gridded (grid 1 5) pointing).rs pointing 2).toNat < 2 ^ 63 ∧
    2 ^ 63 + 2 ^ 16 ≤ ((regs0 [(1, 0x8000000000010000)]).rs (with' [(1, 0x8000000000010000)]) 1).toNat :=
  ⟨⟨⟨rfl, rfl, rfl, rfl, rfl, rfl⟩, rfl, rfl⟩, by decide +kernel⟩
theorem wit_GridWork_full : ((gridded { grid 1 5 with sptail := 1024 } pointing).grid 0 0).sptail + 2 ^ 16 - ((gridded { grid 1 5 with sptail := 1024 } pointing).grid 0 0).sphead = 2 ^ 16 + 1024 ∧
    ((gridded { grid 1 5 with spbase := 0 } pointing).grid 0 0).spbase = 0 ∧ ((gridded Grid.free pointing).grid 0 0).st = 0 := by decide +kernel

/-! LaunchesNodesQueues, QueueWork, InvalidationsAndWalks. -/

/-- A region that lives; a state in which region 0 does, with given bytes of memory. -/
def region0 : Region := { addr := 0x8000, rcb := [], staged := none, coreTok := 0, hbmTok := 0, fabTok := 0, powTok := 0, powThrottle := false }
def living (s : State) : State := { s with arb := { s.arb with regions := [(0, region0)] } }
/-- A packet of one index, x = y = z = 1, at code address 0x10000, for grid 0 of region 0. -/
def packet1 : List Byte := dwordBytes [0x0100000000000000, 0x10000, 0, 0x100000001, 1, 0, 0, 0]
theorem wit_LaunchesNodesQueues_launch : (living (on0 ctx0)).bad = none ∧ launchStatus (living (on0 ctx0)) none packet1 = none ∧
    0 < (dwordAt packet1 4).toNat % 2 ^ 32 ∧ (living (on0 ctx0)).gridAddr 0 0 + 128 ≤ 2 ^ 39 := by decide +kernel
/-- Node 0 of region 0: valid, a launch node, PRED 2. -/
def noded : State := { living (on0 ctx0) with mem := Memory.putAll [] 0 (leBytes 8 0x4000000200000001) }
theorem wit_LaunchesNodesQueues_node : noded.regionLive 0 = true ∧ noded.nodeAddr 0 0 + 32 ≤ 2 ^ 39 ∧ (noded.devDword (noded.whoRegion 0 4) (noded.nodeAddr 0 0)).2.getLsbD 0 = true ∧
    (noded.devDword (noded.whoRegion 0 4) (noded.nodeAddr 0 0)).2.getLsbD 60 = false ∧ (noded.devDword (noded.whoRegion 0 4) (noded.nodeAddr 0 0)).2.toNat / 2 ^ 62 = 1 ∧
    1 < (noded.devDword (noded.whoRegion 0 4) (noded.nodeAddr 0 0)).2.toNat / 2 ^ 32 % 2 ^ 16 ∧ noded.bad = none := by decide +kernel
/-- Queues 0 and 15 of a ready package. -/
theorem wit_LaunchesNodesQueues_queue : 0 < 16 ∧ 15 < 16 ∧ (on0 ctx0).host.phase = 6 := by decide

/-- QueueWork: an empty queue of one entry, a full one, at core 0's slice. -/
def queued (tail : Nat) : State := { open0 pointing with mem := Memory.putAll [] (sliceCell 0 0x40) (leBytes 8 tail) }
theorem wit_QueueWork (tail : Nat) : (queued tail).Sees 0 pointing ∧ Ctx.opsDone (queued tail) pointing 3 (Ctx.olderOps (queued tail) pointing 3) = true ∧ pointing.ph.memq = [] ∧
    (queued tail).bad = none := ⟨⟨⟨rfl, rfl, rfl, rfl, rfl, rfl⟩, rfl, rfl⟩, rfl, rfl, rfl⟩
/-- The bytes of its header line. -/
def header (tail : Nat) : List Byte := leBytes 8 tail ++ List.replicate 56 0
theorem wit_QueueWork_bad : ¬ (spaceOf ((queued 0).rs pointing 3).toNat = 1 ∧ ((queued 0).rs pointing 3).toNat % 64 = 0) := by decide +kernel
theorem wit_QueueWork_reads : spaceOf sliceVa.toNat = 1 ∧ sliceVa.toNat % 64 = 0 ∧ ((queued 0).rs pointing 2) = sliceVa ∧
    translate (queued 0) ((queued 0).whoTask pointing 0 false) ((queued 0).envTask pointing) .atomic sliceVa.toNat 64 = (queued 0, .ok (.slice 0 0x40)) ∧
    homeRead (queued 0) ((queued 0).whoTask pointing 0 false) ((queued 0).envTask pointing) (.slice 0 0x40) 64 = (queued 0, .ok (header 0)) ∧
    (queueHeader (queued 0) 0 0x40 (header 0)).isSome = true ∧ (queued 0).mustFollow pointing pointing.ph.seq (.slice 0 0x40) = false := by decide +kernel
theorem wit_QueueWork_enq : ∃ s3, queueOp (queued 0) ((queued 0).whoTask pointing 0 false) ((queued 0).envTask pointing) sliceVa.toNat (some 7) = (s3, .done 1 0) ∧
    s3.ctx 0 = some pointing ∧ s3.issue = (queued 0).issue ∧ s3.bad = none :=
  ⟨(queueOp (queued 0) ((queued 0).whoTask pointing 0 false) ((queued 0).envTask pointing) sliceVa.toNat (some 7)).1, by decide +kernel, by decide +kernel, by decide +kernel, by decide +kernel⟩
theorem wit_QueueWork_deq : ∃ s3, queueOp (queued 1) ((queued 1).whoTask pointing 0 false) ((queued 1).envTask pointing) sliceVa.toNat none = (s3, .done 1 0) ∧
    s3.ctx 0 = some pointing ∧ s3.issue = (queued 1).issue ∧ s3.bad = none :=
  ⟨(queueOp (queued 1) ((queued 1).whoTask pointing 0 false) ((queued 1).envTask pointing) sliceVa.toNat none).1, by decide +kernel, by decide +kernel, by decide +kernel, by decide +kernel⟩
theorem wit_QueueWork_header : homeRead (queued 1) me env0 (.slice 0 0x40) 64 = (queued 1, .ok (header 1)) ∧
    queueHeader (queued 1) 0 0x40 (header 1) = some (0, 1, 1) ∧ queueHeader (queued 0) 0 0x40 (header 0) = some (0, 0, 1) ∧
    (queued 1).sliceAllowed me 0 (0x40 + 64 + 8 * (0 % 1)) .atomic = true ∧
    homeRead (queued 1) me env0 (.slice 0 0x80) 8 = (queued 1, .ok (List.replicate 8 0)) := by decide +kernel
theorem wit_QueueWork_writes : ∃ s3 s4, homeWriteRun (queued 0) me env0 (.slice 0 0x80) (leBytes 8 7) = (s3, .ok ()) ∧
    homeWriteRun s3 me env0 (.slice 0 0x40) (leBytes 8 1) = (s4, .ok ()) := ⟨_, _, rfl, rfl⟩

/-- InvalidationsAndWalks: nothing counted and sixteen counted; an invalidation with nothing left to wait for; a walk queued, one under way that
succeeds through cached tables, for a page of HBM and for one of the host, one that fails. -/
def inval0 (tag : Option Nat) : Inval := { id := 0, kind := 0, ctx := some 0, ring := false, tag := tag, users := [.scalar 0 0x5000, .request 7] }
def invalidating (n : Nat) : State := { on0 ctx0 with invals := List.replicate n (inval0 (some 3)) }
theorem wit_Invalidations : ((on0 ctx0).invals.filter (fun v => decide (v.ctx = some 0))).length + ctx0.ph.fences.length + (ctx0.ph.rels.filter (·.accepted)).length < 16 ∧
    16 ≤ ((invalidating 16).invals.filter (fun v => decide (v.ctx = some 0))).length ∧
    (invalidating 1).invals.find? (fun v => decide (v.id = (invalidating 1).subj)) = some (inval0 (some 3)) ∧
    (∀ u ∈ (inval0 (some 3)).users, stillUsed (invalidating 1) u = false) ∧ (inval0 none).ring = false := by decide +kernel
def walk0 : Walk := { req := 5, world := 0, asn := 0, root := 0x1000, va := 0, acc := 0, stale := false, joined := [] }
def tlb (level addr : Nat) (leaf : DWord) : Tlb := { site := 0, world := 0, asn := 0, va := 0, level := level, leaf := leaf, addr := addr }
def walking (d : Die) (l : List Tlb) : State := { on0 ctx0 with dies := [(0, d)], walkc := l }
def tables : List Tlb := [tlb 3 0x1000 0x2001, tlb 2 0x2000 0xCF]
def hostTables : List Tlb := [tlb 3 0x1000 0x2001, tlb 2 0x2000 0x1CF]
def walker : Who := { die := 0, world := 0, region := 0, core := 0x1FF, req := 3, opens := false }
theorem wit_Walks : (walking { Die.reset with missq := [walk0] } []).subj = 0 ∧ ((walking { Die.reset with missq := [walk0] } []).die 0).missq ≠ [] ∧
    ((walking { Die.reset with missq := [walk0] } []).die 0).walks.length < 64 ∧ ((walking { Die.reset with walks := [walk0] } tables).die 0).walks = walk0 :: [] ∧
    walk walker env0 0 4 3 0x1000 (walking { Die.reset with walks := [walk0] } tables)
      = (walking { Die.reset with walks := [walk0] } tables, .ok { level := 2, value := 0xCF, addr := 0x2000 }) ∧
    leafPermits 0xCF walk0.kind = true ∧ walk0.req < 9 ∧
    setAccessed (walking { Die.reset with walks := [walk0] } tables) walker walk0.kind { level := 2, value := 0xCF, addr := 0x2000 }
      = (walking { Die.reset with walks := [walk0] } tables, some 0xCF) ∧
    (walk walker env0 0 4 3 0x1000 (walking { Die.reset with walks := [walk0] } hostTables)
      = (walking { Die.reset with walks := [walk0] } hostTables, .ok { level := 2, value := 0x1CF, addr := 0x2000 }) ∧ leafPermits 0x1CF walk0.kind = true) ∧
    (∃ r, walk walker env0 0 4 3 0x1000 (walking { Die.reset with walks := [walk0] } [tlb 3 0x1000 0])
      = (walking { Die.reset with walks := [walk0] } [tlb 3 0x1000 0], r) ∧ ∀ l, r = .ok l → leafPermits l.value walk0.kind = false) := by
  refine ⟨by decide +kernel, by decide +kernel, by decide +kernel, by decide +kernel, by decide +kernel, by decide +kernel, by decide +kernel,
    by decide +kernel, by decide +kernel, .fail Tstat.notMapped 3 false, by decide +kernel, ?_⟩
  intro l h; cases h

/-! MatrixIssues, MatrixBatchesAndActs, VectorIssues, VectorCompletes, PermuteAndScale. -/

/-- A handle on n elements of a format at core 0's slice, offset `off`: extents n, 1, 1, 1. -/
def han (fmt n off : Nat) : Handle :=
  BitVec.ofNat 256 (0x00FE000000000000 + off + fmt * 2 ^ 56 + n * 2 ^ 64 + 2 ^ 80 + 2 ^ 96 + 2 ^ 112)
/-- The task with three handles; a buffer 1 that is a ring of two slots; tile 1 ranked. -/
def handled (f1 n1 f2 n2 f3 n3 : Nat) : Ctx :=
  { ctx0 with
    regs := { ctx0.regs with h := [(1, han f1 n1 0x1000), (2, han f2 n2 0x2000), (3, han f3 n3 0x3000)], tvec := 0x30000 }
    bufs := [(1, { BufEnt.none with mode := 3, nslot := 2, tile := 1, lenM1 := 1, base := 0x400, assigned := 1, filled := 1, landed := [0] })]
    eng := { ctx0.eng with tissue := [(1, 0x82)], tdesc := [(1, 0x82)] } }
def mats : Ctx := handled 0x10 16 0x10 16 0x01 16
def step1 (fp : Nat) (fresh : Bool) : MmaForm := { t := 0, fp := fp, fresh := fresh, ka := false, kb := false, row0 := 0, col0 := 0, za := 0, zb := 0 }
theorem wit_MatrixIssues : (open0 mats).Sees 0 mats ∧ mats.eng.ms.length < 32 ∧ mats.ph.markm ≤ mats.eng.mcount - mats.ph.ck.mcount ∧
    (matrixCheck (open0 mats) mats (step1 2 false) ((open0 mats).rh mats 1) ((open0 mats).rh mats 2) []).isNone = true ∧
    (matrixCheck (open0 mats) mats (step1 2 true) ((open0 mats).rh mats 1) ((open0 mats).rh mats 2) []).isNone = true ∧
    (matrixCheck (open0 mats) mats (step1 9 false) ((open0 mats).rh mats 3) ((open0 mats).rh mats 3) []).isNone = true ∧
    planeOf mats.regs ((open0 mats).rh mats 1) = [] ∧ (mats.buf 1).mode = 3 ∧ 2 ≤ (mats.buf 1).nslot ∧ ¬ ((mats.buf 1).mode = 3 ∧ 3 ≤ (mats.buf 1).nslot) ∧
    (mats.buf 0).mode ≠ 3 ∧ descRanked (mats.eng.tissue.val 0 0) = descRanked (mats.eng.tissue.val 0 15) ∧
    descRanked (mats.eng.tissue.val 0 0) ≠ descRanked (mats.eng.tissue.val 0 1) :=
  ⟨⟨⟨rfl, rfl, rfl, rfl, rfl, rfl⟩, rfl, rfl⟩, by decide +kernel⟩
theorem wit_MatrixIssues_rising : Tab.rising mats.eng.tissue ∧ Tab.rising mats.eng.btile := ⟨by simp [Tab.rising, mats, handled], List.Pairwise.nil⟩
/-- A full stream; batch 1 not retired while batch 0 is open; tile 2 in flight. -/
def streamed (n : Nat) (i : Instr) (batch : Nat) : Ctx := { mats with eng := { mats.eng with ms := List.replicate n (mop i batch), btile := [(batch, 4)] } }
theorem wit_MatrixBatches : 32 ≤ (streamed 32 (.mzero 4) 0).eng.ms.length ∧ (∃ m ∈ (streamed 1 (.mzero 4) 1).eng.ms, m.batch = ((streamed 1 (.mzero 4) 1).eng.cur + 1) % 8) ∧
    ¬ (∃ m ∈ mats.eng.ms, m.batch = (mats.eng.cur + 1) % 8) ∧ (∃ p ∈ (streamed 1 (.mzero 4) 1).eng.btile, p.2.getLsbD 2 = true) ∧
    ¬ (∃ p ∈ mats.eng.btile, p.2.getLsbD 1 = true) ∧ descRanked (mats.eng.tissue.val 0 1) = true ∧ descRanked (mats.eng.tissue.val 0 0) = false := by decide +kernel
/-- One operation in the stream: MZERO, MCOPY, MRANK, MADDT, MPOP, MMA. -/
def retiring (i : Instr) (l : List RingUse) : Ctx :=
  { mats with eng := { mats.eng with ms := [{ mop i 0 with rings := l, ha := mats.regs.h.val 0 1, hb := mats.regs.h.val 0 2 }] } }
def mma0 : Instr := .mma 0 1 2 2 false false 0 0
def popUse : RingUse := { buf := 1, slot := some 0, consume := true, n := 1 }
theorem wit_MatrixActs : ∀ i ∈ [(.mzero 0xFFFF : Instr), .mcopy 0 15, .mrank 15 32 true, .maddt 0 2 true, .maddt 0 2 false, .mkat 0 0, mma0],
    ((retiring i []).eng.ms.map (·.instr)) = [i] ∧ (retiring i []).coreNo.isSome = true ∧ (retiring i []).away = false ∧
      ((retiring i []).eng.ms.all fun m => opReady (open0 (retiring i [])) 0 (retiring i []) m) = true := by decide +kernel
theorem wit_MatrixActs_pop : ((retiring (.mpop 1 1) [popUse]).eng.ms.all fun m => opReady (open0 (retiring (.mpop 1 1) [popUse])) 0 (retiring (.mpop 1 1) [popUse]) m) = true ∧
    descRanked ((retiring (.maddt 0 2 true) []).eng.tdesc.val 0 0) = false := by
  decide +kernel
theorem wit_MatrixActs_mma : (∃ f, (retiring mma0 []).eng.ms.map MOp.form = [some f] ∧ f = step1 2 false) ∧ hRing (mats.regs.h.val 0 1) = false ∧
    operandVals (open0 (retiring mma0 [])) ((open0 (retiring mma0 [])).whoTask (retiring mma0 []) 1 false) ((open0 (retiring mma0 [])).envTask (retiring mma0 [])) [] []
      (mats.regs.h.val 0 1) 0x10 = (open0 (retiring mma0 []), .ok (List.replicate 16 (e4m3.decode 0))) ∧
    operandVals (open0 (retiring mma0 [])) ((open0 (retiring mma0 [])).whoTask (retiring mma0 []) 1 false) ((open0 (retiring mma0 [])).envTask (retiring mma0 [])) [] []
      (mats.regs.h.val 0 2) 0x10 = (open0 (retiring mma0 []), .ok (List.replicate 16 (e4m3.decode 0))) :=
  ⟨⟨_, rfl, rfl⟩, by decide +kernel, by decide +kernel, by decide +kernel⟩

/-- VectorIssues: VADD of 16-bit floats; of no element; of shapes that do not agree; with SR to 32 bits; VTBL.load of a table. -/
def vecs : Ctx := handled 0x09 8 0x09 8 0x09 1
def vargs (c : Ctx) : List VecArg := resolveArgs [⟨c.regs.h.val 0 1, vecFmts, true⟩, ⟨c.regs.h.val 0 2, vecFmts, false⟩, ⟨c.regs.h.val 0 3, vecFmts, false⟩]
theorem wit_VectorIssues : (open0 vecs).Sees 0 vecs ∧ (elementwise (vargs vecs) && sameClass (vargs vecs)) = true ∧ argBits (argH (vargs vecs) 0) = 16 ∧
    (vecCheck (open0 vecs) vecs (vargs vecs) true).isNone = true ∧ hCount (argH (vargs vecs) 0) ≠ 0 ∧ vecs.eng.vq = [] ∧
    hCount (argH (vargs (handled 0x09 0 0x09 0 0x09 1)) 0) = 0 ∧
    (vecCheck (open0 (handled 0x09 0 0x09 0 0x09 1)) (handled 0x09 0 0x09 0 0x09 1) (vargs (handled 0x09 0 0x09 0 0x09 1)) true).isNone = true ∧
    elementwise (vargs (handled 0x09 8 0x09 4 0x09 1)) = false ∧ 16 < argBits (argH (vargs (handled 0x08 8 0x08 8 0x08 1)) 0) ∧
    (∀ a ∈ vargs (handled 0x01 8 0x02 8 0x01 1), hFmt a.h = 0x01 ∨ hFmt a.h = 0x02) :=
  ⟨⟨⟨rfl, rfl, rfl, rfl, rfl, rfl⟩, rfl, rfl⟩, by decide +kernel⟩
theorem wit_VectorIssues_table : hBase (vecs.regs.h.val 0 1) % 4 = 0 ∧ hFmt (vecs.regs.h.val 0 1) ∈ 0x00 :: vecFmts ∧
    formatBad (vecs.regs.h.val 0 1) (hFmt (vecs.regs.h.val 0 1)) HUse.plain = false ∧ hEmpty (vecs.regs.h.val 0 1) = false ∧ hFmt (han 0x10 8 0) ∉ 0x00 :: vecFmts ∧ hEmpty (han 0x09 0 0) = true ∧
    bufferCheck vecs (tableHandle (vecs.regs.h.val 0 1)) 8 HUse.plain = .fine ∧ outsideSpace (hBase (vecs.regs.h.val 0 1), 1036) = none := by decide +kernel
/-- VectorCompletes: a VMOV of eight elements; its columns as read. -/
def vop (i : Instr) : VecOp :=
  { seq := 0, pc := 0x10000, instr := i, hd := vecs.regs.h.val 0 1, ha := vecs.regs.h.val 0 2, hb := vecs.regs.h.val 0 3, hm := 0, scal := 0, seed := 1, ftz := false
    mode := 0, rd := [], wr := [], phase := 0, stepf := false, run := none }
def vectoring (i : Instr) : Ctx := { vecs with eng := { vecs.eng with vq := [vop i] } }
theorem wit_VectorCompletes : (open0 (vectoring (.vmov 1 2))).ctx 0 = some (vectoring (.vmov 1 2)) ∧ (vectoring (.vmov 1 2)).eng.vq = vop (.vmov 1 2) :: [] ∧
    (vectoring (.vmov 1 2)).ph.fences = [] ∧ (open0 (vectoring (.vmov 1 2))).vecFollows (vectoring (.vmov 1 2)) (vop (.vmov 1 2)) = false ∧ (vectoring (.vmov 1 2)).xf.waitq = [] ∧
    (vecAct (open0 (vectoring (.vmov 1 2))) 0 (vectoring (.vmov 1 2)) (vop (.vmov 1 2))).2 = .ok ∧
    (vecAct (open0 (vectoring (.vmov 1 2))) 0 (vectoring (.vmov 1 2)) (vop (.vmov 1 2))).1.ctx 0 = some (vectoring (.vmov 1 2)) := by decide +kernel
/-- A VPUSH with two records to move, one of which moves in its turn. -/
def pushRun (rows : List (Nat × List Byte)) : VecRun := { capl := 1, recb := 4, rows := rows, cut := none }
def vpushing (rows : List (Nat × List Byte)) : VecOp := { vop (.vpush 1 2 3 0) with run := some (pushRun rows) }
def pushing : Ctx := { vecs with eng := { vecs.eng with vq := [vpushing [(0, [1, 2, 3, 4]), (1, [5, 6, 7, 8])]] } }
theorem wit_VectorCompletes_more : (vecAct (open0 pushing) 0 pushing (vpushing [(0, [1, 2, 3, 4]), (1, [5, 6, 7, 8])])).2 = .more (pushRun [(1, [5, 6, 7, 8])]) ∧
    (vecAct (open0 pushing) 0 pushing (vpushing [(0, [1, 2, 3, 4]), (1, [5, 6, 7, 8])])).1.ctx 0 = some pushing ∧
    (open0 pushing).vecFollows pushing (vpushing [(0, [1, 2, 3, 4]), (1, [5, 6, 7, 8])]) = false := by decide +kernel
theorem wit_VectorCompletes_cols : ∃ s1 A B, readCols ((open0 vecs).whoTask vecs 1 false) ((open0 vecs).envTask vecs) [.ok (vop .nopVec).ha, .ok (vop .nopVec).hb] (open0 vecs) = (s1, [A, B]) ∧
    A.cut = none ∧ B.cut = none ∧ A.single = false ∧ B.single = true ∧ isFloatF (hFmt (vop .nopVec).hd) = true := by
  refine ⟨(readCols ((open0 vecs).whoTask vecs 1 false) ((open0 vecs).envTask vecs) [.ok (vop .nopVec).ha, .ok (vop .nopVec).hb] (open0 vecs)).1,
    ⟨List.replicate 8 0, false, none⟩, ⟨[0], true, none⟩, ?_, rfl, rfl, rfl, rfl, by decide +kernel⟩
  decide +kernel

/-- PermuteAndScale: PPACK of 32 floats to FP8, and what its hypotheses ask; wrong formats; no element; a fence; SLDT; updates that are due. -/
def packs : Ctx := handled 0x10 32 0x08 32 0x09 1
def packForm : PrmForm := { okD := narrowFmts, okA := floatFmts, n := 32, square := false, same := false, rc := some 0 }
def UnitCheck.isFine : UnitCheck → Bool
  | .fine => true
  | _ => false
theorem fine_of_isFine {u : UnitCheck} (h : UnitCheck.isFine u = true) : u = .fine := by cases u <;> first | rfl | cases h
def packBlock (h : Handle) : Handle := blockHandle h 32
theorem wit_PermuteAndScale : (open0 packs).Sees 0 packs ∧ prmFormatBad packForm (packs.regs.h.val 0 1) (packs.regs.h.val 0 2) = false ∧
    bufferCheck packs (packs.regs.h.val 0 1) 8 HUse.plain = .fine ∧ bufferCheck packs (packs.regs.h.val 0 2) 32 HUse.plain = .fine ∧ packs.ph.fences = [] ∧
    hCount (packs.regs.h.val 0 1) ≠ 0 ∧ hCount (packs.regs.h.val 0 2) ≠ 0 ∧ prmFormatBad packForm (packs.regs.h.val 0 2) (packs.regs.h.val 0 2) = true ∧
    { packs with ph := fencing.ph }.ph.fences ≠ [] ∧ packForm.rc ≠ some 4 ∧ hCount ((handled 0x10 0 0x08 0 0x09 1).regs.h.val 0 1) = 0 ∧
    readAll (open0 packs) ((open0 packs).whoTask packs 1 false) ((open0 packs).envTask packs) (packBlock (packs.regs.h.val 0 2)) 32 = (open0 packs, .ok (List.replicate 32 0)) ∧
    readBytes (open0 packs) ((open0 packs).whoTask packs 1 false) ((open0 packs).envTask packs) 0 0 = (open0 packs, .ok []) :=
  ⟨⟨⟨rfl, rfl, rfl, rfl, rfl, rfl⟩, rfl, rfl⟩, by decide +kernel⟩
theorem wit_PermuteAndScale_slice : sliceCheck (open0 packs) packs ((blockRanges [] (packs.regs.h.val 0 2) (packBlock (packs.regs.h.val 0 2))).map (fun r => (r.1, r.2, Acc.read)) ++
    (blockRanges [] (packs.regs.h.val 0 1) (packBlock (packs.regs.h.val 0 1))).map (fun r => (r.1, r.2, Acc.write))) = .fine := fine_of_isFine (by decide +kernel)
theorem wit_PermuteAndScale_sldt : sliceCheck (open0 pointing) pointing [(sliceVa.toNat, 16, .read)] = .fine := fine_of_isFine (by decide +kernel)
theorem wit_PermuteAndScale_reads : sliceVa.toNat % 16 = 0 ∧ ((open0 pointing).rs pointing 3).toNat % 16 ≠ 0 ∧
    readBytes (open0 pointing) ((open0 pointing).whoTask pointing 1 false) ((open0 pointing).envTask pointing) sliceVa.toNat 16 = (open0 pointing, .ok (List.replicate 16 0)) := by
  decide +kernel
def scaling (u : SclUpd) : Ctx := { ctx0 with eng := { ctx0.eng with scl := [{ due := 0, upd := u }] } }
def writing : Ctx := { ctx0 with eng := { ctx0.eng with prm := [{ seq := 0, due := 0, writes := [(sliceVa.toNat, none, 1)] }] } }
theorem wit_PermuteAndScale_due (u : SclUpd) : (on0 (scaling u)).ctx (on0 (scaling u)).subj = some (scaling u) ∧ (scaling u).eng.scl = [{ due := 0, upd := u }] ∧
    Tab.rising (scaling u).eng.sx4 := ⟨rfl, rfl, List.Pairwise.nil⟩
theorem wit_PermuteAndScale_writes : (open0 writing).ctx (open0 writing).subj = some writing ∧
    (writeEach ((open0 writing).whoTask writing 1 false) ((open0 writing).envTask writing) [(sliceVa.toNat, none, 1)] { open0 writing with tick := (open0 writing).tick + 1 }).ctx 0
      = some writing := by decide +kernel

/-! Commands, CommandStepsAndRollback, BanksFencingService, HbmReliability. -/

/-- The operands of a copy: handles of 32 bytes; of none; with a reserved bit. -/
def copies : Ctx := handled 0x10 32 0x10 32 0x10 0
def copyIn (ct : BitVec 2) : Instr := .cpy 1 2 0 0 ct 5
def copyForm (ct : Nat) : XForm := ⟨.cpy, 1, 2, 0, 0, ct, 5⟩
def cmdOf (c : Ctx) (ct : BitVec 2) : Cmd := newCmd (open0 c) c 0 (copyIn ct) (copyForm ct.toNat) 0
/-- The task with one command in its log. -/
def logging (c : Ctx) (k : Cmd) : Ctx := { c with xf := { c.xf with log := [k], tagNext := 1 }, ph := { c.ph with seq := 1 } }
theorem wit_Commands_issue : (open0 copies).Sees 0 copies ∧ copies.absorbs = false ∧ copies.ph.markm ≤ copies.eng.mcount - copies.ph.ck.mcount ∧
    copies.freeEntry = some 0 ∧ ¬ (128 ≤ copies.xfCount) ∧ (∃ j, (streamed 1 (.mzero 4) 1).inFlight j = true) ∧ ¬ (∃ p ∈ copies.eng.btile, p.2.getLsbD 0 = true) ∧
    descRanked (copies.eng.tissue.val 0 1) = true ∧ descRanked (copies.eng.tissue.val 0 0) = false :=
  ⟨⟨⟨rfl, rfl, rfl, rfl, rfl, rfl⟩, rfl, rfl⟩, by decide +kernel, by decide +kernel, by decide +kernel, by decide +kernel, ⟨2, by decide +kernel⟩, by decide +kernel,
    by decide +kernel, by decide +kernel⟩
theorem wit_Commands_full : 128 ≤ ({ copies with xf := { copies.xf with log := List.replicate 128 (cmdOf copies 0) } } : Ctx).xfCount ∧
    32 ≤ (streamed 32 (.mzero 4) 0).eng.ms.length := by decide +kernel
/-- A CPYM whose step reads the buffer it fills. -/
def cpymed : Ctx :=
  { ctx0 with
    regs := { ctx0.regs with h := [(1, han 0x10 16 0x1000), (2, han 0x10 16 0x2000), (3, han 0x10 16 0x3000 + BitVec.ofNat 256 (2 ^ 224))] }
    bufs := [(1, { BufEnt.none with mode := 1, lenM1 := 255, base := 0 })] }
def cpymCcw : DWord := BitVec.ofNat 64 (3 * 2 ^ 20 + 2 * 2 ^ 26 + 2 * 2 ^ 32)
theorem wit_Commands_cpym : (cpymChecks (open0 cpymed) cpymed (newCmd (open0 cpymed) cpymed 0 (.cpym 3 1 0 0 0 0) ⟨.cpym, 3, 1, 0, 0, 0, 0⟩ cpymCcw)).isNone = true := by
  decide +kernel
def cmdOf' (st : CmdSt) : Cmd := { cmdOf copies 0 with st := st, cause := 0 }
/-- XSTAT and XCAN: an id that names nothing; one that names a command that runs, has faulted, or is done. -/
def stated (st : CmdSt) (cause : Nat) : Ctx := logging copies { cmdOf copies 0 with st := st, cause := cause }
theorem wit_Commands_named (st : CmdSt) (cause : Nat) : (open0 (stated st cause)).Sees 0 (stated st cause) ∧ (stated st cause).xf.again = [] ∧
    (open0 (stated st cause)).mid.reqs = [] := ⟨⟨⟨rfl, rfl, rfl, rfl, rfl, rfl⟩, rfl, rfl⟩, rfl, rfl⟩
theorem wit_Commands_id : ∀ p ∈ [(CmdSt.running, 0), (.faulted, 0x22), (.done, 0x26)],
    ((stated p.1 p.2).xf.log ++ (stated p.1 p.2).xf.again).filter (fun k => decide (k.entry * 2 ^ 16 + k.tag = 0)) = [{ cmdOf copies 0 with st := p.1, cause := p.2 }] := by
  decide +kernel
theorem wit_Commands_unnamed : ∀ k ∈ copies.xf.log ++ copies.xf.again, k.entry * 2 ^ 16 + k.tag ≠ 0xFFFFFF := by decide +kernel
theorem wit_Commands_plain : (cmdOf copies 0).ringSlot = none ∧ (cmdOf copies 0).kind ≠ .cpym ∧ ¬ (0x22 = 0x0F ∧ (cmdOf copies 0).cword.toNat / 2 ^ 32 % 16 = 2) := by decide +kernel

/-- CommandStepsAndRollback: a copy that starts; one with no element; one whose handle has a reserved bit set. -/
def Begin.goes (b : Begin) (c : Ctx) : Bool := match b with | .go s _ => decide (s.ctx 0 = some c) | _ => false
def Begin.ends : Begin → Bool | .empty => true | _ => false
def Begin.fails : Begin → Bool | .bad cause _ _ => decide (cause ≠ 0x20) | _ => false
def beginning (c : Ctx) : Ctx := logging c (cmdOf c 0)
def reserved : Ctx := { copies with regs := { copies.regs with h := [(1, han 0x10 32 0x1000 + BitVec.ofNat 256 (2 ^ 244)), (2, han 0x10 32 0x2000)] } }
theorem wit_CommandSteps_start : ∀ c ∈ [copies, handled 0x10 0 0x10 0 0x10 0, reserved],
    (open0 (beginning c)).ctx 0 = some (beginning c) ∧ (beginning c).away = false ∧ (beginning c).loc ≠ .engine ∧ (beginning c).xf.log = [cmdOf c 0] ∧
      (beginning c).cmd 0 = some (cmdOf c 0) ∧ (cmdOf c 0).entry < 160 ∧ (cmdOf c 0).tag < 2 ^ 16 ∧ (beginning c).xf.bars = [] ∧ (open0 (beginning c)).subj = 0 ∧
      (beginning c).xf.again = [] ∧ (beginning c).xf.fired = [] ∧ (beginning c).actors = [cmdOf c 0] ∧ (cmdOf c 0).st = .issued := by decide +kernel
theorem wit_CommandSteps_begin : Begin.goes (beginCmd (open0 (beginning copies)) 0 (beginning copies) (cmdOf copies 0)) (beginning copies) = true ∧
    Begin.ends (beginCmd (open0 (beginning (handled 0x10 0 0x10 0 0x10 0))) 0 (beginning (handled 0x10 0 0x10 0 0x10 0)) (cmdOf (handled 0x10 0 0x10 0 0x10 0) 0)) = true ∧
    Begin.fails (beginCmd (open0 (beginning reserved)) 0 (beginning reserved) (cmdOf reserved 0)) = true ∧
    (open0 (beginning copies)).quiet 0 (cmdOf copies 0) = true ∧ (cmdOf copies 0).endsInStream = false ∧ hRing (cmdOf copies 0).hd = false ∧ (cmdOf copies 0).todo = [] := by
  decide +kernel
/-- A fill that waits for a slot; one whose data have landed; a command that has ended; one that has failed; one that met an uncorrectable error in
an earlier phase. -/
def ringH : Handle := han 0x10 32 0x1000 + BitVec.ofNat 256 (2 ^ 240 + 2 ^ 224)
def fillOf (slot : Option Nat) : Cmd := { cmdOf copies 0 with hd := ringH, ringSlot := slot, st := .running, ended := true }
def endedCmd (ct : BitVec 2) : Cmd := { cmdOf copies ct with st := .running, ended := true }
def failedCmd (cause phase : Nat) : Cmd := { cmdOf copies 0 with st := .running, cause := cause, phase := phase }
theorem wit_CommandSteps_on : leastBy (·.seq) ((logging copies (fillOf none)).xf.log.filter (fun k => k.wantsSlot 1)) = some (fillOf none) ∧
    ((logging copies (fillOf none)).buf 1).mode = 3 ∧ ((logging copies (fillOf none)).buf 1).claimed + ((logging copies (fillOf none)).buf 1).held < ((logging copies (fillOf none)).buf 1).nslot ∧
    (logging copies (fillOf (some 0))).xf.log.find? (fun k => decide (k.ringSlot = some 0 ∧ hBuf k.hd = 1) && k.kind.fills && (open0 copies).finished 0 k) = some (fillOf (some 0)) ∧
    (open0 copies).finished 0 (endedCmd 1) = true ∧ (endedCmd 1).decDone = false ∧ (endedCmd 1).form.ct = 1 ∧ (copies.bar 5).armed = false ∧ hEmpty (endedCmd 1).hd = false ∧
    hEmpty (endedCmd 1).ha = false ∧ (open0 copies).finished 0 (endedCmd 2) = true ∧ (endedCmd 2).form.ct = 2 ∧
    (open0 copies).reports 0 copies (failedCmd 0x22 0) = true ∧ (failedCmd 0x22 0).failed = [] ∧ copies.xf.fq.length < 32 ∧
    (failedCmd 0x25 7).phase ≠ copies.ph.no ∧ (failedCmd 0x25 7).st = .running := by decide +kernel
theorem wit_Rollback : (on0 ctx0).ctx 0 = some ctx0 ∧ ctx0.coreNo = some 0 ∧ ctx0.isOver = false ∧ ctx0.olderStream = false ∧ ctx0.ph.nr = false ∧ ctx0.ph.rbcnt ≠ 2 ∧
    (on0 ctx0).mid.reqs = [] ∧ ({ ctx0 with ph := { ctx0.ph with nr := true } } : Ctx).olderStream = false ∧
    ({ ctx0 with ph := { ctx0.ph with rbcnt := 2 } } : Ctx).olderStream = false := by decide +kernel

/-- A die link with tokens for its training, and one without. -/
theorem wit_DieLink : 0 < (on0 ctx0).linkTok 0 ∧ ({ on0 ctx0 with mid := { Midfield.reset with dieTok := [(0, 0)] } } : State).linkTok 0 ≤ 0 := by decide +kernel
/-- BanksFencingService: a bank active since cycle 0 at cycles 1,024 and 1,025; one that wakes; a free core whose quadrants may be gated. -/
def banked (b : Bank) (now : Nat) : State := { on0 ctx0 with now := now, cores := [(0, { Core.reset with banks := (List.range 32).map (fun k => (k, b)) })], ctxs := [] }
theorem wit_Banks : ((banked (.active 0) 1025).core 0).banks.val .gated 31 = .active 0 ∧ 0 + 1025 ≤ (banked (.active 0) 1025).now ∧ (banked (.active 0) 1024).now < 0 + 1025 ∧
    ((banked (.waking 5) 5).core 0).banks.val .gated 0 = .waking 5 ∧ ((banked (.active 0) 0).core 0).ctx = none ∧ (banked (.active 0) 0).mayGate 0 3 = true ∧
    ((banked (.clearing 5) 5).core 0).banks.val .gated (8 * 3) = .clearing 5 ∧ 3 < 4 := by decide +kernel
def fenced0 (c : Core) : State := { banked .gated 0 with cores := [(0, { c with banks := (List.range 32).map (fun k => (k, Bank.gated)) })] }
theorem wit_Fencing : (banked .gated 0).logSafe (dieOf (banked .gated 0).subj) ∧ (banked .gated 0).subj < 288 ∧ ((banked .gated 0).core 0).fenced = false ∧
    (banked .gated 0).host.phase = 6 ∧ ((on0 ctx0).core 0).ctx ≠ none ∧ ((banked .gated 0).core 0).ctx = none ∧ ((fenced0 { Core.reset with fenced := true }).core 0).fenced = true ∧
    ((fenced0 { Core.reset with fenced := true, freq := true }).core 0).freq = true ∧ (fenced0 { Core.reset with fenced := true, freq := true }).testable 0 = true ∧
    ((fenced0 { Core.reset with fenced := true, selftest := 1 }).core 0).selftest = 1 ∧ 3 < 4 := by
  refine ⟨⟨by decide +kernel, by decide +kernel⟩, ?_⟩
  decide +kernel

/-- HbmReliability: a clean line; one with errors in three symbols of a code word; a scrubber that has a token, at its place, and none. -/
def bent (l : List (Nat × Nat)) : State := { on0 ctx0 with subj := Config.pseudoChannel 0, lineErr := [(0, l)] }
theorem wit_Hbm : (bent []).bad = none ∧ (bent [(0, 1), (0, 2), (0, 3)]).hbmReach (dieOf 0) 0 = true ∧ (bent []).rangeOf 0 = none := by decide +kernel
theorem wit_Hbm_lines : (on0 ctx0).decodeLine 0 = .clean ∧ (bent [(0, 1)]).decodeLine 0 = .corrected [(0, 1)] ∧ (bent [(0, 1), (0, 2), (0, 3)]).decodeLine 0 = .bad 0 1 := by decide +kernel
/-- A line that is seen, and one that cannot be reached; logs that lie in HBM; a log that is on. -/
def cutOff : State := { bent [] with pchs := [(Config.pseudoChannel 0, { Pch.reset with pcfail := true })] }
def logs (on : Bool) : State := { bent [(0, 1), (0, 2), (0, 3)] with dies := [(hbmDie 0, { Die.reset with en := on })] }
theorem wit_Hbm_seen : ∀ s ∈ [bent [], bent [(0, 1)], logs true, logs false],
    s.hbmReach (s.hbmReader 0 1 0).die 0 = true ∧ s.rangeOf (0 * 64) = none ∧ s.bad = none := by decide +kernel
theorem wit_Hbm_cut : cutOff.hbmReach (cutOff.hbmReader 0 1 0).die 0 = false ∧ cutOff.bad = none :=
  ⟨by simp [State.hbmReach, State.pch, Tab.val, Tab.look, cutOff], rfl⟩
theorem wit_Hbm_logs (on : Bool) : (logs on).logSafe (hbmDie 0) ∧ ((logs on).die (hbmDie 0)).en = on ∧
    (((logs on).die (hbmDie 0)).logTail + 2 ^ 32 - ((logs on).die (hbmDie 0)).logHead) % 2 ^ 32 < 2 ^ (((logs on).die (hbmDie 0)).loglog + 8) ∧
    (logs on).decodeLine 0 = .bad 0 1 := by
  have h : (logs on).die (hbmDie 0) = { Die.reset with en := on } := by simp [State.die, Tab.val, Tab.look, logs]
  have g : (logs on).decodeLine 0 = (logs true).decodeLine 0 := rfl
  rw [State.logSafe, h, g]
  exact ⟨⟨rfl, by cases on <;> decide +kernel⟩, rfl, by cases on <;> decide +kernel, by decide +kernel⟩
theorem wit_Hbm_logSafe (d : Nat) : (on0 ctx0).logSafe d := ⟨rfl, by simp [State.die, on0, State.reset, Tab.val, Tab.look]; decide +kernel⟩
theorem wit_Hbm_wrong (x : BitVec 512) : Config.miscorrect 0 x = none ∨ ∃ v, Config.miscorrect 0 x = some v := by cases Config.miscorrect 0 x <;> simp
theorem wit_Hbm_scrub : Config.pseudoChannel (((bent [(0, 1)]).pch (bent [(0, 1)]).subj).scrubAt * 64) = (bent [(0, 1)]).subj ∧
    0 < ((bent [(0, 1)]).pch (bent [(0, 1)]).subj).scrubTok ∧ ((bent [(0, 1)]).pch (bent [(0, 1)]).subj).pcfail = false := ⟨rfl, by decide +kernel, by decide +kernel⟩
theorem wit_Hbm_budget : ((bent [(0, 1)]).die ((bent [(0, 1)]).subj / 128)).scrubB ≠ 0 ∧ ((bent [(0, 1)]).die (hbmDie 0)).en = false ∧
    ({ bent [] with dies := [(0, { Die.reset with scrubB := 0 })], subj := 5 } : State).subj / 128 = 0 ∧ (on0 ctx0).logSafe (hbmDie 0) := by
  refine ⟨by simp [State.die, Tab.val, bent, on0, State.reset, Die.reset, Tab.look], by decide +kernel, by decide +kernel, by decide +kernel, by decide +kernel⟩

/-! TasksPlacedAndEnded, BudgetsAndPreemption, Switches, FramesAndClears. -/

/-- A package with dies in service, region 0 whose mask is `mask` and priority `prio`, a grid with work in it, and no task. -/
def rcbOf (prio mask : Nat) (one : Nat) : List DWord :=
  [BitVec.ofNat 64 (prio * 2 ^ 20), BitVec.ofNat 64 one, 0, 0, 0, 0, 0, 0, 0, 0, 0, 0, 0, 0, 0, 0, BitVec.ofNat 64 mask, 0, 0, 0, 0, 0, 0]
def regionOf (prio mask one : Nat) : Region := { region0 with rcb := rcbOf prio mask one, coreTok := 5 }
def work : Grid := { Grid.free with st := 1, count := 5, packet := packet1 }
def placing (cores : Tab Core) (ctxs : Tab Ctx) : State :=
  { on0 ctx0 with cores := cores, ctxs := ctxs, dies := [(0, { Die.reset with dieen := true })], arb := { Arbiter.reset with regions := [(0, regionOf 3 5 0)], grids := [(gridKey 0 0, work)], nextCtx := 7 } }
theorem wit_TasksPlaced : ((List.range 288).filter (placing [] []).coreFree).findSome? (fun c => ((placing [] []).chooseRegion c).map (fun x => (c, x))) = some (0, 3, 0) ∧
    (placing [] []).resumable 0 0 = none ∧ (placing [] []).nextGrid 0 0 = some (0, work) ∧ (work.pk 0).getLsbD 1 = false ∧ (placing [] []).gridAddr 0 0 + 128 ≤ 2 ^ 39 ∧
    (placing [] []).bad = none := by decide +kernel
def absent : Ctx := { ctx0 with loc := .absent, slot := some 0, oldCore := some 0 }
theorem wit_TasksResumed : ((List.range 288).filter (placing [] [(0, absent)]).coreFree).findSome? (fun c => ((placing [] [(0, absent)]).chooseRegion c).map (fun x => (c, x))) = some (0, 3, 0) ∧
    (placing [] [(0, absent)]).resumable 0 0 = some 0 ∧ Tab.rising (placing [] [(0, absent)]).ctxs :=
  ⟨by decide +kernel, by decide +kernel, by simp [Tab.rising, placing]⟩
theorem wit_TasksIdle : ((List.range 288).filter State.reset.coreFree).findSome? (fun c => (State.reset.chooseRegion c).map (fun x => (c, x))) = none ∧ State.reset.bad = none := by
  decide +kernel
/-- A task that waits to start: without an image, and with one that is no template. -/
def starting (image : Nat) : Ctx := { Ctx.start who image 0x10000 (.pending 0) 0 none with oldCore := none }
theorem wit_TaskStart : (open0 (starting 0)).ctx (open0 (starting 0)).subj = some (starting 0) ∧ (starting 0).loc = .pending 0 ∧ (starting 0).image = 0 ∧
    ((open0 (starting 0)).core 0).spt.length + (starting 0).runs.length ≤ 64 ∧ readyQuads (open0 (starting 0)) 0 (starting 0).runs = (open0 (starting 0), true) := by decide +kernel
def imaged : Ctx := starting 0x00FE000000010000
/-- What a read of bytes gives, when it gives something, and a property of it. -/
def readsTo (p : State × Except Stop (List Byte)) (f : State → List Byte → Bool) : Bool :=
  match p with
  | (s1, .ok bs) => f s1 bs
  | _ => false
theorem of_readsTo {p : State × Except Stop (List Byte)} {f : State → List Byte → Bool} (h : readsTo p f = true) : ∃ s1 bs, p = (s1, .ok bs) ∧ f s1 bs = true := by
  rcases p with ⟨s1, _ | bs⟩
  · cases h
  · exact ⟨s1, bs, rfl, h⟩
theorem wit_TaskStart_image : imaged.image ≠ 0 ∧
    ∃ s1 bs, (readBytes (open0 imaged) { (open0 imaged).whoTask imaged 4 false with core := 0 } ((open0 imaged).envTask imaged) imaged.image 0x6000) = (s1, .ok bs) ∧
      (Ctx.load s1 imaged bs).isNone = true := ⟨by decide +kernel, of_readsTo (f := fun s1 bs => (Ctx.load s1 imaged bs).isNone) (by decide +kernel)⟩
/-- A task that ends: its DONE waits for nothing more, its grid counts to five; one that has faulted. -/
def ending : Ctx := { ctx0 with ph := { ctx0.ph with op := some { phaseOp true with ending := true } } }
theorem wit_TasksEnded : (placing [(0, { Core.reset with ctx := some 0 })] [(0, ending)]).ctx 0 = some ending ∧ ending.loc ≠ .engine ∧ ending.away = false ∧
    (placing [(0, { Core.reset with ctx := some 0 })] [(0, ending)]).mid.reqs = [] ∧
    ending.who.grid < 256 ∧ ending.ph.late = [] ∧ ((placing [] [(0, ending)]).grid 0 0).retired + ((placing [] [(0, ending)]).grid 0 0).faults + ((placing [] [(0, ending)]).grid 0 0).killed + 1 ≠ ((placing [] [(0, ending)]).grid 0 0).count ∧
    ending.isOver = false ∧ ending.ph.op.any (·.ending) = true ∧ ending.drained = true ∧ ending.xf.fq = [] ∧ ((placing [] [(0, ending)]).grid 0 0).retmap = 0 ∧
    (placing [] [(0, ending)]).fdomOf 0 = 0 := by decide +kernel
theorem wit_TasksEnded_safe : (placing [] [(0, ending)]).tablesSafe 0 ∧ (placing [] [(0, ending)]).divSafe ∧ Tab.rising (placing [] [(0, ending)]).ctxs :=
  ⟨⟨by decide +kernel, by decide +kernel, by decide +kernel, by decide +kernel⟩, by unfold State.divSafe; decide +kernel, by simp [Tab.rising, placing]⟩

/-- BudgetsAndPreemption: a region of priority 5 with work, while core 0 runs a task of region 1, of priority 0, since cycle 0. -/
def low : Ctx := { ctx0 with who := { who with region := 1 }, since := 0 }
def needy (now : Nat) : State :=
  { placing [(0, { Core.reset with ctx := some 0 })] [(0, low)] with
    now := now, arb := { Arbiter.reset with regions := [(0, regionOf 5 1 0), (1, regionOf 0 1 1)], grids := [(gridKey 0 0, work)] } }
def maskCores (s : State) : List Nat := (List.range 288).filter (fun k => (s.maskOf s.depth 0).testBit k)
theorem wit_Budgets : (∀ q ∈ (needy 7000).arb.regions, q.2.addr + 192 ≤ 2 ^ 39) ∧ (needy 7000).bad = none ∧ ((needy 7000).arb.regions.look 0).isSome = true ∧ (needy 7000).funded 0 = true ∧
    (∃ k ∈ maskCores (needy 7000), (needy 7000).freeWork 0 k = true) ∧ (∀ k ∈ maskCores (needy 7000), (needy 7000).coreFree k = false ∧ (needy 7000).vacating k = false) ∧
    (needy 7000).victims (0, maskCores (needy 7000)) true ≠ [] ∧ State.reset.arb.regions = [] :=
  ⟨by decide +kernel, by decide +kernel, by decide +kernel, by decide +kernel, ⟨0, by decide +kernel, by decide +kernel⟩, by decide +kernel, by decide +kernel, by decide +kernel⟩
theorem wit_Budgets_early : (needy 6999).victims (0, maskCores (needy 6999)) true = [] ∧ (needy 6999).victims (0, maskCores (needy 6999)) false ≠ [] := by decide +kernel
theorem wit_Budgets_rising : Tab.rising (needy 7000).cores := by simp [Tab.rising, needy, placing]
theorem none_halted (k : Nat) : (needy 7000).haltedAt k = false := by
  by_cases h : k = 0
  · subst h; decide +kernel
  · simp [State.haltedAt, State.core, needy, placing, on0, Tab.val, Tab.look, Ne.symm h, Core.reset]
/-- The same with the task halted for its debugger. -/
def haltedLow : State := { needy 7000 with ctxs := [(0, { low with dbg := { low.dbg with stat := 0x100 } })] }
theorem wit_Budgets_halted : ∃ k ∈ maskCores haltedLow, haltedLow.haltedAt k = true ∧ haltedLow.freeWork 0 k = true ∧ haltedLow.coreFree k = false ∧ haltedLow.vacating k = false :=
  ⟨0, by decide +kernel, by decide +kernel, by decide +kernel, by decide +kernel, by decide +kernel⟩
/-- A task of region 0 that is bound to core 0, as the diversion table of its die is full. -/
def fullEntry : DivEnt :=
  { state := 2, isCtx := false, core := 9, ncore := 9, start := 0, count := 1, rights := 7, share := 0, world := 0, owner := 0, slot := 0, next := 0, image := 0, ctxId := 5
    spilled := true }
def crowded (l : List DivEnt) : State := { needy 7000 with ctxs := [(0, low), (1, absent)], dies := [(0, { Die.reset with dieen := true, div := l })] }
theorem wit_Budgets_bound (l : List DivEnt) (hl : l.length = 16384) : (1, absent) ∈ (crowded l).absentTasks 0 ∧ (crowded l).boundCore absent = some 0 ∧
    (crowded l).readyOn 0 0 = true ∧ (crowded l).coreFree 0 = false ∧ (crowded l).vacating 0 = false ∧ (crowded l).funded 0 = true := by
  have h : (crowded l).boundCore absent = some 0 := by
    have e : ((crowded l).die 0).div = l := rfl
    simp only [State.boundCore, show absent.oldCore = some 0 from rfl, Option.bind_some, show dieOf 0 = 0 from rfl, e]
    rw [if_neg (by omega)]
  have g : (crowded l).nextGrid 0 0 = some (0, work) := rfl
  have a : (crowded l).absentTasks 0 = [(1, absent)] := rfl
  refine ⟨by rw [a]; exact List.mem_singleton.mpr rfl, h, ?_, rfl, rfl, rfl⟩
  rw [State.readyOn, g, Option.isSome_some, Bool.or_true, Bool.and_true]
  show (!(needy 7000).stopOf 0 && ((needy 7000).maskOf (needy 7000).depth 0).testBit 0 && (needy 7000).frameOwns 0 ((needy 7000).worldOf 0)) = true
  decide +kernel
theorem wit_fullTable : (List.replicate 16384 fullEntry).length = 16384 := List.length_replicate
def yielder : State := placing [(0, { Core.reset with ctx := some 0 })] [(0, ctx0)]
theorem wit_Yield : yielder.Sees 0 ctx0 ∧ ((yielder.arb.regions.look 0).isSome = true ∧ yielder.readyOn 0 ctx0.anyCore = true ∧
    (yielder.eligible 0 true = true ∨ yielder.eligible 0 false = true) ∧ yielder.rankOf ctx0.who.region ≤ yielder.rankOf 0) ∧
    ¬ (∃ r, ((on0 ctx0).arb.regions.look r).isSome = true) :=
  ⟨⟨⟨rfl, rfl, rfl, rfl, rfl, rfl⟩, rfl, rfl⟩, by decide +kernel, fun ⟨_, h⟩ => by simp [on0, State.reset, Arbiter.reset, Tab.look] at h⟩
theorem wit_DieLinkFail : (on0 ctx0).logSafe 4 ∧ (on0 ctx0).subj < 8 ∧ ∀ q ∈ (placing [] [(0, absent)]).ctxs, q.2.loc = .absent ∨ q.2.loc = .engine :=
  ⟨⟨by decide +kernel, by decide +kernel⟩, by decide +kernel, by decide +kernel⟩

/-- Switches: a task with one block of slice 0 granted, at each stage of a switch, and a task in a staged loop. -/
def blocked (loc : Loc) : Ctx :=
  { ctx0 with loc := loc, slot := some 0, oldCore := some 0, bufs := [(1, { BufEnt.none with mode := 1, lenM1 := 63, base := 0 })] }
def leaver : Ctx := { blocked (.resident 0) with leaving := true }
def stager : Ctx := { inLoops 1 5 with slot := some 0, regs := { (inLoops 1 5).regs with st := { (inLoops 1 5).regs.st with lstate := 0x41, stage := 0x1 } } }
/-- The diversion tables lie apart from the images; a world whose range holds the image's first bytes. -/
def apart (s : State) : State := { s with dies := (List.range 4).map (fun d => (d, { Die.reset with divspill := 2 ^ 38 })) }
def world2 : World := { dying := false, xts := 1, kemSeed := [], code := none, meas := [], ranges := [(0, (0x10001, 0, 0))] }
def foreign (c : Ctx) : State := { apart (on0 c) with gecko := { (on0 c).gecko with worlds := [(1, world2)] } }
theorem wit_Switches_request : (apart (on0 (blocked (.resident 0)))).ctx 0 = some (blocked (.resident 0)) ∧
    (apart (on0 (blocked (.resident 0)))).imageBase (blocked (.resident 0)) + 0xA00000 ≤ 2 ^ 39 ∧
    ((apart (on0 (blocked (.resident 0)))).core 0).ctx = some 0 ∧ (blocked (.resident 0)).loc = .resident 0 ∧ (blocked (.resident 0)).leaving = false ∧ (blocked (.resident 0)).isOver = false ∧
    (blocked (.resident 0)).staged = false ∧ (blocked (.resident 0)).bundleBusy = false ∧ (apart (on0 (blocked (.resident 0)))).freeSlot 0 (blocked (.resident 0)) = some 0 ∧
    (apart (on0 (blocked (.resident 0)))).divRoom 0 0 (blocked (.resident 0)) = true ∧ (phasing false).bundleBusy = true ∧ (phasing false).staged = false ∧
    (apart (on0 ctx0)).bad = none ∧ stager.staged = true ∧ stager.idle = false ∧ stager.stageOut = false ∧ (apart (on0 ctx0)).freeSlot 0 ctx0 = none := by decide +kernel
theorem wit_Switches_apart : (apart (on0 (blocked (.resident 0)))).divApart (blocked (.resident 0)) 2 ∧ (foreign leaver).divApart leaver 2 ∧
    (apart (on0 (blocked (.saving 0 0)))).divApart (blocked (.saving 0 0)) 2 ∧ (apart (on0 (blocked .absent))).divApart (blocked .absent) 2 ∧
    (foreign (blocked .absent)).divApart (blocked .absent) 2 := by
  unfold State.divApart
  decide +kernel
theorem wit_Switches_save : leaver.leaving = true ∧ (apart (on0 leaver)).quietTask 0 leaver = true ∧ leaver.ph.window.length ≤ 1024 ∧ leaver.ph.snap.length ≤ 2048 ∧ leaver.runs = [(0, 1, 0)] ∧
    leaver.records.length ≤ 256 ∧ leaver.blocks = [0] ∧ ctx0.blocks = [] ∧ (blocked (.saving 0 0)).blocks[0]? = some 0 ∧ (blocked (.saving 0 1)).blocks.length ≤ 1 ∧
    Memory.wf (apart (on0 leaver)).mem = true ∧ (apart (on0 leaver)).keyed = [] ∧ (apart (on0 leaver)).mayImage leaver = true ∧ (foreign leaver).mayImage leaver = false ∧
    (foreign leaver).quietTask 0 leaver = true ∧ 0 < 2048 := by decide +kernel
def spoiled (b : List Byte) (e : Tab (List (Nat × Nat))) : State := { apart (on0 (blocked .absent)) with mem := Memory.putAll [] 0 b, lineErr := e }
theorem wit_Switches_resume : (blocked .absent).isOver = false ∧ ((spoiled [] []).core 0).ctx = some 0 ∧ (spoiled [] [(0, [(0, 1), (0, 2), (0, 3)])]).imageBad (blocked .absent) = true ∧
    (spoiled [] []).imageBad (blocked .absent) = false ∧ savedOk ((spoiled [] []).devRead (blocked .absent).whoImage 0 0x4C000).2 = false ∧ (spoiled [] []).imageBase (blocked .absent) = 0 ∧
    (spoiled [] []).mayImage (blocked .absent) = true ∧ (foreign (blocked .absent)).mayImage (blocked .absent) = false ∧ ((foreign (blocked .absent)).core 0).ctx = some 0 := by decide +kernel
theorem lineView_plain (s : State) (hk : s.keyed = []) (hw : s.gecko.worlds = []) (l : Nat) : s.lineView l = s.bytesAt (l * 64) 64 := by
  simp [State.lineView, State.keyAt, State.rangeOf, hk, hw, Tab.val, Tab.look]
theorem flat_lines (f : Nat → Byte) (n : Nat) : (List.range n).flatMap (fun l => (List.range 64).map fun i => f (l * 64 + i)) = (List.range (n * 64)).map f := by
  induction n with
  | zero => rfl
  | succ n ih => rw [List.range_succ (n := n), List.flatMap_append, ih, Nat.succ_mul, List.range_add, List.map_append, List.map_map]; simp [Function.comp_def]
theorem leNat_zeros (k : Nat) : leNat (List.replicate k (0 : Byte)) = 0 := by
  induction k with
  | zero => rfl
  | succ k ih => rw [List.replicate_succ, leNat, ih]; rfl
/-- The bytes of a saved image whose header alone is not zero. -/
def bareImage : List Byte := [0, 0, 0, 0, 0xFF, 0, 1, 1] ++ List.replicate 0x4BFF8 0
theorem bare_slice (lo n : Nat) (h : 8 ≤ lo) : sliceOf bareImage lo n = List.replicate (min n (0x4BFF8 - (lo - 8))) 0 := by
  unfold sliceOf bareImage
  rw [List.drop_append, List.drop_eq_nil_of_le (by simpa using h), List.nil_append, List.drop_replicate, List.take_replicate]
  rfl
theorem bare_numAt (lo n : Nat) (h : 8 ≤ lo) : numAt bareImage lo n = 0 := by rw [numAt, bare_slice lo n h, leNat_zeros]
theorem bare_wordAt (lo : Nat) (h : 8 ≤ lo) : wordAt bareImage lo = 0 := by rw [wordAt, bare_numAt lo 8 h]; rfl
theorem bare_zero (lo hi : Nat) (h : 8 ≤ lo) : allZero bareImage lo hi = true := by simp [allZero, bare_slice lo _ h]
theorem bare_bufs : bufsOf bareImage = [] := by
  unfold bufsOf
  rw [List.filterMap_eq_nil_iff]
  intro b _
  simp only [bare_wordAt _ (by omega : 8 ≤ 0x1000 + 32 * b), bare_wordAt _ (by omega : 8 ≤ 0x1000 + 32 * b + 8), bare_wordAt _ (by omega : 8 ≤ 0x1000 + 32 * b + 16)]
  rfl
/-- A state whose image a restore accepts, whatever its tiles are. -/
def savedState : State := spoiled (leBytes 8 0x010100FF00000000) []
theorem saved_mem : savedState.mem = [(4, 0xFF), (6, 1), (7, 1)] := by decide +kernel
theorem saved_may (w a n : Nat) : savedState.devMay w a n = true := rfl
theorem saved_read : (savedState.devRead (blocked .absent).whoImage 0 0x4C000).2 = bareImage := by
  have h : (savedState.devRead (blocked .absent).whoImage 0 0x4C000).2
      = (((List.range 4864).flatMap fun l => (List.range 64).map fun i => savedState.byteAt (l * 64 + i)).drop 0).take 0x4C000 := by
    simp only [State.devRead, span, linesOf]
    rw [if_pos (by decide), if_pos (saved_may _ _ _)]
    have e : savedState.lineView = fun l => (List.range 64).map fun i => savedState.byteAt (l * 64 + i) := funext fun l => lineView_plain savedState rfl rfl l
    rw [e, show (fun x => 0 / 64 + x) = id from by funext x; simp, List.map_id]
  have head : (List.range 8).map savedState.byteAt = [0, 0, 0, 0, 0xFF, 0, 1, 1] := by decide +kernel
  have rest : ((List.range 0x4BFF8).map (8 + ·)).map savedState.byteAt = List.replicate 0x4BFF8 0 := by
    rw [List.map_map, List.eq_replicate_iff]
    refine ⟨by rw [List.length_map, List.length_range], fun b hb => ?_⟩
    obtain ⟨a, _, rfl⟩ := List.mem_map.mp hb
    simp only [Function.comp, State.byteAt, saved_mem, Memory.byte]
    repeat rw [if_neg (by omega)]
  rw [h, flat_lines, List.drop_zero, List.take_of_length_le (by rw [List.length_map, List.length_range]), show 4864 * 64 = 8 + 0x4BFF8 from rfl, List.range_add, List.map_append,
    head, rest, bareImage]
/-- Reading the image changes nothing. -/
theorem saved_same : (savedState.devRead (blocked .absent).whoImage 0 0x4C000).1 = savedState ∧
    (savedState.devRead (blocked .absent).whoImage 0x100000 0x100000).1 = savedState := by
  constructor <;> (rw [State.devRead, if_pos (by decide)]; rfl)
theorem wit_Switches_restore (tiles : Tab Word) : (Ctx.restore savedState (blocked .absent) 0 (savedState.devRead (blocked .absent).whoImage 0 0x4C000).2 tiles).isSome = true := by
  have h : savedOk bareImage = true := by
    simp only [savedOk, bare_wordAt 8 (by decide), bare_zero 16 64 (by decide)]
    decide +kernel
  have h1 : bufTableOk savedState 0 (blocked .absent).who.region bareImage = true := by simp [bufTableOk, bare_bufs, bare_zero, pairsAgree]
  have h2 : (List.range 16).all (fun t => descOk (numAt bareImage (0x640 + 2 * t) 2)) = true := by
    simp only [List.all_eq_true]
    intro t _
    rw [bare_numAt _ _ (by omega)]
    decide
  rw [saved_read]
  simp only [Ctx.restore, h, h1, h2]
  rfl
theorem wit_Switches_reads : bufsOf (savedState.devRead (blocked .absent).whoImage 0 0x4C000).2 = [] ∧ readyQuads savedState 0 (blockRuns (coveredBlocks [])) = (savedState, true) :=
  ⟨by rw [saved_read]; exact bare_bufs, by decide +kernel⟩
theorem wit_Switches_back : (blocked (.restoring 0 0)).blocks[0]? = some 0 ∧ (blocked (.restoring 0 1)).blocks.length ≤ 1 ∧ (blocked (.restoring 0 1)).ph.err = false ∧
    (blocked (.restoring 0 1)).xf.fired = [] := by decide +kernel
/-- One access that waits at a die: for a block that is with its core, and for one that is being saved. -/
def divWait0 : DivWait := { source := 0, core := 0, block := 0, subj := 0, again := .loadReturn }
def diverted (state : Nat) (spilled : Bool) : State :=
  { open0 ctx0 with dies := [(0, { Die.reset with divq := [divWait0], div := [{ state := state, isCtx := false, core := 0, ncore := 0, start := 0, count := 1, rights := 7, share := 0, world := 0, owner := 0, slot := 0, next := 0, image := 0, ctxId := 5, spilled := spilled }] })] }
theorem wit_Diversion : ((diverted 1 true).die (diverted 1 true).subj).divq = [divWait0] ∧ (diverted 1 true).servedAt 0 0 = .later ∧ (diverted 4 false).servedAt 0 0 ≠ .later := by decide +kernel

/-- FramesAndClears: frame 0 is world 0's in the reset table; a table in which it is world 1's, or nobody's; a core whose clear ends. -/
def framed (tab : DWord) (f : Core → Core) : State := { on0 ctx0 with cores := [(0, f { Core.reset with ctx := some 0, frametab := tab })] }
def ownsFrame (s : State) (f w : Nat) : Bool := (s.core 0).frametab.getLsbD (4 * f + 3) && decide ((s.core 0).frametab.toNat / 2 ^ (4 * f) % 8 = w)
theorem wit_Frames : ((framed 0x8888888888888888 id).core 0).ctx = some 0 ∧ (framed 0x8888888888888888 id).ctx 0 = some ctx0 ∧ ownsFrame (framed 0x8888888888888888 id) 0 0 = true ∧
    ownsFrame (framed 0x9 id) 0 0 = false ∧ ((framed 0x9 id).core 0).frametab.getLsbD 3 = true ∧ ((framed 0 id).core 0).frametab.getLsbD 3 = false ∧
    ((framed 0x98 id).core 0).newFrame = none ∧ ((framed 0x98 id).core 0).frame < 16 ∧ ownsFrame (framed 0x98 id) 1 0 = false ∧ ((framed 0x98 id).core 0).frametab.getLsbD 7 = true ∧
    ((framed 0 fun c => { c with frame := 15 }).core 0).frame = 15 ∧ ((framed 0 fun c => { c with newFrame := some (9, 5) }).cores.look 0).isSome = true ∧
    ((framed 0 fun c => { c with clearing := some 9 }).core 0).clearing = some 9 ∧ 15 < 16 ∧ (framed 0 id).subj = 0 := by decide +kernel

/-! RemoteAccesses, RanksAndConnections, FlitsAndPorts, Reductions. -/

/-- A transaction of an OP to a slice address, of 8 bytes; SEQ `seq`, AGE `age`. -/
def txn (op seq age : Nat) : Txn :=
  { d0 := BitVec.ofNat 64 (op * 2 ^ 58 + seq * 2 ^ 6), d1 := BitVec.ofNat 64 (age * 2 ^ 56 + sliceVa.toNat), d2 := BitVec.ofNat 64 (7 * 2 ^ 40), d3 := 0, data := List.replicate 8 5 }
/-- A connection; a request on it; a package with both. -/
def conn0 (requester : Bool) (st : ConnSt) : Conn :=
  { requester := requester, number := 0, job := 0, rank := 0, pkg := 0, st := st, openTag := 0, nextSeq := 0, credits := 3, ports := 0, queue := [0], lastUse := 0
    spilled := false, region := 0, world := 0, asn := 0, root := 0, base := 0, seen := [], results := [], done := [], hold := [] }
def req0 (st : ReqSt) : Req :=
  { conn := 0, what := .scalar 0 0, job := 0, rank := 0, txn := txn 2 0 0, st := st, port := 48, lastSend := 0, toexp := 5, retries := 3, win := none, src := 0, epoch := 0, counted := false }
def remote (c : Conn) (r : Req) (e : RankEnt) (now : Nat) : State :=
  { open0 ctx0 with now := now, mid := { Midfield.reset with conns := [(0, c)], reqs := [(0, r)], ranks := [(rankKey 0 0, e)] } }
def valid : RankEnt := { RankEnt.reset with v := true }
theorem wit_Remote_send : ∀ e ∈ [RankEnt.reset, { valid with fenced := true }, valid], ∀ st ∈ [ConnSt.opened, .failed],
    (remote (conn0 true st) (req0 .queued) e 0).mid.conns.look 0 = some (conn0 true st) ∧ (remote (conn0 true st) (req0 .queued) e 0).mid.reqs.look 0 = some (req0 .queued) ∧
      (remote (conn0 true st) (req0 .queued) e 0).subj = 0 ∧ (remote (conn0 true st) (req0 .queued) e 0).rank 0 0 = e ∧
      ((conn0 true st).queue.take 16).find? (fun q => ((remote (conn0 true st) (req0 .queued) e 0).mid.reqs.look q).any (fun r => decide (r.st = .queued))) = some 0 := by decide +kernel
theorem wit_Remote_opened : ((remote (conn0 true .opened) (req0 .queued) valid 0).slotHdr 0).world = 0 ∧ classRefused (remote (conn0 true .opened) (req0 .queued) valid 0) (conn0 true .opened) (req0 .queued) = false ∧
    (conn0 true .opened).credits ≠ 0 ∧ ((conn0 true .opened).nextSeq + 2 ^ 24 - lowSeq (remote (conn0 true .opened) (req0 .queued) valid 0) 0 (conn0 true .opened)) % 2 ^ 24 < 1024 ∧
    (remote (conn0 true .opened) (req0 .queued) valid 0).ualinkMask 0 = false ∧ (conn0 true .opened).spilled = false ∧ (conn0 true .opened).pkg = (remote (conn0 true .opened) (req0 .queued) valid 0).pkg ∧
    portsOf (conn0 true .opened).ports = [] := by decide +kernel
theorem wit_Remote_rising (r : Req) : Tab.rising (remote (conn0 true .opened) r valid 0).mid.reqs := by simp [Tab.rising, remote]
theorem wit_Remote_after : (req0 (.sent 0)).st = .sent 0 ∧ 0 < (req0 (.sent 0)).retries ∧ (req0 (.sent 3)).retries ≤ 3 ∧
    (req0 .expiring).lastSend + (remote (conn0 true .opened) (req0 .expiring) valid 200000).mid.fabtime.toNat % 256 * 1750 ≤ 200000 ∧
    (remote (conn0 true .opened) (req0 (.sent 0)) valid 0).answered 0 (txn 9 0 0) = some 0 ∧ (remote (conn0 true .opened) (req0 (.sent 0)) valid 0).answered 0 (txn 9 1 0) = none := by decide +kernel
theorem wit_Remote_discarded : (remote (conn0 true .opened) (req0 (.sent 0)) valid 0).cameOver 0 (txn 9 1 0) = some (0, conn0 true .opened) ∧
    (remote (conn0 true .opened) (req0 (.sent 0)) valid 0).pkg = 0 ∧ (remote (conn0 false .opened) (req0 (.sent 0)) valid 0).answered 0 (txn 9 1 0) = none ∧
    ∀ p ∈ (remote (conn0 false .opened) (req0 (.sent 0)) valid 0).mid.conns, ¬ (p.2.requester = true ∧ p.2.number = (txn 9 1 0).conn ∧ (p.2.pkg = 0 ∨ p.2.rank = (txn 9 1 0).d2.toNat / 2 ^ 36 % 4096)) := by decide +kernel
/-- A request as it comes: too old; to no connection; new; seen before; performed before and kept. -/
def responding (c : Conn) : State := remote c (req0 (.sent 0)) valid 0
def heldConn : Conn := { conn0 false .opened with seen := [0], hold := [{ slot := 0, seq := 0, port := 48, txn := txn 1 0 0 }] }
theorem wit_Remote_receive : (responding (conn0 false .opened)).mid.fabtime.toNat % 256 < (txn 2 0 65).age ∧ (txn 2 0 64).age ≤ (responding (conn0 false .opened)).mid.fabtime.toNat % 256 ∧
    (txn 2 0 0).op = 2 ∧ (responding (conn0 true .opened)).mid.conns.find? (fun (_, c) => !c.requester && decide (c.number = (txn 2 0 0).conn)) = none ∧
    (responding (conn0 false .opened)).mid.conns.find? (fun (_, c) => !c.requester && decide (c.number = (txn 2 0 0).conn)) = some (0, conn0 false .opened) ∧
    1024 ≤ ((txn 2 0xFFFFFF 0).seq + 2 ^ 24 - ((conn0 false .opened).advance (txn 2 0xFFFFFF 0)).base) % 2 ^ 24 ∧ ((txn 2 1023 0).seq + 2 ^ 24 - ((conn0 false .opened).advance (txn 2 1023 0)).base) % 2 ^ 24 < 1024 ∧
    (txn 2 0 0).seq ∉ ((conn0 false .opened).advance (txn 2 0 0)).seen ∧ ((conn0 false .opened).advance (txn 2 0 0)).hold.length < 64 ∧
    ({ conn0 false .opened with seen := [0], done := [(0, 7)] } : Conn).advance (txn 2 0 0) = { conn0 false .opened with seen := [0], done := [(0, 7)] } := by decide +kernel
def Performed.isDone : Performed → (State → Bool) → Bool | .done s _ _, f => f s | _, _ => false
theorem wit_Remote_perform : heldConn.hold.find? (fun h => decide (h.seq = 0)) = some { slot := 0, seq := 0, port := 48, txn := txn 1 0 0 } ∧ heldConn.before (txn 1 0 0) = false ∧
    Performed.isDone (performReq (responding heldConn) 0 heldConn (txn 1 0 0)) (fun s1 => decide (s1.mid.conns.look 0 = some heldConn)) = true := by decide +kernel

/-- RanksAndConnections: a rank with a request outstanding, one cycle before and at DESTTO; opens, closes and timeouts. -/
theorem wit_Ranks : ((remote (conn0 true .opened) (req0 (.sent 0)) { valid with outst := 1 } 0).rank 0 0).outst ≠ 0 ∧ RankEnt.reset.outst = 0 ∧
    (fun w => decide (0 < w ∧ w - 1 < 0 + w ∧ 0 + w ≤ w)) ((responding heldConn).mid.fabtime.toNat / 2 ^ 32 % 2 ^ 20 * 1750) = true ∧ (on0 ctx0).host.phase = 6 ∧ 63 < 64 ∧ 4095 < 4096 := by decide +kernel
def opener : Txn := { txn 0x10 9 0 with data := leBytes 4 0 ++ leBytes 2 3 ++ leBytes 2 0 }
def slotted (c : Conn) : State := { responding c with mid := { (responding c).mid with slots := [(5, { SlotHdr.reset with en := true })] } }
def slotFor (s : State) : Option Nat := (List.range 64).find? fun j => (s.slotHdr j).en && decide ((s.slotHdr j).jobid = leNat (opener.data.take 4))
def openFor (s : State) : Option (Nat × Conn) :=
  s.mid.conns.find? (fun (_, c) => !c.requester && decide (c.pkg = leNat ((opener.data.drop 4).take 2) ∧ c.job = 5 ∧ c.openTag = opener.seq))
theorem wit_Connections : 8 ≤ opener.data.length ∧ slotFor (responding heldConn) = none ∧ slotFor (slotted heldConn) = some 5 ∧ openFor (slotted heldConn) = none ∧
    openFor (slotted { heldConn with pkg := 3, job := 5, openTag := 9 }) ≠ none ∧ (slotted heldConn).mid.conns.length < 8192 ∧
    (responding (conn0 true (.opening 6))).connOf 0 = some (0, conn0 true (.opening 6)) ∧ (responding (conn0 true (.opening 5))).mid.conns.look 0 = some (conn0 true (.opening 5)) ∧
    (conn0 true .closing).number = (txn 0x11 0 0).conn ∧ (responding (conn0 true .closing)).connOf 0 = some (0, conn0 true .closing) ∧ (responding heldConn).subj = 0 ∧
    (responding (conn0 true .opened)).mid.reqs.any (fun (_, r) => decide (r.conn = 0 ∧ r.st ≠ .held)) = true ∧
    (remote (conn0 true .draining) (req0 .held) valid 0).mid.reqs.any (fun (_, r) => decide (r.conn = 0 ∧ r.st ≠ .held)) = false ∧
    (responding (conn0 true .draining)).ualinkMask 0 = false := by decide +kernel
theorem wit_Connections_idle : (conn0 true .opened).lastUse + (on0 ctx0).mid.fabtime.toNat / 2 ^ 12 % 2 ^ 20 * 1750 ≤ 2 ^ 40 ∧ Tab.rising (responding heldConn).mid.conns :=
  ⟨by decide +kernel, by simp [Tab.rising, responding, remote]⟩

/-- FlitsAndPorts: a flit of a type and number with its CRC; a port in a mode; a damaged flit. -/
def flit (type seq : Nat) : List Byte :=
  let b := leBytes 8 (type * 2 ^ 60 + seq * 2 ^ 46) ++ List.replicate 240 0
  b ++ leBytes 8 (crc64 b)
def ported (q : Port) (now : Nat) : State := { on0 ctx0 with now := now, mid := { Midfield.reset with ports := [(0, q)] } }
def up : Port := { Port.reset with en := true, mode := 3, lanes := 8 }
def kept (first last : Nat) : Port := { up with replay := [{ lseq := 0, bytes := flit 1 0, queued := 0, head := true, first := first, last := last }] }
theorem wit_Flits : flitGood (flit 1 0) = true ∧ flitType (flit 1 0) = 1 ∧ flitAckV (flit 1 0) = false ∧ flitType (flit 3 0) = 3 ∧ flitGood (flit 3 0) = true ∧
    flitType (flit 2 0) = 2 ∧ flitGood (flit 2 0) = true ∧ flitGood ((flit 1 0).set 100 1) = false ∧ ((ported up 0).port 0).mode = 3 ∧ flitDpkg (flit 1 0) = (ported up 0).pkg ∧
    (flitSeq (flit 1 255) + 4096 - ((ported up 0).port 0).ackbase) % 4096 = 255 ∧ lseqBefore (flitSeq (flit 1 4095)) ((ported up 0).port 0).ackbase = true ∧
    (ported up 0).bad = none ∧ ((ported up 0).port 0).ackbase < 4096 ∧ ((ported up 0).port 0).sinceAck < 63 ∧ (flit 1 0).length = 256 := by decide +kernel
/-- A flit whose payload begins with a write of 8 bytes, whose AGE leaves it 4 µs to live. -/
def laden : List Byte :=
  let b := leBytes 8 (2 ^ 60) ++ (txn 2 0 60).bytes ++ List.replicate 192 0
  b ++ leBytes 8 (crc64 b)
theorem laden_good : flitGood laden = true := by decide +kernel
theorem wit_Flits_laden : ∃ tx ∈ (takeTxns ((ported up 0).tailBytes 0) 20 (flitPayload laden)).1, opKnown tx.op = true ∧ tx.age + 4 ≤ (ported up 0).mid.fabtime.toNat % 256 := by decide +kernel
/-- LINKCAP of versions. -/
def capFlit (v : Nat) : List Byte :=
  let b := leBytes 8 (3 * 2 ^ 60) ++ [BitVec.ofNat 8 v] ++ List.replicate 239 0
  b ++ leBytes 8 (crc64 b)
theorem wit_Ports : ((ported up 0).port 0).reseq = [] ∧ ({ up with reseq := [(1, [])] } : Port).reseq ≠ [] ∧ (∃ f ∈ (kept 0 0).replay, f.first ≠ 2 ^ 63 ∧ f.first + 7000 ≤ 7000) ∧
    ¬ (∃ f ∈ (kept 0 0).replay, f.first ≠ 2 ^ 63 ∧ f.first + 7000 ≤ 6999) ∧ (kept 0 0).replay.filter (fun f => decide (f.first ≠ 2 ^ 63 ∧ f.last + 875 ≤ 875)) ≠ [] ∧
    (kept 0 0).replay.filter (fun f => decide (f.first ≠ 2 ^ 63 ∧ f.last + 875 ≤ 874)) = [] ∧ (∀ f ∈ (kept 0 0).replay, f.first ≠ 2 ^ 63) ∧ up.en = true ∧ 2 ≤ up.mode ∧
    (0 < up.retrTok ∨ up.retrains = 0) ∧ ¬ (0 < ({ up with retrains := 1, retrTok := 0 } : Port).retrTok ∨ ({ up with retrains := 1 } : Port).retrains = 0) ∧ ({ up with waits := true } : Port).waits = true ∧
    ({ up with now2 := true } : Port).now2 = true ∧ flitGood (capFlit 3) = true ∧ flitType (capFlit 3) = 3 ∧ ((capFlit 3).getD 8 0).toNat.testBit 1 = true ∧ ((capFlit 1).getD 8 0).toNat.testBit 1 = false ∧
    ((capFlit 1).getD 8 0).toNat.testBit 0 = true ∧
    ({ up with mode := 1 } : Port).lanes ≠ 0 ∧ ({ up with mode := 1 } : Port).trainStart + 17500000 ≤ 17500000 ∧ ({ up with mode := 0 } : Port).mode < 2 ∧ (15 : BitVec 4) ≠ 0 ∧ 47 < 48 := by decide +kernel

/-- Reductions: a contribution of one 32-bit integer to RID 1 by index 0, of two or of one expected; what stands for its key. -/
def contribTxn (count : Nat) : Txn :=
  { txn 0x0C 0 0 with d2 := BitVec.ofNat 64 (3 * 2 ^ 40), d3 := BitVec.ofNat 64 count, data := leBytes 8 (2 ^ 44 + 3 * 2 ^ 37) ++ List.replicate 24 0 ++ [5, 0, 0, 0] }
def desc (count : Nat) : Desc := Desc.of (contribTxn count)
def reducing (cfg : DWord) (comb : Tab Comb) (contribs : List Contrib) (count : Nat) : State :=
  { open0 ctx0 with
    mid := { Midfield.reset with scrumcfg := cfg, comb := comb, contribs := contribs, conns := [(0, { heldConn with hold := [{ slot := 0, seq := 0, port := 48, txn := contribTxn count }] })] } }
def waitingContrib (count : Nat) : Contrib := { conn := 0, seq := 0, rank := 0, job := 0, txn := contribTxn count }
def key0 : Nat := combKey 0 1 0
def entry0 (st : Nat) (count : Nat) : Comb := { Comb.open' (on0 ctx0) 0 (desc count) with st := st }
theorem wit_Reductions_receive : (0 : DWord).getLsbD 0 = false ∧ (1 : DWord).getLsbD 0 = true ∧ contribBad (reducing 1 [] [] 2) 0 (contribTxn 2) (desc 2) = false ∧
    contribBad (reducing 1 [] [] 65) 0 (contribTxn 65) (desc 65) = true ∧ contribBad (reducing 1 [(key0, entry0 5 2)] [] 2) 0 (contribTxn 2) (desc 2) = false ∧
    (reducing 1 [(key0, entry0 5 2)] [] 2).mid.comb.look key0 = some (entry0 5 2) ∧ (entry0 5 2).st = 5 ∧ combKey 0 (desc 2).rid (desc 2).level = key0 := by decide +kernel
theorem wit_Reductions_apply : (reducing 1 [] [waitingContrib 2] 2).mid.contribs.find? (fun c => decide (c.conn * 2 ^ 24 + c.seq = (reducing 1 [] [waitingContrib 2] 2).subj)) = some (waitingContrib 2) ∧
    isStaged (desc 2).oper (desc 2).fmt (desc 2).repro = false ∧ (reducing 1 [] [waitingContrib 2] 2).mid.comb.look key0 = none ∧
    ((Comb.open' (reducing 1 [] [waitingContrib 2] 2) 0 (desc 2)).apply (desc 2) 0).arrived ≠ (desc 2).expect ∧ (entry0 1 2).st = 1 ∧ (entry0 1 2).differs (desc 2) = false ∧ (entry0 1 2).has (desc 2) = false ∧
    ((entry0 1 2).apply (desc 2) 0).arrived ≠ (entry0 1 2).expect ∧ ((entry0 1 1).apply (desc 1) 0).arrived = (entry0 1 1).expect ∧ ((entry0 1 1).apply (desc 1) 0).arrived ≠ 0 := by decide +kernel
/-- Its later life: time passed with something and with nothing arrived; a forward; a result to write; a notice; a tomb. -/
def full1 (st : Nat) : Comb := { (entry0 1 1).apply (desc 1) 0 with st := st, destc := true }
theorem wit_Reductions_life : (reducing 1 [(0, full1 1)] [] 1).mid.comb.look (reducing 1 [(0, full1 1)] [] 1).subj = some (full1 1) ∧ (reducing 1 [(0, full1 1)] [] 1).waiters 0 = [] ∧
    (full1 1).started + (full1 1).tout * 1750 ≤ 35000 ∧ ¬ ((full1 1).started + (full1 1).tout * 1750 ≤ 34999) ∧ (full1 1).arrived ≠ 0 ∧ (entry0 1 1).arrived = 0 ∧ (full1 1).who ≠ [] ∧
    (full1 2).staged = [] ∧ ¬ ((full1 2).level = 0 ∧ (full1 2).pv = true) ∧ (full1 2).destc = true ∧ ({ full1 2 with pv := true } : Comb).level = 0 ∧ ({ full1 4 with acks := 2 } : Comb).acks = 2 ∧
    ({ full1 3 with fword := 4 } : Comb).fword ≠ 0 ∧ ({ full1 3 with acks := 1 } : Comb).forwards.length ≤ 1 ∧
    (full1 5).started + (1 : DWord).toNat / 2 ^ 24 % 2 ^ 20 * 1750 ≤ 0 ∧ (full1 5).started + (0x1000001 : DWord).toNat / 2 ^ 24 % 2 ^ 20 * 1750 - 0 ≠ 0 ∧
    (full1 3).started + ((reducing 1 [] [] 1).mid.fabtime.toNat / 2 ^ 32 % 2 ^ 20 + (full1 3).tout) * 1750 ≤ 3535000 ∧
    3534999 < (full1 3).started + ((reducing 1 [] [] 1).mid.fabtime.toNat / 2 ^ 32 % 2 ^ 20 + (full1 3).tout) * 1750 ∧ (full1 3).fword = 0 ∧ (txn 0x0F 0 0).d2.toNat / 2 ^ 32 % 16 = 0 := by decide +kernel
/-- With TADDR to write: the slice takes the result. -/
def toTaddr : Comb := { full1 2 with destc := false, taddr := sliceVa.toNat, value := [5, 0, 0, 0] }
theorem wit_Reductions_write : Performed.isDone (writeResult ((reducing 1 [(0, toTaddr)] [] 1).setComb 0 { toTaddr with value := toTaddr.result }) 0 { toTaddr with value := toTaddr.result })
    (fun s1 => decide (s1.mid.comb.look 0 = some { toTaddr with value := toTaddr.result })) = true := by decide +kernel
/-- A contributor's record of an accepted contribution, its command and its notice. -/
def crec0 : CRec := { job := 0, rid := 1, cidx := 0, ctx := 0, entry := 0, row := 0, size := 4, wait := 60, accepted := some 0, past := false }
def contributing : State := { open0 (stated .running 0) with mid := { Midfield.reset with crecs := [(0, crec0)], conns := [(0, heldConn)] } }
theorem wit_Reductions_notice : contributing.mid.crecs.look 0 = some crec0 ∧ contributing.ctx 0 = some (stated .running 0) ∧ (stated .running 0).xf.log = [cmdOf' .running] ∧
    (cmdOf' .running).seq = crec0.entry ∧ (cmdOf' .running).st ≠ .done ∧ contributing.mid.conns.look 0 = some heldConn ∧
    contributing.mid.crecs.find? (fun (_, r) => decide (r.job = heldConn.job ∧ r.rid = ({ txn 0x0F 0 0 with d3 := 0x100000000000 } : Txn).d3.toNat / 2 ^ 44 ∧
      r.cidx = ({ txn 0x0F 0 0 with d3 := 0x100000000000 } : Txn).d3.toNat / 2 ^ 38 % 2 ^ 6) && !r.past) = some (0, crec0) ∧ crec0.past = false ∧ 0 + crec0.wait * 1750 ≤ 105000 := by decide +kernel
theorem wit_Reductions_rising : Tab.rising contributing.mid.crecs ∧ Tab.rising (reducing 1 [(0, full1 1)] [] 1).mid.comb := ⟨by simp [Tab.rising, contributing], by simp [Tab.rising, reducing]⟩

/-- A ring whose slot 0 holds a command: its header's first eight words, no payload, a tag of 48 bytes. -/
def slotCells (ws : List DWord) (t : Nat → Byte) : List Host.Cell := Memory.putAll [] 0 (dwordBytes ws) ++ (List.range 48).map (fun i => (64 + i, t i))
def ringed (key : Option (List Byte)) (e : Nat) (halted : Bool) (ws : List DWord) (t : Nat → Byte) : State :=
  { on0 ctx0 with
    mem := slotCells ws t
    gecko := { Gecko.reset with ringKey := key, e := e, halted := halted }
    host := { HostIf.reset with phase := 6, crtail := 1, crresp := 0x100000 } }
def cmdWords (op seq w2 w3 : Nat) : List DWord := [BitVec.ofNat 64 (seq * 2 ^ 16 + op * 2 ^ 8 + 1), 0, BitVec.ofNat 64 w2, BitVec.ofNat 64 w3, 0, 0, 0, 0]
def ringCmd (ws : List DWord) (t : Nat → Byte) : RingCmd := { hdr := dwordBytes ws, payload := [], tag := (List.range 48).map t }

theorem byte_left (m n : List Host.Cell) (a : Nat) (h : ∀ p ∈ n, p.1 ≠ a) : Memory.byte (m ++ n) a = Memory.byte m a := by
  induction m with
  | nil =>
    induction n with
    | nil => rfl
    | cons p n ih => simp only [List.nil_append, Memory.byte] at ih ⊢; rw [if_neg (h p (by simp))]; exact ih fun q hq => h q (by simp [hq])
  | cons p m ih => simp only [List.cons_append, Memory.byte, ih]
theorem byte_right (m n : List Host.Cell) (a : Nat) (h : ∀ p ∈ m, p.1 ≠ a) : Memory.byte (m ++ n) a = Memory.byte n a := by
  induction m with
  | nil => rfl
  | cons p m ih => simp only [List.cons_append, Memory.byte]; rw [if_neg (h p (by simp))]; exact ih fun q hq => h q (by simp [hq])
theorem byte_tag (t : Nat → Byte) (n i : Nat) (h : i < n) : Memory.byte ((List.range n).map (fun i => (64 + i, t i))) (64 + i) = t i := by
  induction n with
  | zero => omega
  | succ n ih =>
    rw [List.range_succ, List.map_append]
    by_cases hi : i < n
    · rw [byte_left _ _ _ (by simp; omega), ih hi]
    · rw [byte_right _ _ _ (by simp; omega)]
      obtain rfl : i = n := by omega
      simp [Memory.byte]
theorem ringHead_ringed (key : Option (List Byte)) (e : Nat) (halted : Bool) (ws : List DWord) (t : Nat → Byte)
    (h : (List.range 64).map (Memory.byte (Memory.putAll [] 0 (dwordBytes ws))) = dwordBytes ws)
    (hk : dwordAt (dwordBytes ws) 1 = 0)
    (ha : ∀ p ∈ Memory.putAll [] 0 (dwordBytes ws), p.1 < 64) :
    ringHead (ringed key e halted ws t) = some (ringed key e halted ws t, ringCmd ws t) := by
  have hl (l : Nat) : (ringed key e halted ws t).lineView l
      = (List.range 64).map (fun i => Memory.byte (slotCells ws t) (l * 64 + i)) := rfl
  have h0 : (ringed key e halted ws t).lineView 0 = dwordBytes ws := by
    rw [hl, ← h]
    refine List.map_congr_left fun i hi => ?_
    rw [Nat.zero_mul, Nat.zero_add]
    exact byte_left _ _ _ (by simp at hi ⊢; omega)
  have h1 : ((ringed key e halted ws t).lineView 1).take 48 = (List.range 48).map t := by
    rw [hl, ← List.map_take, List.take_range]
    refine List.map_congr_left fun i hi => ?_
    rw [Nat.one_mul]
    simp at hi
    rw [slotCells, byte_right _ _ _ (fun p hp => by have := ha p hp; omega), byte_tag _ _ _ hi]
  have hn : (dwordBytes ws).length = 64 := by rw [← h]; simp
  have hw : fld (dwordAt (dwordBytes ws) 1) 0 32 = 0 := by rw [hk]; rfl
  obtain ⟨r, hr⟩ : ∃ r, (span 0 128).flatMap (ringed key e halted ws t).lineView
      = dwordBytes ws ++ ((ringed key e halted ws t).lineView 1 ++ r) :=
    ⟨(span 2 126).flatMap (ringed key e halted ws t).lineView, by rw [← h0]; rfl⟩
  have hd : (ringed key e halted ws t).devRead whoDevice 0 8192
      = (ringed key e halted ws t, (dwordBytes ws ++ ((ringed key e halted ws t).lineView 1 ++ r)).take 8192) := by
    have hv : (ringed key e halted ws t).served whoDevice (linesOf 0 8192) = ringed key e halted ws t := rfl
    have hm : (ringed key e halted ws t).devMay whoDevice.world 0 8192 = true := rfl
    simp only [State.devRead, hv, hm, if_true]
    rw [if_pos (by decide), ← hr]
    simp only [List.drop_zero, show linesOf 0 8192 = 128 from rfl, Nat.zero_div, Nat.zero_mod]
  have hne : ¬ ((ringed key e halted ws t).host.crhead = (ringed key e halted ws t).host.crtail) := by
    show ¬ (0 = 1); decide
  have ha0 : (ringed key e halted ws t).ringSlot (ringed key e halted ws t).host.crbase (ringed key e halted ws t).host.crhead = 0 := by
    show fld 0 13 27 * 2 ^ 13 + 8192 * (0 % 2 ^ 1) = 0; decide
  have hlen : ((ringed key e halted ws t).lineView 1).length = 64 := by rw [hl]; simp
  unfold ringHead
  rw [if_neg hne, ha0, hd]
  generalize hB : (ringed key e halted ws t).lineView 1 = B at *
  have t0 : ((dwordBytes ws ++ (B ++ r)).take 8192).take 64 = dwordBytes ws := by
    rw [List.take_take, List.take_append_of_le_length (by omega), List.take_of_length_le (by omega)]
  have t1 : (((dwordBytes ws ++ (B ++ r)).take 8192).drop 64).take 48 = (List.range 48).map t := by
    rw [List.drop_take, List.take_take, List.drop_append_of_le_length (by omega), List.drop_of_length_le (by omega), List.nil_append,
      List.take_append_of_le_length (by omega)]
    exact h1
  have t2 : fld (dwordAt ((dwordBytes ws ++ (B ++ r)).take 8192) 1) 0 32 = 0 := by
    have : (((dwordBytes ws ++ (B ++ r)).take 8192).drop (8 * 1)).take 8 = ((dwordBytes ws).drop (8 * 1)).take 8 := by
      rw [List.drop_take, List.take_take, List.drop_append_of_le_length (by omega), List.take_append_of_le_length (by simp; omega)]; simp
    rw [dwordAt, this]; exact hw
  simp only [t2, t0, t1, ringCmd, Nat.add_zero, List.take_zero]

/-- What a witness of a command in order under a ring key asks of its words: a decidable matter of 64 bytes. -/
def slotOk (ws : List DWord) (e : Nat) (halted : Bool) (i : Instr) : Bool :=
  let k : RingCmd := { hdr := dwordBytes ws, payload := [], tag := [] }
  decide ((List.range 64).map (Memory.byte (Memory.putAll [] 0 (dwordBytes ws))) = dwordBytes ws) && decide (dwordAt (dwordBytes ws) 1 = 0) &&
    (Memory.putAll [] 0 (dwordBytes ws)).all (fun p => decide (p.1 < 64)) && decide (k.op ≠ 1 ∧ k.seq = e ∧ e < seqMax) &&
    (if halted then decide (k.op = 2 ∧ i = .resync) else if k.op = 3 then decide (i = .rekey) else decide (k.run = .perform i))
/-- The tag that stands in the slot is the right one. -/
def rightTag (key : List Byte) (ws : List DWord) (i : Nat) : Byte := (ringTag key (dwordBytes ws)).getD i 0
theorem rightTag_eq (key : List Byte) (ws : List DWord) : (List.range 48).map (rightTag key ws) = ringTag key (dwordBytes ws) := by
  have h : (ringTag key (dwordBytes ws)).length = 48 := by simp [ringTag, fitBytes]
  refine List.ext_getElem (by simp [h]) fun i h1 h2 => ?_
  simp [rightTag, List.getElem?_eq_getElem h2]
theorem ringRuns_ringed (key : List Byte) (e : Nat) (halted : Bool) (ws : List DWord) (i : Instr) (h : slotOk ws e halted i = true) :
    (ringed (some key) e halted ws (rightTag key ws)).ringRuns (ringCmd ws (rightTag key ws)) i := by
  simp only [slotOk, Bool.and_eq_true, decide_eq_true_eq, List.all_eq_true] at h
  obtain ⟨⟨⟨⟨h1, h2⟩, h3⟩, h4, h5, h7⟩, h6⟩ := h
  refine ⟨rfl, ⟨rfl, by show fld 0 13 27 * 2 ^ 13 + 8192 * 2 ^ 1 ≤ 2 ^ 39; decide, by show fld 0x100000 13 27 * 2 ^ 13 + 8192 * 2 ^ 1 ≤ 2 ^ 39; decide⟩,
    by show (0 : Nat) ≠ 1; decide, rfl, ringHead_ringed _ _ _ _ _ h1 h2 h3, ?_⟩
  have hl : (ringCmd ws (rightTag key ws)).len = 0 := by show fld (dwordAt (dwordBytes ws) 1) 0 32 = 0; rw [h2]; rfl
  have ht : ringTag key ((ringCmd ws (rightTag key ws)).hdr ++ (ringCmd ws (rightTag key ws)).payload) = (ringCmd ws (rightTag key ws)).tag := by
    show ringTag key (dwordBytes ws ++ []) = _; rw [List.append_nil]; exact (rightTag_eq key ws).symm
  have hg : (ringed (some key) e halted ws (rightTag key ws)).gecko.ringKey = some key := rfl
  have hh : (ringed (some key) e halted ws (rightTag key ws)).gecko.halted = halted := rfl
  have he : (ringed (some key) e halted ws (rightTag key ws)).gecko.e = e := rfl
  have ho : (ringCmd ws (rightTag key ws)).op ≠ 1 := h4
  have hs : (ringCmd ws (rightTag key ws)).seq = e := h5
  have hr : (ringCmd ws (rightTag key ws)).run = RingCmd.run { hdr := dwordBytes ws, payload := [], tag := [] } := rfl
  have hop : (ringCmd ws (rightTag key ws)).op = RingCmd.op { hdr := dwordBytes ws, payload := [], tag := [] } := rfl
  unfold ringJudge
  rw [hl, hg]
  simp only [ht, hh, he, hs, ne_eq, not_true_eq_false, if_false, Nat.lt_irrefl, le_refl, h7, and_true, hr, hop]
  cases halted with
  | true => simp only [if_true, decide_eq_true_eq] at h6 ⊢; obtain ⟨ha, hb⟩ := h6; simp [ha, hb]
  | false =>
    simp only [Bool.false_eq_true, if_false] at h6 ⊢
    split at h6
    · rename_i hc; simp only [decide_eq_true_eq] at h6; simp [hc, h6]
    · rename_i hc; simp only [decide_eq_true_eq] at h6; simp [hc, h6, h4, Nat.ne_of_lt h7]

/-- RingOrder, TrustCommands, RegionCommands: under every ring key, each operation is run by a command in order; RESYNC also by one in a halted ring. -/
theorem wit_Ring (key : List Byte) : ∀ p ∈ ([(2, 0, 0, .resync), (3, 0, 0, .rekey), (4, 1, 0, .attest), (5, 1, 63, .svnraise), (8, 1, 0, .createworld), (9, 1, 0, .destroyworld), (0xA, 1, 3, .setrange),
      (0xB, 287, 0, .setframes), (0xC, 1, 0, .keyimport), (0xD, 0, 0, .jobkey), (0x40, 0, 0, .regionCreate), (0x40, 4095, 1, .regionRefresh), (0x40, 0, 2, .regionDestroy),
      (0x41, 5, 0, .inval), (0x42, 287, 0, .preempt)] : List (Nat × Nat × Nat × Instr)),
    (ringed (some key) 5 false (cmdWords p.1 5 p.2.1 p.2.2.1) (rightTag key (cmdWords p.1 5 p.2.1 p.2.2.1))).ringRuns
      (ringCmd (cmdWords p.1 5 p.2.1 p.2.2.1) (rightTag key (cmdWords p.1 5 p.2.1 p.2.2.1))) p.2.2.2 := by
  have h : ∀ p ∈ ([(2, 0, 0, .resync), (3, 0, 0, .rekey), (4, 1, 0, .attest), (5, 1, 63, .svnraise), (8, 1, 0, .createworld), (9, 1, 0, .destroyworld), (0xA, 1, 3, .setrange),
      (0xB, 287, 0, .setframes), (0xC, 1, 0, .keyimport), (0xD, 0, 0, .jobkey), (0x40, 0, 0, .regionCreate), (0x40, 4095, 1, .regionRefresh), (0x40, 0, 2, .regionDestroy),
      (0x41, 5, 0, .inval), (0x42, 287, 0, .preempt)] : List (Nat × Nat × Nat × Instr)), slotOk (cmdWords p.1 5 p.2.1 p.2.2.1) 5 false p.2.2.2 = true := by decide +kernel
  exact fun p hp => ringRuns_ringed key 5 false _ _ (h p hp)
theorem wit_Ring_halted (key : List Byte) : (ringed (some key) 5 true (cmdWords 2 5 0 0) (rightTag key (cmdWords 2 5 0 0))).ringRuns (ringCmd (cmdWords 2 5 0 0) (rightTag key (cmdWords 2 5 0 0))) .resync :=
  ringRuns_ringed key 5 true _ _ (by decide +kernel)

/-! RingOrder, TrustCommands and RegionCommands (the commands themselves are in order by wit_Ring), TrustAndPower, ManagementInterface, BootStatus, the
steps and the encodings. -/

/-- A ring without a key: KEYEX and ATTEST are run; a doorbell that announces one command, none, and more than the ring holds; an unknown op. -/
def open1 (op : Nat) : State := { ringed none 0 false (cmdWords op 0 0 0) (fun _ => 0) with mem := Memory.putAll [] 0 (dwordBytes (cmdWords op 0 0 0)) }
theorem wit_Ring_open : ∀ p ∈ [(1, Instr.keyex), (4, .attest)], ringHead (open1 p.1) = some (open1 p.1, ringCmd (cmdWords p.1 0 0 0) (fun _ => 0)) ∧
    ringJudge (open1 p.1).gecko (ringCmd (cmdWords p.1 0 0 0) (fun _ => 0)) = .perform p.2 := by decide +kernel
theorem wit_Ring_open_state (op : Nat) : (open1 op).host.phase = 6 ∧ (open1 op).ringSafe ∧ (open1 op).host.crhead ≠ (open1 op).host.crtail ∧
    ((open1 op).host.crhead + 1) % 2 ^ 32 = (open1 op).host.crtail := by
  refine ⟨rfl, ⟨rfl, ?_, ?_⟩, ?_, rfl⟩
  · show fld 0 13 27 * 2 ^ 13 + 8192 * 2 ^ 1 ≤ 2 ^ 39; decide
  · show fld 0x100000 13 27 * 2 ^ 13 + 8192 * 2 ^ 1 ≤ 2 ^ 39; decide
  · show (0 : Nat) ≠ 1; decide
theorem wit_RingOrder : 2 ^ (open1 1).host.crslot < ((3 : BitVec 32).toNat + 2 ^ 32 - (open1 1).host.crhead) % 2 ^ 32 ∧
    ((2 : BitVec 32).toNat + 2 ^ 32 - (open1 1).host.crhead) % 2 ^ 32 ≤ 2 ^ (open1 1).host.crslot ∧ (0 : BitVec 32).toNat = (open1 1).host.crhead ∧
    ringJudge (open1 7).gecko (ringCmd (cmdWords 7 0 0 0) (fun _ => 0)) = .answer 1 false ∧ ((open1 7).host.crhead + 1) % 2 ^ 32 = (1 : BitVec 32).toNat := by decide +kernel
/-- Under a key: a right tag for any header, one that is wrong (of no byte), sequence numbers below, at and above E, and a ring that has halted. -/
theorem wit_RingOrder_keyed (key hdr : List Byte) : (∃ k : RingCmd, k.hdr = hdr ∧ ringTag key (k.hdr ++ k.payload) = k.tag) ∧ (∃ k : RingCmd, k.hdr = hdr ∧ ¬ (ringTag key (k.hdr ++ k.payload) = k.tag)) :=
  ⟨⟨{ hdr := hdr, payload := [], tag := ringTag key (hdr ++ []) }, rfl, rfl⟩,
    ⟨{ hdr := hdr, payload := [], tag := [] }, rfl, by intro h; have := congrArg List.length h; simp [ringTag, fitBytes] at this⟩⟩
theorem wit_RingOrder_seq : RingCmd.op (ringCmd (cmdWords 3 5 0 0) (fun _ => 0)) = 3 ∧ RingCmd.seq (ringCmd (cmdWords 3 5 0 0) (fun _ => 0)) = 5 ∧
    RingCmd.seq (ringCmd (cmdWords 2 (2 ^ 48 - 2) 0 0) (fun _ => 0)) < 2 ^ 48 - 1 ∧ 64 + RingCmd.len (ringCmd (cmdWords 3 5 0 0) (fun _ => 0)) + 48 ≤ 8192 := by decide +kernel

/-- A world that lives, and one being destroyed; frames of world 0; a slot of world 1. -/
def world1 (dying : Bool) : World := { dying := dying, xts := 1, kemSeed := [], code := none, meas := [], ranges := [(0, (0x3, 0, 0))] }
def worldly (s : State) (dying : Bool) : State := { s with gecko := { s.gecko with worlds := [(1, world1 dying)] } }
theorem wit_TrustCommands : ((worldly (open1 4) false).gecko.worlds.look 1 = some (world1 false) ∧ (world1 false).dying = false ∧ (1 : Nat) ≠ 0) ∧
    (worldly (open1 4) true).gecko.worlds.look 1 = some (world1 true) ∧ (world1 true).dying = true ∧ (open1 4).gecko.worlds.look 1 = none ∧ (open1 4).gecko.rngOk = true ∧
    (0x10003 : DWord).toNat / 4 % 2 ^ 14 = 0 ∧ (0x7 : DWord).toNat / 4 % 2 ^ 14 ≠ 0 ∧ frameBar (open1 4).gecko 0 = none ∧ (106 : DWord).toNat % 128 ≤ 106 ∧
    (∀ q ∈ (open1 4).ctxs, q.2.who.world ≠ 1) ∧ (({ open1 4 with mid := { Midfield.reset with slots := [(0, { SlotHdr.reset with world := 1 })] } } : State).slotHdr 0).world ≠ 0 := by decide +kernel
theorem wit_SetRange : overlaps (rangeSpan 0x3) (rangeSpan 0x3) = true ∨ rangeSpan 0x3 = (0, 0) ∨ (rangeSpan 0x3).2 = 0 := by decide +kernel

/-- A region table of one entry at 0x8000, with a root RCB that is in order, or of no format. -/
def tabled (v : DWord) : State :=
  { on0 ctx0 with
    host := { (on0 ctx0).host with regtab := 0x8000 }
    mem := Memory.putAll (Memory.putAll [] 0x8000 (leBytes 8 0x4001)) 0x4000 (dwordBytes [v, 0xFFF]) }
theorem wit_RegionCommands : ((tabled 0x0100000000000001).regionEntry 0).getLsbD 0 = true ∧ ((on0 ctx0).regionEntry 0).getLsbD 0 = false ∧ (tabled 0x0100000000000001).regionLive 0 = false ∧
    ((tabled 0x0100000000000001).regionEntry 0).toNat / 2 ^ 9 % 2 ^ 31 * 512 + 512 ≤ 2 ^ 39 ∧ rcbOk (tabled 0x0100000000000001) 0 0x4000 (readRcb (tabled 0x0100000000000001) 0).2.2 = true ∧
    rcbOk (tabled 0x0200000000000001) 0 0x4000 (readRcb (tabled 0x0200000000000001) 0).2.2 = false ∧ (living (on0 ctx0)).regionLive 0 = true ∧ (living (on0 ctx0)).arb.regions.look 0 = some region0 ∧
    ((∃ q ∈ (on0 ctx0).ctxs, q.2.who.region = 0) ∨ ∃ g ∈ (on0 ctx0).arb.grids, g.1 / 256 = 0 ∧ (g.2.st = 1 ∨ g.2.st = 2)) ∧ ¬ (∃ q ∈ (placing [] []).ctxs, q.2.who.region = 0) ∧
    ((on0 ctx0).core 0).ctx ≠ none ∧ ((on0 ctx0).core 287).ctx = none ∧ (on0 ctx0).invals.any (·.ring) = false ∧ 6 ≤ (6 : DWord).toNat % 8 ∧ (5 : DWord).toNat % 8 < 6 ∧
    288 ≤ (288 : DWord).toNat % 512 := by decide +kernel
theorem wit_RegionCommands_rising : Tab.rising (living (on0 ctx0)).arb.regions := by simp [Tab.rising, living]

/-- TrustAndPower and BootStatus: a package with power and one without; whichever way the images of a board come out, a clause applies. -/
theorem wit_TrustAndPower : (on0 ctx0).power = true ∧ State.reset.power = false ∧ State.reset.host.phase = 0 := by decide
theorem wit_TrustAndPower_boot : (∃ g, bootImages [1, 5, 3, 4, 2] State.reset.gecko = .ok g) ∨ ∃ kind st, bootImages [1, 5, 3, 4, 2] State.reset.gecko = .error (kind, st) := by
  cases bootImages [1, 5, 3, 4, 2] State.reset.gecko with
  | ok g => exact .inl ⟨g, rfl⟩
  | error e => exact .inr ⟨e.1, e.2, rfl⟩
theorem wit_BootStatus : (on0 ctx0).host.phase < 16 ∧ ({ HostIf.reset with phase := 15, imgstat := 255, failkind := 255, stackok := 255, dieok := 15 } : HostIf).imgstat < 256 := by decide
/-- A boot without images ends; it is READY. -/
theorem pushes_host (l : List Nat) : ∀ s : State, (l.foldl (fun s n => (s.push 0 n .scrubRead).push 0 n .hbmRefresh) s).host = s.host := by
  induction l with
  | nil => intro s; rfl
  | cons a t ih => intro s; exact ih _
theorem bootReady_phase (s : State) : (bootReady s).host.phase = 6 := by
  unfold bootReady
  rw [pushes_host]
  rfl
theorem wit_BootStatus_power (g : Gecko) (h : bootImages bootOrder State.reset.gecko = .ok g) : ∃ t, exec .powerUp State.reset = .next t ∧ t.host.phase = 6 := by
  have e : exec .powerUp State.reset =
      match bootImages bootOrder State.reset.gecko with
      | .ok g => .next (bootReady { State.reset with power := true, host := { State.reset.host with boots := 1 }, gecko := g })
      | .error (kind, st) => .next (bootFailed { State.reset with power := true, host := { State.reset.host with boots := 1 } } kind st) := rfl
  rw [h] at e
  exact ⟨_, e, bootReady_phase _⟩

/-- ManagementInterface: a ready package and one that is not; a region table with and without a valid entry; parts and classes at their bounds. -/
theorem wit_Management : (on0 ctx0).host.phase = 6 ∧ State.reset.host.phase ≠ 6 ∧ (on0 ctx0).host.mbusy = false ∧ ((tabled 0).regionEntry 0).getLsbD 0 = true ∧
    288 * 64 ≤ 288 * 64 ∧ 0x0B < (0x0C00000000000000 : BitVec 64).toNat / 2 ^ 56 ∧ (0x0100000000000000 : BitVec 64).toNat / 2 ^ 56 = 1 ∧ (0x0200000000000000 : BitVec 64).toNat % 2 ^ 52 < 64 ∧
    (on0 ctx0).host.mpart = 0 ∧ (on0 ctx0).host.staged = none ∧ (on0 ctx0).bad = none ∧ 0x25000 ≤ 0x25000 ∧ 4 < 5 ∧ 15 < 16 := by decide +kernel
def bytesOf (r : Except Nat (List Byte)) : Nat := match r with | .ok bs => bs.length | .error _ => 0
theorem wit_Management_object : bytesOf (midxObject (on0 ctx0) 6 1023 0) = 144 ∧ bytesOf (midxObject (on0 ctx0) 1 (288 * 64 - 1) 0) = 16 ∧ 0 + 1 < Nat.max 1 ((144 + 63) / 64) ∧
    Nat.max 1 ((144 + 63) / 64) ≤ 3 := by decide +kernel
/-- Where nothing has been written, a device's table is zeros. -/
theorem devRead_zeros (s : State) (hm : s.mem = []) (hk : s.keyed = []) (hw : s.gecko.worlds = []) (pa : Nat) : ∀ b ∈ (s.devRead whoDevice pa 8).2, b = 0 := by
  intro b hb
  unfold State.devRead at hb
  split at hb
  · simp only at hb
    split at hb
    case isFalse => exact (List.mem_replicate.mp hb).2
    have hb := List.mem_of_mem_drop (List.mem_of_mem_take hb)
    obtain ⟨l, _, hl⟩ := List.mem_flatMap.mp hb
    rw [lineView_plain s hk hw] at hl
    obtain ⟨i, _, rfl⟩ := List.mem_map.mp hl
    simp only [State.byteAt, hm, Memory.byte]
  · exact (List.mem_replicate.mp hb).2
theorem wit_Management_table : ∀ r, r < 4096 → ((on0 ctx0).regionEntry r).getLsbD 0 = false := by
  intro r _
  have h := devRead_zeros (on0 ctx0) rfl rfl rfl (fld (on0 ctx0).host.regtab 15 25 * 2 ^ 15 + 8 * r)
  have z : ((on0 ctx0).devRead whoDevice (fld (on0 ctx0).host.regtab 15 25 * 2 ^ 15 + 8 * r) 8).2 =
      List.replicate ((on0 ctx0).devRead whoDevice (fld (on0 ctx0).host.regtab 15 25 * 2 ^ 15 + 8 * r) 8).2.length 0 := List.eq_replicate_iff.mpr ⟨rfl, h⟩
  unfold State.regionEntry State.devDword
  simp only
  rw [z, dwordAt, List.drop_replicate, List.take_replicate, leNat_zeros]
  rfl

/-- StepRunsTheInstruction: nothing to do; one step due; one core that issues; a bundle that is fetched. -/
def fetching : State := State.reset.withFetchWord 64 0x030C300480040001
theorem wit_Step : ({ State.reset with agenda := [] } : State).choices = [.idle] ∧ State.reset.choices = [.due 0] ∧ State.reset.agenda[0]? = some (0, 0, .powerUp) ∧ fetching.choices = [.issue 0] := by
  decide +kernel
def fetchTask : Ctx := (fetching.ctxs.look 0).getD ctx0
theorem wit_Step_fetch : fetching.mayIssue fetching.subj = true ∧ (fetching.core fetching.subj).ctx = some 0 ∧ fetching.ctx 0 = some fetchTask ∧ fetchTask.trapWait = none ∧
    fetchTask.xf.fq = [] ∧ (fetchBundle { fetching with cur := fetching.subj } 0 fetchTask).1.ctx 0 = some fetchTask := by decide +kernel
def wordsTo (f : Fetched) (p : List Nat → Bool) : Bool := match f with | .words ws => p ws | _ => false
theorem of_wordsTo {f : Fetched} {p : List Nat → Bool} (h : wordsTo f p = true) : ∃ ws, f = .words ws ∧ p ws = true := by
  cases f <;> first | exact ⟨_, rfl, h⟩ | cases h
def oneAddi (ws : List Nat) : Bool :=
  match decodeBundle ws with
  | some (b, _) => b.ops == [(0, .plain (.addi 3 3 4))] && b.reps == 0
  | none => false
theorem wit_Step_words : ∃ ws, (fetchBundle { fetching with cur := fetching.subj } 0 fetchTask).2 = .words ws ∧ oneAddi ws = true :=
  of_wordsTo (f := (fetchBundle { fetching with cur := fetching.subj } 0 fetchTask).2) (p := oneAddi) (by decide +kernel)
/-- Bundles of one slot: ADDI, which acts; a LD whose address is misaligned; a FENCE, which stands last; a source with a load outstanding. -/
theorem wit_Bundles : ∀ p ∈ [(0, (.addi 1 2 3 : Instr)), (0, .ld 1 3 1 false 0)], (bundleOf [(p.1, .plain p.2)]).ops = [(p.1, SlotOp.plain p.2)] ∧ (bundleOf [(p.1, .plain p.2)]).reps = 0 ∧
    (Instr.fields p.2).isSome = true ∧ Instr.standsLast p.2 = false ∧ pointing.regs.rptc = 0 ∧ pointing.regs.st.last = [] ∧ pointing.ph.memq = [] := by decide +kernel
theorem wit_Bundles_more : Instr.standsLast (.fence 0) = true ∧ (Instr.fields (.fence 0)).isSome = true ∧ loading.ph.memq = [load0] ∧ (5 : BitVec 6) ∈ Instr.sources (.addi 1 5 3) ∧ load0.d = 5 := by decide +kernel
def slotState (n : Nat) (i : Instr) : State := { open0 pointing with issue := { Issue.idle with on := true, len := 8, src := some pointing, slot := n, word := lastWord (SlotOp.plain i) } }
def outOf (o : Host.Outcome State Fault Refusal) (f : State → Bool) : Bool := match o with | .next t => f t | _ => false
theorem wit_Bundles_run : outOf (exec (.addi 1 2 3) (slotState 0 (.addi 1 2 3))) (fun t => !t.issue.stall && decide (t.issue.trap = none) && !t.issue.sent) = true ∧
    outOf (exec (.ld 1 3 1 false 0) (slotState 0 (.ld 1 3 1 false 0))) (fun t => !t.issue.stall && decide ((t.issue.trap.map (·.cause)) = some 2) && decide ((open0 pointing).keepAsks t = open0 pointing)) = true := by decide +kernel

/-- NoFailedAccessStays: the package after reset. UnassignedCodes: the first code of each space without an instruction; a header of another version. -/
theorem wit_NoFailedAccessStays : State.reset.bad = none := rfl
theorem wit_UnassignedCodes : 0x2F000000 / 2 ^ 24 % 128 = 0x2F ∧ 0x5C ≤ 0x5C000000 / 2 ^ 24 % 128 ∧ 0x21 ≤ 0x21000000 / 2 ^ 24 % 128 ∧ 0x0C ≤ 0x0C000000 / 2 ^ 24 % 128 ∧ 0x13 ≤ 0x13000000 / 2 ^ 24 % 128 ∧ 2 % 16 ≠ 1 := by decide
/-- DecodeEncodeSlots: a short and a long slot; DecodeEncodeBundles: a bundle of both. -/
def longSub : SlotOp := { x := true, guard := { reg := 9, bit := 2, pol := true }, instr := .sub 5 5 6 false }
theorem wit_DecodeEncodeSlots : SlotOp.wf (.plain (.addi 3 3 4)) = true ∧ (Instr.addi 3 3 4).fitsNoExt = true ∧ encode (.plain (.addi 3 3 4)) = some (.alu, [0x030C3004]) ∧ longSub.wf = true ∧
    encode longSub = some (.alu, [0x82145180, 0x24280000]) := by decide +kernel
def twoOps : Bundle := bundleOf [(0, .plain (.addi 3 3 4)), (1, longSub)]
theorem wit_DecodeEncodeBundles : twoOps.legal = true ∧ twoOps.ops.Pairwise (fun p q => p.1 < q.1) ∧ (∀ p ∈ twoOps.ops, p.1 < 8 ∧ p.2.wf = true ∧ (p.2.x = true ∨ p.2.instr.fitsNoExt = true)) ∧
    twoOps.bytes = 4 + (twoOps.ops.map (fun p => if p.2.x then 8 else 4)).sum := by decide +kernel
/-- ScratchpadAddresses: cores 287 and 288; a slice that is open, and one that is not. -/
theorem wit_ScratchpadAddresses : (0xFE00008FFFFFFF : Nat) / 2 ^ 32 = 0xFE0000 ∧ (0xFE00008FFFFFFF : Nat) % 2 ^ 32 / 2 ^ 23 < 288 ∧ 288 ≤ (0xFE000090000000 : Nat) % 2 ^ 32 / 2 ^ 23 ∧
    (open0 ctx0).sliceAllowed me 0 0x40 .read = true ∧ (open0 ctx0).halfOff 0 0x40 .read ≠ none ∧ (open0 ctx0).sliceAllowed me 287 0 .read = false ∧ Acc.read ≠ Acc.exec := by decide +kernel
end Sys2Proof.Tests
end

section
/-! PROOF. What memory reads after a write (O16). -/

namespace Sys2Proof.Machine

/-- A canonical memory lists nothing below its bound. -/
theorem Memory.byte_eq_zero_of_lt {lo a : Nat} {m : List Host.Cell} (hm : Memory.wfFrom lo m = true) (h : a < lo) : Memory.byte m a = 0 := by
  induction m generalizing lo with
  | nil => rfl
  | cons p m ih =>
    obtain ⟨k, v⟩ := p
    simp only [Memory.wfFrom, Bool.and_eq_true, decide_eq_true_eq] at hm
    obtain ⟨⟨hk, -⟩, htail⟩ := hm
    rw [Memory.byte, if_neg (by omega)]
    exact ih htail (by omega)

/-- Canonical form matters here: an address listed twice would show its second byte once the first is gone. -/
theorem Memory.byte_del_self {lo : Nat} {m : List Host.Cell} (hm : Memory.wfFrom lo m = true) (a : Nat) :
    Memory.byte (Tab.del (α := Byte) m a) a = 0 := by
  induction m generalizing lo with
  | nil => rfl
  | cons p m ih =>
    obtain ⟨k, v⟩ := p
    simp only [Memory.wfFrom, Bool.and_eq_true, decide_eq_true_eq] at hm
    obtain ⟨-, htail⟩ := hm
    unfold Tab.del
    split
    · exact Memory.byte_eq_zero_of_lt htail (by omega)
    · rw [Memory.byte, if_neg ‹_›]
      exact ih htail

theorem Memory.byte_del_other (m : List Host.Cell) {a x : Nat} (h : a ≠ x) : Memory.byte (Tab.del (α := Byte) m a) x = Memory.byte m x := by
  induction m with
  | nil => rfl
  | cons p m ih =>
    obtain ⟨k, v⟩ := p
    unfold Tab.del
    split
    · next hk => simp [Memory.byte, hk, h]
    · simp only [Memory.byte, ih]

theorem Memory.byte_put_self {m : List Host.Cell} (hm : Memory.wf m = true) (a : Nat) (b : Byte) : Memory.byte (Memory.put m a b) a = b := by
  unfold Memory.put Tab.put
  split
  · next hb => rw [hb, Memory.byte_del_self hm]
  · exact Memory.byte_set_self m a b

theorem Memory.byte_put_other (m : List Host.Cell) {a x : Nat} (b : Byte) (h : a ≠ x) : Memory.byte (Memory.put m a b) x = Memory.byte m x := by
  unfold Memory.put Tab.put
  split
  · exact Memory.byte_del_other m h
  · exact Memory.byte_set_other m b h

/-- R7: each byte of the run stands at its own address, and every other address reads as before. -/
theorem Memory.byte_putAll {m : List Host.Cell} (hm : Memory.wf m = true) (a : Nat) (bs : List Byte) (x : Nat) :
    Memory.byte (Memory.putAll m a bs) x = if a ≤ x ∧ x < a + bs.length then bs.getD (x - a) 0 else Memory.byte m x := by
  induction bs generalizing m a with
  | nil => rw [Memory.putAll, if_neg (by simp)]
  | cons b bs ih =>
    rw [Memory.putAll, ih (Memory.wf_put hm a b), List.length_cons]
    rcases Nat.lt_trichotomy x a with hlt | rfl | hgt
    · rw [if_neg (by omega), if_neg (by omega), Memory.byte_put_other m b (by omega)]
    · rw [if_neg (by omega), if_pos (by omega), Memory.byte_put_self hm, Nat.sub_self, List.getD_cons_zero]
    · have hsub : x - a = x - (a + 1) + 1 := by omega
      rw [hsub, List.getD_cons_succ, Memory.byte_put_other m b (by omega)]
      exact if_congr (by omega) rfl rfl

/-- Settles O16, by induction on the run: each byte is one `Memory.put`. -/
theorem memoryReadAfterWrite : Obligations.MemoryReadAfterWrite :=
  fun _ a bs hm => ⟨Memory.wf_writeRun hm a bs, Memory.byte_putAll hm a bs⟩

end Sys2Proof.Machine
end

section
/-! PROOF. The end of trust and of power, the generator, and bring-up (O47, O54). -/

namespace Sys2Proof.Machine

/-! ### Steps that are to come -/

theorem State.due_push (s : State) (delay subj : Nat) (e : Instr) : (s.push delay subj e).due subj e :=
  ⟨s.now + delay, List.mem_append_right _ (List.mem_singleton_self _)⟩

theorem State.due_pushOnce (s : State) (delay subj : Nat) (e : Instr) : (s.pushOnce delay subj e).due subj e := by
  unfold State.pushOnce
  split
  · next h =>
    obtain ⟨⟨at_, u, i⟩, hmem, hx⟩ := List.any_eq_true.mp h
    obtain ⟨rfl, rfl⟩ := of_decide_eq_true hx
    exact ⟨at_, hmem⟩
  · exact s.due_push delay subj e

@[simp] theorem State.pushOnce_gecko (s : State) (delay subj : Nat) (e : Instr) : (s.pushOnce delay subj e).gecko = s.gecko := by
  unfold State.pushOnce
  split <;> rfl

/-- What starting the scrubbing and the refresh of pseudo-channels does: it only adds to the steps to come. -/
theorem foldl_push_scrub_refresh (l : List Nat) (s : State) :
    l.foldl (fun s n => (s.push 0 n .scrubRead).push 0 n .hbmRefresh) s
      = { s with agenda := s.agenda ++ l.flatMap fun n => [(s.now, n, .scrubRead), (s.now, n, .hbmRefresh)] } := by
  induction l generalizing s with
  | nil => simp
  | cons n l ih =>
    rw [List.foldl_cons, ih]
    simp [State.push]

/-! ### Tables and memory -/

theorem Tab.look_map_of_mem {α : Type} (f : Nat → α) {l : List Nat} {k : Nat} (h : k ∈ l) : Tab.look (l.map fun i => (i, f i)) k = some (f k) := by
  induction l with
  | nil => cases h
  | cons i l ih =>
    rw [List.map_cons, Tab.look]
    split
    · next hi => rw [hi]
    · next hi => exact ih ((List.mem_cons.mp h).resolve_left (Ne.symm hi))

/-- A byte whose cell is taken away reads 0. -/
theorem Memory.byte_filter_of_drops {p : Host.Cell → Bool} {a : Nat} (hp : ∀ v, p (a, v) = false) (m : List Host.Cell) :
    Memory.byte (m.filter p) a = 0 := by
  induction m with
  | nil => rfl
  | cons c m ih =>
    obtain ⟨k, v⟩ := c
    rw [List.filter_cons]
    split
    · next hkeep =>
      have hk : k ≠ a := by rintro rfl; simp [hp v] at hkeep
      rw [Memory.byte, if_neg hk, ih]
    · exact ih

/-! ### Bring-up (R6, R446 to R448) -/

/-- R413: whatever the images, a boot that starts them all ends with the certificate made. -/
theorem bootImages_ok_certified {kinds : List Nat} {g0 g : Gecko} (h : bootImages kinds g0 = .ok g) : ∃ g1 : Gecko, g = g1.certify := by
  induction kinds generalizing g0 with
  | nil => exact ⟨g0, (Except.ok.inj h).symm⟩
  | cons k kinds ih =>
    rw [bootImages] at h
    split at h
    · exact ih h
    · cases h

/-- The package once the Gecko pair has power, its boot counted. -/
def State.powered (s : State) : State := { s with power := true, host := { s.host with boots := s.host.boots + 1 } }

theorem execPowerUp_of_power {s : State} (h : s.power = true) : execPowerUp s = .next s := if_pos (.inl h)

theorem execPowerUp_ok {s : State} {g : Gecko} (hp : s.power = false) (hrom : s.host.phase = 0) (h : bootImages bootOrder s.gecko = .ok g) :
    execPowerUp s = .next (bootReady { s.powered with gecko := g }) := by
  simp only [execPowerUp, hp, hrom, h]
  rfl

theorem execPowerUp_error {s : State} {kind st : Nat} (hp : s.power = false) (hrom : s.host.phase = 0)
    (h : bootImages bootOrder s.gecko = .error (kind, st)) : execPowerUp s = .next (bootFailed s.powered kind st) := by
  simp only [execPowerUp, hp, hrom, h]
  rfl

/-- What the last phases of a boot leave alone. -/
theorem bootReady_frame (s : State) :
    (bootReady s).power = s.power ∧ (bootReady s).gecko = s.gecko ∧ (bootReady s).mem = s.mem ∧ (bootReady s).bad = s.bad := by
  unfold bootReady
  rw [foldl_push_scrub_refresh]
  exact ⟨rfl, rfl, rfl, rfl⟩

theorem bootReady_ready (s : State) : (bootReady s).host.phase = 6 := by
  unfold bootReady
  rw [foldl_push_scrub_refresh]
  rfl

theorem bootReady_core (s : State) {c : Nat} (h : c < 288) : (bootReady s).core c = released s.host.boots c := by
  have hcores : (bootReady s).cores = (List.range 288).map fun c => (c, released s.host.boots c) := by
    unfold bootReady
    rw [foldl_push_scrub_refresh]
    rfl
  rw [State.core, Tab.val, hcores, Tab.look_map_of_mem _ (List.mem_range.mpr h), Option.getD_some]

theorem released_fenced_eq_false_iff (boot core : Nat) :
    (released boot core).fenced = false ↔ ∀ q, q < 256 → Config.katMatches boot core q = true := by
  simp [released]

/-- R446: a compute die is enabled exactly when its link has trained. -/
theorem bootReady_dieen_iff (s : State) {d : Nat} (h : d < 4) : ((bootReady s).die d).dieen = true ↔ d ∉ (bootReady s).linksDown := by
  have hdies : (bootReady s).dies = (List.range 5).map fun d =>
      (d, { Die.reset with
        dieen := decide (d ∈ (List.range 4).filter fun d => !(bootReady s).linksDown.contains d), releasedAt := s.now }) := by
    unfold bootReady
    rw [foldl_push_scrub_refresh]
    rfl
  have hd : d ∈ List.range 5 := List.mem_range.mpr (by omega)
  rw [State.die, Tab.val, hdies, Tab.look_map_of_mem _ hd, Option.getD_some]
  simp [h]

/-- R447: the budget period and the frame cycle have begun. -/
theorem bootReady_due (s : State) : (bootReady s).due 0 .budgetPeriod ∧ (bootReady s).due 0 .frameCycleBoundary := by
  unfold bootReady State.due
  rw [foldl_push_scrub_refresh]
  exact ⟨⟨s.now + periodCycles, by simp [State.push]⟩, ⟨s.now, by simp [State.push]⟩⟩

/-- Bring-up reads no table, so no table access fails in it. -/
theorem execPowerUp_bad (s : State) : ∃ t, execPowerUp s = .next t ∧ t.bad = s.bad := by
  by_cases hidle : s.power = true ∨ s.host.phase ≠ 0
  · exact ⟨s, if_pos hidle, rfl⟩
  · obtain ⟨hp, hrom⟩ : s.power = false ∧ s.host.phase = 0 := by simpa using hidle
    cases hboot : bootImages bootOrder s.gecko with
    | ok g =>
      obtain ⟨-, -, -, hbad⟩ := bootReady_frame { s.powered with gecko := g }
      exact ⟨_, execPowerUp_ok hp hrom hboot, hbad⟩
    | error e => exact ⟨_, execPowerUp_error hp hrom hboot, rfl⟩

/-! ### The generator, the mismatch and the loss of power (R6, R410, R422) -/

theorem execEntropyFailure_failed (s : State) :
    ∃ t ok, execEntropyFailure s = .next t ∧ t.gecko.rngOk = false ∧ t.due 0 (.entropyReseed ok) :=
  ⟨_, _, rfl, by rw [State.pushOnce_gecko], State.due_pushOnce _ _ _ _⟩

theorem execEntropyReseed_retry (s : State) : ∃ t ok, execEntropyReseed false s = .next t ∧ t.gecko.rngOk = false ∧
    (s.now + usCycles, 0, .entropyReseed ok) ∈ t.agenda :=
  ⟨_, _, rfl, rfl, List.mem_append_right _ (List.mem_singleton_self _)⟩

theorem execGeckoMismatch_held {s : State} (hp : s.power = true) :
    ∃ t, execGeckoMismatch s = .next t ∧ t.gecko.stopped = true ∧ t.power = true ∧ t.host.phase = 0 ∧ t.agenda = [] ∧ t.ctxs = [] ∧ t.cores = [] ∧
      t.mem = s.mem ∧ execPowerUp t = .next t :=
  ⟨_, if_neg (by simp [hp]), rfl, rfl, rfl, rfl, rfl, rfl, rfl, execPowerUp_of_power rfl⟩

theorem execPowerRemoved_fuses (s : State) :
    ∃ t, execPowerRemoved s = .next t ∧ t.power = false ∧ t.gecko.svn = s.gecko.svn ∧ t.gecko.revoked = s.gecko.revoked ∧ t.gecko.ringKey = none ∧
      t.gecko.worlds = [] ∧ t.ctxs = [] ∧ ∀ a, a < 2 ^ 64 → t.byteAt a = 0 :=
  ⟨_, rfl, rfl, rfl, rfl, rfl, rfl, rfl, fun _ ha => Memory.byte_filter_of_drops (fun _ => decide_eq_false (Nat.not_le.mpr ha)) s.mem⟩

/-! ### Trust and power, and the first step after reset -/

/-- Settles O47: the reseed, the mismatch and the loss of power by their lemmas, bring-up from what `bootReady` and `bootFailed` leave. -/
theorem trustAndPower : Obligations.TrustAndPower := by
  intro s
  refine ⟨execEntropyFailure_failed s, rfl, execEntropyReseed_retry s, execGeckoMismatch_held, execPowerRemoved_fuses s, fun hp hrom => ⟨?_, ?_⟩⟩
  · intro g hg
    let u : State := { s.powered with gecko := g }
    obtain ⟨hpower, hgecko, hmem, -⟩ := bootReady_frame u
    obtain ⟨hbudget, hframe⟩ := bootReady_due u
    exact ⟨bootReady u, execPowerUp_ok hp hrom hg, bootReady_ready u, hpower, hgecko, bootImages_ok_certified hg,
      fun c hc => by rw [bootReady_core u hc]; exact released_fenced_eq_false_iff _ c, fun d hd => bootReady_dieen_iff u hd, hbudget, hframe, hmem⟩
  · intro kind st hfail
    exact ⟨_, execPowerUp_error hp hrom hfail, rfl, rfl, rfl, rfl, rfl⟩

/-- R441: before READY every register but DEVIF and BOOTSTAT reads 0. -/
theorem State.mgmtRead_of_not_ready {s : State} (h : s.hostReady = false) {off : Nat} (hdevif : off ≠ 0) (hboot : off ≠ 8) : s.mgmtRead off = 0 := by
  simp only [State.mgmtRead, hdevif, hboot, h, if_true, if_false]

theorem reset_choices : State.reset.choices = [.due 0] := by decide

/-- The first step after reset is the power-up, and it ends without a failed table access. -/
theorem step_reset : step State.reset = execPowerUp { State.reset with agenda := [] } := by
  have hpick : State.reset.pick = (.due 0, State.reset) := by simp only [State.pick, reset_choices]
  obtain ⟨t, hup, hbad⟩ := execPowerUp_bad { State.reset with agenda := [] }
  calc step State.reset
      = checked (execPowerUp { State.reset with agenda := [] }) := by rw [step, hpick]; rfl
    _ = fin t := by rw [hup]; rfl
    _ = .next t := fin_ok hbad
    _ = execPowerUp { State.reset with agenda := [] } := hup.symm

/-- Settles O54: the fields are those of `State.reset`, and the first step is `step_reset`. -/
theorem resetState : Obligations.ResetState :=
  ⟨rfl, rfl, rfl, rfl, rfl, rfl, rfl, rfl, rfl, rfl, reset_wf, reset_choices, step_reset, fun _ => State.mgmtRead_of_not_ready rfl⟩

end Sys2Proof.Machine
end

section
/-! PROOF. Scratchpad addresses (O59), and where a walk's leaf stands among the cached leaves (O26). -/

namespace Sys2Proof.Machine

/-! ### Scratchpad addresses (R11, R15) -/

theorem spaceOf_scratchpad {a : Nat} (h : a / 2 ^ 32 = 0xFE0000) : spaceOf a = 1 := by
  have hlo : ¬ 2 ^ 56 ≤ a := by omega
  have hpaged : ¬ a < 2 ^ 55 := by omega
  have htop : a / 2 ^ 48 = 0xFE := by omega
  have hoff : a % 2 ^ 48 < 2 ^ 32 := by omega
  rw [spaceOf, if_neg hlo, if_neg hpaged, if_pos htop, if_pos hoff]

theorem translate_scratchpad (s : State) (w : Who) (env : Env) {acc : Acc} {a : Nat} (n : Nat) (hacc : acc ≠ .exec) (h : a / 2 ^ 32 = 0xFE0000) :
    translate s w env acc a n = (s, translateSlice s w acc a) := by
  simp only [translate, spaceOf_scratchpad h, if_neg hacc]

/-- Settles O59: what is left of `translate` is `translateSlice`, one branch of it for each clause. -/
theorem scratchpadAddresses : Obligations.ScratchpadAddresses := by
  intro s w env acc a n hacc hspace
  have hcore : a / 2 ^ 23 % 512 = a % 2 ^ 32 / 2 ^ 23 := by omega
  rw [translate_scratchpad s w env n hacc hspace, translateSlice, hcore]
  dsimp only
  refine ⟨fun hout => ?_, fun hin hdenied => ?_, fun hin hadmitted hhalf => ?_⟩
  · rw [if_pos hout]
  · rw [if_neg (by omega), if_pos hdenied]
  · have hsome : ¬ (s.halfOff (a % 2 ^ 32 / 2 ^ 23) (a % 2 ^ 23) acc).isNone = true := mt Option.isNone_iff_eq_none.mp hhalf
    rw [if_neg (by omega), if_neg (ne_false_of_eq_true hadmitted), if_neg hsome]

/-! ### A walk's leaf among the leaves of all caches (R26, R27) -/

/-- A leaf in core 0's cache. -/
def coreLeaf : Tlb := { site := 0, world := 0, asn := 0, va := 1, level := 0, leaf := 0xCF, addr := 0x4000 }

/-- Cluster 5 of die 0 waits for page 0. -/
def pageWalk : Walk := { req := 5, world := 0, asn := 0, root := 0x1000, va := 0, acc := 0, joined := [], stale := false }

/-- The leaf of level 2 that maps page 0, accessed and dirty before. -/
def pageLeaf : Leaf := { level := 2, value := 0xCF, addr := 0x2000 }

/-- The walk of `pageWalk` is under way, both entries it reads are in the die's walk cache, and core 0's cache holds a leaf. -/
def walkingBesideLeaf : State := { State.reset with
  subj := 0
  dies := [(0, { Die.reset with walks := [pageWalk] })]
  walkc := [{ site := 0, world := 0, asn := 0, va := 0, level := 3, leaf := 0x2001, addr := 0x1000 },
    { site := 0, world := 0, asn := 0, va := 0, level := 2, leaf := 0xCF, addr := 0x2000 }]
  tlbs := [coreLeaf] }

/-- The cache of cluster 5 holds the walk's leaf after WALK_COMPLETE, behind the leaf of core 0's cache. -/
theorem walkingBesideLeaf_sites :
    ∃ t, exec .walkComplete walkingBesideLeaf = .next t ∧ t.tlbs.map (·.site) = [0, 1005] := ⟨_, rfl, by decide +kernel⟩

/-- Refutes O26: its last clause wants the leaf of a completed walk at the head of `tlbs`. `tlbs` holds the leaves of every cache, and `keepTlbs`
puts the leaves of the other caches before those of the cache filled: in `walkingBesideLeaf` the head is core 0's leaf. -/
theorem not_invalidationsAndWalks : ¬ Obligations.InvalidationsAndWalks := by
  intro hall
  obtain ⟨-, hwalks⟩ := hall
  obtain ⟨-, -, -, -, hcomplete⟩ := hwalks walkingBesideLeaf
  obtain ⟨hends, -⟩ := hcomplete pageWalk [] rfl
  obtain ⟨t, hexec, -, -, -, -, hfills⟩ := hends walkingBesideLeaf pageLeaf walkingBesideLeaf 0xCF (by decide +kernel) (by decide)
    (fun _ => by decide +kernel) (fun hpage => absurd (by decide) hpage)
  obtain ⟨e, hhead, hsite, -⟩ := hfills rfl (.inr (by decide))
  obtain ⟨u, hu, hsites⟩ := walkingBesideLeaf_sites
  obtain rfl : t = u := Host.Outcome.next.inj (hexec.symm.trans hu)
  have hzero : e.site = 0 := by
    have hfirst : t.tlbs.head?.map (·.site) = some 0 := by rw [← List.head?_map, hsites]; rfl
    simpa [hhead] using hfirst
  rw [hzero] at hsite
  exact absurd hsite (by decide)

end Sys2Proof.Machine
end

section
/-! PROOF. Tables with rising keys, fields of a double word, and a free number: what the proofs about the fabric (O40, O41) need of them. -/

namespace Sys2Proof.Machine

/-! ### Tables -/

theorem Tab.look_eq_none_of_forall_lt {α : Type} {t : Tab α} {n : Nat} (h : ∀ p ∈ t, n < p.1) : Tab.look t n = none := by
  induction t with
  | nil => rfl
  | cons p t ih =>
    obtain ⟨k, v⟩ := p
    obtain ⟨hk, ht⟩ := List.forall_mem_cons.mp h
    rw [Tab.look, if_neg (Nat.ne_of_gt hk), ih ht]

theorem Tab.look_of_mem {α : Type} {t : Tab α} {n : Nat} {a : α} (ht : t.rising) (h : (n, a) ∈ t) : Tab.look t n = some a := by
  induction t with
  | nil => cases h
  | cons p t ih =>
    obtain ⟨k, v⟩ := p
    obtain ⟨hfirst, hrest⟩ := List.pairwise_cons.mp ht
    rcases List.mem_cons.mp h with heq | hmem
    · cases heq
      rw [Tab.look, if_pos rfl]
    · rw [Tab.look, if_neg (Nat.ne_of_lt (hfirst _ hmem)), ih hrest hmem]

theorem Tab.look_del_self {α : Type} {t : Tab α} (ht : t.rising) (n : Nat) : Tab.look (Tab.del t n) n = none := by
  induction t with
  | nil => rfl
  | cons p t ih =>
    obtain ⟨k, v⟩ := p
    obtain ⟨hfirst, hrest⟩ := List.pairwise_cons.mp ht
    unfold Tab.del
    split
    · next hk => exact Tab.look_eq_none_of_forall_lt fun q hq => hk ▸ hfirst q hq
    · next hk => rw [Tab.look, if_neg hk, ih hrest]

theorem Tab.look_del_other {α : Type} (t : Tab α) {n m : Nat} (h : n ≠ m) : Tab.look (Tab.del t n) m = Tab.look t m := by
  induction t with
  | nil => rfl
  | cons p t ih =>
    obtain ⟨k, v⟩ := p
    unfold Tab.del
    split
    · next hk => rw [Tab.look, if_neg (hk ▸ h)]
    · simp only [Tab.look, ih]

theorem Tab.length_set_le {α : Type} (t : Tab α) (n : Nat) (a : α) : (Tab.set t n a).length ≤ t.length + 1 := by
  induction t with
  | nil => simp [Tab.set]
  | cons p t ih =>
    obtain ⟨k, v⟩ := p
    unfold Tab.set
    split
    · simp
    · split <;> simp [ih]

/-- Rising keys matter here: in another table the entry could be added before the one that `look` finds. -/
theorem Tab.length_set_of_look {α : Type} {t : Tab α} {n : Nat} {a : α} (ht : t.rising) (h : Tab.look t n = some a) (b : α) :
    (Tab.set t n b).length = t.length := by
  induction t with
  | nil => cases h
  | cons p t ih =>
    obtain ⟨k, v⟩ := p
    obtain ⟨hfirst, hrest⟩ := List.pairwise_cons.mp ht
    rw [Tab.look] at h
    unfold Tab.set
    split at h
    · next hk => rw [if_neg (by omega), if_pos hk, List.length_cons, List.length_cons]
    · next hk =>
      have hle : ¬ n < k := by
        intro hlt
        rw [Tab.look_eq_none_of_forall_lt fun q hq => Nat.lt_trans hlt (hfirst q hq)] at h
        cases h
      rw [if_neg hle, if_neg hk, List.length_cons, List.length_cons, ih hrest h]

/-! ### Fields of a double word (R8) -/

/-- The parts of a double word with a field replaced: what lies below it, the field, what lies above it. -/
theorem setFld_toNat (w : DWord) {lo n : Nat} (v : Nat) (h : lo + n ≤ 64) :
    (setFld w lo n v).toNat = w.toNat % 2 ^ lo + 2 ^ lo * (v % 2 ^ n + 2 ^ n * (w.toNat / 2 ^ (lo + n))) := by
  have hlow := Nat.mod_add_div w.toNat (2 ^ lo)
  have hhigh := Nat.mod_add_div (w.toNat / 2 ^ lo) (2 ^ n)
  rw [Nat.div_div_eq_div_mul, ← pow_add] at hhigh
  have hsplit : w.toNat = w.toNat % 2 ^ lo + 2 ^ lo * (w.toNat / 2 ^ lo % 2 ^ n) + 2 ^ lo * (2 ^ n * (w.toNat / 2 ^ (lo + n))) := by
    rw [Nat.add_assoc, ← Nat.mul_add, hhigh, hlow]
  have hvalue : w.toNat - w.toNat / 2 ^ lo % 2 ^ n * 2 ^ lo + v % 2 ^ n * 2 ^ lo
      = w.toNat % 2 ^ lo + 2 ^ lo * (v % 2 ^ n + 2 ^ n * (w.toNat / 2 ^ (lo + n))) := by
    rw [Nat.mul_comm (w.toNat / 2 ^ lo % 2 ^ n), Nat.mul_comm (v % 2 ^ n), Nat.mul_add]
    omega
  have hbound : w.toNat % 2 ^ lo + 2 ^ lo * (v % 2 ^ n + 2 ^ n * (w.toNat / 2 ^ (lo + n))) < 2 ^ 64 := by
    have hlo : w.toNat % 2 ^ lo < 2 ^ lo := Nat.mod_lt _ (Nat.two_pow_pos lo)
    have hv : v % 2 ^ n < 2 ^ n := Nat.mod_lt _ (Nat.two_pow_pos n)
    have htop : w.toNat / 2 ^ (lo + n) < 2 ^ (64 - (lo + n)) := by
      rw [Nat.div_lt_iff_lt_mul (Nat.two_pow_pos _), ← pow_add, Nat.sub_add_cancel h]
      exact w.isLt
    calc w.toNat % 2 ^ lo + 2 ^ lo * (v % 2 ^ n + 2 ^ n * (w.toNat / 2 ^ (lo + n)))
        < 2 ^ lo * (v % 2 ^ n + 2 ^ n * (w.toNat / 2 ^ (lo + n)) + 1) := by rw [Nat.mul_add _ _ 1]; omega
      _ ≤ 2 ^ lo * (2 ^ n * (w.toNat / 2 ^ (lo + n) + 1)) := Nat.mul_le_mul_left _ (by rw [Nat.mul_add]; omega)
      _ ≤ 2 ^ lo * (2 ^ n * 2 ^ (64 - (lo + n))) := Nat.mul_le_mul_left _ (Nat.mul_le_mul_left _ htop)
      _ = 2 ^ 64 := by rw [← pow_add, ← pow_add]; congr 1; omega
  rw [setFld, BitVec.toNat_ofNat, hvalue, Nat.mod_eq_of_lt hbound]

theorem fld_setFld_self (w : DWord) {lo n : Nat} (v : Nat) (h : lo + n ≤ 64) : fld (setFld w lo n v) lo n = v % 2 ^ n := by
  rw [fld, setFld_toNat w v h, Nat.add_mul_div_left _ _ (Nat.two_pow_pos lo), Nat.div_eq_of_lt (Nat.mod_lt _ (Nat.two_pow_pos lo)), Nat.zero_add,
    Nat.add_mul_mod_self_left, Nat.mod_mod]

theorem fld_setFld_above (w : DWord) {lo n lo' m : Nat} (v : Nat) (h : lo + n ≤ 64) (hlo : lo + n ≤ lo') :
    fld (setFld w lo n v) lo' m = fld w lo' m := by
  have hsplit : 2 ^ lo' = 2 ^ (lo + n) * 2 ^ (lo' - (lo + n)) := by rw [← pow_add, Nat.add_sub_cancel' hlo]
  have hkeep : (setFld w lo n v).toNat / 2 ^ (lo + n) = w.toNat / 2 ^ (lo + n) := by
    rw [setFld_toNat w v h, pow_add, ← Nat.div_div_eq_div_mul, Nat.add_mul_div_left _ _ (Nat.two_pow_pos lo),
      Nat.div_eq_of_lt (Nat.mod_lt _ (Nat.two_pow_pos lo)), Nat.zero_add, Nat.add_mul_div_left _ _ (Nat.two_pow_pos n),
      Nat.div_eq_of_lt (Nat.mod_lt _ (Nat.two_pow_pos n)), Nat.zero_add]
  rw [fld, fld, hsplit, ← Nat.div_div_eq_div_mul, ← Nat.div_div_eq_div_mul, hkeep]

theorem fld_setFld_below (w : DWord) {lo n lo' m : Nat} (v : Nat) (h : lo + n ≤ 64) (hlo : lo' + m ≤ lo) :
    fld (setFld w lo n v) lo' m = fld w lo' m := by
  have hsplit : 2 ^ lo = 2 ^ (lo' + m) * 2 ^ (lo - (lo' + m)) := by rw [← pow_add, Nat.add_sub_cancel' hlo]
  have hkeep : (setFld w lo n v).toNat % 2 ^ (lo' + m) = w.toNat % 2 ^ (lo' + m) := by
    rw [setFld_toNat w v h, hsplit, Nat.mul_assoc, Nat.add_mul_mod_self_left, Nat.mod_mul_right_mod]
  rw [fld, fld, ← Nat.mod_mul_right_div_self, ← Nat.mod_mul_right_div_self, ← pow_add, hkeep]

/-! ### A free number -/

/-- Among more numbers than are taken there is a free one. -/
theorem exists_find?_range_of_length_lt {taken : List Nat} {n : Nat} {free : Nat → Bool} (hfree : ∀ k, free k = false → k ∈ taken)
    (hlen : taken.length < n) : ∃ k, (List.range n).find? free = some k ∧ k < n ∧ free k = true := by
  cases hfind : (List.range n).find? free with
  | some k => exact ⟨k, rfl, List.mem_range.mp (List.mem_of_find?_eq_some hfind), List.find?_some hfind⟩
  | none =>
    have hall : List.range n ⊆ taken := fun k hk => hfree k (by simpa using List.find?_eq_none.mp hfind k hk)
    have hle := (List.nodup_range.subperm hall).length_le
    rw [List.length_range] at hle
    omega

end Sys2Proof.Machine
end

section
/-! PROOF. What sending on the fabric leaves alone, and what a change of one connection, rank or request leaves alone (O40, O41). -/

namespace Sys2Proof.Machine

/-! ### Sending -/

/-- From `s` to `t` something may have been sent: ports, messages, tokens and the counter of free values may differ, and steps to come may have been
added; memory, tasks and the rest of the Midfield die are as they were. -/
structure State.Sends (s t : State) : Prop where
  mem : t.mem = s.mem
  ctxs : t.ctxs = s.ctxs
  now : t.now = s.now
  pkg : t.pkg = s.pkg
  mid : t.mid = { s.mid with ports := t.mid.ports }
  agenda : s.agenda ⊆ t.agenda

namespace State.Sends

theorem refl (s : State) : s.Sends s := ⟨rfl, rfl, rfl, rfl, rfl, List.Subset.refl _⟩

theorem trans {s t u : State} (h : s.Sends t) (g : t.Sends u) : s.Sends u where
  mem := g.mem.trans h.mem
  ctxs := g.ctxs.trans h.ctxs
  now := g.now.trans h.now
  pkg := g.pkg.trans h.pkg
  mid := by rw [g.mid, h.mid]
  agenda := List.Subset.trans h.agenda g.agenda

theorem conns {s t : State} (h : s.Sends t) : t.mid.conns = s.mid.conns := by rw [h.mid]
theorem reqs {s t : State} (h : s.Sends t) : t.mid.reqs = s.mid.reqs := by rw [h.mid]

theorem rank {s t : State} (h : s.Sends t) (job rank : Nat) : t.rank job rank = s.rank job rank :=
  by rw [State.rank, h.mid]; rfl

theorem due {s t : State} (h : s.Sends t) {subj : Nat} {i : Instr} (hdue : s.due subj i) : t.due subj i :=
  hdue.imp fun _ hmem => h.agenda hmem

/-- Steps that each only send, one after the other. -/
theorem foldl {α : Type} {f : State → α → State} (hf : ∀ (s : State) a, s.Sends (f s a)) (l : List α) (s : State) : s.Sends (l.foldl f s) := by
  induction l generalizing s with
  | nil => exact refl s
  | cons a l ih => exact (hf s a).trans (ih (f s a))

theorem push (s : State) (delay subj : Nat) (e : Instr) : s.Sends (s.push delay subj e) :=
  ⟨rfl, rfl, rfl, rfl, rfl, List.subset_append_left _ _⟩

theorem pushOnce (s : State) (delay subj : Nat) (e : Instr) : s.Sends (s.pushOnce delay subj e) := by
  unfold State.pushOnce
  split
  · exact refl s
  · exact push s delay subj e

theorem updPort (s : State) (p : Nat) (f : Port → Port) : s.Sends (s.updPort p f) := ⟨rfl, rfl, rfl, rfl, rfl, List.Subset.refl _⟩

theorem message (s : State) (o : List (Nat × List Byte)) : s.Sends { s with out := o } := ⟨rfl, rfl, rfl, rfl, rfl, List.Subset.refl _⟩

theorem fresh (s : State) : s.Sends s.fresh.2 := ⟨rfl, rfl, rfl, rfl, rfl, List.Subset.refl _⟩

theorem chargeFab (s : State) (r n : Nat) : s.Sends (s.chargeFab r n) := by
  unfold State.chargeFab State.charge
  split
  · exact refl s
  · exact ⟨rfl, rfl, rfl, rfl, rfl, List.Subset.refl _⟩

theorem chargeAny (s : State) (r : Option Nat) (n : Nat) : s.Sends (r.elim s fun g => s.chargeFab g n) := by
  cases r with
  | none => exact refl s
  | some g => exact chargeFab s g n

theorem emitFlit (s : State) (p : Nat) (bs : List Byte) : s.Sends (Machine.emitFlit s p bs) := by
  unfold Machine.emitFlit
  dsimp only
  split
  · exact message s _
  · exact (message s _).trans (updPort _ _ _)

theorem sendReady (s : State) (p : Nat) : s.Sends (Machine.sendReady s p) := by
  unfold Machine.sendReady
  dsimp only
  split
  · exact refl s
  · exact (((updPort s p _).trans (foldl (fun _ _ => emitFlit _ _ _) _ _)).trans (push _ _ _ _)).trans (push _ _ _ _)

theorem queueFlit (s : State) (p vc dpkg : Nat) (head : Bool) (payload : List Byte) : s.Sends (Machine.queueFlit s p vc dpkg head payload) :=
  (updPort s p _).trans (sendReady _ _)

theorem queueUnits (s : State) (p vc dpkg : Nat) (bs : List Byte) : s.Sends (Machine.queueUnits s p vc dpkg bs) :=
  foldl (fun _ _ => queueFlit _ _ _ _ _ _) _ s

theorem sendTxn (s : State) (p dpkg : Nat) (t : Txn) : s.Sends (Machine.sendTxn s p dpkg t) := by
  unfold Machine.sendTxn
  split
  · exact push _ _ _ _
  · split
    · exact refl s
    · split
      · exact message s _
      · exact queueUnits _ _ _ _ _

theorem connPort (s : State) (c : Conn) (t : Txn) : s.Sends (s.connPort c t).2 := by
  unfold State.connPort
  dsimp only
  split
  · exact refl s
  · split
    · exact refl s
    · exact fresh s

theorem sendAnswer (s : State) (port : Nat) (c : Conn) (t : Txn) : s.Sends (Machine.sendAnswer s port c t) := by
  unfold Machine.sendAnswer
  dsimp only
  split
  · exact sendTxn _ _ _ _
  · exact (chargeFab s _ _).trans (sendTxn _ _ _ _)

theorem kickHeld (s : State) (k : Nat) : s.Sends (Machine.kickHeld s k) := by
  unfold Machine.kickHeld
  split
  · exact refl s
  · dsimp only
    split
    · exact pushOnce _ _ _ _
    · exact refl s

theorem kickRank (s : State) (job rank : Nat) : s.Sends (Machine.kickRank s job rank) := by
  unfold Machine.kickRank
  refine foldl (fun s p => ?_) _ s
  obtain ⟨k, c⟩ := p
  dsimp only
  split
  · exact pushOnce _ _ _ _
  · exact refl s

end State.Sends

/-- A transaction for this package itself arrives as the step its OP calls for. -/
theorem sendTxn_selfPort (s : State) (dpkg : Nat) (t : Txn) : sendTxn s selfPort dpkg t = s.push 0 0 (arrival selfPort s.pkg t) := if_pos rfl

/-! ### One connection, one request, one rank -/

theorem State.updConn_eq {s : State} {k : Nat} {c : Conn} (h : s.mid.conns.look k = some c) (f : Conn → Conn) :
    s.updConn k f = { s with mid := { s.mid with conns := s.mid.conns.set k (f c) } } := by
  rw [State.updConn, h]

theorem State.updReq_eq {s : State} {k : Nat} {r : Req} (h : s.mid.reqs.look k = some r) (f : Req → Req) :
    s.updReq k f = { s with mid := { s.mid with reqs := s.mid.reqs.set k (f r) } } := by
  rw [State.updReq, h]

/-- What a change of one connection changes: nothing but the connections. -/
theorem State.updConn_frame (s : State) (k : Nat) (f : Conn → Conn) : ∃ t, s.updConn k f = { s with mid := { s.mid with conns := t } } := by
  unfold State.updConn
  split
  · exact ⟨_, rfl⟩
  · exact ⟨s.mid.conns, rfl⟩

theorem State.updConn_keeps (s : State) (k : Nat) (f : Conn → Conn) :
    (s.updConn k f).mem = s.mem ∧ (s.updConn k f).ctxs = s.ctxs ∧ (s.updConn k f).pkg = s.pkg ∧ (s.updConn k f).now = s.now := by
  obtain ⟨t, ht⟩ := s.updConn_frame k f
  rw [ht]
  exact ⟨rfl, rfl, rfl, rfl⟩

/-- What a change of one request changes: nothing but the requests. -/
theorem State.updReq_frame (s : State) (k : Nat) (f : Req → Req) : ∃ t, s.updReq k f = { s with mid := { s.mid with reqs := t } } := by
  unfold State.updReq
  split
  · exact ⟨_, rfl⟩
  · exact ⟨s.mid.reqs, rfl⟩

@[simp] theorem State.rank_updRank (s : State) (job rank : Nat) (f : RankEnt → RankEnt) :
    (s.updRank job rank f).rank job rank = f (s.rank job rank) := by
  simp [State.updRank, State.rank, Tab.val]

end Sys2Proof.Machine
end

section
/-! PROOF. Ranks are written and fenced, connections open and close (O41). -/

namespace Sys2Proof.Machine

/-! ### What leaves the rank table alone -/

@[simp] theorem State.updConn_ranks (s : State) (k : Nat) (f : Conn → Conn) : (s.updConn k f).mid.ranks = s.mid.ranks := by
  obtain ⟨t, ht⟩ := s.updConn_frame k f
  rw [ht]

@[simp] theorem State.updReq_ranks (s : State) (k : Nat) (f : Req → Req) : (s.updReq k f).mid.ranks = s.mid.ranks := by
  obtain ⟨t, ht⟩ := s.updReq_frame k f
  rw [ht]

@[simp] theorem spillConns_ranks (s : State) : (spillConns s).mid.ranks = s.mid.ranks := by
  unfold spillConns
  dsimp only
  split
  · rfl
  · split <;> simp

/-- An open is sent: the fabric carries it, the connection is being opened, and the open's time-out is due. -/
theorem sendOpen_eq {s : State} {k : Nat} {c : Conn} (h : s.mid.conns.look k = some c) (n : Nat) : ∃ u, s.Sends u ∧
    sendOpen s k n = (u.updConn k fun c => { c with st := .opening n }).push (attemptWait 2 n) 0 (.connopenTimeout k n) := by
  unfold sendOpen
  rw [h]
  dsimp only
  refine ⟨_, ?_, rfl⟩
  split
  · exact (State.Sends.connPort s c _).trans (State.Sends.sendTxn _ _ _ _)
  · exact State.Sends.connPort s c _

theorem sendOpen_ranks (s : State) (k n : Nat) : (sendOpen s k n).mid.ranks = s.mid.ranks := by
  cases h : s.mid.conns.look k with
  | none => simp [sendOpen, h]
  | some c =>
    obtain ⟨u, hsends, hopen⟩ := sendOpen_eq h n
    rw [hopen, State.push_mid, State.updConn_ranks, hsends.mid]

theorem openConn_ranks (s : State) (job rank : Nat) : (openConn s job rank).1.mid.ranks = s.mid.ranks := by
  unfold openConn
  dsimp only
  split
  · rw [spillConns_ranks]
  · rw [sendOpen_ranks, spillConns_ranks]

theorem enqueue_ranks (s : State) (k : Nat) : (enqueue s k).mid.ranks = s.mid.ranks := by
  unfold enqueue
  split
  · rfl
  · dsimp only
    split
    · simp
    · split
      · simp
      · simp [openConn_ranks]

theorem foldl_ranks {α : Type} {f : State → α → State} (hf : ∀ s a, (f s a).mid.ranks = s.mid.ranks) (l : List α) (s : State) :
    (l.foldl f s).mid.ranks = s.mid.ranks := by
  induction l generalizing s with
  | nil => rfl
  | cons a l ih => rw [List.foldl_cons, ih, hf]

theorem reroute_ranks (s : State) (k : Nat) : (reroute s k).mid.ranks = s.mid.ranks := by
  unfold reroute
  split
  · rfl
  · rw [State.push_mid, foldl_ranks enqueue_ranks, State.updConn_ranks]

/-! ### Ranks (R34 to R36, R132) -/

theorem execDestTimeout_idle {s : State} {job rank : Nat} (h : (s.rank job rank).outst = 0) : execDestTimeout job rank s = .next s := by
  rw [execDestTimeout, if_pos h]

theorem execDestTimeout_early {s : State} {job rank : Nat} (h : (s.rank job rank).outst ≠ 0)
    (hearly : s.now < s.mid.destLast.val 0 (rankKey job rank) + fld s.mid.fabtime 32 20 * usCycles) :
    execDestTimeout job rank s =
      .next (s.push (s.mid.destLast.val 0 (rankKey job rank) + fld s.mid.fabtime 32 20 * usCycles - s.now) 0 (.destTimeout job rank)) := by
  rw [execDestTimeout, if_neg h, if_pos hearly]

theorem execDestTimeout_fences {s : State} {job rank : Nat} (h : (s.rank job rank).outst ≠ 0)
    (hover : s.mid.destLast.val 0 (rankKey job rank) + fld s.mid.fabtime 32 20 * usCycles ≤ s.now) :
    ∃ t, execDestTimeout job rank s = .next t ∧ t.rank job rank = { s.rank job rank with fenced := true } ∧ t.mid.conns = s.mid.conns ∧
      t.mid.reqs = s.mid.reqs ∧ (s.now + fld s.mid.fabtime 32 20 * usCycles, 0, .destTimeout job rank) ∈ t.agenda := by
  rw [execDestTimeout, if_neg h, if_neg (Nat.not_lt.mpr hover)]
  dsimp only
  let u := s.updRank job rank fun e => { e with fenced := true }
  let v : State := { u with mid := { u.mid with destLast := u.mid.destLast.set (rankKey job rank) u.now } }
  have hkick : v.Sends (kickRank v job rank) := State.Sends.kickRank v job rank
  have hrank : v.rank job rank = { s.rank job rank with fenced := true } := s.rank_updRank job rank fun e => { e with fenced := true }
  refine ⟨_, rfl, (hkick.rank job rank).trans hrank, hkick.conns, hkick.reqs, ?_⟩
  have hnow : (kickRank v job rank).now = s.now := hkick.now
  rw [← hnow]
  exact List.mem_append_right _ (List.mem_singleton_self _)

/-- R34: OUTST is the device's; EPOCH counts a change of path. Requests that move to another connection leave the table alone. -/
theorem writeRank_rank (s : State) (job rank : Nat) (d0 d1 : DWord) :
    (writeRank s job rank d0 d1).rank job rank =
      { epoch := if (s.rank job rank).pkg ≠ fld d0 16 16 ∨ (s.rank job rank).ports ≠ fld d1 0 48 then ((s.rank job rank).epoch + 1) % 2 ^ 32
          else (s.rank job rank).epoch
        pkg := fld d0 16 16, hold := bit d0 2, fenced := bit d0 1, v := bit d0 0, outst := (s.rank job rank).outst, ports := fld d1 0 48 } := by
  unfold writeRank
  dsimp only
  rw [(State.Sends.kickRank _ job rank).rank, State.rank, foldl_ranks fun (t : State) (p : Nat × Conn) => reroute_ranks t p.1]
  refine (s.rank_updRank job rank _).trans ?_
  simp only [decide_eq_true_eq]

theorem execRankEntryWrite_eq {s : State} {job rank : Nat} (hjob : job < 64) (hrank : rank < 4096) (hready : s.host.phase = 6) (d0 d1 : BitVec 64) :
    execRankEntryWrite job rank d0 d1 s = .next (writeRank s job rank d0 d1) := by
  rw [execRankEntryWrite, if_neg]
  simp [State.hostReady, hready, hjob, hrank]

/-! ### One connection changes -/

/-- A step that sends, changes one connection and sends again leaves that connection changed and the others as they were. -/
theorem State.Sends.look_updConn {s u t : State} {k : Nat} {c : Conn} {f : Conn → Conn} (hc : s.mid.conns.look k = some c) (hbefore : s.Sends u)
    (hafter : (u.updConn k f).Sends t) : t.mid.conns.look k = some (f c) ∧ ∀ m, m ≠ k → t.mid.conns.look m = s.mid.conns.look m := by
  rw [hafter.conns, State.updConn_eq (hbefore.conns ▸ hc), ← hbefore.conns]
  exact ⟨Tab.look_set_self _ _ _, fun m hm => Tab.look_set_other _ _ hm.symm⟩

/-- A step that drops one connection and then sends leaves the others as they were. -/
theorem State.Sends.look_dropConn {s t : State} {k : Nat} (hrising : s.mid.conns.rising) (hafter : (dropConn s k).Sends t) :
    t.mid.conns.look k = none ∧ ∀ m, m ≠ k → t.mid.conns.look m = s.mid.conns.look m := by
  rw [hafter.conns]
  exact ⟨Tab.look_del_self hrising k, fun m hm => Tab.look_del_other _ hm.symm⟩

theorem State.look_of_connOf {s : State} (hrising : s.mid.conns.rising) {tag k : Nat} {c : Conn} (h : s.connOf tag = some (k, c)) :
    s.mid.conns.look k = some c :=
  Tab.look_of_mem hrising (List.mem_of_find?_eq_some h)

/-- A close is sent, and the connection is closing. -/
theorem sendClose_eq {s : State} {k : Nat} {c : Conn} (h : s.mid.conns.look k = some c) :
    ∃ u, s.Sends u ∧ (u.updConn k fun c => { c with st := .closing }).Sends (sendClose s k) := by
  unfold sendClose
  rw [h]
  dsimp only
  refine ⟨_, State.Sends.connPort s c (controlTxn Op.connclose (s.slotHdr c.job).selfrank c.number c.openTag), ?_⟩
  split
  · exact State.Sends.sendTxn _ _ _ _
  · exact State.Sends.refl _

theorem spillConns_of_le {s : State} (h : s.mid.conns.length ≤ connCache) : spillConns s = s :=
  if_pos ((List.length_filter_le _ _).trans h)

/-! ### Opens at a responder (R119, R120) -/

/-- The context a responder makes for an open of slot `j` by package `sender`, under the CONN `n`. -/
def State.grantedConn (s : State) (t : Txn) (sender j n : Nat) : Conn :=
  { requester := false, number := n, job := j, rank := t.srcRank, pkg := sender, st := .opened, openTag := t.seq, nextSeq := 0, credits := 64,
    ports := 0, queue := [], lastUse := s.now, spilled := false, region := (s.slotHdr j).region, world := (s.slotHdr j).world,
    asn := (s.envOf (s.slotHdr j).region).asn, root := (s.envOf (s.slotHdr j).region).root, base := 0, seen := [], results := [], done := [], hold := [] }

section
variable {s : State} {port pkg : Nat} {t : Txn} (hlen : 8 ≤ t.data.length)
include hlen

theorem execConnopen_noSlot
    (hslot : ((List.range 64).find? fun j => (s.slotHdr j).en && decide ((s.slotHdr j).jobid = leNat (t.data.take 4))) = none) :
    ∃ u, execConnopen port pkg t s = .next u ∧ s.Sends u := by
  simp only [execConnopen, if_neg (show ¬ t.data.length < 6 by omega), hslot]
  exact ⟨_, rfl, State.Sends.sendTxn _ _ _ _⟩

theorem execConnopen_again {j : Nat}
    (hslot : ((List.range 64).find? fun j => (s.slotHdr j).en && decide ((s.slotHdr j).jobid = leNat (t.data.take 4))) = some j)
    (hopen : (s.mid.conns.find? fun (_, c) =>
      !c.requester && decide (c.pkg = leNat ((t.data.drop 4).take 2) ∧ c.job = j ∧ c.openTag = t.seq)) ≠ none) :
    ∃ u, execConnopen port pkg t s = .next u ∧ s.Sends u := by
  obtain ⟨p, hp⟩ := Option.ne_none_iff_exists'.mp hopen
  simp only [execConnopen, if_neg (show ¬ t.data.length < 6 by omega), hslot, hp]
  exact ⟨_, rfl, State.Sends.sendTxn _ _ _ _⟩

/-- Fewer contexts than CONN has values: one is unused. -/
theorem execConnopen_grants {j : Nat}
    (hslot : ((List.range 64).find? fun j => (s.slotHdr j).en && decide ((s.slotHdr j).jobid = leNat (t.data.take 4))) = some j)
    (hopen : (s.mid.conns.find? fun (_, c) =>
      !c.requester && decide (c.pkg = leNat ((t.data.drop 4).take 2) ∧ c.job = j ∧ c.openTag = t.seq)) = none)
    (hroom : s.mid.conns.length < connCache) :
    ∃ u n, execConnopen port pkg t s = .next u ∧ n < 2 ^ 16 ∧ (∀ p ∈ s.mid.conns, p.2.requester = false → p.2.number ≠ n) ∧
      u.mid.conns = s.mid.conns.set s.mid.nextConn (s.grantedConn t (leNat ((t.data.drop 4).take 2)) j n) := by
  have hnumbers (p : Nat × Conn) (hp : p ∈ s.mid.conns) (hresp : p.2.requester = false) :
      p.2.number ∈ (s.mid.conns.filter fun (_, c) => !c.requester).map fun p => p.2.number :=
    List.mem_map.mpr ⟨p, List.mem_filter.mpr ⟨hp, by simp [hresp]⟩, rfl⟩
  have hle : ((s.mid.conns.filter fun (_, c) => !c.requester).map fun p => p.2.number).length ≤ s.mid.conns.length := by
    rw [List.length_map]; exact List.length_filter_le _ _
  have hmore : ¬ connRoom ≤ s.mid.conns.length := by unfold connRoom; unfold connCache at hroom; omega
  simp only [execConnopen, if_neg (show ¬ t.data.length < 6 by omega), hslot, hopen, if_neg hmore]
  generalize ((s.mid.conns.filter fun (_, c) => !c.requester).map fun p => p.2.number) = used at hnumbers hle ⊢
  have hused : used.length < 2 ^ 16 := by
    unfold connCache at hroom
    omega
  obtain ⟨n, hfind, hn, hfree⟩ := exists_find?_range_of_length_lt (free := fun n => !used.contains n) (by simp) hused
  have hspill : ∀ v : State, v.mid.conns = s.mid.conns.set s.mid.nextConn (s.grantedConn t (leNat ((t.data.drop 4).take 2)) j n) →
      spillConns v = v := fun v hv =>
    spillConns_of_le (by rw [hv]; exact (Tab.length_set_le _ _ _).trans hroom)
  simp only [hfind]
  refine ⟨_, n, rfl, hn, fun p hp hresp heq => ?_, (State.Sends.sendTxn _ _ _ _).conns.trans ?_⟩
  · simp [heq ▸ hnumbers p hp hresp] at hfree
  · rw [hspill _ rfl]
    rfl

end

/-! ### Answers and time-outs (R119, R120, R124) -/

section
variable {s : State} (pkg : Nat) {k : Nat} {c : Conn} {t : Txn}

theorem execConnack_opening {n : Nat} (h : s.connOf t.seq = some (k, c)) (hst : c.st = .opening n) :
    ∃ u, execConnack pkg t s = .next u ∧ u.due k .remoteRequestSend ∧
      (s.updConn k fun c => { c with st := .opened, number := t.conn, lastUse := s.now }).Sends u := by
  unfold execConnack
  rw [h]
  dsimp only
  rw [hst]
  exact ⟨_, rfl, (State.Sends.push _ _ _ _).due (State.due_push _ _ _ _), (State.Sends.push _ _ _ _).trans (State.Sends.push _ _ _ _)⟩

theorem execConnack_closing (h : s.connOf t.seq = some (k, c)) (hst : c.st = .closing) (hnumber : c.number = t.conn) :
    execConnack pkg t s = .next (dropConn s k) := by
  unfold execConnack
  rw [h]
  simp only [hst, hnumber, if_true]

theorem execConnnak_opening {n : Nat} (h : s.connOf t.seq = some (k, c)) (hst : c.st = .opening n) :
    execConnnak pkg t s = .next ((s.updConn k fun c => { c with st := .failed }).push 0 k .remoteRequestSend) := by
  cases c
  cases hst
  unfold execConnnak
  rw [h]

theorem execConnclose_drops (h : (s.mid.conns.find? fun (_, c) => !c.requester && decide (c.number = t.conn)) = some (k, c)) :
    ∃ u, execConnclose pkg t s = .next u ∧ (dropConn s k).Sends u := by
  unfold execConnclose
  dsimp only
  rw [h]
  exact ⟨_, rfl, State.Sends.sendTxn _ _ _ _⟩

section
variable (h : s.mid.conns.look k = some c)
include h

theorem execConnopenTimeout_again {n : Nat} (hst : c.st = .opening n) (hn : n < 6) : execConnopenTimeout k n s = .next (sendOpen s k (n + 1)) := by
  simp [execConnopenTimeout, h, hst, hn]

theorem execConnopenTimeout_fails {n : Nat} (hst : c.st = .opening n) (hn : 6 ≤ n) :
    execConnopenTimeout k n s = .next ((s.updConn k fun c => { c with st := .failed }).push 0 k .remoteRequestSend) := by
  simp [execConnopenTimeout, h, hst, hn]

theorem execConnIdleClose_busy (hsubj : s.subj = k) (hbusy : s.mid.reqs.any (fun (_, r) => decide (r.conn = k ∧ r.st ≠ .held)) = true) :
    execConnIdleClose s = .next s := by
  unfold execConnIdleClose
  dsimp only
  rw [hsubj, h]
  dsimp only
  rw [hbusy]
  rfl

theorem execConnIdleClose_closes (hsubj : s.subj = k) (hreq : c.requester = true) (hua : s.ualinkMask c.ports = false)
    (hidle : c.st = .opened ∧ c.lastUse + fld s.mid.fabtime 12 20 * usCycles ≤ s.now ∨ c.st = .draining)
    (hfree : s.mid.reqs.any (fun (_, r) => decide (r.conn = k ∧ r.st ≠ .held)) = false) : execConnIdleClose s = .next (sendClose s k) := by
  unfold execConnIdleClose
  dsimp only
  rw [hsubj, h]
  dsimp only
  rw [hfree, hreq, hua]
  obtain ⟨hst, htime⟩ | hst := hidle
  · simp [hst, htime]
  · simp [hst]

/-- With room in the cache nothing is spilled for the context that has come back. -/
theorem execContextFetch_eq (hrising : s.mid.conns.rising) (hsubj : s.subj = k) (hroom : s.mid.conns.length ≤ connCache) :
    execContextFetch s = .next ((s.updConn k fun c => { c with spilled := false, lastUse := s.now }).push 0 k .remoteRequestSend) := by
  rw [execContextFetch, hsubj, spillConns_of_le]
  rw [State.updConn_eq h, Tab.length_set_of_look hrising h]
  exact hroom

end
end

/-- The wait of the opens after the first: 2^(n + 3) µs for the open that attempt n < 6 is followed by (R119, R124). -/
theorem attemptWait_open {n : Nat} (h : n < 6) : attemptWait 2 (n + 1) = 2 ^ (n + 3) * 1750 := by
  have hle : 2 ^ (n + 3) ≤ 1048576 := Nat.pow_le_pow_right (j := 20) (by decide : 0 < 2) (by omega)
  rw [attemptWait, show 2 + (n + 1) = n + 3 by omega, Nat.min_eq_left hle, usCycles]

/-! ### Ranks and connections -/

/-- Settles O41: each clause is the lemma of its step, with `look_updConn` and `look_dropConn` for the one connection that changes. -/
theorem ranksAndConnections : Obligations.RanksAndConnections := by
  refine ⟨fun s job rank d0 d1 => ⟨execDestTimeout_idle, execDestTimeout_early, execDestTimeout_fences, fun hjob hrank hready => ?_⟩,
    fun s port pkg k n j c tx hrising => ⟨fun hlen => ⟨fun hslot => ?_, fun hslot hopen => ?_, fun hslot hopen hroom => ?_⟩,
      fun hof => ⟨fun hst => ⟨?_, ?_⟩, fun hst hnumber => ?_⟩, fun hfind => ?_,
      fun hc => ⟨fun hst hn => ?_, fun hst hn => ?_, fun hsubj hreq hua hidle => ⟨execConnIdleClose_busy hc hsubj, fun hfree => ?_⟩,
        fun hsubj hroom => ?_⟩⟩⟩
  · have hports : fld d1 0 48 = d1.toNat % 2 ^ 48 := by rw [fld, pow_zero, Nat.div_one]
    exact ⟨_, execRankEntryWrite_eq hjob hrank hready d0 d1, hports ▸ writeRank_rank s job rank d0 d1⟩
  · obtain ⟨t, hexec, hsends⟩ := execConnopen_noSlot hlen hslot
    exact ⟨t, hexec, hsends.conns⟩
  · obtain ⟨t, hexec, hsends⟩ := execConnopen_again hlen hslot hopen
    exact ⟨t, hexec, hsends.conns⟩
  · obtain ⟨t, m, hexec, hm, hunused, hconns⟩ := execConnopen_grants hlen hslot hopen hroom
    refine ⟨t, s.grantedConn tx _ j m, hexec, ?_, ⟨rfl, hm, hunused, rfl, rfl, rfl, rfl, rfl, rfl, rfl, rfl, rfl⟩, fun i hi => ?_, trivial⟩
    · rw [hconns, Tab.look_set_self]
    · rw [hconns, Tab.look_set_other _ _ hi.symm]
  · obtain ⟨t, hexec, hdue, hsends⟩ := execConnack_opening pkg hof hst
    obtain ⟨hlook, hothers⟩ := State.Sends.look_updConn (State.look_of_connOf hrising hof) (State.Sends.refl s) hsends
    exact ⟨t, _, hexec, hlook, rfl, hothers, hdue⟩
  · obtain ⟨hlook, hothers⟩ := State.Sends.look_updConn (State.look_of_connOf hrising hof) (State.Sends.refl s) (State.Sends.push _ 0 k .remoteRequestSend)
    exact ⟨_, _, execConnnak_opening pkg hof hst, hlook, rfl, hothers, State.due_push _ _ _ _⟩
  · obtain ⟨hgone, hothers⟩ := State.Sends.look_dropConn hrising (State.Sends.refl (dropConn s k))
    exact ⟨_, execConnack_closing pkg hof hst hnumber, hgone, hothers⟩
  · obtain ⟨t, hexec, hsends⟩ := execConnclose_drops pkg hfind
    obtain ⟨hgone, hothers⟩ := State.Sends.look_dropConn hrising hsends
    exact ⟨t, hexec, hgone, hothers⟩
  · obtain ⟨u, hsends, hopen⟩ := sendOpen_eq hc (n + 1)
    obtain ⟨hlook, hothers⟩ := State.Sends.look_updConn hc hsends (State.Sends.push _ _ _ _)
    refine ⟨_, _, (execConnopenTimeout_again hc hst hn).trans (congrArg _ hopen), hlook, rfl, hothers, ?_⟩
    obtain ⟨-, -, -, hnow⟩ := u.updConn_keeps k fun c => { c with st := .opening (n + 1) }
    rw [← attemptWait_open hn, ← hsends.now, ← hnow]
    exact List.mem_append_right _ (List.mem_singleton_self _)
  · obtain ⟨hlook, hothers⟩ := State.Sends.look_updConn hc (State.Sends.refl s) (State.Sends.push _ 0 k .remoteRequestSend)
    exact ⟨_, _, execConnopenTimeout_fails hc hst hn, hlook, rfl, hothers, State.due_push _ _ _ _⟩
  · obtain ⟨u, hbefore, hafter⟩ := sendClose_eq hc
    obtain ⟨hlook, hothers⟩ := State.Sends.look_updConn hc hbefore hafter
    exact ⟨_, _, execConnIdleClose_closes hc hsubj hreq hua hidle hfree, hlook, rfl, hothers, trivial⟩
  · obtain ⟨hlook, hothers⟩ := State.Sends.look_updConn hc (State.Sends.refl s) (State.Sends.push _ 0 k .remoteRequestSend)
    exact ⟨_, _, execContextFetch_eq hc hrising hsubj hroom, hlook, rfl, hothers, State.due_push _ _ _ _⟩

end Sys2Proof.Machine
end

section
/-! PROOF. How a request ends, and how it is sent (O40). -/

namespace Sys2Proof.Machine

/-! ### What leaves the Midfield die alone -/

@[simp] theorem State.served_mid (s : State) (w : Who) (n : Nat) : (s.served w n).mid = s.mid := by
  obtain ⟨r, hr⟩ := s.served_frame w n
  rw [hr]

@[simp] theorem State.devWrite_mid (s : State) (w : Who) (pa : Nat) (bs : List Byte) : (s.devWrite w pa bs).mid = s.mid := by
  by_cases h : pa + bs.length ≤ 2 ^ 39
  · obtain ⟨m, k, r, hw⟩ := State.devWrite_frame (s := s) (w := w) h
    rw [hw]
  · rw [State.devWrite, if_neg h]

@[simp] theorem State.updCtx_mid (s : State) (id : Nat) (f : Ctx → Ctx) : (s.updCtx id f).mid = s.mid := by
  unfold State.updCtx
  split <;> rfl

theorem absentCopy_mid (s : State) (c : Ctx) (r : FRec) : (absentCopy s c r).mid = s.mid := by
  simp only [absentCopy, State.rcbPut32]
  split
  · rfl
  · simp only [State.devWrite_mid]

theorem syncImage_mid (s : State) (id off : Nat) (f : Ctx → List Byte) : (syncImage s id off f).mid = s.mid := by
  unfold syncImage
  split
  · split
    · exact State.devWrite_mid _ _ _ _
    · rfl
  · rfl

theorem postRecord_mid (s : State) (id : Nat) (r : FRec) : (postRecord s id r).mid = s.mid := by
  unfold postRecord
  split
  · rfl
  · next c _ =>
    dsimp only
    generalize hcopied : (if c.away && !r.abs then absentCopy s c _ else s) = u
    have hu : u.mid = s.mid := by
      rw [← hcopied]
      split
      · exact absentCopy_mid s c _
      · rfl
    split
    · split
      · rw [State.push_mid, syncImage_mid, State.setCtx_mid, hu]
      · rw [syncImage_mid, State.setCtx_mid, hu]
    · rw [syncImage_mid, State.setCtx_mid, hu]

/-! ### What leaves the requests alone -/

/-- From `s` to `t` no request has changed, and no rank's timer. -/
def State.KeepsReqs (s t : State) : Prop := t.mid.reqs = s.mid.reqs ∧ t.mid.destLast = s.mid.destLast

namespace State.KeepsReqs

theorem refl (s : State) : s.KeepsReqs s := ⟨rfl, rfl⟩

theorem trans {s t u : State} (h : s.KeepsReqs t) (g : t.KeepsReqs u) : s.KeepsReqs u := ⟨g.1.trans h.1, g.2.trans h.2⟩

theorem of_mid {s t : State} (h : t.mid = s.mid) : s.KeepsReqs t := ⟨by rw [h], by rw [h]⟩

theorem push (s : State) (delay subj : Nat) (e : Instr) : s.KeepsReqs (s.push delay subj e) := of_mid (s.push_mid _ _ _)

theorem fenceResolve (s : State) (ctx epoch job rank worst : Nat) : s.KeepsReqs (Machine.fenceResolve s ctx epoch job rank worst) := by
  unfold Machine.fenceResolve
  dsimp only
  exact ⟨by rw [State.push_mid, State.updCtx_mid], by rw [State.push_mid, State.updCtx_mid]⟩

/-- Whatever a request was made for, its maker hears of its end without a request being touched. -/
theorem deliver (s : State) (r : Req) (w : DWord) (data : List Byte) : s.KeepsReqs (Machine.deliver s r w data) := by
  unfold Machine.deliver
  split
  · exact of_mid (State.updCtx_mid _ _ _)
  · split
    · exact refl s
    · exact of_mid (postRecord_mid _ _ _)
  · next id q order va _ =>
    dsimp only
    refine trans ?_ (push _ _ _ _)
    generalize hnoted : s.updCtx id _ = u
    refine trans (of_mid (by rw [← hnoted, State.updCtx_mid])) (t := u) ?_
    split
    · split
      · exact ⟨rfl, rfl⟩
      · exact ⟨rfl, rfl⟩
    · exact refl u
  · split
    · exact refl s
    · dsimp only
      split
      · exact refl s
      · exact ⟨rfl, rfl⟩
  · exact push _ _ _ _
  · exact refl s

end State.KeepsReqs

/-! ### The end of a request (R125) -/

/-- The release that counts a request hears of its end (R103). -/
def State.counts (s : State) (r : Req) (w : DWord) : State :=
  match r.what, r.counted with
  | .scalar id _, true => fenceResolve s id r.epoch r.job r.rank (worstOf w)
  | .line id _ _, true => fenceResolve s id r.epoch r.job r.rank (worstOf w)
  | .cmd id _ _ _, true => fenceResolve s id r.epoch r.job r.rank (worstOf w)
  | _, _ => s

theorem State.KeepsReqs.counts (s : State) (r : Req) (w : DWord) : s.KeepsReqs (s.counts r w) := by
  unfold State.counts
  split
  · exact fenceResolve _ _ _ _ _ _
  · exact fenceResolve _ _ _ _ _ _
  · exact fenceResolve _ _ _ _ _ _
  · exact refl s

/-- A request leaves the table and gives back what it held; then its release and its maker hear of its end. -/
theorem resolve_eq {s : State} {k : Nat} {r : Req} (h : s.mid.reqs.look k = some r) (w : DWord) (data : List Byte) :
    ∃ u : State, (u.ctxs = s.ctxs ∧ u.mem = s.mem ∧ u.mid.reqs = s.mid.reqs.del k ∧ u.mid.destLast = s.mid.destLast) ∧
      resolve s k w data = (deliver (u.counts r w) r w data).push 0 r.conn .remoteRequestSend := by
  unfold resolve
  rw [h]
  dsimp only
  refine ⟨_, ?_, rfl⟩
  generalize hback : State.updConn _ r.conn _ = u
  have hu : u.ctxs = s.ctxs ∧ u.mem = s.mem ∧ u.mid.reqs = s.mid.reqs.del k ∧ u.mid.destLast = s.mid.destLast := by
    obtain ⟨t, ht⟩ := State.updConn_frame { s with mid := { s.mid with reqs := s.mid.reqs.del k } } r.conn _
    rw [← hback, ht]
    exact ⟨rfl, rfl, rfl, rfl⟩
  -- whether or not the request had been sent, whether or not it was its connection's last
  split_ifs <;> exact hu

theorem resolve_keeps {s : State} {k : Nat} {r : Req} (h : s.mid.reqs.look k = some r) (w : DWord) (data : List Byte) :
    (resolve s k w data).mid.reqs = s.mid.reqs.del k ∧ (resolve s k w data).mid.destLast = s.mid.destLast := by
  obtain ⟨u, ⟨-, -, hreqs, hlast⟩, heq⟩ := resolve_eq h w data
  obtain ⟨hreqs', hlast'⟩ := ((State.KeepsReqs.counts u r w).trans (State.KeepsReqs.deliver _ r w data)).trans
    (State.KeepsReqs.push _ 0 r.conn .remoteRequestSend)
  rw [heq]
  exact ⟨hreqs'.trans hreqs, hlast'.trans hlast⟩

/-- A counted write is resolved: nothing of its task changes but the releases that wait (R103). -/
theorem fenceResolve_eq {s : State} {id : Nat} {x : Ctx} (hx : s.ctx id = some x) (epoch job rank worst : Nat) :
    ∃ f, fenceResolve s id epoch job rank worst = (({ s with mid := { s.mid with fences := f } } : State).setCtx id
      { x with ph := { x.ph with rels := x.ph.rels.map (·.resolve epoch (rankKey job rank) worst) } }).push 0 id .releaseComplete := by
  unfold fenceResolve
  dsimp only
  generalize Tab.each _ s.mid.fences = f
  exact ⟨f, by rw [State.updCtx_eq (s := { s with mid := { s.mid with fences := f } }) hx]⟩

/-- What a release counts is not what a task's scalar access waits for. -/
theorem State.counts_scalar {s : State} {r : Req} (w : DWord) {id va : Nat} {x : Ctx} (hwhat : r.what = .scalar id va) (hx : s.ctx id = some x) :
    ∃ y, (s.counts r w).ctx id = some y ∧ y.ph.rem = x.ph.rem ∧ y.regs = x.regs ∧ (s.counts r w).mem = s.mem := by
  unfold State.counts
  rw [hwhat]
  split
  · next heq _ =>
    obtain ⟨rfl, -⟩ := ReqFor.scalar.inj heq
    obtain ⟨f, hf⟩ := fenceResolve_eq hx r.epoch r.job r.rank (worstOf w)
    rw [hf]
    exact ⟨_, State.ctx_setCtx _ _ _, rfl, rfl, rfl⟩
  · next heq _ => cases heq
  · next heq _ => cases heq
  · exact ⟨x, hx, rfl, rfl, rfl⟩

/-- R292: the bundle that waits for a window-space access finds its word and data. -/
theorem resolve_answers {s : State} {k : Nat} {r : Req} (h : s.mid.reqs.look k = some r) (w : DWord) (data : List Byte) {id va : Nat} {x : Ctx}
    {m : RemScalar} (hwhat : r.what = .scalar id va) (hx : s.ctx id = some x) (hm : x.ph.rem = some m) :
    ∃ y, (resolve s k w data).ctx id = some y ∧ y.ph.rem = some { m with answer := some (w, data) } ∧ y.regs = x.regs ∧
      (resolve s k w data).mem = s.mem := by
  obtain ⟨u, ⟨hctxs, hmem, -, -⟩, heq⟩ := resolve_eq h w data
  have hux : u.ctx id = some x := by rw [State.ctx, hctxs]; exact hx
  obtain ⟨y, hy, hrem, hregs, hcounted⟩ := State.counts_scalar w hwhat hux
  rw [heq, deliver, hwhat]
  dsimp only
  rw [State.updCtx_eq hy]
  refine ⟨_, State.ctx_setCtx _ _ _, ?_, hregs, hcounted.trans hmem⟩
  rw [hrem, hm]
  rfl

/-- R125: a request that ends is gone, no other changes, and its maker has its word and data. -/
theorem resolve_ends {s : State} {k : Nat} {r : Req} (hrising : s.mid.reqs.rising) (h : s.mid.reqs.look k = some r) (w : DWord) (data : List Byte) :
    (resolve s k w data).mid.reqs.look k = none ∧ (∀ j, j ≠ k → (resolve s k w data).mid.reqs.look j = s.mid.reqs.look j) ∧
      ∀ id va x m, r.what = .scalar id va → s.ctx id = some x → x.ph.rem = some m →
        ∃ y, (resolve s k w data).ctx id = some y ∧ y.ph.rem = some { m with answer := some (w, data) } ∧ y.regs = x.regs ∧
          (resolve s k w data).mem = s.mem := by
  rw [(resolve_keeps h w data).1]
  exact ⟨Tab.look_del_self hrising k, fun j hj => Tab.look_del_other _ hj.symm, fun _ _ _ _ => resolve_answers h w data⟩

/-! ### Headers of transactions (R115) -/

/-- The header of a request as its attempt `n` sends it: only ATTEMPT, AGE and LOWDIST are the attempt's own (R124). -/
theorem Txn.attempt_fields (t : Txn) (n : Nat) (d2 : DWord) :
    let u : Txn := { t with d0 := setFld t.d0 2 4 n, d1 := setFld t.d1 56 8 0, d2 := d2 }
    u.seq = t.seq ∧ u.op = t.op ∧ u.taddr = t.taddr :=
  ⟨fld_setFld_above _ _ (by decide) (by decide), fld_setFld_above _ _ (by decide) (by decide), fld_setFld_below _ _ (by decide) (by decide)⟩

/-- A request that is given its SEQ and its connection's CONN (R121). -/
theorem Txn.numbered_fields (t : Txn) {seq : Nat} (number : Nat) (d2 : DWord) (h : seq < 2 ^ 24) :
    let u : Txn := { t with d0 := setFld (setFld t.d0 6 24 seq) 30 16 number, d2 := d2 }
    u.seq = seq ∧ u.op = t.op ∧ u.taddr = t.taddr := by
  refine ⟨?_, ?_, (rfl : fld t.d1 0 56 = fld t.d1 0 56)⟩
  · rw [Txn.seq, fld_setFld_below _ _ (by decide) (by decide), fld_setFld_self _ _ (by decide), Nat.mod_eq_of_lt h]
  · rw [Txn.op, fld_setFld_above _ _ (by decide) (by decide), fld_setFld_above _ _ (by decide) (by decide), Txn.op]

theorem answerTxn_op (op : Nat) (t : Txn) (w aux : DWord) (data : List Byte) : (answerTxn op t w aux data).op = op % 2 ^ 6 :=
  (fld_setFld_above _ _ (by decide) (by decide)).trans (fld_setFld_self _ _ (by decide))

theorem answerTxn_seq (op : Nat) (t : Txn) (w aux : DWord) (data : List Byte) : (answerTxn op t w aux data).seq = t.seq :=
  (fld_setFld_above _ _ (by decide) (by decide)).trans (fld_setFld_below _ _ (by decide) (by decide))

/-! ### An attempt is sent (R124) -/

/-- Attempt `n` of a request: the connection's next port carries it, the request keeps what the attempt sent, and the wait of the attempt begins. -/
theorem sendAttempt_eq {s : State} {k : Nat} {r : Req} {c : Conn} (hr : s.mid.reqs.look k = some r) (hc : s.mid.conns.look r.conn = some c) (n : Nat) :
    ∃ (u v : State) (y : Req), s.Sends u ∧ ({ u with mid := { u.mid with reqs := u.mid.reqs.set k y } } : State).Sends v ∧
      sendAttempt s k n = v.push (attemptWait r.toexp n) 0 (.remoteRetryTimeout k n) ∧ y.st = .sent n ∧ y.lastSend = s.now ∧
      (y.txn.seq = r.txn.seq ∧ y.txn.op = r.txn.op ∧ y.txn.taddr = r.txn.taddr) ∧ y.txn.data = r.txn.data := by
  unfold sendAttempt
  rw [hr]
  dsimp only
  rw [hc]
  dsimp only
  generalize ht : Txn.mk (setFld r.txn.d0 2 4 n) (setFld r.txn.d1 56 8 0) _ r.txn.d3 r.txn.data = t
  have hfields : (t.seq = r.txn.seq ∧ t.op = r.txn.op ∧ t.taddr = r.txn.taddr) ∧ t.data = r.txn.data := by
    rw [← ht]
    exact ⟨Txn.attempt_fields r.txn n _, rfl⟩
  generalize hport : (if c.pkg = s.pkg then (some selfPort, s) else if n = 0 then s.connPort c t
    else (nextPort (carriers s c.ports t) r.port, s)) = chosen
  have hchosen : s.Sends chosen.2 := by
    rw [← hport]
    split
    · exact State.Sends.refl s
    · split
      · exact State.Sends.connPort s c t
      · exact State.Sends.refl s
  obtain ⟨p, u⟩ := chosen
  dsimp only at hchosen ⊢
  rw [State.updReq_eq (hchosen.reqs ▸ hr)]
  generalize (if p.any (fun p => (u.port p).mode = 4) then n else r.retries) = retries
  refine ⟨u, _, { r with st := .sent n, port := p.getD r.port, lastSend := u.now, txn := t, retries := retries }, hchosen, ?_, rfl, rfl,
    hchosen.now, hfields⟩
  split
  · split
    · exact State.Sends.sendTxn _ _ _ _
    · exact (State.Sends.sendTxn _ _ _ _).trans (State.Sends.chargeAny _ _ _)
  · exact State.Sends.refl _

end Sys2Proof.Machine
end

section
/-! PROOF. Requests are sent, completed, retried and performed at their home (O40). -/

namespace Sys2Proof.Machine

/-! ### The requester (R35, R121 to R125, R132, R138) -/

/-- What lets a queued request of a connection go (R35, R121, R125, R133, R138, R211). -/
structure State.MaySend (s : State) (k : Nat) (c : Conn) (r : Req) : Prop where
  valid : (s.rank c.job c.rank).v = true
  notFenced : (s.rank c.job c.rank).fenced = false
  notHeld : (s.rank c.job c.rank).hold = false
  opened : c.st = .opened
  cached : c.spilled = false
  plain : (s.slotHdr c.job).world = 0
  carried : classRefused s c r = false
  credit : c.credits ≠ 0
  room : (c.nextSeq + 2 ^ 24 - lowSeq s k c) % 2 ^ 24 < 1024
  seq : c.nextSeq < 2 ^ 24
  funded : c.pkg = s.pkg ∨ (s.forRegion r).any s.fabHeld = false
  ordered : (∃ p ∈ portsOf c.ports, (s.port p).mode = 4) → r.txn.ord = false ∨ c.nextSeq = lowSeq s k c

section
variable {s : State} {k q : Nat} {c : Conn} {r : Req} (hc : s.mid.conns.look k = some c)
  (hfirst : (c.queue.take 16).find? (fun q => (s.mid.reqs.look q).any (fun r => decide (r.st = .queued))) = some q) (hr : s.mid.reqs.look q = some r)
include hc hfirst hr

theorem sendNext_invalid (hv : (s.rank c.job c.rank).v = false) : sendNext s k = resolve s q (sourceFail c.rank Tstat.rankInvalid r.txn.acc) [] := by
  simp only [sendNext, Conn.placed, hc, hfirst, hr, hv, if_true]

theorem sendNext_fenced (hv : (s.rank c.job c.rank).v = true) (hfenced : (s.rank c.job c.rank).fenced = true) :
    sendNext s k = resolve s q (sourceFail c.rank Tstat.rankFenced r.txn.acc) [] := by
  simp only [sendNext, Conn.placed, hc, hfirst, hr, hv, hfenced, if_true, Bool.true_eq_false, if_false]

theorem sendNext_failed (hv : (s.rank c.job c.rank).v = true) (hfenced : (s.rank c.job c.rank).fenced = false) (hst : c.st = .failed) :
    sendNext s k = resolve s q (cword c.rank Cstat.connRefused 0) [] := by
  simp only [sendNext, Conn.placed, hc, hfirst, hr, hv, hfenced, hst, if_true, Bool.true_eq_false, Bool.false_eq_true, if_false]

/-- R121: what may go goes as attempt 0, with the connection's next SEQ, for one credit, and counts in OUTST. -/
theorem sendNext_sends (h : s.MaySend k c r) :
    ∃ (u v : State) (t : Txn), sendNext s k = (sendAttempt v q 0).push 0 k .remoteRequestSend ∧ u.Sends v ∧
      u.mid.conns = s.mid.conns.set k { c with nextSeq := (c.nextSeq + 1) % 2 ^ 24, credits := c.credits - 1, lastUse := s.now } ∧
      u.mid.reqs = s.mid.reqs.set q { r with txn := t } ∧
      u.rank c.job c.rank = { s.rank c.job c.rank with outst := satAdd 16 (s.rank c.job c.rank).outst 1 } ∧ u.now = s.now ∧ u.mem = s.mem ∧
      (t.seq = c.nextSeq ∧ t.op = r.txn.op ∧ t.taddr = r.txn.taddr) ∧ t.data = r.txn.data := by
  obtain ⟨hv, hfenced, hhold, hst, hspilled, hworld, hclass, hcredits, hroom, hseq, hbudget, hual⟩ := h
  have hvalid : ¬ (s.rank c.job c.rank).v = false := ne_false_of_eq_true hv
  have hnotFenced : ¬ (s.rank c.job c.rank).fenced = true := ne_true_of_eq_false hfenced
  have hnotFailed : ¬ c.st = .failed := by simp [hst]
  have hopen : ¬ c.st ≠ .opened := not_not.mpr hst
  have hcached : ¬ c.spilled = true := ne_true_of_eq_false hspilled
  have hplain : ¬ ((s.slotHdr c.job).world ≠ 0 ∧ c.nextSeq + 1 = 2 ^ 24) := fun h => h.1 hworld
  have hcarried : ¬ classRefused s c r = true := ne_true_of_eq_false hclass
  have hfunded : ¬ (c.pkg ≠ s.pkg ∧ (s.forRegion r).any s.fabHeld = true) := by
    rintro ⟨hpkg, hheld⟩
    exact hbudget.elim hpkg (ne_true_of_eq_false · hheld)
  have hordered : ((portsOf c.ports).any (fun p => decide ((s.port p).mode = 4)) && r.txn.ord && decide (c.nextSeq ≠ lowSeq s k c)) = false := by
    cases hany : (portsOf c.ports).any (fun p => decide ((s.port p).mode = 4)) with
    | false => rfl
    | true =>
      obtain ⟨p, hp, hmode⟩ := List.any_eq_true.mp hany
      rcases hual ⟨p, hp, of_decide_eq_true hmode⟩ with hord | hlow
      · simp [hord]
      · simp [hlow]
  have hgoes : ¬ ((s.rank c.job c.rank).hold || decide (c.credits = 0) || decide (1024 ≤ (c.nextSeq + 2 ^ 24 - lowSeq s k c) % 2 ^ 24) ||
      ((portsOf c.ports).any (fun p => decide ((s.port p).mode = 4)) && r.txn.ord && decide (c.nextSeq ≠ lowSeq s k c))) = true := by
    rw [hordered, hhold, decide_eq_false hcredits, decide_eq_false (Nat.not_le.mpr hroom)]
    decide
  simp only [sendNext, Conn.placed, hc, hfirst, hr, if_neg hvalid, if_neg hnotFenced, if_neg hnotFailed, if_neg hopen, if_neg hcached, if_neg hplain,
    if_neg hcarried, if_neg hfunded, if_neg hgoes]
  generalize ht : Txn.mk (setFld (setFld r.txn.d0 6 24 c.nextSeq) 30 16 c.number) r.txn.d1 _ r.txn.d3 r.txn.data = t
  have hfields : (t.seq = c.nextSeq ∧ t.op = r.txn.op ∧ t.taddr = r.txn.taddr) ∧ t.data = r.txn.data := by
    rw [← ht]
    exact ⟨Txn.numbered_fields r.txn c.number _ hseq, rfl⟩
  have hconn (l : Tab Req) : ({ s with mid := { s.mid with reqs := l } } : State).mid.conns.look k = some c := hc
  rw [State.updReq_eq hr, State.updConn_eq (hconn _)]
  generalize hu : State.updRank _ c.job c.rank _ = u
  refine ⟨u, _, t, rfl, ?_, ?_, ?_, ?_, ?_, ?_, hfields⟩
  · split
    · exact State.Sends.pushOnce _ _ _ _
    · exact State.Sends.refl u
  · rw [← hu]; rfl
  · rw [← hu]; rfl
  · rw [← hu, State.rank_updRank]; rfl
  · rw [← hu]; rfl
  · rw [← hu]; rfl

end

theorem execRemoteRequestSend_eq {s : State} {k : Nat} (hsubj : s.subj = k) (hk : k ≤ 2 ^ 40) : execRemoteRequestSend s = .next (sendNext s k) := by
  rw [execRemoteRequestSend, hsubj, if_neg (show ¬ noConn < k from Nat.not_lt.mpr hk)]

section
variable {s : State} {q n : Nat} {r : Req} (hr : s.mid.reqs.look q = some r)
include hr

theorem execRemoteRetryTimeout_again (hst : r.st = .sent n) (hn : n < r.retries) : execRemoteRetryTimeout q n s = .next (sendAttempt s q (n + 1)) := by
  simp [execRemoteRetryTimeout, hr, hst, hn]

theorem execRemoteRetryTimeout_last (hst : r.st = .sent n) (hn : r.retries ≤ n) : execRemoteRetryTimeout q n s =
    .next ((s.updReq q fun r => { r with st := .expiring }).push (r.lastSend + s.lifetime * usCycles - s.now) q .lifetimeExpiry) := by
  simp [execRemoteRetryTimeout, hr, hst, Nat.not_lt.mpr hn]

theorem execLifetimeExpiry_eq (hsubj : s.subj = q) (hst : r.st = .expiring) (hover : r.lastSend + s.lifetime * usCycles ≤ s.now) :
    execLifetimeExpiry s = .next (resolve s q (cword r.rank Cstat.indeterminate 0) []) := by
  simp only [execLifetimeExpiry, hsubj, hr, hst, hover, and_self, if_true]

end

/-! ### Completions (R125, R132) -/

theorem unsealTxn_plain {s : State} {job : Nat} (h : (s.slotHdr job).world = 0) (pkg tag : Nat) (t : Txn) : unsealTxn s job pkg tag t = some t := if_pos h

section
variable {s : State} {pkg : Nat} {t : Txn}

theorem State.cameOver_eq_none (h : ∀ j x, (j, x) ∈ s.mid.conns →
    ¬ (x.requester = true ∧ x.number = t.conn ∧ (x.pkg = pkg ∨ x.rank = t.d2.toNat / 2 ^ 36 % 4096))) : s.cameOver pkg t = none := by
  have hrank : (s.mid.conns.filter fun (_, c) => c.requester && decide (c.number = t.conn)).filter (fun p => decide (p.2.rank = fld t.d2 36 12)) = [] := by
    rw [List.filter_filter, List.filter_eq_nil_iff]
    rintro ⟨j, x⟩ hx
    simp only [Bool.and_eq_true, decide_eq_true_eq]
    rintro ⟨hnamed, hreq, hnumber⟩
    exact h j x hx ⟨hreq, hnumber, .inr hnamed⟩
  have hpkg : (s.mid.conns.filter fun (_, c) => c.requester && decide (c.number = t.conn)).filter (fun p => decide (p.2.pkg = pkg)) = [] := by
    rw [List.filter_filter, List.filter_eq_nil_iff]
    rintro ⟨j, x⟩ hx
    simp only [Bool.and_eq_true, decide_eq_true_eq]
    rintro ⟨hnear, hreq, hnumber⟩
    exact h j x hx ⟨hreq, hnumber, .inl hnear⟩
  simp only [State.cameOver, hrank, hpkg]
  rfl

theorem execRemoteCompletionReceive_unknown (hans : s.answered pkg t = none) (hover : s.cameOver pkg t = none) :
    execRemoteCompletionReceive pkg t s = .next s := by
  simp only [execRemoteCompletionReceive, hans, hover]

theorem execRemoteCompletionReceive_late {k : Nat} {c : Conn} (hans : s.answered pkg t = none) (hover : s.cameOver pkg t = some (k, c))
    (hopens : c.pkg = s.pkg ∨ (s.slotHdr c.job).world = 0) : execRemoteCompletionReceive pkg t s = .next (restartTimer s c.job c.rank) := by
  have hunsealed : c.pkg = s.pkg ∨ (unsealTxn s c.job s.pkg c.openTag t).isSome = true :=
    hopens.imp_right fun h => by rw [unsealTxn_plain h]; rfl
  simp only [execRemoteCompletionReceive, hans, hover, if_pos hunsealed]

theorem execRemoteCompletionReceive_answers {q : Nat} {r : Req} {c : Conn} (hans : s.answered pkg t = some q) (hr : s.mid.reqs.look q = some r)
    (hc : s.mid.conns.look r.conn = some c) (hworld : (s.slotHdr c.job).world = 0) :
    execRemoteCompletionReceive pkg t s = .next (resolve (restartTimer s r.job r.rank) q (setFld (t.d2 &&& 0x0000FFFFFFFFFFFF) 36 12 r.rank)
      (t.data.take (if t.op = Op.rdrsp then Nat.min r.txn.len t.dataBytes else t.dataBytes))) := by
  simp only [execRemoteCompletionReceive, hans, hr, Option.bind_some, hc, unsealTxn_plain hworld, ite_self]

end

/-! ### The responder (R126 to R129) -/

theorem sendAnswer_selfPort (s : State) (c : Conn) (t : Txn) : sendAnswer s selfPort c t = s.push 0 0 (arrival selfPort s.pkg t) := by
  have hup : s.replyPort selfPort c.job c.rank = selfPort := if_pos (by simp [State.portUp])
  simp only [sendAnswer, hup, if_true, sendTxn_selfPort]

/-- The answer to a write comes back to the requester die. -/
theorem arrival_wrack (port pkg : Nat) (t : Txn) (w aux : DWord) (data : List Byte) :
    arrival port pkg (answerTxn Op.wrack t w aux data) = .remoteCompletionReceive pkg (answerTxn Op.wrack t w aux data) := by
  have hop : (answerTxn Op.wrack t w aux data).op = 0x09 := answerTxn_op Op.wrack t w aux data
  simp only [arrival, hop]
  rfl

/-- A read, a write or an atomic is no notice and no contribution. -/
theorem op_of_access {op : Nat} (h : op = 1 ∨ op = 2 ∨ op = 3) : op ≠ Op.redrsp ∧ ¬ (op = Op.redreq ∨ op = Op.mergereq) := by
  unfold Op.redrsp Op.redreq Op.mergereq
  omega

theorem portErr_selfPort (s : State) : portErr s selfPort = s := if_neg (by decide)

section
variable {s : State} {k : Nat} {c : Conn} {t : Txn}

theorem judgeReq_beyond (h : 1024 ≤ seqDist t.seq c.base) : judgeReq s k selfPort c t = s := by
  unfold judgeReq
  dsimp only
  split
  · rfl
  · exact portErr_selfPort s

section
variable (hnear : seqDist t.seq c.base < 1024)
include hnear

theorem seqBefore_eq_false_of_lt : seqBefore t.seq c.base = false := by
  rw [seqBefore]
  exact decide_eq_false (by omega)

theorem judgeReq_new (hop : t.op = 1 ∨ t.op = 2 ∨ t.op = 3) (hseen : t.seq ∉ c.seen) (hheld : c.hold.length < 64) :
    judgeReq s k selfPort c t = acceptReq s k selfPort t := by
  obtain ⟨hnotice, -⟩ := op_of_access hop
  simp only [judgeReq, seqBefore_eq_false_of_lt hnear, if_neg (Nat.not_le.mpr hnear), List.contains_eq_mem, hseen, if_neg (Nat.not_le.mpr hheld), hnotice]
  rfl

theorem judgeReq_again {w : DWord} (hop : t.op = 2) (hseen : t.seq ∈ c.seen) (hheld : ∀ h ∈ c.hold, h.seq ≠ t.seq)
    (hdone : c.done.find? (fun p => decide (p.1 = t.seq)) = some (t.seq, w)) :
    judgeReq s k selfPort c t = sendAnswer s selfPort c (answerTxn Op.wrack t w 0 []) := by
  have hnone : c.hold.any (fun h => decide (h.seq = t.seq)) = false := by simpa using hheld
  simp only [judgeReq, seqBefore_eq_false_of_lt hnear, if_neg (Nat.not_le.mpr hnear), List.contains_eq_mem, hseen, hnone, hop, hdone, answerOp]
  rfl

end

/-- R126: a request is accepted into a free slot of HOLDBUF, and is to be performed. -/
theorem acceptReq_eq {port : Nat} (hc : s.mid.conns.look k = some c) (hop : t.op = 1 ∨ t.op = 2 ∨ t.op = 3) (hseen : t.seq ∉ c.seen)
    (hheld : c.hold.length < 64) :
    ∃ n, n < 64 ∧ (∀ h ∈ c.hold, h.slot ≠ n) ∧ (acceptReq s k port t).due 0 (.remotePerform k t.seq) ∧
      (s.updConn k fun c => { c with
        seen := t.seq :: c.seen, hold := c.hold ++ [{ slot := n, seq := t.seq, port := port, txn := t }], lastUse := s.now }).Sends
        (acceptReq s k port t) := by
  have hslots : ∀ n, (!c.hold.any (fun h => decide (h.slot = n))) = false → n ∈ c.hold.map (·.slot) := by simp
  obtain ⟨n, hfind, hn, hfree⟩ := exists_find?_range_of_length_lt hslots (by rw [List.length_map]; exact hheld)
  obtain ⟨-, hplain⟩ := op_of_access hop
  unfold acceptReq
  simp only [if_neg hplain, State.updConn_eq hc, if_neg hseen, hfind]
  refine ⟨n, hn, by simpa using hfree, (State.Sends.kickHeld _ k).due (State.due_push _ _ _ _), ?_⟩
  exact (State.Sends.push _ _ _ _).trans (State.Sends.kickHeld _ k)

end

/-! ### Arrival and performing (R122, R126) -/

section
variable {s : State} {k : Nat} {c : Conn} {t : Txn}

theorem State.selfPort_not_ualink (s : State) : ¬ (selfPort < 48 ∧ (s.port selfPort).mode = 4) := by simp [selfPort]

/-- The connection's context once BASE has advanced. -/
theorem look_advance (hc : s.mid.conns.look k = some c) : (s.updConn k fun c => c.advance t).mid.conns.look k = some (c.advance t) := by
  rw [State.updConn_eq hc]
  exact Tab.look_set_self _ _ _

theorem execRemoteRequestReceive_old (h : s.lifetime < t.age) : execRemoteRequestReceive selfPort t s = .next s := by
  simp only [execRemoteRequestReceive, if_neg s.selfPort_not_ualink, if_pos h, portErr_selfPort]

section
variable (hage : t.age ≤ s.lifetime) (hop : t.op = 1 ∨ t.op = 2 ∨ t.op = 3)
include hage hop

theorem execRemoteRequestReceive_unknown (h : (s.mid.conns.find? fun (_, c) => !c.requester && decide (c.number = t.conn)) = none) :
    execRemoteRequestReceive selfPort t s = .next s := by
  obtain ⟨hnotice, -⟩ := op_of_access hop
  simp only [execRemoteRequestReceive, if_neg s.selfPort_not_ualink, if_neg (Nat.not_lt.mpr hage), hnotice, false_and, if_false, h]

section
variable (hc : s.mid.conns.look k = some c) (h : (s.mid.conns.find? fun (_, c) => !c.requester && decide (c.number = t.conn)) = some (k, c))
  (hcached : c.spilled = false)
include hc h hcached

theorem execRemoteRequestReceive_judges :
    execRemoteRequestReceive selfPort t s = .next (kickHeld (judgeReq (s.updConn k fun c => c.advance t) k selfPort (c.advance t) t) k) := by
  obtain ⟨hnotice, -⟩ := op_of_access hop
  simp only [execRemoteRequestReceive, if_neg s.selfPort_not_ualink, if_neg (Nat.not_lt.mpr hage), hnotice, false_and, if_false, h, hcached, Bool.false_eq_true,
    if_true, State.updConn_eq hc, Tab.look_set_self]

theorem execRemoteRequestReceive_beyond (hfar : 1024 ≤ seqDist t.seq (c.advance t).base) :
    ∃ u, execRemoteRequestReceive selfPort t s = .next u ∧ (s.updConn k fun c => c.advance t).Sends u := by
  have hexec := execRemoteRequestReceive_judges hage hop hc h hcached
  rw [judgeReq_beyond hfar] at hexec
  exact ⟨_, hexec, State.Sends.kickHeld _ k⟩

section
variable (hnear : seqDist t.seq (c.advance t).base < 1024)
include hnear

theorem execRemoteRequestReceive_new (hseen : t.seq ∉ (c.advance t).seen) (hheld : (c.advance t).hold.length < 64) :
    ∃ u n, execRemoteRequestReceive selfPort t s = .next u ∧ n < 64 ∧ (∀ h ∈ (c.advance t).hold, h.slot ≠ n) ∧ u.due 0 (.remotePerform k t.seq) ∧
      ((s.updConn k fun c => c.advance t).updConn k fun c => { c with
        seen := t.seq :: c.seen, hold := c.hold ++ [{ slot := n, seq := t.seq, port := selfPort, txn := t }], lastUse := s.now }).Sends u := by
  have hexec := execRemoteRequestReceive_judges hage hop hc h hcached
  rw [judgeReq_new hnear hop hseen hheld] at hexec
  obtain ⟨n, hn, hfree, hdue, hsends⟩ := acceptReq_eq (port := selfPort) (look_advance hc) hop hseen hheld
  obtain ⟨-, -, -, hnow⟩ := s.updConn_keeps k fun c => c.advance t
  rw [hnow] at hsends
  have hkick := State.Sends.kickHeld (acceptReq (s.updConn k fun c => c.advance t) k selfPort t) k
  exact ⟨_, n, hexec, hn, hfree, hkick.due hdue, hsends.trans hkick⟩

theorem execRemoteRequestReceive_again {w : DWord} (hwrite : t.op = 2) (hseen : t.seq ∈ (c.advance t).seen)
    (hheld : ∀ h ∈ (c.advance t).hold, h.seq ≠ t.seq)
    (hdone : (c.advance t).done.find? (fun p => decide (p.1 = t.seq)) = some (t.seq, w)) :
    ∃ u, execRemoteRequestReceive selfPort t s = .next u ∧ (s.updConn k fun c => c.advance t).Sends u ∧
      u.due 0 (.remoteCompletionReceive s.pkg (answerTxn Op.wrack t w 0 [])) := by
  have hexec := execRemoteRequestReceive_judges hage hop hc h hcached
  obtain ⟨-, -, hpkg, -⟩ := s.updConn_keeps k fun c => c.advance t
  rw [judgeReq_again hnear hwrite hseen hheld hdone, sendAnswer_selfPort, arrival_wrack, hpkg] at hexec
  have hkick := State.Sends.kickHeld ((s.updConn k fun c => c.advance t).push 0 0 (.remoteCompletionReceive s.pkg (answerTxn Op.wrack t w 0 []))) k
  exact ⟨_, hexec, (State.Sends.push _ _ _ _).trans hkick, hkick.due (State.due_push _ _ _ _)⟩

end
end
end

theorem execRemotePerform_done {s1 : State} {q : Nat} {h : Held} {w : DWord} {data : List Byte} (hc : s.mid.conns.look k = some c)
    (hheld : c.hold.find? (fun h => decide (h.seq = q)) = some h) (hturn : c.before h.txn = false)
    (hperformed : performReq s k c h.txn = .done s1 w data) :
    ∃ f : Conn → Conn, ∃ u, execRemotePerform k q s = .next u ∧ (s1.updConn k f).Sends u ∧
      (f c).hold = c.hold.filter (fun y => decide (y.seq ≠ q)) ∧ (f c).done.head? = some (q, w) ∧ (f c).seen = c.seen := by
  simp only [execRemotePerform, hc, hheld, hturn, Bool.false_eq_true, if_false, hperformed]
  exact ⟨_, _, rfl, (State.Sends.sendAnswer _ _ _ _).trans (State.Sends.kickHeld _ k), rfl, rfl, rfl⟩

end

/-! ### Remote accesses -/

/-- Attempt `n` of a request as the claim states it: its SEQ stays, it is sent now, and its wait begins. -/
theorem sendAttempt_sent {s : State} {q : Nat} {r : Req} {c : Conn} (hr : s.mid.reqs.look q = some r) (hc : s.mid.conns.look r.conn = some c) (n : Nat) :
    ∃ y, (sendAttempt s q n).mid.reqs.look q = some y ∧ (sendAttempt s q n).mid.conns = s.mid.conns ∧
      (∀ job rank, (sendAttempt s q n).rank job rank = s.rank job rank) ∧ (sendAttempt s q n).mem = s.mem ∧
      (s.now + attemptWait r.toexp n, 0, .remoteRetryTimeout q n) ∈ (sendAttempt s q n).agenda ∧ y.st = .sent n ∧ y.lastSend = s.now ∧
      (y.txn.seq = r.txn.seq ∧ y.txn.op = r.txn.op ∧ y.txn.taddr = r.txn.taddr) ∧ y.txn.data = r.txn.data := by
  obtain ⟨u, v, y, hu, hv, heq, hst, hlast, hfields⟩ := sendAttempt_eq hr hc n
  rw [heq]
  refine ⟨y, ?_, hv.conns.trans hu.conns, fun job rank => (hv.rank job rank).trans (hu.rank job rank), hv.mem.trans hu.mem, ?_, hst, hlast, hfields⟩
  · rw [State.push_mid, hv.reqs]
    exact Tab.look_set_self _ _ _
  · rw [← hu.now, ← hv.now]
    exact List.mem_append_right _ (List.mem_singleton_self _)

/-- R121, R124: what the send of a request that may go leaves of its connection, its rank and itself. -/
theorem sendNext_sent {s : State} {k q : Nat} {c : Conn} {r : Req} (hc : s.mid.conns.look k = some c)
    (hfirst : (c.queue.take 16).find? (fun q => (s.mid.reqs.look q).any (fun r => decide (r.st = .queued))) = some q)
    (hr : s.mid.reqs.look q = some r) (hconn : r.conn = k) (h : s.MaySend k c r) :
    ∃ y, (sendNext s k).mid.conns.look k = some { c with nextSeq := (c.nextSeq + 1) % 2 ^ 24, credits := c.credits - 1, lastUse := s.now } ∧
      (sendNext s k).mid.reqs.look q = some y ∧ y.st = .sent 0 ∧
      (y.txn.seq = c.nextSeq ∧ y.txn.op = r.txn.op ∧ y.txn.taddr = r.txn.taddr ∧ y.txn.data = r.txn.data) ∧ y.lastSend = s.now ∧
      (sendNext s k).rank c.job c.rank = { s.rank c.job c.rank with outst := satAdd 16 (s.rank c.job c.rank).outst 1 } ∧
      (s.now + attemptWait r.toexp 0, 0, .remoteRetryTimeout q 0) ∈ (sendNext s k).agenda ∧ (sendNext s k).mem = s.mem := by
  obtain ⟨u, v, t, hsend, huv, hconns, hreqs, hrank, hnow, hmem, ⟨htseq, htop, httaddr⟩, htdata⟩ := sendNext_sends hc hfirst hr h
  have hvnow : v.now = s.now := huv.now.trans hnow
  have hvr : v.mid.reqs.look q = some { r with txn := t } := by rw [huv.reqs, hreqs, Tab.look_set_self]
  have hvc := Tab.look_set_self s.mid.conns k { c with nextSeq := (c.nextSeq + 1) % 2 ^ 24, credits := c.credits - 1, lastUse := s.now }
  rw [← hconns, ← huv.conns] at hvc
  obtain ⟨y, hy, hyconns, hyrank, hymem, hdue, hyst, hylast, ⟨hyseq, hyop, hytaddr⟩, hydata⟩ := sendAttempt_sent hvr (hconn ▸ hvc) 0
  rw [hsend]
  exact ⟨y, (congrArg (Tab.look · k) hyconns).trans hvc, hy, hyst, ⟨hyseq.trans htseq, hyop.trans htop, hytaddr.trans httaddr, hydata.trans htdata⟩,
    hylast.trans hvnow, (hyrank _ _).trans ((huv.rank _ _).trans hrank), List.mem_append_left _ (hvnow ▸ hdue), hymem.trans (huv.mem.trans hmem)⟩

theorem State.lifetime_eq (s : State) : s.lifetime = s.mid.fabtime.toNat % 256 := by
  simp [State.lifetime, fld]

/-- Settles O40: each clause is the lemma of its step; a request that ends is `resolve_ends`, one that goes out `sendAttempt_sent`. -/
theorem remoteAccesses : Obligations.RemoteAccesses := by
  refine ⟨fun s k q n pkg c r tx hc hr hconn hk hrising => ?_, fun s s1 k q c tx h w data hc => ?_⟩
  · rw [← s.lifetime_eq]
    refine ⟨fun hsubj hfirst => ?_, fun hst => ⟨fun hn => ?_, fun hn => ?_⟩, fun hsubj hst hover => ?_, fun hans hover => ?_,
      fun hans hover hopens => execRemoteCompletionReceive_late hans hover hopens, fun hans hworld => ?_⟩
    · have hexec := execRemoteRequestSend_eq hsubj hk
      refine ⟨fun hv => ?_, fun hv hfenced => ?_, fun hv hfenced hst => ?_,
        fun hv hfenced hhold hst hspilled hworld hclass hcredits hroom hseq hbudget hual => ?_⟩
      · exact ⟨_, hexec.trans (congrArg _ (sendNext_invalid hc hfirst hr hv)), resolve_ends hrising hr _ _⟩
      · exact ⟨_, hexec.trans (congrArg _ (sendNext_fenced hc hfirst hr hv hfenced)), resolve_ends hrising hr _ _⟩
      · exact ⟨_, hexec.trans (congrArg _ (sendNext_failed hc hfirst hr hv hfenced hst)), resolve_ends hrising hr _ _⟩
      · obtain ⟨y, hx, hy, hyst, ⟨hyseq, hyop, hytaddr, hydata⟩, hylast, hrank, hdue, hmem⟩ := sendNext_sent hc hfirst hr hconn
          ⟨hv, hfenced, hhold, hst, hspilled, hworld, hclass, hcredits, hroom, hseq, hbudget, hual⟩
        exact ⟨_, _, y, hexec, hx, hy, rfl, rfl, hyst, hyseq, hyop, hytaddr, hydata, hylast, congrArg RankEnt.outst hrank, hdue, hmem⟩
    · obtain ⟨y, hy, -, -, -, hdue, hyst, hylast, ⟨hyseq, -⟩, -⟩ := sendAttempt_sent hr (hconn ▸ hc) (n + 1)
      exact ⟨_, y, execRemoteRetryTimeout_again hr hst hn, hy, hyst, hyseq, hylast, hdue⟩
    · refine ⟨_, execRemoteRetryTimeout_last hr hst hn, ?_, ?_⟩
      · rw [State.updReq_eq hr]
        exact Tab.look_set_self _ _ _
      · rw [State.updReq_eq hr]
        exact List.mem_append_right _ (List.mem_singleton_self _)
    · exact ⟨_, execLifetimeExpiry_eq hr hsubj hst hover, resolve_ends hrising hr _ _⟩
    · exact execRemoteCompletionReceive_unknown hans (State.cameOver_eq_none hover)
    · have hexec := execRemoteCompletionReceive_answers hans hr (hconn ▸ hc) hworld
      have hended := resolve_ends (s := restartTimer s r.job r.rank) hrising hr (setFld (tx.d2 &&& 0x0000FFFFFFFFFFFF) 36 12 r.rank)
        (tx.data.take (if tx.op = Op.rdrsp then Nat.min r.txn.len tx.dataBytes else tx.dataBytes))
      obtain ⟨-, hlast⟩ := resolve_keeps (s := restartTimer s r.job r.rank) hr (setFld (tx.d2 &&& 0x0000FFFFFFFFFFFF) 36 12 r.rank)
        (tx.data.take (if tx.op = Op.rdrsp then Nat.min r.txn.len tx.dataBytes else tx.dataBytes))
      refine ⟨⟨_, hexec, hended⟩, _, hexec, ?_⟩
      rw [hlast]
      simp [restartTimer, Tab.val]
  · rw [← s.lifetime_eq]
    refine ⟨execRemoteRequestReceive_old, fun hage hop => ⟨execRemoteRequestReceive_unknown hage hop, fun hfind hcached => ?_⟩,
      fun hheld hturn hperformed hc1 => ?_⟩
    · have hlook := look_advance (t := tx) hc
      obtain ⟨hmem, hctxs, -, -⟩ := s.updConn_keeps k fun c => c.advance tx
      refine ⟨fun hfar => ?_, fun hnear hseen hheld => ?_, fun hnear hseen hheld hwrite hdone => ?_⟩
      · obtain ⟨u, hexec, hsends⟩ := execRemoteRequestReceive_beyond hage hop hc hfind hcached hfar
        exact ⟨u, hexec, hsends.conns ▸ hlook, hsends.mem.trans hmem, hsends.ctxs.trans hctxs, trivial⟩
      · obtain ⟨u, n, hexec, hn, hfree, hdue, hsends⟩ := execRemoteRequestReceive_new hage hop hc hfind hcached hnear hseen hheld
        obtain ⟨haccepted, -⟩ := State.Sends.look_updConn hlook (State.Sends.refl _) hsends
        obtain ⟨hmem', hctxs', -, -⟩ := (s.updConn k fun c => c.advance tx).updConn_keeps k fun c => { c with
          seen := tx.seq :: c.seen, hold := c.hold ++ [{ slot := n, seq := tx.seq, port := selfPort, txn := tx }], lastUse := s.now }
        exact ⟨n, hn, hfree, u, hexec, haccepted, hsends.mem.trans (hmem'.trans hmem), hsends.ctxs.trans (hctxs'.trans hctxs), hdue⟩
      · obtain ⟨u, hexec, hsends, hdue⟩ := execRemoteRequestReceive_again hage hop hc hfind hcached hnear hwrite hseen hheld hdone
        exact ⟨u, hexec, hsends.conns ▸ hlook, hsends.mem.trans hmem, hsends.ctxs.trans hctxs, _, hdue, answerTxn_op Op.wrack tx w 0 [],
          answerTxn_seq Op.wrack tx w 0 [], rfl⟩
    · obtain ⟨f, u, hexec, hsends, hhold, hdone, hseen⟩ := execRemotePerform_done hc hheld hturn hperformed
      obtain ⟨hlook, -⟩ := State.Sends.look_updConn hc1 (State.Sends.refl s1) hsends
      obtain ⟨hmem, hctxs, -, -⟩ := s1.updConn_keeps k f
      exact ⟨u, f c, hexec, hlook, hhold, hdone, hseen, hsends.mem.trans hmem, hsends.ctxs.trans hctxs⟩

end Sys2Proof.Machine
end

section
/-! PROOF. Banks asleep and awake, quadrants gated and cleared, cores, links and dies out of service and back (O34). -/

namespace Sys2Proof.Machine

/-! ### Tables, runs of numbers, memory -/

theorem Tab.val_set {α : Type} (d : α) (t : Tab α) (n : Nat) (a : α) (k : Nat) : (Tab.set t n a).val d k = if k = n then a else t.val d k := by
  unfold Tab.val
  split
  · next h => rw [h, Tab.look_set_self, Option.getD_some]
  · next h => rw [Tab.look_set_other _ _ (Ne.symm h)]

theorem Tab.val_foldl_set {α : Type} (d : α) (l : List Nat) (t : Tab α) (a : α) (k : Nat) :
    Tab.val d (l.foldl (fun t n => Tab.set t n a) t) k = if k ∈ l then a else t.val d k := by
  induction l generalizing t with
  | nil => simp
  | cons n l ih =>
    rw [List.foldl_cons, ih, Tab.val_set, ← ite_or]
    exact if_congr (by rw [List.mem_cons, or_comm]) rfl rfl

theorem mem_span {lo n k : Nat} : k ∈ span lo n ↔ lo ≤ k ∧ k < lo + n := by
  simp only [span, List.mem_map, List.mem_range]
  exact ⟨by rintro ⟨i, hi, rfl⟩; omega, fun h => ⟨k - lo, by omega, by omega⟩⟩

/-- A byte whose cell is kept reads as before, whatever cells are taken away. -/
theorem Memory.byte_filter_of_keeps {p : Host.Cell → Bool} {a : Nat} (hp : ∀ v, p (a, v) = true) (m : List Host.Cell) :
    Memory.byte (m.filter p) a = Memory.byte m a := by
  induction m with
  | nil => rfl
  | cons c m ih =>
    obtain ⟨k, v⟩ := c
    rw [List.filter_cons]
    split
    · simp only [Memory.byte, ih]
    · next hdrop =>
      have hk : k ≠ a := by rintro rfl; exact hdrop (hp v)
      rw [ih, Memory.byte, if_neg hk]

/-! ### Steps to come -/

theorem State.pushOnce_frame (s : State) (delay subj : Nat) (e : Instr) : ∃ a, s.pushOnce delay subj e = { s with agenda := a } := by
  unfold State.pushOnce
  split <;> exact ⟨_, rfl⟩

@[simp] theorem State.pushOnce_core (s : State) (delay subj : Nat) (e : Instr) (k : Nat) : (s.pushOnce delay subj e).core k = s.core k := by
  obtain ⟨a, h⟩ := s.pushOnce_frame delay subj e
  rw [h]
  rfl

@[simp] theorem State.pushOnce_die (s : State) (delay subj : Nat) (e : Instr) (d : Nat) : (s.pushOnce delay subj e).die d = s.die d := by
  obtain ⟨a, h⟩ := s.pushOnce_frame delay subj e
  rw [h]
  rfl

@[simp] theorem State.pushOnce_mid (s : State) (delay subj : Nat) (e : Instr) : (s.pushOnce delay subj e).mid = s.mid := by
  obtain ⟨a, h⟩ := s.pushOnce_frame delay subj e
  rw [h]

@[simp] theorem State.pushOnce_linksDown (s : State) (delay subj : Nat) (e : Instr) : (s.pushOnce delay subj e).linksDown = s.linksDown := by
  obtain ⟨a, h⟩ := s.pushOnce_frame delay subj e
  rw [h]

/-! ### Banks and quadrants (R43, R44) -/

theorem zeroQuad_byteAt (s : State) (core quad a : Nat) :
    let lo := 2 ^ 40 + core * 2 ^ 23 + quad * 2 ^ 21
    (zeroQuad s core quad).byteAt a = if lo ≤ a ∧ a < lo + 2 ^ 21 then 0 else s.byteAt a := by
  dsimp only
  split
  · exact Memory.byte_filter_of_drops (fun _ => decide_eq_false (by simp only [sliceCell]; omega)) _
  · exact Memory.byte_filter_of_keeps (fun _ => decide_eq_true (by simp only [sliceCell]; omega)) _

theorem setQuad_bank (s : State) (core quad : Nat) (b : Bank) (k : Nat) :
    ((setQuad s core quad b).core core).banks.val .gated k
      = if 8 * quad ≤ k ∧ k < 8 * quad + 8 then b else (s.core core).banks.val .gated k := by
  rw [setQuad, State.core_updCore, Tab.val_foldl_set]
  exact if_congr mem_span rfl rfl

/-- What watching banks changes: the steps to come and the counter of free values. -/
theorem foldl_watchBank_frame (core : Nat) (l : List Nat) (s : State) :
    ∃ n a, l.foldl (fun s b => watchBank s core b) s = { s with tick := n, agenda := a } := by
  induction l generalizing s with
  | nil => exact ⟨s.tick, s.agenda, rfl⟩
  | cons b l ih =>
    obtain ⟨n, a, h⟩ := ih (watchBank s core b)
    exact ⟨n, a, h⟩

theorem execBankDrowsy_sleeps {s : State} {core bank n : Nat} (h : (s.core core).banks.val .gated bank = .active n) (hidle : n + 1025 ≤ s.now) :
    execBankDrowsy core bank s = .next (s.updCore core fun c => { c with banks := c.banks.set bank .drowsy }) := by
  simp only [execBankDrowsy, h, if_pos hidle]

theorem execBankDrowsy_waits {s : State} {core bank n : Nat} (h : (s.core core).banks.val .gated bank = .active n) (hused : s.now < n + 1025) :
    execBankDrowsy core bank s = .next (s.push (n + 1025 - s.now) 0 (.bankDrowsy core bank)) := by
  simp only [execBankDrowsy, h, if_neg (Nat.not_le.mpr hused)]

theorem execBankWake_wakes {s : State} {core bank n : Nat} (h : (s.core core).banks.val .gated bank = .waking n) (hover : n ≤ s.now) :
    execBankWake core bank s
      = .next (watchBank (s.updCore core fun c => { c with banks := c.banks.set bank (.active s.now) }) core bank) := by
  simp only [execBankWake, h, if_pos hover]

theorem execQuadrantGate_gates {s : State} {core quad : Nat} (hfree : (s.core core).ctx = none) (hgate : s.mayGate core quad = true) :
    execQuadrantGate core quad s = .next (setQuad (zeroQuad s core quad) core quad .gated) := by
  rw [execQuadrantGate, if_pos (by simp [hfree, hgate])]

theorem execQuadrantClear_clears {s : State} {core quad n : Nat} (h : (s.core core).banks.val .gated (8 * quad) = .clearing n) (hover : n ≤ s.now) :
    execQuadrantClear core quad s
      = .next ((span (8 * quad) 8).foldl (fun s b => watchBank s core b) (setQuad (zeroQuad s core quad) core quad (.active s.now))) := by
  simp only [execQuadrantClear, h, if_pos hover]

/-! ### Error records (R430, R431) -/

/-- From `s` to `t` an error record may have been written: memory with its keys, tokens, the log of a die and the interrupts may differ. -/
def State.Records (s t : State) : Prop :=
  ∃ m k r ds ho, t = { s with mem := m, keyed := k, arb := { s.arb with regions := r }, dies := ds, host := ho }

namespace State.Records

theorem refl (s : State) : s.Records s := ⟨_, _, _, _, _, rfl⟩

theorem trans {s t u : State} (h : s.Records t) (g : t.Records u) : s.Records u := by
  obtain ⟨_, _, _, _, _, rfl⟩ := h
  obtain ⟨m, k, r, ds, ho, rfl⟩ := g
  exact ⟨m, k, r, ds, ho, rfl⟩

theorem keeps {s t : State} (h : s.Records t) : t.bad = s.bad ∧ t.cores = s.cores ∧ t.ctxs = s.ctxs ∧ t.agenda = s.agenda := by
  obtain ⟨_, _, _, _, _, rfl⟩ := h
  exact ⟨rfl, rfl, rfl, rfl⟩

theorem updDie (s : State) (d : Nat) (f : Die → Die) : s.Records (s.updDie d f) := ⟨_, _, _, _, _, rfl⟩

theorem msix (s : State) (v : Nat) : s.Records (s.msix v) := by
  unfold State.msix
  split <;> exact ⟨_, _, _, _, _, rfl⟩

theorem devWrite {s : State} (w : Who) {pa : Nat} {bs : List Byte} (h : pa + bs.length ≤ 2 ^ 39) : s.Records (s.devWrite w pa bs) := by
  obtain ⟨m, k, r, hwrite⟩ := State.devWrite_frame (s := s) (w := w) h
  exact ⟨m, k, r, _, _, hwrite⟩

/-- A record of 32 bytes stands in the log of its die, which lies in HBM. -/
theorem logError {s : State} {d : Nat} (h : s.logSafe d) (cls req core pa region dw1 : Nat) (detail : DWord) (corrected : Bool) :
    s.Records (Machine.logError s d cls req core pa region dw1 detail corrected) := by
  obtain ⟨-, hlog⟩ := h
  have hslot : (s.die d).logTail % 2 ^ ((s.die d).loglog + 8) < 2 ^ ((s.die d).loglog + 8) := Nat.mod_lt _ (Nat.two_pow_pos _)
  unfold Machine.logError
  extract_lets e ms used size allowed room rec0 rec1 bytes at_ pc written
  have hwritten : s.Records written := by
    unfold written
    split
    · have hin : at_ + bytes.length ≤ 2 ^ 39 := by
        simp only [at_, bytes, size, e, leBytes, List.length_append, List.length_cons, List.length_nil]
        omega
      exact (devWrite whoDevice hin).trans (updDie _ _ _)
    · exact updDie _ _ _
  split
  · exact refl s
  · split
    · exact hwritten.trans (msix _ _)
    · exact hwritten

theorem core {s t : State} (h : s.Records t) (k : Nat) : t.core k = s.core k := by
  obtain ⟨-, hcores, -, -⟩ := h.keeps
  rw [State.core, hcores, State.core]

theorem due {s t : State} (h : s.Records t) {subj : Nat} {i : Instr} (hdue : s.due subj i) : t.due subj i := by
  obtain ⟨-, -, -, hagenda⟩ := h.keeps
  rwa [State.due, hagenda]

end State.Records

/-- A device step that ends by recording an error ends without a fault. -/
theorem fin_logError {s : State} {d : Nat} (h : s.logSafe d) (cls req core pa region dw1 : Nat) (detail : DWord) (corrected : Bool) :
    ∃ t, fin (logError s d cls req core pa region dw1 detail corrected) = .next t ∧ s.Records t := by
  have hrec := State.Records.logError h cls req core pa region dw1 detail corrected
  obtain ⟨hbad, -, -, -⟩ := hrec.keeps
  exact ⟨_, fin_ok (hbad.trans h.1), hrec⟩

/-! ### Cores out of service (R433) -/

/-- Steps to come that are pushed, each once, change nothing but the steps to come, and each of them is due. -/
theorem foldl_pushOnce_eq (subj : Nat) (f : Nat → Instr) (l : List Nat) (s : State) :
    ∃ a, l.foldl (fun s q => s.pushOnce 0 subj (f q)) s = { s with agenda := a } ∧ s.agenda ⊆ a ∧
      ∀ q ∈ l, State.due { s with agenda := a } subj (f q) := by
  induction l generalizing s with
  | nil => exact ⟨s.agenda, rfl, List.Subset.refl _, by simp⟩
  | cons q l ih =>
    obtain ⟨b, hb⟩ := s.pushOnce_frame 0 subj (f q)
    obtain ⟨a, ha, hsub, hdue⟩ := ih (s.pushOnce 0 subj (f q))
    have hfirst := s.due_pushOnce 0 subj (f q)
    have hmore := (State.Sends.pushOnce s 0 subj (f q)).agenda
    rw [List.foldl_cons, ha]
    rw [hb] at hdue hsub hfirst hmore ⊢
    exact ⟨a, rfl, List.Subset.trans hmore hsub, List.forall_mem_cons.mpr ⟨hfirst.imp fun _ h => hsub h, hdue⟩⟩

theorem fenceClean_eq {s : State} {core : Nat} (hfenced : (s.core core).fenced = true) (hfree : (s.core core).ctx = none) :
    ∃ a, fenceClean s core = { s.updCore core fun c => { c with spt := [] } with agenda := a } ∧
      ∀ q, q < 4 → (fenceClean s core).due 0 (.quadrantGate core q) := by
  obtain ⟨a, ha, -, hdue⟩ := foldl_pushOnce_eq 0 (Instr.quadrantGate core) (List.range 4) (s.updCore core fun c => { c with spt := [] })
  have hclean : fenceClean s core = { s.updCore core fun c => { c with spt := [] } with agenda := a } := (if_pos ⟨hfenced, hfree⟩).trans ha
  exact ⟨a, hclean, fun q hq => hclean ▸ hdue q (List.mem_range.mpr hq)⟩

/-- The core marked as fenced. -/
def State.fence (s : State) (core : Nat) : State := s.updCore core fun c => { c with fenced := true }

theorem State.core_fence (s : State) (core : Nat) : (s.fence core).core core = { s.core core with fenced := true } := s.core_updCore core _

/-- R433: the write that fences the core of `s.subj` has an effect: the core serves, and the package is ready. -/
def State.Fences (s : State) : Prop := s.subj < 288 ∧ (s.core s.subj).fenced = false ∧ s.host.phase = 6

theorem State.Fences.exec_eq {s : State} (h : s.Fences) : execCorestatFenceWrite s
    = fin (logError (if ((s.fence s.subj).core s.subj).ctx.isSome then (s.fence s.subj).push 0 0 (.switchRequest s.subj 2)
        else fenceClean (s.fence s.subj) s.subj) (dieOf s.subj) 0x0A 6 s.subj 0 0 0 0 false) := by
  obtain ⟨hcore, hserves, hready⟩ := h
  exact if_neg (by simp [hserves, hready, State.hostReady, hcore])

/-- R433: a task on the fenced core is asked out. -/
theorem State.Fences.occupied {s : State} (h : s.Fences) (hlog : s.logSafe (dieOf s.subj)) (hctx : (s.core s.subj).ctx ≠ none) :
    ∃ t, execCorestatFenceWrite s = .next t ∧ (t.core s.subj).fenced = true ∧ (t.core s.subj).spt = (s.core s.subj).spt ∧
      t.due 0 (.switchRequest s.subj 2) := by
  obtain ⟨t, ht, hrec⟩ := fin_logError (s := (s.fence s.subj).push 0 0 (.switchRequest s.subj 2)) (d := dieOf s.subj) hlog 0x0A 6 s.subj 0 0 0 0 false
  have htask : ((s.fence s.subj).core s.subj).ctx.isSome = true := by rw [s.core_fence]; exact Option.isSome_iff_ne_none.mpr hctx
  have hcore : t.core s.subj = { s.core s.subj with fenced := true } := (hrec.core s.subj).trans (s.core_fence s.subj)
  exact ⟨t, by rw [h.exec_eq, if_pos htask, ht], by rw [hcore], by rw [hcore], hrec.due (State.due_push _ _ _ _)⟩

/-- R433: with no task on it, the fenced core's permissions go and its quadrants are to be gated. -/
theorem State.Fences.free {s : State} (h : s.Fences) (hlog : s.logSafe (dieOf s.subj)) (hctx : (s.core s.subj).ctx = none) :
    ∃ t, execCorestatFenceWrite s = .next t ∧ (t.core s.subj).fenced = true ∧ (t.core s.subj).spt = [] ∧
      ∀ q, q < 4 → t.due 0 (.quadrantGate s.subj q) := by
  have hfenced : (s.fence s.subj).core s.subj = { s.core s.subj with fenced := true } := s.core_fence s.subj
  obtain ⟨a, hclean, hdue⟩ := fenceClean_eq (s := s.fence s.subj) (core := s.subj) (by rw [hfenced]) (by rw [hfenced]; exact hctx)
  obtain ⟨t, ht, hrec⟩ := fin_logError (s := fenceClean (s.fence s.subj) s.subj) (d := dieOf s.subj) (hclean ▸ hlog) 0x0A 6 s.subj 0 0 0 0 false
  have hcore : t.core s.subj = { s.core s.subj with fenced := true, spt := [] } := by
    rw [hrec.core, hclean]
    exact ((s.fence s.subj).core_updCore s.subj fun c => { c with spt := [] }).trans (by rw [hfenced])
  exact ⟨t, by rw [h.exec_eq, if_neg (by simp [hfenced, hctx]), ht], by rw [hcore], by rw [hcore], fun q hq => hrec.due (hdue q hq)⟩

theorem execCorestatFreqWrite_asks {s : State} (hfenced : (s.core s.subj).fenced = true) (hready : s.host.phase = 6) :
    execCorestatFreqWrite s = .next ((s.updCore s.subj fun c => { c with freq := true }).pushOnce 0 s.subj .selftestRun) :=
  if_pos ⟨hfenced, decide_eq_true hready⟩

theorem execSelftestRun_starts {s : State} (hfenced : (s.core s.subj).fenced = true) (hasked : (s.core s.subj).freq = true)
    (htestable : s.testable s.subj = true) :
    execSelftestRun s = .next ((s.updCore s.subj fun c => { c with freq := false, selftest := 1 }).push 1 s.subj .selftestDone) := by
  simp only [execSelftestRun, hfenced, hasked, htestable]
  rfl

theorem execSelftestDone_passes {s : State} (hrun : (s.core s.subj).selftest = 1)
    (hall : ∀ q, q < 256 → Config.katMatches s.host.boots s.subj q = true) :
    execSelftestDone s = .next (callArbiter (s.updCore s.subj fun c => { c with fenced := false, selftest := 2 })) := by
  have hnone : (List.range 256).find? (fun q => !Config.katMatches s.host.boots s.subj q) = none := by simpa using hall
  simp only [execSelftestDone, hrun, hnone]
  rfl

theorem execSelftestDone_fails {s : State} (hlog : s.logSafe (dieOf s.subj)) (hrun : (s.core s.subj).selftest = 1)
    (hsome : ∃ q, q < 256 ∧ Config.katMatches s.host.boots s.subj q = false) :
    ∃ t, execSelftestDone s = .next t ∧ t.core s.subj = { s.core s.subj with selftest := 3 } := by
  obtain ⟨q, hq⟩ : ∃ q, (List.range 256).find? (fun q => !Config.katMatches s.host.boots s.subj q) = some q := by
    rw [← Option.isSome_iff_exists]; simpa using hsome
  obtain ⟨t, ht, hrec⟩ := fin_logError (s := s.updCore s.subj fun c => { c with selftest := 3 }) (d := dieOf s.subj) hlog 0x06 4 s.subj 0 0 0
    (BitVec.ofNat 64 (q * 2 ^ 16 + katSum q)) false
  exact ⟨t, by simp only [execSelftestDone, hrun, hq]; exact ht, (hrec.core s.subj).trans (s.core_updCore _ _)⟩

/-! ### Links and dies (R435 to R437) -/

theorem execDieLinkRetrain_trains {s : State} (h : 0 < s.linkTok s.subj) :
    ∃ t, execDieLinkRetrain s = .next t ∧ (∀ l, l ∈ t.linksDown ↔ l ∈ s.linksDown ∧ l ≠ s.subj) ∧
      t.linkTok s.subj = s.linkTok s.subj - Config.dieTrainTime s.tick ∧ ∀ l, l ≠ s.subj → t.linkTok l = s.linkTok l := by
  refine ⟨_, if_neg (Int.not_le.mpr h), fun l => by simp, ?_, fun l hl => ?_⟩
  · exact (Tab.val_set _ _ _ _ _).trans (if_pos rfl)
  · exact (Tab.val_set _ _ _ _ _).trans (if_neg hl)

theorem execDieLinkRetrain_waits {s : State} (h : s.linkTok s.subj ≤ 0) :
    execDieLinkRetrain s = .next (s.pushOnce 1 s.subj .dieLinkRetrain) := if_pos h

@[simp] theorem State.die_updDie (s : State) (d : Nat) (f : Die → Die) : (s.updDie d f).die d = f (s.die d) := (Tab.val_set _ _ _ _ _).trans (if_pos rfl)

/-- R435: what must hold for a die to come back: its link is up, and each of its cores has passed the self-test. -/
def State.DieGood (s : State) (die : Nat) : Prop := die ∉ s.linksDown ∧ ∀ j, j < 72 → (s.core (72 * die + j)).selftest = 2

theorem execDieenWrite_dieen_iff {s : State} {die : Nat} (v : DWord) (hdie : die < 4) (hready : s.host.phase = 6) :
    ∃ t, execDieenWrite die v s = .next t ∧ ((t.die die).dieen = true ↔ bit v 0 = true ∧ ((s.die die).dieen = true ∨ s.DieGood die)) := by
  have hdone : ¬ (4 ≤ die ∨ s.hostReady = false) := by simp [hdie, State.hostReady, hready]
  have hgood : (decide (die ∉ s.linksDown) && (span (72 * die) 72).all fun k => decide ((s.core k).selftest = 2)) = true ↔ s.DieGood die := by
    simp [State.DieGood, span]
  unfold execDieenWrite
  dsimp only
  rw [if_neg hdone]
  split
  · next hset =>
    split
    · next hin => exact ⟨s, rfl, by simp [hset, hin]⟩
    · next hin =>
      split
      · next hok =>
        exact ⟨_, rfl, by simp [callArbiter, hset, hgood.mp hok]⟩
      · next hbad => exact ⟨s, rfl, by simp [hin, mt hgood.mpr hbad]⟩
  · next hclear => exact ⟨_, rfl, by simp [hclear]⟩

/-! ### Banks, fencing, service -/

/-- Settles O34: each clause is the lemma of its step. -/
theorem banksFencingService : Obligations.BanksFencingService := by
  refine ⟨fun s core bank quad n _ => ?_, fun s die v hlog => ?_⟩
  · extract_lets now lo quadIs
    have hempty (b : Bank) : ∀ a, (setQuad (zeroQuad s core quad) core quad b).byteAt a = if lo ≤ a ∧ a < lo + 2 ^ 21 then 0 else s.byteAt a :=
      zeroQuad_byteAt s core quad
    refine ⟨execBankDrowsy_sleeps, execBankDrowsy_waits, fun hwaking hover => ?_, fun hfree hgate => ?_, fun hclearing hover => ?_⟩
    · refine ⟨_, execBankWake_wakes hwaking hover, rfl, State.due_push _ _ _ _, fun k => ?_⟩
      have hcore := s.core_updCore core fun c => { c with banks := c.banks.set bank (.active s.now) }
      exact (congrArg (fun c : Core => c.banks.val .gated k) hcore).trans (Tab.val_set _ _ _ _ _)
    · exact ⟨_, execQuadrantGate_gates hfree hgate, setQuad_bank (zeroQuad s core quad) core quad .gated, hempty .gated, rfl, rfl⟩
    · obtain ⟨t, a, hwatch⟩ := foldl_watchBank_frame core (span (8 * quad) 8) (setQuad (zeroQuad s core quad) core quad (.active s.now))
      refine ⟨_, (execQuadrantClear_clears hclearing hover).trans (congrArg _ hwatch), ?_⟩
      exact ⟨setQuad_bank (zeroQuad s core quad) core quad (.active s.now), hempty (.active s.now), rfl, rfl⟩
  · refine ⟨fun hcore hserves hready => ?_, fun hfenced hready => ?_, fun hfenced hasked htestable => ?_, fun hrun => ?_,
      execDieLinkRetrain_trains, fun htok => ?_, execDieenWrite_dieen_iff v⟩
    · have hfences : s.Fences := ⟨hcore, hserves, hready⟩
      by_cases hctx : (s.core s.subj).ctx = none
      · obtain ⟨t, hexec, hfenced, hspt, hgates⟩ := hfences.free hlog hctx
        exact ⟨t, hexec, hfenced, fun h => absurd hctx h, fun _ => ⟨hspt, hgates⟩⟩
      · obtain ⟨t, hexec, hfenced, hspt, hasked⟩ := hfences.occupied hlog hctx
        exact ⟨t, hexec, hfenced, fun _ => ⟨hasked, hspt⟩, fun h => absurd h hctx⟩
    · refine ⟨_, execCorestatFreqWrite_asks hfenced hready, ?_, ?_, State.due_pushOnce _ _ _ _⟩
      · rw [State.pushOnce_core, State.core_updCore]
      · rw [State.pushOnce_core, State.core_updCore]
        exact hfenced
    · have hcore := s.core_updCore s.subj fun c => { c with freq := false, selftest := 1 }
      exact ⟨_, execSelftestRun_starts hfenced hasked htestable, congrArg Core.freq hcore, congrArg Core.selftest hcore, State.due_push _ _ _ _⟩
    · by_cases hall : ∀ q, q < 256 → Config.katMatches s.host.boots s.subj q = true
      · refine ⟨_, execSelftestDone_passes hrun hall, fun _ => ?_, fun ⟨q, hq, hdiff⟩ => by simp [hall q hq] at hdiff⟩
        rw [callArbiter, State.pushOnce_core, State.core_updCore]
        exact ⟨rfl, rfl⟩
      · have hsome : ∃ q, q < 256 ∧ Config.katMatches s.host.boots s.subj q = false := by simpa using hall
        obtain ⟨t, hexec, hcore⟩ := execSelftestDone_fails hlog hrun hsome
        exact ⟨t, hexec, fun h => absurd h hall, fun _ => ⟨by rw [hcore], by rw [hcore]⟩⟩
    · exact ⟨_, execDieLinkRetrain_waits htok, State.pushOnce_linksDown _ _ _ _, State.pushOnce_mid _ _ _ _, State.due_pushOnce _ _ _ _⟩

end Sys2Proof.Machine
end

section
/-! PROOF. Scalar stores into the store window, and the traps of scalar accesses (O19). -/

namespace Sys2Proof.Machine

/-! ### Bits of a number with a run of bits replaced -/

/-- The parts of a number with a run of bits replaced: what lies below the run, the run, what lies above it. -/
theorem replaceBits_eq (d lo n v : Nat) :
    d - d / 2 ^ lo % 2 ^ n * 2 ^ lo + v * 2 ^ lo = 2 ^ lo * (2 ^ n * (d / 2 ^ (lo + n)) + v) + d % 2 ^ lo := by
  have hlow := Nat.div_add_mod d (2 ^ lo)
  have hhigh := Nat.div_add_mod (d / 2 ^ lo) (2 ^ n)
  rw [Nat.div_div_eq_div_mul, ← pow_add] at hhigh
  have hsplit : d = 2 ^ lo * (2 ^ n * (d / 2 ^ (lo + n))) + d / 2 ^ lo % 2 ^ n * 2 ^ lo + d % 2 ^ lo := by
    rw [Nat.mul_comm _ (2 ^ lo), ← Nat.mul_add, hhigh, hlow]
  rw [Nat.mul_add, Nat.mul_comm (2 ^ lo) v]
  omega

theorem testBit_replaceBits (d lo : Nat) {n v : Nat} (hv : v < 2 ^ n) (i : Nat) :
    (d - d / 2 ^ lo % 2 ^ n * 2 ^ lo + v * 2 ^ lo).testBit i = if lo ≤ i ∧ i < lo + n then v.testBit (i - lo) else d.testBit i := by
  rw [replaceBits_eq, Nat.testBit_two_pow_mul_add _ (Nat.mod_lt _ (Nat.two_pow_pos lo)), Nat.testBit_two_pow_mul_add _ hv]
  by_cases hbelow : i < lo
  · rw [if_pos hbelow, if_neg (by omega), Nat.testBit_mod_two_pow, decide_eq_true hbelow, Bool.true_and]
  · rw [if_neg hbelow]
    by_cases hin : i < lo + n
    · rw [if_pos (by omega), if_pos (by omega)]
    · rw [if_neg (by omega), if_neg (by omega), Nat.testBit_div_two_pow]
      congr 1
      omega

/-! ### Bytes of a number (R7) -/

@[simp] theorem leBytes_length (n v : Nat) : (leBytes n v).length = n := by
  induction n generalizing v with
  | zero => rfl
  | succ n ih => rw [leBytes, List.length_cons, ih]

theorem leNat_leBytes (n v : Nat) : leNat (leBytes n v) = v % 2 ^ (8 * n) := by
  induction n generalizing v with
  | zero => rw [Nat.mul_zero, pow_zero, Nat.mod_one]; rfl
  | succ n ih =>
    have hpow : 2 ^ (8 * (n + 1)) = 256 * 2 ^ (8 * n) := by rw [Nat.mul_succ, pow_add, Nat.mul_comm]; rfl
    rw [leBytes, leNat, ih, BitVec.toNat_ofNat, hpow, Nat.mod_mul]

/-! ### A line of the store window (R70, R81) -/

/-- The byte a window line holds at an offset, where the task has written one. -/
def WLine.byteAt (l : WLine) (i : Nat) : Option Byte := if l.mask.getLsbD i then some (lineByte l.data i) else none

/-- The window's line at an address. -/
def Ctx.line (c : Ctx) (va : Nat) : Option WLine := c.ph.window.find? fun l => decide (l.va = va)

theorem Ctx.winByte_eq (c : Ctx) (a : Nat) : c.winByte a = (c.line (a / 64 * 64)).bind fun l => l.byteAt (a % 64) := by
  unfold Ctx.winByte Ctx.line
  split
  · next h => rw [h]; rfl
  · next h => rw [h]; rfl

theorem lineByte_getLsbD (l : Line) (i : Nat) {k : Nat} (hk : k < 8) : (lineByte l i).getLsbD k = l.getLsbD (8 * i + k) := by
  rw [lineByte, BitVec.getLsbD_setWidth, BitVec.getLsbD_ushiftRight, decide_eq_true hk, Bool.true_and]

theorem WLine.merge_mask (l : WLine) (off : Nat) (bs : List Byte) {i : Nat} (hi : i < 64) :
    (l.merge off bs).mask.getLsbD i = (l.mask.getLsbD i || decide (off ≤ i ∧ i < off + bs.length)) := by
  have hbit : ((2 ^ bs.length - 1) * 2 ^ off).testBit i = decide (off ≤ i ∧ i < off + bs.length) := by
    rw [Nat.mul_comm, Nat.testBit_two_pow_mul, Nat.testBit_two_pow_sub_one, Bool.eq_iff_iff]
    simp only [Bool.and_eq_true, decide_eq_true_eq]
    omega
  rw [WLine.merge, BitVec.getLsbD_or, BitVec.getLsbD_ofNat, hbit, decide_eq_true hi, Bool.true_and]

theorem WLine.merge_data (l : WLine) {off n i : Nat} (v : DWord) (hi : i < 64) :
    lineByte (l.merge off (leBytes n v.toNat)).data i
      = if off ≤ i ∧ i < off + n then (v >>> (8 * (i - off))).setWidth 8 else lineByte l.data i := by
  have hbit (j : Nat) (hj : j < 512) : (l.merge off (leBytes n v.toNat)).data.getLsbD j
      = if 8 * off ≤ j ∧ j < 8 * off + 8 * n then (v.toNat % 2 ^ (8 * n)).testBit (j - 8 * off) else l.data.getLsbD j := by
    rw [WLine.merge, BitVec.getLsbD_ofNat, leBytes_length, leNat_leBytes, testBit_replaceBits _ _ (Nat.mod_lt _ (Nat.two_pow_pos _)),
      decide_eq_true hj, Bool.true_and]
    rfl
  refine BitVec.eq_of_getLsbD_eq fun k hk => ?_
  rw [lineByte_getLsbD _ _ hk, hbit _ (by omega)]
  by_cases hin : off ≤ i ∧ i < off + n
  · have hidx : 8 * i + k - 8 * off = 8 * (i - off) + k := by omega
    rw [if_pos (by omega), if_pos hin, hidx, Nat.testBit_mod_two_pow, decide_eq_true (by omega), Bool.true_and, BitVec.getLsbD_setWidth,
      BitVec.getLsbD_ushiftRight, decide_eq_true hk, Bool.true_and]
    rfl
  · rw [if_neg (by omega), if_neg hin, lineByte_getLsbD _ _ hk]

theorem WLine.merge_byteAt (l : WLine) {off n i : Nat} (v : DWord) (hi : i < 64) :
    (l.merge off (leBytes n v.toNat)).byteAt i
      = if off ≤ i ∧ i < off + n then some ((v >>> (8 * (i - off))).setWidth 8) else l.byteAt i := by
  rw [WLine.byteAt, l.merge_mask off _ hi, l.merge_data v hi, leBytes_length]
  by_cases hin : off ≤ i ∧ i < off + n
  · simp [hin]
  · simp only [hin, decide_false, Bool.or_false, if_false, WLine.byteAt]

/-! ### The store window (R70) -/

/-- The phase's window has a line at an address, or room for one more. -/
def Ctx.HasRoom (c : Ctx) (ea : Nat) : Prop :=
  c.ph.window.length < 1024 ∨ c.ph.window.any (fun l => decide (l.va = ea / 64 * 64)) = true

theorem Ctx.exists_store {c : Ctx} {ea : Nat} (h : c.HasRoom ea) (bs : List Byte) (p : Place) : ∃ x, c.store ea bs p = some x := by
  unfold Ctx.store
  dsimp only
  split
  · exact ⟨_, rfl⟩
  · next hnew =>
    rw [if_neg (Nat.not_le.mpr (h.resolve_right hnew))]
    exact ⟨_, rfl⟩

theorem Ctx.store_full {c : Ctx} {ea : Nat} (hfull : 1024 ≤ c.ph.window.length)
    (hnew : c.ph.window.any (fun l => decide (l.va = ea / 64 * 64)) = false) (bs : List Byte) (p : Place) : c.store ea bs p = none := by
  simp only [Ctx.store, hnew, Bool.false_eq_true, if_false, if_pos hfull]

@[simp] theorem WLine.merge_va (l : WLine) (off : Nat) (bs : List Byte) : (l.merge off bs).va = l.va := rfl

theorem Ctx.line_isSome (c : Ctx) (va : Nat) : (c.line va).isSome = c.ph.window.any fun l => decide (l.va = va) := by
  rw [Ctx.line, Bool.eq_iff_iff, List.find?_isSome, List.any_eq_true]

/-- A window line after a store: the stored bytes merged in, where it is the store's line. -/
def WLine.stored (ea : Nat) (bs : List Byte) (l : WLine) : WLine := if l.va = ea / 64 * 64 then l.merge (ea % 64) bs else l

theorem WLine.stored_va (ea : Nat) (bs : List Byte) (l : WLine) : (l.stored ea bs).va = l.va := by
  unfold WLine.stored
  split <;> rfl

/-- A store is merged into its line where the window has it; otherwise a new line follows the others, in which nothing had been written. -/
theorem Ctx.store_cases {c x : Ctx} {ea : Nat} {bs : List Byte} {p : Place} (h : c.store ea bs p = some x) :
    (∃ l, c.line (ea / 64 * 64) = some l) ∧ x.ph.window = c.ph.window.map (WLine.stored ea bs) ∨
      c.line (ea / 64 * 64) = none ∧
        ∃ l : WLine, l.va = ea / 64 * 64 ∧ l.mask = 0 ∧ x.ph.window = c.ph.window ++ [l.merge (ea % 64) bs] := by
  unfold Ctx.store at h
  dsimp only at h
  split at h
  · next hin =>
    cases h
    exact .inl ⟨Option.isSome_iff_exists.mp ((c.line_isSome _).trans hin), rfl⟩
  · next hnew =>
    split at h
    · cases h
    · cases h
      exact .inr ⟨by rw [← Option.not_isSome_iff_eq_none, c.line_isSome]; exact hnew, _, rfl, rfl, rfl⟩

/-- A store leaves the other lines of the window alone. -/
theorem Ctx.line_store_other {c x : Ctx} {ea va : Nat} {bs : List Byte} {p : Place} (h : c.store ea bs p = some x) (hva : va ≠ ea / 64 * 64) :
    x.line va = c.line va := by
  rcases Ctx.store_cases h with ⟨-, hwin⟩ | ⟨-, l, hl, -, hwin⟩
  · have hkeep : ∀ l, c.line va = some l → l.stored ea bs = l := by
      intro l hl
      have hat : l.va = va := by simpa using List.find?_some hl
      rw [WLine.stored, if_neg (hat ▸ hva)]
    unfold Ctx.line at hkeep ⊢
    rw [hwin, List.find?_map]
    simp only [Function.comp_def, WLine.stored_va]
    cases hfind : c.ph.window.find? fun l => decide (l.va = va) with
    | none => rfl
    | some l => rw [Option.map_some, hkeep l hfind]
  · have hmiss : decide ((l.merge (ea % 64) bs).va = va) = false := decide_eq_false (by rw [l.merge_va, hl]; exact Ne.symm hva)
    rw [Ctx.line, hwin, List.find?_append, List.find?_singleton, hmiss]
    simp [Ctx.line]

/-- A store is merged into its line, or into a new line in which nothing had been written. -/
theorem Ctx.line_store_self {c x : Ctx} {ea : Nat} {bs : List Byte} {p : Place} (h : c.store ea bs p = some x) :
    ∃ l : WLine, x.line (ea / 64 * 64) = some (l.merge (ea % 64) bs) ∧
      ∀ i, l.byteAt i = (c.line (ea / 64 * 64)).bind fun l => l.byteAt i := by
  rcases Ctx.store_cases h with ⟨⟨l, hl⟩, hwin⟩ | ⟨hnone, l, hl, hmask, hwin⟩
  · have hat : l.va = ea / 64 * 64 := by simpa using List.find?_some hl
    refine ⟨l, ?_, fun i => by rw [hl, Option.bind_some]⟩
    have hfind := hl
    unfold Ctx.line at hfind ⊢
    rw [hwin, List.find?_map]
    simp only [Function.comp_def, WLine.stored_va]
    rw [hfind, Option.map_some, WLine.stored, if_pos hat]
  · refine ⟨l, ?_, fun i => by simp [hnone, WLine.byteAt, hmask]⟩
    unfold Ctx.line at hnone ⊢
    rw [hwin, List.find?_append, hnone, List.find?_singleton, l.merge_va, hl]
    simp

/-- Reading a byte after a store that stays within its line: the bytes stored, and every other byte as before. -/
theorem Ctx.winByte_store {c x : Ctx} {ea n : Nat} {v : DWord} {p : Place} (h : c.store ea (leBytes n v.toNat) p = some x)
    (hfit : ea % 64 + n ≤ 64) (e : Nat) :
    x.winByte e = if ea ≤ e ∧ e < ea + n then some ((v >>> (8 * (e - ea))).setWidth 8) else c.winByte e := by
  rw [x.winByte_eq, c.winByte_eq]
  by_cases hline : e / 64 * 64 = ea / 64 * 64
  · obtain ⟨l, hl, hold⟩ := Ctx.line_store_self h
    have hidx : e % 64 - ea % 64 = e - ea := by omega
    rw [hline, hl, ← hold, Option.bind_some, l.merge_byteAt v (Nat.mod_lt _ (by decide)), hidx]
    exact if_congr (by omega) rfl rfl
  · rw [Ctx.line_store_other h hline, if_neg (by omega)]

/-! ### How a slot ends once its checks have changed the package -/

theorem settle_setCtx_after {s s1 : State} {id : Nat} {c : Ctx} (h : s.Acting id c) (hissue : s1.issue = s.issue) (x : Ctx) :
    settle s (s1.setCtx id x) id = s1.setCtx id { x with regs := s.after x.regs } := by
  obtain ⟨-, -, htrap, hgoto, hstall, hsent⟩ := h
  unfold settle State.after
  by_cases hon : s.issue.on = true
  · simp [hon]
  · have hback : ({ s1.setCtx id x with issue := s.issue } : State) = s1.setCtx id x := by rw [← hissue]; rfl
    simp only [hon, State.setCtx_issue, hissue, htrap, hgoto, hstall, hsent, Bool.false_eq_true, if_false, hback]
    exact State.updCtx_setCtx s1 id x _

/-- A slot that traps after its checks: inside a bundle what the checks changed stays, on its own nothing but the trap does (R284). -/
theorem settle_raise_after {s s1 : State} {id : Nat} {c : Ctx} (h : s.Acting id c) (hissue : s1.issue = s.issue) {cause : Nat} (d : DWord)
    (hcause : cause ≠ Cause.trap ∧ cause ≠ Cause.sys) :
    settle s (s1.raise cause d) id = (if s.issue.on then s1 else s).traps id cause 0 d := by
  obtain ⟨-, -, htrap, -⟩ := h
  by_cases hon : s.issue.on = true
  · simp [settle, hon, State.traps, State.raise, State.raiseAt, hissue, htrap]
  · simp [settle, hon, State.traps, State.raise, State.raiseAt, hissue, htrap, hcause]

theorem State.Sees.rs_eq {s : State} {id : Nat} {c : Ctx} (h : s.Sees id c) (n : BitVec 6) : s.rs c n = c.regs.getS n := by
  obtain ⟨-, hwas, -⟩ := h
  rw [State.rs, State.srcRegs, hwas]

/-! ### Stores (R70, R290, R293) -/

theorem State.accessOk.issue_eq {s s1 : State} {id : Nat} {c : Ctx} {opens : Bool} {acc : Acc} {ea n : Nat} {p : Place}
    (h : s.accessOk id c opens acc ea n p s1) : s1.issue = s.issue := by
  obtain ⟨-, -, -, -, hissue⟩ := h
  exact hissue

/-- What a slot makes of a store to an address that its home admits: the window's new form, if it has room, or the trap. -/
theorem storeAt_admitted {s s1 : State} {id : Nat} {c : Ctx} {p : Place} (v : DWord) {ea size : Nat} (haligned : ea % 2 ^ size = 0)
    (hok : s.accessOk id c false .write ea (2 ^ size) p s1) :
    storeAt s id c v ea size = (c.store ea (leBytes (2 ^ size) v.toNat) p).elim (s1.raise Cause.storeWindowFull 0)
      fun x => s1.setCtx id { c with ph := { c.ph with window := x.ph.window } } := by
  obtain ⟨s0, htranslate, hadmits, hctx, -⟩ := hok
  unfold storeAt
  dsimp only
  rw [if_neg (not_not.mpr haligned), htranslate]
  dsimp only
  rw [hadmits]
  dsimp only
  cases c.store ea (leBytes (2 ^ size) v.toNat) p with
  | some x => exact State.updCtx_eq hctx _
  | none => rfl

/-- ST and STX are one store, at the effective address of each. -/
theorem exec_store {s : State} {id : Nat} {c : Ctx} (h : s.Sees id c) (d a b : BitVec 6) (size : BitVec 2) (off : BitVec 28) (k : BitVec 3) {i : Instr}
    {ea : Nat} (hi : (i, ea) ∈ [(Instr.st d a size off, (c.regs.getS a + (off.signExtend 64) <<< size.toNat).toNat),
      (Instr.stx d a b size k, (c.regs.getS a + c.regs.getS b <<< k.toNat).toNat)]) :
    exec i s = .next (settle s (storeAt s id c (c.regs.getS d) ea size.toNat) id) := by
  simp only [List.mem_cons, List.not_mem_nil, or_false, Prod.mk.injEq] at hi
  rcases hi with ⟨rfl, rfl⟩ | ⟨rfl, rfl⟩
  · rw [← h.rs_eq d, ← h.rs_eq a]
    exact slotStep_eq h.1 _
  · rw [← h.rs_eq d, ← h.rs_eq a, ← h.rs_eq b]
    exact slotStep_eq h.1 _

theorem fits_line_of_aligned {ea : Nat} (size : BitVec 2) (h : ea % 2 ^ size.toNat = 0) : ea % 64 + 2 ^ size.toNat ≤ 64 := by
  have hlt : size.toNat < 4 := size.isLt
  generalize size.toNat = k at h hlt ⊢
  interval_cases k <;> omega

/-! ### Misaligned accesses (R290, R291, R293) -/

theorem slotStep_misaligned {s : State} {id : Nat} {c : Ctx} (h : s.Acting id c) {f : Nat → Ctx → State} (hf : f id c = s.raise Cause.misaligned 0) :
    slotStep s f = .next (s.traps id 0x02 0 0) := slotStep_raise h hf (by decide)

theorem loadAt_misaligned (s : State) (id : Nat) (c : Ctx) (d : BitVec 6) {ea size : Nat} (uns : Bool) (h : ea % 2 ^ size ≠ 0) :
    loadAt s id c d ea size uns = s.raise Cause.misaligned 0 := if_pos h

theorem storeAt_misaligned (s : State) (id : Nat) (c : Ctx) (v : DWord) {ea size : Nat} (h : ea % 2 ^ size ≠ 0) :
    storeAt s id c v ea size = s.raise Cause.misaligned 0 := if_pos h

theorem atomicOp_misaligned {s : State} {id : Nat} {c : Ctx} (hs : s.Sees id c) (d a b : BitVec 6) (sc : BitVec 3) {dw : Bool} (op : Nat)
    (h : (c.regs.getS a).toNat % (if dw then 8 else 4) ≠ 0) : atomicOp s d a b sc dw op = .next (s.traps id 0x02 0 0) :=
  slotStep_misaligned hs.1 (if_pos (by rwa [hs.rs_eq]))

/-! ### Stores and access traps -/

/-- Settles O19: a store is `storeAt_admitted` with `winByte_store` for what the task then reads; each trap is the lemma of its access. -/
theorem storesAndAccessTraps : Obligations.StoresAndAccessTraps := by
  refine ⟨fun s s1 id c p d a b size off k hs i ea hi haligned hok hroom => ?_, fun s s1 id c p d a b size u dw off k sc hs => ?_⟩
  · obtain ⟨x, hx⟩ := Ctx.exists_store hroom (leBytes (2 ^ size.toNat) (c.regs.getS d).toNat) p
    have hread := Ctx.winByte_store hx (fits_line_of_aligned size haligned)
    have hexec := exec_store hs d a b size off k hi
    rw [storeAt_admitted _ haligned hok, hx, Option.elim_some, settle_setCtx_after hs.1 hok.issue_eq] at hexec
    refine ⟨_, _, hexec, s1.ctx_setCtx id _, rfl, fun j hj => ?_, fun e he => ?_, rfl, rfl⟩
    · refine (hread (ea + j)).trans ?_
      rw [if_pos (by omega), Nat.add_sub_cancel_left]
    · exact (hread e).trans (if_neg he)
  · refine ⟨fun h => ⟨?_, ?_⟩, fun h => ⟨?_, ?_⟩, fun h i hi => ?_, fun h => ?_, fun haligned hok hfull hnew => ?_⟩
    · exact slotStep_misaligned hs.1 (loadAt_misaligned s id c d u (by rwa [hs.rs_eq]))
    · exact slotStep_misaligned hs.1 (storeAt_misaligned s id c _ (by rwa [hs.rs_eq]))
    · exact slotStep_misaligned hs.1 (loadAt_misaligned s id c d u (by rwa [hs.rs_eq, hs.rs_eq]))
    · exact slotStep_misaligned hs.1 (storeAt_misaligned s id c _ (by rwa [hs.rs_eq, hs.rs_eq]))
    · obtain ⟨op, hop⟩ : ∃ op, exec i s = atomicOp s d a b sc dw op := by
        simp only [List.mem_cons, List.not_mem_nil, or_false] at hi
        rcases hi with rfl | rfl | rfl | rfl | rfl | rfl | rfl | rfl <;> exact ⟨_, rfl⟩
      rw [hop]
      exact atomicOp_misaligned hs d a b sc op h
    · exact ⟨atomicOp_misaligned hs d a b sc _ h, atomicOp_misaligned hs d a b sc _ h⟩
    · have hexec := exec_store hs d a b size off k (List.mem_cons_self ..)
      rw [storeAt_admitted _ haligned hok, Ctx.store_full hfull hnew, Option.elim_none] at hexec
      exact hexec.trans (congrArg _ (settle_raise_after hs.1 hok.issue_eq 0 (by decide)))

end Sys2Proof.Machine
end

section
/-! PROOF. Scalar loads and their return (O18), and how a slot goes on after an update of its task. -/

namespace Sys2Proof.Machine

/-! ### An update of a context, and steps to come -/

@[simp] theorem State.updCtx_mem (s : State) (id : Nat) (f : Ctx → Ctx) : (s.updCtx id f).mem = s.mem := by
  unfold State.updCtx
  split <;> rfl

@[simp] theorem State.updCtx_issue (s : State) (id : Nat) (f : Ctx → Ctx) : (s.updCtx id f).issue = s.issue := by
  unfold State.updCtx
  split <;> rfl

@[simp] theorem State.updCtx_agenda (s : State) (id : Nat) (f : Ctx → Ctx) : (s.updCtx id f).agenda = s.agenda := by
  unfold State.updCtx
  split <;> rfl

theorem State.ctx_updCtx {s : State} {id : Nat} {c : Ctx} (h : s.ctx id = some c) (f : Ctx → Ctx) : (s.updCtx id f).ctx id = some (f c) := by
  rw [State.updCtx_eq h, State.ctx_setCtx]

/-- Looking again at the scalar queue of a task only adds a step to come. -/
theorem kickMem_frame (s : State) (id delay : Nat) : ∃ a, kickMem s id delay = { s with agenda := a } := by
  unfold kickMem
  split
  · exact ⟨_, rfl⟩
  · exact ⟨s.agenda, rfl⟩

/-! ### How a slot goes on after its updates -/

/-- A slot that has neither trapped nor stalled nor asked for a transfer: its task goes on with the registers it left. -/
theorem settle_goes_on {s s1 : State} {id : Nat} {c x : Ctx} (h : s.Acting id c) (hissue : s1.issue = s.issue) (hx : s1.ctx id = some x) :
    (settle s s1 id).ctx id = some { x with regs := s.after x.regs } ∧ (settle s s1 id).mem = s1.mem ∧ (settle s s1 id).agenda = s1.agenda := by
  obtain ⟨-, -, htrap, hgoto, hstall, hsent⟩ := h
  unfold settle State.after
  by_cases hon : s.issue.on = true
  · rw [if_pos hon, if_pos hon]
    exact ⟨hx, rfl, rfl⟩
  · have hback : ({ s1 with issue := s.issue } : State) = s1 := by rw [← hissue]
    simp only [hon, hissue, htrap, hgoto, hstall, hsent, Bool.false_eq_true, if_false, hback]
    exact ⟨State.ctx_updCtx hx _, State.updCtx_mem _ _ _, State.updCtx_agenda _ _ _⟩

/-- A slot that sees its task sees it as it is. -/
theorem State.Sees.was_eq {s : State} {id : Nat} {c : Ctx} (h : s.Sees id c) : s.was c = c := by
  obtain ⟨-, hwas, -⟩ := h
  exact hwas

/-! ### Loads at issue (R78, R290, R292) -/

/-- The access that a load leaves in its task's scalar queue. -/
def State.queuedLoad (s : State) (c : Ctx) (d : BitVec 6) (ea size : Nat) (uns : Bool) (p : Place) : PMem where
  atomic := false
  d := d
  va := ea
  size := size
  uns := uns
  place := p
  amop := 0
  operand := 0
  compare := 0
  scope := 0
  ftz := false
  older := []
  release := none
  own := (List.range (2 ^ size)).map fun i => c.winByte (ea + i)
  pc := s.pcOf c
  seq := c.ph.seq

theorem queueMem_facts {s : State} {id : Nat} {c : Ctx} (h : s.ctx id = some c) (m : PMem) :
    (queueMem s id m).ctx id = some { c with ph := { c.ph with memq := c.ph.memq ++ [m] } } ∧ (queueMem s id m).issue = s.issue ∧
      (queueMem s id m).mem = s.mem := by
  simp only [queueMem, h]
  split
  · obtain ⟨a, ha⟩ := kickMem_frame (s.setCtx id { c with ph := { c.ph with memq := c.ph.memq ++ [m] } }) id 0
    rw [ha]
    exact ⟨s.ctx_setCtx id _, rfl, rfl⟩
  · exact ⟨s.ctx_setCtx id _, rfl, rfl⟩

/-- A load outside window space, with room in the queue and no vector operation before it, joins the queue when its home admits it. -/
theorem loadAt_admitted {s s1 : State} {id : Nat} {c : Ctx} {p : Place} (d : BitVec 6) {ea size : Nat} (uns : Bool) (haligned : ea % 2 ^ size = 0)
    (hspace : spaceOf ea ≠ 2) (hvec : (s.was c).vecBlocks c.ph.seq ea (2 ^ size) false = false)
    (hroom : (c.ph.memq.filter (fun m => !m.atomic)).length < 16) (hok : s.accessOk id c true .read ea (2 ^ size) p s1) :
    loadAt s id c d ea size uns = queueMem s1 id (s1.queuedLoad c d ea size uns p) := by
  obtain ⟨s0, htranslate, hadmits, -, -⟩ := hok
  unfold loadAt
  dsimp only
  rw [if_neg (not_not.mpr haligned), if_neg (ne_true_of_eq_false hvec), if_neg hspace, if_neg (Nat.not_le.mpr hroom), htranslate]
  dsimp only
  rw [hadmits]
  rfl

/-- LD and LDX are one load, at the effective address of each. -/
theorem exec_load {s : State} {id : Nat} {c : Ctx} (h : s.Sees id c) (d a b : BitVec 6) (size : BitVec 2) (u : Bool) (off : BitVec 28) (k : BitVec 3)
    {i : Instr} {ea : Nat} (hi : (i, ea) ∈ [(Instr.ld d a size u off, (c.regs.getS a + (off.signExtend 64) <<< size.toNat).toNat),
      (Instr.ldx d a b size u k, (c.regs.getS a + c.regs.getS b <<< k.toNat).toNat)]) :
    exec i s = .next (settle s (loadAt s id c d ea size.toNat u) id) := by
  simp only [List.mem_cons, List.not_mem_nil, or_false, Prod.mk.injEq] at hi
  rcases hi with ⟨rfl, rfl⟩ | ⟨rfl, rfl⟩
  · rw [← h.rs_eq a]
    exact slotStep_eq h.1 _
  · rw [← h.rs_eq a, ← h.rs_eq b]
    exact slotStep_eq h.1 _

/-! ### The value of a load (R81, R292) -/

theorem mergeOwn_eq (own : List (Option Byte)) (line : List Byte) (off : Nat) :
    mergeOwn own line off = (List.range own.length).map fun j => (own.getD j none).getD (line.getD (off + j) 0) := by
  refine List.ext_getElem (by simp [mergeOwn]) fun j hj _ => ?_
  have hlt : j < own.length := by simpa [mergeOwn] using hj
  simp [mergeOwn, hlt]

theorem loadValue_eq {size : Nat} (uns : Bool) {bs : List Byte} (h : bs.length = 2 ^ size) : loadValue size uns bs
    = if uns then BitVec.ofNat 64 (leNat bs) else (BitVec.ofNat (8 * 2 ^ size) (leNat bs)).signExtend 64 := by
  have htake : bs.take (2 ^ size) = bs := List.take_of_length_le h.le
  unfold loadValue
  rw [htake]
  by_cases hu : uns = true
  · rw [if_pos (.inl hu), if_pos hu]
  · rw [if_neg hu]
    by_cases hsize : size = 3
    · subst hsize
      rw [if_pos (.inr rfl)]
      exact (BitVec.signExtend_eq _).symm
    · rw [if_neg (not_or.mpr ⟨hu, hsize⟩)]
      rfl

/-! ### The return of a load (R71, R78, R81) -/

/-- The oldest load of a task has its value, from the bytes of its line where the task wrote none, and leaves the queue. -/
def State.giveLoad (s : State) (id : Nat) (m : PMem) (line : List Byte) : State :=
  dropMem (s.wrS id m.d (loadValue m.size m.uns (mergeOwn m.own line (m.va % 64)))) id

theorem dropMem_facts {s : State} {id : Nat} {c : Ctx} (h : s.ctx id = some c) :
    (dropMem s id).ctx id = some { c with ph := { c.ph with memq := c.ph.memq.drop 1 } } ∧ (dropMem s id).mem = s.mem := by
  obtain ⟨a, ha⟩ := kickMem_frame (s.updCtx id fun c => { c with ph := { c.ph with memq := c.ph.memq.drop 1 } }) id 0
  rw [dropMem, ha]
  exact ⟨State.ctx_updCtx h _, State.updCtx_mem _ _ _⟩

theorem State.giveLoad_facts {s : State} {id : Nat} {c : Ctx} (h : s.ctx id = some c) (m : PMem) (line : List Byte) :
    (s.giveLoad id m line).ctx id = some { c with
      regs := c.regs.setS m.d (loadValue m.size m.uns (mergeOwn m.own line (m.va % 64))), ph := { c.ph with memq := c.ph.memq.drop 1 } } ∧
      (s.giveLoad id m line).mem = s.mem := by
  obtain ⟨hctx, hmem⟩ := dropMem_facts (State.ctx_updCtx h (·.updRegs (·.setS m.d (loadValue m.size m.uns (mergeOwn m.own line (m.va % 64))))))
  exact ⟨hctx, hmem.trans (State.updCtx_mem _ _ _)⟩

section
variable {s : State} {c : Ctx} {m : PMem} {rest : List PMem} (hctx : s.ctx s.subj = some c) (hq : c.ph.memq = m :: rest) (hload : m.atomic = false)
include hctx hq hload

theorem execLoadReturn_own (hown : m.own.all Option.isSome = true) : execLoadReturn s = .next (s.giveLoad s.subj m []) := by
  simp only [execLoadReturn, hctx, hq, hload, hown, Bool.false_eq_true, if_false, if_true]
  rfl

theorem execLoadReturn_pinned (hown : m.own.all Option.isSome = false) {l : Line} (hpin : c.pinned m.va = some l) :
    execLoadReturn s = .next (s.giveLoad s.subj m (lineBytes l)) := by
  simp only [execLoadReturn, hctx, hq, hload, hown, hpin, Bool.false_eq_true, if_false]
  rfl

theorem execLoadReturn_read (hown : m.own.all Option.isSome = false) (hpin : c.pinned m.va = none) (hfree : s.mustFollow c m.seq m.place = false)
    {s1 : State} {line : List Byte} (hread : homeRead s (s.whoTask c 0 true) (s.envTask c) m.place.line 64 = (s1, .ok line)) :
    execLoadReturn s = .next ((s1.updCtx s.subj (·.pin m.va (lineOf line))).giveLoad s.subj m line) := by
  simp only [execLoadReturn, hctx, hq, hload, hown, hpin, hfree, hread, Bool.false_eq_true, if_false]
  rfl

end

theorem Ctx.pin_snap {c : Ctx} (h : c.ph.snap.length < 2048) (a : Nat) (v : Line) : (c.pin a v).ph.snap = c.ph.snap ++ [{ va := a / 64 * 64, data := v }] := by
  have hlen : ¬ 2048 < (c.ph.snap ++ [({ va := a / 64 * 64, data := v } : SLine)]).length := by
    rw [List.length_append, List.length_singleton]
    omega
  exact if_neg hlen

/-- Settles O18: at issue the load is `loadAt_admitted`; its return is `giveLoad`, after the line is pinned where it comes from memory. -/
theorem loads : Obligations.Loads := by
  refine ⟨fun s s1 id c p d a b size u off k hs i ea hi haligned hspace hvec hroom hok => ?_,
    fun s s1 c m rest line hctx hq hload _ hlen hline => ?_⟩
  · have hissue := hok.issue_eq
    have hload := loadAt_admitted d u haligned hspace (by rwa [hs.was_eq]) hroom hok
    obtain ⟨-, -, -, hctx1, -⟩ := hok
    obtain ⟨hctx2, hissue2, hmem2⟩ := queueMem_facts hctx1 (s1.queuedLoad c d ea size.toNat u p)
    obtain ⟨hctx3, hmem3, -⟩ := settle_goes_on hs.1 (hissue2.trans hissue) hctx2
    have hexec := exec_load hs d a b size u off k hi
    rw [hload] at hexec
    exact ⟨_, _, _, hexec, hctx3, rfl, rfl, rfl, rfl, rfl, rfl, rfl, rfl, rfl, rfl, hmem3.trans hmem2⟩
  · intro bytes v
    have hvalue : loadValue m.size m.uns (mergeOwn m.own line (m.va % 64)) = v := by
      rw [mergeOwn_eq, hlen]
      exact loadValue_eq m.uns (by simp)
    have hdrop : c.ph.memq.drop 1 = rest := by rw [hq]; rfl
    rcases hline with ⟨hown, rfl, rfl⟩ | ⟨hown, ⟨l, hpin, rfl⟩, rfl⟩ | ⟨hown, hpin, hfree, hctx1, hread⟩
    · obtain ⟨hx, hmem⟩ := State.giveLoad_facts hctx m []
      exact ⟨_, _, execLoadReturn_own hctx hq hload hown, hx, by rw [hvalue], hdrop, rfl, hmem, fun h => absurd (hown.symm.trans h) (by decide)⟩
    · obtain ⟨hx, hmem⟩ := State.giveLoad_facts hctx m (lineBytes l)
      exact ⟨_, _, execLoadReturn_pinned hctx hq hload hown hpin, hx, by rw [← hvalue]; rfl, hdrop, rfl, hmem,
        fun _ h => absurd (hpin.symm.trans h) (by simp)⟩
    · obtain ⟨hx, hmem⟩ := State.giveLoad_facts (State.ctx_updCtx hctx1 (·.pin m.va (lineOf line))) m line
      exact ⟨_, _, execLoadReturn_read hctx hq hload hown hpin hfree hread, hx, by rw [← hvalue]; rfl, hdrop, rfl,
        hmem.trans (s1.updCtx_mem _ _), fun _ _ hroom => Ctx.pin_snap hroom _ _⟩

end Sys2Proof.Machine
end

section
/-! PROOF. PHASE, FENCE, DONE and the steps that complete them and take their releases (O22). -/

namespace Sys2Proof.Machine

/-! ### Steps to come, and the engine's wake -/

theorem State.due_congr {s t : State} (h : t.agenda = s.agenda) {subj : Nat} {i : Instr} (hdue : s.due subj i) : t.due subj i := by
  unfold State.due
  rwa [h]

theorem wake_frame (s : State) (id : Nat) : ∃ a, wake s id = { s with agenda := a } := s.pushOnce_frame 0 id .commandStart

@[simp] theorem wake_ctx (s : State) (id k : Nat) : (wake s id).ctx k = s.ctx k := by
  obtain ⟨a, ha⟩ := wake_frame s id
  rw [ha]
  rfl

@[simp] theorem wake_mem (s : State) (id : Nat) : (wake s id).mem = s.mem := by
  obtain ⟨a, ha⟩ := wake_frame s id
  rw [ha]

theorem Option.elim_true_of_forall {α : Type} {o : Option α} {p : α → Bool} (h : ∀ a, o = some a → p a = true) : o.elim true p = true := by
  cases o with
  | none => rfl
  | some a => exact h a rfl

/-! ### How a slot goes to an address after its updates -/

theorem State.Sees.pcOf_eq {s : State} {id : Nat} {c : Ctx} (h : s.Sees id c) : s.pcOf c = c.regs.pc := by
  rw [State.pcOf, State.srcRegs, h.was_eq]

/-- A slot that asks for a transfer after its updates: the pc is its target, once the bundle is over. -/
theorem settle_goes_to {s s1 : State} {id : Nat} {c x : Ctx} (h : s.Acting id c) (hissue : s1.issue = s.issue) (hx : s1.ctx id = some x) {a : Nat}
    (ha : a % 4 = 0) :
    (settle s (s1.goTo a) id).ctx id = some { x with regs := if s.issue.on then x.regs else { x.regs with pc := a } } ∧
      (settle s (s1.goTo a) id).mem = s1.mem ∧ (settle s (s1.goTo a) id).agenda = s1.agenda := by
  obtain ⟨-, -, htrap, -, hstall, hsent⟩ := h
  rw [State.goTo_aligned ha]
  unfold settle
  by_cases hon : s.issue.on = true
  · rw [if_pos hon, if_pos hon]
    exact ⟨hx, rfl, rfl⟩
  · have hback : ({ s1 with issue := s.issue } : State) = s1 := by rw [← hissue]
    simp only [hon, hissue, htrap, hstall, hsent, Bool.false_eq_true, if_false, hback]
    exact ⟨State.ctx_updCtx hx _, State.updCtx_mem _ _ _, State.updCtx_agenda _ _ _⟩

/-- A slot that changes its task's context and makes a step due. -/
theorem settle_setCtx_push {s : State} {id : Nat} {c : Ctx} (h : s.Acting id c) (x : Ctx) (i : Instr) :
    let t := settle s ((s.setCtx id x).push 0 id i) id
    t.ctx id = some { x with regs := s.after x.regs } ∧ t.mem = s.mem ∧ t.due id i := by
  obtain ⟨hctx, hmem, hagenda⟩ := settle_goes_on (s1 := (s.setCtx id x).push 0 id i) h rfl (s.ctx_setCtx id x)
  exact ⟨hctx, hmem, State.due_congr hagenda (State.due_push _ _ _ _)⟩

/-! ### PHASE, DONE and FENCE begin (R85, R86, R91, R98) -/

/-- A pair range of PHASE that lies in a pair table of n entries (R85). -/
def PairRangeOk (pr : DWord) (n : Nat) : Prop :=
  pr.toNat < 2 ^ 48 ∧ pr.toNat / 2 ^ 32 % 2 ^ 16 ≤ 4096 ∧
    (0 < pr.toNat / 2 ^ 32 % 2 ^ 16 → pr.toNat % 2 ^ 32 + pr.toNat / 2 ^ 32 % 2 ^ 16 ≤ n)

theorem fld_zero (w : DWord) (n : Nat) : fld w 0 n = w.toNat % 2 ^ n := by
  rw [fld, pow_zero, Nat.div_one]

/-- What PHASE asks of the fields of its pair range refuses just the ranges that do not lie in the table. -/
theorem pairRange_refused_iff (pr : DWord) (n : Nat) :
    (fld pr 48 16 ≠ 0 ∨ 4096 < fld pr 32 16 ∨ (0 < fld pr 32 16 ∧ n < fld pr 0 32 + fld pr 32 16)) ↔ ¬ PairRangeOk pr n := by
  have hlt : pr.toNat < 2 ^ 64 := pr.isLt
  have htop : fld pr 48 16 ≠ 0 ↔ ¬ pr.toNat < 2 ^ 48 := by
    unfold fld
    omega
  rw [htop, fld_zero, PairRangeOk, fld]
  omega

/-- A task with a PHASE or DONE under way. -/
def Ctx.publishing (c : Ctx) (op : PhaseOp) : Ctx := { c with ph := { c.ph with op := some op } }

/-- The buffers that PHASE publishes: the paired ones of its mask (R85). -/
def Ctx.pairedIn (c : Ctx) (mask : DWord) : List Nat := (span 1 63).filter fun b => mask.getLsbD b && decide ((c.buf b).mode = 2)

/-- A PHASE that has begun none of its steps. -/
def Ctx.phaseOp (c : Ctx) (sc : BitVec 3) (mask pr : DWord) : PhaseOp where
  isDone := false
  pc := c.regs.pc
  scope := sc.toNat
  bset := c.pairedIn mask
  pairFrom := pr.toNat % 2 ^ 32
  pairCount := pr.toNat / 2 ^ 32 % 2 ^ 16
  sent := false
  release := none
  next := 0
  ending := false

/-- A DONE that has begun none of its steps. -/
def Ctx.doneOp (c : Ctx) : PhaseOp where
  isDone := true
  pc := c.regs.pc
  scope := 4
  bset := []
  pairFrom := 0
  pairCount := 0
  sent := false
  release := none
  next := 0
  ending := false

/-- A FENCE that waits for the older operations of its scope. -/
def fenceOp (s : State) (c : Ctx) (sc : BitVec 3) : FenceOp :=
  { seq := c.ph.seq, pc := c.regs.pc, scope := sc.toNat, older := Ctx.olderOps s c sc.toNat, release := none }

/-- A task with one more FENCE to be satisfied. -/
def Ctx.fencing (c : Ctx) (f : FenceOp) : Ctx := { c with ph := { c.ph with fences := c.ph.fences ++ [f] } }

section
variable {s : State} {id : Nat} {c : Ctx} (hs : s.Sees id c)
include hs

theorem State.Sees.ctx_eq : s.ctx id = some c := by
  obtain ⟨⟨-, hctx, -⟩, -⟩ := hs
  exact hctx

theorem execPhase_begins {sc : BitVec 3} {m p : BitVec 6} {op : PhaseOp} (hop : op = c.phaseOp sc (s.rs c m) (s.rs c p))
    (hgood : PairRangeOk (s.rs c p) (s.envTask c).pairSize) (husers : ∀ q ∈ phaseUsers s c op.bset op.pairFrom op.pairCount, c.ph.seq ≤ q) :
    execPhase sc m p s = .next (settle s ((s.setCtx id (c.publishing op)).push 0 id .phaseReleaseDone) id) := by
  refine (slotStep_eq hs.1 _).trans ?_
  have hnone : ¬ (phaseUsers s c op.bset op.pairFrom op.pairCount).any (fun q => decide (q < (s.was c).ph.seq)) = true := by
    rw [List.any_eq_true, hs.was_eq]
    rintro ⟨q, hq, hlt⟩
    exact Nat.not_lt.mpr (husers q hq) (of_decide_eq_true hlt)
  subst hop
  dsimp only
  rw [if_neg ((pairRange_refused_iff _ _).not.mpr (not_not.mpr hgood)), hs.ctx_eq]
  dsimp only
  rw [fld_zero, hs.pcOf_eq, State.updCtx_eq hs.ctx_eq]
  exact congrArg (fun t => Host.Outcome.next (settle s t id)) (if_neg hnone)

theorem execPhase_refuses {sc : BitVec 3} {m p : BitVec 6} (hbad : ¬ PairRangeOk (s.rs c p) (s.envTask c).pairSize) :
    execPhase sc m p s = .next (s.traps id 0x03 0 (faultWord Tstat.pteFormat 0 .write false false)) :=
  slotStep_raise hs.1 (if_pos ((pairRange_refused_iff _ _).mpr hbad)) (by decide)

theorem execDone_begins :
    execDone s = .next (settle s (((s.setCtx id (c.publishing c.doneOp)).push 0 id .phaseReleaseDone).goTo c.regs.pc) id) := by
  refine (slotStep_eq hs.1 _).trans ?_
  dsimp only
  rw [hs.pcOf_eq, State.updCtx_eq hs.ctx_eq]
  have hpc : ((s.setCtx id (c.publishing c.doneOp)).push 0 id .phaseReleaseDone).pcOf c = c.regs.pc := hs.pcOf_eq
  exact congrArg (fun a => Host.Outcome.next (settle s (State.goTo _ a) id)) hpc

theorem execFence_joins {sc : BitVec 3} (hroom : Ctx.stCount s id c < 16) :
    execFence sc s = .next (settle s ((s.setCtx id (c.fencing (fenceOp s c sc))).push 0 id .fenceSatisfied) id) := by
  refine (slotStep_eq hs.1 _).trans ?_
  dsimp only
  rw [if_neg (Nat.not_le.mpr hroom), hs.ctx_eq]
  dsimp only
  rw [hs.pcOf_eq]
  rfl

end

/-! ### The end of a FENCE (R98) -/

theorem execFenceSatisfied_ends {s : State} {c : Ctx} {f : FenceOp} {rest : List FenceOp} (hctx : s.ctx s.subj = some c)
    (hfences : c.ph.fences = f :: rest) (hdone : Ctx.opsDone s c f.scope f.older = true) (hreleased : f.scope = 4 → f.release ≠ none)
    (hover : f.release.elim true c.relDone = true) :
    execFenceSatisfied s = .next (((wake (s.setCtx s.subj { c with ph := { c.ph with fences := rest } }) s.subj).push 0 s.subj .vecComplete).push
      0 s.subj .fenceSatisfied) := by
  have hcalled : ¬ (f.scope = 4 ∧ f.release = none) := fun h => hreleased h.1 h.2
  simp only [execFenceSatisfied, hctx, hfences, hdone, hover, if_neg hcalled, State.updCtx_eq hctx, Bool.not_true, Bool.false_eq_true, if_false]

/-! ### The publish of a PHASE (R52, R57, R86, R396, R407) -/

theorem Tab.look_each {α : Type} (f : Nat → α → α) (t : Tab α) (n : Nat) : Tab.look (Tab.each f t) n = (Tab.look t n).map (f n) := by
  induction t with
  | nil => rfl
  | cons p t ih =>
    obtain ⟨k, v⟩ := p
    change (if k = n then some (f k v) else Tab.look (Tab.each f t) n) = (if k = n then some v else Tab.look t n).map (f n)
    rw [ih]
    by_cases hk : k = n
    · rw [if_pos hk, if_pos hk, hk]
      rfl
    · rw [if_neg hk, if_neg hk]

/-- A checkpoint keeps a buffer's halves, base and claims; a ring takes its head and claims for the checkpoint and holds nothing (R57). -/
theorem BufEnt.checkpoint_facts (b : BufEnt) :
    b.checkpoint.front = b.front ∧ b.checkpoint.base = b.base ∧ b.checkpoint.claimed = b.claimed ∧
      (b.mode = 3 → b.checkpoint.ckhead = b.head ∧ b.checkpoint.ckcount = b.claimed ∧ b.checkpoint.held = 0) ∧
      (b.mode ≠ 3 → b.checkpoint.held = b.held) := by
  unfold BufEnt.checkpoint
  split
  · next hring => exact ⟨rfl, rfl, rfl, fun _ => ⟨rfl, rfl, rfl⟩, fun hother => absurd hring hother⟩
  · next hother => exact ⟨rfl, rfl, rfl, fun hring => absurd hring hother, fun _ => rfl⟩

/-- Entry b of the buffer table with its halves turned, where a PHASE names it. -/
def PhaseOp.turn (op : PhaseOp) (b : Nat) (e : BufEnt) : BufEnt := if b ∈ op.bset then { e with front := !e.front } else e

theorem PhaseOp.turn_eq (op : PhaseOp) (b : Nat) (e : BufEnt) : op.turn b e = { e with front := e.front ^^ decide (b ∈ op.bset) } := by
  unfold PhaseOp.turn
  split
  · next h => rw [decide_eq_true h, Bool.xor_true]
  · next h => rw [decide_eq_false h, Bool.xor_false]

theorem publish_look (c : Ctx) (op : PhaseOp) {b : Nat} {e : BufEnt} (h : c.bufs.look b = some e) :
    (publish c op).bufs.look b = some (op.turn b e).checkpoint := by
  refine (Tab.look_each (fun b e => (op.turn b e).checkpoint) c.bufs b).trans ?_
  rw [h]
  rfl

/-- A buffer after the publish: named, it has turned; a ring has its checkpoint. -/
theorem publish_buf (c : Ctx) (op : PhaseOp) {b : Nat} {e : BufEnt} (h : c.bufs.look b = some e) :
    ∃ e', (publish c op).bufs.look b = some e' ∧ e'.front = (e.front ^^ decide (b ∈ op.bset)) ∧ e'.base = e.base ∧ e'.claimed = e.claimed ∧
      (e.mode = 3 → e'.ckhead = e.head ∧ e'.ckcount = e.claimed ∧ e'.held = 0) ∧ (e.mode ≠ 3 → e'.held = e.held) := by
  refine ⟨_, publish_look c op h, ?_⟩
  rw [op.turn_eq]
  exact BufEnt.checkpoint_facts _

/-- A PHASE or DONE whose window is sent, whose covered writes are performed, whose release is accepted and whose pair entries are flipped. -/
structure PhaseOp.Ready (s : State) (c : Ctx) (op : PhaseOp) : Prop where
  op_eq : c.ph.op = some op
  not_ending : op.ending = false
  sent : op.sent = true
  window : c.ph.window = []
  late : c.ph.late = []
  done : Ctx.opsDone s c op.scope (Ctx.olderOps s c op.scope) = true
  released : op.scope = 4 → op.release ≠ none
  accepted : op.release.elim true c.relAccepted = true
  flipped : op.pairCount ≤ op.next

theorem PhaseOp.Ready.exec_eq {s : State} {c : Ctx} {op : PhaseOp} (h : op.Ready s c) (hctx : s.ctx s.subj = some c) :
    execPhaseReleaseDone s = .next (if op.isDone then
        (s.setCtx s.subj { c with ph := { c.ph with snap := [], op := some { op with ending := true } } }).push 0 s.subj .taskFinish
      else wake (s.setCtx s.subj (publish c op)) s.subj) := by
  have hlate : sendLate s s.subj c = s := if_pos h.late
  have hcalled : ¬ (op.scope = 4 ∧ op.release = none) := fun hr => h.released hr.1 hr.2
  have hflipped : ¬ op.next < op.pairCount := Nat.not_lt.mpr h.flipped
  simp only [execPhaseReleaseDone, hctx, hlate, h.op_eq, h.not_ending, h.sent, h.window, h.late, h.done, h.accepted, if_neg hcalled, if_neg hflipped,
    State.updCtx_eq hctx, Bool.not_true, Bool.false_eq_true, if_false, if_true, ne_eq, not_true_eq_false]
  split <;> rfl

/-! ### Releases at the Midfield die (R102, R104) -/

theorem takeEntries_room {s : State} {r : Release} (h : s.mid.fences.length + r.counts.length ≤ 4096) (id core : Nat) :
    ∃ t, takeEntries s id core r = some { s with mid := { s.mid with fences := t } } := by
  have hfew := List.length_filter_le (fun p => decide (p.2.1 ≠ 0 ∨ p.2.2 ≠ 0)) r.counts
  exact ⟨_, if_neg (by omega)⟩

/-- A release that the Midfield die has accepted. -/
def Release.taken (r : Release) : Release := { r with accepted := true, counts := [] }

theorem execReleaseAccepted_takes {s : State} {c : Ctx} {r : Release} (hctx : s.ctx s.subj = some c)
    (hfirst : c.ph.rels.find? (fun r => !r.accepted) = some r) (hroom : s.mid.fences.length + r.counts.length ≤ 4096) :
    ∃ t, execReleaseAccepted s = .next ((({ s with mid := { s.mid with fences := t } } : State).setCtx s.subj { c with
      ph := { c.ph with rels := c.ph.rels.map fun y => if y.epoch = r.epoch then r.taken else y } }).push 0 s.subj .releaseComplete) := by
  obtain ⟨t, ht⟩ := takeEntries_room hroom s.subj c.anyCore
  refine ⟨t, ?_⟩
  have hctx' : ({ s with mid := { s.mid with fences := t } } : State).ctx s.subj = some c := hctx
  simp only [execReleaseAccepted, hctx, hfirst, ht, State.updCtx_eq hctx']
  rfl

theorem foldl_max_worst_eq_zero {l : List (Nat × FenceEnt)} (h : ∀ p ∈ l, p.2.worst = 0) : l.foldl (fun w p => Nat.max w p.2.worst) 0 = 0 := by
  induction l with
  | nil => rfl
  | cons p l ih =>
    rw [List.foldl_cons, h p List.mem_cons_self]
    exact ih fun q hq => h q (List.mem_cons_of_mem _ hq)

theorem releaseHeld_of_none_held {s : State} (h : ∀ p ∈ s.mid.reqs, p.2.st ≠ .held) (id : Nat) : releaseHeld s id = s := by
  unfold releaseHeld
  split
  · rfl
  · dsimp only
    rw [List.filter_eq_nil_iff.mpr fun p hp => by simp [h p hp]]
    rfl

/-- The state with the fence entries of a context's release freed, and the release gone (R104). -/
def State.releaseOver (s : State) (id : Nat) (c : Ctx) (epoch : Nat) (rest : List Release) : State :=
  ({ s with mid := { s.mid with fences := s.mid.fences.filter fun p => decide (¬ (p.2.ctx = id ∧ p.2.epoch = epoch)) } } : State).setCtx id
    { c with ph := { c.ph with rels := rest } }

theorem execReleaseComplete_completes {s : State} {c : Ctx} {r : Release} {rest : List Release} (hctx : s.ctx s.subj = some c)
    (hrels : c.ph.rels = r :: rest) (haccepted : r.accepted = true) (hheld : ∀ p ∈ s.mid.reqs, p.2.st ≠ .held)
    (hmine : ∀ p ∈ s.mid.fences, p.2.ctx = s.subj → p.2.epoch = r.epoch → p.2.count = 0 ∧ p.2.worst = 0) :
    execReleaseComplete s = .next ((s.releaseOver s.subj c r.epoch rest).push 0 s.subj .releaseComplete) := by
  have hover : ∀ p ∈ s.mid.fences.filter (fun p => decide (p.2.ctx = s.subj ∧ p.2.epoch = r.epoch)), p.2.count = 0 ∧ p.2.worst = 0 := by
    intro p hp
    obtain ⟨hp, hown⟩ := List.mem_filter.mp hp
    obtain ⟨howner, hepoch⟩ := of_decide_eq_true hown
    exact hmine p hp howner hepoch
  have hcount : (s.mid.fences.filter fun p => decide (p.2.ctx = s.subj ∧ p.2.epoch = r.epoch)).any (fun p => decide (p.2.count ≠ 0)) = false :=
    List.any_eq_false.mpr fun p hp => by simp [(hover p hp).1]
  have hworst := foldl_max_worst_eq_zero fun p hp => (hover p hp).2
  have hctx' (f : Tab FenceEnt) : ({ s with mid := { s.mid with fences := f } } : State).ctx s.subj = some c := hctx
  simp only [execReleaseComplete, hctx, hrels, haccepted, hcount, hworst, State.updCtx_eq (hctx' _), Bool.not_true, Bool.false_or, Bool.false_eq_true,
    if_false, if_true]
  exact congrArg (fun t => Host.Outcome.next (State.push t 0 s.subj .releaseComplete))
    (releaseHeld_of_none_held (s := s.releaseOver s.subj c r.epoch rest) hheld s.subj)

/-! ### Phases and fences -/

/-- Settles O22: PHASE, FENCE and DONE are the lemmas of their beginnings with `settle_setCtx_push` and `settle_goes_to`; each step that completes
them is its own lemma, the publish with `publish_buf`. -/
theorem phasesAndFences : Obligations.PhasesAndFences := by
  refine ⟨fun s id c sc m p hs => ?_, fun s c hctx => ?_⟩
  · intro pr first count good bset
    refine ⟨fun hgood husers => ?_, execPhase_refuses hs, fun hroom => ?_, fun haligned => ?_⟩
    · obtain ⟨hx, hmem, hdue⟩ := settle_setCtx_push hs.1 (c.publishing (c.phaseOp sc (s.rs c m) (s.rs c p))) .phaseReleaseDone
      exact ⟨_, _, execPhase_begins hs rfl hgood husers, hx, rfl, hmem, hdue, rfl⟩
    · obtain ⟨hx, hmem, hdue⟩ := settle_setCtx_push hs.1 (c.fencing (fenceOp s c sc)) .fenceSatisfied
      exact ⟨_, _, execFence_joins hs hroom, hx, rfl, hmem, hdue, rfl⟩
    · obtain ⟨hx, hmem, hagenda⟩ := settle_goes_to (s1 := (s.setCtx id (c.publishing c.doneOp)).push 0 id .phaseReleaseDone) hs.1 rfl
        (s.ctx_setCtx id _) haligned
      exact ⟨_, _, execDone_begins hs, hx, ite_self _, hmem, State.due_congr hagenda (State.due_push _ _ _ _), rfl⟩
  · refine ⟨fun op hop hending hsent hwindow hlate hdone hreleased haccepted hflipped => ?_, fun f rest hfences hdone hreleased hover => ?_,
      fun r hfirst hroom => ?_, fun r rest hrels haccepted hheld hmine => ?_⟩
    · have hready : op.Ready s c :=
        ⟨hop, hending, hsent, hwindow, hlate, hdone, hreleased, Option.elim_true_of_forall haccepted, hflipped⟩
      have hexec := hready.exec_eq hctx
      by_cases hkind : op.isDone = true
      · rw [if_pos hkind] at hexec
        exact ⟨_, _, hexec, s.ctx_setCtx s.subj _, rfl, rfl, rfl, fun _ => ⟨rfl, rfl, State.due_push _ _ _ _⟩,
          fun h => absurd (hkind.symm.trans h) (by decide)⟩
      · rw [if_neg hkind] at hexec
        exact ⟨_, _, hexec, (wake_ctx _ _ _).trans (s.ctx_setCtx s.subj _), rfl, rfl, wake_mem _ _, fun h => absurd h hkind,
          fun _ => ⟨rfl, rfl, rfl, rfl, rfl, rfl, rfl, rfl, rfl, fun _ _ => publish_buf c op⟩⟩
    · exact ⟨_, _, execFenceSatisfied_ends hctx hfences hdone hreleased (Option.elim_true_of_forall hover),
        (wake_ctx _ _ _).trans (s.ctx_setCtx s.subj _), rfl, rfl, wake_mem _ _⟩
    · obtain ⟨t, hexec⟩ := execReleaseAccepted_takes hctx hfirst hroom
      exact ⟨_, _, hexec, State.ctx_setCtx _ s.subj _, State.due_push _ _ _ _, rfl, rfl, rfl⟩
    · exact ⟨_, _, execReleaseComplete_completes hctx hrels haccepted hheld hmine, State.ctx_setCtx _ s.subj _, rfl, rfl, rfl, rfl, rfl⟩

end Sys2Proof.Machine
end

section
/-! PROOF. The values of atomics, scalar atomics at issue, and their completion (O20). -/

namespace Sys2Proof.Machine

/-! ### The ten scalar atomics are one operation (R294) -/

/-- Each scalar atomic is the operation of its code, at its width. -/
theorem exec_atomic {s : State} {d a b : BitVec 6} {sc : BitVec 3} {dw u wide : Bool} {i : Instr} {op : Nat}
    (hi : (i, op, wide) ∈ [(Instr.amoadd d a b sc dw, 0x0, dw), (.amoand d a b sc dw, 0x5, dw), (.amoor d a b sc dw, 0x6, dw),
      (.amoxor d a b sc dw, 0x7, dw), (.amoswap d a b sc dw, 0x8, dw), (.amocas d a b sc dw, 0x9, dw),
      (.amomin d a b sc dw u, (if u then 0x3 else 0x1), dw), (.amomax d a b sc dw u, (if u then 0x4 else 0x2), dw),
      (.amofmax d a b sc, 0xA, false), (.amofadd d a b sc, 0xB, false)]) :
    exec i s = atomicOp s d a b sc wide op := by
  simp only [List.mem_cons, List.not_mem_nil, or_false, Prod.mk.injEq] at hi
  rcases hi with ⟨rfl, rfl, rfl⟩ | ⟨rfl, rfl, rfl⟩ | ⟨rfl, rfl, rfl⟩ | ⟨rfl, rfl, rfl⟩ | ⟨rfl, rfl, rfl⟩ | ⟨rfl, rfl, rfl⟩ | ⟨rfl, rfl, rfl⟩ |
    ⟨rfl, rfl, rfl⟩ | ⟨rfl, rfl, rfl⟩ | ⟨rfl, rfl, rfl⟩ <;> rfl

/-! ### An atomic performed at its home (R84, R100, R295) -/

theorem Ctx.unpin_pinned (c : Ctx) (a : Nat) : (c.unpin a).pinned a = none := by
  simp [Ctx.pinned, Ctx.unpin]

/-- A task once its atomic is performed: the old value in its register, the line unpinned, the phase no longer restartable. -/
def Ctx.performed (c : Ctx) (m : PMem) (old : Nat) : Ctx :=
  { c.unpin m.va with regs := c.regs.setS m.d (BitVec.ofNat 64 old), ph := { (c.unpin m.va).ph with nr := true } }

/-- The home of the access `m` of a task performs it: `old` is the value before, and `s2` the state it leaves. -/
def State.homePerforms (s : State) (c : Ctx) (m : PMem) (s2 : State) (old : Nat) : Prop :=
  homeAtomic s (s.whoTask c 0 false) (s.envTask c) m.place (2 ^ m.size)
    (fun o => amoValue m.amop (8 * 2 ^ m.size) m.ftz o (m.operand.toNat % 2 ^ (8 * 2 ^ m.size)) (m.compare.toNat % 2 ^ (8 * 2 ^ m.size))) = (s2, .ok old)

theorem performAtomic_eq {s s2 : State} {id : Nat} {c : Ctx} {m : PMem} {old : Nat} (hctx : s.ctx id = some c) (hhome : s.homePerforms c m s2 old)
    (hctx2 : s2.ctx id = some c) : performAtomic s id m = (s2.setCtx id (c.performed m old), .ok ()) := by
  unfold State.homePerforms at hhome
  unfold performAtomic
  rw [hctx]
  dsimp only
  rw [hhome]
  dsimp only
  rw [State.updCtx_eq hctx2, State.wrS, State.updCtx_setCtx]
  rfl

/-! ### Atomics at issue (R99, R295) -/

/-- The access that a scalar atomic asks of its home. -/
def State.atomicMem (s : State) (c : Ctx) (d a b : BitVec 6) (sc : BitVec 3) (dw : Bool) (op : Nat) (p : Place) : PMem where
  atomic := true
  d := d
  va := (c.regs.getS a).toNat
  size := if dw then 3 else 2
  uns := true
  place := p
  amop := op
  operand := c.regs.getS b
  compare := c.regs.getS d
  scope := sc.toNat
  ftz := decide (op = 0xB) && ftzOf c.regs.fpctl
  older := Ctx.olderOps s c sc.toNat
  release := none
  own := []
  pc := c.regs.pc
  seq := c.ph.seq

/-- What a slot makes of an atomic that its home admits: at pod scope the release goes before it, otherwise it is performed at once or joins the
queue behind what it waits for. -/
def State.admitsAtomic (s s1 : State) (id : Nat) (c : Ctx) (m : PMem) : State :=
  if m.scope = 4 then
    match beginRelease s1 id c.ph.seq with
    | some (s2, e) => queueMem s2 id { m with release := some e }
    | none => s1.stall
  else if (!Ctx.opsDone s c m.scope m.older || !c.ph.memq.isEmpty) || s1.mustFollow c m.seq m.place then queueMem s1 id m
  else match performAtomic s1 id m with
    | (s2, .ok ()) => s2
    | (s2, r) => accessTrap s2 c m.va .atomic r

section
variable {s s1 : State} {id : Nat} {c : Ctx} {d a b : BitVec 6} {sc : BitVec 3} {dw : Bool} {op : Nat} {p : Place} (hs : s.Sees id c)
include hs

/-- A state whose issue is that of the slot sees the task's registers as the slot does. -/
theorem State.Sees.srcRegs_eq (hissue : s1.issue = s.issue) : s1.srcRegs c = c.regs := by
  rw [State.srcRegs, State.was, hissue]
  exact congrArg Ctx.regs hs.was_eq

theorem atomicOp_admitted (haligned : (c.regs.getS a).toNat % (if dw then 8 else 4) = 0) (hspace : spaceOf (c.regs.getS a).toNat ≠ 2)
    (hok : s.accessOk id c false .atomic (c.regs.getS a).toNat (if dw then 8 else 4) p s1) :
    atomicOp s d a b sc dw op = .next (settle s (s.admitsAtomic s1 id c (s.atomicMem c d a b sc dw op p)) id) := by
  have hregs := hs.srcRegs_eq rfl
  have hregs1 := hs.srcRegs_eq hok.issue_eq
  obtain ⟨s0, htranslate, hadmits, -, -⟩ := hok
  refine (slotStep_eq hs.1 _).trans ?_
  simp only [State.rs, State.pcOf, hregs]
  rw [if_neg (not_not.mpr haligned), if_neg hspace, htranslate]
  dsimp only
  rw [hadmits]
  simp only [hregs1]
  rfl

end

/-- At pod scope the atomic joins the queue once its release is called (R99). -/
theorem State.admitsAtomic_pod {s s1 s2 : State} {id : Nat} {c : Ctx} {m : PMem} {e : Nat} (hpod : m.scope = 4)
    (hrel : beginRelease s1 id c.ph.seq = some (s2, e)) : s.admitsAtomic s1 id c m = queueMem s2 id { m with release := some e } := by
  rw [State.admitsAtomic, if_pos hpod, hrel]

/-- Below pod scope, with nothing older to wait for, the atomic is performed at once (R295). -/
theorem State.admitsAtomic_now {s s1 s2 : State} {id : Nat} {c : Ctx} {m : PMem} {old : Nat} (hscope : m.scope ≠ 4)
    (hdone : Ctx.opsDone s c m.scope m.older = true) (hempty : c.ph.memq = []) (hfree : s1.mustFollow c m.seq m.place = false)
    (hctx1 : s1.ctx id = some c) (hhome : s1.homePerforms c m s2 old) (hctx2 : s2.ctx id = some c) :
    s.admitsAtomic s1 id c m = s2.setCtx id (c.performed m old) := by
  rw [State.admitsAtomic, if_neg hscope, hdone, hempty, hfree, performAtomic_eq hctx1 hhome hctx2]
  rfl

/-! ### The oldest atomic of a task (R78) -/

theorem execAtomicComplete_performs {s s1 : State} {c : Ctx} {m : PMem} {rest : List PMem} {old : Nat} (hctx : s.ctx s.subj = some c)
    (hq : c.ph.memq = m :: rest) (hatomic : m.atomic = true) (hop : m.amop < 16) (hdone : Ctx.opsDone s c m.scope m.older = true)
    (hreleased : m.release.elim true c.relDone = true) (hhome : s.homePerforms c m s1 old) (hctx1 : s1.ctx s.subj = some c) :
    execAtomicComplete s = .next (dropMem (s1.setCtx s.subj (c.performed m old)) s.subj) := by
  have hwork : ¬ Work.grow ≤ m.amop := Nat.not_le.mpr hop
  simp only [execAtomicComplete, hctx, hq, hatomic, hdone, hreleased, if_neg hwork, performAtomic_eq hctx hhome hctx1, Bool.not_true, Bool.or_self,
    Bool.false_eq_true, if_false]

/-! ### Atomics -/

/-- Settles O20: the values are the cases of `amoValue`; a scalar atomic is `atomicOp_admitted`, with `admitsAtomic_pod` or `admitsAtomic_now`; the
waiting one is `execAtomicComplete_performs`. -/
theorem atomics : Obligations.Atomics := by
  refine ⟨fun bits old b cmp ftz _ _ _ => ?_, fun s s1 s2 id c p d a b sc dw u old hs i op wide hi => ?_,
    fun s s1 c m old hctx hq hatomic hop hdone hreleased hhome hctx1 => ?_⟩
  · exact ⟨rfl, rfl, rfl, rfl, rfl, fun i => ⟨Nat.testBit_and .., Nat.testBit_or .., Nat.testBit_xor ..⟩, rfl, rfl, rfl, rfl⟩
  · intro ea n haligned hspace hok
    have hexec := (exec_atomic hi).trans (atomicOp_admitted (d := d) (b := b) (sc := sc) (op := op) hs haligned hspace hok)
    have hissue := hok.issue_eq
    have hsize : 2 ^ (s.atomicMem c d a b sc wide op p).size = n := by cases wide <;> rfl
    obtain ⟨-, -, -, hctx1, -⟩ := hok
    refine ⟨fun e y hpod hrel hctx2 hissue2 => ?_, fun hscope hdone hempty hfree hhome hctx2 hissue2 => ?_⟩
    · rw [State.admitsAtomic_pod hpod hrel] at hexec
      obtain ⟨hctx3, hissue3, hmem3⟩ := queueMem_facts hctx2 { s.atomicMem c d a b sc wide op p with release := some e }
      obtain ⟨hctx4, hmem4, -⟩ := settle_goes_on hs.1 (hissue3.trans hissue2) hctx3
      exact ⟨_, _, _, hexec, hctx4, hmem4.trans hmem3, rfl, rfl, rfl, rfl, rfl, hsize, rfl, rfl, rfl, rfl, rfl⟩
    · rw [← hsize] at hhome
      rw [State.admitsAtomic_now (m := s.atomicMem c d a b sc wide op p) hscope hdone hempty hfree hctx1 hhome hctx2, settle_setCtx_after hs.1 hissue2] at hexec
      exact ⟨_, _, hexec, s2.ctx_setCtx id _, rfl, rfl, rfl, rfl, c.unpin_pinned ea, hempty⟩
  · have hexec := execAtomicComplete_performs hctx hq hatomic hop hdone (Option.elim_true_of_forall hreleased) hhome hctx1
    obtain ⟨hx, hmem⟩ := dropMem_facts (s1.ctx_setCtx s.subj (c.performed m old))
    exact ⟨_, _, hexec, hx, hmem, rfl, rfl, congrArg (List.drop 1) hq⟩

end Sys2Proof.Machine
end

section
/-! PROOF. One fabric port: the header of a flit, flits sent and sent again, and the replay buffer (O42). -/

namespace Sys2Proof.Machine

/-! ### One port -/

@[simp] theorem State.port_updPort (s : State) (p : Nat) (f : Port → Port) : (s.updPort p f).port p = f (s.port p) :=
  (Tab.val_set _ _ _ _ _).trans (if_pos rfl)

@[simp] theorem State.updPort_pkg (s : State) (p : Nat) (f : Port → Port) : (s.updPort p f).pkg = s.pkg := rfl

@[simp] theorem State.port_push (s : State) (n u : Nat) (e : Instr) (p : Nat) : (s.push n u e).port p = s.port p := rfl

@[simp] theorem State.port_pushOnce (s : State) (n u : Nat) (e : Instr) (p : Nat) : (s.pushOnce n u e).port p = s.port p := by
  unfold State.pushOnce
  split <;> rfl

@[simp] theorem State.pushOnce_out (s : State) (n u : Nat) (e : Instr) : (s.pushOnce n u e).out = s.out := by
  unfold State.pushOnce
  split <;> rfl

@[simp] theorem State.pushOnce_bad (s : State) (n u : Nat) (e : Instr) : (s.pushOnce n u e).bad = s.bad := by
  unfold State.pushOnce
  split <;> rfl

/-- A step that is pushed after something was sent is to come in the cycle it would have been due before. -/
theorem State.Sends.mem_agenda_push {s t : State} (h : s.Sends t) (n u : Nat) (e : Instr) : (s.now + n, u, e) ∈ (t.push n u e).agenda := by
  rw [← h.now]
  exact List.mem_append_right _ (List.mem_singleton_self _)

/-- A step of `s` only sends, and leaves the state and port `p` as `post` says. -/
def State.Becomes (s : State) (p : Nat) (o : Host.Outcome State Fault Refusal) (post : State → Port → Prop) : Prop :=
  ∃ t, o = .next t ∧ s.Sends t ∧ post t (t.port p)

theorem State.Becomes.gives {s : State} {p : Nat} {o : Host.Outcome State Fault Refusal} {post : State → Port → Prop} (h : s.Becomes p o post) :
    ∃ t, o = .next t ∧ post t (t.port p) ∧ t.mem = s.mem ∧ t.ctxs = s.ctxs := by
  obtain ⟨t, ho, hsends, hpost⟩ := h
  exact ⟨t, ho, hpost, hsends.mem, hsends.ctxs⟩

/-! ### The header of a flit (R110) -/

theorem dwordAt_header (h : Nat) (rest : List Byte) : dwordAt (leBytes 8 h ++ rest) 0 = BitVec.ofNat 64 h := by
  have htake : (leBytes 8 h ++ rest).take 8 = leBytes 8 h := List.take_left' (leBytes_length 8 h)
  rw [dwordAt, Nat.mul_zero, List.drop_zero, htake, leNat_leBytes]
  exact BitVec.eq_of_toNat_eq (by simp)

theorem flitType_makeFlit {type : Nat} (h : type < 16) (payload : List Byte) : flitType (makeFlit type 0 0 0 payload) = type := by
  rw [flitType, makeFlit, dwordAt_header, fld, BitVec.toNat_ofNat]
  omega

/-- The header with which a flit leaves: ACKBASE and the credits are filled in. -/
def Port.header (q : Port) (bs : List Byte) : DWord :=
  setFld (setFld (setFld (dwordAt bs 0) 34 12 q.ackbase) 31 2 q.credits.1) 24 7 q.credits.2

theorem Port.leave_eq (q : Port) (bs : List Byte) :
    ∃ crc, q.leave bs = leBytes 8 (q.header bs).toNat ++ ((bs.drop 8).take 240 ++ leBytes 8 crc) := by
  refine ⟨crc64 (dwordBytes [q.header bs] ++ (bs.drop 8).take 240), ?_⟩
  rw [← List.append_assoc, ← List.append_nil (leBytes 8 (q.header bs).toNat)]
  rfl

theorem Port.dwordAt_leave (q : Port) (bs : List Byte) : dwordAt (q.leave bs) 0 = q.header bs := by
  obtain ⟨crc, h⟩ := q.leave_eq bs
  rw [h, dwordAt_header, BitVec.ofNat_toNat, BitVec.setWidth_eq]

/-- What is filled in leaves the fields above ACKBASE alone. -/
theorem Port.fld_header_above (q : Port) (bs : List Byte) {lo n : Nat} (h : 46 ≤ lo) : fld (q.header bs) lo n = fld (dwordAt bs 0) lo n := by
  rw [Port.header, fld_setFld_above _ _ (by decide) (by omega), fld_setFld_above _ _ (by decide) (by omega),
    fld_setFld_above _ _ (by decide) (by omega)]

/-- What is filled in leaves the fields below the credits alone. -/
theorem Port.fld_header_below (q : Port) (bs : List Byte) {lo n : Nat} (h : lo + n ≤ 24) : fld (q.header bs) lo n = fld (dwordAt bs 0) lo n := by
  rw [Port.header, fld_setFld_below _ _ (by decide) (by omega), fld_setFld_below _ _ (by decide) (by omega),
    fld_setFld_below _ _ (by decide) (by omega)]

@[simp] theorem Port.flitType_leave (q : Port) (bs : List Byte) : flitType (q.leave bs) = flitType bs := by
  rw [flitType, q.dwordAt_leave, q.fld_header_above bs (by decide), flitType]

@[simp] theorem Port.flitSeq_leave (q : Port) (bs : List Byte) : flitSeq (q.leave bs) = flitSeq bs := by
  rw [flitSeq, q.dwordAt_leave, q.fld_header_above bs (by decide), flitSeq]

@[simp] theorem Port.flitDpkg_leave (q : Port) (bs : List Byte) : flitDpkg (q.leave bs) = flitDpkg bs := by
  rw [flitDpkg, q.dwordAt_leave, q.fld_header_below bs (by decide), flitDpkg]

@[simp] theorem Port.flitAck_leave (q : Port) (bs : List Byte) : flitAck (q.leave bs) = q.ackbase % 4096 := by
  rw [flitAck, q.dwordAt_leave, Port.header, fld_setFld_above _ _ (by decide) (by decide), fld_setFld_above _ _ (by decide) (by decide),
    fld_setFld_self _ _ (by decide)]
  rfl

theorem Port.flitPayload_leave (q : Port) {bs : List Byte} (h : bs.length = 256) : flitPayload (q.leave bs) = flitPayload bs := by
  obtain ⟨crc, hleave⟩ := q.leave_eq bs
  rw [flitPayload, hleave, List.drop_left' (leBytes_length 8 _)]
  exact List.take_left' (by rw [List.length_take, List.length_drop, h]; rfl)

/-- Whether a flit is a sent form of another: type, number, destination and payload are the same (R112). -/
def SameFlit (b : List Byte) (f : Flit) : Prop :=
  flitType b = flitType f.bytes ∧ flitSeq b = flitSeq f.bytes ∧ flitDpkg b = flitDpkg f.bytes ∧ flitPayload b = flitPayload f.bytes

theorem Port.sameFlit_leave (q : Port) {f : Flit} (h : f.bytes.length = 256) : SameFlit (q.leave f.bytes) f :=
  ⟨q.flitType_leave _, q.flitSeq_leave _, q.flitDpkg_leave _, q.flitPayload_leave h⟩

theorem flitGood_iff (bs : List Byte) :
    flitGood bs = true ↔ bs.length = 256 ∧ crc64 (bs.take 248) = leNat (bs.drop 248) ∧ flitType bs < 5 := by
  rw [flitGood, Bool.and_eq_true, decide_eq_true_eq, decide_eq_true_eq, and_assoc]
  rfl

/-! ### A flit leaves a port (R110, R111) -/

theorem emitFlit_out (s : State) (p : Nat) (bs : List Byte) : (emitFlit s p bs).out = (p, (s.port p).leave bs) :: s.out := by
  unfold emitFlit
  dsimp only
  split <;> rfl

theorem emitFlit_bad (s : State) (p : Nat) (bs : List Byte) : (emitFlit s p bs).bad = s.bad := by
  unfold emitFlit
  dsimp only
  split <;> rfl

/-- Of the port only the credits owed may differ. -/
theorem emitFlit_port (s : State) (p : Nat) (bs : List Byte) : ∃ o, (emitFlit s p bs).port p = { s.port p with owed := o } := by
  unfold emitFlit
  dsimp only
  split
  · exact ⟨_, rfl⟩
  · exact ⟨_, State.port_updPort _ _ _⟩

/-- From `s` to `t` port `p`, otherwise become `q`, has sent one flit of a type. -/
structure State.SendsFlit (s t : State) (p type : Nat) (q : Port) : Prop where
  sends : s.Sends t
  bad : t.bad = s.bad
  out : ∃ b, t.out = (p, b) :: s.out ∧ flitType b = type
  port : ∃ o, t.port p = { q with owed := o }

/-- A port that has sent a flit and looks again later: nothing else differs. -/
theorem State.SendsFlit.push {s t : State} {p type : Nat} {q : Port} (h : s.SendsFlit t p type q) (n u : Nat) (e : Instr) :
    s.SendsFlit (t.push n u e) p type q := ⟨h.sends.trans (State.Sends.push _ _ _ _), h.bad, h.out, h.port⟩

theorem State.SendsFlit.port_eq {s t : State} {p type : Nat} {q : Port} (h : s.SendsFlit t p type q) : t.port p = { q with owed := (t.port p).owed } := by
  obtain ⟨-, -, -, o, hport⟩ := h
  rw [hport]

theorem sendControl_sendsFlit {type : Nat} (h : type < 16) (s : State) (p : Nat) (payload : List Byte) :
    s.SendsFlit (sendControl s p type payload) p type (s.port p) where
  sends := State.Sends.emitFlit _ _ _
  bad := emitFlit_bad _ _ _
  out := ⟨_, emitFlit_out _ _ _, (Port.flitType_leave _ _).trans (flitType_makeFlit h _)⟩
  port := emitFlit_port _ _ _

theorem sendCap_sendsFlit (s : State) (p : Nat) : s.SendsFlit (sendCap s p) p 3 (s.port p) := sendControl_sendsFlit (by decide) _ _ _

theorem sendAck_sendsFlit (s : State) (p : Nat) : s.SendsFlit (sendAck s p) p 2 { s.port p with sinceAck := 0 } := by
  have h := fun payload => sendControl_sendsFlit (type := 2) (by decide) (s.updPort p fun q => { q with sinceAck := 0 }) p payload
  simp only [State.port_updPort] at h
  obtain ⟨hsends, hbad, hout, hport⟩ := h _
  exact ⟨(State.Sends.updPort _ _ _).trans hsends, hbad, hout, hport⟩

/-- Flits leave a port one after the other: each is out, with the ACKBASE of the port, of which only the credits owed may differ. -/
theorem foldl_emitFlit_facts (p : Nat) (l : List Flit) (s : State) :
    let t := l.foldl (fun s f => emitFlit s p f.bytes) s
    (∃ o, t.port p = { s.port p with owed := o }) ∧ s.out ⊆ t.out ∧ ∀ f ∈ l, ∃ q : Port, q.ackbase = (s.port p).ackbase ∧ (p, q.leave f.bytes) ∈ t.out := by
  induction l generalizing s with
  | nil => exact ⟨⟨_, rfl⟩, List.Subset.refl _, fun f hf => absurd hf List.not_mem_nil⟩
  | cons f l ih =>
    obtain ⟨⟨o, hport⟩, hout, hsent⟩ := ih (emitFlit s p f.bytes)
    obtain ⟨o1, hport1⟩ := emitFlit_port s p f.bytes
    rw [emitFlit_out] at hout
    rw [hport1] at hport hsent
    refine ⟨⟨o, hport⟩, fun x hx => hout (List.mem_cons_of_mem _ hx), fun g hg => ?_⟩
    rcases List.mem_cons.mp hg with rfl | hg
    · exact ⟨_, rfl, hout List.mem_cons_self⟩
    · exact hsent g hg

/-! ### The replay buffer (R112) -/

/-- The flits of a port's replay buffer that are sent again. -/
def Port.again (q : Port) (again : Flit → Bool) : List Flit := q.replay.filter fun f => f.first ≠ unsent && again f

/-- The port with those flits marked as sent now. -/
def Port.resent (q : Port) (now : Nat) (again : Flit → Bool) : Port :=
  { q with replay := q.replay.map fun f => if f.first ≠ unsent && again f then ({ f with last := now } : Flit) else f }

/-- Flits sent again keep their numbers. -/
theorem Port.resent_lseqs (q : Port) (now : Nat) (again : Flit → Bool) : (q.resent now again).replay.map (·.lseq) = q.replay.map (·.lseq) := by
  rw [Port.resent, List.map_map]
  refine List.map_congr_left fun f _ => ?_
  rw [Function.comp_apply]
  split <;> rfl

section
variable {s : State} {p : Nat} {again : Flit → Bool}

theorem resendFlits_none (h : (s.port p).again again = []) : resendFlits s p again = s := if_pos h

theorem resendFlits_some (h : (s.port p).again again ≠ []) : resendFlits s p again
    = (((s.port p).again again).foldl (fun s f => emitFlit s p f.bytes) (s.updPort p fun q => q.resent s.now again)).push 875 p .replayTimeout :=
  if_neg h

theorem resendFlits_sends : s.Sends (resendFlits s p again) := by
  by_cases h : (s.port p).again again = []
  · rw [resendFlits_none h]
    exact State.Sends.refl s
  · rw [resendFlits_some h]
    exact ((State.Sends.updPort _ _ _).trans (State.Sends.foldl (fun _ _ => State.Sends.emitFlit _ _ _) _ _)).trans (State.Sends.push _ _ _ _)

theorem resendFlits_lseqs : ((resendFlits s p again).port p).replay.map (·.lseq) = (s.port p).replay.map (·.lseq) ∧
    ((resendFlits s p again).port p).lseq = (s.port p).lseq := by
  by_cases h : (s.port p).again again = []
  · rw [resendFlits_none h]
    exact ⟨rfl, rfl⟩
  · obtain ⟨⟨o, hport⟩, -, -⟩ := foldl_emitFlit_facts p ((s.port p).again again) (s.updPort p fun q => q.resent s.now again)
    rw [resendFlits_some h, State.port_push, hport, State.port_updPort]
    exact ⟨Port.resent_lseqs _ _ _, rfl⟩

/-- Each flit sent again is out, with the ACKBASE of now, and is looked at again in 0.5 µs. -/
theorem resendFlits_out (h : (s.port p).again again ≠ []) :
    (∀ f ∈ (s.port p).again again, ∃ q : Port, q.ackbase = (s.port p).ackbase ∧ (p, q.leave f.bytes) ∈ (resendFlits s p again).out) ∧
      (s.now + 875, p, .replayTimeout) ∈ (resendFlits s p again).agenda := by
  obtain ⟨-, -, hsent⟩ := foldl_emitFlit_facts p ((s.port p).again again) (s.updPort p fun q => q.resent s.now again)
  rw [State.port_updPort] at hsent
  rw [resendFlits_some h]
  exact ⟨hsent, (((State.Sends.updPort s p _).trans (State.Sends.foldl (fun _ _ => State.Sends.emitFlit _ _ _) _ _)).mem_agenda_push _ _ _)⟩

end

/-- A port all of whose flits have been sent has nothing more to send. -/
theorem sendReady_none {s : State} {p : Nat} (h : ∀ f ∈ (s.port p).replay, f.first ≠ unsent) : sendReady s p = s :=
  if_pos (List.filter_eq_nil_iff.mpr fun f hf => by simp [h f hf])

/-- The port without the flits of its replay buffer that are acknowledged. -/
def Port.without (q : Port) (gone : Nat → Bool) : Port := { q with replay := q.replay.filter fun f => !gone f.lseq }

theorem acked_sent {s : State} {p : Nat} (gone : Nat → Bool) (h : ∀ f ∈ (s.port p).replay, f.first ≠ unsent) :
    acked s p gone = s.updPort p fun q => { q with replay := q.replay.filter (fun f => f.first = unsent || !gone f.lseq) } :=
  sendReady_none fun f hf => by
    rw [State.port_updPort] at hf
    exact h f (List.mem_of_mem_filter hf)

theorem acked_port {s : State} {p : Nat} (gone : Nat → Bool) (h : ∀ f ∈ (s.port p).replay, f.first ≠ unsent) :
    (acked s p gone).port p = (s.port p).without gone := by
  rw [acked_sent gone h, State.port_updPort, Port.without]
  congr 1
  exact List.filter_congr fun f hf => by simp [h f hf]

theorem acked_sends (s : State) (p : Nat) (gone : Nat → Bool) : s.Sends (acked s p gone) :=
  (State.Sends.updPort _ _ _).trans (State.Sends.sendReady _ _)

end Sys2Proof.Machine
end

section
/-! PROOF. Reception: flits held, delivered and acknowledged, and the transactions that arrive with them (O42). -/

namespace Sys2Proof.Machine

/-! ### Transactions arrive (R115, R116, R122) -/

/-- From `s` to `t` something may have been sent and errors counted: of port `p` nothing else differs. -/
structure State.Counts (s t : State) (p : Nat) : Prop where
  sends : s.Sends t
  bad : t.bad = s.bad
  port : ∃ e, t.port p = { s.port p with errs := e }

namespace State.Counts

theorem refl (s : State) (p : Nat) : s.Counts s p := ⟨State.Sends.refl s, rfl, _, rfl⟩

theorem trans {s t u : State} {p : Nat} (h : s.Counts t p) (g : t.Counts u p) : s.Counts u p := by
  obtain ⟨hsends, hbad, e, hport⟩ := h
  obtain ⟨gsends, gbad, e', gport⟩ := g
  exact ⟨hsends.trans gsends, gbad.trans hbad, e', by rw [gport, hport]⟩

theorem portErr (s : State) (p : Nat) : s.Counts (Machine.portErr s p) p := by
  unfold Machine.portErr
  split
  · exact ⟨State.Sends.updPort _ _ _, rfl, _, State.port_updPort _ _ _⟩
  · exact refl s p

theorem arriveTxn (s : State) (p pkg : Nat) (t : Txn) : s.Counts (Machine.arriveTxn s p pkg t) p := by
  unfold Machine.arriveTxn
  split
  · exact portErr s p
  · split
    · exact ⟨State.Sends.push _ _ _ _, rfl, _, rfl⟩
    · exact portErr s p

end State.Counts

theorem State.Sends.lifetime {s t : State} (h : s.Sends t) : t.lifetime = s.lifetime := by rw [State.lifetime, h.mid]; rfl

/-- A transaction 4 µs older (R122). -/
def olderTxn (t : Txn) : Txn := { t with d1 := setFld t.d1 56 8 (t.age + 4) }

theorem arriveTxn_due {s : State} {t : Txn} (hknown : opKnown t.op = true) (hage : t.age + 4 ≤ s.lifetime) (p pkg : Nat) :
    (arriveTxn s p pkg t).due 0 (arrival p pkg (olderTxn t)) := by
  have haged : s.aged t = some (olderTxn t) := if_neg (Nat.not_lt.mpr hage)
  rw [arriveTxn, hknown, haged]
  exact State.due_push _ _ _ _

/-- Transactions that arrive one after the other: each known one young enough is to be taken. -/
theorem foldl_arriveTxn_facts (p pkg : Nat) (l : List Txn) (s : State) :
    let u := l.foldl (fun s t => arriveTxn s p pkg t) s
    s.Counts u p ∧ ∀ t ∈ l, opKnown t.op = true → t.age + 4 ≤ s.lifetime → u.due 0 (arrival p pkg (olderTxn t)) := by
  induction l generalizing s with
  | nil => exact ⟨State.Counts.refl s p, fun t ht => absurd ht List.not_mem_nil⟩
  | cons t l ih =>
    obtain ⟨hcounts, hdue⟩ := ih (arriveTxn s p pkg t)
    have hfirst := State.Counts.arriveTxn s p pkg t
    refine ⟨hfirst.trans hcounts, fun x hx hknown hage => ?_⟩
    rcases List.mem_cons.mp hx with rfl | hx
    · exact hcounts.sends.due (arriveTxn_due hknown hage p pkg)
    · exact hdue x hx hknown (hfirst.sends.lifetime ▸ hage)

/-- The units of channel `vc` that began in flits before. -/
def Port.left (q : Port) (vc : Nat) : List Byte := ((q.partial0.find? (fun x => decide (x.1 = vc))).map (·.2)).getD []

/-- The package at the far end of a port's link. -/
def Port.peerPkg (q : Port) : Nat := q.peer.elim 0 (·.1)

/-- The transactions that a flit's payload completes at a port. -/
def State.txnsOf (s : State) (p vc : Nat) (payload : List Byte) : List Txn :=
  (takeTxns (s.tailBytes (s.port p).peerPkg) 20 ((s.port p).left vc ++ payload)).1

/-- The units that a flit's payload leaves unfinished at a port. -/
def State.unitsLeft (s : State) (p vc : Nat) (payload : List Byte) : List Byte :=
  (takeTxns (s.tailBytes (s.port p).peerPkg) 20 ((s.port p).left vc ++ payload)).2

/-- A port that keeps the units `rest` of a channel for its next flit. -/
def Port.keeps (q : Port) (vc : Nat) (rest : List Byte) : Port :=
  { q with partial0 := q.partial0.filter (fun x => decide (x.1 ≠ vc)) ++ (if rest = [] then [] else [(vc, rest)]) }

theorem takeUnits_eq (s : State) (p vc : Nat) (payload : List Byte) : takeUnits s p vc payload
    = (s.txnsOf p vc payload).foldl (fun t x => arriveTxn t p (s.port p).peerPkg x) (s.updPort p fun q => q.keeps vc (s.unitsLeft p vc payload)) := by
  unfold takeUnits State.txnsOf State.unitsLeft Port.left Port.peerPkg
  dsimp only
  generalize takeTxns _ 20 _ = units
  obtain ⟨l, rest⟩ := units
  rfl

theorem takeUnits_facts (s : State) (p vc : Nat) (payload : List Byte) :
    s.Sends (takeUnits s p vc payload) ∧ (takeUnits s p vc payload).bad = s.bad ∧
      (∃ l e, (takeUnits s p vc payload).port p = { s.port p with partial0 := l, errs := e }) ∧
      ∀ x ∈ s.txnsOf p vc payload, opKnown x.op = true → x.age + 4 ≤ s.lifetime →
        (takeUnits s p vc payload).due 0 (arrival p (s.port p).peerPkg (olderTxn x)) := by
  have hkeep := State.Sends.updPort s p fun q => q.keeps vc (s.unitsLeft p vc payload)
  obtain ⟨⟨hsends, hbad, e, hport⟩, hdue⟩ := foldl_arriveTxn_facts p (s.port p).peerPkg (s.txnsOf p vc payload)
    (s.updPort p fun q => q.keeps vc (s.unitsLeft p vc payload))
  rw [State.port_updPort] at hport
  rw [hkeep.lifetime] at hdue
  rw [takeUnits_eq]
  exact ⟨hkeep.trans hsends, hbad, ⟨_, e, hport⟩, hdue⟩

/-! ### A flit is delivered (R110, R113) -/

/-- The state with a DATA flit held. -/
def State.holds (s : State) (p : Nat) (bs : List Byte) : State := s.updPort p fun q => { q with reseq := q.reseq ++ [(flitSeq bs, bs)] }

/-- A port that takes the flit it waits for: ACKBASE moves on, and the buffer is owed to the other end. -/
def Port.takes (q : Port) (bs : List Byte) : Port :=
  { q with
    reseq := q.reseq.filter (fun f => decide (f.1 ≠ flitSeq bs)), ackbase := (flitSeq bs + 1) % 4096, sinceAck := q.sinceAck + 1
    owed := q.owed.set (flitVc bs) (q.owed.val 0 (flitVc bs) + 1) }

/-- The state once a port has taken a flit for this package, and acknowledged it where 64 have come. -/
def State.delivers (s : State) (p : Nat) (bs : List Byte) : State :=
  let u := takeUnits (s.updPort p fun q => q.takes bs) p (flitVc bs) (flitPayload bs)
  if 64 ≤ (u.port p).sinceAck then sendAck u p else u

theorem deliverFlits_none {s : State} {p : Nat} (h : (s.port p).reseq.find? (fun f => decide (f.1 = (s.port p).ackbase)) = none) (fuel : Nat) :
    deliverFlits p fuel s = s := by
  cases fuel with
  | zero => rfl
  | succ fuel => simp only [deliverFlits, h]

/-- What taking a flit does to its port, and which transactions it makes arrive. -/
theorem State.delivers_facts (s : State) (p : Nat) (bs : List Byte) :
    s.Sends (s.delivers p bs) ∧ (s.delivers p bs).bad = s.bad ∧
      (∃ l e o n, (s.delivers p bs).port p = { (s.port p).takes bs with partial0 := l, errs := e, owed := o, sinceAck := n } ∧
        ((s.port p).sinceAck < 63 → o = ((s.port p).takes bs).owed)) ∧
      ∀ x ∈ s.txnsOf p (flitVc bs) (flitPayload bs), opKnown x.op = true → x.age + 4 ≤ s.lifetime →
        (s.delivers p bs).due 0 (arrival p (s.port p).peerPkg (olderTxn x)) := by
  have htake := State.Sends.updPort s p fun q => q.takes bs
  have hunits : (s.updPort p fun q => q.takes bs).txnsOf p (flitVc bs) (flitPayload bs) = s.txnsOf p (flitVc bs) (flitPayload bs) := by
    rw [State.txnsOf, State.port_updPort]
    rfl
  obtain ⟨hsends, hbad, ⟨l, e, hport⟩, hdue⟩ := takeUnits_facts (s.updPort p fun q => q.takes bs) p (flitVc bs) (flitPayload bs)
  rw [hunits, htake.lifetime, State.port_updPort] at hdue
  rw [State.port_updPort] at hport
  unfold State.delivers
  dsimp only
  generalize takeUnits (s.updPort p fun q => q.takes bs) p (flitVc bs) (flitPayload bs) = u at *
  split
  · next hmany =>
    obtain ⟨gsends, gbad, -, o, gport⟩ := sendAck_sendsFlit u p
    rw [hport] at gport hmany
    exact ⟨(htake.trans hsends).trans gsends, gbad.trans hbad, ⟨l, e, o, _, gport, fun hfew => absurd hmany (Nat.not_le.mpr (Nat.succ_lt_succ hfew))⟩,
      fun x hx hknown hage => gsends.due (hdue x hx hknown hage)⟩
  · exact ⟨htake.trans hsends, hbad, ⟨l, e, _, _, hport, fun _ => rfl⟩, hdue⟩

/-- The one flit held is the one the port waits for: it is delivered, and none is left. -/
theorem deliverFlits_next {s : State} {p : Nat} {bs : List Byte} (hheld : (s.port p).reseq = [(flitSeq bs, bs)])
    (hbase : (s.port p).ackbase = flitSeq bs) (hpkg : flitDpkg bs = s.pkg) (fuel : Nat) : deliverFlits p (fuel + 1) s = s.delivers p bs := by
  have hfind : (s.port p).reseq.find? (fun f => decide (f.1 = (s.port p).ackbase)) = some (flitSeq bs, bs) := by simp [hheld, hbase]
  have hstep : deliverFlits p (fuel + 1) s = deliverFlits p fuel (s.delivers p bs) := by
    simp only [deliverFlits, hfind, State.updPort_pkg, hpkg, if_true]
    rfl
  obtain ⟨-, -, ⟨l, e, o, n, hport, -⟩, -⟩ := s.delivers_facts p bs
  rw [hstep]
  refine deliverFlits_none ?_ fuel
  rw [hport]
  simp [Port.takes, hheld]

theorem State.holds_port (s : State) {p : Nat} (bs : List Byte) (hempty : (s.port p).reseq = []) :
    (s.holds p bs).port p = { s.port p with reseq := [(flitSeq bs, bs)] } := by
  rw [State.holds, State.port_updPort, hempty, List.nil_append]

/-! ### FLIT_RECEIVE (R111 to R113) -/

theorem openFlit_plain {bs : List Byte} (hgood : flitGood bs = true) (hack : flitAckV bs = false) (s : State) (p : Nat) : openFlit s p bs = some s := by
  simp [openFlit, hgood, hack]

theorem execFlitReceive_down {s : State} {port : Nat} (h : (s.port port).mode = 0) (bytes : List Byte) : execFlitReceive port bytes s = .next s := by
  simp only [execFlitReceive, h]
  rfl

section
variable {s : State} {port : Nat} {bytes : List Byte} (hup : 1 ≤ (s.port port).mode) (hrenox : (s.port port).mode ≤ 3)
include hup hrenox

/-- A damaged flit is counted and discarded. -/
theorem execFlitReceive_damaged (hport : port < 48) (hbad : ¬ flitGood bytes = true) :
    s.Becomes port (execFlitReceive port bytes s) fun _ x => x = { s.port port with errs := min ((s.port port).errs + 1) 65535 } := by
  have hopen : openFlit s port bytes = none := if_pos (Bool.eq_false_iff.mpr hbad)
  have h0 : ¬ (s.port port).mode = 0 := by omega
  have h4 : ¬ (s.port port).mode = 4 := by omega
  refine ⟨portErr s port, by simp only [execFlitReceive, if_neg h4, if_neg h0, hopen], (State.Counts.portErr s port).sends, ?_⟩
  rw [portErr, if_pos hport, State.port_updPort]
  rfl

/-- A whole flit of another type than DATA goes where its type says. -/
theorem execFlitReceive_control (hgood : flitGood bytes = true) (hack : flitAckV bytes = false) :
    (flitType bytes = 0 → execFlitReceive port bytes s = .next s) ∧
      (flitType bytes = 2 → execFlitReceive port bytes s = .next (s.push 0 0 (.ackFlit port bytes))) ∧
      (flitType bytes = 3 → execFlitReceive port bytes s = .next (s.push 0 0 (.linkcap port bytes))) ∧
      (flitType bytes = 4 → execFlitReceive port bytes s = .next (s.push 0 port .retrain)) := by
  have h0 : ¬ (s.port port).mode = 0 := by omega
  have h4 : ¬ (s.port port).mode = 4 := by omega
  refine ⟨fun htype => ?_, fun htype => ?_, fun htype => ?_, fun htype => ?_⟩ <;>
    simp only [execFlitReceive, if_neg h4, if_neg h0, openFlit_plain hgood hack, htype]

end

/-- A Renox port that holds no flit is sent `bs`, a whole DATA flit that acknowledges nothing. -/
structure State.TakesData (s : State) (port : Nat) (bs : List Byte) : Prop where
  up : 2 ≤ (s.port port).mode
  renox : (s.port port).mode ≤ 3
  good : flitGood bs = true
  plain : flitAckV bs = false
  data : flitType bs = 1
  empty : (s.port port).reseq = []
  base : (s.port port).ackbase < 4096
  safe : s.bad = none

section
variable {s : State} {port : Nat} {bytes : List Byte} (h : s.TakesData port bytes)
include h

/-- The flit is held and delivered, acknowledged as an old one, or discarded. -/
theorem State.TakesData.exec_eq : execFlitReceive port bytes s
    = if (flitSeq bytes + 4096 - (s.port port).ackbase) % 4096 < 256 then
        fin (if ((deliverFlits port 256 (s.holds port bytes)).port port).reseq.isEmpty then deliverFlits port 256 (s.holds port bytes)
          else (sendAck (deliverFlits port 256 (s.holds port bytes)) port).pushOnce 350 port .ackSendTimer)
      else if lseqBefore (flitSeq bytes) (s.port port).ackbase then .next (sendAck s port)
      else .next s := by
  obtain ⟨hup, hrenox, hgood, hplain, hdata, hempty, -, -⟩ := h
  have h0 : ¬ (s.port port).mode = 0 := by omega
  have h4 : ¬ (s.port port).mode = 4 := by omega
  have hnew : ¬ (s.port port).reseq.any (fun f => decide (f.1 = flitSeq bytes)) = true := by simp [hempty]
  simp only [execFlitReceive, if_neg h4, if_neg h0, openFlit_plain hgood hplain, hdata, if_neg (Nat.not_lt.mpr hup), if_neg hnew]
  rfl

/-- A flit ahead of ACKBASE is held, and acknowledged in the bitmap. -/
theorem State.TakesData.ahead (hahead : (flitSeq bytes + 4096 - (s.port port).ackbase) % 4096 ≠ 0)
    (hnear : (flitSeq bytes + 4096 - (s.port port).ackbase) % 4096 < 256) :
    s.Becomes port (execFlitReceive port bytes s) fun t x => x.reseq = [(flitSeq bytes, bytes)] ∧ x.ackbase = (s.port port).ackbase ∧
      (∃ b, t.out = (port, b) :: s.out ∧ flitType b = 2) ∧ t.due port .ackSendTimer := by
  have hport := s.holds_port bytes h.empty
  have hother : flitSeq bytes ≠ (s.port port).ackbase := by have := h.base; omega
  have hwaits : deliverFlits port 256 (s.holds port bytes) = s.holds port bytes := deliverFlits_none (by simp [hport, hother]) 256
  obtain ⟨hsends, hbad, hout, o, hx⟩ := sendAck_sendsFlit (s.holds port bytes) port
  rw [hport] at hx
  refine ⟨(sendAck (s.holds port bytes) port).pushOnce 350 port .ackSendTimer, ?_,
    (State.Sends.updPort _ _ _).trans (hsends.trans (State.Sends.pushOnce _ _ _ _)), ?_⟩
  · rw [h.exec_eq, if_pos hnear, hwaits, hport, if_neg (by simp)]
    exact fin_ok ((State.pushOnce_bad _ _ _ _).trans (hbad.trans h.safe))
  · rw [State.port_pushOnce, hx]
    exact ⟨rfl, rfl, by rw [State.pushOnce_out]; exact hout, State.due_pushOnce _ _ _ _⟩

/-- A flit before ACKBASE is acknowledged again. -/
theorem State.TakesData.old (hbefore : lseqBefore (flitSeq bytes) (s.port port).ackbase = true) :
    s.Becomes port (execFlitReceive port bytes s) fun t x => x.reseq = [] ∧ x.ackbase = (s.port port).ackbase ∧
      ∃ b, t.out = (port, b) :: s.out ∧ flitType b = 2 := by
  have hseq : flitSeq bytes < 4096 := Nat.mod_lt _ (by decide)
  have hbase := h.base
  have hfar := of_decide_eq_true hbefore
  obtain ⟨hsends, -, hout, o, hx⟩ := sendAck_sendsFlit s port
  refine ⟨sendAck s port, by rw [h.exec_eq, if_neg (by omega), if_pos hbefore], hsends, ?_⟩
  rw [hx]
  exact ⟨h.empty, rfl, hout⟩

/-- The flit at ACKBASE is delivered: its transactions arrive, and its buffer is owed to the other end. -/
theorem State.TakesData.next (hnext : (flitSeq bytes + 4096 - (s.port port).ackbase) % 4096 = 0) (hpkg : flitDpkg bytes = s.pkg) :
    s.Becomes port (execFlitReceive port bytes s) fun t x => x.reseq = [] ∧ x.ackbase = (flitSeq bytes + 1) % 4096 ∧
      (∀ tx ∈ s.txnsOf port (flitVc bytes) (flitPayload bytes), opKnown tx.op = true → tx.age + 4 ≤ s.mid.fabtime.toNat % 256 →
        t.due 0 (arrival port (s.port port).peerPkg (olderTxn tx))) ∧
      ((s.port port).sinceAck < 63 → x.owed = (s.port port).owed.set (flitVc bytes) ((s.port port).owed.val 0 (flitVc bytes) + 1)) := by
  have hseq : flitSeq bytes < 4096 := Nat.mod_lt _ (by decide)
  have hbase : (s.port port).ackbase = flitSeq bytes := by have := h.base; omega
  have hport := s.holds_port bytes h.empty
  have hunits : (s.holds port bytes).txnsOf port (flitVc bytes) (flitPayload bytes) = s.txnsOf port (flitVc bytes) (flitPayload bytes) := by
    rw [State.txnsOf, hport]
    rfl
  have hdelivers : deliverFlits port 256 (s.holds port bytes) = (s.holds port bytes).delivers port bytes :=
    deliverFlits_next (s := s.holds port bytes) (by rw [hport]) (by rw [hport]; exact hbase) hpkg 255
  obtain ⟨hsends, hbad, ⟨l, e, o, n, hx, howed⟩, hdue⟩ := (s.holds port bytes).delivers_facts port bytes
  rw [hport] at hx howed hdue
  rw [hunits, State.lifetime, fld_zero] at hdue
  have hnone : (((s.holds port bytes).delivers port bytes).port port).reseq = [] := by simp [hx, Port.takes]
  refine ⟨(s.holds port bytes).delivers port bytes, ?_, (State.Sends.updPort _ _ _).trans hsends, hnone, ?_, hdue, fun hfew => ?_⟩
  · rw [h.exec_eq, if_pos (by omega), hdelivers, hnone, if_pos List.isEmpty_nil]
    exact fin_ok (hbad.trans h.safe)
  · rw [hx]
    rfl
  · rw [hx, howed hfew]
    rfl

end

/-! ### ACK_FLIT (R112) -/

/-- What a whole flit acknowledges by its ACKBASE leaves the replay buffer. -/
theorem openFlit_sent {s : State} {p : Nat} {bs : List Byte} (hgood : flitGood bs = true) (hmode : 2 ≤ (s.port p).mode)
    (hsent : ∀ f ∈ (s.port p).replay, f.first ≠ unsent) :
    ∃ t, openFlit s p bs = some t ∧ s.Sends t ∧ t.port p = (s.port p).without fun n => flitAckV bs && lseqBefore n (flitAck bs) := by
  rw [openFlit, hgood]
  by_cases hack : flitAckV bs = true
  · simp only [hack, hmode, and_self, Bool.true_eq_false, if_false, if_true, Bool.true_and]
    exact ⟨_, rfl, acked_sends _ _ _, acked_port _ hsent⟩
  · simp only [hack, Bool.true_eq_false, if_false, Bool.false_and, Port.without, Bool.not_false]
    exact ⟨s, rfl, State.Sends.refl s, by simp⟩

/-- The numbers that an ACK's bitmap names. -/
def ackSeqs (bs : List Byte) : List Nat :=
  ((List.range 255).filter (fun i => ((flitPayload bs).getD (i / 8) 0).getLsbD (i % 8))).map (fun i => (flitAck bs + 1 + i) % 4096)

/-- Whether an ACK's bitmap names a number. -/
def ackNames (bs : List Byte) (n : Nat) : Bool :=
  (List.range 255).any fun i => ((flitPayload bs).getD (i / 8) 0).getLsbD (i % 8) && decide (n = (flitAck bs + 1 + i) % 4096)

theorem contains_ackSeqs (bs : List Byte) (n : Nat) : (ackSeqs bs).contains n = ackNames bs n := by
  rw [ackSeqs, ackNames, Bool.eq_iff_iff, List.contains_iff_mem, List.any_eq_true]
  simp only [List.mem_map, List.mem_filter, Bool.and_eq_true, decide_eq_true_eq, and_assoc, eq_comm (a := n)]

/-- An ACK takes the flits it names out of the replay buffer, and no other. -/
theorem execAckFlit_takes {s : State} {p : Nat} {bs : List Byte} (hmode : 2 ≤ (s.port p).mode) (hgood : flitGood bs = true) (htype : flitType bs = 2)
    (hsent : ∀ f ∈ (s.port p).replay, f.first ≠ unsent) :
    s.Becomes p (execAckFlit p bs s) fun _ x => x.replay.map (·.lseq)
      = ((s.port p).replay.filter fun f => !((flitAckV bs && lseqBefore f.lseq (flitAck bs)) || ackNames bs f.lseq)).map (·.lseq) ∧
        x.lseq = (s.port p).lseq := by
  obtain ⟨u, hopen, hsends, hport⟩ := openFlit_sent hgood hmode hsent
  have hsent' : ∀ f ∈ (u.port p).replay, f.first ≠ unsent := by
    rw [hport]
    exact fun f hf => hsent f (List.mem_of_mem_filter hf)
  have hgo : ¬ ((s.port p).mode < 2 ∨ flitType bs ≠ 2) := by omega
  obtain ⟨hlseqs, hlseq⟩ := resendFlits_lseqs (s := acked u p (ackSeqs bs).contains) (p := p) (again := fun f => (ackSeqs bs).any (lseqBefore f.lseq))
  rw [acked_port _ hsent', hport] at hlseqs hlseq
  refine ⟨_, ?_, (hsends.trans (acked_sends _ _ _)).trans resendFlits_sends, hlseqs.trans ?_, hlseq⟩
  · simp only [execAckFlit, if_neg hgo, hopen]
    rfl
  · simp only [Port.without, List.filter_filter, contains_ackSeqs, Bool.not_or]
    simp only [Bool.and_comm]

/-! ### Acknowledgements and replays by time (R112, R113) -/

theorem execAckSendTimer_none {s : State} (h : (s.port s.subj).reseq = [] ∨ (s.port s.subj).mode < 2) : execAckSendTimer s = .next s :=
  if_pos (h.imp_left List.isEmpty_iff.mpr)

/-- 0.2 µs later the flits held are acknowledged again. -/
theorem execAckSendTimer_sends {s : State} (hheld : (s.port s.subj).reseq ≠ []) (hmode : 2 ≤ (s.port s.subj).mode) :
    s.Becomes s.subj (execAckSendTimer s) fun t x => x = { s.port s.subj with sinceAck := 0, owed := x.owed } ∧
      (∃ b, t.out = (s.subj, b) :: s.out ∧ flitType b = 2) ∧ (s.now + 350, s.subj, .ackSendTimer) ∈ t.agenda := by
  have hsent := sendAck_sendsFlit s s.subj
  have hagain := hsent.push 350 s.subj .ackSendTimer
  have hgo : ¬ ((s.port s.subj).reseq.isEmpty = true ∨ (s.port s.subj).mode < 2) :=
    not_or.mpr ⟨fun h => hheld (List.isEmpty_iff.mp h), Nat.not_lt.mpr hmode⟩
  exact ⟨_, if_neg hgo, hagain.sends, hagain.port_eq, hagain.out, hsent.sends.mem_agenda_push _ _ _⟩

/-- The flits of a port not acknowledged 0.5 µs after they were last sent. -/
def Port.overdue (q : Port) (now : Nat) : List Flit := q.replay.filter fun f => decide (f.first ≠ 2 ^ 63 ∧ f.last + 875 ≤ now)

theorem Port.again_overdue (q : Port) (now : Nat) : q.again (fun f => decide (f.last + 875 ≤ now)) = q.overdue now := by
  simp only [Port.again, Port.overdue, Bool.decide_and]
  rfl

theorem execReplayTimeout_none {s : State} (h : (s.port s.subj).overdue s.now = []) : execReplayTimeout s = .next s :=
  congrArg Host.Outcome.next (resendFlits_none ((Port.again_overdue _ _).trans h))

/-- Overdue flits are sent again, as they were but with the ACKBASE of now. -/
theorem execReplayTimeout_resends {s : State} (h : (s.port s.subj).overdue s.now ≠ []) :
    s.Becomes s.subj (execReplayTimeout s) fun t x => (∀ f ∈ (s.port s.subj).overdue s.now, f.bytes.length = 256 →
        ∃ b, (s.subj, b) ∈ t.out ∧ SameFlit b f ∧ flitAck b = (s.port s.subj).ackbase % 4096) ∧
      x.replay.map (·.lseq) = (s.port s.subj).replay.map (·.lseq) ∧ (s.now + 875, s.subj, .replayTimeout) ∈ t.agenda := by
  rw [← Port.again_overdue] at h ⊢
  obtain ⟨hout, hagenda⟩ := resendFlits_out h
  refine ⟨_, rfl, resendFlits_sends, fun f hf hlen => ?_, resendFlits_lseqs.1, hagenda⟩
  obtain ⟨q, hbase, hmem⟩ := hout f hf
  exact ⟨_, hmem, q.sameFlit_leave hlen, hbase ▸ q.flitAck_leave _⟩

end Sys2Proof.Machine
end

section
/-! PROOF. The training of ports and their registers, and the statement on flits and ports (O42). -/

namespace Sys2Proof.Machine

/-! ### Training (R114, R135 to R137, R437) -/

/-- A port whose training so far is charged to its budget, in whole µs. -/
def Port.paid (q : Port) (now : Nat) : Port := { q with retrTok := q.retrTok - (now - q.trainStart + 1749) / 1750 }

theorem chargeTraining_port (s : State) (p : Nat) : (chargeTraining s p).port p = (s.port p).paid s.now := by
  have htime : (s.now - (s.port p).trainStart + (usCycles : Int) - 1) / usCycles = (s.now - (s.port p).trainStart + 1749) / 1750 := by
    rw [usCycles]
    congr 1
    push_cast
    ring
  rw [chargeTraining, State.port_updPort, htime]
  rfl

/-- A training may begin: there are tokens, or the port has not trained before. -/
def Port.Funded (q : Port) : Prop := 0 < q.retrTok ∨ q.retrains = 0

/-- Port `p`, now `x`, trains in mode `m` from cycle `now`: the link holds nothing, and what PORTCFG permits has taken effect. -/
def State.Trains (t : State) (now p m : Nat) (x : Port) : Prop :=
  x.mode = m ∧ x.lanes = 0 ∧ x.peer = none ∧ x.lseq = 0 ∧ x.replay = [] ∧ x.ackbase = 0 ∧ x.reseq = [] ∧ x.partial0 = [] ∧
    x.nowUa = x.ualen ∧ x.now2 = x.v2 ∧ x.now1 = x.v1 ∧ x.waits = false ∧ (now + 175000000, p, .portTrainTimeout) ∈ t.agenda

theorem startTraining_sends (s : State) (p m : Nat) : s.Sends (startTraining s p m) := by
  unfold startTraining
  split
  · exact State.Sends.updPort _ _ _
  · exact (State.Sends.updPort _ _ _).trans (State.Sends.push _ _ _ _)

theorem startTraining_out (s : State) (p m : Nat) : (startTraining s p m).out = s.out := by
  unfold startTraining
  split <;> rfl

/-- A port whose PORTCFG fields are those of `v` (R135). -/
def Port.Written (x : Port) (v : BitVec 32) : Prop :=
  x.ujob = v.toNat / 2 ^ 8 % 2 ^ 6 ∧ x.ualen = v.getLsbD 3 ∧ x.v2 = v.getLsbD 2 ∧ x.v1 = v.getLsbD 1 ∧ x.en = v.getLsbD 0

/-- What PORTCFG has set, training leaves alone. -/
theorem startTraining_written {s : State} {p : Nat} {v : BitVec 32} (h : (s.port p).Written v) (m : Nat) :
    ((startTraining s p m).port p).Written v := by
  unfold startTraining
  split
  · rw [State.port_updPort]
    exact h
  · rw [State.port_push, State.port_updPort]
    exact h

theorem startTraining_trains {s : State} {p : Nat} (h : (s.port p).Funded) (m : Nat) :
    (startTraining s p m).Trains s.now p m ((startTraining s p m).port p) ∧
      ((startTraining s p m).port p).retrains = min ((s.port p).retrains + 1) 255 := by
  have hgo : ¬ ((s.port p).retrTok ≤ 0 ∧ (s.port p).retrains ≠ 0) := by
    rcases h with h | h <;> omega
  rw [startTraining, if_neg hgo, State.port_push, State.port_updPort]
  exact ⟨⟨rfl, rfl, rfl, rfl, rfl, rfl, rfl, rfl, rfl, rfl, rfl, rfl, (State.Sends.updPort _ _ _).mem_agenda_push _ _ _⟩, rfl⟩

/-- Port `x`, which was `q`, puts its training off, DOWN, for want of tokens (R437). -/
def Port.PutsOff (q x : Port) : Prop := x.mode = 0 ∧ x.waits = true ∧ x.replay = [] ∧ x.reseq = [] ∧ x.retrains = q.retrains

theorem startTraining_waits {s : State} {p : Nat} (h : ¬ (s.port p).Funded) (m : Nat) : (s.port p).PutsOff ((startTraining s p m).port p) := by
  obtain ⟨htok, hretrains⟩ := not_or.mp h
  rw [startTraining, if_pos ⟨by omega, hretrains⟩, State.port_updPort]
  exact ⟨rfl, rfl, rfl, rfl, rfl⟩

/-- A port that could not train: DOWN, to be tried again. -/
def Port.failed (q : Port) (now : Nat) : Port := { q with mode := 0, lanes := 0, peer := none, trainStart := now }

theorem trainFailed_eq (s : State) (p : Nat) :
    trainFailed s p = ((chargeTraining s p).updPort p fun q => q.failed s.now).push 175000000 p .portTrainTimeout := rfl

/-- A port that could not train is DOWN, and tries again in 100 ms. -/
theorem trainFailed_becomes (s : State) (p : Nat) : s.Becomes p (.next (trainFailed s p)) fun t x =>
    x.mode = 0 ∧ x.lanes = 0 ∧ x.peer = none ∧ (s.now + 175000000, p, .portTrainTimeout) ∈ t.agenda := by
  have hdown : s.Sends ((chargeTraining s p).updPort p fun q => q.failed s.now) := (State.Sends.updPort s p _).trans (State.Sends.updPort _ _ _)
  refine ⟨_, rfl, hdown.trans (State.Sends.push _ _ _ _), ?_⟩
  rw [trainFailed_eq, State.port_push, State.port_updPort]
  exact ⟨rfl, rfl, rfl, hdown.mem_agenda_push _ _ _⟩

/-! ### The steps of training -/

/-- A flit of the port is unacknowledged 4 µs after it was first sent. -/
def Port.Late (q : Port) (now : Nat) : Prop := ∃ f ∈ q.replay, f.first ≠ 2 ^ 63 ∧ f.first + 7000 ≤ now

theorem Port.late_iff (q : Port) (now : Nat) :
    q.replay.any (fun f => f.first ≠ unsent && decide (f.first + 4 * usCycles ≤ now)) = true ↔ q.Late now := by
  simp only [List.any_eq_true, Bool.and_eq_true, decide_eq_true_eq]
  rfl

theorem execLinkUnackTimeout_none {s : State} (h : ¬ (s.port s.subj).Late s.now) : execLinkUnackTimeout s = .next s :=
  if_neg ((Port.late_iff _ _).not.mpr h)

/-- A late flit: the port asks for training and trains, or waits for tokens. -/
theorem execLinkUnackTimeout_retrains {s : State} (h : (s.port s.subj).Late s.now) : s.Becomes s.subj (execLinkUnackTimeout s) fun t x =>
    ((s.port s.subj).Funded → t.Trains s.now s.subj 1 x ∧ x.retrains = min ((s.port s.subj).retrains + 1) 255) ∧
      (¬ (s.port s.subj).Funded → (s.port s.subj).PutsOff x) ∧ ∃ b, t.out = (s.subj, b) :: s.out ∧ flitType b = 4 := by
  have hsent := sendControl_sendsFlit (type := 4) (by decide) s s.subj []
  have hq := hsent.port_eq
  have hfunded : ((sendControl s s.subj 4 []).port s.subj).Funded ↔ (s.port s.subj).Funded := by rw [hq]; rfl
  refine ⟨startTraining (sendControl s s.subj 4 []) s.subj 1, if_pos ((Port.late_iff _ _).mpr h), hsent.sends.trans (startTraining_sends _ _ _),
    fun hf => ?_, fun hf => ?_, ?_⟩
  · have htrains := startTraining_trains (hfunded.mpr hf) 1
    rw [hsent.sends.now, hq] at htrains
    exact htrains
  · have hwaits := startTraining_waits (hfunded.not.mpr hf) 1
    rw [hq] at hwaits
    exact hwaits
  · rw [startTraining_out]
    exact hsent.out

theorem execRetrain_trains {s : State} (hen : (s.port s.subj).en = true) (hmode : 2 ≤ (s.port s.subj).mode) :
    s.Becomes s.subj (execRetrain s) fun t x =>
      ((s.port s.subj).Funded → t.Trains s.now s.subj 1 x ∧ x.retrains = min ((s.port s.subj).retrains + 1) 255) ∧
        (¬ (s.port s.subj).Funded → (s.port s.subj).PutsOff x) :=
  ⟨_, if_pos ⟨hen, hmode⟩, startTraining_sends _ _ _, fun h => startTraining_trains h 1, fun h => startTraining_waits h 1⟩

/-! ### Negotiation (R137) -/

theorem Port.asking_iff (q : Port) : q.asking = true ↔ q.mode = 1 ∧ q.lanes ≠ 0 := decide_eq_true_iff

theorem not_asking_steps {s : State} (h : (s.port s.subj).mode ≠ 1 ∨ (s.port s.subj).lanes = 0) :
    execLinkcapResend s = .next s ∧ execLinkcapTimeout s = .next s := by
  have hidle : ¬ (s.port s.subj).asking = true := fun ha => by
    obtain ⟨hmode, hlanes⟩ := (Port.asking_iff _).mp ha
    exact h.elim (· hmode) hlanes
  exact ⟨if_neg hidle, if_pos (.inl (Bool.eq_false_iff.mpr hidle))⟩

section
variable {s : State} (hasking : (s.port s.subj).asking = true)
include hasking

theorem execLinkcapResend_asks : s.Becomes s.subj (execLinkcapResend s) fun t x => x = { s.port s.subj with owed := x.owed } ∧
    (s.now + 1750, s.subj, .linkcapResend) ∈ t.agenda ∧ ∃ b, t.out = (s.subj, b) :: s.out ∧ flitType b = 3 := by
  have hsent := sendCap_sendsFlit s s.subj
  have hagain := hsent.push 1750 s.subj .linkcapResend
  exact ⟨_, if_pos hasking, hagain.sends, hagain.port_eq, hsent.sends.mem_agenda_push _ _ _, hagain.out⟩

/-- No LINKCAP in 10 ms: the port is a UALink port where that is permitted, or DOWN. -/
theorem execLinkcapTimeout_over (hlong : (s.port s.subj).trainStart + 17500000 ≤ s.now) : execLinkcapTimeout s = .next (
    if (s.port s.subj).nowUa then (chargeTraining s s.subj).updPort s.subj fun q => { q with mode := 4 } else trainFailed s s.subj) := by
  have hgo : ¬ ((s.port s.subj).asking = false ∨ s.now < (s.port s.subj).trainStart + capCycles) :=
    not_or.mpr ⟨by simp [hasking], Nat.not_lt.mpr hlong⟩
  rw [execLinkcapTimeout, if_neg hgo]
  split <;> rfl

end

/-- The state from which a port trains again: one that was training has paid for it. -/
def State.charged (s : State) (p : Nat) : State := if (s.port p).mode = 1 then chargeTraining s p else s

theorem State.charged_sends (s : State) (p : Nat) : s.Sends (s.charged p) := by
  unfold State.charged
  split
  · exact State.Sends.updPort _ _ _
  · exact State.Sends.refl s

theorem State.charged_port (s : State) (p : Nat) : (s.charged p).port p = if (s.port p).mode = 1 then (s.port p).paid s.now else s.port p := by
  unfold State.charged
  split
  · exact chargeTraining_port s p
  · rfl

theorem State.charged_funded {s : State} {p : Nat}
    (h : 0 < (if (s.port p).mode = 1 then ((s.port p).paid s.now).retrTok else (s.port p).retrTok) ∨ (s.port p).retrains = 0) :
    ((s.charged p).port p).Funded := by
  rw [s.charged_port]
  split
  · next htraining => rwa [if_pos htraining] at h
  · next hdown => rwa [if_neg hdown] at h

/-- A port that has not trained in 100 ms, or that waits and now has tokens, trains again. -/
theorem execPortTrainTimeout_tries {s : State} (hen : (s.port s.subj).en = true) (hmode : (s.port s.subj).mode < 2)
    (htime : (s.port s.subj).waits = true ∨ (s.port s.subj).trainStart + 175000000 ≤ s.now)
    (hfunded : 0 < (if (s.port s.subj).mode = 1 then ((s.port s.subj).paid s.now).retrTok else (s.port s.subj).retrTok) ∨
      (s.port s.subj).retrains = 0) :
    s.Becomes s.subj (execPortTrainTimeout s) (State.Trains · s.now s.subj (if (s.port s.subj).waits then 1 else 0)) := by
  have hgo : ¬ ((s.port s.subj).en = false ∨ 2 ≤ (s.port s.subj).mode ∨
      ((s.port s.subj).waits = false ∧ s.now < (s.port s.subj).trainStart + trainCycles)) := by
    rintro (h | h | ⟨hwaits, hearly⟩)
    · simp [hen] at h
    · omega
    · exact htime.elim (fun h => by simp [hwaits] at h) (Nat.not_le.mpr hearly)
  obtain ⟨htrains, -⟩ := startTraining_trains (State.charged_funded hfunded) (if (s.port s.subj).waits then 1 else 0)
  rw [(s.charged_sends s.subj).now] at htrains
  exact ⟨_, if_neg hgo, (s.charged_sends s.subj).trans (startTraining_sends _ _ _), htrains⟩

/-- Trained lanes make a port send LINKCAP, to be repeated and to be answered in 10 ms. -/
theorem execLaneTrained_asks {s : State} {port : Nat} {lanes : BitVec 4} (hen : (s.port port).en = true) (hmode : (s.port port).mode < 2)
    (hlanes : lanes ≠ 0) (hport : port < 48) :
    s.Becomes port (execLaneTrained port lanes s) fun t x => x = { s.port port with lanes := lanes.toNat, mode := 1, owed := x.owed } ∧
      (s.now + 1750, port, .linkcapResend) ∈ t.agenda ∧ (s.now + 17500000, port, .linkcapTimeout) ∈ t.agenda ∧
      ∃ b, t.out = (port, b) :: s.out ∧ flitType b = 3 := by
  have hsent := sendCap_sendsFlit (s.updPort port fun q => { q with lanes := lanes.toNat, mode := 1 }) port
  rw [State.port_updPort] at hsent
  have hsends := (State.Sends.updPort s port _).trans hsent.sends
  have hresend := hsends.trans (State.Sends.push _ 1750 port .linkcapResend)
  have hall := hresend.trans (State.Sends.push _ 17500000 port .linkcapTimeout)
  exact ⟨_, if_pos ⟨hen, hmode, hlanes, hport⟩, hall, hsent.port_eq, (State.Sends.push _ _ _ _).agenda (hsends.mem_agenda_push _ _ _),
    hresend.mem_agenda_push _ _ _, hsent.out⟩

/-- The package and port that a LINKCAP names. -/
def capPeer (bytes : List Byte) : Nat × Nat := (leNat ((bytes.drop 10).take 2), (bytes.getD 12 0).toNat)

/-- What a LINKCAP makes of a port that asks: the highest version both ends have is its mode; with none in common it is DOWN. -/
theorem execLinkcap_settles {s : State} {port : Nat} {bytes : List Byte} (hasking : (s.port port).asking = true) (hgood : flitGood bytes = true)
    (htype : flitType bytes = 3) : execLinkcap port bytes s = .next (
      if (s.port port).now2 && (bytes.getD 8 0).toNat.testBit 1 then (chargeTraining s port).updPort port fun q =>
        { q with mode := 3, peer := some (capPeer bytes) }
      else if (s.port port).now1 && (bytes.getD 8 0).toNat.testBit 0 then (chargeTraining s port).updPort port fun q =>
        { q with mode := 2, peer := some (capPeer bytes) }
      else trainFailed s port) := by
  obtain ⟨hmode, -⟩ := (Port.asking_iff _).mp hasking
  have hbyte (k : Nat) : (bytes.drop 8).getD k 0 = bytes.getD (8 + k) 0 := by simp [List.getD_eq_getElem?_getD]
  simp only [execLinkcap, hmode, hgood, htype, hasking, hbyte, List.drop_drop, capPeer]
  simp only [Nat.one_ne_zero, OfNat.one_ne_ofNat, or_self, Bool.true_eq_false, ne_eq, not_true_eq_false, if_false, Nat.add_zero]
  split
  · rfl
  · split <;> rfl

theorem chargedTo_port (s : State) (p m : Nat) (peer : Option (Nat × Nat)) :
    ((chargeTraining s p).updPort p fun q => { q with mode := m, peer := peer }).port p = { (s.port p).paid s.now with mode := m, peer := peer } := by
  rw [State.port_updPort, chargeTraining_port]

/-! ### Registers of the ports (R135, R462) -/

/-- A port as a write of PORTCFG configures it. -/
def Port.configured (q : Port) (v : BitVec 32) : Port :=
  { q with ujob := v.toNat / 2 ^ 8 % 2 ^ 6, ualen := v.getLsbD 3, v2 := v.getLsbD 2, v1 := v.getLsbD 1, en := v.getLsbD 0 }

theorem Port.configured_written (q : Port) (v : BitVec 32) : (q.configured v).Written v := ⟨rfl, rfl, rfl, rfl, rfl⟩

theorem execPortcfgWrite_eq {s : State} {port : Nat} (v : BitVec 32) (hport : port < 48) (hready : s.host.phase = 6) :
    execPortcfgWrite port v s = .next (
      if v.getLsbD 0 = true ∧ (s.port port).en = false then
        startTraining ((s.updPort port fun q => q.configured v).updPort port fun q => { q with retrains := 0 }) port 1
      else if v.getLsbD 0 = false ∧ (s.port port).en = true then (s.updPort port fun q => q.configured v).updPort port fun q =>
        { q with mode := 0, lanes := 0, peer := none, replay := [], reseq := [], partial0 := [] }
      else s.updPort port fun q => q.configured v) := by
  have hgo : ¬ (48 ≤ port ∨ s.hostReady = false) := by simp [State.hostReady, hready, hport]
  have hbit (k : Nat) : bit (v.setWidth 64) k = v.getLsbD k := by
    rw [bit, BitVec.getLsbD_setWidth, Bool.and_eq_right_iff_imp]
    exact fun h => decide_eq_true (Nat.lt_trans (BitVec.lt_of_getLsbD h) (by decide))
  have hfld : fld (v.setWidth 64) 8 6 = v.toNat / 2 ^ 8 % 2 ^ 6 := by
    rw [fld, BitVec.toNat_setWidth_of_le (by decide)]
  simp only [execPortcfgWrite, if_neg hgo, hbit, hfld]
  split
  · rfl
  · split <;> rfl

/-- EN = 1 on a port that was off: it is configured and trains, whatever tokens it has. -/
theorem portcfg_trains (s : State) (port : Nat) (v : BitVec 32) :
    let t := startTraining ((s.updPort port fun q => q.configured v).updPort port fun q => { q with retrains := 0 }) port 1
    let x := t.port port
    s.Sends t ∧ x.Written v ∧ t.Trains s.now port 1 x := by
  let u := (s.updPort port fun q => q.configured v).updPort port fun q => { q with retrains := 0 }
  have hu : u.port port = { (s.port port).configured v with retrains := 0 } := by
    rw [State.port_updPort, State.port_updPort]
  have hsends : s.Sends u := (State.Sends.updPort _ _ _).trans (State.Sends.updPort _ _ _)
  have hwritten : (u.port port).Written v := by
    rw [hu]
    exact (s.port port).configured_written v
  obtain ⟨htrains, -⟩ := startTraining_trains (s := u) (p := port) (.inr (by rw [hu])) 1
  exact ⟨hsends.trans (startTraining_sends _ _ _), startTraining_written hwritten 1, htrains⟩

theorem execFwdbaseWrite_ready {s : State} (hready : s.host.phase = 6) (w : BitVec 64) : execFwdbaseWrite w s
    = .next { s with mid := { s.mid with fwdbase := BitVec.ofNat 64 (w.toNat / 2 ^ 19 % 2 ^ 21 * 2 ^ 19), fwdHeld := [] } } :=
  if_neg (by simp [State.hostReady, hready])

/-- EN starts training and ends the port's service; the other fields are written (R135). -/
theorem execPortcfgWrite_becomes {s : State} {port : Nat} (v : BitVec 32) (hport : port < 48) (hready : s.host.phase = 6) :
    s.Becomes port (execPortcfgWrite port v s) fun t x => x.Written v ∧
      (v.getLsbD 0 = true → (s.port port).en = false → t.Trains s.now port 1 x) ∧
      (v.getLsbD 0 = false → (s.port port).en = true → x.mode = 0 ∧ x.replay = [] ∧ x.reseq = []) ∧
      (v.getLsbD 0 = (s.port port).en → x.mode = (s.port port).mode ∧ x.replay = (s.port port).replay) := by
  rw [execPortcfgWrite_eq v hport hready]
  by_cases hstart : v.getLsbD 0 = true ∧ (s.port port).en = false
  · obtain ⟨hsends, hwritten, htrains⟩ := portcfg_trains s port v
    rw [if_pos hstart]
    obtain ⟨hon, hoff⟩ := hstart
    exact ⟨_, rfl, hsends, hwritten, fun _ _ => htrains, fun h => absurd (hon.symm.trans h) (by decide),
      fun h => absurd (hon.symm.trans (h.trans hoff)) (by decide)⟩
  rw [if_neg hstart]
  by_cases hstop : v.getLsbD 0 = false ∧ (s.port port).en = true
  · rw [if_pos hstop]
    refine ⟨_, rfl, (State.Sends.updPort _ _ _).trans (State.Sends.updPort _ _ _), ?_⟩
    rw [State.port_updPort, State.port_updPort]
    obtain ⟨hoff, hon⟩ := hstop
    exact ⟨(s.port port).configured_written v, fun h => absurd (hoff.symm.trans h) (by decide), fun _ _ => ⟨rfl, rfl, rfl⟩,
      fun h => absurd (hoff.symm.trans (h.trans hon)) (by decide)⟩
  · rw [if_neg hstop]
    refine ⟨_, rfl, State.Sends.updPort _ _ _, ?_⟩
    rw [State.port_updPort]
    exact ⟨(s.port port).configured_written v, fun hon hoff => absurd ⟨hon, hoff⟩ hstart, fun hoff hon => absurd ⟨hoff, hon⟩ hstop, fun _ => ⟨rfl, rfl⟩⟩

/-! ### Flits and ports -/

/-- Settles O42: each clause is the lemma of its step: `State.TakesData` for DATA flits, `execAckFlit_takes`, the timers of acknowledgement and
replay, then training, negotiation and the registers. -/
theorem flitsAndPorts : Obligations.FlitsAndPorts := by
  refine ⟨fun s port bytes => ?_, fun s port lanes bytes v w hport => ?_⟩
  · intro q n ahead pk left whole i gives acks
    have hwhole : whole ↔ flitGood bytes = true := (flitGood_iff bytes).symm
    refine ⟨fun hdown => execFlitReceive_down hdown bytes, fun hup hrenox hp hbad => ?_, fun hup hrenox hgood hplain => ?_,
      fun hmode hgood htype hsent => ?_, fun hsubj => ?_⟩
    · exact (execFlitReceive_damaged hup hrenox hp (hwhole.not.mp hbad)).gives
    · obtain ⟨hidle, hack, hlinkcap, hretrain⟩ := execFlitReceive_control hup hrenox (hwhole.mp hgood) hplain
      refine ⟨hidle, hack, hlinkcap, hretrain, fun htype hdata hempty hsafe hbase => ?_⟩
      have htakes : s.TakesData port bytes := ⟨hdata, hrenox, hwhole.mp hgood, hplain, htype, hempty, hbase, hsafe⟩
      refine ⟨fun hne hnear => (htakes.ahead hne hnear).gives, fun hbefore => (htakes.old hbefore).gives, fun hnext hpkg => ?_⟩
      obtain ⟨t, hexec, ⟨hreseq, hacked, hdue, howed⟩, hmem, hctxs⟩ := (htakes.next hnext hpkg).gives
      exact ⟨⟨t, hexec, ⟨hreseq, hacked, hdue⟩, hmem, hctxs⟩, fun hfew => ⟨t, hexec, howed hfew, hmem, hctxs⟩⟩
    · exact (execAckFlit_takes hmode (hwhole.mp hgood) htype hsent).gives
    · subst hsubj
      exact ⟨execAckSendTimer_none, fun hheld hmode => (execAckSendTimer_sends hheld hmode).gives, execReplayTimeout_none,
        fun hlate => (execReplayTimeout_resends hlate).gives⟩
  · intro q gives trains paid funded waits late down
    refine ⟨fun hsubj => ?_, fun hen hmode hlanes => (execLaneTrained_asks hen hmode hlanes hport).gives, fun hmode hlanes hgood htype => ?_,
      fun hready => ⟨(execPortcfgWrite_becomes v hport hready).gives, execFwdbaseWrite_ready hready w⟩⟩
    · subst hsubj
      refine ⟨fun hlate => (execLinkUnackTimeout_retrains hlate).gives, execLinkUnackTimeout_none,
        fun hen hmode => (execRetrain_trains hen hmode).gives, fun hmode hlanes => ?_, not_asking_steps,
        fun hen hmode htime hfunded => (execPortTrainTimeout_tries hen hmode htime hfunded).gives⟩
      have hasking := (Port.asking_iff q).mpr ⟨hmode, hlanes⟩
      refine ⟨(execLinkcapResend_asks hasking).gives, fun hlong => ?_⟩
      have hexec := execLinkcapTimeout_over hasking hlong
      refine ⟨fun hua => ?_, fun hua => ?_⟩
      · rw [if_pos hua] at hexec
        exact ⟨_, hexec, by rw [State.port_updPort, chargeTraining_port]; rfl, rfl, rfl⟩
      · rw [if_neg (Bool.eq_false_iff.mp hua)] at hexec
        exact (hexec ▸ trainFailed_becomes s s.subj).gives
    · intro their peer both
      have hexec := execLinkcap_settles ((Port.asking_iff q).mpr ⟨hmode, hlanes⟩) hgood htype
      refine ⟨fun h2 => ?_, fun h2 h1 => ?_, fun h2 h1 => ?_⟩
      · rw [if_pos h2] at hexec
        exact ⟨_, hexec, chargedTo_port s port 3 _, rfl, rfl⟩
      · rw [if_neg (Bool.eq_false_iff.mp h2), if_pos h1] at hexec
        exact ⟨_, hexec, chargedTo_port s port 2 _, rfl, rfl⟩
      · rw [if_neg (Bool.eq_false_iff.mp h2), if_neg (Bool.eq_false_iff.mp h1)] at hexec
        exact (hexec ▸ trainFailed_becomes s port).gives

end Sys2Proof.Machine
end

section
/-! PROOF. What the requests that a die makes for itself leave alone (O43). -/

namespace Sys2Proof.Machine

/-- From `s` to `t` the die has made `n` requests of its own: connections, requests, ports and steps to come may differ; memory, tasks and the
entries of its reductions are as they were. -/
structure State.Makes (s t : State) (n : Nat) : Prop where
  mem : t.mem = s.mem
  ctxs : t.ctxs = s.ctxs
  comb : t.mid.comb = s.mid.comb
  nextReq : t.mid.nextReq = s.mid.nextReq + n

namespace State.Makes

theorem refl (s : State) : s.Makes s 0 := ⟨rfl, rfl, rfl, rfl⟩

theorem trans {s t u : State} {m n : Nat} (h : s.Makes t m) (g : t.Makes u n) : s.Makes u (m + n) where
  mem := g.mem.trans h.mem
  ctxs := g.ctxs.trans h.ctxs
  comb := g.comb.trans h.comb
  nextReq := by rw [g.nextReq, h.nextReq, Nat.add_assoc]

theorem of_sends {s t : State} (h : s.Sends t) : s.Makes t 0 := ⟨h.mem, h.ctxs, by rw [h.mid], by rw [h.mid]; rfl⟩

theorem push (s : State) (delay subj : Nat) (e : Instr) : s.Makes (s.push delay subj e) 0 := ⟨rfl, rfl, rfl, rfl⟩

theorem updConn (s : State) (k : Nat) (f : Conn → Conn) : s.Makes (s.updConn k f) 0 := by
  obtain ⟨t, ht⟩ := s.updConn_frame k f
  rw [ht]
  exact ⟨rfl, rfl, rfl, rfl⟩

theorem updReq (s : State) (k : Nat) (f : Req → Req) : s.Makes (s.updReq k f) 0 := by
  obtain ⟨t, ht⟩ := s.updReq_frame k f
  rw [ht]
  exact ⟨rfl, rfl, rfl, rfl⟩

theorem spillConns (s : State) : s.Makes (Machine.spillConns s) 0 := by
  unfold Machine.spillConns
  dsimp only
  split
  · exact refl s
  · split
    · exact updConn s _ _
    · exact refl s

theorem sendOpen (s : State) (k n : Nat) : s.Makes (Machine.sendOpen s k n) 0 := by
  cases h : s.mid.conns.look k with
  | none => simpa only [Machine.sendOpen, h] using refl s
  | some c =>
    obtain ⟨u, hsends, hopen⟩ := sendOpen_eq h n
    rw [hopen]
    exact ((of_sends hsends).trans (updConn u k _)).trans (push _ _ _ _)

/-- The context of a new connection, before the cache spills for it, is all that an open adds to the Midfield die. -/
theorem openConn (s : State) (job rank : Nat) : s.Makes (Machine.openConn s job rank).1 0 := by
  unfold Machine.openConn
  dsimp only
  generalize hopened : Machine.spillConns _ = u
  have hu : s.Makes u 0 := by
    rw [← hopened]
    refine State.Makes.trans (m := 0) ?_ (spillConns _)
    exact ⟨rfl, rfl, rfl, rfl⟩
  split
  · exact hu
  · exact hu.trans (sendOpen u _ 0)

theorem enqueue (s : State) (k : Nat) : s.Makes (Machine.enqueue s k) 0 := by
  unfold Machine.enqueue
  split
  · exact refl s
  · dsimp only
    split
    · exact (updReq s k _).trans (push _ _ _ _)
    · split
      · exact ((updConn s _ _).trans (updReq _ _ _)).trans (push _ _ _ _)
      · exact (((openConn s _ _).trans (updConn _ _ _)).trans (updReq _ _ _)).trans (push _ _ _ _)

theorem sendOwn (s : State) (what : ReqFor) (job rank : Nat) (t : Txn) : s.Makes (Machine.sendOwn s what job rank t) 1 := by
  unfold Machine.sendOwn submit
  dsimp only
  rw [Bool.false_and, if_neg Bool.false_ne_true]
  refine State.Makes.trans (m := 1) ?_ (enqueue _ _)
  exact ⟨rfl, rfl, rfl, rfl⟩

/-- Steps that each make one request, one after the other. -/
theorem foldl {α : Type} {f : State → α → State} (hf : ∀ (s : State) a, s.Makes (f s a) 1) (l : List α) (s : State) :
    s.Makes (l.foldl f s) l.length := by
  induction l generalizing s with
  | nil => exact refl s
  | cons a l ih =>
    rw [List.length_cons, Nat.add_comm]
    exact (hf s a).trans (ih (f s a))

end State.Makes

end Sys2Proof.Machine
end

section
/-! PROOF. Contributions come to their home and are combined (O43). -/

namespace Sys2Proof.Machine

/-! ### Acceptance (R145, R146, R157, R159) -/

@[simp] theorem State.updConn_comb (s : State) (k : Nat) (f : Conn → Conn) : (s.updConn k f).mid.comb = s.mid.comb := by
  obtain ⟨t, ht⟩ := s.updConn_frame k f
  rw [ht]

@[simp] theorem State.updConn_contribs (s : State) (k : Nat) (f : Conn → Conn) : (s.updConn k f).mid.contribs = s.mid.contribs := by
  obtain ⟨t, ht⟩ := s.updConn_frame k f
  rw [ht]

/-- A connection once the request of a SEQ is answered: it has left HOLDBUF, and its completion word is kept. -/
def Conn.answered (c : Conn) (seq : Nat) (w : DWord) : Conn :=
  { c with hold := c.hold.filter (fun x => decide (x.seq ≠ seq)), done := (seq, w) :: c.done }

/-- The contribution that came as `h` over connection `conn` is answered. -/
def State.answersContrib (s : State) (conn : Nat) (c : Conn) (h : Held) (seq : Nat) (w aux : DWord) : State :=
  sendAnswer (s.updConn conn fun c => c.answered seq w) h.port c (answerTxn Op.redrsp h.txn w aux [])

theorem State.answersContrib_facts {s : State} {conn : Nat} {c : Conn} (hc : s.mid.conns.look conn = some c) (h : Held) (seq : Nat) (w aux : DWord) :
    let t := s.answersContrib conn c h seq w aux
    t.mid.conns.look conn = some (c.answered seq w) ∧ t.mid.comb = s.mid.comb ∧ t.mem = s.mem ∧ t.ctxs = s.ctxs ∧
      t.mid.contribs = s.mid.contribs := by
  intro t
  have hsends : (s.updConn conn fun c => c.answered seq w).Sends t := State.Sends.sendAnswer _ _ _ _
  obtain ⟨hlook, -⟩ := State.Sends.look_updConn hc (State.Sends.refl s) hsends
  obtain ⟨hmem, hctxs, -, -⟩ := s.updConn_keeps conn fun c => c.answered seq w
  refine ⟨hlook, ?_, hsends.mem.trans hmem, hsends.ctxs.trans hctxs, ?_⟩
  · rw [hsends.mid]
    exact s.updConn_comb conn _
  · rw [hsends.mid]
    exact s.updConn_contribs conn _

/-- Whether the key of a contribution stands for a reduction that is over: its entry is in TOMB. -/
def State.Tomb (s : State) (job : Nat) (d : Desc) : Prop := ∃ e, s.mid.comb.look (combKey job d.rid d.level) = some e ∧ e.st = 5

theorem State.tomb_iff (s : State) (job : Nat) (d : Desc) :
    (s.mid.comb.look (combKey job d.rid d.level)).any (fun e => decide (e.st = 5)) = true ↔ s.Tomb job d := by
  simp [State.Tomb, Option.any_eq_true]

/-- A contribution that has been accepted and waits for its unit. -/
def Held.contrib (h : Held) (conn seq : Nat) (c : Conn) : Contrib := { conn := conn, seq := seq, rank := c.rank, job := c.job, txn := h.txn }

section
variable {s : State} {conn seq : Nat} {c : Conn} {h : Held} (hc : s.mid.conns.look conn = some c)
  (hheld : c.hold.find? (fun h => decide (h.seq = seq)) = some h)
include hc hheld

theorem execContributionReceive_off (hoff : bit s.mid.scrumcfg 0 = false) : execContributionReceive conn seq s =
    .next (s.answersContrib conn c h seq (s.wordFor c Cstat.unsupported 0) (acceptAux h.txn)) := by
  simp only [execContributionReceive, hc, hheld, if_pos hoff]
  rfl

section
variable (hon : bit s.mid.scrumcfg 0 = true)
include hon

theorem execContributionReceive_bad (hbad : contribBad s c.job h.txn (Desc.of h.txn) = true) : execContributionReceive conn seq s =
    .next (s.answersContrib conn c h seq (s.wordFor c Cstat.protocol 0) (acceptAux h.txn)) := by
  simp only [execContributionReceive, hc, hheld, if_neg (ne_false_of_eq_true hon), if_pos hbad]
  rfl

section
variable (hgood : contribBad s c.job h.txn (Desc.of h.txn) = false)
include hgood

theorem execContributionReceive_tomb (htomb : s.Tomb c.job (Desc.of h.txn)) : execContributionReceive conn seq s =
    .next (s.answersContrib conn c h seq (s.wordFor c Cstat.expired 0) (noticeAux (Desc.of h.txn).rid (Desc.of h.txn).cidx)) := by
  simp only [execContributionReceive, hc, hheld, if_neg (ne_false_of_eq_true hon), if_neg (ne_true_of_eq_false hgood),
    if_pos ((s.tomb_iff _ _).mpr htomb)]
  rfl

theorem execContributionReceive_accepts (htomb : ¬ s.Tomb c.job (Desc.of h.txn)) :
    let t := s.answersContrib conn c h seq (s.wordFor c Cstat.ok 0) (acceptAux h.txn)
    execContributionReceive conn seq s = .next (({ t with mid := { t.mid with contribs := t.mid.contribs ++ [h.contrib conn seq c] } } : State).push 0
      (conn * 2 ^ 24 + seq) .contributionApply) := by
  simp only [execContributionReceive, hc, hheld, if_neg (ne_false_of_eq_true hon), if_neg (ne_true_of_eq_false hgood),
    if_neg (mt (s.tomb_iff _ _).mp htomb)]
  rfl

end
end
end

/-! ### Combining (R146, R149, R153) -/

/-- A contributor counted changes neither the state of the entry nor what it expects. -/
theorem Comb.apply_keeps (e : Comb) (d : Desc) (rank : Nat) : (e.apply d rank).st = e.st ∧ (e.apply d rank).expect = e.expect := by
  unfold Comb.apply
  split
  · exact ⟨rfl, rfl⟩
  · split
    · unfold Comb.addExact
      dsimp only
      split
      · exact ⟨rfl, rfl⟩
      · split <;> exact ⟨rfl, rfl⟩
    · exact ⟨rfl, rfl⟩

theorem Comb.of_differs_eq_false {e : Comb} {d : Desc} (h : e.differs d = false) : e.oper = d.oper ∧ e.fmt = d.fmt ∧ e.repro = d.repro := by
  have hsame := of_decide_eq_false h
  simp only [not_or, not_not] at hsame
  obtain ⟨hoper, hfmt, hrepro, -⟩ := hsame
  exact ⟨hoper, hfmt, hrepro⟩

/-- The descriptor of a waiting contribution (R143). -/
abbrev Contrib.desc (c : Contrib) : Desc := Desc.of c.txn

/-- The key of the entry a waiting contribution belongs to (R140). -/
abbrev Contrib.key (c : Contrib) : Nat := combKey c.job c.desc.rid c.desc.level

/-- A waiting contribution combined into the entry of its key. -/
def State.combines (s : State) (c : Contrib) (e : Comb) : State := (dropContrib s c).setComb c.key (e.apply c.desc c.rank)

theorem State.look_combines (s : State) (c : Contrib) (e : Comb) :
    (s.combines c e).mid.comb.look c.key = some (e.apply c.desc c.rank) := Tab.look_set_self _ _ _

/-- The entry a contribution was combined into has all that it expects exactly when its indices are those expected. -/
theorem State.combines_full {s : State} {c : Contrib} {e : Comb} (hst : e.st = 1) :
    ((s.combines c e).mid.comb.look c.key).any (fun e => decide (e.st = 1 ∧ e.arrived = e.expect)) = true ↔
      (e.apply c.desc c.rank).arrived = e.expect := by
  obtain ⟨hst', hexpect⟩ := e.apply_keeps c.desc c.rank
  rw [State.look_combines, Option.any_some, decide_eq_true_eq, hst', hexpect]
  exact and_iff_right hst

section
variable {s : State} {c : Contrib}

/-- R146: the first contribution of a key opens its entry, whose timer begins. -/
theorem takeContrib_opens (hnone : s.mid.comb.look c.key = none)
    (hroom : (s.mid.comb.filter fun p => decide (p.2.rid % 16 = c.desc.rid % 16)).length < 4096)
    (hplain : isStaged c.desc.oper c.desc.fmt c.desc.repro = false)
    (hmore : ((Comb.open' s c.job c.desc).apply c.desc c.rank).arrived ≠ c.desc.expect) :
    takeContrib s c = ((s.push (c.desc.tout * usCycles) c.key .reductionTimeout).combines c (Comb.open' s c.job c.desc), true) := by
  have hopen : ¬ isStaged (Comb.open' s c.job c.desc).oper (Comb.open' s c.job c.desc).fmt (Comb.open' s c.job c.desc).repro = true :=
    ne_true_of_eq_false hplain
  have hnot := mt (State.combines_full (s := s.push (c.desc.tout * usCycles) c.key .reductionTimeout) (c := c)
    (e := Comb.open' s c.job c.desc) rfl).mp hmore
  simp only [takeContrib, hnone, if_neg (Nat.not_le.mpr hroom), if_neg hopen]
  exact Prod.ext (if_neg hnot) rfl

/-- R146, R153: a later one joins the entry; with it collection may be over. -/
theorem takeContrib_joins {e : Comb} (hlook : s.mid.comb.look c.key = some e) (hst : e.st = 1) (hsame : e.differs c.desc = false)
    (hnew : e.has c.desc = false) (hplain : isStaged c.desc.oper c.desc.fmt c.desc.repro = false) :
    takeContrib s c = (if (e.apply c.desc c.rank).arrived = e.expect then endCollection (s.combines c e) c.key else s.combines c e, true) := by
  obtain ⟨hoper, hfmt, hrepro⟩ := Comb.of_differs_eq_false hsame
  have hdirect : ¬ isStaged e.oper e.fmt e.repro = true := by rw [hoper, hfmt, hrepro]; exact ne_true_of_eq_false hplain
  simp only [takeContrib, hlook, if_pos hst, hsame, hnew, Bool.or_false, Bool.false_eq_true, if_false, if_neg hdirect]
  exact Prod.ext (if_congr (State.combines_full hst) rfl rfl) rfl

theorem execContributionApply_takes {t : State} (hfind : s.mid.contribs.find? (fun c => decide (c.conn * 2 ^ 24 + c.seq = s.subj)) = some c)
    (htakes : takeContrib s c = (t, true)) : execContributionApply s = .next t := by
  simp only [execContributionApply, hfind, htakes]

end

/-- R153, R154: an entry that has received something leaves OPEN, and its value is to be formed. -/
theorem endCollection_some {s : State} {key : Nat} {e : Comb} (hlook : s.mid.comb.look key = some e) (hany : e.arrived ≠ 0) :
    endCollection s key = (s.setComb key { e with parts := [], st := 2, status := e.levelStatus }).push 0 key .combineDone := by
  simp only [endCollection, hlook, if_neg hany]
  rfl

/-- R153: nothing has come. -/
theorem endCollection_none {s : State} {key : Nat} {e : Comb} (hlook : s.mid.comb.look key = some e) (hnone : e.arrived = 0) :
    endCollection s key = sendNotices (s.setComb key { e with parts := [], status := Cstat.expired }) key := by
  simp only [endCollection, hlook, if_pos hnone]

/-- R154: where all that is expected has come, only the level below can have made the result PARTIAL. -/
theorem Comb.levelStatus_of_arrived {e : Comb} (h : e.arrived = e.expect) :
    e.levelStatus = if e.full = e.arrived then Cstat.ok else Cstat.partial' := if_congr (and_iff_right h) rfl rfl

/-- R149, R152: two 32-bit integers combined, by OPER. -/
theorem combine2_int32 (a b : Nat) :
    combine2 0 3 a b = (a + b) % 2 ^ 32 ∧
      combine2 1 3 a b = (if (BitVec.ofNat 32 a).toInt < (BitVec.ofNat 32 b).toInt then b else a) ∧
      combine2 2 3 a b = (if (BitVec.ofNat 32 b).toInt < (BitVec.ofNat 32 a).toInt then b else a) ∧
      combine2 3 3 a b = a &&& b ∧ combine2 4 3 a b = a ||| b ∧ combine2 5 3 a b = a ^^^ b :=
  ⟨rfl, rfl, rfl, rfl, rfl, rfl⟩

/-- R149: two FP32 values added and compared, with one rounding. -/
theorem combine2_fp32 (a b : Nat) :
    combine2 0 0 a b = fp32.encode 0 false false 0 ((fp32.decode a).add 0 (fp32.decode b)) ∧
      combine2 1 0 a b = fp32.encode 0 false false 0 (Val.minMax true (fp32.decode a) (fp32.decode b)) :=
  ⟨rfl, rfl⟩

end Sys2Proof.Machine
end

section
/-! PROOF. Reductions end, their notices go out, and their contributors hear of it (O43). -/

namespace Sys2Proof.Machine

/-! ### One entry changes -/

theorem State.updComb_eq {s : State} {k : Nat} {e : Comb} (h : s.mid.comb.look k = some e) (f : Comb → Comb) :
    s.updComb k f = s.setComb k (f e) := by
  rw [State.updComb, h]

theorem State.setComb_setComb (s : State) (k : Nat) (d e : Comb) : (s.setComb k d).setComb k e = s.setComb k e := by
  simp only [State.setComb, Tab.set_set]

/-- The step ends with `e` as the entry of `key`; no other entry, no byte of memory and no task has changed, and `post` holds. -/
def State.LeavesComb (s : State) (key : Nat) (o : Host.Outcome State Fault Refusal) (e : Comb) (post : State → Prop) : Prop :=
  ∃ t, o = .next t ∧ t.mid.comb = s.mid.comb.set key e ∧ t.mem = s.mem ∧ t.ctxs = s.ctxs ∧ post t

/-- As the claim states it, by what the table reads. -/
theorem State.LeavesComb.gives {s : State} {key : Nat} {o o' : Host.Outcome State Fault Refusal} {e : Comb} {post : State → Prop}
    (h : s.LeavesComb key o e post) (hexec : o' = o) :
    ∃ t, o' = .next t ∧ t.mid.comb.look key = some e ∧ (∀ k, k ≠ key → t.mid.comb.look k = s.mid.comb.look k) ∧
      t.mem = s.mem ∧ t.ctxs = s.ctxs ∧ post t := by
  obtain ⟨t, ht, hcomb, hkept⟩ := h
  refine ⟨t, hexec.trans ht, ?_, fun k hk => ?_, hkept⟩
  · rw [hcomb, Tab.look_set_self]
  · rw [hcomb, Tab.look_set_other _ _ hk.symm]

theorem State.setComb_push_leaves (s : State) (key : Nat) (e : Comb) (delay subj : Nat) (i : Instr) :
    s.LeavesComb key (.next ((s.setComb key e).push delay subj i)) e fun t => t.due subj i :=
  ⟨_, rfl, rfl, rfl, rfl, State.due_push _ _ _ _⟩

theorem State.Makes.leavesComb {s t : State} {key n : Nat} {e : Comb} (h : (s.setComb key e).Makes t n) :
    s.LeavesComb key (.next t) e fun t => t.mid.nextReq = s.mid.nextReq + n :=
  ⟨t, rfl, h.comb, h.mem, h.ctxs, h.nextReq⟩

/-! ### Notices (R155) -/

/-- An entry whose notices are on their way, one for each contributor. -/
def Comb.told (e : Comb) : Comb := { e with st := 4, acks := e.who.eraseDups.length, staged := [] }

theorem eraseDups_ne_nil {l : List (Nat × Nat × Nat)} (h : l ≠ []) : l.eraseDups ≠ [] := by
  cases l with
  | nil => exact absurd rfl h
  | cons a l => rw [List.eraseDups_cons]; exact List.cons_ne_nil _ _

section
variable {s : State} {key : Nat} {e : Comb} (hwait : s.waiters key = []) (hwho : e.who ≠ [])
include hwait hwho

/-- With nobody who waits for the key, the notices are those of the entry's contributors. -/
theorem sendNotices_eq (hlook : s.mid.comb.look key = some e) : sendNotices s key =
    e.who.eraseDups.foldl (fun s p => sendNotice s e.told (.notice key) p.1 p.2.1 p.2.2) (s.setComb key e.told) := by
  have hsome := eraseDups_ne_nil hwho
  have hkeep : s.mid.contribs.filter (fun c => !(s.waiters key).contains c) = s.mid.contribs := by
    rw [hwait]
    exact List.filter_eq_self.mpr fun _ _ => rfl
  unfold sendNotices
  rw [hlook]
  dsimp only
  rw [hkeep, hwait, List.map_nil, List.append_nil, if_neg hsome]
  rfl

theorem sendNotices_tells (hlook : s.mid.comb.look key = some e) :
    s.LeavesComb key (.next (sendNotices s key)) e.told fun t => t.mid.nextReq = s.mid.nextReq + e.who.eraseDups.length := by
  rw [sendNotices_eq hwait hwho hlook]
  exact (State.Makes.foldl (fun _ _ => State.Makes.sendOwn _ _ _ _ _) _ _).leavesComb

/-- The notices of an entry that has been changed first. -/
theorem sendNotices_setComb_tells :
    s.LeavesComb key (.next (sendNotices (s.setComb key e) key)) e.told fun t => t.mid.nextReq = s.mid.nextReq + e.who.eraseDups.length := by
  obtain ⟨t, hexec, hcomb, hkept⟩ := sendNotices_tells (s := s.setComb key e) hwait hwho (Tab.look_set_self _ _ _)
  exact ⟨t, hexec, hcomb.trans (Tab.set_set _ _ _ _), hkept⟩

end

/-- R155, R157: what the control part of an entry reads is kept, its value is not, and TOMBTIME begins. -/
theorem entomb_setComb (s : State) (key : Nat) (e : Comb) : entomb (s.setComb key e) key =
    (s.setComb key { e with st := 5, acc := [], exact := [], ranked := [], value := [], started := s.now }).push
      (fld s.mid.scrumcfg 24 20 * usCycles) key .tombExpire := by
  unfold entomb
  rw [State.updComb_eq (s := s.setComb key e) (Tab.look_set_self _ _ _), State.setComb_setComb]
  rfl

/-! ### The home of a reduction (R148, R153 to R157) -/

/-- With nothing staged, the value formed is that of the entry as it stands. -/
theorem combineStaged_none {e : Comb} (h : e.staged = []) (s : State) :
    combineStaged { e with staged := [] } (e.staged.mergeSort fun a b => decide (a.1 ≤ b.1)) s = (s, e) := by
  have hsame : { e with staged := [] } = e := by rw [← h]
  rw [hsame, h, List.mergeSort_nil, combineStaged]

section
variable {s : State} {e : Comb} (hlook : s.mid.comb.look s.subj = some e)
include hlook

theorem execReductionTimeout_idle (h : e.st ≠ 1 ∨ ¬ e.started + e.tout * usCycles ≤ s.now) : execReductionTimeout s = .next s := by
  have hunripe : decide (e.st = 1 ∧ e.started + e.tout * usCycles ≤ s.now) = false := decide_eq_false (not_and_or.mpr h)
  simp only [execReductionTimeout, hlook, Option.any_some, hunripe, if_true]

theorem execReductionTimeout_ends (hwait : s.waiters s.subj = []) (hst : e.st = 1) (hripe : e.started + e.tout * usCycles ≤ s.now) :
    execReductionTimeout s = .next (endCollection s s.subj) := by
  have hends : decide (e.st = 1 ∧ e.started + e.tout * usCycles ≤ s.now) = true := decide_eq_true ⟨hst, hripe⟩
  simp only [execReductionTimeout, hwait, List.foldl_nil, hlook, Option.any_some, hends, Bool.true_eq_false, if_false, if_true]

section
variable (hst : e.st = 2) (hstaged : e.staged = []) (hany : e.arrived ≠ 0)
include hst hstaged hany

theorem execCombineDone_forwards (hup : e.level = 0 ∧ e.pv = true) : execCombineDone s =
    .next (e.forwards.foldl (fun t p => sendOwn t (.forward s.subj) e.job e.parent (e.forwardTxn p.1 p.2))
      (s.setComb s.subj { e with st := 3, acks := 0, started := s.now })) := by
  simp only [execCombineDone, hlook, if_neg (not_not.mpr hst), combineStaged_none hstaged, if_neg hany, if_pos hup]

section
variable (hend : ¬ (e.level = 0 ∧ e.pv = true))
include hend

theorem execCombineDone_keeps (hdest : e.destc = true) :
    execCombineDone s = .next ((s.setComb s.subj { e with value := e.result }).push 0 s.subj .resultWriteDone) := by
  simp only [execCombineDone, hlook, if_neg (not_not.mpr hst), combineStaged_none hstaged, if_neg hany, if_neg hend, if_pos hdest]

theorem execCombineDone_writes (hdest : e.destc = false) {s1 : State} {w : DWord} {bs : List Byte}
    (hdone : writeResult (s.setComb s.subj { e with value := e.result }) s.subj { e with value := e.result } = .done s1 w bs) :
    execCombineDone s = .next ((s1.updComb s.subj fun e => { e with fword := w }).push 0 s.subj .resultWriteDone) := by
  simp only [execCombineDone, hlook, if_neg (not_not.mpr hst), combineStaged_none hstaged, if_neg hany, if_neg hend,
    if_neg (ne_true_of_eq_false hdest), hdone]

end
end

theorem execResultWriteDone_tells (hst : e.st = 2) : execResultWriteDone s = .next (sendNotices s s.subj) := by
  simp only [execResultWriteDone, hlook, Option.any_some, hst, decide_true, if_true]

theorem execResultWriteDone_idle (hst : e.st ≠ 2) : execResultWriteDone s = .next s := by
  simp only [execResultWriteDone, hlook, Option.any_some, decide_eq_false hst, Bool.false_eq_true, if_false]

theorem execNoticeAcked_more (hst : e.st = 4) (hmore : 2 ≤ e.acks) :
    execNoticeAcked s = .next (s.setComb s.subj { e with acks := e.acks - 1 }) := by
  simp only [execNoticeAcked, hlook, hst, ne_eq, not_true_eq_false, if_false, if_neg (Nat.not_le.mpr hmore)]

theorem execNoticeAcked_last (hst : e.st = 4) (hlast : e.acks ≤ 1) : execNoticeAcked s =
    .next ((s.setComb s.subj { e with acks := e.acks - 1, st := 5, acc := [], exact := [], ranked := [], value := [], started := s.now }).push
      (fld s.mid.scrumcfg 24 20 * usCycles) s.subj .tombExpire) := by
  simp only [execNoticeAcked, hlook, if_neg (not_not.mpr hst), if_pos hlast]
  exact congrArg _ (entomb_setComb s s.subj { e with acks := e.acks - 1 })

theorem execTombExpire_frees (hst : e.st = 5) (hover : e.started + fld s.mid.scrumcfg 24 20 * usCycles ≤ s.now) :
    execTombExpire s = .next { s with mid := { s.mid with comb := s.mid.comb.del s.subj } } := by
  simp only [execTombExpire, hlook, hst, ne_eq, not_true_eq_false, if_false, if_neg (Nat.not_lt.mpr hover)]

theorem execTombExpire_early (hst : e.st = 5) (hearly : s.now < e.started + fld s.mid.scrumcfg 24 20 * usCycles) :
    execTombExpire s = .next (s.push (e.started + fld s.mid.scrumcfg 24 20 * usCycles - s.now) s.subj .tombExpire) := by
  simp only [execTombExpire, hlook, hst, ne_eq, not_true_eq_false, if_false, if_pos hearly]

section
variable (hst : e.st = 3)
include hst

theorem execForwardNoticeTimeout_refused (hword : e.fword ≠ 0) : execForwardNoticeTimeout s = .next (sendNotices s s.subj) := by
  simp only [execForwardNoticeTimeout, hlook, hst, ne_eq, not_true_eq_false, if_false, hword, not_false_eq_true, if_true]

section
variable (hword : e.fword = 0) (hacked : e.forwards.length ≤ e.acks)
include hword hacked

theorem execForwardNoticeTimeout_lost (hover : e.started + (e.tout + fld s.mid.fabtime 32 20) * usCycles ≤ s.now) : execForwardNoticeTimeout s =
    .next (sendNotices (s.setComb s.subj { e with fword := cword (s.slotHdr e.job).selfrank Cstat.indeterminate 0 }) s.subj) := by
  simp only [execForwardNoticeTimeout, hlook, hst, ne_eq, not_true_eq_false, if_false, hword, if_neg (Nat.not_lt.mpr hacked),
    if_neg (Nat.not_lt.mpr hover)]

theorem execForwardNoticeTimeout_early (hearly : s.now < e.started + (e.tout + fld s.mid.fabtime 32 20) * usCycles) : execForwardNoticeTimeout s =
    .next (s.push (e.started + (e.tout + fld s.mid.fabtime 32 20) * usCycles - s.now) s.subj .forwardNoticeTimeout) := by
  simp only [execForwardNoticeTimeout, hlook, hst, ne_eq, not_true_eq_false, if_false, hword, if_neg (Nat.not_lt.mpr hacked), if_pos hearly]

end

/-- R155: a parent that ended OK or PARTIAL has its status and result passed on. -/
theorem execParentNotice_passes {tx : Txn} (hok : cstatOf tx.d2 = Cstat.ok ∨ cstatOf tx.d2 = Cstat.partial') : execParentNotice s.subj tx s =
    .next (sendNotices (s.setComb s.subj { e with
      status := cstatOf tx.d2, fword := 0, incl1 := (dwordAt tx.data 1).toNat, full1 := (dwordAt tx.data 2).toNat
      value := tx.data.drop 32 }) s.subj) := by
  simp only [execParentNotice, hlook, hst, ne_eq, not_true_eq_false, if_false, if_pos hok]

end
end

/-! ### The contributor (R158) -/

/-- A command once a contribution of it has ended with a completion word and data. -/
def Cmd.heard (k : Cmd) (r : CRec) (w : DWord) (data : List Byte) : Cmd :=
  { k with
    got := if data = [] then k.got else k.got ++ [(r.row, data)]
    cword := if k.cword = 0 then w else k.cword
    failed := if cstatOf w = Cstat.ok then k.failed
      else k.failed ++
        [{ order := r.row, cause := Cause.remote, addr := hBase k.hd + (if k.kind = .rmergeSw then 512 * r.row else 0), detail := w }] }

theorem Cmd.heard_got (k : Cmd) (r : CRec) (w : DWord) (data : List Byte) :
    (k.heard r w data).got = k.got ++ (if data = [] then [] else [(r.row, data)]) := by
  rw [Cmd.heard, apply_ite (k.got ++ ·), List.append_nil]

theorem Cmd.heard_ok (k : Cmd) (r : CRec) {w : DWord} (data : List Byte) (h : cstatOf w = Cstat.ok) : (k.heard r w data).failed = k.failed :=
  if_pos h

theorem Cmd.heard_failed (k : Cmd) (r : CRec) {w : DWord} (data : List Byte) (h : cstatOf w ≠ Cstat.ok) :
    ∃ f, (k.heard r w data).failed = k.failed ++ [f] ∧ f.cause = Cause.remote ∧ f.detail = w :=
  ⟨_, if_neg h, rfl, rfl⟩

/-- The end of a contribution: its record is past, its command has heard, and no register of the task and no byte of memory has changed. -/
theorem endContribution_ends {s : State} {r : CRec} {c : Ctx} {k : Cmd} (key : Nat) (hctx : s.ctx r.ctx = some c) (hk : k ∈ c.xf.log)
    (hseq : k.seq = r.entry) (hst : k.st ≠ .done) (w : DWord) (data : List Byte) :
    let t := endContribution s key r w data
    t.mid.crecs = s.mid.crecs.set key { r with past := true } ∧ t.mem = s.mem ∧ t.due r.ctx .commandStart ∧
      ∃ x, t.ctx r.ctx = some x ∧ x.regs = c.regs ∧ k.heard r w data ∈ x.xf.log := by
  have hctx' : ({ s with mid := { s.mid with crecs := s.mid.crecs.set key { r with past := true } } } : State).ctx r.ctx = some c := hctx
  unfold endContribution
  dsimp only
  rw [State.updCtx_eq hctx']
  refine ⟨rfl, rfl, State.due_push _ _ _ _, _, State.ctx_setCtx _ _ _, rfl, List.mem_map.mpr ⟨k, hk, ?_⟩⟩
  rw [if_neg (by simp [hseq, hst]), Cmd.heard]
  split <;> rfl

/-- The completion word of a notice as the contributor takes it: CSTAT is the notice's own. -/
theorem cstatOf_masked (w : DWord) : cstatOf (w &&& 0x0000FFFFFFFFFFFF) = w.toNat / 2 ^ 32 % 16 := by
  have hmask : (0x0000FFFFFFFFFFFF : DWord).toNat = 2 ^ 48 - 1 := rfl
  rw [cstatOf, fld, BitVec.toNat_and, hmask, Nat.and_two_pow_sub_one_eq_mod]
  omega

theorem cstatOf_cword (rank : Nat) {cstat : Nat} (h : cstat < 16) : cstatOf (cword rank cstat 0) = cstat := by
  simp only [cstatOf, fld, cword, BitVec.ofNat_eq_ofNat, BitVec.or_zero, BitVec.toNat_ofNat]
  omega

theorem execNoticeReceive_hears {s : State} {conn key : Nat} {n : Conn} {r : CRec} {tx : Txn} (hconn : s.mid.conns.look conn = some n)
    (hfind : s.mid.crecs.find? (fun p => decide (p.2.job = n.job ∧ p.2.rid = tx.d3.toNat / 2 ^ 44 ∧ p.2.cidx = fld tx.d3 38 6) && !p.2.past)
      = some (key, r)) :
    execNoticeReceive conn tx s = .next (endContribution s key r (tx.d2 &&& 0x0000FFFFFFFFFFFF) tx.data) := by
  have hrid : fld tx.d3 44 20 = tx.d3.toNat / 2 ^ 44 := Nat.mod_eq_of_lt (by have := tx.d3.isLt; omega)
  simp only [execNoticeReceive, hconn, hrid, Option.elim_some, hfind]

theorem execContributionTimeout_gives_up {s : State} {r : CRec} (hlook : s.mid.crecs.look s.subj = some r) (hpast : r.past = false) {a : Nat}
    (haccepted : r.accepted = some a) (hover : a + r.wait * usCycles ≤ s.now) :
    ∃ rank, execContributionTimeout s = .next (endContribution s s.subj r (cword rank Cstat.indeterminate 0) []) := by
  simp only [execContributionTimeout, hlook, hpast, haccepted, Option.any_some, decide_eq_true hover, Bool.not_false, Bool.and_self, if_true]
  exact ⟨_, rfl⟩

end Sys2Proof.Machine
end

section
/-! PROOF. Reductions (O43), assembled from the lemmas of their steps. -/

namespace Sys2Proof.Machine

/-- Settles O43: each clause is the lemma of its step; what the die sends of its own is `State.Makes`. -/
theorem reductions : Obligations.Reductions := by
  refine ⟨⟨fun s conn seq c h hc hheld => ?_, fun s x hfind => ?_, fun a b _ _ => ?_⟩, fun s e tx hlook hwait => ?_,
    fun s conn key id n c k r tx _ hlook hctx hk hseq hst hid hpast => ?_⟩
  · intro d tomb on answers
    have hrefuses {cstat : Nat} {aux : DWord} (hexec : execContributionReceive conn seq s =
        .next (s.answersContrib conn c h seq (s.wordFor c cstat 0) aux)) : answers cstat false := by
      obtain ⟨hconn, hcomb, hmem, hctxs, hcontribs⟩ := State.answersContrib_facts hc h seq (s.wordFor c cstat 0) aux
      exact ⟨_, _, hexec, hconn, rfl, rfl, hcomb, hmem, hctxs, hcontribs.trans (List.append_nil _).symm, nofun⟩
    refine ⟨fun hoff => hrefuses (execContributionReceive_off hc hheld (Bool.eq_false_iff.mpr hoff)),
      fun hon hbad => hrefuses (execContributionReceive_bad hc hheld hon hbad),
      fun hon hgood htomb => hrefuses (execContributionReceive_tomb hc hheld hon hgood htomb), fun hon hgood htomb => ?_⟩
    obtain ⟨hconn, hcomb, hmem, hctxs, hcontribs⟩ := State.answersContrib_facts hc h seq (s.wordFor c Cstat.ok 0) (acceptAux h.txn)
    exact ⟨_, _, execContributionReceive_accepts hc hheld hon hgood htomb, hconn, rfl, rfl, hcomb, hmem, hctxs,
      congrArg (· ++ _) hcontribs, fun _ => State.due_push _ _ _ _⟩
  · intro d key gives fresh hplain
    refine ⟨fun hnone hroom hmore => ?_, fun f hlook hst hsame hnew => ?_⟩
    · refine ⟨_, execContributionApply_takes hfind (takeContrib_opens hnone hroom hplain hmore), State.look_combines _ _ _,
        fun k hk => Tab.look_set_other _ _ hk.symm, rfl, rfl, ?_⟩
      exact List.mem_append_right _ (List.mem_singleton_self _)
    · have htakes := takeContrib_joins hlook hst hsame hnew hplain
      refine ⟨fun hmore => ?_, fun hfull hany => ?_⟩
      · rw [if_neg hmore] at htakes
        exact ⟨_, execContributionApply_takes hfind htakes, State.look_combines _ _ _, fun k hk => Tab.look_set_other _ _ hk.symm,
          rfl, rfl, trivial⟩
      · obtain ⟨-, hexpect⟩ := f.apply_keeps d x.rank
        rw [if_pos hfull, endCollection_some (State.look_combines _ _ _) hany, Comb.levelStatus_of_arrived (hfull.trans hexpect.symm)] at htakes
        refine ⟨_, execContributionApply_takes hfind htakes, Tab.look_set_self _ _ _, fun k hk => ?_, rfl, rfl, State.due_push _ _ _ _⟩
        exact (Tab.look_set_other _ _ hk.symm).trans (Tab.look_set_other _ _ hk.symm)
  · obtain ⟨hsum, hmin, hmax, hand, hor, hxor⟩ := combine2_int32 a b
    exact ⟨hsum, hmin, hmax, hand, hor, hxor, combine2_fp32 a b⟩
  · intro key gives ripe told tells home lost
    have hlost : e.started + lost = e.started + (e.tout + fld s.mid.fabtime 32 20) * usCycles := by
      rw [Nat.add_comm e.tout]; rfl
    have htells {i : Instr} {y : Comb} (hexec : exec i s = .next (sendNotices (s.setComb key y) key)) (hsame : y.who = e.who) : tells i y := by
      intro hwho
      obtain ⟨t, ht, hcomb, hothers, hmem, hctxs, hcount⟩ := (sendNotices_setComb_tells hwait (hsame ▸ hwho)).gives hexec
      exact ⟨t, ht, hcomb, hothers, hmem, hctxs, hsame ▸ hcount⟩
    have hpasses {i : Instr} (hexec : exec i s = .next (sendNotices s key)) : tells i e :=
      fun hwho => (sendNotices_tells hwait hwho hlook).gives hexec
    refine ⟨execReductionTimeout_idle hlook, fun hst hripe hany => ?_, fun hst hripe hnone => ?_,
      fun hst hstaged hany => ⟨fun hup => ?_, fun hend hdest => ?_, fun s1 w bs hend hdest hdone hkept => ?_⟩,
      fun hst => hpasses (execResultWriteDone_tells hlook hst), execResultWriteDone_idle hlook,
      fun hst hmore => ?_, fun hst hlast => ?_, fun hrising hst hover => ?_, fun hst hearly => ?_,
      fun hst hword => hpasses (execForwardNoticeTimeout_refused hlook hst hword),
      fun hst hword hacked hover => htells (execForwardNoticeTimeout_lost hlook hst hword hacked (hlost ▸ hover)) rfl,
      fun hst hword hacked hearly => ?_, fun hst hok => htells (execParentNotice_passes hlook hst hok) rfl⟩
    · have hends := execReductionTimeout_ends hlook hwait hst hripe
      rw [endCollection_some hlook hany] at hends
      exact (s.setComb_push_leaves key _ _ _ _).gives hends
    · have hends := execReductionTimeout_ends hlook hwait hst hripe
      rw [endCollection_none hlook hnone] at hends
      exact htells hends rfl
    · exact (State.Makes.foldl (fun _ _ => State.Makes.sendOwn _ _ _ _ _) _ _).leavesComb.gives
        (execCombineDone_forwards hlook hst hstaged hany hup)
    · exact (s.setComb_push_leaves key _ _ _ _).gives (execCombineDone_keeps hlook hst hstaged hany hend hdest)
    · have hexec := execCombineDone_writes hlook hst hstaged hany hend hdest hdone
      rw [State.updComb_eq hkept] at hexec
      exact ⟨_, hexec, Tab.look_set_self _ _ _, rfl, State.due_push _ _ _ _⟩
    · exact ⟨_, execNoticeAcked_more hlook hst hmore, Tab.look_set_self _ _ _, fun k hk => Tab.look_set_other _ _ hk.symm, rfl, rfl, trivial⟩
    · exact ⟨_, _, execNoticeAcked_last hlook hst hlast, Tab.look_set_self _ _ _, rfl, rfl, rfl, State.due_push _ _ _ _⟩
    · exact ⟨_, execTombExpire_frees hlook hst hover, Tab.look_del_self hrising key, fun k hk => Tab.look_del_other _ hk.symm⟩
    · exact execTombExpire_early hlook hst (Nat.lt_of_sub_ne_zero hearly)
    · rw [hlost] at hearly ⊢
      exact execForwardNoticeTimeout_early hlook hst hword hacked hearly
  · subst hid
    intro ends
    have hends {i : Instr} {w : DWord} {data : List Byte} {post : Cmd → Prop} (hexec : exec i s = .next (endContribution s key r w data))
        (hpost : post (k.heard r w data)) : ends i post := by
      obtain ⟨hcrecs, hmem, hdue, x, hx, hregs, hheard⟩ := endContribution_ends key hctx hk hseq hst w data
      exact ⟨_, x, _, hexec, hcrecs ▸ Tab.look_set_self _ _ _, hx, hheard, rfl, hpost, hregs, hdue, hmem⟩
    refine ⟨fun hconn hfind => hends (execNoticeReceive_hears hconn hfind) ⟨k.heard_got _ _ _, fun hok => ?_, fun hbad => ?_⟩,
      fun hsubj a haccepted hover => ?_⟩
    · exact k.heard_ok r _ ((cstatOf_masked tx.d2).trans hok)
    · obtain ⟨f, hfailed, -, -⟩ := k.heard_failed r tx.data (fun h => hbad ((cstatOf_masked tx.d2).symm.trans h))
      rw [hfailed, List.length_append, List.length_singleton]
    · subst hsubj
      obtain ⟨rank, hexec⟩ := execContributionTimeout_gives_up hlook hpast haccepted hover
      have hcstat := cstatOf_cword rank (cstat := Cstat.indeterminate) (by decide)
      obtain ⟨f, hfailed, hcause, hdetail⟩ := k.heard_failed r [] (hcstat.trans_ne (by decide))
      exact hends hexec ⟨f, hfailed, hcause, hdetail ▸ hcstat⟩

end Sys2Proof.Machine
end

section
/-! PROOF. A value that a floating format holds exactly rounds to itself (O5). -/

namespace Sys2Proof.Machine

/-! ### Rounding what needs no rounding (R176, R177) -/

theorem pow2Frac_natCast (n : Nat) : pow2Frac n = (2 ^ n, 1) := by simp [pow2Frac]

theorem ilog2_one {num : Nat} (h : num ≠ 0) : ilog2 num 1 = num.log2 := by
  have hlog : Nat.log2 1 = 0 := by decide
  simp [ilog2, hlog, pow2Frac_natCast, Nat.log2_self_le h]

/-- A whole number of units stays what it is in every mode: no draw below 2^16 carries into the units. -/
theorem roundUnits_whole {draw : Nat} (h : draw < 2 ^ 16) (mode : Nat) (neg : Bool) (num : Nat) (u : Int) :
    roundUnits mode neg draw num 1 u u = (num, false) := by
  have hdraw : (num * 2 ^ 16 + draw) / 2 ^ 16 = num := by omega
  have hfrac : pow2Frac (u - u) = (1, 1) := by rw [Int.sub_self]; exact pow2Frac_natCast 0
  have hmod : num % 1 = 0 := Nat.mod_one num
  unfold roundUnits
  simp only [hfrac, Nat.mul_one, Nat.div_one, hmod, hdraw, ne_eq, not_true_eq_false, decide_false]
  split
  · rfl
  · split <;> simp [b2n]

/-! ### A number of units below 2^(f + 1), of the unit to which its format rounds it -/

section
variable {p : FloatFmt} {num draw : Nat} {e : Int} (mode : Nat) (sat neg : Bool) (hdraw : draw < 2 ^ 16) (hnum : num ≠ 0)
  (hunit : max (num.log2 + e) p.emin - p.f = e)
include hdraw hnum hunit

/-- Below 2^f units the exponent field is 0. -/
theorem FloatFmt.encodeF_subnormal (hlt : num < 2 ^ p.f) :
    p.encodeF mode sat false draw (.fin neg num 1 e) = (p.pack neg 0 num, Flags.none) := by
  have hcarry : num ≠ 2 ^ (p.f + 1) := by rw [Nat.pow_succ]; omega
  simp [FloatFmt.encodeF, hnum, ilog2_one hnum, hunit, roundUnits_whole hdraw, hcarry, hlt, Nat.not_le.mpr hlt, Flags.none]

/-- From 2^f units on, the exponent field names the unit; neither a carry nor an overflow changes it. -/
theorem FloatFmt.encodeF_normal {ef : Nat} (hge : 2 ^ p.f ≤ num) (hlt : num < 2 ^ (p.f + 1)) (hef : e + p.f + p.bias = ef)
    (htop : ¬ (p.top.1 < ef ∨ ef = p.top.1 ∧ p.top.2 < num - 2 ^ p.f)) :
    p.encodeF mode sat false draw (.fin neg num 1 e) = (p.pack neg ef (num - 2 ^ p.f), Flags.none) := by
  simp [FloatFmt.encodeF, hnum, ilog2_one hnum, hunit, roundUnits_whole hdraw, hlt.ne, hef, htop, Nat.not_lt.mpr hge, Flags.none]

end

/-! ### The fields of an element (R165) -/

/-- The sign of an element's bits. -/
def FloatFmt.sgn (p : FloatFmt) (w : Nat) : Bool := decide (w / 2 ^ (p.e + p.f) % 2 = 1)
/-- The exponent field. -/
def FloatFmt.expo (p : FloatFmt) (w : Nat) : Nat := w / 2 ^ p.f % 2 ^ p.e
/-- The fraction. -/
def FloatFmt.frac (p : FloatFmt) (w : Nat) : Nat := w % 2 ^ p.f

theorem FloatFmt.frac_lt (p : FloatFmt) (w : Nat) : p.frac w < 2 ^ p.f := Nat.mod_lt _ (Nat.two_pow_pos _)

theorem FloatFmt.pack_fields {p : FloatFmt} {w : Nat} (h : w < 2 ^ p.width) : p.pack (p.sgn w) (p.expo w) (p.frac w) = w := by
  have hsign : w / 2 ^ (p.e + p.f) < 2 := by
    rw [FloatFmt.width, Nat.add_assoc, Nat.pow_add] at h
    exact Nat.div_lt_of_lt_mul (by omega)
  have hbit : b2n (p.sgn w) = w / 2 ^ p.f / 2 ^ p.e := by
    rw [Nat.div_div_eq_div_mul, ← Nat.pow_add, Nat.add_comm p.f]
    obtain hs | hs : w / 2 ^ (p.e + p.f) = 0 ∨ w / 2 ^ (p.e + p.f) = 1 := Nat.le_one_iff_eq_zero_or_eq_one.mp (Nat.le_of_lt_succ hsign)
    all_goals simp [b2n, FloatFmt.sgn, hs]
  have hhigh : b2n (p.sgn w) * 2 ^ (p.e + p.f) + p.expo w * 2 ^ p.f = w / 2 ^ p.f * 2 ^ p.f := by
    rw [hbit, Nat.pow_add, ← Nat.mul_assoc, ← Nat.add_mul, FloatFmt.expo, Nat.div_add_mod']
  rw [FloatFmt.pack, hhigh, FloatFmt.frac, Nat.div_add_mod']

theorem FloatFmt.decode_eq (p : FloatFmt) (w : Nat) : p.decode w =
    if p.kind = 0 ∧ p.expo w = 2 ^ p.e - 1 then if p.frac w = 0 then .inf (p.sgn w) else .nan
    else if p.kind = 1 ∧ p.expo w = 15 ∧ p.frac w = 7 then .nan
    else if p.expo w = 0 then .fin (p.sgn w) (p.frac w) 1 (p.emin - p.f)
    else .fin (p.sgn w) (2 ^ p.f + p.frac w) 1 (p.expo w - p.bias - p.f) := rfl

/-- What a finite element is: a subnormal number (or a zero), or a normal one. -/
theorem FloatFmt.decode_fin_cases {p : FloatFmt} {w : Nat} {neg : Bool} {num den : Nat} {e : Int} (h : p.decode w = .fin neg num den e) :
    neg = p.sgn w ∧ den = 1 ∧
      (p.expo w = 0 ∧ num = p.frac w ∧ e = p.emin - p.f ∨
        p.expo w ≠ 0 ∧ num = 2 ^ p.f + p.frac w ∧ e = p.expo w - p.bias - p.f) := by
  rw [FloatFmt.decode_eq] at h
  split at h
  · split at h <;> cases h
  · split at h
    · cases h
    · split at h
      · next hz => cases h; exact ⟨rfl, rfl, .inl ⟨hz, rfl, rfl⟩⟩
      · next hz => cases h; exact ⟨rfl, rfl, .inr ⟨hz, rfl, rfl⟩⟩

/-- No finite element lies above the largest (R165). -/
theorem FloatFmt.decode_fin_le_top {p : FloatFmt} (hp : p ∈ [fp32, fp16, bf16, e4m3, e5m2, e2m1]) {w : Nat} {neg : Bool} {num den : Nat} {e : Int}
    (h : p.decode w = .fin neg num den e) : ¬ (p.top.1 < p.expo w ∨ p.expo w = p.top.1 ∧ p.top.2 < p.frac w) := by
  have hexpo : p.expo w < 2 ^ p.e := Nat.mod_lt _ (Nat.two_pow_pos _)
  have hfrac := p.frac_lt w
  have hinf : ¬ (p.kind = 0 ∧ p.expo w = 2 ^ p.e - 1) := fun hsp => by
    rw [FloatFmt.decode_eq, if_pos hsp] at h
    split at h <;> cases h
  have hnan : ¬ (p.kind = 1 ∧ p.expo w = 15 ∧ p.frac w = 7) := fun hsp => by
    rw [FloatFmt.decode_eq, if_neg hinf, if_pos hsp] at h
    cases h
  simp only [List.mem_cons, List.not_mem_nil, or_false] at hp
  obtain rfl | rfl | rfl | rfl | rfl | rfl := hp <;>
    simp [fp32, fp16, bf16, e4m3, e5m2, e2m1, FloatFmt.top] at hexpo hfrac hinf hnan ⊢ <;> omega

/-- R165, R176, R177: what a format holds exactly rounds to itself, whatever the mode and the draw, and sets no flag. -/
theorem FloatFmt.encodeF_decode {p : FloatFmt} (hp : p ∈ [fp32, fp16, bf16, e4m3, e5m2, e2m1]) {mode draw w : Nat} {sat : Bool}
    (hw : w < 2 ^ p.width) (hdraw : draw < 2 ^ 16) {neg : Bool} {num den : Nat} {e : Int} (h : p.decode w = .fin neg num den e) :
    p.encodeF mode sat false draw (p.decode w) = (w, Flags.none) := by
  have hfields := FloatFmt.pack_fields hw
  have hfrac := p.frac_lt w
  have htop := FloatFmt.decode_fin_le_top hp h
  rw [h]
  obtain ⟨rfl, rfl, ⟨hx, rfl, rfl⟩ | ⟨hx, rfl, rfl⟩⟩ := FloatFmt.decode_fin_cases h
  · rw [hx] at hfields
    by_cases hz : p.frac w = 0
    · rw [hz] at hfields
      simp [FloatFmt.encodeF, hz, hfields]
    · have hlog : (p.frac w).log2 < p.f := (Nat.log2_lt hz).mpr hfrac
      rw [FloatFmt.encodeF_subnormal mode sat _ hdraw hz (by omega) hfrac, hfields]
  · have hnum : 2 ^ p.f + p.frac w ≠ 0 := by have := Nat.two_pow_pos p.f; omega
    have hlt : 2 ^ p.f + p.frac w < 2 ^ (p.f + 1) := by rw [Nat.pow_succ]; omega
    have hlog : (2 ^ p.f + p.frac w).log2 = p.f := (Nat.log2_eq_iff hnum).mpr ⟨Nat.le_add_right _ _, hlt⟩
    have hunit : max (((2 ^ p.f + p.frac w).log2 : Int) + ((p.expo w : Int) - p.bias - p.f)) p.emin - p.f = p.expo w - p.bias - p.f := by
      rw [hlog, FloatFmt.emin]; omega
    rw [FloatFmt.encodeF_normal mode sat _ hdraw hnum hunit (Nat.le_add_right _ _) hlt (ef := p.expo w) (by omega)
      (by rwa [Nat.add_sub_cancel_left]), Nat.add_sub_cancel_left, hfields]

end Sys2Proof.Machine
end

section
/-! PROOF. The scalar floating-point instructions: how they end, and the statement on arithmetic (O5). -/

namespace Sys2Proof.Machine

/-! ### How a floating instruction ends (R175, R179, R289) -/

/-- A rounding with SR steps RNGX and gives the draw of the new state; no other does either (R179). -/
theorem rngxDraw_spec {s : State} {id : Nat} {c : Ctx} (h : s.ctx id = some c) (m : Nat) :
    let x := if m = 4 then xorshift c.regs.rngx else c.regs.rngx
    ∃ t, rngxDraw s id m = (t, if m = 4 then drawOf x 0 else 0) ∧ t.ctx id = some { c with regs := { c.regs with rngx := x } } ∧
      ∀ y, t.setCtx id y = s.setCtx id y := by
  by_cases hm : m = 4
  · simp only [rngxDraw, hm, h, if_true, State.updCtx_eq h]
    exact ⟨_, rfl, State.ctx_setCtx _ _ _, State.setCtx_setCtx _ _ _⟩
  · simp only [rngxDraw, hm, if_false]
    exact ⟨s, rfl, h, fun _ => rfl⟩

theorem setFlags_wrS_eq {s : State} {id : Nat} {c : Ctx} (h : s.ctx id = some c) (fl : Flags) (d : BitVec 6) (v : DWord) :
    (setFlags s id fl).wrS id d v
      = s.setCtx id { c with regs := ({ c.regs with fpctl := fpFlags c.regs.fpctl fl } : Regs).setS d v } := by
  rw [setFlags, State.updCtx_eq h, State.wrS_eq (State.ctx_setCtx _ _ _), State.setCtx_setCtx]
  rfl

section
variable {s : State} {id : Nat} {c : Ctx} (h : s.Acting id c)
include h

/-- The spec lemma of the instructions that write one register and no flag. -/
theorem slotStep_wrS {f : Nat → Ctx → State} {d : BitVec 6} {v : DWord} (hf : f id c = s.wrS id d v) :
    slotStep s f = .next (s.result id c d v) := by
  have ⟨_, hctx, _⟩ := h
  exact slotStep_regs h (hf.trans (State.wrS_eq hctx d v))

/-- The spec lemma of the instructions that set flags and write one register. -/
theorem slotStep_flags {f : Nat → Ctx → State} {fl : Flags} {d : BitVec 6} {v : DWord} (hf : f id c = (setFlags s id fl).wrS id d v) :
    slotStep s f = .next (s.ends id c (({ c.regs with fpctl := fpFlags c.regs.fpctl fl } : Regs).setS d v)) := by
  have ⟨_, hctx, _⟩ := h
  exact slotStep_regs h (hf.trans (setFlags_wrS_eq hctx fl d v))

/-- The spec lemma of the instructions that round: whatever the mode, they end in `State.fpEnds`. -/
theorem fpResult_eq (d : BitVec 6) (f : BitVec 2) (rc : BitVec 3) (v : Regs → Nat → Val) (given : Regs → List Val) :
    fpResult s d f rc v given = .next (s.fpEnds id c f (modeOf rc.toNat (s.srcRegs c).fpctl (f == 0)) d
      (v (s.srcRegs c) (modeOf rc.toNat (s.srcRegs c).fpctl (f == 0))) (given (s.srcRegs c))) := by
  have ⟨_, hctx, _⟩ := h
  obtain ⟨t, ht, hstepped, hover⟩ := rngxDraw_spec hctx (modeOf rc.toNat (s.srcRegs c).fpctl (f == 0))
  refine slotStep_regs h ?_
  dsimp only
  rw [show rngxDraw s id (modeOf rc.toNat (s.srcRegs c).fpctl (sWide f)) = _ from ht]
  dsimp only
  rw [setFlags_wrS_eq hstepped, hover]
  rfl

end

/-! ### Exact results, rounded once (R288) -/

theorem Val.isNan_iff (v : Val) : v.isNan = true ↔ v = .nan := by cases v <;> simp [Val.isNan]

/-- Settles O5: the instructions that round are `fpResult_eq`; a value held exactly is `FloatFmt.encodeF_decode`. -/
theorem fpRounding : Obligations.FpRounding := by
  refine ⟨fun s id c d a b f g rc u w h => ?_, fun s id c d a f rc h => ?_, fun p hp mode draw w sat hw hdraw neg num den e hfin =>
    FloatFmt.encodeF_decode hp hw hdraw hfin⟩
  · intro r x y z m n int
    have hsigned : signed 64 n = (r.getS a).toInt := by
      simp only [n, signed, BitVec.ofNat_toNat, BitVec.setWidth_eq]
    refine ⟨?_, ?_, ?_, ?_, ?_, fun hne => ?_⟩
    · change execFadd .. = _
      rw [execFadd, fpResult_eq h]
    · change execFsub .. = _
      rw [execFsub, fpResult_eq h]
    · change execFmul .. = _
      rw [execFmul, fpResult_eq h]
    · change execFfma .. = _
      rw [execFfma, fpResult_eq h]
    · simp only [int, hsigned]
      change execItof .. = _
      rw [execItof, fpResult_eq h]
    · change execFcvt .. = _
      rw [execFcvt, if_neg hne, fpResult_eq h]
  · intro n
    change execFcvt .. = _
    rw [execFcvt, if_pos rfl]
    refine slotStep_wrS h ?_
    simp only [Val.isNan_iff]
    rfl

end Sys2Proof.Machine
end

section
/-! PROOF. FTOI: rounding to an integer, saturation and the flags (O6). -/

namespace Sys2Proof.Machine

/-! ### Integers in a register (R181) -/

theorem ofNat_wrap_32 (v : Int) : BitVec.ofNat 64 (wrap 32 v) = BitVec.ofInt 64 (v % 2 ^ 32) := by
  have hnonneg : 0 ≤ v % 2 ^ 32 := Int.emod_nonneg _ (by decide)
  rw [wrap, BitVec.toNat_ofInt, ← BitVec.ofInt_natCast]
  exact congrArg _ (Int.toNat_of_nonneg hnonneg)

/-- What FTOI writes of an integer: an unsigned word zero-extended, any other sign-extended (R288). -/
def intBits (u w : Bool) (v : Int) : DWord := if w = true ∧ u = true then BitVec.ofInt 64 (v % 2 ^ 32) else BitVec.ofInt 64 v

theorem execFtoi_eq {s : State} {id : Nat} {c : Ctx} (h : s.Acting id c) (d a : BitVec 6) (u w : Bool) (f : BitVec 2) (rc : BitVec 3) :
    let r := s.srcRegs c
    let out := toIntF (modeOf rc.toNat r.fpctl true) 0 (if w then 32 else 64) (!u) (fpVal f (r.getS a))
    execFtoi d a u w f rc s
      = .next (s.ends id c (({ c.regs with fpctl := fpFlags c.regs.fpctl out.2 } : Regs).setS d (intBits u w out.1))) := by
  intro r out
  refine slotStep_flags h ?_
  simp only [intBits, ← ofNat_wrap_32, ← Bool.and_eq_true]
  rfl

theorem toIntF_fin {mode draw num den k : Nat} {neg inexact : Bool} {e : Int} (h : roundUnits mode neg draw num den e 0 = (k, inexact))
    {bits : Nat} {u : Bool} {lo hi : Int} (hlo : lo = if u then 0 else -(2 ^ (bits - 1))) (hhi : hi = if u then 2 ^ bits - 1 else 2 ^ (bits - 1) - 1) :
    let v : Int := if neg then -(k : Int) else k
    toIntF mode draw bits (!u) (.fin neg num den e) = if v < lo then (lo, { Flags.none with nv := true })
      else if hi < v then (hi, { Flags.none with nv := true }) else (v, { Flags.none with nx := inexact }) := by
  subst hlo hhi
  cases u <;> simp only [toIntF, h] <;> rfl

/-- Settles O6: `execFtoi_eq`, with what `toIntF` gives for a NaN, an infinity and a finite operand. -/
theorem fpToInteger : Obligations.FpToInteger := by
  intro s id c d a u w f rc h r m bits lo hi put nv
  have hexec : exec (.ftoi d a u w f rc) s = put (toIntF m 0 bits (!u) (fpVal f (r.getS a))).1 (toIntF m 0 bits (!u) (fpVal f (r.getS a))).2 :=
    execFtoi_eq h d a u w f rc
  cases hv : fpVal f (r.getS a) with
  | nan => rw [hv] at hexec; exact hexec
  | inf neg =>
    rw [hv] at hexec
    cases u <;> exact hexec
  | fin neg num den e =>
    rcases hround : roundUnits m neg 0 num den e 0 with ⟨k, inexact⟩
    rw [hv, toIntF_fin hround (lo := lo) (hi := hi) rfl rfl] at hexec
    simp only [hround]
    split_ifs at hexec ⊢ <;> exact hexec

end Sys2Proof.Machine
end

section
/-! PROOF. Floating minima, comparisons, signs and class masks (O7). -/

namespace Sys2Proof.Machine

/-! ### Minima and comparisons (R167, R288, R289) -/

theorem fpMinMax_eq {s : State} {id : Nat} {c : Ctx} (h : s.Acting id c) (d a b : BitVec 6) (f : BitVec 2) (max : Bool) :
    let r := s.srcRegs c
    let x := fpVal f (r.getS a)
    let y := fpVal f (r.getS b)
    let below := x.lt y || (x.eq y && x.neg? && !y.neg?)
    fpMinMax s d a b f max = .next (s.result id c d (if x.isNan || y.isNan then BitVec.ofNat 64 (sFmt f).nan
      else BitVec.ofNat 64 ((sFmt f).encode 0 true (ftzOf r.fpctl) 0 (if below = max then y else x)))) := by
  intro r x y below
  refine slotStep_wrS h ?_
  change s.wrS id d (BitVec.ofNat 64 ((sFmt f).encode 0 true (ftzOf r.fpctl) 0 (Val.minMax max x y))) = _
  by_cases hnan : (x.isNan || y.isNan) = true
  · rw [Val.minMax, if_pos hnan, if_pos hnan]
    rfl
  · rw [Val.minMax, if_neg hnan, if_neg hnan]

/-- NV is bit 11 of FPCTL (R175). -/
theorem fpFlags_nv (r : DWord) (nv : Bool) : fpFlags r { Flags.none with nv := nv } = if nv then r ||| 0x800 else r := by
  cases nv <;> simp [fpFlags, Flags.none, b2n]

theorem fpCompare_eq {s : State} {id : Nat} {c : Ctx} (h : s.Acting id c) (d a b : BitVec 6) (f : BitVec 2) (quiet : Bool)
    (cmp : Val → Val → Bool) :
    let x := fpVal f (s.rs c a)
    let y := fpVal f (s.rs c b)
    let nan := x.isNan || y.isNan
    fpCompare s d a b f quiet cmp = .next (s.ends id c (({ c.regs with
      fpctl := if nan && !quiet then c.regs.fpctl ||| 0x800 else c.regs.fpctl } : Regs).setS d (if nan = false ∧ cmp x y = true then 1 else 0))) := by
  intro x y nan
  rw [← fpFlags_nv]
  refine slotStep_flags h ?_
  have hcond : (!nan && cmp x y) = true ↔ nan = false ∧ cmp x y = true := by simp
  simp only [← hcond]
  rfl

/-! ### Signs and classes (R288) -/

theorem FloatFmt.width_pos (p : FloatFmt) : 0 < p.width := by
  unfold FloatFmt.width
  omega

/-- The low n bits of a register with bit n − 1 replaced, bit by bit. -/
theorem getLsbD_withSign {n : Nat} (hn : 0 < n) (x : DWord) (sg : Bool) {i : Nat} (hi : i < 64) :
    (BitVec.ofNat 64 (x.toNat % 2 ^ n % 2 ^ (n - 1) + b2n sg * 2 ^ (n - 1))).getLsbD i
      = if n ≤ i then false else if i + 1 = n then sg else x.getLsbD i := by
  have hlow : x.toNat % 2 ^ n % 2 ^ (n - 1) < 2 ^ (n - 1) := Nat.mod_lt _ (Nat.two_pow_pos _)
  rw [BitVec.getLsbD_ofNat, decide_eq_true hi, Bool.true_and, Nat.add_comm, Nat.mul_comm, Nat.testBit_two_pow_mul_add _ hlow]
  obtain hi | hi | hi : i < n - 1 ∨ i + 1 = n ∨ n ≤ i := by omega
  · rw [if_pos hi, if_neg (by omega), if_neg (by omega), Nat.testBit_mod_two_pow, Nat.testBit_mod_two_pow]
    simp [hi, (by omega : i < n), BitVec.testBit_toNat]
  · rw [if_neg (by omega), if_neg (by omega), if_pos hi, (by omega : i - (n - 1) = 0)]
    cases sg <;> rfl
  · obtain ⟨j, hj⟩ : ∃ j, i - (n - 1) = j + 1 := ⟨i - n, by omega⟩
    rw [if_neg (by omega), if_pos hi, hj]
    cases sg <;> simp [b2n, Nat.testBit_succ]

/-- The exponent field lies in the bits of the format. -/
theorem FloatFmt.expo_mod_width (p : FloatFmt) (w : Nat) : p.expo (w % 2 ^ p.width) = p.expo w := by
  have hwidth : p.width = p.f + (p.e + 1) := by rw [FloatFmt.width]; omega
  rw [FloatFmt.expo, FloatFmt.expo, hwidth, Nat.pow_add, Nat.mod_mul_right_div_self, Nat.pow_succ, Nat.mod_mul_right_mod]

theorem execFsgn_eq {s : State} {id : Nat} {c : Ctx} (h : s.Acting id c) (d a b : BitVec 6) (f : BitVec 2) (op : BitVec 3) :
    let n := (sFmt f).width
    let sa := (s.rs c a).getLsbD (n - 1)
    let sb := (s.rs c b).getLsbD (n - 1)
    execFsgn d a b f op s = .next (s.result id c d (BitVec.ofNat 64
      ((s.rs c a).toNat % 2 ^ n % 2 ^ (n - 1) + b2n (if op = 0 then sb else if op = 1 then !sb else sa != sb) * 2 ^ (n - 1)))) := by
  intro n sa sb
  refine slotStep_wrS h ?_
  have hop : (match op.toNat with | 0 => sb | 1 => !sb | _ => sa != sb) = if op = 0 then sb else if op = 1 then !sb else sa != sb := by
    split
    · next h0 => rw [if_pos (BitVec.eq_of_toNat_eq h0)]
    · next h1 => obtain rfl : op = 1 := BitVec.eq_of_toNat_eq h1; rfl
    · next h0 h1 => rw [if_neg fun h => h0 (congrArg BitVec.toNat h), if_neg fun h => h1 (congrArg BitVec.toNat h)]
  exact congrArg (fun sg => s.wrS id d (BitVec.ofNat 64 ((s.rs c a).toNat % 2 ^ n % 2 ^ (n - 1) + b2n sg * 2 ^ (n - 1)))) hop

theorem execFclass_eq {s : State} {id : Nat} {c : Ctx} (h : s.Acting id c) (d a : BitVec 6) (f : BitVec 2) :
    execFclass d a f s = .next (s.result id c d (1#64 <<< classBit (sFmt f) ((s.rs c a).toNat % 2 ^ (sFmt f).width))) := by
  refine slotStep_wrS h ?_
  rw [← BitVec.twoPow_eq]
  exact congrArg _ (BitVec.eq_of_toNat_eq (by simp [BitVec.toNat_twoPow]))

/-- Settles O7: `fpMinMax_eq` and `fpCompare_eq` for each instruction; the bits of FSGN by `getLsbD_withSign`; the mask of FCLASS is one class bit. -/
theorem fpCompareAndSign : Obligations.FpCompareAndSign := by
  refine ⟨fun s id c d a b f h => ?_, fun s id c d a b f op h => ?_⟩
  · intro r x y nan below flag enc
    refine ⟨?_, fpMinMax_eq h d a b f true, ?_, ?_, ?_⟩
    · refine (fpMinMax_eq h d a b f false).trans ?_
      simp only [← Bool.not_eq_true, ite_not]
      rfl
    · refine (fpCompare_eq h d a b f true Val.eq).trans ?_
      rw [Bool.not_true, Bool.and_false]
      rfl
    · refine (fpCompare_eq h d a b f false Val.lt).trans ?_
      rw [Bool.not_false, Bool.and_true]
      rfl
    · refine (fpCompare_eq h d a b f false fun x y => !y.lt x).trans ?_
      simp only [Bool.not_false, Bool.and_true, Bool.not_eq_true']
      rfl
  · intro n x y
    refine ⟨⟨_, execFsgn_eq h d a b f op, fun i hi => ?_⟩, ?_⟩
    · rw [getLsbD_withSign (sFmt f).width_pos _ _ hi]
      refine ite_congr rfl (fun _ => rfl) fun _ => ite_congr rfl (fun hsign => ?_) fun _ => rfl
      obtain rfl : i = (sFmt f).width - 1 := Nat.eq_sub_of_add_eq hsign
      rfl
    · refine (execFclass_eq h d a f).trans ?_
      have hexpo : (s.rs c a).toNat % 2 ^ (sFmt f).width / 2 ^ (sFmt f).f % 2 ^ (sFmt f).e = (s.rs c a).toNat / 2 ^ (sFmt f).f % 2 ^ (sFmt f).e :=
        (sFmt f).expo_mod_width _
      simp only [classBit, fpVal, hexpo, decide_eq_true_eq]
      rfl

end Sys2Proof.Machine
end

section
/-! PROOF. A grid whose packet is a byte longer than a packet is: at the end of HBM its table entry has no place (O23, O36). -/

namespace Sys2Proof.Machine

/-- A region whose grid table is the last 32 KiB of HBM. -/
def edgeRegion : Region where
  addr := 0x8000
  rcb := List.replicate 8 0 ++ [BitVec.ofNat 64 (2 ^ 39 - 2 ^ 15)]
  staged := none
  coreTok := 0
  hbmTok := 0
  fabTok := 0
  powTok := 0
  powThrottle := false

/-- An open grid whose packet has 65 bytes. -/
def overlongGrid : Grid := { Grid.free with st := 1, count := 5, packet := List.replicate 65 0 }

/-- The task of index 0 of grid 255 of region 0, on core 0. -/
def edgeTask : Ctx :=
  Ctx.start { region := 0, world := 0, grid := 255, index := 0, xy := 0, z := 0, arg := 0 } 0 0 (.resident 0) 0 none

/-- The task with a DONE that waits for nothing more. -/
def edgeTaskDone : Ctx := edgeTask.publishing { edgeTask.doneOp with ending := true }

/-- A package whose one task is `c`, of the overlong grid; the entry of that grid is the last of HBM. -/
def edgeState (c : Ctx) : State := { State.reset with
  cores := [(0, { Core.reset with ctx := some 0 })]
  ctxs := [(0, c)]
  arb := { Arbiter.reset with regions := [(0, edgeRegion)], grids := [(gridKey 0 255, overlongGrid)] } }

theorem edgeState_gridAddr (c : Ctx) (g : Nat) : (edgeState c).gridAddr 0 g = 2 ^ 39 - 2 ^ 15 + 128 * g :=
  congrArg (· + 128 * g) (by decide : fld (BitVec.ofNat 64 (2 ^ 39 - 2 ^ 15)) 15 25 * 2 ^ 15 = 2 ^ 39 - 2 ^ 15)

/-- GROW of the overlong grid by no index writes its entry, and faults. -/
theorem exec_grow_edgeState : exec (.grow 0 0) (edgeState edgeTask) = .fault .tableOutsideHbm := by
  rfl

/-- The end of a task of the overlong grid writes the grid's entry, and faults. -/
theorem exec_taskFinish_edgeState : exec .taskFinish (edgeState edgeTaskDone) = .fault .tableOutsideHbm := by
  rfl

/-- Refutes O23: nothing bounds the packet of a grid. GROW writes a grid's table entry with its packet, which has 65 bytes in `edgeState`, where the
entry is the last of HBM: the step ends in a fault, and has no next state. -/
theorem not_gridWork : ¬ Obligations.GridWork := by
  intro hall
  obtain ⟨hgrow, -⟩ := hall (edgeState edgeTask) 0 edgeTask 0 0 0 ⟨⟨rfl, rfl, rfl, rfl, rfl, rfl⟩, rfl, rfl⟩ rfl rfl rfl
  obtain ⟨-, -, hopen⟩ := hgrow (Nat.le_of_eq (congrArg (· + 128) (edgeState_gridAddr edgeTask 255)))
  obtain ⟨t, -, hexec, -⟩ := hopen rfl (by decide +kernel)
  rw [exec_grow_edgeState] at hexec
  cases hexec


theorem edgeState_tablesSafe (c : Ctx) : (edgeState c).tablesSafe 0 := by
  refine ⟨rfl, ?_, fun g hg => ?_, ?_⟩
  · change 0x8000 + 192 ≤ 2 ^ 39
    decide
  · rw [edgeState_gridAddr]
    omega
  · change fld 0 4 36 * 16 + 16 * 2 ^ (fld 0 0 4 + 6) ≤ 2 ^ 39
    decide

theorem edgeState_divSafe (c : Ctx) : (edgeState c).divSafe := fun _ _ => Nat.zero_le _

/-- Refutes O36: nothing bounds the packet of a grid. TASK_FINISH writes the table entry of the task's grid with its packet, which has 65 bytes in
`edgeState`, where the entry is the last of HBM: the step ends in a fault, and has no next state. -/
theorem not_tasksPlacedAndEnded : ¬ Obligations.TasksPlacedAndEnded := by
  intro hall
  obtain ⟨-, hends⟩ := hall
  obtain ⟨hfinish, -⟩ := hends (edgeState edgeTaskDone) 0 0 0 edgeTaskDone rfl nofun rfl rfl (edgeState_tablesSafe _)
    (edgeState_divSafe _) (by decide) (List.pairwise_singleton _ _) (by decide)
  obtain ⟨t, hexec, -⟩ := hfinish rfl rfl rfl rfl rfl rfl
  rw [exec_taskFinish_edgeState] at hexec
  cases hexec

end Sys2Proof.Machine
end

section
/-! PROOF. Launch queues and MSI-X vectors (O24). -/

namespace Sys2Proof.Machine

/-! ### Launch queues (R443) -/

theorem isLqLaunch_iff {i : Instr} : isLqLaunch i = true ↔ ∃ src bytes, i = .launch src bytes ∧ 2 ^ 32 ≤ src := by
  constructor
  · intro h
    unfold isLqLaunch at h
    split at h
    · next src bytes => exact ⟨src, bytes, rfl, of_decide_eq_true h⟩
    · cases h
  · rintro ⟨src, bytes, rfl, h⟩
    exact decide_eq_true h

/-- Serving the launch queues only adds a step to come. -/
theorem lqServe_frame (s : State) : ∃ a, lqServe s = { s with agenda := a } := by
  unfold lqServe
  split
  · exact ⟨s.agenda, rfl⟩
  · split
    · exact ⟨_, rfl⟩
    · exact ⟨s.agenda, rfl⟩

/-- The turn that begins after any queue comes to each of the 16. -/
theorem mem_turn (n : Nat) {q : Nat} (h : q < 16) : q ∈ (span (n + 1) 16).map (· % 16) := by
  refine List.mem_map.mpr ⟨n + 1 + (q + 15 * (n + 1)) % 16, mem_span.mpr ⟨by omega, by omega⟩, by omega⟩

/-- Once the queues have been served, a packet is to be read when some queue has one. -/
theorem lqServe_serves {s : State} {q : Nat} (hq : q < 16) (h : (s.lq q).ready = true) : ∃ e ∈ (lqServe s).agenda, isLqLaunch e.2.2 = true := by
  unfold lqServe
  split
  · next hany => exact List.any_eq_true.mp hany
  · split
    · next p _ => exact ⟨_, List.mem_append_right _ (List.mem_singleton_self _), decide_eq_true (Nat.le_add_right _ _)⟩
    · next hnone => exact absurd h (List.find?_eq_none.mp hnone q (mem_turn _ hq))

@[simp] theorem State.lq_updLq (s : State) (q : Nat) (f : LQ → LQ) : (s.updLq q f).lq q = f (s.lq q) :=
  (Tab.val_set _ _ _ _ _).trans (if_pos rfl)

theorem State.lq_updLq_other (s : State) {q p : Nat} (f : LQ → LQ) (h : p ≠ q) : (s.updLq q f).lq p = s.lq p :=
  (Tab.val_set _ _ _ _ _).trans (if_neg h)

/-- A register of queue `q` has been written, and the queues are served: only that queue and the steps to come differ. -/
theorem lqServe_updLq {s : State} {q : Nat} (hq : q < 16) (f : LQ → LQ) :
    let t := lqServe (s.updLq q f)
    (t.mem = s.mem ∧ t.ctxs = s.ctxs ∧ t.arb = s.arb ∧ ∀ p, p ≠ q → t.lq p = s.lq p) ∧
      ((t.lq q).en = true → (t.lq q).err = false → (t.lq q).head ≠ (t.lq q).tail →
        ∃ e ∈ t.agenda, ∃ src bytes, e.2.2 = .launch src bytes ∧ 2 ^ 32 ≤ src) ∧ t.lq q = f (s.lq q) := by
  intro t
  obtain ⟨a, ha⟩ : ∃ a, t = { s.updLq q f with agenda := a } := lqServe_frame _
  have hlq (p : Nat) : t.lq p = (s.updLq q f).lq p := by rw [ha]; rfl
  refine ⟨⟨by rw [ha]; rfl, by rw [ha]; rfl, by rw [ha]; rfl, fun p hp => (hlq p).trans (s.lq_updLq_other f hp)⟩, fun hen herr hmore => ?_,
    (hlq q).trans (s.lq_updLq q f)⟩
  rw [hlq] at hen herr hmore
  have hready : ((s.updLq q f).lq q).ready = true := by
    rw [LQ.ready, hen, herr, decide_eq_true hmore]
    rfl
  obtain ⟨e, he, hlaunch⟩ := lqServe_serves hq hready
  exact ⟨e, he, isLqLaunch_iff.mp hlaunch⟩

/-- A queue whose TAIL is written: more packets than its size stop it (R443). -/
def LQ.rung (l : LQ) (tail : Nat) : LQ :=
  { l with tail := tail, err := l.err || (l.en && decide (2 ^ l.sizelog < (tail + 2 ^ 32 - l.head) % 2 ^ 32)) }

theorem execLqDoorbell_eq {s : State} {q : Nat} (hq : q < 16) (hready : s.host.phase = 6) (tail : BitVec 32) :
    execLqDoorbell q tail s = .next (lqServe (s.updLq q (·.rung tail.toNat))) := by
  have hrung (l : LQ) : (if l.en && !l.err && LQ.overfull { l with tail := tail.toNat } then { l with tail := tail.toNat, err := true }
      else { l with tail := tail.toNat }) = l.rung tail.toNat := by
    obtain ⟨base, en, notify, err, sizelog, head, old⟩ := l
    cases en <;> cases err <;> simp [LQ.rung, LQ.overfull]
    split <;> simp [*]
  have hgo : ¬ (16 ≤ q ∨ s.hostReady = false) := by simp [State.hostReady, hready, hq]
  rw [execLqDoorbell, if_neg hgo]
  exact congrArg (fun f => Host.Outcome.next (lqServe (s.updLq q f))) (funext hrung)

/-- A queue whose control register is written (R443). -/
def LQ.controlled (l : LQ) (v : DWord) : LQ :=
  let size := if l.en then l.sizelog else if v.toNat / 16 % 16 = 0 then 1 else v.toNat / 16 % 16
  if v.getLsbD 0 then { l with en := true, notify := v.getLsbD 1, sizelog := size }
  else { l with en := false, notify := v.getLsbD 1, sizelog := size, head := 0, tail := 0, err := false }

theorem max_one_eq (n : Nat) : Nat.max 1 n = if n = 0 then 1 else n := by
  change max 1 n = _
  split <;> omega

theorem execLqctlWrite_eq {s : State} {q : Nat} (hq : q < 16) (hready : s.host.phase = 6) (v : DWord) :
    execLqctlWrite q v s = .next (lqServe (s.updLq q (·.controlled v))) := by
  have hgo : ¬ (16 ≤ q ∨ s.hostReady = false) := by simp [State.hostReady, hready, hq]
  rw [execLqctlWrite, if_neg hgo]
  simp only [max_one_eq]
  rfl

/-! ### MSI-X (R440) -/

theorem execMsixUnmask_sends (s : State) : ∃ t, execMsixUnmask s = .next t ∧ t.host.masked = s.host.masked.filter (· ≠ s.subj) ∧
    t.host.pend = s.host.pend.filter (· ≠ s.subj) ∧ t.host.sent = if s.subj ∈ s.host.pend then s.subj :: s.host.sent else s.host.sent := by
  refine ⟨_, rfl, ?_⟩
  split <;> exact ⟨rfl, rfl, rfl⟩

end Sys2Proof.Machine
end

section
/-! PROOF. What a device write leaves of the regions and the arbiter, and what the arbiter's writes of a grid do (O24). -/

namespace Sys2Proof.Machine

/-! ### Device writes (R193, R210, R416) -/

/-- A device write inside HBM changes memory and the keys of its lines, once it has been charged. -/
theorem State.devWrite_eq {s : State} {w : Who} {pa : Nat} {bs : List Byte} (h : pa + bs.length ≤ 2 ^ 39) :
    ∃ m k, s.devWrite w pa bs = { s.served w (linesOf pa bs.length) with mem := m, keyed := k } := by
  rw [State.devWrite, if_pos h]
  generalize lineRuns (bs.length / 64 + 2) pa bs = l
  generalize s.served w (linesOf pa bs.length) = t
  dsimp only
  induction l generalizing t with
  | nil => exact ⟨t.mem, t.keyed, rfl⟩
  | cons p l ih =>
    rw [List.foldl_cons]
    split
    · exact ih (t.putLine p.1 p.2)
    · exact ih t

/-- What the device writes for itself or the host is charged to no region. -/
theorem State.devWrite_device {s : State} {w : Who} (hw : 5 ≤ w.req) {pa : Nat} {bs : List Byte} (h : pa + bs.length ≤ 2 ^ 39) :
    ∃ m k, s.devWrite w pa bs = { s with mem := m, keyed := k } := by
  obtain ⟨m, k, hwrite⟩ := State.devWrite_eq (s := s) (w := w) h
  have hserved : s.served w (linesOf pa bs.length) = s := if_neg (Nat.not_lt.mpr hw)
  rw [hserved] at hwrite
  exact ⟨m, k, hwrite⟩

/-- Charging a region's pools leaves every RCB as it was read. -/
@[simp] theorem State.served_rcb (s : State) (w : Who) (n r k : Nat) : (s.served w n).rcb r k = s.rcb r k := by
  unfold State.served State.chargeHbm State.charge
  split
  · split
    · rfl
    · simp only [State.rcb, Tab.look_each]
      cases s.arb.regions.look r with
      | none => rfl
      | some x =>
        simp only [Option.map_some, Option.elim_some]
        split <;> rfl
  · rfl

theorem State.devWrite_rcb (s : State) (w : Who) (pa : Nat) (bs : List Byte) (r k : Nat) : (s.devWrite w pa bs).rcb r k = s.rcb r k := by
  by_cases h : pa + bs.length ≤ 2 ^ 39
  · obtain ⟨m, key, hwrite⟩ := State.devWrite_eq (s := s) (w := w) h
    rw [hwrite]
    exact s.served_rcb w _ r k
  · rw [State.devWrite, if_neg h]
    rfl

/-! ### A grid and its table entry (R197, R202) -/

@[simp] theorem length_dwordBytes (ws : List DWord) : (dwordBytes ws).length = 8 * ws.length := by
  induction ws with
  | nil => rfl
  | cons w ws ih => simp [dwordBytes, ← ih, Nat.mul_add, Nat.add_comm]

/-- A grid whose packet has at most 64 bytes, and whose table entry lies in HBM, is written: besides the grid, memory with its keys and the tokens
of the regions may differ. -/
theorem putGrid_frame {s : State} {r g : Nat} {e : Grid} (hin : s.gridAddr r g + 128 ≤ 2 ^ 39) (hpacket : e.packet.length ≤ 64) :
    ∃ m k rs, putGrid s r g e = { s with mem := m, keyed := k, arb := { s.arb with grids := s.arb.grids.set (gridKey r g) e, regions := rs } } := by
  unfold putGrid
  extract_lets _ u w v
  have haddr : v.gridAddr r g = s.gridAddr r g := by
    simp only [State.gridAddr, v, State.devWrite_rcb]
    rfl
  have hv : u.gridAddr r g + (dwordBytes [w (e.st * 2 ^ 62 + e.status * 2 ^ 60 + e.count), w e.issued, w e.retired,
      w (e.faults * 2 ^ 32 + e.killed), w e.retmap]).length ≤ 2 ^ 39 := by
    rw [length_dwordBytes]
    exact Nat.le_trans (Nat.add_le_add_left (Nat.le_of_ble_eq_true rfl : 40 ≤ 128) _) hin
  have hlast : v.gridAddr r g + 48 + (dwordBytes [w (e.sphead * 2 ^ 48 + e.sptail * 2 ^ 32), 0] ++ e.packet).length ≤ 2 ^ 39 := by
    rw [haddr, List.length_append, length_dwordBytes, List.length_cons, List.length_cons, List.length_nil]
    omega
  obtain ⟨m, k, rs, hfirst⟩ := State.devWrite_frame (s := u) (w := u.whoRegion r 4) hv
  obtain ⟨m', k', rs', hsecond⟩ := State.devWrite_frame (s := v) (w := v.whoRegion r 4) hlast
  refine ⟨m', k', rs', ?_⟩
  rw [hsecond]
  simp only [v, hfirst]
  rfl

theorem putGrid_facts {s : State} {r g : Nat} {e : Grid} (hin : s.gridAddr r g + 128 ≤ 2 ^ 39) (hpacket : e.packet.length ≤ 64) :
    (putGrid s r g e).bad = s.bad ∧ (putGrid s r g e).ctxs = s.ctxs ∧ (putGrid s r g e).arb.grids = s.arb.grids.set (gridKey r g) e := by
  obtain ⟨m, k, rs, hput⟩ := putGrid_frame hin hpacket
  rw [hput]
  exact ⟨rfl, rfl, rfl⟩

theorem State.grid_of_grids {s t : State} {r g : Nat} {e : Grid} (h : t.arb.grids = s.arb.grids.set (gridKey r g) e) : t.grid r g = e := by
  rw [State.grid, h, Tab.val, Tab.look_set_self]
  rfl

theorem endGrid_of_not_ended {s : State} {r g : Nat} (h : ¬ ((s.grid r g).st = 2 ∧ (s.grid r g).ended = true)) : endGrid s r g = s := if_neg h

/-! ### Launches by the host (R199, R202) -/

/-- The topmost field of a double word. -/
theorem fld_top (w : DWord) {lo n : Nat} (h : lo + n = 64) : fld w lo n = w.toNat / 2 ^ lo :=
  Nat.mod_eq_of_lt (Nat.div_lt_of_lt_mul (by rw [← Nat.pow_add, h]; exact w.isLt))

/-- The grid that a packet of the host writes: as many indices as x × y × z, none of them issued. -/
def State.launched (s : State) (bs : List Byte) : Grid :=
  let d (k : Nat) : DWord := dwordAt bs k
  let r := fld (d 0) 40 16
  let n := fld (d 3) 0 32 * fld (d 3) 32 32 * fld (d 4) 0 32
  { Grid.free with
    st := if bit (d 0) 0 then 1 else 2
    count := n
    retmap := fld (d 6) 0 56
    spbase := fld (s.devDword (s.whoRegion r 4) (s.gridAddr r (fld (d 0) 32 8) + 40)).2 14 26 * 2 ^ 14
    packet := bs.take 64
    order := s.arb.launches
    base0 := n }

/-- The state with one more launch, and no die barred any longer to grid `g` of region `r`. -/
def State.counting (s : State) (r g : Nat) : State :=
  { s with arb := { s.arb with launches := s.arb.launches + 1, cut := s.arb.cut.filter (fun p => decide (p.1 ≠ gridKey r g)) } }

theorem submitLaunch_accepted {s : State} {bs : List Byte} {r g : Nat} (h : launchStatus s none bs = none) (hr : fld (dwordAt bs 0) 40 16 = r)
    (hg : fld (dwordAt bs 0) 32 8 = g) : submitLaunch s 0 bs = callArbiter (endGrid (putGrid (s.counting r g) r g (s.launched bs)) r g) := by
  subst hr hg
  unfold submitLaunch
  dsimp only
  rw [if_pos rfl, h]
  rfl

/-- An acceptable packet has indices in x and y. -/
theorem extent_ne_zero_of_launchStatus {s : State} {home : Option Nat} {bs : List Byte} (h : launchStatus s home bs = none) :
    fld (dwordAt bs 3) 0 32 ≠ 0 ∧ fld (dwordAt bs 3) 32 32 ≠ 0 := by
  unfold launchStatus at h
  dsimp only at h
  split at h
  · cases h
  · next hform =>
    simp only [not_or] at hform
    obtain ⟨-, -, -, -, -, -, -, hx, hy, -⟩ := hform
    exact ⟨hx, hy⟩

theorem State.launched_ended {s : State} {bs : List Byte} (h : launchStatus s none bs = none) (hz : fld (dwordAt bs 4) 0 32 ≠ 0) :
    (s.launched bs).ended = false := by
  obtain ⟨hx, hy⟩ := extent_ne_zero_of_launchStatus h
  exact decide_eq_false (Nat.mul_ne_zero (Nat.mul_ne_zero hx hy) hz).symm

theorem submitLaunch_writes {s : State} {bs : List Byte} {r g : Nat} (hbad : s.bad = none) (h : launchStatus s none bs = none)
    (hr : fld (dwordAt bs 0) 40 16 = r) (hg : fld (dwordAt bs 0) 32 8 = g) (hz : fld (dwordAt bs 4) 0 32 ≠ 0)
    (hin : s.gridAddr r g + 128 ≤ 2 ^ 39) : ∃ t, execLaunch 0 bs s = .next t ∧ t.due 0 .arbiterChoice ∧
      t.arb.grids = s.arb.grids.set (gridKey r g) (s.launched bs) ∧ t.ctxs = s.ctxs := by
  have hlaunch := submitLaunch_accepted h hr hg
  obtain ⟨hbad', hctxs, hgrids⟩ := putGrid_facts (s := s.counting r g) (e := s.launched bs) hin (List.length_take_le 64 bs)
  rw [endGrid_of_not_ended (by rw [State.grid_of_grids hgrids, State.launched_ended h hz]; exact fun hend => nomatch hend.2)] at hlaunch
  obtain ⟨a, ha⟩ := (putGrid (s.counting r g) r g (s.launched bs)).pushOnce_frame 0 0 .arbiterChoice
  refine ⟨_, (congrArg fin hlaunch).trans (fin_ok ((State.pushOnce_bad _ _ _ _).trans (hbad'.trans hbad))), State.due_pushOnce _ _ _ _, ?_, ?_⟩
  · rw [callArbiter, ha]
    exact hgrids
  · rw [callArbiter, ha]
    exact hctxs

/-! ### A node is decremented (R208) -/

theorem execNodeDecrement_counts {s : State} {r n : Nat} (hbad : s.bad = none) (hlive : s.regionLive r = true) (hin : s.nodeAddr r n + 32 ≤ 2 ^ 39)
    {d : DWord} (hd : (s.devDword (s.whoRegion r 4) (s.nodeAddr r n)).2 = d) (hvalid : d.getLsbD 0 = true) (hfired : d.getLsbD 60 = false)
    (hkind : d.toNat / 2 ^ 62 = 1 ∨ d.toNat / 2 ^ 62 = 2) (hpred : 1 < fld d 32 16) :
    execNodeDecrement r n s = .next (s.devWrite (s.whoRegion r 4) (s.nodeAddr r n) (leBytes 8 (d.toNat - 2 ^ 32))) := by
  have hkind' : fld d 62 2 = 1 ∨ fld d 62 2 = 2 := by
    unfold fld
    omega
  have hvalue : (setFld d 32 16 (fld d 32 16 - 1)).toNat = d.toNat - 2 ^ 32 := by
    rw [setFld_toNat d _ (by decide)]
    unfold fld at hpred ⊢
    omega
  have hgo : ¬ (bit d 0 = false ∨ (fld d 62 2 ≠ 1 ∧ fld d 62 2 ≠ 2) ∨ bit d 60 = true ∨ fld d 32 16 = 0) := by
    rintro (hnot | hother | hdone | hnone)
    · exact nomatch hnot.symm.trans hvalid
    · omega
    · exact nomatch hfired.symm.trans hdone
    · omega
  have hstep : nodeStep s r n = (s.devWrite (s.whoRegion r 4) (s.nodeAddr r n) (leBytes 8 (d.toNat - 2 ^ 32)), .ok true) := by
    unfold nodeStep
    simp only [hlive, hd, if_neg hgo, if_pos hpred, hvalue, Bool.true_eq_false, if_false]
  obtain ⟨m, k, rs, hwrite⟩ := State.devWrite_frame (s := s) (w := s.whoRegion r 4) (pa := s.nodeAddr r n) (bs := leBytes 8 (d.toNat - 2 ^ 32))
    (by rw [leBytes_length]; omega)
  rw [execNodeDecrement, hstep]
  exact fin_ok (by rw [hwrite]; exact hbad)

/-! ### Launches, nodes, queues -/

/-- Settles O24: a launch is `submitLaunch_writes`, a node `execNodeDecrement_counts`, a queue `lqServe_updLq` after each of its registers, a vector
`execMsixUnmask_sends`. -/
theorem launchesNodesQueues : Obligations.LaunchesNodesQueues := by
  refine ⟨fun s hbad => ⟨?_, ?_⟩, fun s q tail v hq hready => ?_, fun s => ?_⟩
  · intro bytes r g x y z hstatus hr hg hx hy hz hsome hin
    obtain ⟨t, hexec, hdue, hgrids, hctxs⟩ :=
      submitLaunch_writes hbad hstatus hr.symm hg.symm (by rw [fld_zero, ← hz]; exact Nat.pos_iff_ne_zero.mp hsome) hin
    refine ⟨t, hexec, hdue, ?_⟩
    rw [State.grid_of_grids hgrids, hgrids]
    refine ⟨rfl, ?_, rfl, rfl, rfl, rfl, rfl, fld_zero _ _, hctxs, fun j hj => Tab.look_set_other _ _ hj.symm⟩
    rw [hx, hy, hz, ← fld_top (n := 32) _ rfl, ← fld_zero _ 32, ← fld_zero _ 32]
    rfl
  · intro r n hlive hin d hvalid hfired hkind hpred
    exact execNodeDecrement_counts hbad hlive hin rfl hvalid hfired hkind hpred
  · intro l others served
    obtain ⟨hothers, hserved, hl⟩ := lqServe_updLq (s := s) hq (·.rung tail.toNat)
    obtain ⟨hothers', hserved', hl'⟩ := lqServe_updLq (s := s) hq (·.controlled v)
    exact ⟨⟨_, execLqDoorbell_eq hq hready tail, hothers, hserved, hl⟩, ⟨_, execLqctlWrite_eq hq hready v, hothers', hserved', hl'⟩⟩
  · obtain ⟨t, hexec, hmasked, hpend, hsent⟩ := execMsixUnmask_sends s
    refine ⟨t, hexec, ?_, ?_, fun u hu => ⟨?_, ?_⟩, hsent⟩
    · simp [hmasked]
    · simp [hpend]
    · simp [hmasked, hu]
    · simp [hpend, hu]

end Sys2Proof.Machine
end

section
/-! PROOF. Work operations at issue, and ENQ and DEQ at a queue (O25). -/

namespace Sys2Proof.Machine

/-! ### A trap is no failed table access (R217, R382) -/

@[simp] theorem State.updCtx_bad (s : State) (id : Nat) (f : Ctx → Ctx) : (s.updCtx id f).bad = s.bad := by
  unfold State.updCtx
  split <;> rfl

@[simp] theorem State.fatal_bad (s : State) (id cause : Nat) (d : DWord) : (s.fatal id cause d).bad = s.bad := s.updCtx_bad id _

@[simp] theorem State.endStep_bad (s : State) (id : Nat) : (s.endStep id).bad = s.bad := by
  unfold State.endStep
  split
  · rfl
  · split <;> rfl

@[simp] theorem trapEntry_bad (s : State) (id : Nat) (t : Trap) : (trapEntry s id t).bad = s.bad := by
  unfold trapEntry
  split
  · rfl
  · dsimp only
    split
    · exact s.fatal_bad id _ _
    · split
      · split
        · split <;> exact s.fatal_bad id _ _
        · exact s.fatal_bad id _ _
      · exact State.endStep_bad _ id

@[simp] theorem takeTrap_bad (s : State) (id : Nat) (t : Trap) : (takeTrap s id t).bad = s.bad := by
  unfold takeTrap
  split
  · rfl
  · dsimp only
    split
    · rfl
    · split
      · exact State.pushOnce_bad _ _ _ _
      · split
        · rfl
        · exact trapEntry_bad _ id t

theorem State.traps_bad (s : State) (id cause addr : Nat) (d : DWord) : (s.traps id cause addr d).bad = s.bad := by
  unfold State.traps
  dsimp only
  split
  · rfl
  · exact takeTrap_bad s id _

/-! ### Work operations at issue (R203, R306) -/

/-- The scalar access that a work operation is performed as. -/
def State.workMem (s : State) (c : Ctx) (d : BitVec 6) (amop ea : Nat) (operand compare : DWord) : PMem where
  atomic := true
  d := d
  va := ea
  size := 3
  uns := true
  place := if amop < Work.enq then .hbm 0 else .slice (ea / 2 ^ 23 % 512) (ea % 2 ^ 23)
  amop := amop
  operand := operand
  compare := compare
  scope := 3
  ftz := false
  older := Ctx.olderOps s c 3
  release := none
  own := []
  pc := s.pcOf c
  seq := c.ph.seq

section
variable {s s1 s2 s3 : State} {id : Nat} {c : Ctx} {d : BitVec 6} {amop ea : Nat} {operand compare : Ctx → DWord} (hs : s.Sees id c)
include hs

/-- A queue operation at an address that is no line of slice space (R205). -/
theorem workOp_format (hqueue : ¬ amop < Work.enq) (hbad : s.bad = none) (haddr : ¬ (spaceOf ea = 1 ∧ ea % 64 = 0)) :
    workOp s d amop ea operand compare = .next (s.traps id Cause.queueFormat 0 0) := by
  have hwrong : spaceOf ea ≠ 1 ∨ ea % 64 ≠ 0 := by rwa [← not_and_or]
  unfold workOp
  rw [slotStep_raise hs.1 (cause := Cause.queueFormat) (d := 0) (by dsimp only; rw [if_neg hqueue, if_pos hwrong]) (by decide)]
  exact fin_ok ((s.traps_bad id _ 0 0).trans hbad)

/-- A queue operation at a queue, with nothing older to wait for, is performed at once (R203). -/
theorem workOp_performs {p : Place} {bs : List Byte} {y : Ctx} (hqueue : ¬ amop < Work.enq) (hspace : spaceOf ea = 1) (hline : ea % 64 = 0)
    (htranslate : translate s (s.whoTask c 0 false) (s.envTask c) .atomic ea 64 = (s1, .ok p))
    (hread : homeRead s1 (s.whoTask c 0 false) (s1.envTask c) p 64 = (s2, .ok bs))
    (hheader : (queueHeader s2 (ea / 2 ^ 23 % 512) (ea % 2 ^ 23) bs).isSome = true)
    (hdone : Ctx.opsDone s2 c 3 (Ctx.olderOps s c 3) = true) (hempty : c.ph.memq = [])
    (hfree : s2.mustFollow c c.ph.seq (.slice (ea / 2 ^ 23 % 512) (ea % 2 ^ 23)) = false)
    (hwork : performWork s2 id c (s.workMem c d amop ea (operand c) (compare c)) = (s3.setCtx id y, .ok true)) (hissue : s3.issue = s.issue)
    (hbad : s3.bad = none) : workOp s d amop ea operand compare = .next (s3.setCtx id { y with regs := s.after y.regs }) := by
  have hright : ¬ (spaceOf ea ≠ 1 ∨ ea % 64 ≠ 0) := by simp [hspace, hline]
  have hhere : ¬ (queueHeader s2 (ea / 2 ^ 23 % 512) (ea % 2 ^ 23) bs).isNone = true :=
    fun hnone => Option.isSome_iff_ne_none.mp hheader (Option.isNone_iff_eq_none.mp hnone)
  unfold workOp
  rw [slotStep_eq hs.1]
  dsimp only
  rw [if_neg hqueue, if_neg hright, htranslate]
  dsimp only
  rw [hread]
  dsimp only
  simp only [if_neg hhere, if_neg hqueue, hdone, hempty, hfree, List.isEmpty_nil, Bool.not_true, Bool.or_self, Bool.false_eq_true, if_false]
  simp only [State.workMem, if_neg hqueue] at hwork
  rw [hwork, workEnd, settle_setCtx_after hs.1 hissue]
  exact fin_ok hbad

end

/-! ### ENQ and DEQ performed (R205, R406) -/

/-- A task that a work operation has answered: the answer in its register, and the phase not restartable once the operation has had an effect. -/
def Ctx.worked (c : Ctx) (d : BitVec 6) (v : DWord) : Ctx := { c with regs := c.regs.setS d v, ph := { c.ph with nr := c.ph.nr || bit v 0 } }

section
variable {s s3 : State} {id : Nat} {c : Ctx} {m : PMem} {st x : DWord}

theorem performWork_enq (hamop : m.amop = Work.enq)
    (hqueue : queueOp s (s.whoTask c 0 false) (s.envTask c) m.va (some m.operand) = (s3, .done st x)) (hctx : s3.ctx id = some c) :
    performWork s id c m = (s3.setCtx id (c.worked m.d st), .ok true) := by
  unfold performWork
  simp only [hamop, Work.enq, Work.grow, Work.spawn, Work.close, Work.deq, Nat.reduceEqDiff, if_false, if_true, hqueue,
    State.updCtx_eq hctx, State.wrS, State.updCtx_setCtx]
  rfl

theorem performWork_deq (hamop : m.amop = Work.deq)
    (hqueue : queueOp s (s.whoTask c 0 false) (s.envTask c) m.va none = (s3, .done st x)) (hctx : s3.ctx id = some c) :
    performWork s id c m
      = (s3.setCtx id ((c.worked m.d st).updRegs (·.setS (BitVec.ofNat 6 m.compare.toNat) x)), .ok true) := by
  unfold performWork
  simp only [hamop, Work.enq, Work.grow, Work.spawn, Work.close, Work.deq, Nat.reduceEqDiff, if_false, if_true, hqueue,
    State.updCtx_eq hctx, State.wrS, State.updCtx_setCtx]
  rfl

end

/-! ### A queue (R205) -/

section
variable {s s1 s2 s3 s4 : State} {w : Who} {env : Env} {q core off head tail n : Nat} {v : DWord} {bs old : List Byte}
  (hcore : q / 2 ^ 23 % 512 = core) (hoff : q % 2 ^ 23 = off) (hread : homeRead s w env (.slice core off) 64 = (s1, .ok bs))
  (hheader : queueHeader s1 core off bs = some (head, tail, n))
include hcore hoff hread hheader

theorem queueOp_full (hfull : (tail + 2 ^ 32 - head) % 2 ^ 32 = n) : queueOp s w env q (some v) = (s1, .done 2 0) := by
  unfold queueOp
  simp only [hcore, hoff, hread, hheader]
  rw [if_pos ⟨rfl, hfull⟩]
  rfl

theorem queueOp_empty (hempty : (tail + 2 ^ 32 - head) % 2 ^ 32 = 0) : queueOp s w env q none = (s1, .done 4 0) := by
  unfold queueOp
  simp only [hcore, hoff, hread, hheader]
  rw [if_neg (fun h => nomatch h.1), if_pos ⟨rfl, hempty⟩]
  rfl

theorem queueOp_joins (hroom : (tail + 2 ^ 32 - head) % 2 ^ 32 ≠ n)
    (hallowed : s1.sliceAllowed w core (off + 64 + 8 * (tail % n)) .atomic = true)
    (hentry : homeRead s1 w env (.slice core (off + 64 + 8 * (tail % n))) 8 = (s2, .ok old))
    (hvalue : homeWriteRun s2 w env (.slice core (off + 64 + 8 * (tail % n))) (leBytes 8 v.toNat) = (s3, .ok ()))
    (hhead : homeWriteRun s3 w env (.slice core off) (leBytes 8 (head * 2 ^ 32 + (tail + 1) % 2 ^ 32)) = (s4, .ok ())) (hlt : head < 2 ^ 32) :
    queueOp s w env q (some v) = (s4, .done 1 0) := by
  have hword : (BitVec.ofNat 64 (head * 2 ^ 32 + (tail + 1) % 2 ^ 32)).toNat = head * 2 ^ 32 + (tail + 1) % 2 ^ 32 := by
    rw [BitVec.toNat_ofNat, Nat.mod_eq_of_lt (by omega)]
  unfold queueOp
  simp only [hcore, hoff, hread, hheader]
  rw [if_neg (fun h => hroom h.2), if_neg (fun h => nomatch h.1)]
  simp only [Option.isSome_some, if_true, hallowed, Bool.true_eq_false, if_false, hentry, hvalue, hword, hhead]

theorem queueOp_takes (hsome : (tail + 2 ^ 32 - head) % 2 ^ 32 ≠ 0)
    (hallowed : s1.sliceAllowed w core (off + 64 + 8 * (head % n)) .atomic = true)
    (hentry : homeRead s1 w env (.slice core (off + 64 + 8 * (head % n))) 8 = (s2, .ok old))
    (hhead : homeWriteRun s2 w env (.slice core off) (leBytes 8 ((head + 1) % 2 ^ 32 * 2 ^ 32 + tail)) = (s3, .ok ())) (hlt : tail < 2 ^ 32) :
    queueOp s w env q none = (s3, .done 1 (dwordAt old 0)) := by
  have hword : (BitVec.ofNat 64 ((head + 1) % 2 ^ 32 * 2 ^ 32 + tail)).toNat = (head + 1) % 2 ^ 32 * 2 ^ 32 + tail := by
    rw [BitVec.toNat_ofNat, Nat.mod_eq_of_lt (by omega)]
  unfold queueOp
  simp only [hcore, hoff, hread, hheader]
  rw [if_neg (fun h => nomatch h.1), if_neg (fun h => hsome h.2)]
  simp only [Option.isSome_none, Bool.false_eq_true, if_false, hallowed, Bool.true_eq_false, hentry, hword, hhead]

end

/-! ### ENQ and DEQ -/

theorem State.Sees.curReg_eq {s : State} {id : Nat} {c : Ctx} (h : s.Sees id c) (n : BitVec 6) : s.curReg n = (s.rs c n).toNat := by
  obtain ⟨⟨hcid, hctx, -⟩, -⟩ := h
  simp only [State.curReg, hcid, Option.bind_some, hctx, Option.elim_some]

/-- A register's number in a double word. -/
theorem ofNat_toNat_reg (n : BitVec 6) : BitVec.ofNat 6 (BitVec.ofNat 64 n.toNat).toNat = n := by
  apply BitVec.eq_of_toNat_eq
  simp only [BitVec.toNat_ofNat]
  omega

theorem State.Sees.exec_enq {s : State} {id : Nat} {c : Ctx} (h : s.Sees id c) (d a b : BitVec 6) :
    exec (.enq d a b) s = workOp s d Work.enq (s.rs c a).toNat (s.reg b) (fun _ => 0) :=
  congrArg (fun ea => workOp s d Work.enq ea (s.reg b) (fun _ => 0)) (h.curReg_eq a)

theorem State.Sees.exec_deq {s : State} {id : Nat} {c : Ctx} (h : s.Sees id c) (d a b : BitVec 6) :
    exec (.deq d a b) s = workOp s d Work.deq (s.rs c a).toNat (fun _ => 0) (fun _ => BitVec.ofNat 64 b.toNat) :=
  congrArg (fun ea => workOp s d Work.deq ea (fun _ => 0) (fun _ => BitVec.ofNat 64 b.toNat)) (h.curReg_eq a)

/-- Settles O25: a work operation is `workOp_format` or `workOp_performs`, with `performWork_enq` and `performWork_deq`; the queue's own cases are
the lemmas of `queueOp`. -/
theorem queueWork : Obligations.QueueWork := by
  refine ⟨fun s s1 s2 s3 id c d a b p bs st x hs hbad hdone hempty => ?_,
    fun s s1 s2 s3 s4 w env core off head tail n v bs old hcore hoff hread hheader => ?_⟩
  · intro ea w
    have henq := hs.exec_enq d a b
    have hdeq := hs.exec_deq d a b
    refine ⟨fun haddr hbad0 => ?_, ?_⟩
    · exact ⟨henq.trans (workOp_format hs (by decide) hbad0 haddr), hdeq.trans (workOp_format hs (by decide) hbad0 haddr)⟩
    intro hspace hline hfree htranslate hread hheader hctx hissue
    refine ⟨fun hqueue => ?_, fun hqueue => ?_⟩
    · have hwork := performWork_enq (m := s.workMem c d Work.enq ea (s.reg b c) 0) rfl hqueue hctx
      exact ⟨_, _, henq.trans (workOp_performs hs (by decide) hspace hline htranslate hread hheader hdone hempty hfree hwork hissue hbad),
        s3.ctx_setCtx id _, rfl, rfl⟩
    · have hwork := performWork_deq (m := s.workMem c d Work.deq ea 0 (BitVec.ofNat 64 b.toNat)) rfl hqueue hctx
      refine ⟨_, _, hdeq.trans (workOp_performs hs (by decide) hspace hline htranslate hread hheader hdone hempty hfree hwork hissue hbad),
        s3.ctx_setCtx id _, ?_, rfl⟩
      exact congrArg (fun n => s.after ((c.regs.setS d st).setS n x)) (ofNat_toNat_reg b)
  · have hcore' : (core * 2 ^ 23 + off) / 2 ^ 23 % 512 = core := by omega
    have hoff' : (core * 2 ^ 23 + off) % 2 ^ 23 = off := by omega
    exact ⟨queueOp_full hcore' hoff' hread hheader, queueOp_empty hcore' hoff' hread hheader, queueOp_joins hcore' hoff' hread hheader,
      queueOp_takes hcore' hoff' hread hheader⟩

end Sys2Proof.Machine
end

section
/-! PROOF. Regions created, refreshed and destroyed by command, tasks asked out and invalidations begun by command (O46). -/

namespace Sys2Proof.Machine

/-! ### A command answered (R424, R425, R444) -/

@[simp] theorem State.devWrite_host (s : State) (w : Who) (pa : Nat) (bs : List Byte) : (s.devWrite w pa bs).host = s.host := by
  by_cases h : pa + bs.length ≤ 2 ^ 39
  · obtain ⟨m, k, r, hwrite⟩ := State.devWrite_frame (s := s) (w := w) h
    rw [hwrite]
  · rw [State.devWrite, if_neg h]

/-- The ring of responses lies in HBM. -/
def State.respSafe (s : State) : Prop := fld s.host.crresp 13 27 * 2 ^ 13 + 8192 * 2 ^ s.host.crslot ≤ 2 ^ 39

/-- The header and the tag of a response have their place in its slot. -/
theorem respond_inHbm {s : State} (h : s.respSafe) (i : Nat) {bs : List Byte} (hbs : bs.length ≤ 8192) :
    s.ringSlot s.host.crresp i + bs.length ≤ 2 ^ 39 := by
  have hslot : i % 2 ^ s.host.crslot < 2 ^ s.host.crslot := Nat.mod_lt _ (Nat.two_pow_pos _)
  unfold State.respSafe at h
  unfold State.ringSlot
  generalize i % 2 ^ s.host.crslot = x at hslot ⊢
  generalize 2 ^ s.host.crslot = y at h hslot
  generalize fld s.host.crresp 13 27 * 2 ^ 13 = z at h ⊢
  omega

theorem respond_facts {s : State} (h : s.respSafe) (k : RingCmd) (st : Nat) :
    (respond s k st []).bad = s.bad ∧ (respond s k st []).arb = s.arb ∧ (respond s k st []).agenda = s.agenda ∧
      (respond s k st []).host.crhead = (s.host.crhead + 1) % 2 ^ 32 ∧ (respond s k st []).host.crtail = s.host.crtail := by
  unfold respond
  extract_lets body tag written host
  have hbody : body.length = 16 := by simp [body, leBytes_length]
  have htag : tag.length ≤ 48 := by
    unfold tag
    split
    · simp [ringTag, fitBytes]
    · exact Nat.zero_le _
  obtain ⟨m, key, hwrite⟩ := State.devWrite_device (s := s) (w := whoDevice) (by decide)
    (respond_inHbm h s.host.crhead (bs := body ++ tag) (by rw [List.length_append, hbody]; omega))
  have hwritten : written = { s with mem := m, keyed := key } := hwrite
  simp only [State.msix_bad, State.msix_arb, State.msix_agenda, State.msix_crhead, State.msix_crtail, host, hwritten, and_self]

section
variable {s t : State} {k : RingCmd} {i : Instr} {st : Nat} (hrun : s.ringRuns k i) (hbad : t.bad = none) (hhost : t.host = s.host)
include hrun hhost

omit hhost in
theorem State.ringRuns.bad_eq : s.bad = none := by
  obtain ⟨-, ⟨hbad, -, -⟩, -⟩ := hrun
  exact hbad

theorem State.ringRuns.respSafe : t.respSafe := by
  obtain ⟨-, ⟨-, -, hresp⟩, -⟩ := hrun
  rwa [State.respSafe, hhost]

theorem State.ringRuns.respond_rests : (respond t k st []).host.crhead = s.host.crtail ∧ (respond t k st []).host.crtail = s.host.crtail := by
  obtain ⟨-, -, -, hhead, htail⟩ := respond_facts (hrun.respSafe hhost) k st
  obtain ⟨-, -, -, hlast, -⟩ := hrun
  rw [hhead, htail, hhost]
  exact ⟨hlast, rfl⟩

include hbad

/-- An operation that answers ends with its response: its command was the last of the ring. -/
theorem ringOp_answers {f : State → RingCmd → State × Option (Nat × List Byte)} (hf : f s k = (t, some (st, []))) :
    ringOp s i f = .next (respond t k st []) := by
  obtain ⟨hbad', -⟩ := respond_facts (hrun.respSafe hhost) k st
  obtain ⟨hhead, htail⟩ := hrun.respond_rests (st := st) hhost
  rw [ringOp_eq hrun, hf]
  dsimp only
  rw [ringNext_rest (hhead.trans htail.symm)]
  exact fin_ok (hbad'.trans hbad)

theorem ringPlain_answers {f : State → RingCmd → State × Nat × List Byte} (hf : f s k = (t, st, [])) :
    ringPlain s i f = .next (respond t.counted k st []) :=
  ringOp_answers (t := t.counted) hrun hbad hhost (by rw [hf]; rfl)

end

/-! ### REGION (R194, R445) -/

/-- What the device reads for itself or the host is charged to no region. -/
theorem State.devRead_device {s : State} {w : Who} (hw : 5 ≤ w.req) {pa n : Nat} (hin : pa + n ≤ 2 ^ 39) : (s.devRead w pa n).1 = s := by
  rw [State.devRead, if_pos hin]
  exact if_neg (Nat.not_lt.mpr hw)

/-- Reading an RCB that lies in HBM changes nothing. -/
theorem readRcb_eq {s : State} {r addr : Nat} (haddr : fld (s.regionEntry r) 9 31 * 512 = addr) (hin : addr + 512 ≤ 2 ^ 39) :
    readRcb s r = (s, addr, (readRcb s r).2.2) := by
  have hread := State.devRead_device (s := s) (w := { whoDevice with world := (s.rangeOf addr).elim 0 (·.1) }) (show 5 ≤ 7 by decide) hin
  unfold readRcb
  dsimp only
  rw [haddr]
  generalize s.devRead { whoDevice with world := (s.rangeOf addr).elim 0 (·.1) } addr 512 = p at hread ⊢
  obtain ⟨t, bs⟩ := p
  obtain rfl : t = s := hread
  rfl

/-- The region that an RCB makes: its own pools are full. -/
def Region.created (addr : Nat) (l : List DWord) : Region :=
  let own (b v : Nat) : Int := if bit (l.getD 1 0) b then v else 0
  { addr := addr, rcb := l.take 23, staged := none
    coreTok := own 8 (fld (l.getD 9 0) 48 16 * 875), hbmTok := own 9 (fld (l.getD 9 0) 32 16 * 1024)
    fabTok := own 10 (fld (l.getD 9 0) 16 16 * 1024), powTok := own 11 (fld (l.getD 9 0) 0 16 * periodCycles), powThrottle := false }

theorem Region.created_facts (addr : Nat) (l : List DWord) :
    (Region.created addr l).addr = addr ∧ (Region.created addr l).rcb = l.take 23 ∧ (Region.created addr l).staged = none ∧
      (Region.created addr l).coreTok = if (l.getD 1 0).getLsbD 8 then (((l.getD 9 0).toNat / 2 ^ 48 * 875 : Nat) : Int) else 0 :=
  ⟨rfl, rfl, rfl, by rw [← fld_top (n := 16) (l.getD 9 0) rfl]; rfl⟩

/-- The state with a region that has been created. -/
def State.withRegion (s : State) (r : Nat) (x : Region) : State := callArbiter { s with arb := { s.arb with regions := s.arb.regions.set r x } }

theorem State.withRegion_frame (s : State) (r : Nat) (x : Region) :
    ∃ a, s.withRegion r x = { s with agenda := a, arb := { s.arb with regions := s.arb.regions.set r x } } := by
  obtain ⟨a, ha⟩ := ({ s with arb := { s.arb with regions := s.arb.regions.set r x } } : State).pushOnce_frame 0 0 .arbiterChoice
  exact ⟨a, ha⟩

theorem State.withRegion_facts (s : State) (r : Nat) (x : Region) :
    (s.withRegion r x).host = s.host ∧ (s.withRegion r x).due 0 .arbiterChoice ∧ (s.withRegion r x).arb.regions = s.arb.regions.set r x := by
  obtain ⟨a, ha⟩ := s.withRegion_frame r x
  refine ⟨by rw [ha], State.due_pushOnce _ _ _ _, by rw [ha]⟩

/-- The state without a region and its grids. -/
def State.withoutRegion (s : State) (r : Nat) : State :=
  { s with arb := { s.arb with regions := s.arb.regions.del r, grids := s.arb.grids.filter (fun p => decide (p.1 / 256 ≠ r)) } }

/-- A region has a task, or a grid that is OPEN or CLOSED. -/
def State.RegionBusy (s : State) (r : Nat) : Prop :=
  (∃ q ∈ s.ctxs, q.2.who.region = r) ∨ ∃ g ∈ s.arb.grids, g.1 / 256 = r ∧ (g.2.st = 1 ∨ g.2.st = 2)

theorem State.regionBusy_iff (s : State) (r : Nat) :
    (s.ctxs.any (fun (_, c) => decide (c.who.region = r)) || s.arb.grids.any (fun (g, e) => decide (g / 256 = r ∧ (e.st = 1 ∨ e.st = 2)))) = true
      ↔ s.RegionBusy r := by
  simp only [Bool.or_eq_true, List.any_eq_true, decide_eq_true_eq, State.RegionBusy]

/-- Region `q` with an RCB staged, to take effect at the next period, when it is region `r`. -/
def Region.staging (r addr : Nat) (l : List DWord) (q : Nat) (x : Region) : Region :=
  if q = r then { x with addr := addr, staged := some (l.take 23) } else x

theorem Region.staging_other {q r : Nat} (h : q ≠ r) (addr : Nat) (l : List DWord) (x : Region) : Region.staging r addr l q x = x := if_neg h

/-- The state with an RCB staged for region `r`. -/
def State.staging (s : State) (r addr : Nat) (l : List DWord) : State :=
  { s with arb := { s.arb with regions := Tab.each (Region.staging r addr l) s.arb.regions } }

theorem State.look_staging (s : State) (r addr : Nat) (l : List DWord) (q : Nat) :
    (s.staging r addr l).arb.regions.look q = (s.arb.regions.look q).map (Region.staging r addr l q) := Tab.look_each _ _ _

section
variable {s : State} {k : RingCmd} {r addr : Nat} {l : List DWord} (hr : fld (k.w 2) 0 12 = r)

section
variable (hrun : s.ringRuns k .regionCreate)
include hrun hr

theorem execRegionCreate_badArg (h : s.regionLive r = true ∨ bit (s.regionEntry r) 0 = false) :
    execRegionCreate s = .next (respond s.counted k Status.badArg []) :=
  ringPlain_answers hrun hrun.bad_eq rfl (by dsimp only; rw [hr, if_pos h])

variable (hlive : s.regionLive r = false) (hvalid : bit (s.regionEntry r) 0 = true) (hread : readRcb s r = (s, addr, l))
include hlive hvalid hread

theorem execRegionCreate_rcbFormat (hbad : rcbOk s r addr l = false) : execRegionCreate s = .next (respond s.counted k Status.rcbFormat []) :=
  ringPlain_answers hrun hrun.bad_eq rfl (by dsimp only; rw [hr, if_neg (by simp [hlive, hvalid]), hread]; dsimp only; rw [if_pos hbad])

theorem execRegionCreate_creates (hok : rcbOk s r addr l = true) :
    execRegionCreate s = .next (respond (s.withRegion r (.created addr l)).counted k Status.ok []) := by
  obtain ⟨a, ha⟩ := s.withRegion_frame r (.created addr l)
  refine ringPlain_answers hrun (by rw [ha]; exact hrun.bad_eq) (by rw [ha]) ?_
  dsimp only
  rw [hr, if_neg (by simp [hlive, hvalid]), hread]
  dsimp only
  rw [if_neg (by simp [hok])]
  rfl

end

section
variable (hrun : s.ringRuns k .regionRefresh)
include hrun hr

theorem execRegionRefresh_badArg (hlive : s.regionLive r = false) : execRegionRefresh s = .next (respond s.counted k Status.badArg []) :=
  ringPlain_answers hrun hrun.bad_eq rfl (by dsimp only; rw [hr, if_pos hlive])

variable (hlive : s.regionLive r = true) (hread : readRcb s r = (s, addr, l))
include hlive hread

theorem execRegionRefresh_rcbFormat (hbad : rcbOk s r addr l = false) : execRegionRefresh s = .next (respond s.counted k Status.rcbFormat []) :=
  ringPlain_answers hrun hrun.bad_eq rfl (by dsimp only; rw [hr, if_neg (by simp [hlive]), hread]; dsimp only; rw [if_pos hbad])

theorem execRegionRefresh_stages (hok : rcbOk s r addr l = true) :
    execRegionRefresh s = .next (respond (s.staging r addr l).counted k Status.ok []) :=
  ringPlain_answers (t := s.staging r addr l) hrun hrun.bad_eq rfl
    (by dsimp only; rw [hr, if_neg (by simp [hlive]), hread]; dsimp only; rw [if_neg (by simp [hok])]; rfl)

end

section
variable (hrun : s.ringRuns k .regionDestroy)
include hrun hr

theorem execRegionDestroy_busy (hbusy : s.RegionBusy r) : execRegionDestroy s = .next (respond s.counted k Status.regionBusy []) :=
  ringPlain_answers hrun hrun.bad_eq rfl (by dsimp only; rw [hr, if_pos ((s.regionBusy_iff r).mpr hbusy)])

theorem execRegionDestroy_destroys (hidle : ¬ s.RegionBusy r) (hin : fld s.host.regtab 15 25 * 2 ^ 15 + 8 * r + 8 ≤ 2 ^ 39) :
    ∃ m key, execRegionDestroy s
      = .next (respond (({ s with mem := m, keyed := key } : State).withoutRegion r).counted k Status.ok []) := by
  have hlen : fld s.host.regtab 15 25 * 2 ^ 15 + 8 * r + (leBytes 8 0).length ≤ 2 ^ 39 := by rwa [leBytes_length]
  obtain ⟨m, key, hwrite⟩ := State.devWrite_device (s := s) (w := whoDevice) (by decide) hlen
  refine ⟨m, key, ringPlain_answers (t := ({ s with mem := m, keyed := key } : State).withoutRegion r) hrun hrun.bad_eq rfl ?_⟩
  dsimp only
  rw [hr, if_neg (fun h => hidle ((s.regionBusy_iff r).mp h)), hwrite]
  rfl

end

end

/-! ### PREEMPT and INVAL (R30, R391, R445) -/

theorem execPreempt_badArg {s : State} {k : RingCmd} {c : Nat} (hrun : s.ringRuns k .preempt) (hc : fld (k.w 2) 0 9 = c) (h : 288 ≤ c) :
    execPreempt s = .next (respond s.counted k Status.badArg []) :=
  ringPlain_answers hrun hrun.bad_eq rfl (by dsimp only; rw [hc, if_pos h])

theorem execPreempt_asks {s : State} {k : RingCmd} {c : Nat} (hrun : s.ringRuns k .preempt) (hc : fld (k.w 2) 0 9 = c) (h : c < 288) :
    execPreempt s = .next (respond (if (s.core c).ctx.isSome then s.push 0 0 (.switchRequest c Why.host) else s).counted k Status.ok []) :=
  ringPlain_answers hrun (by split <;> exact hrun.bad_eq) (by split <;> rfl) (by dsimp only; rw [hc, if_neg (Nat.not_le.mpr h)])

theorem startInval_facts (s : State) (k : Kill) (ctx : Option Nat) (ring : Bool) (tag : Option Nat) :
    ∃ v : Inval, (startInval s k ctx ring tag).invals = s.invals ++ [v] ∧ v.kind = k.kind ∧ v.ring = ring ∧
      (startInval s k ctx ring tag).due v.id .invalidationComplete ∧ (startInval s k ctx ring tag).host = s.host ∧
      (startInval s k ctx ring tag).mem = s.mem ∧ (startInval s k ctx ring tag).bad = s.bad :=
  ⟨_, rfl, rfl, rfl, State.due_push _ _ _ _, rfl, rfl, rfl⟩

section
variable {s : State} {k : RingCmd} {kind : Nat} (hrun : s.ringRuns k .inval) (hfree : s.invals.any (·.ring) = false) (hkind : fld (k.w 2) 0 3 = kind)
include hrun hfree hkind

theorem execInval_badKind (h : 6 ≤ kind) : execInval s = .next (respond s.counted k Status.badKind []) :=
  (if_neg (by simp [hfree])).trans
    (ringOp_answers (t := s.counted) hrun hrun.bad_eq rfl (by dsimp only; rw [hkind, if_pos h]; rfl))

theorem execInval_begins (h : kind < 6) : ∃ (t : State) (v : Inval),
    execInval s = .next t ∧ t.invals = s.invals ++ [v] ∧ v.kind = kind ∧ v.ring = true ∧
      t.due v.id .invalidationComplete ∧ t.host = s.host ∧ t.mem = s.mem := by
  obtain ⟨v, hinvals, hv, hring, hdue, hhost, hmem, hbad⟩ := startInval_facts s
    { kind := kind, world := fld (k.w 5) 0 3, anyWorld := true, asn := fld (k.w 4) 0 16, addr := (k.w 3).toNat, len := (k.w 4).toNat,
      region := fld (k.w 6) 16 16, window := fld (k.w 6) 0 7 } none true none
  refine ⟨_, v, ?_, hinvals, hv, hring, hdue, hhost, hmem⟩
  rw [execInval, if_neg (by simp [hfree]), ringOp_eq hrun]
  dsimp only
  rw [hkind, if_neg (Nat.not_le.mpr h)]
  exact fin_ok (hbad.trans hrun.bad_eq)

end

/-! ### Regions by command -/

/-- Settles O46: REGION's actions are the lemmas of `execRegionCreate`, `execRegionRefresh` and `execRegionDestroy`, with `respond_facts` for what a
response leaves; PREEMPT and INVAL are theirs. -/
theorem regionCommands : Obligations.RegionCommands := by
  intro s k r base entry addr l answers
  have hr : fld (k.w 2) 0 12 = r := fld_zero _ _
  refine ⟨fun hrun hin => ?_, fun hrun hin => ?_, fun hrun hin => ?_, fun hrun => ?_, fun hrun hfree => ?_⟩
  · have hread : readRcb s r = (s, addr, l) := readRcb_eq rfl hin
    refine ⟨execRegionCreate_badArg hr hrun, fun hlive hvalid => execRegionCreate_rcbFormat hr hrun hlive hvalid hread,
      fun hlive hvalid hok => ?_⟩
    obtain ⟨hhost, hdue, hregions⟩ := s.withRegion_facts r (.created addr l)
    obtain ⟨-, harb, hagenda, -⟩ := respond_facts (hrun.respSafe (t := (s.withRegion r (.created addr l)).counted) hhost) k Status.ok
    obtain ⟨hhead, -⟩ := hrun.respond_rests (t := (s.withRegion r (.created addr l)).counted) (st := Status.ok) hhost
    obtain ⟨haddr, hrcb, hstaged, htok⟩ := Region.created_facts addr l
    refine ⟨_, .created addr l, execRegionCreate_creates hr hrun hlive hvalid hread hok, ?_, haddr, hrcb, hstaged, State.due_congr hagenda hdue,
      hhead, htok, fun q hq => ?_⟩
    · rw [harb]
      exact (congrArg (Tab.look · r) hregions).trans (Tab.look_set_self _ _ _)
    · rw [harb]
      exact (congrArg (Tab.look · q) hregions).trans (Tab.look_set_other _ _ hq.symm)
  · have hread : readRcb s r = (s, addr, l) := readRcb_eq rfl hin
    refine ⟨execRegionRefresh_badArg hr hrun, fun hlive => execRegionRefresh_rcbFormat hr hrun hlive hread, fun x hx hok => ?_⟩
    have hlive : s.regionLive r = true := by rw [State.regionLive, hx]; rfl
    obtain ⟨-, harb, -⟩ := respond_facts (hrun.respSafe (t := (s.staging r addr l).counted) rfl) k Status.ok
    refine ⟨_, execRegionRefresh_stages hr hrun hlive hread hok, ?_, fun q hq => ?_⟩
    · rw [harb]
      exact (s.look_staging r addr l r).trans (by rw [hx, Option.map_some, Region.staging, if_pos rfl])
    · rw [harb]
      exact (s.look_staging r addr l q).trans (by rw [funext fun x => Region.staging_other hq addr l x]; exact Option.map_id')
  · refine ⟨execRegionDestroy_busy hr hrun, fun hidle hrising => ?_⟩
    obtain ⟨m, key, hexec⟩ := execRegionDestroy_destroys hr hrun hidle hin
    obtain ⟨-, harb, -⟩ := respond_facts
      (hrun.respSafe (t := (({ s with mem := m, keyed := key } : State).withoutRegion r).counted) rfl) k Status.ok
    refine ⟨_, hexec, ?_, fun g hg => ?_, fun q hq => ?_⟩
    · rw [State.regionLive, harb]
      exact congrArg Option.isSome (Tab.look_del_self hrising r)
    · rw [harb] at hg
      exact of_decide_eq_true (List.mem_filter.mp hg).2
    · rw [harb]
      exact Tab.look_del_other _ hq.symm
  · intro c
    have hc : fld (k.w 2) 0 9 = c := fld_zero _ _
    refine ⟨execPreempt_badArg hrun hc, fun hlt hfree => ?_, fun hlt hbusy => ?_⟩
    · have hexec := execPreempt_asks hrun hc hlt
      rwa [hfree] at hexec
    · have hexec := execPreempt_asks hrun hc hlt
      rwa [Option.isSome_iff_ne_none.mpr hbusy] at hexec
  · intro kind
    exact ⟨execInval_badKind hrun hfree (fld_zero _ _), execInval_begins hrun hfree (fld_zero _ _)⟩

end Sys2Proof.Machine
end

section
/-! PROOF. The budget period, pre-emption requests, YIELD, and failed die links (O37). -/

namespace Sys2Proof.Machine

/-! ### The least of a list, and the entries of a table -/

theorem leastBy_mem {α : Type} {key : α → Nat} {l : List α} {a : α} (h : leastBy key l = some a) : a ∈ l := by
  induction l generalizing a with
  | nil => cases h
  | cons x l ih =>
    unfold leastBy at h
    split at h
    · cases h
      exact List.mem_cons_self
    · next b hb =>
      split at h <;> cases h
      · exact List.mem_cons_of_mem _ (ih hb)
      · exact List.mem_cons_self

theorem leastBy_of_ne_nil {α : Type} (key : α → Nat) {l : List α} (h : l ≠ []) : ∃ a, leastBy key l = some a := by
  cases l with
  | nil => exact absurd rfl h
  | cons x l =>
    unfold leastBy
    split
    · exact ⟨_, rfl⟩
    · split <;> exact ⟨_, rfl⟩

theorem Tab.mem_of_look {α : Type} {t : Tab α} {n : Nat} {a : α} (h : Tab.look t n = some a) : (n, a) ∈ t := by
  induction t with
  | nil => cases h
  | cons p t ih =>
    obtain ⟨k, v⟩ := p
    unfold Tab.look at h
    split at h
    · next hk =>
      cases h
      rw [hk]
      exact List.mem_cons_self
    · exact List.mem_cons_of_mem _ (ih h)

theorem Tab.look_isSome_of_mem {α : Type} {t : Tab α} {n : Nat} {a : α} (h : (n, a) ∈ t) : (Tab.look t n).isSome = true := by
  induction t with
  | nil => cases h
  | cons p t ih =>
    obtain ⟨k, v⟩ := p
    unfold Tab.look
    split
    · rfl
    · next hk =>
      rcases List.mem_cons.mp h with heq | hmem
      · cases heq
        exact absurd rfl hk
      · exact ih hmem

/-- The keys of a table are those that it has an entry for. -/
theorem Tab.mem_keys_iff {α : Type} {t : Tab α} {n : Nat} : n ∈ t.map (·.1) ↔ (Tab.look t n).isSome = true := by
  rw [List.mem_map]
  constructor
  · rintro ⟨⟨k, a⟩, hmem, rfl⟩
    exact Tab.look_isSome_of_mem hmem
  · intro h
    obtain ⟨a, ha⟩ := Option.isSome_iff_exists.mp h
    exact ⟨_, Tab.mem_of_look ha, rfl⟩

/-! ### Steps to come -/

theorem State.due_pushOnce_of_due {s : State} {subj : Nat} {i : Instr} (h : s.due subj i) {delay u : Nat} {e : Instr} :
    (s.pushOnce delay u e).due subj i := (State.Sends.pushOnce s delay u e).due h

@[simp] theorem State.pushOnce_ctxs (s : State) (delay subj : Nat) (e : Instr) : (s.pushOnce delay subj e).ctxs = s.ctxs :=
  (State.Sends.pushOnce s delay subj e).ctxs

/-! ### The budget period (R194, R210) -/

/-- A pool at a period boundary: its budget, with debt carried, when it is the region's own. -/
theorem Region.period_facts (x : Region) :
    let l := x.staged.getD x.rcb
    let own (k : Nat) : Bool := (l.getD 1 0).getLsbD k
    let pool (lo : Nat) : Int := ((l.getD 9 0).toNat / 2 ^ lo % 2 ^ 16 : Nat)
    x.period.rcb = l ∧ x.period.staged = none ∧ x.period.addr = x.addr ∧
      x.period.coreTok = (if own 8 then pool 48 * 875 + min x.coreTok 0 else x.coreTok) ∧
      x.period.hbmTok = (if own 9 then pool 32 * 1024 + min x.hbmTok 0 else x.hbmTok) ∧
      x.period.fabTok = (if own 10 then pool 16 * 1024 + min x.fabTok 0 else x.fabTok) ∧
      x.period.powTok = (if own 11 then pool 0 * 14000 + min x.powTok 0 else x.powTok) := ⟨rfl, rfl, rfl, rfl, rfl, rfl, rfl⟩

/-- Writing back the fields of regions whose RCBs lie in HBM changes memory and its keys. -/
theorem foldl_writeBack_frame (l : List (Nat × Region)) (h : ∀ q ∈ l, q.2.addr + 192 ≤ 2 ^ 39) (s : State) :
    ∃ m k, l.foldl (fun s p => writeBack s p.1 p.2) s = { s with mem := m, keyed := k } := by
  induction l generalizing s with
  | nil => exact ⟨s.mem, s.keyed, rfl⟩
  | cons p l ih =>
    obtain ⟨m, k, hfirst⟩ : ∃ m k, writeBack s p.1 p.2 = { s with mem := m, keyed := k } := by
      refine State.devWrite_device (Nat.le_of_ble_eq_true rfl : 5 ≤ 7) ?_
      have hin := h p List.mem_cons_self
      rw [List.length_append, leBytes_length, leBytes_length]
      omega
    obtain ⟨m', k', hrest⟩ := ih (fun q hq => h q (List.mem_cons_of_mem _ hq)) (writeBack s p.1 p.2)
    refine ⟨m', k', ?_⟩
    rw [List.foldl_cons, hrest, hfirst]

theorem foldl_portTrain_frame (l : List (Nat × Port)) (s : State) :
    ∃ a, l.foldl (fun s p => if p.2.waits then s.push 0 p.1 .portTrainTimeout else s) s = { s with agenda := a } := by
  induction l generalizing s with
  | nil => exact ⟨s.agenda, rfl⟩
  | cons p l ih =>
    rw [List.foldl_cons]
    split
    · exact ih (s.push 0 p.1 .portTrainTimeout)
    · exact ih s

/-- The state in which a period has begun for every region. -/
def State.refilled (s : State) : State :=
  { s with tick := s.tick + 1, arb := { s.arb with regions := Tab.each (fun _ x => x.period) s.arb.regions } }

/-- The state in which the regions' fields have then been written back to their RCBs. -/
def State.writtenBack (s : State) : State := s.refilled.arb.regions.foldl (fun s p => writeBack s p.1 p.2) s.refilled

theorem State.writtenBack_facts {s : State} (h : ∀ q ∈ s.arb.regions, q.2.addr + 192 ≤ 2 ^ 39) :
    s.writtenBack.arb = s.refilled.arb ∧ s.writtenBack.bad = s.bad ∧ s.writtenBack.now = s.now := by
  have hin : ∀ q ∈ s.refilled.arb.regions, q.2.addr + 192 ≤ 2 ^ 39 := by
    intro q hq
    obtain ⟨p, hp, rfl⟩ := List.mem_map.mp hq
    exact h p hp
  obtain ⟨m, k, hwritten⟩ := foldl_writeBack_frame _ hin s.refilled
  rw [State.writtenBack, hwritten]
  exact ⟨rfl, rfl, rfl⟩

/-- What BUDGET_PERIOD does after the regions' fields are written back: other budgets are refilled, ports that wait for theirs train, and the next
period and a look for work are due. -/
theorem execBudgetPeriod_eq (s : State) : ∃ u : State, execBudgetPeriod s = fin (callArbiter
      ((u.mid.ports.foldl (fun s p => if p.2.waits then s.push 0 p.1 .portTrainTimeout else s) u).push periodCycles 0 .budgetPeriod)) ∧
    u.arb = s.writtenBack.arb ∧ u.bad = s.writtenBack.bad ∧ u.now = s.writtenBack.now := ⟨_, rfl, rfl, rfl, rfl⟩

theorem execBudgetPeriod_refills {s : State} (hbad : s.bad = none) (h : ∀ q ∈ s.arb.regions, q.2.addr + 192 ≤ 2 ^ 39) :
    ∃ t, execBudgetPeriod s = .next t ∧ (s.now + periodCycles, 0, .budgetPeriod) ∈ t.agenda ∧ t.due 0 .arbiterChoice ∧
      t.arb.regions = Tab.each (fun _ x => x.period) s.arb.regions := by
  obtain ⟨u, hexec, harb, hubad, hnow⟩ := execBudgetPeriod_eq s
  obtain ⟨harb', hbad', hnow'⟩ := State.writtenBack_facts h
  obtain ⟨a, ha⟩ := foldl_portTrain_frame u.mid.ports u
  rw [ha] at hexec
  generalize hperiod : State.push { u with agenda := a } periodCycles 0 .budgetPeriod = v at hexec
  have hmem : (s.now + periodCycles, 0, Instr.budgetPeriod) ∈ v.agenda := by
    rw [← hnow', ← hnow, ← hperiod]
    exact List.mem_append_right _ (List.mem_singleton_self _)
  obtain ⟨b, hb⟩ := v.pushOnce_frame 0 0 .arbiterChoice
  refine ⟨_, hexec.trans (fin_ok ?_), (State.Sends.pushOnce v 0 0 .arbiterChoice).agenda hmem, v.due_pushOnce 0 0 .arbiterChoice, ?_⟩
  · rw [callArbiter, State.pushOnce_bad, ← hperiod]
    exact hubad.trans (hbad'.trans hbad)
  · rw [callArbiter, hb, ← hperiod]
    exact congrArg Arbiter.regions (harb.trans harb')

/-! ### Pre-emption (R211, R213, R214, R391) -/

theorem State.funded_of_mem_needy {s : State} {p : Nat × List Nat} (h : p ∈ s.needy) : s.funded p.1 = true := by
  unfold State.needy at h
  obtain ⟨r, hr, hp⟩ := List.mem_flatMap.mp h
  have hfunded := (List.mem_filter.mp hr).2
  rcases List.mem_append.mp hp with hmask | hbound
  · split at hmask
    · obtain rfl := List.mem_singleton.mp hmask
      exact hfunded
    · cases hmask
  · obtain ⟨c, -, rfl⟩ := List.mem_map.mp hbound
    exact hfunded

section
variable {s : State} {r : Nat} {l : List Nat} (hlive : (s.arb.regions.look r).isSome = true) (hfunded : s.funded r = true)
include hlive hfunded

theorem State.mem_funded_regions : r ∈ (s.arb.regions.map (·.1)).filter s.funded :=
  List.mem_filter.mpr ⟨Tab.mem_keys_iff.mpr hlive, hfunded⟩

variable (hbusy : ∀ k ∈ l, s.coreFree k = false ∧ s.vacating k = false)
include hbusy

/-- A funded region with work for its mask, and no core of it free or coming free, needs a core. -/
theorem State.mem_needy_of_freeWork (hl : l = (List.range 288).filter (fun k => (s.maskOf s.depth r).testBit k))
    (hwork : ∃ k ∈ l, s.freeWork r k = true) : (r, l) ∈ s.needy := by
  refine List.mem_flatMap.mpr ⟨r, State.mem_funded_regions hlive hfunded, List.mem_append_left _ ?_⟩
  rw [← hl]
  have hnone : l.any (fun k => s.coreFree k || s.vacating k) = false := List.any_eq_false.mpr fun k hk => by
    obtain ⟨hfree, hvacating⟩ := hbusy k hk
    simp [hfree, hvacating]
  rw [hnone, List.any_eq_true.mpr hwork]
  exact List.mem_singleton_self _

/-- A funded region needs the busy core that one of its tasks is bound to. -/
theorem State.mem_needy_of_bound {id k : Nat} {x : Ctx} (hx : (id, x) ∈ s.absentTasks r) (hbound : s.boundCore x = some k)
    (hready : s.readyOn r k = true) (hl : l = [k]) : (r, l) ∈ s.needy := by
  subst hl
  obtain ⟨hfree, hvacating⟩ := hbusy k (List.mem_singleton_self k)
  refine List.mem_flatMap.mpr ⟨r, State.mem_funded_regions hlive hfunded, List.mem_append_right _ (List.mem_map.mpr ⟨k, ?_, rfl⟩)⟩
  refine List.mem_filter.mpr ⟨List.mem_filterMap.mpr ⟨_, hx, hbound⟩, ?_⟩
  simp [hready, hfree, hvacating]

end

theorem execPreemptRequest_halted {s : State} {p : Nat × List Nat} (hp : p ∈ s.needy) (h : ∃ k ∈ p.2, s.haltedAt k = true) :
    ∃ k, s.haltedAt k = true ∧ execPreemptRequest s = .next ((s.push 0 0 (.switchRequest k 3)).pushOnce 1 0 .preemptRequest) := by
  obtain ⟨j, hj, hhalted⟩ := h
  obtain ⟨k, hk⟩ : ∃ k, (s.needy.flatMap (·.2)).find? s.haltedAt = some k :=
    Option.isSome_iff_exists.mp (List.find?_isSome.mpr ⟨j, List.mem_flatMap.mpr ⟨p, hp, hj⟩, hhalted⟩)
  refine ⟨k, List.find?_some hk, ?_⟩
  unfold execPreemptRequest
  dsimp only
  rw [hk]

theorem execPreemptRequest_victim {s : State} {p : Nat × List Nat} (hp : p ∈ s.needy) (hnone : ∀ k, s.haltedAt k = false)
    (hv : s.victims p true ≠ []) : ∃ q ∈ s.needy, ∃ k x, (k, x) ∈ s.victims q true ∧
      execPreemptRequest s = .next ((s.push 0 0 (.switchRequest k 0)).pushOnce 1 0 .preemptRequest) := by
  have hfind : (s.needy.flatMap (·.2)).find? s.haltedAt = none := List.find?_eq_none.mpr fun k _ => by simp [hnone k]
  have hsome : p ∈ s.needy.filter (fun p => !(s.victims p true).isEmpty) := List.mem_filter.mpr ⟨hp, by simpa using hv⟩
  obtain ⟨q, hq⟩ := leastBy_of_ne_nil (fun (p : Nat × List Nat) => 32 - s.rankOf p.1) (List.ne_nil_of_mem hsome)
  obtain ⟨hneedy, hvictims⟩ := List.mem_filter.mp (leastBy_mem hq)
  obtain ⟨⟨k, x⟩, hkx⟩ := leastBy_of_ne_nil (fun (p : Nat × Ctx) => s.rankOf p.2.who.region * 2 ^ 64 + (s.now - p.2.since))
    (by simpa using hvictims : s.victims q true ≠ [])
  refine ⟨q, hneedy, k, x, leastBy_mem hkx, ?_⟩
  unfold execPreemptRequest
  dsimp only
  rw [hfind]
  dsimp only
  rw [hq]
  dsimp only
  rw [hkx]

theorem State.needy_of_no_regions {s : State} (h : s.arb.regions = []) : s.needy = [] := by
  unfold State.needy
  rw [h]
  rfl

theorem execPreemptRequest_idle {s : State} (h : s.arb.regions = []) : execPreemptRequest s = .next s := by
  unfold execPreemptRequest
  dsimp only
  rw [State.needy_of_no_regions h]
  rfl

/-- A victim stands on its core, has a lower rank than the region that needs the core, and has run 4 µs. -/
theorem State.victim_facts {s : State} {p : Nat × List Nat} {k : Nat} {x : Ctx} (hrising : Tab.rising s.cores) (h : (k, x) ∈ s.victims p true) :
    (s.core k).ctx.bind s.ctx = some x ∧ x.loc = .resident k ∧ s.rankOf x.who.region < s.rankOf p.1 ∧ x.since + 4 * usCycles ≤ s.now := by
  obtain ⟨⟨j, c⟩, hmem, hsome⟩ := List.mem_filterMap.mp h
  dsimp only at hsome
  split at hsome
  · next y hy =>
    split at hsome
    · next hall =>
      cases hsome
      obtain ⟨-, hrank, hloc, -, hripe⟩ := hall
      refine ⟨?_, hloc, hrank, hripe.resolve_left (by decide)⟩
      rw [State.core, Tab.val, Tab.look_of_mem hrising hmem]
      exact hy
    · cases hsome
  · cases hsome

/-! ### YIELD (R307) -/

/-- A region that a task which yields core `k` gives way to: it has work for the core, may be chosen, and ranks at or above the task's. -/
def State.OutranksAt (s : State) (own k r : Nat) : Prop :=
  (s.arb.regions.look r).isSome = true ∧ s.readyOn r k = true ∧ (s.eligible r true = true ∨ s.eligible r false = true) ∧
    s.rankOf own ≤ s.rankOf r

theorem State.exists_outranksAt_iff (s : State) (own k : Nat) :
    (s.arb.regions.map (·.1)).any
        (fun r => s.readyOn r k && (s.eligible r true || s.eligible r false) && decide (s.rankOf own ≤ s.rankOf r)) = true
      ↔ ∃ r, s.OutranksAt own k r := by
  simp only [List.any_eq_true, Tab.mem_keys_iff, Bool.and_eq_true, Bool.or_eq_true, decide_eq_true_eq, State.OutranksAt, and_assoc]

theorem execYield_passes {s : State} {id : Nat} {c : Ctx} (hs : s.Sees id c) (h : ¬ ∃ r, s.OutranksAt c.who.region c.anyCore r) :
    execYield s = .next (s.passes id c) :=
  slotStep_pass hs.1 (if_neg fun hany => h ((s.exists_outranksAt_iff _ _).mp hany))

theorem execYield_asks {s : State} {id : Nat} {c : Ctx} (hs : s.Sees id c) (h : ∃ r, s.OutranksAt c.who.region c.anyCore r) :
    execYield s = .next (settle s (s.push 0 0 (.switchRequest c.anyCore 4)) id) :=
  (slotStep_eq hs.1 _).trans (congrArg (fun t => Host.Outcome.next (settle s t id)) (if_pos ((s.exists_outranksAt_iff _ _).mpr h)))

/-! ### Die links (R218, R434) -/

theorem killAll_of_none {s : State} {p : Nat → Ctx → Bool} (h : ∀ q ∈ s.ctxs, p q.1 q.2 = false) : killAll s p = s := by
  have hnone : s.ctxs.filter (fun (id, c) => p id c) = [] := List.filter_eq_nil_iff.mpr fun q hq => by simp [h q hq]
  rw [killAll, hnone]
  rfl

theorem Ctx.onDie_of_away {c : Ctx} (h : c.loc = .absent ∨ c.loc = .engine) (d : Nat) : c.onDie d = false := by
  rcases h with h | h <;> simp [Ctx.onDie, h]

theorem State.die_updDie_other (s : State) {d j : Nat} (f : Die → Die) (h : j ≠ d) : (s.updDie d f).die j = s.die j :=
  (Tab.val_set _ _ _ _ _).trans (if_neg h)

@[simp] theorem State.msix_die (s : State) (v d : Nat) : (s.msix v).die d = s.die d := by
  unfold State.msix
  split <;> rfl

@[simp] theorem State.devWrite_die (s : State) (w : Who) (pa : Nat) (bs : List Byte) (d : Nat) : (s.devWrite w pa bs).die d = s.die d := by
  by_cases h : pa + bs.length ≤ 2 ^ 39
  · obtain ⟨m, k, r, hwrite⟩ := State.devWrite_frame (s := s) (w := w) h
    rw [hwrite]
    rfl
  · rw [State.devWrite, if_neg h]
    rfl

/-- A record in the log of one die changes no other die. -/
theorem logError_die_other (s : State) {d j : Nat} (h : j ≠ d) (cls req core pa region dw1 : Nat) (detail : DWord) (corrected : Bool) :
    (logError s d cls req core pa region dw1 detail corrected).die j = s.die j := by
  unfold logError
  extract_lets e ms used size allowed room rec0 rec1 bytes at_ pc written
  have hwritten : written.die j = s.die j := by
    unfold written
    split
    · rw [State.die_updDie_other _ _ h, State.devWrite_die]
    · exact s.die_updDie_other _ h
  split
  · rfl
  · split
    · rw [State.msix_die, hwritten]
    · exact hwritten

/-- The state in which link `l` no longer works. -/
def State.linkLost (s : State) (l : Nat) : State := { s with linksDown := if l ∈ s.linksDown then s.linksDown else l :: s.linksDown }

theorem State.mem_linkLost (s : State) (l k : Nat) : k ∈ (s.linkLost l).linksDown ↔ k ∈ s.linksDown ∨ k = l := by
  unfold State.linkLost
  dsimp only
  split
  · next h => exact ⟨.inl, fun hk => hk.elim id fun heq => heq ▸ h⟩
  · rw [List.mem_cons, or_comm]

/-- Compute die `l` loses its tasks and its place in service. -/
def State.dieLost (s : State) (l : Nat) : State :=
  let u := killAll (s.updDie l fun d => { d with dieen := false }) (fun _ c => c.onDie l)
  { u with cores := Tab.each (fun k c => if dieOf k = l then ({ c with selftest := 0 } : Core) else c) u.cores }

/-- The two dies that link `l` joined are parted: a grid with tasks on both keeps those on the first die. -/
def State.pairParted (s : State) (l : Nat) : State :=
  let onDie (d : Nat) : List Nat := (s.ctxs.filter (fun (_, c) => c.onDie d)).map (fun p => gridKey p.2.who.region p.2.who.grid)
  let both := ((onDie (linkDies l).1).filter (fun k => (onDie (linkDies l).2).contains k)).eraseDups
  killAll { s with arb := { s.arb with cut := s.arb.cut ++ both.map (fun k => (k, (linkDies l).2)) } }
    (fun _ c => c.onDie (linkDies l).2 && both.contains (gridKey c.who.region c.who.grid))

/-- What a lost link takes with it: a compute die, or the tasks that ran on both dies it joined. -/
def State.linkCut (s : State) (l : Nat) : State := if l < 4 then (s.linkLost l).dieLost l else (s.linkLost l).pairParted l

theorem execDieLinkFail_eq (s : State) :
    execDieLinkFail s = fin (callArbiter (logError (s.linkCut s.subj) 4 0x07 7 0x1FF 0 0 0 (BitVec.ofNat 64 s.subj) false)) :=
  rfl

theorem State.dieLost_of_away {s : State} (l : Nat) (h : ∀ q ∈ s.ctxs, q.2.loc = .absent ∨ q.2.loc = .engine) :
    (s.dieLost l).linksDown = s.linksDown ∧ (s.dieLost l).bad = s.bad ∧
      ∀ j, (s.dieLost l).die j = (s.updDie l fun d => { d with dieen := false }).die j := by
  rw [State.dieLost, killAll_of_none (s := s.updDie l _) fun q hq => Ctx.onDie_of_away (h q hq) l]
  exact ⟨rfl, rfl, fun _ => rfl⟩

theorem State.pairParted_of_away {s : State} (l : Nat) (h : ∀ q ∈ s.ctxs, q.2.loc = .absent ∨ q.2.loc = .engine) :
    (s.pairParted l).linksDown = s.linksDown ∧ (s.pairParted l).bad = s.bad ∧ ∀ j, (s.pairParted l).die j = s.die j := by
  unfold State.pairParted
  extract_lets onDie both
  rw [killAll_of_none fun q hq => by rw [Ctx.onDie_of_away (h q hq), Bool.false_and]]
  exact ⟨rfl, rfl, fun _ => rfl⟩

/-- A lost link with no task on a core: with a link of the Midfield die its compute die leaves service, and die 4 stays as it is. -/
theorem State.linkCut_of_away {s : State} (l : Nat) (h : ∀ q ∈ s.ctxs, q.2.loc = .absent ∨ q.2.loc = .engine) :
    (s.linkCut l).linksDown = (s.linkLost l).linksDown ∧ (s.linkCut l).bad = s.bad ∧ (s.linkCut l).die 4 = s.die 4 ∧
      (l < 4 → ((s.linkCut l).die l).dieen = false) := by
  unfold State.linkCut
  split
  next hmid =>
    obtain ⟨hlinks, hbad, hdie⟩ := State.dieLost_of_away (s := s.linkLost l) l h
    refine ⟨hlinks, hbad, (hdie 4).trans ((s.linkLost l).die_updDie_other _ (Nat.ne_of_gt hmid)), fun _ => ?_⟩
    exact congrArg Die.dieen ((hdie l).trans ((s.linkLost l).die_updDie l _))
  next hmid =>
    obtain ⟨hlinks, hbad, hdie⟩ := State.pairParted_of_away (s := s.linkLost l) l h
    exact ⟨hlinks, hbad, hdie 4, fun hlt => absurd hlt hmid⟩

/-- With its link to the Midfield die down, a compute die has no route there (R434). -/
theorem State.routeUp_of_down {s : State} {d : Nat} (hd : d < 4) (h : d ∈ s.linksDown) : s.routeUp d 4 = false := by
  have hroute : routeLinks d 4 = [d] := by
    unfold routeLinks
    rw [if_neg (Nat.ne_of_lt hd), if_neg (Nat.ne_of_lt hd), if_pos rfl]
  have hsome : s.linksDown.isEmpty = false := List.isEmpty_eq_false_iff.mpr (List.ne_nil_of_mem h)
  simp [State.routeUp, hroute, hsome, h]

theorem execDieLinkFail_loses {s : State} (hsafe : s.logSafe 4) (h : ∀ q ∈ s.ctxs, q.2.loc = .absent ∨ q.2.loc = .engine) :
    ∃ t, execDieLinkFail s = .next t ∧ (∀ l, l ∈ t.linksDown ↔ l ∈ s.linksDown ∨ l = s.subj) ∧ t.due 0 .arbiterChoice ∧
      (s.subj < 4 → (t.die s.subj).dieen = false) := by
  have hexec := execDieLinkFail_eq s
  obtain ⟨hlinks, hbad, hlog, hdie⟩ := State.linkCut_of_away s.subj h
  generalize s.linkCut s.subj = u at hexec hlinks hbad hlog hdie
  have husafe : u.logSafe 4 := by rwa [State.logSafe, hbad, hlog]
  have hrec := State.Records.logError husafe 0x07 7 0x1FF 0 0 0 (BitVec.ofNat 64 s.subj) false
  have hother (hlt : s.subj < 4) := logError_die_other u (Nat.ne_of_lt hlt) 0x07 7 0x1FF 0 0 0 (BitVec.ofNat 64 s.subj) false
  obtain ⟨hbad', -⟩ := hrec.keeps
  generalize logError u 4 0x07 7 0x1FF 0 0 0 (BitVec.ofNat 64 s.subj) false = v at hexec hrec hother hbad'
  refine ⟨callArbiter v, hexec.trans (fin_ok ?_), fun l => ?_, v.due_pushOnce 0 0 .arbiterChoice, fun hlt => ?_⟩
  · rw [callArbiter, State.pushOnce_bad, hbad', hbad]
    exact hsafe.1
  · obtain ⟨m, k, r, ds, ho, rfl⟩ := hrec
    rw [callArbiter, State.pushOnce_linksDown]
    exact hlinks ▸ s.mem_linkLost s.subj l
  · rw [callArbiter, State.pushOnce_die, hother hlt]
    exact hdie hlt

/-! ### Budgets and pre-emption -/

/-- Settles O37: each clause is the lemma of its step; a region that needs a core is `State.mem_needy_of_freeWork` or `State.mem_needy_of_bound`, and
who gives it up is `State.victim_facts`. -/
theorem budgetsAndPreemption : Obligations.BudgetsAndPreemption := by
  intro s hbad
  refine ⟨fun hin => ?_, fun r l hlive hfunded hneeds hbusy hrising => ?_, execPreemptRequest_idle, fun id c hs => ?_, fun hsafe hlt haway => ?_⟩
  · obtain ⟨t, hexec, hnext, hdue, hregions⟩ := execBudgetPeriod_refills hbad hin
    refine ⟨t, hexec, hnext, hdue, fun r x hx => ⟨x.period, ?_, x.period_facts⟩⟩
    rw [hregions, Tab.look_each, hx]
    rfl
  · have hneedy : (r, l) ∈ s.needy := by
      rcases hneeds with ⟨hl, hwork⟩ | ⟨id, x, k, hx, hbound, hready, hl⟩
      · exact State.mem_needy_of_freeWork hlive hfunded hbusy hl hwork
      · exact State.mem_needy_of_bound hlive hfunded hbusy hx hbound hready hl
    refine ⟨fun hhalted => ?_, fun hnone hvictims => ?_⟩
    · obtain ⟨k, hk, hexec⟩ := execPreemptRequest_halted hneedy hhalted
      exact ⟨_, k, hexec, State.due_pushOnce_of_due (State.due_push _ _ _ _), hk, State.pushOnce_ctxs _ _ _ _⟩
    · obtain ⟨q, hq, k, x, hvictim, hexec⟩ := execPreemptRequest_victim hneedy hnone hvictims
      obtain ⟨hctx, hloc, hrank, hripe⟩ := State.victim_facts hrising hvictim
      exact ⟨_, k, x, q.1, hexec, State.due_pushOnce_of_due (State.due_push _ _ _ _), hctx, hloc, hrank, State.funded_of_mem_needy hq, hripe,
        State.pushOnce_ctxs _ _ _ _⟩
  · refine ⟨execYield_passes hs, fun hany => ?_⟩
    obtain ⟨hctx, -, hagenda⟩ := settle_goes_on (s1 := s.push 0 0 (.switchRequest c.anyCore 4)) hs.1 rfl hs.1.2.1
    exact ⟨_, _, execYield_asks hs hany, State.due_congr hagenda (State.due_push _ _ _ _), hctx, rfl⟩
  · obtain ⟨t, hexec, hlinks, hdue, hdie⟩ := execDieLinkFail_loses hsafe haway
    exact ⟨t, hexec, hlinks, hdue, fun hmid => ⟨hdie hmid, State.routeUp_of_down hmid ((hlinks _).mpr (.inr rfl))⟩⟩

end Sys2Proof.Machine
end

section
/-! PROOF. Bundles decoded from their words (O58): one slot, the present slots in turn, the header. -/

namespace Sys2Proof.Laws.Enc

/-- Every constructor's encoding reads back; a step that is no slot instruction has none. -/
theorem statement_all (i : Instr) : Statement i := by
  cases i with
  | add d a b w => exact add d a b w | sub d a b w => exact sub d a b w | mul d a b w => exact mul d a b w | mulh d a b w => exact mulh d a b w
  | mulhu d a b w => exact mulhu d a b w | div d a b w => exact div d a b w | divu d a b w => exact divu d a b w
  | rem d a b w => exact rem d a b w | remu d a b w => exact remu d a b w | shl d a b w => exact shl d a b w | shr d a b w => exact shr d a b w
  | sra d a b w => exact sra d a b w | ror d a b w => exact ror d a b w | min d a b w => exact min d a b w | max d a b w => exact max d a b w
  | minu d a b w => exact minu d a b w | maxu d a b w => exact maxu d a b w | seq d a b w => exact seq d a b w
  | sne d a b w => exact sne d a b w | slt d a b w => exact slt d a b w | sltu d a b w => exact sltu d a b w | and d a b => exact and d a b
  | or d a b => exact or d a b | xor d a b => exact xor d a b | andn d a b => exact andn d a b | bset d a b => exact bset d a b
  | bclr d a b => exact bclr d a b | addi d a imm => exact addi d a imm | andi d a imm => exact andi d a imm | ori d a imm => exact ori d a imm
  | xori d a imm => exact xori d a imm | slti d a imm => exact slti d a imm | shli d a n w => exact shli d a n w
  | shri d a n w => exact shri d a n w | srai d a n w => exact srai d a n w | clz d a w => exact clz d a w | ctz d a w => exact ctz d a w
  | popc d a w => exact popc d a w | madd d a b c => exact madd d a b c | sel d a b c => exact sel d a b c
  | ext d a pos lenM1 => exact ext d a pos lenM1 | extu d a pos lenM1 => exact extu d a pos lenM1 | ins d a pos lenM1 => exact ins d a pos lenM1
  | movi d imm => exact movi d imm | movk d k imm => exact movk d k imm | lea d a b n => exact lea d a b n
  | fadd d a b fmt rc => exact fadd d a b fmt rc | fsub d a b fmt rc => exact fsub d a b fmt rc | fmul d a b fmt rc => exact fmul d a b fmt rc
  | ffma d a b fmt rc => exact ffma d a b fmt rc | fmin d a b fmt => exact fmin d a b fmt | fmax d a b fmt => exact fmax d a b fmt
  | feq d a b fmt => exact feq d a b fmt | flt d a b fmt => exact flt d a b fmt | fle d a b fmt => exact fle d a b fmt
  | fcvt d a dst fmt rc => exact fcvt d a dst fmt rc | ftoi d a u w fmt rc => exact ftoi d a u w fmt rc
  | itof d a u w fmt rc => exact itof d a u w fmt rc | fsgn d a b fmt op => exact fsgn d a b fmt op | fclass d a fmt => exact fclass d a fmt
  | ld d a size u off => exact ld d a size u off | st b a size off => exact st b a size off | ldx d a b size u n => exact ldx d a b size u n
  | stx c a b size n => exact stx c a b size n | amoadd d a b sc dw => exact amoadd d a b sc dw | amoand d a b sc dw => exact amoand d a b sc dw
  | amoor d a b sc dw => exact amoor d a b sc dw | amoxor d a b sc dw => exact amoxor d a b sc dw
  | amoswap d a b sc dw => exact amoswap d a b sc dw | amocas d a b sc dw => exact amocas d a b sc dw
  | amomin d a b sc dw u => exact amomin d a b sc dw u | amomax d a b sc dw u => exact amomax d a b sc dw u
  | amofmax d a b sc => exact amofmax d a b sc | amofadd d a b sc => exact amofadd d a b sc | hset hd a f => exact hset hd a f
  | hget d ha f => exact hget d ha f | hadv hd ha b => exact hadv hd ha b | hdim hd a b k => exact hdim hd a b k
  | br cond a b off => exact br cond a b off | jmp off => exact jmp off | jr a => exact jr a | call off => exact call off
  | callr a => exact callr a | loop a sreg nM1 endOff => exact loop a sreg nM1 endOff | loopi cnt endOff => exact loopi cnt endOff
  | lbrk kM1 => exact lbrk kM1 | waitc nl ns nx nm => exact waitc nl ns nx nm | waitb n => exact waitb n | phase sc m p => exact phase sc m p
  | fence sc => exact fence sc | bar n v => exact bar n v | arm n c nv node => exact arm n c nv node | bwait n => exact bwait n
  | bwaitTry n d => exact bwaitTry n d | spawn d t g => exact spawn d t g | grow d k => exact grow d k | close d g => exact close d g
  | enq d q v => exact enq d q v | deq d q e => exact deq d q e | trap code => exact trap code | sys code => exact sys code
  | crr d num => exact crr d num | crw a num => exact crw a num | fqpop a => exact fqpop a | bkpt code => exact bkpt code
  | setstep slot k a => exact setstep slot k a | tlbiPage a b => exact tlbiPage a b | tlbiAsn a b => exact tlbiAsn a b
  | tlbiWindow a => exact tlbiWindow a | tlbiHost a b => exact tlbiHost a b
  | mma t ha hb fp ka kb row0 col0 => exact mma t ha hb fp ka kb row0 col0
  | mmax t ha hb fp ka kb row0 col0 => exact mmax t ha hb fp ka kb row0 col0
  | mmaq t ha hb z ka kb row0 col0 => exact mmaq t ha hb z ka kb row0 col0 | mzero mask => exact mzero mask
  | mrank t k dir => exact mrank t k dir | mkat q sum => exact mkat q sum | mpop b n => exact mpop b n | maddt t u i => exact maddt t u i
  | mcopy t u => exact mcopy t u | mthr d t first cntM1 => exact mthr d t first cntM1 | vadd hd ha b rc bs => exact vadd hd ha b rc bs
  | vsub hd ha b rc bs => exact vsub hd ha b rc bs | vmul hd ha b rc bs => exact vmul hd ha b rc bs
  | vfma hd ha b rc bs => exact vfma hd ha b rc bs | vmin hd ha b rc bs => exact vmin hd ha b rc bs
  | vmax hd ha b rc bs => exact vmax hd ha b rc bs | vabs hd ha rc => exact vabs hd ha rc | vneg hd ha rc => exact vneg hd ha rc
  | vrcp hd ha rc => exact vrcp hd ha rc | vrsq hd ha rc => exact vrsq hd ha rc | vlog2 hd ha rc => exact vlog2 hd ha rc
  | vexp hd ha rc base2 => exact vexp hd ha rc base2 | vtblLoad ha t => exact vtblLoad ha t | vtbl hd ha t rc => exact vtbl hd ha t rc
  | vcmp hd ha hb cond => exact vcmp hd ha hb cond | vsel hd ha hb rc hm => exact vsel hd ha hb rc hm
  | vcvt hd ha rc sat => exact vcvt hd ha rc sat | vred hd ha rc op => exact vred hd ha rc op | vamax hd ha => exact vamax hd ha
  | vscan hd ha rc ex => exact vscan hd ha rc ex | vpush hd ha hb sc => exact vpush hd ha hb sc | vpop hd ha hb sc => exact vpop hd ha hb sc
  | vhist hd ha clr => exact vhist hd ha clr | viota hd b rc => exact viota hd b rc | vmov hd ha => exact vmov hd ha
  | vmovScalar hd b => exact vmovScalar hd b | vshuf hd ha hb => exact vshuf hd ha hb | ppack hd ha rc sat => exact ppack hd ha rc sat
  | punpk hd ha => exact punpk hd ha | pscale hd ha s rc => exact pscale hd ha s rc | pqnt hd ha s rc sat => exact pqnt hd ha s rc sat
  | pdq hd ha rc => exact pdq hd ha rc | ptrn hd ha w32 => exact ptrn hd ha w32 | pbcast hd ha => exact pbcast hd ha
  | pperm hd ha s => exact pperm hd ha s | sldt a => exact sldt a | sldb a => exact sldb a | sseti t byte => exact sseti t byte
  | smode m => exact smode m | cpy hd ha c sc ct tgt => exact cpy hd ha c sc ct tgt | cpym hd ha c sc ct tgt => exact cpym hd ha c sc ct tgt
  | cpys hd ha c sc ct tgt => exact cpys hd ha c sc ct tgt | gath hd ha c sc ct tgt => exact gath hd ha c sc ct tgt
  | scat hd ha c sc ct tgt => exact scat hd ha c sc ct tgt | drain hd t c sc ct tgt => exact drain hd t c sc ct tgt
  | drainkSel hd t c sc ct tgt => exact drainkSel hd t c sc ct tgt | drainkMerge u t c sc => exact drainkMerge u t c sc
  | rst hd ha c sc ct tgt => exact rst hd ha c sc ct tgt | rld hd ha c sc ct tgt => exact rld hd ha c sc ct tgt
  | ramo hd ha c sc ct tgt => exact ramo hd ha c sc ct tgt | rred hd ha c sc ct tgt => exact rred hd ha c sc ct tgt
  | rmcast hd ha c sc ct tgt => exact rmcast hd ha c sc ct tgt | rmergeCx hd t c sc ct tgt => exact rmergeCx hd t c sc ct tgt
  | rmergeSw hd t c sc => exact rmergeSw hd t c sc | cntx hd ha c sc ct tgt => exact cntx hd ha c sc ct tgt
  | disp hd ha c sc ct tgt => exact disp hd ha c sc ct tgt | post n a => exact post n a | xcanCancel d a => exact xcanCancel d a
  | xcanReplay d a => exact xcanReplay d a | xcanAll d => exact xcanAll d | xstatId d a => exact xstatId d a
  | xstatLast d a => exact xstatLast d a | nopAlu => exact nopAlu | nopCtl => exact nopCtl | ret => exact ret | done => exact done
  | eret => exact eret | yield => exact yield | tlbiWorld => exact tlbiWorld | tlbiWindows => exact tlbiWindows | halt => exact halt
  | nopMat => exact nopMat | mcommit => exact mcommit | nopVec => exact nopVec | nopPrm => exact nopPrm | nopScl => exact nopScl
  | nopXfr => exact nopXfr  | _ => exact statement_of_event rfl

end Sys2Proof.Laws.Enc

namespace Sys2Proof

/-! ### One slot (R232, R234) -/

theorem bb_eq_testBit (w lo : Nat) : bb w lo = w.testBit lo := by
  rw [bb, Nat.testBit_eq_decide_div_mod_eq, beq_eq_decide]

/-- The extension word of a slot instruction; 0 where it has none (R232). -/
def SlotOp.extWord (op : SlotOp) : Nat := op.words.getD 1 0

/-- The slot word of a slot instruction, whose bit 31 tells of an extension word (R232). -/
def SlotOp.slotWord (op : SlotOp) : Nat := op.words.getD 0 0

theorem Guard.eq_none_of_wf {op : SlotOp} (hwf : op.wf = true) (hx : op.x = false) : op.guard = Guard.none := by
  obtain ⟨x, ⟨reg, bit, pol⟩, i⟩ := op
  subst hx
  simp only [SlotOp.wf, Bool.false_or, Bool.and_eq_true, Bool.or_eq_true, bne_iff_ne, beq_iff_eq, Bool.not_eq_true'] at hwf
  obtain ⟨⟨⟨⟨-, hfields⟩, hreg⟩, -⟩, -⟩ := hwf
  obtain ⟨hbit, hpol⟩ := hfields.resolve_left (not_not.mpr hreg)
  rw [hreg, hbit, hpol, Guard.none]

theorem parseGuard_extWord (g : Guard) {e : Nat} (he : e < 524288) :
    parseGuard (g.reg.toNat * 67108864 + g.bit.toNat * 1048576 + g.pol.toNat * 524288 + e) = g := by
  obtain ⟨reg, bit, pol⟩ := g
  have hreg := reg.isLt
  have hbit := bit.isLt
  have hpol := pol.toNat_lt
  unfold parseGuard
  congr 1
  · exact bf_eq (by dsimp only; omega)
  · exact bf_eq (by dsimp only; omega)
  · exact bb_eq (by dsimp only; omega)

theorem SlotOp.instr_wf {op : SlotOp} (hwf : op.wf = true) : op.instr.wf = true := by
  simp only [SlotOp.wf, Bool.and_eq_true] at hwf
  exact hwf.1.1.1.1

theorem decodeSlot_of_parts {sp : Space} {w e : Nat} {op : SlotOp} (hx : bb w 31 = op.x) (hparse : parseSpace sp op.x w e = some op.instr)
    (hguard : parseGuard e = op.guard) (hwf : op.wf = true) : decodeSlot sp w e = some op := by
  unfold decodeSlot
  simp only [hx, hparse, hguard]
  exact if_pos hwf

/-- The words of a well-formed slot instruction: its slot word, its extension word where it has one; the slot decodes from them. -/
theorem SlotOp.words_decode {op : SlotOp} {sp : Space} {ws : List Nat} (hwf : op.wf = true) (hfit : op.x = true ∨ op.instr.fitsNoExt = true)
    (henc : encode op = some (sp, ws)) :
    op.words = op.slotWord :: (if op.x then [op.extWord] else []) ∧ bb op.slotWord 31 = op.x ∧
      decodeSlot sp op.slotWord op.extWord = some op := by
  cases hfields : op.instr.fields with
  | none => simp [encode, hfields] at henc
  | some f =>
    obtain ⟨sp', code, w, e⟩ := f
    obtain ⟨rfl, -⟩ : sp' = sp ∧ op.words = ws := by simpa [encode, hfields] using henc
    obtain ⟨hcode, hw, he, hparse⟩ := Laws.Enc.statement_all op.instr _ _ _ _ hfields (SlotOp.instr_wf hwf)
    cases hx : op.x with
    | true =>
      have hwords : op.words = [2147483648 + code * 16777216 + w,
          op.guard.reg.toNat * 67108864 + op.guard.bit.toNat * 1048576 + op.guard.pol.toNat * 524288 + e] := by
        simp [SlotOp.words, hfields, hx]
      have hbit : bb (2147483648 + code * 16777216 + w) 31 = true := bb_eq (b := true) (by simp only [Bool.toNat_true]; omega)
      simp only [SlotOp.slotWord, SlotOp.extWord, hwords, List.getD_cons_zero, List.getD_cons_succ, if_true, true_and]
      refine ⟨hbit, decodeSlot_of_parts (hbit.trans hx.symm) ?_ (parseGuard_extWord op.guard he) hwf⟩
      rw [hx]
      exact hparse true _ _ (by omega) (by omega) (by rw [if_pos rfl]; omega) (.inl rfl)
    | false =>
      have hwords : op.words = [code * 16777216 + w] := by simp [SlotOp.words, hfields, hx]
      have hbit : bb (code * 16777216 + w) 31 = false := bb_eq (b := false) (by simp only [Bool.toNat_false]; omega)
      simp only [SlotOp.slotWord, SlotOp.extWord, hwords, List.getD_cons_zero, List.getD_cons_succ, List.getD_nil, Bool.false_eq_true, if_false,
        true_and]
      refine ⟨hbit, decodeSlot_of_parts (hbit.trans hx.symm) ?_ ((by rfl : parseGuard 0 = Guard.none).trans (Guard.eq_none_of_wf hwf hx).symm) hwf⟩
      rw [hx]
      exact hparse false _ _ (by omega) (by omega) rfl (hx ▸ hfit)

/-! ### The present slots in turn (R232) -/

/-- A slot instruction that stands in a bundle's slot with the encoding rules of its space met, as R231, R232 and R234 ask. -/
def StandsIn (p : Nat × SlotOp) : Prop :=
  p.1 < 8 ∧ p.2.wf = true ∧ (p.2.x = true ∨ p.2.instr.fitsNoExt = true) ∧ ∃ ws, encode p.2 = some (slotSpace p.1, ws)

/-- A slot as it is read: its number, slot word, extension word or 0. -/
def rawSlot (p : Nat × SlotOp) : Nat × Nat × Nat := (p.1, p.2.slotWord, p.2.extWord)

/-- The present slots are read one after another, whatever the words after them are. -/
theorem readSlots_words {present : Nat} {rest : List Nat} {ks : List Nat} {ops : List (Nat × SlotOp)} (hks : ks.Nodup)
    (hsub : (ops.map (·.1)).Sublist ks) (hpresent : ∀ k ∈ ks, bb present (7 - k) = decide (k ∈ ops.map (·.1))) (hops : ∀ p ∈ ops, StandsIn p) :
    readSlots present ks (ops.flatMap (fun p => p.2.words) ++ rest) = some (ops.map rawSlot, rest) := by
  induction ks generalizing ops with
  | nil =>
    rw [List.sublist_nil, List.map_eq_nil_iff] at hsub
    subst hsub
    rfl
  | cons k ks ih =>
    obtain ⟨hk, hnodup⟩ := List.nodup_cons.mp hks
    have hhere := hpresent k List.mem_cons_self
    have hlater : ∀ j ∈ ks, bb present (7 - j) = decide (j ∈ ops.map (·.1)) := fun j hj => hpresent j (List.mem_cons_of_mem k hj)
    unfold readSlots
    rcases List.sublist_cons_iff.mp hsub with hsub | ⟨later, heq, hsub⟩
    · rw [decide_eq_false fun hmem => hk (hsub.subset hmem)] at hhere
      rw [hhere, if_neg Bool.false_ne_true]
      exact ih hnodup hsub hlater hops
    · obtain ⟨p, ops, rfl, rfl, rfl⟩ := List.map_eq_cons_iff.mp heq
      obtain ⟨⟨-, hwf, hfit, ws, henc⟩, hops⟩ := List.forall_mem_cons.mp hops
      obtain ⟨hwords, hx, -⟩ := SlotOp.words_decode hwf hfit henc
      have hnext : readSlots present ks (ops.flatMap (fun p => p.2.words) ++ rest) = some (ops.map rawSlot, rest) := by
        refine ih hnodup hsub (fun j hj => (hlater j hj).trans (decide_eq_decide.mpr ?_)) hops
        have hne : j ≠ p.1 := fun h => hk (h ▸ hj)
        rw [List.map_cons, List.mem_cons, or_iff_right hne]
      rw [decide_eq_true (by rw [List.map_cons]; exact List.mem_cons_self)] at hhere
      rw [hhere, if_pos rfl, List.flatMap_cons, hwords, List.cons_append, List.cons_append]
      dsimp only
      rw [hx]
      cases hext : p.2.x with
      | true =>
        simp only [if_true, List.cons_append, List.nil_append, hnext]
        rfl
      | false =>
        rw [if_neg Bool.false_ne_true, if_neg Bool.false_ne_true, List.nil_append, hnext]
        have hnoext : p.2.extWord = 0 := by rw [SlotOp.extWord, hwords, hext]; rfl
        simp only [List.map_cons, rawSlot, hnoext]

theorem decodeOps_rawSlots {ops : List (Nat × SlotOp)} (hops : ∀ p ∈ ops, StandsIn p) : decodeOps (ops.map rawSlot) = some ops := by
  induction ops with
  | nil => rfl
  | cons p ops ih =>
    obtain ⟨⟨-, hwf, hfit, ws, henc⟩, hops⟩ := List.forall_mem_cons.mp hops
    obtain ⟨-, -, hdecode⟩ := SlotOp.words_decode hwf hfit henc
    simp only [List.map_cons, rawSlot, decodeOps, hdecode, ih hops]

theorem bundleBytes_rawSlots {ops : List (Nat × SlotOp)} (hops : ∀ p ∈ ops, StandsIn p) :
    bundleBytes (ops.map rawSlot) = 4 + (ops.map (fun p => if p.2.x then 8 else 4)).sum := by
  unfold bundleBytes
  rw [List.map_map]
  congr 2
  refine List.map_congr_left fun p hp => ?_
  obtain ⟨-, hwf, hfit, ws, henc⟩ := hops p hp
  obtain ⟨-, hx, -⟩ := SlotOp.words_decode hwf hfit henc
  simp only [Function.comp_apply, rawSlot, hx]

/-! ### The header (R231) -/

theorem sum_two_pow_lt {l : List Nat} {n : Nat} (hl : l.Pairwise (· > ·)) (hlt : ∀ e ∈ l, e < n) : (l.map (2 ^ ·)).sum < 2 ^ n := by
  induction l generalizing n with
  | nil => exact Nat.two_pow_pos n
  | cons e l ih =>
    obtain ⟨hfirst, hrest⟩ := List.pairwise_cons.mp hl
    calc ((e :: l).map (2 ^ ·)).sum = 2 ^ e + (l.map (2 ^ ·)).sum := by rw [List.map_cons, List.sum_cons]
      _ < 2 ^ e + 2 ^ e := Nat.add_lt_add_left (ih hrest hfirst) _
      _ = 2 ^ (e + 1) := by rw [pow_succ, Nat.mul_two]
      _ ≤ 2 ^ n := Nat.pow_le_pow_right Nat.two_pos (hlt e List.mem_cons_self)

/-- A sum of falling powers of two has just their bits set. -/
theorem testBit_sum_two_pow {l : List Nat} (hl : l.Pairwise (· > ·)) (k : Nat) : (l.map (2 ^ ·)).sum.testBit k = decide (k ∈ l) := by
  induction l with
  | nil => simp
  | cons e l ih =>
    obtain ⟨hfirst, hrest⟩ := List.pairwise_cons.mp hl
    have hlow := sum_two_pow_lt hrest hfirst
    rw [List.map_cons, List.sum_cons]
    rcases Nat.lt_trichotomy k e with hk | rfl | hk
    · rw [Nat.testBit_two_pow_add_gt hk, ih hrest]
      simp [Nat.ne_of_lt hk]
    · rw [Nat.testBit_two_pow_add_eq, Nat.testBit_lt_two_pow hlow]
      simp
    · have hnot : k ∉ e :: l := by
        rw [List.mem_cons, not_or]
        exact ⟨Nat.ne_of_gt hk, fun hmem => Nat.lt_asymm hk (hfirst k hmem)⟩
      rw [decide_eq_false hnot]
      refine Nat.testBit_lt_two_pow (Nat.lt_of_lt_of_le ?_ (Nat.pow_le_pow_right Nat.two_pos hk))
      rw [Nat.succ_eq_add_one, pow_succ, Nat.mul_two]
      exact Nat.add_lt_add_left hlow _

theorem presentBits_eq_sum (ops : List (Nat × SlotOp)) :
    (ops.map (fun p => 2 ^ (7 - p.1))).sum = ((ops.map (fun p => 7 - p.1)).map (2 ^ ·)).sum := by
  rw [List.map_map]
  rfl

section
variable {ops : List (Nat × SlotOp)} (hrising : ops.Pairwise (fun p q => p.1 < q.1)) (hlt : ∀ p ∈ ops, p.1 < 8)
include hrising hlt

theorem slotBits_falling : (ops.map (fun p => 7 - p.1)).Pairwise (· > ·) := by
  refine List.pairwise_map.mpr (hrising.imp_of_mem fun {p q} hp hq hpq => ?_)
  have := hlt q hq
  omega

theorem presentBits_lt : (ops.map (fun p => 2 ^ (7 - p.1))).sum < 256 := by
  rw [presentBits_eq_sum]
  refine sum_two_pow_lt (n := 8) (slotBits_falling hrising hlt) fun e he => ?_
  obtain ⟨p, -, rfl⟩ := List.mem_map.mp he
  omega

/-- The header marks just the slots that stand in the bundle. -/
theorem bb_presentBits {k : Nat} (hk : k < 8) : bb (ops.map (fun p => 2 ^ (7 - p.1))).sum (7 - k) = decide (k ∈ ops.map (·.1)) := by
  rw [bb_eq_testBit, presentBits_eq_sum, testBit_sum_two_pow (slotBits_falling hrising hlt)]
  refine decide_eq_decide.mpr ?_
  simp only [List.mem_map]
  refine exists_congr fun p => and_congr_right fun hp => ?_
  have := hlt p hp
  omega

theorem slots_sublist : (ops.map (·.1)).Sublist [0, 1, 2, 3, 4, 5, 6, 7] := by
  have hnodup : (ops.map (·.1)).Nodup := List.pairwise_map.mpr (hrising.imp Nat.ne_of_lt)
  have hsubset : ops.map (·.1) ⊆ [0, 1, 2, 3, 4, 5, 6, 7] := by
    intro k hk
    obtain ⟨p, hp, rfl⟩ := List.mem_map.mp hk
    have hk := List.mem_range.mpr (hlt p hp)
    exact hk
  exact List.sublist_of_subperm_of_pairwise (r := (· ≤ ·)) (hnodup.subperm hsubset)
    (List.pairwise_map.mpr (hrising.imp Nat.le_of_lt)) (by decide)
end

/-- The fields of a header around which its slots are given. -/
theorem header_fields (b : Bundle) (hpresent : (b.ops.map (fun p => 2 ^ (7 - p.1))).sum < 256) :
    zfe b.header 0 4 1 = true ∧ b.header / 16777216 % 256 = (b.ops.map (fun p => 2 ^ (7 - p.1))).sum ∧ bf 4 b.header 20 = b.reps ∧ bf 16 b.header 4 = b.grants := by
  have hreps := b.reps.isLt
  have hgrants := b.grants.isLt
  unfold Bundle.header
  generalize (b.ops.map (fun p => 2 ^ (7 - p.1))).sum = m at hpresent ⊢
  exact ⟨zfe_eq (by omega), by omega, bf_eq (by omega), bf_eq (by omega)⟩

theorem decodeBundle_of_parts {h : Nat} {ws rest : List Nat} {raw : List (Nat × Nat × Nat)} {ops : List (Nat × SlotOp)} {b : Bundle}
    (hversion : zfe h 0 4 1 = true) (hread : readSlots (h / 16777216 % 256) [0, 1, 2, 3, 4, 5, 6, 7] ws = some (raw, rest))
    (hops : decodeOps raw = some ops) (hb : { reps := bf 4 h 20, grants := bf 16 h 4, ops := ops, bytes := bundleBytes raw } = b)
    (hlegal : b.legal = true) : decodeBundle (h :: ws) = some (b, rest) := by
  subst hb
  unfold decodeBundle
  simp only [hversion, hread, hops, if_true, hlegal]

end Sys2Proof

namespace Sys2Proof.Machine

/-- Settles O58: the header's bits name the present slots, whose words are read in turn and decode one by one. -/
theorem decodeEncodeBundles : Obligations.DecodeEncodeBundles := by
  unfold Obligations.DecodeEncodeBundles
  intro b rest hlegal hrising hops hbytes
  have hlt : ∀ p ∈ b.ops, p.1 < 8 := fun p hp => (hops p hp).1
  obtain ⟨hversion, hpresent, hreps, hgrants⟩ := header_fields b (presentBits_lt hrising hlt)
  have hread : readSlots (b.header / 16777216 % 256) [0, 1, 2, 3, 4, 5, 6, 7] (b.ops.flatMap (fun p => p.2.words) ++ rest)
      = some (b.ops.map rawSlot, rest) := by
    rw [hpresent]
    exact readSlots_words (by decide) (slots_sublist hrising hlt) (fun k hk => bb_presentBits hrising hlt (by revert k; decide)) hops
  refine decodeBundle_of_parts hversion hread (decodeOps_rawSlots hops) ?_ hlegal
  rw [hreps, hgrants, bundleBytes_rawSlots hops, ← hbytes]

end Sys2Proof.Machine
end

section
/-! PROOF. Hardware loops open, trap, break and take their back-edge (O10). -/

namespace Sys2Proof.Machine

/-! ### The loop state (R252) -/

theorem bit_eq_fld (w : DWord) (k : Nat) : bit w k = decide (fld w k 1 = 1) := by
  rw [bit, BitVec.getLsbD, Nat.testBit_eq_decide_div_mod_eq, fld, pow_one]

theorem bit_setFld_above (w : DWord) {lo n k : Nat} (v : Nat) (h : lo + n ≤ 64) (hk : lo + n ≤ k) : bit (setFld w lo n v) k = bit w k := by
  rw [bit_eq_fld, bit_eq_fld, fld_setFld_above w v h hk]

theorem bit_setFld_below (w : DWord) {lo n k : Nat} (v : Nat) (h : lo + n ≤ 64) (hk : k + 1 ≤ lo) : bit (setFld w lo n v) k = bit w k := by
  rw [bit_eq_fld, bit_eq_fld, fld_setFld_below w v h hk]

theorem Sticky.depth_lt (k : Sticky) : k.depth < 8 := Nat.mod_lt _ (by decide)

/-- No staged level is among those that close down to a depth. -/
theorem Sticky.closeTo_of_unstaged {k : Sticky} {d : Nat} (h : ¬ (k.sv = true ∧ d ≤ k.slevel)) :
    k.closeTo d = { k with lstate := setFld k.lstate 0 3 d } := if_neg h

theorem Sticky.closeTo_of_staged {k : Sticky} {d : Nat} (h : k.sv = true ∧ d ≤ k.slevel) :
    k.closeTo d = { k with lstate := setFld (setFld (setFld k.lstate 0 3 d) 6 1 0) 4 2 0, stage := 0 } := if_pos h

theorem Sticky.depth_closeTo (k : Sticky) {d : Nat} (hd : d < 8) : (k.closeTo d).depth = d := by
  by_cases h : k.sv = true ∧ d ≤ k.slevel
  · rw [Sticky.closeTo_of_staged h, Sticky.depth, fld_setFld_below _ _ (by decide) (by decide), fld_setFld_below _ _ (by decide) (by decide),
      fld_setFld_self _ _ (by decide), Nat.mod_eq_of_lt (show d < 2 ^ 3 from hd)]
  · rw [Sticky.closeTo_of_unstaged h, Sticky.depth, fld_setFld_self _ _ (by decide), Nat.mod_eq_of_lt (show d < 2 ^ 3 from hd)]

theorem Sticky.closeTo_lc (k : Sticky) (d : Nat) : (k.closeTo d).lc = k.lc := by
  unfold Sticky.closeTo
  split <;> rfl

theorem Sticky.closeTo_lend (k : Sticky) (d : Nat) : (k.closeTo d).lend = k.lend := by
  unfold Sticky.closeTo
  split <;> rfl

/-- A staged level that closes takes SV and STAGE with it (R301). -/
theorem Sticky.staged_closeTo {k : Sticky} {d : Nat} (h : k.sv = true ∧ d ≤ k.slevel) : (k.closeTo d).sv = false ∧ (k.closeTo d).stage = 0 := by
  rw [Sticky.closeTo_of_staged h]
  refine ⟨?_, rfl⟩
  rw [Sticky.sv, bit_setFld_above _ _ (by decide) (by decide), bit_eq_fld, fld_setFld_self _ _ (by decide)]
  rfl

theorem Sticky.unstaged_closeTo {k : Sticky} {d : Nat} (h : ¬ (k.sv = true ∧ d ≤ k.slevel)) :
    (k.closeTo d).sv = k.sv ∧ (k.closeTo d).stage = k.stage := by
  rw [Sticky.closeTo_of_unstaged h]
  refine ⟨?_, rfl⟩
  rw [Sticky.sv, Sticky.sv, bit_setFld_above _ _ (by decide) (by decide)]

/-! ### LOOP and LOOPI (R253, R300) -/

/-- A body that a new level may have: it ends after its beginning, and within the level around it (R253). -/
def Sticky.Fits (k : Sticky) (lbeg lend : Nat) : Prop := lbeg < lend ∧ (0 < k.depth → lend ≤ (k.lend.val 0 (k.depth - 1)).toNat)

section
variable {s : State} {id : Nat} {c : Ctx} (hacting : s.Acting id c) (hwas : s.was c = c)
include hwas

theorem State.srcRegs_of_was : s.srcRegs c = c.regs := by rw [State.srcRegs, hwas]

theorem State.pcOf_of_was : s.pcOf c = c.regs.pc := by rw [State.pcOf, State.srcRegs_of_was hwas]

theorem State.nextPc_of_was : s.nextPc c = c.regs.pc + s.issue.len := by rw [State.nextPc, State.pcOf_of_was hwas]

theorem openLoop_skips {endOff nM1 : Nat} {sreg : BitVec 6} (ha : (c.regs.pc + 4 * endOff) % 4 = 0) :
    openLoop s id c 0 endOff sreg nM1 = { s with issue := { s.issue with goto := some (c.regs.pc + 4 * endOff), noEdge := true } } := by
  unfold openLoop
  rw [State.pcOf_of_was hwas]
  exact State.goTo_aligned ha s

theorem openLoop_traps {n endOff nM1 : Nat} {sreg : BitVec 6} (hn : 0 < n)
    (h : c.regs.st.depth = 4 ∨ c.regs.pc + 4 * endOff ≤ c.regs.pc + s.issue.len ∨
      (0 < c.regs.st.depth ∧ (c.regs.st.lend.val 0 (c.regs.st.depth - 1)).toNat < c.regs.pc + 4 * endOff) ∨ (sreg ≠ 0 ∧ c.regs.st.sv = true)) :
    openLoop s id c n endOff sreg nM1 = s.raise Cause.loopState 0 := by
  unfold openLoop
  rw [State.pcOf_of_was hwas, State.nextPc_of_was hwas, State.srcRegs_of_was hwas]
  exact (if_neg (Nat.ne_of_gt hn)).trans (if_pos h)

include hacting

/-- A legal body opens a level; a staged one sets its predicate register to 1. -/
theorem openLoop_opens {n endOff nM1 : Nat} {sreg : BitVec 6} (hn : 0 < n) (hdepth : c.regs.st.depth < 4)
    (hfits : c.regs.st.Fits (c.regs.pc + s.issue.len) (c.regs.pc + 4 * endOff)) (hstaged : sreg ≠ 0 → c.regs.st.sv = false) :
    openLoop s id c n endOff sreg nM1 = s.setCtx id { c with
      regs := ({ c.regs with st := c.regs.st.open' n (c.regs.pc + s.issue.len) (c.regs.pc + 4 * endOff) sreg nM1 } : Regs).setS sreg 1 } := by
  obtain ⟨-, hctx, -⟩ := hacting
  obtain ⟨hbody, houter⟩ := hfits
  unfold openLoop
  rw [State.pcOf_of_was hwas, State.nextPc_of_was hwas, State.srcRegs_of_was hwas]
  have hlegal : ¬ (c.regs.st.depth = 4 ∨ c.regs.pc + 4 * endOff ≤ c.regs.pc + s.issue.len ∨
      (0 < c.regs.st.depth ∧ (c.regs.st.lend.val 0 (c.regs.st.depth - 1)).toNat < c.regs.pc + 4 * endOff) ∨ (sreg ≠ 0 ∧ c.regs.st.sv = true)) := by
    rintro (h | h | ⟨h, h'⟩ | ⟨h, h'⟩)
    · omega
    · omega
    · exact Nat.not_lt.mpr (houter h) h'
    · rw [hstaged h] at h'
      cases h'
  dsimp only
  rw [if_neg (Nat.ne_of_gt hn), if_neg hlegal, State.updSt, State.updCtx_eq hctx]
  by_cases hsreg : sreg = 0
  · subst hsreg
    rw [if_pos rfl]
    rfl
  · rw [if_neg hsreg, State.wrS, State.updCtx_setCtx]
    rfl

end

theorem openLoop_of_small {s : State} {id : Nat} {c : Ctx} {a sreg : BitVec 6} {nM1 : BitVec 3} {endOff : BitVec 28} {x : State}
    (hsmall : (s.rs c a).toNat < 2 ^ 32) (hopen : openLoop s id c (s.rs c a).toNat endOff.toNat sreg nM1.toNat = x) :
    (if 2 ^ 32 ≤ (s.rs c a).toNat then s.raise Cause.loopState 0 else openLoop s id c (s.rs c a).toNat endOff.toNat sreg nM1.toNat) = x :=
  (if_neg (Nat.not_le.mpr hsmall)).trans hopen

/-- The unstaged level that LOOP or LOOPI opens. -/
theorem Sticky.open'_unstaged (k : Sticky) (n b e nM1 : Nat) :
    k.open' n b e 0 nM1 = { k with
      lc := k.lc.put 0 k.depth (BitVec.ofNat 32 (n - 1)), lbeg := k.lbeg.put 0 k.depth (BitVec.ofNat 64 b)
      lend := k.lend.put 0 k.depth (BitVec.ofNat 64 e), lstate := setFld k.lstate 0 3 (k.depth + 1) } := by
  unfold Sticky.open'
  exact if_pos rfl

theorem Sticky.open'_staged (k : Sticky) {sreg : BitVec 6} (h : sreg ≠ 0) (n b e nM1 : Nat) :
    k.open' n b e sreg nM1 = { k with
      lc := k.lc.put 0 k.depth (BitVec.ofNat 32 (n - 1)), lbeg := k.lbeg.put 0 k.depth (BitVec.ofNat 64 b)
      lend := k.lend.put 0 k.depth (BitVec.ofNat 64 e), lstate := setFld (setFld (setFld k.lstate 0 3 (k.depth + 1)) 4 2 k.depth) 6 1 1
      stage := BitVec.ofNat 64 (sreg.toNat * 2 ^ 16 + nM1 * 2 ^ 8 + 1) } := if_neg h

/-! ### The registers a task goes on with -/

@[simp] theorem State.after_st (s : State) (r : Regs) : (s.after r).st = r.st := by
  unfold State.after
  split <;> rfl

@[simp] theorem State.after_s (s : State) (r : Regs) : (s.after r).s = r.s := by
  unfold State.after
  split <;> rfl

@[simp] theorem State.after_h (s : State) (r : Regs) : (s.after r).h = r.h := by
  unfold State.after
  split <;> rfl

theorem State.after_pc_of_off {s : State} (h : s.issue.on = false) (r : Regs) : (s.after r).pc = r.pc + s.issue.len := by
  rw [State.after, if_neg (by rw [h]; exact Bool.false_ne_true)]

/-! ### LBRK (R301) -/

/-- A slot that only takes the back-edge test from its bundle goes on otherwise. -/
theorem settle_noEdge {s s1 : State} {id : Nat} {c x : Ctx} (h : s.Acting id c) (hissue : s1.issue = { s.issue with noEdge := true })
    (hx : s1.ctx id = some x) :
    (settle s s1 id).ctx id = some { x with regs := s.after x.regs } ∧ (settle s s1 id).mem = s1.mem ∧
      (s.issue.on = true → (settle s s1 id).issue.noEdge = true) := by
  obtain ⟨-, -, htrap, hgoto, hstall, hsent⟩ := h
  unfold settle State.after
  by_cases hon : s.issue.on = true
  · rw [if_pos hon, if_pos hon]
    exact ⟨hx, rfl, fun _ => by rw [hissue]⟩
  · simp only [hon, hissue, htrap, hgoto, hstall, hsent, Bool.false_eq_true, if_false, false_implies, and_true]
    exact ⟨State.ctx_updCtx (s := { s1 with issue := s.issue }) hx _, State.updCtx_mem _ _ _⟩

theorem execLbrk_closes {s : State} {id : Nat} {c : Ctx} (hacting : s.Acting id c) (hwas : s.was c = c) {kM1 : BitVec 2}
    (hopen : kM1.toNat + 1 ≤ c.regs.st.depth) :
    ∃ t, execLbrk kM1 s = .next t ∧
      t.ctx id = some { c with regs := s.after { c.regs with st := c.regs.st.closeTo (c.regs.st.depth - (kM1.toNat + 1)) } } ∧
      t.mem = s.mem ∧ (s.issue.on = true → t.issue.noEdge = true) := by
  refine ⟨_, slotStep_eq hacting _, ?_⟩
  dsimp only
  rw [State.srcRegs_of_was hwas, if_neg (Nat.not_lt.mpr hopen), State.updSt, State.updCtx_eq hacting.2.1]
  exact settle_noEdge (s1 := { s.setCtx id _ with issue := { s.issue with noEdge := true } }) hacting rfl (s.ctx_setCtx id _)

/-! ### The back-edge (R254, R256) -/

section
variable {c : Ctx} {stop : Nat} (hdepth : 0 < c.regs.st.depth) (hsv : c.regs.st.sv = false)
  (hend : (c.regs.st.lend.val 0 (c.regs.st.depth - 1)).toNat = stop)
include hdepth hsv hend

theorem backEdge_repeats (hlc : c.regs.st.lc.val 0 (c.regs.st.depth - 1) ≠ 0) (n : Nat) :
    backEdge stop (n + 1) { st := c.regs.st, goto := none, pred := none, out := false } =
      { st := { c.regs.st with lc := c.regs.st.lc.put 0 (c.regs.st.depth - 1) (c.regs.st.lc.val 0 (c.regs.st.depth - 1) - 1) }
        goto := some (c.regs.st.lbeg.val 0 (c.regs.st.depth - 1)).toNat, pred := none, out := false } := by
  rw [backEdge]
  simp only [Nat.ne_of_gt hdepth, hend, hsv, hlc, if_false, ne_eq, not_true_eq_false, Bool.false_eq_true, false_and]

/-- The innermost level closes with its last pass, and the level around it ends elsewhere. -/
theorem backEdge_closes (hlc : c.regs.st.lc.val 0 (c.regs.st.depth - 1) = 0)
    (houter : c.regs.st.depth - 1 = 0 ∨ (c.regs.st.lend.val 0 (c.regs.st.depth - 1 - 1)).toNat ≠ stop) (n : Nat) :
    backEdge stop (n + 2) { st := c.regs.st, goto := none, pred := none, out := false } =
      { st := c.regs.st.closeTo (c.regs.st.depth - 1), goto := none, pred := none, out := false } := by
  have hlt := c.regs.st.depth_lt
  rw [backEdge]
  simp only [Nat.ne_of_gt hdepth, hend, hsv, hlc, if_false, if_true, ne_eq, not_true_eq_false, Bool.false_eq_true, false_and]
  rw [backEdge]
  simp only [Sticky.depth_closeTo c.regs.st (show c.regs.st.depth - 1 < 8 by omega), Sticky.closeTo_lend]
  rcases houter with h | h
  · exact if_pos h
  · rw [if_pos h]
    exact ite_self _

end

/-- Settles O10: LOOP, LOOPI and LBRK by what opening and closing levels does, the back-edge by its first tests. -/
theorem loops : Obligations.Loops := by
  refine ⟨?opens, ?traps, ?breaks, ?edge⟩
  case opens =>
    intro s id c a p nM1 off cnt off27 hacting hwas hdepth
    refine ⟨fun hn ha => ?_, fun hcnt ha => ?_, fun hcnt hfits => ?_, fun hn hlt hfits hp => ?_, fun hn hlt hfits hp hsv => ?_⟩
    · refine slotStep_jump hacting (openLoop_of_small (by omega) ?_)
      rw [hn]
      exact openLoop_skips hwas ha
    · refine slotStep_jump hacting ?_
      rw [hcnt]
      exact openLoop_skips hwas ha
    · have hpos : 0 < cnt.toNat := Nat.pos_of_ne_zero fun h => hcnt (BitVec.eq_of_toNat_eq h)
      refine slotStep_regs hacting ((openLoop_opens hacting hwas hpos hdepth hfits (fun h => absurd rfl h)).trans ?_)
      rw [Sticky.open'_unstaged]
      rfl
    · subst hp
      refine slotStep_regs hacting (openLoop_of_small hlt ((openLoop_opens hacting hwas hn hdepth hfits (fun h => absurd rfl h)).trans ?_))
      rw [Sticky.open'_unstaged]
      rfl
    · refine slotStep_regs hacting (openLoop_of_small hlt ((openLoop_opens hacting hwas hn hdepth hfits (fun _ => hsv)).trans ?_))
      rw [Sticky.open'_staged _ hp]
  case traps =>
    intro s id c a p nM1 off kM1 hsees
    have hwas := hsees.was_eq
    refine ⟨fun h => slotStep_raise hsees.1 ?_ (by decide), fun h => slotStep_raise hsees.1 ?_ (by decide)⟩
    · by_cases hbig : 2 ^ 32 ≤ (s.rs c a).toNat
      · exact if_pos hbig
      · obtain ⟨hn, hbad⟩ := h.resolve_left hbig
        exact openLoop_of_small (Nat.not_le.mp hbig) (openLoop_traps hwas hn hbad)
    · rw [State.srcRegs_of_was hwas]
      exact if_pos h
  case breaks =>
    intro s id c kM1 hacting hwas hopen
    obtain ⟨t, hexec, hctx, hmem, hedge⟩ := execLbrk_closes hacting hwas hopen
    have hd : c.regs.st.depth - (kM1.toNat + 1) < 8 := Nat.lt_of_le_of_lt (Nat.sub_le _ _) c.regs.st.depth_lt
    refine ⟨t, hexec, _, hctx, ?_⟩
    simp only [State.after_st, State.after_s, State.after_h, true_and]
    exact ⟨Sticky.depth_closeTo _ hd, Sticky.staged_closeTo, Sticky.unstaged_closeTo, Sticky.closeTo_lc _ _, hmem, hedge,
      fun hoff => State.after_pc_of_off hoff _⟩
  case edge =>
    intro c stop hdepth hsv k d hend
    refine ⟨fun hlc => ?_, fun hlc houter => ?_⟩
    · unfold edgeCtx
      rw [backEdge_repeats hdepth hsv hend hlc]
      exact ⟨rfl, rfl, rfl⟩
    · unfold edgeCtx
      rw [backEdge_closes hdepth hsv hend hlc houter]
      have hlt := c.regs.st.depth_lt
      exact ⟨rfl, Sticky.depth_closeTo _ (by omega)⟩

end Sys2Proof.Machine
end

section
/-! PROOF. Control registers, step registers and NOPs (O11). -/

namespace Sys2Proof.Machine

/-! ### FPCTL (R175) -/

theorem getLsbD_setFld (w : DWord) {lo n : Nat} (v : Nat) (h : lo + n ≤ 64) (i : Nat) :
    (setFld w lo n v).getLsbD i = if lo ≤ i ∧ i < lo + n then (v % 2 ^ n).testBit (i - lo) else w.getLsbD i := by
  rw [BitVec.getLsbD, setFld, BitVec.toNat_ofNat, Nat.testBit_mod_two_pow, testBit_replaceBits _ _ (Nat.mod_lt _ (Nat.two_pow_pos n))]
  by_cases hi : i < 64
  · rw [decide_eq_true hi, Bool.true_and, BitVec.getLsbD]
  · rw [decide_eq_false hi, Bool.false_and, if_neg (by omega), BitVec.getLsbD_of_ge _ _ (Nat.not_lt.mp hi)]

/-- A write of FPCTL keeps its flags and controls, and RM where the write names no mode. -/
theorem fpWrite_eq (old v : DWord) : fpWrite old v = (v &&& 0xF08) ||| (if 5 ≤ v.toNat % 8 then old &&& 7 else v &&& 7) := by
  have hmode : fld v 0 3 = v.toNat % 8 := fld_zero v 3
  unfold fpWrite
  rw [hmode]
  by_cases h : 5 ≤ v.toNat % 8
  · dsimp only
    rw [if_pos h, if_pos h]
    refine BitVec.eq_of_getLsbD_eq fun i hi => ?_
    rw [getLsbD_setFld _ _ (by decide), BitVec.getLsbD_or, BitVec.getLsbD_and, BitVec.getLsbD_and, BitVec.getLsbD_and]
    by_cases hlow : i < 3
    · have hmask : ∀ i < 3, (0xF08 : DWord).getLsbD i = false ∧ (7 : DWord).getLsbD i = true := by decide
      obtain ⟨h8, h7⟩ := hmask i hlow
      rw [if_pos ⟨Nat.zero_le i, by omega⟩, h8, h7, Bool.and_false, Bool.false_or, Bool.and_true, fld_zero, Nat.mod_mod, Nat.sub_zero,
        Nat.testBit_mod_two_pow, decide_eq_true hlow, Bool.true_and, BitVec.getLsbD]
    · have hmask : ∀ i < 64, ¬ i < 3 → (0x0F0F : DWord).getLsbD i = (0xF08 : DWord).getLsbD i ∧ (7 : DWord).getLsbD i = false := by decide
      obtain ⟨h8, h7⟩ := hmask i hi hlow
      rw [if_neg (by omega), h8, h7, Bool.and_false, Bool.or_false]
  · dsimp only
    rw [if_neg h, if_neg h, ← BitVec.and_or_distrib_left]
    rfl

/-! ### CRR and CRW (R229, R230, R381) -/

section
variable {s : State} {id : Nat} {c : Ctx} (hacting : s.Acting id c)
include hacting

theorem execCrr_eq (d : BitVec 6) (n : BitVec 12) : execCrr d n s = .next (s.result id c d (crRead s id (s.was c) n.toNat)) :=
  slotStep_regs hacting (State.wrS_eq hacting.2.1 d _)

theorem execCrw_eq (a : BitVec 6) (n : BitVec 12) : execCrw a n s = .next (s.ends id c (crWrite c.regs n.toNat (s.rs c a))) :=
  slotStep_regs hacting (State.updCtx_eq hacting.2.1 _)

/-- CRW of a register by its number, given what the write leaves. -/
theorem execCrw_number {a : BitVec 6} {n : Nat} {r : Regs} (hn : n < 2 ^ 12) (hr : crWrite c.regs n (s.rs c a) = r) :
    exec (.crw a (BitVec.ofNat 12 n)) s = .next (s.ends id c r) := by
  refine (execCrw_eq hacting a _).trans ?_
  rw [BitVec.toNat_ofNat, Nat.mod_eq_of_lt hn, hr]

end

section
variable (r : Regs) (v : DWord) {k : Nat}

theorem crWrite_lc (hk : k < 4) : crWrite r (0x01C + k) v = { r with st := { r.st with lc := r.st.lc.put 0 k (v.setWidth 32) } } := by
  simp (disch := omega) only [crWrite, if_neg, if_pos, Nat.add_sub_cancel_left, lo32]

theorem crWrite_mb (hk : k < 8) : crWrite r (0x020 + k) v = { r with mb := r.mb.put 0 k v } := by
  simp (disch := omega) only [crWrite, if_neg, if_pos, Nat.add_sub_cancel_left]

theorem crWrite_step (hk : k < 12) : crWrite r (0x040 + k) v = { r with st := { r.st with steps := r.st.steps.put 0 k (v.setWidth 32) } } := by
  simp (disch := omega) only [crWrite, if_neg, if_pos, Nat.add_sub_cancel_left, lo32]

theorem crWrite_tscr (hk : k < 4) : crWrite r (0x088 + k) v = { r with tscr := r.tscr.put 0 k v } := by
  simp (disch := omega) only [crWrite, if_neg, if_pos, Nat.add_sub_cancel_left]

theorem crWrite_savedStep (hk : k < 12) :
    crWrite r (0x0A0 + k) v = { r with sv := { r.sv with steps := r.sv.steps.put 0 k (v.setWidth 32) } } := by
  simp (disch := omega) only [crWrite, if_neg, if_pos, Nat.add_sub_cancel_left, lo32]

theorem crWrite_savedLc (hk : k < 4) : crWrite r (0x0B8 + k) v = { r with sv := { r.sv with lc := r.sv.lc.put 0 k (v.setWidth 32) } } := by
  simp (disch := omega) only [crWrite, if_neg, if_pos, Nat.add_sub_cancel_left, lo32]

end

/-! ### FQPOP (R387) -/

/-- With nothing waiting, the head record goes and nothing takes its place. -/
theorem popRecord_eq {s : State} {id : Nat} {c : Ctx} {f : FRec} {rest : List FRec} (hctx : s.ctx id = some c) (hfq : c.xf.fq = f :: rest)
    (hwait : c.xf.waitq = []) : popRecord s id = s.setCtx id { c with xf := { c.xf with fq := rest } } := by
  unfold popRecord
  simp only [hctx, hfq, hwait, List.drop_succ_cons, List.drop_zero, List.drop_nil]

/-- Settles O11, by what CRR reads, what CRW leaves of the registers, and the frame of a slot instruction. -/
theorem controlRegisters : Obligations.ControlRegisters := by
  refine ⟨?reads, ?writes, ?steps⟩
  case reads =>
    intro s id c d n v hacting x r hmem
    refine (execCrr_eq hacting d n).trans ?_
    refine congrArg (fun v => Host.Outcome.next (s.result id c d v)) ((?_ : ∀ p ∈ _, crRead s id (s.was c) p.1 = p.2) _ hmem)
    simp only [List.forall_mem_cons]
    simp [crRead, stepRead, sx32, b2n, r, x]
  case writes =>
    intro s id c a k hacting r v w one rm put
    refine ⟨execCrw_number hacting (by decide) ?_, execCrw_number hacting (by decide) rfl, execCrw_number hacting (by decide) rfl,
      execCrw_number hacting (by decide) rfl, fun hk => execCrw_number hacting (by omega) (crWrite_lc _ _ hk),
      fun hk => execCrw_number hacting (by omega) (crWrite_mb _ _ hk), fun hk => execCrw_number hacting (by omega) (crWrite_step _ _ hk),
      execCrw_number hacting (by decide) rfl, execCrw_number hacting (by decide) rfl, execCrw_number hacting (by decide) ?_,
      fun hk => execCrw_number hacting (by omega) (crWrite_tscr _ _ hk), fun hk => execCrw_number hacting (by omega) (crWrite_savedStep _ _ hk),
      fun hk => execCrw_number hacting (by omega) (crWrite_savedLc _ _ hk), fun hk => ?_⟩
    · exact congrArg (fun w => ({ c.regs with fpctl := w } : Regs)) (fpWrite_eq c.regs.fpctl v)
    · exact congrArg (fun n => ({ c.regs with trptc := n } : Regs)) (fld_zero v 4)
    · have hkeeps := (?_ : ∀ n ∈ (_ : List Nat), n < 2 ^ 12 ∧ crWrite c.regs n v = c.regs) k hk
      · exact execCrw_number hacting hkeeps.1 hkeeps.2
      · simp [crWrite]
  case steps =>
    intro s id c slot k a hacting
    refine ⟨slotStep_regs hacting (State.updCtx_eq hacting.2.1 _), fun i hi => ?_, fun f rest hfq hwait => ?_⟩
    · have hpass : ∀ i ∈ [Instr.nopAlu, .nopCtl, .nopMat, .nopVec, .nopPrm, .nopScl, .nopXfr], exec i s = slotStep s fun _ _ => s := by
        simp only [List.forall_mem_cons]
        exact ⟨rfl, rfl, rfl, rfl, rfl, rfl, rfl, fun _ h => absurd h (List.not_mem_nil)⟩
      rw [hpass i hi]
      exact slotStep_pass hacting rfl
    · exact ⟨_, _, slotStep_setCtx hacting (popRecord_eq hacting.2.1 hfq hwait), s.ctx_setCtx id _, rfl, rfl, rfl⟩

end Sys2Proof.Machine
end

section
/-! PROOF. Handlers start clean and return to what they interrupted (O60); words of the spec decode (O55). -/

namespace Sys2Proof.Machine

/-! ### Trap entry and return (R244, R382, R384) -/

/-- The end of a debugger's step changes nothing of a task but its debugger's view (R390). -/
theorem State.ctx_endStep {s : State} {id : Nat} {c : Ctx} (h : s.ctx id = some c) : ∃ d, (s.endStep id).ctx id = some { c with dbg := d } := by
  unfold State.endStep
  rw [h]
  dsimp only
  split
  · exact ⟨_, s.ctx_setCtx id _⟩
  · exact ⟨c.dbg, h⟩

theorem trapEntry_enters {s : State} {id : Nat} {c : Ctx} {t : Trap} (hctx : s.ctx id = some c) (hin : c.regs.inTrap = false)
    (hvec : c.regs.tvec ≠ 0) : ∃ x, (trapEntry s id t).ctx id = some x ∧ x.regs.sv = c.regs.st ∧ x.regs.st = c.regs.st.entered := by
  unfold trapEntry
  rw [hctx]
  dsimp only
  rw [hin, if_neg (fun h => Bool.false_ne_true h.1), if_neg hvec]
  obtain ⟨d, hd⟩ := State.ctx_endStep (State.ctx_setCtx s id _)
  exact ⟨_, hd, rfl, rfl⟩

/-- The registers to which a trap returns: what entry saved is back, and the handler is left (R384). -/
def Regs.resumed (r : Regs) : Regs := { r with st := r.sv, rptc := r.trptc, pc := r.tpc.toNat % 2 ^ 56, inTrap := false }

theorem trapReturn_aligned {r : Regs} (h : r.tpc.toNat % 4 = 0) : trapReturn r = some r.resumed := if_neg (not_not.mpr h)

section
variable {s : State} {id : Nat} {c : Ctx} (hacting : s.Acting id c) (hin : c.regs.inTrap = true) (ha : c.regs.tpc.toNat % 4 = 0)
include hacting hin ha

theorem execEret_eq : execEret s = .next (settle s ((s.setCtx id { c with regs := c.regs.resumed }).goTo c.regs.resumed.pc) id) := by
  have hctx := hacting.2.1
  refine (slotStep_eq hacting _).trans ?_
  rw [hin, if_neg (fun h => Bool.false_ne_true h.symm), trapReturn_aligned ha]
  dsimp only
  rw [State.updCtx_eq hctx]
  rfl

/-- ERET in a handler whose TPC is aligned brings the interrupted state back. -/
theorem execEret_restores : ∃ t x, execEret s = .next t ∧ t.ctx id = some x ∧ x.regs.st = c.regs.sv := by
  have hpc : c.regs.resumed.pc % 4 = 0 := by
    unfold Regs.resumed
    dsimp only
    omega
  have hafter := settle_goes_to (s1 := s.setCtx id { c with regs := c.regs.resumed }) hacting rfl (s.ctx_setCtx id _) hpc
  refine ⟨_, _, execEret_eq hacting hin ha, hafter.1, ?_⟩
  dsimp only
  split <;> rfl

end

/-- Settles O60: entry saves the sticky state and clears it, ERET takes what was saved. -/
theorem handlersStartClean : Obligations.HandlersStartClean := by
  refine ⟨fun s id c t hctx hin hvec => ?_, fun s id c halone hin ha => execEret_restores halone.1 hin ha⟩
  obtain ⟨x, hx, hsaved, hclean⟩ := trapEntry_enters (t := t) hctx hin hvec
  refine ⟨x, hx, hsaved, ?_, fun k => ?_⟩
  · rw [hclean]
    exact (by decide : fld 0 0 3 = 0)
  · rw [hclean]
    rfl

/-! ### Words of the spec -/

/-- Settles O55, by decoding the words. -/
theorem decodeWords : Obligations.DecodeWords := by
  refine ⟨by decide, by decide, by decide, by decide, by decide, by decide, by decide, by decide, by decide, _, rfl, by decide⟩

end Sys2Proof.Machine
end

section
/-! PROOF. Waits, and barriers that arm, count and fire (O21). -/

namespace Sys2Proof.Machine

/-! ### Tables with an entry that may go back to the default -/

theorem Tab.mem_set {α : Type} {t : Tab α} {n : Nat} {a : α} {p : Nat × α} (h : p ∈ Tab.set t n a) : p = (n, a) ∨ p ∈ t := by
  induction t with
  | nil => exact .inl (List.mem_singleton.mp h)
  | cons q t ih =>
    obtain ⟨k, v⟩ := q
    unfold Tab.set at h
    split at h
    · exact List.mem_cons.mp h
    · split at h
      · exact (List.mem_cons.mp h).imp_right (List.mem_cons_of_mem _)
      · rcases List.mem_cons.mp h with rfl | h
        · exact .inr List.mem_cons_self
        · exact (ih h).imp_right (List.mem_cons_of_mem _)

theorem Tab.rising_set {α : Type} {t : Tab α} (ht : t.rising) (n : Nat) (a : α) : (Tab.set t n a).rising := by
  induction t with
  | nil => exact List.pairwise_singleton _ _
  | cons p t ih =>
    obtain ⟨k, v⟩ := p
    obtain ⟨hfirst, hrest⟩ := List.pairwise_cons.mp ht
    unfold Tab.set
    split
    · next hlt => exact List.pairwise_cons.mpr ⟨List.forall_mem_cons.mpr ⟨hlt, fun q hq => Nat.lt_trans hlt (hfirst q hq)⟩, ht⟩
    · next hle =>
      split
      · next heq => exact List.pairwise_cons.mpr ⟨fun q hq => heq ▸ hfirst q hq, hrest⟩
      · next hne =>
        refine List.pairwise_cons.mpr ⟨fun q hq => ?_, ih hrest⟩
        rcases Tab.mem_set hq with rfl | hq
        · exact Nat.lt_of_le_of_ne (Nat.not_lt.mp hle) hne
        · exact hfirst q hq

theorem Tab.del_sublist {α : Type} (t : Tab α) (n : Nat) : (Tab.del t n).Sublist t := by
  induction t with
  | nil => exact List.Sublist.slnil
  | cons p t ih =>
    obtain ⟨k, v⟩ := p
    unfold Tab.del
    split
    · exact List.sublist_cons_self _ _
    · exact ih.cons_cons _

section
variable {α : Type} [DecidableEq α]

theorem Tab.rising_put (d : α) {t : Tab α} (ht : t.rising) (n : Nat) (a : α) : (Tab.put d t n a).rising := by
  unfold Tab.put
  split
  · exact ht.sublist (Tab.del_sublist t n)
  · exact Tab.rising_set ht n a

theorem Tab.val_put_self (d : α) {t : Tab α} (ht : t.rising) (n : Nat) (a : α) : Tab.val d (Tab.put d t n a) n = a := by
  unfold Tab.val Tab.put
  split
  · next h => rw [Tab.look_del_self ht, h, Option.getD_none]
  · rw [Tab.look_set_self, Option.getD_some]

theorem Tab.val_put_other (d : α) (t : Tab α) {n m : Nat} (a : α) (h : n ≠ m) : Tab.val d (Tab.put d t n a) m = Tab.val d t m := by
  unfold Tab.val Tab.put
  split
  · rw [Tab.look_del_other _ h]
  · rw [Tab.look_set_other _ _ h]

end

/-! ### One barrier (R303) -/

theorem Ctx.bar_setBar_self {c : Ctx} (h : Tab.rising c.xf.bars) (n : Nat) (b : Barrier) : (c.setBar n b).bar n = b := Tab.val_put_self _ h n b

theorem Ctx.bar_setBar_other (c : Ctx) {n k : Nat} (b : Barrier) (h : k ≠ n) : (c.setBar n b).bar k = c.bar k :=
  Tab.val_put_other _ _ b (Ne.symm h)

/-- COUNT stays between the ends of its range (R303). -/
theorem satCount_eq (k : Int) : satCount k = max (-2147483648) (min k 2147483647) := rfl

/-! ### The check after a change (R304) -/

/-- The image of a task on a core does not follow it (R401). -/
theorem syncImage_of_here {s : State} {id : Nat} {c : Ctx} (hctx : s.ctx id = some c) (haway : c.away = false) (off : Nat) (f : Ctx → List Byte) :
    syncImage s id off f = s := by
  unfold syncImage
  rw [hctx]
  exact if_neg (haway ▸ Bool.false_ne_true)

/-- A task on a core whose barrier has fired: the posted records of the barrier leave with it. -/
def Ctx.fires (c : Ctx) (n : Nat) : Ctx :=
  let mine := c.xf.posted.filter (fun p => decide (p.bar = n))
  let c' := c.setBar n { c.bar n with armed := false, fired := true, gen := ((c.bar n).gen + 1) % 2 ^ 32, posted := 0 }
  { c' with
    xf := { c'.xf with posted := c.xf.posted.filter (fun p => decide (p.bar ≠ n)), fired := c.xf.fired ++ mine }
    ph := { c'.ph with nr := c'.ph.nr || mine.any (fun p => decide (p.phase = c.ph.no)) } }

section
variable {s : State} {id : Nat} {c : Ctx} (hctx : s.ctx id = some c) (haway : c.away = false) {n : Nat}
include hctx haway

theorem barCheck_stays (h : (c.bar n).armed = false ∨ 0 < (c.bar n).count) : barCheck s id n = s := by
  have hnot : ¬ ((c.bar n).armed = true ∧ (c.bar n).count ≤ 0) := by
    rintro ⟨harmed, hcount⟩
    rcases h with h | h
    · rw [h] at harmed
      cases harmed
    · omega
  unfold barCheck
  rw [hctx]
  exact (if_neg hnot).trans (syncImage_of_here hctx haway _ _)

theorem barCheck_fires (harmed : (c.bar n).armed = true) (hcount : (c.bar n).count ≤ 0) :
    (barCheck s id n).ctx id = some (c.fires n) ∧ (barCheck s id n).mem = s.mem ∧ (barCheck s id n).issue = s.issue ∧
      ((c.bar n).nv = true → (barCheck s id n).due 0 (.nodeDecrement c.who.region (c.bar n).node)) := by
  have hfires : barCheck s id n =
      if (c.bar n).nv then nodeDec (wake (s.setCtx id (c.fires n)) id) c.who.region (c.bar n).node else wake (s.setCtx id (c.fires n)) id := by
    have hsync : syncBar (wake (s.setCtx id (c.fires n)) id) id n = wake (s.setCtx id (c.fires n)) id :=
      syncImage_of_here (c := c.fires n) ((wake_ctx _ _ _).trans (s.ctx_setCtx id _)) haway _ _
    unfold barCheck
    rw [hctx]
    dsimp only
    rw [if_pos ⟨harmed, hcount⟩, haway]
    exact congrArg (fun t => if (c.bar n).nv then nodeDec t c.who.region (c.bar n).node else t) hsync
  obtain ⟨a, hwake⟩ := wake_frame (s.setCtx id (c.fires n)) id
  rw [hfires, hwake]
  split
  · exact ⟨s.ctx_setCtx id _, rfl, rfl, fun _ => State.due_push _ _ _ _⟩
  · next hnv => exact ⟨s.ctx_setCtx id _, rfl, rfl, fun h => absurd h hnv⟩

end

theorem Ctx.bar_fires_self {c : Ctx} (h : Tab.rising c.xf.bars) (n : Nat) :
    (c.fires n).bar n = { c.bar n with armed := false, fired := true, gen := ((c.bar n).gen + 1) % 2 ^ 32, posted := 0 } :=
  Ctx.bar_setBar_self h n _

theorem Ctx.bar_fires_other (c : Ctx) {n k : Nat} (h : k ≠ n) : (c.fires n).bar k = c.bar k := Ctx.bar_setBar_other c _ h

/-! ### A slot that changes a barrier (R305) -/

/-- What a slot leaves that has changed barrier n of its task and no other. -/
def State.Bars (s : State) (id : Nat) (c : Ctx) (n : Nat) (r : Regs) (o : Host.Outcome State Fault Refusal) (post : State → Ctx → Prop) : Prop :=
  ∃ t x, o = .next t ∧ t.ctx id = some x ∧ x.regs = s.after r ∧ t.mem = s.mem ∧ post t x ∧ ∀ k, k ≠ n → x.bar k = c.bar k

section
variable {s : State} {id : Nat} {c : Ctx} (hacting : s.Acting id c) {n : Nat} {f : Nat → Ctx → State}
include hacting

theorem slotStep_bars {u : State} {x : Ctx} (hf : f id c = u) (hissue : u.issue = s.issue) (hx : u.ctx id = some x) (hmem : u.mem = s.mem)
    {post : State → Ctx → Prop} (hpost : ∀ t, t.agenda = u.agenda → post t { x with regs := s.after x.regs })
    (hother : ∀ k, k ≠ n → x.bar k = c.bar k) : s.Bars id c n x.regs (slotStep s f) post := by
  subst hf
  obtain ⟨hctx', hmem', hagenda⟩ := settle_goes_on hacting hissue hx
  exact ⟨_, _, slotStep_eq hacting f, hctx', rfl, hmem'.trans hmem, hpost _ hagenda, hother⟩

variable (haway : c.away = false) (hrising : Tab.rising c.xf.bars) {b : Barrier} {ph : Phases}
include haway hrising

theorem slotStep_barCheck_fires (hf : f id c = barCheck (s.setCtx id { c.setBar n b with ph := ph }) id n) (harmed : b.armed = true)
    (hcount : b.count ≤ 0) :
    s.Bars id c n c.regs (slotStep s f) fun t x =>
      (x.bar n = { b with armed := false, fired := true, gen := (b.gen + 1) % 2 ^ 32, posted := 0 } ∧
        x.xf.fired = c.xf.fired ++ c.xf.posted.filter (fun p => decide (p.bar = n)) ∧
        x.xf.posted = c.xf.posted.filter (fun p => decide (p.bar ≠ n)) ∧ (b.nv = true → t.due 0 (.nodeDecrement c.who.region b.node))) ∧
      (ph.nr = true → x.ph.nr = true) := by
  have hbar : ({ c.setBar n b with ph := ph } : Ctx).bar n = b := Ctx.bar_setBar_self hrising n b
  obtain ⟨hx, hmem, hissue, hdue⟩ :=
    barCheck_fires (n := n) (s.ctx_setCtx id { c.setBar n b with ph := ph }) haway (by rw [hbar]; exact harmed) (by rw [hbar]; exact hcount)
  refine slotStep_bars hacting hf hissue hx hmem (fun t ht => ⟨⟨?_, rfl, rfl, fun hnv => ?_⟩, fun hnr => ?_⟩) fun k hk => ?_
  · exact (Ctx.bar_fires_self (c := { c.setBar n b with ph := ph }) (Tab.rising_put _ hrising n b) n).trans (by rw [hbar])
  · rw [hbar] at hdue
    exact State.due_congr ht (hdue hnv)
  · exact Bool.or_eq_true_iff.mpr (.inl hnr)
  · exact (Ctx.bar_fires_other _ hk).trans (Ctx.bar_setBar_other c b hk)

omit hacting in
theorem barCheck_setBar_stays (s : State) (hstays : b.armed = false ∨ 0 < b.count) :
    barCheck (s.setCtx id { c.setBar n b with ph := ph }) id n = s.setCtx id { c.setBar n b with ph := ph } := by
  have hbar : ({ c.setBar n b with ph := ph } : Ctx).bar n = b := Ctx.bar_setBar_self hrising n b
  exact barCheck_stays (c := { c.setBar n b with ph := ph }) (s.ctx_setCtx id _) haway (by rw [hbar]; exact hstays)

theorem slotStep_barCheck_stays (hf : f id c = barCheck (s.setCtx id { c.setBar n b with ph := ph }) id n)
    (hstays : b.armed = false ∨ 0 < b.count) :
    s.Bars id c n c.regs (slotStep s f) fun _ x =>
      (x.bar n = b ∧ x.xf.posted = c.xf.posted ∧ x.xf.fired = c.xf.fired) ∧ (ph.nr = true → x.ph.nr = true) := by
  have hbar : ({ c.setBar n b with ph := ph } : Ctx).bar n = b := Ctx.bar_setBar_self hrising n b
  exact slotStep_bars hacting (hf.trans (barCheck_setBar_stays haway hrising s hstays)) rfl (s.ctx_setCtx id _) rfl
    (fun t _ => ⟨⟨hbar, rfl, rfl⟩, fun hnr => hnr⟩) fun k hk => Ctx.bar_setBar_other c b hk

end

theorem State.Bars.mono {s : State} {id n : Nat} {c : Ctx} {r : Regs} {o : Host.Outcome State Fault Refusal} {p q : State → Ctx → Prop}
    (h : s.Bars id c n r o p) (hpq : ∀ t x, p t x → q t x) : s.Bars id c n r o q := by
  obtain ⟨t, x, ho, hctx, hregs, hmem, hpost, hother⟩ := h
  exact ⟨t, x, ho, hctx, hregs, hmem, hpq t x hpost, hother⟩

/-! ### Waits (R249, R250) -/

/-- A slot that passes under a condition and stalls without it. -/
theorem slotStep_passes_iff {s : State} {id : Nat} {c : Ctx} (h : s.Sees id c) {p q : Prop} [Decidable p] {f : Nat → Ctx → State}
    (hf : f id c = if p then s else s.stall) (hpq : p ↔ q) :
    (q → slotStep s f = .next (s.passes id c)) ∧ (¬ q → slotStep s f = .next s.stalls) := by
  obtain ⟨hacting, -, hwakes⟩ := h
  exact ⟨fun hq => slotStep_pass hacting (hf.trans (if_pos (hpq.mpr hq))),
    fun hq => slotStep_stalls hacting hwakes (hf.trans (if_neg (mt hpq.mp hq)))⟩

theorem Ctx.pend_eq_true_iff {c : Ctx} {n : Nat} : c.pend n = true ↔ ∃ m ∈ c.eng.ms, m.batch = n := by
  simp only [Ctx.pend, List.any_eq_true, decide_eq_true_eq]

/-- Settles O21: waits by what they count, barriers by the check after each change. -/
theorem waitsAndBarriers : Obligations.WaitsAndBarriers := by
  refine ⟨?waits, ?barriers⟩
  case waits =>
    intro s id c nl ns nx nm n hsees within ld st xf pass busy
    have hwaitc : (pass → execWaitc nl ns nx nm s = .next (s.passes id c)) ∧ (¬ pass → execWaitc nl ns nx nm s = .next s.stalls) := by
      refine slotStep_passes_iff hsees rfl ?_
      rw [hsees.was_eq]
      simp only [Bool.and_eq_true, Bool.or_eq_true, decide_eq_true_eq, and_assoc]
      rfl
    obtain ⟨hpasses, hstalls⟩ := hwaitc
    refine ⟨hpasses, hstalls, fun h => slotStep_pass hsees.1 ?_, fun h => slotStep_stalls hsees.1 hsees.2.2 ?_⟩
    · rw [hsees.was_eq]
      exact if_neg (mt Ctx.pend_eq_true_iff.mp h)
    · rw [hsees.was_eq]
      exact if_pos (Ctx.pend_eq_true_iff.mpr h)
  case barriers =>
    intro s id c n a d nv node hsees haway hrising b v low sat fires stays does armed fallen taken
    have hacting := hsees.1
    have hctx := hsees.ctx_eq
    have harm (hoff : b.armed = false) (hv : v < 2 ^ 31) : ¬ (b.armed = true ∨ 2 ^ 31 ≤ v) := by
      rintro (hon | hbig)
      · rw [hoff] at hon
        cases hon
      · omega
    have hraise : BitVec.ofNat 64 n.toNat = n.setWidth 64 := BitVec.ofNat_toNat 64 n
    refine ⟨fun hoff hv hcount => ?_, fun hoff hv hcount => ?_, fun h => ?_, fun hon hcount => ?_, fun h => ?_, fun h => ⟨?_, ?_⟩, fun h hstays => ⟨?_, ?_⟩⟩
    · refine (slotStep_barCheck_fires (b := armed) (ph := { c.ph with nr := true }) hacting haway hrising ?_ rfl hcount).mono
        fun t x h => ⟨h.1, h.2 rfl⟩
      dsimp only
      rw [if_neg (harm hoff hv), State.updCtx_eq hctx]
      rfl
    · refine (slotStep_barCheck_stays (b := armed) (ph := { c.ph with nr := true }) hacting haway hrising ?_ (.inr hcount)).mono
        fun t x h => ⟨h.1, h.2 rfl⟩
      dsimp only
      rw [if_neg (harm hoff hv), State.updCtx_eq hctx]
      rfl
    · refine slotStep_raise hacting ((if_pos h).trans ?_) (by decide)
      rw [hraise]
      rfl
    · refine (slotStep_barCheck_fires (b := fallen) (ph := { c.ph with nr := true }) hacting haway hrising ?_ hon hcount).mono
        fun t x h => ⟨h.1, h.2 rfl⟩
      dsimp only
      rw [barDec, State.updCtx_eq hctx, State.updCtx_setCtx, fld_zero]
      rfl
    · refine (slotStep_barCheck_stays (b := fallen) (ph := { c.ph with nr := true }) hacting haway hrising ?_ h).mono
        fun t x h => ⟨h.1, h.2 rfl⟩
      dsimp only
      rw [barDec, State.updCtx_eq hctx, State.updCtx_setCtx, fld_zero]
      rfl
    · exact slotStep_stalls hacting hsees.2.2 (if_neg (h ▸ Bool.false_ne_true))
    · exact slotStep_regs hacting ((if_neg (h ▸ Bool.false_ne_true)).trans (State.wrS_eq hctx d _))
    · refine (slotStep_barCheck_stays (b := taken) (ph := c.ph) hacting haway hrising ?_ hstays).mono fun t x h => h.1
      exact (if_pos h).trans (congrArg (fun t => barCheck t id n.toNat) (State.updCtx_eq hctx _))
    · have htaken : takeFired s id n.toNat = s.setCtx id (c.setBar n.toNat taken) :=
        (congrArg (fun t => barCheck t id n.toNat) (State.updCtx_eq hctx _)).trans (barCheck_setBar_stays (ph := c.ph) haway hrising s hstays)
      refine slotStep_bars (x := { c.setBar n.toNat taken with regs := c.regs.setS d 1 }) hacting (if_pos h) ?_ ?_ ?_
        (fun t _ => ⟨Ctx.bar_setBar_self hrising _ _, rfl, rfl⟩) fun k hk => Ctx.bar_setBar_other c _ hk
      all_goals rw [htaken, State.wrS, State.updCtx_setCtx]
      · rfl
      · exact s.ctx_setCtx id _
      · rfl

end Sys2Proof.Machine
end

section
/-! PROOF. A step does what is chosen, and a bundle of one plain slot runs that slot's instruction (O50). -/

namespace Sys2Proof.Machine

/-! ### What is chosen happens -/

theorem State.pick_of_choices {s : State} {x : Choice} (h : s.choices = [x]) : s.pick = (x, s) := by
  unfold State.pick
  rw [h]

theorem step_of_choices {s : State} {x : Choice} (h : s.choices = [x]) : step s = stepBy x s := by
  unfold step
  rw [State.pick_of_choices h]

/-! ### Fetch and decode (R234, R385) -/

section
variable {s s1 : State} {id : Nat} {c c1 : Ctx} {ws : List Nat} (hmay : s.mayIssue s.subj = true) (hcore : (s.core s.subj).ctx = some id)
  (hctx : s.ctx id = some c) (hwait : c.trapWait = none) (hevent : c.regs.inTrap = true ∨ c.xf.fq = [])
  (hfetch : fetchBundle { s with cur := s.subj } id c = (s1, .words ws)) (hctx1 : s1.ctx id = some c1)
include hmay hcore hctx hwait hevent hfetch hctx1

/-- A core with no trap and no event before its next bundle fetches it, decodes it and issues it. -/
theorem execBundleIssue_eq :
    execBundleIssue s = .next (match decodeBundle ws with
      | some (b, _) => issueBundle s1 s.subj id c1 b
      | none => (takeTrap s1 id { cause := Cause.illegal, addr := 0, detail := 0, slot := 0, straddle := false }).issued s.subj) := by
  have hnone : ¬ (c.regs.inTrap = false ∧ c.xf.fq ≠ [] ∧ c.ph.rem = none) := by
    rintro ⟨hin, hfq, -⟩
    rcases hevent with h | h
    · rw [h] at hin
      cases hin
    · exact hfq h
  unfold execBundleIssue
  simp only [hmay, if_true, hcore, hctx]
  unfold issueCore
  simp only [hwait, if_neg hnone, hfetch, hctx1]
  cases decodeBundle ws <;> rfl

end

/-! ### The bundle of one plain slot (R237, R242, R282) -/

/-- What a bundle calls for a slot instruction is its meaning. -/
theorem runSlot_eq_exec {i : Instr} (h : (Instr.fields i).isSome = true) (s : State) : runSlot i s = exec i s := by
  cases i
  all_goals cases h
  all_goals rfl

/-- How a plain slot without guard and extension word acts in the bundle of context c. -/
def plainAct (n : Nat) (i : Instr) (c : Ctx) : Act :=
  { slot := n, op := SlotOp.plain i, word := lastWord (SlotOp.plain i), src := c, explicit := true }

/-- The state in which a bundle begins to act (R282). -/
def State.begins (s : State) (c : Ctx) (b : Bundle) : State := { s with issue := { Issue.idle with on := true, len := b.bytes, src := some c } }

/-- A bundle that acts once, of one plain slot, for a task with no last operations and no access outstanding. -/
structure PlainAlone (c : Ctx) (b : Bundle) (n : Nat) (i : Instr) : Prop where
  ops : b.ops = [(n, SlotOp.plain i)]
  slot : n ∈ [0, 1, 2, 6]
  reps : b.reps = 0
  rptc : c.regs.rptc = 0
  last : ∀ j, c.regs.st.last.val 0 j = 0
  memq : c.ph.memq = []

section
variable {c : Ctx} {b : Bundle} {n : Nat} {i : Instr} (h : PlainAlone c b n i)
include h

theorem PlainAlone.stickyOf_eq : stickyOf n = none := by
  have hall : ∀ n ∈ [0, 1, 2, 6], stickyOf n = none := by decide
  exact hall n h.slot

theorem PlainAlone.reissueOf_eq (slot k : Nat) : reissueOf c slot k = [] := if_pos (h.last k)

/-- No sticky slot acts: it holds no operation, and has no last one to issue again (R239). -/
theorem PlainAlone.stickyActs_eq {slot k : Nat} (hk : stickyOf slot = some k) : stickyActs c b true slot k = [] := by
  have hne : n ≠ slot := by
    rintro rfl
    rw [h.stickyOf_eq] at hk
    cases hk
  have hnone : b.ops.find? (fun p => decide (p.1 = slot)) = none := by
    rw [h.ops, List.find?_eq_none]
    simpa using hne
  unfold stickyActs
  rw [hnone]
  exact h.reissueOf_eq slot k

theorem PlainAlone.actsOf_eq : actsOf c b true = [plainAct n i c] := by
  have hslots : List.range 8 = [0, 1, 2, 3, 4, 5, 6, 7] := rfl
  have hplain (slot : Nat) : (b.ops.filter (fun p => decide (p.1 = slot))).map
      (fun p => { slot := slot, op := p.2, word := lastWord p.2, src := c, explicit := true : Act }) = if n = slot then [plainAct n i c] else [] := by
    rw [h.ops, List.filter_cons, List.filter_nil]
    by_cases heq : n = slot
    · subst heq
      rw [if_pos rfl, if_pos (decide_eq_true rfl)]
      rfl
    · rw [if_neg heq, if_neg (mt of_decide_eq_true heq)]
      rfl
  unfold actsOf
  simp only [hslots, hplain, if_true, List.flatMap_cons, List.flatMap_nil, stickyOf, h.stickyActs_eq (k := 0) (slot := 3) rfl,
    h.stickyActs_eq (k := 1) (slot := 4) rfl, h.stickyActs_eq (k := 2) (slot := 5) rfl, h.stickyActs_eq (k := 3) (slot := 7) rfl]
  have hslot := h.slot
  simp only [List.mem_cons, List.not_mem_nil, or_false] at hslot
  rcases hslot with rfl | rfl | rfl | rfl <;> rfl

theorem PlainAlone.take_eq (k : Sticky) : [plainAct n i c].foldl (Sticky.take c) k = k := by
  rw [List.foldl_cons, List.foldl_nil, Sticky.take, show (plainAct n i c).slot = n from rfl, h.stickyOf_eq]

theorem PlainAlone.moves_eq (steps : Tab Word) : [plainAct n i c].flatMap (·.moves steps) = [] := by
  rw [List.flatMap_singleton, Act.moves, show (plainAct n i c).slot = n from rfl, h.stickyOf_eq]

theorem PlainAlone.written_eq (r : Regs) :
    ([plainAct n i c].filter (fun a => (stickyOf a.slot).isNone && Guard.open? a.op.guard r)).flatMap (fun a => a.op.instr.handleDests)
      = i.handleDests := by
  have hacts : ((stickyOf (plainAct n i c).slot).isNone && Guard.open? (plainAct n i c).op.guard r) = true := by
    rw [show (plainAct n i c).slot = n from rfl, h.stickyOf_eq]
    rfl
  rw [List.filter_cons, if_pos hacts, List.filter_nil, List.flatMap_singleton]
  rfl

theorem PlainAlone.pendingRegs_eq : c.pendingRegs = [] := by
  rw [Ctx.pendingRegs, h.memq]
  rfl

theorem PlainAlone.not_throttled (s : State) : s.throttled c.who.region [plainAct n i c] = false := by
  have hall : ∀ n ∈ [0, 1, 2, 6], ¬ (n = 3 ∨ n = 4) := by decide
  simp only [State.throttled, List.any_cons, List.any_nil, plainAct, decide_eq_false (hall n h.slot), Bool.false_and, Bool.or_false, Bool.and_false]

end

theorem runActs_nil (c0 : Ctx) (s : State) : runActs c0 [] s = s := rfl

theorem runActs_cons_open {c0 : Ctx} {a : Act} {t : List Act} {s s' : State} (hopen : Guard.open? a.op.guard c0.regs = true)
    (hrun : runSlot a.op.instr { s with issue := { s.issue with slot := a.slot, src := some a.src, word := a.word } } = .next s') :
    runActs c0 (a :: t) s = runActs c0 t s' := by
  rw [runActs]
  dsimp only
  rw [if_pos hopen, hrun]

/-- A plain slot runs its instruction's meaning. -/
theorem runActs_plain {c0 c : Ctx} {n : Nat} {i : Instr} {s s2 : State} (hfields : (Instr.fields i).isSome = true)
    (hexec : exec i { s with issue := { s.issue with slot := n, src := some c, word := lastWord (SlotOp.plain i) } } = .next s2) :
    runActs c0 [plainAct n i c] s = s2 :=
  runActs_cons_open (a := plainAct n i c) (t := []) rfl ((runSlot_eq_exec hfields _).trans hexec)

/-- What a bundle of one plain slot leaves in the sticky state: handles that its instruction wrote keep the write (R238, R240). -/
def State.keeps (s : State) (id : Nat) (i : Instr) : State :=
  s.updCtx id fun x => x.updRegs fun r => { r with h := stepHandles (i.handleDests.map (·.toNat)) [] r.h, st := { r.st with rsteps := none } }

/-- A bundle that neither stalls nor traps nor sends: its instruction, and then the pc. -/
theorem issueBundle_plain {s s3 : State} {k id n : Nat} {c : Ctx} {b : Bundle} {i : Instr} (h : PlainAlone c b n i)
    (hlast : (Instr.standsLast i = false ∧ (runActs c [plainAct n i c] (s.begins c b)).keeps id i = s3) ∨
      (Instr.standsLast i = true ∧ runActs c [plainAct n i c] ((s.begins c b).keeps id i) = s3))
    (hstall : s3.issue.stall = false) (htrap : s3.issue.trap = none) (hsent : s3.issue.sent = false) :
    issueBundle s k id c b = ((finishIssue s3 id c b true [plainAct n i c]).issued k).endStep id := by
  have hfree : ([plainAct n i c].any fun a => ([] : List (BitVec 6)).any a.reads) = false := rfl
  simp only [State.begins, State.keeps] at hlast
  unfold issueBundle
  simp only [h.rptc, decide_true, h.actsOf_eq, h.pendingRegs_eq, h.not_throttled, hfree, Bool.false_eq_true, or_self, if_false, if_true, h.reps, 
    h.take_eq, h.moves_eq, h.written_eq]
  rcases hlast with ⟨hl, hrun⟩ | ⟨hl, hrun⟩
  · have hlate : List.partition (fun a => Instr.standsLast a.op.instr) [plainAct n i c] = ([], [plainAct n i c]) := by
      simp [List.partition_eq_filter_filter, plainAct, SlotOp.plain, hl]
    rw [hlate]
    by_cases hn : n = 0
    · have halu : List.partition (fun a => decide (a.slot = 0)) [plainAct n i c] = ([plainAct n i c], []) := by
        simp [List.partition_eq_filter_filter, plainAct, hn]
      simp only [halu, runActs_nil, hrun, hstall, htrap, hsent, Bool.false_eq_true, if_false]
    · have halu : List.partition (fun a => decide (a.slot = 0)) [plainAct n i c] = ([], [plainAct n i c]) := by
        simp [List.partition_eq_filter_filter, plainAct, hn]
      simp only [halu, runActs_nil, hrun, hstall, htrap, hsent, Bool.false_eq_true, if_false]
  · have hlate : List.partition (fun a => Instr.standsLast a.op.instr) [plainAct n i c] = ([plainAct n i c], []) := by
      simp [List.partition_eq_filter_filter, plainAct, SlotOp.plain, hl]
    have hnone : List.partition (fun a : Act => decide (a.slot = 0)) [] = ([], []) := rfl
    simp only [hlate, hnone, runActs_nil, hrun, hstall, htrap, hsent, Bool.false_eq_true, if_false]

/-- Settles O50: what is chosen happens; a bundle is fetched, decoded and issued; one plain slot runs its instruction. -/
theorem stepRunsTheInstruction : Obligations.StepRunsTheInstruction := by
  refine ⟨?steps, ?fetches, ?runs⟩
  case steps =>
    refine fun s => ⟨step_of_choices, fun n at_ u i h hdue => ?_, fun k h => step_of_choices h⟩
    rw [step_of_choices h, stepBy, hdue]
  case fetches =>
    intro s s1 id c c1 ws rest b hmay hcore hctx hwait hevent hfetch hctx1
    have heq := execBundleIssue_eq hmay hcore hctx hwait hevent hfetch hctx1
    refine ⟨fun hdecode => heq.trans ?_, fun hdecode => heq.trans ?_⟩ <;> rw [hdecode]
    rfl
  case runs =>
    intro s s2 k id n c b i hops hslot hreps hrptc hlast hmemq hfields hctx keep acts begun runs
    have h : PlainAlone c b n i := ⟨hops, hslot, hreps, hrptc, hlast, hmemq⟩
    refine ⟨fun hl hexec hstall htrap hsent => ?_, fun hl s0 hs0 hexec hstall htrap hsent => ?_⟩
    · exact issueBundle_plain h (.inl ⟨hl, congrArg (State.keeps · id i) (runActs_plain hfields hexec)⟩) hstall htrap hsent
    · refine issueBundle_plain h (.inr ⟨hl, runActs_plain hfields ?_⟩) hstall htrap hsent
      have hissue : ((s.begins c b).keeps id i).issue = (s.begins c b).issue := State.updCtx_issue _ _ _
      rw [hissue]
      exact hs0 ▸ hexec

end Sys2Proof.Machine
end

section
/-! PROOF. Batches of the matrix stream, and what its operations do when they act (O28). -/

namespace Sys2Proof.Machine

/-! ### Looking up joined tables -/

section
variable {α : Type}

theorem Tab.look_append (t u : Tab α) (n : Nat) : Tab.look (t ++ u) n = (Tab.look t n).or (Tab.look u n) := by
  induction t with
  | nil => rfl
  | cons p t ih =>
    obtain ⟨k, v⟩ := p
    by_cases hk : k = n
    · simp [Tab.look, hk]
    · simpa [Tab.look, hk] using ih

theorem Tab.look_eq_none_of_forall_ne {t : Tab α} {n : Nat} (h : ∀ p ∈ t, p.1 ≠ n) : Tab.look t n = none := by
  induction t with
  | nil => rfl
  | cons p t ih =>
    obtain ⟨hp, ht⟩ := List.forall_mem_cons.mp h
    exact (if_neg hp).trans (ih ht)

theorem Tab.look_filter_key (t : Tab α) (q : Nat → Bool) (n : Nat) :
    Tab.look (t.filter fun p => q p.1) n = if q n then Tab.look t n else none := by
  induction t with
  | nil => simp [Tab.look]
  | cons p t ih =>
    obtain ⟨k, v⟩ := p
    by_cases hk : k = n
    · subst hk
      cases hq : q k <;> simp_all [Tab.look]
    · cases hq : q k <;> simp_all [Tab.look]

theorem Tab.look_map_key (t : Tab α) (g : Nat → Nat) {n : Nat} (hg : ∀ p ∈ t, g p.1 = g n → p.1 = n) :
    Tab.look (t.map fun p => (g p.1, p.2)) (g n) = Tab.look t n := by
  induction t with
  | nil => rfl
  | cons p t ih =>
    obtain ⟨hp, ht⟩ := List.forall_mem_cons.mp hg
    obtain ⟨k, v⟩ := p
    by_cases hk : k = n
    · simp [Tab.look, hk]
    · simpa [Tab.look, hk, mt hp hk] using ih ht

/-- Only one of the joined tables can hold the key. -/
theorem Tab.look_flatMap {l : List Nat} {r : Nat → Tab α} {n i : Nat} (h : ∀ x ∈ l, x ≠ i → Tab.look (r x) n = none) :
    Tab.look (l.flatMap r) n = if i ∈ l then Tab.look (r i) n else none := by
  induction l with
  | nil => rfl
  | cons x l ih =>
    obtain ⟨hx, hl⟩ := List.forall_mem_cons.mp h
    rw [List.flatMap_cons, Tab.look_append, ih hl]
    by_cases hxi : x = i
    · subst hxi
      cases Tab.look (r x) n <;> simp
    · simp [hx hxi, Ne.symm hxi]

/-- The nonzero values of a function, each under its key. -/
def nonzeroTab {n : Nat} (k : Nat → Nat) (f : Nat → BitVec n) (l : List Nat) : Tab (BitVec n) :=
  l.filterMap fun j => if f j = 0 then none else some (k j, f j)

theorem nonzeroTab_cons {n : Nat} (k : Nat → Nat) (f : Nat → BitVec n) (x : Nat) (l : List Nat) :
    nonzeroTab k f (x :: l) = (if f x = 0 then [] else [(k x, f x)]) ++ nonzeroTab k f l := by
  unfold nonzeroTab
  rw [List.filterMap_cons]
  by_cases hf : f x = 0
  · rw [if_pos hf, if_pos hf, List.nil_append]
  · rw [if_neg hf, if_neg hf, List.singleton_append]

theorem val_nonzeroTab {n : Nat} {k : Nat → Nat} (hk : Function.Injective k) (f : Nat → BitVec n) (l : List Nat) (j : Nat) :
    (nonzeroTab k f l).val 0 (k j) = if j ∈ l then f j else 0 := by
  induction l with
  | nil => rfl
  | cons x l ih =>
    unfold Tab.val at ih ⊢
    rw [nonzeroTab_cons, Tab.look_append]
    by_cases hx : x = j
    · subst hx
      by_cases hf : f x = 0
      · rw [if_pos hf, Tab.look, Option.none_or, ih, hf, ite_self, ite_self]
      · rw [if_neg hf, if_pos List.mem_cons_self, Tab.look, if_pos rfl, Option.some_or, Option.getD_some]
    · have hmiss : Tab.look (if f x = 0 then [] else [(k x, f x)]) (k j) = none :=
        Tab.look_eq_none_of_forall_ne fun p hp h => by
          split at hp
          · cases hp
          · cases List.mem_singleton.mp hp
            exact hx (hk h)
      rw [hmiss, Option.none_or, ih]
      simp [Ne.symm hx]

/-! ### Runs of keys replaced -/

theorem Tab.look_replaceRun_inside (t new : Tab α) {lo hi n : Nat} (hlo : lo ≤ n) (hhi : n < hi) :
    Tab.look (t.replaceRun lo hi new) n = Tab.look new n := by
  have hbelow := Tab.look_filter_key t (fun k => decide (k < lo)) n
  have habove := Tab.look_filter_key t (fun k => decide (hi ≤ k)) n
  rw [if_neg (by simpa using hlo)] at hbelow
  rw [if_neg (by simpa using hhi)] at habove
  rw [Tab.replaceRun, Tab.look_append, Tab.look_append, hbelow, habove, Option.none_or, Option.or_none]

theorem Tab.look_replaceRun_outside (t : Tab α) {new : Tab α} {lo hi n : Nat} (hnew : ∀ p ∈ new, lo ≤ p.1 ∧ p.1 < hi) (hle : lo ≤ hi)
    (hn : n < lo ∨ hi ≤ n) : Tab.look (t.replaceRun lo hi new) n = Tab.look t n := by
  have hmiss : Tab.look new n = none := Tab.look_eq_none_of_forall_ne fun p hp => by
    obtain ⟨h1, h2⟩ := hnew p hp
    omega
  rw [Tab.replaceRun, Tab.look_append, Tab.look_append, hmiss, Tab.look_filter_key t (fun k => decide (k < lo)),
    Tab.look_filter_key t (fun k => decide (hi ≤ k)), Option.or_none]
  rcases hn with hn | hn
  · simp [hn, Nat.not_le.mpr (Nat.lt_of_lt_of_le hn hle)]
  · simp [hn, Nat.not_lt.mpr (Nat.le_trans hle hn)]

end

/-! ### Words of tiles -/

section
variable (tile : Tab Word) {t i j : Nat} (hi : i < 128) (hj : j < 128)
include hi hj

/-- A word lies in the run of its own tile and in no other one's. -/
theorem tileWord_mem_run (u : Nat) : tileWord u 0 0 ≤ tileWord t i j ∧ tileWord t i j < tileWord (u + 1) 0 0 ↔ t = u := by
  unfold tileWord
  constructor <;> intro h <;> omega

theorem val_replaceRun_of_ne {u : Nat} (hne : t ≠ u) {new : Tab Word} (hnew : ∀ p ∈ new, tileWord u 0 0 ≤ p.1 ∧ p.1 < tileWord (u + 1) 0 0) :
    (tile.replaceRun (tileWord u 0 0) (tileWord (u + 1) 0 0) new).val 0 (tileWord t i j) = tile.val 0 (tileWord t i j) := by
  have hout := mt (tileWord_mem_run hi hj u).mp hne
  have hle : tileWord u 0 0 ≤ tileWord (u + 1) 0 0 := by unfold tileWord; omega
  have hsides : tileWord t i j < tileWord u 0 0 ∨ tileWord (u + 1) 0 0 ≤ tileWord t i j := by omega
  exact congrArg (·.getD 0) (Tab.look_replaceRun_outside tile hnew hle hsides)

theorem val_replaceRun_self (new : Tab Word) :
    (tile.replaceRun (tileWord t 0 0) (tileWord (t + 1) 0 0) new).val 0 (tileWord t i j) = new.val 0 (tileWord t i j) := by
  obtain ⟨hlo, hhi⟩ := (tileWord_mem_run hi hj t).mpr rfl
  exact congrArg (·.getD 0) (Tab.look_replaceRun_inside tile new hlo hhi)

omit hi in
theorem val_rowWords : (rowWords tile t i).val 0 (tileWord t i j) = tile.val 0 (tileWord t i j) := by
  have hin : tileWord t i 0 ≤ tileWord t i j ∧ tileWord t i j < tileWord t i 128 := by unfold tileWord; omega
  have hlook := Tab.look_filter_key tile (fun k => decide (tileWord t i 0 ≤ k ∧ k < tileWord t i 128)) (tileWord t i j)
  rw [if_pos (decide_eq_true hin)] at hlook
  exact congrArg (·.getD 0) hlook

end

theorem mem_rowOf {t i : Nat} {f : Nat → Word} {p : Nat × Word} (h : p ∈ rowOf t i f) : tileWord t i 0 ≤ p.1 ∧ p.1 < tileWord t i 128 := by
  obtain ⟨j, hj, hp⟩ := List.mem_filterMap.mp h
  have hlt := List.mem_range.mp hj
  split at hp
  · cases hp
  · cases hp
    unfold tileWord
    omega

theorem val_rowOf (t i : Nat) (f : Nat → Word) {j : Nat} (hj : j < 128) : (rowOf t i f).val 0 (tileWord t i j) = f j := by
  have hinj : Function.Injective (tileWord t i) := fun a b h => Nat.add_left_cancel h
  exact (val_nonzeroTab hinj f _ j).trans (if_pos (List.mem_range.mpr hj))

/-- Rows of one tile hold words of their own row only. -/
theorem val_rows {t i j : Nat} (hi : i < 128) (hj : j < 128) {r : Nat → Tab Word} (hr : ∀ x, ∀ p ∈ r x, tileWord t x 0 ≤ p.1 ∧ p.1 < tileWord t x 128) :
    Tab.val 0 ((List.range 128).flatMap r) (tileWord t i j) = Tab.val 0 (r i) (tileWord t i j) := by
  have hmiss : ∀ x ∈ List.range 128, x ≠ i → Tab.look (r x) (tileWord t i j) = none := fun x _ hx =>
    Tab.look_eq_none_of_forall_ne fun p hp => by
      have hin := hr x p hp
      unfold tileWord at hin ⊢
      omega
  exact congrArg (·.getD 0) ((Tab.look_flatMap hmiss).trans (if_pos (List.mem_range.mpr hi)))

theorem rows_in_run {t : Nat} {r : Nat → Tab Word} (hr : ∀ x, ∀ p ∈ r x, tileWord t x 0 ≤ p.1 ∧ p.1 < tileWord t x 128) :
    ∀ p ∈ (List.range 128).flatMap r, tileWord t 0 0 ≤ p.1 ∧ p.1 < tileWord (t + 1) 0 0 := by
  intro p hp
  obtain ⟨x, hx, hpx⟩ := List.mem_flatMap.mp hp
  have hlt := List.mem_range.mp hx
  have hin := hr x p hpx
  unfold tileWord at hin ⊢
  constructor <;> omega

section
variable (tile : Tab Word) {t i j : Nat} (hi : i < 128) (hj : j < 128)
include hi hj

theorem val_tileOf_self {f : Nat → (Nat → Word) → Nat → Word} {g : Word → Word} (hf : ∀ old, f i old j = g (old j)) :
    (tileOf tile t f).val 0 (tileWord t i j) = g (tile.val 0 (tileWord t i j)) := by
  unfold tileOf
  rw [val_replaceRun_self _ hi hj, val_rows hi hj fun x p => mem_rowOf]
  refine (val_rowOf t i (f i fun j => (rowWords tile t i).val 0 (tileWord t i j)) hj).trans ((hf _).trans (congrArg g ?_))
  exact val_rowWords tile hj

theorem val_tileOf_other {u : Nat} (hne : t ≠ u) (f : Nat → (Nat → Word) → Nat → Word) :
    (tileOf tile u f).val 0 (tileWord t i j) = tile.val 0 (tileWord t i j) :=
  val_replaceRun_of_ne tile hi hj hne (rows_in_run fun _ _ => mem_rowOf)

theorem val_tileOf {u : Nat} {f : Nat → (Nat → Word) → Nat → Word} {g : Word → Word} (hf : ∀ old, f i old j = g (old j)) :
    (tileOf tile u f).val 0 (tileWord t i j) = if t = u then g (tile.val 0 (tileWord t i j)) else tile.val 0 (tileWord t i j) := by
  split
  · next h => exact h ▸ val_tileOf_self tile hi hj hf
  · next h => exact val_tileOf_other tile hi hj h f

theorem val_clearTile (u : Nat) : (clearTile tile u).val 0 (tileWord t i j) = if t = u then 0 else tile.val 0 (tileWord t i j) := by
  split
  · next h =>
    subst h
    exact val_replaceRun_self tile hi hj []
  · next h => exact val_replaceRun_of_ne tile hi hj h fun p hp => absurd hp List.not_mem_nil

theorem val_foldl_clearTile (l : List Nat) :
    (l.foldl clearTile tile).val 0 (tileWord t i j) = if t ∈ l then 0 else tile.val 0 (tileWord t i j) := by
  induction l generalizing tile with
  | nil => rfl
  | cons u l ih =>
    rw [List.foldl_cons, ih, val_clearTile tile hi hj]
    by_cases hu : t = u <;> simp [hu]

theorem val_copyTile (k u : Nat) :
    (copyTile tile k u).val 0 (tileWord t i j) = if t = k then tile.val 0 (tileWord u i j) else tile.val 0 (tileWord t i j) := by
  unfold copyTile
  by_cases hku : k = u
  · rw [if_pos hku]
    split
    · next h => rw [h, hku]
    · rfl
  · rw [if_neg hku]
    split
    · next h =>
      subst h
      rw [val_replaceRun_self tile hi hj]
      have hin := (tileWord_mem_run (t := u) hi hj u).mpr rfl
      have hshift : tileWord t i j = tileWord u i j - tileWord u 0 0 + tileWord t 0 0 := by unfold tileWord; omega
      have hkey := Tab.look_map_key (tile.filter fun p => decide (tileWord u 0 0 ≤ p.1 ∧ p.1 < tileWord (u + 1) 0 0))
        (fun k => k - tileWord u 0 0 + tileWord t 0 0) (n := tileWord u i j) fun p hp h => by
          have hp := of_decide_eq_true (List.mem_filter.mp hp).2
          omega
      have hlook := Tab.look_filter_key tile (fun k => decide (tileWord u 0 0 ≤ k ∧ k < tileWord (u + 1) 0 0)) (tileWord u i j)
      rw [if_pos (decide_eq_true hin)] at hlook
      rw [hshift]
      exact congrArg (·.getD 0) (hkey.trans hlook)
    · next h =>
      refine val_replaceRun_of_ne tile hi hj h fun p hp => ?_
      obtain ⟨q, hq, rfl⟩ := List.mem_map.mp hp
      have hin := of_decide_eq_true (List.mem_filter.mp hq).2
      unfold tileWord at hin ⊢
      constructor <;> omega

end

/-- The words of row i of a ranked tile without pairs (R67). -/
def rankedRow (t i : Nat) : Tab Word :=
  (List.range 32).flatMap fun j => [(tileWord t i (2 * j), (0x7FC00000 : Word)), (tileWord t i (2 * j + 1), (0xFFFFFFFF : Word))]

theorem mem_rankedRow {t i : Nat} {p : Nat × Word} (h : p ∈ rankedRow t i) : tileWord t i 0 ≤ p.1 ∧ p.1 < tileWord t i 64 := by
  obtain ⟨j, hj, hp⟩ := List.mem_flatMap.mp h
  have hlt := List.mem_range.mp hj
  rcases List.mem_pair.mp hp with rfl | rfl
  all_goals unfold tileWord; constructor <;> omega

theorem val_rankedRow (t i j : Nat) :
    (rankedRow t i).val 0 (tileWord t i j) = if j < 64 then if j % 2 = 0 then (0x7FC00000 : Word) else 0xFFFFFFFF else 0 := by
  by_cases hj : j < 64
  · have hmiss : ∀ x ∈ List.range 32, x ≠ j / 2 →
        Tab.look [(tileWord t i (2 * x), (0x7FC00000 : Word)), (tileWord t i (2 * x + 1), 0xFFFFFFFF)] (tileWord t i j) = none :=
      fun x _ hx => Tab.look_eq_none_of_forall_ne fun p hp => by
        unfold tileWord at hp ⊢
        rcases List.mem_pair.mp hp with rfl | rfl
        all_goals dsimp only; omega
    have hpair := (Tab.look_flatMap hmiss).trans (if_pos (List.mem_range.mpr (by omega)))
    rw [if_pos hj]
    refine (congrArg (·.getD 0) hpair).trans ?_
    split
    · next heven => simp [Tab.look, show 2 * (j / 2) = j by omega]
    · next hodd => simp [Tab.look, tileWord, show 2 * (j / 2) ≠ j by omega, show 2 * (j / 2) + 1 = j by omega]
  · rw [if_neg hj]
    have hmiss : Tab.look (rankedRow t i) (tileWord t i j) = none := Tab.look_eq_none_of_forall_ne fun p hp => by
      have hin := mem_rankedRow hp
      unfold tileWord at hin ⊢
      omega
    exact congrArg (·.getD 0) hmiss

theorem mem_rankedRow_row {t i : Nat} {p : Nat × Word} (h : p ∈ rankedRow t i) : tileWord t i 0 ≤ p.1 ∧ p.1 < tileWord t i 128 := by
  have hin := mem_rankedRow h
  unfold tileWord at hin ⊢
  constructor <;> omega

theorem val_rankedTile {t i j : Nat} (hi : i < 128) (hj : j < 128) :
    (rankedTile t).val 0 (tileWord t i j) = if j < 64 then if j % 2 = 0 then (0x7FC00000 : Word) else 0xFFFFFFFF else 0 :=
  (val_rows (r := rankedRow t) hi hj fun _ _ => mem_rankedRow_row).trans (val_rankedRow t i j)

theorem rankedTile_in_run (t : Nat) : ∀ p ∈ rankedTile t, tileWord t 0 0 ≤ p.1 ∧ p.1 < tileWord (t + 1) 0 0 :=
  rows_in_run (r := rankedRow t) fun _ _ => mem_rankedRow_row

/-! ### One operation acts and retires (R310, R312) -/

theorem Ctx.settleBatch_eq (c : Ctx) (b : Nat) : ∃ bt, c.settleBatch b = { c with eng := { c.eng with btile := bt } } := by
  unfold Ctx.settleBatch
  split
  · exact ⟨_, rfl⟩
  · exact ⟨_, rfl⟩

theorem Ctx.assign_of_empty {c : Ctx} (h : c.eng.ms = []) : c.assign = c := by
  unfold Ctx.assign
  rw [h, assignStream, ← h]

/-- The buffers once an operation has given back the slots it consumed (R56). -/
def Ctx.popped (c : Ctx) (m : MOp) : Tab BufEnt :=
  (m.rings.filter (·.consume)).foldl (fun t u => t.set u.buf (BufEnt.popN u.n (t.val BufEnt.none u.buf))) c.bufs

theorem Ctx.settleBatch_assign_of_empty {c : Ctx} (h : c.eng.ms = []) (b : Nat) (away : Bool) :
    ∃ bt, (if away then c.settleBatch b else (c.settleBatch b).assign) = { c with eng := { c.eng with btile := bt } } := by
  obtain ⟨bt, hbt⟩ := c.settleBatch_eq b
  have hms : (c.settleBatch b).eng.ms = [] := by rw [hbt]; exact h
  rw [Ctx.assign_of_empty hms, ite_self]
  exact ⟨bt, hbt⟩

/-- The last operation of a stream retires. -/
theorem Ctx.retireHead_of_singleton {c : Ctx} {m : MOp} (h : c.eng.ms = [m]) :
    ∃ bt ph, c.retireHead = { c with bufs := c.popped m, eng := { c.eng with ms := [], btile := bt }, ph := ph } := by
  unfold Ctx.retireHead
  rw [h]
  obtain ⟨bt, hbt⟩ := Ctx.settleBatch_assign_of_empty (c := { c with
    bufs := c.popped m
    eng := { c.eng with ms := [] }
    ph := { c.ph with nr := c.ph.nr || (m.rings.filter (·.consume)).any fun u => (c.buf u.buf).noprot } }) rfl m.batch c.away
  exact ⟨bt, _, hbt⟩

/-- The stream of a context is one operation, which has acted. -/
def Ctx.hasActed (c : Ctx) (m : MOp) : Ctx := { c with eng := { c.eng with ms := [{ m with acted := true }] } }

theorem foldl_range_of_settles {α : Type} {f : α → Nat → α} {a b : α} (n : Nat) (ha : f a 0 = b) (hb : ∀ k, f b k = b) :
    (List.range (n + 1)).foldl f a = b := by
  rw [List.range_succ_eq_map, List.foldl_cons, ha]
  exact List.foldl_fixed' hb _

/-- An operation that has acted retires, and the rest of the 32 places find the stream empty. -/
theorem retireAll_of_hasActed (s : State) (id : Nat) {c : Ctx} {m : MOp} (hcmd : m.cmd = none) :
    retireAll (s.setCtx id (c.hasActed m)) id = s.setCtx id (c.hasActed m).retireHead := by
  obtain ⟨bt, ph, hret⟩ := Ctx.retireHead_of_singleton (c := c.hasActed m) rfl
  have hop : (c.hasActed m).opCmd { m with acted := true } = none := by
    unfold Ctx.opCmd
    rw [hcmd, Option.bind_none]
  refine foldl_range_of_settles 31 ?_ fun k => ?_
  · rw [s.ctx_setCtx]
    dsimp only
    rw [show (c.hasActed m).eng.ms = [{ m with acted := true }] from rfl]
    dsimp only
    rw [hop]
    simp
  · rw [s.ctx_setCtx, hret]

/-- What an operation alone in its stream leaves: it has retired, `post` holds of its context, and memory is `mem`. -/
def State.Retires (s : State) (c : Ctx) (post : Ctx → Prop) (mem : List Host.Cell) : Prop :=
  ∃ t x, exec .matrixRetire s = .next t ∧ t.ctx s.subj = some x ∧ x.eng.ms = [] ∧ x.eng.mcount = c.eng.mcount ∧ x.regs = c.regs ∧
    t.mem = mem ∧ post x

theorem syncTile_of_here {s : State} {id : Nat} {c : Ctx} (hctx : s.ctx id = some c) (haway : c.away = false) (m : MOp) : syncTile s id m = s :=
  List.foldl_fixed' (fun _ => syncImage_of_here hctx haway _ _) _

theorem syncHidden_of_here {s : State} {id : Nat} {c : Ctx} (hctx : s.ctx id = some c) (haway : c.away = false) (off n : Nat) :
    syncHidden s id off n = s := by
  unfold syncHidden
  rw [hctx]
  exact if_neg (haway ▸ Bool.false_ne_true)

/-- The task of the step's subject runs, and `m` is the one operation of its stream, about to act (R310). -/
structure State.ActsAlone (s : State) (c : Ctx) (m : MOp) : Prop where
  ctx : s.ctx s.subj = some c
  ms : c.eng.ms = [m]
  acted : m.acted = false
  cancelled : m.cancelled = false
  absorbed : m.absorbed = false
  cmd : m.cmd = none
  core : c.coreNo.isSome = true
  away : c.away = false
  bad : s.bad = none
  ready : opReady s s.subj c m = true

section
variable {s : State} {c : Ctx} {m : MOp} (h : s.ActsAlone c m)
include h

theorem Ctx.nextStream_of_singleton : c.nextStream s s.subj = some m := by
  unfold Ctx.nextStream
  rw [if_pos h.core, h.ms]
  simp [nextOp, h.acted, h.ready]

/-- RETIRE of a task whose one operation acts, as `actOp` leaves it. -/
theorem retires_of_actOp {s0 : State} {x : Ctx} (hact : (actOp s s.subj c m).1 = s0.setCtx s.subj (x.hasActed m)) (haway : x.away = false)
    (hbad : s0.bad = none) {post : Ctx → Prop} (hcount : x.eng.mcount = c.eng.mcount) (hregs : x.regs = c.regs)
    (hpost : ∀ bt ph, post { x with bufs := x.popped m, eng := { x.eng with ms := [], btile := bt }, ph := ph }) : s.Retires c post s0.mem := by
  obtain ⟨bt, ph, hret⟩ := Ctx.retireHead_of_singleton (c := x.hasActed m) rfl
  have hhere : (s0.setCtx s.subj (x.hasActed m)).ctx s.subj = some (x.hasActed m) := s0.ctx_setCtx _ _
  have hrun : exec .matrixRetire s = fin (
      let t := s0.setCtx s.subj (x.hasActed m).retireHead
      if (x.hasActed m).retireHead.xf.log.any (fun k => decide (k.st = .issued ∨ k.st = .running)) then wake t s.subj else t) := by
    change execMatrixRetire s = _
    unfold execMatrixRetire
    dsimp only
    rw [h.ctx]
    dsimp only
    rw [Ctx.nextStream_of_singleton h]
    dsimp only
    rw [hact, syncTile_of_here hhere haway, syncHidden_of_here hhere haway, retireAll_of_hasActed _ _ h.cmd, s0.ctx_setCtx]
    dsimp only
    rw [hret]
    rfl
  have hagenda : ∃ a, exec .matrixRetire s = fin { s0.setCtx s.subj (x.hasActed m).retireHead with agenda := a } := by
    rw [hrun]
    dsimp only
    split
    · exact (wake_frame _ s.subj).imp fun _ => congrArg fin
    · exact ⟨_, rfl⟩
  obtain ⟨a, hagenda⟩ := hagenda
  refine ⟨_, (x.hasActed m).retireHead, hagenda.trans (fin_ok hbad), s0.ctx_setCtx _ _, ?_⟩
  rw [hret]
  exact ⟨rfl, hcount, hregs, rfl, hpost bt ph⟩

end

/-! ### What each operation does (R312, R315, R317, R318, R322) -/

/-- A context with other tiles. -/
def Ctx.withTiles (c : Ctx) (desc : Tab (BitVec 16)) (tile : Tab Word) : Ctx := { c with eng := { c.eng with tdesc := desc, tile := tile } }

section
variable {s : State} {id : Nat} {m : MOp}

theorem markActed_eq {x : Ctx} (hctx : s.ctx id = some x) (hms : x.eng.ms = [m]) :
    (s.updCtx id fun c => { c with eng := { c.eng with ms := c.eng.ms.map fun y => if y.seq = m.seq then { y with acted := true } else y } }) =
      s.setCtx id (x.hasActed m) := by
  rw [State.updCtx_eq hctx, hms, List.map_singleton, if_pos rfl]
  rfl

/-- An operation that was neither cancelled nor absorbed acts. -/
theorem acts_itself (hcancelled : m.cancelled = false) (habsorbed : m.absorbed = false) : ¬ (m.cancelled || m.absorbed) = true := by
  rw [hcancelled, habsorbed]
  decide

variable {c : Ctx} (hctx : s.ctx id = some c) (hms : c.eng.ms = [m]) (hcancelled : m.cancelled = false) (habsorbed : m.absorbed = false)
include hctx hcancelled habsorbed

/-- An operation on tiles alone acts. -/
theorem actOp_of_tiles (hform : m.form = none) (hkat : ∀ q sum, m.instr ≠ .mkat q sum) (hms : (actTile c m).eng.ms = [m]) :
    (actOp s id c m).1 = s.setCtx id ((actTile c m).hasActed m) := by
  unfold actOp
  rw [if_neg (acts_itself hcancelled habsorbed), hform]
  dsimp only
  split
  · next q sum hinstr => exact absurd hinstr (hkat q sum)
  · rw [State.updCtx_eq hctx]
    exact (markActed_eq (s.ctx_setCtx id _) hms).trans (s.setCtx_setCtx id _ _)

include hms

/-- A known-answer step with the right checksum acts. -/
theorem actOp_of_kat {q : BitVec 8} {sum : BitVec 16} (hinstr : m.instr = .mkat q sum) (hsum : katSum q.toNat = sum.toNat) :
    (actOp s id c m).1 = s.setCtx id (c.hasActed m) := by
  have hform : m.form = none := by
    unfold MOp.form
    rw [hinstr]
    rfl
  unfold actOp
  rw [if_neg (acts_itself hcancelled habsorbed), hform, hinstr]
  dsimp only
  rw [if_pos hsum]
  exact markActed_eq hctx hms

omit hctx in
/-- A multiply step whose operands are there acts. -/
theorem actOp_of_form {f : MmaForm} (hform : m.form = some f) {s2 : State} {tile : Tab Word} (hact : actMma s c m f = (s2, .ok tile))
    (hctx2 : s2.ctx id = some c) : (actOp s id c m).1 = s2.setCtx id ((c.withTiles c.eng.tdesc tile).hasActed m) := by
  unfold actOp
  rw [if_neg (acts_itself hcancelled habsorbed), hform]
  dsimp only
  rw [hact]
  dsimp only
  rw [State.updCtx_eq hctx2]
  exact (markActed_eq (x := c.withTiles c.eng.tdesc tile) (s2.ctx_setCtx id _) hms).trans (s2.setCtx_setCtx id _ _)

end

theorem mem_maskTiles {mask : BitVec 16} {t : Nat} (ht : t < 16) : t ∈ maskTiles mask ↔ mask.getLsbD t = true := by
  simp [maskTiles, ht]

theorem rankedDesc_eq (k : BitVec 6) (dir : Bool) :
    rankedDesc k.toNat dir = BitVec.ofNat 16 (2 ^ 7 + (if dir then 2 ^ 6 else 0) + k.toNat) := by
  cases dir <;> rfl

/-- What a multiply step adds to a word of its rectangle, from the values of its operands (R183, R184, R317). -/
def mmaSum (m : MOp) (f : MmaForm) (va vb : List Val) (i j : Nat) (start : Word) : Word :=
  let d := hExt m.ha 0
  let g := (mmaPair f.fp).2.2.1
  let a (k : Nat) : Val := va.getD ((i - f.row0) * d + k) Val.zero
  let b (k : Nat) : Val := vb.getD ((j - f.col0) * d + k) Val.zero
  if f.fp = 9 then BitVec.ofInt 32 (start.toInt + ((List.range d).map fun k => ((a k).toInt - f.za) * ((b k).toInt - f.zb)).sum)
  else mmaElem g d m.ftz a b start

/-- A word of the tile after a multiply step (R312, R315). -/
def mmaWord (m : MOp) (f : MmaForm) (va vb : List Val) (i j : Nat) (old : Word) : Word :=
  if f.row0 ≤ i ∧ i < f.row0 + hExt m.ha 1 ∧ f.col0 ≤ j ∧ j < f.col0 + hExt m.hb 1 then mmaSum m f va vb i j (if f.fresh then 0 else old)
  else old

theorem mmaIntElem_eq (d : Nat) (a b : Nat → Int) (w : Word) :
    mmaIntElem d a b w = BitVec.ofInt 32 (w.toInt + ((List.range d).map fun k => a k * b k).sum) := by
  unfold mmaIntElem
  rw [List.sum_eq_foldl]

theorem actMma_of_operands {s s1 s2 : State} {c : Ctx} {m : MOp} {f : MmaForm} {va vb : List Val} (ha : hRing m.ha = false) (hb : hRing m.hb = false)
    (hva : operandVals s (s.whoTask c 1 false) (s.envTask c) m.planes m.sx4 m.ha ((mmaFmt m.ha (mmaPair f.fp).1).getD 0) = (s1, .ok va))
    (hvb : operandVals s1 (s.whoTask c 1 false) (s.envTask c) m.planes m.sx4 m.hb ((mmaFmt m.hb (mmaPair f.fp).2.1).getD 0) = (s2, .ok vb)) :
    ∃ cell, actMma s c m f = (s2, .ok (tileOf c.eng.tile f.t cell)) ∧ ∀ i old j, cell i old j = mmaWord m f va vb i j (old j) := by
  have hops : m.operands c = (m.ha, m.hb) := by
    unfold MOp.operands
    rw [ha, hb]
    rfl
  unfold actMma
  rw [hops]
  dsimp only
  rw [hva]
  dsimp only
  rw [hvb]
  refine ⟨_, rfl, fun i old j => ?_⟩
  simp only [mmaWord, mmaSum, mmaIntElem_eq, List.getElem?_toArray, List.getD_eq_getElem?_getD]

/-! ### MATRIX_RETIRE of each operation -/

theorem MOp.form_eq_none {m : MOp} {i : Instr} (hinstr : m.instr = i) (h : MOp.form { m with instr := i } = none) : m.form = none := by
  subst hinstr
  exact h

section
variable {s : State} {c : Ctx} {m : MOp} (h : s.ActsAlone c m)
include h

theorem retires_of_tiles (hform : m.form = none) (hkat : ∀ q sum, m.instr ≠ .mkat q sum) {desc : Tab (BitVec 16)} {tile : Tab Word}
    (hact : actTile c m = c.withTiles desc tile) {post : Ctx → Prop}
    (hpost : ∀ x, x.eng.tile = tile → x.eng.tdesc = desc → x.bufs = c.popped m → post x) : s.Retires c post s.mem := by
  refine retires_of_actOp h (x := c.withTiles desc tile) ?_ h.away h.bad rfl rfl
    fun bt ph => hpost _ rfl rfl rfl
  rw [actOp_of_tiles h.ctx h.cancelled h.absorbed hform hkat (hact ▸ h.ms), hact]

theorem retires_of_kat {q : BitVec 8} {sum : BitVec 16} (hinstr : m.instr = .mkat q sum) (hsum : katSum q.toNat = sum.toNat)
    {post : Ctx → Prop} (hpost : ∀ x, x.eng.tile = c.eng.tile → post x) : s.Retires c post s.mem :=
  retires_of_actOp h (actOp_of_kat h.ctx h.ms h.cancelled h.absorbed hinstr hsum) h.away h.bad rfl rfl
    fun _ _ => hpost _ rfl

theorem retires_of_form {f : MmaForm} (hform : m.form = some f) {s2 : State} {tile : Tab Word} (hact : actMma s c m f = (s2, .ok tile))
    (hctx2 : s2.ctx s.subj = some c) (hbad : s2.bad = none) {post : Ctx → Prop} (hpost : ∀ x, x.eng.tile = tile → post x) : s.Retires c post s2.mem :=
  retires_of_actOp h (actOp_of_form h.ms h.cancelled h.absorbed hform hact hctx2) h.away hbad rfl rfl
    fun _ _ => hpost _ rfl

/-- What every word of every tile is. -/
def Ctx.Cells (f : Nat → Nat → Nat → Word) (x : Ctx) : Prop :=
  ∀ t i j, t < 16 → i < 128 → j < 128 → x.eng.tile.val 0 (tileWord t i j) = f t i j

theorem retires_mzero {mask : BitVec 16} (hinstr : m.instr = .mzero mask) :
    s.Retires c (Ctx.Cells fun t i j => if mask.getLsbD t then 0 else c.tile t i j) s.mem := by
  have hact : actTile c m = c.withTiles ((maskTiles mask).foldl (fun d t => d.put 0 t 0) c.eng.tdesc) ((maskTiles mask).foldl clearTile c.eng.tile) := by
    unfold actTile
    rw [hinstr]
    rfl
  refine retires_of_tiles h (MOp.form_eq_none hinstr rfl) (by simp [hinstr]) hact
    fun x htile _ _ t i j ht hi hj => ?_
  rw [htile, val_foldl_clearTile _ hi hj]
  simp only [mem_maskTiles ht]
  rfl

theorem retires_mcopy {t u : BitVec 4} (hinstr : m.instr = .mcopy t u) :
    s.Retires c (Ctx.Cells fun k i j => if k = t.toNat then c.tile u.toNat i j else c.tile k i j) s.mem := by
  have hact : actTile c m = c.withTiles (c.eng.tdesc.put 0 t.toNat (c.eng.tdesc.val 0 u.toNat)) (copyTile c.eng.tile t.toNat u.toNat) := by
    unfold actTile
    rw [hinstr]
    rfl
  refine retires_of_tiles h (MOp.form_eq_none hinstr rfl) (by simp [hinstr]) hact
    fun x htile _ _ k i j _ hi hj => ?_
  rw [htile]
  exact val_copyTile _ hi hj _ _

theorem retires_mrank {t : BitVec 4} {k : BitVec 6} {dir : Bool} (hinstr : m.instr = .mrank t k dir) :
    s.Retires c (fun x => x.eng.tdesc = c.eng.tdesc.put 0 t.toNat (rankedDesc k.toNat dir) ∧
      x.Cells fun k i j => if k = t.toNat then (if j < 64 then if j % 2 = 0 then 0x7FC00000 else 0xFFFFFFFF else 0) else c.tile k i j) s.mem := by
  have hact : actTile c m = c.withTiles (c.eng.tdesc.put 0 t.toNat (rankedDesc k.toNat dir))
      (c.eng.tile.replaceRun (tileWord t.toNat 0 0) (tileWord (t.toNat + 1) 0 0) (rankedTile t.toNat)) := by
    unfold actTile
    rw [hinstr]
    rfl
  refine retires_of_tiles h (MOp.form_eq_none hinstr rfl) (by simp [hinstr]) hact
    fun x htile hdesc _ => ⟨hdesc, fun k i j _ hi hj => ?_⟩
  rw [htile]
  dsimp only
  split
  · next hk =>
    subst hk
    exact (val_replaceRun_self _ hi hj _).trans (val_rankedTile hi hj)
  · next hk => exact val_replaceRun_of_ne _ hi hj hk (rankedTile_in_run _)

theorem retires_maddt {t u : BitVec 4} {ib : Bool} (hinstr : m.instr = .maddt t u ib) (hsum : descRanked (c.eng.tdesc.val 0 t.toNat) = false) :
    s.Retires c (Ctx.Cells fun k i j =>
      if k = t.toNat then
        if ib then c.tile k i j + c.tile u.toNat i j
        else BitVec.ofNat 32 (fp32.encode 0 false m.ftz 0 ((fp32.decode (c.tile k i j).toNat).add 0 (fp32.decode (c.tile u.toNat i j).toNat)))
      else c.tile k i j) s.mem := by
  have hact : actTile c m = actMaddt c m t.toNat u.toNat ib := by
    unfold actTile
    rw [hinstr]
  have hsums := hact.trans (if_neg (hsum ▸ Bool.false_ne_true))
  refine retires_of_tiles h (MOp.form_eq_none hinstr rfl) (by simp [hinstr])
    (desc := c.eng.tdesc) hsums fun x htile _ _ k i j _ hi hj => ?_
  rw [htile]
  exact val_tileOf (g := fun old => if ib then old + c.tile u.toNat i j
    else BitVec.ofNat 32 (round32 m.ftz ((fp32.decode old.toNat).add 0 (fp32.decode (c.tile u.toNat i j).toNat)))) _ hi hj fun _ => rfl

theorem retires_mpop {buf : BitVec 6} {n : BitVec 8} {k : Nat} (hinstr : m.instr = .mpop buf n)
    (hring : m.rings = [{ buf := buf.toNat, slot := some k, consume := true, n := n.toNat }]) :
    s.Retires c (fun x => x.Cells c.tile ∧ x.buf buf.toNat = BufEnt.popN n.toNat (c.buf buf.toNat)) s.mem := by
  have hact : actTile c m = c.withTiles c.eng.tdesc c.eng.tile := by
    unfold actTile
    rw [hinstr]
    rfl
  refine retires_of_tiles h (MOp.form_eq_none hinstr rfl) (by simp [hinstr]) hact
    fun x htile _ hbufs => ⟨fun t i j _ _ _ => by rw [htile]; rfl, ?_⟩
  have hpop : c.popped m = c.bufs.set buf.toNat (BufEnt.popN n.toNat (c.buf buf.toNat)) := by
    unfold Ctx.popped
    rw [hring]
    rfl
  unfold Ctx.buf
  rw [hbufs, hpop, Tab.val_set, if_pos rfl]
  rfl

end

/-! ### Batches and thresholds (R237, R250, R311, R323) -/

theorem Ctx.inFlight_iff {c : Ctx} {t : Nat} : c.inFlight t = true ↔ ∃ p ∈ c.eng.btile, p.2.getLsbD t = true := List.any_eq_true

theorem threshold_of_one_row (c : Ctx) (t first : Nat) :
    threshold c t first 1 = (match (c.rowPairs t first)[descK (c.eng.tdesc.val 0 t) - 1]? with
      | some p => if (fp32.decode p.1.toNat).isNan then (if descDir (c.eng.tdesc.val 0 t) then 0x7F800000 else 0xFF800000) else p.1
      | none => if descDir (c.eng.tdesc.val 0 t) then 0x7F800000 else 0xFF800000) := rfl

section
variable {s : State} {id : Nat} {c : Ctx} (hsees : s.Sees id c)
include hsees

theorem mzero_of_full (mask : BitVec 16) (h : 32 ≤ c.eng.ms.length) : exec (.mzero mask) s = .next s.stalls :=
  slotStep_stalls hsees.1 hsees.2.2 (if_pos (decide_eq_true h))

theorem mcommit_stalls (h : ∃ m ∈ c.eng.ms, m.batch = (c.eng.cur + 1) % 8) : exec .mcommit s = .next s.stalls :=
  slotStep_stalls hsees.1 hsees.2.2 (if_pos (Ctx.pend_eq_true_iff.mpr h))

/-- The context in which the next batch is open (R250). -/
def Ctx.committed (c : Ctx) : Ctx :=
  let n := (c.eng.cur + 1) % 8
  let masks := if c.pend c.eng.cur then c.eng.btile else c.eng.btile.del c.eng.cur
  { c with eng := { c.eng with cur := n, btile := masks.del n } }

theorem mcommit_of_retired (h : ¬ ∃ m ∈ c.eng.ms, m.batch = (c.eng.cur + 1) % 8) :
    exec .mcommit s = .next (s.setCtx id { c.committed with regs := s.after c.regs }) := by
  refine slotStep_setCtx (x := c.committed) hsees.1 ((if_neg (mt Ctx.pend_eq_true_iff.mp h)).trans ?_)
  exact State.updCtx_eq hsees.ctx_eq _

end

/-- MTHR of a tile that no batch writes (R323). -/
theorem mthr_cases {s : State} {id : Nat} {c : Ctx} (hsees : s.Sees id c) (d : BitVec 6) (t : BitVec 4) (first cntM1 : BitVec 7) :
    let flying := ∃ p ∈ c.eng.btile, p.2.getLsbD t.toNat = true
    let ranked := descRanked (c.eng.tissue.val 0 t.toNat)
    (flying → exec (.mthr d t first cntM1) s = .next (s.traps id 0x06 0 (t.setWidth 64))) ∧
    (¬ flying → ranked = false → exec (.mthr d t first cntM1) s = .next (s.traps id 0x07 0 (t.setWidth 64))) ∧
    (¬ flying → ranked = true →
      exec (.mthr d t first cntM1) s = .next (s.result id c d ((threshold c t.toNat first.toNat (cntM1.toNat + 1)).setWidth 64))) := by
  have hdetail : BitVec.ofNat 64 t.toNat = t.setWidth 64 := BitVec.ofNat_toNat 64 t
  refine ⟨fun hfly => ?_, fun hfly hranked => ?_, fun hfly hranked => ?_⟩
  · refine slotStep_raise hsees.1 ((if_pos (Ctx.inFlight_iff.mpr hfly)).trans ?_) (by decide)
    rw [hdetail]
    rfl
  · refine slotStep_raise hsees.1 ((if_neg (mt Ctx.inFlight_iff.mp hfly)).trans ((if_pos hranked).trans ?_)) (by decide)
    rw [hdetail]
    rfl
  · refine slotStep_regs hsees.1 ((if_neg (mt Ctx.inFlight_iff.mp hfly)).trans ((if_neg (by rw [hranked]; decide)).trans ?_))
    exact State.wrS_eq hsees.ctx_eq d _

/-- Settles O28: the issue side by the branches of the slots, the acting side by what one operation leaves in the words of the tiles. -/
theorem matrixBatchesAndActs : Obligations.MatrixBatchesAndActs := by
  refine ⟨?issue, ?act⟩
  case issue =>
    intro s id c t mask d first cntM1 hsees next busy desc flying far
    obtain ⟨hfly, hsum, hread⟩ := mthr_cases hsees d t first cntM1
    refine ⟨mzero_of_full hsees mask, mcommit_stalls hsees,
      fun h => ⟨_, _, mcommit_of_retired hsees h, s.ctx_setCtx id _, rfl, rfl, rfl, rfl, rfl⟩, hfly, hsum,
      fun h hranked => ⟨_, hread h hranked, fun hone => ?_⟩⟩
    subst hone
    exact threshold_of_one_row c t.toNat first.toNat
  case act =>
    intro s s1 s2 c m hctx hms hacted hcancelled habsorbed hcmd hrings hcore haway hbad hready acts cells old
    have h : s.ActsAlone c m := ⟨hctx, hms, hacted, hcancelled, habsorbed, hcmd, hcore, haway, hbad, hready⟩
    refine ⟨fun mask hi => retires_mzero h hi,
      fun t u hi => retires_mcopy h hi, fun t k dir hi => ?_,
      fun t u ib hi hsum => retires_maddt h hi hsum,
      fun q sum hi hkat => retires_of_kat h hi hkat fun x htile t i j _ _ _ => ?_,
      fun buf n k hi hring => retires_mpop h hi hring,
      fun f va vb hform ha hb ht hva hvb hctx2 hbad2 => ?_⟩
    · have hrank := retires_mrank h hi
      rw [rankedDesc_eq] at hrank
      exact hrank
    · rw [htile]
    · obtain ⟨cell, hact, hcell⟩ := actMma_of_operands ha hb hva hvb
      refine retires_of_form h hform hact hctx2 hbad2 fun x htile t i j _ hi hj => ?_
      rw [htile]
      exact (val_tileOf _ hi hj fun old => hcell i old j).trans (ite_and ..).symm

end Sys2Proof.Machine
end

section
/-! PROOF. A switch-out on a die that has no entry in the table of dies: its diversion entries are lost (O38). -/

namespace Sys2Proof.Machine

/-! ### What writes of the device leave of the dies -/

theorem State.devWrite_dies (s : State) (w : Who) (pa : Nat) (bs : List Byte) : (s.devWrite w pa bs).dies = s.dies := by
  by_cases h : pa + bs.length ≤ 2 ^ 39
  · obtain ⟨m, k, r, hw⟩ := State.devWrite_frame (s := s) (w := w) h
    rw [hw]
  · rw [State.devWrite, if_neg h]

theorem State.hideImage_dies (s : State) (c : Ctx) (off n : Nat) : (s.hideImage c off n).dies = s.dies := State.devWrite_dies _ _ _ _

theorem foldl_devWrite_dies (c : Ctx) (l : List (Nat × List Byte)) (s : State) :
    (l.foldl (fun s p => s.devWrite c.whoImage (s.imageBase c + p.1) p.2) s).dies = s.dies := by
  induction l generalizing s with
  | nil => rw [List.foldl_nil]
  | cons p l ih => rw [List.foldl_cons, ih, State.devWrite_dies]

theorem writeImage_eq (s : State) (id : Nat) (c : Ctx) :
    writeImage s id c = ((((imageSections s id c).foldl (fun s p => s.devWrite c.whoImage (s.imageBase c + p.1) p.2) s).hideImage c 0x1C00 2048).hideImage
      c 0x2A00 512).hideImage c 0xA000 40960 := rfl

theorem writeImage_dies (s : State) (id : Nat) (c : Ctx) : (writeImage s id c).dies = s.dies := by
  rw [writeImage_eq, State.hideImage_dies, State.hideImage_dies, State.hideImage_dies, foldl_devWrite_dies]

theorem foldl_keeps_dies {α : Type} {f : State → α → State} (hf : ∀ u a, (f u a).dies = u.dies) (l : List α) (s : State) :
    (l.foldl f s).dies = s.dies := by
  induction l generalizing s with
  | nil => rfl
  | cons a l ih => exact (ih _).trans (hf s a)

/-- The entries of the dies that the table of dies lists are changed; no die is added to it. -/
theorem State.mapDivs_dies_of_nil {s : State} (h : s.dies = []) (f : Nat → List DivEnt → List DivEnt) : (s.mapDivs f).dies = [] := by
  unfold State.mapDivs
  refine (foldl_keeps_dies (fun u k => ?_) _ _).trans ?_
  · split
    · rfl
    · exact State.devWrite_dies _ _ _ _
  · rw [h]
    rfl

theorem fin_eq_next {s t : State} (h : fin s = .next t) : t = s := by
  rcases fin_cases s with ⟨hnext, -⟩ | hfault
  · exact (Host.Outcome.next.inj (hnext.symm.trans h)).symm
  · rw [hfault] at h
    cases h

theorem quiesceDone_dies_of_nil {s t : State} {c : Ctx} {core : Nat} (hdies : s.dies = []) (hctx : s.ctx s.subj = some c) (hloc : c.loc = .resident core)
    (hleaving : c.leaving = true) (hover : c.isOver = false) (hquiet : s.quietTask s.subj c = true) (hmay : s.mayImage c = true)
    (hexec : exec .quiesceDone s = .next t) : t.dies = [] := by
  change execQuiesceDone s = .next t at hexec
  unfold execQuiesceDone at hexec
  dsimp only at hexec
  rw [hctx] at hexec
  dsimp only at hexec
  rw [hloc] at hexec
  dsimp only at hexec
  rw [if_neg (by rw [hleaving, hover]; decide), if_neg (by rw [hquiet]; decide), if_neg (by rw [hmay]; decide)] at hexec
  rw [fin_eq_next hexec]
  split
  all_goals rw [State.push_dies, writeImage_dies, State.setCtx_dies, State.mapDivs_dies_of_nil hdies]

/-! ### The switch-out -/

/-- A task with one block of slice 0 that leaves core 0 for the second save slot of its region. -/
def blockLeaver : Ctx := { edgeTask with leaving := true, slot := some 1, bufs := [(1, { BufEnt.none with mode := 1, lenM1 := 63, base := 0 })] }

/-- A package whose one task leaves, with every die as it stands at reset: the table of dies lists none. -/
def unlistedDies : State := { State.reset with cores := [(0, { Core.reset with ctx := some 0 })], ctxs := [(0, blockLeaver)] }

theorem unlistedDies_quiet : unlistedDies.quietTask 0 blockLeaver = true := by decide +kernel

theorem blockLeaver_runs : blockLeaver.runs = [(0, 1, 0)] := by decide +kernel

theorem unlistedDies_imageBase : unlistedDies.imageBase blockLeaver = 0xA00000 := by decide +kernel

/-- The diversion tables of dies as at reset are empty and lie at address 0, before the image. -/
theorem unlistedDies_divApart : unlistedDies.divApart blockLeaver (blockLeaver.runs.length + 1) := by
  intro d _
  rw [unlistedDies_imageBase, blockLeaver_runs]
  change 0 + 32 * (0 + 2) ≤ 2 ^ 39 ∧ (0 + 32 * (0 + 2) + 64 ≤ 0xA00000 ∨ _)
  exact ⟨by decide, .inl (by decide)⟩

/-- Refutes O38: QUIESCE_DONE installs the diversion entries of a switch-out in the dies that the table of dies lists (`mapDivs`), and nothing says
that it lists the die of the core. In `unlistedDies` it lists none, a die that is not listed standing as at reset: the task's one run of blocks is
saved, and no die has an entry for it. -/
theorem not_switches : ¬ Obligations.Switches := by
  intro hall
  obtain ⟨hout, -⟩ := hall
  obtain ⟨-, hquiesce, -⟩ := hout unlistedDies 0 0 0 0 0 blockLeaver rfl rfl (by rw [unlistedDies_imageBase]; decide) unlistedDies_divApart
  obtain ⟨-, hsaves⟩ := hquiesce rfl rfl rfl rfl unlistedDies_quiet (by decide) (by decide) (by decide)
  obtain ⟨t, x, hexec, -, -, -, -, -, -, hentries, -⟩ := hsaves rfl
  obtain ⟨e, he, -⟩ := hentries (0, 1, 0) (by rw [blockLeaver_runs]; exact List.mem_singleton.mpr rfl)
  have hnone : (t.die (dieOf 0)).div = [] := by
    unfold State.die
    rw [quiesceDone_dies_of_nil rfl rfl rfl rfl rfl unlistedDies_quiet rfl hexec]
    rfl
  rw [hnone] at he
  exact absurd he List.not_mem_nil

end Sys2Proof.Machine
end

section
/-! PROOF. A slot instruction decodes from its words (O57); codes and headers outside the encoding tables decode to nothing (O56). -/

namespace Sys2Proof

/-! ### The words of one slot (R232) -/

theorem words_eq_of_encode {op : SlotOp} {sp : Space} {ws : List Nat} (henc : encode op = some (sp, ws)) : op.words = ws := by
  unfold encode at henc
  split at henc
  · cases henc
  · exact congrArg Prod.snd (Option.some.inj henc)

/-- Opcode, operand bits and the guard's fields stay within their places, so each word of a slot has 32 bits. -/
theorem SlotOp.words_lt {op : SlotOp} (hwf : op.wf = true) : ∀ w ∈ op.words, w < 2 ^ 32 := by
  cases hfields : op.instr.fields with
  | none => simp [SlotOp.words, hfields]
  | some f =>
    obtain ⟨sp, code, w, e⟩ := f
    obtain ⟨hcode, hw, he, -⟩ := Laws.Enc.statement_all op.instr _ _ _ _ hfields (SlotOp.instr_wf hwf)
    have hreg := op.guard.reg.isLt
    have hbit := op.guard.bit.isLt
    have hpol := op.guard.pol.toNat_lt
    cases hx : op.x with
    | true =>
      simp only [SlotOp.words, hfields, hx, if_true, List.forall_mem_cons, List.not_mem_nil, false_implies, implies_true, and_true]
      omega
    | false =>
      simp only [SlotOp.words, hfields, hx, Bool.false_eq_true, if_false, List.forall_mem_singleton]
      omega

/-! ### Codes without an instruction (R276 to R280) -/

/-- The codes that a space's opcode table leaves unassigned (R277 to R280). -/
def Space.unassigned : Space → Nat → Bool
  | .alu, c => decide (c ∈ [0x2F, 0x3E, 0x3F] ∨ 0x44 ≤ c ∧ c < 0x48 ∨ 0x52 ≤ c ∧ c < 0x58 ∨ 0x5C ≤ c)
  | .ctl, c => decide (0x21 ≤ c)
  | .mat, c => decide (0x0C ≤ c)
  | .vec, c => decide (0x1A ≤ c)
  | .prm, c => decide (0x09 ≤ c)
  | .scl, c => decide (0x05 ≤ c)
  | .xfr, c => decide (0x13 ≤ c)

/-- Each row of a space's table stands at an assigned code; what is left is the table's last line. -/
theorem parseSpace_of_unassigned {sp : Space} {w : Nat} (h : sp.unassigned (w / 2 ^ 24 % 128) = true) (x : Bool) (e : Nat) :
    parseSpace sp x w e = none := by
  change sp.unassigned (w / 16777216 % 128) = true at h
  unfold parseSpace
  generalize w / 16777216 % 128 = code at h
  cases sp
  case' alu => unfold parseAlu
  case' ctl => unfold parseCtl
  case' mat => unfold parseMat
  case' vec => unfold parseVec
  case' prm => unfold parsePrm
  case' scl => unfold parseScl
  case' xfr => unfold parseXfr
  all_goals
    dsimp only
    split
    pick_goal -1
    · rfl
    all_goals exact absurd h (by decide)

theorem decodeSlot_of_unassigned {sp : Space} {w : Nat} (e : Nat) (h : sp.unassigned (w / 2 ^ 24 % 128) = true) : decodeSlot sp w e = none := by
  unfold decodeSlot
  simp only [parseSpace_of_unassigned h]

/-! ### Headers of another version (R231) -/

theorem decodeBundle_of_foreign_header {h : Nat} (hversion : h % 16 ≠ 1) (ws : List Nat) : decodeBundle (h :: ws) = none := by
  have hzfe : zfe h 0 4 1 = false := by simpa [zfe] using hversion
  unfold decodeBundle
  simp only [hzfe, Bool.false_eq_true, if_false]

end Sys2Proof

namespace Sys2Proof.Machine

/-- Settles O57: the slot's words are those of `SlotOp.words_decode`, each within 32 bits. -/
theorem decodeEncodeSlots : Obligations.DecodeEncodeSlots := by
  unfold Obligations.DecodeEncodeSlots
  intro op sp ws hwf hfit henc
  obtain ⟨hwords, -, hdecode⟩ := SlotOp.words_decode hwf hfit henc
  obtain rfl := words_eq_of_encode henc
  refine ⟨?_, SlotOp.words_lt hwf, hdecode⟩
  rw [hwords]
  split <;> rfl

/-- Settles O56: no table has a row for an unassigned code, and a header is read only with its low four bits 0001. -/
theorem unassignedCodes : Obligations.UnassignedCodes := by
  unfold Obligations.UnassignedCodes
  refine ⟨fun w e => ?_, fun _ ws hversion => decodeBundle_of_foreign_header hversion ws⟩
  have hnone (sp : Space) : sp.unassigned (w / 2 ^ 24 % 128) = true → decodeSlot sp w e = none := decodeSlot_of_unassigned e
  exact ⟨hnone .alu ∘ decide_eq_true, hnone .ctl ∘ decide_eq_true, hnone .mat ∘ decide_eq_true, hnone .vec ∘ decide_eq_true,
    hnone .prm ∘ decide_eq_true, hnone .scl ∘ decide_eq_true, hnone .xfr ∘ decide_eq_true⟩

end Sys2Proof.Machine
end

section
/-! PROOF. Integer sums, products, logic and moves (O1). -/

namespace Sys2Proof.Machine

/-! ### What an integer instruction writes (R285, R286) -/

section
variable {s : State} {id : Nat} {c : Ctx} (h : s.Acting id c) (d a b : BitVec 6) {v : DWord}
include h

/-- An integer instruction writes the value that its function of the registers has. -/
theorem aluOp_writes {f : Regs → DWord} (hv : f (s.srcRegs c) = v) : aluOp s d f = .next (s.result id c d v) := by
  rw [aluOp_eq h, hv]

/-- As `aluOp_writes`, for an operation on two registers with a form on words. -/
theorem byW_writes {w : Bool} {f64 : DWord → DWord → DWord} {f32 : Word → Word → Word} (hv : byW w f64 f32 (s.rs c a) (s.rs c b) = v) :
    aluOp s d (fun r => byW w f64 f32 (r.getS a) (r.getS b)) = .next (s.result id c d v) := aluOp_writes h d hv

end

/-- Where the low word of a result depends on the low words of its operands only, the form with W is the low word of the result. -/
theorem byW_eq_asWord (w : Bool) {f64 : DWord → DWord → DWord} {f32 : Word → Word → Word} {a b : DWord}
    (hlow : (f64 a b).setWidth 32 = f32 (a.setWidth 32) (b.setWidth 32)) : byW w f64 f32 a b = asWord w (f64 a b) := by
  cases w with
  | false => rw [byW, asWord, if_neg Bool.false_ne_true, if_neg Bool.false_ne_true]
  | true => rw [byW, asWord, if_pos rfl, if_pos rfl, hlow, sx32, lo32, lo32]

theorem setWidth_sub_of_le {n m : Nat} (h : m ≤ n) (a b : BitVec n) : (a - b).setWidth m = a.setWidth m - b.setWidth m := by
  rw [BitVec.sub_eq_add_neg, BitVec.setWidth_add _ _ h, BitVec.setWidth_neg_of_le h, ← BitVec.sub_eq_add_neg]

/-! ### High halves of products -/

/-- The quotient by 2^n of a number is the high half of its 2 n bits. -/
theorem ofInt_ediv_two_pow (n : Nat) (p : Int) : BitVec.ofInt n (p / 2 ^ n) = ((BitVec.ofInt (n + n) p) >>> n).setWidth n := by
  refine BitVec.eq_of_toNat_eq ?_
  rw [BitVec.toNat_setWidth, BitVec.toNat_ushiftRight, BitVec.toNat_ofInt, BitVec.toNat_ofInt, Nat.shiftRight_eq_div_pow]
  have hpos : (0 : Int) < 2 ^ n := by positivity
  obtain ⟨m, hm⟩ := Int.eq_ofNat_of_zero_le (Int.emod_nonneg p (by positivity : ((2 ^ (n + n) : Nat) : Int) ≠ 0))
  have hp : p = m + 2 ^ n * (2 ^ n * (p / (2 ^ (n + n) : Nat))) := by
    rw [← hm, ← mul_assoc, ← pow_add]
    exact_mod_cast (Int.emod_add_mul_ediv p ((2 ^ (n + n) : Nat) : Int)).symm
  have hquot : p / 2 ^ n = m / 2 ^ n + 2 ^ n * (p / (2 ^ (n + n) : Nat)) := by
    conv_lhs => rw [hp]
    exact Int.add_mul_ediv_left _ _ hpos.ne'
  rw [hm, hquot, Nat.cast_pow 2 n, Nat.cast_ofNat, Int.add_mul_emod_self_left]
  norm_cast

theorem mulHiS_eq {n : Nat} (a b : BitVec n) :
    mulHiS a b = ((a.signExtend (n + n) * b.signExtend (n + n)) >>> n).setWidth n := by
  rw [mulHiS, ofInt_ediv_two_pow, BitVec.ofInt_mul]
  rfl

theorem mulHiU_eq {n : Nat} (a b : BitVec n) : mulHiU a b = ((a.setWidth (n + n) * b.setWidth (n + n)) >>> n).setWidth n := by
  have hwide : BitVec.ofInt (n + n) (a.toNat * b.toNat : Int) = a.setWidth (n + n) * b.setWidth (n + n) := by
    rw [BitVec.ofInt_mul, BitVec.ofInt_natCast, BitVec.ofInt_natCast, BitVec.ofNat_toNat, BitVec.ofNat_toNat]
  rw [← hwide, ← ofInt_ediv_two_pow, mulHiU, ← BitVec.ofInt_natCast]
  push_cast
  rfl

/-! ### Fields replaced -/

/-- MOVK: a replaced field is the rest of the register with the new bits moved into their place. -/
theorem setFld_eq_mask (w : DWord) (k : BitVec 2) (v : BitVec 16) :
    setFld w (16 * k.toNat) 16 v.toNat
      = (w &&& ~~~((0xFFFF#64) <<< (16 * k.toNat))) ||| (v.setWidth 64 <<< (16 * k.toNat)) := by
  have hk : k.toNat < 4 := k.isLt
  have hones (j : Nat) : (0xFFFF#64).getLsbD j = decide (j < 16) := by
    rw [show (0xFFFF#64) = (BitVec.allOnes 16).setWidth 64 from rfl, BitVec.getLsbD_setWidth, BitVec.getLsbD_allOnes]
    by_cases h : j < 16
    · rw [decide_eq_true h, decide_eq_true (by omega : j < 64)]; rfl
    · rw [decide_eq_false h, Bool.and_false]
  refine BitVec.eq_of_getLsbD_eq fun i hi => ?_
  rw [getLsbD_setFld _ _ (by omega), Nat.mod_eq_of_lt v.isLt, BitVec.testBit_toNat]
  simp only [BitVec.getLsbD_or, BitVec.getLsbD_and, BitVec.getLsbD_not, BitVec.getLsbD_shiftLeft, BitVec.getLsbD_setWidth, hones, decide_eq_true hi,
    Bool.true_and]
  by_cases hbelow : i < 16 * k.toNat
  · rw [if_neg (by omega), decide_eq_true hbelow]
    simp
  · by_cases hin : i < 16 * k.toNat + 16
    · rw [if_pos (by omega), decide_eq_false hbelow, decide_eq_true (by omega : i - 16 * k.toNat < 16), decide_eq_true (by omega : i - 16 * k.toNat < 64)]
      simp
    · rw [if_neg (by omega), decide_eq_false (by omega : ¬ i - 16 * k.toNat < 16), BitVec.getLsbD_of_ge v _ (by omega)]
      simp

/-- Settles O1: each instruction is `aluOp_eq`; the forms with W are `byW_eq_asWord`, the high halves `mulHiS_eq` and `mulHiU_eq`, MOVK
`setFld_eq_mask`. -/
theorem intArithmetic : Obligations.IntArithmetic := by
  refine ⟨fun s id c d a b w h => ⟨?_, ?_, ?_⟩, fun s id c d a b h => ⟨?_, ?_, ?_, ?_⟩, fun s id c d a b e imm imm37 imm16 k n h =>
    ⟨?_, ?_, ?_, ?_, ?_, ?_, ?_, ?_, ?_, ?_, ?_, ?_, ?_⟩⟩
  · exact byW_writes h d a b (byW_eq_asWord w (BitVec.setWidth_add _ _ (by decide)))
  · exact byW_writes h d a b (byW_eq_asWord w (setWidth_sub_of_le (by decide) _ _))
  · exact byW_writes h d a b (byW_eq_asWord w (BitVec.setWidth_mul _ _ (by decide)))
  · exact byW_writes h d a b (mulHiS_eq _ _)
  · exact byW_writes h d a b (mulHiU_eq _ _)
  · exact byW_writes h d a b (congrArg sx32 (mulHiS_eq _ _))
  · exact byW_writes h d a b (congrArg sx32 (mulHiU_eq _ _))
  · exact aluOp_eq h d fun r => r.getS a &&& r.getS b
  · exact aluOp_eq h d fun r => r.getS a ||| r.getS b
  · exact aluOp_eq h d fun r => r.getS a ^^^ r.getS b
  · exact aluOp_eq h d fun r => r.getS a &&& ~~~(r.getS b)
  · exact aluOp_eq h d fun r => r.getS a * r.getS b + r.getS e
  · exact aluOp_eq h d fun r => r.getS a + (r.getS b <<< n.toNat)
  · exact aluOp_eq h d fun r => if (r.getS e).getLsbD 0 then r.getS a else r.getS b
  · exact aluOp_eq h d fun r => r.getS a + imm64 imm
  · exact aluOp_eq h d fun r => r.getS a &&& imm64 imm
  · exact aluOp_eq h d fun r => r.getS a ||| imm64 imm
  · exact aluOp_eq h d fun r => r.getS a ^^^ imm64 imm
  · exact aluOp_eq h d fun _ => imm64 imm37
  · exact aluOp_writes h d (f := fun r => setFld (r.getS d) (16 * k.toNat) 16 imm16.toNat) (setFld_eq_mask _ k imm16)

end Sys2Proof.Machine
end

section
/-! PROOF. The four divisions (O2). -/

namespace Sys2Proof.Machine

theorem quotS_eq {n : Nat} (a b : BitVec n) :
    quotS a b = if b = 0 then BitVec.allOnes n else BitVec.ofInt n (a.toInt.tdiv b.toInt) := by
  have hquot : a.sdiv b = BitVec.ofInt n (a.toInt.tdiv b.toInt) :=
    BitVec.eq_of_toInt_eq (by rw [BitVec.toInt_sdiv, BitVec.toInt_ofInt])
  rw [quotS, hquot]

theorem quotU_eq {n : Nat} (a b : BitVec n) :
    quotU a b = if b = 0 then BitVec.allOnes n else BitVec.ofNat n (a.toNat / b.toNat) := by
  rw [quotU, ← BitVec.toNat_udiv, BitVec.ofNat_toNat, BitVec.setWidth_eq]

theorem remS_eq {n : Nat} (a b : BitVec n) : remS a b = if b = 0 then a else BitVec.ofInt n (a.toInt.tmod b.toInt) := by
  rw [remS, ← BitVec.toInt_srem, BitVec.ofInt_toInt]

theorem remU_eq {n : Nat} (a b : BitVec n) : remU a b = if b = 0 then a else BitVec.ofNat n (a.toNat % b.toNat) := by
  rw [remU, ← BitVec.toNat_umod, BitVec.ofNat_toNat, BitVec.setWidth_eq]

/-- Settles O2: the division of each instruction at its width. -/
theorem intDivision : Obligations.IntDivision := by
  refine ⟨fun s id c d a b h => ⟨?_, ?_, ?_, ?_⟩, fun s id c d a b h => ⟨?_, ?_, ?_, ?_⟩⟩
  · exact byW_writes h d a b (quotS_eq _ _)
  · exact byW_writes h d a b (quotU_eq _ _)
  · exact byW_writes h d a b (remS_eq _ _)
  · exact byW_writes h d a b (remU_eq _ _)
  · exact byW_writes h d a b (congrArg sx32 (quotS_eq _ _))
  · exact byW_writes h d a b (congrArg sx32 (quotU_eq _ _))
  · exact byW_writes h d a b (congrArg sx32 (remS_eq _ _))
  · exact byW_writes h d a b (congrArg sx32 (remU_eq _ _))

end Sys2Proof.Machine
end

section
/-! PROOF. Minima, maxima and comparisons (O4). -/

namespace Sys2Proof.Machine

/-! ### A comparison writes a truth value (R285, R286) -/

section
variable {s : State} {id : Nat} {c : Ctx} (h : s.Acting id c) (d a b : BitVec 6) {f64 : DWord → DWord → Bool} {f32 : Word → Word → Bool} {p : Prop}
  [Decidable p]
include h

theorem cmpW_writes (hp : f64 (s.rs c a) (s.rs c b) = true ↔ p) :
    aluOp s d (fun r => cmpW false f64 f32 (r.getS a) (r.getS b)) = .next (s.result id c d (if p then 1 else 0)) :=
  aluOp_writes h d (if_congr hp rfl rfl)

theorem cmpW_word_writes (hp : f32 ((s.rs c a).setWidth 32) ((s.rs c b).setWidth 32) = true ↔ p) :
    aluOp s d (fun r => cmpW true f64 f32 (r.getS a) (r.getS b)) = .next (s.result id c d (if p then 1 else 0)) :=
  aluOp_writes h d (if_congr hp rfl rfl)

end

theorem ite_slt {n : Nat} {α : Type} (x y : BitVec n) (v w : α) : (if x.slt y then v else w) = if x.toInt < y.toInt then v else w :=
  if_congr BitVec.slt_iff_toInt_lt rfl rfl

theorem ite_ult {n : Nat} {α : Type} (x y : BitVec n) (v w : α) : (if x.ult y then v else w) = if x.toNat < y.toNat then v else w :=
  if_congr BitVec.ult_iff_toNat_lt rfl rfl

theorem slt_imm64_iff (x : DWord) (imm : BitVec 31) : x.slt (imm64 imm) = true ↔ x.toInt < imm.toInt := by
  rw [BitVec.slt_iff_toInt_lt, imm64, BitVec.toInt_signExtend_of_le (by decide)]

/-- Settles O4: `slt` and `ult` compare the values of their operands, signed and unsigned. -/
theorem intCompare : Obligations.IntCompare := by
  intro s id c d a b imm h
  refine ⟨⟨?_, ?_⟩, ⟨?_, ?_⟩, ⟨?_, ?_⟩, ⟨?_, ?_⟩, ⟨?_, ?_⟩, ⟨?_, ?_⟩, ⟨?_, ?_⟩, ⟨?_, ?_⟩, ?_⟩
  · exact byW_writes h d a b (ite_slt _ _ _ _)
  · exact byW_writes h d a b (congrArg sx32 (ite_slt _ _ _ _))
  · exact byW_writes h d a b (ite_slt _ _ _ _)
  · exact byW_writes h d a b (congrArg sx32 (ite_slt _ _ _ _))
  · exact byW_writes h d a b (ite_ult _ _ _ _)
  · exact byW_writes h d a b (congrArg sx32 (ite_ult _ _ _ _))
  · exact byW_writes h d a b (ite_ult _ _ _ _)
  · exact byW_writes h d a b (congrArg sx32 (ite_ult _ _ _ _))
  · exact cmpW_writes h d a b beq_iff_eq
  · exact cmpW_word_writes h d a b beq_iff_eq
  · exact cmpW_writes h d a b bne_iff_ne
  · exact cmpW_word_writes h d a b bne_iff_ne
  · exact cmpW_writes h d a b BitVec.slt_iff_toInt_lt
  · exact cmpW_word_writes h d a b BitVec.slt_iff_toInt_lt
  · exact cmpW_writes h d a b BitVec.ult_iff_toNat_lt
  · exact cmpW_word_writes h d a b BitVec.ult_iff_toNat_lt
  · exact aluOp_writes h d (f := fun r => if (r.getS a).slt (imm64 imm) then 1 else 0) (if_congr (slt_imm64_iff _ imm) rfl rfl)

end Sys2Proof.Machine
end

section
/-! PROOF. Shifts, counts and bit fields (O3). -/

namespace Sys2Proof.Machine

/-! ### Shifts (R285, R286) -/

section
variable {s : State} {id : Nat} {c : Ctx} (h : s.Acting id c) (d a : BitVec 6) {f64 : DWord → Nat → DWord} {f32 : Word → Nat → Word}
  (n : Regs → Nat) {v : DWord}
include h

theorem shiftW_writes (hv : f64 (s.rs c a) (n (s.srcRegs c) % 64) = v) :
    aluOp s d (fun r => shiftW false f64 f32 (r.getS a) (n r)) = .next (s.result id c d v) := aluOp_writes h d hv

theorem shiftW_word_writes (hv : sx32 (f32 (lo32 (s.rs c a)) (n (s.srcRegs c) % 32)) = v) :
    aluOp s d (fun r => shiftW true f64 f32 (r.getS a) (n r)) = .next (s.result id c d v) := aluOp_writes h d hv

end

theorem rotateRight_mod_eq_or {n : Nat} (x : BitVec n) (k : Nat) : x.rotateRight (k % n) = x >>> (k % n) ||| x <<< (n - k % n) := by
  rw [BitVec.rotateRight_def, Nat.mod_mod]

/-! ### Counts (R285) -/

section
variable {s : State} {id : Nat} {c : Ctx} (h : s.Acting id c) (d a : BitVec 6) {f64 : DWord → Nat} {f32 : Word → Nat}
include h

theorem countW_writes : aluOp s d (fun r => countW false f64 f32 (r.getS a)) = .next (s.result id c d (BitVec.ofNat 64 (f64 (s.rs c a)))) :=
  aluOp_eq h d _

theorem countW_word_writes :
    aluOp s d (fun r => countW true f64 f32 (r.getS a)) = .next (s.result id c d (BitVec.ofNat 64 (f32 (lo32 (s.rs c a))))) :=
  aluOp_eq h d _

end

theorem clzBits_of_ne_zero {n : Nat} {a : BitVec n} (h : a ≠ 0) : clzBits a + a.toNat.log2 + 1 = n := by
  have hne : a.toNat ≠ 0 := fun hz => h (BitVec.eq_of_toNat_eq hz)
  have hlog : a.toNat.log2 < n := (Nat.log2_lt hne).mpr a.isLt
  rw [clzBits, if_neg h]
  omega

/-- The count of leading zeros tells where the highest bit set is. -/
theorem clzBits_spec {n : Nat} (a : BitVec n) :
    clzBits a ≤ n ∧ a.toNat < 2 ^ (n - clzBits a) ∧ (clzBits a < n → a.toNat.testBit (n - 1 - clzBits a) = true) := by
  by_cases h : a = 0
  · have hclz : clzBits a = n := if_pos h
    rw [hclz, h]
    exact ⟨le_rfl, Nat.two_pow_pos _, fun hlt => absurd hlt (lt_irrefl n)⟩
  · have hclz := clzBits_of_ne_zero h
    have hne : a.toNat ≠ 0 := fun hz => h (BitVec.eq_of_toNat_eq hz)
    refine ⟨by omega, ?_, fun _ => ?_⟩
    · rw [show n - clzBits a = a.toNat.log2 + 1 by omega]
      exact Nat.lt_log2_self
    · rw [show n - 1 - clzBits a = a.toNat.log2 by omega]
      exact Nat.testBit_log2 hne

/-- The search for the lowest bit set, from position k on. -/
theorem ctzFrom_spec (v fuel k : Nat) :
    k ≤ ctzFrom v fuel k ∧ ctzFrom v fuel k ≤ k + fuel ∧ (∀ i, k ≤ i → i < ctzFrom v fuel k → v.testBit i = false) ∧
      (ctzFrom v fuel k < k + fuel → v.testBit (ctzFrom v fuel k) = true) := by
  induction fuel generalizing k with
  | zero => exact ⟨le_rfl, le_rfl, fun i hk hi => absurd hi (Nat.not_lt.mpr hk), fun h => absurd h (lt_irrefl k)⟩
  | succ fuel ih =>
    rw [ctzFrom]
    by_cases hbit : v.testBit k = true
    · rw [if_pos hbit]
      exact ⟨le_rfl, by omega, fun i hk hi => absurd hi (Nat.not_lt.mpr hk), fun _ => hbit⟩
    · rw [if_neg hbit]
      obtain ⟨hfrom, hto, hbelow, hset⟩ := ih (k + 1)
      refine ⟨by omega, by omega, fun i hk hi => ?_, fun h => hset (by omega)⟩
      obtain rfl | hk := Nat.eq_or_lt_of_le hk
      · exact Bool.eq_false_iff.mpr hbit
      · exact hbelow i hk hi

theorem ctzBits_spec {n : Nat} (a : BitVec n) :
    ctzBits a ≤ n ∧ (∀ i, i < ctzBits a → a.toNat.testBit i = false) ∧ (ctzBits a < n → a.toNat.testBit (ctzBits a) = true) := by
  obtain ⟨-, hto, hbelow, hset⟩ := ctzFrom_spec a.toNat n 0
  rw [Nat.zero_add] at hto hset
  exact ⟨hto, fun i => hbelow i (Nat.zero_le i), hset⟩

/-- What the three counts of a word tell of its value. -/
theorem counts_spec {n : Nat} {a : BitVec n} {x : Nat} (hx : a.toNat = x) :
    clzBits a ≤ n ∧ x < 2 ^ (n - clzBits a) ∧ (clzBits a < n → x.testBit (n - 1 - clzBits a) = true) ∧
      ctzBits a ≤ n ∧ (∀ i, i < ctzBits a → x.testBit i = false) ∧ (ctzBits a < n → x.testBit (ctzBits a) = true) ∧
      popBits a = ((List.range n).filter fun i => x.testBit i).length := by
  subst hx
  obtain ⟨hle, hlt, htop⟩ := clzBits_spec a
  obtain ⟨hle', hbelow, hset⟩ := ctzBits_spec a
  exact ⟨hle, hlt, htop, hle', hbelow, hset, rfl⟩

/-! ### Bit fields (R285) -/

/-- A field of a number, zero-extended to a register, bit by bit. -/
theorem getLsbD_ofNat_field (v lo n : Nat) {i : Nat} (hi : i < 64) :
    (BitVec.ofNat 64 (v / 2 ^ lo % 2 ^ n)).getLsbD i = (decide (i < n) && v.testBit (lo + i)) := by
  rw [BitVec.getLsbD_ofNat, decide_eq_true hi, Bool.true_and, Nat.testBit_mod_two_pow, Nat.testBit_div_two_pow, Nat.add_comm]

/-- A field of a number, sign-extended to a register, bit by bit. -/
theorem getLsbD_ofInt_signed_field (v lo : Nat) {n i : Nat} (hn : 0 < n) (hi : i < 64) :
    (BitVec.ofInt 64 (signed n (v / 2 ^ lo % 2 ^ n))).getLsbD i = v.testBit (lo + if i < n then i else n - 1) := by
  have hfield (j : Nat) (hj : j < n) : (BitVec.ofNat n (v / 2 ^ lo % 2 ^ n)).getLsbD j = v.testBit (lo + j) := by
    rw [BitVec.getLsbD_ofNat, decide_eq_true hj, Bool.true_and, Nat.testBit_mod_two_pow, decide_eq_true hj, Bool.true_and, Nat.testBit_div_two_pow,
      Nat.add_comm]
  change ((BitVec.ofNat n (v / 2 ^ lo % 2 ^ n)).signExtend 64).getLsbD i = _
  rw [BitVec.getLsbD_signExtend, decide_eq_true hi, Bool.true_and, BitVec.msb_eq_getLsbD_last]
  by_cases hin : i < n
  · rw [if_pos hin, if_pos hin, hfield i hin]
  · rw [if_neg hin, if_neg hin, hfield (n - 1) (by omega)]

/-- INS: a field replaced by the low bits of a register, bit by bit. -/
theorem getLsbD_setFld_toNat (w x : DWord) (lo n : Nat) (h : lo + n ≤ 64) (i : Nat) :
    (setFld w lo n x.toNat).getLsbD i = if lo ≤ i ∧ i < lo + n then x.getLsbD (i - lo) else w.getLsbD i := by
  rw [getLsbD_setFld w _ h]
  refine ite_congr rfl (fun hin => ?_) fun _ => rfl
  rw [Nat.testBit_mod_two_pow, decide_eq_true (by omega), Bool.true_and, BitVec.testBit_toNat]

theorem getLsbD_one_shiftLeft {k i : Nat} (hi : i < 64) : (1#64 <<< k).getLsbD i = decide (i = k) := by
  rw [BitVec.getLsbD_shiftLeft, BitVec.getLsbD_one, decide_eq_true hi, Bool.true_and, decide_eq_true (by decide : 0 < 64), Bool.true_and, ← decide_not,
    ← Bool.decide_and]
  exact decide_eq_decide.mpr (by omega)

/-- BSET: one bit set. -/
theorem getLsbD_or_one_shiftLeft (x : DWord) (k : Nat) {i : Nat} (hi : i < 64) : (x ||| 1#64 <<< k).getLsbD i = (decide (i = k) || x.getLsbD i) := by
  rw [BitVec.getLsbD_or, getLsbD_one_shiftLeft hi, Bool.or_comm]

/-- BCLR: one bit clear. -/
theorem getLsbD_and_not_one_shiftLeft (x : DWord) (k : Nat) {i : Nat} (hi : i < 64) :
    (x &&& ~~~(1#64 <<< k)).getLsbD i = (decide (i ≠ k) && x.getLsbD i) := by
  rw [BitVec.getLsbD_and, BitVec.getLsbD_not, getLsbD_one_shiftLeft hi, decide_eq_true hi, Bool.true_and, Bool.and_comm, decide_not]

end Sys2Proof.Machine

namespace Sys2Proof
open Machine

/-- Settles O3: the shifts by `shiftW_writes` and `shiftW_word_writes`, the counts by `counts_spec`, the fields by their lemmas bit by bit. -/
theorem intBits : Obligations.IntBits := by
  refine ⟨?shifts, ?counts, ?fields⟩
  case shifts =>
    intro s id c d a b n h
    have hcount : n.toNat % 64 = n.toNat := Nat.mod_eq_of_lt n.isLt
    refine ⟨⟨?_, ?_⟩, ⟨?_, ?_⟩, ⟨?_, ?_⟩, ⟨?_, ?_⟩, ⟨?_, fun hn => ?_⟩, ⟨?_, fun hn => ?_⟩, ⟨?_, fun hn => ?_⟩⟩
    · exact shiftW_writes h d a (fun r => (r.getS b).toNat) rfl
    · exact shiftW_word_writes h d a (fun r => (r.getS b).toNat) rfl
    · exact shiftW_writes h d a (fun r => (r.getS b).toNat) rfl
    · exact shiftW_word_writes h d a (fun r => (r.getS b).toNat) rfl
    · exact shiftW_writes h d a (fun r => (r.getS b).toNat) rfl
    · exact shiftW_word_writes h d a (fun r => (r.getS b).toNat) rfl
    · exact shiftW_writes h d a (fun r => (r.getS b).toNat) (rotateRight_mod_eq_or _ _)
    · exact shiftW_word_writes h d a (fun r => (r.getS b).toNat) (congrArg sx32 (rotateRight_mod_eq_or _ _))
    · exact shiftW_writes h d a (fun _ => n.toNat) (congrArg _ hcount)
    · exact shiftW_word_writes h d a (fun _ => n.toNat) (congrArg _ (congrArg _ (Nat.mod_eq_of_lt hn)))
    · exact shiftW_writes h d a (fun _ => n.toNat) (congrArg _ hcount)
    · exact shiftW_word_writes h d a (fun _ => n.toNat) (congrArg _ (congrArg _ (Nat.mod_eq_of_lt hn)))
    · exact shiftW_writes h d a (fun _ => n.toNat) (congrArg _ hcount)
    · exact shiftW_word_writes h d a (fun _ => n.toNat) (congrArg _ (congrArg _ (Nat.mod_eq_of_lt hn)))
  case counts =>
    intro s id c d a w h
    cases w with
    | false => exact ⟨_, _, _, countW_writes h d a, countW_writes h d a, countW_writes h d a, counts_spec (Nat.mod_eq_of_lt (s.rs c a).isLt).symm⟩
    | true =>
      exact ⟨_, _, _, countW_word_writes h d a, countW_word_writes h d a, countW_word_writes h d a, counts_spec (BitVec.toNat_setWidth 32 (s.rs c a))⟩
  case fields =>
    intro s id c d a b pos lenM1 h hfit
    refine ⟨_, _, _, _, _,
      aluOp_eq h d fun r => BitVec.ofInt 64 (signed (lenM1.toNat + 1) (fld (r.getS a) pos.toNat (lenM1.toNat + 1))),
      aluOp_eq h d fun r => BitVec.ofNat 64 (fld (r.getS a) pos.toNat (lenM1.toNat + 1)),
      aluOp_eq h d fun r => setFld (r.getS d) pos.toNat (lenM1.toNat + 1) (r.getS a).toNat,
      aluOp_eq h d fun r => r.getS a ||| (1#64 <<< ((r.getS b).toNat % 64)),
      aluOp_eq h d fun r => r.getS a &&& ~~~(1#64 <<< ((r.getS b).toNat % 64)), fun i hi => ⟨?_, ?_, ?_, ?_, ?_⟩⟩
    · exact getLsbD_ofInt_signed_field _ _ (Nat.succ_pos _) hi
    · exact getLsbD_ofNat_field _ _ _ hi
    · exact getLsbD_setFld_toNat _ _ pos.toNat (lenM1.toNat + 1) hfit i
    · exact getLsbD_or_one_shiftLeft _ _ hi
    · exact getLsbD_and_not_one_shiftLeft _ _ hi

end Sys2Proof
end

section
/-! PROOF. Handles: fields set, read and moved (O8). -/

namespace Sys2Proof.Machine

/-! ### Fields of a handle, bit by bit (R225, R296) -/

theorem getLsbD_setHfld (h : Handle) (x : DWord) (lo n : Nat) {i : Nat} (hi : i < 256) :
    (setHfld h lo n x.toNat).getLsbD i = if lo ≤ i ∧ i < lo + n then x.getLsbD (i - lo) else h.getLsbD i := by
  rw [setHfld, BitVec.getLsbD_ofNat, decide_eq_true hi, Bool.true_and, testBit_replaceBits _ _ (Nat.mod_lt _ (Nat.two_pow_pos n))]
  refine ite_congr rfl (fun hin => ?_) fun _ => rfl
  rw [Nat.testBit_mod_two_pow, decide_eq_true (by omega), Bool.true_and, BitVec.testBit_toNat]

/-- The place of each handle field by its code: low bit and width (R225, R296). -/
def handlePlaces : List (Nat × Nat) :=
  [(0, 56), (56, 8), (64, 16), (80, 16), (96, 16), (112, 16), (128, 32), (160, 32), (192, 32), (224, 8), (232, 4), (236, 4), (240, 4),
    (0, 64), (64, 64), (128, 64), (192, 64)]

theorem handlePlaces_getElem : ∀ k < 17, handlePlaces[k]? = some ((handleField k).1, (handleField k).2.1) ∧
    (handleField k).2.2 = decide (6 ≤ k ∧ k ≤ 8) ∧ 0 < (handleField k).2.1 := by decide

theorem handleField_of_place {k lo n : Nat} (h : handlePlaces[k]? = some (lo, n)) :
    handleField k = (lo, n, decide (6 ≤ k ∧ k ≤ 8)) ∧ 0 < n := by
  obtain ⟨hk, -⟩ := List.getElem?_eq_some_iff.mp h
  obtain ⟨hplace, hsigned, hpos⟩ := handlePlaces_getElem k hk
  obtain ⟨hlo, hn⟩ := Prod.mk.inj (Option.some.inj (hplace.symm.trans h))
  exact ⟨Prod.ext hlo (Prod.ext hn hsigned), hn ▸ hpos⟩

/-- What HGET makes of a field of a handle: a stride is sign-extended, any other field zero-extended. -/
def readField (h : Handle) (lo n : Nat) (stride : Bool) : DWord :=
  if stride then BitVec.ofInt 64 (signed n (hfld h lo n)) else BitVec.ofNat 64 (hfld h lo n)

theorem getLsbD_readField (h : Handle) (lo : Nat) {n i : Nat} (stride : Bool) (hn : 0 < n) (hi : i < 64) :
    (readField h lo n stride).getLsbD i
      = if i < n then h.getLsbD (lo + i) else if stride then h.getLsbD (lo + n - 1) else false := by
  cases stride with
  | true =>
    refine (getLsbD_ofInt_signed_field h.toNat lo hn hi).trans ?_
    by_cases hin : i < n
    · rw [if_pos hin, if_pos hin, BitVec.testBit_toNat]
    · rw [if_neg hin, if_neg hin, if_pos rfl, BitVec.testBit_toNat, Nat.add_sub_assoc hn]
  | false =>
    refine (getLsbD_ofNat_field h.toNat lo n hi).trans ?_
    by_cases hin : i < n
    · rw [if_pos hin, decide_eq_true hin, Bool.true_and, BitVec.testBit_toNat]
    · rw [if_neg hin, decide_eq_false hin, Bool.false_and]
      rfl

/-- BASE moved by a register (R296): the sum modulo 2^56, below bits that stay. -/
theorem hMove_toNat (h : Handle) (v : Nat) :
    (hMove h v).toNat % 2 ^ 56 = (h.toNat + v) % 2 ^ 56 ∧ (hMove h v).toNat / 2 ^ 56 = h.toNat / 2 ^ 56 := by
  have hbase : wrap 56 (hBase h + v) = (h.toNat + v) % 2 ^ 56 := by
    rw [wrap, ← Int.natCast_add, BitVec.ofInt_natCast, BitVec.toNat_ofNat, hBase, hfld, pow_zero, Nat.div_one, Nat.mod_add_mod]
  have hlt : h.toNat < 2 ^ 256 := h.isLt
  rw [hMove, hbase, setHfld, BitVec.toNat_ofNat, pow_zero, Nat.div_one, Nat.mul_one, Nat.mul_one]
  omega

/-! ### How a handle instruction ends -/

section
variable {s : State} {id : Nat} {c : Ctx} (h : s.Acting id c)
include h

/-- The spec lemma of the instructions that write one handle. -/
theorem slotStep_wrH {f : Nat → Ctx → State} {d : BitVec 5} {v : Handle} (hf : f id c = s.wrH id d v) :
    slotStep s f = .next (s.ends id c (c.regs.setH d v)) := by
  have ⟨_, hctx, _⟩ := h
  exact slotStep_regs h (hf.trans (State.wrH_eq hctx d v))

variable {lo n : Nat} {stride : Bool}

theorem execHset_eq {f : BitVec 6} (hfield : handleField f.toNat = (lo, n, stride)) (hd : BitVec 5) (a : BitVec 6) :
    execHset hd a f s = .next (s.ends id c (c.regs.setH hd (setHfld (s.rh c hd) lo n (s.rs c a).toNat))) :=
  slotStep_wrH h (by rw [hfield])

theorem execHget_eq {f : BitVec 6} (hfield : handleField f.toNat = (lo, n, stride)) (d : BitVec 6) (ha : BitVec 5) :
    execHget d ha f s = .next (s.result id c d (readField (s.rh c ha) lo n stride)) :=
  slotStep_wrS h (by rw [hfield]; rfl)

end

/-- Settles O8: the fields bit by bit by `getLsbD_setHfld` and `getLsbD_readField`, HADV by `hMove_toNat`. -/
theorem handles : Obligations.Handles := by
  refine ⟨fun s id c d a f h lo n hacting hplace => ?_, fun s id c hd ha a b k hacting => ?_⟩
  · obtain ⟨hfield, hpos⟩ := handleField_of_place hplace
    refine ⟨_, _, execHset_eq hacting hfield h a, execHget_eq hacting hfield d h, fun i hi => getLsbD_setHfld _ _ _ _ hi, fun i hi => ?_⟩
    rw [getLsbD_readField _ _ _ hpos hi]
    simp only [decide_eq_true_eq]
  · obtain ⟨hlow, hhigh⟩ := hMove_toNat (s.rh c ha) (s.rs c b).toNat
    refine ⟨_, _, slotStep_wrH hacting rfl, slotStep_wrH hacting rfl, hlow, hhigh, fun i hi => ?_⟩
    by_cases hk : k = 0
    · rw [if_pos hk, getLsbD_setHfld _ _ _ _ hi]
      exact if_congr (by omega) rfl (if_neg fun hstride => hstride.1 hk).symm
    · have hpos : 0 < k.toNat := Nat.pos_of_ne_zero fun hz => hk (BitVec.eq_of_toNat_eq hz)
      have hlo : 128 + 32 * (k.toNat - 1) = 96 + 32 * k.toNat := by omega
      have hk4 : k.toNat < 4 := k.isLt
      rw [if_neg hk, getLsbD_setHfld _ _ _ _ hi, getLsbD_setHfld _ _ _ _ hi, hlo]
      by_cases hin : 96 + 32 * k.toNat ≤ i ∧ i < 128 + 32 * k.toNat
      · rw [if_pos (by omega), if_neg (by omega), if_pos ⟨hk, hin⟩]
      · rw [if_neg (by omega)]
        exact if_congr (by omega) rfl (if_neg fun hstride => hin hstride.2).symm

end Sys2Proof.Machine
end

section
/-! PROOF. Transfers of control (O9). -/

namespace Sys2Proof.Machine

/-! ### Targets and conditions (R298) -/

theorem relTarget_eq (pc : Nat) (off : Int) : relTarget pc off = (((pc : Int) + 4 * off) % 2 ^ 64).toNat :=
  BitVec.toNat_ofInt _

/-- The condition of a branch on two registers, as R298 numbers it. -/
def BrHolds (cond : BitVec 3) (x y : DWord) : Prop :=
  match cond.toNat with
  | 0 => x = y
  | 1 => x ≠ y
  | 2 => x.toInt < y.toInt
  | 3 => y.toInt ≤ x.toInt
  | 4 => x.toNat < y.toNat
  | _ => y.toNat ≤ x.toNat

theorem brCond_iff (cond : BitVec 3) (x y : DWord) : brCond cond x y = true ↔ BrHolds cond x y := by
  have hge : (!x.slt y) = true ↔ y.toInt ≤ x.toInt := by rw [BitVec.slt_eq_decide, ← decide_not, decide_eq_true_iff, Int.not_lt]
  have hgeu : (!x.ult y) = true ↔ y.toNat ≤ x.toNat := by rw [BitVec.ult_eq_decide, ← decide_not, decide_eq_true_iff, Nat.not_lt]
  unfold brCond BrHolds
  generalize cond.toNat = n
  match n with
  | 0 => exact beq_iff_eq
  | 1 => exact bne_iff_ne
  | 2 => exact BitVec.slt_iff_toInt_lt
  | 3 => exact hge
  | 4 => exact BitVec.ult_iff_toNat_lt
  | _ + 5 => exact hgeu

/-! ### How a transfer ends (R298, R299) -/

section
variable {s : State} {id : Nat} {c : Ctx} {f : Nat → Ctx → State} {a : Nat}

/-- A transfer that writes nothing, to an aligned target. -/
theorem slotStep_goTo (h : s.Acting id c) (hf : f id c = s.goTo a) (ha : a % 4 = 0) : slotStep s f = .next (s.jumps id c a) :=
  slotStep_jump h (hf.trans (State.goTo_aligned ha s))

/-- A transfer with a link, to an aligned target. -/
theorem slotStep_link_goTo (h : s.Acting id c) (hf : f id c = (s.link id c).goTo a) (ha : a % 4 = 0) :
    slotStep s f = .next (s.goes id c (c.regs.setS 1 (BitVec.ofNat 64 (s.nextPc c))) a) := by
  have ⟨_, hctx, _⟩ := h
  refine slotStep_goto h ?_
  rw [hf, State.goTo_aligned ha, State.link, State.wrS_eq hctx]
  rfl

/-- A transfer with a link, to a misaligned target. -/
theorem slotStep_link_misaligned (h : s.Sees id c) (hf : f id c = (s.link id c).goTo a) (ha : a % 4 ≠ 0) :
    slotStep s f = .next ((if s.issue.on then
      s.setCtx id { c with regs := c.regs.setS 1 (BitVec.ofNat 64 (c.regs.pc + s.issue.len)) } else s).traps id 0x02 0 0) := by
  have ⟨hacting, _, _⟩ := h
  have ⟨_, hctx, _⟩ := hacting
  rw [slotStep_eq hacting, hf, State.goTo, if_pos ha, State.link, State.wrS_eq hctx, State.nextPc, h.pcOf_eq]
  exact congrArg Host.Outcome.next (settle_raise_after (s1 := s.setCtx id _) hacting rfl 0 (by decide))

end

/-- Settles O9: a transfer that goes is `slotStep_goTo` or `slotStep_link_goTo`, one that traps `slotStep_misaligned` or
`slotStep_link_misaligned`. -/
theorem transfer : Obligations.Transfer := by
  refine ⟨fun s id c cond a b off off43 h => ?_, fun s id c a h ha => ?_⟩
  · intro pc x y near far holds linked
    have hholds : brCond cond x y = true ↔ holds := brCond_iff cond x y
    have hnear : relTarget (s.pcOf c) off.toInt = near := relTarget_eq _ _
    have hfar : relTarget (s.pcOf c) off43.toInt = far := relTarget_eq _ _
    refine ⟨fun hb ha => ?_, fun hb => ?_, fun ha => ?_, fun ha => ?_, fun ha => ?_, fun ha => ?_, fun ha => ?_⟩
    · exact slotStep_goTo h ((if_pos (hholds.mpr hb)).trans (congrArg s.goTo hnear)) ha
    · exact slotStep_pass h (if_neg (mt hholds.mp hb))
    · exact slotStep_goTo h (congrArg s.goTo hfar) ha
    · exact slotStep_link_goTo h (congrArg (s.link id c).goTo hfar) ha
    · exact slotStep_goTo h rfl ha
    · exact slotStep_link_goTo h rfl ha
    · exact slotStep_goTo h rfl ha
  · exact ⟨slotStep_misaligned h.1 (if_pos ha), slotStep_link_misaligned h rfl ha⟩

end Sys2Proof.Machine
end

section
/-! PROOF. ERET, and return as the inverse of entry (O14). -/

namespace Sys2Proof.Machine

/-! ### ERET (R307, R384) -/

theorem trapReturn_misaligned {r : Regs} (h : r.tpc.toNat % 4 ≠ 0) : trapReturn r = none := if_pos h

section
variable {s : State} {id : Nat} {c : Ctx} (h : s.Acting id c)
include h

theorem execEret_goes (hin : c.regs.inTrap = true) (ha : c.regs.tpc.toNat % 4 = 0) :
    execEret s = .next (s.goes id c c.regs.resumed c.regs.resumed.pc) := by
  have ⟨_, hctx, _⟩ := h
  have hpc : c.regs.resumed.pc % 4 = 0 := by
    change c.regs.tpc.toNat % 2 ^ 56 % 4 = 0
    omega
  refine slotStep_goto h ?_
  rw [if_neg (by rw [hin]; decide), trapReturn_aligned ha]
  dsimp only
  rw [State.updCtx_eq hctx]
  exact State.goTo_aligned hpc _

theorem execEret_outside (hin : c.regs.inTrap = false) : execEret s = .next (s.traps id 0x0E 0 0) :=
  slotStep_raise h (if_pos hin) (by decide)

theorem execEret_misaligned (hin : c.regs.inTrap = true) (ha : c.regs.tpc.toNat % 4 ≠ 0) : execEret s = .next (s.traps id 0x02 0 0) :=
  slotStep_misaligned h (by rw [if_neg (by rw [hin]; decide), trapReturn_misaligned ha])

end

/-! ### Entry outside a debugger's step (R382) -/

/-- The registers with which a task enters its handler. -/
def Ctx.entering (c : Ctx) (t : Trap) : Regs := { c.regs with
  tpc := BitVec.ofNat 64 c.regs.pc
  tcause := BitVec.ofNat 64 (t.cause + b2n t.straddle * 2 ^ 8 + t.slot * 2 ^ 16)
  taddr := BitVec.ofNat 64 t.addr
  tdetail := t.detail
  trptc := c.regs.rptc
  rptc := 0
  sv := c.regs.st
  st := c.regs.st.entered
  inTrap := true
  pc := c.regs.tvec.toNat }

theorem State.endStep_setCtx {s : State} {id : Nat} {x : Ctx} (h : x.dbg.stepping = false) : (s.setCtx id x).endStep id = s.setCtx id x := by
  unfold State.endStep
  rw [State.ctx_setCtx]
  exact if_neg fun hstep => Bool.false_ne_true (h.symm.trans hstep.1)

theorem trapEntry_eq {s : State} {id : Nat} {c : Ctx} {t : Trap} (hctx : s.ctx id = some c) (hin : c.regs.inTrap = false)
    (hvec : c.regs.tvec ≠ 0) (hstep : c.dbg.stepping = false) :
    trapEntry s id t = s.setCtx id { c with trapWait := none, regs := c.entering t } := by
  unfold trapEntry
  rw [hctx]
  dsimp only
  rw [if_neg (fun h => Bool.false_ne_true (hin.symm.trans h.1)), if_neg hvec, State.endStep_setCtx (by exact hstep), hstep]
  rfl

/-- What a handler that changes nothing returns to: the task as entry found it, but for the trap registers. -/
theorem Ctx.entering_resumed {c : Ctx} {t : Trap} (hin : c.regs.inTrap = false) (hpc : c.regs.pc < 2 ^ 56) :
    (c.entering t).resumed = { c.regs with
      tpc := (c.entering t).tpc, tcause := (c.entering t).tcause, taddr := (c.entering t).taddr, tdetail := (c.entering t).tdetail,
      trptc := (c.entering t).trptc, sv := (c.entering t).sv } := by
  have hback : (BitVec.ofNat 64 c.regs.pc).toNat % 2 ^ 56 = c.regs.pc := by
    rw [BitVec.toNat_ofNat]
    omega
  simp only [Ctx.entering, Regs.resumed, hback, ← hin]

/-- Settles O14: ERET by its three lemmas; entry is `trapEntry_eq`, and its inverse `Ctx.entering_resumed`. -/
theorem trapReturns : Obligations.TrapReturns := by
  refine ⟨fun s id c h => ⟨execEret_goes h, execEret_outside h, execEret_misaligned h⟩, fun s id c t hctx hin hvec hstep hpc ha => ?_⟩
  have htpc : (c.entering t).tpc.toNat % 4 = 0 := by
    rw [Ctx.entering, BitVec.toNat_ofNat]
    omega
  exact ⟨_, _, (congrArg (·.ctx id) (trapEntry_eq hctx hin hvec hstep)).trans (s.ctx_setCtx id _), trapReturn_aligned htpc,
    Ctx.entering_resumed hin hpc⟩

end Sys2Proof.Machine
end

section
/-! PROOF. TRAP, SYS, BKPT and HALT (O13). -/

namespace Sys2Proof.Machine

/-! ### A trap that is taken at once (R382, R389) -/

/-- The task in its handler, once it has taken a trap. -/
def Ctx.handling (c : Ctx) (t : Trap) : Ctx := { c with trapWait := none, ph := { c.ph with rem := none }, regs := c.entering t }

theorem Ctx.entering_tcause {c : Ctx} {t : Trap} (h : t.straddle = false) : (c.entering t).tcause = BitVec.ofNat 64 (t.cause + t.slot * 2 ^ 16) := by
  rw [Ctx.entering, h, b2n, if_neg Bool.false_ne_true, Nat.zero_mul, Nat.add_zero]

theorem takeTrap_handles {s : State} {id : Nat} {c : Ctx} {t : Trap} (hctx : s.ctx id = some c)
    (hcause : t.cause ≠ Cause.dataError ∧ t.cause ≠ Cause.brk) (hin : c.regs.inTrap = false) (hvec : c.regs.tvec ≠ 0) (hwait : c.mustWait = false)
    (hstep : c.dbg.stepping = false) : takeTrap s id t = s.setCtx id (c.handling t) := by
  have hentry := trapEntry_eq (t := t) (s.ctx_setCtx id { c with ph := { c.ph with rem := none } }) hin hvec hstep
  rw [State.setCtx_setCtx] at hentry
  unfold takeTrap
  rw [hctx]
  dsimp only
  rw [if_neg hcause.1, if_neg hcause.2]
  exact (if_neg fun h => Bool.false_ne_true (hwait.symm.trans h)).trans hentry

theorem takeTrap_brk {s : State} {id : Nat} {c : Ctx} {t : Trap} (hctx : s.ctx id = some c) (hcause : t.cause = Cause.brk) :
    takeTrap s id t = haltTask s id { c with ph := { c.ph with rem := none } } Cause.brk := by
  unfold takeTrap
  rw [hctx]
  dsimp only
  rw [if_neg (by rw [hcause]; decide), if_pos hcause]

@[simp] theorem State.pushOnce_ctx (s : State) (n u : Nat) (e : Instr) (id : Nat) : (s.pushOnce n u e).ctx id = s.ctx id :=
  congrArg (Tab.look · id) (s.pushOnce_ctxs n u e)

@[simp] theorem State.pushOnce_issue (s : State) (n u : Nat) (e : Instr) : (s.pushOnce n u e).issue = s.issue := by
  unfold State.pushOnce
  split <;> rfl

theorem haltTask_ctx (s : State) (id : Nat) (c : Ctx) (cause : Nat) : (haltTask s id c cause).ctx id = some (c.halted cause) := by
  rw [haltTask, State.pushOnce_ctx, State.ctx_setCtx]

/-! ### TRAP and SYS (R284, R307) -/

/-- The task with its pc moved past a bundle. -/
def Ctx.passed (c : Ctx) (len : Nat) : Ctx := { c with regs := { c.regs with pc := c.regs.pc + len } }

section
variable {s : State} {id : Nat} {c : Ctx} {f : Nat → Ctx → State} {cause : Nat} {code : DWord}

/-- Inside a bundle a trap is left to the bundle's end, whatever its cause. -/
theorem slotStep_raise_in_bundle (h : s.Acting id c) (hon : s.issue.on = true) (hf : f id c = s.raise cause code) :
    slotStep s f = .next (s.traps id cause 0 code) := by
  have ⟨_, _, htrap, _⟩ := h
  rw [slotStep_eq h, hf]
  simp [settle, hon, State.traps, State.raise, State.raiseAt, htrap]

/-- TRAP and SYS in a bundle of their own: the trap is taken once the pc has moved on. -/
theorem slotStep_raise_follows (h : s.Alone id c) (hcause : cause = Cause.trap ∨ cause = Cause.sys) (hf : f id c = s.raise cause code) :
    slotStep s f = .next (takeTrap (s.setCtx id (c.passed s.issue.len)) id
      { cause := cause, addr := 0, detail := code, slot := s.issue.slot, straddle := false }) := by
  obtain ⟨hacting, hon, -⟩ := h
  have ⟨_, hctx, htrap, _⟩ := hacting
  rw [slotStep_eq hacting, hf]
  unfold settle
  rw [hon, if_neg Bool.false_ne_true]
  dsimp only
  rw [State.raise_trap htrap]
  dsimp only
  rw [if_pos hcause]
  simp only [State.raise, State.raiseAt, htrap]
  exact congrArg (fun u : State => Host.Outcome.next (takeTrap u id _)) (State.updCtx_eq hctx _)

/-- A task without a debugger's step, in no handler and with one installed, enters it after TRAP or SYS. -/
theorem slotStep_raise_enters (h : s.Alone id c) (hcause : cause = Cause.trap ∨ cause = Cause.sys) (hf : f id c = s.raise cause code)
    (hin : c.regs.inTrap = false) (hvec : c.regs.tvec ≠ 0) (hwait : c.mustWait = false) (hstep : c.dbg.stepping = false) :
    slotStep s f = .next (s.setCtx id ((c.passed s.issue.len).handling
      { cause := cause, addr := 0, detail := code, slot := s.issue.slot, straddle := false })) := by
  have hplain : cause ≠ Cause.dataError ∧ cause ≠ Cause.brk := by
    obtain rfl | rfl := hcause <;> decide
  have hpassed : (c.passed s.issue.len).mustWait = false := hwait
  rw [slotStep_raise_follows h hcause hf, takeTrap_handles (s.ctx_setCtx id (c.passed s.issue.len)) hplain hin hvec hpassed hstep, State.setCtx_setCtx]

end

/-! ### BKPT and HALT (R307, R389) -/

section
variable {s : State} {id : Nat} {c : Ctx} (h : s.Acting id c)
include h

theorem execBkpt_traps (hbken : bit c.dbg.ctl 0 = true) (code : BitVec 16) :
    execBkpt code s = .next (s.traps id 0x31 0 (code.setWidth 64)) := slotStep_raise h (if_pos hbken) (by decide)

theorem execBkpt_halts (hbken : bit c.dbg.ctl 0 = true) (hon : s.issue.on = false) (code : BitVec 16) :
    ∃ t x, execBkpt code s = .next t ∧ t.ctx id = some x ∧ x.dbg.stat = 0x131 ∧ x.regs = c.regs := by
  have ⟨_, hctx, _⟩ := h
  have hx := haltTask_ctx s id { c with ph := { c.ph with rem := none } } Cause.brk
  rw [← takeTrap_brk (t := { cause := Cause.brk, addr := 0, detail := code.setWidth 64, slot := s.issue.slot, straddle := false }) hctx rfl] at hx
  refine ⟨_, _, (execBkpt_traps h hbken code).trans ?_, hx, (by decide : BitVec.ofNat 64 (Cause.brk + 2 ^ 8) = 0x131), rfl⟩
  rw [State.traps, hon]
  rfl

theorem execHalt_ends (hbken : bit c.dbg.ctl 0 = false) : ∃ t x, execHalt s = .next t ∧ t.ctx id = some x ∧ x.isOver = true ∧
    t.agenda = s.agenda ++ [(s.now, id, .taskFault id 0x32 0)] := by
  have ⟨_, hctx, _⟩ := h
  have hfatal : s.fatal id Cause.halt 0 = (s.setCtx id { c with isOver := true, trapWait := none }).push 0 id (.taskFault id 0x32 0) := by
    rw [State.fatal, State.updCtx_eq hctx]
    rfl
  obtain ⟨hx, -, hagenda⟩ := settle_goes_on (s1 := s.fatal id Cause.halt 0) h (by rw [hfatal]; rfl)
    (by rw [hfatal, State.push_ctx, State.ctx_setCtx])
  refine ⟨_, _, (slotStep_eq h _).trans (by rw [hbken, if_neg Bool.false_ne_true]), hx, rfl, ?_⟩
  rw [hagenda, hfatal]
  rfl

theorem execHalt_halts (hbken : bit c.dbg.ctl 0 = true) :
    ∃ t x, execHalt s = .next t ∧ t.ctx id = some x ∧ x.dbg.stat = 0x132 ∧ x.regs = s.after c.regs := by
  have ⟨_, hctx, _⟩ := h
  obtain ⟨hx, -, -⟩ := settle_goes_on (s1 := (s.setCtx id (c.halted Cause.halt)).pushOnce 0 0 .preemptRequest) h
    (State.pushOnce_issue _ _ _ _) (haltTask_ctx s id c Cause.halt)
  exact ⟨_, _, (slotStep_eq h _).trans (by rw [hbken, if_pos rfl, State.updCtx_eq hctx]), hx,
    (by decide : BitVec.ofNat 64 (Cause.halt + 2 ^ 8) = 0x132), rfl⟩

end

/-- Settles O13: TRAP and SYS by `slotStep_raise_enters` and `slotStep_raise_in_bundle`, BKPT by the lemmas of a slot that passes or traps, HALT by
`execHalt_ends` and `execHalt_halts`. -/
theorem trapAndDebugInstructions : Obligations.TrapAndDebugInstructions := by
  refine ⟨fun s id c code h hin hvec hwait hstep i n hi => ?_, fun s id c code h hon => ⟨?_, ?_⟩, fun s id c code h => ⟨fun hbken => ⟨?_, ?_⟩,
    fun hbken => ⟨?_, fun hon => ?_, ?_⟩⟩⟩
  · have hexec : (n = Cause.trap ∨ n = Cause.sys) ∧ exec i s = slotStep s fun _ _ => s.raise n (code.setWidth 64) := by
      simp only [List.mem_cons, List.not_mem_nil, or_false, Prod.mk.injEq] at hi
      obtain ⟨rfl, rfl⟩ | ⟨rfl, rfl⟩ := hi
      · exact ⟨.inl rfl, rfl⟩
      · exact ⟨.inr rfl, rfl⟩
    obtain ⟨hcause, hexec⟩ := hexec
    exact ⟨_, _, hexec.trans (slotStep_raise_enters h hcause rfl hin hvec hwait hstep), rfl, rfl, rfl, Ctx.entering_tcause rfl, rfl, rfl, rfl,
      rfl, rfl, rfl, rfl, rfl⟩
  · exact slotStep_raise_in_bundle h hon rfl
  · exact slotStep_raise_in_bundle h hon rfl
  · exact slotStep_pass h (if_neg (by rw [hbken]; decide))
  · exact execHalt_ends h hbken
  · exact execBkpt_traps h hbken code
  · exact execBkpt_halts h hbken hon code
  · exact execHalt_halts h hbken

end Sys2Proof.Machine
end

section
/-! PROOF. Traps are entered, end their task, or wait (O12); events between bundles (O15). -/

namespace Sys2Proof.Machine

/-! ### Fatal traps and traps that wait (R380, R382) -/

/-- The task once a trap has ended it. -/
def Ctx.ended (c : Ctx) : Ctx := { c with isOver := true, trapWait := none }

theorem State.fatal_eq {s : State} {id : Nat} {c : Ctx} (hctx : s.ctx id = some c) (cause : Nat) (d : DWord) :
    s.fatal id cause d = (s.setCtx id c.ended).push 0 id (.taskFault id cause d.toNat) := by
  rw [State.fatal, State.updCtx_eq hctx]
  rfl

/-- The task with nothing left of the bundle that a trap has broken off. -/
def Ctx.brokenOff (c : Ctx) : Ctx := { c with ph := { c.ph with rem := none } }

theorem takeTrap_plain {s : State} {id : Nat} {c : Ctx} {t : Trap} (hctx : s.ctx id = some c)
    (hcause : t.cause ≠ Cause.dataError ∧ t.cause ≠ Cause.brk) :
    takeTrap s id t = if c.mustWait then s.setCtx id { c.brokenOff with trapWait := some t } else trapEntry (s.setCtx id c.brokenOff) id t := by
  unfold takeTrap
  rw [hctx]
  dsimp only
  rw [if_neg hcause.1, if_neg hcause.2]
  rfl

theorem trapEntry_fatal {s : State} {id : Nat} {c : Ctx} {t : Trap} (hctx : s.ctx id = some c) (hcause : t.cause ≠ Cause.engineFault)
    (h : c.regs.inTrap = true ∨ c.regs.tvec = 0) : trapEntry s id t = s.fatal id t.cause t.detail := by
  unfold trapEntry
  rw [hctx]
  dsimp only
  by_cases hin : c.regs.inTrap = true
  · rw [if_pos ⟨hin, hcause⟩]
  · rw [if_neg (fun h => hin h.1), if_pos (h.resolve_left hin)]
    cases c.xf.fq with
    | nil => rfl
    | cons f fq => exact if_neg hcause

/-! ### Events between bundles (R383, R389, R390) -/

@[simp] theorem State.pushOnce_mem (s : State) (n u : Nat) (e : Instr) : (s.pushOnce n u e).mem = s.mem := by
  unfold State.pushOnce
  split <;> rfl

theorem haltTask_mem (s : State) (id : Nat) (c : Ctx) (cause : Nat) : (haltTask s id c cause).mem = s.mem := State.pushOnce_mem _ _ _ _

section
variable {s : State} {id : Nat} {c : Ctx} (hon : (s.core s.subj).ctx = some id) (hctx : s.ctx id = some c)
include hon hctx

theorem execEngineFault_enters (hcore : c.coreNo = some s.subj) (hover : c.isOver = false) (hin : c.regs.inTrap = false) (hfq : c.xf.fq ≠ [])
    (hleaving : c.leaving = false) (hswitch : s.switchDue s.subj = false) (hwait : c.mustWait = false) (hop : c.ph.op = none)
    (hidle : (bit c.dbg.stat 8 || c.dbg.settling || c.ph.err || c.ph.rem.isSome || c.trapWait.isSome) = false) :
    execEngineFault s = .next (trapEntry (s.setCtx id { c with ph := { c.ph with op := none } }) id
      { cause := Cause.engineFault, addr := 0, detail := 0, slot := 0, straddle := false }) := by
  unfold execEngineFault
  simp only [Bool.or_eq_false_iff] at hidle
  simp [hon, hctx, hcore, hover, hin, hfq, hleaving, hswitch, hwait, hop, hidle]

theorem execDebugHalt_halts (hcore : c.coreNo = some s.subj) (hover : c.isOver = false) (hreq : bit c.dbg.ctl 3 = true)
    (hstat : bit c.dbg.stat 8 = false) (hop : c.ph.op = none) (hrem : c.ph.rem = none) (hwait : c.trapWait = none) :
    execDebugHalt s = .next (haltTask s id c Cause.halt) := by
  unfold execDebugHalt
  simp [hon, hctx, hcore, hover, hreq, hstat, hop, hrem, hwait]

theorem execDebugStepEnd_halts (hsettling : c.dbg.settling = true) (hsettle : bit c.dbg.ctl 2 = false) :
    execDebugStepEnd s = .next (haltTask s id c Cause.step) := by
  unfold execDebugStepEnd
  simp [hon, hctx, hsettling, hsettle]

end

/-- Settles O15: the event trap is `trapEntry_eq`, the two halts are `haltTask_ctx`. -/
theorem boundaryEvents : Obligations.BoundaryEvents := by
  refine fun s id c hon hctx hcore hover => ⟨fun hin hfq hop hrem herr hwait hstat hsettling hstep hmust hvec hleaving hswitch => ?_,
    fun hreq hstat hop hrem hwait => ?_, fun hsettling hsettle => ?_⟩
  · have henters := execEngineFault_enters hon hctx hcore hover hin hfq hleaving hswitch hmust hop (by simp [hstat, hsettling, herr, hrem, hwait])
    rw [trapEntry_eq (s.ctx_setCtx id _) (by exact hin) (by exact hvec) (by exact hstep), State.setCtx_setCtx] at henters
    exact ⟨_, _, henters, s.ctx_setCtx id _, by rw [Ctx.entering_tcause rfl]; decide, rfl, rfl, rfl, rfl, rfl, rfl⟩
  · exact ⟨_, _, execDebugHalt_halts hon hctx hcore hover hreq hstat hop hrem hwait, haltTask_ctx s id c _,
      (by decide : BitVec.ofNat 64 (Cause.halt + 2 ^ 8) = 0x132), rfl, haltTask_mem s id c _⟩
  · exact ⟨_, _, execDebugStepEnd_halts hon hctx hsettling hsettle, haltTask_ctx s id c _,
      (by decide : BitVec.ofNat 64 (Cause.step + 2 ^ 8) = 0x133), rfl, rfl, haltTask_mem s id c _⟩

end Sys2Proof.Machine

namespace Sys2Proof

open Machine

/-- Settles O12: entry is `takeTrap_handles`; a fatal trap and one that waits are the other branches of `takeTrap_plain`. -/
theorem trapEntry : Obligations.TrapEntry := by
  refine ⟨fun s id c t hctx hin hvec hwait hstep herr hbrk hstraddle => ?_, fun s id c t hctx hwait herr hbrk hengine hfatal => ?_,
    fun s id c t hctx hwait herr hbrk => ?_⟩
  · dsimp only
    rw [takeTrap_handles hctx ⟨herr, hbrk⟩ hin hvec hwait hstep, ← Ctx.entering_tcause (c := c) hstraddle]
    rfl
  · have heq : takeTrap s id t = (s.setCtx id c.brokenOff.ended).push 0 id (.taskFault id t.cause t.detail.toNat) := by
      rw [takeTrap_plain hctx ⟨herr, hbrk⟩, if_neg (by rw [hwait]; decide), trapEntry_fatal (s.ctx_setCtx id c.brokenOff) hengine hfatal,
        State.fatal_eq (s.ctx_setCtx id _), State.setCtx_setCtx]
    rw [heq]
    exact ⟨_, s.ctx_setCtx id _, rfl, rfl, rfl, rfl⟩
  · rw [takeTrap_plain hctx ⟨herr, hbrk⟩, if_pos hwait]
    rfl

end Sys2Proof
end

section
/-! PROOF. BOOTSTAT: its fields, and what a boot leaves in them (O49). -/

namespace Sys2Proof.Machine

/-! ### Bit masks of chosen numbers -/

theorem foldl_add_two_pow (l : List Nat) (n : Nat) : l.foldl (fun n k => n + 2 ^ k) n = n + (l.reverse.map (2 ^ ·)).sum := by
  induction l generalizing n with
  | nil => rfl
  | cons k l ih =>
    rw [List.foldl_cons, ih, List.reverse_cons, List.map_append, List.sum_append, List.map_singleton, List.sum_singleton]
    omega

/-- The mask with a bit for each number below `m` that is chosen. -/
theorem testBit_foldl_two_pow_filter_range (m : Nat) (p : Nat → Bool) {k : Nat} (hk : k < m) :
    (((List.range m).filter p).foldl (fun n k => n + 2 ^ k) 0).testBit k = p k := by
  have hfalling : ((List.range m).filter p).reverse.Pairwise (· > ·) :=
    List.pairwise_reverse.mpr (List.pairwise_lt_range.filter _)
  rw [foldl_add_two_pow, Nat.zero_add, testBit_sum_two_pow hfalling]
  simp [hk]

/-! ### What a boot leaves (R447) -/

/-- A stack has a pseudo-channel in service. -/
def stackServes (boot k : Nat) : Bool :=
  (((List.range 512).map fun n => (n, trained boot n)).filter fun p => decide (p.1 / 64 = k)).any fun p => !p.2.pcfail

theorem stackServes_iff (boot k : Nat) : stackServes boot k = true ↔ ∃ p, p < 512 ∧ p / 64 = k ∧ (trained boot p).pcfail = false := by
  simp [stackServes]

theorem bootReady_pch (s : State) {p : Nat} (h : p < 512) : (bootReady s).pch p = trained s.host.boots p := by
  have hpchs : (bootReady s).pchs = (List.range 512).map fun n => (n, trained s.host.boots n) := by
    unfold bootReady
    rw [foldl_push_scrub_refresh]
    dsimp only [State.push]
  rw [State.pch, Tab.val, hpchs, Tab.look_map_of_mem _ (List.mem_range.mpr h), Option.getD_some]

theorem bootReady_host (s : State) : (bootReady s).host = { s.host with
    phase := 6
    stackok := ((List.range 8).filter (stackServes s.host.boots)).foldl (fun n k => n + 2 ^ k) 0
    dieok := ((List.range 4).filter fun d => !(bootReady s).linksDown.contains d).foldl (fun n k => n + 2 ^ k) 0 } := by
  unfold bootReady
  rw [foldl_push_scrub_refresh]
  rfl

theorem bootReady_stackok (s : State) {k : Nat} (h : k < 8) :
    (bootReady s).host.stackok.testBit k = true ↔ ∃ p, p < 512 ∧ p / 64 = k ∧ ((bootReady s).pch p).pcfail = false := by
  rw [bootReady_host, testBit_foldl_two_pow_filter_range 8 _ h, stackServes_iff]
  refine exists_congr fun p => and_congr_right fun hp => ?_
  rw [bootReady_pch s hp]

theorem bootReady_dieok (s : State) {d : Nat} (h : d < 4) : (bootReady s).host.dieok.testBit d = true ↔ d ∉ (bootReady s).linksDown := by
  rw [bootReady_host, testBit_foldl_two_pow_filter_range 4 _ h]
  simp

/-- A boot that ends READY has started every image. -/
theorem execPowerUp_ready {s t : State} (hp : s.power = false) (hrom : s.host.phase = 0) (h : execPowerUp s = .next t) (hready : t.host.phase = 6) :
    ∃ u, u.host.imgstat = s.host.imgstat ∧ t = bootReady u := by
  cases hboot : bootImages bootOrder s.gecko with
  | ok g => exact ⟨{ s.powered with gecko := g }, rfl, (Host.Outcome.next.inj ((execPowerUp_ok hp hrom hboot).symm.trans h)).symm⟩
  | error e =>
    obtain rfl := Host.Outcome.next.inj ((execPowerUp_error hp hrom hboot).symm.trans h)
    exact absurd hready (by decide : (7 : Nat) ≠ 6)

theorem State.mgmtRead_bootstat (s : State) : s.mgmtRead 8 = bootstat s.host := by
  unfold State.mgmtRead
  simp only [OfNat.ofNat_ne_zero, if_false, if_true]

/-- Settles O49: the fields of BOOTSTAT by arithmetic, READY by `bootReady_stackok` and `bootReady_dieok`, a failed boot by `execPowerUp_error`. -/
theorem bootStatus : Obligations.BootStatus := by
  refine ⟨fun s hphase himg hfail hstack hdie => ?_, fun s t hp hrom hexec hready => ?_, fun s kind st hp hrom hfail => ?_, rfl, rfl, rfl, rfl⟩
  · have hread : (s.mgmtRead 8).toNat = s.host.phase + s.host.imgstat * 2 ^ 8 + s.host.failkind * 2 ^ 16 + s.host.stackok * 2 ^ 24 +
        s.host.dieok * 2 ^ 32 := by
      rw [s.mgmtRead_bootstat, bootstat, BitVec.toNat_ofNat]
      omega
    dsimp only
    rw [hread]
    omega
  · obtain ⟨u, himg, hu⟩ := execPowerUp_ready hp hrom hexec hready
    rw [hu]
    refine ⟨fun k hk => bootReady_stackok u hk, fun d hd => bootReady_dieok u hd, ?_⟩
    rw [bootReady_host, himg]
  · exact ⟨_, execPowerUp_error hp hrom hfail, rfl, rfl, rfl, rfl⟩

end Sys2Proof.Machine
end

section
/-! PROOF. The order of the command ring, its tags and its keys (O44). -/

namespace Sys2Proof.Machine

/-! ### Judgements (R425) -/

/-- A ring of one command that is answered at once: the response is written, and the ring is at rest. -/
theorem ringNext_answers {s : State} {k : RingCmd} {st : Nat} {adv : Bool} (hresp : s.respSafe) (hhead : ringHead s = some (s, k))
    (hjudge : ringJudge s.gecko k = .answer st adv) (hlast : (s.host.crhead + 1) % 2 ^ 32 = s.host.crtail) :
    ringNext 1024 s = respond { s with gecko := s.gecko.noted st adv } k st [] := by
  obtain ⟨-, -, -, hcrhead, hcrtail⟩ := respond_facts (s := { s with gecko := s.gecko.noted st adv }) hresp k st
  rw [ringNext, hhead]
  dsimp only
  rw [hjudge]
  exact ringNext_rest ((hcrhead.trans hlast).trans hcrtail.symm)

theorem ringNext_performs {s : State} {k : RingCmd} {i : Instr} (hhead : ringHead s = some (s, k)) (hjudge : ringJudge s.gecko k = .perform i) :
    ringNext 1024 s = s.pushOnce 0 0 i := by
  rw [ringNext, hhead]
  dsimp only
  rw [hjudge]

section
variable {g : Gecko} {k : RingCmd} {key : List Byte} (hkey : g.ringKey = some key) (hfits : 64 + k.len + 48 ≤ 8192)
include hkey hfits

theorem ringJudge_badTag (htag : ringTag key (k.hdr ++ k.payload) ≠ k.tag) : ringJudge g k = .answer Status.badTag false := by
  rw [ringJudge, if_neg (Nat.not_lt.mpr hfits), hkey]
  exact if_pos (.inl htag)

/-- With the right tag, halting and the sequence number decide. -/
theorem ringJudge_tagged (htag : ringTag key (k.hdr ++ k.payload) = k.tag) (hop : k.op ≠ 1) :
    ringJudge g k = if g.halted then
        if k.op = 0x02 ∧ g.e ≤ k.seq ∧ k.seq < seqMax then .perform .resync else .answer Status.halted false
      else if k.seq < g.e then .answer Status.replay false
      else if g.e < k.seq then .answer Status.gap false
      else if k.op = 0x03 then .perform .rekey
      else if g.e = seqMax then .answer Status.rekeyOnly false
      else k.run := by
  rw [ringJudge, if_neg (Nat.not_lt.mpr hfits), hkey]
  exact if_neg (fun h => h.elim (fun hbad => hbad htag) hop)

end

/-! ### The doorbell (R444) -/

/-- The package with a new TAIL of its command ring. -/
def State.rung (s : State) (tail : Nat) : State := { s with host := { s.host with crtail := tail } }

section
variable {s : State} {tail : BitVec 32} (hready : s.host.phase = 6)
  (hroom : (tail.toNat + 2 ^ 32 - s.host.crhead) % 2 ^ 32 ≤ 2 ^ s.host.crslot)
include hready hroom

theorem execCrDoorbell_ready : execCrDoorbell tail s = fin (ringNext 1024 (s.rung tail.toNat)) := by
  refine if_neg ?_
  rw [State.hostReady, hready]
  exact fun h => h.elim (by decide) (Nat.not_lt.mpr hroom)

theorem execCrDoorbell_rests (hrest : tail.toNat = s.host.crhead) (hbad : s.bad = none) : execCrDoorbell tail s = .next (s.rung tail.toNat) := by
  have hnext : ringNext 1024 (s.rung tail.toNat) = s.rung tail.toNat := ringNext_rest hrest.symm
  rw [execCrDoorbell_ready hready hroom, hnext]
  exact fin_ok hbad

theorem execCrDoorbell_performs {k : RingCmd} {i : Instr} (hbad : s.bad = none) (hhead : ringHead (s.rung tail.toNat) = some (s.rung tail.toNat, k))
    (hjudge : ringJudge s.gecko k = .perform i) : execCrDoorbell tail s = .next ((s.rung tail.toNat).pushOnce 0 0 i) := by
  rw [execCrDoorbell_ready hready hroom, ringNext_performs hhead hjudge]
  refine fin_ok ?_
  rw [State.pushOnce_bad]
  exact hbad

theorem execCrDoorbell_answers {k : RingCmd} {st : Nat} {adv : Bool} (hsafe : s.ringSafe)
    (hhead : ringHead (s.rung tail.toNat) = some (s.rung tail.toNat, k)) (hjudge : ringJudge s.gecko k = .answer st adv)
    (hlast : (s.host.crhead + 1) % 2 ^ 32 = tail.toNat) :
    execCrDoorbell tail s = .next (respond { s.rung tail.toNat with gecko := s.gecko.noted st adv } k st []) := by
  obtain ⟨hbad, -, hresp⟩ := hsafe
  obtain ⟨hbad', -⟩ := respond_facts (s := { s.rung tail.toNat with gecko := s.gecko.noted st adv }) hresp k st
  rw [execCrDoorbell_ready hready hroom, ringNext_answers (s := s.rung tail.toNat) hresp hhead hjudge hlast]
  exact fin_ok (hbad'.trans hbad)

end

/-! ### The operations on the ring's keys (R425) -/

/-- The ring with a key installed. -/
def State.rekeyed (s : State) (g : Gecko) : State := { s with gecko := g }

section
variable {s : State} {k : RingCmd}

/-- An operation that changes the Gecko pair alone, and answers. -/
theorem ringOp_rekeys {i : Instr} (hrun : s.ringRuns k i) {f : State → RingCmd → State × Option (Nat × List Byte)} {g : Gecko} {st : Nat}
    (hf : f s k = (s.rekeyed g, some (st, []))) : ringOp s i f = .next (respond (s.rekeyed g) k st []) :=
  ringOp_answers (t := s.rekeyed g) hrun hrun.bad_eq rfl hf

/-- The key that a KEYEX derives. -/
def RingCmd.exchanged (k : RingCmd) (g : Gecko) : List Byte := Config.hkdf (Config.kemDecaps g.kexSeed k.payload) (asciiBytes "evovia-ring")

theorem execKeyex_installs (hrun : s.ringRuns k .keyex) (htag : ringTag (k.exchanged s.gecko) (k.hdr ++ k.payload) = k.tag) :
    execKeyex s = .next (respond (s.rekeyed { s.gecko with ringKey := some (k.exchanged s.gecko), e := 0, halted := false }) k Status.ok []) :=
  ringOp_rekeys hrun (if_pos htag)

theorem execKeyex_badTag (hrun : s.ringRuns k .keyex) (htag : ringTag (k.exchanged s.gecko) (k.hdr ++ k.payload) ≠ k.tag) :
    execKeyex s = .next (respond (s.rekeyed { s.gecko with badtags := s.gecko.badtags + 1 }) k Status.badTag []) :=
  ringOp_rekeys hrun (if_neg htag)

theorem execResync_answers (hrun : s.ringRuns k .resync) :
    execResync s = .next (respond (s.rekeyed { s.gecko with e := k.seq + 1, halted := false }) k Status.ok []) :=
  ringOp_rekeys hrun rfl

theorem execRekey_installs (hrun : s.ringRuns k .rekey) {key : List Byte} (hkey : Config.keyUnwrap (s.gecko.ringKey.getD []) k.payload = some key) :
    execRekey s = .next (respond (s.rekeyed { s.gecko with ringKey := some key, e := 0 }) k Status.ok []) :=
  ringOp_rekeys hrun (by rw [hkey]; rfl)

end

/-- Settles O44: the doorbell by what the ring does of its head, the judgements by `ringJudge_badTag` and `ringJudge_tagged`, the key operations by
their lemmas. -/
theorem ringOrder : Obligations.RingOrder := by
  refine ⟨fun s k tail hready => ⟨fun hover => if_pos (.inr hover), fun hroom hrest hbad => ?_, fun hroom hsafe hhead => ?_⟩,
    fun g k key hkey hfits => ⟨ringJudge_badTag hkey hfits, fun htag hop hopen => ⟨fun hold => ?_, fun hnew => ?_, fun hseq hrekey => ?_⟩,
      fun htag hop hhalted hresync => ?_, fun htag hhalted hresync hold hnew => ?_, rfl, rfl, rfl⟩,
    fun s k key => ⟨fun hrun htag => ?_, fun hrun htag => ?_, execResync_answers, fun hrun hkey => execRekey_installs hrun hkey⟩⟩
  · exact execCrDoorbell_rests hready hroom hrest hbad
  · have ⟨hbad, _⟩ := hsafe
    exact ⟨fun i hjudge => execCrDoorbell_performs hready hroom hbad hhead hjudge,
      fun st adv hjudge hlast => execCrDoorbell_answers hready hroom hsafe hhead hjudge hlast⟩
  · rw [ringJudge_tagged hkey hfits htag hop, hopen]
    exact if_pos hold
  · rw [ringJudge_tagged hkey hfits htag hop, hopen, if_neg Bool.false_ne_true, if_neg (Nat.lt_asymm hnew)]
    exact if_pos hnew
  · rw [ringJudge_tagged hkey hfits htag hop, hopen, if_neg Bool.false_ne_true, hseq, if_neg (Nat.lt_irrefl _), if_neg (Nat.lt_irrefl _)]
    exact if_pos hrekey
  · rw [ringJudge_tagged hkey hfits htag hop, hhalted, if_pos rfl]
    exact if_neg fun h => hresync h.1
  · rw [ringJudge_tagged hkey hfits htag (by rw [hresync]; decide), hhalted, if_pos rfl]
    exact if_pos ⟨hresync, hold, hnew⟩
  · exact execKeyex_installs hrun htag
  · exact execKeyex_badTag hrun htag

end Sys2Proof.Machine
end

section
/-! PROOF. Attestation, fuses, worlds, ranges, frames and keys by command (O45). -/

namespace Sys2Proof.Machine

/-! ### Responses that carry a payload (R424) -/

theorem State.msix_frame (s : State) (v : Nat) : ∃ h, s.msix v = { s with host := h } ∧ h.crhead = s.host.crhead ∧ h.crtail = s.host.crtail := by
  unfold State.msix
  split <;> exact ⟨_, rfl, rfl, rfl⟩

/-- A response that its slot holds changes memory with its keys and the host interface alone. -/
theorem respond_frame {s : State} (h : s.respSafe) (k : RingCmd) (st : Nat) {bs : List Byte} (hbs : bs.length ≤ 8128) :
    ∃ m key host, respond s k st bs = { s with mem := m, keyed := key, host := host } ∧
      host.crhead = (s.host.crhead + 1) % 2 ^ 32 ∧ host.crtail = s.host.crtail := by
  unfold respond
  extract_lets body tag written host
  have hbody : body.length = 16 + bs.length := by
    rw [List.length_append, List.length_append, leBytes_length, leBytes_length]
  have htag : tag.length ≤ 48 := by
    unfold tag
    split
    · simp [ringTag, fitBytes]
    · exact Nat.zero_le _
  obtain ⟨m, key, hwrite⟩ := State.devWrite_device (s := s) (w := whoDevice) (by decide)
    (respond_inHbm h s.host.crhead (bs := body ++ tag) (by rw [List.length_append, hbody]; omega))
  have hwritten : written = { s with mem := m, keyed := key } := hwrite
  obtain ⟨x, hx, hhead, htail⟩ := State.msix_frame
    { s with mem := m, keyed := key, host := { s.host with crhead := (s.host.crhead + 1) % 2 ^ 32 } } 1
  refine ⟨m, key, x, Eq.trans ?_ hx, hhead, htail⟩
  simp only [host, hwritten]

section
variable {s t : State} {k : RingCmd} {i : Instr} {st : Nat} {bs : List Byte} (hrun : s.ringRuns k i) (hbad : t.bad = none)
  (hhost : t.host = s.host) (hbs : bs.length ≤ 8128)
include hrun hhost hbad hbs

/-- An operation that answers with a payload ends with its response. -/
theorem ringOp_reports {f : State → RingCmd → State × Option (Nat × List Byte)} (hf : f s k = (t, some (st, bs))) :
    ringOp s i f = .next (respond t k st bs) := by
  obtain ⟨m, key, host, hresp, hhead, htail⟩ := respond_frame (hrun.respSafe hhost) k st hbs
  have ⟨_, _, _, hlast, _⟩ := hrun
  rw [hhost] at hhead htail
  rw [ringOp_eq hrun, hf]
  dsimp only
  rw [ringNext_rest (by rw [hresp]; exact (hhead.trans hlast).trans htail.symm)]
  exact fin_ok (by rw [hresp]; exact hbad)

theorem ringPlain_reports {f : State → RingCmd → State × Nat × List Byte} (hf : f s k = (t, st, bs)) :
    ringPlain s i f = .next (respond t.counted k st bs) :=
  ringOp_reports (t := t.counted) hrun hbad hhost hbs (by rw [hf]; rfl)

end

/-! ### Reports (R414) -/

theorem length_fitBytes (n : Nat) (l : List Byte) : (fitBytes n l).length = n := by simp [fitBytes]

theorem length_report (g : Gecko) (w : Nat) (nonce : List Byte) : (report g w nonce).length = 5037 := by
  have hmeasure : g.measure.length = 240 := by
    rw [Gecko.measure, List.length_flatMap]
    simp only [length_fitBytes, span, List.map_map]
    rfl
  simp [report, reportBody, length_fitBytes, leBytes_length, hmeasure]

/-! ### A world that a command names (R423) -/

/-- The package with a world changed. -/
def State.withWorld (s : State) (w : Nat) (x : World) : State := { s with gecko := { s.gecko with worlds := s.gecko.worlds.set w x } }

/-- World `w` exists, is not being destroyed, and is not the hypervisor's. -/
def Gecko.Live (g : Gecko) (w : Nat) (x : World) : Prop := g.worlds.look w = some x ∧ x.dying = false ∧ w ≠ 0

theorem Gecko.Live.worldBar {g : Gecko} {w : Nat} {x : World} (h : g.Live w x) : g.worldBar w = none := by
  obtain ⟨hlook, hdying, hw⟩ := h
  rw [Gecko.worldBar, if_neg hw, hlook]
  exact if_neg (by rw [hdying]; decide)

section
variable {s : State} {k : RingCmd} {w : Nat} (hw : fld (k.w 2) 0 3 = w)

/-! ### ATTEST and SVNRAISE (R412, R414) -/

theorem execAttest_device (hrun : s.ringRuns k .attest) (hkey : s.gecko.ringKey = none) :
    execAttest s = .next (respond s.counted k Status.ok (report s.gecko 0xFF ((k.hdr.drop 24).take 32))) :=
  ringPlain_reports hrun hrun.bad_eq rfl (by rw [length_report]; decide) (by dsimp only; rw [hkey]; rfl)

theorem execAttest_world {x : World} (hrun : s.ringRuns k .attest) (hkey : s.gecko.ringKey ≠ none) (hw : fld (k.w 2) 0 8 = w) (hlt : w < 8)
    (hlive : s.gecko.Live w x) :
    execAttest s = .next (respond s.counted k Status.ok (report s.gecko w ((k.hdr.drop 24).take 32))) := by
  refine ringPlain_reports hrun hrun.bad_eq rfl (by rw [length_report]; decide) ?_
  dsimp only
  rw [Option.isNone_eq_false_iff.mpr (Option.isSome_iff_ne_none.mpr hkey), if_neg Bool.false_ne_true, hw, if_neg (by omega), if_neg (by omega),
    hlive.worldBar]

/-- The package with the fuses of an image kind burnt up to a version. -/
def State.burnt (s : State) (kind v : Nat) : State :=
  { s with gecko := { s.gecko with svn := s.gecko.svn.set kind (s.gecko.svn.val 0 kind ||| BitVec.ofNat 64 (2 ^ v - 1)) } }

theorem execSvnraise_eq (hrun : s.ringRuns k .svnraise) {v : Nat} (hw : fld (k.w 2) 0 3 = w) (hv : fld (k.w 3) 0 7 = v) :
    execSvnraise s = .next (if w = 0 ∨ 5 < w ∨ 63 < v then respond s.counted k Status.badArg [] else respond (s.burnt w v).counted k Status.ok []) := by
  split
  · next h => exact ringPlain_answers hrun hrun.bad_eq rfl (by dsimp only; rw [hw, hv, if_pos h])
  · next h => exact ringPlain_answers (t := s.burnt w v) hrun hrun.bad_eq rfl (by dsimp only; rw [hw, hv, if_neg h]; rfl)

/-! ### CREATEWORLD (R422, R423) -/

/-- A world that a command has made, with a fresh XTS key and no range. -/
def RingCmd.newWorld (k : RingCmd) (xts : Nat) (seed : List Byte) : World :=
  { dying := false, xts := xts, kemSeed := seed, code := none, meas := k.args, ranges := [] }

/-- The package with a world made, after what the generator has done for it. -/
def State.peopled (s : State) (k : RingCmd) (w tick : Nat) (agenda : List (Nat × Nat × Instr)) (reqs : Nat) (seed : List Byte) : State :=
  { s with
    tick := tick
    agenda := agenda
    gecko := { s.gecko with
      rngReqs := reqs, keyNo := s.gecko.keyNo + 1, worlds := s.gecko.worlds.set w (k.newWorld (s.gecko.keyNo + 1) seed) } }

theorem State.random_frame (s : State) (n : Nat) : ∃ tick agenda bs, s.random n =
    ({ s with tick := tick, agenda := agenda, gecko := { s.gecko with rngReqs := s.gecko.rngReqs + 1 } }, bs) := by
  unfold State.random State.fresh
  dsimp only
  split
  · obtain ⟨a, ha⟩ := State.pushOnce_frame
      { s with tick := s.tick + 1, gecko := { s.gecko with rngReqs := s.gecko.rngReqs + 1 } } 0 0 (.entropyReseed (Config.entropyPass s.tick))
    exact ⟨s.tick + 1, a, _, by rw [ha]⟩
  · exact ⟨s.tick + 1, s.agenda, _, rfl⟩

include hw

theorem execCreateworld_entropy (hrun : s.ringRuns k .createworld) (hw0 : w ≠ 0) (hnone : s.gecko.worlds.look w = none)
    (hrng : s.gecko.rngOk = false) : execCreateworld s = .next (respond s.counted k Status.entropy []) :=
  ringPlain_answers hrun hrun.bad_eq rfl (by dsimp only; rw [hw, if_neg hw0, hnone]; exact if_pos hrng)

theorem execCreateworld_creates (hrun : s.ringRuns k .createworld) (hw0 : w ≠ 0) (hnone : s.gecko.worlds.look w = none)
    (hrng : s.gecko.rngOk = true) :
    ∃ tick agenda reqs seed, execCreateworld s = .next (respond (s.peopled k w tick agenda reqs seed).counted k Status.ok []) := by
  obtain ⟨tick1, agenda1, seed, h1⟩ := s.random_frame 64
  obtain ⟨tick2, agenda2, bs, h2⟩ := State.random_frame
    { s with tick := tick1, agenda := agenda1, gecko := { s.gecko with rngReqs := s.gecko.rngReqs + 1 } } 64
  refine ⟨tick2, agenda2, s.gecko.rngReqs + 2, seed,
    ringPlain_answers (t := s.peopled k w tick2 agenda2 (s.gecko.rngReqs + 2) seed) hrun hrun.bad_eq rfl ?_⟩
  dsimp only
  rw [hw, if_neg hw0, hnone]
  dsimp only
  rw [if_neg (by rw [hrng]; decide), h1]
  dsimp only
  rw [h2]
  rfl

/-! ### SETRANGE and KEYIMPORT (R415, R423) -/

section
variable {x : World} (hlive : s.gecko.Live w x)
include hlive

/-- Some other range overlaps the one that range `n` of world `w` is to be. -/
def Gecko.Meets (g : Gecko) (w n : Nat) (a : DWord) : Prop :=
  ∃ v y m b, (v, y) ∈ g.worlds ∧ (m, b) ∈ y.ranges ∧ (v ≠ w ∨ m ≠ n) ∧ overlaps (rangeSpan b.1) (rangeSpan a) = true

omit hw hlive in
theorem Gecko.meets_iff (g : Gecko) (w n : Nat) (a : DWord) :
    (g.worlds.flatMap (fun (v, x) => (x.ranges.filter (fun p => decide (v ≠ w ∨ p.1 ≠ n))).map (fun p => rangeSpan p.2.1))).any
      (fun p => overlaps p (rangeSpan a)) = true ↔ g.Meets w n a := by
  simp only [List.any_flatMap, List.any_map, List.any_filter, List.any_eq_true, Bool.and_eq_true, decide_eq_true_eq, Function.comp, Gecko.Meets,
    Prod.exists]
  constructor
  · rintro ⟨v, y, hy, m, b, d, e, hb, hne, hover⟩
    exact ⟨v, y, m, b, d, e, hy, hb, hne, hover⟩
  · rintro ⟨v, y, m, b, d, e, hy, hb, hne, hover⟩
    exact ⟨v, y, hy, m, b, d, e, hb, hne, hover⟩

theorem execSetrange_sets (hrun : s.ringRuns k .setrange) {n : Nat} (hn : fld (k.w 2) 4 4 = n) (hfree : fld (k.w 3) 2 14 = 0)
    (hmeets : ¬ s.gecko.Meets w n (k.w 3)) :
    execSetrange s = .next (respond (s.withWorld w { x with ranges := x.ranges.set n (k.w 3, k.w 4, k.w 5) }).counted k Status.ok []) := by
  have ⟨hlook, _⟩ := hlive
  refine ringPlain_answers (t := s.withWorld w { x with ranges := x.ranges.set n (k.w 3, k.w 4, k.w 5) }) hrun hrun.bad_eq rfl ?_
  dsimp only
  rw [hw, hn, hlive.worldBar, hlook]
  dsimp only
  rw [if_neg (fun h => h.elim (fun h => h hfree) (fun h => hmeets ((s.gecko.meets_iff w n _).mp h)))]
  rfl

theorem execSetrange_badArg (hrun : s.ringRuns k .setrange) {n : Nat} (hn : fld (k.w 2) 4 4 = n)
    (h : fld (k.w 3) 2 14 ≠ 0 ∨ s.gecko.Meets w n (k.w 3)) : execSetrange s = .next (respond s.counted k Status.badArg []) := by
  have ⟨hlook, _⟩ := hlive
  refine ringPlain_answers hrun hrun.bad_eq rfl ?_
  dsimp only
  rw [hw, hn, hlive.worldBar, hlook]
  exact if_pos (h.imp_right (s.gecko.meets_iff w n _).mpr)

theorem execKeyimport_installs (hrun : s.ringRuns k .keyimport) {key : List Byte} (hkey : carriedKey x k.payload = some key) :
    execKeyimport s = .next (respond (s.withWorld w { x with code := some key, meas := x.meas ++ k.args }).counted k Status.ok []) := by
  have ⟨hlook, _⟩ := hlive
  refine ringPlain_answers (t := s.withWorld w { x with code := some key, meas := x.meas ++ k.args }) hrun hrun.bad_eq rfl ?_
  dsimp only
  rw [hw, hlive.worldBar, hlook]
  dsimp only
  rw [hkey]
  rfl

theorem execKeyimport_badArg (hrun : s.ringRuns k .keyimport) (hkey : carriedKey x k.payload = none) :
    execKeyimport s = .next (respond s.counted k Status.badArg []) := by
  have ⟨hlook, _⟩ := hlive
  refine ringPlain_answers hrun hrun.bad_eq rfl ?_
  dsimp only
  rw [hw, hlive.worldBar, hlook]
  dsimp only
  rw [hkey]

end

/-! ### DESTROYWORLD (R423) -/

omit hw in
/-- Zeroing a range changes memory with its keys and symbol errors alone. -/
theorem zeroRange_frame (s : State) (a : DWord) : ∃ m key e, zeroRange s a = { s with mem := m, keyed := key, lineErr := e } := ⟨_, _, _, rfl⟩

omit hw in
theorem foldl_zeroRange_frame (l : List (Nat × DWord × DWord × DWord)) (s : State) :
    ∃ m key e, l.foldl (fun s p => zeroRange s p.2.1) s = { s with mem := m, keyed := key, lineErr := e } := by
  induction l generalizing s with
  | nil => exact ⟨_, _, _, rfl⟩
  | cons p l ih =>
    obtain ⟨m, key, e, h⟩ := ih (zeroRange s p.2.1)
    exact ⟨m, key, e, h⟩

omit hw in
theorem zeroRange_byteAt (s : State) (a : DWord) (p : Nat) :
    (zeroRange s a).byteAt p = if (rangeSpan a).1 ≤ p ∧ p < (rangeSpan a).1 + (rangeSpan a).2 then 0 else s.byteAt p := by
  change Memory.byte (s.mem.filter fun q => decide (q.1 < (rangeSpan a).1 ∨ (rangeSpan a).1 + (rangeSpan a).2 ≤ q.1)) p = _
  split
  · exact Memory.byte_filter_of_drops (fun _ => decide_eq_false (by dsimp only; omega)) _
  · exact Memory.byte_filter_of_keeps (fun _ => decide_eq_true (by dsimp only; omega)) _

/-- A job slot of a world that is being destroyed is closed. -/
def SlotHdr.shut (w : Nat) (h : SlotHdr) : SlotHdr := if h.world = w then { h with en := false } else h

omit hw in
theorem SlotHdr.shut_en {h : SlotHdr} (hworld : (h.shut w).world = w) : (h.shut w).en = false := by
  unfold SlotHdr.shut at hworld ⊢
  split at hworld
  · next hw => rw [if_pos hw]
  · next hw => exact absurd hworld hw

/-- The frames of a world that is being destroyed are idle. -/
def Core.vacated (w : Nat) (c : Core) : Core :=
  { c with frametab := idleFrames w c.frametab, newFrame := c.newFrame.map (fun p => (idleFrames w p.1, p.2)) }

/-- The package with a world without tasks that is being destroyed. -/
def State.dooming (s : State) (w : Nat) (x : World) : State :=
  { s with
    mid := { s.mid with slots := Tab.each (fun _ h => h.shut w) s.mid.slots }
    cores := Tab.each (fun _ c => c.vacated w) s.cores
    gecko := { s.gecko with worlds := s.gecko.worlds.set w { x with dying := true } } }

variable {x : World} (hrun : s.ringRuns k .destroyworld) (hlook : s.gecko.worlds.look w = some x) (hw0 : w ≠ 0)
  (hnone : ∀ q ∈ s.ctxs, q.2.who.world ≠ w)
include hrun hlook hw0 hnone

/-- The first turn of a destruction, with no task of the world on the package: its slots close and its frames are idle. -/
theorem execDestroyworld_begins (hdying : x.dying = false) : execDestroyworld s = .next ((s.dooming w x).push 1 0 .destroyworld) := by
  have hkill (u : State) (hu : u.ctxs = s.ctxs) : killAll u (fun _ c => decide (c.who.world = w)) = u :=
    killAll_of_none (by rw [hu]; exact fun q hq => decide_eq_false (hnone q hq))
  unfold execDestroyworld
  rw [ringOp_eq hrun]
  dsimp only
  rw [hw, hlook]
  dsimp only
  rw [if_neg hw0, if_pos hdying]
  dsimp only
  simp only [hkill]
  exact fin_ok hrun.bad_eq

theorem execDestroyworld_ends (hdying : x.dying = true) :
    let z := x.ranges.foldl (fun s p => zeroRange s p.2.1) s
    execDestroyworld s = .next (respond (State.counted { z with gecko := { z.gecko with
      worlds := s.gecko.worlds.del w, jobKeys := s.gecko.jobKeys.filter (fun p => decide (p.1 % 8 ≠ w)) } }) k Status.ok []) := by
  intro z
  obtain ⟨m, key, e, hz⟩ := foldl_zeroRange_frame x.ranges s
  have hz : z = { s with mem := m, keyed := key, lineErr := e } := hz
  have hgecko : s.gecko = z.gecko := by rw [hz]
  rw [hgecko]
  refine ringOp_answers hrun (by rw [hz]; exact hrun.bad_eq) (by rw [hz]; rfl) ?_
  dsimp only
  rw [hw, hlook]
  dsimp only
  rw [if_neg hw0, if_neg (by rw [hdying]; decide), if_neg (by simpa using fun _ c hc => hnone _ hc)]
  rfl

end

/-! ### SETFRAMES and JOBKEY (R417, R421) -/

section
variable {s : State} {k : RingCmd} {x : World}

/-- A core with the frame table and lead time of a command, from the next frame cycle on. -/
def RingCmd.framed (k : RingCmd) (c : Core) : Core := { c with newFrame := some (k.w 3, fld (k.w 4) 0 7) }

theorem foldl_updCore_core (f : Core → Core) {l : List Nat} (hl : l.Nodup) (s : State) (j : Nat) :
    (l.foldl (fun s c => s.updCore c f) s).core j = if j ∈ l then f (s.core j) else s.core j := by
  induction l generalizing s with
  | nil => rfl
  | cons c l ih =>
    obtain ⟨hc, hl⟩ := List.nodup_cons.mp hl
    rw [List.foldl_cons, ih hl]
    by_cases h : c = j
    · subst h
      rw [if_neg hc, if_pos List.mem_cons_self, State.core_updCore]
    · rw [State.core_updCore_other s f h]
      simp [Ne.symm h]

theorem foldl_updCore_frame (f : Core → Core) (l : List Nat) (s : State) : ∃ cores, l.foldl (fun s c => s.updCore c f) s = { s with cores := cores } := by
  induction l generalizing s with
  | nil => exact ⟨_, rfl⟩
  | cons c l ih => exact ih (s.updCore c f)

theorem execSetframes_sets (hrun : s.ringRuns k .setframes) {c : Nat} (hc : fld (k.w 2) 0 9 = c) (hcore : c < 288 ∨ c = 0x1FF)
    (hbar : frameBar s.gecko (k.w 3) = none) (hlead : fld (k.w 4) 0 7 ≤ 106) :
    execSetframes s = .next (respond (((if c = 0x1FF then List.range 288 else [c]).foldl (fun s c => s.updCore c k.framed) s).counted) k Status.ok []) := by
  obtain ⟨cores, hcores⟩ := foldl_updCore_frame k.framed (if c = 0x1FF then List.range 288 else [c]) s
  refine ringPlain_answers hrun (by rw [hcores]; exact hrun.bad_eq) (by rw [hcores]) ?_
  dsimp only
  rw [hc, if_neg (by omega), hbar]
  rfl

/-- The package with the link key of a job slot installed for the world of the slot. -/
def State.linkKeyed (s : State) (job : Nat) (key : List Byte) : State :=
  { s with gecko := { s.gecko with jobKeys := s.gecko.jobKeys.set (job * 8 + (s.slotHdr job).world) key } }

theorem execJobkey_installs (hrun : s.ringRuns k .jobkey) {job : Nat} (hjob : fld (k.w 2) 0 6 = job) (hlive : s.gecko.Live (s.slotHdr job).world x)
    {key : List Byte} (hkey : carriedKey x k.payload = some key) : execJobkey s = .next (respond (s.linkKeyed job key).counted k Status.ok []) := by
  have ⟨hlook, _⟩ := hlive
  refine ringPlain_answers (t := s.linkKeyed job key) hrun hrun.bad_eq rfl ?_
  dsimp only
  rw [hjob, hlive.worldBar, hlook]
  dsimp only
  rw [hkey]
  rfl

theorem execJobkey_badArg (hrun : s.ringRuns k .jobkey) {job : Nat} (hjob : fld (k.w 2) 0 6 = job) (hlive : s.gecko.Live (s.slotHdr job).world x)
    (hkey : carriedKey x k.payload = none) : execJobkey s = .next (respond s.counted k Status.badArg []) := by
  have ⟨hlook, _⟩ := hlive
  refine ringPlain_answers hrun hrun.bad_eq rfl ?_
  dsimp only
  rw [hjob, hlive.worldBar, hlook]
  dsimp only
  rw [hkey]

end

@[simp] theorem Gecko.next_worlds (g : Gecko) : g.next.worlds = g.worlds := by
  unfold Gecko.next
  split <;> rfl

@[simp] theorem Gecko.next_keyNo (g : Gecko) : g.next.keyNo = g.keyNo := by
  unfold Gecko.next
  split <;> rfl

/-- Settles O45: each clause is the lemma of its command. -/
theorem trustCommands : Obligations.TrustCommands := by
  refine ⟨fun s k x key => ?_, zeroRange_byteAt⟩
  intro w p3 world live nonce job answers
  have hw : fld (k.w 2) 0 3 = w := fld_zero _ _
  have hlt : w < 8 := Nat.mod_lt _ (by decide)
  have hn : fld (k.w 2) 4 4 = (k.w 2).toNat / 16 % 16 := rfl
  have hlead : fld (k.w 4) 0 7 = (k.w 4).toNat % 128 := fld_zero _ _
  refine ⟨execAttest_device, fun hrun hkey hlive h8 => execAttest_world hrun hkey ((fld_zero _ _).trans h8) hlt hlive, fun hrun => ?_,
    fun hrun hw0 hnone => ⟨execCreateworld_entropy hw hrun hw0 hnone, fun hrng => ?_⟩, fun hrun hlive => ⟨execSetrange_sets hw hlive hrun hn,
      execSetrange_badArg hw hlive hrun hn⟩,
    fun hrun hbar hmax => ?_, fun hrun hlive => ⟨execKeyimport_installs hw hlive hrun, execKeyimport_badArg hw hlive hrun⟩,
    fun hrun hw0 hlook hdying => ?_, fun hrun hlook hw0 hnone => ⟨fun hdying => ?_, execDestroyworld_ends hw hrun hlook hw0 hnone⟩⟩
  · have hsvn := execSvnraise_eq hrun hw (fld_zero (k.w 3) 7)
    refine ⟨fun hbad => hsvn.trans (congrArg _ (if_pos hbad)), fun h1 h5 h63 => hsvn.trans (congrArg _ (if_neg ?_))⟩
    exact not_or.mpr ⟨Nat.ne_of_gt h1, not_or.mpr ⟨Nat.not_lt.mpr h5, Nat.not_lt.mpr h63⟩⟩
  · obtain ⟨tick, agenda, reqs, seed, h⟩ := execCreateworld_creates hw hrun hw0 hnone hrng
    obtain ⟨m, key, host, hresp, hhead, -⟩ := respond_frame (s := (s.peopled k w tick agenda reqs seed).counted)
      (hrun.respSafe (t := (s.peopled k w tick agenda reqs seed).counted) rfl) k Status.ok (bs := []) (Nat.zero_le _)
    have ⟨_, _, _, hlast, _⟩ := hrun
    have hworlds : (s.peopled k w tick agenda reqs seed).counted.gecko.worlds = s.gecko.worlds.set w (k.newWorld (s.gecko.keyNo + 1) seed) :=
      Gecko.next_worlds _
    refine ⟨_, k.newWorld (s.gecko.keyNo + 1) seed, h, ?_, rfl, ?_, rfl, rfl, rfl, rfl, fun v hv => ?_, ?_⟩
    · rw [hresp, hworlds, Tab.look_set_self]
    · rw [hresp]
      exact Gecko.next_keyNo _
    · rw [hresp, hworlds, Tab.look_set_other _ _ (Ne.symm hv)]
    · rw [hresp]
      exact hhead.trans hlast
  · have hsets {c : Nat} (hc : fld (k.w 2) 0 9 = c) (hcore : c < 288 ∨ c = 0x1FF) := execSetframes_sets hrun hc hcore hbar (hlead ▸ hmax)
    have hframed : k.framed = fun x => { x with newFrame := some (p3, (k.w 4).toNat % 128) } := by
      funext c
      rw [RingCmd.framed, hlead]
    rw [hframed] at hsets
    refine ⟨fun hlt => ?_, fun hall => ?_⟩
    · have h := hsets (fld_zero _ _) (.inl hlt)
      rwa [if_neg (by omega)] at h
    · have h := hsets ((fld_zero _ _).trans hall) (.inr rfl)
      rw [if_pos rfl] at h
      obtain ⟨cores, hcores⟩ := foldl_updCore_frame (fun x => { x with newFrame := some (p3, (k.w 4).toNat % 128) }) (List.range 288) s
      have hcore (j : Nat) := foldl_updCore_core (fun x => { x with newFrame := some (p3, (k.w 4).toNat % 128) }) (List.nodup_range (n := 288)) s j
      rw [hcores] at h hcore
      obtain ⟨m, key, host, hresp, -, -⟩ := respond_frame (s := State.counted { s with cores := cores })
        (hrun.respSafe (t := State.counted { s with cores := cores }) rfl) k Status.ok (bs := []) (Nat.zero_le _)
      rw [hresp] at h
      exact ⟨_, h, fun j hj => (hcore j).trans (if_pos (List.mem_range.mpr hj))⟩
  · have hlive : s.gecko.Live (s.slotHdr job).world x := ⟨hlook, hdying, hw0⟩
    exact ⟨execJobkey_installs hrun (fld_zero _ _) hlive, execJobkey_badArg hrun (fld_zero _ _) hlive⟩
  · refine ⟨_, execDestroyworld_begins hw hrun hlook hw0 hnone hdying, Tab.look_set_self _ _ _, State.due_push _ _ _ _, fun j h hlook hworld => ?_, rfl, rfl⟩
    have hshut : Tab.look (Tab.each (fun _ h => SlotHdr.shut w h) s.mid.slots) j = some h := hlook
    rw [Tab.look_each] at hshut
    obtain ⟨h0, -, rfl⟩ := Option.map_eq_some_iff.mp hshut
    exact SlotHdr.shut_en hworld

end Sys2Proof.Machine
end

section
/-! PROOF. Management registers, and indirect access to the package's objects (O48). -/

namespace Sys2Proof.Machine

/-! ### Registers (R441, R443) -/

theorem execRegisterWrite_ready {s : State} (hready : s.host.phase = 6) (off : Nat) (v : DWord) :
    execRegisterWrite off v s = .next (writeReg s off v) := if_pos (decide_eq_true hready)

theorem execRegisterWrite_early {s : State} (h : s.host.phase ≠ 6) (off : Nat) (v : DWord) : execRegisterWrite off v s = .next s :=
  if_neg (by rw [State.hostReady, decide_eq_true_eq]; exact h)

/-- At most the host interface, the Midfield die and the dies differ. -/
def State.RegsWritten (s t : State) : Prop := ∃ host mid dies, t = { s with host := host, mid := mid, dies := dies }

theorem writeDieReg_written (s : State) (d o : Nat) (v : DWord) : s.RegsWritten (writeDieReg s d o v) := by
  unfold writeDieReg
  repeat' split
  all_goals exact ⟨_, _, _, rfl⟩

/-- No write of a register reaches memory, tasks, cores, regions or keys. -/
theorem writeReg_written (s : State) (off : Nat) (v : DWord) : s.RegsWritten (writeReg s off v) := by
  have hregs (h : HostIf) : s.RegsWritten { s with host := h } := ⟨h, s.mid, s.dies, rfl⟩
  refine iteInduction (fun _ => iteInduction (fun _ => hregs s.host) fun _ => hregs _) fun _ => ?_
  refine iteInduction (fun _ => hregs _) fun _ => iteInduction (fun _ => hregs _) fun _ => ?_
  refine iteInduction (fun _ => hregs _) fun _ => iteInduction (fun _ => hregs _) fun _ => ?_
  refine iteInduction (fun _ => hregs _) fun _ => iteInduction (fun _ => hregs _) fun _ => ?_
  exact iteInduction (fun _ => hregs _) fun _ => iteInduction (fun _ => writeDieReg_written s _ _ v) fun _ => hregs s.host

/-! ### The registers by offset -/

theorem writeReg_regtab (s : State) (v : DWord) :
    writeReg s 0x10 v = if s.anyRegionValid then s else { s with host := { s.host with regtab := BitVec.ofNat 64 (fld v 15 25 * 2 ^ 15) } } := by
  rw [writeReg, if_pos rfl]

theorem State.anyRegionValid_iff (s : State) : s.anyRegionValid = true ↔ ∃ r, r < 4096 ∧ (s.regionEntry r).getLsbD 0 = true := by
  simp only [State.anyRegionValid, List.any_eq_true, List.mem_range, bit]

theorem clamp_eq {lo hi v : Nat} (h : lo ≤ hi) : clamp lo hi v = if v < lo then lo else if hi < v then hi else v := by
  have hclamp : clamp lo hi v = min hi (max lo v) := rfl
  rw [hclamp]
  split
  · omega
  · split <;> omega

theorem writeReg_pwrlim (s : State) (v : DWord) : writeReg s 0x18 v = { s with host := { s.host with
    pwrlim := if v.toNat % 2 ^ 16 < 1000 then 1000 else if 5800 < v.toNat % 2 ^ 16 then 5800 else v.toNat % 2 ^ 16 } } := by
  rw [← clamp_eq (by decide), ← fld_zero]
  rfl

theorem writeReg_crslot (s : State) (v : DWord) : writeReg s 0x48 v = { s with host := { s.host with
    crslot := if v.toNat % 32 = 0 then 1 else if 10 < v.toNat % 32 then 10 else v.toNat % 32 } } := by
  have hslot : clamp 1 10 (fld v 0 5) = if v.toNat % 32 = 0 then 1 else if 10 < v.toNat % 32 then 10 else v.toNat % 32 := by
    rw [clamp_eq (by decide), fld_zero]
    simp only [Nat.lt_one_iff, Nat.reducePow]
  rw [← hslot]
  rfl

theorem writeReg_lq {q : Nat} (hq : q < 16) (s : State) (v : DWord) : writeReg s (0x1000 + 32 * q) v =
    s.updLq q fun l => if l.en then l else { l with base := BitVec.ofNat 64 (fld v 63 1 * 2 ^ 63 + fld v 6 50 * 64) } := by
  have hq' : (0x1000 + 32 * q - 0x1000) / 32 = q := by omega
  rw [writeReg, if_neg (by omega), if_neg (by omega), if_neg (by omega), if_neg (by omega), if_neg (by omega), if_pos (by omega), hq']

theorem writeReg_die {d o : Nat} (hd : d < 5) (ho : o < 0x1000) (s : State) (v : DWord) :
    writeReg s (0x20000 + 0x1000 * d + o) v = writeDieReg s d o v := by
  have hd' : (0x20000 + 0x1000 * d + o - 0x20000) / 0x1000 = d := by omega
  have ho' : (0x20000 + 0x1000 * d + o) % 0x1000 = o := by omega
  rw [writeReg, if_neg (by omega), if_neg (by omega), if_neg (by omega), if_neg (by omega), if_neg (by omega), if_neg (by omega), if_neg (by omega),
    if_neg (by omega), if_pos (by omega), hd', ho']

theorem writeReg_none {off : Nat} (h : 0x25000 ≤ off) (s : State) (v : DWord) : writeReg s off v = s := by
  rw [writeReg, if_neg (by omega), if_neg (by omega), if_neg (by omega), if_neg (by omega), if_neg (by omega), if_neg (by omega), if_neg (by omega),
    if_neg (by omega), if_neg (by omega)]

theorem State.mgmtRead_pwrlim {s : State} (hready : s.host.phase = 6) : s.mgmtRead 0x18 = BitVec.ofNat 64 s.host.pwrlim := by
  unfold State.mgmtRead
  simp only [State.hostReady, hready, decide_true, Bool.true_eq_false, OfNat.ofNat_ne_zero, if_false, if_true, Nat.reduceEqDiff]

/-! ### Indirect access (R442) -/

/-- Values put at places of their own are read there. -/
theorem Tab.val_foldl_put {α : Type} [DecidableEq α] (d : α) {place : Nat → Nat} (hplace : ∀ i j, place i = place j → i = j) (v : Nat → α)
    (l : List Nat) {t : Tab α} (ht : t.rising) (j : Nat) :
    (l.foldl (fun t k => t.put d (place k) (v k)) t).val d (place j) = if j ∈ l then v j else t.val d (place j) := by
  induction l generalizing t with
  | nil => rfl
  | cons i l ih =>
    rw [List.foldl_cons, ih (Tab.rising_put d ht _ _)]
    by_cases hmem : j ∈ l
    · rw [if_pos hmem, if_pos (List.mem_cons_of_mem i hmem)]
    · rw [if_neg hmem]
      by_cases hij : i = j
      · subst hij
        rw [if_pos List.mem_cons_self, Tab.val_put_self d ht]
      · rw [Tab.val_put_other d t _ fun h => hij (hplace i j h), if_neg (by simp [hmem, Ne.symm hij])]

section
variable {s : State} (hready : s.host.phase = 6) (hidle : s.host.mbusy = false) (v : DWord)
include hready hidle

theorem midx_open : ¬ (s.hostReady = false ∨ s.host.mbusy = true) := by
  rw [State.hostReady, hready, hidle]
  decide

/-- The access that the register of the interface asks for. -/
def State.midxAsks (s : State) (v : DWord) : Except Nat (List Byte) := midxObject (keepStaged s v) (midxClass v) (midxIndex v) (keepStaged s v).mdata7

section
variable {e : Nat} (hobj : s.midxAsks v = .error e)
include hobj

theorem execMidxRead_error : execMidxRead v s = .next (midxEnd (keepStaged s v) e) := by
  unfold execMidxRead
  unfold State.midxAsks at hobj
  rw [if_neg (midx_open hready hidle)]
  generalize keepStaged s v = k at hobj ⊢
  dsimp only
  rw [hobj]

theorem execMidxWrite_error : execMidxWrite v s = .next (midxEnd (keepStaged s v) e) := by
  unfold execMidxWrite
  unfold State.midxAsks at hobj
  rw [if_neg (midx_open hready hidle)]
  generalize keepStaged s v = k at hobj ⊢
  dsimp only
  rw [hobj]

end

/-- MDATA with the part of an object that lies at `part`. -/
def partData (bs : List Byte) (part : Nat) : Tab DWord :=
  (List.range 8).foldl (fun t k => t.put 0 k (dwordAt (fitBytes 64 ((bs.drop (64 * part)).take 64)) k)) []

/-- The staging copy with the part that MDATA holds. -/
def State.stagedWith (s : State) : Tab DWord :=
  (List.range 8).foldl (fun t k => t.put 0 (8 * s.host.mpart + k) (s.host.mdata.val 0 k)) (s.host.staged.elim [] (·.2.2))

section
variable {bs : List Byte} (hobj : s.midxAsks v = .ok bs)
include hobj

theorem execMidxRead_ok : execMidxRead v s = .next (if partsOf bs ≤ (keepStaged s v).host.mpart then midxEnd (keepStaged s v) Mstat.noObject
    else midxEnd { keepStaged s v with host := { (keepStaged s v).host with mdata := partData bs (keepStaged s v).host.mpart } } Mstat.ok) := by
  unfold execMidxRead
  unfold State.midxAsks at hobj
  rw [if_neg (midx_open hready hidle)]
  generalize keepStaged s v = k at hobj ⊢
  dsimp only
  rw [hobj, apply_ite Host.Outcome.next]
  rfl

theorem execMidxWrite_ok : execMidxWrite v s =
    if partsOf bs ≤ (keepStaged s v).host.mpart then .next (midxEnd (keepStaged s v) Mstat.noObject)
    else if midxWritable (midxClass v) (keepStaged s v).mdata7 = false then .next (midxEnd (keepStaged s v) Mstat.readOnly)
    else if (keepStaged s v).host.mpart + 1 < partsOf bs then
      .next (midxEnd { keepStaged s v with
        host := { (keepStaged s v).host with staged := some (midxClass v, midxIndex v, (keepStaged s v).stagedWith) } } Mstat.ok)
    else fin (midxEnd (midxStore { keepStaged s v with host := { (keepStaged s v).host with staged := none } } (midxClass v) (midxIndex v)
      (keepStaged s v).mdata7 fun k => (keepStaged s v).stagedWith.val 0 k) Mstat.ok) := by
  unfold execMidxWrite
  unfold State.midxAsks at hobj
  rw [if_neg (midx_open hready hidle)]
  generalize keepStaged s v = k at hobj ⊢
  dsimp only
  rw [hobj]
  rfl

end
end

theorem midxClass_eq (v : DWord) : midxClass v = v.toNat / 2 ^ 56 := fld_top v (lo := 56) (n := 8) rfl

theorem midxIndex_eq (v : DWord) : midxIndex v = v.toNat % 2 ^ 52 := fld_zero v 52

/-- The package with a new staging copy and a new MIDX. -/
def State.restaged (s : State) (x : Option (Nat × Nat × Tab DWord)) (midx : DWord) : State := { s with host := { s.host with staged := x, midx := midx } }

theorem keepStaged_frame (s : State) (v : DWord) : ∃ p midx, keepStaged s v = s.restaged (s.host.staged.filter p) midx := ⟨_, _, rfl⟩

@[simp] theorem keepStaged_mdata7 (s : State) (v : DWord) : (keepStaged s v).mdata7 = s.mdata7 := by
  obtain ⟨p, midx, h⟩ := keepStaged_frame s v
  rw [h]
  rfl

theorem State.midxAsks_eq (s : State) (v : DWord) :
    s.midxAsks v = midxObject (keepStaged s v) (v.toNat / 2 ^ 56) (v.toNat % 2 ^ 52) s.mdata7 := by
  rw [State.midxAsks, midxClass_eq, midxIndex_eq, keepStaged_mdata7]

theorem midxObject_badClass {cls : Nat} (h : cls = 0 ∨ 0x0B < cls) (s : State) (index : Nat) (m : DWord) :
    midxObject s cls index m = .error Mstat.badClass := by
  unfold midxObject
  split
  case h_12 => rfl
  all_goals exact absurd h (by decide)

theorem midxWritable_eq_false {cls : Nat} (h : cls ∈ [1, 4, 5, 7, 8, 0x0B]) (m : DWord) : midxWritable cls m = false := by
  simp only [List.mem_cons, List.not_mem_nil, or_false] at h
  obtain rfl | rfl | rfl | rfl | rfl | rfl := h <;> rfl

theorem val_partData (bs : List Byte) (part : Nat) {j : Nat} (hj : j < 8) :
    (partData bs part).val 0 j = dwordAt (fitBytes 64 ((bs.drop (64 * part)).take 64)) j :=
  (Tab.val_foldl_put 0 (place := id) (fun _ _ h => h) _ _ List.Pairwise.nil j).trans (if_pos (List.mem_range.mpr hj))

theorem State.val_stagedWith {s : State} (hnone : s.host.staged = none) {j : Nat} (hj : j < 8) :
    s.stagedWith.val 0 (8 * s.host.mpart + j) = s.host.mdata.val 0 j := by
  unfold State.stagedWith
  rw [hnone]
  exact (Tab.val_foldl_put 0 (place := fun k => 8 * s.host.mpart + k) (fun _ _ h => Nat.add_left_cancel h) _ _ List.Pairwise.nil j).trans
    (if_pos (List.mem_range.mpr hj))

/-- The slot header that a double word describes, for a package with these link keys (R118, R421). -/
def SlotHdr.written (g : Gecko) (slot : Nat) (d : DWord) : SlotHdr :=
  { jobid := d.toNat / 2 ^ 32, selfrank := d.toNat / 2 ^ 20 % 2 ^ 12, region := d.toNat / 16 % 2 ^ 16, world := d.toNat / 2 % 8
    en := d.getLsbD 0 && (decide (d.toNat / 2 % 8 = 0) || (g.jobKeys.look (slot * 8 + d.toNat / 2 % 8)).isSome) }

theorem writeHeader_eq (s : State) (slot : Nat) (d : DWord) :
    writeHeader s slot d = { s with mid := { s.mid with slots := s.mid.slots.set slot (.written s.gecko slot d) } } := by
  rw [SlotHdr.written, ← fld_top d (lo := 32) (n := 32) rfl]
  rfl

/-- Settles O48: the registers by their offset lemmas, the indirect accesses by the lemmas of an access that fails, reads or writes. -/
theorem managementInterface : Obligations.ManagementInterface := by
  refine ⟨fun s off v => ⟨fun h => execRegisterWrite_early h off v, fun hready => ?_⟩, fun s v hready hidle => ?_⟩
  · have hexec := execRegisterWrite_ready (s := s) hready
    refine ⟨?_, fun hvalid => ?_, fun hnone => ?_, ?_, ?_, ?_, ?_, fun q hq => ?_, fun d hd => ⟨?_, ?_⟩, fun hoff => ?_, fun t ht => ?_⟩
    · obtain ⟨host, mid, dies, h⟩ := writeReg_written s off v
      exact ⟨_, hexec off v, by rw [h], by rw [h], by rw [h], by rw [h], by rw [h], by rw [h]⟩
    · exact (hexec _ v).trans (congrArg _ ((writeReg_regtab s v).trans (if_pos (s.anyRegionValid_iff.mpr hvalid))))
    · refine (hexec _ v).trans (congrArg _ ((writeReg_regtab s v).trans (if_neg fun h => ?_)))
      obtain ⟨r, hr, hbit⟩ := s.anyRegionValid_iff.mp h
      exact Bool.false_ne_true ((hnone r hr).symm.trans hbit)
    · exact (hexec _ v).trans (congrArg _ (writeReg_pwrlim s v))
    · exact hexec _ v
    · exact (hexec _ v).trans (congrArg _ (writeReg_crslot s v))
    · exact hexec _ v
    · refine ⟨_, (hexec _ v).trans (congrArg _ (writeReg_lq hq s v)), ?_, fun p hp => State.lq_updLq_other _ _ hp⟩
      rw [State.lq_updLq, fld_top v (lo := 63) (n := 1) rfl]
      rfl
    · refine ⟨_, (hexec _ v).trans (congrArg _ (writeReg_die hd (o := 0) (by decide) s v)), (s.die_updDie d _).trans ?_⟩
      rfl
    · refine ⟨_, (hexec _ v).trans (congrArg _ (writeReg_die hd (o := 0x10) (by decide) s v)), (s.die_updDie d _).trans ?_⟩
      rw [fld_top v (lo := 32) (n := 32) rfl]
    · exact (hexec off v).trans (congrArg _ (writeReg_none hoff s v))
    · obtain rfl := Host.Outcome.next.inj ((hexec 0x18 v).symm.trans ht)
      have hread := State.mgmtRead_pwrlim (s := writeReg s 0x18 v) (by rw [writeReg_pwrlim]; exact hready)
      have hlim : (writeReg s 0x18 v).host.pwrlim =
          if v.toNat % 2 ^ 16 < 1000 then 1000 else if 5800 < v.toNat % 2 ^ 16 then 5800 else v.toNat % 2 ^ 16 :=
        congrArg (fun t : State => t.host.pwrlim) (writeReg_pwrlim s v)
      rw [hread, BitVec.toNat_ofNat, hlim]
      split
      · decide
      · split
        · decide
        · omega
  · intro k cls index part ends both object
    have hasks : s.midxAsks v = object := s.midxAsks_eq v
    have hbad {e : Nat} (h : object = .error e) : both e :=
      ⟨execMidxRead_error hready hidle v (hasks.trans h), execMidxWrite_error hready hidle v (hasks.trans h)⟩
    have hgone {c n : Nat} {bs : List Byte} (hcls : cls = c)
        (hobj : midxObject k c index s.mdata7 = if n ≤ index then .error Mstat.noObject else .ok bs) (h : n ≤ index) : both 1 :=
      hbad ((hcls ▸ hobj).trans (if_pos h))
    obtain ⟨p, midx, hk⟩ := keepStaged_frame s v
    have hpart : (keepStaged s v).host.mpart = part := by
      rw [hk]
      rfl
    refine ⟨fun h => hbad (midxObject_badClass h _ _ _), fun h => hgone h rfl, fun h => hgone h rfl, fun h => hgone h rfl,
      fun bs hobj hbeyond => ⟨?_, ?_⟩, fun bs hobj hwithin => ⟨?_, fun hro => ?_, fun hmore hcls => ?_⟩, fun hcls hindex => ?_,
      fun hcls hindex hzero hnone hsafe => ?_⟩
    · exact (execMidxRead_ok hready hidle v (hasks.trans hobj)).trans (congrArg _ (if_pos (hpart ▸ hbeyond)))
    · exact (execMidxWrite_ok hready hidle v (hasks.trans hobj)).trans (if_pos (hpart ▸ hbeyond))
    · refine ⟨_, (execMidxRead_ok hready hidle v (hasks.trans hobj)).trans (congrArg _ (if_neg (Nat.not_le.mpr (hpart ▸ hwithin)))), rfl, rfl, ?_, ?_,
        ?_, fun j hj => (val_partData bs _ hj).trans ?_⟩
      · rw [hk]; rfl
      · rw [hk]; rfl
      · rw [hk]; rfl
      · rw [hpart]
    · refine (execMidxWrite_ok hready hidle v (hasks.trans hobj)).trans ((if_neg (Nat.not_le.mpr (hpart ▸ hwithin))).trans (if_pos ?_))
      rw [midxClass_eq]
      exact midxWritable_eq_false hro _
    · have hwrite : midxWritable (midxClass v) (keepStaged s v).mdata7 ≠ false := by
        rw [midxClass_eq, show v.toNat / 2 ^ 56 = 6 from hcls]
        exact Bool.false_ne_true.symm
      refine ⟨_, _, (execMidxWrite_ok hready hidle v (hasks.trans hobj)).trans ((if_neg (Nat.not_le.mpr (hpart ▸ hwithin))).trans
        ((if_neg hwrite).trans (if_pos (hpart ▸ hmore)))), rfl, midxClass_eq v, midxIndex_eq v, ?_, ?_, rfl⟩
      · rw [hk]; rfl
      · rw [hk]; rfl
    · refine (congrArg (midxObject k · index s.mdata7) hcls).trans ((if_neg (Nat.not_le.mpr hindex)).trans ?_)
      rw [show k = _ from hk]
      rfl
    · have hobj : s.midxAsks v = .ok (hdrBytes (k.slotHdr index)) :=
        hasks.trans ((congrArg (midxObject k · index s.mdata7) hcls).trans (if_neg (Nat.not_le.mpr hindex)))
      have hone : partsOf (hdrBytes (k.slotHdr index)) = 1 := by
        rw [partsOf, hdrBytes, two, List.length_append, leBytes_length, leBytes_length]
        rfl
      have hwrite : midxWritable (midxClass v) (keepStaged s v).mdata7 ≠ false := by
        rw [midxClass_eq, show v.toNat / 2 ^ 56 = 2 from hcls]
        exact Bool.false_ne_true.symm
      have hstaged : (keepStaged s v).host.staged = none := by
        rw [hk]
        exact congrArg (Option.filter p) hnone
      have hdata : (keepStaged s v).stagedWith.val 0 0 = s.host.mdata.val 0 0 := by
        have h := State.val_stagedWith hstaged (j := 0) (by decide)
        rw [hpart, show part = 0 from hzero, hk] at h
        rwa [hk]
      have hexec := execMidxWrite_ok hready hidle v hobj
      rw [hone, hpart, show part = 0 from hzero, if_neg (by decide), if_neg hwrite, if_neg (by decide), midxClass_eq, midxIndex_eq,
        show v.toNat / 2 ^ 56 = 2 from hcls] at hexec
      rw [show midxStore _ 2 _ _ _ = writeHeader _ _ _ from rfl, writeHeader_eq, hdata, fin_ok (by rw [hk]; exact hsafe)] at hexec
      refine ⟨_, hexec, rfl, ?_, fun j hj => ?_, ?_⟩
      · rw [hk]; rfl
      · rw [hk]; exact Tab.look_set_other _ _ (Ne.symm hj)
      · rw [hk]; exact Tab.look_set_self _ _ _

end Sys2Proof.Machine
end

section
/-! PROOF. Frame edges, lead windows, cycle boundaries, and the clearing of a core (O39). -/

namespace Sys2Proof.Machine

/-! ### Steps that become due -/

/-- From `s` to `t` nothing but steps to come has been added. -/
def State.Schedules (s t : State) : Prop := ∃ a, t = { s with agenda := a } ∧ s.agenda ⊆ a

namespace State.Schedules

theorem refl (s : State) : s.Schedules s := ⟨s.agenda, rfl, List.Subset.refl _⟩

theorem trans {s t u : State} (h : s.Schedules t) (g : t.Schedules u) : s.Schedules u := by
  obtain ⟨a, rfl, ha⟩ := h
  obtain ⟨b, rfl, hb⟩ := g
  exact ⟨b, rfl, List.Subset.trans ha hb⟩

theorem push (s : State) (delay subj : Nat) (e : Instr) : s.Schedules (s.push delay subj e) := ⟨_, rfl, List.subset_append_left _ _⟩

theorem pushOnce (s : State) (delay subj : Nat) (e : Instr) : s.Schedules (s.pushOnce delay subj e) := by
  unfold State.pushOnce
  split
  · exact refl s
  · exact push s delay subj e

theorem foldl {α : Type} {f : State → α → State} (hf : ∀ (s : State) a, s.Schedules (f s a)) (l : List α) (s : State) :
    s.Schedules (l.foldl f s) := by
  induction l generalizing s with
  | nil => exact refl s
  | cons a l ih => exact (hf s a).trans (ih (f s a))

theorem agenda {s t : State} (h : s.Schedules t) : s.agenda ⊆ t.agenda := by
  obtain ⟨a, rfl, ha⟩ := h
  exact ha

theorem due {s t : State} (h : s.Schedules t) {subj : Nat} {i : Instr} (hdue : s.due subj i) : t.due subj i :=
  hdue.imp fun _ hmem => h.agenda hmem

/-- What does not look at the steps to come is as before. -/
theorem same {s t : State} (h : s.Schedules t) {α : Type} {f : State → α} (hf : ∀ a, f { s with agenda := a } = f s) : f t = f s := by
  obtain ⟨a, rfl, -⟩ := h
  exact hf a

end State.Schedules

/-! ### Frames and their owners (R417) -/

/-- A frame of a table belongs to a world. -/
def FrameOwn (tab : DWord) (f w : Nat) : Prop := tab.getLsbD (4 * f + 3) = true ∧ tab.toNat / 2 ^ (4 * f) % 8 = w

theorem frameWorld_eq_some_iff (tab : DWord) (f w : Nat) : frameWorld tab f = some w ↔ FrameOwn tab f w := by
  unfold frameWorld FrameOwn
  split
  · next h => exact ⟨fun hw => ⟨h, Option.some.inj hw⟩, fun hw => congrArg some hw.2⟩
  · next h => exact ⟨nofun, fun hw => absurd hw.1 h⟩

theorem frameWorld_eq_none_iff (tab : DWord) (f : Nat) : frameWorld tab f = none ↔ tab.getLsbD (4 * f + 3) = false := by
  unfold frameWorld
  split
  · next h => exact ⟨nofun, fun hw => absurd (h.symm.trans hw) Bool.false_ne_true.symm⟩
  · next h => exact ⟨fun _ => Bool.not_eq_true _ ▸ h, fun _ => rfl⟩

/-! ### FRAME_EDGE (R418, R419) -/

/-- A core at the start of a frame. -/
def Core.atEdge (c : Core) (frame : Nat) : Core := { c with frame := frame, awaitEdge := false }

/-- What the start of a frame does to the task on the core, or to a clear that is under way. -/
def State.edgeMet (s : State) (core frame : Nat) : State :=
  let c := s.core core
  let own := frameWorld c.frametab frame
  match c.ctx.bind s.ctx, c.ctx with
  | some x, some id =>
    let s := s.updCtx id fun x => { x with idle := decide (own ≠ some x.who.world) }
    if own.isNone ∨ own = some x.who.world then s else sealOver (s.push 0 0 (.switchRequest core Why.frame)) core
  | _, _ => if c.clearing.isSome && own.isSome then sealOver s core else s

/-- The steps that a frame's start makes due. -/
def State.edgeNext (s : State) (core frame lead : Nat) : State :=
  let s := if frame < 15 then s.push frameCycles 0 (.frameEdge core (frame + 1)) else s
  callArbiter (s.push (frameCycles - lead * 1024) core .frameSwitchRequest)

theorem execFrameEdge_eq (s : State) (core frame : Nat) : execFrameEdge core frame s =
    .next (((s.updCore core fun c => c.atEdge frame).edgeMet core frame).edgeNext core frame (s.core core).flead) := by
  have hlead : ((s.updCore core fun c => c.atEdge frame).core core).flead = (s.core core).flead := by rw [State.core_updCore]; rfl
  rw [← hlead]
  rfl

theorem State.edgeNext_schedules (s : State) (core frame lead : Nat) : s.Schedules (s.edgeNext core frame lead) ∧
    (frame < 15 → (s.now + 109375, 0, .frameEdge core (frame + 1)) ∈ (s.edgeNext core frame lead).agenda) ∧
    (s.edgeNext core frame lead).due core .frameSwitchRequest := by
  have hfirst : s.Schedules (if frame < 15 then s.push frameCycles 0 (.frameEdge core (frame + 1)) else s) :=
    iteInduction (fun _ => .push _ _ _ _) fun _ => .refl s
  have hlast (u : State) : u.Schedules (callArbiter (u.push (frameCycles - lead * 1024) core .frameSwitchRequest)) :=
    (State.Schedules.push _ _ _ _).trans (.pushOnce _ _ _ _)
  refine ⟨hfirst.trans (hlast _), fun hframe => (hlast _).agenda ?_, (State.Schedules.pushOnce _ _ _ _).due (State.due_push _ _ _ _)⟩
  rw [if_pos hframe]
  exact List.mem_append_right _ (List.mem_singleton_self _)

/-- A task in a frame of an owner, which is idle unless the owner is its own world. -/
def Ctx.inFrame (c : Ctx) (own : Option Nat) : Ctx := { c with idle := decide (own ≠ some c.who.world) }

/-- A frame of a world that is not the task's: the task is idle, and asked out when the frame has an owner. -/
theorem State.edgeMet_task {s : State} {core frame id : Nat} {x : Ctx} (hcore : (s.core core).ctx = some id) (hx : s.ctx id = some x) :
    s.edgeMet core frame =
      let own := frameWorld (s.core core).frametab frame
      let t := s.setCtx id (x.inFrame own)
      if own.isNone ∨ own = some x.who.world then t else sealOver (t.push 0 0 (.switchRequest core Why.frame)) core := by
  unfold State.edgeMet
  dsimp only
  rw [hcore, Option.bind_some, hx]
  dsimp only
  rw [State.updCtx_eq hx]
  rfl

/-- What the start of a frame leaves alone. -/
theorem State.edgeMet_keeps (s : State) (core frame : Nat) : (s.edgeMet core frame).mem = s.mem ∧ (s.edgeMet core frame).now = s.now ∧
    ((s.edgeMet core frame).core core).frame = (s.core core).frame ∧ ((s.edgeMet core frame).core core).awaitEdge = (s.core core).awaitEdge := by
  unfold State.edgeMet
  dsimp only
  split
  · next x id hbind hcore =>
    rw [hcore, Option.bind_some] at hbind
    rw [State.updCtx_eq hbind]
    split
    · exact ⟨rfl, rfl, rfl, rfl⟩
    · refine ⟨rfl, rfl, ?_, ?_⟩ <;> rw [sealOver, State.core_updCore] <;> rfl
  · split
    · refine ⟨rfl, rfl, ?_, ?_⟩ <;> rw [sealOver, State.core_updCore]
    · exact ⟨rfl, rfl, rfl, rfl⟩

/-! ### FRAME_SWITCH_REQUEST (R418, R419) -/

section
variable {s : State} {id : Nat} {c : Ctx} (hcore : (s.core s.subj).ctx = some id) (hctx : s.ctx id = some c)
include hcore hctx

theorem execFrameSwitchRequest_stays (h : ∀ w, frameWorld (s.core s.subj).nextFrame.1 (s.core s.subj).nextFrame.2 = some w → c.who.world = w) :
    execFrameSwitchRequest s = .next s := by
  unfold execFrameSwitchRequest
  dsimp only
  rw [hcore, Option.bind_some, hctx]
  split
  · next w x hw hx =>
    obtain rfl := Option.some.inj hx
    exact if_pos (h w hw)
  · rfl

theorem execFrameSwitchRequest_asks {w : Nat} (h : frameWorld (s.core s.subj).nextFrame.1 (s.core s.subj).nextFrame.2 = some w) (hne : c.who.world ≠ w) :
    execFrameSwitchRequest s =
      .next ((s.updCore s.subj fun c => { c with awaitEdge := true }).push 0 0 (.switchRequest s.subj Why.frame)) := by
  unfold execFrameSwitchRequest
  dsimp only
  rw [hcore, Option.bind_some, hctx, h]
  exact if_neg hne

end

/-! ### FRAME_CYCLE_BOUNDARY (R417) -/

/-- A core whose new frame table and lead time, if it has any, have taken effect. -/
def Core.newCycle (c : Core) : Core := match c.newFrame with
  | some (t, l) => { c with frametab := t, flead := l, newFrame := none }
  | none => c

/-- The package with the new frame tables in effect. -/
def State.newCycle (s : State) : State := { s with cores := Tab.each (fun _ c => c.newCycle) s.cores }

theorem execFrameCycleBoundary_eq (s : State) : execFrameCycleBoundary s =
    .next (((s.newCycle.cores.map (·.1)).foldl (fun s k => s.push 0 0 (.frameEdge k 0)) s.newCycle).push (16 * frameCycles) 0 .frameCycleBoundary) := rfl

theorem State.core_newCycle {s : State} {core : Nat} {x : Core} (h : s.cores.look core = some x) : s.newCycle.core core = x.newCycle := by
  rw [State.core, Tab.val, State.newCycle, Tab.look_each, h]
  rfl

theorem due_foldl_push (f : Nat → Instr) {l : List Nat} {k : Nat} (h : k ∈ l) (s : State) : (l.foldl (fun s k => s.push 0 0 (f k)) s).due 0 (f k) := by
  induction l generalizing s with
  | nil => exact absurd h List.not_mem_nil
  | cons j l ih =>
    rw [List.foldl_cons]
    rcases List.mem_cons.mp h with rfl | hl
    · exact (State.Schedules.foldl (fun s k => .push s 0 0 (f k)) l _).due (State.due_push _ _ _ _)
    · exact ih hl _

/-! ### CORE_CLEAR_DONE (R419) -/

/-- The package with every byte of a core's slice and every translation of it gone. -/
def State.cleared (s : State) (core : Nat) : State :=
  let t := (List.range 4).foldl (fun s q => zeroQuad s core q) s
  { t with tlbs := t.tlbs.filter (fun e => decide (e.site ≠ core)) }

theorem foldl_zeroQuad_byteAt (s : State) (core n a : Nat) : ((List.range n).foldl (fun s q => zeroQuad s core q) s).byteAt a =
    if sliceCell core 0 ≤ a ∧ a < sliceCell core 0 + n * 2 ^ 21 then 0 else s.byteAt a := by
  induction n with
  | zero => exact (if_neg (by omega)).symm
  | succ n ih =>
    rw [List.range_succ, List.foldl_append, List.foldl_cons, List.foldl_nil, zeroQuad_byteAt, ih]
    simp only [sliceCell]
    split
    · exact (if_pos (by omega)).symm
    · exact if_congr (by omega) rfl rfl

theorem State.byteAt_with_tlbs (s : State) (l : List Tlb) (a : Nat) : ({ s with tlbs := l } : State).byteAt a = s.byteAt a := rfl

theorem State.cleared_byteAt (s : State) (core a : Nat) :
    (s.cleared core).byteAt a = if sliceCell core 0 ≤ a ∧ a < sliceCell core 0 + 2 ^ 23 then 0 else s.byteAt a := by
  have h := foldl_zeroQuad_byteAt s core 4 a
  rw [show 4 * 2 ^ 21 = 2 ^ 23 by norm_num] at h
  exact (State.byteAt_with_tlbs _ _ a).trans h

theorem fenceClean_keeps (s : State) (core : Nat) : (fenceClean s core).mem = s.mem ∧ (fenceClean s core).tlbs = s.tlbs ∧
    ((fenceClean s core).core core).clearing = (s.core core).clearing := by
  by_cases h : (s.core core).fenced = true ∧ (s.core core).ctx = none
  · obtain ⟨a, ha, -⟩ := fenceClean_eq h.1 h.2
    rw [ha]
    exact ⟨rfl, rfl, (congrArg Core.clearing (s.core_updCore core fun c => { c with spt := [] }):)⟩
  · have hsame : fenceClean s core = s := if_neg h
    rw [hsame]
    exact ⟨rfl, rfl, rfl⟩

theorem execCoreClearDone_ends {s : State} {n : Nat} (h : (s.core s.subj).clearing = some n) (hover : n ≤ s.now) : execCoreClearDone s =
    .next (callArbiter (fenceClean ((s.cleared s.subj).updCore s.subj fun c => { c with clearing := none }) s.subj)) := by
  unfold execCoreClearDone
  dsimp only
  rw [h]
  exact if_neg (Nat.not_lt.mpr hover)

/-! ### The statement -/

theorem satAdd_one (a : Nat) : satAdd 8 a 1 = min (a + 1) 255 := rfl

section
variable {s : State} {core frame : Nat}

/-- What a frame edge does, whatever is on the core. -/
theorem execFrameEdge_starts (s : State) (core frame : Nat) : ∃ t, execFrameEdge core frame s = .next t ∧
    ((s.updCore core fun c => c.atEdge frame).edgeMet core frame).Schedules t ∧
    (t.core core).frame = frame ∧ (t.core core).awaitEdge = false ∧ (frame < 15 → (s.now + 109375, 0, .frameEdge core (frame + 1)) ∈ t.agenda) ∧
    t.due core .frameSwitchRequest ∧ t.mem = s.mem := by
  obtain ⟨hmem, hnow, hframe, hawait⟩ := (s.updCore core fun c => c.atEdge frame).edgeMet_keeps core frame
  obtain ⟨hsched, hedge, hdue⟩ := ((s.updCore core fun c => c.atEdge frame).edgeMet core frame).edgeNext_schedules core frame (s.core core).flead
  rw [State.core_updCore] at hframe hawait
  rw [hnow] at hedge
  exact ⟨_, execFrameEdge_eq s core frame, hsched, (hsched.same (f := fun t : State => (t.core core).frame) fun _ => rfl).trans hframe,
    (hsched.same (f := fun t : State => (t.core core).awaitEdge) fun _ => rfl).trans hawait, hedge, hdue,
    (hsched.same (f := State.mem) fun _ => rfl).trans hmem⟩

/-- The task on the core at an edge. -/
theorem State.edgeMet_ctx {id : Nat} {c : Ctx} (hcore : (s.core core).ctx = some id) (hctx : s.ctx id = some c) :
    (s.edgeMet core frame).ctx id = some (c.inFrame (frameWorld (s.core core).frametab frame)) := by
  rw [State.edgeMet_task hcore hctx]
  dsimp only
  split
  · exact s.ctx_setCtx id _
  · exact s.ctx_setCtx id _

/-- An edge to a frame of another world: the task is asked out, and the overrun is counted. -/
theorem State.edgeMet_overruns {id w : Nat} {c : Ctx} (hcore : (s.core core).ctx = some id) (hctx : s.ctx id = some c)
    (hown : frameWorld (s.core core).frametab frame = some w) (hne : c.who.world ≠ w) :
    (s.edgeMet core frame).due 0 (.switchRequest core Why.frame) ∧ ((s.edgeMet core frame).core core).sealovr = satAdd 8 (s.core core).sealovr 1 := by
  rw [State.edgeMet_task hcore hctx]
  dsimp only
  rw [hown, if_neg (by simpa using Ne.symm hne)]
  exact ⟨State.due_push _ _ _ _, by rw [sealOver, State.core_updCore]; rfl⟩

end

/-- Settles O39: an edge is `execFrameEdge_starts` with what `edgeMet` does to the task, a lead window and a cycle boundary are their lemmas, a clear
is `cleared_byteAt`. -/
theorem framesAndClears : Obligations.FramesAndClears := by
  intro s core frame id c own idleFrame
  have howner {f : Nat} (howned : ¬ idleFrame f) (hother : ¬ own f c.who.world) :
      ∃ w, frameWorld (s.core core).frametab f = some w ∧ c.who.world ≠ w := by
    obtain ⟨w, hw⟩ := Option.ne_none_iff_exists'.mp fun h => howned ((frameWorld_eq_none_iff _ f).mp h)
    exact ⟨w, hw, fun h => hother (h ▸ (frameWorld_eq_some_iff _ f w).mp hw)⟩
  refine ⟨fun _ => ?_, fun hsubj hcore hctx hnew hlt => ?_, ?_, fun n hsubj hclear hover => ?_⟩
  · obtain ⟨t, hexec, hsched, hframe, hawait, hedge, hdue, hmem⟩ := execFrameEdge_starts s core frame
    refine ⟨t, hexec, hframe, hawait, hedge, hdue, hmem, fun hcore hctx => ?_⟩
    have hcore' : ((s.updCore core fun c => c.atEdge frame).core core).ctx = some id := by rw [State.core_updCore]; exact hcore
    have htab : ((s.updCore core fun c => c.atEdge frame).core core).frametab = (s.core core).frametab := by rw [State.core_updCore]; rfl
    have htask := State.edgeMet_ctx (frame := frame) hcore' (show (s.updCore core fun c => c.atEdge frame).ctx id = some c from hctx)
    rw [htab] at htask
    refine ⟨⟨_, (hsched.same (f := fun t : State => t.ctx id) fun _ => rfl).trans htask, ?_, rfl⟩, fun howned hother => ?_⟩
    · rw [Ctx.inFrame, decide_eq_true_eq, ne_eq, frameWorld_eq_some_iff]
      rfl
    · obtain ⟨w, hw, hne⟩ := howner howned hother
      obtain ⟨hout, hcount⟩ := State.edgeMet_overruns (frame := frame) hcore' (show (s.updCore core fun c => c.atEdge frame).ctx id = some c from hctx)
        (htab ▸ hw) hne
      refine ⟨hsched.due hout, (hsched.same (f := fun t : State => (t.core core).sealovr) fun _ => rfl).trans (hcount.trans ?_)⟩
      rw [State.core_updCore]
      rfl
  · subst hsubj
    have hnext : (s.core s.subj).nextFrame =
        ((s.core s.subj).frametab, if (s.core s.subj).frame = 15 then 0 else (s.core s.subj).frame + 1) := by
      rw [Core.nextFrame, hnew]
      split <;> rfl
    intro f
    refine ⟨fun h => execFrameSwitchRequest_stays hcore hctx fun w hw => ?_, fun howned hother => ?_⟩
    · rw [hnext] at hw
      rcases h with hidle | hown
      · exact absurd (((frameWorld_eq_none_iff _ f).mpr hidle).symm.trans hw) nofun
      · exact Option.some.inj (((frameWorld_eq_some_iff _ f _).mpr hown).symm.trans hw)
    · obtain ⟨w, hw, hne⟩ := howner howned hother
      refine ⟨_, execFrameSwitchRequest_asks hcore hctx (w := w) (by rw [hnext]; exact hw) hne, ?_, State.due_push _ _ _ _, rfl⟩
      exact congrArg Core.awaitEdge (s.core_updCore s.subj fun c => { c with awaitEdge := true })
  · have hsched := State.Schedules.foldl (fun s k => .push s 0 0 (Instr.frameEdge k 0)) (s.newCycle.cores.map (·.1)) s.newCycle
    have hpush := State.Schedules.push ((s.newCycle.cores.map (·.1)).foldl (fun s k => s.push 0 0 (.frameEdge k 0)) s.newCycle) (16 * frameCycles) 0
      .frameCycleBoundary
    have hall := hsched.trans hpush
    refine ⟨_, execFrameCycleBoundary_eq s, hall.same (f := State.ctxs) fun _ => rfl, hall.same (f := State.mem) fun _ => rfl, ?_, fun x hx => ?_,
      fun x tab lead hx hnew => ?_⟩
    · have hnow := hsched.same (f := State.now) fun _ => rfl
      refine List.mem_append_right _ (List.mem_singleton.mpr ?_)
      rw [hnow]
      rfl
    · refine hpush.due (due_foldl_push (fun k => .frameEdge k 0) ?_ _)
      rw [Tab.mem_keys_iff, State.newCycle, Tab.look_each, hx]
      rfl
    · rw [hall.same (f := fun t : State => t.core core) fun _ => rfl, State.core_newCycle hx, Core.newCycle, hnew]
      exact ⟨rfl, rfl, rfl⟩
  · subst hsubj
    obtain ⟨hmem, htlbs, hclearing⟩ := fenceClean_keeps ((s.cleared s.subj).updCore s.subj fun c => { c with clearing := none }) s.subj
    have hcalled := State.Schedules.pushOnce (fenceClean ((s.cleared s.subj).updCore s.subj fun c => { c with clearing := none }) s.subj) 0 0 .arbiterChoice
    refine ⟨_, execCoreClearDone_ends hclear hover, ?_, fun e he => ?_, State.due_pushOnce _ _ _ _, fun a => ?_⟩
    · rw [callArbiter, State.pushOnce_core, hclearing, State.core_updCore]
    · have he' : e ∈ (s.cleared s.subj).tlbs := by
        rw [callArbiter, hcalled.same (f := State.tlbs) fun _ => rfl, htlbs] at he
        exact he
      exact of_decide_eq_true (List.mem_filter.mp he').2
    · have hbyte := State.cleared_byteAt s s.subj a
      rw [State.byteAt, callArbiter, hcalled.same (f := State.mem) fun _ => rfl, hmem]
      exact hbyte

end Sys2Proof.Machine
end

section
/-! PROOF. HBM reads, scrubbing, refresh and failed pseudo-channels, with the error logs of the dies (O35). -/

namespace Sys2Proof.Machine

/-! ### An error record (R430, R431, R436) -/

/-- The record has its place in the log, when the die keeps one. -/
def State.logFits (s : State) (d : Nat) : Prop := (s.die d).en = true → (s.die d).logbase + 32 * 2 ^ ((s.die d).loglog + 8) ≤ 2 ^ 39

theorem State.logSafe.fits {s : State} {d : Nat} (h : s.logSafe d) : s.logFits d := fun _ => h.2

/-- The log of a die has room for a record. -/
def Die.room (e : Die) : Bool := e.en && decide ((e.logTail + 2 ^ 32 - e.logHead) % 2 ^ 32 < 2 ^ (e.loglog + 8))

/-- The die with a record written: its TELE budget pays, and TAIL and the record count of the millisecond move on. -/
def Die.recorded (e : Die) (tele : Tab Int) (ms used : Nat) : Die :=
  { e with teleTok := tele, logTail := (e.logTail + 1) % 2 ^ 32, ceMs := ms, ceThisMs := used }

/-- What becomes of a record: a corrected error over its rate leaves none; one without room is counted; any other is written. -/
theorem logError_cases {s : State} {d : Nat} (h : s.logFits d) (cls req core pa region dw1 : Nat) (detail : DWord) (corrected : Bool) :
    (corrected = true ∧ logError s d cls req core pa region dw1 detail corrected = s) ∨
    ((s.die d).room = false ∧ ∃ ho, logError s d cls req core pa region dw1 detail corrected =
      { s.updDie d (fun e => { e with lost := satAdd 14 e.lost 1 }) with host := ho }) ∨
    ((s.die d).room = true ∧ ∃ m key ho tele ms used, logError s d cls req core pa region dw1 detail corrected =
      { s.updDie d (fun e => e.recorded tele ms used) with mem := m, keyed := key, host := ho }) := by
  unfold logError
  extract_lets e ms used size allowed room rec0 rec1 bytes at_ pc written
  have hmsix (t : State) : ∃ ho, (if (!corrected || e.ceint) = true then t.msix 0 else t) = { t with host := ho } := by
    split
    · obtain ⟨ho, hx, -⟩ := t.msix_frame 0
      exact ⟨ho, hx⟩
    · exact ⟨t.host, rfl⟩
  obtain ⟨ho, hho⟩ := hmsix written
  split
  · next hno =>
    refine .inl ⟨?_, rfl⟩
    cases corrected
    · simp [allowed] at hno
    · rfl
  · refine .inr ?_
    have hroom : room = (s.die d).room := rfl
    cases hr : (s.die d).room with
    | false =>
      refine .inl ⟨rfl, ho, ?_⟩
      rw [hho]
      unfold written
      rw [hroom, hr]
      rfl
    | true =>
      have hen : (s.die d).en = true := (Bool.and_eq_true_iff.mp hr).1
      have hslot : (s.die d).logTail % 2 ^ ((s.die d).loglog + 8) < 2 ^ ((s.die d).loglog + 8) := Nat.mod_lt _ (Nat.two_pow_pos _)
      have hlog := h hen
      have hin : at_ + bytes.length ≤ 2 ^ 39 := by
        simp only [at_, bytes, size, e, leBytes, List.length_append, List.length_cons, List.length_nil]
        omega
      obtain ⟨m, key, hwrite⟩ := State.devWrite_device (s := s) (w := whoDevice) (by decide) hin
      refine .inr ⟨rfl, m, key, ho, e.teleTok.set pc (e.teleTok.val (e.teleB : Int) pc - 1), ms, if corrected then used + 1 else used, ?_⟩
      rw [hho]
      unfold written
      rw [hroom, hr, if_pos rfl, hwrite]
      rfl

/-! ### What noting symbol errors leaves alone (R427, R428) -/

/-- From `s` to `t` errors of a line of die `d` may have been noted: what the log is set to, and the uncorrectable errors counted, are as before,
and so are tasks, symbol errors, and the scrubber's tokens; memory differs only by records. -/
structure State.Notes (s t : State) (d : Nat) : Prop where
  bad : t.bad = s.bad
  ctxs : t.ctxs = s.ctxs
  lineErr : t.lineErr = s.lineErr
  en : (t.die d).en = (s.die d).en
  logbase : (t.die d).logbase = (s.die d).logbase
  loglog : (t.die d).loglog = (s.die d).loglog
  ueCount : (t.die d).ueCount = (s.die d).ueCount
  scrubTok : ∀ p, (t.pch p).scrubTok = (s.pch p).scrubTok
  mem : (s.die d).en = false → t.mem = s.mem

namespace State.Notes

theorem refl (s : State) (d : Nat) : s.Notes s d := ⟨rfl, rfl, rfl, rfl, rfl, rfl, rfl, fun _ => rfl, fun _ => rfl⟩

theorem trans {s t u : State} {d : Nat} (h : s.Notes t d) (g : t.Notes u d) : s.Notes u d where
  bad := g.bad.trans h.bad
  ctxs := g.ctxs.trans h.ctxs
  lineErr := g.lineErr.trans h.lineErr
  en := g.en.trans h.en
  logbase := g.logbase.trans h.logbase
  loglog := g.loglog.trans h.loglog
  ueCount := g.ueCount.trans h.ueCount
  scrubTok p := (g.scrubTok p).trans (h.scrubTok p)
  mem hoff := (g.mem (h.en.trans hoff)).trans (h.mem hoff)

theorem fits {s t : State} {d : Nat} (h : s.Notes t d) (hfits : s.logFits d) : t.logFits d := by
  rw [State.logFits, h.en, h.logbase, h.loglog]
  exact hfits

theorem updPch (s : State) (d k : Nat) {f : Pch → Pch} (hf : (f (s.pch k)).scrubTok = (s.pch k).scrubTok) : s.Notes (s.updPch k f) d := by
  refine ⟨rfl, rfl, rfl, rfl, rfl, rfl, rfl, fun p => ?_, fun _ => rfl⟩
  rw [State.pch, State.updPch, Tab.val_set]
  split
  · next h => rw [h]; exact hf
  · rfl

theorem updDie (s : State) (d : Nat) {f : Die → Die} (hen : (f (s.die d)).en = (s.die d).en) (hbase : (f (s.die d)).logbase = (s.die d).logbase)
    (hlog : (f (s.die d)).loglog = (s.die d).loglog) (hue : (f (s.die d)).ueCount = (s.die d).ueCount) : s.Notes (s.updDie d f) d :=
  ⟨rfl, rfl, rfl, by rwa [State.die_updDie], by rwa [State.die_updDie], by rwa [State.die_updDie], by rwa [State.die_updDie], fun _ => rfl, fun _ => rfl⟩

end State.Notes

theorem logError_notes {s : State} {d : Nat} (h : s.logFits d) (cls req core pa region dw1 : Nat) (detail : DWord) (corrected : Bool) :
    s.Notes (logError s d cls req core pa region dw1 detail corrected) d ∧
      ((logError s d cls req core pa region dw1 detail corrected).die d).ceCount = (s.die d).ceCount := by
  obtain ⟨-, ht⟩ | ⟨-, ho, ht⟩ | ⟨hroom, m, key, ho, tele, ms, used, ht⟩ := logError_cases h cls req core pa region dw1 detail corrected
  · rw [ht]
    exact ⟨.refl s d, rfl⟩
  · have hdie := s.die_updDie d fun e => { e with lost := satAdd 14 e.lost 1 }
    have hnotes := State.Notes.updDie s d (f := fun e => { e with lost := satAdd 14 e.lost 1 }) rfl rfl rfl rfl
    rw [ht]
    exact ⟨⟨rfl, rfl, rfl, hnotes.en, hnotes.logbase, hnotes.loglog, hnotes.ueCount, fun _ => rfl, fun _ => rfl⟩, (congrArg Die.ceCount hdie:)⟩
  · have hdie := s.die_updDie d fun e => e.recorded tele ms used
    have hnotes := State.Notes.updDie s d (f := fun e => e.recorded tele ms used) rfl rfl rfl rfl
    rw [ht]
    refine ⟨⟨rfl, rfl, rfl, hnotes.en, hnotes.logbase, hnotes.loglog, hnotes.ueCount, fun _ => rfl, fun hoff => ?_⟩, (congrArg Die.ceCount hdie:)⟩
    exact absurd ((Bool.and_eq_true_iff.mp hroom).1.symm.trans hoff) Bool.false_ne_true.symm

/-- One correction: CECOUNT counts it, and the erasures of its pseudo-channel may differ. -/
theorem noteCorrection_notes (s : State) (line cw pos : Nat) : s.Notes (noteCorrection s line cw pos) (hbmDie line) ∧
    ((noteCorrection s line cw pos).die (hbmDie line)).ceCount = satAdd 32 (s.die (hbmDie line)).ceCount 1 := by
  unfold noteCorrection
  extract_lets pa pc d key p covers hit n p' counted fresh noted
  have hcounted : s.Notes counted d := .updPch s d pc rfl
  have hnoted : s.Notes noted d ∧ (noted.die d).ceCount = (s.die d).ceCount := by
    unfold noted
    split
    · exact ⟨.updPch s d pc rfl, rfl⟩
    · split
      · exact ⟨hcounted, rfl⟩
      · split
        · exact ⟨hcounted.trans (.updDie _ _ rfl rfl rfl rfl), (congrArg Die.ceCount (counted.die_updDie d fun e => { e with erafull := true }):)⟩
        · exact ⟨hcounted.trans (.updPch _ _ _ rfl), rfl⟩
  obtain ⟨h, hce⟩ := hnoted
  refine ⟨h.trans (.updDie _ _ rfl rfl rfl rfl), ?_⟩
  rw [State.die_updDie]
  exact congrArg (satAdd 32 · 1) hce

theorem foldl_noteCorrection_notes (line : Nat) (errs : List (Nat × Nat)) (s : State) :
    s.Notes (errs.foldl (fun s e => noteCorrection s line e.1 e.2) s) (hbmDie line) ∧
      ((errs.foldl (fun s e => noteCorrection s line e.1 e.2) s).die (hbmDie line)).ceCount =
        if errs = [] then (s.die (hbmDie line)).ceCount else min ((s.die (hbmDie line)).ceCount + errs.length) (2 ^ 32 - 1) := by
  induction errs generalizing s with
  | nil => exact ⟨.refl _ _, rfl⟩
  | cons e errs ih =>
    obtain ⟨hfirst, hce⟩ := noteCorrection_notes s line e.1 e.2
    obtain ⟨hrest, hces⟩ := ih (noteCorrection s line e.1 e.2)
    refine ⟨hfirst.trans hrest, ?_⟩
    rw [List.foldl_cons, hces, hce, if_neg (List.cons_ne_nil _ _), satAdd, List.length_cons]
    split
    · next h =>
      subst h
      rfl
    · omega

/-- A corrected line: each correction counts, and each corrected codeword may leave a record. -/
theorem noteCorrected_notes {s : State} {line : Nat} (h : s.logFits (hbmDie line)) (w : Who) (errs : List (Nat × Nat)) :
    s.Notes (noteCorrected s w line errs) (hbmDie line) ∧ ((noteCorrected s w line errs).die (hbmDie line)).ceCount =
      if errs = [] then (s.die (hbmDie line)).ceCount else min ((s.die (hbmDie line)).ceCount + errs.length) (2 ^ 32 - 1) := by
  obtain ⟨hcounts, hce⟩ := foldl_noteCorrection_notes line errs s
  rw [← hce]
  unfold noteCorrected
  extract_lets pa note
  have hnote {t : State} (ht : t.logFits (hbmDie line)) (j : Nat) :
      t.Notes (note t j) (hbmDie line) ∧ ((note t j).die (hbmDie line)).ceCount = (t.die (hbmDie line)).ceCount := by
    unfold note
    dsimp only
    split
    · exact ⟨.refl _ _, rfl⟩
    · exact logError_notes ht _ _ _ _ _ _ _ _
  obtain ⟨h0, hce0⟩ := hnote (hcounts.fits h) 0
  obtain ⟨h1, hce1⟩ := hnote (h0.fits (hcounts.fits h)) 1
  exact ⟨hcounts.trans (h0.trans h1), hce1.trans hce0⟩

/-! ### An uncorrectable line (R428, R430) -/

section
variable {s : State} {line : Nat}

/-- The die once its uncorrectable error is counted. -/
def Die.spoiled (e : Die) : Die := { e with ueCount := satAdd 16 e.ueCount 1 }

/-- What an uncorrectable line of die `d` leaves: it is counted, and recorded where the log has room, else counted as lost. -/
theorem noteUncorrectable_cases (h : s.logFits (hbmDie line)) (w : Who) (cw pos : Nat) :
    ((s.die (hbmDie line)).room = false ∧ ∃ ho, noteUncorrectable s w line cw pos =
      { s.updDie (hbmDie line) (fun e => { e.spoiled with lost := satAdd 14 e.lost 1 }) with host := ho }) ∨
    ((s.die (hbmDie line)).room = true ∧ ∃ m key ho tele ms used, noteUncorrectable s w line cw pos =
      { s.updDie (hbmDie line) (fun e => e.spoiled.recorded tele ms used) with mem := m, keyed := key, host := ho }) := by
  have htwice (f g : Die → Die) : (s.updDie (hbmDie line) f).updDie (hbmDie line) g = s.updDie (hbmDie line) (fun e => g (f e)) := by
    simp only [State.updDie, State.die, Tab.val, Tab.look_set_self, Tab.set_set, Option.getD_some]
  have hdie := s.die_updDie (hbmDie line) Die.spoiled
  have hfits : (s.updDie (hbmDie line) Die.spoiled).logFits (hbmDie line) := by
    rw [State.logFits, hdie]
    exact h
  have hroom : ((s.updDie (hbmDie line) Die.spoiled).die (hbmDie line)).room = (s.die (hbmDie line)).room := by
    rw [hdie]
    rfl
  have hcases := logError_cases hfits 0x02 w.req w.core (line * 64) w.region (lineFields (line * 64) + pos * 2 ^ 5 + cw * 2 ^ 4) 0 false
  rw [hroom] at hcases
  obtain ⟨hno, -⟩ | ⟨hr, ho, ht⟩ | ⟨hr, m, key, ho, tele, ms, used, ht⟩ := hcases
  · exact absurd hno Bool.false_ne_true
  · refine .inl ⟨hr, ho, Eq.trans ht ?_⟩
    rw [htwice]
    rfl
  · refine .inr ⟨hr, m, key, ho, tele, ms, used, Eq.trans ht ?_⟩
    rw [htwice]

theorem noteUncorrectable_keeps (h : s.logFits (hbmDie line)) (w : Who) (cw pos : Nat) :
    (noteUncorrectable s w line cw pos).bad = s.bad ∧ (noteUncorrectable s w line cw pos).ctxs = s.ctxs ∧
      (noteUncorrectable s w line cw pos).lineErr = s.lineErr ∧ (noteUncorrectable s w line cw pos).pchs = s.pchs ∧
      ((noteUncorrectable s w line cw pos).die (hbmDie line)).ueCount = min ((s.die (hbmDie line)).ueCount + 1) 65535 := by
  obtain ⟨-, ho, ht⟩ | ⟨-, m, key, ho, tele, ms, used, ht⟩ := noteUncorrectable_cases h w cw pos
  · rw [ht]
    exact ⟨rfl, rfl, rfl, rfl, (congrArg Die.ueCount (s.die_updDie (hbmDie line) fun e => { e.spoiled with lost := satAdd 14 e.lost 1 }):)⟩
  · rw [ht]
    exact ⟨rfl, rfl, rfl, rfl, (congrArg Die.ueCount (s.die_updDie (hbmDie line) fun e => e.spoiled.recorded tele ms used):)⟩

theorem noteUncorrectable_recorded (h : s.logFits (hbmDie line)) (w : Who) (cw pos : Nat) (hroom : (s.die (hbmDie line)).room = true) :
    ((noteUncorrectable s w line cw pos).die (hbmDie line)).logTail = ((s.die (hbmDie line)).logTail + 1) % 2 ^ 32 ∧
      ((noteUncorrectable s w line cw pos).die (hbmDie line)).lost = (s.die (hbmDie line)).lost := by
  obtain ⟨hno, -⟩ | ⟨-, m, key, ho, tele, ms, used, ht⟩ := noteUncorrectable_cases h w cw pos
  · exact absurd (hno.symm.trans hroom) Bool.false_ne_true
  · have hdie := s.die_updDie (hbmDie line) fun e => e.spoiled.recorded tele ms used
    rw [ht]
    exact ⟨(congrArg Die.logTail hdie:), (congrArg Die.lost hdie:)⟩

theorem noteUncorrectable_lost (h : s.logFits (hbmDie line)) (w : Who) (cw pos : Nat) (hroom : (s.die (hbmDie line)).room = false) :
    ((noteUncorrectable s w line cw pos).die (hbmDie line)).lost = min ((s.die (hbmDie line)).lost + 1) (2 ^ 14 - 1) ∧
      ((noteUncorrectable s w line cw pos).die (hbmDie line)).logTail = (s.die (hbmDie line)).logTail ∧
      (noteUncorrectable s w line cw pos).mem = s.mem := by
  obtain ⟨-, ho, ht⟩ | ⟨hyes, -⟩ := noteUncorrectable_cases h w cw pos
  · have hdie := s.die_updDie (hbmDie line) fun e => { e.spoiled with lost := satAdd 14 e.lost 1 }
    rw [ht]
    exact ⟨(congrArg Die.lost hdie:), (congrArg Die.logTail hdie:), rfl⟩
  · exact absurd (hroom.symm.trans hyes) Bool.false_ne_true

/-! ### One line decoded (R426, R428) -/

theorem readSymbols_clean (h : s.decodeLine line = .clean) (w : Who) : readSymbols s w line = (s, .ok (s.lineView line)) := by
  rw [readSymbols, h]

theorem readSymbols_corrected {errs : List (Nat × Nat)} (h : s.decodeLine line = .corrected errs) (w : Who) :
    readSymbols s w line = (noteCorrected s w line errs, .ok (s.lineView line)) := by
  rw [readSymbols, h]

/-- The package with one more free value taken. -/
def State.drawn (s : State) : State := { s with tick := s.tick + 1 }

theorem readSymbols_bad {cw pos : Nat} (h : s.decodeLine line = .bad cw pos) (w : Who) :
    readSymbols s w line = match Config.miscorrect s.tick (BitVec.ofNat 512 (leNat (s.lineView line))) with
      | some v => (s.drawn, .ok (leBytes 64 v.toNat))
      | none => (noteUncorrectable s.drawn w line cw pos, .abort) := by
  rw [readSymbols, h]
  rfl

/-- Whatever a line holds, reading it records its errors and leaves the tasks alone. -/
theorem readSymbols_keeps (h : s.logFits (hbmDie line)) (w : Who) :
    (readSymbols s w line).1.bad = s.bad ∧ (readSymbols s w line).1.ctxs = s.ctxs := by
  cases hdecode : s.decodeLine line with
  | clean => rw [readSymbols_clean hdecode]; exact ⟨rfl, rfl⟩
  | corrected errs =>
    obtain ⟨hnotes, -⟩ := noteCorrected_notes h w errs
    rw [readSymbols_corrected hdecode]
    exact ⟨hnotes.bad, hnotes.ctxs⟩
  | bad cw pos =>
    rw [readSymbols_bad hdecode]
    split
    · exact ⟨rfl, rfl⟩
    · obtain ⟨-, ho, ht⟩ | ⟨-, m, key, ho, tele, ms, used, ht⟩ := noteUncorrectable_cases (s := s.drawn) h w cw pos
      · rw [ht]; exact ⟨rfl, rfl⟩
      · rw [ht]; exact ⟨rfl, rfl⟩

/-! ### One line read from HBM (R416, R434) -/

/-- The package with other tokens in its regions' pools. -/
def State.paid (s : State) (r : Tab Region) : State := { s with arb := { s.arb with regions := r } }

theorem hbmRead_unreached {w : Who} (h : s.hbmReach w.die line = false) : ∃ r, hbmRead s w line = (s.paid r, .abort) := by
  obtain ⟨r, hr⟩ := s.served_frame w 1
  refine ⟨r, ?_⟩
  unfold hbmRead
  rw [hr]
  exact if_pos (congrArg (!·) h)

theorem hbmRead_reached {w : Who} (h : s.hbmReach w.die line = true) (hrange : s.rangeOf (line * 64) = none) :
    ∃ r, hbmRead s w line = readSymbols (s.paid r) w line := by
  obtain ⟨r, hr⟩ := s.served_frame w 1
  refine ⟨r, ?_⟩
  unfold hbmRead
  rw [hr]
  refine (if_neg ?_).trans ?_
  · exact fun hno => Bool.false_ne_true ((congrArg (!·) h).symm.trans hno)
  · rw [show State.rangeOf { s with arb := { s.arb with regions := r } } (line * 64) = none from hrange]
    rfl

/-- A reader that opens no CODE range reads the symbols of the line, or gets nothing. -/
theorem hbmRead_cases {w : Who} (hopens : w.opens = false) :
    ∃ r, (hbmRead s w line).1 = s.paid r ∨ hbmRead s w line = readSymbols (s.paid r) w line := by
  obtain ⟨r, hr⟩ := s.served_frame w 1
  refine ⟨r, ?_⟩
  unfold hbmRead
  rw [hr, hopens]
  dsimp only
  split
  · exact .inl rfl
  · split
    · exact .inr rfl
    · split
      · exact .inl rfl
      · split
        · exact .inl rfl
        · exact .inr rfl

end

theorem execHbmRead_eq {s : State} {line rq core : Nat} (hline : line < 2 ^ 33) (hbad : (hbmRead s (s.hbmReader line rq core) line).1.bad = none) :
    execHbmRead line rq core s = .next (hbmRead s (s.hbmReader line rq core) line).1 := by
  rw [execHbmRead, Nat.mod_eq_of_lt hline, fin_ok hbad]

/-! ### The scrubber (R432) -/

/-- The scrubber of a pseudo-channel. -/
def scrubber (pc : Nat) : Who := { die := pc / 128, world := 0, region := 0, core := 0x1FF, req := 5, opens := false }

/-- The package once the scrubber has read a line and put it in order. -/
def State.scrubbed (s : State) (pc line : Nat) : State :=
  if Config.pseudoChannel (line * 64) ≠ pc then s
  else match s.decodeLine line with
    | .clean => s
    | .corrected errs => { noteCorrected s (scrubber pc) line errs with lineErr := (noteCorrected s (scrubber pc) line errs).lineErr.del line }
    | .bad cw pos => match Config.miscorrect s.tick (BitVec.ofNat 512 (leNat (s.bytesAt (line * 64) 64))) with
      | some v => { s.drawn with mem := Memory.putAll s.mem (line * 64) (leBytes 64 v.toNat), lineErr := s.lineErr.del line }
      | none => noteUncorrectable s.drawn (scrubber pc) line cw pos

/-- The scrubber has spent a token and moves on. -/
def State.scrubOn (s : State) (pc line budget : Nat) : State :=
  (s.updPch pc fun p => { p with scrubAt := nextLine pc line, scrubTok := p.scrubTok - 1 }).push (periodCycles / budget) pc .scrubRead

theorem State.scrubOn_pch (s : State) (pc line budget : Nat) : (s.scrubOn pc line budget).pch pc =
    { s.pch pc with scrubAt := nextLine pc line, scrubTok := (s.pch pc).scrubTok - 1 } :=
  (Tab.val_set _ _ _ _ _).trans (if_pos rfl)

section
variable {s : State}

theorem execScrubRead_waits (h : (s.die (s.subj / 128)).scrubB = 0 ∨ (s.pch s.subj).scrubTok ≤ 0 ∨ (s.pch s.subj).pcfail = true) :
    execScrubRead s = .next (s.push periodCycles s.subj .scrubRead) := if_pos h

theorem execScrubRead_reads (h : ¬ ((s.die (s.subj / 128)).scrubB = 0 ∨ (s.pch s.subj).scrubTok ≤ 0 ∨ (s.pch s.subj).pcfail = true)) :
    execScrubRead s = fin ((s.scrubbed s.subj (s.pch s.subj).scrubAt).scrubOn s.subj (s.pch s.subj).scrubAt (s.die (s.subj / 128)).scrubB) :=
  if_neg h

variable {pc line : Nat}

theorem State.scrubbed_clean (h : s.decodeLine line = .clean) : s.scrubbed pc line = s := by
  unfold State.scrubbed
  rw [h]
  exact ite_self s

theorem State.scrubbed_corrected (hpc : Config.pseudoChannel (line * 64) = pc) {errs : List (Nat × Nat)} (h : s.decodeLine line = .corrected errs) :
    s.scrubbed pc line = { noteCorrected s (scrubber pc) line errs with lineErr := (noteCorrected s (scrubber pc) line errs).lineErr.del line } := by
  unfold State.scrubbed
  rw [h]
  exact if_neg (not_not.mpr hpc)

theorem State.scrubbed_bad (hpc : Config.pseudoChannel (line * 64) = pc) {cw pos : Nat} (h : s.decodeLine line = .bad cw pos) :
    s.scrubbed pc line = match Config.miscorrect s.tick (BitVec.ofNat 512 (leNat (s.bytesAt (line * 64) 64))) with
      | some v => { s.drawn with mem := Memory.putAll s.mem (line * 64) (leBytes 64 v.toNat), lineErr := s.lineErr.del line }
      | none => noteUncorrectable s.drawn (scrubber pc) line cw pos := by
  unfold State.scrubbed
  rw [h]
  exact if_neg (not_not.mpr hpc)

/-- Whatever the line holds, scrubbing it records its errors and leaves the tasks alone. -/
theorem State.scrubbed_keeps (h : s.logFits (hbmDie line)) : (s.scrubbed pc line).bad = s.bad ∧ (s.scrubbed pc line).ctxs = s.ctxs := by
  by_cases hpc : Config.pseudoChannel (line * 64) = pc
  · cases hdecode : s.decodeLine line with
    | clean => rw [State.scrubbed_clean hdecode]; exact ⟨rfl, rfl⟩
    | corrected errs =>
      obtain ⟨hnotes, -⟩ := noteCorrected_notes h (scrubber pc) errs
      rw [State.scrubbed_corrected hpc hdecode]
      exact ⟨hnotes.bad, hnotes.ctxs⟩
    | bad cw pos =>
      rw [State.scrubbed_bad hpc hdecode]
      split
      · exact ⟨rfl, rfl⟩
      · obtain ⟨-, ho, ht⟩ | ⟨-, m, key, ho, tele, ms, used, ht⟩ := noteUncorrectable_cases (s := s.drawn) h (scrubber pc) cw pos
        · rw [ht]; exact ⟨rfl, rfl⟩
        · rw [ht]; exact ⟨rfl, rfl⟩
  · rw [State.scrubbed, if_pos hpc]
    exact ⟨rfl, rfl⟩

/-! ### A failed pseudo-channel (R434) -/

theorem State.hbmReach_of_pcfail {d l : Nat} (hfail : (s.pch (Config.pseudoChannel (l * 64))).pcfail = true) (hne : s.pchs ≠ []) :
    s.hbmReach d l = false := by
  rw [State.hbmReach, hfail, List.isEmpty_eq_false_iff.mpr hne]
  rfl

end

theorem Tab.set_ne_nil {α : Type} (t : Tab α) (n : Nat) (a : α) : t.set n a ≠ [] := by
  rintro h
  have hlook := t.look_set_self n a
  rw [h] at hlook
  exact absurd hlook.symm (Option.some_ne_none a)

/-- The package with a pseudo-channel out of service. -/
def State.outOfService (s : State) (pc : Nat) : State :=
  let t := s.updPch pc fun p => { p with pcfail := true }
  { t with host := { t.host with stackok := t.stackLeft (pc / 64) } }

theorem State.outOfService_pch (s : State) (pc : Nat) : (s.outOfService pc).pch pc = { s.pch pc with pcfail := true } :=
  (Tab.val_set _ _ _ _ _).trans (if_pos rfl)

theorem execPseudoChannelFail_stops {s : State} (hsafe : s.logSafe (s.subj / 128)) :
    ∃ t, exec .pseudoChannelFail s = .next t ∧ (t.pch s.subj).pcfail = true ∧
      ∀ d l, Config.pseudoChannel (l * 64) = s.subj → t.hbmReach d l = false := by
  unfold State.logSafe at hsafe
  obtain ⟨hbad, hroom⟩ := hsafe
  have hdown := s.outOfService_pch s.subj
  generalize hpc : s.subj = pc at *
  have heq : exec .pseudoChannelFail s = fin (logError (s.outOfService pc) (pc / 128) 0x09 7 0x1FF 0 0 (pchFields pc) 0 false) := by
    rw [← hpc]; rfl
  have hfits : (s.outOfService pc).logFits (pc / 128) := fun _ => hroom
  have hne : (s.outOfService pc).pchs ≠ [] := Tab.set_ne_nil _ _ _
  rw [heq]
  obtain ⟨hno, -⟩ | ⟨-, ho, ht⟩ | ⟨-, m, key, ho, tele, ms, used, ht⟩ := logError_cases hfits 0x09 7 0x1FF 0 0 (pchFields pc) 0 false
  · exact absurd hno Bool.false_ne_true
  · have hb : { (s.outOfService pc).updDie (pc / 128) (fun e => { e with lost := satAdd 14 e.lost 1 }) with host := ho }.bad = none := hbad
    rw [ht, fin_ok hb]
    refine ⟨_, rfl, congrArg Pch.pcfail hdown, fun d l hl => State.hbmReach_of_pcfail ?_ hne⟩
    rw [hl]
    exact congrArg Pch.pcfail hdown
  · have hb : { (s.outOfService pc).updDie (pc / 128) (fun e => e.recorded tele ms used) with mem := m, keyed := key, host := ho }.bad = none := hbad
    rw [ht, fin_ok hb]
    refine ⟨_, rfl, congrArg Pch.pcfail hdown, fun d l hl => State.hbmReach_of_pcfail ?_ hne⟩
    rw [hl]
    exact congrArg Pch.pcfail hdown

section
variable {s t : State}

theorem readSymbols_miscorrected {line cw pos : Nat} {v : Line} (h : s.decodeLine line = .bad cw pos)
    (hv : Config.miscorrect s.tick (BitVec.ofNat 512 (leNat (s.lineView line))) = some v) (w : Who) :
    readSymbols s w line = (s.drawn, .ok (leBytes 64 v.toNat)) := by
  rw [readSymbols_bad h, hv]

theorem readSymbols_aborts {line cw pos : Nat} (h : s.decodeLine line = .bad cw pos)
    (hv : Config.miscorrect s.tick (BitVec.ofNat 512 (leNat (s.lineView line))) = none) (w : Who) :
    readSymbols s w line = (noteUncorrectable s.drawn w line cw pos, .abort) := by
  rw [readSymbols_bad h, hv]

/-- A read that leaves the package without a bad address ends with what it leaves. -/
theorem execHbmRead_next {line rq core : Nat} {a : Ans (List Byte)} (hline : line < 2 ^ 33)
    (hread : hbmRead s (s.hbmReader line rq core) line = (t, a)) (hbad : t.bad = none) :
    exec (.hbmRead line rq core) s = .next t ∧ (hbmRead s (s.hbmReader line rq core) line).2 = a := by
  have heq := execHbmRead_eq (s := s) (rq := rq) (core := core) hline (by rw [hread]; exact hbad)
  rw [hread] at heq ⊢
  exact ⟨heq, rfl⟩

/-- A scrub step that has a token leaves its line in order and moves on. -/
theorem execScrubRead_next (h : ¬ ((s.die (s.subj / 128)).scrubB = 0 ∨ (s.pch s.subj).scrubTok ≤ 0 ∨ (s.pch s.subj).pcfail = true))
    (hscrub : s.scrubbed s.subj (s.pch s.subj).scrubAt = t) (hbad : t.bad = none) :
    exec .scrubRead s = .next (t.scrubOn s.subj (s.pch s.subj).scrubAt (s.die (s.subj / 128)).scrubB) := by
  have hon : (t.scrubOn s.subj (s.pch s.subj).scrubAt (s.die (s.subj / 128)).scrubB).bad = none := hbad
  refine (execScrubRead_reads h).trans ?_
  rw [hscrub, fin_ok hon]

theorem State.scrubOn_due (t : State) (pc line budget : Nat) : (t.scrubOn pc line budget).due pc .scrubRead := by
  unfold State.scrubOn
  exact State.due_push _ _ _ _

theorem State.scrubOn_next (pc line budget : Nat) {tok : Int} (h : (t.pch pc).scrubTok = tok) :
    ((t.scrubOn pc line budget).pch pc).scrubTok = tok - 1 ∧ ((t.scrubOn pc line budget).pch pc).scrubAt = nextLine pc line ∧
      (t.scrubOn pc line budget).due pc .scrubRead := by
  have hpch := t.scrubOn_pch pc line budget
  refine ⟨(congrArg Pch.scrubTok hpch).trans (congrArg (· - 1) h), ?_, t.scrubOn_due pc line budget⟩
  rw [hpch]

end

/-- Settles O35: a read is `hbmRead_unreached`, `hbmRead_reached` and what `readSymbols` does of the line, the scrubber `scrubbed` and `scrubOn`. -/
theorem hbmReliability : Obligations.HbmReliability := by
  intro s line rq core cw pos hline d e w seen free reads pc at_ u next
  have hgoes (hB : (s.die (pc / 128)).scrubB ≠ 0) (htok : 0 < (s.pch pc).scrubTok) (hfail : (s.pch pc).pcfail = false) :
      ¬ ((s.die (pc / 128)).scrubB = 0 ∨ (s.pch pc).scrubTok ≤ 0 ∨ (s.pch pc).pcfail = true) := by
    rintro (h | h | h)
    · exact hB h
    · omega
    · exact Bool.false_ne_true (hfail.symm.trans h)
  refine ⟨fun hsafe => ?_, fun hsafe => ?_, ⟨_, rfl, ?_, State.due_push _ _ _ _, rfl⟩, fun hsafe => ?_, fun hclean hbad => ⟨?_, fun hseen => ?_⟩,
    fun hno hbad => ?_, fun errs hdecode herrs hseen hsafe => ?_, fun hdecode hseen hsafe => ⟨fun v hv => ?_, fun hv => ?_⟩,
    fun hB htok hfail hpc => ⟨fun hclean hbad => ?_, fun errs hdecode hbad hoff => ?_, fun hdecode hsafe => ⟨fun hv => ?_, fun v hv => ?_⟩⟩,
    execScrubRead_waits⟩
  · obtain ⟨r, hpaid | hsymbols⟩ := hbmRead_cases (s := s) (line := line) (w := w) rfl
    · obtain ⟨hnext, -⟩ := execHbmRead_next hline (Prod.ext hpaid rfl) hsafe.1
      exact ⟨_, hnext, rfl⟩
    · obtain ⟨hkbad, hkctxs⟩ := readSymbols_keeps (s := s.paid r) (line := line) hsafe.fits w
      obtain ⟨hnext, -⟩ := execHbmRead_next hline hsymbols (hkbad.trans hsafe.1)
      exact ⟨_, hnext, hkctxs⟩
  · by_cases hwait : (s.die (pc / 128)).scrubB = 0 ∨ (s.pch pc).scrubTok ≤ 0 ∨ (s.pch pc).pcfail = true
    · exact ⟨_, execScrubRead_waits hwait, State.due_push _ _ _ _, rfl⟩
    · obtain ⟨hkbad, hkctxs⟩ := State.scrubbed_keeps (s := s) (pc := pc) (line := at_) hsafe.fits
      exact ⟨_, execScrubRead_next hwait rfl (hkbad.trans hsafe.1), State.due_push _ _ _ _, hkctxs⟩
  · exact congrArg Pch.refTok ((Tab.val_set _ _ _ _ _).trans (if_pos rfl))
  · exact execPseudoChannelFail_stops hsafe
  · obtain ⟨r, hpaid | hsymbols⟩ := hbmRead_cases (s := s) (line := line) (w := w) rfl
    · obtain ⟨hnext, -⟩ := execHbmRead_next hline (Prod.ext hpaid rfl) hbad
      exact ⟨_, hnext, rfl, rfl, rfl, rfl, rfl⟩
    · obtain ⟨hnext, -⟩ := execHbmRead_next hline (hsymbols.trans (readSymbols_clean (s := s.paid r) hclean w)) hbad
      exact ⟨_, hnext, rfl, rfl, rfl, rfl, rfl⟩
  · obtain ⟨r, hr⟩ := hbmRead_reached hseen.1 hseen.2
    obtain ⟨hnext, hans⟩ := execHbmRead_next hline (hr.trans (readSymbols_clean (s := s.paid r) hclean w)) hbad
    exact ⟨_, hnext, hans, rfl, rfl, rfl, rfl, rfl, rfl, rfl⟩
  · obtain ⟨r, hr⟩ := hbmRead_unreached hno
    obtain ⟨hnext, hans⟩ := execHbmRead_next hline hr hbad
    exact ⟨_, hnext, hans, rfl, rfl, rfl, rfl, rfl, rfl, rfl⟩
  · obtain ⟨r, hr⟩ := hbmRead_reached hseen.1 hseen.2
    obtain ⟨hnotes, hce⟩ := noteCorrected_notes (s := s.paid r) (line := line) hsafe.fits w errs
    obtain ⟨hnext, hans⟩ := execHbmRead_next hline (hr.trans (readSymbols_corrected (s := s.paid r) hdecode w)) (hnotes.bad.trans hsafe.1)
    exact ⟨_, hnext, hans, hnotes.lineErr, hnotes.ctxs, hce.trans (if_neg herrs), hnotes.ueCount⟩
  · obtain ⟨r, hr⟩ := hbmRead_reached hseen.1 hseen.2
    have hmade : readSymbols (s.paid r) w line = ((s.paid r).drawn, .ok (leBytes 64 v.toNat)) := readSymbols_miscorrected (s := s.paid r) hdecode hv w
    obtain ⟨hnext, hans⟩ := execHbmRead_next hline (hr.trans hmade) hsafe.1
    exact ⟨_, hnext, hans, rfl, rfl, rfl, rfl, rfl, rfl, rfl⟩
  · obtain ⟨r, hr⟩ := hbmRead_reached hseen.1 hseen.2
    have hfits : (s.paid r).drawn.logFits (hbmDie line) := hsafe.fits
    have hmade : readSymbols (s.paid r) w line = (noteUncorrectable (s.paid r).drawn w line cw pos, .abort) := readSymbols_aborts (s := s.paid r) hdecode hv w
    obtain ⟨hkbad, hkctxs, hkline, -, hkue⟩ := noteUncorrectable_keeps hfits w cw pos
    obtain ⟨hnext, hans⟩ := execHbmRead_next hline (hr.trans hmade) (hkbad.trans hsafe.1)
    refine ⟨_, hnext, hans, hkline, hkctxs, hkue, fun hen hlt => ?_, fun hoff => ?_⟩
    · exact noteUncorrectable_recorded hfits w cw pos (Bool.and_eq_true_iff.mpr ⟨hen, decide_eq_true hlt⟩)
    · exact noteUncorrectable_lost hfits w cw pos (Bool.and_eq_false_iff.mpr (.inl hoff))
  · have hnext := execScrubRead_next (hgoes hB htok hfail) (State.scrubbed_clean hclean) hbad
    exact ⟨_, hnext, State.scrubOn_next _ _ _ rfl, rfl, rfl⟩
  · have hfits : s.logFits (hbmDie at_) := fun hen => absurd (hoff.symm.trans hen) Bool.false_ne_true
    obtain ⟨hnotes, -⟩ := noteCorrected_notes hfits (scrubber pc) errs
    have hnext := execScrubRead_next (hgoes hB htok hfail) (State.scrubbed_corrected hpc hdecode) (hnotes.bad.trans hbad)
    exact ⟨_, hnext, State.scrubOn_next _ _ _ (hnotes.scrubTok pc), hnotes.mem hoff, congrArg (Tab.del · at_) hnotes.lineErr⟩
  · have hfits : s.drawn.logFits (hbmDie at_) := hsafe.fits
    have hmade : s.scrubbed pc at_ = noteUncorrectable s.drawn (scrubber pc) at_ cw pos := by
      rw [State.scrubbed_bad hpc hdecode, hv]
    obtain ⟨hkbad, -, hkline, hkpch, hkue⟩ := noteUncorrectable_keeps hfits (scrubber pc) cw pos
    have hnext := execScrubRead_next (hgoes hB htok hfail) hmade (hkbad.trans hsafe.1)
    exact ⟨_, hnext, State.scrubOn_next _ _ _ (congrArg (fun p : Tab Pch => (p.val Pch.reset pc).scrubTok) hkpch), hkline, hkue⟩
  · have hmade : s.scrubbed pc at_ =
        { s.drawn with mem := Memory.putAll s.mem (at_ * 64) (leBytes 64 v.toNat), lineErr := s.lineErr.del at_ } := by
      rw [State.scrubbed_bad hpc hdecode, hv]
    have hnext := execScrubRead_next (hgoes hB htok hfail) hmade hsafe.1
    exact ⟨_, hnext, State.scrubOn_next _ _ _ rfl, rfl, rfl, rfl⟩

end Sys2Proof.Machine
end

section
/-! PROOF. Operations of the matrix stream at issue (O27). -/

namespace Sys2Proof.Machine

/-! ### Ring slots given to the reads of the stream (R56) -/

/-- An operation of the stream but for the ring slots of its reads. -/
def MOp.bare (m : MOp) : MOp := { m with rings := [] }

theorem assignUse_bufs (c : Ctx) (u : RingUse) : ∃ bufs, (assignUse c u).1 = { c with bufs := bufs } := by
  unfold assignUse
  dsimp only
  split
  · exact ⟨_, rfl⟩
  · split
    · split
      · exact ⟨_, rfl⟩
      · exact ⟨_, rfl⟩
    · split
      · exact ⟨_, rfl⟩
      · exact ⟨_, rfl⟩

theorem assignUses_bufs (c : Ctx) (l : List RingUse) (w : List Nat) : ∃ bufs, (assignUses c l w).1 = { c with bufs := bufs } := by
  induction l generalizing c w with
  | nil => exact ⟨_, rfl⟩
  | cons u t ih =>
    unfold assignUses
    split
    · exact ih c w
    · obtain ⟨b0, h0⟩ := assignUse_bufs c u
      obtain ⟨b1, h1⟩ := ih (assignUse c u).1 (if (assignUse c u).2.slot.isNone then (assignUse c u).2.buf :: w else w)
      rw [h0] at h1
      exact ⟨b1, by rw [← h1, ← h0]⟩

theorem assignStream_frame (c : Ctx) (l : List MOp) (w : List Nat) :
    (∃ bufs, (assignStream c l w).1 = { c with bufs := bufs }) ∧ (assignStream c l w).2.map MOp.bare = l.map MOp.bare := by
  induction l generalizing c w with
  | nil => exact ⟨⟨_, rfl⟩, rfl⟩
  | cons m t ih =>
    obtain ⟨b0, h0⟩ := assignUses_bufs c m.rings w
    obtain ⟨⟨b1, h1⟩, hbare⟩ := ih (assignUses c m.rings w).1 (assignUses c m.rings w).2.2
    rw [h0] at h1
    refine ⟨⟨b1, ?_⟩, ?_⟩
    · unfold assignStream
      rw [← h1, ← h0]
    · unfold assignStream
      rw [List.map_cons, List.map_cons, hbare]
      rfl

theorem Ctx.assign_frame (c : Ctx) :
    ∃ bufs ms, c.assign = { c with bufs := bufs, eng := { c.eng with ms := ms } } ∧ ms.map MOp.bare = c.eng.ms.map MOp.bare := by
  obtain ⟨⟨bufs, hbufs⟩, hbare⟩ := assignStream_frame c c.eng.ms []
  have hpair : assignStream c c.eng.ms [] = ({ c with bufs := bufs }, (assignStream c c.eng.ms []).2) := Prod.ext hbufs rfl
  refine ⟨bufs, _, ?_, hbare⟩
  unfold Ctx.assign
  rw [hpair]

/-! ### An operation joins the stream (R310) -/

/-- The tiles of a list, as a mask: its bit j is set for each tile j below 16 of the list. -/
theorem getLsbD_tileMask (l : List Nat) (j : Nat) : (tileMask l).getLsbD j = true ↔ j < 16 ∧ j ∈ l := by
  suffices h : ∀ m : BitVec 16, (l.foldl (fun m t => m ||| BitVec.ofNat 16 (2 ^ t)) m).getLsbD j = true ↔
      m.getLsbD j = true ∨ (j < 16 ∧ j ∈ l) by
    refine (h 0).trans ?_
    simp
  induction l with
  | nil => simp
  | cons t l ih =>
    intro m
    rw [List.foldl_cons, ih]
    simp only [BitVec.getLsbD_or, BitVec.getLsbD_ofNat, Nat.testBit_two_pow, Bool.or_eq_true, Bool.and_eq_true, decide_eq_true_eq,
      List.mem_cons]
    constructor
    · rintro ((h | ⟨hj, rfl⟩) | ⟨hj, h⟩)
      · exact .inl h
      · exact .inr ⟨hj, .inl rfl⟩
      · exact .inr ⟨hj, .inr h⟩
    · rintro (h | ⟨hj, rfl | h⟩)
      · exact .inl (.inl h)
      · exact .inl (.inr ⟨hj, rfl⟩)
      · exact .inr ⟨hj, h⟩

/-- The operation that joins the stream of a task, which nothing absorbs. -/
def streamEntry (s : State) (c : Ctx) (i : Instr) (ha hb : Handle) (pl : List (Nat × Nat)) (scal : DWord) (rings : List RingUse)
    (cmd : Option Nat) : MOp where
  seq := c.ph.seq
  pc := s.pcOf c
  instr := i
  ha := ha
  hb := hb
  scal := scal
  ftz := ftzOf (s.srcRegs c).fpctl
  batch := c.eng.cur
  rings := rings
  cmd := cmd
  cancelled := false
  absorbed := false
  acted := false
  phase := c.ph.no
  word := s.issue.word
  stepf := c.stepFlag
  planes := pl
  sx4 := c.eng.sx4

/-- The task whose stream an operation has joined, with the ring slots given out. -/
def Ctx.entered (c : Ctx) (bufs : Tab BufEnt) (ms : List MOp) (tiles : List Nat) (word : DWord) : Ctx :=
  { c with
    bufs := bufs
    eng := { c.eng with ms := ms, mcount := c.eng.mcount + 1, btile := c.eng.btile.put 0 c.eng.cur (c.eng.btile.val 0 c.eng.cur ||| tileMask tiles) }
    ph := { c.ph with seq := c.ph.seq + 1, mwords := c.ph.mwords ++ [word] } }

theorem enterStream_eq {s : State} {id : Nat} {c : Ctx} (hctx : s.ctx id = some c) (hmark : c.ph.markm ≤ c.eng.mcount - c.ph.ck.mcount) (i : Instr)
    (ha hb : Handle) (pl : List (Nat × Nat)) (scal : DWord) (rings : List RingUse) (tiles : List Nat) (cmd : Option Nat) :
    ∃ bufs ms, enterStream s id i ha hb pl scal rings tiles cmd =
        (if c.eng.ms.isEmpty then (s.setCtx id (c.entered bufs ms tiles s.issue.word)).push 0 id .matrixRetire
          else s.setCtx id (c.entered bufs ms tiles s.issue.word)) ∧
      ms.map MOp.bare = (c.eng.ms ++ [streamEntry s c i ha hb pl scal rings cmd]).map MOp.bare := by
  have habsorbed : decide (c.eng.mcount - c.ph.ck.mcount < c.ph.markm) = false := decide_eq_false (by omega)
  unfold enterStream
  rw [hctx]
  dsimp only
  rw [habsorbed, if_neg (by simp)]
  obtain ⟨bufs, ms, hassign, hbare⟩ := Ctx.assign_frame (c.entered c.bufs (c.eng.ms ++ [streamEntry s c i ha hb pl scal rings cmd]) tiles s.issue.word)
  refine ⟨bufs, ms, ?_, hbare⟩
  have hentered : (c.entered c.bufs (c.eng.ms ++ [streamEntry s c i ha hb pl scal rings cmd]) tiles s.issue.word).assign =
      c.entered bufs ms tiles s.issue.word := hassign
  rw [← hentered]
  rfl

/-- What a task's operation that joins the stream leaves: its context, and a retirement to come when the stream was empty. -/
theorem enterStream_leaves {s : State} {id : Nat} {c : Ctx} (hctx : s.ctx id = some c) (hmark : c.ph.markm ≤ c.eng.mcount - c.ph.ck.mcount) (i : Instr)
    (ha hb : Handle) (pl : List (Nat × Nat)) (scal : DWord) (rings : List RingUse) (tiles : List Nat) (cmd : Option Nat) :
    ∃ bufs ms a, enterStream s id i ha hb pl scal rings tiles cmd =
        { s.setCtx id (c.entered bufs ms tiles s.issue.word) with agenda := a } ∧ (∀ e ∈ s.agenda, e ∈ a) ∧
      (c.eng.ms = [] → (s.now, id, .matrixRetire) ∈ a) ∧
      ms.map MOp.bare = (c.eng.ms ++ [streamEntry s c i ha hb pl scal rings cmd]).map MOp.bare := by
  obtain ⟨bufs, ms, henter, hbare⟩ := enterStream_eq hctx hmark i ha hb pl scal rings tiles cmd
  rw [henter]
  split
  · exact ⟨bufs, ms, s.agenda ++ [(s.now + 0, id, .matrixRetire)], rfl, fun e he => List.mem_append_left _ he,
      fun _ => List.mem_append_right _ (List.mem_singleton_self _), hbare⟩
  · next hsome => exact ⟨bufs, ms, s.agenda, rfl, fun e he => he, fun h => absurd (List.isEmpty_iff.mpr h) hsome, hbare⟩

/-- The last operation of a stream that agrees with one, but for the slots of its reads. -/
theorem getLast_of_bare {l k : List MOp} {m : MOp} (h : l.map MOp.bare = (k ++ [m]).map MOp.bare) :
    l.map (·.seq) = k.map (·.seq) ++ [m.seq] ∧ ∃ x, l.getLast? = some x ∧ x ∈ l ∧ x.bare = m.bare := by
  have hseq := congrArg (List.map MOp.seq) h
  have hlast := congrArg List.getLast? h
  rw [List.map_map, List.map_map] at hseq
  rw [List.getLast?_map, List.getLast?_map, List.getLast?_append, List.getLast?_singleton, Option.some_or, Option.map_some,
    Option.map_eq_some_iff] at hlast
  obtain ⟨x, hx, hbare⟩ := hlast
  refine ⟨?_, x, hx, List.mem_of_getLast? hx, hbare⟩
  calc l.map (·.seq) = (k ++ [m]).map (·.seq) := hseq
    _ = k.map (·.seq) ++ [m.seq] := List.map_append

/-- Task `id`, whose context was `c`, has gone on past an operation of the stream that has joined its open batch: the one of instruction `i` with
operands `a`, `b` and `scal`, which writes `tiles` and leaves the tiles the modes `desc`. -/
def State.joinsStream (s : State) (id : Nat) (c : Ctx) (i : Instr) (a b : Handle) (scal : DWord) (tiles : Nat → Prop) (desc : Nat → BitVec 16) : Prop :=
  ∃ t x m, exec i s = .next t ∧ t.ctx id = some x ∧ x.regs = s.after c.regs ∧ t.mem = s.mem ∧
    x.eng.ms.map (·.seq) = c.eng.ms.map (·.seq) ++ [c.ph.seq] ∧ x.eng.ms.getLast? = some m ∧
    m.instr = i ∧ m.ha = a ∧ m.hb = b ∧ m.scal = scal ∧ m.batch = c.eng.cur ∧ m.acted = false ∧ m.pc = c.regs.pc ∧ m.cmd = none ∧
    x.eng.mcount = c.eng.mcount + 1 ∧ x.eng.cur = c.eng.cur ∧ x.eng.tile = c.eng.tile ∧ x.eng.tdesc = c.eng.tdesc ∧
    (∀ j, j < 16 → ((x.eng.btile.val 0 c.eng.cur).getLsbD j = true ↔ (c.eng.btile.val 0 c.eng.cur).getLsbD j = true ∨ tiles j)) ∧
    (∀ j, x.eng.tissue.val 0 j = desc j) ∧ (c.eng.ms = [] → t.due id .matrixRetire)

/-- The task with the modes that later checks see of its tiles changed. -/
def Ctx.described (c : Ctx) (tissue : Tab (BitVec 16)) : Ctx := { c with eng := { c.eng with tissue := tissue } }

section
variable {s : State} {id : Nat} {c : Ctx} (hs : s.Sees id c)
include hs

theorem State.Sees.srcRegs_described (tissue : Tab (BitVec 16)) : s.srcRegs (c.described tissue) = c.regs := by
  have hwas := hs.was_eq
  unfold State.was at hwas
  unfold State.srcRegs State.was
  cases hsrc : s.issue.src with
  | none => rfl
  | some x =>
    rw [hsrc] at hwas
    exact congrArg Ctx.regs hwas

variable (hmark : c.ph.markm ≤ c.eng.mcount - c.ph.ck.mcount) (hbtile : Tab.rising c.eng.btile)
include hmark hbtile

/-- An instruction that makes its operation join the stream has done so, whatever it does first to the modes of the tiles. -/
theorem joinsStream_of_enter {u : State} {i : Instr} {ha hb : Handle} {pl : List (Nat × Nat)} {scal : DWord} {rings : List RingUse} {l : List Nat}
    {tissue : Tab (BitVec 16)} {tiles : Nat → Prop} {desc : Nat → BitVec 16}
    (hissue : u.issue = s.issue) (hu : u.ctx id = some (c.described tissue)) (hmem : u.mem = s.mem)
    (hexec : exec i s = .next (settle s (enterStream u id i ha hb pl scal rings l none) id))
    (htiles : ∀ j, j < 16 → (j ∈ l ↔ tiles j)) (hdesc : ∀ j, tissue.val 0 j = desc j) : s.joinsStream id c i ha hb scal tiles desc := by
  obtain ⟨bufs, ms, a, henter, -, hdue, hbare⟩ := enterStream_leaves hu hmark i ha hb pl scal rings l none
  obtain ⟨hseq, m, hlast, -, hm⟩ := getLast_of_bare hbare
  have hregs : u.srcRegs (c.described tissue) = c.regs := by
    rw [← hs.srcRegs_described tissue, State.srcRegs, State.srcRegs, State.was, State.was, hissue]
  have hpc : m.pc = c.regs.pc := (congrArg MOp.pc hm).trans (congrArg Regs.pc hregs)
  have hmask (j : Nat) (hj : j < 16) := calc
    ((Tab.put 0 c.eng.btile c.eng.cur (c.eng.btile.val 0 c.eng.cur ||| tileMask l)).val 0 c.eng.cur).getLsbD j = true
      ↔ (c.eng.btile.val 0 c.eng.cur ||| tileMask l).getLsbD j = true := by rw [Tab.val_put_self 0 hbtile]
    _ ↔ (c.eng.btile.val 0 c.eng.cur).getLsbD j = true ∨ tiles j := by
      rw [BitVec.getLsbD_or, Bool.or_eq_true, getLsbD_tileMask, and_iff_right hj, htiles j hj]
  obtain ⟨hx, hsettled, hagenda⟩ := settle_goes_on
    (s1 := { u.setCtx id ((c.described tissue).entered bufs ms l u.issue.word) with agenda := a }) hs.1 hissue (u.ctx_setCtx id _)
  refine ⟨_, _, m, hexec.trans (congrArg (fun t => Host.Outcome.next (settle s t id)) henter), hx, rfl, hsettled.trans hmem, hseq, hlast,
    congrArg MOp.instr hm, congrArg MOp.ha hm,
    congrArg MOp.hb hm, congrArg MOp.scal hm, congrArg MOp.batch hm, congrArg MOp.acted hm, hpc, congrArg MOp.cmd hm, rfl, rfl, rfl, rfl, hmask, hdesc,
    fun hempty => State.due_congr hagenda ⟨_, hdue hempty⟩⟩

/-- An instruction whose operation joins the stream with the modes of the tiles as they are. -/
theorem joinsStream_of_slot {i : Instr} {ha hb : Handle} {pl : List (Nat × Nat)} {scal : DWord} {rings : List RingUse} {l : List Nat}
    {tiles : Nat → Prop} {f : Nat → Ctx → State} (hexec : exec i s = slotStep s f) (hf : f id c = enterStream s id i ha hb pl scal rings l none)
    (htiles : ∀ j, j < 16 → (j ∈ l ↔ tiles j)) : s.joinsStream id c i ha hb scal tiles (fun j => c.eng.tissue.val 0 j) := by
  refine joinsStream_of_enter hs hmark hbtile (pl := pl) (rings := rings) (tissue := c.eng.tissue) rfl hs.ctx_eq rfl ?_ htiles fun j => rfl
  rw [hexec, slotStep_eq hs.1, hf]

variable (hroom : c.eng.ms.length < 32)
include hroom

theorem joinsStream_of_streamOp {i : Instr} {l : List Nat} {f : Tab (BitVec 16) → Tab (BitVec 16)} {tiles : Nat → Prop} {desc : Nat → BitVec 16}
    (hexec : exec i s = streamOp s i l f) (htiles : ∀ j, j < 16 → (j ∈ l ↔ tiles j)) (hdesc : ∀ j, (f c.eng.tissue).val 0 j = desc j) :
    s.joinsStream id c i 0 0 0 tiles desc := by
  refine joinsStream_of_enter hs hmark hbtile (pl := []) (rings := []) (u := s.setCtx id (c.described (f c.eng.tissue))) rfl (s.ctx_setCtx id _) rfl ?_ htiles hdesc
  have hfull : ¬ c.streamFull = true := by simpa [Ctx.streamFull] using hroom
  have hdescribed : s.updIssueDesc id f = s.setCtx id (c.described (f c.eng.tissue)) := State.updCtx_eq hs.ctx_eq _
  rw [hexec, streamOp, slotStep_eq hs.1]
  rw [if_neg hfull, hdescribed]

theorem joinsStream_of_mmaIssue {i : Instr} {m : MmaForm} {ha hb : BitVec 5} {scal : Ctx → DWord} (hexec : exec i s = mmaIssue s i m ha hb scal)
    (hcheck : matrixCheck s c m (s.rh c ha) (s.rh c hb) (planeOf c.regs (s.rh c ha) ++ planeOf c.regs (s.rh c hb)) = none) :
    s.joinsStream id c i (s.rh c ha) (s.rh c hb) (scal c) (fun j => j = m.t) (fun j => c.eng.tissue.val 0 j) := by
  have hfull : ¬ c.streamFull = true := by simpa [Ctx.streamFull] using hroom
  have hregs : s.srcRegs c = c.regs := hs.srcRegs_described c.eng.tissue
  refine joinsStream_of_slot hs hmark hbtile (pl := planeOf c.regs (s.rh c ha) ++ planeOf c.regs (s.rh c hb))
    (rings := mmaRings m (s.rh c ha) (s.rh c hb)) hexec ?_ fun j _ => List.mem_singleton
  dsimp only
  rw [if_neg hfull, hregs, hcheck]

end

/-- The modes of the tiles once those of a list are in sum mode. -/
theorem Tab.val_foldl_put_zero {d : Tab (BitVec 16)} (hd : d.rising) (l : List Nat) (j : Nat) :
    (l.foldl (fun d t => d.put 0 t 0) d).val 0 j = if j ∈ l then 0 else d.val 0 j := by
  induction l generalizing d with
  | nil => rfl
  | cons t l ih =>
    rw [List.foldl_cons, ih (Tab.rising_put 0 hd t 0)]
    by_cases hj : j ∈ l
    · rw [if_pos hj, if_pos (List.mem_cons_of_mem t hj)]
    · rw [if_neg hj]
      by_cases ht : j = t
      · rw [ht, Tab.val_put_self 0 hd, if_pos (List.mem_cons_self ..)]
      · rw [Tab.val_put_other 0 d 0 (Ne.symm ht), if_neg fun h => (List.mem_cons.mp h).elim ht hj]

theorem Tab.val_put_eq {d : Tab (BitVec 16)} (hd : d.rising) (t : Nat) (a : BitVec 16) (j : Nat) :
    (d.put 0 t a).val 0 j = if j = t then a else d.val 0 j := by
  split
  · next h => rw [h, Tab.val_put_self 0 hd]
  · next h => rw [Tab.val_put_other 0 d a (Ne.symm h)]

theorem mem_maskTiles_iff {mask : BitVec 16} {j : Nat} : j ∈ maskTiles mask ↔ mask.getLsbD j = true := by
  refine ⟨fun h => (mem_maskTiles (List.mem_range.mp (List.mem_filter.mp h).1)).mp h, fun h => (mem_maskTiles ?_).mpr h⟩
  exact BitVec.lt_of_getLsbD h

/-- Settles O27: each operation joins the stream by `enterStream_leaves`, with the modes its descriptor change leaves. -/
theorem matrixIssues : Obligations.MatrixIssues := by
  intro s id c t u ha hb fp ka kb dir ib row0 col0 z mask sum k buf q n hs hroom htissue hbtile hmark joins now A B pl form one
  have hfull : ¬ c.streamFull = true := by simpa [Ctx.streamFull] using hroom
  refine ⟨joinsStream_of_mmaIssue hs hmark hbtile hroom (m := form fp.toNat false) (scal := fun _ => 0) rfl,
    joinsStream_of_mmaIssue hs hmark hbtile hroom (m := form fp.toNat true) (scal := fun _ => 0) rfl,
    joinsStream_of_mmaIssue hs hmark hbtile hroom (m := form 9 false) (scal := fun c => s.rs c z) rfl, ?_, ?_, ?_, ?_,
    fun hring => ?_, fun hring => ?_, fun hsame => ?_, fun hsame => ?_⟩
  · refine joinsStream_of_streamOp hs hmark hbtile hroom rfl (fun j _ => mem_maskTiles_iff) fun j => ?_
    rw [Tab.val_foldl_put_zero htissue]
    exact if_congr mem_maskTiles_iff rfl rfl
  · refine joinsStream_of_streamOp hs hmark hbtile hroom rfl (fun j _ => List.mem_singleton) fun j => ?_
    rw [rankedDesc_eq, Tab.val_put_eq htissue]
  · refine joinsStream_of_streamOp hs hmark hbtile hroom rfl (fun j _ => List.mem_singleton) fun j => ?_
    exact Tab.val_put_eq htissue _ _ _
  · exact joinsStream_of_streamOp hs hmark hbtile hroom rfl (fun j _ => by simp) fun j => rfl
  · refine joinsStream_of_slot hs hmark hbtile (pl := []) (rings := [⟨buf.toNat, none, true, n.toNat⟩]) (l := []) rfl ?_ fun j _ => by simp
    dsimp only
    rw [if_neg hfull, if_neg (by omega)]
  · rw [← BitVec.ofNat_toNat]
    refine slotStep_raise hs.1 (cause := Cause.bufferMode) ?_ (by decide)
    dsimp only
    rw [if_neg hfull, if_pos (by omega)]
  · refine joinsStream_of_slot hs hmark hbtile (pl := []) (rings := []) (l := [t.toNat]) rfl ?_ fun j _ => List.mem_singleton
    dsimp only
    rw [if_neg hfull, if_neg]
    rintro (h | ⟨h, h'⟩)
    · exact h hsame.1
    · exact h' (hsame.2 h)
  · rw [← BitVec.ofNat_toNat]
    refine slotStep_raise hs.1 (cause := Cause.tileMode) ?_ (by decide)
    dsimp only
    rw [if_neg hfull, if_pos]
    by_contra hno
    rw [not_or, not_and, not_not, not_not] at hno
    exact hsame hno

end Sys2Proof.Machine
end

section
/-! PROOF. Vector operations at issue (O29). -/

namespace Sys2Proof.Machine

/-! ### The rounding mode of a vector operation (R174, R179) -/

/-- The rounding mode of a vector operation with resolved operands `l`: none for integers alone. -/
def vecMode (l : List VecArg) (rc : Option Nat) (fpctl : DWord) : Nat :=
  if ∀ a ∈ l, hFmt a.h = 0x01 ∨ hFmt a.h = 0x02 then 0
  else match rc with
    | some k => modeOf k fpctl (decide (16 < argBits (argH l 0)))
    | none => 0

/-- What issue makes of the rounding code of a vector operation; none for SR to a wide destination. -/
def issueMode (l : List VecArg) (rc : Option Nat) (fpctl : DWord) : Option Nat :=
  match rc with
  | some r => engineMode r fpctl (argBits (argH l 0))
  | none => some 0

theorem issueMode_isSome_iff (l : List VecArg) (rc : Option Nat) (fpctl : DWord) :
    (issueMode l rc fpctl).isSome = true ↔ ¬ (rc = some 4 ∧ 16 < argBits (argH l 0)) := by
  unfold issueMode
  cases rc with
  | none => simp
  | some r =>
    dsimp only
    unfold engineMode
    split
    · next h => simp [h.1, h.2]
    · next h => simpa using h

theorem issueMode_getD {l : List VecArg} {rc : Option Nat} {fpctl : DWord} (h : (issueMode l rc fpctl).isSome = true) :
    (if l.all (fun a => intFmts.contains (hFmt a.h)) then 0 else (issueMode l rc fpctl).getD 0) = vecMode l rc fpctl := by
  have hints : l.all (fun a => intFmts.contains (hFmt a.h)) = true ↔ ∀ a ∈ l, hFmt a.h = 0x01 ∨ hFmt a.h = 0x02 := by
    rw [List.all_eq_true]
    simp [intFmts]
  unfold vecMode
  by_cases hall : ∀ a ∈ l, hFmt a.h = 0x01 ∨ hFmt a.h = 0x02
  · rw [if_pos hall, if_pos (hints.mpr hall)]
  · rw [if_neg hall, if_neg (hints.not.mpr hall)]
    unfold issueMode at h ⊢
    cases rc with
    | none => rfl
    | some r =>
      dsimp only at h ⊢
      unfold engineMode at h ⊢
      split at h
      · exact absurd h Bool.false_ne_true
      · next hnarrow => rw [if_neg hnarrow, Option.getD_some]

/-! ### A vector operation joins the queue (R327) -/

/-- The registers after an issue that rounds in a mode: SR takes a step of RNGV. -/
def Regs.drawn (r : Regs) (mode : Nat) : Regs := if mode = 4 then { r with rngv := xorshift r.rngv } else r

/-- The operation that an issue puts in the queue. -/
def queuedVec (c : Ctx) (i : Instr) (l : List VecArg) (hs : Handle × Handle × Handle × Handle) (scal : DWord) (mode : Nat)
    (extraRd extraWr : List (Nat × Nat)) : VecOp where
  seq := c.ph.seq
  pc := c.regs.pc
  instr := i
  hd := hs.1
  ha := hs.2.1
  hb := hs.2.2.1
  hm := hs.2.2.2
  scal := scal
  seed := if mode = 4 then xorshift c.regs.rngv else 0
  ftz := ftzOf c.regs.fpctl
  mode := mode
  rd := (l.filter (fun a => !a.dst)).flatMap (fun a => argRange a.h) ++ extraRd
  wr := (l.filter (·.dst)).flatMap (fun a => argRange a.h) ++ extraWr
  phase := c.ph.no
  stepf := c.stepFlag
  run := none

/-- The task with one more vector operation in its queue. -/
def Ctx.queueing (c : Ctx) (v : VecOp) : Ctx :=
  { c with regs := c.regs.drawn v.mode, eng := { c.eng with vq := c.eng.vq ++ [v] }, ph := { c.ph with seq := c.ph.seq + 1 } }

section
variable {s : State} {id : Nat} {c : Ctx} (hs : s.Sees id c)
include hs

theorem enqueueVec_eq (i : Instr) (l : List VecArg) (h : Handle × Handle × Handle × Handle) (scal : DWord) (mode : Nat)
    (extraRd extraWr : List (Nat × Nat)) : enqueueVec s id c i l h scal mode extraRd extraWr =
      let t := s.setCtx id (c.queueing (queuedVec c i l h scal mode extraRd extraWr))
      if c.eng.vq = [] then t.push 0 id .vecComplete else t := by
  have hregs : s.srcRegs c = c.regs := hs.srcRegs_described c.eng.tissue
  have hseed : (if mode = 4 then { c.regs with rngv := if mode = 4 then xorshift c.regs.rngv else 0 } else c.regs) = c.regs.drawn mode := by
    unfold Regs.drawn
    split <;> rfl
  have hfirst : (c.eng.vq ++ [queuedVec c i l h scal mode extraRd extraWr]).length = 1 ↔ c.eng.vq = [] := by
    rw [List.length_append, List.length_singleton]
    exact (by omega : c.eng.vq.length + 1 = 1 ↔ c.eng.vq.length = 0).trans List.length_eq_zero_iff
  unfold enqueueVec
  rw [hs.ctx_eq]
  dsimp only
  rw [hregs, State.pcOf, hregs, hseed]
  exact if_congr hfirst rfl rfl

/-- A vector operation that has joined the queue: the task goes on, and the engine completes it when its turn comes. -/
theorem settle_enqueueVec (i : Instr) (l : List VecArg) (h : Handle × Handle × Handle × Handle) (scal : DWord) (mode : Nat)
    (extraRd extraWr : List (Nat × Nat)) :
    let t := settle s (enqueueVec s id c i l h scal mode extraRd extraWr) id
    let x := c.queueing (queuedVec c i l h scal mode extraRd extraWr)
    t.ctx id = some { x with regs := s.after x.regs } ∧ t.mem = s.mem ∧ (c.eng.vq = [] → t.due id .vecComplete) := by
  rw [enqueueVec_eq hs]
  dsimp only
  split
  · obtain ⟨hx, hmem, hdue⟩ := settle_setCtx_push hs.1 (c.queueing (queuedVec c i l h scal mode extraRd extraWr)) .vecComplete
    exact ⟨hx, hmem, fun _ => hdue⟩
  · next hsome =>
    obtain ⟨hx, hmem, -⟩ := settle_goes_on (s1 := s.setCtx id (c.queueing (queuedVec c i l h scal mode extraRd extraWr))) hs.1 rfl (s.ctx_setCtx id _)
    exact ⟨hx, hmem, fun h => absurd h hsome⟩

/-! ### Issue of a vector operation (R325 to R329) -/

variable {i : Instr} {args : Ctx → List VecArg} {scal : Ctx → DWord} {rc : Option Nat} {shape idle : List VecArg → Bool}
  {extra : Ctx → List VecArg → List (Nat × Nat) × List (Nat × Nat)}

theorem vecIssueAt_refuses (h : ¬ (shape (resolveArgs (args c)) = true ∧ ¬ (rc = some 4 ∧ 16 < argBits (argH (resolveArgs (args c)) 0)))) :
    vecIssueAt s i args scal rc shape idle extra = .next (s.traps id 0x08 0 0) := by
  have hbad : (shape (resolveArgs (args c)) && (issueMode (resolveArgs (args c)) rc (s.srcRegs c).fpctl).isSome) = false := by
    rw [← issueMode_isSome_iff (fpctl := (s.srcRegs c).fpctl), ← Bool.and_eq_true] at h
    exact Bool.eq_false_iff.mpr h
  have hcheck : vecCheck s c (resolveArgs (args c)) false = some (s.raise Cause.formatInvalid 0) := rfl
  refine slotStep_raise hs.1 (cause := Cause.formatInvalid) ?_ (by decide)
  change (match vecCheck s c (resolveArgs (args c))
    (shape (resolveArgs (args c)) && (issueMode (resolveArgs (args c)) rc (s.srcRegs c).fpctl).isSome) with | some t => t | none => _) = _
  rw [hbad, hcheck]

variable (hok : shape (resolveArgs (args c)) = true ∧ ¬ (rc = some 4 ∧ 16 < argBits (argH (resolveArgs (args c)) 0)))
  (hcheck : vecCheck s c (resolveArgs (args c)) true = none)
include hok hcheck

/-- An issue that passes every check: nothing but a step of RNGV, or its operation queued. -/
theorem vecIssueAt_passes : vecIssueAt s i args scal rc shape idle extra = .next (settle s
    (let l := resolveArgs (args c)
     let m := vecMode l rc c.regs.fpctl
     if idle l then (if m = 4 then s.updCtx id (·.updRegs (fun r => { r with rngv := xorshift r.rngv })) else s)
     else enqueueVec s id c i l (argH l 0, argH l 1, argH l 2, argH l 3) (scal c) m (extra c l).1 (extra c l).2) id) := by
  obtain ⟨hshape, hmode⟩ := hok
  have hregs : s.srcRegs c = c.regs := hs.srcRegs_described c.eng.tissue
  have hsome := (issueMode_isSome_iff _ _ c.regs.fpctl).mpr hmode
  have hgood : vecCheck s c (resolveArgs (args c)) (shape (resolveArgs (args c)) && (issueMode (resolveArgs (args c)) rc (s.srcRegs c).fpctl).isSome) =
      none := by rw [hregs, hshape, hsome]; exact hcheck
  refine (slotStep_eq hs.1 _).trans (congrArg (fun t => Host.Outcome.next (settle s t id)) ?_)
  change (match vecCheck s c (resolveArgs (args c))
    (shape (resolveArgs (args c)) && (issueMode (resolveArgs (args c)) rc (s.srcRegs c).fpctl).isSome) with
    | some t => t
    | none =>
      let m := if (resolveArgs (args c)).all (fun a => intFmts.contains (hFmt a.h)) then 0
        else (issueMode (resolveArgs (args c)) rc (s.srcRegs c).fpctl).getD 0
      if idle (resolveArgs (args c)) then (if m = 4 then s.updCtx id (·.updRegs (fun r => { r with rngv := xorshift r.rngv })) else s)
      else enqueueVec s id c i _ (_, _, _, _) (scal c) m _ _) = _
  rw [hgood, hregs, issueMode_getD hsome]

theorem vecIssueAt_idles (hidle : idle (resolveArgs (args c)) = true) :
    vecIssueAt s i args scal rc shape idle extra = .next (if vecMode (resolveArgs (args c)) rc c.regs.fpctl = 4
      then s.ends id c (c.regs.drawn (vecMode (resolveArgs (args c)) rc c.regs.fpctl)) else s.passes id c) := by
  rw [vecIssueAt_passes hs hok hcheck]
  dsimp only
  rw [if_pos hidle]
  split
  · next hsr =>
    rw [State.updCtx_eq hs.ctx_eq, settle_setCtx hs.1, Regs.drawn, if_pos hsr]
    rfl
  · have hpass := slotStep_pass hs.1 (f := fun _ _ => s) rfl
    rwa [slotStep_eq hs.1] at hpass

theorem vecIssueAt_queues (hidle : idle (resolveArgs (args c)) = false) :
    let l := resolveArgs (args c)
    let m := vecMode l rc c.regs.fpctl
    ∃ t v, vecIssueAt s i args scal rc shape idle extra = .next t ∧
      v = queuedVec c i l (argH l 0, argH l 1, argH l 2, argH l 3) (scal c) m (extra c l).1 (extra c l).2 ∧
      t.ctx id = some { c.queueing v with regs := s.after (c.regs.drawn m) } ∧ t.mem = s.mem ∧ (c.eng.vq = [] → t.due id .vecComplete) := by
  intro l m
  refine ⟨_, _, vecIssueAt_passes hs hok hcheck, rfl, ?_⟩
  dsimp only
  rw [if_neg (by rw [hidle]; exact Bool.false_ne_true)]
  exact settle_enqueueVec hs _ _ _ _ _ _ _

end

/-! ### VTBL.load (R336) -/

theorem hBase_setHfld (h : Handle) {lo n v : Nat} (hlo : 56 ≤ lo) : hBase (setHfld h lo n v) = hBase h := by
  obtain ⟨k, rfl⟩ := Nat.exists_eq_add_of_le hlo
  have hdvd : (2 ^ 56 : Nat) ∣ 2 ^ 256 := Nat.pow_dvd_pow 2 (by decide)
  have hle : h.toNat / 2 ^ (56 + k) % 2 ^ n * 2 ^ (56 + k) ≤ h.toNat :=
    (Nat.mul_le_mul_right _ (Nat.mod_le _ _)).trans (Nat.div_mul_le_self _ _)
  unfold hBase hfld setHfld
  rw [BitVec.toNat_ofNat, pow_zero, Nat.div_one, Nat.div_one, Nat.mod_mod_of_dvd _ hdvd]
  generalize h.toNat / 2 ^ (56 + k) % 2 ^ n = a at hle ⊢
  generalize v % 2 ^ n = b
  rw [pow_add, mul_comm (2 ^ 56), ← mul_assoc] at hle ⊢
  rw [← mul_assoc, Nat.add_mul_mod_self_right]
  rw [mul_comm] at hle ⊢
  exact Nat.sub_mul_mod hle

theorem hBase_tableHandle (h : Handle) : hBase (tableHandle h) = hBase h := by
  unfold tableHandle
  simp only [hBase_setHfld _ (by decide : 56 ≤ 64), hBase_setHfld _ (by decide : 56 ≤ 80), hBase_setHfld _ (by decide : 56 ≤ 96),
    hBase_setHfld _ (by decide : 56 ≤ 112), hBase_setHfld _ (by decide : 56 ≤ 232), hBase_setHfld _ (by decide : 56 ≤ 56)]

/-! ### The instructions -/

/-- A vector operation is idle when its destination has no element, one of rows when a handle has none (R329, R334). -/
def vecIdle (rows : Bool) (l : List VecArg) : Bool := if rows then l.any (fun a => hEmpty a.h) else hEmpty (argH l 0)

theorem vecIdle_iff (rows : Bool) (l : List VecArg) :
    vecIdle rows l = true ↔ if rows then ∃ a ∈ l, hEmpty a.h = true else hEmpty (argH l 0) = true := by
  cases rows
  · exact Iff.rfl
  · exact List.any_eq_true

/-- An instruction is a vector operation with these operands in a context, this scalar, rounding code, kind of idleness, and shape. -/
def IsVecOp (s : State) (c : Ctx) (e : Instr × List VecArg × DWord × Option Nat × Bool × (List VecArg → Bool)) : Prop :=
  ∃ args scal extra, exec e.1 s = vecIssueAt s e.1 args scal e.2.2.2.1 e.2.2.2.2.2 (vecIdle e.2.2.2.2.1) extra ∧ args c = e.2.1 ∧ scal c = e.2.2.1

section
variable {s : State} {c : Ctx} {i : Instr} {hd ha : BitVec 5} {b : BitVec 6} {rc : BitVec 3}

theorem isVecOp_of_vecBinary {bs : Bool} (h : exec i s = vecBinary s i hd ha b rc bs) :
    IsVecOp s c (i, args3 s c hd ha b bs vecFmts, if bs then s.rs c b else 0, some rc.toNat, false, fun l => elementwise l && sameClass l) :=
  ⟨fun c => args3 s c hd ha b bs vecFmts, fun c => if bs then s.rs c b else 0, fun _ _ => ([], []), h, rfl, rfl⟩

theorem isVecOp_of_vecUnary {ok : List Nat} (h : exec i s = vecUnary s i hd ha rc ok) :
    IsVecOp s c (i, args2 s c hd ha ok ok, 0, some rc.toNat, false, fun l => elementwise l && sameClass l) :=
  ⟨fun c => args2 s c hd ha ok ok, fun _ => 0, fun _ _ => ([], []), h, rfl, rfl⟩

theorem isVecOp_of_vecIssue {rc : Option Nat} {shape : List VecArg → Bool} (args : Ctx → List VecArg) (scal : Ctx → DWord)
    (h : exec i s = vecIssue s i args scal rc shape) : IsVecOp s c (i, args c, scal c, rc, false, shape) :=
  ⟨args, scal, fun _ _ => ([], []), h, rfl, rfl⟩

theorem isVecOp_of_vecIssueRows {rc : Option Nat} {shape : List VecArg → Bool} (args : Ctx → List VecArg)
    (extra : Ctx → List VecArg → List (Nat × Nat) × List (Nat × Nat)) (h : exec i s = vecIssueRows s i args rc shape extra) :
    IsVecOp s c (i, args c, 0, rc, true, shape) :=
  ⟨args, fun _ => 0, extra, h, rfl, rfl⟩

end

/-! ### VTBL.load at issue -/

/-- VTBL.load takes this handle. -/
def TableLoads (A : Handle) : Prop := hBase A % 4 = 0 ∧ hFmt A ∈ 0x00 :: vecFmts ∧ formatBad A (hFmt A) HUse.plain = false

theorem tableLoads_refused_iff (A : Handle) :
    (hBase A % 4 ≠ 0 || !((0 :: vecFmts).contains (hFmt A)) || formatBad A (hFmt A) HUse.plain) = true ↔ ¬ TableLoads A := by
  unfold TableLoads
  simp only [Bool.or_eq_true, Bool.not_eq_true', decide_eq_true_eq, ← Bool.not_eq_true, List.contains_iff_mem, not_and_or, or_assoc, not_not]

section
variable {s : State} {id : Nat} {c : Ctx} (hs : s.Sees id c) {ha : BitVec 5} (t : BitVec 2)
include hs

theorem execVtblLoad_refuses (h : ¬ TableLoads (s.rh c ha)) : execVtblLoad ha t s = .next (s.traps id 0x08 0 0) :=
  slotStep_raise hs.1 (cause := Cause.formatInvalid) (if_pos ((tableLoads_refused_iff _).mpr h)) (by decide)

theorem execVtblLoad_idles (h : TableLoads (s.rh c ha)) (hempty : hEmpty (s.rh c ha) = true) : execVtblLoad ha t s = .next (s.passes id c) :=
  slotStep_pass hs.1 ((if_neg ((tableLoads_refused_iff _).not.mpr (not_not.mpr h))).trans (if_pos hempty))

theorem execVtblLoad_queues (h : TableLoads (s.rh c ha)) (hsome : hEmpty (s.rh c ha) = false)
    (hbuf : bufferCheck c (tableHandle (s.rh c ha)) 8 HUse.plain = .fine) (hin : outsideSpace (hBase (s.rh c ha), 1036) = none) :
    execVtblLoad ha t s = .next (settle s (enqueueVec s id c (.vtblLoad ha t) [] (0, tableHandle (s.rh c ha), 0, 0) 0 0
      [(hBase (s.rh c ha), 1036)] []) id) := by
  refine (slotStep_eq hs.1 _).trans ?_
  dsimp only
  rw [if_neg ((tableLoads_refused_iff _).not.mpr (not_not.mpr h)), if_neg (by rw [hsome]; exact Bool.false_ne_true), hbuf]
  dsimp only
  rw [hin]

end

/-- Settles O29: every operation of the table is a `vecIssueAt`, which refuses, idles or queues. -/
theorem vectorIssues : Obligations.VectorIssues := by
  intro s id c hd ha hb hm b rc bs flag t op sc cond hs D A B M x dst src ab da v arith rnd table
  have htable : ∀ e ∈ table, IsVecOp s c e := by
    simp only [table, List.forall_mem_cons]
    refine ⟨isVecOp_of_vecBinary rfl, isVecOp_of_vecBinary rfl, isVecOp_of_vecBinary rfl, isVecOp_of_vecBinary rfl, isVecOp_of_vecBinary rfl,
      isVecOp_of_vecIssue (fun c => args3 s c hd ha b bs floatFmts) (fun c => if bs then s.rs c b else 0) rfl,
      isVecOp_of_vecUnary rfl, isVecOp_of_vecUnary rfl, isVecOp_of_vecUnary rfl, isVecOp_of_vecUnary rfl, isVecOp_of_vecUnary rfl,
      isVecOp_of_vecUnary rfl, isVecOp_of_vecUnary rfl,
      isVecOp_of_vecIssue (fun c => [⟨s.rh c hd, intFmts, true⟩, ⟨s.rh c ha, vecFmts, false⟩, ⟨s.rh c hb, vecFmts, false⟩]) (fun _ => 0) rfl,
      isVecOp_of_vecIssue
        (fun c => [⟨s.rh c hd, vecFmts, true⟩, ⟨s.rh c ha, vecFmts, false⟩, ⟨s.rh c hb, vecFmts, false⟩, ⟨s.rh c hm, intFmts, false⟩])
        (fun _ => 0) rfl,
      isVecOp_of_vecIssue (fun c => args2 s c hd ha cvtFmts cvtFmts) (fun _ => 0) rfl,
      isVecOp_of_vecIssueRows (fun c => args2 s c hd ha vecFmts vecFmts) (fun _ _ => ([], [])) rfl,
      isVecOp_of_vecIssueRows (fun c => args2 s c hd ha [0x08] floatFmts) (fun _ _ => ([], [])) rfl,
      isVecOp_of_vecIssueRows (fun c => args2 s c hd ha vecFmts vecFmts) (fun _ _ => ([], [])) rfl,
      isVecOp_of_vecIssueRows (fun c => [⟨s.rh c hd, vecFmts, true⟩, ⟨s.rh c ha, vecFmts, false⟩, ⟨s.rh c hb, intFmts, false⟩])
        (fun c l => ([], [(hBase (argH l 0), 64 + streamSpan s c (argH l 0) (argH l 1))])) rfl,
      isVecOp_of_vecIssueRows (fun c => [⟨s.rh c hd, vecFmts, true⟩, ⟨s.rh c ha, vecFmts, true⟩, ⟨s.rh c hb, [0x01], true⟩])
        (fun c l => ([(hBase (argH l 1) + 64, streamSpan s c (argH l 1) (argH l 0))], [(hBase (argH l 1), 64)])) rfl,
      isVecOp_of_vecIssue (fun c => args2 s c hd ha [0x02] intFmts) (fun _ => 0) rfl,
      isVecOp_of_vecIssue (fun c => [⟨s.rh c hd, vecFmts, true⟩]) (fun c => s.rs c b) rfl,
      isVecOp_of_vecIssue (fun c => args2 s c hd ha vecFmts vecFmts) (fun _ => 0) rfl,
      isVecOp_of_vecIssue (fun c => [⟨s.rh c hd, vecFmts, true⟩]) (fun c => s.rs c b) rfl,
      isVecOp_of_vecIssue (fun c => [⟨s.rh c hd, vecFmts, true⟩, ⟨s.rh c ha, vecFmts, false⟩, ⟨s.rh c hb, [0x02], false⟩]) (fun _ => 0) rfl,
      fun _ h => absurd h List.not_mem_nil⟩
  refine ⟨?_, ?_⟩
  · intro i args scal rc rows shape hi l idle wide ok ints mode draw after
    obtain ⟨fargs, fscal, extra, hexec, hargs, hscal⟩ := htable _ hi
    obtain rfl : fargs c = args := hargs
    obtain rfl : fscal c = scal := hscal
    have hidle : idle ↔ vecIdle rows l = true := (vecIdle_iff rows l).symm
    refine ⟨fun hbad => hexec.trans (vecIssueAt_refuses hs hbad), fun hok hcheck => ⟨fun h => ?_, fun h => ?_⟩⟩
    · exact hexec.trans (vecIssueAt_idles hs hok hcheck (hidle.mp h))
    · obtain ⟨y, v, hissue, hv, hx, hmem, hdue⟩ := vecIssueAt_queues (scal := fscal) (extra := extra) (i := i) hs hok hcheck
        (Bool.eq_false_iff.mpr (hidle.not.mp h))
      refine ⟨y, _, v, hexec.trans hissue, hx, rfl, hmem, rfl, rfl, hdue, ?_⟩
      rw [hv]
      exact ⟨rfl, rfl, rfl, rfl, rfl, rfl, rfl, rfl, rfl, fun hsr => if_pos hsr⟩
  · refine ⟨execVtblLoad_refuses hs t, execVtblLoad_idles hs t, fun hok hsome hbuf hin => ?_⟩
    obtain ⟨hx, hmem, -⟩ := settle_enqueueVec hs (.vtblLoad ha t) [] (0, tableHandle A, 0, 0) 0 0 [(hBase A, 1036)] []
    exact ⟨_, _, queuedVec c (.vtblLoad ha t) [] (0, tableHandle A, 0, 0) 0 0 [(hBase A, 1036)] [], execVtblLoad_queues hs t hok hsome hbuf hin,
      hx, rfl, hmem, rfl, rfl, hBase_tableHandle A, rfl⟩

end Sys2Proof.Machine
end

section
/-! PROOF. The vector engine performs an operation of its queue (O30). -/

namespace Sys2Proof.Machine

/-! ### An elementwise operation whose sources were read whole (R328, R329) -/

/-- Element `e` of a column, its one element standing for all. -/
def Col.elem (c : Col) (e : Nat) : Nat := c.vals.getD (if c.single then 0 else e) 0

/-- The draw of element `e` of a vector operation. -/
def VecOp.draw (v : VecOp) (e : Nat) : Nat := if v.mode = 4 then (draws (hCount v.hd) v.seed).getD e 0 else 0

theorem foldl_min_of_forall_eq (l : List Nat) (n : Nat) (h : ∀ x ∈ l, x = n) : l.foldl Nat.min n = n := by
  induction l with
  | nil => rfl
  | cons x l ih =>
    rw [List.foldl_cons, h x (List.mem_cons_self ..), show Nat.min n n = n from Nat.min_self n]
    exact ih fun y hy => h y (List.mem_cons_of_mem _ hy)

theorem vecMap_whole {s s1 : State} {w : Who} {env : Env} {v : VecOp} {srcs : List (Except Nat Handle)} {cols : List Col}
    (hread : readCols w env srcs s = (s1, cols)) (hcut : ∀ c ∈ cols, c.cut = none) (f : List Nat → Nat → Nat → Nat) :
    vecMap s w env v srcs f =
      writeCol s1 w env v.hd ((List.range (hCount v.hd)).map fun e => f (cols.map fun c => c.elem e) (v.draw e) e) none := by
  have hlim : (cols.map (Col.limit (hCount v.hd))).foldl Nat.min (hCount v.hd) = hCount v.hd := by
    refine foldl_min_of_forall_eq _ _ fun x hx => ?_
    obtain ⟨c, hc, rfl⟩ := List.mem_map.mp hx
    rw [Col.limit, hcut c hc]
    rfl
  have hdraw (e : Nat) : (((if v.mode = 4 then draws (hCount v.hd) v.seed else []).toArray)[e]?).getD 0 = v.draw e := by
    unfold VecOp.draw
    split
    · rw [List.getElem?_toArray, List.getD_eq_getElem?_getD]
    · rfl
  have hat (e : Nat) : (cols.map fun c => (c.vals.toArray, c.single)).map (fun (a, one) => (a[if one then 0 else e]?).getD 0) =
      cols.map fun c => c.elem e := by
    rw [List.map_map]
    refine List.map_congr_left fun c _ => ?_
    simp only [Function.comp_apply, List.getElem?_toArray, Col.elem, List.getD_eq_getElem?_getD]
  unfold vecMap
  rw [hread]
  dsimp only
  rw [hlim, if_pos rfl]
  simp only [hdraw, hat]

section
variable {s s1 : State} {id : Nat} {c : Ctx} {v : VecOp} {A B : Col}

variable {w : Who} {env : Env} (hread : readCols w env [.ok v.ha, .ok v.hb] s = (s1, [A, B])) (hA : A.cut = none) (hB : B.cut = none)
  (ff : List Val → Val) (fi : Int → Int → Int)
include hread hA hB

/-- An operation of two sources on floats stores its value in D's format (R330). -/
theorem vecArith_floats (hfloat : isFloatF (hFmt v.hd) = true) :
    vecArith s w env v false false ff fi = writeCol s1 w env v.hd ((List.range (hCount v.hd)).map fun e =>
      v.enc false (v.draw e) (ff [hVal v.ha (A.elem e), hVal v.hb (B.elem e), hVal v.hd 0])) none := by
  have hcut : ∀ c ∈ [A, B], c.cut = none := by simp [hA, hB]
  exact (if_pos hfloat).trans (vecMap_whole hread hcut fun x draw _ =>
    v.enc false draw (ff [hVal v.ha (x.getD 0 0), hVal v.hb (x.getD 1 0), hVal v.hd (x.getD 2 0)]))

/-- An operation of two sources on integers wraps (R330). -/
theorem vecArith_integers (hint : ¬ isFloatF (hFmt v.hd) = true) :
    vecArith s w env v false false ff fi = writeCol s1 w env v.hd ((List.range (hCount v.hd)).map fun e =>
      wrap (argBits v.hd) (fi (intElem v.ha (A.elem e)) (intElem v.hb (B.elem e)))) none := by
  have hcut : ∀ c ∈ [A, B], c.cut = none := by simp [hA, hB]
  exact (if_neg hint).trans (vecMap_whole hread hcut fun x _ _ =>
    wrap (argBits v.hd) (fi (intElem v.ha (x.getD 0 0)) (intElem v.hb (x.getD 1 0))))

end

/-! ### The oldest operation of the queue (R327, R328, R406) -/

/-- The operation makes the phase not restartable. -/
def VecOp.moves (v : VecOp) : Bool :=
  match v.instr with
  | .vpush .. => true
  | .vpop .. => true
  | _ => false

theorem VecOp.moves_iff (v : VecOp) : v.moves = true ↔ ∃ d a b k, v.instr = .vpush d a b k ∨ v.instr = .vpop d a b k := by
  constructor
  · intro h
    unfold VecOp.moves at h
    split at h
    · next d a b k hi => exact ⟨d, a, b, k, .inl hi⟩
    · next d a b k hi => exact ⟨d, a, b, k, .inr hi⟩
    · exact absurd h Bool.false_ne_true
  · rintro ⟨d, a, b, k, h | h⟩ <;> rw [VecOp.moves, h]

/-- The task when the oldest operation has moved one of its records. -/
def Ctx.vecTurned (c : Ctx) (v : VecOp) (run : VecRun) : Ctx :=
  { c with eng := { c.eng with vq := { v with run := some run } :: c.eng.vq.drop 1 }, ph := { c.ph with nr := true } }

/-- The task when the oldest operation has left the queue. -/
def Ctx.vecEnded (c : Ctx) (v : VecOp) : Ctx := { c with eng := { c.eng with vq := c.eng.vq.drop 1 }, ph := { c.ph with nr := c.ph.nr || v.moves } }

section
variable {s s1 : State} {c : Ctx} {v : VecOp} {rest : List VecOp} (hctx : s.ctx s.subj = some c) (hvq : c.eng.vq = v :: rest)
  (hfences : ∀ f ∈ c.ph.fences, v.seq < f.seq) (hwaitq : ∀ r ∈ c.xf.waitq, r.slot ≠ 4) (hfollows : s.vecFollows c v = false)
  (hctx1 : s1.ctx s.subj = some c)

include hfences hwaitq hfollows in
/-- Nothing holds the oldest operation up. -/
theorem vecFree : (c.fenced v.seq || c.unitHeld 4 || s.vecFollows c v) = false := by
  have hfenced : c.fenced v.seq = false := by
    rw [Ctx.fenced, List.any_eq_false]
    exact fun f hf h => Nat.not_le.mpr (hfences f hf) (of_decide_eq_true h)
  have hheld : c.unitHeld 4 = false := by
    rw [Ctx.unitHeld, List.any_eq_false]
    exact fun r hr h => hwaitq r hr (of_decide_eq_true h)
  rw [hfenced, hheld, hfollows]
  rfl

include hctx hvq hctx1 in
theorem execVecComplete_turns {run : VecRun} (hfree : (c.fenced v.seq || c.unitHeld 4 || s.vecFollows c v) = false)
    (hact : vecAct s s.subj c v = (s1, .more run)) :
    execVecComplete s = .next ((s1.setCtx s.subj (c.vecTurned v run)).push 1 s.subj .vecComplete) := by
  simp only [execVecComplete, hctx, hvq, hfree, hact, Bool.false_eq_true, if_false, State.updCtx_eq hctx1]
  rw [← hvq]
  rfl

include hctx hvq hctx1 in
theorem execVecComplete_ends (hfree : (c.fenced v.seq || c.unitHeld 4 || s.vecFollows c v) = false) (hact : vecAct s s.subj c v = (s1, .ok)) :
    execVecComplete s = .next (
      if rest = [] then s1.setCtx s.subj (c.vecEnded v) else (s1.setCtx s.subj (c.vecEnded v)).push 0 s.subj .vecComplete) := by
  have hmore : ((s1.setCtx s.subj (c.vecEnded v)).ctx s.subj).any (fun c => !c.eng.vq.isEmpty) = true ↔ ¬ rest = [] := by
    rw [State.ctx_setCtx, Option.any_some, Ctx.vecEnded, hvq]
    cases rest <;> simp
  have hstep : execVecComplete s = .next (
      if ((s1.setCtx s.subj (c.vecEnded v)).ctx s.subj).any (fun c => !c.eng.vq.isEmpty) = true
      then (s1.setCtx s.subj (c.vecEnded v)).push 0 s.subj .vecComplete else s1.setCtx s.subj (c.vecEnded v)) := by
    simp only [execVecComplete, hctx, hvq, hfree, hact, Bool.false_eq_true, if_false, State.updCtx_eq hctx1]
    rw [← hvq]
    rfl
  rw [hstep]
  by_cases hrest : rest = []
  · rw [if_neg (hmore.not.mpr (not_not.mpr hrest)), if_pos hrest]
  · rw [if_pos (hmore.mpr hrest), if_neg hrest]

end

/-- Settles O30: the queue by `execVecComplete_turns` and `execVecComplete_ends`, each operation's value by `vecMap_whole`. -/
theorem vectorCompletes : Obligations.VectorCompletes := by
  refine ⟨fun s s1 c v rest hctx hvq hfences hwaitq hfollows hctx1 => ?_, fun s s1 id c v A B hd ha hb b rc cond hA hB => ?_⟩
  · have hfree := vecFree hfences hwaitq hfollows
    have hdrop : c.eng.vq.drop 1 = rest := by rw [hvq]; rfl
    refine ⟨fun run hact => ?_, fun hact => ?_⟩
    · refine ⟨_, _, execVecComplete_turns hctx hvq hctx1 hfree hact, s1.ctx_setCtx _ _, ?_, rfl, rfl, rfl, State.due_push _ _ _ _⟩
      rw [Ctx.vecTurned, hdrop]
    · have hnr : (c.vecEnded v).ph.nr = true ↔ c.ph.nr = true ∨ ∃ d a b k, v.instr = .vpush d a b k ∨ v.instr = .vpop d a b k := by
        rw [← v.moves_iff, ← Bool.or_eq_true]
        rfl
      refine ⟨_, c.vecEnded v, execVecComplete_ends hctx hvq hctx1 hfree hact, ?_, ?_, rfl, ?_, hnr, fun hrest => ?_⟩
      · split
        · exact s1.ctx_setCtx _ _
        · exact s1.ctx_setCtx _ _
      · rw [Ctx.vecEnded, hdrop]
      · split <;> rfl
      · rw [if_neg hrest]
        exact State.due_push _ _ _ _
  · intro n w env a b' draw float enc writes
    have hone (hread : readCols w env [.ok v.ha] s = (s1, [A])) (f : List Nat → Nat → Nat → Nat) :
        vecMap s w env v [.ok v.ha] f = writeCol s1 w env v.hd ((List.range n).map fun e => f [a e] (draw e) e) none :=
      vecMap_whole hread (by simp [hA]) f
    have hnone (f : List Nat → Nat → Nat → Nat) :
        vecMap s w env v [] f = writeCol s w env v.hd ((List.range n).map fun e => f [] (draw e) e) none :=
      vecMap_whole (cols := []) rfl (fun _ h => absurd h List.not_mem_nil) f
    refine ⟨fun hread => ⟨fun i ff fi hi hinstr => ?_, fun hinstr => ?_⟩,
      fun hread => ⟨fun hinstr => ?_, fun hinstr => ?_, fun hinstr => ?_, fun hinstr => ?_, fun hinstr => ?_⟩, fun hinstr => ?_, fun hinstr hfloat => ?_⟩
    · have hact : vecAct s id c v = vecArith s w env v false false (fun l => ff (l.getD 0 .nan) (l.getD 1 .nan)) fi := by
        simp only [List.mem_cons, List.not_mem_nil, or_false, Prod.mk.injEq] at hi
        unfold vecAct
        rcases hi with ⟨rfl, rfl, rfl⟩ | ⟨rfl, rfl, rfl⟩ | ⟨rfl, rfl, rfl⟩ | ⟨rfl, rfl, rfl⟩ | ⟨rfl, rfl, rfl⟩ <;> rw [hinstr]
      exact ⟨fun hfloat => hact.trans (vecArith_floats hread hA hB _ _ hfloat), fun hint => hact.trans (vecArith_integers hread hA hB _ _ hint)⟩
    all_goals
      unfold writes vecAct
      rw [hinstr]
    · exact vecMap_whole hread (by simp [hA, hB]) _
    · exact hone hread _
    · exact hone hread _
    · exact hone hread _
    · exact hone hread _
    · exact hone hread _
    · exact hnone _
    · refine (hnone _).trans ?_
      simp only [if_pos (show isFloatF (hFmt v.hd) = true from hfloat)]
      rfl

end Sys2Proof.Machine
end

section
/-! PROOF. An access takes no time of the package: what translation, reads and writes leave of its clock. -/

namespace Sys2Proof.Machine

/-- The clock of the first of a pair that a step gave. -/
theorem now_of_eq {α : Type} {s u : State} {r : α} {p : State × α} (h : p = (u, r)) (hp : p.1.now = s.now) : u.now = s.now := by
  rw [h] at hp
  exact hp

theorem foldl_now {α : Type} {f : State → α → State} (hf : ∀ s a, (f s a).now = s.now) (l : List α) (s : State) : (l.foldl f s).now = s.now := by
  induction l generalizing s with
  | nil => rfl
  | cons a l ih => exact (ih (f s a)).trans (hf s a)

/-! ### The memory controllers -/

@[simp] theorem State.served_now (s : State) (w : Who) (n : Nat) : (s.served w n).now = s.now := by
  obtain ⟨r, hr⟩ := s.served_frame w n
  rw [hr]

@[simp] theorem State.msix_now (s : State) (v : Nat) : (s.msix v).now = s.now := by
  unfold State.msix
  split <;> rfl

@[simp] theorem State.devWrite_now (s : State) (w : Who) (pa : Nat) (bs : List Byte) : (s.devWrite w pa bs).now = s.now := by
  unfold State.devWrite
  split
  · refine (foldl_now (fun s p => ?_) _ _).trans (State.served_now _ _ _)
    split <;> rfl
  · rfl

@[simp] theorem logError_now (s : State) (d cls req core pa region dw1 : Nat) (detail : DWord) (corrected : Bool) :
    (logError s d cls req core pa region dw1 detail corrected).now = s.now := by
  unfold logError
  extract_lets e ms used size allowed room rec0 rec1 bytes at_ pc written
  have hwritten : written.now = s.now := by
    unfold written
    split
    · exact State.devWrite_now _ _ _ _
    · rfl
  split
  · rfl
  · split
    · exact (State.msix_now _ _).trans hwritten
    · exact hwritten

@[simp] theorem noteCorrection_now (s : State) (line cw pos : Nat) : (noteCorrection s line cw pos).now = s.now := by
  unfold noteCorrection
  extract_lets pa pc d key p covers hit n p' counted fresh noted
  change noted.now = s.now
  unfold noted
  split
  · rfl
  · split
    · rfl
    · split <;> rfl

@[simp] theorem noteCorrected_now (s : State) (w : Who) (line : Nat) (errs : List (Nat × Nat)) : (noteCorrected s w line errs).now = s.now := by
  unfold noteCorrected
  refine (foldl_now (fun t j => ?_) _ _).trans (foldl_now (fun t (e : Nat × Nat) => noteCorrection_now t line e.1 e.2) _ _)
  dsimp only
  split
  · rfl
  · exact logError_now _ _ _ _ _ _ _ _ _ _

@[simp] theorem noteUncorrectable_now (s : State) (w : Who) (line cw pos : Nat) : (noteUncorrectable s w line cw pos).now = s.now :=
  logError_now _ _ _ _ _ _ _ _ _ _

@[simp] theorem readSymbols_now (s : State) (w : Who) (line : Nat) : (readSymbols s w line).1.now = s.now := by
  cases hdecode : s.decodeLine line with
  | clean => rw [readSymbols_clean hdecode]
  | corrected errs =>
    rw [readSymbols_corrected hdecode]
    exact noteCorrected_now _ _ _ _
  | bad cw pos =>
    rw [readSymbols_bad hdecode]
    split
    · rfl
    · exact noteUncorrectable_now _ _ _ _ _

@[simp] theorem readSymbolLines_now (s : State) (w : Who) (line n : Nat) : (readSymbolLines s w line n).1.now = s.now := by
  induction n with
  | zero => rfl
  | succ n ih =>
    unfold readSymbolLines
    split
    · next heq =>
      have hfirst := now_of_eq heq ih
      split
      · next hnext => exact (now_of_eq hnext (readSymbols_now _ _ _)).trans hfirst
      · next hnext => exact (now_of_eq hnext (readSymbols_now _ _ _)).trans hfirst
    · next heq => exact now_of_eq heq ih

@[simp] theorem openCode_now (s : State) (w : Who) (world base tagbase gen pa : Nat) : (openCode s w world base tagbase gen pa).1.now = s.now := by
  unfold openCode
  dsimp only
  split
  · next heq =>
    have hblock := now_of_eq heq (readSymbolLines_now _ _ _ _)
    split
    · next hnext =>
      have htags := (now_of_eq hnext (readSymbols_now _ _ _)).trans hblock
      split <;> exact htags
    · next hnext => exact (now_of_eq hnext (readSymbols_now _ _ _)).trans hblock
  · next heq => exact now_of_eq heq (readSymbolLines_now _ _ _ _)

@[simp] theorem hbmRead_now (s : State) (w : Who) (line : Nat) : (hbmRead s w line).1.now = s.now := by
  rw [← s.served_now w 1]
  unfold hbmRead
  generalize s.served w 1 = s
  dsimp only
  split
  · rfl
  · split
    · exact readSymbols_now _ _ _
    · split
      · rfl
      · split
        · split
          · exact openCode_now _ _ _ _ _ _ _
          · rfl
        · exact readSymbols_now _ _ _

theorem hbmWrite_go_now (s : State) (w : Who) (line : Nat) (upd : List (Nat × Byte)) : (hbmWrite.go w line upd s).1.now = s.now := by
  unfold hbmWrite.go
  dsimp only
  split
  · rfl
  · split
    · exact noteUncorrectable_now _ _ _ _ _
    · rfl

@[simp] theorem hbmWrite_now (s : State) (w : Who) (line : Nat) (upd : List (Nat × Byte)) : (hbmWrite s w line upd).1.now = s.now := by
  rw [← s.served_now w 1]
  unfold hbmWrite
  generalize s.served w 1 = s
  dsimp only
  split
  · rfl
  · split
    · split
      · rfl
      · exact hbmWrite_go_now _ _ _ _
    · exact hbmWrite_go_now _ _ _ _

/-! ### Slices -/

@[simp] theorem touchBank_now (s : State) (core off : Nat) : (touchBank s core off).now = s.now := by
  unfold touchBank
  dsimp only
  split <;> rfl

@[simp] theorem sliceRead_now (s : State) (core off n : Nat) : (sliceRead s core off n).1.now = s.now := by
  rw [← touchBank_now s core off]
  unfold sliceRead
  generalize touchBank s core off = s
  dsimp only
  split
  · rfl
  · split
    · exact logError_now _ _ _ _ _ _ _ _ _ _
    · rfl

@[simp] theorem sliceWriteAt_now (s : State) (core off : Nat) (bs : List (Nat × Byte)) : (sliceWriteAt s core off bs).1.now = s.now := by
  rw [← touchBank_now s core off]
  unfold sliceWriteAt
  generalize touchBank s core off = s
  dsimp only
  split
  · rfl
  · split
    · exact logError_now _ _ _ _ _ _ _ _ _ _
    · refine (foldl_now (f := fun s (q : Nat × Byte) => s.putBytes (sliceCell core (off + q.1)) [q.2]) (fun s q => rfl) _ _).trans ?_
      split <;> rfl

/-! ### Translation -/

@[simp] theorem readEntry_now (s : State) (w : Who) (pa : Nat) : (readEntry s w pa).1.now = s.now := hbmRead_now _ _ _

@[simp] theorem walk_now (w : Who) (env : Env) (va : Nat) (fuel : Nat) :
    ∀ (level table : Nat) (s : State), (walk w env va fuel level table s).1.now = s.now := by
  induction fuel with
  | zero => intro level table s; rfl
  | succ fuel ih =>
    intro level table s
    unfold walk
    dsimp only
    generalize hhit : s.walkc.find? _ = hit
    cases hit with
    | some t =>
      dsimp only
      split
      · rfl
      · split
        · rfl
        · split
          · rfl
          · exact ih _ _ _
    | none =>
      dsimp only
      have hread := readEntry_now s w (table + va / 2 ^ pageBits level % 1024 * 8)
      split
      · exact hread
      · exact hread
      · exact hread
      · exact hread
      · split
        · exact hread
        · split
          · exact hread
          · split
            · exact hread
            · exact (ih _ _ _).trans hread

@[simp] theorem setAccessed_now (s : State) (w : Who) (acc : Acc) (l : Leaf) : (setAccessed s w acc l).1.now = s.now := by
  unfold setAccessed
  extract_lets want
  split
  · rfl
  · split
    · next heq =>
      have hread := now_of_eq heq (readEntry_now _ _ _)
      split
      · exact (hbmWrite_now _ _ _ _).trans hread
      · exact hread
    · next heq => exact now_of_eq heq (readEntry_now _ _ _)

@[simp] theorem installAt_now (site world asn va : Nat) (l : Leaf) (s : State) : (installAt site world asn va l s).now = s.now := by
  unfold installAt
  dsimp only
  split
  · rfl
  · split
    · rfl
    · split <;> rfl

@[simp] theorem State.install_now (s : State) (w : Who) (env : Env) (va : Nat) (l : Leaf) : (s.install w env va l).now = s.now := by
  unfold State.install
  dsimp only
  split
  · rw [installAt_now, installAt_now]
  · exact installAt_now _ _ _ _ _ _

@[simp] theorem missPage_now (s : State) (w : Who) (env : Env) (acc : Acc) (va : Nat) : (missPage s w env acc va).now = s.now := by
  unfold missPage
  dsimp only
  split
  · split <;> rfl
  · split <;> rfl

@[simp] theorem takeWalked_now (s : State) (w : Who) (env : Env) (va : Nat) : (takeWalked s w env va).1.now = s.now := by
  unfold takeWalked
  dsimp only
  split <;> rfl

@[simp] theorem permitted_now (acc : Acc) (p : State × Res Leaf) : (permitted acc p).1.now = p.1.now := by
  unfold permitted
  split
  · split <;> rfl
  · rfl

@[simp] theorem walkLeaf_now (s : State) (w : Who) (env : Env) (acc : Acc) (va : Nat) : (walkLeaf s w env acc va).1.now = s.now := by
  have hwalk := (permitted_now acc _).trans (walk_now w env va 4 3 env.root s)
  unfold walkLeaf
  split
  · next heq => exact (State.install_now _ _ _ _ _).trans (now_of_eq heq hwalk)
  · exact hwalk

@[simp] theorem findLeaf_now (s : State) (w : Who) (env : Env) (acc : Acc) (va : Nat) : (findLeaf s w env acc va).1.now = s.now := by
  unfold findLeaf
  split
  next u ended heq =>
  have htaken := now_of_eq heq (takeWalked_now _ _ _ _)
  split
  · refine (permitted_now _ _).trans ?_
    dsimp only
    split
    · exact htaken
    · exact (installAt_now _ _ _ _ _ _).trans htaken
  · split
    · exact (walkLeaf_now _ _ _ _ _).trans htaken
    · exact missPage_now _ _ _ _ _

@[simp] theorem readPair_now (s : State) (w : Who) (env : Env) (index : Nat) : (readPair s w env index).1.now = s.now := by
  unfold readPair
  extract_lets pa
  refine (apply_ite (fun p : State × Res (Nat × Nat) => p.1.now) _ _ _).trans (ite_eq_left_iff.mpr fun _ => ?_)
  have hfirst := readEntry_now s w pa
  generalize readEntry s w pa = p at hfirst ⊢
  obtain ⟨u, r⟩ := p
  dsimp only at hfirst
  cases r with
  | ok d0 =>
    have hnext := (readEntry_now u w (pa + 8)).trans hfirst
    dsimp only
    generalize readEntry u w (pa + 8) = p at hnext ⊢
    obtain ⟨v, r⟩ := p
    cases r with
    | ok d1 =>
      dsimp only
      exact (apply_ite (fun p : State × Res (Nat × Nat) => p.1.now) _ _ _).trans (ite_eq_iff'.mpr ⟨fun _ => hnext, fun _ => hnext⟩)
    | denied => exact hnext
    | abort => exact hnext
    | tag b => exact hnext
    | asleep => exact hnext
  | denied => exact hfirst
  | abort => exact hfirst
  | tag b => exact hfirst
  | asleep => exact hfirst

@[simp] theorem hostLookup_now (s : State) (w : Who) (env : Env) (acc : Acc) (level addr : Nat) : (hostLookup s w env acc level addr).1.now = s.now := by
  unfold hostLookup
  split
  · split
    · rfl
    · split
      · rfl
      · split <;> rfl
  · rfl

@[simp] theorem leafPlace_now (s : State) (w : Who) (env : Env) (acc : Acc) (va : Nat) (l : Leaf) : (leafPlace s w env acc va l).1.now = s.now := by
  unfold leafPlace
  dsimp only
  split
  · rfl
  · split
    · rfl
    · exact hostLookup_now _ _ _ _ _ _
  · split
    · next heq => exact now_of_eq heq (readPair_now _ _ _ _)
    · next heq => exact now_of_eq heq (readPair_now _ _ _ _)
    · next heq => exact now_of_eq heq (readPair_now _ _ _ _)

@[simp] theorem useLeaf_now (s : State) (w : Who) (env : Env) (acc : Acc) (va : Nat) (l : Leaf) : (useLeaf s w env acc va l).1.now = s.now := by
  unfold useLeaf
  split
  · next heq =>
    have hplace := now_of_eq heq (leafPlace_now _ _ _ _ _ _)
    split
    · next hset =>
      have hboth := (now_of_eq hset (setAccessed_now _ _ _ _)).trans hplace
      dsimp only
      split <;> exact hboth
    · next hset => exact (now_of_eq hset (setAccessed_now _ _ _ _)).trans hplace
  · next heq => exact now_of_eq heq (leafPlace_now _ _ _ _ _ _)

@[simp] theorem translatePaged_now (s : State) (w : Who) (env : Env) (acc : Acc) (va : Nat) : (translatePaged s w env acc va).1.now = s.now := by
  unfold translatePaged
  split
  · next heq =>
    have hleaf := now_of_eq heq (findLeaf_now _ _ _ _ _)
    split
    · next huse => exact (now_of_eq huse (useLeaf_now _ _ _ _ _ _)).trans hleaf
    · next huse =>
      have hused := (now_of_eq huse (useLeaf_now _ _ _ _ _ _)).trans hleaf
      split
      · next hwalk =>
        have hwalked := (now_of_eq hwalk (walkLeaf_now _ _ _ _ _)).trans hused
        split
        · next hagain => exact (now_of_eq hagain (useLeaf_now _ _ _ _ _ _)).trans hwalked
        · next hagain => exact (now_of_eq hagain (useLeaf_now _ _ _ _ _ _)).trans hwalked
      · next hwalk => exact (now_of_eq hwalk (walkLeaf_now _ _ _ _ _)).trans hused
  · next heq => exact now_of_eq heq (findLeaf_now _ _ _ _ _)

@[simp] theorem windowEntry_now (s : State) (w : Who) (env : Env) (n : Nat) : (windowEntry s w env n).1.now = s.now := by
  unfold windowEntry
  split
  · rfl
  · split
    · next heq =>
      have hread := now_of_eq heq (hbmRead_now _ _ _)
      exact hread
    · next heq => exact now_of_eq heq (hbmRead_now _ _ _)
    · next heq => exact now_of_eq heq (hbmRead_now _ _ _)

@[simp] theorem translateWindow_now (s : State) (w : Who) (env : Env) (kind : WinKind) (va n : Nat) :
    (translateWindow s w env kind va n).1.now = s.now := by
  unfold translateWindow
  extract_lets no off
  split
  · rfl
  · split
    · next heq =>
      have hentry := now_of_eq heq (windowEntry_now _ _ _ _)
      extract_lets d0 base size grp grants
      split
      · exact hentry
      · split
        · exact hentry
        · split
          · exact hentry
          · split <;> exact hentry
    · next heq => exact now_of_eq heq (windowEntry_now _ _ _ _)
    · next heq => exact now_of_eq heq (windowEntry_now _ _ _ _)

@[simp] theorem translate_now (s : State) (w : Who) (env : Env) (acc : Acc) (va n : Nat) : (translate s w env acc va n).1.now = s.now := by
  unfold translate
  split
  · exact translatePaged_now _ _ _ _ _
  · split <;> rfl
  · split
    · rfl
    · exact translateWindow_now _ _ _ _ _ _
  · rfl

/-! ### Access at a home -/

@[simp] theorem State.fetchDiv_now (s : State) (core off : Nat) : (s.fetchDiv core off).now = s.now := by
  unfold State.fetchDiv
  split
  · split
    · obtain ⟨a, ha⟩ := s.pushOnce_frame 0 ((core * 2048 + _) * 8 + dieOf core) .diversionFetch
      rw [ha]
    · rfl
  · rfl

@[simp] theorem homeWrite_now (s : State) (w : Who) (env : Env) (p : Place) (bs : List (Nat × Byte)) : (homeWrite s w env p bs).1.now = s.now := by
  unfold homeWrite
  split
  · rfl
  · split
    · exact hbmWrite_now _ _ _ _
    · split
      · next heq => exact (hbmWrite_now _ _ _ _).trans (now_of_eq heq (readPair_now _ _ _ _))
      · next heq => exact now_of_eq heq (readPair_now _ _ _ _)
      · next heq => exact now_of_eq heq (readPair_now _ _ _ _)
    · split
      · rfl
      · split
        · split
          · exact sliceWriteAt_now _ _ _ _
          · rfl
        · exact hbmWrite_now _ _ _ _
        · exact State.fetchDiv_now _ _ _
    · exact foldl_now (f := fun s (q : Nat × Byte) => s.putBytes (hostCell (_ + q.1)) [q.2]) (fun s q => rfl) _ _
    · rfl

@[simp] theorem homeWriteRun_now (s : State) (w : Who) (env : Env) (p : Place) (bs : List Byte) : (homeWriteRun s w env p bs).1.now = s.now := by
  unfold homeWriteRun
  split
  · split
    · split
      · exact sliceWriteAt_now _ _ _ _
      · rfl
    · exact homeWrite_now _ _ _ _ _
  · exact homeWrite_now _ _ _ _ _

@[simp] theorem homeAtomic_now (s : State) (w : Who) (env : Env) (p : Place) (n : Nat) (f : Nat → Nat) : (homeAtomic s w env p n f).1.now = s.now := by
  unfold homeAtomic
  extract_lets act atHbm
  have hact (s : State) (r : Ans (List Byte)) (o : Nat) (put : State → List Byte → State × Ans Unit) (hput : ∀ s bs, (put s bs).1.now = s.now) :
      (act s r o put).1.now = s.now := by
    unfold act
    dsimp only
    split
    · split
      · next heq => exact now_of_eq heq (hput _ _)
      · next heq => exact now_of_eq heq (hput _ _)
    · rfl
  clear_value act
  have hatHbm (s : State) (w : Who) (pa : Nat) : (atHbm s w pa).1.now = s.now := by
    refine (hact (hbmRead s { w with opens := false } (pa / 64)).1 _ _ _ fun s bs => ?_).trans (hbmRead_now _ _ _)
    exact hbmWrite_now s w (pa / 64) _
  clear_value atHbm
  split
  · rfl
  · split
    · exact hatHbm _ _ _
    · split
      · next heq => exact (hatHbm _ _ _).trans (now_of_eq heq (readPair_now _ _ _ _))
      · next heq => exact now_of_eq heq (readPair_now _ _ _ _)
      · next heq => exact now_of_eq heq (readPair_now _ _ _ _)
    · split
      · rfl
      · split
        · split
          · exact (hact _ _ _ _ fun _ _ => sliceWriteAt_now _ _ _ _).trans (sliceRead_now _ _ _ _)
          · rfl
        · exact hatHbm _ _ _
        · exact State.fetchDiv_now _ _ _
    · rfl
    · rfl

@[simp] theorem homeEdit_now (s : State) (w : Who) (env : Env) (p : Place) (f : Nat → Nat) : (homeEdit s w env p f).1.now = s.now := by
  have hatomic := homeAtomic_now s w env p 1 f
  unfold homeEdit
  generalize homeAtomic s w env p 1 f = q at hatomic ⊢
  obtain ⟨u, r⟩ := q
  split
  · rfl
  · cases r <;> exact hatomic

@[simp] theorem writeRange_now (w : Who) (env : Env) (va0 : Nat) (l : List (Nat × Nat)) :
    ∀ (bs : List Byte) (s : State), (writeRange w env va0 l bs s).1.now = s.now := by
  induction l with
  | nil => exact fun _ _ => rfl
  | cons q l ih =>
    intro bs s
    obtain ⟨va, k⟩ := q
    unfold writeRange
    split
    · rfl
    · split
      · next heq =>
        have hplace := now_of_eq heq (translate_now _ _ _ _ _ _)
        split
        · next hwrite => exact (ih _ _).trans ((now_of_eq hwrite (homeWriteRun_now _ _ _ _ _)).trans hplace)
        · next hwrite => exact (now_of_eq hwrite (homeWriteRun_now _ _ _ _ _)).trans hplace
      · next heq => exact now_of_eq heq (translate_now _ _ _ _ _ _)

@[simp] theorem writeBytes_now (s : State) (w : Who) (env : Env) (va : Nat) (bs : List Byte) : (writeBytes s w env va bs).1.now = s.now :=
  writeRange_now _ _ _ _ _ _

@[simp] theorem writePart_now (s : State) (w : Who) (env : Env) (a : Nat) (part : Option Bool) (b : Byte) : (writePart s w env a part b).now = s.now := by
  unfold writePart
  split
  · exact writeBytes_now _ _ _ _ _
  · split
    · next heq => exact (homeEdit_now _ _ _ _ _).trans (now_of_eq heq (translate_now _ _ _ _ _ _))
    · next heq => exact now_of_eq heq (translate_now _ _ _ _ _ _)

@[simp] theorem writeEach_now (w : Who) (env : Env) (l : List (Nat × Option Bool × Byte)) (s : State) : (writeEach w env l s).now = s.now := by
  induction l generalizing s with
  | nil => rfl
  | cons q l ih =>
    obtain ⟨a, part, b⟩ := q
    exact (ih _).trans (writePart_now _ _ _ _ _ _)

end Sys2Proof.Machine
end

section
/-! PROOF. The permute and scale units (O31). -/

namespace Sys2Proof.Machine

/-! ### Elements in order, and draws -/

theorem map_zipIdx_eq {β : Type} (l : List Nat) (g : Nat → Nat → β) :
    l.zipIdx.map (fun (x, i) => g x i) = (List.range l.length).map fun i => g (l.getD i 0) i := by
  refine List.ext_getElem (by simp) fun i h1 h2 => ?_
  have hi : i < l.length := by simpa using h2
  simp [List.getElem?_eq_getElem hi]

/-- Draw `i` of an operation on `n` elements with a mode and a seed. -/
def drawAt (mode n : Nat) (seed : DWord) (i : Nat) : Nat := if mode = 4 then (draws n seed).getD i 0 else 0

theorem drawAt_eq (mode n : Nat) (seed : DWord) :
    (fun i => (((if mode = 4 then draws n seed else []).toArray)[i]?).getD 0) = drawAt mode n seed := by
  funext i
  unfold drawAt
  split
  · rw [List.getElem?_toArray, List.getD_eq_getElem?_getD]
  · rfl

/-! ### A permute operation at issue (R341, R342) -/

/-- The rounding mode of a permute operation to D; none for SR to a wide destination. -/
def PrmForm.mode (f : PrmForm) (D : Handle) (fpctl : DWord) : Option Nat :=
  match f.rc with
  | some rc => engineMode rc fpctl (argBits D)
  | none => some 0

theorem PrmForm.mode_isSome_iff (f : PrmForm) (D : Handle) (fpctl : DWord) :
    (f.mode D fpctl).isSome = true ↔ ¬ (f.rc = some 4 ∧ 16 < argBits D) := issueMode_isSome_iff [⟨D, [], true⟩] f.rc fpctl

theorem PrmForm.mode_eq {f : PrmForm} {D : Handle} {fpctl : DWord} {rc : Nat} (hrc : f.rc = some rc ∨ f.rc = none)
    (h : ¬ (f.rc = some 4 ∧ 16 < argBits D)) :
    f.mode D fpctl = some (if f.rc.isSome then modeOf rc fpctl (decide (16 < argBits D)) else 0) := by
  unfold PrmForm.mode
  obtain hrc | hrc := hrc
  · rw [hrc] at h ⊢
    exact if_neg fun hwide => h ⟨congrArg some hwide.1, hwide.2⟩
  · rw [hrc]
    rfl

/-- The block of an operand of a permute operation. -/
def PrmForm.block (f : PrmForm) (A h : Handle) : Handle := if f.square then squareHandle h (f.size A) else blockHandle h (f.size A)

/-- The ranges that a permute operation reads and writes. -/
def PrmForm.ranges (f : PrmForm) (pl : List (Nat × Nat)) (D A : Handle) : List (Nat × Nat × Acc) :=
  (blockRanges pl A (f.block A A)).map (fun x => (x.1, x.2, Acc.read)) ++ (blockRanges pl D (f.block A D)).map (fun x => (x.1, x.2, Acc.write))

section
variable {s : State} {id : Nat} {c : Ctx} (hs : s.Sees id c) {hd ha : BitVec 5} {f : PrmForm} (go : List (Nat × Nat) → PrmFun)
include hs

theorem prmIssue_refuses
    (h : ¬ (prmFormatBad f (s.rh c hd) (s.rh c ha) = false ∧ ¬ (f.rc = some 4 ∧ 16 < argBits (s.rh c hd)))) :
    prmIssue s hd ha f go = .next (s.traps id 0x08 0 0) := by
  have hbad : (prmFormatBad f (s.rh c hd) (s.rh c ha) || (f.mode (s.rh c hd) (s.srcRegs c).fpctl).isNone) = true := by
    rw [Bool.or_eq_true]
    by_contra hno
    rw [not_or, Bool.not_eq_true, Bool.not_eq_true, Option.isNone_eq_false_iff, PrmForm.mode_isSome_iff] at hno
    exact h hno
  exact slotStep_raise hs.1 (cause := Cause.formatInvalid) (if_pos hbad) (by decide)

variable {m : Nat} (hformat : prmFormatBad f (s.rh c hd) (s.rh c ha) = false) (hmode : f.mode (s.rh c hd) c.regs.fpctl = some m)
  (hbufD : bufferCheck c (s.rh c hd) (argBits (s.rh c hd)) HUse.plain = .fine)
  (hbufA : bufferCheck c (s.rh c ha) (argBits (s.rh c ha)) HUse.plain = .fine)
include hformat hmode hbufD hbufA

theorem prmIssue_idles (hempty : (hEmpty (s.rh c hd) || hEmpty (s.rh c ha)) = true) :
    prmIssue s hd ha f go = .next (if m = 4 then s.ends id c { c.regs with rngp := xorshift c.regs.rngp } else s.passes id c) := by
  have hregs : s.srcRegs c = c.regs := hs.srcRegs_described c.eng.tissue
  have hpass := slotStep_pass hs.1 (f := fun _ _ => s) rfl
  have hdraw := slotStep_regs hs.1 (f := fun id c => s.setCtx id { c with regs := { c.regs with rngp := xorshift c.regs.rngp } }) rfl
  rw [slotStep_eq hs.1] at hpass hdraw
  refine (slotStep_eq hs.1 _).trans ?_
  cases hrc : f.rc
  all_goals
    unfold PrmForm.mode at hmode
    rw [hrc] at hmode
    dsimp only at hmode ⊢
    rw [hregs, hmode, hformat, Bool.false_or, Option.isNone_some, if_neg Bool.false_ne_true, hbufD, hbufA, if_pos hempty]
    by_cases hsr : m = 4
    · rw [if_pos (congrArg some hsr), if_pos hsr, State.updCtx_eq hs.ctx_eq]
      exact hdraw
    · rw [if_neg fun h => hsr (Option.some.inj h), if_neg hsr]
      exact hpass

variable (hsome : (hEmpty (s.rh c hd) || hEmpty (s.rh c ha)) = false)
include hsome

theorem prmIssue_stalls (hfences : c.ph.fences ≠ []) : prmIssue s hd ha f go = .next s.stalls := by
  have hregs : s.srcRegs c = c.regs := hs.srcRegs_described c.eng.tissue
  have hheld : (!c.ph.fences.isEmpty) = true := by rw [List.isEmpty_eq_false_iff.mpr hfences]; rfl
  refine slotStep_stalls hs.1 hs.2.2 ?_
  cases hrc : f.rc
  all_goals
    unfold PrmForm.mode at hmode
    rw [hrc] at hmode
    dsimp only at hmode ⊢
    rw [hregs, hmode, hformat, Bool.false_or, Option.isNone_some, if_neg Bool.false_ne_true, hbufD, hbufA, hsome,
      if_neg Bool.false_ne_true, if_pos hheld]

theorem prmIssue_stores {s1 s2 s3 : State} {es : List Nat} {p1 p2 : List Byte} (hfences : c.ph.fences = [])
    (hslice : sliceCheck s c (f.ranges (planeOf c.regs (s.rh c hd) ++ planeOf c.regs (s.rh c ha)) (s.rh c hd) (s.rh c ha)) = .fine)
    (hread : readAll s (s.whoTask c 1 false) (s.envTask c) (f.block (s.rh c ha) (s.rh c ha)) (argBits (s.rh c ha)) = (s1, .ok es))
    (hside1 : let side := ((blockSides (planeOf c.regs (s.rh c hd) ++ planeOf c.regs (s.rh c ha)) (s.rh c ha))[0]?).getD (0, 0)
      readBytes s1 (s.whoTask c 1 false) (s.envTask c) side.1 side.2 = (s2, .ok p1))
    (hside2 : let side := ((blockSides (planeOf c.regs (s.rh c hd) ++ planeOf c.regs (s.rh c ha)) (s.rh c ha))[1]?).getD (0, 0)
      readBytes s1 (s.whoTask c 1 false) (s.envTask c) side.1 side.2 = (s3, .ok p2))
    {r : List Nat × List (Nat × List Byte)} (hgo : go (planeOf c.regs (s.rh c hd) ++ planeOf c.regs (s.rh c ha)) c (s.rh c hd) (s.rh c ha) m
      (ftzOf c.regs.fpctl) (drawAt m (f.size (s.rh c ha)) (xorshift c.regs.rngp)) es p1 p2 = r) :
    prmIssue s hd ha f go = .next (settle s (prmStore s1 id
      (blockWrites (f.block (s.rh c ha) (s.rh c hd)) (argBits (s.rh c hd)) r.1 ++ r.2.flatMap (fun p => addressed p.1 p.2))
      (if m = 4 then some (xorshift c.regs.rngp) else none)) id) := by
  have hregs : s.srcRegs c = c.regs := hs.srcRegs_described c.eng.tissue
  have hfree : (!c.ph.fences.isEmpty) = false := by rw [hfences]; rfl
  unfold PrmForm.ranges PrmForm.block at hslice
  unfold PrmForm.block at hread ⊢
  rw [← drawAt_eq] at hgo
  subst hgo
  refine (slotStep_eq hs.1 _).trans ?_
  dsimp only at hside1 hside2
  cases hrc : f.rc
  all_goals
    unfold PrmForm.mode at hmode
    rw [hrc] at hmode
    dsimp only at hmode ⊢
    rw [hregs, hmode, hformat, Bool.false_or, Option.isNone_some, if_neg Bool.false_ne_true, hbufD, hbufA, hsome,
      if_neg Bool.false_ne_true, hfree, if_neg Bool.false_ne_true, hslice]
    dsimp only
    rw [hread]
    dsimp only
    rw [hside1, hside2]
    rfl

end

/-- The task with a result of the permute unit to be written. -/
def Ctx.storing (c : Ctx) (now : Nat) (writes : List (Nat × Option Bool × Byte)) (seed : Option DWord) : Ctx :=
  { c with
    regs := seed.elim c.regs fun x => { c.regs with rngp := x }
    eng := { c.eng with prm := c.eng.prm ++ [{ seq := c.ph.seq, due := now + 3, writes := writes }] }
    ph := { c.ph with seq := c.ph.seq + 1 } }

theorem prmStore_eq {s : State} {id : Nat} {c : Ctx} (hctx : s.ctx id = some c) (writes : List (Nat × Option Bool × Byte)) (seed : Option DWord) :
    prmStore s id writes seed = (((s.setCtx id (c.storing s.now writes seed)).push 1 id .prmWrite).push 2 id .prmWrite).push 3 id .prmWrite := by
  unfold prmStore
  rw [hctx]
  cases seed <;> rfl

/-- A permute operation that has stored its result: it is due at the end of the third cycle. -/
theorem settle_prmStore {s s1 : State} {id : Nat} {c : Ctx} (h : s.Acting id c) (hissue : s1.issue = s.issue) (hctx : s1.ctx id = some c)
    (hnow : s1.now = s.now) (writes : List (Nat × Option Bool × Byte)) (seed : Option DWord) :
    let t := settle s (prmStore s1 id writes seed) id
    let x := c.storing s.now writes seed
    t.ctx id = some { x with regs := s.after x.regs } ∧ t.mem = s1.mem ∧ (s.now + 3, id, Instr.prmWrite) ∈ t.agenda := by
  rw [prmStore_eq hctx, hnow]
  obtain ⟨hx, hmem, hagenda⟩ := settle_goes_on
    (s1 := (((s1.setCtx id (c.storing s.now writes seed)).push 1 id .prmWrite).push 2 id .prmWrite).push 3 id .prmWrite) h hissue (s1.ctx_setCtx id _)
  refine ⟨hx, hmem, ?_⟩
  rw [hagenda, ← hnow]
  exact List.mem_append_right _ (List.mem_singleton_self _)

/-- An instruction is a permute operation of this form, which makes these elements and plane bytes of the block `es` with side bytes `p1` and `p2`. -/
def IsPrmOp (s : State) (c : Ctx) (hd ha : BitVec 5) (rc : Nat) (es : List Nat) (p1 p2 : List Byte)
    (e : Instr × PrmForm × (Nat → (Nat → Nat) → List Nat) × (Nat → (Nat → Nat) → List (Nat × List Byte))) : Prop :=
  ∃ go, exec e.1 s = prmIssue s hd ha e.2.1 go ∧ (e.2.1.rc = some rc ∨ e.2.1.rc = none) ∧
    ∀ m draw, go (planeOf c.regs (s.rh c hd) ++ planeOf c.regs (s.rh c ha)) c (s.rh c hd) (s.rh c ha) m (ftzOf c.regs.fpctl) draw es p1 p2 =
      (e.2.2.1 m draw, e.2.2.2 m draw)

theorem isPrmOp_of_exec {s : State} {c : Ctx} {hd ha : BitVec 5} {rc : Nat} {es : List Nat} {p1 p2 : List Byte} {i : Instr} {f : PrmForm}
    {out : Nat → (Nat → Nat) → List Nat} {planes : Nat → (Nat → Nat) → List (Nat × List Byte)} (go : List (Nat × Nat) → PrmFun)
    (hexec : exec i s = prmIssue s hd ha f go) (hrc : f.rc = some rc ∨ f.rc = none)
    (hgo : ∀ m draw, go (planeOf c.regs (s.rh c hd) ++ planeOf c.regs (s.rh c ha)) c (s.rh c hd) (s.rh c ha) m (ftzOf c.regs.fpctl) draw es p1 p2 =
      (out m draw, planes m draw)) : IsPrmOp s c hd ha rc es p1 p2 (i, f, out, planes) := ⟨go, hexec, hrc, hgo⟩

/-- A permute operation that maps elements makes each from the one in its place. -/
theorem prmMap_eq (g : Handle → Handle → Nat → Bool → Nat → Nat → Nat) (pl : List (Nat × Nat)) (c : Ctx) (d a : Handle) (m : Nat) (ftz : Bool)
    (draw : Nat → Nat) (es : List Nat) (p q : List Byte) :
    prmMap g pl c d a m ftz draw es p q = ((List.range es.length).map fun i => g d a m ftz (draw i) (es.getD i 0), []) :=
  Prod.ext (map_zipIdx_eq es fun x i => g d a m ftz (draw i) x) rfl

section
variable (s : State) (c : Ctx) (hd ha : BitVec 5) (b : BitVec 6) (rc : BitVec 3) (flag : Bool) (es : List Nat) (p1 p2 : List Byte)

/-- The scale byte and the elements that PQNT makes of a block. -/
def quantBlock (mode : Nat) (draw : Nat → Nat) : Nat × List Nat :=
  let vs := (List.range es.length).map (fun i => (hVal (s.rh c ha) (es.getD i 0), draw i))
  if (s.rs c b).getLsbD 8 then quantMx (hFmt (s.rh c hd)) mode flag (ftzOf c.regs.fpctl) vs
  else ((s.rs c b).toNat % 256, mxElems (hFmt (s.rh c hd)) mode flag (ftzOf c.regs.fpctl) ((s.rs c b).toNat % 256) vs)

theorem isPrmOp_pqnt : IsPrmOp s c hd ha rc.toNat es p1 p2 (.pqnt hd ha b rc flag, ⟨[0x18, 0x19, 0x1A], floatFmts, 32, false, false, some rc.toNat⟩,
    fun m r => (quantBlock s c hd ha b flag es m r).2,
    fun m r => [(plane1 (planeOf c.regs (s.rh c hd) ++ planeOf c.regs (s.rh c ha)) (s.rh c hd) (argBits (s.rh c hd)),
      [BitVec.ofNat 8 (quantBlock s c hd ha b flag es m r).1])]) := by
  refine isPrmOp_of_exec (fun pl c d a m ftz dr es _ _ =>
    let vs := es.zipIdx.map (fun (x, i) => (hVal a x, dr i))
    let v := s.rs c b
    let (sc, out) := if bit v 8 then quantMx (hFmt d) m flag ftz vs else (fld v 0 8, mxElems (hFmt d) m flag ftz (fld v 0 8) vs)
    (out, [(plane1 pl d (argBits d), [BitVec.ofNat 8 sc])])) rfl (.inl rfl) fun m draw => ?_
  dsimp only
  rw [map_zipIdx_eq es fun x i => (hVal (s.rh c ha) x, draw i), fld_zero]
  rfl

/-- The value of element `i` of an MX block with scale byte `p`, or an SX4 segment with index word `p` and band `q`. -/
def unquantized (c : Ctx) (a : Handle) (p q : List Byte) (i x : Nat) : Val :=
  if isSx4 (hFmt a) then ((hVal a x).mul (e3m5 (c.eng.sx4.val 0 (leNat p / 16 ^ (i / 8) % 16)))).mul (bf16.decode (leNat q))
  else (hVal a x).mul (e8m0 (p.getD 0 0))

theorem exec_pdq : exec (.pdq hd ha rc) s = prmIssue s hd ha ⟨floatFmts, [0x18, 0x19, 0x1A, 0x1B], 0, false, false, some rc.toNat⟩
    (fun _ c d a m ftz dr es p q =>
      (es.zipIdx.map (fun (x, i) => elemEnc (hFmt d) m false ftz (dr i) (unquantized c a p q i x)), [])) := rfl

theorem isPrmOp_pdq : IsPrmOp s c hd ha rc.toNat es p1 p2 (.pdq hd ha rc,
    ⟨floatFmts, [0x18, 0x19, 0x1A, 0x1B], 0, false, false, some rc.toNat⟩,
    fun m r => (List.range es.length).map fun i =>
      elemEnc (hFmt (s.rh c hd)) m false (ftzOf c.regs.fpctl) (r i) (unquantized c (s.rh c ha) p1 p2 i (es.getD i 0)), fun _ _ => []) :=
  isPrmOp_of_exec _ (exec_pdq s hd ha rc) (.inl rfl) fun m draw => Prod.ext (map_zipIdx_eq es fun x i =>
    elemEnc (hFmt (s.rh c hd)) m false (ftzOf c.regs.fpctl) (draw i) (unquantized c (s.rh c ha) p1 p2 i x)) rfl

theorem isPrmOp_ptrn : IsPrmOp s c hd ha rc.toNat es p1 p2 (.ptrn hd ha flag,
    ⟨moveFmts.filter (fun f => fmtBits f = some (if flag then 32 else 16)), moveFmts.filter (fun f => fmtBits f = some (if flag then 32 else 16)),
      if flag then 8 else 16, true, true, none⟩,
    fun _ _ => let n := if flag then 8 else 16; (List.range (n * n)).map fun k => es.getD (k % n * n + k / n) 0, fun _ _ => []) :=
  isPrmOp_of_exec (fun _ _ _ _ _ _ _ es _ _ =>
    (let n := if flag then 8 else 16; (List.range (n * n)).map fun k => es.getD (k % n * n + k / n) 0, [])) rfl (.inr rfl) fun _ _ => rfl

theorem isPrmOp_pbcast : IsPrmOp s c hd ha rc.toNat es p1 p2 (.pbcast hd ha, ⟨moveFmts, moveFmts, 32, false, true, none⟩,
    fun _ _ => List.replicate 32 (es.getD 0 0), fun _ _ => []) :=
  isPrmOp_of_exec (fun _ _ _ _ _ _ _ es _ _ => (List.replicate 32 (es.getD 0 0), [])) rfl (.inr rfl) fun _ _ => rfl

theorem isPrmOp_pperm : IsPrmOp s c hd ha rc.toNat es p1 p2 (.pperm hd ha b, ⟨moveFmts, moveFmts, 16, false, true, none⟩,
    fun _ _ => (List.range 16).map fun i => es.getD ((s.rs c b).toNat / 2 ^ (4 * i) % 16) 0, fun _ _ => []) :=
  isPrmOp_of_exec (fun _ c _ _ _ _ _ es _ _ => ((List.range 16).map (fun i => es.getD (fld (s.rs c b) (4 * i) 4) 0), [])) rfl (.inr rfl) fun _ _ => rfl

end

/-! ### The scale unit (R246, R344, R345) -/

theorem look_filterMap_ne_zero {n : Nat} (f : Nat → BitVec n) (l : List Nat) (k : Nat) :
    Tab.look (l.filterMap fun k => if f k = 0 then none else some (k, f k)) k = if k ∈ l ∧ f k ≠ 0 then some (f k) else none := by
  induction l with
  | nil => exact (if_neg fun h => List.not_mem_nil h.1).symm
  | cons a l ih =>
    by_cases ha : f a = 0
    · rw [List.filterMap_cons, if_pos ha, ih]
      refine if_congr (and_congr_left fun hk => ?_) rfl rfl
      rw [List.mem_cons, or_iff_right]
      rintro rfl
      exact hk ha
    · rw [List.filterMap_cons, if_neg ha]
      dsimp only [Tab.look]
      by_cases hka : a = k
      · subst hka
        rw [if_pos rfl, if_pos ⟨List.mem_cons_self, ha⟩]
      · rw [if_neg hka, ih]
        exact if_congr (and_congr_left fun _ => by rw [List.mem_cons, or_iff_right (Ne.symm hka)]) rfl rfl

theorem val_tabOf {n : Nat} (count : Nat) (f : Nat → BitVec n) {k : Nat} (hk : k < count) : (tabOf count f).val 0 k = f k := by
  unfold Tab.val tabOf
  rw [look_filterMap_ne_zero]
  by_cases hf : f k = 0
  · rw [if_neg fun h => h.2 hf, hf]
    rfl
  · rw [if_pos ⟨List.mem_range.mpr hk, hf⟩]
    rfl

/-- A scale operation at issue: its write is due at the end of the fourth cycle. -/
theorem settle_sclStore {s s1 : State} {id : Nat} {c : Ctx} (h : s.Acting id c) (hissue : s1.issue = s.issue) (hctx : s1.ctx id = some c)
    (hnow : s1.now = s.now) (u : SclUpd) :
    let t := settle s (sclStore s1 id u) id
    ∃ x, t.ctx id = some x ∧ x.regs = s.after c.regs ∧ t.mem = s1.mem ∧
      x.eng = { c.eng with scl := c.eng.scl ++ [{ due := s.now + 4, upd := u }] } ∧ (s.now + 4, id, Instr.scaleWrite) ∈ t.agenda := by
  unfold sclStore
  rw [State.updCtx_eq hctx, hnow]
  obtain ⟨hx, hmem, hagenda⟩ := settle_goes_on
    (s1 := (s1.setCtx id { c with eng := { c.eng with scl := c.eng.scl ++ [{ due := s.now + 4, upd := u }] } }).push 4 id .scaleWrite)
    h hissue (s1.ctx_setCtx id _)
  refine ⟨_, hx, rfl, hmem, rfl, ?_⟩
  rw [hagenda, ← hnow]
  exact List.mem_append_right _ (List.mem_singleton_self _)

section
variable {s : State} {id : Nat} {c : Ctx} (hs : s.Sees id c) {a : BitVec 6}
include hs

theorem execSldt_misaligned (ha : (s.rs c a).toNat % 16 ≠ 0) : execSldt a s = .next (s.traps id 0x02 0 0) :=
  slotStep_misaligned hs.1 (if_pos ha)

theorem execSldt_reads {s1 : State} {bs : List Byte} (ha : (s.rs c a).toNat % 16 = 0)
    (hslice : sliceCheck s c [((s.rs c a).toNat, 16, .read)] = .fine)
    (hread : readBytes s (s.whoTask c 1 false) (s.envTask c) (s.rs c a).toNat 16 = (s1, .ok bs)) :
    execSldt a s = .next (settle s (sclStore s1 id (.table bs)) id) := by
  refine (slotStep_eq hs.1 _).trans ?_
  dsimp only
  rw [if_neg (not_not.mpr ha), hslice]
  dsimp only
  rw [hread]

end

/-- SCALE_WRITE of the one scale operation under way, which is due. -/
theorem execScaleWrite_one {s : State} {c : Ctx} {p : SclPend} (hctx : s.ctx s.subj = some c) (hp : c.eng.scl = [p]) (hdue : p.due ≤ s.now) :
    execScaleWrite s = .next (s.setCtx s.subj { c with eng := { p.upd.apply c.eng with scl := [] } }) := by
  unfold execScaleWrite
  rw [State.updCtx_eq hctx, hp, List.filter_singleton, decide_eq_true hdue, List.filter_singleton, decide_eq_false (not_lt.mpr hdue)]
  rfl

theorem SclUpd.apply_sx4_val {e : Engines} (he : Tab.rising e.sx4) (u : SclUpd) {k : Nat} (hk : k < 16) :
    (u.apply e).sx4.val 0 k = match u with
      | .table bs => bs.getD k 0
      | .entry j v => if k = j then v else e.sx4.val 0 k
      | _ => e.sx4.val 0 k := by
  cases u with
  | table bs => exact val_tabOf 16 (fun k => bs.getD k 0) hk
  | entry j v =>
    dsimp only [SclUpd.apply]
    split
    · next h => rw [h]; exact Tab.val_put_self 0 he j v
    · next h => exact Tab.val_put_other 0 e.sx4 v (Ne.symm h)
  | bands v => rfl
  | mode m => rfl

theorem SclUpd.apply_bands_val (e : Engines) (u : SclUpd) {k : Nat} (hk : k < 4) :
    (u.apply e).bands.val 0 k = match u with
      | .bands v => BitVec.ofNat 16 (v.toNat / 2 ^ (16 * k))
      | _ => e.bands.val 0 k := by
  cases u with
  | bands v => exact (val_tabOf 4 (fun k => BitVec.ofNat 16 (fld v (16 * k) 16)) hk).trans (BitVec.eq_of_toNat_eq (Nat.mod_mod _ _))
  | table bs => rfl
  | entry j v => rfl
  | mode m => rfl

theorem SclUpd.apply_bsrc (e : Engines) (u : SclUpd) : (u.apply e).bsrc = match u with
    | .mode m => m
    | _ => e.bsrc := by
  cases u <;> rfl

/-- PRM_WRITE of the one result under way, which is due. -/
theorem execPrmWrite_one {s : State} {c : Ctx} {p : PrmPend} (hctx : s.ctx s.subj = some c) (hp : c.eng.prm = [p]) (hdue : p.due ≤ s.now)
    {s1 : State} (hs1 : s1 = writeEach (s.whoTask c 1 false) (s.envTask c) p.writes { s with tick := s.tick + 1 })
    (hctx1 : s1.ctx s.subj = some c) : execPrmWrite s = .next (s1.setCtx s.subj { c with eng := { c.eng with prm := [] } }) := by
  have hnow : s1.now = s.now := hs1 ▸ writeEach_now _ _ _ _
  unfold execPrmWrite
  dsimp only
  rw [hctx]
  dsimp only [State.fresh]
  simp only [hp, List.foldl_cons, List.foldl_nil, hdue, if_true, ← hs1]
  rw [State.updCtx_eq hctx1, hp, List.filter_singleton, hnow, decide_eq_false (not_lt.mpr hdue)]
  rfl

/-- Settles O31: at issue by the outcomes of `prmIssue`, which each of the eight operations is; at the end of a cycle by the one entry that is due. -/
theorem permuteAndScale : Obligations.PermuteAndScale := by
  refine ⟨?_, ?_⟩
  · intro s s1 s2 s3 id c hd ha b rc flag es p1 p2 hs D A x pl ftz wide rounded sq form enc el a every quant deq table
    have htable : ∀ e ∈ table, IsPrmOp s c hd ha rc.toNat es p1 p2 e := by
      simp only [table, List.forall_mem_cons]
      exact ⟨
        isPrmOp_of_exec (prmMap fun d a m ftz r x => elemEnc (hFmt d) m flag ftz r (hVal a x)) rfl (.inl rfl) fun m draw => prmMap_eq _ _ _ _ _ _ _ _ _ _ _,
        isPrmOp_of_exec (prmMap fun d a _ ftz _ x => elemEnc (hFmt d) 0 false ftz 0 (hVal a x)) rfl (.inr rfl) fun m draw => prmMap_eq _ _ _ _ _ _ _ _ _ _ _,
        isPrmOp_of_exec (fun pl c d a m ftz dr es p q => prmMap (fun d a m ftz r x =>
          elemEnc (hFmt d) m false ftz r ((hVal a x).mul (e8m0 ((s.rs c b).setWidth 8)))) pl c d a m ftz dr es p q) rfl (.inl rfl)
          fun m draw => prmMap_eq _ _ _ _ _ _ _ _ _ _ _,
        isPrmOp_pqnt s c hd ha b rc flag es p1 p2, isPrmOp_pdq s c hd ha rc es p1 p2, isPrmOp_ptrn s c hd ha rc flag es p1 p2,
        isPrmOp_pbcast s c hd ha rc es p1 p2, isPrmOp_pperm s c hd ha b rc es p1 p2, fun _ h => absurd h List.not_mem_nil⟩
    intro i f out planes hi n blk good fits rs side w env mode seed draw res
    obtain ⟨go, hexec, hrc, hgo⟩ := htable _ hi
    have hmode (hgood : good) : f.mode D c.regs.fpctl = some mode := PrmForm.mode_eq hrc hgood.2
    have hempty : hCount D = 0 ∨ hCount A = 0 ↔ (hEmpty D || hEmpty A) = true := by simp [hEmpty]
    refine ⟨fun hbad => hexec.trans (prmIssue_refuses hs go hbad), fun hgood hfits hnone => ?_, fun hgood hfits hD hA hfences => ?_,
      fun hgood hfits hD hA hfences hslice hread hside1 hside2 hctx1 hissue1 hnow1 => ?_⟩
    · exact hexec.trans (prmIssue_idles hs go hgood.1 (hmode hgood) hfits.1 hfits.2 (hempty.mp hnone))
    · have hsome : (hEmpty D || hEmpty A) = false := Bool.eq_false_iff.mpr (hempty.not.mp (not_or.mpr ⟨hD, hA⟩))
      exact hexec.trans (prmIssue_stalls hs go hgood.1 (hmode hgood) hfits.1 hfits.2 hsome hfences)
    · have hsome : (hEmpty D || hEmpty A) = false := Bool.eq_false_iff.mpr (hempty.not.mp (not_or.mpr ⟨hD, hA⟩))
      have hstore := prmIssue_stores hs go hgood.1 (hmode hgood) hfits.1 hfits.2 hsome hfences hslice hread hside1 hside2 (hgo mode draw)
      obtain ⟨hx, hmem, hagenda⟩ := settle_prmStore hs.1 hissue1 hctx1 hnow1
        (blockWrites (blk D) (argBits D) res ++ (planes mode draw).flatMap fun q => addressed q.1 q.2) (if mode = 4 then some seed else none)
      refine ⟨_, _, ⟨c.ph.seq, s.now + 3, _⟩, hexec.trans hstore, hx, hmem, rfl, ?_, rfl, rfl, rfl, hagenda⟩
      show s.after ((if mode = 4 then some seed else none).elim c.regs fun x => { c.regs with rngp := x }) = _
      split <;> rfl
  · refine ⟨fun s s1 id c a k byte m bs hs => ?_, fun s c p hctx hp hdue hsx4 => ?_, fun s c p hctx hp hdue => ?_⟩
    · intro ea due
      have hdue {i : Instr} {u : SclUpd} {s1 : State} (hexec : exec i s = .next (settle s (sclStore s1 id u) id)) (hctx : s1.ctx id = some c)
          (hissue : s1.issue = s.issue) (hnow : s1.now = s.now) : due i u s1 := by
        obtain ⟨x, hx⟩ := settle_sclStore hs.1 hissue hctx hnow u
        exact ⟨_, x, hexec, hx⟩
      exact ⟨hdue (slotStep_eq hs.1 fun id c => sclStore s id (.bands (s.rs c a))) hs.ctx_eq rfl rfl,
        hdue (slotStep_eq hs.1 fun id _ => sclStore s id (.entry k.toNat byte)) hs.ctx_eq rfl rfl,
        hdue (slotStep_eq hs.1 fun id _ => sclStore s id (.mode m)) hs.ctx_eq rfl rfl,
        fun ha => execSldt_misaligned hs ha,
        fun ha hslice hread hctx hissue hnow => hdue (execSldt_reads hs ha hslice hread) hctx hissue hnow⟩
    · exact ⟨_, _, execScaleWrite_one hctx hp hdue, s.ctx_setCtx s.subj _, rfl, rfl, rfl, fun k hk => SclUpd.apply_sx4_val hsx4 p.upd hk,
        fun k hk => SclUpd.apply_bands_val c.eng p.upd hk, SclUpd.apply_bsrc c.eng p.upd⟩
    · intro s1 hctx1
      exact ⟨_, _, execPrmWrite_one hctx hp hdue rfl hctx1, s1.ctx_setCtx s.subj _, rfl, rfl, rfl⟩

end Sys2Proof.Machine
end

section
/-! PROOF. Transfer commands at issue, and XSTAT and XCAN (O32). -/

namespace Sys2Proof.Machine

/-! ### A new command (R350) -/

theorem newCmd_eq (s : State) (c : Ctx) (e : Nat) (i : Instr) (f : XForm) (ccw : DWord) :
    ∃ seed, newCmd s c e i f ccw = { rawCmd s c e i f ccw with seed := seed } ∧
      ((newCmd s c e i f ccw).draws = true → seed = xorshift (s.srcRegs c).rngx) := by
  unfold newCmd Cmd.seeded
  by_cases h : (rawCmd s c e i f ccw).draws = true
  · rw [if_pos h]
    exact ⟨_, rfl, fun _ => rfl⟩
  · rw [if_neg h]
    exact ⟨_, rfl, fun h' => absurd h' h⟩

theorem newCmd_kind (s : State) (c : Ctx) (e : Nat) {i : Instr} {f : XForm} (ccw : DWord) (h : Instr.xform i = some f) :
    (newCmd s c e i f ccw).kind = f.kind := by
  obtain ⟨seed, hk, -⟩ := newCmd_eq s c e i f ccw
  rw [hk]
  exact congrArg (fun o : Option XForm => (o.getD ⟨.post, 0, 0, 0, 0, 0, 0⟩).kind) h

/-- The task that has filed a command: the log, the tag counter, the phase, and its generator. -/
def Ctx.filed (c : Ctx) (bufs : Tab BufEnt) (k : Cmd) : Ctx :=
  let p := ({ c with bufs := bufs } : Ctx).putCmd k
  { p with
    regs := if k.draws then { c.regs with rngx := k.seed } else c.regs
    xf := { p.xf with tagNext := (c.xf.tagNext + 1) % 2 ^ 16, lastId := k.id }
    ph := { c.ph with seq := c.ph.seq + 1, cmds := c.ph.cmds + 1, nr := c.ph.nr || k.form.notRestartable || decide (4096 ≤ c.ph.cmds) } }

theorem wake_due (s : State) (id : Nat) : (wake s id).due id .commandStart := by
  unfold wake
  split
  · next h =>
    obtain ⟨⟨at_, subj, i⟩, hmem, he⟩ := List.any_eq_true.mp h
    obtain ⟨rfl, rfl⟩ := of_decide_eq_true he
    exact ⟨at_, hmem⟩
  · exact ⟨s.now + 0, List.mem_append_right _ (List.mem_singleton_self _)⟩

/-- The task with `k` its youngest command. -/
def Ctx.naming (c : Ctx) (k : Cmd) : Ctx := { c with xf := { c.xf with lastId := k.id } }

theorem fileCmd_eq (s : State) (id : Nat) (c : Ctx) (k : Cmd) :
    ∃ bufs slot x, fileCmd s id c k = wake (s.setCtx id x) id ∧ x.naming k = c.filed bufs { k with ringSlot := slot } := by
  unfold fileCmd
  dsimp only
  split
  · exact ⟨c.bufs.set (hBuf k.hd) (c.buf (hBuf k.hd)).claim.2, some (c.buf (hBuf k.hd)).claim.1, _, rfl, rfl⟩
  · exact ⟨c.bufs, none, _, rfl, rfl⟩

theorem wake_issue (s : State) (id : Nat) : (wake s id).issue = s.issue := by
  obtain ⟨a, ha⟩ := wake_frame s id
  rw [ha]

/-- What filing a command leaves; the command may have been given a slot of its ring (R55). -/
theorem fileCmd_leaves (s : State) (id : Nat) (c : Ctx) (k : Cmd) :
    ∃ bufs slot a, (fileCmd s id c k).updCtx id (·.naming k) = { s.setCtx id (c.filed bufs { k with ringSlot := slot }) with agenda := a } ∧
      ∃ at_, (at_, id, Instr.commandStart) ∈ a := by
  obtain ⟨bufs, slot, x, hfile, hx⟩ := fileCmd_eq s id c k
  obtain ⟨a, ha⟩ := wake_frame (s.setCtx id x) id
  have hdue := wake_due (s.setCtx id x) id
  rw [ha] at hdue
  refine ⟨bufs, slot, a, ?_, hdue⟩
  rw [hfile, State.updCtx_eq ((wake_ctx _ _ _).trans (s.ctx_setCtx id x)), hx, ha]
  exact congrArg (fun t => ({ s with ctxs := t, agenda := a } : State)) (Tab.set_set _ _ _ _)

/-- The stream operation of a command, if it has one. -/
theorem joinStream_of_inStream {k : Cmd} (h : k.kind.inStream = true) (s : State) (id q : Nat) :
    ∃ ha hb pl rings tiles, joinStream s id k q = enterStream s id k.instr ha hb pl k.ccw rings tiles (some q) := by
  change k.form.kind.inStream = true at h
  unfold joinStream
  dsimp only
  cases hk : k.form.kind
  case cpym => exact ⟨_, _, _, _, _, rfl⟩
  case drainkMerge => exact ⟨_, _, _, _, _, rfl⟩
  case rmergeSw => exact ⟨_, _, _, _, _, rfl⟩
  all_goals
    rw [hk] at h
    exact absurd h Bool.false_ne_true

theorem joinStream_of_not_inStream {k : Cmd} (h : k.kind.inStream = false) (s : State) (id q : Nat) : joinStream s id k q = s := by
  change k.form.kind.inStream = false at h
  unfold joinStream
  dsimp only
  cases hk : k.form.kind
  case cpym | drainkMerge | rmergeSw =>
    rw [hk] at h
    exact absurd h.symm Bool.false_ne_true
  all_goals rfl

/-- What the stream operation of a command, if it has one, leaves. -/
theorem joinStream_leaves {s : State} {id : Nat} {c : Ctx} (hctx : s.ctx id = some c) (hmark : c.ph.markm ≤ c.eng.mcount - c.ph.ck.mcount) (k : Cmd)
    (q : Nat) : let t := joinStream s id k q
      ∃ x, t.ctx id = some x ∧ t.issue = s.issue ∧ t.mem = s.mem ∧ (∀ e ∈ s.agenda, e ∈ t.agenda) ∧ x.xf = c.xf ∧ x.regs = c.regs ∧
        x.ph.nr = c.ph.nr ∧ (k.kind.inStream = false → x.eng = c.eng) ∧
        (k.kind.inStream = true → ∃ m ∈ x.eng.ms, m.cmd = some q ∧ m.instr = k.instr ∧ m.acted = false) := by
  by_cases hk : k.kind.inStream = true
  · obtain ⟨ha, hb, pl, rings, tiles, hjoin⟩ := joinStream_of_inStream hk s id q
    obtain ⟨bufs, ms, a, henter, hagenda, -, hbare⟩ := enterStream_leaves hctx hmark k.instr ha hb pl k.ccw rings tiles (some q)
    obtain ⟨-, m, -, hm, hmbare⟩ := getLast_of_bare hbare
    rw [hjoin, henter]
    exact ⟨_, s.ctx_setCtx id _, rfl, rfl, hagenda, rfl, rfl, rfl, fun h => absurd hk (Bool.eq_false_iff.mp h),
      fun _ => ⟨m, hm, congrArg MOp.cmd hmbare, congrArg MOp.instr hmbare, congrArg MOp.acted hmbare⟩⟩
  · rw [joinStream_of_not_inStream (Bool.eq_false_iff.mpr hk)]
    exact ⟨c, hctx, rfl, rfl, fun e he => he, rfl, rfl, rfl, fun _ => rfl, fun h => absurd h hk⟩

/-! ### Issue (R350, R351) -/

/-- An instruction is a command of this form, whose handles are `d` and `a`, which joins the stream or not, uses `tiles`, and finds the mode of
tile `wrong`, if any, not to be its own. -/
structure IsXferOp (s : State) (c : Ctx) (cc : BitVec 6) (i : Instr) (d a : Option Handle) (stream : Bool) (tiles : List Nat) (wrong : Option Nat)
    (f : XForm) : Prop where
  exec_eq : exec i s = xfrIssue s i
  xform : Instr.xform i = some f
  inStream : f.kind.inStream = stream
  cc : f.cc = cc
  hd : ∀ h, d = some h → f.kind.dHandle = true ∧ (s.srcRegs c).h.val 0 f.d = h
  ha : ∀ h, a = some h → f.kind.aHandle = true ∧ (s.srcRegs c).h.val 0 f.a = h
  checks : tileChecks s c f = match tiles.find? (fun j => c.inFlight j) with
    | some j => some (s.raise Cause.accInFlight (BitVec.ofNat 64 j))
    | none => wrong.map fun j => s.raise Cause.tileMode (BitVec.ofNat 64 j)

section
variable {s : State} {id : Nat} {c : Ctx} (hs : s.Sees id c) {cc : BitVec 6} {i : Instr} {d a : Option Handle} {stream : Bool} {tiles : List Nat}
  {wrong : Option Nat} {f : XForm} (hi : IsXferOp s c cc i d a stream tiles wrong f)
include hs hi

theorem IsXferOp.stalls (hfull : 128 ≤ c.xfCount ∨ (stream = true ∧ 32 ≤ c.eng.ms.length)) : exec i s = .next s.stalls := by
  refine hi.exec_eq.trans (slotStep_stalls hs.1 hs.2.2 ?_)
  dsimp only
  rw [hi.xform]
  dsimp only
  rw [hi.inStream, if_pos]
  rw [Bool.or_eq_true, Bool.and_eq_true, decide_eq_true_iff]
  exact hfull.symm.imp_left fun h => ⟨h.1, decide_eq_true h.2⟩

variable (habsorbs : c.absorbs = false) (hroom : ¬ (128 ≤ c.xfCount ∨ (stream = true ∧ 32 ≤ c.eng.ms.length))) {e : Nat} (hfree : c.freeEntry = some e)
include habsorbs hroom hfree

theorem IsXferOp.exec_checked : let k := newCmd s c e i f (s.rs c cc)
    exec i s = slotStep s fun _ _ => ((tileChecks s c f).orElse fun _ => if f.kind = .cpym then cpymChecks s c k else none).getD
      (joinStream ((fileCmd s id c k).updCtx id (·.naming k)) id k k.seq) := by
  have hbusy : ((f.kind.inStream && c.streamFull) || decide (128 ≤ c.xfCount)) = false := by
    rw [Bool.eq_false_iff, ne_eq, Bool.or_eq_true, Bool.and_eq_true, decide_eq_true_iff, hi.inStream]
    exact fun h => hroom (h.symm.imp_right fun h => ⟨h.1, of_decide_eq_true h.2⟩)
  refine hi.exec_eq.trans ((slotStep_eq hs.1 _).trans (Eq.trans ?_ (slotStep_eq hs.1 _).symm))
  refine congrArg (fun t => Host.Outcome.next (settle s t id)) ?_
  dsimp only
  rw [hi.xform]
  dsimp only
  rw [hbusy, if_neg Bool.false_ne_true, habsorbs, if_neg Bool.false_ne_true, hfree, Option.isNone_some, if_neg Bool.false_ne_true, Option.getD_some, hi.cc]
  cases tileChecks s c f with
  | some t => rfl
  | none =>
    dsimp only [Option.orElse]
    cases (if f.kind = .cpym then cpymChecks s c (newCmd s c e i f (s.rs c cc)) else none) <;> rfl

theorem IsXferOp.exec_inFlight {j : Nat} (hj : tiles.find? (fun j => c.inFlight j) = some j) :
    exec i s = .next (s.traps id 0x06 0 (BitVec.ofNat 64 j)) := by
  refine (hi.exec_checked hs habsorbs hroom hfree).trans (slotStep_raise hs.1 (cause := Cause.accInFlight) ?_ (by decide))
  rw [hi.checks, hj]
  rfl

variable (hlanded : tiles.find? (fun j => c.inFlight j) = none)
include hlanded

theorem IsXferOp.exec_wrongMode {j : Nat} (hj : wrong = some j) : exec i s = .next (s.traps id 0x07 0 (BitVec.ofNat 64 j)) := by
  refine (hi.exec_checked hs habsorbs hroom hfree).trans (slotStep_raise hs.1 (cause := Cause.tileMode) ?_ (by decide))
  rw [hi.checks, hlanded, hj]
  rfl

theorem IsXferOp.exec_files (hwrong : wrong = none) :
    let k := newCmd s c e i f (s.rs c cc)
    (f.kind = .cpym → cpymChecks s c k = none) →
    exec i s = .next (settle s (joinStream ((fileCmd s id c k).updCtx id (·.naming k)) id k k.seq) id) := by
  intro k hcpym
  have hchecks : (if f.kind = .cpym then cpymChecks s c k else none) = none := by
    split
    · next h => exact hcpym h
    · rfl
  refine (hi.exec_checked hs habsorbs hroom hfree).trans ((slotStep_eq hs.1 _).trans ?_)
  rw [hi.checks, hlanded, hwrong]
  dsimp only [Option.map_none, Option.orElse]
  rw [hchecks]
  rfl

/-- What a command whose checks pass leaves: itself in the log, to be looked at. -/
theorem IsXferOp.files (hmark : c.ph.markm ≤ c.eng.mcount - c.ph.ck.mcount) (hwrong : wrong = none)
    (hcpym : f.kind = .cpym → cpymChecks s c (newCmd s c e i f (s.rs c cc)) = none) :
    ∃ t x k, exec i s = .next t ∧ t.ctx id = some x ∧ t.mem = s.mem ∧ k ∈ x.xf.log ∧
      k.entry = e ∧ k.tag = c.xf.tagNext ∧ k.seq = c.ph.seq ∧ k.pc = c.regs.pc ∧ k.instr = i ∧ k.ccw = s.rs c cc ∧ k.st = .issued ∧
      (∀ h, d = some h → k.hd = h) ∧ (∀ h, a = some h → k.ha = h) ∧
      x.xf.tagNext = (c.xf.tagNext + 1) % 2 ^ 16 ∧ x.xf.lastId = e * 2 ^ 16 + c.xf.tagNext ∧ t.due id .commandStart ∧
      x.regs = s.after (if k.draws then { c.regs with rngx := xorshift c.regs.rngx } else c.regs) ∧
      (stream = false → x.eng = c.eng) ∧ (stream = true → ∃ m ∈ x.eng.ms, m.cmd = some k.seq ∧ m.instr = i ∧ m.acted = false) ∧
      (k.form.notRestartable = true → x.ph.nr = true) := by
  have hregs : s.srcRegs c = c.regs := hs.srcRegs_described c.eng.tissue
  obtain ⟨seed, hk, hseed⟩ := newCmd_eq s c e i f (s.rs c cc)
  have hexec := hi.exec_files hs habsorbs hroom hfree hlanded hwrong hcpym
  obtain ⟨bufs, slot, ag, hfile, at_, hdue⟩ := fileCmd_leaves s id c (newCmd s c e i f (s.rs c cc))
  rw [hfile] at hexec
  have hkind := newCmd_kind s c e (s.rs c cc) hi.xform
  obtain ⟨x, hx, hissue, hmem, hagenda, hxf, hxregs, hnr, heng, hms⟩ := joinStream_leaves
    (s := { s.setCtx id (c.filed bufs { newCmd s c e i f (s.rs c cc) with ringSlot := slot }) with agenda := ag }) (s.ctx_setCtx id _) hmark
    (newCmd s c e i f (s.rs c cc)) (newCmd s c e i f (s.rs c cc)).seq
  obtain ⟨hctx, hsettled, hkept⟩ := settle_goes_on hs.1 hissue hx
  rw [hkind, hi.inStream] at heng hms
  generalize hnew : newCmd s c e i f (s.rs c cc) = k at *
  refine ⟨_, _, { k with ringSlot := slot }, hexec, hctx, hsettled.trans hmem, ?_, hk ▸ rfl, hk ▸ rfl, hk ▸ rfl, ?_, hk ▸ rfl, hk ▸ rfl, hk ▸ rfl,
    fun h hh => ?_, fun h hh => ?_, ?_, ?_, ⟨at_, ?_⟩, ?_, heng, fun h => ?_, fun h => ?_⟩
  · exact hxf ▸ List.mem_append_right _ (List.mem_singleton_self _)
  · rw [hk]
    exact congrArg Regs.pc hregs
  · obtain ⟨hhandle, hval⟩ := hi.hd h hh
    rw [hk]
    exact (if_pos hhandle).trans hval
  · obtain ⟨hhandle, hval⟩ := hi.ha h hh
    rw [hk]
    exact (if_pos hhandle).trans hval
  · exact congrArg (·.tagNext) hxf
  · exact (congrArg (·.lastId) hxf).trans (by rw [hk])
  · exact hkept ▸ hagenda _ hdue
  · refine congrArg s.after (hxregs.trans ?_)
    change (if k.draws = true then { c.regs with rngx := k.seed } else c.regs) = if k.draws = true then _ else _
    split
    · next hdraws => rw [← hregs, ← hseed hdraws, hk]
    · rfl
  · obtain ⟨m, hm, hcmd, hinstr, hacted⟩ := hms h
    exact ⟨m, hm, hcmd, hinstr.trans (by rw [hk]; rfl), hacted⟩
  · refine hnr.trans ?_
    change (c.ph.nr || k.form.notRestartable || decide (4096 ≤ c.ph.cmds)) = true
    change k.form.notRestartable = true at h
    rw [h, Bool.or_true, Bool.true_or]

end

section
variable (s : State) (c : Ctx) (hd ha : BitVec 5) (t u : BitVec 4) (cc : BitVec 6) (sc : BitVec 3) (n : BitVec 8)

/-- A command between handles that names no tile. -/
theorem isXferOp_of_handles (kind : XKind) {i : Instr} {stream : Bool} {a b d : Nat} (hexec : exec i s = xfrIssue s i)
    (hform : Instr.xform i = some ⟨kind, hd.toNat, ha.toNat, cc, a, b, d⟩) (hstream : kind.inStream = stream) (hdh : kind.dHandle = true)
    (hah : kind.aHandle = true) (hchecks : tileChecks s c ⟨kind, hd.toNat, ha.toNat, cc, a, b, d⟩ = none) :
    ∃ f, IsXferOp s c cc i (some (s.rh c hd)) (some (s.rh c ha)) stream [] none f :=
  ⟨_, hexec, hform, hstream, rfl, fun _ h => ⟨hdh, Option.some.inj h⟩, fun _ h => ⟨hah, Option.some.inj h⟩, hchecks⟩

/-- A command of one tile: it must not be in flight, and then its mode must not be wrong. -/
theorem isXferOp_of_tile (kind : XKind) {i : Instr} {stream : Bool} {a b d : Nat} (wrong : Bool) {bad : Option Nat} (hexec : exec i s = xfrIssue s i)
    (hform : Instr.xform i = some ⟨kind, hd.toNat, t.toNat, cc, a, b, d⟩) (hstream : kind.inStream = stream) (hdh : kind.dHandle = true)
    (hbad : bad = if wrong then some t.toNat else none)
    (hchecks : tileChecks s c ⟨kind, hd.toNat, t.toNat, cc, a, b, d⟩ =
      (if c.inFlight t.toNat then some (s.raise Cause.accInFlight (BitVec.ofNat 64 t.toNat)) else none).orElse fun _ =>
        if wrong then some (s.raise Cause.tileMode (BitVec.ofNat 64 t.toNat)) else none) :
    ∃ f, IsXferOp s c cc i (some (s.rh c hd)) none stream [t.toNat] bad f := by
  refine ⟨_, hexec, hform, hstream, rfl, fun _ h => ⟨hdh, Option.some.inj h⟩, fun _ h => (by cases h), hchecks.trans ?_⟩
  rw [hbad, List.find?_singleton]
  cases c.inFlight t.toNat <;> cases wrong <;> rfl

theorem tileChecks_drain (d a b x : Nat) : tileChecks s c ⟨.drain, d, t.toNat, cc, a, b, x⟩ =
    (if c.inFlight t.toNat then some (s.raise Cause.accInFlight (BitVec.ofNat 64 t.toNat)) else none).orElse fun _ => none := by
  unfold tileChecks
  dsimp only
  cases c.inFlight t.toNat <;> rfl

theorem isXferOp_drainkMerge : ∃ f, IsXferOp s c cc (.drainkMerge u t cc sc) none none true [t.toNat, u.toNat]
    (if descRanked (c.eng.tissue.val 0 t.toNat) then some t.toNat
      else if descRanked (c.eng.tissue.val 0 u.toNat) = false ∨ t = u then some u.toNat else none) f := by
  refine ⟨⟨.drainkMerge, u.toNat, t.toNat, cc, sc.toNat, 0, 0⟩, rfl, rfl, rfl, rfl, fun _ h => (by cases h), fun _ h => (by cases h), ?_⟩
  have hbad : (!descRanked (c.eng.tissue.val 0 u.toNat) || decide (t.toNat = u.toNat)) =
      decide (descRanked (c.eng.tissue.val 0 u.toNat) = false ∨ t = u) := by
    rw [Bool.decide_or, decide_eq_decide.mpr (BitVec.toNat_inj (x := t) (y := u))]
    cases descRanked (c.eng.tissue.val 0 u.toNat) <;> rfl
  unfold tileChecks
  dsimp only
  rw [hbad, List.find?_cons, List.find?_singleton]
  cases c.inFlight t.toNat
  · cases c.inFlight u.toNat
    · cases descRanked (c.eng.tissue.val 0 t.toNat)
      · by_cases h : descRanked (c.eng.tissue.val 0 u.toNat) = false ∨ t = u <;> simp only [h, decide_true, decide_false] <;> rfl
      · rfl
    · rfl
  · rfl

theorem isXferOp_post : ∃ f, IsXferOp s c cc (.post n cc) none none false [] none f :=
  ⟨⟨.post, n.toNat, 0, cc, 0, 0, 0⟩, rfl, rfl, rfl, rfl, fun _ h => (by cases h), fun _ h => (by cases h), rfl⟩

end

/-! ### XSTAT (R354, R355) -/

theorem Ctx.byId_of_none {c : Ctx} {v : DWord} (h : ∀ k ∈ c.xf.log ++ c.xf.again, k.id ≠ v.toNat % 2 ^ 24) : c.byId v = none := by
  refine List.find?_eq_none.mpr fun k hk => ?_
  rw [decide_eq_true_iff, fld_zero]
  exact h k hk

theorem Ctx.byId_of_filter {c : Ctx} {v : DWord} {k : Cmd} (h : (c.xf.log ++ c.xf.again).filter (fun k => decide (k.id = v.toNat % 2 ^ 24)) = [k]) :
    c.byId v = some k := by
  unfold Ctx.byId
  rw [fld_zero, ← List.head?_filter, h]
  rfl

/-- The status word of a command (R354). -/
theorem Cmd.status_eq (k : Cmd) : k.status =
    BitVec.ofNat 64 ((match k.st with | .issued => 1 | .running => 1 | .done => 2 | .faulted => 3) * 2 ^ 62 +
      (if k.st = .faulted ∨ k.st = .done then k.cause else 0) * 2 ^ 48 + k.cword.toNat % 2 ^ 48) := by
  unfold Cmd.status
  rw [fld_zero]
  cases k.st <;> rfl

theorem find?_map_updated {l : List Cmd} {p : Cmd → Bool} {k : Cmd} {e : Nat} {g : Cmd → Cmd} (hg : ∀ k, p (g k) = p k) (hk : l.find? p = some k)
    (he : k.entry = e) : (l.map fun k => if k.entry = e then g k else k).find? p = some (g k) := by
  have hsame : p ∘ (fun k => if k.entry = e then g k else k) = p := by
    funext k
    dsimp only [Function.comp]
    split
    · exact hg k
    · rfl
  rw [List.find?_map, hsame, hk]
  exact congrArg some (if_pos he)

/-- A command that a step changes, but for its entry and tag, is found under its id as before. -/
theorem Ctx.byId_of_map {c x : Ctx} {v : DWord} {k : Cmd} {e : Nat} {g : Cmd → Cmd} (hg : ∀ k, (g k).id = k.id) (hagain : c.xf.again = [])
    (hlog : x.xf.log = c.xf.log.map fun k => if k.entry = e then g k else k) (hagain' : x.xf.again = []) (hk : c.byId v = some k) (he : k.entry = e) :
    x.byId v = some (g k) := by
  unfold Ctx.byId at hk ⊢
  rw [hagain, List.append_nil] at hk
  rw [hagain', hlog, List.append_nil]
  exact find?_map_updated (fun k => by rw [hg k]) hk he

/-! ### XCAN (R356) -/

section
variable {s : State} {id : Nat} {c : Ctx} (hs : s.Sees id c) {d a : BitVec 6}
include hs

/-- A slot that answers with a word, whatever else it did to the task and to what lies outside memory. -/
theorem slotStep_answers {o : Host.Outcome State Fault Refusal} {f : Nat → Ctx → State} {u : State} {w : DWord} (ho : o = slotStep s f)
    (hf : f id c = u.wrS id d w) (hissue : u.issue = s.issue) {x : Ctx}
    (hx : u.ctx id = some x) (hregs : x.regs = c.regs) :
    ∃ t z, o = .next t ∧ t.ctx id = some z ∧ z.regs = s.after (c.regs.setS d w) ∧ t.mem = u.mem := by
  have hu : u.wrS id d w = u.setCtx id (x.updRegs (·.setS d w)) := State.updCtx_eq hx _
  rw [ho, slotStep_eq hs.1, hf, hu]
  obtain ⟨hctx, hmem, -⟩ := settle_goes_on (s1 := u.setCtx id (x.updRegs (·.setS d w))) hs.1 hissue (u.ctx_setCtx id _)
  exact ⟨_, _, rfl, hctx, congrArg (fun r => s.after (Regs.setS r d w)) hregs, hmem⟩

theorem xcanOne_answers {act : State → Nat → Cmd → State} {u : State} {x : Ctx} {k : Option Cmd} {w : DWord} (hk : c.byId (s.rs c a) = k)
    (hu : k.elim s (act s id) = u) (hissue : u.issue = s.issue) (hmem : u.mem = s.mem) (hx : u.ctx id = some x) (hregs : x.regs = c.regs)
    (hw : x.statusOf (s.rs c a) = w) :
    ∃ t z, xcanOne s d a act = .next t ∧ t.ctx id = some z ∧ z.regs = s.after (c.regs.setS d w) ∧ t.mem = s.mem := by
  obtain ⟨t, z, hexec, hctx, hz, hm⟩ := slotStep_answers hs (d := d) (o := xcanOne s d a act) (u := u) (w := w) rfl (by
    dsimp only
    rw [hk]
    cases k
    all_goals
      subst hu
      dsimp only [Option.elim] at hx ⊢
      rw [hx, ← hw]) hissue hx hregs
  exact ⟨t, z, hexec, hctx, hz, hm.trans hmem⟩

end

/-! ### What cancelling leaves of a task's registers -/

/-- From `s` to `t` the marks of the bundle stay, no request to another package is made, and task `id` keeps its registers. -/
def State.SparesRegs (id : Nat) (s t : State) : Prop :=
  t.issue = s.issue ∧ t.mid.reqs = s.mid.reqs ∧ ∀ c, s.ctx id = some c → ∃ x, t.ctx id = some x ∧ x.regs = c.regs

namespace State.SparesRegs

variable {id : Nat}

theorem refl (s : State) : s.SparesRegs id s := ⟨rfl, rfl, fun c h => ⟨c, h, rfl⟩⟩

theorem trans {s t u : State} (h : s.SparesRegs id t) (h' : t.SparesRegs id u) : s.SparesRegs id u := by
  obtain ⟨hissue, hreqs, hctx⟩ := h
  obtain ⟨hissue', hreqs', hctx'⟩ := h'
  refine ⟨hissue'.trans hissue, hreqs'.trans hreqs, fun c hc => ?_⟩
  obtain ⟨x, hx, hregs⟩ := hctx c hc
  obtain ⟨y, hy, hregs'⟩ := hctx' x hx
  exact ⟨y, hy, hregs'.trans hregs⟩

theorem of_eq {s t : State} (hissue : t.issue = s.issue) (hreqs : t.mid.reqs = s.mid.reqs) (hctxs : t.ctxs = s.ctxs) : s.SparesRegs id t :=
  ⟨hissue, hreqs, fun c hc => ⟨c, (congrArg (fun l => Tab.look l id) hctxs).trans hc, rfl⟩⟩

theorem setCtx {s : State} {c x : Ctx} (hc : s.ctx id = some c) (hx : x.regs = c.regs) : s.SparesRegs id (s.setCtx id x) :=
  ⟨rfl, rfl, fun _ hy => ⟨x, s.ctx_setCtx id x, hx.trans (congrArg Ctx.regs (Option.some.inj (hc.symm.trans hy)))⟩⟩

theorem updCtx (s : State) {f : Ctx → Ctx} (hf : ∀ c, (f c).regs = c.regs) : s.SparesRegs id (s.updCtx id f) := by
  cases hc : s.ctx id with
  | none =>
    unfold State.updCtx
    rw [hc]
    exact refl s
  | some c =>
    rw [State.updCtx_eq hc]
    exact setCtx hc (hf c)

theorem wake (s : State) : s.SparesRegs id (Machine.wake s id) := by
  obtain ⟨a, ha⟩ := wake_frame s id
  rw [ha]
  exact of_eq rfl rfl rfl

theorem devWrite (s : State) (w : Who) (pa : Nat) (bs : List Byte) : s.SparesRegs id (s.devWrite w pa bs) := by
  by_cases h : pa + bs.length ≤ 2 ^ 39
  · obtain ⟨m, k, r, hw⟩ := State.devWrite_frame (s := s) (w := w) h
    rw [hw]
    exact of_eq rfl rfl rfl
  · unfold State.devWrite
    rw [if_neg h]
    exact of_eq rfl rfl rfl

theorem syncImage (s : State) (off : Nat) (f : Ctx → List Byte) : s.SparesRegs id (Machine.syncImage s id off f) := by
  unfold Machine.syncImage
  split
  · split
    · exact devWrite s _ _ _
    · exact refl s
  · exact refl s

theorem syncBuf (s : State) (b : Nat) : s.SparesRegs id (Machine.syncBuf s id b) := syncImage s _ _

theorem repairWords (s : State) (core off n : Nat) : s.SparesRegs id (Machine.repairWords s core off n) := of_eq rfl rfl rfl

theorem putBytes (s : State) (a : Nat) (bs : List Byte) : s.SparesRegs id (s.putBytes a bs) := of_eq rfl rfl rfl

theorem zeroSlot (s : State) (c : Ctx) (off n : Nat) : s.SparesRegs id (Machine.zeroSlot s c off n) := by
  have hrepair := repairWords (id := id) s c.anyCore off n
  unfold Machine.zeroSlot
  generalize Machine.repairWords s c.anyCore off n = u at hrepair
  cases c.loc
  case absent => exact devWrite s _ _ _
  case saving | restoring => exact (hrepair.trans (devWrite u _ _ _)).trans (putBytes _ _ _)
  all_goals exact hrepair.trans (putBytes u _ _)

/-- Zeros over a ring slot, which then counts as landed. -/
theorem landZero (s : State) (c : Ctx) (off n b k : Nat) :
    s.SparesRegs id (Machine.syncBuf ((Machine.zeroSlot s c off n).updCtx id (·.updBuf b (·.land k))) id b) :=
  ((zeroSlot s c off n).trans (updCtx _ (f := (·.updBuf b (·.land k))) fun _ => rfl)).trans (syncBuf _ b)

theorem dropClaim (s : State) (b k : Nat) : s.SparesRegs id (Machine.dropClaim s id b k) := by
  unfold Machine.dropClaim
  split
  · exact refl s
  · next c hc =>
    dsimp only
    split
    · exact (setCtx hc (x := c.updBuf b fun e => { e with claimed := e.claimed - 1, landed := e.landed.filter (· ≠ k) }) rfl).trans (syncBuf _ b)
    · exact landZero s c _ _ b k

end State.SparesRegs

theorem Ctx.dropRead_regs (c : Ctx) (seq b : Nat) : (c.dropRead seq b).regs = c.regs := by
  unfold Ctx.dropRead
  split
  · rfl
  · dsimp only
    split <;> rfl

namespace State.SparesRegs

variable {id : Nat}

theorem cancelSlot (s : State) (k : Cmd) : s.SparesRegs id (Machine.cancelSlot s id k) := by
  unfold Machine.cancelSlot
  dsimp only
  split
  · split
    · split
      · exact refl s
      · exact landZero s _ _ _ _ _
    · exact dropClaim s _ _
  · split
    · exact updCtx s fun c => c.dropRead_regs _ _
    · exact refl s

end State.SparesRegs

/-- A stream operation that adds nothing once its command is cancelled. -/
def MOp.dropped (k : Cmd) (m : MOp) : MOp := if m.cmd = some k.seq then { m with cancelled := true } else m

/-- The task once a command of it is cancelled: its stream operation adds nothing, its record is dropped. -/
def Ctx.without (k : Cmd) (c : Ctx) : Ctx :=
  { c with
    eng := { c.eng with ms := c.eng.ms.map (MOp.dropped k) }
    xf := { c.xf with waitq := c.xf.waitq.filter (fun r => decide (r.slot ≠ 7 ∨ r.id ≠ k.id)) } }

/-- A command that has been cancelled. -/
def Cmd.cancelled (k : Cmd) : Cmd := { k with st := .done, cause := Cause.cancelled }

/-- Cancelling a command of a task, with no request to another package. -/
theorem cancelCmd_eq {s : State} {id e : Nat} {c : Ctx} {k : Cmd} (hc : s.ctx id = some c) (hk : c.cmd e = some k) (hreqs : s.mid.reqs = []) :
    cancelCmd s id e = wake ((cancelSlot ((s.setCtx id (c.updCmd e Cmd.cancelled)).endCRecs fun r => decide (r.ctx = id ∧ r.entry = k.seq)) id k).updCtx id
      (Ctx.without k)) id := by
  have hupd : s.updCmd id e (fun k => { k with st := .done, cause := Cause.cancelled }) = s.setCtx id (c.updCmd e Cmd.cancelled) := State.updCtx_eq hc _
  have hnone : (s.setCtx id (c.updCmd e Cmd.cancelled)).mid.reqs = [] := hreqs
  unfold cancelCmd
  rw [hc]
  dsimp only
  rw [hk]
  dsimp only
  rw [hupd, hnone]
  rfl

namespace State.SparesRegs

variable {id : Nat}

theorem cancelCmd {s : State} (hreqs : s.mid.reqs = []) (e : Nat) : s.SparesRegs id (Machine.cancelCmd s id e) := by
  cases hc : s.ctx id with
  | none =>
    unfold Machine.cancelCmd
    rw [hc]
    exact refl s
  | some c =>
    cases hk : c.cmd e with
    | none =>
      unfold Machine.cancelCmd
      rw [hc]
      dsimp only
      rw [hk]
      exact refl s
    | some k =>
      rw [cancelCmd_eq hc hk hreqs]
      have hdone : s.SparesRegs id (s.setCtx id (c.updCmd e Cmd.cancelled)) := setCtx hc rfl
      have hpast : (s.setCtx id (c.updCmd e Cmd.cancelled)).SparesRegs id
        ((s.setCtx id (c.updCmd e Cmd.cancelled)).endCRecs fun r => decide (r.ctx = id ∧ r.entry = k.seq)) := of_eq rfl rfl rfl
      exact (((hdone.trans hpast).trans (cancelSlot _ k)).trans (updCtx _ (f := Ctx.without k) fun _ => rfl)).trans (wake _)

theorem cancelOne {s : State} (hreqs : s.mid.reqs = []) (k : Cmd) : s.SparesRegs id (Machine.cancelOne s id k) := by
  unfold Machine.cancelOne
  split
  · exact refl s
  · next c hc =>
    split
    · exact setCtx hc rfl
    · exact cancelCmd hreqs k.entry

theorem foldl_cancelOne {s : State} (hreqs : s.mid.reqs = []) (l : List Cmd) : s.SparesRegs id (l.foldl (fun s k => Machine.cancelOne s id k) s) := by
  induction l generalizing s with
  | nil => exact refl s
  | cons k l ih =>
    have hone := cancelOne (id := id) hreqs k
    obtain ⟨-, hreqs', -⟩ := hone
    exact (cancelOne hreqs k).trans (ih (hreqs'.trans hreqs))

end State.SparesRegs

/-! ### One command set going again, or cancelled -/

/-- A command that runs again from its first access not performed. -/
def Cmd.replayed (k : Cmd) : Cmd :=
  let unsure (d : DWord) : Bool := cstatOf d = Cstat.indeterminate || cstatOf d = Cstat.partial'
  { k with
    st := if k.begun then .running else .issued
    cause := 0, detail := 0, addr := 0, cword := 0
    todo := k.todo ++ (k.failed.filter (fun f => !unsure f.detail)).map (·.order)
    failed := k.failed.filter (fun f => unsure f.detail), ended := false, sent := !(k.kind.remoteWrite && k.form.sc ≠ 7) }

/-- R356: the commands that a replay leaves as they are. -/
def Cmd.stays (k : Cmd) : Prop := k.st ≠ .faulted ∨ (k.cause = 0x0F ∧ k.cword.toNat / 2 ^ 32 % 16 = 2)

theorem replayCmd_of_stays {s : State} {id : Nat} {k : Cmd} (h : k.stays) : replayCmd s id k = s := by
  unfold replayCmd
  exact if_pos h

theorem replayCmd_of_faulted {s : State} {id : Nat} {c : Ctx} {k : Cmd} (hc : s.ctx id = some c) (h : ¬ k.stays) :
    replayCmd s id k = wake (s.setCtx id (c.updCmd k.entry Cmd.replayed)) id := by
  have hupd : s.updCmd id k.entry Cmd.replayed = s.setCtx id (c.updCmd k.entry Cmd.replayed) := State.updCtx_eq hc _
  rw [← hupd]
  unfold replayCmd
  exact if_neg h

theorem Cmd.status_replayed (k : Cmd) : k.replayed.status = BitVec.ofNat 64 (2 ^ 62) := by
  rw [Cmd.status_eq]
  unfold Cmd.replayed
  cases k.begun <;> simp

theorem cancelOne_eq {s : State} {id : Nat} {c : Ctx} {k : Cmd} (hc : s.ctx id = some c) (hagain : c.xf.again = []) (hk : c.cmd k.entry = some k)
    (hreqs : s.mid.reqs = []) (hslot : k.ringSlot = none) (hkind : k.kind ≠ .cpym) :
    cancelOne s id k = wake (((s.setCtx id (c.updCmd k.entry Cmd.cancelled)).endCRecs fun r => decide (r.ctx = id ∧ r.entry = k.seq)).setCtx id
      (Ctx.without k (c.updCmd k.entry Cmd.cancelled))) id := by
  have hkept (u : State) : cancelSlot u id k = u := by
    unfold cancelSlot
    dsimp only
    rw [hslot]
    exact if_neg fun h => hkind h.1
  unfold cancelOne
  rw [hc]
  dsimp only
  have hctx : ((s.setCtx id (c.updCmd k.entry Cmd.cancelled)).endCRecs fun r => decide (r.ctx = id ∧ r.entry = k.seq)).ctx id =
    some (c.updCmd k.entry Cmd.cancelled) := s.ctx_setCtx id _
  rw [hagain, if_neg (by simp), cancelCmd_eq hc hk hreqs, hkept, State.updCtx_eq hctx]

/-- What XCAN.cancel does to a command. -/
def cancelLive (s : State) (id : Nat) (k : Cmd) : State := if !k.cancellable then s else cancelOne s id k

theorem Ctx.cmd_of_one {c : Ctx} {k : Cmd} (hk : k ∈ c.xf.log) (h : (c.xf.log.filter (fun x => decide (x.entry = k.entry))).length = 1) :
    c.cmd k.entry = some k := by
  obtain ⟨x, hx⟩ := List.length_eq_one_iff.mp h
  have hmem : k ∈ c.xf.log.filter (fun x => decide (x.entry = k.entry)) := List.mem_filter.mpr ⟨hk, decide_eq_true rfl⟩
  rw [hx, List.mem_singleton] at hmem
  unfold Ctx.cmd
  rw [← List.head?_filter, hx, hmem]
  rfl

section
variable {s : State} {id : Nat} {c : Ctx} (hs : s.Sees id c) {d a : BitVec 6}
include hs

theorem xstatId_reads {w : DWord} (hw : c.statusOf (s.rs c a) = w) : exec (.xstatId d a) s = .next (s.result id c d w) :=
  slotStep_wrS hs.1 (congrArg (s.wrS id d) hw)

/-- XCAN on no command, or on one it leaves as it is. -/
theorem xcanOne_answers_unchanged {act : State → Nat → Cmd → State} {k : Option Cmd} (hk : c.byId (s.rs c a) = k) (hact : ∀ x ∈ k, act s id x = s) :
    ∃ t z, xcanOne s d a act = .next t ∧ t.ctx id = some z ∧ z.regs = s.after (c.regs.setS d (k.elim 0 Cmd.status)) ∧ t.mem = s.mem := by
  refine xcanOne_answers hs (u := s) hk ?_ rfl rfl hs.ctx_eq rfl (by rw [Ctx.statusOf, hk])
  cases k with
  | none => rfl
  | some x => exact hact x rfl

variable {k : Cmd} (hk : c.byId (s.rs c a) = some k) (hagain : c.xf.again = [])
include hk hagain

theorem xcanReplay_answers (hstays : ¬ k.stays) :
    ∃ t z, exec (.xcanReplay d a) s = .next t ∧ t.ctx id = some z ∧ z.regs = s.after (c.regs.setS d (BitVec.ofNat 64 (2 ^ 62))) ∧ t.mem = s.mem := by
  have hstatus : (c.updCmd k.entry Cmd.replayed).statusOf (s.rs c a) = BitVec.ofNat 64 (2 ^ 62) := by
    unfold Ctx.statusOf
    rw [Ctx.byId_of_map (x := c.updCmd k.entry Cmd.replayed) (g := Cmd.replayed) (fun _ => rfl) hagain rfl hagain hk rfl]
    exact k.status_replayed
  refine xcanOne_answers hs hk (replayCmd_of_faulted hs.ctx_eq hstays) (wake_issue _ _) (wake_mem _ _) (x := c.updCmd k.entry Cmd.replayed) ?_ rfl hstatus
  exact (wake_ctx _ _ _).trans (s.ctx_setCtx id _)

theorem xcanCancel_answers (hlive : k.st ≠ .done) (hentry : c.cmd k.entry = some k) (hslot : k.ringSlot = none) (hkind : k.kind ≠ .cpym)
    (hreqs : s.mid.reqs = []) :
    ∃ t z, exec (.xcanCancel d a) s = .next t ∧ t.ctx id = some z ∧
      z.regs = s.after (c.regs.setS d (BitVec.ofNat 64 (2 * 2 ^ 62 + 0x26 * 2 ^ 48 + k.cword.toNat % 2 ^ 48))) ∧ t.mem = s.mem := by
  have hcancel := cancelOne_eq hs.ctx_eq hagain hentry hreqs hslot hkind
  have hact : cancelLive s id k = _ := (if_neg (by simpa [Cmd.cancellable] using hlive)).trans hcancel
  have hstatus : (Ctx.without k (c.updCmd k.entry Cmd.cancelled)).statusOf (s.rs c a) =
      BitVec.ofNat 64 (2 * 2 ^ 62 + 0x26 * 2 ^ 48 + k.cword.toNat % 2 ^ 48) := by
    unfold Ctx.statusOf
    rw [Ctx.byId_of_map (x := Ctx.without k (c.updCmd k.entry Cmd.cancelled)) (g := Cmd.cancelled) (fun _ => rfl) hagain rfl hagain hk rfl]
    exact k.cancelled.status_eq
  refine xcanOne_answers hs (act := cancelLive) hk hact (wake_issue _ _) (wake_mem _ _) (x := Ctx.without k (c.updCmd k.entry Cmd.cancelled)) ?_ rfl hstatus
  exact (wake_ctx _ _ _).trans (State.ctx_setCtx _ id _)

end

/-- Settles O32: at issue by the outcomes of `xfrIssue` for each instruction of the table; XSTAT and XCAN by what their action leaves of the command named. -/
theorem commands : Obligations.Commands := by
  refine ⟨?_, ?_⟩
  · intro s id c hd ha t u cc sc ct tgt n e hs habsorbs hmark D A table
    have hnot : (if descRanked (c.eng.tissue.val 0 t.toNat) then none else some t.toNat) =
        if !descRanked (c.eng.tissue.val 0 t.toNat) then some t.toNat else none := by
      cases descRanked (c.eng.tissue.val 0 t.toNat) <;> rfl
    have htable : ∀ e ∈ table, ∃ f, IsXferOp s c cc e.1 e.2.1 e.2.2.1 e.2.2.2.1 e.2.2.2.2.1 e.2.2.2.2.2 f := by
      simp only [table, List.forall_mem_cons]
      exact ⟨isXferOp_of_handles s c hd ha cc .cpy rfl rfl rfl rfl rfl rfl, isXferOp_of_handles s c hd ha cc .cpym rfl rfl rfl rfl rfl rfl,
        isXferOp_of_handles s c hd ha cc .cpys rfl rfl rfl rfl rfl rfl, isXferOp_of_handles s c hd ha cc .gath rfl rfl rfl rfl rfl rfl,
        isXferOp_of_handles s c hd ha cc .scat rfl rfl rfl rfl rfl rfl, isXferOp_of_handles s c hd ha cc .rst rfl rfl rfl rfl rfl rfl,
        isXferOp_of_handles s c hd ha cc .rld rfl rfl rfl rfl rfl rfl, isXferOp_of_handles s c hd ha cc .ramo rfl rfl rfl rfl rfl rfl,
        isXferOp_of_handles s c hd ha cc .rred rfl rfl rfl rfl rfl rfl, isXferOp_of_handles s c hd ha cc .rmcast rfl rfl rfl rfl rfl rfl,
        isXferOp_of_handles s c hd ha cc .cntx rfl rfl rfl rfl rfl rfl, isXferOp_of_handles s c hd ha cc .disp rfl rfl rfl rfl rfl rfl,
        isXferOp_of_tile s c hd t cc .drain false rfl rfl rfl rfl rfl (tileChecks_drain s c t cc _ _ _ _),
        isXferOp_of_tile s c hd t cc .drainkSel (descRanked (c.eng.tissue.val 0 t.toNat)) rfl rfl rfl rfl rfl rfl, isXferOp_drainkMerge s c t u cc sc,
        isXferOp_of_tile s c hd t cc .rmergeCx (!descRanked (c.eng.tissue.val 0 t.toNat)) rfl rfl rfl rfl hnot rfl,
        isXferOp_of_tile s c hd t cc .rmergeSw (!descRanked (c.eng.tissue.val 0 t.toNat)) rfl rfl rfl rfl hnot rfl,
        isXferOp_post s c cc n, fun _ h => absurd h List.not_mem_nil⟩
    intro i d a stream tiles wrong hmem full flying k0
    obtain ⟨f, hi⟩ : ∃ f, IsXferOp s c cc i d a stream tiles wrong f := htable _ hmem
    have hk0 : k0 = newCmd s c e i f (s.rs c cc) := by
      dsimp only [k0]
      rw [hi.xform, Option.getD_some]
    have hkind : k0.kind = f.kind := hk0 ▸ newCmd_kind s c e (s.rs c cc) hi.xform
    have hlanded (h : ∀ j ∈ tiles, ¬ flying j) : tiles.find? (fun j => c.inFlight j) = none :=
      List.find?_eq_none.mpr fun j hj hfly => h j hj (Ctx.inFlight_iff.mp hfly)
    exact ⟨fun hfull => hi.stalls hs hfull, fun j hroom hfree hj => hi.exec_inFlight hs habsorbs hroom hfree hj,
      fun j hroom hfree hland hj => hi.exec_wrongMode hs habsorbs hroom hfree (hlanded hland) hj,
      fun hroom hfree hland hwrong hcpym => hi.files hs habsorbs hroom hfree (hlanded hland) hmark hwrong fun hk => hk0 ▸ hcpym (hkind.trans hk)⟩
  · intro s id c d a hs v named word all reads answers
    have hword (k : Cmd) : word k = k.status := k.status_eq.symm
    refine ⟨fun hnone => ?_, fun k hone => ?_, slotStep_wrS hs.1 (congrArg (fun c : Ctx => s.wrS id d (BitVec.ofNat 64 c.xf.lastId)) hs.was_eq), fun hreqs => ?_⟩
    · have hk : c.byId v = none := Ctx.byId_of_none hnone
      exact ⟨xstatId_reads hs (by rw [Ctx.statusOf, hk]; rfl), xcanOne_answers_unchanged hs (act := cancelLive) hk (by simp),
        xcanOne_answers_unchanged hs (act := replayCmd) hk (by simp)⟩
    · have hk : c.byId v = some k := Ctx.byId_of_filter hone
      have hmem : k ∈ all := (List.mem_filter.mp (hone ▸ List.mem_singleton_self k)).1
      rw [hword]
      refine ⟨xstatId_reads hs (by rw [Ctx.statusOf, hk]; rfl), fun hdone => ?_, fun hstays => ?_,
        fun hagain hlen => ⟨fun hst hsure => ?_, fun hlive hslot hkind hreqs => ?_⟩⟩
      · refine xcanOne_answers_unchanged hs (act := cancelLive) hk fun x hx => ?_
        obtain rfl := Option.some.inj hx
        exact if_pos (by rw [Cmd.cancellable, hdone]; rfl)
      · refine xcanOne_answers_unchanged hs (act := replayCmd) hk fun x hx => ?_
        obtain rfl := Option.some.inj hx
        exact replayCmd_of_stays hstays
      · exact xcanReplay_answers hs hk hagain fun h => h.elim (fun h => h hst) hsure
      · have hlog : k ∈ c.xf.log := by rwa [show all = c.xf.log by rw [← List.append_nil c.xf.log, ← hagain]] at hmem
        exact xcanCancel_answers hs hk hagain hlive (Ctx.cmd_of_one hlog hlen) hslot hkind hreqs
    · obtain ⟨hissue, -, hkeeps⟩ := State.SparesRegs.foldl_cancelOne (id := id) hreqs (all.filter Cmd.cancellable)
      obtain ⟨x, hx, hregs⟩ := hkeeps c hs.ctx_eq
      obtain ⟨t, z, hexec, hz, hzregs, -⟩ := slotStep_answers hs (d := d) (o := exec (.xcanAll d) s) rfl rfl hissue hx hregs
      exact ⟨t, z, hexec, hz, hzregs⟩

end Sys2Proof.Machine
end

section
/-! PROOF. Steps of the transfer engine for a command of a resident task, and the rollback of a phase (O33). -/

namespace Sys2Proof.Machine

/-! ### Steps that only ask for others -/

/-- From `s` to `t` nothing changes but that further steps may have become due. -/
def State.Asks (s t : State) : Prop := ∃ a, t = { s with agenda := a } ∧ s.agenda ⊆ a

namespace State.Asks

theorem refl (s : State) : s.Asks s := ⟨s.agenda, rfl, List.Subset.refl _⟩

theorem trans {s t u : State} (h : s.Asks t) (h' : t.Asks u) : s.Asks u := by
  obtain ⟨a, rfl, ha⟩ := h
  obtain ⟨b, rfl, hb⟩ := h'
  exact ⟨b, rfl, List.Subset.trans ha hb⟩

theorem push (s : State) (delay subj : Nat) (e : Instr) : s.Asks (s.push delay subj e) := ⟨_, rfl, List.subset_append_left _ _⟩

theorem pushOnce (s : State) (delay subj : Nat) (e : Instr) : s.Asks (s.pushOnce delay subj e) := by
  unfold State.pushOnce
  split
  · exact refl s
  · exact push s delay subj e

theorem wake (s : State) (id : Nat) : s.Asks (Machine.wake s id) := pushOnce s 0 id .commandStart

theorem foldl {α : Type} {f : State → α → State} (hf : ∀ (s : State) (a : α), s.Asks (f s a)) (l : List α) (s : State) : s.Asks (l.foldl f s) := by
  induction l generalizing s with
  | nil => exact refl s
  | cons a l ih => exact (hf s a).trans (ih (f s a))

theorem ctx {s t : State} (h : s.Asks t) (id : Nat) : t.ctx id = s.ctx id := by
  obtain ⟨a, rfl, -⟩ := h
  rfl

theorem mem {s t : State} (h : s.Asks t) : t.mem = s.mem := by
  obtain ⟨a, rfl, -⟩ := h
  rfl

theorem mid {s t : State} (h : s.Asks t) : t.mid = s.mid := by
  obtain ⟨a, rfl, -⟩ := h
  rfl

theorem due {s t : State} (h : s.Asks t) {subj : Nat} {i : Instr} (hdue : s.due subj i) : t.due subj i := by
  obtain ⟨a, rfl, ha⟩ := h
  exact hdue.imp fun _ hmem => ha hmem

/-- A step that becomes due for one element of a list, whatever was asked for before it, is due in the end. -/
theorem due_foldl {α : Type} {f : State → α → State} (hf : ∀ (s : State) (a : α), s.Asks (f s a)) {l : List α} {a : α} (ha : a ∈ l) {s : State}
    {subj : Nat} {i : Instr} (hdue : ∀ t, s.Asks t → (f t a).due subj i) : (l.foldl f s).due subj i := by
  induction l generalizing s with
  | nil => exact absurd ha List.not_mem_nil
  | cons b l ih =>
    obtain rfl | htail := List.mem_cons.mp ha
    · exact (foldl hf l (f s a)).due (hdue s (refl s))
    · exact ih htail fun t ht => hdue t ((hf s b).trans ht)

end State.Asks

/-! ### What ends a command becomes due -/

/-- What becomes due for the end of one command. -/
def endingOf (id : Nat) (c : Ctx) (s : State) (k : Cmd) : State :=
  if s.reports id c k then s.pushOnce 0 id (.commandFault id k.entry)
  else if s.finished id k then
    let b := hBuf k.hd
    if k.reported.isSome then s.pushOnce 0 id (.commandFault id k.entry)
    else if k.endsInStream && c.eng.ms.any (fun m => decide (m.cmd = some k.seq)) then s
    else match k.ringSlot with
      | some q => s.pushOnce 0 id (.ringSlotLanded id b q)
      | none => if k.kind.fills && k.wantsSlot b then s else s.pushOnce 0 id (.commandComplete id k.entry)
  else s

theorem endings_eq {s : State} {id : Nat} {c : Ctx} (hctx : s.ctx id = some c) : endings s id = c.xf.log.foldl (endingOf id c) s := by
  unfold endings
  rw [hctx]
  rfl

theorem endingOf_asks (id : Nat) (c : Ctx) (s : State) (k : Cmd) : s.Asks (endingOf id c s k) := by
  unfold endingOf
  dsimp only
  by_cases hr : s.reports id c k = true
  · rw [if_pos hr]
    exact .pushOnce s _ _ _
  · rw [if_neg hr]
    by_cases hf : s.finished id k = true
    · rw [if_pos hf]
      split
      · exact .pushOnce s _ _ _
      · split
        · exact .refl s
        · split
          · exact .pushOnce s _ _ _
          · split
            · exact .refl s
            · exact .pushOnce s _ _ _
    · rw [if_neg hf]
      exact .refl s

theorem endings_asks (s : State) (id : Nat) : s.Asks (endings s id) := by
  unfold endings
  split
  · exact .refl s
  · next c hctx => exact .foldl (endingOf_asks id c) _ s

theorem endings_due {s : State} {id : Nat} {c : Ctx} {k : Cmd} {i : Instr} (hctx : s.ctx id = some c) (hk : k ∈ c.xf.log)
    (hdue : ∀ t, s.Asks t → (endingOf id c t k).due id i) : (endings s id).due id i := by
  rw [endings_eq hctx]
  exact State.Asks.due_foldl (endingOf_asks id c) hk hdue

theorem claims_asks (s : State) (id : Nat) : s.Asks (claims s id) := by
  unfold claims
  split
  · exact .refl s
  · next c _ =>
    refine .foldl (fun s b => ?_) _ s
    split
    · exact .pushOnce s _ _ _
    · exact .refl s

/-- Whether a command of a task is quiet, finished, or to be reported, is a matter of the Midfield die and of the task. -/
theorem State.Asks.quiet {s t : State} (h : s.Asks t) (id : Nat) (k : Cmd) : t.quiet id k = s.quiet id k := by
  obtain ⟨a, rfl, -⟩ := h
  rfl

theorem endingOf_reports {s : State} {id : Nat} {c : Ctx} {k : Cmd} (h : s.reports id c k = true) :
    endingOf id c s k = s.pushOnce 0 id (.commandFault id k.entry) := if_pos h

theorem endingOf_finished {s : State} {id : Nat} {c : Ctx} {k : Cmd} (hcause : k.cause = 0) (hfin : s.finished id k = true) (hfailed : k.failed = [])
    (hstream : k.endsInStream = false) (hslot : k.ringSlot = none) (hring : hRing k.hd = false) :
    endingOf id c s k = s.pushOnce 0 id (.commandComplete id k.entry) := by
  have hreports : s.reports id c k = false := by simp [State.reports, hcause]
  have hreported : k.reported = none := by
    unfold Cmd.reported
    rw [hfailed]
    rfl
  have hwants : (k.kind.fills && k.wantsSlot (hBuf k.hd)) = false := by simp [Cmd.wantsSlot, hring]
  unfold endingOf
  dsimp only
  rw [hreports, if_neg Bool.false_ne_true, if_pos hfin, hreported, Option.isSome_none, if_neg Bool.false_ne_true, hstream, Bool.false_and,
    if_neg Bool.false_ne_true, hslot]
  dsimp only
  rw [hwants, if_neg Bool.false_ne_true]

/-! ### A step for a command of a resident task -/

/-- What a step for command `k` of task `id` leaves: the command as `f` makes it, the task's registers, and the memory of `s1`. -/
def State.StepsCmd (s : State) (id : Nat) (c : Ctx) (k : Cmd) (i : Instr) (s1 : State) (f : Cmd → Cmd) (post : State → Ctx → Prop) : Prop :=
  ∃ t x, exec i s = .next t ∧ t.ctx id = some x ∧ f k ∈ x.xf.log ∧ x.regs = c.regs ∧ t.mem = s1.mem ∧ post t x

theorem Ctx.mem_updCmd {c : Ctx} {k : Cmd} (hk : k ∈ c.xf.log) (f : Cmd → Cmd) : f k ∈ (c.updCmd k.entry f).xf.log :=
  List.mem_map.mpr ⟨k, hk, if_pos rfl⟩

theorem syncXf_of_here {s : State} {id : Nat} {c : Ctx} (hctx : s.ctx id = some c) (haway : c.away = false) (e : Nat) : syncXf s id e = s := by
  unfold syncXf
  rw [syncImage_of_here hctx haway, syncHidden_of_here hctx haway]

theorem State.updCmd_eq {s : State} {id : Nat} {c : Ctx} (hctx : s.ctx id = some c) (e : Nat) (f : Cmd → Cmd) :
    s.updCmd id e f = s.setCtx id (c.updCmd e f) := State.updCtx_eq hctx _

section
variable {s : State} {id : Nat} {c : Ctx} {k : Cmd} (hk : k ∈ c.xf.log)
include hk

/-- A step that changes a command of the task and asks for others. -/
theorem stepsCmd_of_updCmd {s1 t : State} {i : Instr} {f : Cmd → Cmd} {post : State → Ctx → Prop} (hexec : exec i s = .next t) {x : Ctx}
    (hlog : x.xf.log = c.xf.log) (hregs : x.regs = c.regs) (hasks : (s1.setCtx id (x.updCmd k.entry f)).Asks t)
    (hpost : post t (x.updCmd k.entry f)) : s.StepsCmd id c k i s1 f post :=
  ⟨t, _, hexec, (hasks.ctx id).trans (s1.ctx_setCtx id _), Ctx.mem_updCmd (hlog ▸ hk) f, hregs, hasks.mem, hpost⟩

end

/-! ### COMMAND_START of one command (R350, R351) -/

theorem refile_of_none {s : State} {id : Nat} {c : Ctx} (hctx : s.ctx id = some c) (hagain : c.xf.again = []) : refile s id = s := by
  refine List.foldl_fixed' (fun _ => ?_) _
  unfold refileOne
  rw [hctx]
  dsimp only
  rw [hagain]

theorem issueFired_of_none {s : State} {id : Nat} {c : Ctx} (hctx : s.ctx id = some c) (hfired : c.xf.fired = []) : issueFired s id = s := by
  refine List.foldl_fixed' (fun _ => ?_) _
  unfold issueFiredOne
  rw [hctx]
  dsimp only
  rw [hfired, ite_self]

/-- A command that has started with a plan. -/
def Cmd.started (plan : List (List DWord)) (k : Cmd) : Cmd := { k with st := .running, begun := true, plan := plan }

/-- A command that has started with no element, and so has ended. -/
def Cmd.emptied (k : Cmd) : Cmd := { k with st := .running, begun := true, ended := true, sent := true }

/-- A command that meets a failure, unless it has met one before. -/
def Cmd.failing (cause ad : Nat) (dt : DWord) (k : Cmd) : Cmd := if k.cause = 0 then { k with cause := cause, addr := ad, detail := dt } else k

/-- A command of a task on a core is changed there alone. -/
theorem updCmd_synced {s : State} {id : Nat} {c : Ctx} (hctx : s.ctx id = some c) (haway : c.away = false) (e : Nat) (f : Cmd → Cmd) :
    syncHidden (s.updCmd id e f) id (0xA000 + 256 * e) 256 = s.setCtx id (c.updCmd e f) := by
  rw [State.updCmd_eq hctx]
  exact syncHidden_of_here (c := c.updCmd e f) (s.ctx_setCtx id _) haway _ _

/-- The oldest command that can act has no cause of failure. -/
theorem cause_of_actors {c : Ctx} {k : Cmd} (hactors : c.actors = [k]) : k.cause = 0 := by
  have hmem : k ∈ c.actors := hactors ▸ List.mem_singleton_self k
  have hact : c.mayAct k = true := (List.mem_filter.mp hmem).2
  unfold Ctx.mayAct at hact
  simp only [Bool.and_eq_true, decide_eq_true_iff] at hact
  exact hact.1.1

/-- Whether the transfer engine of a task has more to do. -/
def Ctx.hasMore (c : Ctx) : Bool := !c.actors.isEmpty || !c.xf.again.isEmpty || (c.coreNo.isSome && !c.xf.fired.isEmpty)

section
variable {s : State} {id : Nat} {c : Ctx} {k : Cmd} (hctx : s.ctx id = some c) (hsubj : s.subj = id) (hagain : c.xf.again = [])
  (hfired : c.xf.fired = []) (hactors : c.actors = [k]) (hst : k.st = .issued)
include hctx hsubj hagain hfired hactors hst

theorem execCommandStart_eq {u v : State} (hstart : startCmd s id c k = some u) (hv : claims (endings u id) id = v) :
    exec .commandStart s = .next (if (v.ctx id).any Ctx.hasMore then v.pushOnce 1 id .commandStart else v) := by
  have hact : actFirst id c [k] s = u := by
    unfold actFirst
    rw [if_pos hst, hstart]
  change execCommandStart s = _
  unfold execCommandStart
  rw [hsubj]
  dsimp only
  rw [refile_of_none hctx hagain, issueFired_of_none hctx hfired, hctx]
  dsimp only
  simp only [hactors, List.length_singleton, lt_irrefl, if_false, List.drop_zero, List.take_zero, List.append_nil, hact, hv]
  rfl

theorem commandStart_asks {u : State} (hstart : startCmd s id c k = some u) :
    ∃ t, exec .commandStart s = .next t ∧ (endings u id).Asks t := by
  refine ⟨_, execCommandStart_eq hctx hsubj hagain hfired hactors hst hstart rfl, (claims_asks (endings u id) id).trans ?_⟩
  split
  · exact .pushOnce _ _ _ _
  · exact .refl _

variable (hk : k ∈ c.xf.log)
include hk

theorem commandStart_goes {s1 : State} {k1 : Cmd} (haway : c.away = false) (hbegin : beginCmd s id c k = .go s1 k1) (hctx1 : s1.ctx id = some c) :
    s.StepsCmd id c k .commandStart s1 (Cmd.started k1.plan) fun _ _ => True := by
  have hstart : startCmd s id c k = some (s1.setCtx id (c.updCmd k.entry (Cmd.started k1.plan))) := by
    unfold startCmd
    rw [hbegin]
    exact congrArg some (updCmd_synced hctx1 haway k.entry (Cmd.started k1.plan))
  obtain ⟨t, hexec, hasks⟩ := commandStart_asks hctx hsubj hagain hfired hactors hst hstart
  exact stepsCmd_of_updCmd hk hexec (x := c) rfl rfl ((endings_asks _ id).trans hasks) trivial

theorem commandStart_ends (haway : c.away = false) (hbegin : beginCmd s id c k = .empty) (htodo : k.todo = []) (hgot : k.got = [])
    (hfailed : k.failed = []) (hquiet : s.quiet id k = true) (hstream : k.endsInStream = false) (hslot : k.ringSlot = none) (hring : hRing k.hd = false) :
    s.StepsCmd id c k .commandStart s Cmd.emptied fun t _ => t.due id (.commandComplete id k.entry) := by
  have hstart : startCmd s id c k = some (s.setCtx id (c.updCmd k.entry Cmd.emptied)) := by
    unfold startCmd
    rw [hbegin]
    exact congrArg some (updCmd_synced hctx haway k.entry Cmd.emptied)
  obtain ⟨t, hexec, hasks⟩ := commandStart_asks hctx hsubj hagain hfired hactors hst hstart
  have hcause : k.cause = 0 := cause_of_actors hactors
  refine stepsCmd_of_updCmd hk hexec (x := c) rfl rfl ((endings_asks _ id).trans hasks) (hasks.due ?_)
  refine endings_due (s.ctx_setCtx id _) (Ctx.mem_updCmd hk _) fun u hu => ?_
  have hfin : u.finished id k.emptied = true := by
    have hq : u.quiet id k.emptied = true := (hu.quiet id _).trans hquiet
    unfold State.finished
    rw [hq]
    simp [Cmd.emptied, hcause, htodo, hgot]
  rw [endingOf_finished (k := k.emptied) hcause hfin hfailed hstream hslot hring]
  exact State.due_pushOnce _ _ _ _

theorem commandStart_fails {cause ad : Nat} {dt : DWord} (hbegin : beginCmd s id c k = .bad cause ad dt) (hroom : cause ≠ 0x20) :
    s.StepsCmd id c k .commandStart s (fun k => { k with cause := cause, addr := ad, detail := dt })
      fun t _ => t.due id (.commandFault id k.entry) := by
  have hcause : k.cause = 0 := cause_of_actors hactors
  have hstart : startCmd s id c k =
      some ((s.setCtx id (c.updCmd k.entry (Cmd.failing cause ad dt))).push 0 id (.commandFault id k.entry)) := by
    unfold startCmd
    rw [hbegin]
    dsimp only
    rw [if_neg (show ¬ cause = Cause.ringOverrun from hroom)]
    exact congrArg (fun u : State => some (u.push 0 id (.commandFault id k.entry))) (State.updCmd_eq hctx _ _)
  obtain ⟨t, hexec, hasks⟩ := commandStart_asks hctx hsubj hagain hfired hactors hst hstart
  have hpush := State.Asks.push (s.setCtx id (c.updCmd k.entry (Cmd.failing cause ad dt))) 0 id (.commandFault id k.entry)
  obtain ⟨t, x, hexec, hx, hlog, hrest⟩ := stepsCmd_of_updCmd hk hexec (x := c) (post := fun t _ => t.due id (.commandFault id k.entry)) rfl rfl
    ((hpush.trans (endings_asks _ id)).trans hasks) (((endings_asks _ id).trans hasks).due (State.due_push _ _ _ _))
  rw [Cmd.failing, if_pos hcause] at hlog
  exact ⟨t, x, hexec, hx, hlog, hrest⟩

end

/-! ### Slots of rings, completions, faults (R54, R55, R353, R386) -/

section
variable {s : State} {id : Nat} {c : Ctx} {k : Cmd} (hctx : s.ctx id = some c) (haway : c.away = false) (hk : k ∈ c.xf.log)
include hctx haway hk

theorem ringClaim_claims {buf : Nat} (hleast : leastBy (·.seq) (c.xf.log.filter (fun k => k.wantsSlot buf)) = some k) (hmode : (c.buf buf).mode = 3)
    (hfree : (c.buf buf).claimed + (c.buf buf).held < (c.buf buf).nslot) :
    s.StepsCmd id c k (.ringClaim id buf) s
      (fun k => { k with ringSlot := some (((c.buf buf).head + (c.buf buf).claimed) % (c.buf buf).nslot) })
      fun _ x => (x.buf buf).claimed = (c.buf buf).claimed + 1 := by
  let x : Ctx := { c with bufs := c.bufs.set buf (c.buf buf).claim.2 }
  let f (k : Cmd) : Cmd := { k with ringSlot := some (((c.buf buf).head + (c.buf buf).claimed) % (c.buf buf).nslot) }
  have hupd : (s.setCtx id x).updCmd id k.entry f = s.setCtx id (x.updCmd k.entry f) :=
    (State.updCmd_eq (s.ctx_setCtx id x) _ _).trans (congrArg (fun l => ({ s with ctxs := l } : State)) (Tab.set_set _ _ _ _))
  have hsync : syncBuf ((s.setCtx id x).updCmd id k.entry f) id buf = (s.setCtx id x).updCmd id k.entry f :=
    syncImage_of_here (c := x.updCmd k.entry f) (hupd ▸ s.ctx_setCtx id _) haway _ _
  have hexec : exec (.ringClaim id buf) s = .next (wake (s.setCtx id (x.updCmd k.entry f)) id) := by
    change execRingClaim id buf s = _
    unfold execRingClaim
    rw [hctx]
    dsimp only
    rw [hleast]
    dsimp only
    rw [if_pos ⟨hmode, decide_eq_true hfree⟩]
    exact congrArg (fun u : State => Host.Outcome.next (wake u id)) (hsync.trans hupd)
  exact stepsCmd_of_updCmd hk hexec (x := x) rfl rfl (State.Asks.wake _ id) (congrArg BufEnt.claimed ((Tab.val_set _ _ _ _ _).trans (if_pos rfl)))

theorem ringSlotLanded_lands {buf slot : Nat}
    (hfind : c.xf.log.find? (fun k => decide (k.ringSlot = some slot ∧ hBuf k.hd = buf) && k.kind.fills && s.finished id k) = some k) :
    s.StepsCmd id c k (.ringSlotLanded id buf slot) s (fun k => k)
      fun t x => slot ∈ (x.buf buf).landed ∧ t.due id (.commandComplete id k.entry) := by
  have hexec : exec (.ringSlotLanded id buf slot) s = .next ((s.setCtx id (c.updBuf buf (·.land slot))).pushOnce 0 id (.commandComplete id k.entry)) := by
    change execRingSlotLanded id buf slot s = _
    unfold execRingSlotLanded
    rw [hctx]
    dsimp only
    rw [hfind]
    exact congrArg (fun u : State => Host.Outcome.next (u.pushOnce 0 id (.commandComplete id k.entry)))
      (syncImage_of_here (c := c.updBuf buf (·.land slot)) (s.ctx_setCtx id _) haway _ _)
  have hasks := State.Asks.pushOnce (s.setCtx id (c.updBuf buf (·.land slot))) 0 id (.commandComplete id k.entry)
  refine ⟨_, _, hexec, (hasks.ctx id).trans (s.ctx_setCtx id _), hk, rfl, hasks.mem, ?_, State.due_pushOnce _ _ _ _⟩
  have hbuf : (c.updBuf buf (·.land slot)).buf buf = (c.buf buf).land slot := (Tab.val_set _ _ _ _ _).trans (if_pos rfl)
  rw [hbuf]
  change slot ∈ if slot ∈ (c.buf buf).landed then (c.buf buf).landed else slot :: (c.buf buf).landed
  split
  · assumption
  · exact List.mem_cons_self

end

/-- A command that is done, with its completion word. -/
def Cmd.completed (k : Cmd) (x : Cmd) : Cmd := { x with st := .done, cword := (k.firstFail.map (·.detail)).getD k.cword, decDone := true }

/-- The barrier that a completion leaves: its count is down, within its range (R303, R353). -/
def Barrier.less (b : Barrier) (n : Nat) : Barrier := { b with count := satCount (b.count - n) }

section
variable {s : State} {id : Nat} {c : Ctx} {k : Cmd} (hctx : s.ctx id = some c) (haway : c.away = false) (hengine : c.loc ≠ .engine) (hcmd : c.cmd k.entry = some k)
include hctx haway hengine hcmd

/-- COMMAND_COMPLETE of a finished command, whose completion target is still to be decremented. -/
theorem execCommandComplete_eq (hfin : s.finished id k = true) (hdec : k.decDone = false) {empty : Bool}
    (hempty : (hEmpty k.hd && k.kind.dHandle && decide (k.kind ≠ .disp) || hEmpty k.ha && k.kind.aHandle) = empty) :
    let u := s.setCtx id (c.updCmd k.entry k.completed)
    exec (.commandComplete id k.entry) s = .next (wake (if k.form.ct = 1 then barDec u id (k.form.tgt % 256) (if empty then 0 else k.amount)
      else if k.form.ct = 2 then nodeDec u c.who.region k.form.tgt else u) id) := by
  have hsync : syncXf (s.updCmd id k.entry k.completed) id k.entry = s.setCtx id (c.updCmd k.entry k.completed) := by
    rw [State.updCmd_eq hctx]
    exact syncXf_of_here (c := c.updCmd k.entry k.completed) (s.ctx_setCtx id _) haway _
  change execCommandComplete id k.entry s = _
  unfold execCommandComplete
  rw [hctx]
  dsimp only
  rw [hcmd]
  dsimp only
  rw [hfin, if_neg (show ¬ true = false by decide), hempty, if_neg hengine, hdec, if_neg Bool.false_ne_true]
  exact congrArg (fun u : State => Host.Outcome.next (wake (if k.form.ct = 1 then barDec u id (k.form.tgt % 256) (if empty then 0 else k.amount)
      else if k.form.ct = 2 then nodeDec u c.who.region k.form.tgt else u) id)) hsync

variable (hk : k ∈ c.xf.log)
include hk

theorem commandComplete_ends (hfin : s.finished id k = true) (hdec : k.decDone = false) (hct : k.form.ct ≠ 1) :
    s.StepsCmd id c k (.commandComplete id k.entry) s k.completed
      fun t _ => k.form.ct = 2 → t.due 0 (.nodeDecrement c.who.region k.form.tgt) := by
  have hexec := execCommandComplete_eq hctx haway hengine hcmd hfin hdec rfl
  dsimp only at hexec
  rw [if_neg hct] at hexec
  by_cases hnode : k.form.ct = 2
  · rw [if_pos hnode] at hexec
    have hwake := State.Asks.wake (nodeDec (s.setCtx id (c.updCmd k.entry k.completed)) c.who.region k.form.tgt) id
    exact stepsCmd_of_updCmd hk hexec (x := c) rfl rfl ((State.Asks.push _ _ _ _).trans hwake) fun _ => hwake.due (State.due_push _ _ _ _)
  · rw [if_neg hnode] at hexec
    exact stepsCmd_of_updCmd hk hexec (x := c) rfl rfl (State.Asks.wake _ _) fun h => absurd h hnode

theorem commandComplete_arrives (hrising : Tab.rising c.xf.bars) (hfin : s.finished id k = true) (hdec : k.decDone = false) (hct : k.form.ct = 1)
    (hidle : (c.bar (k.form.tgt % 256)).armed = false) (hsome : k.kind = .disp ∨ hEmpty k.hd = false) (hsrc : hEmpty k.ha = false) :
    s.StepsCmd id c k (.commandComplete id k.entry) s k.completed fun _ x => (x.bar (k.form.tgt % 256)).count =
      max (-(2 ^ 31)) (min ((c.bar (k.form.tgt % 256)).count - (k.amount : Int)) (2 ^ 31 - 1)) := by
  have hempty : (hEmpty k.hd && k.kind.dHandle && decide (k.kind ≠ .disp) || hEmpty k.ha && k.kind.aHandle) = false := by
    rw [hsrc, Bool.false_and, Bool.or_false]
    obtain hdisp | hd := hsome
    · rw [hdisp, Bool.and_eq_false_iff]
      exact .inr rfl
    · rw [hd]
      rfl
  have hexec := execCommandComplete_eq hctx haway hengine hcmd hfin hdec hempty
  dsimp only at hexec
  rw [if_pos hct] at hexec
  generalize k.form.tgt % 256 = n at hexec hidle ⊢
  let x := c.setBar n ((c.bar n).less k.amount)
  have hbar : x.bar n = (c.bar n).less k.amount := Ctx.bar_setBar_self hrising n _
  have hdown : barDec (s.setCtx id (c.updCmd k.entry k.completed)) id n k.amount = s.setCtx id (x.updCmd k.entry k.completed) := by
    have hupd : (s.setCtx id (c.updCmd k.entry k.completed)).updCtx id (fun c => c.setBar n { c.bar n with count := satCount ((c.bar n).count - k.amount) }) =
        s.setCtx id (x.updCmd k.entry k.completed) :=
      (State.updCtx_eq (s.ctx_setCtx id _) _).trans (congrArg (fun l => ({ s with ctxs := l } : State)) (Tab.set_set _ _ _ _))
    unfold barDec
    rw [hupd]
    exact barCheck_stays (c := x.updCmd k.entry k.completed) (s.ctx_setCtx id _) haway (.inl ((congrArg Barrier.armed hbar).trans hidle))
  rw [if_neg Bool.false_ne_true, hdown] at hexec
  exact stepsCmd_of_updCmd hk hexec (x := x) rfl rfl (State.Asks.wake _ _) (congrArg Barrier.count hbar)

end

/-! ### Records of the fault queue (R386) -/

theorem markFaulted_eq (c : Ctx) (r : FRec) : ∃ log, markFaulted c r = { c with xf := { c.xf with log := log } } := by
  unfold markFaulted
  split
  · exact ⟨_, rfl⟩
  · exact ⟨c.xf.log, rfl⟩

/-- The command that a record of the XFR slot names is faulted, unless it is done. -/
theorem mem_markFaulted {c : Ctx} {r : FRec} {k : Cmd} (hk : k ∈ c.xf.log) (hslot : r.slot = 7) (hid : r.id = k.id) (hentry : k.entry < 160)
    (htag : k.tag < 2 ^ 16) (hst : k.st ≠ .done) : { k with st := .faulted } ∈ (markFaulted c r).xf.log := by
  have he : r.id / 2 ^ 16 = k.entry := by
    rw [hid, Cmd.id]
    omega
  have ht : r.id % 2 ^ 16 = k.tag := by
    rw [hid, Cmd.id]
    omega
  unfold markFaulted
  rw [if_pos ⟨hslot, by omega⟩]
  exact List.mem_map.mpr ⟨k, hk, if_pos ⟨he.symm, ht.symm, hst⟩⟩

/-- The task with a record in its fault queue. -/
def Ctx.posting (c : Ctx) (r : FRec) : Ctx := markFaulted { c with xf := { c.xf with fq := c.xf.fq ++ [r] } } r

theorem Ctx.posting_keeps (c : Ctx) (r : FRec) :
    (c.posting r).regs = c.regs ∧ (c.posting r).away = c.away ∧ (c.posting r).xf.fq = c.xf.fq ++ [r] := by
  obtain ⟨log, hmark⟩ := markFaulted_eq { c with xf := { c.xf with fq := c.xf.fq ++ [r] } } r
  unfold Ctx.posting
  rw [hmark]
  exact ⟨rfl, rfl, rfl⟩

/-- A record in the queue of a task on a core: the task as it stands then, and the trap it asks for. -/
theorem postRecord_of_here {s : State} {id : Nat} {c : Ctx} (hctx : s.ctx id = some c) (haway : c.away = false) (hroom : c.xf.fq.length < 32) (r : FRec) :
    (s.setCtx id (c.posting r)).Asks (postRecord s id r) := by
  obtain ⟨-, hstays, -⟩ := c.posting_keeps r
  have hsync : syncImage (s.setCtx id (c.posting r)) id 0x1800 fqBytes = s.setCtx id (c.posting r) :=
    syncImage_of_here (s.ctx_setCtx id _) (hstays.trans haway) _ _
  unfold postRecord
  rw [hctx]
  dsimp only
  rw [haway, Bool.or_false, Bool.false_and, if_neg Bool.false_ne_true, if_pos hroom]
  unfold Ctx.posting at hsync ⊢
  rw [hsync]
  split
  · exact .push _ _ _ _
  · exact .refl _

/-- A command that reports its failure, with its completion word. -/
def Cmd.reporting (k : Cmd) (x : Cmd) : Cmd :=
  { x with cause := k.cause, addr := k.addr, detail := k.detail, cword := failWord k.cause k.detail }

/-- The record of a failed command. -/
def Cmd.record (k : Cmd) : FRec :=
  { cause := k.cause, pc := k.pc, rel := false, stepf := k.stepf, abs := false, slot := 7, id := k.id, addr := k.addr, detail := k.detail }

section
variable {s : State} {id : Nat} {c : Ctx} {k : Cmd} (hctx : s.ctx id = some c) (hk : k ∈ c.xf.log) (hcmd : c.cmd k.entry = some k)
include hctx hk hcmd

theorem commandFault_posts (haway : c.away = false) (hengine : c.loc ≠ .engine) (hentry : k.entry < 160) (htag : k.tag < 2 ^ 16) (hfailed : k.failed = [])
    (hreports : s.reports id c k = true) (hroom : c.xf.fq.length < 32) :
    ∃ (t : State) (x : Ctx) (r : FRec) (q : Cmd), exec (.commandFault id k.entry) s = .next t ∧ t.ctx id = some x ∧ x.xf.fq = c.xf.fq ++ [r] ∧
      r.slot = 7 ∧ r.cause = k.cause ∧ r.addr = k.addr ∧ r.detail = k.detail ∧ r.pc = k.pc ∧ r.id = k.entry * 2 ^ 16 + k.tag ∧ q ∈ x.xf.log ∧ q.seq = k.seq ∧ q.st = .faulted ∧
      x.regs = c.regs ∧ t.mem = s.mem := by
  have hreported : k.reported = none := by
    unfold Cmd.reported
    rw [hfailed]
    rfl
  have hlive : k.st ≠ .done := by
    intro hdone
    simp [State.reports, hdone] at hreports
  obtain ⟨hregs, hstays, hfq⟩ := (c.updCmd k.entry k.reporting).posting_keeps k.record
  have hasks := postRecord_of_here (s.ctx_setCtx id (c.updCmd k.entry k.reporting)) haway hroom k.record
  have hx := (hasks.ctx id).trans (State.ctx_setCtx _ id _)
  have hmem : { k.reporting k with st := .faulted } ∈ ((c.updCmd k.entry k.reporting).posting k.record).xf.log :=
    mem_markFaulted (Ctx.mem_updCmd hk k.reporting) rfl rfl hentry htag hlive
  have hexec : exec (.commandFault id k.entry) s = .next (postRecord (s.setCtx id (c.updCmd k.entry k.reporting)) id k.record) := by
    change execCommandFault id k.entry s = _
    unfold execCommandFault
    rw [hctx]
    dsimp only
    rw [hcmd]
    dsimp only
    rw [hreported]
    dsimp only
    rw [hreports, if_neg (show ¬ true = false by decide), if_neg hengine, ← State.updCmd_eq hctx k.entry k.reporting]
    refine congrArg Host.Outcome.next (syncXf_of_here (c := (c.updCmd k.entry k.reporting).posting k.record) ?_ (hstays.trans haway) _)
    rw [← State.updCmd_eq hctx] at hx
    exact hx
  exact ⟨_, (c.updCmd k.entry k.reporting).posting k.record, k.record, { k.reporting k with st := .faulted }, hexec, hx, hfq, rfl, rfl, rfl, rfl, rfl, rfl,
    hmem, rfl, rfl, hregs, hasks.mem⟩

/-- A command that an uncorrectable error reaches: a walk error of the present phase is a translation fault. -/
def Cmd.consuming (no : Nat) (x : Cmd) : Cmd :=
  if x.detail ≠ 0 ∧ x.phase = no then { x with cause := Cause.translation } else { x with detail := 0 }

theorem ueAbort_records {e : Nat} (he : k.entry = e) (hentry : e < 160) (hcause : k.cause = 0x25) (hst : k.st = .issued ∨ k.st = .running)
    (hphase : k.phase ≠ c.ph.no) :
    s.StepsCmd id c k (.ueAbortReceive id e) s (fun k => { k with detail := 0 })
      fun t _ => s.quiet id k = true → c.xf.waitq = [] → t.due id (.commandFault id e) := by
  subst he
  have hexec : exec (.ueAbortReceive id k.entry) s = .next (endings (s.setCtx id (c.updCmd k.entry (Cmd.consuming c.ph.no))) id) := by
    change execUeAbortReceive id k.entry s = _
    unfold execUeAbortReceive
    rw [hctx]
    dsimp only
    rw [if_neg (by omega), hcmd]
    dsimp only
    rw [if_neg, if_neg fun h => hphase h.1]
    · exact congrArg (fun u => Host.Outcome.next (endings u id)) (State.updCmd_eq hctx k.entry (Cmd.consuming c.ph.no))
    rintro (h | ⟨hi, hr⟩)
    · exact h hcause
    · exact hst.elim hi hr
  have hfix : k.consuming c.ph.no = { k with detail := 0 } := if_neg fun h => hphase h.2
  obtain ⟨t, x, hexec, hx, hlog, hrest⟩ := stepsCmd_of_updCmd hk hexec (x := c)
    (post := fun t _ => s.quiet id k = true → c.xf.waitq = [] → t.due id (.commandFault id k.entry)) rfl rfl (endings_asks _ id) fun hquiet hwait => by
      refine endings_due (s.ctx_setCtx id _) (Ctx.mem_updCmd hk _) fun u hu => ?_
      rw [hfix]
      have hq : u.quiet id { k with detail := 0 } = true := (hu.quiet id _).trans hquiet
      have hreports : u.reports id (c.updCmd k.entry (Cmd.consuming c.ph.no)) { k with detail := 0 } = true := by
        unfold State.reports
        rw [hq]
        simp [Ctx.updCmd, hst, hcause, hphase, hwait]
      rw [endingOf_reports hreports]
      exact State.due_pushOnce _ _ _ _
  rw [hfix] at hlog
  exact ⟨t, x, hexec, hx, hlog, hrest⟩

end

/-! ### The rollback of a phase (R405, R407, R408) -/

/-- From `s` to `t` commands of task `id` may have found entries again; nothing else of it, of another task or of memory changes. -/
def State.Refiles (id : Nat) (s t : State) : Prop :=
  t.mem = s.mem ∧ (∀ j, j ≠ id → t.ctx j = s.ctx j) ∧
    ∀ c, s.ctx id = some c → ∃ log again, t.ctx id = some { c with xf := { c.xf with log := log, again := again } }

namespace State.Refiles

variable {id : Nat}

theorem refl (s : State) : s.Refiles id s := ⟨rfl, fun _ _ => rfl, fun c hc => ⟨c.xf.log, c.xf.again, hc⟩⟩

theorem trans {s t u : State} (h : s.Refiles id t) (h' : t.Refiles id u) : s.Refiles id u := by
  obtain ⟨hmem, hothers, hself⟩ := h
  obtain ⟨hmem', hothers', hself'⟩ := h'
  refine ⟨hmem'.trans hmem, fun j hj => (hothers' j hj).trans (hothers j hj), fun c hc => ?_⟩
  obtain ⟨log, again, ht⟩ := hself c hc
  obtain ⟨log', again', hu⟩ := hself' _ ht
  exact ⟨log', again', hu⟩

theorem foldl {f : State → Nat → State} (hf : ∀ s a, State.Refiles id s (f s a)) (l : List Nat) (s : State) : s.Refiles id (l.foldl f s) := by
  induction l generalizing s with
  | nil => exact refl s
  | cons a l ih => exact (hf s a).trans (ih (f s a))

theorem setCtx {s : State} {c : Ctx} (hc : s.ctx id = some c) (log again : List Cmd) :
    s.Refiles id (s.setCtx id { c with xf := { c.xf with log := log, again := again } }) := by
  refine ⟨rfl, fun j hj => Tab.look_set_other _ _ hj.symm, fun x hx => ⟨log, again, ?_⟩⟩
  obtain rfl := Option.some.inj (hc.symm.trans hx)
  exact s.ctx_setCtx id _

theorem of_asks {s t : State} (h : s.Asks t) : s.Refiles id t :=
  ⟨h.mem, fun j _ => h.ctx j, fun c hc => ⟨c.xf.log, c.xf.again, (h.ctx id).trans hc⟩⟩

theorem refileOne (s : State) : s.Refiles id (Machine.refileOne s id) := by
  unfold Machine.refileOne
  split
  · exact refl s
  · next c hc =>
    split
    · exact refl s
    · dsimp only
      split
      · exact refl s
      · exact (setCtx hc _ _).trans (of_asks (.wake _ id))

theorem refile (s : State) : s.Refiles id (Machine.refile s id) := foldl (fun s _ => refileOne s) _ s

end State.Refiles

/-- The task that has met an error of its own. -/
def Ctx.erring (c : Ctx) : Ctx := { c with ph := { c.ph with err := true } }

/-- The registers of a task rolled back to its checkpoint; TVEC and the other trap registers stay. -/
def Ctx.backRegs (c : Ctx) : Regs :=
  let ck := c.ph.ck
  { c.regs with
    s := ck.regs.s, h := ck.regs.h, fpctl := ck.regs.fpctl, rngv := ck.regs.rngv, rngp := ck.regs.rngp, rngx := ck.regs.rngx,
    st := ck.regs.st, rptc := 0, pc := ck.pc }

/-- The number of stream operations retired in any run of the phase. -/
def Ctx.retiredOps (c : Ctx) : Nat := max c.ph.markm (c.eng.mcount - c.ph.ck.mcount - c.eng.ms.length)

/-- A task rolled back to its checkpoint, but for its commands and the records that wait. -/
def Ctx.rolledBack (c : Ctx) (log past again : List Cmd) (waitq : List FRec) (seq : Nat) : Ctx :=
  { c with
    regs := c.backRegs
    trapWait := none
    bufs := Tab.each (fun _ b => b.restore) c.bufs
    eng := { c.eng with ms := [], mcount := c.ph.ck.mcount, cur := c.ph.ck.cur, btile := [], tissue := c.ph.ck.tissue }
    xf := { c.xf with waitq := waitq, log := log, past := past, again := again, tagNext := c.ph.ck.tagNext }
    ph := { c.ph with
      window := [], snap := [], op := none, err := false, rbcnt := c.ph.rbcnt + 1, markt := some c.xf.tagNext,
      markm := c.retiredOps, mwords := c.ph.mwords.take c.retiredOps, memq := [], rem := none, seq := seq } }

theorem rollback_eq {s : State} {id : Nat} {c : Ctx} (hctx : s.ctx id = some c) (hnr : c.ph.nr = false) (hcount : c.ph.rbcnt ≠ 2)
    (hreqs : s.mid.reqs = []) : ∃ log past again waitq seq, rollback s id = refile (s.setCtx id (c.rolledBack log past again waitq seq)) id := by
  unfold rollback
  rw [hctx]
  dsimp only
  rw [hnr, if_neg Bool.false_ne_true, if_neg hcount, hreqs]
  dsimp only [List.filter_nil, List.foldl_nil]
  rw [hctx]
  exact ⟨_, _, _, _, _, rfl⟩

theorem rollback_notRestartable {s : State} {id : Nat} {c : Ctx} (hctx : s.ctx id = some c) (hnr : c.ph.nr = true) :
    rollback s id = s.fatal id Cause.notRestartable 0 := by
  unfold rollback
  rw [hctx]
  exact if_pos hnr

theorem rollback_limit {s : State} {id : Nat} {c : Ctx} (hctx : s.ctx id = some c) (hnr : c.ph.nr = false) (hcount : c.ph.rbcnt = 2) :
    rollback s id = s.fatal id Cause.rollbackLimit 0 := by
  unfold rollback
  rw [hctx]
  dsimp only
  rw [hnr, if_neg Bool.false_ne_true]
  exact if_pos hcount

theorem execUeAbortReceive_rolls {s : State} {id n : Nat} {c : Ctx} (hctx : s.ctx id = some c) (hcore : c.coreNo = some n) (hover : c.isOver = false)
    (holder : c.olderStream = false) : exec (.ueAbortReceive id 0xFF) s = .next (rollback (s.setCtx id c.erring) id) := by
  have herr : s.updCtx id Ctx.erring = s.setCtx id c.erring := State.updCtx_eq hctx _
  change execUeAbortReceive id 0xFF s = _
  unfold execUeAbortReceive
  rw [hctx]
  dsimp only
  rw [if_pos rfl]
  unfold consumeUe
  rw [hctx]
  dsimp only
  rw [hcore]
  dsimp only
  rw [hover, if_neg Bool.false_ne_true, holder, if_neg Bool.false_ne_true, ← herr]
  rfl

/-- Settles O33: each step changes the command in its entry and asks for others; a rollback leaves the checkpoint, and then only moves commands
to entries. -/
theorem commandStepsAndRollback : Obligations.CommandStepsAndRollback := by
  refine ⟨?_, ?_⟩
  · intro s s1 id c k k1 cause ad buf slot dt hctx haway hengine hk hone hcmd hentry htag hrising e steps
    refine ⟨fun hsubj hagain hfired hactors hst => ⟨fun hbegin hctx1 => ?_, fun hbegin htodo hgot hfailed hquiet hstream hslot hring => ?_,
      fun hbegin hroom => ?_⟩, fun hleast hmode hfree => ringClaim_claims hctx haway hk hleast hmode hfree, fun hfind => ringSlotLanded_lands hctx haway hk hfind,
      fun hfin hdec => ⟨fun hct => commandComplete_ends hctx haway hengine hcmd hk hfin hdec hct, fun hct hidle hsome hsrc =>
        commandComplete_arrives hctx haway hengine hcmd hk hrising hfin hdec hct hidle hsome hsrc⟩,
      fun hfailed hreports hroom => commandFault_posts hctx hk hcmd haway hengine hentry htag hfailed hreports hroom,
      fun hcause hst hphase => ueAbort_records hctx hk hcmd rfl hentry hcause hst hphase⟩
    · exact commandStart_goes hctx hsubj hagain hfired hactors hst hk haway hbegin hctx1
    · exact commandStart_ends hctx hsubj hagain hfired hactors hst hk haway hbegin htodo hgot hfailed hquiet hstream hslot hring
    · exact commandStart_fails hctx hsubj hagain hfired hactors hst hk hbegin hroom
  · intro s id n c hctx hcore hover holder ck r back
    have hexec := execUeAbortReceive_rolls hctx hcore hover holder
    refine ⟨fun hnr hcount hreqs => ?_, fun hnr => ?_, fun hnr hcount => ?_⟩
    · obtain ⟨log, past, again, waitq, seq, hback⟩ := rollback_eq (s.ctx_setCtx id c.erring) hnr hcount hreqs
      obtain ⟨hmem, hothers, hself⟩ := State.Refiles.refile (id := id) ((s.setCtx id c.erring).setCtx id (c.erring.rolledBack log past again waitq seq))
      obtain ⟨log', again', hx⟩ := hself _ (State.ctx_setCtx _ id _)
      rw [hback] at hexec
      refine ⟨_, _, hexec, hx, rfl, rfl, rfl, rfl, rfl, rfl, rfl, rfl, rfl, rfl, rfl, rfl, rfl, rfl, hmem, fun j hj => ?_⟩
      exact (hothers j hj).trans ((Tab.look_set_other _ _ hj.symm).trans (Tab.look_set_other _ _ hj.symm))
    · rw [rollback_notRestartable (s.ctx_setCtx id c.erring) hnr] at hexec
      exact ⟨_, hexec, State.due_push _ _ _ _⟩
    · rw [rollback_limit (s.ctx_setCtx id c.erring) hnr hcount] at hexec
      exact ⟨_, hexec, State.due_push _ _ _ _⟩

end Sys2Proof.Machine
end
